-- ==== Sys2Proof/Word.lean ====
section
/-! DEFINITION. The word and byte types of the part (R9, R664). -/

namespace Sys2Proof

/-- A register word: registers are 32 bits wide (R664). -/
abbrev Word := BitVec 32

/-- One byte of a record, stored little-endian (R9). -/
abbrev Byte := BitVec 8

end Sys2Proof
end

