-- ==== Sys2Proof/Machine/Data.lean ====
section
/-! DEFINITION. Plain data helpers: sorted maps, byte lists, bit fields, integers. No rule of the spec by itself. -/

namespace Sys2Proof

/-- A sparse table: keys strictly rising. -/
abbrev Map (α : Type) := List (Nat × α)

variable {α β : Type}

/-- The entry at key `k`, if one is listed. -/
def mget : Map α → Nat → Option α
  | [], _ => none
  | (k', v) :: m, k => if k' = k then some v else if k < k' then none else mget m k

/-- The entry at key `k`, or `d` where none is listed. -/
def mgetD (m : Map α) (k : Nat) (d : α) : α := (mget m k).getD d

/-- `m` with `v` at key `k`, keys kept rising. -/
def mset : Map α → Nat → α → Map α
  | [], k, v => [(k, v)]
  | (k', v') :: m, k, v =>
    if k' = k then (k, v) :: m else if k < k' then (k, v) :: (k', v') :: m else (k', v') :: mset m k v

/-- `m` without the entry at key `k`. -/
def merase : Map α → Nat → Map α
  | [], _ => []
  | (k', v') :: m, k => if k' = k then m else if k < k' then (k', v') :: m else (k', v') :: merase m k

/-- Write under a default: writing the default removes the entry, so equal tables are equal data. -/
def mput [DecidableEq α] (d : α) (m : Map α) (k : Nat) (v : α) : Map α :=
  if v = d then merase m k else mset m k v

/-- Change the entry at `k`, where one is listed. -/
def mmod (m : Map α) (k : Nat) (f : α → α) : Map α :=
  match mget m k with
  | some v => mset m k (f v)
  | none => m

/-- The entries of `b` laid over those of `a`. -/
def munion (a b : Map α) : Map α := b.foldl (fun m x => mset m x.1 x.2) a

/-- The sum of a list of numbers. -/
def lsum (l : List Nat) : Nat := l.foldl (· + ·) 0

/-- Keys strictly rising from at least `lo`. -/
def mrising : Nat → Map α → Bool
  | _, [] => true
  | lo, (k, _) :: m => decide (lo ≤ k) && mrising (k + 1) m

/-- The canonical form of a sparse table with default `d`: keys strictly rising, no entry equal to the default. -/
def mwf [DecidableEq α] (d : α) (m : Map α) : Bool :=
  mrising 0 m && m.all (fun p => decide (p.2 ≠ d))

/-- Replace element `i` of a list by `f` of it; unchanged where there is none. -/
def lmod : List α → Nat → (α → α) → List α
  | [], _, _ => []
  | a :: l, 0, f => f a :: l
  | a :: l, i + 1, f => a :: lmod l i f

/-- Put `v` at index `i` of a list; unchanged where there is none. -/
def lput (l : List α) (i : Nat) (v : α) : List α := lmod l i (fun _ => v)

/-- Element `i` of a list, or `d`. -/
def lgetD : List α → Nat → α → α
  | [], _, d => d
  | a :: _, 0, _ => a
  | _ :: l, i + 1, d => lgetD l i d

/-- `f` at every index from 0 below `n`. -/
def ltab (n : Nat) (f : Nat → α) : List α := (List.range n).map f

/-- Fold with the index of each element. -/
def lfoldIdx (f : β → Nat → α → β) : β → Nat → List α → β
  | b, _, [] => b
  | b, i, a :: l => lfoldIdx f (f b i a) (i + 1) l

/-- The least element of a list under `key`, the first of equals. -/
def lminBy (key : α → Nat) : List α → Option α
  | [] => none
  | a :: l =>
    match lminBy key l with
    | none => some a
    | some b => if key b < key a then some b else some a

/-- Insert into a list sorted by `key`, after equals. -/
def linsertBy (key : α → Nat) (a : α) : List α → List α
  | [] => [a]
  | b :: l => if key a < key b then a :: b :: l else b :: linsertBy key a l

/-- Sort by `key`, stable. -/
def lsortBy (key : α → Nat) (l : List α) : List α := l.foldr (fun a r => linsertBy key a r) []

/-- Insert `k` in a rising list without repeats. -/
def kinsert (k : Nat) : List Nat → List Nat
  | [] => [k]
  | a :: l => if k = a then a :: l else if k < a then k :: a :: l else a :: kinsert k l

/-- Bits [hi:lo] of a natural number (R8). -/
def nbits (v hi lo : Nat) : Nat := (v >>> lo) % 2 ^ (hi + 1 - lo)

/-- Bit `i` of a natural number. -/
def nbit (v i : Nat) : Bool := v.testBit i

/-- 1 for true, 0 for false. -/
def b2n (b : Bool) : Nat := if b then 1 else 0

/-- Bits [hi:lo] of a word as a number (R8). -/
def wbits (w : Word) (hi lo : Nat) : Nat := nbits w.toNat hi lo

/-- Bit `i` of a word. -/
def wbit (w : Word) (i : Nat) : Bool := w.toNat.testBit i

/-- A word from a number, its low 32 bits. -/
def nw (n : Nat) : Word := BitVec.ofNat 32 n

/-- A word from an integer, two's complement. -/
def iw (i : Int) : Word := BitVec.ofInt 32 i

/-- The value of the low `w` bits of `n` as two's complement (R13). -/
def sval (w n : Nat) : Int :=
  let m := n % 2 ^ w
  if m < 2 ^ (w - 1) then (m : Int) else (m : Int) - (2 ^ w : Nat)

/-- The low `w` bits of an integer, two's complement. -/
def sbits (w : Nat) (i : Int) : Nat := (i % ((2 ^ w : Nat) : Int)).toNat

/-- Clamp an integer to a range. -/
def clampI (lo hi v : Int) : Int := if v < lo then lo else if hi < v then hi else v

/-- Saturate an integer to `w` signed bits. -/
def ssat (w : Nat) (v : Int) : Int := clampI (-((2 ^ (w - 1) : Nat) : Int)) (((2 ^ (w - 1) : Nat) : Int) - 1) v

/-- Arithmetic right shift of an integer: floor division by a power of two. -/
def ishr (v : Int) (n : Nat) : Int := v / ((2 ^ n : Nat) : Int)

/-- Left shift of an integer. -/
def ishl (v : Int) (n : Nat) : Int := v * ((2 ^ n : Nat) : Int)

/-- Round to nearest, ties to even, of `num / den` with `den` positive. -/
def rneDiv (num : Int) (den : Nat) : Int :=
  let q := num / (den : Int)
  let r := num % (den : Int)
  if 2 * r < den then q else if (den : Int) < 2 * r then q + 1 else if q % 2 = 0 then q else q + 1

/-- Ceiling of `a / b` for a positive divisor. -/
def cdiv (a b : Nat) : Nat := (a + b - 1) / b

/-- The 32-bit counter rule: counting saturates at 0xFFFF_FFFF (R105, R163). -/
def satAdd32 (w : Word) (n : Nat) : Word := nw (min (w.toNat + n) 0xFFFFFFFF)

/-- `n` bytes of a number, little-endian (R9). -/
def leBytes : Nat → Nat → List Byte
  | 0, _ => []
  | n + 1, v => BitVec.ofNat 8 v :: leBytes n (v >>> 8)

/-- The number that bytes spell, little-endian (R9). -/
def leNat : List Byte → Nat
  | [] => 0
  | b :: l => b.toNat + 256 * leNat l

/-- The number that bytes spell, most significant byte first (R10). -/
def beNat (l : List Byte) : Nat := l.foldl (fun a b => a * 256 + b.toNat) 0

/-- `n` bytes of a number, most significant byte first (R10). -/
def beBytes (n v : Nat) : List Byte := (leBytes n v).reverse

/-- The `n` bytes at byte offset `o` of a list, short where the list ends. -/
def lsub (l : List α) (o n : Nat) : List α := (l.drop o).take n

/-- The little-endian number in the `n` bytes at `o`. -/
def leAt (l : List Byte) (o n : Nat) : Nat := leNat (lsub l o n)

/-- The big-endian number in the `n` bytes at `o`. -/
def beAt (l : List Byte) (o n : Nat) : Nat := beNat (lsub l o n)

/-- The byte of sparse storage at address `a`; an unlisted address reads zero. -/
def cget (m : List Host.Cell) (a : Nat) : Byte := mgetD m a 0

/-- Sparse storage with byte `v` at address `a`, canonical: a zero byte is not listed. -/
def cset (m : List Host.Cell) (a : Nat) (v : Byte) : List Host.Cell := mput 0 m a v

/-- The `n` bytes at address `a`. -/
def cread (m : List Host.Cell) (a : Nat) : Nat → List Byte
  | 0 => []
  | n + 1 => cget m a :: cread m (a + 1) n

/-- Write bytes from address `a` upward. -/
def cwrite (m : List Host.Cell) : Nat → List Byte → List Host.Cell
  | _, [] => m
  | a, b :: l => cwrite (cset m a b) (a + 1) l

/-- The little-endian number in the `n` bytes at address `a`. -/
def cnat (m : List Host.Cell) (a n : Nat) : Nat := leNat (cread m a n)

/-- The canonical form of byte storage. -/
def cwf (m : List Host.Cell) : Bool := mwf 0 m

/-- Integer square root: the greatest `r` with `r * r ≤ n`, found bit by bit from `2 ^ k` down. -/
def isqrtFrom (n : Nat) : Nat → Nat → Nat
  | 0, r => if (r + 1) * (r + 1) ≤ n then r + 1 else r
  | k + 1, r =>
    let c := r + 2 ^ (k + 1)
    isqrtFrom n k (if c * c ≤ n then c else r)

/-- Integer square root of `n` below `2 ^ 128`. -/
def isqrt (n : Nat) : Nat := isqrtFrom n 64 0

/-- Floor of the base-2 logarithm by counting; `fuel` bounds the width. -/
def ilog2 : Nat → Nat → Nat
  | 0, _ => 0
  | f + 1, n => if n < 2 then 0 else ilog2 f (n / 2) + 1

end Sys2Proof
end

