-- ==== Sys2Proof/Machine/PortTypes.lean ====
section
/-! DEFINITION. Sensor ports, bridge, ingest queues, parser machines and the pea budget (Sensor ports, bridge and
ingest, R111 to R163), and the operand forms of the parser instructions (R138). -/

namespace Sys2Proof

/-- What the port does to a frame as it leaves: nothing; add the residence time since the ingress stamp and an extra
term to correctionField (R128, R129); record the egress stamp of the part's own Delay_Req or Pdelay_Req (R81, R129);
or write its turnaround into a Pdelay_Resp (R129). Stamps are TIME_COUNT times 8 plus the phase (R133). -/
inductive TxKind where
  | plain
  | correct (ingress : Nat) (extra : Int)
  | delayReq (seq : Nat)
  | pdelayReq (seq : Nat)
  | pdelayResp (ingress : Nat)
  deriving DecidableEq, Repr

/-- A frame waiting at an egress port; `stomp` marks a cut-through copy of a frame with a bad FCS (R123). -/
structure EgressFrame where
  bytes : List Byte
  kind : TxKind := .plain
  stomp : Bool := false
  deriving DecidableEq, Repr

/-- One sensor port: link state (R111, R113), retirement (R162), port events of the last 10 s as TIME_COUNT values
(R161), the four egress classes (R125) and the peer-delay exchange in progress, its `pdResp` the
arrival, the request's receipt and the correction of a two-step answer (R129). -/
structure SensorPort where
  up : Bool := false
  blockLock : Bool := false
  retired : Bool := false
  events : List Nat := []
  egress : List (List EgressFrame) := [[], [], [], []]
  pdSeq : Nat := 0
  pdLast : Option Nat := none
  pdT1 : Option Int := none
  pdResp : Option (Int × Int × Int) := none
  deriving DecidableEq, Repr

/-- A learned source address (R119): the address, its port and the TIME_COUNT value at which it was last seen. -/
structure FdbEntry where
  mac : Nat
  port : Nat
  seen : Nat
  deriving DecidableEq, Repr

/-- Time source of a stream (R146). -/
inductive TimeSource where
  | payloadPtp | payloadNs | payloadRtp | arrival
  deriving DecidableEq, Repr

/-- An entry of the stream table (R134), with its STREAM_INFO fields (R164). -/
structure StreamEntry where
  port : Nat := 0
  dstMac : Nat := 0
  etherType : Nat := 0
  vlan : Option Nat := none
  srcIp : Option Nat := none
  dstIp : Option Nat := none
  udpPort : Option Nat := none
  program : Nat := 0
  sensorBase : Nat := 0
  source : TimeSource := .arrival
  prio : Nat := 0
  latency : Int := 0
  maxAge : Nat := 0
  maxLead : Nat := 0
  rtpRate : Nat := 0
  deriving DecidableEq, Repr

/-- An item of an ingest queue (R152) with the stream entry of the image live at its ingress stamp (R143). `stamp` is
TIME_COUNT times 8 plus the phase; `arrival` is F of it (R67). -/
structure IngestItem where
  id : Nat
  stream : Nat
  entry : StreamEntry
  bytes : List Byte
  stamp : Nat
  arrival : Int
  epoch : Nat
  deriving DecidableEq, Repr

/-- A block that PARSER_LOOP repeats (R138). -/
structure ParserLoopFrame where
  start : Nat
  stop : Nat
  left : Nat
  stride : Nat
  deriving DecidableEq, Repr

/-- A motion sample of 48 bytes (R145); `time` in units of 2^-16 ns. -/
structure MotionSample where
  time : Int
  sensor : Nat
  kind : Nat
  values : List Int
  deriving DecidableEq, Repr

/-- A pea as the parser builds it (R140): the sensor, the time in units of 2^-16 ns, the coordinates and the rest. -/
structure RawPea where
  sensor : Nat
  time : Int
  x : Int
  y : Int
  z : Int
  intensity : Nat
  sweep : Nat
  cls : Nat
  deriving DecidableEq, Repr

/-- A run of pixel groups for a stream's image buffer (R144). -/
structure PixelRun where
  line : Nat
  offset : Nat
  bytes : List Byte
  marker : Bool
  seq : Nat
  deriving DecidableEq, Repr

/-- Output of an item held until its release (R142); a dropped record names its sensor and the INGEST_EVENTS bit. -/
inductive ParseOut where
  | pea (p : RawPea)
  | drop (sensor event : Nat)
  | motion (m : MotionSample)
  | image (r : PixelRun)
  deriving DecidableEq, Repr

/-- One parser machine (R137): its item, registers, position, and the output produced so far, newest first. -/
structure ParserMachine where
  item : Option IngestItem := none
  port : Nat := 0
  regs : List (BitVec 64) := List.replicate 32 0
  pc : Nat := 0
  base : Nat := 0
  baseTime : Option Int := none
  loops : List ParserLoopFrame := []
  count : Nat := 0
  out : List ParseOut := []
  ended : Bool := false
  deriving DecidableEq, Repr

/-- Image buffer of a video stream (R144). -/
structure ImageBuffer where
  data : List Host.Cell := []
  lines : List Nat := []
  lastSeq : Option Nat := none
  gap : Bool := false
  complete : Bool := false
  incomplete : Bool := false
  delivered : Nat := 0
  deriving DecidableEq, Repr

/-- Ingest, parser and budget unit (R152 to R160). `order` numbers items as they leave the queues, so that output of one
stream is released in that order (R142). -/
structure Ingest where
  queues : List (List IngestItem) := List.replicate 8 []
  nextId : Nat := 0
  wmNow : List Bool := List.replicate 8 false
  machines : List ParserMachine := List.replicate 16 {}
  seq : Map Nat := []
  offered : Map Nat := []
  decLevel : Nat := 0
  granted : Nat := 0
  images : Map ImageBuffer := []
  deriving DecidableEq, Repr

/-- The second operand of a parser ALU or BRANCH instruction (R138): a register or an immediate. -/
inductive ParserArg where
  | reg (r : Fin 32)
  | imm (v : BitVec 32)
  deriving DecidableEq, Repr

/-- Operations of the parser's ALU (R138). -/
inductive AluOp where
  | add | sub | and | or | xor | shl | shr | mul
  deriving DecidableEq, Repr

/-- Comparisons of the parser's BRANCH (R138). -/
inductive BranchCond where
  | eq | ne | lt | ge | ltu | geu
  deriving DecidableEq, Repr

/-- Forms of the parser's TIME (R138, R146): load the base time from the payload at an offset from base, or from the
ingress stamp, or set the per-record relative offset from a register. -/
inductive ParserTimeOp where
  | load (off : BitVec 14) (little : Bool)
  | relative (src : Fin 32)
  deriving DecidableEq, Repr

end Sys2Proof
end

