-- ==== Sys2Proof/Machine/PodTypes.lean ====
section
/-! DEFINITION. Peas, cells, pods, the node table, regions, spline versions and extrinsics (De-skew and the pod store,
R166 to R226). -/

namespace Sys2Proof

/-- A pea (R166): its fields; coordinates in units of 0.5 mm. VALID of R167 is a slot's occupation. `port` is the peer
port a FWD pea came from, whose sweep table R219 uses. -/
structure Pea where
  x : Int
  y : Int
  z : Int
  intensity : Nat := 0
  sensor : Nat := 0
  timeOffset : Nat := 0
  sweep : Nat := 0
  cls : Nat := 0
  range : Nat := 0
  fwd : Bool := false
  port : Nat := 0
  deriving DecidableEq, Repr

/-- A cell evidence record (R210): LOG_ODDS s3.12, VX and VY s5.10 as integers, CLASS, CONFIDENCE, LAST_UPDATE. -/
structure Cell where
  logOdds : Int := 0
  vx : Int := 0
  vy : Int := 0
  cls : Nat := 0
  conf : Nat := 0
  last : Nat := 0
  deriving DecidableEq, Repr

/-- A pod (R209): its node key, its occupied pea slots and its 64 cells. -/
structure Pod where
  key : Nat
  slots : Map Pea := []
  cells : List Cell := List.replicate 64 {}
  deriving DecidableEq, Repr

/-- KIND of a node entry (R197); a FREE entry is one the table does not list. -/
inductive NodeKind where
  | pod | interior | merged | tombstone
  deriving DecidableEq, Repr

/-- A node entry (R197); its PEA_COUNT is the number of occupied slots of its pod. `gen` is the generation under which it was hashed (R205). -/
structure NodeEntry where
  key : Nat
  kind : NodeKind
  pool : Nat := 0
  cell : Cell := {}
  childMask : Nat := 0
  gen : Nat := 0
  deriving DecidableEq, Repr

/-- States of a hash region (R205, REGION_STATE.STATE). -/
inductive RegionPhase where
  | steady | pending | copying | ready | draining
  deriving DecidableEq, Repr

/-- A hash region (R204, R205): its state, last trigger, generation in use, held trigger, and and for the
generation in use and the next one the key K, the node table and the log2 of its buckets (R208). -/
structure Region where
  phase : RegionPhase := .steady
  trigger : Nat := 0
  gen : Nat := 0
  held : Option Nat := none
  k : Nat := 0
  kNext : Nat := 0
  tab : Nat := 0
  tabNext : Nat := 0
  lg : Nat := 16
  lgNext : Nat := 16
  deriving DecidableEq, Repr

/-- A control point (R171): translation s23.8, rotation vector s1.30. -/
structure ControlPoint where
  x : Int := 0
  y : Int := 0
  z : Int := 0
  rx : Int := 0
  ry : Int := 0
  rz : Int := 0
  deriving DecidableEq, Repr

/-- A spline version (R171). -/
structure Spline where
  version : Nat := 0
  track : Nat
  parent : Option Nat := none
  origin : Nat
  rot : List Int
  cps : List ControlPoint
  deriving DecidableEq, Repr

/-- A version as published: its beat, and the number of the beat message at which it became current, and whether a
de-skew has used it (R183, R186, R403). -/
structure Published where
  spline : Spline
  beat : Nat
  ord : Nat
  used : Bool := false
  deriving DecidableEq, Repr

/-- An extrinsic (R176): rotation of nine s1.30 values, translation of three s23.8 values. -/
structure Extrinsic where
  rot : List Int := [1073741824, 0, 0, 0, 1073741824, 0, 0, 0, 1073741824]
  trans : List Int := [0, 0, 0]
  deriving DecidableEq, Repr

/-- A sensor's entry of the image (SENSOR_INFO, SENSOR_MODEL, SENSOR_CLEAR; R141, R158, R212, R214). -/
structure SensorEntry where
  fixed : Bool := true
  track : Nat := 0
  prio : Nat := 0
  hit : Int := 0
  miss : Int := 0
  clearCells : Nat := 0
  anchor : Bool := false
  extrinsic : Extrinsic := {}
  deriving DecidableEq, Repr

/-- Sweep start table of a sensor or a peer port (R219). -/
structure SweepTable where
  last : Option Nat := none
  start : Map Nat := []
  deriving DecidableEq, Repr

/-- A pea-journal entry (R185), with the SENSOR_ID and TIME_OFFSET its staleness test compares. -/
structure JournalEntry where
  pool : Nat
  slot : Nat
  track : Option Nat
  beat : Nat
  sensor : Nat
  timeOffset : Nat
  deriving DecidableEq, Repr

/-- A pea released to de-skew (R142, R158): the pea in the sensor frame, its frame and epoch. -/
structure DeskewItem where
  pea : Pea
  frame : Nat
  epoch : Nat
  deriving DecidableEq, Repr

/-- A pea on its way to filing (R182): the pea in the zone frame, the rounded sensor origin (R214), the track of its
sensor, and the beat of its de-skew (R185). -/
structure FileItem where
  pea : Pea
  frame : Nat
  epoch : Nat
  origin : Option (Int × Int × Int)
  track : Option Nat
  beat : Nat
  deriving DecidableEq, Repr

/-- A re-de-skew candidate (R184): the layer it was filed into and its journal entry. -/
structure Candidate where
  frame : Nat
  epoch : Nat
  entry : JournalEntry
  deriving DecidableEq, Repr

/-- Where a write of a cell goes (R224 to R226): the pod at a pool slot, a merged node's record, or nowhere. -/
inductive PodPlace where
  | pod (ix : Nat)
  | merged (key : Nat)
  | noPod
  | noInsert
  deriving DecidableEq, Repr

/-- The pod store and de-skew unit. `nodes` lists the node table by location, table × 2^32 + bucket × 4 + place. `tab` is
the table in use. `merging` holds while R220 runs. `compareQ` lists the
tracks whose newest version the de-skew unit has yet to compare (R183); `redone` counts re-de-skews of the beat (R189). -/
structure PodStore where
  pods : Map Pod := []
  nodes : Map NodeEntry := []
  stash : List NodeEntry := []
  regions : Map Region := []
  tab : Nat := 0
  versions : Map (List Published) := []
  trackPos : Map (Int × Int × Int) := []
  versionCount : Map Nat := []
  extrinsics : Map Extrinsic := []
  sweeps : Map SweepTable := []
  deskewQ : List DeskewItem := []
  fileQ : List FileItem := []
  candidates : List Candidate := []
  merging : Bool := false
  compareQ : List Nat := []
  redone : Nat := 0
  refusedCols : List (Nat × Nat) := []
  deriving DecidableEq, Repr

end Sys2Proof
end

