-- ==== Sys2Proof/Machine/CommitTypes.lean ====
section
/-! DEFINITION. Onion layers, delta batches and the commit publisher's queues (Onion layers, commits and the deadline,
R231 to R266). -/

namespace Sys2Proof

/-- An entry of a layer's delta log (R235). -/
structure DeltaLogEntry where
  kind : Nat
  source : Nat
  key : Nat
  deriving DecidableEq, Repr

/-- States in which a layer is held (R233). -/
inductive LayerPhase where
  | opened | provisional
  deriving DecidableEq, Repr

/-- An onion layer (R231 to R235): log and journal oldest first, the keys touched in the current beat (R245), the
distinct keys touched for its mirror set (R558), and the commits issued for it (R252). -/
structure Layer where
  frame : Nat
  epoch : Nat
  phase : LayerPhase := .opened
  overflowed : Bool := false
  log : List DeltaLogEntry := []
  journal : List JournalEntry := []
  touched : List Nat := []
  keys : List Nat := []
  revisions : Nat := 0
  deriving DecidableEq, Repr

/-- A delta record (R239): KIND, VALUE and KEY as the 128-bit record holds them. -/
structure DeltaRecord where
  kind : BitVec 4
  value : BitVec 64
  key : BitVec 48
  deriving DecidableEq, Repr

/-- A delta batch (R239), with the engine whose mesh port released it, if one did (R601). -/
structure DeltaBatch where
  frame : BitVec 64
  epoch : BitVec 16
  source : BitVec 12
  count : BitVec 13
  records : List DeltaRecord
  engine : Option (Fin 20) := none
  deriving DecidableEq, Repr

/-- Kinds of commit-stream record (R251). -/
inductive RecordKind where
  | live | revision | seal | discontinuity | notice | close
  deriving DecidableEq, Repr

/-- A record queued at a destination (R251, R256). `dead` is the beat-message number at whose end its deadline falls
(R254); `box` is the box of a NOTICE. -/
structure CommitRecord where
  kind : RecordKind
  beat : Nat
  epoch : Nat
  ord : Nat := 0
  dead : Option Nat := none
  layer : Nat := 0
  layerFrame : Nat := 0
  part : Nat := 0
  lastPart : Bool := true
  keys : List Nat := []
  degraded : Nat := 0
  folded : Bool := false
  foldedBeats : Nat := 0
  missed : Bool := false
  stepSealed : Bool := false
  aux1 : Nat := 0
  aux2 : Nat := 0
  box : Option (Nat × Nat × Nat × Nat) := none
  deriving DecidableEq, Repr

/-- An entry of a transmitted record (R253): key, evidence record and SEQ. -/
structure CommitEntry where
  key : Nat
  cell : Cell
  seq : Nat
  deriving DecidableEq, Repr

/-- A record as transmitted (R251): the queued record, its RECORD_SEQ, its unverified box and its entries. -/
structure SentRecord where
  body : CommitRecord
  seq : Nat
  unverified : Option (Nat × Nat × Nat × Nat)
  source : Nat
  entries : List CommitEntry
  deriving DecidableEq, Repr

/-- One destination of the commit stream (R248, R256): its queue, the records sent since IN_SERVICE, and the record
begun but not yet passed on, and the folded keys that await a LIVE record. `starting` holds from the write that enables the host copy
to the next beat (R654). -/
structure Destination where
  on : Bool := false
  starting : Bool := false
  queue : List CommitRecord := []
  seq : Nat := 0
  ready : Option SentRecord := none
  await : List Nat := []
  awaitBeats : Nat := 0
  deriving DecidableEq, Repr

/-- Onion layers and publisher. `layers` runs from the open layer to the oldest. `slot` holds records for the next
boundary record slot (R263). The Booleans are the DEGRADED causes of the current beat (R261). -/
structure Commit where
  layers : List Layer := []
  batches : List DeltaBatch := []
  applied : Nat := 0
  dests : List Destination := List.replicate 7 {}
  slot : List CommitRecord := []
  closed : Bool := false
  solverMiss : Bool := false
  insertRefused : Bool := false
  layerFull : Bool := false
  podRefused : Bool := false
  wasDegraded : Bool := false
  unvBeat : Bool := false
  entriesRead : Nat := 0
  readKeys : List Nat := []
  deriving DecidableEq, Repr

end Sys2Proof
end

