-- ==== Sys2Proof/Machine/EngineTypes.lean ====
section
/-! DEFINITION. Tensor descriptors, mover operations, fusion engines and their contexts (Fusion engines and their
arithmetic, R270 to R318; Tensor descriptors, layouts and movement, R323 to R369; root unit, R374 to R381). -/

namespace Sys2Proof

/-- A descriptor's fields (R323) as stored; `reserved` holds when some reserved field is non-zero (R337). -/
structure Desc where
  base : Nat := 0
  rank : Nat := 1
  layout : Nat := 1
  format : Nat := 1
  space : Nat := 2
  dataSet : Nat := 0
  write : Bool := false
  aliasing : Nat := 0
  statusEn : Bool := false
  fill : Nat := 0
  fillScale : Nat := 0
  scaleOff : Nat := 0
  statusOff : Nat := 0
  ext : List Nat := [1, 1, 1, 1, 1, 1]
  stride : List Int := [0, 0, 0, 0, 0, 0]
  shard : List Nat := [0, 0, 0, 0, 0, 0]
  gridOrigin : Nat := 0
  gridCount : Nat := 0
  reserved : Bool := false
  deriving DecidableEq, Repr

/-- Who created a descriptor of the mover's table (R330): the image loader, or a host function. -/
inductive DescOwner where
  | loader
  | pf0
  | pf1
  deriving DecidableEq, Repr

/-- An entry of the mover's descriptor table; `void` after R649. -/
structure DescEntry where
  desc : Desc
  owner : DescOwner := .loader
  void : Bool := false
  deriving DecidableEq, Repr

/-- A mover operation record (R352); `reserved` holds when a reserved field is non-zero (R353). -/
structure MoverOp where
  op : Nat
  src : Nat := 0
  dst : Nat := 0
  idx : Nat := 0
  wait : BitVec 32 := 0
  signal : BitVec 32 := 0
  srcOrigin : List Int := [0, 0, 0, 0, 0, 0]
  dstOrigin : List Int := [0, 0, 0, 0, 0, 0]
  count : List Nat := [1, 1, 1, 1, 1, 1]
  reserved : Bool := false
  deriving DecidableEq, Repr

/-- An operation in a channel: its record; for a host MOVE the function's index and the item it completes (R646);
what happened to it so far. -/
structure MoverJob where
  op : MoverOp
  host : Option (Nat × Nat) := none
  moved : Nat := 0
  done : Bool := false
  faulted : Bool := false
  cancelled : Bool := false
  deriving DecidableEq, Repr

/-- A mover channel (R350): its queue oldest first, the running operation, its tokens and the rows of its coalescer,
most recently used first (R361). -/
structure MoverChannel where
  queue : List MoverJob := []
  running : Option MoverJob := none
  tokens : BitVec 32 := 0
  coalescer : List (Nat × Nat) := []
  lastOp : Nat := 0
  assigned : Bool := false
  deriving DecidableEq, Repr

/-- An engine descriptor register (R339): descriptor, window origin and counts, the cursor as a count of elements, and the
fraction bits F that the image declares for an INT8 or FX16 tensor (R282). -/
structure DescReg where
  desc : Desc
  origin : List Int := [0, 0, 0, 0, 0, 0]
  count : List Nat := [1, 1, 1, 1, 1, 1]
  cursor : Nat := 0
  frac : Nat := 0
  deriving DecidableEq, Repr

/-- A requantization entry (R292). -/
structure RequantEntry where
  tensor : Nat := 0
  outFormat : Nat := 1
  perCol : Bool := false
  shift : Nat := 0
  mult : Nat := 0
  wOut : Int := 0
  bias : Int := 0
  perColAddr : Nat := 0
  rangeLo : Int := 0
  rangeHi : Int := 0
  clampLo : Int := 0
  clampHi : Int := 0
  deriving DecidableEq, Repr

/-- A piecewise-linear table (R299): BASE, STEP_LOG2 and 64 pairs of INTERCEPT and SLOPE. -/
structure PwlTable where
  base : Int := 0
  stepLog2 : Nat := 0
  seg : List (Int × Int) := []
  deriving DecidableEq, Repr

/-- A permutation entry (R346): the crossed elements as numbers 64 × s + e, and TURN. -/
structure PermEntry where
  cross : List Nat := []
  turn : Bool := false
  deriving DecidableEq, Repr

/-- A root format entry (R376). -/
structure RootFmt where
  fa : Nat := 0
  fb : Nat := 0
  fr : Nat := 0
  eps : Int := 0
  deriving DecidableEq, Repr

/-- Root status of a pass (R380). -/
structure RootStatus where
  sat : Bool := false
  domain : Bool := false
  tiny : Bool := false
  pivots : Nat := 0
  index : Nat := 0
  value : Int := 0
  deriving DecidableEq, Repr

/-- A loop of the sequencer (R279): address of the first bundle of its body and passes left. -/
structure SeqLoop where
  start : Nat
  left : Nat
  deriving DecidableEq, Repr

/-- An element in an operand buffer: stored integer and block weight (R282). -/
abbrev Elem := Int × Int

/-- Bits that become a tile's status byte (R296). -/
structure TileFlags where
  escape : Bool := false
  accSat : Bool := false
  inexact : Bool := false
  nonfinite : Bool := false
  deriving DecidableEq, Repr

/-- A beat leaving the requantizer, vector unit or exchange network (R344, R347): its elements, their format, the weight of
results not yet packed (R295), the shared scales of its blocks, and the tile flags it carries. -/
structure OutBeat where
  vals : List Int := []
  format : Nat := 1
  wOut : Int := 0
  raw : Bool := false
  scales : List Nat := []
  flags : TileFlags := {}
  deriving DecidableEq, Repr

/-- A context of an engine (R274): the units it runs, its descriptor registers, vector registers (an unlisted register
is 64 zero lanes), lane mask, tokens, tables, store regions by data set, sequencer position, and the state of the pass
in progress. `halts` lists the units that reached HALT in this frame, `written` the tiles (data set, tile) written in this
pass, `overran` whether a pass of the frame exceeded its bound (R277). -/
structure EngCtx where
  units : List Nat := []
  descs : Map DescReg := []
  vregs : Map (List Int) := []
  mask : BitVec 64 := 0
  tokens : BitVec 32 := 0
  perms : Map PermEntry := []
  requants : Map RequantEntry := []
  pwls : Map PwlTable := []
  rootFmts : Map RootFmt := []
  regions : Map (Nat × Nat) := []
  pc : Nat := 0
  loops : List SeqLoop := []
  waiting : Option (BitVec 32 × Bool) := none
  passRunning : Bool := false
  withheld : Bool := false
  overran : Bool := false
  written : List (Nat × Nat) := []
  signals : BitVec 32 := 0
  halts : List Nat := []
  opA : List Elem := []
  opB : List Elem := []
  loaded : List Int := []
  loadedFormat : Nat := 1
  inherited : Bool := false
  vecFlags : TileFlags := {}
  rq : List OutBeat := []
  vecOut : List OutBeat := []
  xchg : List OutBeat := []
  turn : List OutBeat := []
  root : RootStatus := {}
  deriving DecidableEq, Repr

/-- Engine states (R312). -/
inductive EngState where
  | off | selfTest | spare | live | radish | retired
  deriving DecidableEq, Repr

/-- What a shadow context runs (ENG_PLACE.SHADOW_KIND). -/
inductive ShadowKind where
  | none | migration | swap | fault | rehearsal | arming | rerun | recheck
  deriving DecidableEq, Repr

/-- Array modes (R285). -/
inductive ArrayMode where
  | int8 | b4 | int8b4 | fx16int8 | fx16
  deriving DecidableEq, Repr

/-- One bank of accumulators (R285): values by row × 64 + column, unlisted zero, whether its tile saturated, and
the row a drain in progress reads next (R289). -/
structure AccBank where
  acc : Map Int := []
  mode : ArrayMode := .int8
  sat : Bool := false
  drain : Option Nat := none
  deriving DecidableEq, Repr

/-- A fusion engine (R270, R274, R312): `events` are the frame numbers of its counted events, newest first; `lastIssue` the
number of the beat message at which a context last issued a bundle or began its work (R315). -/
structure Engine where
  state : EngState := .off
  live : Option EngCtx := none
  shadow : Option EngCtx := none
  radish : Option EngCtx := none
  shadowKind : ShadowKind := .none
  shadowWhole : Bool := false
  shadowDone : Bool := false
  bankA : AccBank := {}
  bankB : AccBank := {}
  store : List Host.Cell := []
  events : List Nat := []
  lastCause : Nat := 0
  permanent : Bool := false
  lastIssue : Nat := 0
  deriving DecidableEq, Repr

/-- The context of an engine that issues a bundle (R274, R276). -/
inductive CtxSel where
  | live | shadow
  deriving DecidableEq, Repr

/-- Destination of a LOAD slot (R279); `network` is DESTINATION 0, a read for the exchange network alone. -/
inductive LoadDest where
  | operandA | operandB | vector | network
  deriving DecidableEq, Repr

/-- Source of a STORE slot (R279). -/
inductive StoreSrc where
  | requantizer | exchange
  | vector (r : Fin 64)
  deriving DecidableEq, Repr

/-- Source of the exchange network (R279). -/
inductive ExchangeSrc where
  | requantizer | vectorUnit | loadGen
  deriving DecidableEq, Repr

/-- Comparison of CMP (R298). -/
inductive VecCmp where
  | lt | eq | le
  deriving DecidableEq, Repr

/-- A work unit of an image assigned with a shadow: what ASSIGN_SHADOW loads (R275, R312). -/
structure CtxLoad where
  kind : ShadowKind
  units : List Nat
  descs : List (Nat × DescReg) := []
  deriving DecidableEq, Repr

end Sys2Proof
end

