-- ==== Sys2Proof/Machine/SolverTypes.lean ====
section
/-! DEFINITION. Solver control's state and the outcome of a solve that the engines report to it (Least-squares solvers,
R382 to R409). -/

namespace Sys2Proof

/-- What one iteration of `solve` in R400 met: the first factorization's tiny pivot (index and operand, R380), whether
the cycles left allow a retry, the retry's tiny pivot, and whether R383 rejects the iteration. -/
structure IterOutcome where
  tiny : Option (Nat × Int) := none
  cyclesLeft : Bool := true
  retryTiny : Option (Nat × Int) := none
  rejected : Bool := false
  deriving DecidableEq, Repr

/-- What the engines report at the end of a fast solve: whether the window held a residual (R403 value 8), the non-zero
blocks of H (R405), its iterations, the 15 states of the head (R385) and the PRIOR (R404). -/
structure FastOutcome where
  data : Bool := true
  blocks : List (Nat × Nat) := []
  iters : List IterOutcome := []
  head : List Int := []
  prior : List Int := []
  deriving DecidableEq, Repr

/-- What the engines report at the end of a slow solve: blocks of S, iterations, the observations recorded since the
previous start (R396), landmarks left out (R398) and used, and the new extrinsics of the sensors. -/
structure SlowOutcome where
  data : Bool := true
  blocks : List (Nat × Nat) := []
  iters : List IterOutcome := []
  recorded : Nat := 0
  dropped : Nat := 0
  used : Nat := 0
  extrinsics : List (Nat × Extrinsic) := []
  deriving DecidableEq, Repr

/-- A warm-start record (R404). -/
structure WarmRecord where
  sig : Nat
  epoch : Nat
  beat : Int
  state : List Int
  prior : List Int
  deriving DecidableEq, Repr

/-- One track of a running fast loop (R388, R393): its wave, the PARENT its new version carries, whether the loop
re-parents it, whether its solve has ended, its outcome and the version formed (R390). -/
structure TrackSolve where
  track : Nat
  wave : Nat
  parent : Option Nat
  reparent : Bool
  ended : Bool := false
  accepted : Bool := false
  formed : Option Spline := none
  result : Nat := 0
  deriving DecidableEq, Repr

/-- A running fast loop (R388): the frame it solves, the number of the beat message at its start, the head time as the beat index
of that boundary in the epoch in which it publishes (R385, R409), and whether COLD_ALL applies to it (R406). -/
structure FastLoop where
  frame : Nat
  ord : Nat
  beat : Nat
  cold : Bool := false
  tracks : List TrackSolve := []
  deriving DecidableEq, Repr

/-- A running slow loop (R396): its frame, the count of frame boundaries at its start, its observations, and the
extrinsics accepted and waiting for publication (R399). -/
structure SlowLoop where
  frame : Nat
  ord : Nat
  cold : Bool := false
  accepted : Option (List (Nat × Extrinsic)) := none
  deriving DecidableEq, Repr

/-- Solver control. `warm` is keyed by track, and 64 for the slow loop. `taken` counts the motion samples of the
frame per track (R387). `coldFast` and `coldSlow` hold a COLD_ALL for the next loop of each kind (R406). -/
structure Solver where
  samples : Map (List MotionSample) := []
  taken : Map Nat := []
  fast : Option FastLoop := none
  slow : Option SlowLoop := none
  warm : Map WarmRecord := []
  coldFast : Bool := false
  coldSlow : Bool := false
  deriving DecidableEq, Repr

end Sys2Proof
end

