-- ==== Sys2Proof/Machine/ImageTypes.lean ====
section
/-! DEFINITION. Structure images and the shallot slot (Structure images, R414 to R446), placement (R450 to R481). -/

namespace Sys2Proof

/-- A work unit: its record (R421), its entry of the shed table (R422), the units that produce its inputs (R435), and
whether the CHECKER section marks it RECHECKABLE (R602). -/
structure WorkUnit where
  num : Nat
  kind : Nat := 0
  bound : Nat := 1
  passes : Nat := 1
  cadence : Nat := 1
  store : Nat := 0
  spill : Nat := 0
  traffic : Nat := 0
  radish : Option Nat := none
  prio : Nat := 7
  shifts : List Nat := [0, 0, 0, 0, 0, 0, 0, 0]
  inputs : List Nat := []
  recheckable : Bool := false
  deriving DecidableEq, Repr

/-- A data set of the graph (R421): its size in bytes, its space. -/
structure DataSetDef where
  num : Nat
  space : Nat := 2
  size : Nat := 0
  deriving DecidableEq, Repr

/-- The CONFIG section (R420). -/
structure ImageConfig where
  depth : Nat := 4
  latency : Nat := 4
  bucketsLog2 : Nat := 16
  mergeLimit : Nat := 6
  layerCap : Nat := 1
  poolPods : Nat := 1
  poolReserve : Nat := 0
  decay : Nat := 0
  tol : Nat := 0
  rate : Nat := 0
  radius : Nat := 0
  owned : List Int := [0, 0, 0, 0, 0, 0]
  offsets : List Int := List.replicate 18 0
  deriving DecidableEq, Repr

/-- The SOLVER section's parameters that registers show (R410), and the cycles the admission reads (R429). -/
structure SolverShape where
  fastDeadline : Nat := 64
  windowFrames : Nat := 1
  iterMax : Nat := 1
  slowDeadline : Nat := 16
  slowPhase : Nat := 0
  slowIter : Nat := 1
  anchors : Nat := 1
  sensors : Nat := 1
  landmarksMax : Nat := 1
  obsMax : Nat := 1
  epsFast : Int := 0
  epsSlow : Int := 0
  lambdaFast : Nat := 0
  lambdaSlow : Nat := 0
  scanMin : Int := 0
  scanMax : Nat := 1
  fastCycles : Nat := 0
  slowCycles : Nat := 0
  deriving DecidableEq, Repr

/-- The CHECKER section's parameters (R594 to R603). -/
structure CheckerShape where
  zMin : Int := 0
  zMax : Int := 0
  occ : Int := 0
  minPeas : Nat := 1
  tol : Nat := 0
  deriving DecidableEq, Repr

/-- What the loader reads in the sections whose byte layout the spec does not give (R419): stream table,
sensor table with KEEP_ESTIMATE, unit inputs and RECHECKABLE marks, data sets, mover descriptors and
operations, what each unit's context holds when it is loaded (program, tables, descriptors), the units whose tokens reach each mover channel and the units each channel's tokens reach
(R280), the batch data sets of stages whose escape policy is WITHHOLD (R308), solver and checker parameters; and the outcome of checks 8 to 10 of R427 that read them: the first
such check that fails with the unit it names. -/
structure ImageBody where
  streams : List (Nat × StreamEntry) := []
  sensors : List (Nat × SensorEntry) := []
  keep : List Nat := []
  inputs : List (Nat × List Nat) := []
  recheckable : List Nat := []
  dataSets : List DataSetDef := []
  descs : List (Nat × Desc) := []
  ops : List (Nat × List MoverOp) := []
  ctxs : List (Nat × EngCtx) := []
  chanInputs : List (Nat × List Nat) := []
  chanOutputs : List (Nat × List Nat) := []
  withhold : List Nat := []
  solver : SolverShape := {}
  checker : CheckerShape := {}
  badField : Bool := false
  badProgram : Option Nat := none
  badGraph : Bool := false
  deriving DecidableEq, Repr

/-- An admitted or live image. `k` is the key drawn for it (R199); `spilled` lists the units whose weights are streamed, `steadySpill`
those that the steady form streams (R430, R431). -/
structure Image where
  id : Nat := 0
  version : Nat := 0
  tool : Nat := 0
  size : Nat := 0
  digest : Nat := 0
  config : ImageConfig := {}
  units : List WorkUnit := []
  body : ImageBody := {}
  k : Nat := 0
  spilled : List Nat := []
  steadySpill : List Nat := []
  deriving DecidableEq, Repr

/-- Slot states (R433, SLOT_STATUS.STATE). -/
inductive SlotState where
  | empty | copying | verifying | admitting | rehearsing | arming | armed
  deriving DecidableEq, Repr

/-- Result of one unit's rehearsal frame (R436): HALT reached in the frame, a pass overran, an engine event rose, the
radish mismatched. -/
structure RehearsalResult where
  unit : Nat
  halted : Bool := true
  overrun : Bool := false
  event : Bool := false
  mismatch : Bool := false
  deriving DecidableEq, Repr

/-- The shallot slot (R433): the copy of the image, the image as parsed, the engines held, the units rehearsed, the
group of the frame as (unit, engine), first failures as (unit, engine, radish mismatch), targets as (engine, units)
and the bytes of store still to load on each (R440). -/
structure Slot where
  state : SlotState := .empty
  fromFlash : Bool := false
  bytes : List Host.Cell := []
  len : Nat := 0
  image : Option Image := none
  held : List Nat := []
  rehearsed : List Nat := []
  group : List (Nat × Nat) := []
  failures : List (Nat × Nat × Bool) := []
  targets : List (Nat × List Nat) := []
  left : List (Nat × Nat) := []
  noSpare : Bool := false
  deriving DecidableEq, Repr

/-- A migration or swap (R457 to R459): moves as (unit, from, to), the engines whose context changes, and whether it
is pending. -/
structure Migration where
  swap : Bool := false
  moves : List (Nat × Nat × Nat) := []
  engines : List Nat := []
  ready : Bool := false
  deriving DecidableEq, Repr

/-- A fault-driven replacement (R470, R472): the failed engine, its target, the units, whether it was a hard fail, and
whether the switch is pending. -/
structure Replacement where
  failed : Nat
  target : Option Nat
  units : List Nat := []
  hard : Bool := false
  ready : Bool := false
  decls : List Nat := []
  deriving DecidableEq, Repr

/-- An engine's radish bookkeeping (R477, R478) and its load (R453): `passed` is RADISH_LAST.PASSED, `answered` is passed[x] of R478,
`due` is pending[x]; `since` and `issuedAt` are frame boundary counts; `ran` lists the units run since the last due boundary and `period`
those of the period before it; `loads` are the issue counts of the last frames, newest first. -/
structure RadishBook where
  passed : Bool := false
  answered : Bool := true
  debt : Nat := 0
  due : Bool := false
  suspect : Bool := false
  since : Nat := 0
  running : Bool := false
  inst : Nat := 0
  turn : Nat := 0
  issuedAt : Nat := 0
  ran : List Nat := []
  period : List Nat := []
  issued : Nat := 0
  loads : List Nat := []
  deriving DecidableEq, Repr

/-- A data-set move or granule move in the background (R460, R465): data set, granule or none, and its target. -/
structure SetMove where
  set : Nat
  granule : Option Nat := none
  target : Nat := 0
  bytes : Nat := 0
  copied : Bool := false
  deriving DecidableEq, Repr

/-- Placement controller (R450 to R481). `located` maps a data set of SPACE 0, 1
or 2 to its place (engine, slice mask, 0); `remap` a granule (data set × 2^28 + granule) to its logical channel. -/
structure Placement where
  located : Map Nat := []
  suspended : List Nat := []
  shed : Nat := 0
  migrations : List Migration := []
  replacements : List Replacement := []
  books : List RadishBook := List.replicate 20 {}
  evalDue : Bool := false
  overFrames : Nat := 0
  loadOver : Bool := false
  coverage : Bool := false
  moves : List SetMove := []
  remap : Map Nat := []
  hotBytes : List Nat := []
  imbalance : Bool := false
  changed : List Nat := []
  deriving DecidableEq, Repr

/-- What the controller measured in a window of 8 frames (R464, R465): the bytes of each logical channel, the regions that
supply more than 1/16 of the pod traffic of the hottest channel, its hottest granules (data set × 2^28 + granule) by falling heat,
and the granules or pods whose own traffic exceeds 1/16 of the payload (R467). -/
structure BalanceObs where
  bytes : List Nat := []
  regions : List (Fin 512) := []
  granules : List Nat := []
  single : Nat := 0
  deriving DecidableEq, Repr

/-- The controller's choice at an evaluation (R454): the units to move, each to an engine, and the bytes × hops sums
before and after (R455). -/
structure Proposal where
  moves : List (Nat × Nat) := []
  hopsBefore : Nat := 0
  hopsAfter : Nat := 0
  deriving DecidableEq, Repr

end Sys2Proof
end

