-- ==== Sys2Proof/Machine/MemTypes.lean ====
section
/-! DEFINITION. DRAM channels, SRAM bank groups and their fault windows (Stacked DRAM and on-chip memory, R485 to R513). -/

namespace Sys2Proof

/-- States of a channel (CH_STATE.STATE). -/
inductive ChannelState where
  | spare | service | source | target | retired
  deriving DecidableEq, Repr

/-- A repair requested (R501): a row or a column of a bank. -/
structure Repair where
  column : Bool
  bank : Nat
  line : Nat
  deriving DecidableEq, Repr

/-- A physical DRAM channel (R486, R501, R504). `stamps` are the counted symbols with their TIME_COUNT, `hard` the
hard events (bank, row, column) with theirs; `counted` the codewords counted with a repair pending; `poisoned` the
codewords holding the poison pattern, with every one from `poisonFrom` on (R508); `rows` and `cols` the spares used per bank; `repairFrame` the frame of the
last repair. -/
structure Channel where
  state : ChannelState := .spare
  stamps : List (Nat × Nat) := []
  hard : List (Nat × Nat × Nat × Nat) := []
  counted : List Nat := []
  repairs : List Repair := []
  done : List Repair := []
  poisoned : List Nat := []
  poisonFrom : Option Nat := none
  rows : Map Nat := []
  cols : Map Nat := []
  temp : Int := 0
  repairFrame : Option Nat := none
  deriving DecidableEq, Repr

/-- A running or waiting channel copy (R505, R507): source, target, KiB copied, and whether it has completed. -/
structure ChannelCopy where
  src : Nat
  dst : Nat
  copied : Nat := 0
  done : Bool := false
  deriving DecidableEq, Repr

/-- The SRAM of an engine or a commons slice (R509): spare groups left, where each of the 8 groups lies, and the
corrected words of the window as (group, frame). -/
structure SramUnit where
  spares : Nat := 2
  groups : List Nat := List.replicate 8 0
  lost : List Nat := []
  events : List (Nat × Nat) := []
  deriving DecidableEq, Repr

/-- What the decoder of R492 says of a codeword. -/
inductive Decoded where
  | clean
  | poisoned
  | corrected (symbols : Fin 4)
  | uncorrectable
  deriving DecidableEq, Repr

/-- A channel at the first boot (R488): channels 8 and 17 are spares. -/
def firstChannel (c : Nat) : Channel :=
  if c = 8 ∨ c = 17 then {} else { state := .service }

/-- The memory system. `map` gives the physical channel of each logical channel; `inUse` counts the logical
channels in use after the spares are gone (R475). `links` counts the corrected errors of a mesh link, router × 4 + link (R49). -/
structure Memory where
  channels : List Channel := (List.range 18).map firstChannel
  map : List Nat := [0, 1, 2, 3, 4, 5, 6, 7, 9, 10, 11, 12, 13, 14, 15, 16]
  inUse : Nat := 16
  copies : List ChannelCopy := []
  scrubActive : Bool := false
  scrubChannel : Nat := 0
  scrubAddr : Nat := 0
  srams : List SramUnit := List.replicate 20 ⟨2, List.replicate 8 0, [], []⟩ ++ List.replicate 4 ⟨1, List.replicate 8 0, [], []⟩
  links : Map Nat := []
  deriving DecidableEq, Repr

end Sys2Proof
end

