-- ==== Sys2Proof/Machine/PeerTypes.lean ====
section
/-! DEFINITION. Flits, peer ports, lanes, mirrors and seeding (Peer links and the installation grid, R521 to R564). -/

namespace Sys2Proof

/-- States of a peer port (R531, PORT_STATE.STATE). -/
inductive PeerState where
  | down | training | aligning | hello | up | refused | retired
  deriving DecidableEq, Repr

/-- State of one direction of a lane (LANE_STATE). -/
inductive LaneMode where
  | active (slot : Fin 4)
  | spare | retired | down
  deriving DecidableEq, Repr

/-- A physical lane of a port (R524, R539): its modes, and the replays of its window as TIME_COUNT values. -/
structure PeerLane where
  rx : LaneMode := .down
  tx : LaneMode := .down
  replays : List Nat := []
  deriving DecidableEq, Repr

/-- The content of a HELLO or UPDATE (R533). -/
structure HelloBody where
  mirrorReq : Bool := false
  mirrorHeld : Bool := false
  empty : Bool := false
  part : Nat := 0x2016
  stepping : Nat := 0xA1
  port : Nat := 0
  coord : Nat := 0
  owned : List Int := [0, 0, 0, 0, 0, 0]
  offset : List Int := [0, 0, 0]
  mirrorFrame : Nat := 0
  digest : Nat := 0
  deriving DecidableEq, Repr

/-- The content of a TIME flit (R542); times in units of 2^-16 ns. -/
structure TimeBody where
  seq : BitVec 16 := 0
  coord : Nat := 0
  candidate : Bool := false
  locked : Bool := false
  stepValid : Bool := false
  depth : Nat := 63
  epoch : BitVec 16 := 0
  prevTx : Int := 0
  rxSeq : BitVec 16 := 0
  rxTime : Int := 0
  stepBeats : Nat := 0
  targetFrame : Nat := 0
  newEpoch : BitVec 16 := 0
  deriving DecidableEq, Repr

/-- An entry of a MIRROR or SEED flit (R559). -/
inductive MirrorEntry where
  | cell (key : Nat) (cell : Cell)
  | node (key : Nat) (cell : Cell)
  | free (key : Nat)
  | fin (epoch : Nat) (frame : Nat)
  deriving DecidableEq, Repr

/-- The content of a WRITE flit (R553). -/
structure WriteBody where
  dataSet : Nat
  aliasing : Nat := 0
  format : Nat := 1
  offset : Nat
  source : Nat := 0
  bytes : List Byte
  deriving DecidableEq, Repr

/-- The content of a PEA flit (R551). -/
structure PeaBody where
  frame : Nat
  epoch : Nat
  hops : Nat
  peas : List Pea
  deriving DecidableEq, Repr

/-- Payload of a sequenced flit (R527). A COMMIT flit carries the records that its bytes complete (R547). -/
inductive FlitBody where
  | commit (records : List SentRecord)
  | pea (b : PeaBody)
  | write (dest : Nat) (b : WriteBody)
  | mirror (entries : List MirrorEntry)
  | seed (entries : List MirrorEntry)
  deriving DecidableEq, Repr

/-- What a received flit carries besides its payload (R526): the physical lane it came on, whether its CRC and codeword
are intact and whether the codeword was corrected, SEQ, ACK, the VC of the credits returned and their number. -/
structure FlitHead where
  lane : Fin 5 := 0
  intact : Bool := true
  codeword : Bool := true
  corrected : Bool := false
  seq : BitVec 12 := 0
  ack : BitVec 12 := 0xFFF
  creditVc : Fin 4 := 0
  credits : Nat := 0
  deriving DecidableEq, Repr

/-- A sequenced flit in the replay buffer (R529). -/
structure HeldFlit where
  seq : BitVec 12
  vc : Fin 4
  body : FlitBody
  deriving DecidableEq, Repr

/-- Link control and other unsequenced flits that a port sends (R527, R535). -/
inductive LinkOut where
  | hello (b : HelloBody)
  | update (b : HelloBody)
  | laneSwap (lane : Nat) (seq : BitVec 12)
  | seedReq
  | refreshReq
  | nak (ack : BitVec 12)
  | time (b : TimeBody)
  deriving DecidableEq, Repr

/-- The accepted neighbour's description, from its last HELLO or UPDATE and TIME flit (R534, R542). `epoch` is its member
of the epoch pair (R546), `announced` the step its TIME flits announce: beats, target frame and its new epoch (R91). -/
structure Neighbour where
  coord : Nat := 0
  box : List Int := [0, 0, 0, 0, 0, 0]
  mirrorReq : Bool := false
  mirrorHeld : Bool := false
  empty : Bool := false
  candidate : Bool := false
  locked : Bool := false
  depth : Nat := 63
  epoch : Option Nat := none
  digest : Nat := 0
  announced : Option (Nat × Nat × Nat) := none
  deriving DecidableEq, Repr

/-- A peer port. Transmit side: next SEQ, replay buffer, credits per VC, waiting flits per VC. Receive side: last good
SEQ, whether it discards until the replay arrives, credits to return. Time: TIME_SEQ, transmit stamps of the last 4
flits as (TIME_SEQ, stamp), the last flit received as (TIME_SEQ, stamp) (R544). `replaysRow` counts replays without an
advance of the ACK (R530), `ackAt` is TIME_COUNT at its last advance. `creditTurn` and `vcTurn` keep the turns of R528; `ringPos` is
the next byte of the peer ring (R548); `timeBlock` is the block of 64 beats in which a TIME flit was last sent (R78);
`wantRefresh` holds from the port's leaving UP until a refresh is asked for (R561). -/
structure PeerPort where
  state : PeerState := .down
  reason : Nat := 0
  lanes : List PeerLane := List.replicate 5 {}
  nb : Neighbour := {}
  own : Nat := 0
  txSeq : BitVec 12 := 0
  replay : List HeldFlit := []
  credits : List Nat := [64, 128, 512, 256]
  waiting : List (List FlitBody) := [[], [], [], []]
  rxGood : BitVec 12 := 0xFFF
  discarding : Bool := false
  owe : List Nat := [0, 0, 0, 0]
  replaysRow : Nat := 0
  ackAt : Nat := 0
  creditTurn : Nat := 0
  vcTurn : Bool := false
  ringPos : Nat := 0
  timeBlock : Option Nat := none
  timeSeq : BitVec 16 := 0
  timeTx : List (BitVec 16 × Nat) := []
  timeRx : Option (BitVec 16 × Nat) := none
  measured : Option Int := none
  wantRefresh : Bool := false
  deriving DecidableEq, Repr

/-- The mirror held for a neighbour (R560): its port and coordinate, the pod pages as (pod key, cells) and merged
records, and whether an entry was dropped since the last refresh. -/
structure Mirror where
  valid : Bool := false
  complete : Bool := false
  stale : Bool := false
  port : Nat := 0
  coord : Nat := 0
  frame : Nat := 0
  pods : Map (Map Cell) := []
  nodes : Map Cell := []
  refreshing : Bool := false
  dropped : Bool := false
  deriving DecidableEq, Repr

/-- A mirror set waiting to be sent (R558): its frame and epoch, and the boundary count at which it was due. -/
structure MirrorSet where
  frame : Nat
  epoch : Nat
  due : Nat
  deriving DecidableEq, Repr

/-- A flit's header as sent: ACK, the VC of the credits returned and their number (R526, R528). -/
structure OutHead where
  ack : BitVec 12 := 0xFFF
  creditVc : Nat := 0
  credits : Nat := 0
  deriving DecidableEq, Repr

/-- Peer links. `freed` lists the pods and merged nodes freed or merged away since the previous mirror set (R558); `seedAt` is
TIME_COUNT at SEED_REQ (R564). -/
structure Peers where
  ports : List PeerPort := List.replicate 6 {}
  coord : Option (BitVec 14) := none
  mirror : Mirror := {}
  sets : List MirrorSet := []
  freed : List Nat := []
  seedAt : Nat := 0
  seedPort : Option Nat := none
  seedDone : Bool := false
  lateSeed : Bool := false
  deriving DecidableEq, Repr

end Sys2Proof
end

