-- ==== Sys2Proof/Machine/SafetyTypes.lean ====
section
/-! DEFINITION. Device event log, keeper die, checker slice, declarations and the safety state (Freedom from interference
and fault handling, R568 to R614; the keeper die of Power, sag and the marrow save, R741 to R744). -/

namespace Sys2Proof

/-- A record of the device event log (R613); RESERVED bits are zero. -/
structure LogRecord where
  beat : Nat
  epoch : Nat
  cls : Nat
  kind : Nat := 0
  index : Nat := 0
  cause : Nat := 0
  seq : Nat := 0
  detail : Nat := 0
  deriving DecidableEq, Repr

/-- A page of the GRID section (R744): its SWEEP and entries. -/
structure GridPage where
  sweep : Nat
  entries : List CommitEntry := []
  deriving DecidableEq, Repr

/-- The marrow region (R742 to R744): the fields of its HEADER, `digest` being IMAGE_DIGEST, and its sections. -/
structure Marrow where
  complete : Bool := false
  fromHold : Bool := false
  beat : Nat := 0
  epoch : Nat := 0
  saveUs : Nat := 0
  digest : Nat := 0
  tracks : Map Spline := []
  warm : Map WarmRecord := []
  sensors : Map Extrinsic := []
  grid : Map GridPage := []
  deriving DecidableEq, Repr

/-- The keeper die (R741): log newest first, the 64-bit record counter, the fault and spare map as (kind, index), its
repairs as (channel, repair), the SRAM remaps as (unit, group), the monotonic counters, requested clears (R585) and
the marrow region. It survives reset and loss of power. -/
structure Keeper where
  log : List LogRecord := []
  logSeq : Nat := 0
  faults : List (Nat × Nat) := []
  repairs : List (Nat × Repair) := []
  remaps : List (Nat × Nat) := []
  epochCounter : Nat := 0
  imageMin : Nat := 0
  attestCount : Nat := 0
  sweepCounter : Nat := 0
  clears : List (Nat × Nat) := []
  marrow : Marrow := {}
  deriving DecidableEq, Repr

/-- Safety states (SAFETY_STATUS.STATE). -/
inductive SafetyState where
  | normal | degraded | unverified | safeHold
  deriving DecidableEq, Repr

/-- A pose sample of a track (R590). -/
structure PoseSample where
  beat : Nat
  rot : List Int
  trans : List Int
  deriving DecidableEq, Repr

/-- States of a declaration slot (DECL_INFO.STATE) beyond free. -/
inductive DeclPhase where
  | declared | rechecking | awaitSwitch | awaitClean
  deriving DecidableEq, Repr

/-- A declaration (R599, R601): frame, columns (x, y), implicated engines with the increments kept, its state. -/
structure Declaration where
  frame : Nat
  cols : List (Nat × Nat)
  box : Nat × Nat × Nat × Nat
  engines : List Nat := []
  kept : List (Nat × Int × Nat) := []
  phase : DeclPhase := .declared
  outcome : Nat := 0
  engine : Nat := 0
  bornAt : Nat := 0
  waits : List Nat := []
  deriving DecidableEq, Repr

/-- The lowering map of a frame (R601): entries (key, increment, engine), whether it overflowed, and every engine that
released a LOGODDS_ADD record in the frame. -/
structure LoweringMap where
  frame : Nat
  entries : List (Nat × Int × Nat) := []
  overflow : Bool := false
  engines : List Nat := []
  deriving DecidableEq, Repr

/-- A pea of the checker tap (R56, R594): its sensor, the time in units of 1/64 µs since the epoch origin, its own
position, and whether it is a FWD pea. -/
structure CheckTap where
  sensor : Nat
  time : Nat
  x : Int
  y : Int
  z : Int
  fwd : Bool
  deriving DecidableEq, Repr

/-- The peas tapped for a check frame (R593, R594). They are placed when the histogram closes, when the pose samples on
both sides of their times have come (log entry 15). -/
structure CheckHist where
  frame : Nat
  taps : List CheckTap := []
  deriving DecidableEq, Repr

/-- A comparison in progress (R596): its frame, the seen columns, and the beat message number at its boundary. -/
structure Comparison where
  frame : Nat
  cols : List Nat
  ord : Nat
  deriving DecidableEq, Repr

/-- Safety logic, checker slice and log writer. `errors` are the frame boundary counts of errors (R588); `waiting` the
on-chip shadow of log records (R584, R614); `suppressed` the counts by class of records beyond 64 in the frame; `alertHeld` the conditions
of R729 that an Alert Response has answered and that have not gone since. -/
structure Safety where
  state : SafetyState := .unverified
  holdCause : Nat := 0
  unvSince : Option Nat := none
  hbRun : Bool := false
  hbStopped : Bool := false
  resumeAsked : Bool := false
  safeA : Bool := false
  safeB : Bool := false
  errors : List Nat := []
  lastError : Option Nat := none
  lastDegraded : Option Nat := none
  poses : Map (List PoseSample) := []
  extr : Map Extrinsic := []
  hists : List CheckHist := []
  compare : Option Comparison := none
  notCompared : Nat := 0
  refusedCols : List (Nat × Nat) := []
  decls : List (Option Declaration) := List.replicate 8 none
  overflow : Option (Nat × List (Nat × Nat)) := none
  implicatedAt : Map (List Nat) := []
  lowering : List LoweringMap := []
  waiting : List LogRecord := []
  frameRecords : Nat := 0
  suppressed : List Nat := [0, 0, 0, 0, 0, 0, 0, 0]
  keeperBad : Bool := false
  mapShadow : List (Nat × Nat) := []
  alertHeld : BitVec 2 := 0
  deriving DecidableEq, Repr

end Sys2Proof
end

