-- ==== Sys2Proof/Machine/HostTypes.lean ====
section
/-! DEFINITION. Host command queues, completions, windows, MSI-X, the boot and power state and the part's outputs (Host
interface and queues, R624 to R658; Bring-up, straps and security, R703 to R733; Power, sag and the marrow save, R737
to R757). -/

namespace Sys2Proof

/-- An item of a command queue (R636). -/
structure HostItem where
  prio : Nat
  tag : Nat
  opcode : Nat
  payload : List Word := []
  deriving DecidableEq, Repr

/-- A host window (R631). -/
structure HostWindow where
  base : Nat
  pages : Nat
  read : Bool
  write : Bool
  deriving DecidableEq, Repr

/-- An entry of an MSI-X table (R630, R657). -/
structure MsixEntry where
  addrLo : Word := 0
  addrHi : Word := 0
  data : Word := 0
  control : Word := 1
  deriving DecidableEq, Repr

/-- An item taken and not yet completed (R651): its number, tag, opcode, the windows it names, and for a FENCE or
UNMAP_WINDOW the numbers it waits for. -/
structure TakenItem where
  id : Nat
  tag : Nat
  opcode : Nat
  windows : List Nat := []
  waits : List Nat := []
  deriving DecidableEq, Repr

/-- One function's queue and tables. `queue` holds complete items oldest first, `building` the item being written with
the words it still takes, `current` the number and the item that the
queue engine has taken and not yet acted on. -/
structure HostFn where
  queue : List HostItem := []
  building : Option (HostItem × Nat) := none
  dropping : Bool := false
  current : Option (Nat × HostItem) := none
  taken : List TakenItem := []
  nextId : Nat := 0
  windows : Map HostWindow := []
  unmapping : List Nat := []
  msix : List MsixEntry := List.replicate 64 {}
  msixPending : BitVec 64 := 0
  wmNow : Bool := false
  deriving DecidableEq, Repr

/-- A DUMP in progress (R656): the beat and epoch in which reading began, the least key still to read, the entries found, and
whether one fell beyond the window. -/
structure DumpJob where
  id : Nat
  window : Nat
  mask : List Word
  beat : Nat
  epoch : Nat
  cursor : Nat := 0
  found : Nat := 0
  faulted : Bool := false
  done : Bool := false
  deriving DecidableEq, Repr

/-- An attestation report waiting or being signed (R722, R724): once signing has begun, its first 512 bytes and its count. -/
structure AttestJob where
  id : Nat
  window : Nat
  nonce : List Word
  count : Nat := 0
  measures : List Byte := []
  deriving DecidableEq, Repr

/-- HOST_QUEUES: the two functions, the dumps and reports in progress, oldest first, and of the commit ring: beats in a row in
which no record left, whether one has left in this beat (R655), beats since the last message of vector 1, and whether records were
written since (R657). -/
structure HostQueues where
  fns : List HostFn := List.replicate 2 {}
  dumps : List DumpJob := []
  attests : List AttestJob := []
  stall : Nat := 0
  left : Bool := false
  irqBeats : Nat := 1024
  irqArmed : Bool := false
  deriving DecidableEq, Repr

/-- The fuse array (R719): its fields, `repairs` what REPAIR names as (channel, repair). The blank array's INTEGRITY is that of its
fields (log entry 25). -/
structure Fuses where
  rootHash : BitVec 512 :=
    0x9c495d5ec8b746c279c4acdad33a2f12ce821b5ed2f31eb2b3ee285ae9dd708366a66d9b4ec08d7556c23891864fa91eb0853bf8b915347de87949eeaf2a57e
  deviceSecret : BitVec 256 := 0
  serial : BitVec 64 := 0
  mac : BitVec 48 := 0
  customer : BitVec 32 := 0
  rollback : BitVec 128 := 0
  debugKill : BitVec 3 := 0
  repair : BitVec 2048 := 0
  repairs : List (Nat × Repair) := []
  integrity : BitVec 64 := 0x6dd75de104975f77
  deriving DecidableEq, Repr

/-- What the security block finds in a firmware slot of the boot flash, which lies outside the part (R708, R709): the header's form, its
certificate, the signature, the digest of the bytes verified, SECURITY_VERSION and VERSION. -/
structure SlotCheck where
  header : Bool := true
  cert : Bool := true
  sig : Bool := true
  digest : BitVec 512 := 0
  security : Nat := 0
  version : BitVec 32 := 0
  deriving DecidableEq, Repr

/-- What a boot step finds (R705 to R711, R499, R312): the answers of analogue, cryptographic and training checks that no
register holds: root locks, firmware slots, ID_CERT_VALID (R723), DRAM channels that fail training, whether the keeper die reads,
whether the DIGEST of the HEADER checks, GRID pages whose CHECK fails (R754), and engines that fail the self-test. -/
structure BootObs where
  roots : List Bool := [true, true]
  slotA : SlotCheck := {}
  slotB : SlotCheck := {}
  idCert : Bool := false
  untrained : List Nat := []
  keeperOk : Bool := true
  headerOk : Bool := true
  badPages : List Nat := []
  badEngines : List Nat := []
  deriving DecidableEq, Repr

/-- Boot and security state (R703 to R733): step in progress (0 while RESET_N is low), failure code, TIME_COUNT
at the end of each step from 3 to 9 and at the start of the present step, whether the failed sequence has stopped, debug state and the fuse field being programmed with its value. -/
structure Boot where
  step : Nat := 0
  failCode : Nat := 0
  stopped : Bool := false
  times : Map Nat := []
  inService : Bool := false
  stepAt : Nat := 0
  fwSlot : Nat := 0
  fwVersion : BitVec 32 := 0
  fwSecurity : Nat := 0
  fusesOk : Bool := false
  idCert : Bool := false
  unlocked : Bool := false
  challenge : Bool := false
  refusals : Nat := 0
  programming : Option (Nat × Word) := none
  straps : BitVec 12 := 0
  refB : Bool := true
  mboxBusy : Bool := false
  mboxFull : Bool := false
  deriving DecidableEq, Repr

/-- Power manager and marrow save (R737 to R757): rails as (10 mA, mV), package power, the highest sensors, TIME_COUNT at the sag
whose save runs, whether the part has stopped after a save, the staging copy of the GRID, the sweep in progress with the least key
still to walk, the page it fills and its entries, and what the boot read of the marrow region. -/
structure Power where
  rails : List (Nat × Nat) := List.replicate 8 (0, 0)
  milliwatts : Nat := 0
  logicTemp : Int := 0
  ioTemp : Int := 0
  saving : Option Nat := none
  stopped : Bool := false
  serdesOff : Bool := false
  holdupOk : Bool := false
  staging : Map GridPage := []
  sweeping : Bool := false
  sweep : Nat := 0
  pos : Nat := 0
  page : Nat := 0
  fill : List CommitEntry := []
  found : Nat := 0
  full : Bool := false
  marrowRead : Bool := false
  restored : Bool := false
  tracksDue : Bool := false
  headerValid : Bool := false
  image : Marrow := {}
  deriving DecidableEq, Repr

/-- What a frame boundary finds outside the modelled state: temperatures of the dies and of the DRAM channels (by number), rails and package power (R498, R689, R758), the
placement controller's choice (R454), and whether the checker cores disagree (R595). -/
structure FrameObs where
  logicTemp : Int := 25
  ioTemp : Int := 25
  dramTemps : List Int := []
  rails : List (Nat × Nat) := List.replicate 8 (0, 0)
  milliwatts : Nat := 0
  proposal : Proposal := {}
  coreMismatch : Bool := false
  deriving DecidableEq, Repr

/-- A word of a register write or push with its byte enables (R666, R635). -/
structure PushWord where
  data : Word
  enables : BitVec 4 := 0xF
  deriving DecidableEq, Repr

/-- The initiators that reach the control window (R568, R671). -/
inductive Initiator where
  | security | management | pf1 | pf0 | debug
  deriving DecidableEq, Repr

/-- What the part sends to the outside, in the order sent (newest first in `State.out`). -/
inductive Sent where
  | frame (port : Nat) (bytes : List Byte)
  | link (port : Nat) (h : OutHead) (f : LinkOut)
  | flit (port : Nat) (h : OutHead) (f : HeldFlit)
  | msix (fn : Nat) (vector : Nat) (addr : Nat) (data : Word)
  | readData (ini : Initiator) (off : Nat) (data : Word)
  | smbus (bytes : List Byte)
  | smbNack
  | pps
  | keyRequest
  deriving DecidableEq, Repr

/-- A poisoned span of a data set: its bytes, and those written since it was poisoned (R495, R496). -/
structure PoisonSpan where
  lo : Nat
  len : Nat := 128
  written : Nat := 0
  deriving DecidableEq, Repr

/-- Contents of a data set (R324): its size and bytes; an unlisted byte is zero. -/
structure DataStore where
  size : Nat := 0
  bytes : List Host.Cell := []
  poisoned : List PoisonSpan := []
  deriving DecidableEq, Repr

end Sys2Proof
end

