-- ==== Sys2Proof/Syntax.lean ====
section
/-! DEFINITION. The commands of the part: one constructor per row of the table of operations and events. Operands are
what the row's rule reads from outside the part's own state (log entry 1). -/

namespace Sys2Proof

/-- The steps of the part. Engine rows name the engine and the context that issue them (R276); parser rows name the
machine; peer rows name the port; register rows name the initiator (R568). -/
inductive Instr where
  | resetRelease (straps : BitVec 12) (refB : Bool)
  | pwrOkLoss
  | bootStepEnd (o : BootObs)
  | lockTimeout
  | inService
  | beatBoundary
  | deadlineMissed (dest : Fin 7)
  | frameBoundary (o : FrameObs)
  | servoMeasurement
  | followerMeasurement
  | catchUpDone
  | holdoverTimeout
  | ppsInEdge (count : BitVec 64) (phase : Fin 8)
  | ppsMissing
  | ppsOutPulse
  | rootSwitch
  | rootRelock (ok : Bool)
  | rootRetire (root : Fin 2)
  | frameReceive (port : Fin 8) (bytes : List Byte) (fcsOk : Bool) (count : BitVec 64) (phase : Fin 8)
  | pdelayReqSend (port : Fin 8)
  | fdbAgeOut (mac : BitVec 48)
  | portEvent (port : Fin 8) (linkLost relockFailed : Bool)
  | parserTakeItem (m : Fin 16)
  | parserExtract (m : Fin 16) (dst : Fin 32) (off : BitVec 14) (width : Fin 65) (little : Bool)
  | parserExtracts (m : Fin 16) (dst : Fin 32) (off : BitVec 14) (width : Fin 65) (little : Bool)
  | parserAlu (m : Fin 16) (op : AluOp) (dst src : Fin 32) (b : ParserArg)
  | parserBranch (m : Fin 16) (cond : BranchCond) (a : Fin 32) (b : ParserArg) (target : Fin 512)
  | parserLoop (m : Fin 16) (count : ParserArg) (len : Fin 512) (stride : BitVec 16)
  | parserScale (m : Fin 16) (dst src : Fin 32) (mult : BitVec 32) (shift : Fin 64)
  | parserPolar (m : Fin 16) (dst range azimuth elevation : Fin 32)
  | parserTime (m : Fin 16) (op : ParserTimeOp)
  | parserEmit (m : Fin 16)
  | parserImage (m : Fin 16) (line offset : Fin 32) (start len : BitVec 14) (marker : Bool)
  | parserMotion (m : Fin 16) (kind : Fin 16) (src : Fin 32)
  | parserDrop (m : Fin 16)
  | parserEnd (m : Fin 16)
  | itemRelease
  | deskew
  | peaFile
  | splineVersionPublish
  | redeskew
  | rekeyStart (r : Fin 512)
  | rekeyCopyDone (r : Fin 512)
  | rekeyDrainDone (r : Fin 512)
  | ageingPass (pool : Nat)
  | podMerge (key : BitVec 48)
  | podRelocate (key : BitVec 48)
  | deltaBatchArrive (b : DeltaBatch)
  | deltaApply
  | recordTransmit (dest : Fin 7)
  | seqNext (e : Fin 20) (c : CtxSel)
  | seqLoop (e : Fin 20) (c : CtxSel) (count : BitVec 16)
  | seqLoopEnd (e : Fin 20) (c : CtxSel)
  | seqJumpMask (e : Fin 20) (c : CtxSel) (offset : BitVec 16)
  | seqEndPass (e : Fin 20) (c : CtxSel) (unit : BitVec 16) (cycles : BitVec 32)
  | seqHalt (e : Fin 20) (c : CtxSel) (unit : BitVec 16)
  | arrayMac (e : Fin 20) (c : CtxSel) (mode : ArrayMode) (bankB : Bool) (k : BitVec 16) (w : BitVec 8)
  | arrayMacFirst (e : Fin 20) (c : CtxSel) (mode : ArrayMode) (bankB : Bool) (k : BitVec 16) (w : BitVec 8)
  | arrayDrain (e : Fin 20) (c : CtxSel) (bankB : Bool) (requant : Fin 256) (d : Fin 16)
  | vecAdd (e : Fin 20) (c : CtxSel) (dst a b : Fin 64)
  | vecSub (e : Fin 20) (c : CtxSel) (dst a b : Fin 64)
  | vecMul (e : Fin 20) (c : CtxSel) (dst a b : Fin 64)
  | vecMulr (e : Fin 20) (c : CtxSel) (dst a b : Fin 64) (imm : Fin 64)
  | vecShr (e : Fin 20) (c : CtxSel) (dst a : Fin 64) (imm : Fin 64)
  | vecShl (e : Fin 20) (c : CtxSel) (dst a : Fin 64) (imm : Fin 64)
  | vecMin (e : Fin 20) (c : CtxSel) (dst a b : Fin 64)
  | vecMax (e : Fin 20) (c : CtxSel) (dst a b : Fin 64)
  | vecCmp (e : Fin 20) (c : CtxSel) (op : VecCmp) (a b : Fin 64)
  | vecSel (e : Fin 20) (c : CtxSel) (dst a b : Fin 64)
  | vecPwl (e : Fin 20) (c : CtxSel) (dst a : Fin 64) (table : Fin 16)
  | vecReduce (e : Fin 20) (c : CtxSel) (dst a : Fin 64)
  | vecCvt (e : Fin 20) (c : CtxSel) (a : Fin 64) (requant : Fin 256) (d : Fin 16)
  | vecAccv (e : Fin 20) (c : CtxSel) (dst : Fin 64) (bankB : Bool) (row : Fin 128)
  | vecLoadv (e : Fin 20) (c : CtxSel) (dst : Fin 64)
  | rootRecip (e : Fin 20) (c : CtxSel) (fmt : Fin 16) (dst a : Fin 64) (lane : Fin 64)
  | rootDiv (e : Fin 20) (c : CtxSel) (fmt : Fin 16) (dst a b : Fin 64) (lane : Fin 64)
  | rootSqrt (e : Fin 20) (c : CtxSel) (fmt : Fin 16) (dst a : Fin 64) (lane : Fin 64)
  | rootRsqrt (e : Fin 20) (c : CtxSel) (fmt : Fin 16) (dst a : Fin 64) (lane : Fin 64)
  | rootPivot (e : Fin 20) (c : CtxSel) (fmt : Fin 16) (dst a : Fin 64) (lane : Fin 64)
  | syncWait (e : Fin 20) (c : CtxSel) (mask : BitVec 32)
  | syncWaitConsume (e : Fin 20) (c : CtxSel) (mask : BitVec 32)
  | syncSignal (e : Fin 20) (c : CtxSel) (mask : BitVec 32)
  | loadSlot (e : Fin 20) (c : CtxSel) (d : Fin 16) (dest : LoadDest) (n : BitVec 11)
  | storeSlot (e : Fin 20) (c : CtxSel) (d : Fin 16) (src : StoreSrc)
  | exchange (e : Fin 20) (c : CtxSel) (perm : Fin 64) (src : ExchangeSrc)
  | engineEvent (e : Fin 20) (cause : Fin 7)
  | engineHang (e : Fin 20)
  | selfTestDone (e : Fin 20) (ok : Bool)
  | engAssignShadow (e : Fin 20) (ctx : CtxLoad)
  | engSwitch (e : Fin 20)
  | engRelease (e : Fin 20)
  | engRadish (e : Fin 20) (inst : BitVec 16)
  | engRetire (e : Fin 20)
  | radishAnswer (e : Fin 20) (ok : Bool)
  | radishTimeout (e : Fin 20)
  | datasetMoveDone (set : BitVec 16)
  | channelBalanceWindow (o : BalanceObs)
  | moverOpStart (ch : Fin 32) (op : Option MoverOp)
  | moverCopy (ch : Fin 32)
  | moverFill (ch : Fin 32)
  | moverGather (ch : Fin 32)
  | moverScatter (ch : Fin 32)
  | moverDeliver (ch : Fin 32)
  | moverOpComplete (ch : Fin 32)
  | fastPublish
  | fastSolveEnd (track : Fin 64) (o : FastOutcome)
  | fastDeadlineMiss
  | slowPublish
  | slowDeadlineMiss
  | slotLoad (ini : Initiator)
  | slotCancel (ini : Initiator)
  | slotCopyDone
  | slotVerifyDone (certOk sigOk : Bool) (key : Nat)
  | admissionDone (body : ImageBody)
  | rehearsalDone (r : RehearsalResult)
  | armingDone (e : Fin 20)
  | dramRead (ch : Fin 18) (addr : BitVec 30) (first second third : Decoded)
  | dramRepair (ch : Fin 18)
  | dramCopyDone
  | dramRefresh (ch : Fin 18) (bank : Fin 16)
  | dramRecalibrate (ch : Fin 18) (ok : Bool)
  | scrubRead (first second third : Decoded)
  | sramReadError (unit : Fin 25) (bank : Fin 32) (addr : Nat) (uncorrectable again : Bool)
  | meshDoubleBit (node : Fin 45) (index : Nat)
  | peerSignalDetect (p : Fin 6) (present : Bool)
  | peerTrainingDone (p : Fin 6) (ok : BitVec 5)
  | peerAligned (p : Fin 6)
  | helloSend (p : Fin 6)
  | helloFlit (p : Fin 6) (h : FlitHead) (b : HelloBody)
  | updateFlit (p : Fin 6) (h : FlitHead) (b : HelloBody)
  | laneSwapFlit (p : Fin 6) (h : FlitHead) (lane : Fin 5) (first : BitVec 12)
  | seedReqFlit (p : Fin 6) (h : FlitHead)
  | refreshReqFlit (p : Fin 6) (h : FlitHead)
  | timeFlitSend (p : Fin 6) (count : BitVec 64) (phase : Fin 8)
  | timeFlit (p : Fin 6) (h : FlitHead) (b : TimeBody) (count : BitVec 64) (phase : Fin 8)
  | nakFlit (p : Fin 6) (h : FlitHead)
  | replayTimeout (p : Fin 6)
  | laneLockLoss (p : Fin 6) (lane : Fin 5)
  | portDown (p : Fin 6)
  | commitFlit (p : Fin 6) (h : FlitHead) (records : List SentRecord)
  | peaFlit (p : Fin 6) (h : FlitHead) (b : PeaBody)
  | writeFlit (p : Fin 6) (h : FlitHead) (dest : BitVec 14) (b : WriteBody)
  | mirrorFlit (p : Fin 6) (h : FlitHead) (entries : List MirrorEntry)
  | seedFlit (p : Fin 6) (h : FlitHead) (entries : List MirrorEntry)
  | mirrorLag
  | seedTimeout
  | poseSample
  | comparisonComplete
  | compareSkipped
  | recheckEnd (slot : Fin 8) (differs : List (Fin 20))
  | recheckTimeout (slot : Fin 8)
  | heartbeatStop
  | powerSag (internal : Bool)
  | saveComplete (us : Nat)
  | marrowSweep
  | trickleWrite (ok : Bool)
  | thermalTrip
  | powerDomainFault (d : Option (Bool × Fin 20))
  | pciePerst
  | functionLevelReset (fn : Fin 2)
  | pushWord (ini : Initiator) (off : Fin 1024) (words : List PushWord)
  | itemTake (fn : Fin 2)
  | hostNop (fn : Fin 2)
  | hostFence (fn : Fin 2)
  | descCreate (fn : Fin 2)
  | descDestroy (fn : Fin 2)
  | hostMove (fn : Fin 2)
  | mapWindow (fn : Fin 2)
  | unmapWindow (fn : Fin 2)
  | hostDump (fn : Fin 2)
  | hostAttest (fn : Fin 2)
  | fenceComplete (fn : Fin 2)
  | unmapWindowComplete (fn : Fin 2)
  | dumpComplete
  | attestComplete
  | ringRecordWrite
  | ringSuspend
  | ringIrq
  | registerWrite (ini : Initiator) (off : BitVec 26) (bytes : List (Option Byte))
  | loRead (ini : Initiator) (off : BitVec 26) (enables : List Bool)
  | hiWrite (ini : Initiator) (off : BitVec 26) (data : Word)
  | aliasWrite (ini : Initiator) (block : Fin 19) (word : Fin 1024) (bit : Fin 32) (data : Word)
  | blockLock (ini : Initiator) (block : Fin 19)
  | lockAll (ini : Initiator)
  | timeSnap (ini : Initiator)
  | timeSetGo (ini : Initiator)
  | portSpeedWrite (ini : Initiator) (port : Fin 8) (data : Word)
  | fdbFlush (ini : Initiator)
  | ingestFlush (ini : Initiator) (mask : BitVec 8)
  | wmHiSeenClear (ini : Initiator) (mask : BitVec 8)
  | rekeyAll (ini : Initiator)
  | marginReset (ini : Initiator)
  | escapeEventClear (ini : Initiator) (mask : BitVec 20)
  | releaseCaptures (ini : Initiator) (block : Fin 19)
  | coldAll (ini : Initiator)
  | placeEvaluate (ini : Initiator)
  | scrubNow (ini : Initiator)
  | peerRetry (ini : Initiator) (mask : BitVec 6)
  | refreshMirror (ini : Initiator)
  | chipCoordWrite (ini : Initiator) (data : Word)
  | safetyResume (ini : Initiator)
  | forceHold (ini : Initiator)
  | faultClear (ini : Initiator) (data : Word)
  | hqFlush (ini : Initiator)
  | cplEnable (ini : Initiator) (on : Bool)
  | cplHeadWrite (ini : Initiator) (data : Word)
  | ringEnable (ini : Initiator) (on : Bool)
  | ringReadWrite (ini : Initiator) (data : BitVec 64)
  | outPost (ini : Initiator)
  | inAck (ini : Initiator)
  | mboxTelemetry
  | mboxBootTimes
  | mboxFwWrite (c : SlotCheck)
  | advanceFw (ini : Initiator)
  | advanceImage (ini : Initiator) (ok : Bool)
  | debugChallenge (ini : Initiator) (random : BitVec 256)
  | debugUnlock (ini : Initiator) (certOk sigOk : Bool)
  | fuseProgram (ini : Initiator)
  | fuseProgramDone (ok : Bool)
  | marrowForget (ini : Initiator)
  | smbReceiveByte
  | smbReadReg (off : BitVec 32)
  | smbWriteReg (off : BitVec 32) (data : Word) (pecOk : Bool)
  | smbTelemetry
  | smbSerial
  | smbAlertResponse
  | resetAssert
  | pwrOkRise
  | sensorLinkUp (port : Fin 8)
  | sensorLinkDown (port : Fin 8)
  | delayReqSend
  | slowSolveEnd (o : SlowOutcome)
  | peerSerdesPllLoss (p : Fin 6) (relocked : Bool)
  | heartbeatToggle
  | keeperRecordWrite (ok : Bool)
  | meshSingleBit (router : Fin 45) (link : Fin 4)
  deriving DecidableEq, Repr

end Sys2Proof
end

