-- ==== Sys2Proof/Config.lean ====
section
/-! DEFINITION. Values the spec leaves open. Each is a constant without a body, so that no proof can rest on its value. -/

namespace Sys2Proof

/-- A free natural number: the `n`-th value the part takes that the spec leaves open (log entry 2). -/
opaque Config.freeNat : Nat → Nat

/-- A free integer, as `Config.freeNat`. -/
opaque Config.freeInt : Nat → Int

/-- The byte that host memory holds at address `a` before anything in the model writes it (log entry 3). -/
opaque Config.hostByte : Nat → Byte

/-- The signature that the device identity key makes over a byte string (R712, R722; log entry 4). -/
opaque Config.signature : List Byte → List Byte

/-- The DRAM byte address, in logical channel address order, of byte `o` of data set `d` under key `k` (R462, R570); the
spec does not fix where the controller places a granule within its channel (log entry 5). -/
opaque Config.dramAddress : Nat → Nat → Nat → Nat

/-- The DRAM byte address, in the same order, of the first byte of pool slot `i` (R209, R463; log entry 5). -/
opaque Config.poolAddress : Nat → Nat

/-- The DRAM byte address, in the same order, of bucket `b` of the node table (R196; log entry 5). -/
opaque Config.tableAddress : Nat → Nat

/-- The commons byte address of byte `o` of data set `d` (R450, R570; log entry 5). -/
opaque Config.commonsAddress : Nat → Nat → Nat

/-- The commons slices over which a data set is interleaved, one, two or four of them, as a mask (R450, R484; log entry 5). -/
opaque Config.commonsSlices : Nat → Nat

/-- The fixed linear map KNOT_MAP of an image (R390): control points CP_66 to CP_71, each six values, from the 15
states of a head. The SOLVER section's layout is not given (log entry 6). -/
opaque Config.knotMap : Nat → List Int → List (List Int)

/-- The bytes in which the keeper die holds the fault and spare map, over which an attestation report is digested (R722,
R741); the spec does not lay them out. The map is given as its entries, repairs and remaps (log entry 27). -/
opaque Config.mapBytes : List (List Nat) → List Byte

/-- The parser's sine table of 65,536 entries (R138), an entry per 2^-16 turn, as s1.30; the spec does not list it (log
entry 16). -/
opaque Config.sineTable : Nat → Int

/-- The mesh router of node `n`, in the order of the node table of R45 (engines 0 to 19, commons slices 20 to 23, memory
nodes 24 to 32, sensor bridge 33, peer bridges 34 to 36, host bridge 37, ingest 38, pod store 39, commit 40, movers 41
and 42, control 43 and 44); the spec gives no positions (log entry 14). -/
opaque Config.routerOf : Nat → Nat

end Sys2Proof
end

