-- ==== Sys2Proof/Machine/RegMap.lean ====
section
/-! DEFINITION. The map of the control window: the offset of every register the spec tables, its fields, its access
codes and its reset value (R659, R22 and the register tables of each chapter). Offsets count from the window's base. -/

namespace Sys2Proof

/-- Access code of a field (R22): `w1sp` is a W1S field that only PF1 and the secure initiators may write (R789). -/
inductive FieldAcc where
  | ro | rw | w1c | w1s | w1sp | wo
  deriving DecidableEq, Repr

/-- A field of a writable register: bits [hi:lo], its code and the values it accepts (R12, R103). -/
structure FieldDef where
  hi : Nat
  lo : Nat
  acc : FieldAcc
  lk : Bool := false
  min : Nat := 0
  max : Nat := 0xFFFFFFFF
  deriving DecidableEq, Repr

/-- A register, or an array of `c1` by `c2` registers at strides `s1` and `s2`. `fields` lists the writable fields;
`group` gives the distances from a _LO word to the words of its group (R669); `wp` and `rp` mark write- and
read-privileged registers (R680, R681). -/
structure RegDef where
  name : String
  base : Nat
  s1 : Nat := 4
  c1 : Nat := 1
  s2 : Nat := 4
  c2 : Nat := 1
  fields : List FieldDef := []
  sh : Bool := false
  group : List Nat := []
  wp : Bool := false
  rp : Bool := false
  deriving DecidableEq, Repr


/-! ### Global (R689) -/

/-- GLOBAL_STATUS. -/
def Reg.GLOBAL_STATUS : Nat := 0x0
/-- GLOBAL_EVENTS. -/
def Reg.GLOBAL_EVENTS : Nat := 0x4
/-- GLOBAL_EVENT_EN. -/
def Reg.GLOBAL_EVENT_EN : Nat := 0x8
/-- GLOBAL_CTRL. -/
def Reg.GLOBAL_CTRL : Nat := 0xc
/-- BLOCK_EVENT_SUMMARY. -/
def Reg.BLOCK_EVENT_SUMMARY : Nat := 0x10
/-- BLOCK_LOCKED. -/
def Reg.BLOCK_LOCKED : Nat := 0x14
/-- MBOX_CTRL. -/
def Reg.MBOX_CTRL : Nat := 0x18
/-- CHIP_ID. -/
def Reg.CHIP_ID : Nat := 0x1000
/-- BOOT_FW_VERSION. -/
def Reg.BOOT_FW_VERSION : Nat := 0x1004
/-- DIE_TEMP. -/
def Reg.DIE_TEMP : Nat := 0x1008
/-- TEMP_WARN. -/
def Reg.TEMP_WARN : Nat := 0x100c
/-- SCRATCH, index `n`. -/
def Reg.SCRATCH (n : Nat) : Nat := 0x1040 + n * 0x4
/-- MBOX_OUT, index `n`. -/
def Reg.MBOX_OUT (n : Nat) : Nat := 0x1100 + n * 0x4
/-- MBOX_IN, index `n`. -/
def Reg.MBOX_IN (n : Nat) : Nat := 0x1120 + n * 0x4
/-- MBOX_POSTS. -/
def Reg.MBOX_POSTS : Nat := 0x1200

/-- Registers of the block Global (R689). -/
def regsGlobal : List RegDef := [
  { name := "GLOBAL_STATUS", base := 0x0 },
  { name := "GLOBAL_EVENTS", base := 0x4, fields := [⟨3, 0, .w1c, false, 0, 0xFFFFFFFF⟩] },
  { name := "GLOBAL_EVENT_EN", base := 0x8, fields := [⟨3, 0, .rw, false, 0, 0xFFFFFFFF⟩] },
  { name := "GLOBAL_CTRL", base := 0xc, fields := [⟨1, 0, .w1s, false, 0, 0xFFFFFFFF⟩], wp := true },
  { name := "BLOCK_EVENT_SUMMARY", base := 0x10 },
  { name := "BLOCK_LOCKED", base := 0x14 },
  { name := "MBOX_CTRL", base := 0x18, fields := [⟨1, 0, .w1s, false, 0, 0xFFFFFFFF⟩], wp := true },
  { name := "CHIP_ID", base := 0x1000 },
  { name := "BOOT_FW_VERSION", base := 0x1004 },
  { name := "DIE_TEMP", base := 0x1008 },
  { name := "TEMP_WARN", base := 0x100c, fields := [⟨7, 0, .rw, true, 60, 125⟩], wp := true },
  { name := "SCRATCH", base := 0x1040, s1 := 0x4, c1 := 16, fields := [⟨31, 0, .rw, false, 0, 0xFFFFFFFF⟩] },
  { name := "MBOX_OUT", base := 0x1100, s1 := 0x4, c1 := 8, fields := [⟨31, 0, .rw, false, 0, 0xFFFFFFFF⟩], wp := true },
  { name := "MBOX_IN", base := 0x1120, s1 := 0x4, c1 := 8, wp := true, rp := true },
  { name := "MBOX_POSTS", base := 0x1200 }]

/-! ### Timeline (R101) -/

/-- TIME_STATUS. -/
def Reg.TIME_STATUS : Nat := 0x100000
/-- TIME_EVENTS. -/
def Reg.TIME_EVENTS : Nat := 0x100004
/-- TIME_EVENT_EN. -/
def Reg.TIME_EVENT_EN : Nat := 0x100008
/-- TIME_CTRL. -/
def Reg.TIME_CTRL : Nat := 0x10000c
/-- TIME_COUNT_LO. -/
def Reg.TIME_COUNT_LO : Nat := 0x101000
/-- TIME_COUNT_HI. -/
def Reg.TIME_COUNT_HI : Nat := 0x101004
/-- FUSION_TIME_LO. -/
def Reg.FUSION_TIME_LO : Nat := 0x101008
/-- FUSION_TIME_MID. -/
def Reg.FUSION_TIME_MID : Nat := 0x10100c
/-- FUSION_TIME_HI. -/
def Reg.FUSION_TIME_HI : Nat := 0x101010
/-- BEAT_INDEX_LO. -/
def Reg.BEAT_INDEX_LO : Nat := 0x101018
/-- BEAT_INDEX_HI. -/
def Reg.BEAT_INDEX_HI : Nat := 0x10101c
/-- EPOCH. -/
def Reg.EPOCH : Nat := 0x101020
/-- OFFSET_LO. -/
def Reg.OFFSET_LO : Nat := 0x101028
/-- OFFSET_MID. -/
def Reg.OFFSET_MID : Nat := 0x10102c
/-- OFFSET_HI. -/
def Reg.OFFSET_HI : Nat := 0x101030
/-- RATE_LO. -/
def Reg.RATE_LO : Nat := 0x101038
/-- RATE_HI. -/
def Reg.RATE_HI : Nat := 0x10103c
/-- FREQ_TERM_LO. -/
def Reg.FREQ_TERM_LO : Nat := 0x101040
/-- FREQ_TERM_HI. -/
def Reg.FREQ_TERM_HI : Nat := 0x101044
/-- LAST_ERROR_LO. -/
def Reg.LAST_ERROR_LO : Nat := 0x101048
/-- LAST_ERROR_HI. -/
def Reg.LAST_ERROR_HI : Nat := 0x10104c
/-- SLEW_REMAINING_LO. -/
def Reg.SLEW_REMAINING_LO : Nat := 0x101050
/-- SLEW_REMAINING_HI. -/
def Reg.SLEW_REMAINING_HI : Nat := 0x101054
/-- SNAP_COUNT_LO. -/
def Reg.SNAP_COUNT_LO : Nat := 0x101058
/-- SNAP_COUNT_HI. -/
def Reg.SNAP_COUNT_HI : Nat := 0x10105c
/-- SNAP_TIME_LO. -/
def Reg.SNAP_TIME_LO : Nat := 0x101060
/-- SNAP_TIME_MID. -/
def Reg.SNAP_TIME_MID : Nat := 0x101064
/-- SNAP_TIME_HI. -/
def Reg.SNAP_TIME_HI : Nat := 0x101068
/-- SNAP_BEAT_LO. -/
def Reg.SNAP_BEAT_LO : Nat := 0x10106c
/-- SNAP_BEAT_HI. -/
def Reg.SNAP_BEAT_HI : Nat := 0x101070
/-- SNAP_EPOCH. -/
def Reg.SNAP_EPOCH : Nat := 0x101074
/-- SERVO_CTRL. -/
def Reg.SERVO_CTRL : Nat := 0x101080
/-- STEP_THRESHOLD. -/
def Reg.STEP_THRESHOLD : Nat := 0x101084
/-- LOCK_CTRL. -/
def Reg.LOCK_CTRL : Nat := 0x101088
/-- HOLDOVER_TIMEOUT. -/
def Reg.HOLDOVER_TIMEOUT : Nat := 0x10108c
/-- STEP_CTRL. -/
def Reg.STEP_CTRL : Nat := 0x101090
/-- PTP_CTRL. -/
def Reg.PTP_CTRL : Nat := 0x101094
/-- PPS_CTRL. -/
def Reg.PPS_CTRL : Nat := 0x101098
/-- PPS_IN_STAMP_LO. -/
def Reg.PPS_IN_STAMP_LO : Nat := 0x1010a0
/-- PPS_IN_STAMP_MID. -/
def Reg.PPS_IN_STAMP_MID : Nat := 0x1010a4
/-- PPS_IN_STAMP_HI. -/
def Reg.PPS_IN_STAMP_HI : Nat := 0x1010a8
/-- ROLE_STATUS. -/
def Reg.ROLE_STATUS : Nat := 0x1010b0
/-- ROOT_COORD. -/
def Reg.ROOT_COORD : Nat := 0x1010b4
/-- TIME_SET_LO. -/
def Reg.TIME_SET_LO : Nat := 0x1010b8
/-- TIME_SET_MID. -/
def Reg.TIME_SET_MID : Nat := 0x1010bc
/-- TIME_SET_HI. -/
def Reg.TIME_SET_HI : Nat := 0x1010c0
/-- MEAS_COUNT. -/
def Reg.MEAS_COUNT : Nat := 0x1010d0
/-- OUTLIER_COUNT. -/
def Reg.OUTLIER_COUNT : Nat := 0x1010d4
/-- STEP_COUNT. -/
def Reg.STEP_COUNT : Nat := 0x1010d8
/-- PRE_EPOCH_DROPS. -/
def Reg.PRE_EPOCH_DROPS : Nat := 0x1010dc
/-- STALE_STAMPS. -/
def Reg.STALE_STAMPS : Nat := 0x1010e0
/-- LOCK_LOSS_COUNT. -/
def Reg.LOCK_LOSS_COUNT : Nat := 0x1010e4

/-- Registers of the block Timeline (R101), part 0. -/
def regsTimeline0 : List RegDef := [
  { name := "TIME_STATUS", base := 0x100000 },
  { name := "TIME_EVENTS", base := 0x100004, fields := [⟨12, 0, .w1c, false, 0, 0xFFFFFFFF⟩] },
  { name := "TIME_EVENT_EN", base := 0x100008, fields := [⟨12, 0, .rw, false, 0, 0xFFFFFFFF⟩] },
  { name := "TIME_CTRL", base := 0x10000c, fields := [⟨2, 0, .w1s, false, 0, 0xFFFFFFFF⟩], wp := true },
  { name := "TIME_COUNT_LO", base := 0x101000, group := [4] },
  { name := "TIME_COUNT_HI", base := 0x101004, sh := true },
  { name := "FUSION_TIME_LO", base := 0x101008, group := [4, 8] },
  { name := "FUSION_TIME_MID", base := 0x10100c, sh := true },
  { name := "FUSION_TIME_HI", base := 0x101010, sh := true },
  { name := "BEAT_INDEX_LO", base := 0x101018, group := [4, 8] },
  { name := "BEAT_INDEX_HI", base := 0x10101c, sh := true },
  { name := "EPOCH", base := 0x101020, sh := true },
  { name := "OFFSET_LO", base := 0x101028, group := [4, 8] },
  { name := "OFFSET_MID", base := 0x10102c, sh := true },
  { name := "OFFSET_HI", base := 0x101030, sh := true },
  { name := "RATE_LO", base := 0x101038, group := [4] },
  { name := "RATE_HI", base := 0x10103c, sh := true },
  { name := "FREQ_TERM_LO", base := 0x101040, group := [4] },
  { name := "FREQ_TERM_HI", base := 0x101044, sh := true },
  { name := "LAST_ERROR_LO", base := 0x101048, group := [4] },
  { name := "LAST_ERROR_HI", base := 0x10104c, sh := true },
  { name := "SLEW_REMAINING_LO", base := 0x101050, group := [4] },
  { name := "SLEW_REMAINING_HI", base := 0x101054, sh := true },
  { name := "SNAP_COUNT_LO", base := 0x101058, group := [4] },
  { name := "SNAP_COUNT_HI", base := 0x10105c, sh := true },
  { name := "SNAP_TIME_LO", base := 0x101060, group := [4, 8] },
  { name := "SNAP_TIME_MID", base := 0x101064, sh := true },
  { name := "SNAP_TIME_HI", base := 0x101068, sh := true },
  { name := "SNAP_BEAT_LO", base := 0x10106c, group := [4] },
  { name := "SNAP_BEAT_HI", base := 0x101070, sh := true }]

/-- Registers of the block Timeline (R101), part 1. -/
def regsTimeline1 : List RegDef := [
  { name := "SNAP_EPOCH", base := 0x101074 },
  { name := "SERVO_CTRL", base := 0x101080, fields := [⟨31, 24, .rw, true, 1, 50⟩, ⟨21, 16, .rw, true, 24, 48⟩, ⟨13, 8, .rw, true, 24, 40⟩, ⟨2, 0, .rw, true, 0, 5⟩], wp := true },
  { name := "STEP_THRESHOLD", base := 0x101084, fields := [⟨31, 0, .rw, true, 10000, 1000000000⟩], wp := true },
  { name := "LOCK_CTRL", base := 0x101088, fields := [⟨31, 24, .rw, true, 1, 255⟩, ⟨23, 0, .rw, true, 0, 0xFFFFFFFF⟩], wp := true },
  { name := "HOLDOVER_TIMEOUT", base := 0x10108c, fields := [⟨15, 0, .rw, true, 1, 65535⟩], wp := true },
  { name := "STEP_CTRL", base := 0x101090, fields := [⟨31, 16, .rw, true, 1, 65535⟩, ⟨13, 8, .rw, true, 4, 63⟩, ⟨3, 0, .rw, true, 1, 15⟩], wp := true },
  { name := "PTP_CTRL", base := 0x101094, fields := [⟨31, 31, .rw, true, 0, 0xFFFFFFFF⟩, ⟨18, 17, .rw, true, 0, 2⟩, ⟨16, 16, .rw, true, 0, 0xFFFFFFFF⟩, ⟨15, 8, .rw, true, 0, 127⟩, ⟨2, 0, .rw, true, 0, 0xFFFFFFFF⟩], wp := true },
  { name := "PPS_CTRL", base := 0x101098, fields := [⟨31, 8, .rw, true, 1, 500000⟩, ⟨5, 5, .rw, true, 0, 0xFFFFFFFF⟩, ⟨4, 4, .rw, true, 0, 0xFFFFFFFF⟩, ⟨1, 1, .rw, true, 0, 0xFFFFFFFF⟩, ⟨0, 0, .rw, true, 0, 0xFFFFFFFF⟩], wp := true },
  { name := "PPS_IN_STAMP_LO", base := 0x1010a0, group := [4, 8] },
  { name := "PPS_IN_STAMP_MID", base := 0x1010a4, sh := true },
  { name := "PPS_IN_STAMP_HI", base := 0x1010a8, sh := true },
  { name := "ROLE_STATUS", base := 0x1010b0 },
  { name := "ROOT_COORD", base := 0x1010b4 },
  { name := "TIME_SET_LO", base := 0x1010b8, fields := [⟨31, 0, .rw, false, 0, 0xFFFFFFFF⟩], wp := true },
  { name := "TIME_SET_MID", base := 0x1010bc, fields := [⟨31, 0, .rw, false, 0, 0xFFFFFFFF⟩], wp := true },
  { name := "TIME_SET_HI", base := 0x1010c0, fields := [⟨31, 0, .rw, false, 0, 0xFFFFFFFF⟩], wp := true },
  { name := "MEAS_COUNT", base := 0x1010d0 },
  { name := "OUTLIER_COUNT", base := 0x1010d4 },
  { name := "STEP_COUNT", base := 0x1010d8 },
  { name := "PRE_EPOCH_DROPS", base := 0x1010dc },
  { name := "STALE_STAMPS", base := 0x1010e0 },
  { name := "LOCK_LOSS_COUNT", base := 0x1010e4 }]

/-! ### SensorPorts (R163) -/

/-- PORT_STATUS. -/
def Reg.PORT_STATUS : Nat := 0x200000
/-- PORT_EVENTS. -/
def Reg.PORT_EVENTS : Nat := 0x200004
/-- PORT_EVENT_EN. -/
def Reg.PORT_EVENT_EN : Nat := 0x200008
/-- PORT_CTRL. -/
def Reg.PORT_CTRL : Nat := 0x20000c
/-- STATION_MAC_LO. -/
def Reg.STATION_MAC_LO : Nat := 0x201000
/-- STATION_MAC_HI. -/
def Reg.STATION_MAC_HI : Nat := 0x201004
/-- IP4_ADDR. -/
def Reg.IP4_ADDR : Nat := 0x201010
/-- IP6_ADDR, index `n`. -/
def Reg.IP6_ADDR (n : Nat) : Nat := 0x201020 + n * 0x4
/-- BRIDGE_CTRL. -/
def Reg.BRIDGE_CTRL : Nat := 0x201040
/-- FDB_COUNT. -/
def Reg.FDB_COUNT : Nat := 0x201044
/-- UNMATCHED. -/
def Reg.UNMATCHED : Nat := 0x201048
/-- PORT_CFG, index `n`. -/
def Reg.PORT_CFG (n : Nat) : Nat := 0x202000 + n * 0x100
/-- PORT_LINK, index `n`. -/
def Reg.PORT_LINK (n : Nat) : Nat := 0x202004 + n * 0x100
/-- PDELAY, index `n`. -/
def Reg.PDELAY (n : Nat) : Nat := 0x202008 + n * 0x100
/-- RX_FRAMES_LO, index `n`. -/
def Reg.RX_FRAMES_LO (n : Nat) : Nat := 0x202010 + n * 0x100
/-- RX_FRAMES_HI, index `n`. -/
def Reg.RX_FRAMES_HI (n : Nat) : Nat := 0x202014 + n * 0x100
/-- TX_FRAMES_LO, index `n`. -/
def Reg.TX_FRAMES_LO (n : Nat) : Nat := 0x202018 + n * 0x100
/-- TX_FRAMES_HI, index `n`. -/
def Reg.TX_FRAMES_HI (n : Nat) : Nat := 0x20201c + n * 0x100
/-- RX_ERRORS, index `n`. -/
def Reg.RX_ERRORS (n : Nat) : Nat := 0x202020 + n * 0x100
/-- STOMPED, index `n`. -/
def Reg.STOMPED (n : Nat) : Nat := 0x202024 + n * 0x100
/-- EGRESS_DROPS, index `n`. -/
def Reg.EGRESS_DROPS (n : Nat) : Nat := 0x202028 + n * 0x100
/-- PORT_EVENT_COUNT, index `n`. -/
def Reg.PORT_EVENT_COUNT (n : Nat) : Nat := 0x20202c + n * 0x100
/-- FEC_CORRECTED, index `n`. -/
def Reg.FEC_CORRECTED (n : Nat) : Nat := 0x202030 + n * 0x100
/-- FEC_UNCORRECTED, index `n`. -/
def Reg.FEC_UNCORRECTED (n : Nat) : Nat := 0x202034 + n * 0x100
/-- TC_CORRECTED, index `n`. -/
def Reg.TC_CORRECTED (n : Nat) : Nat := 0x202038 + n * 0x100

/-- Registers of the block SensorPorts (R163). -/
def regsSensorPorts : List RegDef := [
  { name := "PORT_STATUS", base := 0x200000 },
  { name := "PORT_EVENTS", base := 0x200004, fields := [⟨24, 0, .w1c, false, 0, 0xFFFFFFFF⟩] },
  { name := "PORT_EVENT_EN", base := 0x200008, fields := [⟨24, 0, .rw, false, 0, 0xFFFFFFFF⟩] },
  { name := "PORT_CTRL", base := 0x20000c, fields := [⟨1, 0, .w1s, false, 0, 0xFFFFFFFF⟩], wp := true },
  { name := "STATION_MAC_LO", base := 0x201000, group := [4] },
  { name := "STATION_MAC_HI", base := 0x201004, sh := true },
  { name := "IP4_ADDR", base := 0x201010, fields := [⟨31, 0, .rw, true, 0, 0xFFFFFFFF⟩], wp := true },
  { name := "IP6_ADDR", base := 0x201020, s1 := 0x4, c1 := 4, fields := [⟨31, 0, .rw, true, 0, 0xFFFFFFFF⟩], wp := true },
  { name := "BRIDGE_CTRL", base := 0x201040, fields := [⟨31, 16, .rw, true, 10, 65535⟩, ⟨3, 2, .rw, true, 0, 2⟩], wp := true },
  { name := "FDB_COUNT", base := 0x201044 },
  { name := "UNMATCHED", base := 0x201048 },
  { name := "PORT_CFG", base := 0x202000, s1 := 0x100, c1 := 8, fields := [⟨1, 0, .rw, true, 0, 0xFFFFFFFF⟩], wp := true },
  { name := "PORT_LINK", base := 0x202004, s1 := 0x100, c1 := 8 },
  { name := "PDELAY", base := 0x202008, s1 := 0x100, c1 := 8 },
  { name := "RX_FRAMES_LO", base := 0x202010, s1 := 0x100, c1 := 8, group := [4] },
  { name := "RX_FRAMES_HI", base := 0x202014, s1 := 0x100, c1 := 8, sh := true },
  { name := "TX_FRAMES_LO", base := 0x202018, s1 := 0x100, c1 := 8, group := [4] },
  { name := "TX_FRAMES_HI", base := 0x20201c, s1 := 0x100, c1 := 8, sh := true },
  { name := "RX_ERRORS", base := 0x202020, s1 := 0x100, c1 := 8 },
  { name := "STOMPED", base := 0x202024, s1 := 0x100, c1 := 8 },
  { name := "EGRESS_DROPS", base := 0x202028, s1 := 0x100, c1 := 8 },
  { name := "PORT_EVENT_COUNT", base := 0x20202c, s1 := 0x100, c1 := 8 },
  { name := "FEC_CORRECTED", base := 0x202030, s1 := 0x100, c1 := 8 },
  { name := "FEC_UNCORRECTED", base := 0x202034, s1 := 0x100, c1 := 8 },
  { name := "TC_CORRECTED", base := 0x202038, s1 := 0x100, c1 := 8 }]

/-! ### Ingest (R164) -/

/-- INGEST_STATUS. -/
def Reg.INGEST_STATUS : Nat := 0x300000
/-- INGEST_EVENTS. -/
def Reg.INGEST_EVENTS : Nat := 0x300004
/-- INGEST_EVENT_EN. -/
def Reg.INGEST_EVENT_EN : Nat := 0x300008
/-- INGEST_CTRL. -/
def Reg.INGEST_CTRL : Nat := 0x30000c
/-- DECIMATION_LEVEL. -/
def Reg.DECIMATION_LEVEL : Nat := 0x301100
/-- GRANTED_LAST. -/
def Reg.GRANTED_LAST : Nat := 0x301104
/-- PEER_PRIORITY. -/
def Reg.PEER_PRIORITY : Nat := 0x301108
/-- PEER_OFFERED, index `n`. -/
def Reg.PEER_OFFERED (n : Nat) : Nat := 0x301200 + n * 0x10
/-- PEER_DECIMATED, index `n`. -/
def Reg.PEER_DECIMATED (n : Nat) : Nat := 0x301204 + n * 0x10
/-- PEER_GATED, index `n`. -/
def Reg.PEER_GATED (n : Nat) : Nat := 0x301208 + n * 0x10
/-- STREAM_INFO, indexes `n` and `m`. -/
def Reg.STREAM_INFO (n m : Nat) : Nat := 0x304000 + n * 0x10 + m * 0x4
/-- SENSOR_OFFERED, index `n`. -/
def Reg.SENSOR_OFFERED (n : Nat) : Nat := 0x308000 + n * 0x10
/-- SENSOR_DECIMATED, index `n`. -/
def Reg.SENSOR_DECIMATED (n : Nat) : Nat := 0x308004 + n * 0x10
/-- SENSOR_GATED, index `n`. -/
def Reg.SENSOR_GATED (n : Nat) : Nat := 0x308008 + n * 0x10
/-- SENSOR_DROPS, index `n`. -/
def Reg.SENSOR_DROPS (n : Nat) : Nat := 0x30800c + n * 0x10
/-- SENSOR_INFO, index `n`. -/
def Reg.SENSOR_INFO (n : Nat) : Nat := 0x30c000 + n * 0x4
/-- QUEUE_LEVEL, index `n`. -/
def Reg.QUEUE_LEVEL (n : Nat) : Nat := 0x301000 + n * 0x20
/-- WM_HI, index `n`. -/
def Reg.WM_HI (n : Nat) : Nat := 0x301004 + n * 0x20
/-- CROSS_COUNT, index `n`. -/
def Reg.CROSS_COUNT (n : Nat) : Nat := 0x301008 + n * 0x20
/-- DROPPED_WORDS, index `n`. -/
def Reg.DROPPED_WORDS (n : Nat) : Nat := 0x30100c + n * 0x20
/-- FULL_DROPS, index `n`. -/
def Reg.FULL_DROPS (n : Nat) : Nat := 0x301010 + n * 0x20
/-- FCS_DISCARDS, index `n`. -/
def Reg.FCS_DISCARDS (n : Nat) : Nat := 0x301014 + n * 0x20
/-- PARSE_DROPS, index `n`. -/
def Reg.PARSE_DROPS (n : Nat) : Nat := 0x301018 + n * 0x20

/-- Registers of the block Ingest (R164). -/
def regsIngest : List RegDef := [
  { name := "INGEST_STATUS", base := 0x300000 },
  { name := "INGEST_EVENTS", base := 0x300004, fields := [⟨20, 0, .w1c, false, 0, 0xFFFFFFFF⟩] },
  { name := "INGEST_EVENT_EN", base := 0x300008, fields := [⟨20, 0, .rw, false, 0, 0xFFFFFFFF⟩] },
  { name := "INGEST_CTRL", base := 0x30000c, fields := [⟨8, 0, .w1s, false, 0, 0xFFFFFFFF⟩], wp := true },
  { name := "DECIMATION_LEVEL", base := 0x301100 },
  { name := "GRANTED_LAST", base := 0x301104 },
  { name := "PEER_PRIORITY", base := 0x301108, fields := [⟨2, 0, .rw, true, 0, 0xFFFFFFFF⟩], wp := true },
  { name := "PEER_OFFERED", base := 0x301200, s1 := 0x10, c1 := 6 },
  { name := "PEER_DECIMATED", base := 0x301204, s1 := 0x10, c1 := 6 },
  { name := "PEER_GATED", base := 0x301208, s1 := 0x10, c1 := 6 },
  { name := "STREAM_INFO", base := 0x304000, s1 := 0x10, c1 := 256, s2 := 0x4, c2 := 4 },
  { name := "SENSOR_OFFERED", base := 0x308000, s1 := 0x10, c1 := 1024 },
  { name := "SENSOR_DECIMATED", base := 0x308004, s1 := 0x10, c1 := 1024 },
  { name := "SENSOR_GATED", base := 0x308008, s1 := 0x10, c1 := 1024 },
  { name := "SENSOR_DROPS", base := 0x30800c, s1 := 0x10, c1 := 1024 },
  { name := "SENSOR_INFO", base := 0x30c000, s1 := 0x4, c1 := 1024 },
  { name := "QUEUE_LEVEL", base := 0x301000, s1 := 0x20, c1 := 8 },
  { name := "WM_HI", base := 0x301004, s1 := 0x20, c1 := 8, fields := [⟨14, 0, .rw, true, 1, 16384⟩], wp := true },
  { name := "CROSS_COUNT", base := 0x301008, s1 := 0x20, c1 := 8 },
  { name := "DROPPED_WORDS", base := 0x30100c, s1 := 0x20, c1 := 8 },
  { name := "FULL_DROPS", base := 0x301010, s1 := 0x20, c1 := 8 },
  { name := "FCS_DISCARDS", base := 0x301014, s1 := 0x20, c1 := 8 },
  { name := "PARSE_DROPS", base := 0x301018, s1 := 0x20, c1 := 8 }]

/-! ### PodStore (R228) -/

/-- POD_STATUS. -/
def Reg.POD_STATUS : Nat := 0x400000
/-- POD_EVENTS. -/
def Reg.POD_EVENTS : Nat := 0x400004
/-- POD_EVENT_EN. -/
def Reg.POD_EVENT_EN : Nat := 0x400008
/-- POD_CTRL. -/
def Reg.POD_CTRL : Nat := 0x40000c
/-- POOL_PODS. -/
def Reg.POOL_PODS : Nat := 0x401000
/-- POOL_FREE. -/
def Reg.POOL_FREE : Nat := 0x401004
/-- POOL_RESERVE. -/
def Reg.POOL_RESERVE : Nat := 0x401008
/-- HASH_CFG. -/
def Reg.HASH_CFG : Nat := 0x40100c
/-- STASH_USED. -/
def Reg.STASH_USED : Nat := 0x401010
/-- INFLUENCE_RADIUS. -/
def Reg.INFLUENCE_RADIUS : Nat := 0x401014
/-- REDESKEW_CFG. -/
def Reg.REDESKEW_CFG : Nat := 0x401018
/-- DECAY. -/
def Reg.DECAY : Nat := 0x40101c
/-- MERGE_LIMIT. -/
def Reg.MERGE_LIMIT : Nat := 0x401020
/-- OWNED_MIN_X. -/
def Reg.OWNED_MIN_X : Nat := 0x401040
/-- OWNED_MIN_Y. -/
def Reg.OWNED_MIN_Y : Nat := 0x401044
/-- OWNED_MIN_Z. -/
def Reg.OWNED_MIN_Z : Nat := 0x401048
/-- OWNED_MAX_X. -/
def Reg.OWNED_MAX_X : Nat := 0x40104c
/-- OWNED_MAX_Y. -/
def Reg.OWNED_MAX_Y : Nat := 0x401050
/-- OWNED_MAX_Z. -/
def Reg.OWNED_MAX_Z : Nat := 0x401054
/-- PEAS_FILED_LO. -/
def Reg.PEAS_FILED_LO : Nat := 0x401100
/-- PEAS_FILED_HI. -/
def Reg.PEAS_FILED_HI : Nat := 0x401104
/-- PEAS_EVICTED. -/
def Reg.PEAS_EVICTED : Nat := 0x401108
/-- PEAS_FORWARDED. -/
def Reg.PEAS_FORWARDED : Nat := 0x40110c
/-- PEAS_OUTSIDE. -/
def Reg.PEAS_OUTSIDE : Nat := 0x401110
/-- PEAS_REFUSED. -/
def Reg.PEAS_REFUSED : Nat := 0x401114
/-- SPLINE_MISSES. -/
def Reg.SPLINE_MISSES : Nat := 0x401118
/-- RANGE_DROPS. -/
def Reg.RANGE_DROPS : Nat := 0x40111c
/-- PODS_ALLOCATED. -/
def Reg.PODS_ALLOCATED : Nat := 0x401120
/-- PODS_FREED. -/
def Reg.PODS_FREED : Nat := 0x401124
/-- PODS_MERGED. -/
def Reg.PODS_MERGED : Nat := 0x401128
/-- PODS_REFUSED. -/
def Reg.PODS_REFUSED : Nat := 0x40112c
/-- MERGED_HITS. -/
def Reg.MERGED_HITS : Nat := 0x401130
/-- STASH_INSERTS. -/
def Reg.STASH_INSERTS : Nat := 0x401134
/-- REKEYS_DONE. -/
def Reg.REKEYS_DONE : Nat := 0x401138
/-- REDESKEWED. -/
def Reg.REDESKEWED : Nat := 0x40113c
/-- REDESKEW_ABANDONED. -/
def Reg.REDESKEW_ABANDONED : Nat := 0x401140
/-- PROBE_HIST, index `n`. -/
def Reg.PROBE_HIST (n : Nat) : Nat := 0x401144 + n * 0x4
/-- REGION_STATE, index `n`. -/
def Reg.REGION_STATE (n : Nat) : Nat := 0x404000 + n * 0x4
/-- TRACK_INFO, index `n`. -/
def Reg.TRACK_INFO (n : Nat) : Nat := 0x406000 + n * 0x20
/-- TRACK_ORIGIN_LO, index `n`. -/
def Reg.TRACK_ORIGIN_LO (n : Nat) : Nat := 0x406004 + n * 0x20
/-- TRACK_ORIGIN_HI, index `n`. -/
def Reg.TRACK_ORIGIN_HI (n : Nat) : Nat := 0x406008 + n * 0x20
/-- TRACK_POS_X, index `n`. -/
def Reg.TRACK_POS_X (n : Nat) : Nat := 0x40600c + n * 0x20
/-- TRACK_POS_Y, index `n`. -/
def Reg.TRACK_POS_Y (n : Nat) : Nat := 0x406010 + n * 0x20
/-- TRACK_POS_Z, index `n`. -/
def Reg.TRACK_POS_Z (n : Nat) : Nat := 0x406014 + n * 0x20
/-- TRACK_PEAS, index `n`. -/
def Reg.TRACK_PEAS (n : Nat) : Nat := 0x406018 + n * 0x20
/-- SENSOR_MODEL, index `n`. -/
def Reg.SENSOR_MODEL (n : Nat) : Nat := 0x408000 + n * 0x8
/-- SENSOR_CLEAR, index `n`. -/
def Reg.SENSOR_CLEAR (n : Nat) : Nat := 0x408004 + n * 0x8

/-- Registers of the block PodStore (R228), part 0. -/
def regsPodStore0 : List RegDef := [
  { name := "POD_STATUS", base := 0x400000 },
  { name := "POD_EVENTS", base := 0x400004, fields := [⟨8, 0, .w1c, false, 0, 0xFFFFFFFF⟩] },
  { name := "POD_EVENT_EN", base := 0x400008, fields := [⟨8, 0, .rw, false, 0, 0xFFFFFFFF⟩] },
  { name := "POD_CTRL", base := 0x40000c, fields := [⟨0, 0, .w1s, false, 0, 0xFFFFFFFF⟩], wp := true },
  { name := "POOL_PODS", base := 0x401000 },
  { name := "POOL_FREE", base := 0x401004 },
  { name := "POOL_RESERVE", base := 0x401008 },
  { name := "HASH_CFG", base := 0x40100c },
  { name := "STASH_USED", base := 0x401010 },
  { name := "INFLUENCE_RADIUS", base := 0x401014 },
  { name := "REDESKEW_CFG", base := 0x401018 },
  { name := "DECAY", base := 0x40101c },
  { name := "MERGE_LIMIT", base := 0x401020 },
  { name := "OWNED_MIN_X", base := 0x401040 },
  { name := "OWNED_MIN_Y", base := 0x401044 },
  { name := "OWNED_MIN_Z", base := 0x401048 },
  { name := "OWNED_MAX_X", base := 0x40104c },
  { name := "OWNED_MAX_Y", base := 0x401050 },
  { name := "OWNED_MAX_Z", base := 0x401054 },
  { name := "PEAS_FILED_LO", base := 0x401100, group := [4] },
  { name := "PEAS_FILED_HI", base := 0x401104, sh := true },
  { name := "PEAS_EVICTED", base := 0x401108 },
  { name := "PEAS_FORWARDED", base := 0x40110c },
  { name := "PEAS_OUTSIDE", base := 0x401110 },
  { name := "PEAS_REFUSED", base := 0x401114 },
  { name := "SPLINE_MISSES", base := 0x401118 },
  { name := "RANGE_DROPS", base := 0x40111c },
  { name := "PODS_ALLOCATED", base := 0x401120 },
  { name := "PODS_FREED", base := 0x401124 },
  { name := "PODS_MERGED", base := 0x401128 }]

/-- Registers of the block PodStore (R228), part 1. -/
def regsPodStore1 : List RegDef := [
  { name := "PODS_REFUSED", base := 0x40112c },
  { name := "MERGED_HITS", base := 0x401130 },
  { name := "STASH_INSERTS", base := 0x401134 },
  { name := "REKEYS_DONE", base := 0x401138 },
  { name := "REDESKEWED", base := 0x40113c },
  { name := "REDESKEW_ABANDONED", base := 0x401140 },
  { name := "PROBE_HIST", base := 0x401144, s1 := 0x4, c1 := 4 },
  { name := "REGION_STATE", base := 0x404000, s1 := 0x4, c1 := 512 },
  { name := "TRACK_INFO", base := 0x406000, s1 := 0x20, c1 := 64 },
  { name := "TRACK_ORIGIN_LO", base := 0x406004, s1 := 0x20, c1 := 64, group := [4] },
  { name := "TRACK_ORIGIN_HI", base := 0x406008, s1 := 0x20, c1 := 64, sh := true },
  { name := "TRACK_POS_X", base := 0x40600c, s1 := 0x20, c1 := 64 },
  { name := "TRACK_POS_Y", base := 0x406010, s1 := 0x20, c1 := 64 },
  { name := "TRACK_POS_Z", base := 0x406014, s1 := 0x20, c1 := 64 },
  { name := "TRACK_PEAS", base := 0x406018, s1 := 0x20, c1 := 64 },
  { name := "SENSOR_MODEL", base := 0x408000, s1 := 0x8, c1 := 1024 },
  { name := "SENSOR_CLEAR", base := 0x408004, s1 := 0x8, c1 := 1024 }]

/-! ### OnionCommit (R267) -/

/-- COMMIT_STATUS. -/
def Reg.COMMIT_STATUS : Nat := 0x500000
/-- COMMIT_EVENTS. -/
def Reg.COMMIT_EVENTS : Nat := 0x500004
/-- COMMIT_EVENT_EN. -/
def Reg.COMMIT_EVENT_EN : Nat := 0x500008
/-- COMMIT_CTRL. -/
def Reg.COMMIT_CTRL : Nat := 0x50000c
/-- ONION_DEPTH. -/
def Reg.ONION_DEPTH : Nat := 0x501000
/-- COMMIT_LATENCY. -/
def Reg.COMMIT_LATENCY : Nat := 0x501004
/-- LAYER_CAP. -/
def Reg.LAYER_CAP : Nat := 0x501008
/-- OPEN_FRAME_LO. -/
def Reg.OPEN_FRAME_LO : Nat := 0x50100c
/-- OPEN_FRAME_HI. -/
def Reg.OPEN_FRAME_HI : Nat := 0x501010
/-- HOST_COPY_CTRL. -/
def Reg.HOST_COPY_CTRL : Nat := 0x501014
/-- MIN_MARGIN. -/
def Reg.MIN_MARGIN : Nat := 0x501018
/-- MAX_ENTRIES. -/
def Reg.MAX_ENTRIES : Nat := 0x50101c
/-- LIVE_RECORDS_LO. -/
def Reg.LIVE_RECORDS_LO : Nat := 0x501100
/-- LIVE_RECORDS_HI. -/
def Reg.LIVE_RECORDS_HI : Nat := 0x501104
/-- REVISION_RECORDS_LO. -/
def Reg.REVISION_RECORDS_LO : Nat := 0x501108
/-- REVISION_RECORDS_HI. -/
def Reg.REVISION_RECORDS_HI : Nat := 0x50110c
/-- SEALS. -/
def Reg.SEALS : Nat := 0x501110
/-- MISSED_HOST. -/
def Reg.MISSED_HOST : Nat := 0x501114
/-- FOLDED_ENTRIES. -/
def Reg.FOLDED_ENTRIES : Nat := 0x501118
/-- LATE_DISCARDS. -/
def Reg.LATE_DISCARDS : Nat := 0x50111c
/-- SEALED_DISCARDS. -/
def Reg.SEALED_DISCARDS : Nat := 0x501120
/-- EARLY_DROPS. -/
def Reg.EARLY_DROPS : Nat := 0x501124
/-- LAYER_FULL_REFUSALS. -/
def Reg.LAYER_FULL_REFUSALS : Nat := 0x501128
/-- BATCH_REFUSALS. -/
def Reg.BATCH_REFUSALS : Nat := 0x50112c
/-- BAD_DELTAS. -/
def Reg.BAD_DELTAS : Nat := 0x501130
/-- OUTSIDE_DELTAS. -/
def Reg.OUTSIDE_DELTAS : Nat := 0x501134
/-- DEGRADED_BEATS. -/
def Reg.DEGRADED_BEATS : Nat := 0x501138
/-- UNVERIFIED_BEATS. -/
def Reg.UNVERIFIED_BEATS : Nat := 0x50113c
/-- MISSED_PEER, index `n`. -/
def Reg.MISSED_PEER (n : Nat) : Nat := 0x501140 + n * 0x4
/-- UNV_BOX. -/
def Reg.UNV_BOX : Nat := 0x501180
/-- UNV_BOX_X_MIN. -/
def Reg.UNV_BOX_X_MIN : Nat := 0x501184
/-- LAYER_INFO, index `n`. -/
def Reg.LAYER_INFO (n : Nat) : Nat := 0x502000 + n * 0x10
/-- LAYER_FRAME_LO, index `n`. -/
def Reg.LAYER_FRAME_LO (n : Nat) : Nat := 0x502004 + n * 0x10
/-- LAYER_FRAME_HI, index `n`. -/
def Reg.LAYER_FRAME_HI (n : Nat) : Nat := 0x502008 + n * 0x10
/-- LAYER_DELTAS, index `n`. -/
def Reg.LAYER_DELTAS (n : Nat) : Nat := 0x50200c + n * 0x10
/-- HOST_REGION_MASK, index `n`. -/
def Reg.HOST_REGION_MASK (n : Nat) : Nat := 0x503000 + n * 0x4

/-- Registers of the block OnionCommit (R267), part 0. -/
def regsOnionCommit0 : List RegDef := [
  { name := "COMMIT_STATUS", base := 0x500000 },
  { name := "COMMIT_EVENTS", base := 0x500004, fields := [⟨9, 0, .w1c, false, 0, 0xFFFFFFFF⟩] },
  { name := "COMMIT_EVENT_EN", base := 0x500008, fields := [⟨9, 0, .rw, false, 0, 0xFFFFFFFF⟩] },
  { name := "COMMIT_CTRL", base := 0x50000c, fields := [⟨1, 0, .w1s, false, 0, 0xFFFFFFFF⟩], wp := true },
  { name := "ONION_DEPTH", base := 0x501000 },
  { name := "COMMIT_LATENCY", base := 0x501004 },
  { name := "LAYER_CAP", base := 0x501008 },
  { name := "OPEN_FRAME_LO", base := 0x50100c, group := [4] },
  { name := "OPEN_FRAME_HI", base := 0x501010, sh := true },
  { name := "HOST_COPY_CTRL", base := 0x501014, fields := [⟨1, 1, .rw, true, 0, 0xFFFFFFFF⟩, ⟨0, 0, .rw, true, 0, 0xFFFFFFFF⟩] },
  { name := "MIN_MARGIN", base := 0x501018 },
  { name := "MAX_ENTRIES", base := 0x50101c },
  { name := "LIVE_RECORDS_LO", base := 0x501100, group := [4] },
  { name := "LIVE_RECORDS_HI", base := 0x501104, sh := true },
  { name := "REVISION_RECORDS_LO", base := 0x501108, group := [4] },
  { name := "REVISION_RECORDS_HI", base := 0x50110c, sh := true },
  { name := "SEALS", base := 0x501110 },
  { name := "MISSED_HOST", base := 0x501114 },
  { name := "FOLDED_ENTRIES", base := 0x501118 },
  { name := "LATE_DISCARDS", base := 0x50111c },
  { name := "SEALED_DISCARDS", base := 0x501120 },
  { name := "EARLY_DROPS", base := 0x501124 },
  { name := "LAYER_FULL_REFUSALS", base := 0x501128 },
  { name := "BATCH_REFUSALS", base := 0x50112c },
  { name := "BAD_DELTAS", base := 0x501130 },
  { name := "OUTSIDE_DELTAS", base := 0x501134 },
  { name := "DEGRADED_BEATS", base := 0x501138 },
  { name := "UNVERIFIED_BEATS", base := 0x50113c },
  { name := "MISSED_PEER", base := 0x501140, s1 := 0x4, c1 := 6 },
  { name := "UNV_BOX", base := 0x501180 }]

/-- Registers of the block OnionCommit (R267), part 1. -/
def regsOnionCommit1 : List RegDef := [
  { name := "UNV_BOX_X_MIN", base := 0x501184 },
  { name := "LAYER_INFO", base := 0x502000, s1 := 0x10, c1 := 64 },
  { name := "LAYER_FRAME_LO", base := 0x502004, s1 := 0x10, c1 := 64, group := [4] },
  { name := "LAYER_FRAME_HI", base := 0x502008, s1 := 0x10, c1 := 64, sh := true },
  { name := "LAYER_DELTAS", base := 0x50200c, s1 := 0x10, c1 := 64 },
  { name := "HOST_REGION_MASK", base := 0x503000, s1 := 0x4, c1 := 16, fields := [⟨31, 0, .rw, true, 0, 0xFFFFFFFF⟩] }]

/-! ### Engines (R319) -/

/-- ENG_LIVE. -/
def Reg.ENG_LIVE : Nat := 0x600000
/-- ENG_SPARE. -/
def Reg.ENG_SPARE : Nat := 0x600004
/-- ENG_RETIRED. -/
def Reg.ENG_RETIRED : Nat := 0x600008
/-- ESCAPE_EVENTS. -/
def Reg.ESCAPE_EVENTS : Nat := 0x60000c
/-- FAULT_EVENTS. -/
def Reg.FAULT_EVENTS : Nat := 0x600010
/-- ESCAPE_EVENT_EN. -/
def Reg.ESCAPE_EVENT_EN : Nat := 0x600014
/-- FAULT_EVENT_EN. -/
def Reg.FAULT_EVENT_EN : Nat := 0x600018
/-- ENG_CTRL. -/
def Reg.ENG_CTRL : Nat := 0x60001c
/-- ESCAPE_CTRL. -/
def Reg.ESCAPE_CTRL : Nat := 0x601000
/-- FAULT_WINDOW. -/
def Reg.FAULT_WINDOW : Nat := 0x601004
/-- IN_SERVICE_COUNT. -/
def Reg.IN_SERVICE_COUNT : Nat := 0x601008
/-- ENG_STATE, index `n`. -/
def Reg.ENG_STATE (n : Nat) : Nat := 0x610000 + n * 0x10000
/-- ENG_CONTEXT, index `n`. -/
def Reg.ENG_CONTEXT (n : Nat) : Nat := 0x610004 + n * 0x10000
/-- ENG_FAULT, index `n`. -/
def Reg.ENG_FAULT (n : Nat) : Nat := 0x610008 + n * 0x10000
/-- ARRAY_CYCLES_LO, index `n`. -/
def Reg.ARRAY_CYCLES_LO (n : Nat) : Nat := 0x610010 + n * 0x10000
/-- ARRAY_CYCLES_HI, index `n`. -/
def Reg.ARRAY_CYCLES_HI (n : Nat) : Nat := 0x610014 + n * 0x10000
/-- VECTOR_CYCLES_LO, index `n`. -/
def Reg.VECTOR_CYCLES_LO (n : Nat) : Nat := 0x610018 + n * 0x10000
/-- VECTOR_CYCLES_HI, index `n`. -/
def Reg.VECTOR_CYCLES_HI (n : Nat) : Nat := 0x61001c + n * 0x10000
/-- STALL_CYCLES_LO, index `n`. -/
def Reg.STALL_CYCLES_LO (n : Nat) : Nat := 0x610020 + n * 0x10000
/-- STALL_CYCLES_HI, index `n`. -/
def Reg.STALL_CYCLES_HI (n : Nat) : Nat := 0x610024 + n * 0x10000
/-- PASSES, index `n`. -/
def Reg.PASSES (n : Nat) : Nat := 0x610028 + n * 0x10000
/-- PASS_OVERRUNS, index `n`. -/
def Reg.PASS_OVERRUNS (n : Nat) : Nat := 0x61002c + n * 0x10000
/-- RANGE_ESCAPES, index `n`. -/
def Reg.RANGE_ESCAPES (n : Nat) : Nat := 0x610030 + n * 0x10000
/-- ACC_SATURATIONS, index `n`. -/
def Reg.ACC_SATURATIONS (n : Nat) : Nat := 0x610034 + n * 0x10000
/-- IMPORT_INEXACT, index `n`. -/
def Reg.IMPORT_INEXACT (n : Nat) : Nat := 0x610038 + n * 0x10000
/-- IMPORT_NONFINITE, index `n`. -/
def Reg.IMPORT_NONFINITE (n : Nat) : Nat := 0x61003c + n * 0x10000
/-- WITHHELD_RECORDS, index `n`. -/
def Reg.WITHHELD_RECORDS (n : Nat) : Nat := 0x610040 + n * 0x10000
/-- RESIDUE_ERRORS, index `n`. -/
def Reg.RESIDUE_ERRORS (n : Nat) : Nat := 0x610044 + n * 0x10000
/-- RECOMPUTES, index `n`. -/
def Reg.RECOMPUTES (n : Nat) : Nat := 0x610048 + n * 0x10000
/-- ESC_INFO, index `n`. -/
def Reg.ESC_INFO (n : Nat) : Nat := 0x610050 + n * 0x10000
/-- ESC_TENSOR, index `n`. -/
def Reg.ESC_TENSOR (n : Nat) : Nat := 0x610054 + n * 0x10000
/-- ESC_TILE, index `n`. -/
def Reg.ESC_TILE (n : Nat) : Nat := 0x610058 + n * 0x10000
/-- ESC_VALUE, index `n`. -/
def Reg.ESC_VALUE (n : Nat) : Nat := 0x61005c + n * 0x10000
/-- ESC_BEAT_LO, index `n`. -/
def Reg.ESC_BEAT_LO (n : Nat) : Nat := 0x610060 + n * 0x10000
/-- ESC_BEAT_HI, index `n`. -/
def Reg.ESC_BEAT_HI (n : Nat) : Nat := 0x610064 + n * 0x10000

/-- Registers of the block Engines (R319), part 0. -/
def regsEngines0 : List RegDef := [
  { name := "ENG_LIVE", base := 0x600000 },
  { name := "ENG_SPARE", base := 0x600004 },
  { name := "ENG_RETIRED", base := 0x600008 },
  { name := "ESCAPE_EVENTS", base := 0x60000c, fields := [⟨19, 0, .w1c, false, 0, 0xFFFFFFFF⟩] },
  { name := "FAULT_EVENTS", base := 0x600010, fields := [⟨19, 0, .w1c, false, 0, 0xFFFFFFFF⟩] },
  { name := "ESCAPE_EVENT_EN", base := 0x600014, fields := [⟨19, 0, .rw, false, 0, 0xFFFFFFFF⟩] },
  { name := "FAULT_EVENT_EN", base := 0x600018, fields := [⟨19, 0, .rw, false, 0, 0xFFFFFFFF⟩] },
  { name := "ENG_CTRL", base := 0x60001c, fields := [⟨0, 0, .w1s, false, 0, 0xFFFFFFFF⟩], wp := true },
  { name := "ESCAPE_CTRL", base := 0x601000, fields := [⟨0, 0, .rw, true, 0, 0xFFFFFFFF⟩], wp := true },
  { name := "FAULT_WINDOW", base := 0x601004, fields := [⟨23, 16, .rw, true, 1, 255⟩, ⟨15, 0, .rw, true, 1, 65535⟩], wp := true },
  { name := "IN_SERVICE_COUNT", base := 0x601008 },
  { name := "ENG_STATE", base := 0x610000, s1 := 0x10000, c1 := 20 },
  { name := "ENG_CONTEXT", base := 0x610004, s1 := 0x10000, c1 := 20 },
  { name := "ENG_FAULT", base := 0x610008, s1 := 0x10000, c1 := 20 },
  { name := "ARRAY_CYCLES_LO", base := 0x610010, s1 := 0x10000, c1 := 20, group := [4] },
  { name := "ARRAY_CYCLES_HI", base := 0x610014, s1 := 0x10000, c1 := 20, sh := true },
  { name := "VECTOR_CYCLES_LO", base := 0x610018, s1 := 0x10000, c1 := 20, group := [4] },
  { name := "VECTOR_CYCLES_HI", base := 0x61001c, s1 := 0x10000, c1 := 20, sh := true },
  { name := "STALL_CYCLES_LO", base := 0x610020, s1 := 0x10000, c1 := 20, group := [4] },
  { name := "STALL_CYCLES_HI", base := 0x610024, s1 := 0x10000, c1 := 20, sh := true },
  { name := "PASSES", base := 0x610028, s1 := 0x10000, c1 := 20 },
  { name := "PASS_OVERRUNS", base := 0x61002c, s1 := 0x10000, c1 := 20 },
  { name := "RANGE_ESCAPES", base := 0x610030, s1 := 0x10000, c1 := 20 },
  { name := "ACC_SATURATIONS", base := 0x610034, s1 := 0x10000, c1 := 20 },
  { name := "IMPORT_INEXACT", base := 0x610038, s1 := 0x10000, c1 := 20 },
  { name := "IMPORT_NONFINITE", base := 0x61003c, s1 := 0x10000, c1 := 20 },
  { name := "WITHHELD_RECORDS", base := 0x610040, s1 := 0x10000, c1 := 20 },
  { name := "RESIDUE_ERRORS", base := 0x610044, s1 := 0x10000, c1 := 20 },
  { name := "RECOMPUTES", base := 0x610048, s1 := 0x10000, c1 := 20 },
  { name := "ESC_INFO", base := 0x610050, s1 := 0x10000, c1 := 20 }]

/-- Registers of the block Engines (R319), part 1. -/
def regsEngines1 : List RegDef := [
  { name := "ESC_TENSOR", base := 0x610054, s1 := 0x10000, c1 := 20 },
  { name := "ESC_TILE", base := 0x610058, s1 := 0x10000, c1 := 20 },
  { name := "ESC_VALUE", base := 0x61005c, s1 := 0x10000, c1 := 20 },
  { name := "ESC_BEAT_LO", base := 0x610060, s1 := 0x10000, c1 := 20, group := [4] },
  { name := "ESC_BEAT_HI", base := 0x610064, s1 := 0x10000, c1 := 20, sh := true }]

/-! ### TensorMover (R370) -/

/-- MOVER_STATUS. -/
def Reg.MOVER_STATUS : Nat := 0x800000
/-- MOVER_EVENTS. -/
def Reg.MOVER_EVENTS : Nat := 0x800004
/-- MOVER_EVENT_EN. -/
def Reg.MOVER_EVENT_EN : Nat := 0x800008
/-- MOVER_CTRL. -/
def Reg.MOVER_CTRL : Nat := 0x80000c
/-- CHAN_BUSY. -/
def Reg.CHAN_BUSY : Nat := 0x800010
/-- DESC_COUNT. -/
def Reg.DESC_COUNT : Nat := 0x801000
/-- REFUSAL_INFO. -/
def Reg.REFUSAL_INFO : Nat := 0x801004
/-- XLATE_INFO. -/
def Reg.XLATE_INFO : Nat := 0x801008
/-- XLATE_ADDR_LO. -/
def Reg.XLATE_ADDR_LO : Nat := 0x80100c
/-- XLATE_ADDR_HI. -/
def Reg.XLATE_ADDR_HI : Nat := 0x801010
/-- MOVER_CFG. -/
def Reg.MOVER_CFG : Nat := 0x801014
/-- DESC_CREATED. -/
def Reg.DESC_CREATED : Nat := 0x801100
/-- DESC_REFUSED. -/
def Reg.DESC_REFUSED : Nat := 0x801104
/-- OP_REFUSED. -/
def Reg.OP_REFUSED : Nat := 0x801108
/-- FILL_ELEMENTS_LO. -/
def Reg.FILL_ELEMENTS_LO : Nat := 0x80110c
/-- FILL_ELEMENTS_HI. -/
def Reg.FILL_ELEMENTS_HI : Nat := 0x801110
/-- DROPPED_ELEMENTS_LO. -/
def Reg.DROPPED_ELEMENTS_LO : Nat := 0x801114
/-- DROPPED_ELEMENTS_HI. -/
def Reg.DROPPED_ELEMENTS_HI : Nat := 0x801118
/-- GATHER_FILLS. -/
def Reg.GATHER_FILLS : Nat := 0x80111c
/-- SCATTER_DROPS. -/
def Reg.SCATTER_DROPS : Nat := 0x801120
/-- COALESCER_HITS_LO. -/
def Reg.COALESCER_HITS_LO : Nat := 0x801124
/-- COALESCER_HITS_HI. -/
def Reg.COALESCER_HITS_HI : Nat := 0x801128
/-- MISALIGNED_BURSTS_LO. -/
def Reg.MISALIGNED_BURSTS_LO : Nat := 0x80112c
/-- MISALIGNED_BURSTS_HI. -/
def Reg.MISALIGNED_BURSTS_HI : Nat := 0x801130
/-- ACCUM_SATURATIONS. -/
def Reg.ACCUM_SATURATIONS : Nat := 0x801134
/-- REMOTE_READS_REFUSED. -/
def Reg.REMOTE_READS_REFUSED : Nat := 0x801138
/-- XLATE_FAULTS. -/
def Reg.XLATE_FAULTS : Nat := 0x80113c
/-- SHADOW_COPIES. -/
def Reg.SHADOW_COPIES : Nat := 0x801140
/-- CHAN_INFO, index `n`. -/
def Reg.CHAN_INFO (n : Nat) : Nat := 0x802000 + n * 0x20
/-- CHAN_BYTES_LO, index `n`. -/
def Reg.CHAN_BYTES_LO (n : Nat) : Nat := 0x802004 + n * 0x20
/-- CHAN_BYTES_HI, index `n`. -/
def Reg.CHAN_BYTES_HI (n : Nat) : Nat := 0x802008 + n * 0x20
/-- CHAN_OPS, index `n`. -/
def Reg.CHAN_OPS (n : Nat) : Nat := 0x80200c + n * 0x20
/-- CHAN_FAULTED, index `n`. -/
def Reg.CHAN_FAULTED (n : Nat) : Nat := 0x802010 + n * 0x20

/-- Registers of the block TensorMover (R370), part 0. -/
def regsTensorMover0 : List RegDef := [
  { name := "MOVER_STATUS", base := 0x800000 },
  { name := "MOVER_EVENTS", base := 0x800004, fields := [⟨8, 0, .w1c, false, 0, 0xFFFFFFFF⟩] },
  { name := "MOVER_EVENT_EN", base := 0x800008, fields := [⟨8, 0, .rw, false, 0, 0xFFFFFFFF⟩] },
  { name := "MOVER_CTRL", base := 0x80000c, fields := [⟨1, 0, .w1s, false, 0, 0xFFFFFFFF⟩], wp := true },
  { name := "CHAN_BUSY", base := 0x800010 },
  { name := "DESC_COUNT", base := 0x801000 },
  { name := "REFUSAL_INFO", base := 0x801004 },
  { name := "XLATE_INFO", base := 0x801008 },
  { name := "XLATE_ADDR_LO", base := 0x80100c, group := [4] },
  { name := "XLATE_ADDR_HI", base := 0x801010, sh := true },
  { name := "MOVER_CFG", base := 0x801014, fields := [⟨0, 0, .rw, true, 0, 0xFFFFFFFF⟩], wp := true },
  { name := "DESC_CREATED", base := 0x801100 },
  { name := "DESC_REFUSED", base := 0x801104 },
  { name := "OP_REFUSED", base := 0x801108 },
  { name := "FILL_ELEMENTS_LO", base := 0x80110c, group := [4] },
  { name := "FILL_ELEMENTS_HI", base := 0x801110, sh := true },
  { name := "DROPPED_ELEMENTS_LO", base := 0x801114, group := [4] },
  { name := "DROPPED_ELEMENTS_HI", base := 0x801118, sh := true },
  { name := "GATHER_FILLS", base := 0x80111c },
  { name := "SCATTER_DROPS", base := 0x801120 },
  { name := "COALESCER_HITS_LO", base := 0x801124, group := [4] },
  { name := "COALESCER_HITS_HI", base := 0x801128, sh := true },
  { name := "MISALIGNED_BURSTS_LO", base := 0x80112c, group := [4] },
  { name := "MISALIGNED_BURSTS_HI", base := 0x801130, sh := true },
  { name := "ACCUM_SATURATIONS", base := 0x801134 },
  { name := "REMOTE_READS_REFUSED", base := 0x801138 },
  { name := "XLATE_FAULTS", base := 0x80113c },
  { name := "SHADOW_COPIES", base := 0x801140 },
  { name := "CHAN_INFO", base := 0x802000, s1 := 0x20, c1 := 32 },
  { name := "CHAN_BYTES_LO", base := 0x802004, s1 := 0x20, c1 := 32, group := [4] }]

/-- Registers of the block TensorMover (R370), part 1. -/
def regsTensorMover1 : List RegDef := [
  { name := "CHAN_BYTES_HI", base := 0x802008, s1 := 0x20, c1 := 32, sh := true },
  { name := "CHAN_OPS", base := 0x80200c, s1 := 0x20, c1 := 32 },
  { name := "CHAN_FAULTED", base := 0x802010, s1 := 0x20, c1 := 32 }]

/-! ### Solver (R410) -/

/-- SOLVER_STATUS. -/
def Reg.SOLVER_STATUS : Nat := 0x900000
/-- SOLVER_EVENTS. -/
def Reg.SOLVER_EVENTS : Nat := 0x900004
/-- SOLVER_EVENT_EN. -/
def Reg.SOLVER_EVENT_EN : Nat := 0x900008
/-- SOLVER_CTRL. -/
def Reg.SOLVER_CTRL : Nat := 0x90000c
/-- FAST_CFG. -/
def Reg.FAST_CFG : Nat := 0x901000
/-- SLOW_CFG. -/
def Reg.SLOW_CFG : Nat := 0x901004
/-- SLOW_SENSORS. -/
def Reg.SLOW_SENSORS : Nat := 0x901008
/-- LANDMARKS_MAX. -/
def Reg.LANDMARKS_MAX : Nat := 0x90100c
/-- OBS_MAX. -/
def Reg.OBS_MAX : Nat := 0x901010
/-- PIVOT_EPS_FAST. -/
def Reg.PIVOT_EPS_FAST : Nat := 0x901014
/-- PIVOT_EPS_SLOW. -/
def Reg.PIVOT_EPS_SLOW : Nat := 0x901018
/-- LAMBDA_FAST. -/
def Reg.LAMBDA_FAST : Nat := 0x90101c
/-- LAMBDA_SLOW. -/
def Reg.LAMBDA_SLOW : Nat := 0x901020
/-- SCAN_CFG. -/
def Reg.SCAN_CFG : Nat := 0x901024
/-- SOLVER_CFG. -/
def Reg.SOLVER_CFG : Nat := 0x901028
/-- PIVOT_INFO. -/
def Reg.PIVOT_INFO : Nat := 0x901030
/-- PIVOT_VALUE. -/
def Reg.PIVOT_VALUE : Nat := 0x901034
/-- PIVOT_BEAT_LO. -/
def Reg.PIVOT_BEAT_LO : Nat := 0x901038
/-- PIVOT_BEAT_HI. -/
def Reg.PIVOT_BEAT_HI : Nat := 0x90103c
/-- FAST_SOLVES. -/
def Reg.FAST_SOLVES : Nat := 0x901100
/-- FAST_ACCEPTED. -/
def Reg.FAST_ACCEPTED : Nat := 0x901104
/-- DAMPED_RETRIES. -/
def Reg.DAMPED_RETRIES : Nat := 0x901108
/-- RANK_DEFICIENT. -/
def Reg.RANK_DEFICIENT : Nat := 0x90110c
/-- RANGE_REJECTS. -/
def Reg.RANGE_REJECTS : Nat := 0x901110
/-- FAST_MISSES. -/
def Reg.FAST_MISSES : Nat := 0x901114
/-- SLOW_MISSES. -/
def Reg.SLOW_MISSES : Nat := 0x901118
/-- COLD_STARTS. -/
def Reg.COLD_STARTS : Nat := 0x90111c
/-- PUBLISH_REFUSALS. -/
def Reg.PUBLISH_REFUSALS : Nat := 0x901120
/-- ABANDONED_SOLVES. -/
def Reg.ABANDONED_SOLVES : Nat := 0x901124
/-- SAMPLES_DROPPED. -/
def Reg.SAMPLES_DROPPED : Nat := 0x901128
/-- LANDMARKS_DROPPED. -/
def Reg.LANDMARKS_DROPPED : Nat := 0x90112c
/-- OBS_DROPPED. -/
def Reg.OBS_DROPPED : Nat := 0x901130
/-- SLOW_SOLVES. -/
def Reg.SLOW_SOLVES : Nat := 0x901134
/-- MIN_FAST_MARGIN. -/
def Reg.MIN_FAST_MARGIN : Nat := 0x901138
/-- REPARENTS. -/
def Reg.REPARENTS : Nat := 0x90113c
/-- REPARENT_REFUSALS. -/
def Reg.REPARENT_REFUSALS : Nat := 0x901140
/-- SLOW_RESULT. -/
def Reg.SLOW_RESULT : Nat := 0x902000
/-- SLOW_START_FRAME_LO. -/
def Reg.SLOW_START_FRAME_LO : Nat := 0x902004
/-- SLOW_START_FRAME_HI. -/
def Reg.SLOW_START_FRAME_HI : Nat := 0x902008
/-- SLOW_SIG_LO. -/
def Reg.SLOW_SIG_LO : Nat := 0x90200c
/-- SLOW_SIG_HI. -/
def Reg.SLOW_SIG_HI : Nat := 0x902010
/-- SLOW_MARGIN. -/
def Reg.SLOW_MARGIN : Nat := 0x902014
/-- TRACK_SOLVE, index `n`. -/
def Reg.TRACK_SOLVE (n : Nat) : Nat := 0x904000 + n * 0x20
/-- TRACK_SIG_LO, index `n`. -/
def Reg.TRACK_SIG_LO (n : Nat) : Nat := 0x904004 + n * 0x20
/-- TRACK_SIG_HI, index `n`. -/
def Reg.TRACK_SIG_HI (n : Nat) : Nat := 0x904008 + n * 0x20
/-- TRACK_PUBLISH_BEAT_LO, index `n`. -/
def Reg.TRACK_PUBLISH_BEAT_LO (n : Nat) : Nat := 0x90400c + n * 0x20
/-- TRACK_PUBLISH_BEAT_HI, index `n`. -/
def Reg.TRACK_PUBLISH_BEAT_HI (n : Nat) : Nat := 0x904010 + n * 0x20
/-- TRACK_MARGIN, index `n`. -/
def Reg.TRACK_MARGIN (n : Nat) : Nat := 0x904014 + n * 0x20

/-- Registers of the block Solver (R410), part 0. -/
def regsSolver0 : List RegDef := [
  { name := "SOLVER_STATUS", base := 0x900000 },
  { name := "SOLVER_EVENTS", base := 0x900004, fields := [⟨10, 0, .w1c, false, 0, 0xFFFFFFFF⟩] },
  { name := "SOLVER_EVENT_EN", base := 0x900008, fields := [⟨10, 0, .rw, false, 0, 0xFFFFFFFF⟩] },
  { name := "SOLVER_CTRL", base := 0x90000c, fields := [⟨2, 0, .w1s, false, 0, 0xFFFFFFFF⟩], wp := true },
  { name := "FAST_CFG", base := 0x901000 },
  { name := "SLOW_CFG", base := 0x901004 },
  { name := "SLOW_SENSORS", base := 0x901008 },
  { name := "LANDMARKS_MAX", base := 0x90100c },
  { name := "OBS_MAX", base := 0x901010 },
  { name := "PIVOT_EPS_FAST", base := 0x901014 },
  { name := "PIVOT_EPS_SLOW", base := 0x901018 },
  { name := "LAMBDA_FAST", base := 0x90101c },
  { name := "LAMBDA_SLOW", base := 0x901020 },
  { name := "SCAN_CFG", base := 0x901024 },
  { name := "SOLVER_CFG", base := 0x901028, fields := [⟨0, 0, .rw, true, 0, 0xFFFFFFFF⟩], wp := true },
  { name := "PIVOT_INFO", base := 0x901030 },
  { name := "PIVOT_VALUE", base := 0x901034 },
  { name := "PIVOT_BEAT_LO", base := 0x901038, group := [4] },
  { name := "PIVOT_BEAT_HI", base := 0x90103c, sh := true },
  { name := "FAST_SOLVES", base := 0x901100 },
  { name := "FAST_ACCEPTED", base := 0x901104 },
  { name := "DAMPED_RETRIES", base := 0x901108 },
  { name := "RANK_DEFICIENT", base := 0x90110c },
  { name := "RANGE_REJECTS", base := 0x901110 },
  { name := "FAST_MISSES", base := 0x901114 },
  { name := "SLOW_MISSES", base := 0x901118 },
  { name := "COLD_STARTS", base := 0x90111c },
  { name := "PUBLISH_REFUSALS", base := 0x901120 },
  { name := "ABANDONED_SOLVES", base := 0x901124 },
  { name := "SAMPLES_DROPPED", base := 0x901128 }]

/-- Registers of the block Solver (R410), part 1. -/
def regsSolver1 : List RegDef := [
  { name := "LANDMARKS_DROPPED", base := 0x90112c },
  { name := "OBS_DROPPED", base := 0x901130 },
  { name := "SLOW_SOLVES", base := 0x901134 },
  { name := "MIN_FAST_MARGIN", base := 0x901138 },
  { name := "REPARENTS", base := 0x90113c },
  { name := "REPARENT_REFUSALS", base := 0x901140 },
  { name := "SLOW_RESULT", base := 0x902000 },
  { name := "SLOW_START_FRAME_LO", base := 0x902004, group := [4] },
  { name := "SLOW_START_FRAME_HI", base := 0x902008, sh := true },
  { name := "SLOW_SIG_LO", base := 0x90200c, group := [4] },
  { name := "SLOW_SIG_HI", base := 0x902010, sh := true },
  { name := "SLOW_MARGIN", base := 0x902014 },
  { name := "TRACK_SOLVE", base := 0x904000, s1 := 0x20, c1 := 64 },
  { name := "TRACK_SIG_LO", base := 0x904004, s1 := 0x20, c1 := 64, group := [4] },
  { name := "TRACK_SIG_HI", base := 0x904008, s1 := 0x20, c1 := 64, sh := true },
  { name := "TRACK_PUBLISH_BEAT_LO", base := 0x90400c, s1 := 0x20, c1 := 64, group := [4] },
  { name := "TRACK_PUBLISH_BEAT_HI", base := 0x904010, s1 := 0x20, c1 := 64, sh := true },
  { name := "TRACK_MARGIN", base := 0x904014, s1 := 0x20, c1 := 64 }]

/-! ### Structure (R447) -/

/-- SLOT_STATUS. -/
def Reg.SLOT_STATUS : Nat := 0xa00000
/-- SLOT_EVENTS. -/
def Reg.SLOT_EVENTS : Nat := 0xa00004
/-- SLOT_EVENT_EN. -/
def Reg.SLOT_EVENT_EN : Nat := 0xa00008
/-- SLOT_CTRL. -/
def Reg.SLOT_CTRL : Nat := 0xa0000c
/-- LOAD_LENGTH. -/
def Reg.LOAD_LENGTH : Nat := 0xa01000
/-- SLOT_CFG. -/
def Reg.SLOT_CFG : Nat := 0xa01004
/-- ADMIT_RESULT. -/
def Reg.ADMIT_RESULT : Nat := 0xa01008
/-- ADMIT_SHORTFALL. -/
def Reg.ADMIT_SHORTFALL : Nat := 0xa0100c
/-- STEADY_MARGIN. -/
def Reg.STEADY_MARGIN : Nat := 0xa01010
/-- SWITCH_MARGIN. -/
def Reg.SWITCH_MARGIN : Nat := 0xa01014
/-- CYCLE_CLAIM. -/
def Reg.CYCLE_CLAIM : Nat := 0xa01018
/-- CYCLE_CAP. -/
def Reg.CYCLE_CAP : Nat := 0xa0101c
/-- STORE_CLAIM_MAX. -/
def Reg.STORE_CLAIM_MAX : Nat := 0xa01020
/-- COMMONS_CLAIM. -/
def Reg.COMMONS_CLAIM : Nat := 0xa01024
/-- DRAM_CLAIM. -/
def Reg.DRAM_CLAIM : Nat := 0xa01028
/-- DRAM_AVAIL. -/
def Reg.DRAM_AVAIL : Nat := 0xa0102c
/-- RHO. -/
def Reg.RHO : Nat := 0xa01030
/-- REHEARSAL. -/
def Reg.REHEARSAL : Nat := 0xa01034
/-- LIVE_DIGEST, index `n`. -/
def Reg.LIVE_DIGEST (n : Nat) : Nat := 0xa01040 + n * 0x4
/-- LIVE_IMAGE_ID_LO. -/
def Reg.LIVE_IMAGE_ID_LO : Nat := 0xa01080
/-- LIVE_IMAGE_ID_HI. -/
def Reg.LIVE_IMAGE_ID_HI : Nat := 0xa01084
/-- LIVE_SECURITY_VERSION. -/
def Reg.LIVE_SECURITY_VERSION : Nat := 0xa01088
/-- LIVE_TOOL_VERSION. -/
def Reg.LIVE_TOOL_VERSION : Nat := 0xa0108c
/-- SLOT_DIGEST, index `n`. -/
def Reg.SLOT_DIGEST (n : Nat) : Nat := 0xa010c0 + n * 0x4
/-- SLOT_IMAGE_ID_LO. -/
def Reg.SLOT_IMAGE_ID_LO : Nat := 0xa01100
/-- SLOT_IMAGE_ID_HI. -/
def Reg.SLOT_IMAGE_ID_HI : Nat := 0xa01104
/-- SLOT_SECURITY_VERSION. -/
def Reg.SLOT_SECURITY_VERSION : Nat := 0xa01108
/-- LOADS. -/
def Reg.LOADS : Nat := 0xa01200
/-- LOADS_BUSY. -/
def Reg.LOADS_BUSY : Nat := 0xa01204
/-- ADMISSIONS. -/
def Reg.ADMISSIONS : Nat := 0xa01208
/-- REFUSALS. -/
def Reg.REFUSALS : Nat := 0xa0120c
/-- SWITCHES. -/
def Reg.SWITCHES : Nat := 0xa01210
/-- ABANDONED_PASSES. -/
def Reg.ABANDONED_PASSES : Nat := 0xa01214
/-- REHEARSAL_RETRIES. -/
def Reg.REHEARSAL_RETRIES : Nat := 0xa01218
/-- REARMS. -/
def Reg.REARMS : Nat := 0xa0121c
/-- LIVE_SINCE_BEAT_LO. -/
def Reg.LIVE_SINCE_BEAT_LO : Nat := 0xa01300
/-- LIVE_SINCE_BEAT_HI. -/
def Reg.LIVE_SINCE_BEAT_HI : Nat := 0xa01304
/-- LIVE_SINCE_EPOCH. -/
def Reg.LIVE_SINCE_EPOCH : Nat := 0xa01308
/-- UNIT_INFO, index `n`. -/
def Reg.UNIT_INFO (n : Nat) : Nat := 0xa04000 + n * 0x4

/-- Registers of the block Structure (R447), part 0. -/
def regsStructure0 : List RegDef := [
  { name := "SLOT_STATUS", base := 0xa00000 },
  { name := "SLOT_EVENTS", base := 0xa00004, fields := [⟨6, 0, .w1c, false, 0, 0xFFFFFFFF⟩] },
  { name := "SLOT_EVENT_EN", base := 0xa00008, fields := [⟨6, 0, .rw, false, 0, 0xFFFFFFFF⟩] },
  { name := "SLOT_CTRL", base := 0xa0000c, fields := [⟨2, 0, .w1s, false, 0, 0xFFFFFFFF⟩], wp := true },
  { name := "LOAD_LENGTH", base := 0xa01000, fields := [⟨31, 0, .rw, false, 256, 268435456⟩], wp := true },
  { name := "SLOT_CFG", base := 0xa01004, fields := [⟨2, 0, .rw, true, 1, 4⟩], wp := true },
  { name := "ADMIT_RESULT", base := 0xa01008 },
  { name := "ADMIT_SHORTFALL", base := 0xa0100c },
  { name := "STEADY_MARGIN", base := 0xa01010 },
  { name := "SWITCH_MARGIN", base := 0xa01014 },
  { name := "CYCLE_CLAIM", base := 0xa01018 },
  { name := "CYCLE_CAP", base := 0xa0101c },
  { name := "STORE_CLAIM_MAX", base := 0xa01020 },
  { name := "COMMONS_CLAIM", base := 0xa01024 },
  { name := "DRAM_CLAIM", base := 0xa01028 },
  { name := "DRAM_AVAIL", base := 0xa0102c },
  { name := "RHO", base := 0xa01030 },
  { name := "REHEARSAL", base := 0xa01034 },
  { name := "LIVE_DIGEST", base := 0xa01040, s1 := 0x4, c1 := 16 },
  { name := "LIVE_IMAGE_ID_LO", base := 0xa01080, group := [4] },
  { name := "LIVE_IMAGE_ID_HI", base := 0xa01084, sh := true },
  { name := "LIVE_SECURITY_VERSION", base := 0xa01088 },
  { name := "LIVE_TOOL_VERSION", base := 0xa0108c },
  { name := "SLOT_DIGEST", base := 0xa010c0, s1 := 0x4, c1 := 16 },
  { name := "SLOT_IMAGE_ID_LO", base := 0xa01100, group := [4] },
  { name := "SLOT_IMAGE_ID_HI", base := 0xa01104, sh := true },
  { name := "SLOT_SECURITY_VERSION", base := 0xa01108 },
  { name := "LOADS", base := 0xa01200 },
  { name := "LOADS_BUSY", base := 0xa01204 },
  { name := "ADMISSIONS", base := 0xa01208 }]

/-- Registers of the block Structure (R447), part 1. -/
def regsStructure1 : List RegDef := [
  { name := "REFUSALS", base := 0xa0120c },
  { name := "SWITCHES", base := 0xa01210 },
  { name := "ABANDONED_PASSES", base := 0xa01214 },
  { name := "REHEARSAL_RETRIES", base := 0xa01218 },
  { name := "REARMS", base := 0xa0121c },
  { name := "LIVE_SINCE_BEAT_LO", base := 0xa01300, group := [4] },
  { name := "LIVE_SINCE_BEAT_HI", base := 0xa01304, sh := true },
  { name := "LIVE_SINCE_EPOCH", base := 0xa01308 },
  { name := "UNIT_INFO", base := 0xa04000, s1 := 0x4, c1 := 1024 }]

/-! ### Placement (R482) -/

/-- PLACE_STATUS. -/
def Reg.PLACE_STATUS : Nat := 0xb00000
/-- PLACE_EVENTS. -/
def Reg.PLACE_EVENTS : Nat := 0xb00004
/-- PLACE_EVENT_EN. -/
def Reg.PLACE_EVENT_EN : Nat := 0xb00008
/-- PLACE_CTRL. -/
def Reg.PLACE_CTRL : Nat := 0xb0000c
/-- LOAD_CFG. -/
def Reg.LOAD_CFG : Nat := 0xb01000
/-- IMBALANCE_CFG. -/
def Reg.IMBALANCE_CFG : Nat := 0xb01004
/-- EVAL_FRAME_LO. -/
def Reg.EVAL_FRAME_LO : Nat := 0xb01010
/-- EVAL_FRAME_HI. -/
def Reg.EVAL_FRAME_HI : Nat := 0xb01014
/-- ENGINE_COUNTS. -/
def Reg.ENGINE_COUNTS : Nat := 0xb01018
/-- DRAM_SPARES. -/
def Reg.DRAM_SPARES : Nat := 0xb0101c
/-- LOAD_MAX. -/
def Reg.LOAD_MAX : Nat := 0xb01020
/-- LOAD_MEAN. -/
def Reg.LOAD_MEAN : Nat := 0xb01024
/-- CHANNEL_BALANCE. -/
def Reg.CHANNEL_BALANCE : Nat := 0xb01028
/-- MOVE_REMAINING. -/
def Reg.MOVE_REMAINING : Nat := 0xb0102c
/-- REMAP_USED. -/
def Reg.REMAP_USED : Nat := 0xb01030
/-- EVALUATIONS. -/
def Reg.EVALUATIONS : Nat := 0xb01100
/-- MIGRATIONS_APPLIED. -/
def Reg.MIGRATIONS_APPLIED : Nat := 0xb01104
/-- MIGRATIONS_CANCELLED. -/
def Reg.MIGRATIONS_CANCELLED : Nat := 0xb01108
/-- FAULT_SWITCHES. -/
def Reg.FAULT_SWITCHES : Nat := 0xb0110c
/-- RETIREMENTS. -/
def Reg.RETIREMENTS : Nat := 0xb01110
/-- LOST_INVOCATIONS. -/
def Reg.LOST_INVOCATIONS : Nat := 0xb01114
/-- RADISHES_ISSUED. -/
def Reg.RADISHES_ISSUED : Nat := 0xb01118
/-- RADISH_MISMATCHES. -/
def Reg.RADISH_MISMATCHES : Nat := 0xb0111c
/-- RADISHES_DEFERRED. -/
def Reg.RADISHES_DEFERRED : Nat := 0xb01120
/-- DEBT_PERIODS. -/
def Reg.DEBT_PERIODS : Nat := 0xb01124
/-- PODS_RELOCATED. -/
def Reg.PODS_RELOCATED : Nat := 0xb01128
/-- GRANULES_REMAPPED. -/
def Reg.GRANULES_REMAPPED : Nat := 0xb0112c
/-- HOT_GRANULE. -/
def Reg.HOT_GRANULE : Nat := 0xb01130
/-- UNITS_SUSPENDED. -/
def Reg.UNITS_SUSPENDED : Nat := 0xb01134
/-- NODE_MAP, index `n`. -/
def Reg.NODE_MAP (n : Nat) : Nat := 0xb03000 + n * 0x4
/-- ENG_PLACE, index `n`. -/
def Reg.ENG_PLACE (n : Nat) : Nat := 0xb04000 + n * 0x20
/-- ENG_LOAD, index `n`. -/
def Reg.ENG_LOAD (n : Nat) : Nat := 0xb04004 + n * 0x20
/-- RADISH_FRAME_LO, index `n`. -/
def Reg.RADISH_FRAME_LO (n : Nat) : Nat := 0xb04008 + n * 0x20
/-- RADISH_FRAME_HI, index `n`. -/
def Reg.RADISH_FRAME_HI (n : Nat) : Nat := 0xb0400c + n * 0x20
/-- RADISH_LAST, index `n`. -/
def Reg.RADISH_LAST (n : Nat) : Nat := 0xb04010 + n * 0x20
/-- UNIT_PLACE, index `n`. -/
def Reg.UNIT_PLACE (n : Nat) : Nat := 0xb08000 + n * 0x4
/-- DS_PLACE, index `n`. -/
def Reg.DS_PLACE (n : Nat) : Nat := 0xb0c000 + n * 0x8
/-- DS_CHANNELS, index `n`. -/
def Reg.DS_CHANNELS (n : Nat) : Nat := 0xb0c004 + n * 0x8

/-- Registers of the block Placement (R482), part 0. -/
def regsPlacement0 : List RegDef := [
  { name := "PLACE_STATUS", base := 0xb00000 },
  { name := "PLACE_EVENTS", base := 0xb00004, fields := [⟨11, 0, .w1c, false, 0, 0xFFFFFFFF⟩] },
  { name := "PLACE_EVENT_EN", base := 0xb00008, fields := [⟨11, 0, .rw, false, 0, 0xFFFFFFFF⟩] },
  { name := "PLACE_CTRL", base := 0xb0000c, fields := [⟨1, 0, .w1s, false, 0, 0xFFFFFFFF⟩], wp := true },
  { name := "LOAD_CFG", base := 0xb01000, fields := [⟨31, 24, .rw, true, 68, 128⟩, ⟨15, 8, .rw, true, 1, 16⟩, ⟨7, 0, .rw, true, 1, 50⟩], wp := true },
  { name := "IMBALANCE_CFG", base := 0xb01004, fields := [⟨31, 24, .rw, true, 68, 80⟩, ⟨15, 8, .rw, true, 5, 50⟩, ⟨6, 0, .rw, true, 1, 64⟩], wp := true },
  { name := "EVAL_FRAME_LO", base := 0xb01010, group := [4] },
  { name := "EVAL_FRAME_HI", base := 0xb01014, sh := true },
  { name := "ENGINE_COUNTS", base := 0xb01018 },
  { name := "DRAM_SPARES", base := 0xb0101c },
  { name := "LOAD_MAX", base := 0xb01020 },
  { name := "LOAD_MEAN", base := 0xb01024 },
  { name := "CHANNEL_BALANCE", base := 0xb01028 },
  { name := "MOVE_REMAINING", base := 0xb0102c },
  { name := "REMAP_USED", base := 0xb01030 },
  { name := "EVALUATIONS", base := 0xb01100 },
  { name := "MIGRATIONS_APPLIED", base := 0xb01104 },
  { name := "MIGRATIONS_CANCELLED", base := 0xb01108 },
  { name := "FAULT_SWITCHES", base := 0xb0110c },
  { name := "RETIREMENTS", base := 0xb01110 },
  { name := "LOST_INVOCATIONS", base := 0xb01114 },
  { name := "RADISHES_ISSUED", base := 0xb01118 },
  { name := "RADISH_MISMATCHES", base := 0xb0111c },
  { name := "RADISHES_DEFERRED", base := 0xb01120 },
  { name := "DEBT_PERIODS", base := 0xb01124 },
  { name := "PODS_RELOCATED", base := 0xb01128 },
  { name := "GRANULES_REMAPPED", base := 0xb0112c },
  { name := "HOT_GRANULE", base := 0xb01130 },
  { name := "UNITS_SUSPENDED", base := 0xb01134 },
  { name := "NODE_MAP", base := 0xb03000, s1 := 0x4, c1 := 45 }]

/-- Registers of the block Placement (R482), part 1. -/
def regsPlacement1 : List RegDef := [
  { name := "ENG_PLACE", base := 0xb04000, s1 := 0x20, c1 := 20 },
  { name := "ENG_LOAD", base := 0xb04004, s1 := 0x20, c1 := 20 },
  { name := "RADISH_FRAME_LO", base := 0xb04008, s1 := 0x20, c1 := 20, group := [4] },
  { name := "RADISH_FRAME_HI", base := 0xb0400c, s1 := 0x20, c1 := 20, sh := true },
  { name := "RADISH_LAST", base := 0xb04010, s1 := 0x20, c1 := 20 },
  { name := "UNIT_PLACE", base := 0xb08000, s1 := 0x4, c1 := 1024 },
  { name := "DS_PLACE", base := 0xb0c000, s1 := 0x8, c1 := 4096 },
  { name := "DS_CHANNELS", base := 0xb0c004, s1 := 0x8, c1 := 4096 }]

/-! ### Memory (R517, R759) -/

/-- MEM_STATUS. -/
def Reg.MEM_STATUS : Nat := 0xc00000
/-- MEM_EVENTS. -/
def Reg.MEM_EVENTS : Nat := 0xc00004
/-- MEM_EVENT_EN. -/
def Reg.MEM_EVENT_EN : Nat := 0xc00008
/-- MEM_CTRL. -/
def Reg.MEM_CTRL : Nat := 0xc0000c
/-- CHANNEL_MAP, index `n`. -/
def Reg.CHANNEL_MAP (n : Nat) : Nat := 0xc01000 + n * 0x4
/-- CHANNEL_COUNT. -/
def Reg.CHANNEL_COUNT : Nat := 0xc01040
/-- SCRUB_CFG. -/
def Reg.SCRUB_CFG : Nat := 0xc01044
/-- DRAM_FAULT_CFG. -/
def Reg.DRAM_FAULT_CFG : Nat := 0xc01048
/-- SRAM_FAULT_CFG. -/
def Reg.SRAM_FAULT_CFG : Nat := 0xc0104c
/-- ECC_INFO. -/
def Reg.ECC_INFO : Nat := 0xc01050
/-- ECC_ADDR_LO. -/
def Reg.ECC_ADDR_LO : Nat := 0xc01054
/-- ECC_ADDR_HI. -/
def Reg.ECC_ADDR_HI : Nat := 0xc01058
/-- DRAM_CAPACITY. -/
def Reg.DRAM_CAPACITY : Nat := 0xc0105c
/-- DRAM_RESERVED. -/
def Reg.DRAM_RESERVED : Nat := 0xc01060
/-- COMMONS_AVAIL. -/
def Reg.COMMONS_AVAIL : Nat := 0xc01064
/-- BASE_TRAFFIC. -/
def Reg.BASE_TRAFFIC : Nat := 0xc01068
/-- SPARE_PROGRESS. -/
def Reg.SPARE_PROGRESS : Nat := 0xc0106c
/-- OTHER_SRAM_CORRECTED. -/
def Reg.OTHER_SRAM_CORRECTED : Nat := 0xc01100
/-- PODS_POISONED. -/
def Reg.PODS_POISONED : Nat := 0xc01104
/-- CH_STATE, index `n`. -/
def Reg.CH_STATE (n : Nat) : Nat := 0xc02000 + n * 0x40
/-- WINDOW_SYMBOLS, index `n`. -/
def Reg.WINDOW_SYMBOLS (n : Nat) : Nat := 0xc02004 + n * 0x40
/-- SOFT_CORRECTED, index `n`. -/
def Reg.SOFT_CORRECTED (n : Nat) : Nat := 0xc02008 + n * 0x40
/-- HARD_CORRECTED, index `n`. -/
def Reg.HARD_CORRECTED (n : Nat) : Nat := 0xc0200c + n * 0x40
/-- UNCORR_TRANSIENT, index `n`. -/
def Reg.UNCORR_TRANSIENT (n : Nat) : Nat := 0xc02010 + n * 0x40
/-- POISONED, index `n`. -/
def Reg.POISONED (n : Nat) : Nat := 0xc02014 + n * 0x40
/-- ROW_REPAIRS, index `n`. -/
def Reg.ROW_REPAIRS (n : Nat) : Nat := 0xc02018 + n * 0x40
/-- COL_REPAIRS, index `n`. -/
def Reg.COL_REPAIRS (n : Nat) : Nat := 0xc0201c + n * 0x40
/-- SCRUB_PASSES, index `n`. -/
def Reg.SCRUB_PASSES (n : Nat) : Nat := 0xc02020 + n * 0x40
/-- RECALIBRATIONS, index `n`. -/
def Reg.RECALIBRATIONS (n : Nat) : Nat := 0xc02024 + n * 0x40
/-- SRAM_STATE, index `n`: engine `n`, or 32 + s for commons slice s. -/
def Reg.SRAM_STATE (n : Nat) : Nat := 0xc04000 + n * 0x20
/-- SRAM_CORRECTED, index `n`: engine `n`, or 32 + s for commons slice s. -/
def Reg.SRAM_CORRECTED (n : Nat) : Nat := 0xc04004 + n * 0x20
/-- SRAM_UNCORRECTABLE, index `n`: engine `n`, or 32 + s for commons slice s. -/
def Reg.SRAM_UNCORRECTABLE (n : Nat) : Nat := 0xc04008 + n * 0x20
/-- KEEPER_STATUS. -/
def Reg.KEEPER_STATUS : Nat := 0xc08000
/-- DIRTY_BYTES. -/
def Reg.DIRTY_BYTES : Nat := 0xc08004
/-- SWEEP_NUMBER. -/
def Reg.SWEEP_NUMBER : Nat := 0xc08008
/-- SWEEP_ENTRIES. -/
def Reg.SWEEP_ENTRIES : Nat := 0xc0800c
/-- GRID_LEFT_OUT. -/
def Reg.GRID_LEFT_OUT : Nat := 0xc08010
/-- KEEPER_WRITE_FAILS. -/
def Reg.KEEPER_WRITE_FAILS : Nat := 0xc08014
/-- RESTORED_ENTRIES. -/
def Reg.RESTORED_ENTRIES : Nat := 0xc08018
/-- RESTORE_REFUSED. -/
def Reg.RESTORE_REFUSED : Nat := 0xc0801c

/-- Registers of the block Memory (R517, R759), part 0. -/
def regsMemory0 : List RegDef := [
  { name := "MEM_STATUS", base := 0xc00000 },
  { name := "MEM_EVENTS", base := 0xc00004, fields := [⟨11, 0, .w1c, false, 0, 0xFFFFFFFF⟩] },
  { name := "MEM_EVENT_EN", base := 0xc00008, fields := [⟨11, 0, .rw, false, 0, 0xFFFFFFFF⟩] },
  { name := "MEM_CTRL", base := 0xc0000c, fields := [⟨2, 0, .w1s, false, 0, 0xFFFFFFFF⟩], wp := true },
  { name := "CHANNEL_MAP", base := 0xc01000, s1 := 0x4, c1 := 16 },
  { name := "CHANNEL_COUNT", base := 0xc01040 },
  { name := "SCRUB_CFG", base := 0xc01044, fields := [⟨7, 0, .rw, true, 1, 24⟩], wp := true },
  { name := "DRAM_FAULT_CFG", base := 0xc01048, fields := [⟨31, 16, .rw, true, 1, 3600⟩, ⟨7, 0, .rw, true, 1, 255⟩], wp := true },
  { name := "SRAM_FAULT_CFG", base := 0xc0104c, fields := [⟨31, 16, .rw, true, 1, 65535⟩, ⟨7, 0, .rw, true, 1, 255⟩], wp := true },
  { name := "ECC_INFO", base := 0xc01050 },
  { name := "ECC_ADDR_LO", base := 0xc01054, group := [4] },
  { name := "ECC_ADDR_HI", base := 0xc01058, sh := true },
  { name := "DRAM_CAPACITY", base := 0xc0105c },
  { name := "DRAM_RESERVED", base := 0xc01060 },
  { name := "COMMONS_AVAIL", base := 0xc01064 },
  { name := "BASE_TRAFFIC", base := 0xc01068 },
  { name := "SPARE_PROGRESS", base := 0xc0106c },
  { name := "OTHER_SRAM_CORRECTED", base := 0xc01100 },
  { name := "PODS_POISONED", base := 0xc01104 },
  { name := "CH_STATE", base := 0xc02000, s1 := 0x40, c1 := 18 },
  { name := "WINDOW_SYMBOLS", base := 0xc02004, s1 := 0x40, c1 := 18 },
  { name := "SOFT_CORRECTED", base := 0xc02008, s1 := 0x40, c1 := 18 },
  { name := "HARD_CORRECTED", base := 0xc0200c, s1 := 0x40, c1 := 18 },
  { name := "UNCORR_TRANSIENT", base := 0xc02010, s1 := 0x40, c1 := 18 },
  { name := "POISONED", base := 0xc02014, s1 := 0x40, c1 := 18 },
  { name := "ROW_REPAIRS", base := 0xc02018, s1 := 0x40, c1 := 18 },
  { name := "COL_REPAIRS", base := 0xc0201c, s1 := 0x40, c1 := 18 },
  { name := "SCRUB_PASSES", base := 0xc02020, s1 := 0x40, c1 := 18 },
  { name := "RECALIBRATIONS", base := 0xc02024, s1 := 0x40, c1 := 18 },
  { name := "SRAM_STATE", base := 0xc04000, s1 := 0x20, c1 := 20 },
  { name := "SRAM_STATE", base := 0xc04400, s1 := 0x20, c1 := 4 }]

/-- Registers of the block Memory (R517, R759), part 1. -/
def regsMemory1 : List RegDef := [
  { name := "SRAM_CORRECTED", base := 0xc04004, s1 := 0x20, c1 := 20 },
  { name := "SRAM_CORRECTED", base := 0xc04404, s1 := 0x20, c1 := 4 },
  { name := "SRAM_UNCORRECTABLE", base := 0xc04008, s1 := 0x20, c1 := 20 },
  { name := "SRAM_UNCORRECTABLE", base := 0xc04408, s1 := 0x20, c1 := 4 },
  { name := "KEEPER_STATUS", base := 0xc08000 },
  { name := "DIRTY_BYTES", base := 0xc08004 },
  { name := "SWEEP_NUMBER", base := 0xc08008 },
  { name := "SWEEP_ENTRIES", base := 0xc0800c },
  { name := "GRID_LEFT_OUT", base := 0xc08010 },
  { name := "KEEPER_WRITE_FAILS", base := 0xc08014 },
  { name := "RESTORED_ENTRIES", base := 0xc08018 },
  { name := "RESTORE_REFUSED", base := 0xc0801c }]

/-! ### Peer (R565) -/

/-- PEER_STATUS. -/
def Reg.PEER_STATUS : Nat := 0xd00000
/-- PEER_EVENTS. -/
def Reg.PEER_EVENTS : Nat := 0xd00004
/-- PEER_EVENT_EN. -/
def Reg.PEER_EVENT_EN : Nat := 0xd00008
/-- PEER_CTRL. -/
def Reg.PEER_CTRL : Nat := 0xd0000c
/-- CHIP_COORD. -/
def Reg.CHIP_COORD : Nat := 0xd01000
/-- LANE_FAULT_CFG. -/
def Reg.LANE_FAULT_CFG : Nat := 0xd01004
/-- MIRROR_CFG. -/
def Reg.MIRROR_CFG : Nat := 0xd01008
/-- SEED_CFG. -/
def Reg.SEED_CFG : Nat := 0xd0100c
/-- MIRROR_STATE. -/
def Reg.MIRROR_STATE : Nat := 0xd01010
/-- MIRROR_FRAME_LO. -/
def Reg.MIRROR_FRAME_LO : Nat := 0xd01014
/-- MIRROR_FRAME_HI. -/
def Reg.MIRROR_FRAME_HI : Nat := 0xd01018
/-- MIRROR_PODS. -/
def Reg.MIRROR_PODS : Nat := 0xd0101c
/-- SEED_ENTRIES. -/
def Reg.SEED_ENTRIES : Nat := 0xd01100
/-- SEED_DROPS. -/
def Reg.SEED_DROPS : Nat := 0xd01104
/-- MIRROR_SETS_SENT. -/
def Reg.MIRROR_SETS_SENT : Nat := 0xd01108
/-- MIRROR_LAG_MAX. -/
def Reg.MIRROR_LAG_MAX : Nat := 0xd0110c
/-- RELAY_DROPS. -/
def Reg.RELAY_DROPS : Nat := 0xd01110
/-- PEA_HOP_DROPS. -/
def Reg.PEA_HOP_DROPS : Nat := 0xd01114
/-- UNALIGNED_ENTRIES. -/
def Reg.UNALIGNED_ENTRIES : Nat := 0xd01118
/-- REMOTE_WRITES_LO. -/
def Reg.REMOTE_WRITES_LO : Nat := 0xd0111c
/-- REMOTE_WRITES_HI. -/
def Reg.REMOTE_WRITES_HI : Nat := 0xd01120
/-- MIRROR_DROPS. -/
def Reg.MIRROR_DROPS : Nat := 0xd01124
/-- PEER_CFG, index `n`. -/
def Reg.PEER_CFG (n : Nat) : Nat := 0xd02000 + n * 0x100
/-- PORT_STATE, index `n`. -/
def Reg.PORT_STATE (n : Nat) : Nat := 0xd02004 + n * 0x100
/-- NEIGHBOUR_INFO, index `n`. -/
def Reg.NEIGHBOUR_INFO (n : Nat) : Nat := 0xd02008 + n * 0x100
/-- EPOCH_PAIR, index `n`. -/
def Reg.EPOCH_PAIR (n : Nat) : Nat := 0xd0200c + n * 0x100
/-- TIME_OFFSET_LO, index `n`. -/
def Reg.TIME_OFFSET_LO (n : Nat) : Nat := 0xd02010 + n * 0x100
/-- TIME_OFFSET_HI, index `n`. -/
def Reg.TIME_OFFSET_HI (n : Nat) : Nat := 0xd02014 + n * 0x100
/-- PATH_DELAY, index `n`. -/
def Reg.PATH_DELAY (n : Nat) : Nat := 0xd02018 + n * 0x100
/-- TX_FLITS_LO, index `n`. -/
def Reg.TX_FLITS_LO (n : Nat) : Nat := 0xd02020 + n * 0x100
/-- TX_FLITS_HI, index `n`. -/
def Reg.TX_FLITS_HI (n : Nat) : Nat := 0xd02024 + n * 0x100
/-- RX_FLITS_LO, index `n`. -/
def Reg.RX_FLITS_LO (n : Nat) : Nat := 0xd02028 + n * 0x100
/-- RX_FLITS_HI, index `n`. -/
def Reg.RX_FLITS_HI (n : Nat) : Nat := 0xd0202c + n * 0x100
/-- REPLAYS, index `n`. -/
def Reg.REPLAYS (n : Nat) : Nat := 0xd02030 + n * 0x100
/-- REPLAY_TIMEOUTS, index `n`. -/
def Reg.REPLAY_TIMEOUTS (n : Nat) : Nat := 0xd02034 + n * 0x100
/-- CRC_ERRORS, index `n`. -/
def Reg.CRC_ERRORS (n : Nat) : Nat := 0xd02038 + n * 0x100
/-- LINK_DOWNS, index `n`. -/
def Reg.LINK_DOWNS (n : Nat) : Nat := 0xd0203c + n * 0x100
/-- LANE_STATE, indexes `n` and `m`. -/
def Reg.LANE_STATE (n m : Nat) : Nat := 0xd02080 + n * 0x100 + m * 0x10
/-- LANE_FEC_CORRECTED, indexes `n` and `m`. -/
def Reg.LANE_FEC_CORRECTED (n m : Nat) : Nat := 0xd02084 + n * 0x100 + m * 0x10
/-- LANE_FEC_UNCORRECTED, indexes `n` and `m`. -/
def Reg.LANE_FEC_UNCORRECTED (n m : Nat) : Nat := 0xd02088 + n * 0x100 + m * 0x10
/-- LANE_REPLAYS, indexes `n` and `m`. -/
def Reg.LANE_REPLAYS (n m : Nat) : Nat := 0xd0208c + n * 0x100 + m * 0x10

/-- Registers of the block Peer (R565), part 0. -/
def regsPeer0 : List RegDef := [
  { name := "PEER_STATUS", base := 0xd00000 },
  { name := "PEER_EVENTS", base := 0xd00004, fields := [⟨29, 0, .w1c, false, 0, 0xFFFFFFFF⟩] },
  { name := "PEER_EVENT_EN", base := 0xd00008, fields := [⟨29, 0, .rw, false, 0, 0xFFFFFFFF⟩] },
  { name := "PEER_CTRL", base := 0xd0000c, fields := [⟨13, 8, .w1s, false, 0, 0xFFFFFFFF⟩, ⟨2, 2, .w1s, false, 0, 0xFFFFFFFF⟩, ⟨0, 0, .w1s, false, 0, 0xFFFFFFFF⟩], wp := true },
  { name := "CHIP_COORD", base := 0xd01000, fields := [⟨31, 31, .ro, false, 0, 0xFFFFFFFF⟩, ⟨13, 8, .wo, false, 0, 0xFFFFFFFF⟩, ⟨7, 4, .wo, false, 0, 0xFFFFFFFF⟩, ⟨3, 0, .wo, false, 0, 0xFFFFFFFF⟩], wp := true },
  { name := "LANE_FAULT_CFG", base := 0xd01004, fields := [⟨31, 16, .rw, true, 1, 60000⟩, ⟨7, 0, .rw, true, 1, 255⟩], wp := true },
  { name := "MIRROR_CFG", base := 0xd01008, fields := [⟨2, 0, .rw, true, 0, 7⟩], wp := true },
  { name := "SEED_CFG", base := 0xd0100c, fields := [⟨15, 0, .rw, true, 10, 10000⟩], wp := true },
  { name := "MIRROR_STATE", base := 0xd01010 },
  { name := "MIRROR_FRAME_LO", base := 0xd01014, group := [4] },
  { name := "MIRROR_FRAME_HI", base := 0xd01018, sh := true },
  { name := "MIRROR_PODS", base := 0xd0101c },
  { name := "SEED_ENTRIES", base := 0xd01100 },
  { name := "SEED_DROPS", base := 0xd01104 },
  { name := "MIRROR_SETS_SENT", base := 0xd01108 },
  { name := "MIRROR_LAG_MAX", base := 0xd0110c },
  { name := "RELAY_DROPS", base := 0xd01110 },
  { name := "PEA_HOP_DROPS", base := 0xd01114 },
  { name := "UNALIGNED_ENTRIES", base := 0xd01118 },
  { name := "REMOTE_WRITES_LO", base := 0xd0111c, group := [4] },
  { name := "REMOTE_WRITES_HI", base := 0xd01120, sh := true },
  { name := "MIRROR_DROPS", base := 0xd01124 },
  { name := "PEER_CFG", base := 0xd02000, s1 := 0x100, c1 := 6, fields := [⟨1, 1, .rw, true, 0, 0xFFFFFFFF⟩, ⟨0, 0, .rw, true, 0, 0xFFFFFFFF⟩], wp := true },
  { name := "PORT_STATE", base := 0xd02004, s1 := 0x100, c1 := 6 },
  { name := "NEIGHBOUR_INFO", base := 0xd02008, s1 := 0x100, c1 := 6 },
  { name := "EPOCH_PAIR", base := 0xd0200c, s1 := 0x100, c1 := 6 },
  { name := "TIME_OFFSET_LO", base := 0xd02010, s1 := 0x100, c1 := 6, group := [4] },
  { name := "TIME_OFFSET_HI", base := 0xd02014, s1 := 0x100, c1 := 6, sh := true },
  { name := "PATH_DELAY", base := 0xd02018, s1 := 0x100, c1 := 6 },
  { name := "TX_FLITS_LO", base := 0xd02020, s1 := 0x100, c1 := 6, group := [4] }]

/-- Registers of the block Peer (R565), part 1. -/
def regsPeer1 : List RegDef := [
  { name := "TX_FLITS_HI", base := 0xd02024, s1 := 0x100, c1 := 6, sh := true },
  { name := "RX_FLITS_LO", base := 0xd02028, s1 := 0x100, c1 := 6, group := [4] },
  { name := "RX_FLITS_HI", base := 0xd0202c, s1 := 0x100, c1 := 6, sh := true },
  { name := "REPLAYS", base := 0xd02030, s1 := 0x100, c1 := 6 },
  { name := "REPLAY_TIMEOUTS", base := 0xd02034, s1 := 0x100, c1 := 6 },
  { name := "CRC_ERRORS", base := 0xd02038, s1 := 0x100, c1 := 6 },
  { name := "LINK_DOWNS", base := 0xd0203c, s1 := 0x100, c1 := 6 },
  { name := "LANE_STATE", base := 0xd02080, s1 := 0x100, c1 := 6, s2 := 0x10, c2 := 5 },
  { name := "LANE_FEC_CORRECTED", base := 0xd02084, s1 := 0x100, c1 := 6, s2 := 0x10, c2 := 5 },
  { name := "LANE_FEC_UNCORRECTED", base := 0xd02088, s1 := 0x100, c1 := 6, s2 := 0x10, c2 := 5 },
  { name := "LANE_REPLAYS", base := 0xd0208c, s1 := 0x100, c1 := 6, s2 := 0x10, c2 := 5 }]

/-! ### Safety (R620) -/

/-- SAFETY_STATUS. -/
def Reg.SAFETY_STATUS : Nat := 0xe00000
/-- SAFETY_EVENTS. -/
def Reg.SAFETY_EVENTS : Nat := 0xe00004
/-- SAFETY_EVENT_EN. -/
def Reg.SAFETY_EVENT_EN : Nat := 0xe00008
/-- SAFETY_CTRL. -/
def Reg.SAFETY_CTRL : Nat := 0xe0000c
/-- CONDITIONS. -/
def Reg.CONDITIONS : Nat := 0xe00010
/-- CHECK_Z_MIN. -/
def Reg.CHECK_Z_MIN : Nat := 0xe01000
/-- CHECK_Z_MAX. -/
def Reg.CHECK_Z_MAX : Nat := 0xe01004
/-- CHECK_CFG. -/
def Reg.CHECK_CFG : Nat := 0xe01008
/-- RECHECK_TOL. -/
def Reg.RECHECK_TOL : Nat := 0xe0100c
/-- SAFETY_CFG. -/
def Reg.SAFETY_CFG : Nat := 0xe01010
/-- ERROR_CFG. -/
def Reg.ERROR_CFG : Nat := 0xe01014
/-- FW_DENY_INFO. -/
def Reg.FW_DENY_INFO : Nat := 0xe01020
/-- FW_DENY_ADDR_LO. -/
def Reg.FW_DENY_ADDR_LO : Nat := 0xe01024
/-- FW_DENY_ADDR_HI. -/
def Reg.FW_DENY_ADDR_HI : Nat := 0xe01028
/-- LATE_WRITE_INFO. -/
def Reg.LATE_WRITE_INFO : Nat := 0xe01030
/-- LATE_WRITE_ADDR. -/
def Reg.LATE_WRITE_ADDR : Nat := 0xe01034
/-- FAULT_CLEAR. -/
def Reg.FAULT_CLEAR : Nat := 0xe01040
/-- CLEARS_PENDING. -/
def Reg.CLEARS_PENDING : Nat := 0xe01044
/-- ERROR_COUNT. -/
def Reg.ERROR_COUNT : Nat := 0xe01100
/-- DISAGREEMENTS. -/
def Reg.DISAGREEMENTS : Nat := 0xe01104
/-- TRANSIENT_DISAGREEMENTS. -/
def Reg.TRANSIENT_DISAGREEMENTS : Nat := 0xe01108
/-- CHECKER_RETIREMENTS. -/
def Reg.CHECKER_RETIREMENTS : Nat := 0xe0110c
/-- COMPARE_SKIPPED. -/
def Reg.COMPARE_SKIPPED : Nat := 0xe01110
/-- CORE_MISMATCHES. -/
def Reg.CORE_MISMATCHES : Nat := 0xe01114
/-- RECHECK_TIMEOUTS. -/
def Reg.RECHECK_TIMEOUTS : Nat := 0xe01118
/-- CHK_UNPOSED. -/
def Reg.CHK_UNPOSED : Nat := 0xe0111c
/-- FW_DENIALS. -/
def Reg.FW_DENIALS : Nat := 0xe01120
/-- LATE_WRITES. -/
def Reg.LATE_WRITES : Nat := 0xe01124
/-- LOG_SUPPRESSED. -/
def Reg.LOG_SUPPRESSED : Nat := 0xe01128
/-- HEARTBEAT_STOPS. -/
def Reg.HEARTBEAT_STOPS : Nat := 0xe0112c
/-- DECL_OVERFLOWS. -/
def Reg.DECL_OVERFLOWS : Nat := 0xe01130
/-- DECL_INFO, index `n`. -/
def Reg.DECL_INFO (n : Nat) : Nat := 0xe01200 + n * 0x20
/-- DECL_FRAME_LO, index `n`. -/
def Reg.DECL_FRAME_LO (n : Nat) : Nat := 0xe01204 + n * 0x20
/-- DECL_FRAME_HI, index `n`. -/
def Reg.DECL_FRAME_HI (n : Nat) : Nat := 0xe01208 + n * 0x20
/-- DECL_BOX_X, index `n`. -/
def Reg.DECL_BOX_X (n : Nat) : Nat := 0xe0120c + n * 0x20
/-- DECL_BOX_Y, index `n`. -/
def Reg.DECL_BOX_Y (n : Nat) : Nat := 0xe01210 + n * 0x20
/-- DECL_COLUMNS, index `n`. -/
def Reg.DECL_COLUMNS (n : Nat) : Nat := 0xe01214 + n * 0x20
/-- LOG_HEAD. -/
def Reg.LOG_HEAD : Nat := 0xe02000
/-- LOG_INDEX. -/
def Reg.LOG_INDEX : Nat := 0xe02004
/-- LOG_STATUS. -/
def Reg.LOG_STATUS : Nat := 0xe02008
/-- LOG_COUNT_LO. -/
def Reg.LOG_COUNT_LO : Nat := 0xe02010
/-- LOG_COUNT_HI. -/
def Reg.LOG_COUNT_HI : Nat := 0xe02014
/-- LOG_DATA, index `n`. -/
def Reg.LOG_DATA (n : Nat) : Nat := 0xe02020 + n * 0x4
/-- FW_BASE_LO, indexes `n` and `m`. -/
def Reg.FW_BASE_LO (n m : Nat) : Nat := 0xe04000 + n * 0x800 + m * 0x20
/-- FW_BASE_HI, indexes `n` and `m`. -/
def Reg.FW_BASE_HI (n m : Nat) : Nat := 0xe04004 + n * 0x800 + m * 0x20
/-- FW_LIMIT_LO, indexes `n` and `m`. -/
def Reg.FW_LIMIT_LO (n m : Nat) : Nat := 0xe04008 + n * 0x800 + m * 0x20
/-- FW_LIMIT_HI, indexes `n` and `m`. -/
def Reg.FW_LIMIT_HI (n m : Nat) : Nat := 0xe0400c + n * 0x800 + m * 0x20
/-- READ_ALLOW_LO, indexes `n` and `m`. -/
def Reg.READ_ALLOW_LO (n m : Nat) : Nat := 0xe04010 + n * 0x800 + m * 0x20
/-- READ_ALLOW_HI, indexes `n` and `m`. -/
def Reg.READ_ALLOW_HI (n m : Nat) : Nat := 0xe04014 + n * 0x800 + m * 0x20
/-- WRITE_ALLOW_LO, indexes `n` and `m`. -/
def Reg.WRITE_ALLOW_LO (n m : Nat) : Nat := 0xe04018 + n * 0x800 + m * 0x20
/-- WRITE_ALLOW_HI, indexes `n` and `m`. -/
def Reg.WRITE_ALLOW_HI (n m : Nat) : Nat := 0xe0401c + n * 0x800 + m * 0x20

/-- Registers of the block Safety (R620), part 0. -/
def regsSafety0 : List RegDef := [
  { name := "SAFETY_STATUS", base := 0xe00000 },
  { name := "SAFETY_EVENTS", base := 0xe00004, fields := [⟨12, 0, .w1c, false, 0, 0xFFFFFFFF⟩] },
  { name := "SAFETY_EVENT_EN", base := 0xe00008, fields := [⟨12, 0, .rw, false, 0, 0xFFFFFFFF⟩] },
  { name := "SAFETY_CTRL", base := 0xe0000c, fields := [⟨3, 0, .w1s, false, 0, 0xFFFFFFFF⟩], wp := true },
  { name := "CONDITIONS", base := 0xe00010 },
  { name := "CHECK_Z_MIN", base := 0xe01000 },
  { name := "CHECK_Z_MAX", base := 0xe01004 },
  { name := "CHECK_CFG", base := 0xe01008 },
  { name := "RECHECK_TOL", base := 0xe0100c },
  { name := "SAFETY_CFG", base := 0xe01010, fields := [⟨7, 0, .rw, true, 1, 255⟩], wp := true },
  { name := "ERROR_CFG", base := 0xe01014, fields := [⟨31, 16, .rw, true, 1, 65535⟩, ⟨7, 0, .rw, true, 1, 255⟩], wp := true },
  { name := "FW_DENY_INFO", base := 0xe01020 },
  { name := "FW_DENY_ADDR_LO", base := 0xe01024, group := [4] },
  { name := "FW_DENY_ADDR_HI", base := 0xe01028, sh := true },
  { name := "LATE_WRITE_INFO", base := 0xe01030 },
  { name := "LATE_WRITE_ADDR", base := 0xe01034 },
  { name := "FAULT_CLEAR", base := 0xe01040, fields := [⟨23, 16, .rw, false, 0, 0xFFFFFFFF⟩, ⟨15, 0, .rw, false, 0, 0xFFFFFFFF⟩], wp := true },
  { name := "CLEARS_PENDING", base := 0xe01044 },
  { name := "ERROR_COUNT", base := 0xe01100 },
  { name := "DISAGREEMENTS", base := 0xe01104 },
  { name := "TRANSIENT_DISAGREEMENTS", base := 0xe01108 },
  { name := "CHECKER_RETIREMENTS", base := 0xe0110c },
  { name := "COMPARE_SKIPPED", base := 0xe01110 },
  { name := "CORE_MISMATCHES", base := 0xe01114 },
  { name := "RECHECK_TIMEOUTS", base := 0xe01118 },
  { name := "CHK_UNPOSED", base := 0xe0111c },
  { name := "FW_DENIALS", base := 0xe01120 },
  { name := "LATE_WRITES", base := 0xe01124 },
  { name := "LOG_SUPPRESSED", base := 0xe01128 },
  { name := "HEARTBEAT_STOPS", base := 0xe0112c }]

/-- Registers of the block Safety (R620), part 1. -/
def regsSafety1 : List RegDef := [
  { name := "DECL_OVERFLOWS", base := 0xe01130 },
  { name := "DECL_INFO", base := 0xe01200, s1 := 0x20, c1 := 8 },
  { name := "DECL_FRAME_LO", base := 0xe01204, s1 := 0x20, c1 := 8, group := [4] },
  { name := "DECL_FRAME_HI", base := 0xe01208, s1 := 0x20, c1 := 8, sh := true },
  { name := "DECL_BOX_X", base := 0xe0120c, s1 := 0x20, c1 := 8 },
  { name := "DECL_BOX_Y", base := 0xe01210, s1 := 0x20, c1 := 8 },
  { name := "DECL_COLUMNS", base := 0xe01214, s1 := 0x20, c1 := 8 },
  { name := "LOG_HEAD", base := 0xe02000 },
  { name := "LOG_INDEX", base := 0xe02004, fields := [⟨31, 0, .rw, false, 0, 0xFFFFFFFF⟩], wp := true },
  { name := "LOG_STATUS", base := 0xe02008 },
  { name := "LOG_COUNT_LO", base := 0xe02010, group := [4] },
  { name := "LOG_COUNT_HI", base := 0xe02014, sh := true },
  { name := "LOG_DATA", base := 0xe02020, s1 := 0x4, c1 := 8, wp := true, rp := true },
  { name := "FW_BASE_LO", base := 0xe04000, s1 := 0x800, c1 := 6, s2 := 0x20, c2 := 64, fields := [⟨31, 12, .rw, true, 0, 0xFFFFFFFF⟩], group := [4], wp := true },
  { name := "FW_BASE_HI", base := 0xe04004, s1 := 0x800, c1 := 6, s2 := 0x20, c2 := 64, fields := [⟨31, 31, .rw, true, 0, 0xFFFFFFFF⟩, ⟨7, 0, .rw, true, 0, 0xFFFFFFFF⟩], sh := true, wp := true },
  { name := "FW_LIMIT_LO", base := 0xe04008, s1 := 0x800, c1 := 6, s2 := 0x20, c2 := 64, fields := [⟨31, 12, .rw, true, 0, 0xFFFFFFFF⟩], group := [4], wp := true },
  { name := "FW_LIMIT_HI", base := 0xe0400c, s1 := 0x800, c1 := 6, s2 := 0x20, c2 := 64, fields := [⟨7, 0, .rw, true, 0, 0xFFFFFFFF⟩], sh := true, wp := true },
  { name := "READ_ALLOW_LO", base := 0xe04010, s1 := 0x800, c1 := 6, s2 := 0x20, c2 := 64, fields := [⟨31, 0, .rw, true, 0, 0xFFFFFFFF⟩], group := [4], wp := true },
  { name := "READ_ALLOW_HI", base := 0xe04014, s1 := 0x800, c1 := 6, s2 := 0x20, c2 := 64, fields := [⟨31, 0, .rw, true, 0, 0xFFFFFFFF⟩], sh := true, wp := true },
  { name := "WRITE_ALLOW_LO", base := 0xe04018, s1 := 0x800, c1 := 6, s2 := 0x20, c2 := 64, fields := [⟨31, 0, .rw, true, 0, 0xFFFFFFFF⟩], group := [4], wp := true },
  { name := "WRITE_ALLOW_HI", base := 0xe0401c, s1 := 0x800, c1 := 6, s2 := 0x20, c2 := 64, fields := [⟨31, 0, .rw, true, 0, 0xFFFFFFFF⟩], sh := true, wp := true }]

/-! ### HostQueues (R696, R697) -/

/-- HQ_STATUS. -/
def Reg.HQ_STATUS : Nat := 0xf00000
/-- HQ_EVENTS. -/
def Reg.HQ_EVENTS : Nat := 0xf00004
/-- HQ_EVENT_EN. -/
def Reg.HQ_EVENT_EN : Nat := 0xf00008
/-- HQ_CTRL. -/
def Reg.HQ_CTRL : Nat := 0xf0000c
/-- CPL_CTRL. -/
def Reg.CPL_CTRL : Nat := 0xf00010
/-- HQ_QUEUE_LEVEL. -/
def Reg.HQ_QUEUE_LEVEL : Nat := 0xf01000
/-- HQ_WM_HI. -/
def Reg.HQ_WM_HI : Nat := 0xf01004
/-- HQ_CROSS_COUNT. -/
def Reg.HQ_CROSS_COUNT : Nat := 0xf01008
/-- HQ_DROPPED_WORDS. -/
def Reg.HQ_DROPPED_WORDS : Nat := 0xf0100c
/-- FLUSHED_ITEMS. -/
def Reg.FLUSHED_ITEMS : Nat := 0xf01010
/-- ITEMS_TAKEN. -/
def Reg.ITEMS_TAKEN : Nat := 0xf01014
/-- CPL_BASE_LO. -/
def Reg.CPL_BASE_LO : Nat := 0xf01020
/-- CPL_BASE_HI. -/
def Reg.CPL_BASE_HI : Nat := 0xf01024
/-- CPL_SIZE. -/
def Reg.CPL_SIZE : Nat := 0xf01028
/-- CPL_HEAD. -/
def Reg.CPL_HEAD : Nat := 0xf0102c
/-- CPL_TAIL. -/
def Reg.CPL_TAIL : Nat := 0xf01030
/-- RING_CTRL. -/
def Reg.RING_CTRL : Nat := 0xf02000
/-- RING_BASE_LO. -/
def Reg.RING_BASE_LO : Nat := 0xf02004
/-- RING_BASE_HI. -/
def Reg.RING_BASE_HI : Nat := 0xf02008
/-- RING_SIZE. -/
def Reg.RING_SIZE : Nat := 0xf0200c
/-- RING_WB_ADDR_LO. -/
def Reg.RING_WB_ADDR_LO : Nat := 0xf02010
/-- RING_WB_ADDR_HI. -/
def Reg.RING_WB_ADDR_HI : Nat := 0xf02014
/-- RING_WRITE_LO. -/
def Reg.RING_WRITE_LO : Nat := 0xf02018
/-- RING_WRITE_HI. -/
def Reg.RING_WRITE_HI : Nat := 0xf0201c
/-- RING_READ_LO. -/
def Reg.RING_READ_LO : Nat := 0xf02020
/-- RING_READ_HI. -/
def Reg.RING_READ_HI : Nat := 0xf02024
/-- RING_STALL_LIMIT. -/
def Reg.RING_STALL_LIMIT : Nat := 0xf02028
/-- RING_IRQ_BEATS. -/
def Reg.RING_IRQ_BEATS : Nat := 0xf0202c
/-- LOST_EPOCH. -/
def Reg.LOST_EPOCH : Nat := 0xf02030
/-- LOST_FIRST_BEAT_LO. -/
def Reg.LOST_FIRST_BEAT_LO : Nat := 0xf02034
/-- LOST_FIRST_BEAT_HI. -/
def Reg.LOST_FIRST_BEAT_HI : Nat := 0xf02038
/-- RING_SUSPENDS. -/
def Reg.RING_SUSPENDS : Nat := 0xf0203c

/-- Registers of the block HostQueues (R696, R697), part 0. -/
def regsHostQueues0 : List RegDef := [
  { name := "HQ_STATUS", base := 0xf00000 },
  { name := "HQ_EVENTS", base := 0xf00004, fields := [⟨5, 0, .w1c, false, 0, 0xFFFFFFFF⟩] },
  { name := "HQ_EVENT_EN", base := 0xf00008, fields := [⟨5, 0, .rw, false, 0, 0xFFFFFFFF⟩] },
  { name := "HQ_CTRL", base := 0xf0000c, fields := [⟨1, 1, .w1s, false, 0, 0xFFFFFFFF⟩, ⟨0, 0, .w1sp, false, 0, 0xFFFFFFFF⟩] },
  { name := "CPL_CTRL", base := 0xf00010, fields := [⟨0, 0, .rw, false, 0, 0xFFFFFFFF⟩] },
  { name := "HQ_QUEUE_LEVEL", base := 0xf01000 },
  { name := "HQ_WM_HI", base := 0xf01004, fields := [⟨14, 0, .rw, false, 1, 16384⟩] },
  { name := "HQ_CROSS_COUNT", base := 0xf01008 },
  { name := "HQ_DROPPED_WORDS", base := 0xf0100c },
  { name := "FLUSHED_ITEMS", base := 0xf01010 },
  { name := "ITEMS_TAKEN", base := 0xf01014 },
  { name := "CPL_BASE_LO", base := 0xf01020, fields := [⟨31, 12, .rw, false, 0, 0xFFFFFFFF⟩], group := [4] },
  { name := "CPL_BASE_HI", base := 0xf01024, fields := [⟨31, 0, .rw, false, 0, 0xFFFFFFFF⟩], sh := true },
  { name := "CPL_SIZE", base := 0xf01028, fields := [⟨4, 0, .rw, false, 6, 16⟩] },
  { name := "CPL_HEAD", base := 0xf0102c, fields := [⟨31, 0, .rw, false, 0, 0xFFFFFFFF⟩] },
  { name := "CPL_TAIL", base := 0xf01030 },
  { name := "RING_CTRL", base := 0xf02000, fields := [⟨0, 0, .rw, false, 0, 0xFFFFFFFF⟩] },
  { name := "RING_BASE_LO", base := 0xf02004, fields := [⟨31, 0, .rw, false, 0, 0xFFFFFFFF⟩], group := [4] },
  { name := "RING_BASE_HI", base := 0xf02008, fields := [⟨31, 0, .rw, false, 0, 0xFFFFFFFF⟩], sh := true },
  { name := "RING_SIZE", base := 0xf0200c, fields := [⟨5, 0, .rw, false, 20, 32⟩] },
  { name := "RING_WB_ADDR_LO", base := 0xf02010, fields := [⟨31, 3, .rw, false, 0, 0xFFFFFFFF⟩], group := [4] },
  { name := "RING_WB_ADDR_HI", base := 0xf02014, fields := [⟨31, 0, .rw, false, 0, 0xFFFFFFFF⟩], sh := true },
  { name := "RING_WRITE_LO", base := 0xf02018, group := [4] },
  { name := "RING_WRITE_HI", base := 0xf0201c, sh := true },
  { name := "RING_READ_LO", base := 0xf02020, fields := [⟨31, 0, .rw, false, 0, 0xFFFFFFFF⟩], group := [4] },
  { name := "RING_READ_HI", base := 0xf02024, fields := [⟨31, 0, .rw, false, 0, 0xFFFFFFFF⟩], sh := true },
  { name := "RING_STALL_LIMIT", base := 0xf02028, fields := [⟨15, 0, .rw, true, 1, 65535⟩], wp := true },
  { name := "RING_IRQ_BEATS", base := 0xf0202c, fields := [⟨10, 0, .rw, false, 1, 1024⟩] },
  { name := "LOST_EPOCH", base := 0xf02030 },
  { name := "LOST_FIRST_BEAT_LO", base := 0xf02034, group := [4] }]

/-- Registers of the block HostQueues (R696, R697), part 1. -/
def regsHostQueues1 : List RegDef := [
  { name := "LOST_FIRST_BEAT_HI", base := 0xf02038, sh := true },
  { name := "RING_SUSPENDS", base := 0xf0203c }]

/-! ### Security (R734) -/

/-- SEC_STATUS. -/
def Reg.SEC_STATUS : Nat := 0x1000000
/-- SEC_EVENTS. -/
def Reg.SEC_EVENTS : Nat := 0x1000004
/-- SEC_EVENT_EN. -/
def Reg.SEC_EVENT_EN : Nat := 0x1000008
/-- SEC_CTRL. -/
def Reg.SEC_CTRL : Nat := 0x100000c
/-- FW_SECURITY_VERSION. -/
def Reg.FW_SECURITY_VERSION : Nat := 0x1001000
/-- FW_MIN. -/
def Reg.FW_MIN : Nat := 0x1001004
/-- IMAGE_MIN. -/
def Reg.IMAGE_MIN : Nat := 0x1001008
/-- ATTEST_COUNT. -/
def Reg.ATTEST_COUNT : Nat := 0x100100c
/-- SMB_CFG. -/
def Reg.SMB_CFG : Nat := 0x1001010
/-- UNLOCK_RESULT. -/
def Reg.UNLOCK_RESULT : Nat := 0x1001014
/-- RNG_FAILURES. -/
def Reg.RNG_FAILURES : Nat := 0x1001018
/-- FW_DIGEST, index `n`. -/
def Reg.FW_DIGEST (n : Nat) : Nat := 0x1001040 + n * 0x4
/-- DEBUG_CHALLENGE, index `n`. -/
def Reg.DEBUG_CHALLENGE (n : Nat) : Nat := 0x1001080 + n * 0x4

/-- Registers of the block Security (R734). -/
def regsSecurity : List RegDef := [
  { name := "SEC_STATUS", base := 0x1000000 },
  { name := "SEC_EVENTS", base := 0x1000004, fields := [⟨5, 0, .w1c, false, 0, 0xFFFFFFFF⟩], wp := true, rp := true },
  { name := "SEC_EVENT_EN", base := 0x1000008, fields := [⟨5, 0, .rw, false, 0, 0xFFFFFFFF⟩], wp := true, rp := true },
  { name := "SEC_CTRL", base := 0x100000c, fields := [⟨4, 0, .w1s, false, 0, 0xFFFFFFFF⟩], wp := true, rp := true },
  { name := "FW_SECURITY_VERSION", base := 0x1001000 },
  { name := "FW_MIN", base := 0x1001004 },
  { name := "IMAGE_MIN", base := 0x1001008 },
  { name := "ATTEST_COUNT", base := 0x100100c },
  { name := "SMB_CFG", base := 0x1001010, fields := [⟨0, 0, .rw, true, 0, 0xFFFFFFFF⟩], wp := true, rp := true },
  { name := "UNLOCK_RESULT", base := 0x1001014, wp := true, rp := true },
  { name := "RNG_FAILURES", base := 0x1001018, wp := true, rp := true },
  { name := "FW_DIGEST", base := 0x1001040, s1 := 0x4, c1 := 16 },
  { name := "DEBUG_CHALLENGE", base := 0x1001080, s1 := 0x4, c1 := 16 }]

/-! ### Power (R758) -/

/-- POWER_STATUS. -/
def Reg.POWER_STATUS : Nat := 0x1100000
/-- POWER_EVENTS. -/
def Reg.POWER_EVENTS : Nat := 0x1100004
/-- POWER_EVENT_EN. -/
def Reg.POWER_EVENT_EN : Nat := 0x1100008
/-- POWER_CTRL. -/
def Reg.POWER_CTRL : Nat := 0x110000c
/-- SAG_CFG. -/
def Reg.SAG_CFG : Nat := 0x1101000
/-- MARROW_CFG. -/
def Reg.MARROW_CFG : Nat := 0x1101004
/-- SWEEP_CFG. -/
def Reg.SWEEP_CFG : Nat := 0x1101008
/-- PACKAGE_POWER. -/
def Reg.PACKAGE_POWER : Nat := 0x1101010
/-- RAIL_STATUS, index `n`. -/
def Reg.RAIL_STATUS (n : Nat) : Nat := 0x1101020 + n * 0x4
/-- RESTORE_RESULT. -/
def Reg.RESTORE_RESULT : Nat := 0x1101100
/-- LAST_SAVE_US. -/
def Reg.LAST_SAVE_US : Nat := 0x1101104
/-- SAGS. -/
def Reg.SAGS : Nat := 0x1101108

/-- Registers of the block Power (R758). -/
def regsPower : List RegDef := [
  { name := "POWER_STATUS", base := 0x1100000 },
  { name := "POWER_EVENTS", base := 0x1100004, fields := [⟨3, 0, .w1c, false, 0, 0xFFFFFFFF⟩] },
  { name := "POWER_EVENT_EN", base := 0x1100008, fields := [⟨3, 0, .rw, false, 0, 0xFFFFFFFF⟩] },
  { name := "POWER_CTRL", base := 0x110000c, fields := [⟨1, 0, .w1s, false, 0, 0xFFFFFFFF⟩], wp := true },
  { name := "SAG_CFG", base := 0x1101000, fields := [⟨15, 8, .rw, true, 1, 20⟩, ⟨0, 0, .rw, true, 0, 0xFFFFFFFF⟩], wp := true },
  { name := "MARROW_CFG", base := 0x1101004, fields := [⟨31, 16, .rw, true, 0, 0xFFFFFFFF⟩, ⟨15, 8, .rw, true, 1, 20⟩], wp := true },
  { name := "SWEEP_CFG", base := 0x1101008, fields := [⟨23, 16, .rw, true, 1, 64⟩, ⟨15, 0, .rw, true, 64, 65535⟩], wp := true },
  { name := "PACKAGE_POWER", base := 0x1101010 },
  { name := "RAIL_STATUS", base := 0x1101020, s1 := 0x4, c1 := 8 },
  { name := "RESTORE_RESULT", base := 0x1101100 },
  { name := "LAST_SAVE_US", base := 0x1101104 },
  { name := "SAGS", base := 0x1101108 }]

/-! ### FuseStrap (R734) -/

/-- FUSE_STATUS. -/
def Reg.FUSE_STATUS : Nat := 0x1200000
/-- FUSE_EVENTS. -/
def Reg.FUSE_EVENTS : Nat := 0x1200004
/-- FUSE_EVENT_EN. -/
def Reg.FUSE_EVENT_EN : Nat := 0x1200008
/-- FUSE_CTRL. -/
def Reg.FUSE_CTRL : Nat := 0x120000c
/-- STRAP_VALUE. -/
def Reg.STRAP_VALUE : Nat := 0x1201000
/-- SERIAL_LO. -/
def Reg.SERIAL_LO : Nat := 0x1201004
/-- SERIAL_HI. -/
def Reg.SERIAL_HI : Nat := 0x1201008
/-- CUSTOMER_ID. -/
def Reg.CUSTOMER_ID : Nat := 0x120100c
/-- ROLLBACK, index `n`. -/
def Reg.ROLLBACK (n : Nat) : Nat := 0x1201010 + n * 0x4
/-- DEBUG_KILL. -/
def Reg.DEBUG_KILL : Nat := 0x1201020
/-- ROOT_HASH, index `n`. -/
def Reg.ROOT_HASH (n : Nat) : Nat := 0x1201040 + n * 0x4
/-- FUSE_PROGRAM. -/
def Reg.FUSE_PROGRAM : Nat := 0x1201100
/-- FUSE_PROGRAM_VALUE. -/
def Reg.FUSE_PROGRAM_VALUE : Nat := 0x1201104

/-- Registers of the block FuseStrap (R734). -/
def regsFuseStrap : List RegDef := [
  { name := "FUSE_STATUS", base := 0x1200000 },
  { name := "FUSE_EVENTS", base := 0x1200004, fields := [⟨1, 0, .w1c, false, 0, 0xFFFFFFFF⟩], wp := true, rp := true },
  { name := "FUSE_EVENT_EN", base := 0x1200008, fields := [⟨1, 0, .rw, false, 0, 0xFFFFFFFF⟩], wp := true, rp := true },
  { name := "FUSE_CTRL", base := 0x120000c, fields := [⟨1, 0, .w1s, false, 0, 0xFFFFFFFF⟩], wp := true, rp := true },
  { name := "STRAP_VALUE", base := 0x1201000 },
  { name := "SERIAL_LO", base := 0x1201004, group := [4] },
  { name := "SERIAL_HI", base := 0x1201008, sh := true },
  { name := "CUSTOMER_ID", base := 0x120100c },
  { name := "ROLLBACK", base := 0x1201010, s1 := 0x4, c1 := 4 },
  { name := "DEBUG_KILL", base := 0x1201020 },
  { name := "ROOT_HASH", base := 0x1201040, s1 := 0x4, c1 := 16 },
  { name := "FUSE_PROGRAM", base := 0x1201100, fields := [⟨1, 0, .rw, true, 1, 2⟩], wp := true, rp := true },
  { name := "FUSE_PROGRAM_VALUE", base := 0x1201104, fields := [⟨31, 0, .rw, true, 0, 0xFFFFFFFF⟩], wp := true, rp := true }]

/-- The registers of the block with index `i` (R659); ENGINES spans the indexes 6 and 7. -/
def regBlock (i : Nat) : List RegDef :=
  match i with
  | 0 => regsGlobal
  | 1 => regsTimeline0 ++ regsTimeline1
  | 2 => regsSensorPorts
  | 3 => regsIngest
  | 4 => regsPodStore0 ++ regsPodStore1
  | 5 => regsOnionCommit0 ++ regsOnionCommit1
  | 6 => regsEngines0 ++ regsEngines1
  | 7 => regsEngines0 ++ regsEngines1
  | 8 => regsTensorMover0 ++ regsTensorMover1
  | 9 => regsSolver0 ++ regsSolver1
  | 10 => regsStructure0 ++ regsStructure1
  | 11 => regsPlacement0 ++ regsPlacement1
  | 12 => regsMemory0 ++ regsMemory1
  | 13 => regsPeer0 ++ regsPeer1
  | 14 => regsSafety0 ++ regsSafety1
  | 15 => regsHostQueues0 ++ regsHostQueues1
  | 16 => regsSecurity
  | 17 => regsPower
  | 18 => regsFuseStrap
  | _ => []

/-- The index pair at which a definition covers offset `off`, if it does. -/
def RegDef.at? (d : RegDef) (off : Nat) : Option (Nat × Nat) :=
  if off < d.base then none else
    let x := off - d.base
    let i := x / d.s1
    let y := x % d.s1
    if i < d.c1 ∧ y % d.s2 = 0 ∧ y / d.s2 < d.c2 then some (i, y / d.s2) else none

/-- The register mapped at an offset of the window, if any (R661). -/
def findReg (off : Nat) : Option RegDef :=
  (regBlock (off / 0x100000)).find? (fun d => (d.at? off).isSome)

end Sys2Proof
end

