-- ==== Sys2Proof/Machine/TimeTypes.lean ====
section
/-! DEFINITION. The timeline unit's state (Timeline unit, R62 to R100) and the clock roots (R36 to R42). Times and
offsets are integers in units of 2^-16 ns; rates are integers in units of 2^-40 (R63, R64). -/

namespace Sys2Proof

/-- Servo states (R87, TIME_STATUS.STATE). -/
inductive Servo where
  | free | acquire | locked | holdover | stepPending | catchUp
  deriving DecidableEq, Repr

/-- OFFSET and RATE in effect from counter value `count`, in beat number `ord` of the run (R67). -/
structure TimeEntry where
  ord : Nat := 0
  count : Nat := 0
  offset : Int := 0
  rate : Int := 0
  deriving DecidableEq, Repr

/-- A pending step: its amount in beats, target frame, epoch number, and the residual it loads (R90 to R92). -/
structure TimeStep where
  beats : Nat
  frame : Nat
  epoch : Nat
  residual : Int
  deriving DecidableEq, Repr

/-- The dataset of an Announce message that the time receiver compares (R81; IEEE 1588-2019). -/
structure PtpMaster where
  port : Nat
  priority1 : Nat
  quality : Nat
  priority2 : Nat
  identity : Nat
  steps : Nat
  deriving DecidableEq, Repr

/-- The PTP time receiver of the time root (R81): the selected transmitter, the times of the Sync and delay
exchanges in progress, and the mean path delay measured last. -/
structure PtpState where
  master : Option PtpMaster := none
  syncSeq : Option Nat := none
  t1 : Option Int := none
  t2 : Option Int := none
  corr : Int := 0
  delaySeq : Nat := 0
  t3 : Option Int := none
  meanPath : Int := 0
  deriving DecidableEq, Repr

/-- The timeline unit. `beats` and `frames` count beat messages and frame boundaries since reset; `lastStep` is the last
announced step taken over, as beats and target frame (R92); `frameFirst` holds from IN_SERVICE to the first frame boundary (R59). -/
structure Timeline where
  count : BitVec 64 := 0
  offset : Int := 0
  rate : Int := 0
  freqTerm : Int := 0
  slewTerm : Int := 0
  slewEff : Int := 0
  servo : Servo := .free
  confirm : Nat := 0
  firstE : Int := 0
  inRun : Nat := 0
  outRun : Nat := 0
  residual : Int := 0
  residualFrom : Nat := 0
  holdBase : Nat := 0
  step : Option TimeStep := none
  lastStep : Option (Nat × Nat) := none
  hist : List TimeEntry := [{}]
  formed : List Int := []
  epoch : BitVec 16 := 0
  epochFirst : Nat := 0
  beat : Nat := 0
  beats : Nat := 0
  frames : Nat := 0
  frameDue : Bool := false
  frameFirst : Bool := false
  ppsIn : Option Nat := none
  ppsInValid : Bool := false
  ppsFrac : Option Int := none
  ppsOut : Bool := false
  ppsOutRise : Nat := 0
  ppsLastSec : Option Int := none
  ptp : PtpState := {}
  depth : Nat := 0
  upstream : BitVec 6 := 0
  votes : Nat := 0
  voteDepth : Nat := 0
  conflict : Bool := false
  rootCoord : BitVec 14 := 0
  deriving DecidableEq, Repr

/-- State of one root PLL (R37 to R41). -/
inductive RootState where
  | running | standby | relocking | retired
  deriving DecidableEq, Repr

/-- One root PLL: its state, whether it takes REFCLK_A, when it failed and the switches it caused, as TIME_COUNT
values (R40, R41). -/
structure RootPll where
  state : RootState := .standby
  refA : Bool := true
  failedAt : Nat := 0
  switches : List Nat := []
  deriving DecidableEq, Repr

end Sys2Proof
end

