-- ==== Sys2Proof/Machine/State.lean ====
section
/-! DEFINITION. The state of the part: plain data, holding every register, queue, buffer, counter, mode and pin the spec
names, and the queue of the commands that wait. -/

namespace Sys2Proof.Machine

open Sys2Proof

/-- Faults. No command of this part faults: every access the spec forbids has an outcome the spec names (R575, R661,
R662), and an event whose condition does not hold changes nothing (log entry 7). The type has no constructor. -/
inductive Fault where
  deriving DecidableEq, Repr

/-- Refusals. -/
inductive Refusal where
  /-- Raised by `exec` for a command that has no meaning yet; safe, since no next state is claimed. -/
  | notModelled (mnemonic : String)
  deriving DecidableEq, Repr

/-- The part. `pending` is the command queue of the model, first in first out. `regs` holds, by offset in the control
window, every register that is stored and differs from its reset value. `shadows` and `held` are the read and write
shadows of R670 to R672, keyed initiator × 2^26 + offset; `wo` lists the write-once registers written (R678). `out`
lists what the part has sent, newest first. `free` counts the free values taken (log entry 2). -/
structure State where
  pending : List Instr := []
  regs : Map Word := []
  shadows : Map Word := []
  held : Map Word := []
  wo : List Nat := []
  resetN : Bool := false
  pwrOk : Bool := true
  tl : Timeline := {}
  roots : List RootPll := [{}, {}]
  ports : List SensorPort := List.replicate 8 {}
  fdb : List FdbEntry := []
  ing : Ingest := {}
  store : PodStore := {}
  com : Commit := {}
  engines : List Engine := List.replicate 20 {}
  descs : Map DescEntry := []
  movers : List MoverChannel := List.replicate 32 {}
  data : Map DataStore := []
  solver : Solver := {}
  live : Option Image := none
  old : Option Image := none
  liveBeat : Nat := 0
  slot : Slot := {}
  place : Placement := {}
  mem : Memory := {}
  peers : Peers := {}
  safety : Safety := {}
  host : HostQueues := {}
  boot : Boot := {}
  power : Power := {}
  keeper : Keeper := {}
  fuses : Fuses := {}
  flash : List Host.Cell := []
  hostMem : Map Byte := []
  out : List Sent := []
  free : Nat := 0
  deriving DecidableEq, Repr

/-- The part with RESET_N low, PWR_OK high and nothing in its memories: the state before RESET_RELEASE (R704, R705).
Every field has the value its structure gives as default; registers read their reset values (`regReset`). -/
def State.reset : State := {}

end Sys2Proof.Machine
end

