-- ==== Sys2Proof/Machine/Ops.lean ====
section
/-! DEFINITION. Named operations over the part's registers, free values, event log and its lists of units. -/

namespace Sys2Proof

/-- The number of an initiator (R568). -/
def Initiator.id : Initiator → Nat
  | .security => 0x01
  | .management => 0x02
  | .pf1 => 0x08
  | .pf0 => 0x09
  | .debug => 0x3F

/-- The function whose HOST_QUEUES registers an initiator sees at the low offsets (R693). -/
def Initiator.hostFn : Initiator → Nat
  | .pf1 => 1
  | _ => 0

end Sys2Proof

namespace Sys2Proof.Machine

open Sys2Proof

/-- Firewall registers at reset (R574): region 0 of REGISTERS, regions 0 to 19 of ENGINE_STORE, region 0 of KEEPER and of
QSPI hold the grants of R574; where the spec fixes no address (DRAM, COMMONS) the fixed regions are judged by data set
and the words read zero (log entry 10). -/
def fwReset (x : Nat) : Word :=
  let t := x / 0x800
  let r := x % 0x800 / 0x20
  let w := x % 0x20 / 4
  let row : Option (Nat × Nat × Nat × Nat) :=
    match t with
    | 0 => if r = 0 then some (0, 0x3FFF000, 0x306, 0x306) else none
    | 3 => if r < 20 then some (r * 0x400000, r * 0x400000 + 0x3FF000, 2 ^ (0x10 + r) + 2 ^ 0x28, 2 ^ (0x10 + r) + 2 ^ 0x28)
      else none
    | 4 => if r = 0 then some (0, 0x1FFF000, 6, 6) else none
    | 5 => if r = 0 then some (0, 0xFFFFFFF000, 6, 4) else none
    | _ => none
  match row with
  | none => 0
  | some (b, l, ra, wa) =>
    match w with
    | 0 => nw b
    | 1 => nw (b / 2 ^ 32 + 0x80000000)
    | 2 => nw l
    | 3 => nw (l / 2 ^ 32)
    | 4 => nw ra
    | 5 => nw (ra / 2 ^ 32)
    | 6 => nw wa
    | _ => nw (wa / 2 ^ 32)

/-- Reset value of the stored register at offset `o` (the register tables; straps are written at RESET_RELEASE). -/
def regReset (o : Nat) : Word :=
  match o / 0x100000 with
  | 0 => if o = Reg.CHIP_ID then 0x201600A1 else if o = Reg.TEMP_WARN then 0x64 else 0
  | 1 =>
    if o = Reg.STEP_THRESHOLD then 0xF4240 else if o = Reg.STEP_CTRL then 0xA0803
    else if o = Reg.PTP_CTRL then 0x80000000 else if o = Reg.PPS_CTRL then 0x186A000 else 0
  | 2 => if o = Reg.BRIDGE_CTRL then 0x12C0004 else 0
  | 3 =>
    if o = Reg.PEER_PRIORITY then 7
    else if 0x301004 ≤ o ∧ o < 0x301104 ∧ (o - 0x301004) % 32 = 0 then 0x3000 else 0
  | 5 => if o = Reg.MIN_MARGIN then 64 else if 0x503000 ≤ o ∧ o < 0x503040 then 0xFFFFFFFF else 0
  | 6 => if o = Reg.ESCAPE_CTRL then 1 else if o = Reg.FAULT_WINDOW then 0x40040 else 0
  | 8 => if o = Reg.MOVER_CFG then 1 else 0
  | 9 => if o = Reg.SOLVER_CFG then 1 else if o = Reg.MIN_FAST_MARGIN then 0x3FF else 0
  | 10 => if o = Reg.SLOT_CFG then 3 else 0
  | 11 => if o = Reg.LOAD_CFG then 0x48000405 else if o = Reg.IMBALANCE_CFG then 0x50001940 else 0
  | 12 =>
    if o = Reg.SCRUB_CFG then 8 else if o = Reg.DRAM_FAULT_CFG then 0xA0010
    else if o = Reg.SRAM_FAULT_CFG then 0x400008 else if o = Reg.DRAM_RESERVED then 0x290000 else 0
  | 13 =>
    if o = Reg.LANE_FAULT_CFG then 0x3E80008 else if o = Reg.MIRROR_CFG then 6 else if o = Reg.SEED_CFG then 0x3E8 else 0
  | 14 =>
    if o = Reg.SAFETY_CFG then 0x10 else if o = Reg.ERROR_CFG then 0x400010
    else if 0xE04000 ≤ o ∧ o < 0xE07000 then fwReset (o - 0xE04000) else 0
  | 15 =>
    if o = 0xF41004 ∨ o = 0xF51004 then 0x3000 else if o = 0xF41028 ∨ o = 0xF51028 then 6
    else if o = Reg.RING_SIZE then 0x14 else if o = Reg.RING_STALL_LIMIT then 0x400
    else if o = Reg.RING_IRQ_BEATS then 0x10 else 0
  | 17 =>
    if o = Reg.SAG_CFG then 0x201 else if o = Reg.MARROW_CFG then 0x10000800 else if o = Reg.SWEEP_CFG then 0x100400 else 0
  | _ => 0

/-- The value held by the stored register at offset `o`. -/
def State.rget (s : State) (o : Nat) : Word := mgetD s.regs o (regReset o)

/-- `s` with `w` in the stored register at offset `o`; a register at its reset value is not listed. -/
def State.rset (s : State) (o : Nat) (w : Word) : State :=
  { s with regs := if w = regReset o then merase s.regs o else mset s.regs o w }

/-- Bits [hi:lo] of a stored register. -/
def State.rbits (s : State) (o hi lo : Nat) : Nat := wbits (s.rget o) hi lo

/-- Bit `i` of a stored register. -/
def State.rbit (s : State) (o i : Nat) : Bool := wbit (s.rget o) i

/-- A word with bits [hi:lo] replaced by `v`. -/
def putBits (w : Word) (hi lo v : Nat) : Word :=
  let n := w.toNat
  nw (n - nbits n hi lo * 2 ^ lo + v % 2 ^ (hi + 1 - lo) * 2 ^ lo)

/-- Write bits [hi:lo] of a stored register. -/
def State.rput (s : State) (o hi lo v : Nat) : State := s.rset o (putBits (s.rget o) hi lo v)

/-- Count `n` in a 32-bit saturating counter (R105, R163). -/
def State.bump (s : State) (o : Nat) (n : Nat := 1) : State := s.rset o (satAdd32 (s.rget o) n)

/-- The 64-bit value of a _LO, _HI pair of stored registers. -/
def State.rpair (s : State) (lo hi : Nat) : Nat := (s.rget lo).toNat + (s.rget hi).toNat * 2 ^ 32

/-- Store a 64-bit value in a _LO, _HI pair. -/
def State.setPair (s : State) (lo hi v : Nat) : State := (s.rset lo (nw v)).rset hi (nw (v / 2 ^ 32))

/-- Count `n` in a 64-bit pair. -/
def State.bump64 (s : State) (lo hi : Nat) (n : Nat := 1) : State := s.setPair lo hi (s.rpair lo hi + n)

/-- Store `n` words of a long value, least significant first. -/
def State.setWords (s : State) (base : Nat) : Nat → Nat → State
  | 0, _ => s
  | n + 1, v => (s.rset base (nw v)).setWords (base + 4) n (v / 2 ^ 32)

/-- Raise a saturating maximum held in a stored register. -/
def State.rmax (s : State) (o v : Nat) : State := if (s.rget o).toNat < v then s.rset o (nw v) else s

/-- The next free natural number. -/
def State.freeNat (s : State) : Nat := Config.freeNat s.free

/-- The next free integer. -/
def State.freeInt (s : State) : Int := Config.freeInt s.free

/-- `s` with a free value taken. -/
def State.took (s : State) : State := { s with free := s.free + 1 }

/-- `s` with something sent. -/
def State.send (s : State) (x : Sent) : State := { s with out := x :: s.out }

/-- The frame of the current beat (R16). -/
def State.frame (s : State) : Nat := s.tl.beat / 1024

/-- Whether the part runs: RESET_N high and boot begun (R705). -/
def State.up (s : State) : Bool := s.resetN && decide (0 < s.boot.step)

/-- Whether the part is IN_SERVICE and no save has stopped it (R96, R748). -/
def State.inServ (s : State) : Bool := s.boot.inService

/-- Whether the part is in SAFE_HOLD (R607). -/
def State.hold (s : State) : Bool := decide (s.safety.state = .safeHold)

/-- Whether a save runs or has ended: no step of R57 is carried out (R750, R751). -/
def State.saved (s : State) : Bool := s.power.saving.isSome || s.power.stopped

/-- TIME_COUNT cycles in a microsecond, a millisecond and a second: 900 MHz (R62). -/
def cyclesUs : Nat := 900
/-- See `cyclesUs`. -/
def cyclesMs : Nat := 900000
/-- See `cyclesUs`. -/
def cyclesS : Nat := 900000000

/-- TIME_COUNT as a number. -/
def State.now (s : State) : Nat := s.tl.count.toNat

/-- Engine `e`. -/
def State.engine (s : State) (e : Nat) : Engine := lgetD s.engines e {}

/-- `s` with engine `e` changed. -/
def State.onEngine (s : State) (e : Nat) (f : Engine → Engine) : State := { s with engines := lmod s.engines e f }

/-- Sensor port `p`. -/
def State.port (s : State) (p : Nat) : SensorPort := lgetD s.ports p {}

/-- `s` with sensor port `p` changed. -/
def State.onPort (s : State) (p : Nat) (f : SensorPort → SensorPort) : State := { s with ports := lmod s.ports p f }

/-- Peer port `p`. -/
def State.peer (s : State) (p : Nat) : PeerPort := lgetD s.peers.ports p {}

/-- `s` with peer port `p` changed. -/
def State.onPeer (s : State) (p : Nat) (f : PeerPort → PeerPort) : State :=
  { s with peers := { s.peers with ports := lmod s.peers.ports p f } }

/-- Parser machine `m`. -/
def State.machine (s : State) (m : Nat) : ParserMachine := lgetD s.ing.machines m {}

/-- `s` with parser machine `m` changed. -/
def State.onMachine (s : State) (m : Nat) (f : ParserMachine → ParserMachine) : State :=
  { s with ing := { s.ing with machines := lmod s.ing.machines m f } }

/-- DRAM channel `c`. -/
def State.channel (s : State) (c : Nat) : Channel := lgetD s.mem.channels c {}

/-- `s` with DRAM channel `c` changed. -/
def State.onChannel (s : State) (c : Nat) (f : Channel → Channel) : State :=
  { s with mem := { s.mem with channels := lmod s.mem.channels c f } }

/-- Mover channel `c`. -/
def State.mover (s : State) (c : Nat) : MoverChannel := lgetD s.movers c {}

/-- `s` with mover channel `c` changed. -/
def State.onMover (s : State) (c : Nat) (f : MoverChannel → MoverChannel) : State := { s with movers := lmod s.movers c f }

/-- Host function `f` (0 for PF0, 1 for PF1). -/
def State.fn (s : State) (f : Nat) : HostFn := lgetD s.host.fns f {}

/-- `s` with host function `f` changed. -/
def State.onFn (s : State) (f : Nat) (g : HostFn → HostFn) : State :=
  { s with host := { s.host with fns := lmod s.host.fns f g } }

/-- The radish book of engine `e`. -/
def State.book (s : State) (e : Nat) : RadishBook := lgetD s.place.books e {}

/-- `s` with the radish book of engine `e` changed. -/
def State.onBook (s : State) (e : Nat) (f : RadishBook → RadishBook) : State :=
  { s with place := { s.place with books := lmod s.place.books e f } }

/-- Destination `d` of the commit stream: 0 to 5 the peer copies, 6 the host copy (log entry 11). -/
def State.dest (s : State) (d : Nat) : Destination := lgetD s.com.dests d {}

/-- `s` with destination `d` changed. -/
def State.onDest (s : State) (d : Nat) (f : Destination → Destination) : State :=
  { s with com := { s.com with dests := lmod s.com.dests d f } }

/-- Record a log record (R613, R614): at most 64 in a frame; the others are counted by class. The on-chip shadow holds
256 records (R584); a record that finds it full is counted in the same way (log entry 12). -/
def State.logRec (s : State) (cls : Nat) (kind : Nat := 0) (index : Nat := 0) (cause : Nat := 0) (detail : Nat := 0) : State :=
  if 64 ≤ s.safety.frameRecords ∨ 256 ≤ s.safety.waiting.length then
    let s1 := s.bump Reg.LOG_SUPPRESSED
    { s1 with safety := { s1.safety with suppressed := lmod s1.safety.suppressed (cls - 1) (fun n => min (n + 1) 4095) } }
  else
    { s with safety := { s.safety with
        frameRecords := s.safety.frameRecords + 1
        waiting := s.safety.waiting ++
          [{ beat := s.tl.beat, epoch := s.tl.epoch.toNat, cls := cls, kind := kind, index := index, cause := cause,
             detail := detail }] } }

/-- Whether PF1 is present (R624, R684). -/
def State.pf1Present (s : State) : Bool := s.boot.straps.getLsbD 0

/-- PF1 and the secure initiators, and the debug port while debug is unlocked (R680, R683). -/
def State.privileged (s : State) (i : Initiator) : Bool :=
  match i with
  | .security | .management => true
  | .pf1 => s.pf1Present
  | .pf0 => false
  | .debug => s.boot.unlocked

/-- The offset at which a function's own register of HOST_QUEUES is held: its view of R693 at 0x4_0000 or 0x5_0000. -/
def hqReg (fn o : Nat) : Nat := o + 0x40000 + fn * 0x10000

/-- Whether a channel has a fault-map entry (R586). -/
def State.marked (s : State) (kind index : Nat) : Bool :=
  s.keeper.faults.contains (kind, index) || s.safety.mapShadow.contains (kind, index)

/-- Enter a channel into the fault and spare map of the keeper die (R581), or into its on-chip shadow when keeper writes fail (R584);
one already entered stays entered once. -/
def State.markRetired (s : State) (kind index : Nat) : State :=
  if s.marked kind index then s
  else if s.safety.keeperBad then
    { s with safety := { s.safety with mapShadow := s.safety.mapShadow ++ [(kind, index)] } }
  else { s with keeper := { s.keeper with faults := s.keeper.faults ++ [(kind, index)] } }

/-- Read `n` bytes of a data set of a space from offset `o`. -/
def State.dread (s : State) (space set o n : Nat) : List Byte :=
  match mget s.data (space * 65536 + set) with
  | some d => cread d.bytes o n
  | none => List.replicate n 0

/-- The poisoned spans left after bytes [o, o + n) are written: a span written whole is poisoned no more (R495). -/
def unpoison (l : List PoisonSpan) (o n : Nat) : List PoisonSpan :=
  l.filterMap (fun p =>
    let lo := max o p.lo - p.lo
    let hi := min (o + n) (p.lo + p.len) - p.lo
    let w := if lo < hi then p.written ||| (2 ^ hi - 2 ^ lo) else p.written
    if w = 2 ^ p.len - 1 then none else some { p with written := w })

/-- Write bytes into a data set; unchanged where the data set does not exist. -/
def State.dwrite (s : State) (space set o : Nat) (b : List Byte) : State :=
  { s with data := mmod s.data (space * 65536 + set) (fun d => { d with bytes := cwrite d.bytes o b, poisoned := unpoison d.poisoned o b.length }) }

/-- Whether bytes [o, o + n) of a data set meet a poisoned span (R496). -/
def State.poisonedAt (s : State) (space set o n : Nat) : Bool :=
  match mget s.data (space * 65536 + set) with
  | some d => d.poisoned.any (fun p => decide (o < p.lo + p.len ∧ p.lo < o + n))
  | none => false

/-- The byte of host memory at an address: as written, or the free byte it held before. -/
def State.hread (s : State) (a : Nat) : Byte := (mget s.hostMem a).getD (Config.hostByte a)

/-- Write bytes to host memory from address `a`. -/
def State.hwrite (s : State) : Nat → List Byte → State
  | _, [] => s
  | a, b :: l => { s with hostMem := mset s.hostMem a b }.hwrite (a + 1) l

end Sys2Proof.Machine
end

