-- ==== Sys2Proof/Machine/Flags.lean ====
section
/-! DEFINITION. Event bits and the MSI-X messages they send (R657, R658). -/

namespace Sys2Proof.Machine

open Sys2Proof

/-- Send vector `v` of function `f` (R657): nothing where PF1 is absent; a masked vector sets its pending bit. -/
def State.msix (s : State) (f v : Nat) : State :=
  if f = 1 ∧ ¬ s.pf1Present then s
  else
    let e := lgetD (s.fn f).msix v {}
    if wbit e.control 0 then s.onFn f (fun h => { h with msixPending := h.msixPending ||| BitVec.ofNat 64 (2 ^ v) })
    else s.send (.msix f v (e.addrLo.toNat + e.addrHi.toNat * 2 ^ 32) e.data)

/-- A block event goes to both functions (R658). -/
def State.msixBoth (s : State) (v : Nat) : State := (s.msix 0 v).msix 1 v

/-- Raise bits of the event register at `ev` whose enables lie at `en`, on block vector `v`: a message goes out when an
enabled bit rises (R657). -/
def State.raiseAt (s : State) (ev en v mask : Nat) : State :=
  let old := s.rget ev
  let new := old ||| nw mask
  let s1 := s.rset ev new
  if new &&& s.rget en &&& ~~~ old = 0 then s1 else s1.msixBoth v

/-- Raise bit `b` of a block's *_EVENTS register, whose enables follow it. -/
def State.raise (s : State) (ev b : Nat) : State := s.raiseAt ev (ev + 4) (8 + ev / 0x100000) (2 ^ b)

/-- Raise bit `b` of the HQ_EVENTS of function `f` on vector `v` (R701). -/
def State.hqRaise (s : State) (f b v : Nat) : State :=
  let o := hqReg f Reg.HQ_EVENTS
  let old := s.rget o
  let s1 := s.rset o (old ||| nw (2 ^ b))
  if wbit old b ∨ ¬ wbit (s.rget (hqReg f Reg.HQ_EVENT_EN)) b then s1 else s1.msix f v

/-- Capture and log a dropped or held write (R662, R622): LATE_WRITE_INFO and _ADDR while free, LATE_WRITES, the ACCESS
record and the event bit of R662. -/
def State.late (s : State) (ini off kind : Nat) : State :=
  let s1 :=
    if s.rbit Reg.LATE_WRITE_INFO 31 then s
    else (s.rset Reg.LATE_WRITE_INFO (nw (2 ^ 31 + kind * 2 ^ 28 + ini * 2 ^ 22))).rset Reg.LATE_WRITE_ADDR
      (nw (off + if ini = 0x08 then 2 ^ 31 else 0))
  let s2 := (s1.bump Reg.LATE_WRITES).logRec 6 0 0 0 (off + ini * 2 ^ 40 + 15 * 2 ^ 46 + kind * 2 ^ 50)
  s2.raise Reg.SAFETY_EVENTS (if kind = 3 ∨ kind = 4 then 12 else 9)

/-- A denied access (R575): FW_DENIALS, the first capture and its record, and the event. -/
def State.deny (s : State) (write : Bool) (ini target addr : Nat) : State :=
  let s1 := s.bump Reg.FW_DENIALS
  let s2 :=
    if s.rbit Reg.FW_DENY_INFO 31 then s1
    else
      ((s1.rset Reg.FW_DENY_INFO (nw (2 ^ 31 + b2n write * 2 ^ 30 + ini * 2 ^ 24 + target * 2 ^ 20))).setPair
        Reg.FW_DENY_ADDR_LO Reg.FW_DENY_ADDR_HI addr).logRec 6 0 0 0 (addr % 2 ^ 40 + ini * 2 ^ 40 + target * 2 ^ 46)
  s2.raise Reg.SAFETY_EVENTS 10

/-- Declare a channel a permanent fault (R581): the map entry, the PERMANENT record, RETIREMENTS and the event. `repl`
names the replacing channel. -/
def State.declare (s : State) (kind index cause : Nat) (repl : Option Nat) (hard : Bool) : State :=
  let d := match repl with
    | some r => r + b2n hard * 2 ^ 16
    | none => 0xFFFF + b2n hard * 2 ^ 16 + 2 ^ 17
  (((s.markRetired kind index).logRec 2 kind index cause d).bump Reg.RETIREMENTS).raise Reg.PLACE_EVENTS 4

/-- A missed deadline (R587): ERROR_COUNT, the ERROR record, the event bit and the window of R588. -/
def State.error (s : State) (what which : Nat) : State :=
  let s1 := ((s.bump Reg.ERROR_COUNT).logRec 3 0 0 0 (what + which * 256)).raise Reg.SAFETY_EVENTS 4
  { s1 with safety := { s1.safety with errors := s1.tl.frames :: s1.safety.errors, lastError := some s1.tl.frames } }

end Sys2Proof.Machine
end

