-- ==== Sys2Proof/Machine/Hash.lean ====
section
/-! DEFINITION. The hashes the part uses: SHAKE256 (FIPS 202) and SipHash-1-3 (R199, R462). -/

namespace Sys2Proof

/-- Rotate a 64-bit number left. -/
def rotl64 (x n : Nat) : Nat := (x <<< n ||| x >>> (64 - n)) % 2 ^ 64

/-- Complement of a 64-bit number. -/
def not64 (x : Nat) : Nat := x ^^^ 0xFFFFFFFFFFFFFFFF

/-- One round of Keccak-f[1600] on 25 lanes with round constant `rc`. -/
def keccakRound (rc : Nat) (l : List Nat) : List Nat :=
  match l with
  | [a0, a1, a2, a3, a4, a5, a6, a7, a8, a9, a10, a11, a12,
     a13, a14, a15, a16, a17, a18, a19, a20, a21, a22, a23, a24] =>
    let c0 := a0 ^^^ a5 ^^^ a10 ^^^ a15 ^^^ a20
    let c1 := a1 ^^^ a6 ^^^ a11 ^^^ a16 ^^^ a21
    let c2 := a2 ^^^ a7 ^^^ a12 ^^^ a17 ^^^ a22
    let c3 := a3 ^^^ a8 ^^^ a13 ^^^ a18 ^^^ a23
    let c4 := a4 ^^^ a9 ^^^ a14 ^^^ a19 ^^^ a24
    let d0 := c4 ^^^ rotl64 c1 1
    let d1 := c0 ^^^ rotl64 c2 1
    let d2 := c1 ^^^ rotl64 c3 1
    let d3 := c2 ^^^ rotl64 c4 1
    let d4 := c3 ^^^ rotl64 c0 1
    let b0 := a0 ^^^ d0
    let b1 := rotl64 (a6 ^^^ d1) 44
    let b2 := rotl64 (a12 ^^^ d2) 43
    let b3 := rotl64 (a18 ^^^ d3) 21
    let b4 := rotl64 (a24 ^^^ d4) 14
    let b5 := rotl64 (a3 ^^^ d3) 28
    let b6 := rotl64 (a9 ^^^ d4) 20
    let b7 := rotl64 (a10 ^^^ d0) 3
    let b8 := rotl64 (a16 ^^^ d1) 45
    let b9 := rotl64 (a22 ^^^ d2) 61
    let b10 := rotl64 (a1 ^^^ d1) 1
    let b11 := rotl64 (a7 ^^^ d2) 6
    let b12 := rotl64 (a13 ^^^ d3) 25
    let b13 := rotl64 (a19 ^^^ d4) 8
    let b14 := rotl64 (a20 ^^^ d0) 18
    let b15 := rotl64 (a4 ^^^ d4) 27
    let b16 := rotl64 (a5 ^^^ d0) 36
    let b17 := rotl64 (a11 ^^^ d1) 10
    let b18 := rotl64 (a17 ^^^ d2) 15
    let b19 := rotl64 (a23 ^^^ d3) 56
    let b20 := rotl64 (a2 ^^^ d2) 62
    let b21 := rotl64 (a8 ^^^ d3) 55
    let b22 := rotl64 (a14 ^^^ d4) 39
    let b23 := rotl64 (a15 ^^^ d0) 41
    let b24 := rotl64 (a21 ^^^ d1) 2
    [(b0 ^^^ ((not64 b1) &&& b2)) ^^^ rc, b1 ^^^ ((not64 b2) &&& b3), b2 ^^^ ((not64 b3) &&& b4),
     b3 ^^^ ((not64 b4) &&& b0), b4 ^^^ ((not64 b0) &&& b1), b5 ^^^ ((not64 b6) &&& b7),
     b6 ^^^ ((not64 b7) &&& b8), b7 ^^^ ((not64 b8) &&& b9), b8 ^^^ ((not64 b9) &&& b5),
     b9 ^^^ ((not64 b5) &&& b6), b10 ^^^ ((not64 b11) &&& b12), b11 ^^^ ((not64 b12) &&& b13),
     b12 ^^^ ((not64 b13) &&& b14), b13 ^^^ ((not64 b14) &&& b10), b14 ^^^ ((not64 b10) &&& b11),
     b15 ^^^ ((not64 b16) &&& b17), b16 ^^^ ((not64 b17) &&& b18), b17 ^^^ ((not64 b18) &&& b19),
     b18 ^^^ ((not64 b19) &&& b15), b19 ^^^ ((not64 b15) &&& b16), b20 ^^^ ((not64 b21) &&& b22),
     b21 ^^^ ((not64 b22) &&& b23), b22 ^^^ ((not64 b23) &&& b24), b23 ^^^ ((not64 b24) &&& b20),
     b24 ^^^ ((not64 b20) &&& b21)]
  | l => l

/-- The round constants of Keccak-f[1600]. -/
def keccakRc : List Nat :=
  [0x1, 0x8082, 0x800000000000808A, 0x8000000080008000, 0x808B, 0x80000001,
   0x8000000080008081, 0x8000000000008009, 0x8A, 0x88, 0x80008009, 0x8000000A,
   0x8000808B, 0x800000000000008B, 0x8000000000008089, 0x8000000000008003, 0x8000000000008002, 0x8000000000000080,
   0x800A, 0x800000008000000A, 0x8000000080008081, 0x8000000000008080, 0x80000001, 0x8000000080008008]

/-- Keccak-f[1600]. -/
def keccakF (l : List Nat) : List Nat := keccakRc.foldl (fun a rc => keccakRound rc a) l

/-- The lanes of up to 136 bytes. -/
def keccakLanes : Nat → List Byte → List Nat
  | 0, _ => []
  | n + 1, b => leNat (b.take 8) :: keccakLanes n (b.drop 8)

/-- Absorb one block of 136 bytes. -/
def keccakAbsorb (st : List Nat) (block : List Byte) : List Nat :=
  keccakF (List.zipWith (fun a b => a ^^^ b) st (keccakLanes 25 block))

/-- Pad the last block of SHAKE256: the domain byte 0x1F and the final bit. -/
def shakePad (b : List Byte) : List Byte :=
  if b.length = 135 then b ++ [0x9F] else b ++ [0x1F] ++ List.replicate (134 - b.length) 0 ++ [0x80]

/-- Absorb a message block by block; `fuel` bounds the number of blocks. -/
def shakeAbsorb : Nat → List Nat → List Byte → List Nat
  | 0, st, _ => st
  | f + 1, st, m =>
    if m.length < 136 then keccakAbsorb st (shakePad m) else shakeAbsorb f (keccakAbsorb st (m.take 136)) (m.drop 136)

/-- The first `n` bytes of SHAKE256 of a message, for `n` up to 136. -/
def shake256 (n : Nat) (m : List Byte) : List Byte :=
  let st := shakeAbsorb (m.length / 136 + 1) (List.replicate 25 0) m
  ((st.take 17).flatMap (leBytes 8)).take n

/-- The first `bits` bits of SHAKE256 as a little-endian number (R790). -/
def shakeNat (bits : Nat) (m : List Byte) : Nat := leNat (shake256 (bits / 8) m)

/-- One SipRound on (v0, v1, v2, v3). -/
def sipRound (v : Nat × Nat × Nat × Nat) : Nat × Nat × Nat × Nat :=
  let m := 2 ^ 64
  let (v0, v1, v2, v3) := v
  let v0 := (v0 + v1) % m
  let v1 := rotl64 v1 13 ^^^ v0
  let v0 := rotl64 v0 32
  let v2 := (v2 + v3) % m
  let v3 := rotl64 v3 16 ^^^ v2
  let v0 := (v0 + v3) % m
  let v3 := rotl64 v3 21 ^^^ v0
  let v2 := (v2 + v1) % m
  let v1 := rotl64 v1 17 ^^^ v2
  (v0, v1, rotl64 v2 32, v3)

/-- SipHash-1-3 of the 8 bytes of `x` under the 128-bit key `k`. -/
def sip13 (k x : Nat) : Nat :=
  let k0 := k % 2 ^ 64
  let k1 := k >>> 64 % 2 ^ 64
  let v := (k0 ^^^ 0x736f6d6570736575, k1 ^^^ 0x646f72616e646f6d, k0 ^^^ 0x6c7967656e657261, k1 ^^^ 0x7465646279746573)
  let step := fun (v : Nat × Nat × Nat × Nat) (m : Nat) =>
    let r := sipRound (v.1, v.2.1, v.2.2.1, v.2.2.2 ^^^ m)
    (r.1 ^^^ m, r.2.1, r.2.2.1, r.2.2.2)
  let v := step (step v (x % 2 ^ 64)) (8 <<< 56)
  let v := sipRound (sipRound (sipRound (v.1, v.2.1, v.2.2.1 ^^^ 0xff, v.2.2.2)))
  v.1 ^^^ v.2.1 ^^^ v.2.2.1 ^^^ v.2.2.2

end Sys2Proof
end

