-- ==== Sys2Proof/Machine/StoreKeys.lean ====
section
/-! DEFINITION. Node keys, cell evidence and the keyed node table as pure functions (R191 to R213, R462). -/

namespace Sys2Proof

/-! ### Keys (R192 to R195) -/

/-- Interleave the low `n` bits of three cell indices in Morton order (R193). -/
def morton3 : Nat → Nat → Nat → Nat → Nat
  | 0, _, _, _ => 0
  | n + 1, x, y, z => x % 2 + 2 * (y % 2) + 4 * (z % 2) + 8 * morton3 n (x / 2) (y / 2) (z / 2)

/-- The three cell indices of a Morton number. -/
def demorton3 : Nat → Nat → Nat × Nat × Nat
  | 0, _ => (0, 0, 0)
  | n + 1, m =>
    let r := demorton3 n (m / 8)
    (m % 2 + 2 * r.1, m / 2 % 2 + 2 * r.2.1, m / 4 % 2 + 2 * r.2.2)

/-- The cell index of a coordinate (R192). -/
def cellIx (x : Int) : Int := ishr (x + 131072) 7

/-- The cell key of three cell indices (R194). -/
def cellKeyIx (x y z : Nat) : Nat := 11 * 2 ^ 33 + morton3 11 x y z

/-- The cell key of a point of the zone cube, none outside it. -/
def cellKey (x y z : Int) : Option Nat :=
  let a := cellIx x
  let b := cellIx y
  let c := cellIx z
  if 0 ≤ a ∧ a < 2048 ∧ 0 ≤ b ∧ b < 2048 ∧ 0 ≤ c ∧ c < 2048 then some (cellKeyIx a.toNat b.toNat c.toNat) else none

/-- LEVEL of a node key (R193). -/
def keyLevel (k : Nat) : Nat := nbits k 36 33

/-- MORTON of a node key (R193). -/
def keyMorton (k : Nat) : Nat := nbits k 32 0

/-- The ancestor of a node at level `l`. -/
def keyAt (l k : Nat) : Nat :=
  let sh := 3 * (11 - l)
  l * 2 ^ 33 + keyMorton k / 2 ^ sh * 2 ^ sh

/-- The pod key of a cell (R194). -/
def podKey (k : Nat) : Nat := keyAt 9 k

/-- The cell-in-pod index of a cell key (R194). -/
def cellInPod (k : Nat) : Nat := nbits k 5 0

/-- The region index of a node key (R194). -/
def keyRegion (k : Nat) : Nat := nbits k 32 24

/-- The child number of a node under its parent, in Morton order (R197). -/
def childIx (k : Nat) : Nat := keyMorton k / 2 ^ (3 * (11 - keyLevel k)) % 8

/-- A node's cube: its minimum corner and side in units of 0.5 mm (R191). -/
def keyCube (k : Nat) : (Int × Int × Int) × Int :=
  let (x, y, z) := demorton3 11 (keyMorton k)
  (((x : Int) * 128 - 131072, (y : Int) * 128 - 131072, (z : Int) * 128 - 131072), ((2 ^ (18 - keyLevel k) : Nat) : Int))

/-- Whether a key names a whole node of its level (R193). -/
def keyWhole (k : Nat) : Bool :=
  decide (k < 2 ^ 37 ∧ keyLevel k ≤ 11 ∧ keyMorton k % 2 ^ (3 * (11 - keyLevel k)) = 0)

/-- Whether a point lies in a box of six values, half-open on every axis (R180). -/
def inBox (b : List Int) (x y z : Int) : Bool :=
  decide (lgetD b 0 0 ≤ x ∧ x < lgetD b 3 0 ∧ lgetD b 1 0 ≤ y ∧ y < lgetD b 4 0 ∧ lgetD b 2 0 ≤ z ∧ z < lgetD b 5 0)

/-! ### Evidence (R210 to R213) -/

/-- Decay toward zero by `m` frames (R212). -/
def decay (d : Nat) (v : Int) (m : Nat) : Int :=
  let a := (v.natAbs : Int) - ((m * d : Nat) : Int)
  if a ≤ 0 then 0 else if v < 0 then -a else a

/-- Effective log-odds of a cell at frame `g` (R213). -/
def effective (d : Nat) (c : Cell) (g : Nat) : Int := decay d c.logOdds (((g % 256) + 256 - c.last) % 256)

/-- The update of R212: a log-odds increment of frame `f`. -/
def hitCell (d : Nat) (c : Cell) (f : Nat) (hit : Int) : Cell :=
  let n := (f % 256 + 256 - c.last) % 256
  if n < 128 then { c with logOdds := ssat 16 (decay d c.logOdds n + hit), last := f % 256 }
  else { c with logOdds := ssat 16 (c.logOdds + decay d hit (256 - n)) }

/-- LAST_UPDATE advanced to frame `f` where `f` is newer, LOG_ODDS kept effective (R211). -/
def touchCell (d : Nat) (c : Cell) (f : Nat) : Cell :=
  let n := (f % 256 + 256 - c.last) % 256
  if 0 < n ∧ n < 128 then { c with logOdds := decay d c.logOdds n, last := f % 256 } else c

/-- The 64 bits of a cell evidence record (R210). -/
def cellBits (c : Cell) : Nat :=
  sbits 16 c.logOdds + sbits 16 c.vx * 2 ^ 16 + sbits 16 c.vy * 2 ^ 32 + c.cls % 16 * 2 ^ 48 + c.conf % 16 * 2 ^ 52 +
    c.last % 256 * 2 ^ 56

/-- The cell evidence record that 64 bits hold (R210). -/
def bitsCell (n : Nat) : Cell :=
  { logOdds := sval 16 n, vx := sval 16 (n / 2 ^ 16), vy := sval 16 (n / 2 ^ 32), cls := nbits n 51 48,
    conf := nbits n 55 52, last := nbits n 63 56 }

/-! ### Hashing (R199) -/

/-- The hash key of region `r` at generation `g` (R199). -/
def hashKey (k r g : Nat) : Nat := shakeNat 128 (leBytes 8 k ++ leBytes 2 r ++ leBytes 2 g)

/-- The interleave key of data set `d` (R462). -/
def interleaveKey (k d : Nat) : Nat := shakeNat 128 (leBytes 8 k ++ [0x49, 0x4C] ++ leBytes 2 d)

/-- Region `r`. -/
def PodStore.region (p : PodStore) (r : Nat) : Region := mgetD p.regions r {}

/-- The four locations that `start` of R200 gives a key under K, a generation and a table of 2^lg buckets. -/
def probeSeq (k g tab lg key : Nat) : List Nat :=
  let h := sip13 (hashKey k (keyRegion key) g) key
  let b := h % 2 ^ lg
  let st := (h >>> 40) ||| 1
  (List.range 4).map (fun i => tab * 2 ^ 32 + (b + i * st) % 2 ^ lg * 4)

/-- The locations under the generation in use. -/
def PodStore.probes (p : PodStore) (key : Nat) : List Nat :=
  let r := p.region (keyRegion key)
  probeSeq r.k r.gen r.tab r.lg key

/-- The locations under the next generation. -/
def PodStore.probesNext (p : PodStore) (key : Nat) : List Nat :=
  let r := p.region (keyRegion key)
  probeSeq r.kNext (r.gen + 1) r.tabNext r.lgNext key

/-- Whether a node entry is live and of key `key`. -/
def NodeEntry.holds (e : NodeEntry) (key : Nat) : Bool := decide (e.key = key ∧ e.kind ≠ .tombstone)

/-- The four entries of the bucket at location `b`. -/
def PodStore.bucket (p : PodStore) (b : Nat) : List (Option NodeEntry) := (List.range 4).map (fun i => mget p.nodes (b + i))

/-- `lookup` of R200 in the table: the entry, and the probe at which the lookup ended. -/
def lookupFrom (p : PodStore) (key : Nat) : Nat → List Nat → Option NodeEntry × Nat
  | n, [] => (none, n)
  | n, b :: bs =>
    let es := p.bucket b
    match es.find? (fun e => (e.map (fun x => x.holds key)).getD false) with
    | some e => (e, n + 1)
    | none => if es.any Option.isNone then (none, n + 1) else lookupFrom p key (n + 1) bs

/-- `lookup` of R200. -/
def PodStore.lookup (p : PodStore) (key : Nat) : Option NodeEntry × Nat :=
  match p.stash.find? (fun e => e.holds key) with
  | some e => (some e, 0)
  | none => lookupFrom p key 0 (p.probes key)

/-- The first place that `insert` of R200 may write: FREE or tombstone. -/
def freePlace (p : PodStore) : List Nat → Option Nat
  | [] => none
  | b :: bs =>
    match (List.range 4).find? (fun i => match mget p.nodes (b + i) with
      | none => true
      | some e => decide (e.kind = .tombstone)) with
    | some i => some (b + i)
    | none => freePlace p bs

/-- Put an entry at its place under the next generation, while its region copies (R206). -/
def PodStore.insertNext (p : PodStore) (e : NodeEntry) : PodStore :=
  let r := p.region (keyRegion e.key)
  if r.phase = .copying ∨ r.phase = .ready then
    match freePlace p (p.probesNext e.key) with
    | some l => { p with nodes := mset p.nodes l { e with gen := r.gen + 1 } }
    | none => p
  else p

/-- Regions in COPYING (R205). -/
def PodStore.copying (p : PodStore) : Nat := (p.regions.filter (fun x => x.2.phase = .copying)).length

/-- A trigger of R204 reaching region `r` (R205). `key`, when given, is the K of a new image with its table. -/
def PodStore.trigger (p : PodStore) (r why : Nat) (key : Option (Nat × Nat × Nat)) : PodStore :=
  let x := p.region r
  let x : Region := match key with
    | some (k, t, lg) =>
      if x.phase = .copying ∨ x.phase = .ready then x else { x with kNext := k, tabNext := t, lgNext := lg }
    | none => if x.phase = .steady then { x with kNext := x.k, tabNext := x.tab, lgNext := x.lg } else x
  let y : Region :=
    match x.phase with
    | .steady => if p.copying < 4 then { x with phase := .copying, trigger := why } else { x with phase := .pending, trigger := why }
    | .draining => match x.held with
      | none => { x with held := some why }
      | some _ => x
    | .pending | .copying | .ready => x
  { p with regions := mset p.regions r y }

/-- Change every entry of a key, under both generations (R206). -/
def PodStore.modNode (p : PodStore) (key : Nat) (f : NodeEntry → NodeEntry) : PodStore :=
  let g := fun e : NodeEntry => if e.holds key then f e else e
  { p with nodes := p.nodes.map (fun x => (x.1, g x.2)), stash := p.stash.map g }

/-- Remove a node: a tombstone in the table, out of the stash; its parent's CHILD_MASK follows, and an interior node
without children goes too (R198, R216). -/
def PodStore.dropNode : Nat → PodStore → Nat → PodStore
  | 0, p, _ => p
  | f + 1, p, key =>
    let p1 : PodStore :=
      { p.modNode key (fun e => { e with kind := .tombstone }) with stash := p.stash.filter (fun e => !e.holds key) }
    if keyLevel key = 0 then p1
    else
      let up := keyAt (keyLevel key - 1) key
      let bit := 2 ^ childIx key
      let p2 := p1.modNode up (fun e => { e with childMask := if e.childMask.testBit (childIx key) then e.childMask - bit else e.childMask })
      match (p2.lookup up).1 with
      | some e => if e.kind = .interior ∧ e.childMask = 0 then PodStore.dropNode f p2 up else p2
      | none => p2

/-- The least free slot of a partition, from slot `i` on; slots of partition q are the pool indexes q modulo the
partitions (log entry 13). -/
def freeSlot (p : PodStore) (cap n q : Nat) : Nat → Nat → Option Nat
  | 0, _ => none
  | f + 1, i =>
    if cap ≤ q + n * i then none
    else if (mget p.pods (q + n * i)).isNone then some (q + n * i) else freeSlot p cap n q f (i + 1)

/-- Every cell key of a pod with its record. -/
def podCells (p : Pod) : List (Nat × Cell) :=
  (p.cells.zipIdx).map (fun x => (11 * 2 ^ 33 + keyMorton p.key + x.2, x.1))

end Sys2Proof
end

