-- ==== Sys2Proof/Machine/StoreOps.lean ====
section
/-! DEFINITION. Lookups, inserts, pods and records of the pod store (R198 to R226, R463). -/

namespace Sys2Proof.Machine

open Sys2Proof

/-- CONFIG of the live image (R420). -/
def State.config (s : State) : ImageConfig :=
  match s.live with
  | some i => i.config
  | none => {}

/-- The owned box of the live image (R26). -/
def State.owned (s : State) : List Int := s.config.owned

/-- Whether the minimum corner of a key's cube lies in the owned box; node cubes do not cross its faces below level 9. -/
def State.ownsKey (s : State) (k : Nat) : Bool :=
  let c := (keyCube k).1
  s.live.isSome && inBox s.owned c.1 c.2.1 c.2.2

/-- A lookup that counts in PROBE_HIST (R228). -/
def State.lookup (s : State) (key : Nat) : State × Option NodeEntry :=
  let r := s.store.lookup key
  (if r.2 = 0 then s else s.bump (Reg.PROBE_HIST (r.2 - 1)), r.1)

/-- `s` with its pod store changed. -/
def State.onStore (s : State) (f : PodStore → PodStore) : State := { s with store := f s.store }

/-- `insert` of R200: the new state, and whether the entry was taken. -/
def State.insertNode (s : State) (e : NodeEntry) : State × Bool :=
  let p := s.store
  let r := p.region (keyRegion e.key)
  match freePlace p (p.probes e.key) with
  | some l => (s.onStore (fun p => ({ p with nodes := mset p.nodes l { e with gen := r.gen } } : PodStore).insertNext e), true)
  | none =>
    if p.stash.length < 256 then
      let s1 := s.onStore (fun p => (({ p with stash := p.stash ++ [e] } : PodStore).insertNext e).trigger (keyRegion e.key) 1 none)
      ((s1.bump Reg.STASH_INSERTS).raise Reg.POD_EVENTS 5, true)
    else
      let s1 := s.raise Reg.POD_EVENTS 4
      ({ s1 with com := { s1.com with insertRefused := true } }, false)

/-- POOL_PODS in use: the live image's, 0 before the first (R228). -/
def State.poolPods (s : State) : Nat := if s.live.isSome then s.config.poolPods else 0

/-- POOL_FREE. -/
def State.poolFree (s : State) : Nat := s.poolPods - s.store.pods.length

/-- The pool slot a new pod takes (R203, R463): its partition, then the next partitions upwards. -/
def State.newSlot (s : State) (key : Nat) (avoid : Option Nat := none) : Option Nat :=
  let p := s.store
  let n := max s.mem.inUse 1
  let r := p.region (keyRegion key)
  let q := sip13 (hashKey r.k (keyRegion key) r.gen) key % n
  let fuel := p.pods.length + 2
  (((List.range n).map (fun i => (q + i) % n)).filter (fun x => some x ≠ avoid)).findSome? (fun x => freeSlot p s.poolPods n x fuel 0)

/-- Create the missing ancestors of a node from level `l` up to the level above it (R198); stops where an insert is
refused. -/
def State.ancestors : Nat → Nat → State → Nat → State × Bool
  | 0, _, s, _ => (s, true)
  | f + 1, l, s, key =>
    if keyLevel key ≤ l then (s, true)
    else
      let a := keyAt l key
      let child := keyAt (l + 1) key
      let bit := fun m : Nat => if m.testBit (childIx child) then m else m + 2 ^ childIx child
      match s.lookup a with
      | (s1, some _) =>
        State.ancestors f (l + 1) (s1.onStore (fun p => p.modNode a (fun e => { e with childMask := bit e.childMask }))) key
      | (s1, none) =>
        match s1.insertNode { key := a, kind := .interior, childMask := 2 ^ childIx child } with
        | (s2, true) => State.ancestors f (l + 1) s2 key
        | (s2, false) => (s2, false)

/-- The merged node, if any, that a key lies below: the finest first (R224). -/
def State.mergedOver (s : State) (key : Nat) : Option NodeEntry :=
  [8, 7, 6].findSome? (fun l => match (s.store.lookup (keyAt l key)).1 with
    | some e => if e.kind = .merged then some e else none
    | none => none)

/-- Merging begins when POOL_FREE falls below POOL_RESERVE (R220). -/
def State.mergeStart (s : State) : State :=
  if s.live.isSome ∧ s.poolFree < s.config.poolReserve ∧ ¬ s.store.merging then
    (s.onStore (fun p => { p with merging := true })).raise Reg.POD_EVENTS 2
  else s

/-- Merging ends when POOL_FREE reaches twice POOL_RESERVE (R220). -/
def State.mergeStop (s : State) : State :=
  if s.store.merging ∧ 2 * s.config.poolReserve ≤ s.poolFree then s.onStore (fun p => { p with merging := false }) else s

/-- Allocate a pod with its entry and ancestors (R198, R203, R209, R224); a refused insert leaves the store as it was,
but for its events (R202). `frame` is the frame of the layer of the write. -/
def State.allocPod (s : State) (key frame : Nat) : State × Option Nat :=
  match s.newSlot key with
  | none => (s, none)
  | some ix =>
    let cells := match s.mergedOver key with
      | some e => List.replicate 64 e.cell
      | none => List.replicate 64 { last := frame % 256 }
    let undo := fun t : State => { t with store := { s.store with regions := t.store.regions } }
    match State.ancestors 10 0 s key with
    | (s1, false) => (undo s1, none)
    | (s1, true) =>
      match s1.insertNode { key := key, kind := .pod, pool := ix } with
      | (s2, false) => (undo s2, none)
      | (s2, true) =>
        (((s2.onStore (fun p => { p with pods := mset p.pods ix { key := key, cells := cells } })).bump Reg.PODS_ALLOCATED).mergeStart, some ix)

/-- Free a pod: its slot, its entry and its ancestors' masks (R216). -/
def State.freePod (s : State) (ix : Nat) : State :=
  match mget s.store.pods ix with
  | none => s
  | some p =>
    let s1 := s.onStore (fun q => PodStore.dropNode 12 { q with pods := merase q.pods ix } p.key)
    ({ s1 with peers := { s1.peers with freed := s1.peers.freed ++ [p.key] } }).mergeStop

/-- The pool index of the pod of a pod key, if the store holds it. -/
def State.podAt (s : State) (key : Nat) : Option Nat :=
  match (s.store.lookup key).1 with
  | some e => if e.kind = .pod then some e.pool else none
  | none => none

/-- The stored record of a cell key or merged node key (R246). -/
def State.record (s : State) (key : Nat) : Option Cell :=
  if keyLevel key = 11 then
    match s.podAt (podKey key) with
    | some ix => (mget s.store.pods ix).map (fun p => lgetD p.cells (cellInPod key) {})
    | none => (s.mergedOver key).map (fun e => e.cell)
  else
    match (s.store.lookup key).1 with
    | some e => if e.kind = .merged then some e.cell else none
    | none => none

/-- Change the stored record of a cell of an existing pod. -/
def State.modCell (s : State) (ix key : Nat) (f : Cell → Cell) : State :=
  s.onStore (fun p => { p with pods := mmod p.pods ix (fun q => { q with cells := lmod q.cells (cellInPod key) f }) })

/-- Every cell and merged node that the store holds, in ascending key order of cells, then merged nodes by key:
ascending key overall (R745). -/
def State.allRecords (s : State) : List (Nat × Cell) :=
  let nodes := s.store.nodes.map (fun x => x.2) ++ s.store.stash
  let merged := (nodes.filter (fun e => e.kind = .merged ∧ e.gen = (s.store.region (keyRegion e.key)).gen)).map (fun e => (e.key, e.cell))
  lsortBy (fun x => x.1) (merged ++ s.store.pods.flatMap (fun x => podCells x.2))

/-- File an entry of a seed or of the marrow GRID without a delta or a commit, allocating its pod (R563, R755); none
where no pod can take it. A merged node's entry is filed as a merged node. -/
def State.fileEntry (s : State) (key frame : Nat) (c : Cell) : Option State :=
  if keyLevel key = 11 then
    match s.podAt (podKey key) with
    | some ix => some (s.modCell ix key (fun _ => c))
    | none =>
      if s.poolFree = 0 then none
      else match s.allocPod (podKey key) frame with
        | (s1, some ix) => some (s1.modCell ix key (fun _ => c))
        | (_, none) => none
  else
    match (s.store.lookup key).1 with
    | some e =>
      if e.kind = .merged then some (s.onStore (fun p => p.modNode key (fun e => { e with cell := c })))
      else none
    | none =>
      match State.ancestors 10 0 s key with
      | (s1, true) =>
        match s1.insertNode { key := key, kind := .merged, cell := c } with
        | (s2, true) => some s2
        | (_, false) => none
      | (_, false) => none

end Sys2Proof.Machine
end

