-- ==== Sys2Proof/Machine/CommitOps.lean ====
section
/-! DEFINITION. Layers, deltas, key sets, records and destinations of the commit stream (R231 to R266). -/

namespace Sys2Proof.Machine

open Sys2Proof

/-- `s` with its commit state changed. -/
def State.onCom (s : State) (f : Commit → Commit) : State := { s with com := f s.com }

/-! ### Layers and deltas -/

/-- The place, in the list of layers, of the layer that takes deltas of a frame and epoch (R238). -/
def State.layerOf (s : State) (frame epoch : Nat) : Option Nat :=
  s.com.layers.findIdx? (fun l => decide (l.frame = frame ∧ l.epoch = epoch))

/-- How R238 judges a delta of a frame and epoch: the layer it goes to, or the counter and event bit of its discard. -/
def State.judgeDelta (s : State) (frame epoch : Nat) : Sum Nat (Nat × Nat) :=
  match s.layerOf frame epoch with
  | some i => .inl i
  | none =>
    if s.com.layers.isEmpty then .inr (Reg.LATE_DISCARDS, 2)
    else if epoch ≠ s.tl.epoch.toNat then .inr (Reg.SEALED_DISCARDS, 3)
    else if (match s.com.layers with | l :: _ => decide (l.frame < frame) | [] => false) then .inr (Reg.EARLY_DROPS, 7)
    else .inr (Reg.LATE_DISCARDS, 2)

/-- Count a discard of R238. -/
def State.discardDelta (s : State) (d : Nat × Nat) : State := (s.bump d.1).raise Reg.COMMIT_EVENTS d.2

/-- Whether layer `i` can log `n` more deltas (R236). -/
def State.layerRoom (s : State) (i n : Nat) : Bool :=
  match s.com.layers[i]? with
  | some l => decide (l.log.length + n ≤ s.config.layerCap)
  | none => false

/-- A delta refused by a full layer (R236). -/
def State.refuseFull (s : State) (i : Nat) : State :=
  let s1 := (s.bump Reg.LAYER_FULL_REFUSALS).raise Reg.COMMIT_EVENTS 4
  s1.onCom (fun c => { c with layerFull := true, layers := lmod c.layers i (fun l => { l with overflowed := true }) })

/-- Log a delta in layer `i` and note its key as touched (R235, R245, R558). -/
def State.logDelta (s : State) (i kind source key : Nat) : State :=
  s.onCom (fun c => { c with layers := lmod c.layers i (fun l =>
    { l with log := l.log ++ [⟨kind, source, key⟩], touched := kinsert key l.touched, keys := kinsert key l.keys }) })

/-- The 8 bytes of a delta log entry (R235). -/
def logEntryBytes (e : DeltaLogEntry) : List Byte := leBytes 8 (e.key + e.source * 2 ^ 48 + e.kind * 2 ^ 60)

/-! ### Destinations -/

/-- The neighbour's box behind port `p` in the part's own frame (R534). -/
def State.nbBox (s : State) (p : Nat) : List Int := (s.peer p).nb.box

/-- Whether a node's cube touches the face of the owned box behind port `p` that it shares with the neighbour's box
(R29, R31). -/
def State.onFace (s : State) (p key : Nat) : Bool :=
  let ((x, y, z), n) := keyCube (if keyLevel key = 11 then podKey key else key)
  let o := s.owned
  let b := s.nbBox p
  let lo := [x, y, z]
  let ax := p / 2
  let touches := if p % 2 = 0 then decide (lgetD lo ax 0 + n = lgetD o (ax + 3) 0) else decide (lgetD lo ax 0 = lgetD o ax 0)
  touches && ([0, 1, 2].filter (fun a => a ≠ ax)).all
    (fun a => decide (lgetD lo a 0 < lgetD b (a + 3) 0 ∧ lgetD b a 0 < lgetD lo a 0 + n))

/-- Whether the host copy takes an entry of `key` (R248). -/
def State.hostTakes (s : State) (key : Nat) : Bool :=
  if s.rbit Reg.HOST_COPY_CTRL 1 then false
  else if s.rbit Reg.HOST_COPY_CTRL 0 then
    let r := keyRegion key
    wbit (s.rget (Reg.HOST_REGION_MASK (r / 32))) (r % 32)
  else true

/-- Whether destination `d` takes an entry of `key` (R248). -/
def State.destTakes (s : State) (d key : Nat) : Bool := if d = 6 then s.hostTakes key else s.onFace d key

/-- Cut keys into parts of 2048 (R247); `fuel` bounds their number. -/
def splitKeys : Nat → List Nat → List (List Nat)
  | 0, l => [l]
  | f + 1, l => if l.length ≤ 2048 then [l] else l.take 2048 :: splitKeys f (l.drop 2048)

/-- The parts of a commit: `r` with each part of `keys`, numbered from `first`, the last marked LAST_PART (R247). -/
def partsOf (r : CommitRecord) (first : Nat) (keys : List Nat) : List CommitRecord :=
  let ps := splitKeys (keys.length / 2048) keys
  ps.zipIdx.map (fun x => { r with part := first + x.2, keys := x.1, lastPart := decide (x.2 + 1 = ps.length) })

/-- Add keys folded earlier to the first LIVE record queued since (R256). -/
def takeAwaited (d : Destination) (rs : List CommitRecord) : Destination × List CommitRecord :=
  match d.await, rs with
  | [], _ => (d, rs)
  | ks, r :: _ =>
    if r.kind = .live ∧ ¬ r.missed then
      let all := (rs.flatMap (fun x => x.keys)).foldl (fun a k => kinsert k a) ks
      ({ d with await := [], awaitBeats := 0 },
        partsOf { r with folded := true, foldedBeats := min 65535 d.awaitBeats } r.part all)
    else (d, rs)
  | _, [] => (d, rs)

/-- Append records to the queue of destination `n`, where it is on. -/
def State.queueTo (s : State) (n : Nat) (rs : List CommitRecord) : State :=
  s.onDest n (fun d => if d.on then
    let (d1, rs1) := takeAwaited d rs
    { d1 with queue := d1.queue ++ rs1 } else d)

/-- Append a record to every destination. -/
def State.queueAll (s : State) (r : CommitRecord) : State :=
  (List.range 7).foldl (fun t n => t.queueTo n [r]) s

/-- A destination begins (R248). -/
def State.destOn (s : State) (n : Nat) : State :=
  if s.com.closed then s else s.onDest n (fun d => { d with on := true })

/-- A destination stops, and records queued for it are discarded (R537, R654). -/
def State.destOff (s : State) (n : Nat) : State :=
  s.onDest n (fun d => { d with on := false, starting := false, queue := [], await := [], awaitBeats := 0 })

/-- COMMIT_LATENCY in force (R254). -/
def State.latency (s : State) : Nat := s.config.latency

/-- DEGRADED_CAUSE of the current beat (R251, R261). -/
def State.degradedCause (s : State) : Nat :=
  let shedding := match s.live with
    | some i => decide (0 < s.place.shed) &&
        i.units.any (fun u => decide (0 < lgetD u.shifts (s.place.shed - 1) 0)) || !s.place.suspended.isEmpty
    | none => false
  b2n ((s.live.isSome && decide (s.poolFree = 0)) || s.com.podRefused) + 2 * b2n shedding + 4 * b2n s.com.layerFull +
    8 * b2n s.com.insertRefused + 16 * b2n s.com.solverMiss

/-- SHED_ACTIVE (R423, R473). -/
def State.shedActive (s : State) : Bool := (s.degradedCause / 2) % 2 = 1

/-- Key sets of the beat that ends (R245): for each layer, youngest first, its keys not in a younger one. -/
def keySets : List Layer → List Nat → List (List Nat)
  | [], _ => []
  | l :: ls, seen =>
    let mine := l.touched.filter (fun k => !seen.contains k)
    mine :: keySets ls (mine.foldl (fun a k => kinsert k a) seen)

/-- Form the commits of the beat that ends and queue them at each destination (R245 to R249, R256), then clear what the
publisher noted of that beat. `ord` numbers the beat that ends; `beat` and `epoch` name it. -/
def State.formCommits (s : State) (ord beat epoch : Nat) : State :=
  if s.com.closed ∨ s.com.layers.isEmpty ∨ s.live.isNone then s
  else
    let cause := s.degradedCause
    let sets := keySets s.com.layers []
    let total := (sets.map List.length).foldl (· + ·) 0
    let base : CommitRecord := { kind := .live, beat := beat, epoch := epoch, ord := ord, dead := some (ord + s.latency), degraded := cause }
    let openLayer := match s.com.layers with | l :: _ => l.frame | [] => 0
    let live := { base with layerFrame := openLayer }
    let revs := ((s.com.layers.zip sets).drop 1).filter (fun x => !x.2.isEmpty)
    let revRec := fun (l : Layer) =>
      ({ base with kind := .revision, layerFrame := l.frame, layer := openLayer - l.frame } : CommitRecord)
    let s1 := (List.range 7).foldl (fun t n =>
      let mine := fun ks : List Nat => ks.filter (fun k => t.destTakes n k)
      let liveRs := partsOf live 0 (mine (match sets with | k :: _ => k | [] => []))
      let revRs := revs.flatMap (fun x =>
        let ks := mine x.2
        if ks.isEmpty then [] else partsOf (revRec x.1) 0 ks)
      t.queueTo n (liveRs ++ revRs)) s
    let s2 := s1.rmax Reg.MAX_ENTRIES (min total 65535)
    let s3 := if cause = 0 then s2 else
      let t := s2.bump Reg.DEGRADED_BEATS
      if s.com.wasDegraded then t else t.raise Reg.COMMIT_EVENTS 5
    s3.onCom (fun c => { c with
      wasDegraded := decide (cause ≠ 0), solverMiss := false, insertRefused := false, layerFull := false, podRefused := false
      layers := (c.layers.zip sets).zipIdx.map (fun x =>
        { x.1.1 with touched := [], revisions := if x.2 = 0 ∨ x.1.2.isEmpty then x.1.1.revisions else min (x.1.1.revisions + 1) 0xFFFFFFFF }) })

/-- Queue the boundary records kept for this slot (R263). -/
def State.queueSlot (s : State) : State :=
  (s.com.slot.foldl (fun t r => t.queueAll { r with beat := t.tl.beat, epoch := t.tl.epoch.toNat }) s).onCom (fun c => { c with slot := [] })

/-- A NOTICE for the next boundary record slot (R263). -/
def State.notice (s : State) (cleared : Bool) (frame : Nat) (box : Nat × Nat × Nat × Nat) : State :=
  if s.com.closed then s
  else s.onCom (fun c => { c with slot := c.slot ++
    [{ kind := .notice, beat := 0, epoch := 0, layerFrame := frame, aux1 := b2n cleared, box := some box }] })

/-- CLOSE (R264): one record at every destination, then nothing more. A stream that has not begun gets none (R414). -/
def State.close (s : State) (reason : Nat) : State :=
  if s.com.closed ∨ s.com.layers.isEmpty ∨ s.live.isNone then s
  else
    let s1 := s.queueAll { kind := .close, beat := s.tl.beat, epoch := s.tl.epoch.toNat, aux1 := reason }
    (s1.onCom (fun c => { c with closed := true })).raise Reg.COMMIT_EVENTS 9

/-- Mirror entries of a set of keys, records as stored now (R558, R559). -/
def State.mirrorEntries (s : State) (keys : List Nat) : List MirrorEntry :=
  keys.filterMap (fun k => (s.record k).map (fun c => if keyLevel k = 11 then MirrorEntry.cell k c else MirrorEntry.node k c))

/-- Cut mirror entries into flits of up to 15 (R559). -/
def mirrorFlits (mk : List MirrorEntry → FlitBody) : Nat → List MirrorEntry → List FlitBody
  | 0, _ => []
  | f + 1, es => if es.isEmpty then [] else mk (es.take 15) :: mirrorFlits mk f (es.drop 15)

/-- Queue flits on a virtual channel of a peer port (R528). -/
def State.queueFlits (s : State) (p vc : Nat) (fs : List FlitBody) : State :=
  s.onPeer p (fun q => { q with waiting := lmod q.waiting vc (fun l => l ++ fs) })

/-- Send a mirror set in VC3 to every neighbour that requests one (R557, R558). -/
def State.sendMirrorSet (s : State) (frame epoch : Nat) (keys : List Nat) : State :=
  if s.hold then s
  else
    let es := s.mirrorEntries keys ++ (s.peers.freed.map MirrorEntry.free) ++ [MirrorEntry.fin epoch (frame % 2 ^ 48)]
    let fs := mirrorFlits .mirror (es.length + 1) es
    let s1 := (List.range 6).foldl (fun t p =>
      if (t.peer p).state = .up ∧ (t.peer p).nb.mirrorReq then (t.queueFlits p 3 fs).bump Reg.MIRROR_SETS_SENT else t) s
    { s1 with peers := { s1.peers with
      freed := [], sets := s1.peers.sets ++ (if s.peers.ports.any (fun p => decide (p.state = .up) && p.nb.mirrorReq) then [{ frame := frame % 2 ^ 48, epoch := epoch, due := s1.tl.frames }] else []) } }

/-- Give up the re-de-skew candidates of a layer that settles or is sealed (R189, R190). -/
def State.dropCandidates (s : State) (l : Layer) : State :=
  let gone := s.store.candidates.filter (fun c => decide (c.frame = l.frame ∧ c.epoch = l.epoch))
  if gone.isEmpty then s
  else
    let s1 := (s.bump Reg.REDESKEW_ABANDONED gone.length).raise Reg.POD_EVENTS 7
    s1.onStore (fun p => { p with candidates := p.candidates.filter (fun c => !decide (c.frame = l.frame ∧ c.epoch = l.epoch)) })

/-- Queue the seal of a layer and send its mirror set (R252, R265, R558). `age` is its age at the boundary. -/
def State.sealLayer (s : State) (l : Layer) (age : Nat) (byStep : Bool) : State :=
  let s1 := s.dropCandidates l
  let r : CommitRecord :=
    { kind := .seal, beat := s.tl.beat, epoch := s.tl.epoch.toNat, layer := age, layerFrame := l.frame,
      degraded := if l.overflowed then 4 else 0, stepSealed := byStep,
      aux1 := l.revisions + l.log.length * 2 ^ 32, aux2 := shakeNat 64 (l.log.flatMap logEntryBytes) }
  let s2 := if s.com.closed ∨ s.live.isNone then s1 else (s1.queueAll r).bump Reg.SEALS
  s2.sendMirrorSet l.frame l.epoch l.keys

/-- Layers close, age and settle at a frame boundary into `frame` (R233, R234): the oldest first. -/
def State.settleLayers (s : State) (frame epoch : Nat) : State :=
  let d := s.config.depth
  let aged := s.com.layers.map (fun l => { l with phase := .provisional })
  let out := (aged.filter (fun l => decide (d ≤ frame - l.frame))).reverse
  let s1 := s.onCom (fun c => { c with layers := { frame := frame, epoch := epoch } :: aged.filter (fun l => !decide (d ≤ frame - l.frame)) })
  out.foldl (fun t l => t.sealLayer l (frame - l.frame) false) s1

/-! ### The unverified box -/

/-- The declared columns of the open declarations (R599, R600). -/
def State.declaredCols (s : State) : List (Nat × Nat) :=
  (s.safety.decls.flatMap (fun d => match d with | some x => x.cols | none => [])) ++
    (match s.safety.overflow with | some x => x.2 | none => [])

/-- The bounding box X_MIN, X_MAX, Y_MIN, Y_MAX of columns. -/
def boxOf : List (Nat × Nat) → Option (Nat × Nat × Nat × Nat)
  | [] => none
  | (x, y) :: l =>
    match boxOf l with
    | none => some (x, x, y, y)
    | some (a, b, c, d) => some (min a x, max b x, min c y, max d y)

/-- The unverified box (R262): the full box while the state is UNVERIFIED. -/
def State.unvBox (s : State) : Option (Nat × Nat × Nat × Nat) :=
  if s.safety.state = .unverified then some (0, 511, 0, 511) else boxOf s.declaredCols

/-- Whether an entry's cube spans a column inside a box (R262). -/
def keyInBox (b : Nat × Nat × Nat × Nat) (key : Nat) : Bool :=
  let ((x, y, _), n) := keyCube key
  let x0 := (ishr (x + 131072) 9).toNat
  let x1 := (ishr (x + n - 1 + 131072) 9).toNat
  let y0 := (ishr (y + 131072) 9).toNat
  let y1 := (ishr (y + n - 1 + 131072) 9).toNat
  decide (x0 ≤ b.2.1 ∧ b.1 ≤ x1 ∧ y0 ≤ b.2.2.2 ∧ b.2.2.1 ≤ y1)

/-! ### Transmission -/

end Sys2Proof.Machine

namespace Sys2Proof

/-- The code of a record kind (R251). -/
def RecordKind.code : RecordKind → Nat
  | .live => 0
  | .revision => 1
  | .seal => 2
  | .discontinuity => 3
  | .notice => 4
  | .close => 5

end Sys2Proof

namespace Sys2Proof.Machine

/-- A commit entry's 128 bits (R253). -/
def entryBits (e : CommitEntry) : Nat := e.key + cellBits e.cell * 2 ^ 48 + e.seq % 65536 * 2 ^ 112

end Sys2Proof.Machine

namespace Sys2Proof

/-- The box a record carries: its unverified box, or the columns a NOTICE names (R251, R263). -/
def SentRecord.box (r : SentRecord) : Nat × Nat × Nat × Nat :=
  match r.body.box with
  | some b => b
  | none => match r.unverified with
    | some b => b
    | none => (0, 0, 0, 0)

/-- FLAGS of a record (R251). -/
def SentRecord.flags (r : SentRecord) : Nat :=
  let b := r.body
  b2n b.missed + 2 * b2n r.unverified.isSome + 4 * b2n (b.kind = .discontinuity) + 8 * b2n (b.kind = .revision) +
    16 * b2n (b.degraded ≠ 0) + 32 * b2n b.folded +
    64 * b2n (b.lastPart && decide (b.kind = .live ∨ b.kind = .revision)) + 128 * b2n b.stepSealed

/-- The 64-byte header of a record (R251, R252). -/
def SentRecord.header (r : SentRecord) : Nat :=
  let b := r.body
  let (x0, x1, y0, y1) := r.box
  b.beat % 2 ^ 64 + b.epoch % 2 ^ 16 * 2 ^ 64 + r.flags * 2 ^ 80 + r.entries.length * 2 ^ 96 + RecordKind.code b.kind * 2 ^ 112 +
    b.part % 256 * 2 ^ 120 + b.layerFrame % 2 ^ 64 * 2 ^ 128 + b.layer % 256 * 2 ^ 192 + b.degraded % 256 * 2 ^ 200 +
    b.foldedBeats % 65536 * 2 ^ 208 + r.source % 2 ^ 14 * 2 ^ 224 + x0 % 512 * 2 ^ 256 + x1 % 512 * 2 ^ 265 +
    y0 % 512 * 2 ^ 274 + y1 % 512 * 2 ^ 283 + r.seq % 2 ^ 64 * 2 ^ 320 + b.aux1 % 2 ^ 64 * 2 ^ 384 + b.aux2 % 2 ^ 64 * 2 ^ 448

/-- The bytes of a record (R251, R253). -/
def SentRecord.bytes (r : SentRecord) : List Byte :=
  leBytes 64 r.header ++ r.entries.flatMap (fun e => leBytes 16 (Machine.entryBits e))

end Sys2Proof

namespace Sys2Proof.Machine

/-- The size of a record in bytes. -/
def recordSize (r : CommitRecord) : Nat := 64 + 16 * r.keys.length

/-- Bytes of the commit ring (R652). -/
def State.ringSize (s : State) : Nat := 2 ^ (s.rget Reg.RING_SIZE).toNat

/-- Whether the commit ring has room for `n` bytes (R653). -/
def State.ringRoom (s : State) (n : Nat) : Bool :=
  decide (n + (s.rpair Reg.RING_WRITE_LO Reg.RING_WRITE_HI - s.rpair Reg.RING_READ_LO Reg.RING_READ_HI) ≤ s.ringSize)

/-- Form the record to be sent from a queued one (R246, R251, R262): entries read now, the box where an entry lies in it. -/
def State.formRecord (s : State) (n : Nat) (r : CommitRecord) : SentRecord :=
  let entries := r.keys.map (fun k => ({ key := k, cell := (s.record k).getD {}, seq := s.tl.beat % 65536 } : CommitEntry))
  let unv := match s.unvBox with
    | some b => if r.keys.any (fun k => keyInBox b k) then some b else none
    | none => none
  { body := r, seq := (s.dest n).seq, unverified := unv,
    source := match s.peers.coord with | some c => c.toNat | none => 0, entries := entries }

/-- Keys of a record that the publisher has not read in this beat (R260). -/
def State.newKeys (s : State) (r : CommitRecord) : List Nat := r.keys.filter (fun k => !s.com.readKeys.contains k)

/-- The first record of destination `n` is read and leaves its queue (R255, R256, R260). -/
def State.takeRecord (s : State) (n : Nat) (r : CommitRecord) (rest : List CommitRecord) : State × SentRecord :=
  let sr := s.formRecord n r
  let s1 := s.onCom (fun c => { c with
    entriesRead := c.entriesRead + (s.newKeys r).length
    readKeys := (s.newKeys r).foldl (fun a k => kinsert k a) c.readKeys
    unvBeat := c.unvBeat || sr.unverified.isSome })
  let s2 := s1.onDest n (fun d => { d with queue := rest, seq := d.seq + 1 })
  let s3 := match r.dead with
    | some d => if d - s.tl.beats < s2.rbits Reg.MIN_MARGIN 6 0 then s2.rset Reg.MIN_MARGIN (nw (d - s.tl.beats)) else s2
    | none => s2
  let s4 := if n = 6 ∧ r.kind = .live then s3.bump64 Reg.LIVE_RECORDS_LO Reg.LIVE_RECORDS_HI
    else if n = 6 ∧ r.kind = .revision then s3.bump64 Reg.REVISION_RECORDS_LO Reg.REVISION_RECORDS_HI else s3
  let s5 := if sr.unverified.isSome ∧ ¬ s.com.unvBeat then s4.bump Reg.UNVERIFIED_BEATS else s4
  (if r.degraded ≠ 0 then { s5 with safety := { s5.safety with lastDegraded := some s5.tl.frames } } else s5, sr)

/-! ### Missed deadlines (R256) -/

/-- Fold keys into the first LIVE record of a queue and the later parts of its commit (R256); none where the queue holds
no LIVE record with entries still to begin. -/
def foldInto (ks : List Nat) (beats : Nat) : List CommitRecord → Option (List CommitRecord)
  | [] => none
  | r :: rest =>
    if r.kind = .live ∧ ¬ r.missed then
      let sameCommit := fun x : CommitRecord => decide (x.kind = .live ∧ x.ord = r.ord ∧ ¬ x.missed)
      let parts := r :: rest.takeWhile sameCommit
      let others := rest.dropWhile sameCommit
      let all := (parts.flatMap (fun x => x.keys)).foldl (fun a k => kinsert k a) ks
      some (partsOf { r with folded := true, foldedBeats := min 65535 (r.foldedBeats + beats) } r.part all ++ others)
    else (foldInto ks beats rest).map (fun l => r :: l)

/-- The entry records of beats whose deadline has come. -/
def dueAt (ord : Nat) (r : CommitRecord) : Bool :=
  match r.dead with | some d => decide (d ≤ ord) | none => false

/-- The end of a beat at destination `n`: beats whose deadline has come and whose records have not all left (R256, R259). -/
def State.missAt (s : State) (n : Nat) : State :=
  let d := s.dest n
  let due := d.queue.filter (dueAt s.tl.beats)
  let held := match d.ready with
    | some x => if dueAt s.tl.beats x.body then [x.body] else []
    | none => []
  match due ++ held with
  | [] => s
  | _ =>
    let beats := ((held ++ due).map (fun r => (r.ord, r.beat, r.epoch))).eraseDups
    let d : Destination := { d with ready := d.ready.map (fun (x : SentRecord) => if dueAt s.tl.beats x.body then { x with body := { x.body with dead := none } } else x) }
    let ks := (due.flatMap (fun r => r.keys)).foldl (fun a k => kinsert k a) []
    let foldedBefore := (due.map (fun r => r.foldedBeats)).foldl max 0
    let rest := d.queue.filter (fun r => !dueAt s.tl.beats r)
    let heads : List CommitRecord := beats.map (fun x =>
      { kind := .live, beat := x.2.1, epoch := x.2.2, ord := x.1, missed := true, lastPart := true })
    let nb := beats.length + foldedBefore
    let d1 : Destination :=
      if ks.isEmpty then { d with queue := heads ++ rest }
      else match foldInto ks nb rest with
        | some l => { d with queue := heads ++ l }
        | none => { d with queue := heads ++ rest, await := ks.foldl (fun a k => kinsert k a) d.await,
                           awaitBeats := d.awaitBeats + nb }
    let s1 := (s.onDest n (fun _ => d1)).bump Reg.FOLDED_ENTRIES ks.length
    let s2 := if n = 6 then s1.bump Reg.MISSED_HOST beats.length else s1.bump (Reg.MISSED_PEER n) beats.length
    beats.foldl (fun t _ => (t.raise Reg.COMMIT_EVENTS (if n = 6 then 0 else 1)).error (if n = 6 then 0 else 1) (if n = 6 then 0 else n)) s2

end Sys2Proof.Machine
end

