-- ==== Sys2Proof/Machine/AdmitOps.lean ====
section
/-! DEFINITION. The arithmetic of admission: claims, packing, spill, memory and deadlines (R429 to R431, R514 to R516,
R791), as pure functions. -/

namespace Sys2Proof

/-- Engine cycles of budget in a frame (R429). -/
def cycleCap : Nat := 1612800

/-- STORE_CAP (R429). -/
def storeCap : Nat := 4063232

/-- The shift of a unit at a shed level (R422, R423). -/
def WorkUnit.shiftAt (u : WorkUnit) (lvl : Nat) : Nat := if lvl = 0 then 0 else lgetD u.shifts (lvl - 1) 0

/-- A unit's cycle claim per frame at a shed level (R429). -/
def WorkUnit.claim (u : WorkUnit) (lvl : Nat) : Nat := cdiv (u.bound * u.passes) (max u.cadence 1 * 2 ^ u.shiftAt lvl)

/-- Cycles a frame that streaming `b` spilled bytes adds (R429). -/
def WorkUnit.spillClaim (u : WorkUnit) (b : Nat) : Nat := cdiv (u.passes * cdiv b 64) (max u.cadence 1)

/-- An engine of the packing: its number, the cycles and store claimed, the store it can give, and its units. -/
structure PackBin where
  eng : Nat
  cyc : Nat := 0
  store : Nat := 0
  cap : Nat := 4063232
  units : List WorkUnit := []
  deriving DecidableEq, Repr

/-- Put a unit on the bin of engine `e`. -/
def packOn (bins : List PackBin) (e : Nat) (u : WorkUnit) (c : Nat) : List PackBin :=
  bins.map (fun b => if b.eng = e then { b with cyc := b.cyc + c, store := b.store + u.store, units := b.units ++ [u] } else b)

/-- The engine that `pack` of R791 gives a unit. -/
def packChoice (bins : List PackBin) (u : WorkUnit) (c : Nat) : Option PackBin :=
  match lminBy (fun b => b.cyc) (bins.filter (fun b => decide (b.cyc + c ≤ cycleCap ∧ b.store + u.store ≤ b.cap))) with
  | some b => some b
  | none =>
    match lminBy (fun b => b.cyc) (bins.filter (fun b => decide (b.cyc + c ≤ cycleCap))) with
    | some b => some b
    | none => lminBy (fun b => b.cyc) bins

/-- `pack` in steady form (R791): units in order of cycle claim, largest first. -/
def packSteady (lvl : Nat) (units : List WorkUnit) (bins : List PackBin) : List PackBin :=
  (lsortBy (fun u => 2 ^ 64 - u.claim lvl) units).foldl (fun bs u =>
    match packChoice bs u (u.claim lvl) with
    | some b => packOn bs b.eng u (u.claim lvl)
    | none => bs) bins

/-- `pack` in switch form (R431): units in order of store claim, largest first, onto the engine with most free store. -/
def packSwitch (lvl : Nat) (units : List WorkUnit) (bins : List PackBin) : List PackBin :=
  let order := lsortBy (fun u => 2 ^ 64 - u.store) (lsortBy (fun u => 2 ^ 64 - u.claim lvl) (lsortBy (fun u => u.num) units))
  order.foldl (fun bs u =>
    match lminBy (fun b => 2 ^ 64 + b.store - b.cap) bs with
    | some b => packOn bs b.eng u (u.claim lvl)
    | none => bs) bins

/-- The spill step on one bin (R429): units by SPILL_BYTES, largest first, while the store is over its cap. -/
def spillUnits : List WorkUnit → Nat → Nat → List (Nat × Nat) × Nat
  | [], store, _ => ([], store)
  | u :: us, store, cap =>
    if store ≤ cap ∨ u.spill = 0 then
      let r := spillUnits us store cap
      (r.1, r.2)
    else
      let x := min u.spill (store - cap)
      let r := spillUnits us (store - x) cap
      ((u.num, x) :: r.1, r.2)

/-- A bin after its spill, with the bytes spilled by unit. -/
def spillBin (b : PackBin) : PackBin × List (Nat × Nat) :=
  let r := spillUnits (lsortBy (fun u => 2 ^ 64 - u.spill) b.units) b.store b.cap
  let more := r.1.map (fun x => match b.units.find? (fun u => decide (u.num = x.1)) with
    | some u => u.spillClaim x.2
    | none => 0)
  ({ b with store := r.2, cyc := b.cyc + more.foldl (· + ·) 0 }, r.1)

/-- Outcome of one form of the packing: the bins, the bytes spilled by unit, and the reason and excess of a refusal. -/
structure PackResult where
  bins : List PackBin
  spilled : List (Nat × Nat)
  fail : Option (Nat × Nat)
  deriving DecidableEq, Repr

/-- Spill and check the bins (R429): reason 15 with bytes over, reason 14 with cycles over. -/
def packCheck (bins : List PackBin) : PackResult :=
  let rs := bins.map spillBin
  let bs := rs.map (fun x => x.1)
  let sp := rs.flatMap (fun x => x.2)
  let fail := match bs.find? (fun b => decide (b.cap < b.store)) with
    | some b => some (15, b.store - b.cap)
    | none => match bs.find? (fun b => decide (cycleCap < b.cyc)) with
      | some b => some (14, b.cyc - cycleCap)
      | none => none
  { bins := bs, spilled := sp, fail := fail }

/-- Whether units fit a number of engines at a shed level, cycles and store (R473, R474). -/
def unitsFit (lvl n : Nat) (units : List WorkUnit) : Bool :=
  decide ((packCheck (packSteady lvl units ((List.range n).map (fun i => { eng := i })))).fail = none)

/-- Bytes of a node table that lies in DRAM (R196). -/
def tableDram (lg : Nat) : Nat := if 17 < lg then 64 * 2 ^ lg else 0

/-- The DRAM claim in bytes (R429): pods of 1536 B, tables, layers, the resident copy and data sets of SPACE 2. -/
def dramClaim (img : Image) (live : Option Image) : Nat :=
  let c := img.config
  let second := match live with
    | some l => if l.config.bucketsLog2 ≠ c.bucketsLog2 ∨ l.config.poolPods ≠ c.poolPods then tableDram l.config.bucketsLog2 else 0
    | none => 0
  c.poolPods * 1536 + tableDram c.bucketsLog2 + second + c.depth * (c.layerCap * 8 + 2 * 2 ^ 20) + img.size +
    ((img.body.dataSets.filter (fun d => d.space = 2)).map (fun d => d.size)).foldl (· + ·) 0

/-- The commons claim in bytes: data sets of SPACE 1. -/
def commonsClaim (img : Image) : Nat := ((img.body.dataSets.filter (fun d => d.space = 1)).map (fun d => d.size)).foldl (· + ·) 0

/-- BASE_TRAFFIC in bytes per frame (R516). -/
def baseTraffic (img : Image) : Nat :=
  let cm := (img.body.sensors.map (fun x => x.2.clearCells)).foldl max 0
  262144 * (528 + 264 * cm) + 32 * img.config.poolPods + 142606336

/-- The image's DRAM traffic per frame: each unit's bytes per invocation over its cadence, rounded up. -/
def imageTraffic (img : Image) : Nat := (img.units.map (fun u => cdiv u.traffic (max u.cadence 1))).foldl (· + ·) 0

/-- Payload of 16 channels over a frame (R429). -/
def dramPayload : Nat := 1887436800

/-- What one form of R429 gives: refusal as (reason, shortfall in the unit of ADMIT_SHORTFALL), the margins and figures. -/
structure AdmitForm where
  fail : Option (Nat × Nat) := none
  spilled : List (Nat × Nat) := []
  bins : List PackBin := []
  traffic : Nat := 0
  commit : Nat := 0
  fast : Nat := 0
  slow : Nat := 0
  deriving DecidableEq, Repr

/-- The first refusal of a list of checks. -/
def firstFail : List (Option (Nat × Nat)) → Option (Nat × Nat)
  | [] => none
  | some x :: _ => some x
  | none :: l => firstFail l

/-- One form of the admission check (R429) on packed bins. `commonsAvail` and `dramAvail` are in KiB. -/
def admitForm (img : Image) (live : Option Image) (lvl commonsAvail dramAvail : Nat) (bins : List PackBin) : AdmitForm :=
  let p := packCheck bins
  let t := imageTraffic img + baseTraffic img
  let d := dramPayload
  let beyond := 36 * d < 50 * t
  let commit := if beyond then 0 else 2 + cdiv (327680 * 4 * d) ((4 * d - 5 * t) * 1843200)
  let sh := img.body.solver
  let fast := cdiv sh.fastCycles 1800
  let slowClaim := ((img.units.filter (fun u => u.kind = 2)).map (fun u => u.claim lvl)).foldl (· + ·) 0
  let slow := cdiv sh.slowCycles (max slowClaim 1)
  let kib := fun b : Nat => cdiv b 1024
  let com := kib (commonsClaim img)
  let dram := kib (dramClaim img live)
  { fail := firstFail [
      p.fail.map (fun x => (x.1, if x.1 = 15 then kib x.2 else x.2)),
      if commonsAvail < com then some (15, com - commonsAvail) else none,
      if dramAvail < dram then some (16, dram - dramAvail) else none,
      if beyond then some (16, kib (cdiv (50 * t - 36 * d) 50)) else none,
      if img.config.latency < commit then some (17, commit - img.config.latency) else none,
      if sh.fastDeadline < fast then some (18, fast - sh.fastDeadline) else none,
      if sh.slowDeadline < slow then some (18, slow - sh.slowDeadline) else none]
    spilled := p.spilled, bins := p.bins, traffic := t, commit := commit, fast := fast, slow := slow }

end Sys2Proof
end

