-- ==== Sys2Proof/Machine/EngineOps.lean ====
section
/-! DEFINITION. Engine states, contexts, events, replacements, and the shallot slot's hold on engines (R312 to R318,
R433, R434, R446, R470 to R472). -/

namespace Sys2Proof

/-- The code of an engine state (R322). -/
def EngState.code : EngState → Nat
  | .off => 0
  | .selfTest => 1
  | .spare => 2
  | .live => 3
  | .radish => 4
  | .retired => 5

/-- The code of a shadow kind (R484); rehearsal 4, arming 5, re-run 6, recheck 7. -/
def ShadowKind.code : ShadowKind → Nat
  | .none => 0
  | .migration => 1
  | .swap => 2
  | .fault => 3
  | .rehearsal => 4
  | .arming => 5
  | .rerun => 6
  | .recheck => 7

/-- Hops between two mesh nodes: row and column distance (R45, R46). -/
def hops (a b : Nat) : Nat :=
  let x := Config.routerOf a % 45
  let y := Config.routerOf b % 45
  (max (x / 9) (y / 9) - min (x / 9) (y / 9)) + (max (x % 9) (y % 9) - min (x % 9) (y % 9))

/-- The units of a context. -/
def ctxUnits (c : Option EngCtx) : List Nat := match c with | some x => x.units | none => []

/-- Whether a pass of live or shadow work runs on an engine (R316). -/
def Engine.passOn (g : Engine) : Bool :=
  (match g.live with | some c => c.passRunning && !c.withheld | none => false) ||
  (match g.shadow with | some c => c.passRunning && !c.withheld | none => false)

/-- The units of the pass an engine runs: of the live context where its pass runs, else of the shadow. -/
def Engine.passUnits (g : Engine) : List Nat :=
  match g.live with
  | some c => if c.passRunning then c.units else ctxUnits g.shadow
  | none => ctxUnits g.shadow

end Sys2Proof

namespace Sys2Proof.Machine

open Sys2Proof

/-- Number of an engine. -/
def engines20 : List Nat := List.range 20

/-- Work unit `n` of an image. -/
def imgUnit (i : Option Image) (n : Nat) : Option WorkUnit :=
  match i with
  | some x => x.units.find? (fun u => decide (u.num = n))
  | none => none

/-- The image whose contexts a shadow of a kind runs: the slot's for rehearsal and arming. -/
def State.imageFor (s : State) (k : ShadowKind) : Option Image :=
  match k with
  | .rehearsal | .arming => s.slot.image
  | _ => s.live

/-- Lay one context's contents over another's (R275). -/
def ctxMerge (a b : EngCtx) : EngCtx :=
  { a with descs := munion a.descs b.descs, perms := munion a.perms b.perms, requants := munion a.requants b.requants,
           pwls := munion a.pwls b.pwls, rootFmts := munion a.rootFmts b.rootFmts, regions := munion a.regions b.regions }

/-- A fresh context for units, holding what the image loads for each (R275, R312). -/
def loadCtx (i : Option Image) (units : List Nat) (descs : List (Nat × DescReg)) : EngCtx :=
  let base := match i with
    | some x => (x.body.ctxs.filter (fun (y : Nat × EngCtx) => units.contains y.1)).foldl (fun (c : EngCtx) (y : Nat × EngCtx) => ctxMerge c y.2) ({} : EngCtx)
    | none => {}
  { base with units := units, descs := descs.foldl (fun m (x : Nat × DescReg) => mset m x.1 x.2) base.descs }

/-- Load of an engine: issued cycles per frame averaged over 8 frames (R453). -/
def State.load (s : State) (e : Nat) : Nat := lsum ((s.book e).loads.take 8) / 8

/-- Cycle claim of the units of an engine's live context at a shed level. -/
def State.engClaim (s : State) (e lvl : Nat) : Nat :=
  lsum ((ctxUnits (s.engine e).live).map (fun u => match imgUnit s.live u with | some x => x.claim lvl | none => 0))

/-- Engine store claim of the units of an engine's live context. -/
def State.engStore (s : State) (e : Nat) : Nat :=
  lsum ((ctxUnits (s.engine e).live).map (fun u => match imgUnit s.live u with | some x => x.store | none => 0))

/-- Engines available (R473). -/
def State.available (s : State) : Nat :=
  min 16 ((s.engines.filter (fun g => decide (g.state ≠ .retired ∧ g.state ≠ .off))).length)

/-- A free engine of R478. -/
def State.freeEngine (s : State) (e : Nat) : Bool :=
  let g := s.engine e
  decide (g.state = .spare) && g.shadow.isNone && !(s.book e).due && !(s.book e).suspect && !s.slot.held.contains e

/-- An engine of class 1 of R471. -/
def State.class1 (s : State) (e : Nat) : Bool :=
  let g := s.engine e
  decide (g.state = .spare) && g.shadow.isNone && !(s.book e).suspect && !s.slot.held.contains e

/-- The engine of a list with the fewest hops to `x`, then the lowest number (R471, R478). -/
def nearest (x : Nat) (es : List Nat) : Option Nat := lminBy (fun e => hops e x * 32 + e) es

/-- The least loaded LIVE engine of a list without a shadow. -/
def State.leastLoaded (s : State) (es : List Nat) : Option Nat :=
  lminBy (fun e => s.load e * 32 + e) (es.filter (fun e => decide ((s.engine e).state = .live) && (s.engine e).shadow.isNone))

/-- Events of an engine within the window of R317, at a frame. -/
def State.engWindow (s : State) (e : Nat) : List Nat :=
  (s.engine e).events.filter (fun f => decide (s.tl.frames < f + s.rbits Reg.FAULT_WINDOW 15 0))

/-- An engine command not listed for the state (R313). -/
def State.engIgnored (s : State) (e cmd : Nat) : State :=
  s.logRec 1 1 e 0 (min 255 (s.engWindow e).length + cmd * 2 ^ 8 + EngState.code (s.engine e).state * 2 ^ 12)

/-- Clear an engine's shadow context. -/
def State.clearShadow (s : State) (e : Nat) : State :=
  s.onEngine e (fun g => { g with shadow := none, shadowKind := .none, shadowWhole := false, shadowDone := false })

/-- ASSIGN_SHADOW (R312): the shadow context loaded and started; ignored where R312 does not list it. -/
def State.assignShadow (s : State) (e : Nat) (k : ShadowKind) (units : List Nat) (descs : List (Nat × DescReg) := []) : State :=
  match (s.engine e).state with
  | .spare | .live =>
    s.onEngine e (fun g => { g with
      shadow := some (loadCtx (s.imageFor k) units descs), shadowKind := k, shadowWhole := false, shadowDone := false,
      lastIssue := s.tl.beats })
  | _ => s.engIgnored e 1

/-- Whether an engine is a target of the slot's arming. -/
def State.slotTarget (s : State) (e : Nat) : Bool := s.slot.targets.any (fun t => decide (t.1 = e))

/-- Bytes of engine store that loading units of the slot's image takes (R440). -/
def State.armBytes (s : State) (units : List Nat) : Nat :=
  lsum (units.map (fun u => match imgUnit s.slot.image u with | some x => x.store | none => 0))

/-- A target engine of the slot is retired or reassigned (R433): its units go to another in-service engine, and an
ARMED slot re-arms. A held engine leaves the slot. -/
def State.slotLost (s : State) (e : Nat) : State :=
  let s0 := { s with slot := { s.slot with held := s.slot.held.filter (fun x => x ≠ e), group := s.slot.group.filter (fun x => x.2 ≠ e) } }
  if ¬ s0.slotTarget e ∨ ¬ (s0.slot.state = .arming ∨ s0.slot.state = .armed) then s0
  else
    let units := s0.slot.targets.flatMap (fun t => if t.1 = e then t.2 else [])
    let rest := s0.slot.targets.filter (fun t => t.1 ≠ e)
    let cand := engines20.filter (fun x =>
      decide (x ≠ e ∧ ((s0.engine x).state = .live ∨ (s0.engine x).state = .spare) ∧ ¬ (s0.engine x).permanent) && !s0.slotTarget x)
    let (targets, left) := match cand with
      | x :: _ => (rest ++ [(x, units)], (s0.slot.left.filter (fun (y : Nat × Nat) => y.1 ≠ e)) ++ [(x, s0.armBytes units)])
      | [] => match rest with
        | (x, us) :: more => ((x, us ++ units) :: more, (s0.slot.left.filter (fun (y : Nat × Nat) => y.1 ≠ e ∧ y.1 ≠ x)) ++ [(x, s0.armBytes (us ++ units))])
        | [] => ([], [])
    let s1 := { s0 with slot := { s0.slot with targets := targets, left := left, state := .arming } }
    if s.slot.state = .armed then (s1.bump Reg.REARMS).raise Reg.SLOT_EVENTS 4 else s1

/-- Count a pass of the live context abandoned or lost. -/
def dropLive (g : Engine) : Engine := { g with live := none, bankA := {}, bankB := {} }

/-- SWITCH (R312): the shadow context becomes the live one; ignored where no shadow is held or the state does not list it. -/
def State.switchEng (s : State) (e : Nat) : State :=
  let g := s.engine e
  match g.state, g.shadow with
  | .spare, some c | .live, some c =>
    s.onEngine e (fun g => { g with state := .live, live := some c, shadow := none, shadowKind := .none,
                                    shadowWhole := false, shadowDone := false, bankA := {}, bankB := {}, lastIssue := s.tl.beats })
  | _, _ => s.engIgnored e 2

/-- RELEASE (R312). -/
def State.releaseEng (s : State) (e : Nat) : State :=
  match (s.engine e).state with
  | .live => s.onEngine e (fun g => { dropLive g with state := .spare })
  | _ => s.engIgnored e 3

/-- RADISH (R312, R477): the radish context runs in the live context's place. -/
def State.radishEng (s : State) (e inst : Nat) : State :=
  match (s.engine e).state with
  | .spare =>
    let s1 := s.onEngine e (fun g => { g with state := .radish, radish := some {}, lastIssue := s.tl.beats })
    let s2 := s1.onBook e (fun b => { b with running := true, inst := inst, passed := false, issuedAt := s.tl.frames })
    (s2.setPair (Reg.RADISH_FRAME_LO e) (Reg.RADISH_FRAME_HI e) s.frame).bump Reg.RADISHES_ISSUED
  | _ => s.engIgnored e 4

/-- RETIRE (R312): contexts discarded, engine power-gated, retirement recorded once in the fault map. -/
def State.retireEng (s : State) (e : Nat) : State :=
  match (s.engine e).state with
  | .retired => s.engIgnored e 5
  | _ =>
    let s1 := s.onEngine e (fun g => { dropLive g with
      state := .retired, permanent := true, shadow := none, radish := none, shadowKind := .none, shadowWhole := false, shadowDone := false })
    ((s1.markRetired 1 e).onBook e (fun b => { b with running := false, due := false })).slotLost e

/-- Cancel the migrations that concern engine `e` (R458, R459). -/
def State.cancelMigrations (s : State) (e : Nat) : State :=
  let (gone, kept) := s.place.migrations.partition (fun m => m.engines.contains e)
  gone.foldl (fun t m => ((m.engines.foldl (fun u x =>
      if (u.engine x).shadowKind = .migration ∨ (u.engine x).shadowKind = .swap then u.clearShadow x else u) t).bump
        Reg.MIGRATIONS_CANCELLED).raise Reg.PLACE_EVENTS 2)
    { s with place := { s.place with migrations := kept } }

/-- The target of a replacement of engine `x` by class 1 or 2 of R471; a cancelled migration where class 2 decides. -/
def State.pickTarget (s : State) (x : Nat) : State × Option Nat :=
  match nearest x (engines20.filter (fun e => decide (e ≠ x) && s.class1 e)) with
  | some t =>
    let left := engines20.filter (fun e => decide (e ≠ x ∧ e ≠ t) && s.class1 e)
    (if left.isEmpty then s.raise Reg.PLACE_EVENTS 5 else s, some t)
  | none =>
    let c2 := engines20.filter (fun e =>
      let g := s.engine e
      decide (e ≠ x ∧ g.state = .spare ∧ (g.shadowKind = .migration ∨ g.shadowKind = .swap)) && !(s.book e).suspect)
    match nearest x c2 with
    | some t => (s.cancelMigrations t, some t)
    | none => (s, none)

/-- Give the replacement of engine `x` a target and start its shadow there (R470, R472). Without class 1 or 2 it waits for
the next frame boundary, where an engine of the slot (class 3, R434) or the redistribution of class 4 decides. -/
def State.replace (s : State) (x : Nat) (units : List Nat) (hard : Bool) : State × Option Nat :=
  let (s1, t) := s.pickTarget x
  let s2 := match t with
    | some e => s1.assignShadow e .fault units
    | none => s1
  ({ s2 with place := { s2.place with replacements := s2.place.replacements ++
      [{ failed := x, target := t, units := units, hard := hard }] } }, t)

/-- Choose other targets for the replacements whose target was `x`. -/
def State.retarget (s : State) (x : Nat) : State :=
  let (gone, kept) := s.place.replacements.partition (fun r => decide (r.target = some x))
  gone.foldl (fun t r =>
    let (t1, n) := t.pickTarget r.failed
    let t2 := match n with | some e => t1.assignShadow e .fault r.units | none => t1
    { t2 with place := { t2.place with replacements := t2.place.replacements ++ [{ r with target := n, ready := false }] } })
    { s with place := { s.place with replacements := kept } }

/-- Declare an engine a permanent fault (R317, R470, R472, R581): by count it runs on until its switch; by a hard-fail
signature it is retired at once. An engine that holds no live context is retired and needs no target. -/
def State.engPermanent (s : State) (e cause : Nat) (hard : Bool) : State :=
  let g := s.engine e
  if g.permanent ∨ g.state = .retired then s
  else
    let s0 := (s.onEngine e (fun g => { g with permanent := true })).cancelMigrations e
    match g.live, decide (g.state = .live) with
    | some c, true =>
      let s1 := if hard then s0.retireEng e else s0
      let (s2, t) := s1.replace e c.units hard
      (s2.declare 1 e cause t hard).retarget e
    | _, _ => ((s0.retireEng e).declare 1 e cause none hard).retarget e

/-- Withhold the passes running on an engine (R278). -/
def withhold (g : Engine) : Engine :=
  let w := fun c : EngCtx => if c.passRunning then { c with withheld := true } else c
  { g with live := g.live.map w, shadow := g.shadow.map w }

/-- Start the re-run of a withheld pass: an engine of class 1, or else the shadow of the least loaded LIVE engine (R316, R471). -/
def State.rerun (s : State) (e : Nat) (units : List Nat) : State :=
  if s.place.replacements.any (fun r => decide (r.failed = e)) then s
  else
    match nearest e (engines20.filter (fun x => decide (x ≠ e) && s.class1 x)) with
    | some t => s.assignShadow t .rerun units
    | none => match s.leastLoaded (engines20.filter (fun x => x ≠ e)) with
      | some t => s.assignShadow t .rerun units
      | none => s

/-- An engine event of cause 1 to 6 (R316, R317, R318): the event bit, the record, the withheld pass and its re-run, and
the count. Events of a declared engine are not counted (R582). -/
def State.engEvent (s : State) (e cause : Nat) : State :=
  let g := s.engine e
  if g.state = .retired ∨ g.state = .off then s
  else
    let ev := if g.permanent then s.engWindow e else s.tl.frames :: s.engWindow e
    let s1 := s.onEngine e (fun g => { withhold g with lastCause := cause, events := ev })
    let s2 := (s1.raiseAt Reg.FAULT_EVENTS Reg.FAULT_EVENT_EN 14 (2 ^ e)).logRec 1 1 e cause (min 255 ev.length)
    let s3 := s2.cancelMigrations e
    let s4 := if ¬ g.permanent ∧ s.rbits Reg.FAULT_WINDOW 23 16 < ev.length then s3.engPermanent e cause false else s3
    if g.passOn then (s4.rerun e g.passUnits).bump (Reg.RECOMPUTES e) else s4

/-- A hard-fail signature of an engine, causes 7 to 9 (R315, R472). -/
def State.engHard (s : State) (e cause : Nat) : State :=
  let g := s.engine e
  if g.state = .retired ∨ g.permanent then
    if g.state = .retired then s else s.retireEng e
  else
    let s1 := s.onEngine e (fun g => { g with lastCause := cause })
    (s1.raiseAt Reg.FAULT_EVENTS Reg.FAULT_EVENT_EN 14 (2 ^ e)).engPermanent e cause true

/-! ### The slot -/

/-- Empty the slot (R428, R446): contexts it armed or rehearses are cleared and its engines are released. -/
def State.emptySlot (s : State) : State :=
  let s1 := engines20.foldl (fun t e =>
    if (t.engine e).shadowKind = .arming ∨ (t.engine e).shadowKind = .rehearsal then t.clearShadow e else t) s
  { s1 with slot := {} }

/-- Refuse the image in the slot (R427, R428). -/
def State.refuseImage (s : State) (reason unit shortfall : Nat) (switchForm : Bool) : State :=
  let s1 := s.rset Reg.ADMIT_RESULT (nw (2 ^ 31 + b2n switchForm * 2 ^ 28 + reason * 2 ^ 16 + unit % 1024))
  let s2 := ((s1.rset Reg.ADMIT_SHORTFALL (nw (min shortfall 0xFFFFFFFF))).bump Reg.REFUSALS).raise Reg.SLOT_EVENTS 2
  s2.emptySlot

/-- Discard the slot (R446): the image counts as refused with reason CANCELLED. -/
def State.discardSlot (s : State) : State :=
  if s.slot.state = .empty then s else (s.refuseImage 21 0 0 false).raise Reg.SLOT_EVENTS 6

end Sys2Proof.Machine
end

