-- ==== Sys2Proof/Machine/TensorOps.lean ====
section
/-! DEFINITION. Descriptors as pure functions: formats, addresses, planes, tiles, sharding, validation and the byte forms of
descriptors and mover operations (R281 to R284, R297, R300 to R303, R323 to R337, R352, R365 to R367). -/

namespace Sys2Proof

/-! ### Formats (R281, R325) -/

/-- Whether a code is an import format. -/
def fmtImport (f : Nat) : Bool := decide (0x10 ≤ f ∧ f ≤ 0x14)

/-- Whether a code is a block format. -/
def fmtBlock (f : Nat) : Bool := decide (f = 2 ∨ f = 3) || fmtImport f

/-- Whether a code is an element format. -/
def fmtOk (f : Nat) : Bool := decide (1 ≤ f ∧ f ≤ 5) || fmtImport f

/-- Bits of an element: g in bits. -/
def fmtBits (f : Nat) : Nat :=
  if f = 4 then 16 else if f = 5 then 32 else if f = 3 ∨ f = 0x14 then 4 else if f = 0x12 ∨ f = 0x13 then 6 else 8

/-- Block weight of a shared scale (R282). -/
def scaleWeight (f x : Nat) : Int := if f = 3 then (x : Int) - 129 else (x : Int) - 133

/-- Lowest and highest element of a produced MXINT8 or B4 block, and of the other formats (R284). -/
def fmtRange (f : Nat) : Int × Int :=
  if f = 2 then (-127, 127) else if f = 3 then (-8, 7) else if f = 4 then (-32768, 32767)
  else if f = 5 then (-2147483648, 2147483647) else (-128, 127)

/-- Round to nearest, halves toward plus infinity, of a quotient by a positive number (R291). -/
def rndDiv (v : Int) (d : Nat) : Int := (2 * v + (d : Int)) / (2 * (d : Int))

/-- Round `v × 2^s` (R291). -/
def rndShift (v s : Int) : Int := if 0 ≤ s then ishl v s.toNat else rndDiv v (2 ^ (-s).toNat)

/-- The shared scale that packs a block (R295), smallest first: none where no scale up to 254 fits. -/
def packScale (f : Nat) (wOut : Int) (ys : List Int) : Nat → Nat → Option Nat
  | 0, _ => none
  | n + 1, x =>
    let (lo, hi) := fmtRange f
    if 254 < x then none
    else if ys.all (fun y => let q := rndShift y (wOut - scaleWeight f x); decide (lo ≤ q ∧ q ≤ hi)) then some x
    else packScale f wOut ys n (x + 1)

/-- Pack one block (R295): its scale, elements, and whether they saturated. -/
def packBlock (f : Nat) (wOut : Int) (ys : List Int) : Nat × List Int × Bool :=
  let (lo, hi) := fmtRange f
  match packScale f wOut ys 255 0 with
  | some x => (x, ys.map (fun y => rndShift y (wOut - scaleWeight f x)), false)
  | none => (254, ys.map (fun y => clampI lo hi (rndShift y (wOut - scaleWeight f 254))), true)

/-- Value of an import element as a numerator over 2^24, none for NaN or infinity (R281, R303). -/
def importValue (f v : Nat) : Option Int :=
  let mk := fun (e m bias mb : Nat) (neg : Bool) (w : Nat) =>
    let mag : Int := if e = 0 then ishl (m : Int) (w + 1 - bias - mb) else ishl ((2 ^ mb + m : Nat) : Int) (w + e - bias - mb)
    if neg then -mag else mag
  match f with
  | 0x10 => if v % 128 = 127 then none else some (mk (v / 8 % 16) (v % 8) 7 3 (v.testBit 7) 24)
  | 0x11 => if v / 4 % 32 = 31 then none else some (mk (v / 4 % 32) (v % 4) 15 2 (v.testBit 7) 24)
  | 0x12 => some (mk (v / 4 % 8) (v % 4) 3 2 (v.testBit 5) 24)
  | 0x13 => some (mk (v / 8 % 4) (v % 8) 1 3 (v.testBit 5) 24)
  | _ => some (mk (v / 2 % 4) (v % 2) 1 1 (v.testBit 3) 24)

/-- The smallest scale of R303 for a largest magnitude `m` over 2^24 × 2^(127 − scale). -/
def importScale (m : Int) (e : Int) : Nat → Nat → Nat
  | 0, x => x
  | n + 1, x => if 254 ≤ x then 254 else if rndShift m (e + 133 - (x : Int)) ≤ 127 then x else importScale m e n (x + 1)

/-- An import block becomes an MXINT8 block (R303): scale, elements, and the flags INEXACT and NONFINITE. -/
def importBlock (f scale : Nat) (vs : List Nat) : Nat × List Int × Bool × Bool :=
  if scale = 0xFF then (0, vs.map (fun _ => 0), false, true)
  else
    let xs := vs.map (importValue f)
    let bad := xs.any Option.isNone
    let v := xs.map (fun x => x.getD 0)
    let e : Int := (scale : Int) - 127 - 24
    let m := (v.map (fun x => (x.natAbs : Int))).foldl max 0
    let x := importScale m e 255 0
    let qs := v.map (fun y => clampI (-127) 127 (rndShift y (e + 133 - (x : Int))))
    let inexact := (qs.zip v).any (fun p =>
      let d := e + 133 - (x : Int)
      if 0 ≤ d then decide (p.1 ≠ ishl p.2 d.toNat) else decide (ishl p.1 (-d).toNat ≠ p.2))
    (x, qs, inexact, bad)

/-! ### Sharding (R365 to R367) -/

/-- KIND, AXIS and BLOCK of a SHARD field. -/
def shardKind (w : Nat) : Nat := w / 2 ^ 30 % 4
/-- See `shardKind`. -/
def shardAxis (w : Nat) : Nat := w / 2 ^ 28 % 4
/-- See `shardKind`. -/
def shardBlock (w : Nat) : Nat := w % 2 ^ 24

/-- Coordinate of an axis in a word that holds cz, cy and cx (R323). -/
def coordAxis (w ax : Nat) : Nat := if ax = 0 then w % 16 else if ax = 1 then w / 16 % 16 else w / 256 % 64

/-- NX, NY or NZ of GRID_COUNT. -/
def gridAxis (w ax : Nat) : Nat := if ax = 0 then w % 32 else if ax = 1 then w / 256 % 32 else w / 65536 % 128

/-- Owner of a global index along its axis, none for REPLICATED, and the local index there (R367). -/
def shardIndex (w p e i : Nat) : Option Nat × Nat :=
  let b := shardBlock w
  match shardKind w with
  | 0 => (none, i)
  | 1 => let c := cdiv e (max p 1); (some (i / max c 1), i % max c 1)
  | 2 => (some (i % max p 1), i / max p 1)
  | _ => (some (i / max b 1 % max p 1), i / (max b 1 * max p 1) * b + i % max b 1)

/-- Local extent of a dimension (R367). -/
def shardExtent (w p e : Nat) : Nat :=
  let b := shardBlock w
  match shardKind w with
  | 0 => e
  | 1 => cdiv e (max p 1)
  | 2 => cdiv e (max p 1)
  | _ => cdiv e (max (b * p) 1) * b

/-- Extents over which the strides of a descriptor run: local ones under layout 0x05. -/
def Desc.local (d : Desc) : List Nat :=
  if d.layout = 5 then (List.range 6).map (fun i => let w := lgetD d.shard i 0; shardExtent w (gridAxis d.gridCount (shardAxis w)) (lgetD d.ext i 1))
  else d.ext

/-- Whether some dimension is sharded. -/
def Desc.sharded (d : Desc) : Bool := d.shard.any (fun w => decide (shardKind w ≠ 0))

/-! ### Addresses (R326, R328, R329, R297) -/

/-- Extent and stride of dimension `i`. -/
def Desc.e (d : Desc) (i : Nat) : Nat := lgetD d.ext i 1
/-- See `Desc.e`. -/
def Desc.st (d : Desc) (i : Nat) : Int := lgetD d.stride i 0

/-- Sum of strides times indices from dimension `k` up. -/
def Desc.span (d : Desc) (idx : List Nat) (k : Nat) : Int :=
  ((List.range 6).filter (fun i => decide (k ≤ i))).foldl (fun (a : Int) i => a + ((lgetD idx i 0 : Nat) : Int) * d.st i) 0

/-- Bit address of the element at a local index within its allocation (R326). -/
def Desc.bitAddr (d : Desc) (idx : List Nat) : Int :=
  let i := fun n => lgetD idx n 0
  let g := fmtBits d.format
  let b : Int := (d.base : Int)
  let blocked : Int := 8 * (b + ((i 0 / 32 : Nat) : Int) * d.st 0 + d.span idx 1) + ((i 0 % 32 * g : Nat) : Int)
  match d.layout with
  | 2 => 8 * (b + ((i 1 / 128 : Nat) : Int) * d.st 1 + ((i 0 / 64 : Nat) : Int) * d.st 0 + d.span idx 2) +
      ((i 1 % 128 * (64 * g) + i 0 % 64 * g : Nat) : Int)
  | 3 => blocked
  | 4 =>
    let m := (List.range 11).foldl (fun a j => a + (i 0 / 2 ^ j % 2) * 2 ^ (3 * j) + (i 1 / 2 ^ j % 2) * 2 ^ (3 * j + 1) + (i 2 / 2 ^ j % 2) * 2 ^ (3 * j + 2)) 0
    8 * (b + (m : Int) * d.st 0 + d.span idx 3)
  | _ => if fmtBlock d.format then blocked else 8 * (b + d.span idx 0)

/-- Byte offset of a block's shared scale (R328). -/
def Desc.scaleAddr (d : Desc) (idx : List Nat) : Nat :=
  let x := d.local
  let outer := (List.range 5).reverse.foldl (fun a j => lgetD idx (j + 1) 0 + lgetD x (j + 1) 1 * a) 0
  d.scaleOff + lgetD idx 0 0 / 32 + cdiv (lgetD x 0 1) 32 * outer

/-- Tile index of an element (R297). -/
def Desc.tile (d : Desc) (idx : List Nat) : Nat :=
  let x := d.local
  let h := (List.range 4).reverse.foldl (fun a j => lgetD idx (j + 2) 0 + lgetD x (j + 2) 1 * a) 0
  (h * cdiv (lgetD x 1 1) 128 + lgetD idx 1 0 / 128) * cdiv (lgetD x 0 1) 64 + lgetD idx 0 0 / 64

/-- Tiles of a tensor. -/
def Desc.tiles (d : Desc) : Nat :=
  let x := d.local
  (List.range 4).foldl (fun a j => a * lgetD x (j + 2) 1) (cdiv (lgetD x 1 1) 128 * cdiv (lgetD x 0 1) 64)

/-- Linear index of an index vector (R335). -/
def Desc.linear (d : Desc) (idx : List Nat) : Nat := (List.range 6).reverse.foldl (fun a j => lgetD idx j 0 + d.e j * a) 0

/-- The index counts of element number `n` of a window, dimension 0 fastest (R340). -/
def windowIdx : List Nat → Nat → List Nat
  | [], _ => []
  | c :: cs, n => n % max c 1 :: windowIdx cs (n / max c 1)

/-- Elements of a window. -/
def windowSize (count : List Nat) : Nat := count.foldl (fun a c => a * max c 1) 1

/-- Signed index vector of element `n` of a window. -/
def windowAt (origin : List Int) (count : List Nat) (n : Nat) : List Int :=
  ((windowIdx count n).zip origin).map (fun p => (p.1 : Int) + p.2)

/-- Whether an index lies within the extents. -/
def Desc.inside (d : Desc) (idx : List Int) : Bool := (idx.zip d.ext).all (fun p => decide (0 ≤ p.1 ∧ p.1 < (p.2 : Int)))

/-- An index clamped to the extents (R341). -/
def Desc.clamp (d : Desc) (idx : List Int) : List Nat := (idx.zip d.ext).map (fun p => (clampI 0 ((p.2 : Int) - 1) p.1).toNat)

/-! ### Elements in bytes -/

/-- The `g` bits at a bit address of bytes that start at byte `b0`. -/
def bitsIn (bytes : List Byte) (b0 : Nat) (ba g : Nat) : Nat := leNat bytes / 2 ^ (ba - 8 * b0) % 2 ^ g

/-- The integer of an element code; import formats keep their code. -/
def elemInt (f code : Nat) : Int := if fmtImport f then (code : Int) else sval (fmtBits f) code

/-! ### Validation (R325 to R337) -/

/-- Terms of R333: stride and count of each dimension above extent 1 that the layout addresses through a stride. -/
def Desc.terms (d : Desc) : List (Nat × Nat) :=
  let x := d.local
  let n := fun i => lgetD x i 1
  let blk := decide (d.layout = 3) || (fmtBlock d.format && decide (d.layout ≠ 2))
  let count := fun i =>
    if d.layout = 2 then (if i = 0 then cdiv (n 0) 64 else if i = 1 then cdiv (n 1) 128 else n i)
    else if i = 0 ∧ blk then n 0 / 32 else n i
  let dims := if d.layout = 4 then [3, 4, 5] else [0, 1, 2, 3, 4, 5]
  (dims.filter (fun i => decide (1 < n i))).map (fun i => ((d.st i).natAbs, count i))

/-- Reach of the inner block in bytes (R333), rounded up to whole bytes. -/
def Desc.reach (d : Desc) : Nat :=
  let x := d.local
  let g := fmtBits d.format
  if d.layout = 2 then cdiv ((min (lgetD x 1 1) 128 - 1) * 64 * g + min (lgetD x 0 1) 64 * g) 8 - 1
  else if d.layout = 4 then (lgetD x 0 1 ^ 3 - 1) * (d.st 0).natAbs + cdiv g 8 - 1
  else if d.layout = 3 ∨ fmtBlock d.format then cdiv (32 * g) 8 - 1
  else cdiv g 8 - 1

/-- Provable injectivity (R333). -/
def Desc.injective (d : Desc) : Bool :=
  ((lsortBy (fun (t : Nat × Nat) => t.1) d.terms).foldl (fun (a : Bool × Nat) t => (a.1 && decide (a.2 < t.1), a.2 + (t.2 - 1) * t.1)) (true, d.reach)).1

/-- Least and greatest bit offset that a dimension of `n` indices adds: in tiles of `t` indices of `u` bits at stride `st`
bytes, or at the stride alone (R326). -/
def dimReach (n : Nat) (st : Int) (tile : Option (Nat × Nat)) : Int × Int :=
  let cands : List Int := match tile with
    | some (t, u) =>
      let last := (n - 1) / t
      [(((min n t - 1) * u : Nat) : Int), 8 * ((last - 1 : Nat) : Int) * st + (((min n t - 1) * u : Nat) : Int),
       8 * (last : Int) * st + (((n - 1) % t * u : Nat) : Int), 8 * (last : Int) * st]
    | none => [8 * ((n - 1 : Nat) : Int) * st]
  (cands.foldl min 0, cands.foldl max 0)

/-- Lowest and highest byte that an index within the extents addresses (R331). -/
def Desc.bounds (d : Desc) : Int × Int :=
  let x := d.local
  let g := fmtBits d.format
  let blk := decide (d.layout = 3) || (fmtBlock d.format && decide (d.layout ≠ 2))
  let tile := fun i =>
    if d.layout = 2 then (if i = 0 then some (64, g) else if i = 1 then some (128, 64 * g) else none)
    else if i = 0 ∧ blk then some (32, g) else none
  let dims := if d.layout = 4 then [3, 4, 5] else [0, 1, 2, 3, 4, 5]
  let rs := dims.map (fun i => dimReach (lgetD x i 1) (d.st i) (tile i))
  let cube : Int := if d.layout = 4 then 8 * ((lgetD x 0 1 ^ 3 - 1 : Nat) : Int) * d.st 0 else 0
  let lo := rs.foldl (fun (a : Int) r => a + r.1) (min cube 0)
  let hi := rs.foldl (fun (a : Int) r => a + r.2) (max cube 0)
  ((d.base : Int) + lo / 8, (d.base : Int) + (hi + (g : Int) - 1) / 8)

/-- Bytes of the scale plane. -/
def Desc.scaleBytes (d : Desc) : Nat :=
  if fmtBlock d.format then (d.local.drop 1).foldl (fun a n => a * n) (cdiv (lgetD d.local 0 1) 32) else 0

/-- R331 for an allocation of `size` bytes. -/
def Desc.fits (d : Desc) (size : Nat) : Bool :=
  let (lo, hi) := d.bounds
  decide (0 ≤ lo ∧ hi < (size : Int)) && (!fmtBlock d.format || decide (d.scaleOff + d.scaleBytes ≤ size)) &&
    (!d.statusEn || decide (d.statusOff + d.tiles ≤ size))

/-- R327 and the codes of R326. -/
def Desc.layoutOk (d : Desc) : Bool :=
  match d.layout with
  | 1 => true
  | 2 => decide (2 ≤ d.rank ∧ d.format ≠ 0x12 ∧ d.format ≠ 0x13)
  | 3 => decide (d.format = 1) || fmtBlock d.format
  | 4 => decide (3 ≤ d.rank ∧ d.e 0 = d.e 1 ∧ d.e 1 = d.e 2 ∧ d.e 0 ≤ 2048 ∧ d.e 0 = 2 ^ ilog2 12 (d.e 0) ∧ d.st 1 = 0 ∧ d.st 2 = 0 ∧
      ((cdiv (fmtBits d.format) 8 : Nat) : Int) ≤ d.st 0) && !fmtBlock d.format
  | 5 => true
  | _ => false

/-- R365 and R366; `coord` is the part's chip coordinate, if it has one. -/
def Desc.shardOk (d : Desc) (coord : Option Nat) : Bool :=
  if d.layout ≠ 5 then d.shard.all (fun w => decide (w = 0)) && decide (d.gridOrigin = 0 ∧ d.gridCount = 0)
  else
    let g := d.gridCount
    let n := fun a => gridAxis g a
    let kinds := d.shard.filter (fun w => decide (shardKind w ≠ 0))
    let axes := kinds.map shardAxis
    decide (1 ≤ n 0 ∧ n 0 ≤ 16 ∧ 1 ≤ n 1 ∧ n 1 ≤ 16 ∧ 1 ≤ n 2 ∧ n 2 ≤ 64 ∧ n 0 * n 1 * n 2 ≤ 4096) &&
      d.shard.all (fun w => decide (shardAxis w ≠ 3 ∧ w / 2 ^ 24 % 16 = 0 ∧
        (if shardKind w = 3 then 1 ≤ shardBlock w else shardBlock w = 0))) &&
      decide (axes.eraseDups.length = axes.length) &&
      (match coord with
       | none => false
       | some c => [0, 1, 2].all (fun a => decide (coordAxis d.gridOrigin a ≤ coordAxis c a ∧ coordAxis c a < coordAxis d.gridOrigin a + n a)))

/-- Every REASON of R337 that a descriptor meets. `size` is its allocation's size (none: unknown data set), `space` whether
the creator may name its space, `requant` whether the requantizer writes it. -/
def Desc.reasons (d : Desc) (size : Option Nat) (space requant : Bool) (coord : Option Nat) : List Nat :=
  let bad := fun (b : Bool) (r : Nat) => if b then [r] else []
  let spanBad := match size with | some n => !d.fits n | none => false
  bad spanBad 1 ++
    bad (d.write && decide (d.aliasing = 0) && !(d.injective && ((List.range 6).all (fun i => decide (d.e i = 1 ∨ d.st i ≠ 0 ∨ (d.layout = 4 ∧ i < 3)))))) 2 ++
    bad ((d.write && fmtImport d.format) || (d.write && decide (d.aliasing = 1 ∧ ¬ (d.format = 1 ∨ d.format = 4 ∨ d.format = 5))) ||
      (fmtBlock d.format && decide (d.e 0 % 32 ≠ 0))) 3 ++
    bad (!d.layoutOk) 4 ++
    bad (decide (d.rank < 1 ∨ 6 < d.rank) || (List.range 6).any (fun i => decide (d.rank ≤ i ∧ (d.e i ≠ 1 ∨ d.st i ≠ 0)))) 5 ++
    bad (decide (4 < d.space ∨ size = none) || !space) 6 ++
    bad (requant && !d.statusEn) 7 ++
    bad (!d.shardOk coord) 8 ++
    bad (d.reserved || decide (d.aliasing = 3) || !fmtOk d.format || d.ext.any (fun n => decide (n < 1 ∨ 2 ^ 31 - 1 < n))) 11

/-- The REASON captured: the lowest that applies (log entry 20); none where the descriptor is created. -/
def Desc.refusal (d : Desc) (size : Option Nat) (space requant : Bool) (coord : Option Nat) : Option Nat :=
  (d.reasons size space requant coord).head?

/-- Whether a window of a register lies within the extents. -/
def DescReg.windowIn (r : DescReg) : Bool :=
  r.desc.inside r.origin && r.desc.inside ((r.origin.zip r.count).map (fun p => p.1 + (p.2 : Int) - 1))

/-! ### Byte forms -/

/-- The descriptor that 128 bytes hold (R323). -/
def descOf (b : List Byte) : Desc :=
  let handle := leAt b 8 4
  let mode := leAt b 12 1
  let at4 := fun o => leAt b o 4
  let zero := fun (o n : Nat) => decide (leAt b o n = 0)
  { base := leAt b 0 5, rank := leAt b 5 1 % 8, layout := leAt b 6 1, format := leAt b 7 1
    space := handle / 2 ^ 28, dataSet := handle % 65536, write := mode.testBit 0, aliasing := mode / 2 % 4, statusEn := mode.testBit 3
    fill := at4 16 % 65536, fillScale := at4 16 / 65536 % 256, scaleOff := leAt b 24 5, statusOff := leAt b 32 5
    ext := (List.range 6).map (fun i => at4 (40 + 8 * i)), stride := (List.range 6).map (fun i => sval 32 (at4 (44 + 8 * i)))
    shard := (List.range 6).map (fun i => at4 (88 + 4 * i)), gridOrigin := at4 112 % 16384, gridCount := at4 116 % 2 ^ 23
    reserved := !(decide (leAt b 5 1 / 8 = 0 ∧ handle / 65536 % 4096 = 0 ∧ mode / 16 = 0 ∧ at4 16 / 2 ^ 24 = 0 ∧ at4 112 / 16384 = 0) &&
      decide (at4 116 / 2 ^ 23 = 0 ∧ at4 116 / 2 ^ 13 % 8 = 0 ∧ at4 116 / 32 % 8 = 0) &&
      zero 13 3 && zero 20 4 && zero 29 3 && zero 37 3 && zero 120 8) }

/-- The mover operation that 128 bytes hold (R352). -/
def moverOpOf (b : List Byte) : MoverOp :=
  let at4 := fun o => leAt b o 4
  { op := leAt b 0 1, src := leAt b 2 2, dst := leAt b 4 2, idx := leAt b 6 2, wait := BitVec.ofNat 32 (at4 8), signal := BitVec.ofNat 32 (at4 12)
    srcOrigin := (List.range 6).map (fun i => sval 32 (at4 (16 + 4 * i))), dstOrigin := (List.range 6).map (fun i => sval 32 (at4 (40 + 4 * i)))
    count := (List.range 6).map (fun i => at4 (64 + 4 * i)), reserved := decide (leAt b 1 1 ≠ 0 ∨ leAt b 88 40 ≠ 0) }

/-- Status byte of a tile (R296). -/
def TileFlags.byte (f : TileFlags) (inherited : Bool) : Nat :=
  128 + 16 * b2n inherited + 8 * b2n f.nonfinite + 4 * b2n f.inexact + 2 * b2n f.accSat + b2n f.escape

/-- Flags of two sources together. -/
def TileFlags.or (a b : TileFlags) : TileFlags :=
  { escape := a.escape || b.escape, accSat := a.accSat || b.accSat, inexact := a.inexact || b.inexact, nonfinite := a.nonfinite || b.nonfinite }

end Sys2Proof
end

