-- ==== Sys2Proof/Machine/EngineExec.lean ====
section
/-! DEFINITION. What a bundle's slots do in a context: issue, operand reads, the array, the requantizer, the vector and root
units, the exchange network and stores (R274 to R304, R339 to R349, R374 to R381). -/

namespace Sys2Proof

/-! ### Small arithmetic -/

/-- Saturate to the 48 bits of a lane (R298). -/
def sat48 (v : Int) : Int := ssat 48 v

/-- Whether a value saturates to `w` bits. -/
def beyond (w : Nat) (v : Int) : Bool := decide (ssat w v ≠ v)

/-- Vector register `r` of a context; 64 zero lanes where unlisted. -/
def EngCtx.vreg (c : EngCtx) (r : Nat) : List Int := mgetD c.vregs r (List.replicate 64 0)

/-- Write a vector register. -/
def EngCtx.setVreg (c : EngCtx) (r : Nat) (v : List Int) : EngCtx := { c with vregs := mset c.vregs r v }

/-- Note that a vector result saturated. -/
def EngCtx.satIf (c : EngCtx) (b : Bool) : EngCtx := if b then { c with vecFlags := { c.vecFlags with accSat := true } } else c

/-- A context after a WAIT in progress whose tokens are set, none while it stalls (R280). -/
def EngCtx.resume (c : EngCtx) : Option EngCtx :=
  match c.waiting with
  | none => some c
  | some (m, consume) =>
    if c.tokens &&& m = m then some { c with waiting := none, tokens := if consume then c.tokens &&& ~~~ m else c.tokens } else none

/-- Tokens set in a context; a WAIT they satisfy ends at once (R280). -/
def EngCtx.give (c : EngCtx) (m : BitVec 32) : EngCtx :=
  let x := { c with tokens := c.tokens ||| m }
  x.resume.getD x

/-- A pass begins with the first bundle after END_PASS: the root status and the pass's flags are cleared (R277, R380). -/
def EngCtx.begin (c : EngCtx) : EngCtx :=
  if c.passRunning then c
  else { c with passRunning := true, withheld := false, root := {}, inherited := false, vecFlags := {}, written := [] }

/-- Whether every unit of a context has reached HALT in this frame. -/
def EngCtx.done (c : EngCtx) : Bool := c.units.all (fun u => c.halts.contains u)

/-- Rows and columns of an array tile (R285). -/
def ArrayMode.shape : ArrayMode → Nat × Nat
  | .int8 | .b4 | .int8b4 => (128, 64)
  | .fx16int8 => (128, 32)
  | .fx16 => (64, 32)

/-- Bits of an accumulator (R285, R286). -/
def ArrayMode.accBits : ArrayMode → Nat
  | .int8 | .b4 | .int8b4 => 32
  | .fx16int8 | .fx16 => 48

/-- Bank A or B. -/
def Engine.bank (g : Engine) (b : Bool) : AccBank := if b then g.bankB else g.bankA

/-- Replace bank A or B. -/
def Engine.setBank (g : Engine) (b : Bool) (x : AccBank) : Engine := if b then { g with bankB := x } else { g with bankA := x }

/-- Accumulator row `r` of a bank. -/
def AccBank.row (x : AccBank) (r : Nat) : List Int := (List.range x.mode.shape.2).map (fun n => mgetD x.acc (r * 64 + n) 0)

/-- One contribution of `mac_block` (R287): the block's exact sum scaled to weight W. -/
def macTerm (a b : List Elem) (w : Int) : Int :=
  let p := ((a.zip b).map (fun x => x.1.1 * x.2.1)).foldl (· + ·) 0
  let wa := match a with | x :: _ => x.2 | [] => 0
  let wb := match b with | x :: _ => x.2 | [] => 0
  rndShift p (wa + wb - w)

/-- Operands of `k` steps in order of K step, `n` elements a step: the elements that row or column `i` takes, by block of 32
steps (log entry 19). -/
def operandOf (l : List Elem) (n k i : Nat) : List (List Elem) :=
  (List.range (k / 32)).map (fun b => (List.range 32).map (fun j => lgetD l ((32 * b + j) * n + i) (0, 0)))

/-- `mac_block` over every output and every block (R287). -/
def AccBank.mac (x : AccBank) (mode : ArrayMode) (first : Bool) (a b : List Elem) (k : Nat) (w : Int) : AccBank :=
  let (rows, cols) := mode.shape
  let bits := mode.accBits
  let bcols := (List.range cols).map (fun n => operandOf b cols k n)
  let outs : List (Nat × Int × Bool) := (List.range rows).flatMap (fun m =>
    let arow := operandOf a rows k m
    (bcols.zipIdx).map (fun col =>
      let start : Int := if first then 0 else mgetD x.acc (m * 64 + col.2) 0
      let r := (arow.zip col.1).foldl (fun (v : Int × Bool) blk =>
        let c := v.1 + macTerm blk.1 blk.2 w
        (ssat bits c, v.2 || beyond bits c)) (start, false)
      (m * 64 + col.2, r.1, r.2)))
  { x with mode := mode, sat := (x.sat && !first) || outs.any (fun o => o.2.2)
           acc := (outs.filter (fun o => decide (o.2.1 ≠ 0))).map (fun o => (o.1, o.2.1)) }

/-! ### The root unit (R377 to R380) -/

/-- The operand in a lane: saturated to 40 bits, and whether it was. -/
def rootOperand (lane : Int) : Int × Bool := (ssat 40 lane, beyond 40 lane)

/-- Largest positive 40-bit value. -/
def rootMax : Int := 549755813887

/-- A result saturated to 40 bits. -/
def rootResult (v : Int) : Int × Bool := (ssat 40 v, beyond 40 v)

/-- A quotient rounded under R291; `d` may be negative. -/
def rndQuot (n d : Int) : Int := if d < 0 then rndDiv (-n) d.natAbs else rndDiv n d.natAbs

/-- The square root of `n / d`, rounded. -/
def rndRoot (n d : Nat) : Int := (((isqrt (4 * n / max d 1) + 1) / 2 : Nat) : Int)

/-- Outcome of a root operation: result, saturation and domain. -/
structure RootOut where
  val : Int
  sat : Bool := false
  domain : Bool := false
  deriving DecidableEq, Repr

/-- RECIP (R375, R378). -/
def rootRecip (f : RootFmt) (a : Int) : RootOut :=
  if a = 0 then { val := rootMax, domain := true }
  else let r := rootResult (rndQuot (ishl 1 (f.fa + f.fr)) a); { val := r.1, sat := r.2 }

/-- DIV (R375, R378). -/
def rootDiv (f : RootFmt) (a b : Int) : RootOut :=
  if b = 0 then { val := if a = 0 then 0 else if a < 0 then -rootMax - 1 else rootMax, domain := true }
  else let r := rootResult (rndQuot (ishl a (f.fb + f.fr)) (ishl b f.fa)); { val := r.1, sat := r.2 }

/-- SQRT (R375, R378). -/
def rootSqrt (f : RootFmt) (a : Int) : RootOut :=
  if a < 0 then { val := 0, domain := true }
  else let r := rootResult (rndRoot (a.natAbs * 2 ^ (2 * f.fr)) (2 ^ f.fa)); { val := r.1, sat := r.2 }

/-- RSQRT (R375, R378). -/
def rootRsqrt (f : RootFmt) (a : Int) : RootOut :=
  if a ≤ 0 then { val := rootMax, domain := true }
  else let r := rootResult (rndRoot (2 ^ (2 * f.fr + f.fa)) a.natAbs); { val := r.1, sat := r.2 }

/-! ### The exchange network (R345 to R349) -/

/-- Insert bit `v` at position `b` of a six-bit number. -/
def spreadBit (e b v : Nat) : Nat := e / 2 ^ b * 2 ^ (b + 1) + v * 2 ^ b + e % 2 ^ b

/-- One stage: every crossed element exchanges its two lanes. -/
def xchgStage (cross : List Nat) (s : Nat) (lanes : List Byte) : List Byte :=
  let b := if s ≤ 6 then 6 - s else s - 6
  (List.range 128).map (fun l =>
    let e := l / 2 ^ (b + 1) * 2 ^ b + l % 2 ^ b
    if cross.contains (64 * s + e) then lgetD lanes (spreadBit e b (1 - l / 2 ^ b % 2)) 0 else lgetD lanes l 0)

/-- The 13 stages. -/
def xchgLanes (cross : List Nat) (lanes : List Byte) : List Byte := (List.range 13).foldl (fun l s => xchgStage cross s l) lanes

/-- Elements as bytes, `g` bits each. -/
def elemsBytes (g n : Nat) (vals : List Int) : List Byte :=
  leBytes n (vals.zipIdx.foldl (fun a x => a + sbits g x.1 * 2 ^ (g * x.2)) 0)

/-- Elements from bytes. -/
def bytesElems (g : Nat) (count : Nat) (b : List Byte) : List Int :=
  let n := leNat b
  (List.range count).map (fun i => sval g (n / 2 ^ (g * i)))

/-- A beat through the exchange elements (R347); a beat wider than the network passes unchanged. -/
def OutBeat.cross (b : OutBeat) (cross : List Nat) : OutBeat :=
  let g := fmtBits b.format
  if cross.isEmpty ∨ 1024 < g * b.vals.length then b
  else { b with vals := bytesElems g b.vals.length (xchgLanes cross (elemsBytes g 128 b.vals)) }

/-- Cut a list into groups of `n`; `fuel` bounds their number. -/
def chunks {α : Type} (n : Nat) : Nat → List α → List (List α)
  | 0, _ => []
  | f + 1, l => if l.isEmpty then [] else l.take n :: chunks n f (l.drop n)

/-- Pack a raw beat in blocks of 32 consecutive columns (R295, R349). -/
def OutBeat.pack (b : OutBeat) : OutBeat :=
  if ¬ b.raw then b
  else
    let ps := (chunks 32 (b.vals.length / 32 + 1) b.vals).map (packBlock b.format b.wOut)
    { b with raw := false, vals := ps.flatMap (fun p => p.2.1), scales := ps.map (fun p => p.1),
             flags := { b.flags with accSat := b.flags.accSat || ps.any (fun p => p.2.2) } }

/-- The beats that a full half of the turn buffer emits (R348, R349): 32 rows of 64 elements become groups of columns of 32
elements, packed over the rows of a column for block formats. -/
def turnBeats (rows : List OutBeat) : List OutBeat :=
  match rows with
  | [] => []
  | b :: _ =>
    let cols := (List.range 64).map (fun n => rows.map (fun r => lgetD r.vals n 0))
    let packed := cols.map (fun c => if b.raw then packBlock b.format b.wOut c else (0, c, false))
    let per := 1024 / max (fmtBits b.format) 1 / 32
    let flags := rows.foldl (fun (f : TileFlags) r => f.or r.flags) {}
    (chunks (max per 1) 65 packed).map (fun ps =>
      { vals := ps.flatMap (fun p => p.2.1), format := b.format, wOut := b.wOut, scales := if b.raw then ps.map (fun p => p.1) else []
        flags := { flags with accSat := flags.accSat || ps.any (fun p => p.2.2) } })

/-- A beat enters the relayout path of a permutation entry (R344): the turn buffer, then the network. -/
def EngCtx.relayout (c : EngCtx) (p : PermEntry) (b : OutBeat) : EngCtx :=
  if p.turn then
    let t := c.turn ++ [b]
    if t.length < 32 then { c with turn := t }
    else { c with turn := [], xchg := c.xchg ++ (turnBeats t).map (fun x => x.cross p.cross) }
  else { c with xchg := c.xchg ++ [b.pack.cross p.cross] }

/-! ### Store access -/

/-- Base of the engine-store region of a data set in a context. -/
def EngCtx.regionBase (c : EngCtx) (ds : Nat) : Nat := match mget c.regions ds with | some r => r.1 | none => 0

/-- An element of a tensor in an engine store (R282, R283): stored integer, block weight, and whether its scale is 0xFF. -/
def Engine.elem (g : Engine) (base : Nat) (r : DescReg) (idx : List Nat) : Elem × Bool :=
  let d := r.desc
  let ba := (d.bitAddr idx).toNat
  let q := elemInt d.format (leNat (cread g.store (base + ba / 8) 5) / 2 ^ (ba % 8) % 2 ^ fmtBits d.format)
  if fmtBlock d.format then
    let x := (cget g.store (base + d.scaleAddr idx)).toNat
    if x = 0xFF then ((0, 0), true) else ((q, scaleWeight d.format x), false)
  else ((q, -(r.frac : Int)), false)

/-- Bits `g` of byte storage at a bit address replaced. -/
def putElemBits (m : List Host.Cell) (base ba g code : Nat) : List Host.Cell :=
  let o := base + ba / 8
  let n := leNat (cread m o 5)
  let old := n / 2 ^ (ba % 8) % 2 ^ g
  cwrite m o (leBytes 5 (n - old * 2 ^ (ba % 8) + code % 2 ^ g * 2 ^ (ba % 8)))

/-- Index of element `j` from a register's cursor. -/
def DescReg.at (r : DescReg) (j : Nat) : List Int := windowAt r.origin r.count ((r.cursor + j) % max (windowSize r.count) 1)

/-- The cursor past `n` elements (R340). -/
def DescReg.advance (r : DescReg) (n : Nat) : DescReg := { r with cursor := (r.cursor + n) % max (windowSize r.count) 1 }

/-- The tile index at a destination register's cursor (log entry 21). -/
def EngCtx.destTile (c : EngCtx) (d : Nat) : Nat :=
  match mget c.descs d with
  | some r => r.desc.tile (r.desc.clamp (r.at 0))
  | none => 0

/-- Mark tiles NONFINITE in a status plane (R283). -/
def markNonfinite (m : List Host.Cell) (plane : Nat) (tiles : List Nat) : List Host.Cell :=
  tiles.foldl (fun m k => cset m (plane + k) (cget m (plane + k) ||| 8)) m

/-- Whether an access unit takes two cycles (R343): its bytes do not form whole aligned blocks of 64 B, or it accumulates. -/
def slowUnit (addrs : List Nat) (g : Nat) (accumulate : Bool) : Bool :=
  let bytes := (addrs.flatMap (fun a => (List.range ((a % 8 + g + 7) / 8)).map (fun i => a / 8 + i))).eraseDups
  let blocks := (bytes.map (fun b => b / 64)).eraseDups
  accumulate || decide (bytes.length ≠ 64 * blocks.length)

end Sys2Proof

namespace Sys2Proof.Machine

open Sys2Proof

/-! ### Issue (R276, R280, R608) -/

/-- The context of engine `e` that issues: in RADISH the radish context stands in the live context's place (R312). -/
def State.ctxOf (s : State) (e : Nat) (c : CtxSel) : Option EngCtx :=
  let g := s.engine e
  match c, g.state with
  | .live, .live => g.live
  | .live, .radish => g.radish
  | .shadow, .spare => g.shadow
  | .shadow, .live => g.shadow
  | _, _ => none

/-- Put a context back. -/
def State.putCtx (s : State) (e : Nat) (c : CtxSel) (x : EngCtx) : State :=
  s.onEngine e (fun g => match c with
    | .live => if g.state = .radish then { g with radish := some x } else { g with live := some x }
    | .shadow => { g with shadow := some x })

/-- The context that may issue now: none while the part does not run, holds SAFE_HOLD or has saved, while the context is
absent or stalls in a WAIT. -/
def State.issuing (s : State) (e : Nat) (c : CtxSel) : Option EngCtx :=
  if ¬ s.up ∨ s.hold ∨ s.saved then none
  else match s.ctxOf e c with
    | some x => x.resume.map EngCtx.begin
    | none => none

/-- A slot that acts on its context alone. -/
def State.slotOp (s : State) (e : Nat) (c : CtxSel) (f : EngCtx → EngCtx) : State :=
  match s.issuing e c with
  | some x => (s.putCtx e c (f x)).onEngine e (fun g => { g with lastIssue := s.tl.beats })
  | none => s

/-- A vector operation: the slot counts in VECTOR_CYCLES. -/
def State.vecOp (s : State) (e : Nat) (c : CtxSel) (f : EngCtx → EngCtx) : State :=
  match s.issuing e c with
  | some _ => (s.slotOp e c f).bump64 (Reg.VECTOR_CYCLES_LO e) (Reg.VECTOR_CYCLES_HI e)
  | none => s

/-- A lane operation of two sources; `sat` marks whether its results saturate. -/
def State.laneOp (s : State) (e : Nat) (c : CtxSel) (dst a b : Nat) (f : Int → Int → Int) : State :=
  s.vecOp e c (fun x =>
    let raw := ((x.vreg a).zip (x.vreg b)).map (fun p => f p.1 p.2)
    (x.setVreg dst (raw.map sat48)).satIf (raw.any (beyond 48)))

/-- A lane of the mask. -/
def maskBit (m : BitVec 64) (i : Nat) : Bool := m.getLsbD i

/-- The bits of a list as a mask. -/
def maskOf (l : List Bool) : BitVec 64 := BitVec.ofNat 64 (l.zipIdx.foldl (fun a x => a + b2n x.1 * 2 ^ x.2) 0)

/-! ### Sequencer -/

/-- The bundle ends and the sequencer takes the next position (R279): a live bundle counts in the engine's load (R453). -/
def State.seqTo (s : State) (e : Nat) (c : CtxSel) (f : EngCtx → EngCtx) : State :=
  match s.issuing e c with
  | some _ =>
    let t := s.slotOp e c f
    if c = .live then t.onBook e (fun b => { b with issued := b.issued + 1 }) else t
  | none => s

/-- The image whose graph names the consumers of a context's units. -/
def State.graphOf (s : State) (e : Nat) (c : CtxSel) : Option Image :=
  match c with
  | .live => s.live
  | .shadow => s.imageFor (s.engine e).shadowKind

/-- Units that take an input from unit `u` in an image (R280, R435). -/
def consumers (i : Option Image) (u : Nat) : List Nat :=
  match i with
  | some x => (x.body.inputs.filter (fun (y : Nat × List Nat) => y.2.contains u)).map (fun y => y.1)
  | none => []

/-- Set tokens in a context that runs one of the units. -/
def giveTokens (us : List Nat) (m : BitVec 32) (c : Option EngCtx) : Option EngCtx :=
  c.map (fun x => if x.units.any (fun u => us.contains u) then x.give m else x)

/-- Tokens of a live producer reach the live contexts of its consumers, the shadows that run them, and the mover channels the
graph names; those of a shadow reach shadows of its kind only (R280, R314). -/
def State.signalTokens (s : State) (c : CtxSel) (k : ShadowKind) (us : List Nat) (m : BitVec 32) : State :=
  { s with engines := s.engines.map (fun g =>
      match c with
      | .live => { g with live := giveTokens us m g.live, shadow := if g.shadowKind = .arming then g.shadow else giveTokens us m g.shadow }
      | .shadow => if g.shadowKind = k then { g with shadow := giveTokens us m g.shadow } else g) }

/-- Set tokens of mover channels that take them from unit `u`. -/
def State.signalChannels (s : State) (u : Nat) (m : BitVec 32) : State :=
  match s.live with
  | some i => i.body.chanInputs.foldl (fun (t : State) (y : Nat × List Nat) =>
      if y.2.contains u then t.onMover y.1 (fun ch => { ch with tokens := ch.tokens ||| m }) else t) s
  | none => s

/-- END_PASS of a unit (R277, R278, R280): tokens signalled unless the pass is withheld; an overrun counted and reported. -/
def State.endPass (s : State) (e : Nat) (c : CtxSel) (unit cycles : Nat) : State :=
  match s.issuing e c with
  | none => s
  | some x =>
    let img := s.graphOf e c
    let bound := match imgUnit img unit with | some u => u.bound | none => 0
    let overran := decide (0 < bound ∧ 9 * bound < 8 * cycles)
    let s1 := s.seqTo e c (fun y => { y with pc := (y.pc + 1) % 8192, passRunning := false, withheld := false, signals := 0, overran := y.overran || overran })
    let s2 := s1.bump (Reg.PASSES e)
    let s3 := if overran then
        let t := s2.bump (Reg.PASS_OVERRUNS e)
        { t with place := { t.place with evalDue := true } }
      else s2
    if x.withheld ∨ (s.engine e).state = .radish then s3
    else
      let t := s3.signalTokens c (s.engine e).shadowKind (consumers img unit) x.signals
      match c with
      | .live => t.signalChannels unit x.signals
      | .shadow => t

/-! ### Requantization (R292 to R296) -/

/-- An escape (R294): counted, its event set, and captured while the capture is free. -/
def State.escape (s : State) (e : Nat) (high accSat vector : Bool) (row col tile tensor : Nat) (y : Int) : State :=
  let s1 := (s.bump (Reg.RANGE_ESCAPES e)).raiseAt Reg.ESCAPE_EVENTS Reg.ESCAPE_EVENT_EN 14 (2 ^ e)
  if s.rbit (Reg.ESC_INFO e) 31 ∧ s.rbit Reg.ESCAPE_CTRL 0 then s1
  else
    let info := 2 ^ 31 + b2n high * 2 ^ 30 + b2n accSat * 2 ^ 29 + b2n vector * 2 ^ 28 + row % 128 * 64 + col % 64
    (((((s1.rset (Reg.ESC_INFO e) (nw info)).rset (Reg.ESC_TENSOR e) (nw tensor)).rset (Reg.ESC_TILE e) (nw tile)).rset
      (Reg.ESC_VALUE e) (iw (ssat 32 y))).setPair (Reg.ESC_BEAT_LO e) (Reg.ESC_BEAT_HI e) s.tl.beat)

/-- MULT, BIAS and SHIFT of a column (R292). -/
def requantParams (store : List Host.Cell) (q : RequantEntry) (col : Nat) : Nat × Int × Nat :=
  if q.perCol then
    let n := cnat store (q.perColAddr + 8 * col) 8
    (n / 2 ^ 32 % 2 ^ 16, sval 32 n, n / 2 ^ 48 % 64)
  else (q.mult, q.bias, q.shift)

/-- Requantize a list of values (R293, R294); a result that fits neither its clamp nor its format is a free value. -/
def State.requant (s : State) (e : Nat) (q : RequantEntry) (vals : List Int) (accSat vector : Bool) (row tile : Nat) : State × OutBeat :=
  let store := (s.engine e).store
  let (lo, hi) := fmtRange q.outFormat
  let lo := if q.outFormat = 1 then -128 else lo
  let blk := fmtBlock q.outFormat
  let r := lfoldIdx (fun (a : State × List Int × Bool) col v =>
    let (mult, bias, shift) := requantParams store q col
    let y := rndDiv ((v + bias) * (mult : Int)) (2 ^ shift)
    let a1 := if q.rangeHi < y then a.1.escape e true accSat vector row col tile q.tensor y
      else if y < q.rangeLo then a.1.escape e false accSat vector row col tile q.tensor y else a.1
    let y1 := clampI q.rangeLo q.rangeHi y
    let y2 := if q.outFormat = 1 ∨ q.outFormat = 4 then min (max y1 q.clampLo) q.clampHi else y1
    let esc := decide (q.rangeHi < y ∨ y < q.rangeLo)
    if ¬ blk ∧ ¬ (lo ≤ y2 ∧ y2 ≤ hi) then (a1.took, a.2.1 ++ [clampI lo hi a1.freeInt], a.2.2 || esc)
    else (a1, a.2.1 ++ [y2], a.2.2 || esc)) (s, [], false) 0 vals
  (r.1, { vals := r.2.1, format := q.outFormat, wOut := q.wOut, raw := blk, flags := { escape := r.2.2, accSat := accSat } })

/-- DRAIN of the next row of a bank (R289). -/
def State.drainRow (s : State) (e : Nat) (c : CtxSel) (bankB : Bool) (entry d : Nat) : State :=
  match s.issuing e c with
  | none => s
  | some x =>
    let bank := (s.engine e).bank bankB
    let row := bank.drain.getD 0
    let q := mgetD x.requants entry {}
    let tile := x.destTile d
    let (s1, b) := s.requant e q (bank.row row) bank.sat false row tile
    let next := if row + 1 < bank.mode.shape.1 then some (row + 1) else none
    ((s1.slotOp e c (fun y => { y with rq := y.rq ++ [b] })).onEngine e (fun g => g.setBank bankB { g.bank bankB with drain := next }))

/-- MAC or MAC_FIRST (R287, R289): none where the bank still drains or the operands have not been loaded. -/
def State.macOp (s : State) (e : Nat) (c : CtxSel) (mode : ArrayMode) (bankB first : Bool) (k : Nat) (w : Int) : State :=
  match s.issuing e c with
  | none => s
  | some x =>
    let bank := (s.engine e).bank bankB
    let (rows, cols) := mode.shape
    let k := k / 32 * 32
    if bank.drain.isSome ∨ x.opA.length < k * rows ∨ x.opB.length < k * cols then s
    else
      let s1 := s.slotOp e c (fun y => { y with opA := y.opA.drop (k * rows), opB := y.opB.drop (k * cols) })
      let s2 := s1.onEngine e (fun g => g.setBank bankB ((g.bank bankB).mac mode first x.opA x.opB k w))
      s2.bump64 (Reg.ARRAY_CYCLES_LO e) (Reg.ARRAY_CYCLES_HI e) (if mode = .b4 then k / 2 else k)

/-! ### Load and store address generators (R339 to R343, R283, R296, R297, R334, R335) -/

/-- Count a stall cycle. -/
def State.stall (s : State) (e : Nat) (b : Bool) : State := if b then s.bump64 (Reg.STALL_CYCLES_LO e) (Reg.STALL_CYCLES_HI e) else s

/-- LOAD: the next `n` elements of a register's window, at most 512 B. -/
def State.loadOp (s : State) (e : Nat) (c : CtxSel) (d : Nat) (dest : LoadDest) (n : Nat) : State :=
  match s.issuing e c with
  | none => s
  | some x =>
    match mget x.descs d with
    | none => s
    | some r =>
      let g := s.engine e
      let n := min n (4096 / max (fmtBits r.desc.format) 1)
      let base := x.regionBase r.desc.dataSet
      let idxs := (List.range n).map (fun j => r.desc.clamp (r.at j))
      let es := idxs.map (fun i => g.elem base r i)
      let status := fun i => if r.desc.statusEn then (cget g.store (base + r.desc.statusOff + r.desc.tile i)).toNat else 0
      let inherit := idxs.any (fun i => decide (status i % 4 ≠ 0))
      let bad := ((idxs.zip es).filter (fun p => p.2.2)).map (fun p => p.1)
      let badBlocks := (bad.map (fun i => r.desc.scaleAddr i)).eraseDups.length
      let badTiles := (bad.map (fun i => r.desc.tile i)).eraseDups
      let s1 := s.slotOp e c (fun y =>
        let y1 := { y with descs := mset y.descs d (r.advance n), inherited := y.inherited || inherit }
        match dest with
        | .operandA => { y1 with opA := y1.opA ++ es.map (fun p => p.1) }
        | .operandB => { y1 with opB := y1.opB ++ es.map (fun p => p.1) }
        | .vector | .network => { y1 with loaded := es.map (fun p => p.1.1), loadedFormat := r.desc.format })
      let s2 := if badBlocks = 0 then s1 else
        let t := s1.bump (Reg.IMPORT_NONFINITE e) badBlocks
        if r.desc.statusEn then t.onEngine e (fun h => { h with store := markNonfinite h.store (base + r.desc.statusOff) badTiles }) else t
      s2.stall e (slowUnit (idxs.map (fun i => (r.desc.bitAddr i).toNat)) (fmtBits r.desc.format) false)

/-- Write one element: its code, added to the stored one under ACCUMULATE (R334). The flag says whether the sum saturated. -/
def storeElem (m : List Host.Cell) (base : Nat) (d : Desc) (idx : List Nat) (v : Int) : List Host.Cell × Bool :=
  let g := fmtBits d.format
  let ba := (d.bitAddr idx).toNat
  if d.aliasing = 1 then
    let old := sval g (leNat (cread m (base + ba / 8) 5) / 2 ^ (ba % 8))
    (putElemBits m base ba g (sbits g (ssat g (old + v))), beyond g (old + v))
  else (putElemBits m base ba g (sbits g v), false)

/-- STORE of a beat through a write descriptor: elements, scale plane and tile status (R295, R296, R340). -/
def State.storeBeat (s : State) (e : Nat) (c : CtxSel) (d : Nat) (b : OutBeat) (drop : EngCtx → EngCtx) : State :=
  match s.issuing e c with
  | none => s
  | some x =>
    match mget x.descs d with
    | none => s
    | some r =>
      if ¬ r.desc.write then s
      else
        let base := x.regionBase r.desc.dataSet
        let idxs := (List.range b.vals.length).map (fun j => r.desc.clamp (r.at j))
        let order := lsortBy (fun (p : List Nat × Int) => if r.desc.aliasing = 2 then r.desc.linear p.1 else 0) (idxs.zip b.vals)
        let w := order.foldl (fun (a : List Host.Cell × List Nat) p =>
          let t := storeElem a.1 base r.desc p.1 p.2
          (t.1, if t.2 then kinsert (r.desc.tile p.1) a.2 else a.2)) ((s.engine e).store, [])
        let scaled := lfoldIdx (fun m i x => match idxs[32 * i]? with
          | some ix => cset m (base + r.desc.scaleAddr ix) (BitVec.ofNat 8 x)
          | none => m) w.1 0 b.scales
        let tiles := (idxs.map (fun i => r.desc.tile i)).eraseDups
        let st := tiles.foldl (fun (a : List Host.Cell × List (Nat × Nat) × Nat) t =>
          let key := (r.desc.dataSet, t)
          let seen := a.2.1.contains key
          let at' := base + r.desc.statusOff + t
          let old := if seen then (cget a.1 at').toNat else 0
          let f := { b.flags with accSat := b.flags.accSat || w.2.contains t }
          let new := old ||| f.byte x.inherited
          ((if r.desc.statusEn then cset a.1 at' (BitVec.ofNat 8 new) else a.1), if seen then a.2.1 else key :: a.2.1,
            a.2.2 + b2n (f.accSat && decide (old / 2 % 2 = 0)))) (scaled, x.written, 0)
        let s1 := s.slotOp e c (fun y => drop { y with descs := mset y.descs d (r.advance b.vals.length), written := st.2.1 })
        let s2 := (s1.onEngine e (fun g => { g with store := st.1 })).bump (Reg.ACC_SATURATIONS e) st.2.2
        s2.stall e (slowUnit (idxs.map (fun i => (r.desc.bitAddr i).toNat)) (fmtBits r.desc.format) (decide (r.desc.aliasing = 1)))

/-- Lanes as a beat for a format: a lane that does not fit is a free value. -/
def State.laneBeat (s : State) (lanes : List Int) (f : Nat) (flags : TileFlags) : State × OutBeat :=
  let g := fmtBits f
  let r := lanes.foldl (fun (a : State × List Int) v =>
    if beyond g v then (a.1.took, a.2 ++ [sval g (sbits g a.1.freeInt)]) else (a.1, a.2 ++ [v])) (s, [])
  (r.1, { vals := r.2, format := f, flags := flags })

/-! ### Root operations -/

/-- A root operation on lane `l` (R374, R377, R380). -/
def State.rootOp (s : State) (e : Nat) (c : CtxSel) (fmt dst l : Nat) (srcs : List Nat) (f : RootFmt → List Int → RootOut) : State :=
  s.slotOp e c (fun x =>
    let ops := srcs.map (fun r => rootOperand (lgetD (x.vreg r) l 0))
    let o := f (mgetD x.rootFmts fmt {}) (ops.map (fun p => p.1))
    { x.setVreg dst (lput (x.vreg dst) l o.val) with
      root := { x.root with sat := x.root.sat || o.sat || ops.any (fun p => p.2), domain := x.root.domain || o.domain } })

/-- PIVOT (R379, R380). -/
def State.pivotOp (s : State) (e : Nat) (c : CtxSel) (fmt dst a l : Nat) : State :=
  s.slotOp e c (fun x =>
    let (v, satIn) := rootOperand (lgetD (x.vreg a) l 0)
    let fm := mgetD x.rootFmts fmt {}
    let bit : BitVec 64 := BitVec.ofNat 64 (2 ^ l)
    let n := x.root.pivots
    if v ≤ fm.eps then
      let rs := { x.root with sat := x.root.sat || satIn, pivots := n + 1, tiny := true,
                              index := if x.root.tiny then x.root.index else n, value := if x.root.tiny then x.root.value else v }
      { x.setVreg dst (lput (x.vreg dst) l 0) with mask := x.mask ||| bit, root := rs }
    else
      let o := rootRsqrt fm v
      { x.setVreg dst (lput (x.vreg dst) l o.val) with
        mask := x.mask &&& ~~~ bit, root := { x.root with sat := x.root.sat || satIn || o.sat, pivots := n + 1 } })

/-- Whether a mover capture may be taken: while it is free, or always under CAPTURE_FIRST 0 (R370). -/
def State.captureFree (s : State) (info : Nat) : Bool := !s.rbit info 31 || !s.rbit Reg.MOVER_CFG 0

/-- Count and capture a refused descriptor (R337). `origin` is 0 for the image loader, 1 a host command, 2 an engine context. -/
def State.descRefused (s : State) (origin index reason : Nat) : State :=
  let s1 := (s.bump Reg.DESC_REFUSED).raise Reg.MOVER_EVENTS 0
  if s.captureFree Reg.REFUSAL_INFO then s1.rset Reg.REFUSAL_INFO (nw (2 ^ 31 + origin * 2 ^ 24 + reason * 2 ^ 16 + index % 4096)) else s1

end Sys2Proof.Machine
end

