-- ==== Sys2Proof/Machine/AccessOps.lean ====
section
/-! DEFINITION. Firewall regions (R570 to R575), host windows and completions (R631 to R633, R650, R651), the routing of remote
writes (R554), and byte accesses of the mover and of the peer ports to the storage behind a handle (R324, R359, R363, R364). -/

namespace Sys2Proof.Machine

open Sys2Proof

/-! ### Firewall -/

/-- A firewall region (R571). -/
structure FwRegion where
  on : Bool
  base : Nat
  last : Nat
  read : Nat
  write : Nat

/-- Region `r` of target `t`, from its registers. -/
def State.fwRegion (s : State) (t r : Nat) : FwRegion :=
  let o := 0xE04000 + t * 0x800 + r * 0x20
  let w := fun i => (s.rget (o + 4 * i)).toNat
  { on := nbit (w 1) 31, base := w 0 / 4096 * 4096 + w 1 % 256 * 2 ^ 32, last := w 2 / 4096 * 4096 + w 3 % 256 * 2 ^ 32 + 4095
    read := w 4 + w 5 * 2 ^ 32, write := w 6 + w 7 * 2 ^ 32 }

/-- Whether byte `a` of target `t` is open to an initiator (R572). `fixed` says what the fixed regions of DRAM and COMMONS, whose
addresses the spec does not give, say of the byte (log entry 10): none where none covers it. -/
def State.fwByte (s : State) (t : Nat) (write : Bool) (ini a : Nat) (fixed : Option Bool) : Bool :=
  let rs := ((List.range 64).map (s.fwRegion t)).filter (fun r => r.on && decide (r.base ≤ a ∧ a ≤ r.last))
  (fixed.isSome || !rs.isEmpty) && fixed.getD true && rs.all (fun r => (if write then r.write else r.read).testBit ini)

/-- Whether `n` bytes from `a` of a target with mapped regions are open to an initiator. -/
def State.fwOpen (s : State) (t : Nat) (write : Bool) (ini a n : Nat) : Bool :=
  (List.range n).all (fun i => s.fwByte t write ini (a + i) none)

/-- Whether an initiator is the graph side of the mover or a remote write. -/
def fabricIni (ini : Nat) : Bool := decide (ini = 0x28 ∨ (0x30 ≤ ini ∧ ini ≤ 0x35))

/-! ### Completions -/

/-- Entries of a function's completion ring. -/
def State.cplSize (s : State) (f : Nat) : Nat := 2 ^ (s.rget (hqReg f Reg.CPL_SIZE)).toNat

/-- Whether the completion ring of a function counts as full (R637, R651). -/
def State.cplFull (s : State) (f : Nat) : Bool :=
  let tail := (s.rget (hqReg f Reg.CPL_TAIL)).toNat
  let head := (s.rget (hqReg f Reg.CPL_HEAD)).toNat
  !s.rbit (hqReg f Reg.CPL_CTRL) 0 || decide (s.cplSize f ≤ (tail + 2 ^ 32 - head) % 2 ^ 32 + (s.fn f).taken.length)

/-- The 32 bytes of a completion entry (R650). -/
def cplBytes (tag opcode status beat epoch info0 info1 : Nat) (phase : Bool) : List Byte :=
  leBytes 32 (b2n phase + tag % 512 * 2 ^ 14 + status * 2 ^ 32 + opcode * 2 ^ 40 + epoch * 2 ^ 48 + beat % 2 ^ 64 * 2 ^ 64 +
    info0 % 2 ^ 64 * 2 ^ 128 + info1 % 2 ^ 64 * 2 ^ 192)

/-- Complete the taken item `id` of function `f` (R650, R651): nothing where it is no longer outstanding (R629). -/
def State.complete (s : State) (f id status info0 info1 : Nat) : State :=
  match (s.fn f).taken.find? (fun t => decide (t.id = id)) with
  | none => s
  | some t =>
    let tail := (s.rget (hqReg f Reg.CPL_TAIL)).toNat
    let base := s.rpair (hqReg f Reg.CPL_BASE_LO) (hqReg f Reg.CPL_BASE_HI)
    let phase := decide (tail / s.cplSize f % 2 = 0)
    let s1 := s.hwrite (base + tail % s.cplSize f * 32) (cplBytes t.tag t.opcode status s.tl.beat s.tl.epoch.toNat info0 info1 phase)
    let s2 := (s1.rset (hqReg f Reg.CPL_TAIL) (nw (tail + 1))).onFn f (fun h => { h with taken := h.taken.filter (fun x => x.id ≠ id) })
    let s3 := s2.rset (hqReg f Reg.HQ_EVENTS) (s2.rget (hqReg f Reg.HQ_EVENTS) ||| 1)
    if s3.rbit (hqReg f Reg.HQ_EVENT_EN) 0 then s3.msix f 0 else s3

/-! ### Places -/

/-- Where the bytes behind a handle lie: an engine's store region, a data set, a host window, or nowhere. -/
inductive Place where
  | engine (e base size : Nat)
  | set (space num size : Nat)
  | window (fn ix : Nat)
  | nowhere

/-- Who accesses: initiator ID, mover channel, and whether the accesses are those of a privileged channel (R363). -/
structure Agent where
  ini : Nat
  ch : Nat
  priv : Bool

/-- The function a host DMA channel serves (R646). -/
def chanFn (ch : Nat) : Nat := if 30 ≤ ch then 1 else 0

/-- The agent of a mover channel. -/
def agentOf (ch : Nat) : Agent :=
  if ch < 28 then { ini := 0x28, ch := ch, priv := false } else { ini := if chanFn ch = 1 then 0x08 else 0x09, ch := ch, priv := true }

/-- The engine whose live context holds a data set of SPACE 0. -/
def State.regionOf (s : State) (ds : Nat) : Option (Nat × Nat × Nat) :=
  engines20.findSome? (fun e => match (s.engine e).live with
    | some c => (mget c.regions ds).map (fun x => (e, x.1, x.2))
    | none => none)

/-- The storage behind a descriptor (R324, R632). -/
def State.placeOf (s : State) (d : DescEntry) : Place :=
  let n := d.desc.dataSet
  match d.desc.space with
  | 0 => match s.regionOf n with | some (e, b, z) => .engine e b z | none => .nowhere
  | 3 => match d.owner with | .pf0 => .window 0 (n % 256) | .pf1 => .window 1 (n % 256) | .loader => .nowhere
  | sp => match mget s.data (sp * 65536 + n) with | some x => .set sp n x.size | none => .nowhere

/-- What the fixed regions grant an initiator on a data set of DRAM or COMMONS (R574). -/
def fixedGrant (write : Bool) (space num ini : Nat) : Option Bool :=
  if space = 1 then some (fabricIni ini)
  else if num = 0xFFFE then some (if write then decide (ini = 8) else decide (ini = 1 ∨ ini = 2 ∨ ini = 8))
  else some (fabricIni ini || decide (ini = 8 ∨ ini = 9))

/-- Firewall target of a place and the byte address of its byte `o` there. -/
def State.fwAddr (s : State) (p : Place) (o : Nat) : Nat × Nat :=
  let k := match s.live with | some i => i.k | none => 0
  match p with
  | .engine e b _ => (3, e * 0x400000 + b + o)
  | .set 1 n _ => (2, Config.commonsAddress n o)
  | .set _ n _ => (1, Config.dramAddress k n o)
  | _ => (0, 0)

/-- Whether `n` bytes from byte `o` of a place are open to an initiator (R572, R574). -/
def State.fwPlace (s : State) (p : Place) (write : Bool) (ini o n : Nat) : Bool :=
  match p with
  | .set sp num _ => (List.range n).all (fun i =>
      let x := s.fwAddr p (o + i)
      s.fwByte x.1 write ini x.2 (fixedGrant write sp num ini))
  | .engine _ _ _ => let x := s.fwAddr p o; s.fwOpen x.1 write ini x.2 n
  | _ => true

/-- The window an access may use, with the direction enabled (R633, R647). -/
def State.winFor (s : State) (f ix : Nat) (write : Bool) : Option HostWindow :=
  match mget (s.fn f).windows ix with
  | some w => if (s.fn f).unmapping.contains ix ∨ ¬ (if write then w.write else w.read) then none else some w
  | none => none

/-- Whether translation finds `n` bytes from byte `o` of a place. -/
def State.inPlace (s : State) (p : Place) (write : Bool) (o : Int) (n : Nat) : Bool :=
  let room := match p with
    | .engine _ _ z => z
    | .set _ _ z => z
    | .window f ix => match s.winFor f ix write with | some w => w.pages * 4096 | none => 0
    | .nowhere => 0
  decide (0 ≤ o ∧ o + (n : Int) ≤ (room : Int))

/-- Count and capture a translation or protection fault (R364). -/
def State.xlateCapture (s : State) (write : Bool) (ini ch addr : Nat) : State :=
  let s1 := (s.bump Reg.XLATE_FAULTS).raise Reg.MOVER_EVENTS 2
  if s.captureFree Reg.XLATE_INFO then
    (s1.rset Reg.XLATE_INFO (nw (2 ^ 31 + b2n write * 2 ^ 30 + ini * 2 ^ 24 + ch))).setPair Reg.XLATE_ADDR_LO Reg.XLATE_ADDR_HI addr
  else s1

/-- A translation or protection fault of a privileged channel (R364). -/
def State.xlateFault (s : State) (a : Agent) (write : Bool) (addr : Nat) : State :=
  let s2 := s.xlateCapture write a.ini a.ch addr
  if 0x30 ≤ a.ini ∨ a.ini = 0x28 then s2
  else (s2.hqRaise (chanFn a.ch) 5 3).onMover a.ch (fun c => { c with running := c.running.map (fun j => { j with faulted := true }) })

/-- Judge an access: the state after what a denial or a fault records, and whether the access goes on. -/
def State.judgeAccess (s : State) (a : Agent) (p : Place) (write : Bool) (o : Int) (n : Nat) : State × Bool :=
  if ¬ s.inPlace p write o n then (if a.priv then s.xlateFault a write (sbits 64 o) else s, false)
  else if s.fwPlace p write a.ini o.toNat n then (s, true)
  else
    let x := s.fwAddr p o.toNat
    let s1 := s.deny write a.ini x.1 x.2
    (if a.priv then s1.xlateFault a write (sbits 64 o) else s1, false)

/-- The bytes of a place, as they stand. -/
def State.placeRead (s : State) (p : Place) (o n : Nat) : List Byte :=
  match p with
  | .engine e b _ => cread (s.engine e).store (b + o) n
  | .set sp num _ => s.dread sp num o n
  | .window f ix => match mget (s.fn f).windows ix with
    | some w => (List.range n).map (fun i => s.hread (w.base + o + i))
    | none => List.replicate n 0
  | .nowhere => List.replicate n 0

/-- Write bytes of a place. -/
def State.placeWrite (s : State) (p : Place) (o : Nat) (b : List Byte) : State :=
  match p with
  | .engine e base _ => s.onEngine e (fun g => { g with store := cwrite g.store (base + o) b })
  | .set sp num _ => s.dwrite sp num o b
  | .window f ix => match mget (s.fn f).windows ix with
    | some w => s.hwrite (w.base + o) b
    | none => s
  | .nowhere => s

/-- Read through translation and protection: zeros where a graph channel is denied, none where a privileged one is. -/
def State.readVia (s : State) (a : Agent) (p : Place) (o : Int) (n : Nat) : State × Option (List Byte) :=
  match s.judgeAccess a p false o n with
  | (s1, true) => (s1, some (s1.placeRead p o.toNat n))
  | (s1, false) => (s1, if a.priv then none else some (List.replicate n 0))

/-- Write through translation and protection. -/
def State.writeVia (s : State) (a : Agent) (p : Place) (o : Int) (b : List Byte) : State :=
  match s.judgeAccess a p true o b.length with
  | (s1, true) => s1.placeWrite p o.toNat b
  | (s1, false) => s1

/-! ### Remote writes -/

/-- The part's chip coordinate as a number. -/
def State.coordNat (s : State) : Option Nat := s.peers.coord.map (fun c => c.toNat)

/-- The port on the way to another chip (R554). -/
def nextHop (own dest : Nat) : Option Nat :=
  let d := fun ax => (coordAxis own ax, coordAxis dest ax)
  [0, 1, 2].findSome? (fun ax =>
    let (a, b) := d ax
    if a < b then some (2 * ax) else if b < a then some (2 * ax + 1) else none)

/-- Send or relay a WRITE toward its owner (R537, R554): false where the next hop is not up. -/
def State.sendWrite (s : State) (dest : Nat) (b : WriteBody) : State × Bool :=
  match s.coordNat with
  | none => (s, false)
  | some own =>
    match nextHop own dest with
    | none => (s, false)
    | some p =>
      if (s.peer p).state = .up then (s.queueFlits p 2 [.write dest b], true)
      else ((s.bump Reg.RELAY_DROPS).raise Reg.PEER_EVENTS 2, false)

end Sys2Proof.Machine
end

