-- ==== Sys2Proof/Machine/SafetyOps.lean ====
section
/-! DEFINITION. Conditions, safety states, SAFE_HOLD and the heartbeat (R588, R598 to R612). -/

namespace Sys2Proof

/-- The code of a safety state (R623). -/
def SafetyState.code : SafetyState → Nat
  | .normal => 0
  | .degraded => 1
  | .unverified => 2
  | .safeHold => 3

end Sys2Proof

namespace Sys2Proof.Machine

open Sys2Proof

/-- `s` with its safety state changed. -/
def State.onSafety (s : State) (f : Safety → Safety) : State := { s with safety := f s.safety }

/-- Declaration slots in use (R599). -/
def State.declCount (s : State) : Nat := (s.safety.decls.filter Option.isSome).length

/-- The condition CHECKER (R598 to R600). -/
def State.condChecker (s : State) : Bool :=
  decide (4 ≤ s.safety.notCompared ∨ s.declCount = 8) || s.safety.overflow.isSome ||
    s.safety.decls.any (fun d => match d with | some x => decide (x.bornAt + 64 < s.tl.frames) | none => false)

/-- The condition TIMING (R588): more than ERROR_LIMIT errors in the last ERROR_WINDOW frames. -/
def State.condTiming (s : State) : Bool :=
  decide (s.rbits Reg.ERROR_CFG 7 0 < (s.safety.errors.filter (fun f => decide (s.tl.frames < f + s.rbits Reg.ERROR_CFG 31 16))).length)

/-- The condition TIME (R606): in service, not LOCKED, SOURCE not FREE. -/
def State.condTime (s : State) : Bool :=
  s.inServ && decide (s.tl.servo ≠ .locked ∧ s.rbits Reg.SERVO_CTRL 2 0 ≠ 5)

/-- The condition SPARES_EMPTY (R605), judged once boot has tested the engines (R705); an engine that runs a radish is
still a spare (log entry 58). -/
def State.condSpares (s : State) : Bool :=
  decide (8 ≤ s.boot.step) &&
    (!s.engines.any (fun g => decide (g.state = .spare ∨ g.state = .radish)) || !s.mem.channels.any (fun c => decide (c.state = .spare)) ||
      !s.roots.any (fun r => decide (r.state = .standby)))

/-- Whether something happened within the last 64 frames (R605). -/
def State.recent (s : State) (f : Option Nat) : Bool :=
  match f with
  | some x => decide (s.tl.frames < x + 64)
  | none => false

/-- CONDITIONS (R623). -/
def State.conditions (s : State) : Nat :=
  b2n (!s.inServ) * 2 ^ 15 + b2n s.place.coverage * 2 ^ 14 + b2n s.condChecker * 2 ^ 13 + b2n s.condTiming * 2 ^ 12 +
    b2n s.safety.keeperBad * 2 ^ 7 + b2n s.condSpares * 2 ^ 6 + b2n s.condTime * 2 ^ 5 + b2n (s.recent s.safety.lastError) * 2 ^ 4 +
    b2n (s.recent s.safety.lastDegraded) * 2 ^ 3

/-- The state that the conditions give (R605). -/
def stateOf (cond : Nat) : SafetyState :=
  if 2 ^ 12 ≤ cond then .unverified else if 0 < cond then .degraded else .normal

/-- The STATE record (R613). -/
def State.logState (s : State) (new old : SafetyState) : State :=
  s.logRec 4 0 0 0 (SafetyState.code new + SafetyState.code old * 2 ^ 8 + s.conditions * 2 ^ 16 + s.safety.holdCause * 2 ^ 32)

/-- The heartbeat stops: both pins low, HEARTBEAT_STOPPED (R610). -/
def State.stopHeartbeat (s : State) : State :=
  let s1 := s.onSafety (fun x => { x with hbRun := false, hbStopped := true, resumeAsked := false, safeA := false, safeB := false })
  (s1.bump Reg.HEARTBEAT_STOPS).raise Reg.SAFETY_EVENTS 3

/-- Entry into SAFE_HOLD (R607, R608): heartbeat, CLOSE with REASON 1, the slot, the STATE record. -/
def State.enterHold (s : State) (cause : Nat) : State :=
  if s.hold then s
  else
    let old := s.safety.state
    let s1 := (if s.safety.hbStopped then s else s.stopHeartbeat).onSafety (fun x =>
      { x with state := .safeHold, holdCause := cause, unvSince := none })
    let s2 := (s1.close 1).discardSlot
    ((s2.logState .safeHold old).raise Reg.SAFETY_EVENTS 2).raise Reg.SAFETY_EVENTS 0

/-- The heartbeat starts or resumes where R609 and R611 allow it. -/
def State.startHeartbeat (s : State) : State :=
  let ok := s.inServ && decide (s.safety.state = .normal ∨ s.safety.state = .degraded)
  if ok ∧ ¬ s.safety.hbRun ∧ (¬ s.safety.hbStopped ∨ s.safety.resumeAsked) then
    s.onSafety (fun x => { x with hbRun := true, hbStopped := false, resumeAsked := false, safeA := true, safeB := false })
  else s.onSafety (fun x => { x with resumeAsked := false })

/-- The safety state re-evaluated (R605), with the heartbeat's start (R609) and UNVERIFIED_START (R268). SAFE_HOLD stays (R607). -/
def State.evalSafety (s : State) : State :=
  if s.hold then s
  else
    let old := s.safety.state
    let new := stateOf s.conditions
    if new = old then s.startHeartbeat
    else
      let s1 := s.onSafety (fun x => { x with
        state := new, unvSince := if new = .unverified ∧ s.inServ then some s.tl.beats else none })
      let s2 := (s1.logState new old).raise Reg.SAFETY_EVENTS 0
      let s3 := if new = .unverified then s2.raise Reg.SAFETY_EVENTS 1 else s2
      (if s.unvBox.isNone ∧ s3.unvBox.isSome then s3.raise Reg.COMMIT_EVENTS 6 else s3).startHeartbeat

/-- Frames continuously UNVERIFIED (R623). -/
def State.unvFrames (s : State) : Nat :=
  match s.safety.unvSince with
  | some b => min 255 ((s.tl.beats - b) / 1024)
  | none => 0

/-- FAULT_N (R612). -/
def State.faultN (s : State) : Bool := s.pwrOk && (!s.inServ || s.hold || s.safety.hbStopped)

/-- A hard-fail signature of a block that is not a channel (R580). -/
def State.hardFail (s : State) (cause : Nat) : State := s.enterHold cause

/-- A keeper write fails (R584). -/
def State.keeperFail (s : State) : State :=
  ((s.onSafety (fun x => { x with keeperBad := true })).bump Reg.KEEPER_WRITE_FAILS).raise Reg.SAFETY_EVENTS 11

end Sys2Proof.Machine
end

