-- ==== Sys2Proof/Machine/TimeOps.lean ====
section
/-! DEFINITION. Fusion time, the servo, steps and the clock roots (R37 to R42, R62 to R100). Times in units of 2^-16 ns. -/

namespace Sys2Proof

/-- Units of 2^-16 ns in a beat of 1000 ns. -/
def beatUnits : Int := 65536000

/-- Units of 2^-16 ns in a second. -/
def secUnits : Int := 65536000000000

/-- SLEW_TERM's bound, 500 ppm in units of 2^-40 (R64). -/
def slewLimit : Int := 549755814

/-- The truncated product of R63 for a stamp of `c8` eighths of a count: c × (10/9 ns) × (1 + RATE). -/
def timeProduct (rate : Int) (c8 : Nat) : Int :=
  ((c8 : Int) * 655360 * (1099511627776 + rate)) / (72 * 1099511627776)

/-- The 96 bits of a time or offset (R14, R63). -/
def timeBits (v : Int) : Nat :=
  let sec := v / secUnits
  let rest := (v % secUnits).toNat
  sbits 48 sec * 2 ^ 48 + rest / 65536 * 2 ^ 16 + rest % 65536

/-- The time that 96 bits hold (R14). -/
def bitsTime (n : Nat) : Int := sval 48 (n / 2 ^ 48) * secUnits + ((n / 2 ^ 16 % 2 ^ 32 : Nat) : Int) * 65536 + ((n % 2 ^ 16 : Nat) : Int)

/-- Entry of the OFFSET and RATE history in effect at a counter value (R67). -/
def histAt (h : List TimeEntry) (count : Nat) : Option TimeEntry := h.find? (fun e => decide (e.count ≤ count))

end Sys2Proof

namespace Sys2Proof.Machine

open Sys2Proof

/-- `s` with its timeline changed. -/
def State.onTl (s : State) (f : Timeline → Timeline) : State := { s with tl := f s.tl }

/-- F at a counter value, under the OFFSET and RATE now in effect (R63). -/
def State.fusion (s : State) : Int := s.tl.offset + timeProduct s.tl.rate (s.now * 8)

/-- A stamp of `c8` eighths of a count as fusion time (R67): none where it is older than the values kept. -/
def State.stampTime (s : State) (c8 : Nat) : State × Option Int :=
  match histAt s.tl.hist (c8 / 8) with
  | some e => (s, some (e.offset + timeProduct e.rate c8))
  | none => ((s.bump Reg.STALE_STAMPS).raise Reg.TIME_EVENTS 11, none)

/-- The residual of CATCH_UP at the present count (R86). -/
def State.residualNow (s : State) : Int :=
  if s.tl.servo = .catchUp ∧ s.tl.slewEff = slewLimit then
    max 0 (s.tl.residual - (((s.now - s.tl.residualFrom : Nat) : Int) * 655360 * slewLimit) / (9 * 1099511627776))
  else max 0 s.tl.residual

/-- Whether the part is the time root (R75, R76): depth 0. -/
def State.isRoot (s : State) : Bool := s.up && decide (s.tl.depth = 0)

/-- STRAP_9, TIME_ROLE (R74). -/
def State.candidate (s : State) : Bool := s.boot.straps.getLsbD 9

/-- SOURCE_EFF (R76, R109). -/
def State.sourceEff (s : State) : Nat :=
  let src := s.rbits Reg.SERVO_CTRL 2 0
  if src ≠ 0 then src
  else if ¬ s.isRoot then 3
  else if ¬ s.candidate then 5
  else if s.rbit Reg.PPS_CTRL 0 then 2 else 1

/-- A new OFFSET from the present count on (R67), before service: the beat index follows F. -/
def State.jumpOffset (s : State) (off : Int) : State :=
  let s1 := s.onTl (fun t => { t with
    offset := off, hist := { ord := t.beats, count := t.count.toNat, offset := off, rate := t.rate } :: t.hist })
  s1.onTl (fun t => { t with beat := (s1.fusion / beatUnits).toNat })

/-- The number of a new epoch: the keeper's counter incremented (R96). -/
def State.newEpoch (s : State) : State × Nat :=
  let n := s.keeper.epochCounter + 1
  ({ s with keeper := { s.keeper with epochCounter := n } }, n % 65536)

/-- A step becomes pending (R90 to R93): the servo freezes. -/
def State.pendStep (s : State) (beats frame epoch : Nat) (residual : Int) : State :=
  s.onTl (fun t => { t with step := some ⟨beats, frame, epoch, residual⟩, servo := .stepPending, slewTerm := 0, confirm := 0, residual := 0 })

/-- `schedule_step` of R85: a whole number of beats, STEP_LEAD frames ahead (R90, R91). -/
def State.scheduleStep (s : State) (e : Int) : State :=
  let n := cdiv e.natAbs 65536000
  let (s1, ep) := s.newEpoch
  s1.pendStep n (s1.frame + s1.rbits Reg.STEP_CTRL 13 8) ep ((n : Int) * beatUnits - (e.natAbs : Int))

/-- FREQ_LIMIT in units of 2^-40 (R64, R109): FREQ_LIMIT × 10 ppm, to the nearest unit. -/
def State.freqLimit (s : State) : Int :=
  (((s.rbits Reg.SERVO_CTRL 31 24 * 10 * 1099511627776 + 500000) / 1000000 : Nat) : Int)

/-- LOCK_THRESHOLD in units of 2^-16 ns. -/
def State.lockThreshold (s : State) : Int := ((s.rbits Reg.LOCK_CTRL 23 0 * 16384 : Nat) : Int)

/-- The runs of R87, and the change of state that a run completes in ACQUIRE or LOCKED. `before` is the state before
the measurement. -/
def State.runLocks (s : State) (before : Servo) (e : Int) : State :=
  let n := s.rbits Reg.LOCK_CTRL 31 24
  let a : Int := e.natAbs
  let inRun := if a ≤ s.lockThreshold then s.tl.inRun + 1 else 0
  let outRun := if 4 * s.lockThreshold < a then s.tl.outRun + 1 else 0
  let s1 := s.onTl (fun t => { t with inRun := inRun, outRun := outRun })
  if before = .acquire ∧ s.tl.servo = .acquire ∧ n ≤ inRun then (s1.onTl (fun t => { t with servo := .locked })).raise Reg.TIME_EVENTS 1
  else if before = .locked ∧ s.tl.servo = .locked ∧ n ≤ outRun then
    ((s1.onTl (fun t => { t with servo := .acquire })).bump Reg.LOCK_LOSS_COUNT).raise Reg.TIME_EVENTS 2
  else s1

/-- A measurement beyond the step threshold (R85). -/
def State.outlier (s : State) (e : Int) : State :=
  let s0 := (s.bump Reg.OUTLIER_COUNT).raise Reg.TIME_EVENTS 4
  let agree : Int := ((s.rbits Reg.STEP_CTRL 31 16 : Nat) : Int) * beatUnits
  let confirm := if 0 < s.tl.confirm ∧ agree < ((e - s.tl.firstE).natAbs : Int) then 0 else s.tl.confirm
  let s1 := s0.onTl (fun t => { t with firstE := if confirm = 0 then e else t.firstE, confirm := confirm + 1 })
  if s1.tl.confirm < s.rbits Reg.STEP_CTRL 3 0 then s1
  else
    let s2 := s1.onTl (fun t => { t with confirm := 0 })
    if ¬ s.inServ then (s2.onTl (fun t => { t with freqTerm := 0, slewTerm := 0 })).jumpOffset (s2.tl.offset + e)
    else if e < 0 then s2.scheduleStep e
    else s2.onTl (fun t => { t with residual := e, residualFrom := t.count.toNat, slewTerm := slewLimit, servo := .catchUp })

/-- An accepted measurement's steering (R85). -/
def State.steer (s : State) (e : Int) : State :=
  let fl := s.freqLimit
  let ki := s.rbits Reg.SERVO_CTRL 21 16
  let kp := s.rbits Reg.SERVO_CTRL 13 8
  s.onTl (fun t => { t with
    freqTerm := clampI (-fl) fl (t.freqTerm + ishr (ishl e 24) ki)
    slewTerm := clampI (-slewLimit) slewLimit (ishr (ishl e 24) kp) })

/-- One measurement treated by the servo (R85, R87). -/
def State.measure (s : State) (e : Int) : State :=
  if s.tl.servo = .stepPending then s
  else
    let before := s.tl.servo
    let s0 := s.setPair Reg.LAST_ERROR_LO Reg.LAST_ERROR_HI (sbits 64 e)
    let threshold : Int := ((s.rget Reg.STEP_THRESHOLD).toNat : Int) * 65536
    if threshold < (e.natAbs : Int) then (s0.outlier e).runLocks before e
    else
      let s1 := ((s0.bump Reg.MEAS_COUNT).onTl (fun t => { t with confirm := 0, holdBase := t.frames }))
      if before = .catchUp ∧ s.lockThreshold < e then
        (s1.onTl (fun t => { t with residual := e, residualFrom := t.count.toNat })).runLocks before e
      else
        let s2 := if before = .catchUp then s1.onTl (fun t => { t with servo := .acquire, residual := 0 }) else s1
        let s3 := s2.steer e
        let s4 := if before = .free ∨ before = .holdover then s3.onTl (fun t => { t with servo := .acquire }) else s3
        s4.runLocks before e

/-- Form a measurement: the servo takes it by SERVO_MEASUREMENT. -/
def State.formMeasurement (s : State) (e : Int) : State := s.onTl (fun t => { t with formed := t.formed ++ [e] })

/-- A measurement of the PTP receiver (R81, R83): with PPS_IN, its phase comes from the PPS_IN edge. -/
def State.ptpMeasurement (s : State) (e : Int) : State :=
  match s.sourceEff, s.tl.ppsFrac with
  | 1, _ => s.formMeasurement e
  | 2, none => s.formMeasurement e
  | 2, some f => s.formMeasurement ((f + e + secUnits / 2) / secUnits * secUnits - f)
  | _, _ => s

/-- SNAP (R69). -/
def State.snapTime (s : State) : State :=
  let s1 := s.setPair Reg.SNAP_COUNT_LO Reg.SNAP_COUNT_HI s.now
  let s2 := s1.setWords Reg.SNAP_TIME_LO 3 (timeBits s.fusion)
  (s2.setPair Reg.SNAP_BEAT_LO Reg.SNAP_BEAT_HI s.tl.beat).rset Reg.SNAP_EPOCH (nw s.tl.epoch.toNat)

/-- The time in TIME_SET (R104). -/
def State.timeSet (s : State) : Int :=
  bitsTime ((s.rget Reg.TIME_SET_LO).toNat + (s.rget Reg.TIME_SET_MID).toNat * 2 ^ 32 + (s.rget Reg.TIME_SET_HI).toNat * 2 ^ 64)

/-- TIME_SET_GO (R84, R104). -/
def State.timeSetAct (s : State) : State :=
  if ¬ s.inServ then s.jumpOffset (s.timeSet - timeProduct s.tl.rate (s.now * 8))
  else if s.rbits Reg.SERVO_CTRL 2 0 = 4 then s.formMeasurement (s.timeSet - s.fusion)
  else s

/-- The TIME_CLK edge at which F reaches the next beat (R63, R70). -/
def State.nextEdge (s : State) : Nat :=
  let target := ((s.tl.beat : Int) + 1) * beatUnits - s.tl.offset
  let num := (target * 9 * 1099511627776).toNat
  max s.now (cdiv num (655360 * (1099511627776 + s.tl.rate).toNat))

/-- Time moves to the next beat boundary (R65, R67, R70): a new RATE takes effect and OFFSET keeps F continuous; the
values are kept for 65,536 beats. -/
def State.advanceBeat (s : State) : State :=
  let c := s.nextEdge
  let rate := s.tl.freqTerm + s.tl.slewTerm
  let off := s.tl.offset + timeProduct s.tl.rate (c * 8) - timeProduct rate (c * 8)
  let s0 := s.onTl (fun t => { t with count := BitVec.ofNat 64 c })
  let res := s0.residualNow
  s0.onTl (fun t =>
    let n := t.beats + 1
    { t with
      beats := n, beat := t.beat + 1, rate := rate, offset := off, slewEff := t.slewTerm
      residual := if t.servo = .catchUp then res else t.residual, residualFrom := c
      hist := { ord := n, count := c, offset := off, rate := rate } :: t.hist.filter (fun e => decide (n ≤ e.ord + 65536))
      frameDue := decide ((t.beat + 1) % 1024 = 0)
      ppsOut := t.ppsOut && decide (c < t.ppsOutRise + s.rbits Reg.PPS_CTRL 31 8 * cyclesUs) })

/-- Whether a time comes before the first beat of the current epoch (R98). -/
def State.preEpoch (s : State) (t : Int) : Bool := decide (t < (s.tl.epochFirst : Int) * beatUnits)

/-- A drop under R98. -/
def State.preEpochDrop (s : State) : State := (s.bump Reg.PRE_EPOCH_DROPS).raise Reg.TIME_EVENTS 6

/-! ### Clock roots -/

/-- Root PLL `r`. -/
def State.root (s : State) (r : Nat) : RootPll := lgetD s.roots r {}

/-- `s` with root PLL `r` changed. -/
def State.onRoot (s : State) (r : Nat) (f : RootPll → RootPll) : State := { s with roots := lmod s.roots r f }

/-- Neither root PLL runs (R42). -/
def State.checkRoots (s : State) : State := if s.roots.any (fun r => decide (r.state = .running)) then s else s.enterHold 1

/-- Retire a root (R41). -/
def State.retireRoot (s : State) (r : Nat) : State :=
  if (s.root r).state = .retired then s
  else
    let o := 1 - r
    let repl := if (s.root o).state = .running ∨ (s.root o).state = .standby then some o else none
    ((s.onRoot r (fun p => { p with state := .retired })).declare 6 r 0 repl false).checkRoots

/-- The running root fails (R38, R39, R41, R42). -/
def State.switchRoot (s : State) : State :=
  match s.roots.findIdx? (fun r => decide (r.state = .running)) with
  | none => s
  | some r =>
    let recent := s.now :: (s.root r).switches.filter (fun t => decide (s.now < t + cyclesS))
    let s0 := s.onRoot r (fun p => { p with state := .relocking, failedAt := s.now, switches := recent })
    let s1 := s0.logRec 1 6 r 0 (min 255 recent.length)
    let s2 :=
      if (s.root (1 - r)).state = .standby then
        let d := s.freeInt % 3 - 1
        let t := ((s1.onRoot (1 - r) (fun p => { p with state := .running })).took).raise Reg.TIME_EVENTS 9
        t.onTl (fun x => { x with count := BitVec.ofNat 64 (((s.now : Int) + d).toNat) })
      else s1.checkRoots
    if 2 < recent.length then s2.retireRoot r else s2

end Sys2Proof.Machine
end

