-- ==== Sys2Proof/Machine/CheckerOps.lean ====
section
/-! DEFINITION. The checker slice: tap, histograms, comparison, declarations (R589 to R604). -/

namespace Sys2Proof.Machine

open Sys2Proof

/-- Apply a rotation of nine s1.30 values to three integers. -/
def rotApply (r v : List Int) : List Int :=
  [0, 3, 6].map (fun i => lgetD r i 0 * lgetD v 0 0 + lgetD r (i + 1) 0 * lgetD v 1 0 + lgetD r (i + 2) 0 * lgetD v 2 0)

/-- Pose samples on both sides of a time in units of 1/64 µs; `l` is newest first (R591). -/
def bracket : List PoseSample → Nat → Option (PoseSample × PoseSample)
  | b :: a :: l, t => if a.beat * 64 ≤ t ∧ t < b.beat * 64 then some (a, b) else bracket (a :: l) t
  | _, _ => none

/-- The zone-frame position of a tapped pea (R591): none where no samples bracket its time. -/
def State.tapPlace (s : State) (p : CheckTap) : Option (Int × Int × Int) :=
  if p.fwd then some (p.x, p.y, p.z)
  else
    let e := mgetD s.safety.extr p.sensor {}
    let a := (rotApply e.rot [p.x, p.y, p.z]).zipWith (fun u t => u + ishl t 22) e.trans
    let entry := match s.live with
      | some i => i.body.sensors.find? (fun (x : Nat × SensorEntry) => decide (x.1 = p.sensor))
      | none => none
    let out := fun (l : List Int) (d : Nat) => (rneDiv (lgetD l 0 0) d, rneDiv (lgetD l 1 0) d, rneDiv (lgetD l 2 0) d)
    match entry with
    | none => some (out a (2 ^ 30))
    | some (_, x) =>
      if x.fixed then some (out a (2 ^ 30))
      else match bracket (mgetD s.safety.poses x.track []) p.time with
        | none => none
        | some (q, r) =>
          let span : Int := ((r.beat - q.beat : Nat) : Int) * 64
          let dt : Int := ((p.time - q.beat * 64 : Nat) : Int)
          let rot := rotApply q.rot a
          let tr := q.trans.zipWith (fun t0 t1 => (ishl (t0 * span + (t1 - t0) * dt) 52) / span) r.trans
          some (out (rot.zipWith (· + ·) tr) (2 ^ 60))

/-- The check frame of a pea released in the current beat (R593). -/
def State.checkFrame (s : State) : Nat := (s.tl.beat + 3) / 1024

/-- The tap (R56, R594). -/
def State.tapPea (s : State) (p : CheckTap) : State :=
  let f := s.checkFrame
  s.onSafety (fun x =>
    if x.hists.any (fun h => decide (h.frame = f)) then
      { x with hists := x.hists.map (fun h => if h.frame = f then { h with taps := p :: h.taps } else h) }
    else { x with hists := x.hists ++ [{ frame := f, taps := [p] }] })

/-- Take one tapped pea of a sensor and time out of a list. -/
def dropTap (sensor time : Nat) : List CheckTap → List CheckTap
  | [] => []
  | t :: l => if t.sensor = sensor ∧ t.time = time ∧ ¬ t.fwd then l else t :: dropTap sensor time l

/-- A drop notice of the de-skew unit (R592): the pea is excluded. -/
def State.untapPea (s : State) (sensor time : Nat) : State :=
  s.onSafety (fun x => { x with hists := x.hists.map (fun h => { h with taps := dropTap sensor time h.taps }) })

/-- The column of a position (R594). -/
def columnOf (x y : Int) : Nat × Nat := ((ishr (x + 131072) 9).toNat, (ishr (y + 131072) 9).toNat)

/-- CHECKER parameters of the live image. -/
def State.checker (s : State) : CheckerShape := match s.live with | some i => i.body.checker | none => {}

/-- Count a column, saturating at 255 (R594). -/
def countCol (m : Map Nat) (c : Nat × Nat) : Map Nat :=
  let k := c.1 * 512 + c.2
  mset m k (min 255 (mgetD m k 0 + 1))

/-- Close a histogram (R594, R595): the seen columns, and how many peas no samples bracketed. -/
def State.seenColumns (s : State) (h : CheckHist) : List Nat × Nat :=
  let k := s.checker
  let r := h.taps.foldl (fun (a : Map Nat × Nat) t =>
    match s.tapPlace t with
    | none => (a.1, a.2 + 1)
    | some (x, y, z) =>
      if inBox s.owned x y z ∧ k.zMin ≤ z ∧ z ≤ k.zMax then (countCol a.1 (columnOf x y), a.2) else a) ([], 0)
  ((r.1.filter (fun c => decide (k.minPeas ≤ c.2))).map (fun c => c.1), r.2)

/-- A frame is not compared (R595, R598). -/
def State.notCompared (s : State) : State := s.onSafety (fun x => { x with notCompared := x.notCompared + 1, compare := none })

/-- Close the histograms of the check frame just ended and begin the comparison (R595, R596). -/
def State.closeHist (s : State) (ended : Nat) (mismatch : Bool) : State :=
  let h := match s.safety.hists.find? (fun h => decide (h.frame = ended)) with | some h => h | none => { frame := ended }
  let (cols, unposed) := s.seenColumns h
  let s1 := (s.bump Reg.CHK_UNPOSED unposed).onSafety (fun x => { x with
    hists := x.hists.filter (fun h => decide (ended < h.frame)), refusedCols := s.store.refusedCols })
  let s2 := s1.onStore (fun p => { p with refusedCols := [] })
  if mismatch then ((s2.bump Reg.CORE_MISMATCHES).raise Reg.SAFETY_EVENTS 5).notCompared
  else s2.onSafety (fun x => { x with compare := some { frame := ended, cols := cols, ord := s2.tl.beats } })

/-- Whether a node's cube meets column (cx, cy) or a neighbour of it, and the band (R596). -/
def nearColumn (k : CheckerShape) (cx cy : Nat) (key : Nat) : Bool :=
  let ((x, y, z), n) := keyCube key
  let c0 := columnOf x y
  let c1 := columnOf (x + n - 1) (y + n - 1)
  decide (c0.1 ≤ cx + 1 ∧ cx ≤ c1.1 + 1 ∧ c0.2 ≤ cy + 1 ∧ cy ≤ c1.2 + 1 ∧ z ≤ k.zMax ∧ k.zMin ≤ z + n - 1)

/-- Whether a record read for a column reaches OCC_LOGODDS (R596). -/
def State.colOccupied (s : State) (records : List (Nat × Cell)) (c : Nat) : Bool :=
  let k := s.checker
  records.any (fun r => nearColumn k (c / 512) (c % 512) r.1 && decide (k.occ ≤ effective s.config.decay r.2 s.frame))

/-- Columns in which the pod store refused nothing (R597). -/
def State.comparable (s : State) (c : Nat) : Bool := !s.safety.refusedCols.contains (c / 512, c % 512)

/-- Box of columns, zero where there is none. -/
def boxCols (l : List (Nat × Nat)) : Nat × Nat × Nat × Nat := (boxOf l).getD (0, 0, 0, 0)

/-- A CHECKER record (R613). -/
def State.logChecker (s : State) (frame outcome : Nat) (engines : List Nat) (b : Nat × Nat × Nat × Nat) : State :=
  let mask := lsum ((engines.eraseDups).map (fun e => 2 ^ e))
  s.logRec 5 0 0 0 (frame % 2 ^ 36 + outcome * 2 ^ 36 + mask * 2 ^ 40 +
    (b.1 + b.2.1 * 2 ^ 9 + b.2.2.1 * 2 ^ 18 + b.2.2.2 * 2 ^ 27) * 2 ^ 60)

/-- The lowering map of a frame (R601). -/
def State.lowering (s : State) (f : Nat) : LoweringMap :=
  match s.safety.lowering.find? (fun m => decide (m.frame = f)) with
  | some m => m
  | none => { frame := f }

/-- Entries of the lowering map in declared columns or their neighbours, within the band (R601). -/
def State.loweredIn (s : State) (f : Nat) (cols : List (Nat × Nat)) : List (Nat × Int × Nat) :=
  (s.lowering f).entries.filter (fun e => cols.any (fun c => nearColumn s.checker c.1 c.2 e.1))

/-- Make a declaration (R599 to R601): in a free slot, or without one. -/
def State.declareColumns (s : State) (f : Nat) (cols : List (Nat × Nat)) : State :=
  let b := boxCols cols
  let s00 := (if s.unvBox.isNone then s.raise Reg.COMMIT_EVENTS 6 else s)
  let s0 := ((s00.bump Reg.DISAGREEMENTS).raise Reg.SAFETY_EVENTS 6).notice false f b
  match s.safety.decls.findIdx? Option.isNone with
  | none =>
    let t := (s0.bump Reg.DECL_OVERFLOWS).logChecker f 6 [] b
    t.onSafety (fun x => { x with overflow := some (match x.overflow with
      | some o => (f, o.2 ++ cols)
      | none => (f, cols)) })
  | some i =>
    let m := s.lowering f
    let low := s.loweredIn f cols
    let eng := if m.overflow then m.engines else (low.map (fun e => e.2.2)).eraseDups
    let kept := low.filter (fun e => eng.contains e.2.2)
    let d : Declaration := { frame := f, cols := cols, box := b, engines := eng, kept := kept, bornAt := s.tl.frames }
    let t := s0.logChecker f 0 eng b
    t.onSafety (fun x => { x with
      decls := lput x.decls i (some d)
      implicatedAt := eng.foldl (fun a e => mset a e (s.tl.frames :: (mgetD a e []).filter (fun y => decide (s.tl.frames < y + 64)))) x.implicatedAt })

/-- Release the columns of a declaration with a NOTICE (R603). -/
def State.releaseDecl (s : State) (i : Nat) : State :=
  match lgetD s.safety.decls i none with
  | none => s
  | some d => (s.notice true d.frame d.box).onSafety (fun x => { x with decls := lput x.decls i none })

/-- Declarations whose columns agree in a comparison are released where they wait for it (R600, R603 value 5). -/
def State.cleanDecls (s : State) (bad : List (Nat × Nat)) : State :=
  let clean := fun cols : List (Nat × Nat) => !cols.any (fun c => bad.contains c)
  let s1 := (List.range 8).foldl (fun t i =>
    match lgetD t.safety.decls i none with
    | some d => if d.phase = .awaitClean ∧ clean d.cols then t.releaseDecl i else t
    | none => t) s
  match s1.safety.overflow with
  | some (f, cols) =>
    if s1.declCount < 8 ∧ clean cols then (s1.notice true f (boxCols cols)).onSafety (fun x => { x with overflow := none }) else s1
  | none => s1

/-- The comparison of a frame ends (R597, R599, R600). -/
def State.finishCompare (s : State) (c : Comparison) : State :=
  let recs := s.allRecords
  let bad := (c.cols.filter (fun k => s.comparable k && !s.colOccupied recs k)).map (fun k => (k / 512, k % 512))
  let s1 := s.onSafety (fun x => { x with compare := none, notCompared := 0 })
  let s2 := s1.cleanDecls bad
  if bad.isEmpty then s2 else s2.declareColumns c.frame bad

/-- Retained in-band peas of a frame in a column, found through the layer's journal (R602). -/
def State.retained (s : State) (f : Nat) (c : Nat × Nat) : Nat :=
  let k := s.checker
  let js := match s.com.layers.find? (fun l => decide (l.frame = f)) with | some l => l.journal | none => []
  (js.filter (fun j =>
    match mget s.store.pods j.pool with
    | some p => match mget p.slots j.slot with
      | some q => decide (q.sensor = j.sensor ∧ q.timeOffset = j.timeOffset ∧ columnOf q.x q.y = c ∧ k.zMin ≤ q.z ∧ q.z ≤ k.zMax)
      | none => false
    | none => false)).length

/-- Value 4 of R603: a column still holds CHK_MIN_PEAS retained peas and no record that reaches OCC_LOGODDS. -/
def State.gridWrong (s : State) (d : Declaration) : Bool :=
  let recs := s.allRecords
  d.cols.any (fun c => decide (s.checker.minPeas ≤ s.retained d.frame c) && !s.colOccupied recs (c.1 * 512 + c.2))

/-- Engines implicated by another declaration within the last 64 frames (R603 value 3). -/
def State.repeaters (s : State) (d : Declaration) : List Nat :=
  d.engines.filter (fun e => decide (2 ≤ ((mgetD s.safety.implicatedAt e []).filter (fun y => decide (s.tl.frames < y + 64))).length))

/-- Engines found at fault by a recheck (R317, R603 values 2 and 3): an event of cause 6, a permanent fault, a replacement;
the columns wait for the last of their switches. -/
def State.checkerRetire (s : State) (i : Nat) (d : Declaration) (outcome : Nat) (engines : List Nat) : State :=
  let s1 := engines.foldl (fun t e => (t.engEvent e 6).engPermanent e 6 false) s
  let s2 := ((s1.bump Reg.CHECKER_RETIREMENTS).raise Reg.SAFETY_EVENTS 7).logChecker d.frame outcome d.engines d.box
  let waits := engines.filter (fun e => decide ((s2.engine e).state ≠ .retired))
  if waits.isEmpty then s2.releaseDecl i
  else s2.onSafety (fun x => { x with decls := lput x.decls i (some { d with phase := .awaitSwitch, outcome := outcome, waits := waits }) })

/-- The engine that runs a recheck is released from it. -/
def State.endRecheckShadow (s : State) (e : Nat) : State := if (s.engine e).shadowKind = .recheck then s.clearShadow e else s

/-- A completed recheck decides its declaration (R603). -/
def State.endRecheck (s : State) (i : Nat) (d : Declaration) (differs : List Nat) : State :=
  let s0 := s.endRecheckShadow d.engine
  let rep := s.repeaters d
  let wrong := d.engines.filter (fun e => differs.contains e)
  if ¬ rep.isEmpty then s0.checkerRetire i d 3 rep
  else if ¬ wrong.isEmpty then s0.checkerRetire i d 2 wrong
  else if d.engines.isEmpty ∧ s.gridWrong d then (s0.logChecker d.frame 4 [] d.box).hardFail 6
  else ((s0.bump Reg.TRANSIENT_DISAGREEMENTS).logChecker d.frame 1 d.engines d.box).releaseDecl i

/-- Declarations that await switches are released when the last is applied (R603). -/
def State.releaseSwitched (s : State) : State :=
  (List.range 8).foldl (fun t i =>
    match lgetD t.safety.decls i none with
    | some d => if d.phase = .awaitSwitch ∧ d.waits.all (fun e => decide ((t.engine e).state = .retired)) then t.releaseDecl i else t
    | none => t) s

/-- Give a declared recheck its engine (R602): a free engine, or the shadow of the least loaded LIVE engine not implicated. -/
def State.assignRechecks (s : State) : State :=
  (List.range 8).foldl (fun t i =>
    match lgetD t.safety.decls i none with
    | some d =>
      if d.phase ≠ .declared then t
      else
        let units := (d.engines.flatMap (fun e => ctxUnits (t.engine e).live)).filter (fun u =>
          match imgUnit t.live u with | some x => x.recheckable | none => false)
        let pick := match engines20.find? (fun e => t.freeEngine e) with
          | some e => some e
          | none => t.leastLoaded (engines20.filter (fun e => !d.engines.contains e))
        match pick with
        | some e => (t.assignShadow e .recheck units).onSafety (fun x => { x with decls := lput x.decls i (some { d with phase := .rechecking, engine := e }) })
        | none => t
    | none => t) s

end Sys2Proof.Machine
end

