-- ==== Sys2Proof/Machine/FrameOps.lean ====
section
/-! DEFINITION. Ethernet, VLAN, IP and PTP fields of a frame, its FCS and checksums, and stream matching (R114 to R134),
as pure functions of its bytes. -/

namespace Sys2Proof

/-- One bit of the FCS polynomial of IEEE 802.3, reflected. -/
def crcBit (c : Nat) : Nat := if c % 2 = 1 then c / 2 ^^^ 0xEDB88320 else c / 2

/-- One byte of the FCS. -/
def crcByte (c : Nat) (b : Byte) : Nat :=
  crcBit (crcBit (crcBit (crcBit (crcBit (crcBit (crcBit (crcBit (c ^^^ b.toNat))))))))

/-- The FCS of a frame's bytes, as the 32-bit value of IEEE 802.3. -/
def fcs (l : List Byte) : Nat := l.foldl crcByte 0xFFFFFFFF ^^^ 0xFFFFFFFF

/-- A frame with its FCS appended. -/
def withFcs (l : List Byte) : List Byte := l ++ leBytes 4 (fcs l)

/-- A frame padded to 60 bytes, with its FCS. -/
def sealFrame (l : List Byte) : List Byte := withFcs (l ++ List.replicate (60 - l.length) 0)

/-- The bytes of a frame without its FCS. -/
def frameBody (l : List Byte) : List Byte := l.take (l.length - 4)

/-- A frame that ends in the ones' complement of its correct FCS (R123). -/
def stompFrame (l : List Byte) : List Byte := frameBody l ++ leBytes 4 (0xFFFFFFFF - fcs (frameBody l))

/-- Replace bytes from an offset. -/
def bytesPut (l : List Byte) (o : Nat) (v : List Byte) : List Byte := l.take o ++ v ++ l.drop (o + v.length)

/-- Destination address. -/
def dstMac (l : List Byte) : Nat := beAt l 0 6
/-- Source address. -/
def srcMac (l : List Byte) : Nat := beAt l 6 6
/-- Whether the frame carries a VLAN tag. -/
def tagged (l : List Byte) : Bool := decide (beAt l 12 2 = 0x8100)
/-- VLAN ID, where tagged. -/
def vlanId (l : List Byte) : Option Nat := if tagged l then some (beAt l 14 2 % 4096) else none
/-- PCP, where tagged. -/
def pcp (l : List Byte) : Option Nat := if tagged l then some (beAt l 14 2 / 8192) else none
/-- Offset of the payload. -/
def l3At (l : List Byte) : Nat := if tagged l then 18 else 14
/-- EtherType, after a VLAN tag. -/
def etherType (l : List Byte) : Nat := beAt l (l3At l - 2) 2
/-- Whether an address is a group address. -/
def groupMac (m : Nat) : Bool := m.testBit 40

/-- Source and destination address and, for UDP, the offset of the UDP header: IPv4 or IPv6. -/
structure IpInfo where
  v6 : Bool
  src : Nat
  dst : Nat
  udp : Option Nat
  deriving DecidableEq, Repr

/-- The IP header of a frame. -/
def ipInfo (l : List Byte) : Option IpInfo :=
  let o := l3At l
  if etherType l = 0x0800 then
    let h := beAt l o 1 % 16 * 4
    some { v6 := false, src := beAt l (o + 12) 4, dst := beAt l (o + 16) 4,
           udp := if beAt l (o + 9) 1 = 17 then some (o + h) else none }
  else if etherType l = 0x86DD then
    some { v6 := true, src := beAt l (o + 8) 16, dst := beAt l (o + 24) 16,
           udp := if beAt l (o + 6) 1 = 17 then some (o + 40) else none }
  else none

/-- The UDP destination port, if any. -/
def udpDst (l : List Byte) : Option Nat :=
  match ipInfo l with
  | some i => i.udp.map (fun u => beAt l (u + 2) 2)
  | none => none

/-- Transport of a PTP message (R81, PTP_CTRL.TRANSPORT) and the offset of its header. -/
def ptpAt (l : List Byte) : Option (Nat × Nat) :=
  if etherType l = 0x88F7 then some (0, l3At l)
  else match ipInfo l with
    | some i => match i.udp with
      | some u => if beAt l (u + 2) 2 = 319 ∨ beAt l (u + 2) 2 = 320 then some (if i.v6 then 2 else 1, u + 8) else none
      | none => none
    | none => none

/-- messageType of the PTP message at an offset: 0 Sync, 1 Delay_Req, 2 Pdelay_Req, 3 Pdelay_Resp, 8 Follow_Up,
9 Delay_Resp, 10 Pdelay_Resp_Follow_Up, 11 Announce. -/
def ptpType (l : List Byte) (o : Nat) : Nat := beAt l o 1 % 16
/-- domainNumber. -/
def ptpDomain (l : List Byte) (o : Nat) : Nat := beAt l (o + 4) 1
/-- twoStepFlag. -/
def ptpTwoStep (l : List Byte) (o : Nat) : Bool := (beAt l (o + 6) 1).testBit 1
/-- correctionField in units of 2^-16 ns. -/
def ptpCorr (l : List Byte) (o : Nat) : Int := sval 64 (beAt l (o + 8) 8)
/-- sourcePortIdentity. -/
def ptpSource (l : List Byte) (o : Nat) : Nat := beAt l (o + 20) 10
/-- sequenceId. -/
def ptpSeq (l : List Byte) (o : Nat) : Nat := beAt l (o + 30) 2
/-- The 10-byte timestamp at an offset from the header, in units of 2^-16 ns. -/
def ptpStamp (l : List Byte) (o : Nat) : Int :=
  ((beAt l o 6 * 1000000000 + beAt l (o + 6) 4 : Nat) : Int) * 65536

/-- Whether a PTP message is an event message. -/
def ptpEvent (t : Nat) : Bool := decide (t < 4)
/-- Whether a PTP message belongs to the peer-delay mechanism, never forwarded (R121, R128). -/
def ptpPdelay (t : Nat) : Bool := decide (t = 2 ∨ t = 3 ∨ t = 10)

/-- Ones' complement sum of 16-bit words. -/
def ones16 : List Byte → Nat
  | [] => 0
  | [a] => a.toNat * 256
  | a :: b :: l => a.toNat * 256 + b.toNat + ones16 l

/-- Fold a sum to 16 bits and complement it. -/
def csum (n : Nat) : Nat :=
  let f := fun x : Nat => x % 65536 + x / 65536
  65535 - f (f (f n))

/-- Checksum of an IPv6 upper-layer payload of protocol `p` (R131). -/
def csum6 (src dst p : Nat) (body : List Byte) : Nat :=
  csum (ones16 (beBytes 16 src ++ beBytes 16 dst ++ beBytes 4 body.length ++ beBytes 4 p ++ body))

/-- Write a correctionField, then mend the UDP checksum (R131) and the FCS of a frame with FCS. -/
def putCorr (l : List Byte) (o : Nat) (c : Int) : List Byte :=
  let b := bytesPut (frameBody l) (o + 8) (beBytes 8 (sbits 64 (ssat 64 c)))
  let b2 := match ipInfo b with
    | some i => match i.udp with
      | some u =>
        if i.v6 then
          let z := bytesPut b (u + 6) [0, 0]
          let n := beAt b (u + 4) 2
          let k := csum6 i.src i.dst 17 (lsub z u n)
          bytesPut z (u + 6) (beBytes 2 (if k = 0 then 65535 else k))
        else bytesPut b (u + 6) [0, 0]
      | none => b
    | none => b
  withFcs b2

/-- Egress class (R125). -/
def egressClass (l : List Byte) : Nat :=
  match ptpAt l with
  | some (_, o) => if ptpEvent (ptpType l o) then 0 else match pcp l with
    | some p => if 6 ≤ p then 1 else if 4 ≤ p then 2 else 3
    | none => 3
  | none => match pcp l with
    | some p => if 6 ≤ p then 1 else if 4 ≤ p then 2 else 3
    | none => 3

/-- Whether an optional match value agrees. -/
def optMatch (want : Option Nat) (have? : Option Nat) : Bool :=
  match want with
  | none => true
  | some _ => decide (want = have?)

/-- Whether a frame received on a port matches a stream entry (R134). -/
def StreamEntry.takes (e : StreamEntry) (port : Nat) (l : List Byte) : Bool :=
  let ip := ipInfo l
  decide (e.port = port ∧ e.dstMac = Sys2Proof.dstMac l ∧ e.etherType = Sys2Proof.etherType l) && optMatch e.vlan (vlanId l) &&
    optMatch e.srcIp (ip.map (fun i => i.src)) && optMatch e.dstIp (ip.map (fun i => i.dst)) && optMatch e.udpPort (udpDst l)

/-- An ARP reply (R117): to the sender of request `l`, from the part's address. -/
def arpReply (l : List Byte) (mac ip : Nat) : List Byte :=
  let o := l3At l
  let sha := beAt l (o + 8) 6
  let spa := beAt l (o + 14) 4
  let tag := if tagged l then lsub l 12 4 else []
  sealFrame (beBytes 6 sha ++ beBytes 6 mac ++ tag ++ beBytes 2 0x0806 ++ beBytes 2 1 ++ beBytes 2 0x0800 ++ [6, 4] ++ beBytes 2 2 ++
    beBytes 6 mac ++ beBytes 4 ip ++ beBytes 6 sha ++ beBytes 4 spa)

/-- Whether a frame is an ARP request for an address. -/
def arpFor (l : List Byte) (ip : Nat) : Bool :=
  let o := l3At l
  decide (etherType l = 0x0806 ∧ beAt l (o + 6) 2 = 1 ∧ beAt l (o + 24) 4 = ip ∧ ip ≠ 0)

/-- Whether a frame is an IPv6 neighbour solicitation for an address. -/
def solicitFor (l : List Byte) (ip : Nat) : Bool :=
  let o := l3At l
  decide (etherType l = 0x86DD ∧ beAt l (o + 6) 1 = 58 ∧ beAt l (o + 40) 1 = 135 ∧ beAt l (o + 48) 16 = ip ∧ ip ≠ 0)

/-- A neighbour advertisement that answers solicitation `l` (R117). -/
def neighbourAdvert (l : List Byte) (mac ip : Nat) : List Byte :=
  let o := l3At l
  let src := beAt l (o + 8) 16
  let allNodes : Nat := 0xFF020000000000000000000000000001
  let dst := if src = 0 then allNodes else src
  let dmac := if src = 0 then 0x333300000001 else srcMac l
  let body0 : List Byte := [136, 0, 0, 0] ++ beBytes 4 (if src = 0 then 0x20000000 else 0x60000000) ++ beBytes 16 ip ++ [2, 1] ++ beBytes 6 mac
  let body := bytesPut body0 2 (beBytes 2 (csum6 ip dst 58 body0))
  let tag := if tagged l then lsub l 12 4 else []
  sealFrame (beBytes 6 dmac ++ beBytes 6 mac ++ tag ++ beBytes 2 0x86DD ++ beBytes 4 0x60000000 ++ beBytes 2 body.length ++ [58, 255] ++
    beBytes 16 ip ++ beBytes 16 dst ++ body)

/-- A PTP header: messageType, length, domain, correction, source port identity, sequence and control. -/
def ptpHeader (ty len dom : Nat) (corr : Int) (clock port seq ctl : Nat) : List Byte :=
  beBytes 1 ty ++ [2] ++ beBytes 2 len ++ beBytes 1 dom ++ [0] ++ beBytes 2 0 ++ beBytes 8 (sbits 64 corr) ++ beBytes 4 0 ++
    beBytes 8 clock ++ beBytes 2 port ++ beBytes 2 seq ++ beBytes 1 ctl ++ [0x7F]

/-- The clock identity of a MAC address (IEEE 1588: EUI-48 with FFFE inserted). -/
def clockId (mac : Nat) : Nat := mac / 2 ^ 24 * 2 ^ 40 + 0xFFFE * 2 ^ 24 + mac % 2 ^ 24

/-- A Pdelay_Req over Ethernet (R129). -/
def pdelayReq (mac port dom seq : Nat) : List Byte :=
  sealFrame (beBytes 6 0x0180C200000E ++ beBytes 6 mac ++ beBytes 2 0x88F7 ++ ptpHeader 2 54 dom 0 (clockId mac) (port + 1) seq 5 ++
    List.replicate 20 0)

/-- A one-step Pdelay_Resp to the request at offset `o` of `l` (R129); its turnaround is added as it leaves. -/
def pdelayResp (l : List Byte) (o mac port : Nat) : List Byte :=
  sealFrame (beBytes 6 0x0180C200000E ++ beBytes 6 mac ++ beBytes 2 0x88F7 ++
    ptpHeader 3 54 (ptpDomain l o) (ptpCorr l o) (clockId mac) (port + 1) (ptpSeq l o) 5 ++ beBytes 10 0 ++ lsub l (o + 20) 10)

/-- A Delay_Req in a transport of R81: Ethernet, UDP/IPv4 or UDP/IPv6. -/
def delayReq (tr mac port dom seq ip4 ip6 : Nat) : List Byte :=
  let body := ptpHeader 1 44 dom 0 (clockId mac) (port + 1) seq 1 ++ beBytes 10 0
  if tr = 1 then
    let ip0 : List Byte := [0x45, 0, 0, 72, 0, 0, 0, 0, 1, 17, 0, 0] ++ beBytes 4 ip4 ++ beBytes 4 0xE0000181
    let ip := bytesPut ip0 10 (beBytes 2 (csum (ones16 ip0)))
    sealFrame (beBytes 6 0x01005E000181 ++ beBytes 6 mac ++ beBytes 2 0x0800 ++ ip ++ beBytes 2 319 ++ beBytes 2 319 ++ beBytes 2 52 ++
      beBytes 2 0 ++ body)
  else if tr = 2 then
    let dst : Nat := 0xFF0E0000000000000000000000000181
    let udp0 : List Byte := beBytes 2 319 ++ beBytes 2 319 ++ beBytes 2 52 ++ beBytes 2 0 ++ body
    let k := csum6 ip6 dst 17 udp0
    let udp := bytesPut udp0 6 (beBytes 2 (if k = 0 then 65535 else k))
    sealFrame (beBytes 6 0x333300000181 ++ beBytes 6 mac ++ beBytes 2 0x86DD ++ beBytes 4 0x60000000 ++ beBytes 2 52 ++ [17, 1] ++
      beBytes 16 ip6 ++ beBytes 16 dst ++ udp)
  else sealFrame (beBytes 6 0x011B19000000 ++ beBytes 6 mac ++ beBytes 2 0x88F7 ++ body)

end Sys2Proof
end

