-- ==== Sys2Proof/Machine/PortOps.lean ====
section
/-! DEFINITION. The bridge, the transparent clock, the PTP time receiver and the ingest queues (R113 to R135, R152 to R157). -/

namespace Sys2Proof.Machine

open Sys2Proof

/-- STATION_MAC (R163). -/
def State.stationMac (s : State) : Nat := (s.rget Reg.STATION_MAC_HI).toNat % 65536 * 2 ^ 32 + (s.rget Reg.STATION_MAC_LO).toNat

/-- IP6_ADDR, most significant word in IP6_ADDR_0 (R163). -/
def State.ip6 (s : State) : Nat :=
  (List.range 4).foldl (fun a i => a * 2 ^ 32 + (s.rget (Reg.IP6_ADDR i)).toNat) 0

/-- PORT_CFG.SPEED of a port (R112). -/
def State.speed (s : State) (p : Nat) : Nat := s.rbits (Reg.PORT_CFG p) 1 0

/-- Bit rate of a port in Gb/s. -/
def State.rate (s : State) (p : Nat) : Nat := if s.speed p = 1 then 10 else 25

/-- BRIDGE_CTRL.TC_MODE (R128). -/
def State.tcMode (s : State) : Nat := s.rbits Reg.BRIDGE_CTRL 3 2

/-- Whether the bridge may use a port: its link is up and it is not retired. -/
def State.portOn (s : State) (p : Nat) : Bool := (s.port p).up && !(s.port p).retired

/-- Whether a root PLL runs. -/
def State.rootRuns (s : State) : Bool := s.roots.any (fun r => decide (r.state = .running))

/-- Put a frame in its class at an egress port (R125): dropped whole where 512 KiB would not hold it. -/
def State.egress (s : State) (p : Nat) (f : EgressFrame) : State :=
  let held := lsum ((s.port p).egress.flatMap (fun q => q.map (fun x => x.bytes.length)))
  if 524288 < held + f.bytes.length then s.bump (Reg.EGRESS_DROPS p)
  else s.onPort p (fun q => { q with egress := lmod q.egress (egressClass f.bytes) (fun l => l ++ [f]) })

/-- Whether a copy to port `q` is forwarded cut-through (R122). An IPv6 event message that is corrected is not (R131). -/
def State.cutThrough (s : State) (p q : Nat) (f : EgressFrame) : Bool :=
  let v6 := match ptpAt f.bytes with | some (2, _) => true | _ => false
  decide (s.rate q ≤ s.rate p ∧ lgetD (s.port q).egress (egressClass f.bytes) [] = []) && (f.kind = .plain || !v6)

/-- Ports that a frame goes to (R119). -/
def State.egressPorts (s : State) (p : Nat) (l : List Byte) : List Nat :=
  let d := dstMac l
  let flood := (List.range 8).filter (fun q => decide (q ≠ p) && s.portOn q)
  if groupMac d then flood
  else match s.fdb.find? (fun e => decide (e.mac = d)) with
    | some e => if e.port = p then [] else [e.port].filter s.portOn
    | none => flood

/-- Forward a frame (R119, R122, R123): a bad FCS reaches only the cut-through copies, which are stomped. The Boolean
says whether a bad frame went out so. -/
def State.bridge (s : State) (p : Nat) (f : EgressFrame) (ok : Bool) : State × Bool :=
  (s.egressPorts p f.bytes).foldl (fun (t : State × Bool) q =>
    if ok then (t.1.egress q f, t.2)
    else if s.cutThrough p q f then ((t.1.egress q { f with stomp := true, kind := .plain }).bump (Reg.STOMPED q), true)
    else t) (s, false)

/-- Learn a source address (R119, R120). -/
def State.learn (s : State) (mac p : Nat) : State :=
  if groupMac mac then s
  else if s.fdb.any (fun e => decide (e.mac = mac)) then
    { s with fdb := s.fdb.map (fun e => if e.mac = mac then { e with port := p, seen := s.now } else e) }
  else if s.fdb.length < 4096 then { s with fdb := s.fdb ++ [⟨mac, p, s.now⟩] }
  else s.raise Reg.PORT_EVENTS 24

/-! ### PTP time receiver -/

/-- `s` with its PTP receiver changed. -/
def State.onPtp (s : State) (f : PtpState → PtpState) : State := s.onTl (fun t => { t with ptp := f t.ptp })

/-- The dataset comparison of IEEE 1588-2019 on two Announce datasets: whether `a` is better than `b`. -/
def betterMaster (a b : PtpMaster) : Bool :=
  if a.identity = b.identity then decide (a.steps < b.steps ∨ (a.steps = b.steps ∧ a.port < b.port))
  else
    let key := fun m : PtpMaster => m.priority1 * 2 ^ 104 + m.quality * 2 ^ 72 + m.priority2 * 2 ^ 64 + m.identity
    decide (key a < key b)

/-- Announce: select the time transmitter (R81). -/
def State.ptpAnnounce (s : State) (l : List Byte) (o : Nat) : State :=
  let m : PtpMaster :=
    { port := ptpSource l o, priority1 := beAt l (o + 47) 1, quality := beAt l (o + 48) 4, priority2 := beAt l (o + 52) 1,
      identity := beAt l (o + 53) 8, steps := beAt l (o + 61) 2 }
  match s.tl.ptp.master with
  | none => s.onPtp (fun p => { p with master := some m })
  | some b =>
    if b.port = m.port then s.onPtp (fun p => { p with master := some m })
    else if betterMaster m b then s.onPtp (fun _ => { master := some m }) else s

/-- A Sync exchange completes: offsetFromMaster, and the measurement e (R81). -/
def State.ptpOffset (s : State) (t1 t2 corr : Int) : State :=
  let path := if s.rbit Reg.PTP_CTRL 16 then ((s.rget (Reg.PDELAY (s.rbits Reg.PTP_CTRL 2 0))).toNat : Int) else s.tl.ptp.meanPath
  (s.onPtp (fun p => { p with t1 := some t1, t2 := some t2, corr := corr, syncSeq := none })).ptpMeasurement (-(t2 - t1 - corr - path))

/-- The part's own port identity on a sensor port. -/
def State.portIdentity (s : State) (p : Nat) : Nat := clockId s.stationMac * 65536 + p + 1

/-- A PTP message reaches the time receiver (R81): Announce, Sync, Follow_Up and Delay_Resp of the selected transmitter. -/
def State.ptpReceive (s : State) (p : Nat) (l : List Byte) (o : Nat) (arrival : Option Int) : State :=
  let c := s.rget Reg.PTP_CTRL
  let tr := match ptpAt l with | some x => x.1 | none => 3
  if ¬ wbit c 31 ∨ wbits c 2 0 ≠ p ∨ wbits c 15 8 ≠ ptpDomain l o ∨ wbits c 18 17 ≠ tr then s
  else
    let mine : Bool := match s.tl.ptp.master with | some m => decide (m.port = ptpSource l o) | none => false
    match ptpType l o with
    | 11 => s.ptpAnnounce l o
    | 0 =>
      match mine, arrival with
      | true, some t2 =>
        if ptpTwoStep l o then s.onPtp (fun q => { q with syncSeq := some (ptpSeq l o), t2 := some t2, corr := ptpCorr l o })
        else s.ptpOffset (ptpStamp l (o + 34)) t2 (ptpCorr l o)
      | _, _ => s
    | 8 =>
      match mine, s.tl.ptp.t2 with
      | true, some t2 =>
        if s.tl.ptp.syncSeq = some (ptpSeq l o) then s.ptpOffset (ptpStamp l (o + 34)) t2 (s.tl.ptp.corr + ptpCorr l o) else s
      | _, _ => s
    | 9 =>
      match s.tl.ptp.t1, s.tl.ptp.t2, s.tl.ptp.t3 with
      | some t1, some t2, some t3 =>
        if mine ∧ ptpSeq l o = s.tl.ptp.delaySeq ∧ beAt l (o + 44) 10 = s.portIdentity p then
          let t4 := ptpStamp l (o + 34)
          s.onPtp (fun q => { q with meanPath := ((t2 - t1 - q.corr) + (t4 - t3 - ptpCorr l o)) / 2, t3 := none })
        else s
      | _, _, _ => s
    | _ => s

/-- A peer-delay message on a port in peer-to-peer mode (R121, R129): a request is answered, a response measured. -/
def State.pdelayReceive (s : State) (p : Nat) (l : List Byte) (o c8 : Nat) (arrival : Option Int) : State :=
  if s.tcMode ≠ 2 then s
  else
    let q := s.port p
    match ptpType l o with
    | 2 => s.egress p { bytes := pdelayResp l o s.stationMac p, kind := .pdelayResp c8 }
    | 3 =>
      match arrival, q.pdT1 with
      | some t4, some t1 =>
        if ptpSeq l o = q.pdSeq ∧ beAt l (o + 44) 10 = s.portIdentity p then
          if ptpTwoStep l o then s.onPort p (fun x => { x with pdResp := some (t4, ptpStamp l (o + 34), ptpCorr l o) })
          else s.rset (Reg.PDELAY p) (nw (max 0 ((t4 - t1 - ptpCorr l o) / 2)).toNat)
        else s
      | _, _ => s
    | 10 =>
      match q.pdResp, q.pdT1 with
      | some (t4, t2, c), some t1 =>
        if ptpSeq l o = q.pdSeq then
          let t3 := ptpStamp l (o + 34)
          (s.rset (Reg.PDELAY p) (nw (max 0 (((t4 - t1) - (t3 - t2) - c - ptpCorr l o) / 2)).toNat)).onPort p
            (fun x => { x with pdResp := none })
        else s
      | _, _ => s
    | _ => s

/-! ### Egress -/

/-- The frame as it leaves a port at a stamp (R123, R128 to R133). -/
def State.leave (s : State) (p : Nat) (f : EgressFrame) (c8 : Nat) : State × List Byte :=
  let o := match ptpAt f.bytes with | some x => x.2 | none => 0
  match f.kind with
  | .plain => (s, if f.stomp then stompFrame f.bytes else f.bytes)
  | .correct ing extra =>
    match s.stampTime ing with
    | (s1, some fi) =>
      match s1.stampTime c8 with
      | (s2, some fe) => (s2.bump (Reg.TC_CORRECTED p), putCorr f.bytes o (ptpCorr f.bytes o + (fe - fi) + extra))
      | (s2, none) => (s2, f.bytes)
    | (s1, none) => (s1, f.bytes)
  | .pdelayResp ing =>
    match s.stampTime ing with
    | (s1, some fi) =>
      match s1.stampTime c8 with
      | (s2, some fe) => (s2, putCorr f.bytes o (ptpCorr f.bytes o + (fe - fi)))
      | (s2, none) => (s2, f.bytes)
    | (s1, none) => (s1, f.bytes)
  | .delayReq seq =>
    let (s1, t) := s.stampTime c8
    (s1.onPtp (fun q => { q with t3 := t, delaySeq := seq }), f.bytes)
  | .pdelayReq seq =>
    let (s1, t) := s.stampTime c8
    (s1.onPort p (fun q => { q with pdT1 := t, pdSeq := seq, pdResp := none }), f.bytes)

/-- An up port transmits the first frame of its highest class that holds one (R125). Its stamp's phase is a free value. -/
def State.transmitOne (s : State) (p : Nat) : State :=
  if ¬ s.portOn p then s
  else
    match (s.port p).egress.findIdx? (fun l => !l.isEmpty) with
    | none => s
    | some c =>
      match lgetD (s.port p).egress c [] with
      | [] => s
      | f :: rest =>
        let c8 := s.now * 8 + s.freeNat % 8
        let s1 := (if f.kind = .plain then s else s.took).onPort p (fun q => { q with egress := lput q.egress c rest })
        let (s2, b) := s1.leave p f c8
        (s2.bump64 (Reg.TX_FRAMES_LO p) (Reg.TX_FRAMES_HI p)).send (.frame p b)

/-! ### Ingest queues -/

/-- Words of an item (R152): header, two stamp words, frame words and the status word. -/
def itemWords (i : IngestItem) : Nat := 4 + cdiv i.bytes.length 4

/-- Words that the queue of a port holds. -/
def State.queueLevel (s : State) (p : Nat) : Nat := lsum ((lgetD s.ing.queues p []).map itemWords)

/-- `s` with its ingest unit changed. -/
def State.onIng (s : State) (f : Ingest → Ingest) : State := { s with ing := f s.ing }

/-- The watermark follows the queue (R157): an upward crossing sets WM_HI_SEEN and counts. -/
def State.watermark (s : State) (p : Nat) : State :=
  let beyond := decide ((s.rget (Reg.WM_HI p)).toNat ≤ s.queueLevel p)
  let was := lgetD s.ing.wmNow p false
  let s1 := s.onIng (fun g => { g with wmNow := lput g.wmNow p beyond })
  if beyond ∧ ¬ was then
    let n := (s1.rget (Reg.CROSS_COUNT p)).toNat
    (s1.rset (Reg.CROSS_COUNT p) (nw (min 255 (n + 1)))).raise Reg.INGEST_EVENTS p
  else s1

/-- Write an item to a port's queue, or drop it whole (R152, R155). -/
def State.enqueue (s : State) (p stream : Nat) (e : StreamEntry) (l : List Byte) (c8 : Nat) (arrival : Int) : State :=
  let i : IngestItem :=
    { id := s.ing.nextId, stream := stream, entry := e, bytes := l, stamp := c8, arrival := arrival, epoch := s.tl.epoch.toNat }
  if 16384 < s.queueLevel p + itemWords i then (s.bump (Reg.FULL_DROPS p)).raise Reg.INGEST_EVENTS (8 + p)
  else (s.onIng (fun g => { g with nextId := g.nextId + 1, queues := lmod g.queues p (fun q => q ++ [i]) })).watermark p

/-- The stream entry a frame takes, the lowest numbered (R134). -/
def State.streamFor (s : State) (p : Nat) (l : List Byte) : Option (Nat × StreamEntry) :=
  match s.live with
  | some i => lminBy (fun x => x.1) (i.body.streams.filter (fun x => x.2.takes p l))
  | none => none

/-- FLUSH of a port (R156): the queue empties at once. -/
def State.flushQueue (s : State) (p : Nat) : State := (s.onIng (fun g => { g with queues := lput g.queues p [] })).watermark p

/-! ### Reception -/

/-- How an event message's egress copies are treated (R128 to R132), none where it is discarded. -/
def State.forwardKind (s : State) (p : Nat) (l : List Byte) (c8 : Nat) (stale : Bool) : Option TxKind :=
  match ptpAt l with
  | none => some .plain
  | some (_, o) =>
    let t := ptpType l o
    if ptpPdelay t ∨ (s.tcMode = 2 ∧ (t = 1 ∨ t = 9)) ∨ (ptpEvent t ∧ ¬ s.rootRuns) then none
    else if stale then some .plain
    else if s.tcMode = 1 ∧ (t = 0 ∨ t = 1) then some (.correct c8 0)
    else if s.tcMode = 2 ∧ t = 0 then some (.correct c8 ((s.rget (Reg.PDELAY p)).toNat : Int))
    else some .plain

/-- Consume a good frame addressed to the part (R116 to R118, R126, R127, R135). -/
def State.consume (s : State) (p : Nat) (l : List Byte) (c8 : Nat) (arrival : Option Int) : State :=
  let uni := decide (dstMac l = s.stationMac)
  let ip4 := (s.rget Reg.IP4_ADDR).toNat
  let onPort := decide (s.rbits Reg.PTP_CTRL 2 0 = p)
  match ptpAt l with
  | some (_, o) => if onPort then s.ptpReceive p l o arrival else s
  | none =>
    if arpFor l ip4 then s.egress p { bytes := arpReply l s.stationMac ip4 }
    else if solicitFor l s.ip6 then s.egress p { bytes := neighbourAdvert l s.stationMac s.ip6 }
    else if ¬ s.inServ ∨ s.hold ∨ s.saved then s
    else match s.streamFor p l, arrival with
      | some (n, e), some t => s.enqueue p n e l c8 t
      | some _, none => s
      | none, _ => if uni then s.bump Reg.UNMATCHED else s

/-- A frame with a bad FCS (R114, R122, R123): its cut-through copies are stomped, an item of it is discarded. -/
def State.badFrame (s : State) (p : Nat) (l : List Byte) (fwd : Bool) (k : TxKind) : State :=
  let r := if fwd then s.bridge p { bytes := l, kind := k } false else (s, false)
  let s1 := if r.2 then r.1 else r.1.bump (Reg.RX_ERRORS p)
  if s.inServ ∧ ¬ s.hold ∧ (s.streamFor p l).isSome then s1.bump (Reg.FCS_DISCARDS p) else s1

/-- A frame of legal length (R115 to R135). -/
def State.receive (s : State) (p : Nat) (l : List Byte) (ok : Bool) (c8 : Nat) : State :=
  let d := dstMac l
  if etherType l = 0x8808 ∨ (0x0180C2000000 ≤ d ∧ d ≤ 0x0180C200000D) ∨ d = 0x0180C200000F then s
  else
    let (s0, arrival) := s.stampTime c8
    let s1 := if ok then s0.learn (srcMac l) p else s0
    let kind := s1.forwardKind p l c8 arrival.isNone
    let fwd := decide (d ≠ s1.stationMac) && kind.isSome
    let k := kind.getD .plain
    if d = 0x0180C200000E ∧ ptpAt l = none then s1
    else if ¬ ok then s1.badFrame p l fwd k
    else
      let s2 := match ptpAt l with
        | some (_, o) => if ptpPdelay (ptpType l o) then s1.pdelayReceive p l o c8 arrival else s1.consume p l c8 arrival
        | none => s1.consume p l c8 arrival
      if fwd then (s2.bridge p { bytes := l, kind := k } true).1 else s2

end Sys2Proof.Machine
end

