-- ==== Sys2Proof/Machine/IngestOps.lean ====
section
/-! DEFINITION. Parser machines, release of items and the pea budget (R137 to R151, R158 to R160, R387). -/

namespace Sys2Proof.Machine

open Sys2Proof

/-- Units of 2^-16 ns in a frame. -/
def frameUnits : Int := 1024 * beatUnits

/-- A sensor's entry of the live image (R141). -/
def State.sensorEntry (s : State) (id : Nat) : Option SensorEntry :=
  match s.live with
  | some i => (i.body.sensors.find? (fun (x : Nat × SensorEntry) => decide (x.1 = id))).map (fun x => x.2)
  | none => none

/-- A sensor's entry for a pea: the live image's, or the image's before it while peas stamped before the switch remain (R442).
`stamped` is the pea's time in units of 1/64 µs. -/
def State.sensorFor (s : State) (id stamped : Nat) : Option SensorEntry :=
  let oldEntry := match s.old with
    | some i => (i.body.sensors.find? (fun (x : Nat × SensorEntry) => decide (x.1 = id))).map (fun x => x.2)
    | none => none
  if stamped < s.liveBeat * 64 ∧ s.old.isSome then oldEntry else s.sensorEntry id

/-- A sensor's entry for a record parsed with time `t` (R141, R442). -/
def State.sensorAt (s : State) (id : Nat) (t : Int) : Option SensorEntry := s.sensorFor id (t / 1024000).toNat

/-! ### The budget -/

/-- `stride` of R159. -/
def stride (level p : Nat) : Nat := 2 ^ (level - p)

/-- Priority of a sensor, or of a peer port at 1024 + p (R158). -/
def State.prioOf (s : State) (key : Nat) : Nat :=
  if 1024 ≤ key then s.rbits Reg.PEER_PRIORITY 2 0
  else match s.sensorEntry key with | some e => e.prio | none => 0

/-- The decimation level of R159: from `level` up, at most `fuel` steps. -/
def decLevel (offered : List (Nat × Nat)) : Nat → Nat → Nat
  | 0, level => level
  | f + 1, level =>
    if level < 15 ∧ 256 < lsum (offered.map (fun x => cdiv x.1 (stride level x.2))) then decLevel offered f (level + 1) else level

/-- The budget at a beat boundary (R159). -/
def State.budgetBeat (s : State) : State :=
  let offered := s.ing.offered.map (fun x => (x.2, s.prioOf x.1))
  (s.rset Reg.GRANTED_LAST (nw s.ing.granted)).onIng (fun g => { g with decLevel := decLevel offered 15 0, granted := 0, offered := [] })

/-- Counter of a pea's source: sensor or peer port; `what` 0 offered, 1 decimated, 2 gated. -/
def peaCounter (key what : Nat) : Nat :=
  if 1024 ≤ key then
    (if what = 0 then Reg.PEER_OFFERED (key - 1024) else if what = 1 then Reg.PEER_DECIMATED (key - 1024) else Reg.PEER_GATED (key - 1024))
  else (if what = 0 then Reg.SENSOR_OFFERED key else if what = 1 then Reg.SENSOR_DECIMATED key else Reg.SENSOR_GATED key)

/-- One pea offered to the budget unit (R159): decimated, gated, or released by `release`. -/
def State.offerPea (s : State) (key : Nat) (release : State → State) : State :=
  let seq := mgetD s.ing.seq key 0
  let keep := decide (seq % stride s.ing.decLevel (s.prioOf key) = 0)
  let s1 := (s.onIng (fun g => { g with seq := mset g.seq key (seq + 1), offered := mset g.offered key (mgetD g.offered key 0 + 1) })).bump (peaCounter key 0)
  if ¬ keep then (s1.bump (peaCounter key 1)).raise Reg.INGEST_EVENTS 16
  else if 256 ≤ s.ing.granted then (s1.bump (peaCounter key 2)).raise Reg.INGEST_EVENTS 17
  else release (s1.onIng (fun g => { g with granted := g.granted + 1 }))

/-! ### Solver samples -/

/-- A motion sample reaches solver control (R387). -/
def State.takeSample (s : State) (m : MotionSample) : State :=
  match s.sensorEntry m.sensor with
  | none => s
  | some e =>
    if e.fixed then s
    else
      let w := match s.live with | some i => i.body.solver.windowFrames | none => 1
      if 1024 ≤ mgetD s.solver.taken e.track 0 ∨ m.time < (((s.frame : Int) - (w : Int)) * frameUnits) then s.bump Reg.SAMPLES_DROPPED
      else { s with solver := { s.solver with
        taken := mset s.solver.taken e.track (mgetD s.solver.taken e.track 0 + 1)
        samples := mset s.solver.samples e.track ((m :: mgetD s.solver.samples e.track []).take 2048) } }

/-! ### Image buffers -/

/-- A run of pixels reaches a stream's image buffer (R144). A line of a missing packet keeps no bytes: it reads as the
buffer descriptor's fill value. -/
def State.takePixels (s : State) (stream : Nat) (r : PixelRun) : State :=
  let b := mgetD s.ing.images stream {}
  let b0 : ImageBuffer := if b.complete then { delivered := b.delivered, lastSeq := b.lastSeq } else b
  let gap : Bool := match b0.lastSeq with | some q => decide ((q + 1) % 65536 ≠ r.seq % 65536 ∧ q ≠ r.seq) | none => false
  let b1 : ImageBuffer :=
    { b0 with data := cwrite b0.data (r.line * 65536 + r.offset) r.bytes, lines := kinsert r.line b0.lines, lastSeq := some r.seq, gap := b0.gap || gap }
  let b2 : ImageBuffer := if r.marker then { b1 with complete := true, incomplete := b1.gap, delivered := b1.delivered + 1 } else b1
  s.onIng (fun g => { g with images := mset g.images stream b2 })

/-! ### Release -/

/-- A pea of a released item (R98, R141, R150, R159): offered to the budget; released to de-skew and to the tap. -/
def State.releasePea (s : State) (epoch : Nat) (p : RawPea) : State :=
  if epoch ≠ s.tl.epoch.toNat ∨ s.preEpoch p.time then s.preEpochDrop
  else
    let frame := (p.time / frameUnits).toNat
    let off := ((p.time % frameUnits) / 1024000).toNat
    let pea : Pea := { x := p.x, y := p.y, z := p.z, intensity := p.intensity, sensor := p.sensor, timeOffset := off, sweep := p.sweep, cls := p.cls }
    s.offerPea p.sensor (fun t =>
      (t.onStore (fun q => { q with deskewQ := q.deskewQ ++ [{ pea := pea, frame := frame, epoch := epoch }] })).tapPea
        { sensor := p.sensor, time := frame * 65536 + off, x := p.x, y := p.y, z := p.z, fwd := false })

/-- One held output of an item. -/
def State.releaseOut (s : State) (i : IngestItem) (o : ParseOut) : State :=
  match o with
  | .pea p => s.releasePea i.epoch p
  | .drop sensor ev => (s.bump (Reg.SENSOR_DROPS sensor)).raise Reg.INGEST_EVENTS ev
  | .motion m => if i.epoch ≠ s.tl.epoch.toNat ∨ s.preEpoch m.time then s.preEpochDrop else s.takeSample m
  | .image r => s.takePixels i.stream r

/-! ### Parser machines -/

/-- The machine abandons its item: nothing of it is released (R139). -/
def State.abandon (s : State) (m : Nat) : State :=
  let p := (s.machine m).port
  ((s.onMachine m (fun _ => {})).bump (Reg.PARSE_DROPS p)).raise Reg.INGEST_EVENTS 18

/-- The machine's next position: the loops that end at `pc` run again or are left (R138). -/
def closeLoops : List ParserLoopFrame → Nat → Nat → List ParserLoopFrame × Nat × Nat
  | [], pc, base => ([], pc, base)
  | l :: ls, pc, base =>
    if pc = l.stop then
      if 1 < l.left then ({ l with left := l.left - 1 } :: ls, l.start, base + l.stride)
      else closeLoops ls pc (base + l.stride)
    else (l :: ls, pc, base)

/-- One instruction of machine `m` (R137, R139): `act` gives the machine after it, or none where it reads beyond the item;
the machine must hold an item that has not ended. -/
def State.parse (s : State) (m : Nat) (act : ParserMachine → IngestItem → Option ParserMachine) : State :=
  let p := s.machine m
  match p.item with
  | none => s
  | some i =>
    if p.ended then s
    else if 65536 < p.count + 1 then s.abandon m
    else match act p i with
      | none => s.abandon m
      | some q =>
        let (ls, pc, base) := closeLoops q.loops (q.pc + 1) q.base
        s.onMachine m (fun _ => { q with loops := ls, pc := pc, base := base, count := p.count + 1 })

end Sys2Proof.Machine

namespace Sys2Proof

/-- Register `r` of a machine. -/
def ParserMachine.reg (p : ParserMachine) (r : Nat) : BitVec 64 := lgetD p.regs r 0

/-- Write a register. -/
def ParserMachine.put (p : ParserMachine) (r : Nat) (v : BitVec 64) : ParserMachine := { p with regs := lput p.regs r v }

/-- The second operand of an instruction. -/
def ParserMachine.arg (p : ParserMachine) (a : ParserArg) : BitVec 64 :=
  match a with
  | .reg r => p.reg r.val
  | .imm v => v.setWidth 64

/-- A field of `w` bits at base + `off` (R138): the low bits of the bytes that hold it, in the order given; none beyond the
item's end. -/
def ParserMachine.field (p : ParserMachine) (i : IngestItem) (off w : Nat) (little : Bool) : Option Nat :=
  let n := cdiv w 8
  let a := p.base + off
  if i.bytes.length < a + n then none
  else some ((if little then leAt i.bytes a n else beAt i.bytes a n) % 2 ^ w)

/-- Time of a record in units of 2^-16 ns (R147): the base time, LATENCY by the kind of source, and register 29 in ns. -/
def ParserMachine.recordTime (p : ParserMachine) (i : IngestItem) : Int :=
  let base := p.baseTime.getD i.arrival
  let lat := i.entry.latency * 65536
  base + (if i.entry.source = .arrival then -lat else lat) + (p.reg 29).toInt * 65536

end Sys2Proof

namespace Sys2Proof.Machine

/-- Whether a record's time lies outside its window (R149). -/
def outsideWindow (i : IngestItem) (t : Int) : Bool :=
  decide (t < i.arrival - (i.entry.maxAge : Int) * beatUnits ∨ i.arrival + (i.entry.maxLead : Int) * beatUnits < t)

/-- The instant nearest to `near` at which a media clock of `rate` Hz reads `ts` modulo 2^32 (R148). -/
def rtpTime (near : Int) (rate ts : Nat) : Int :=
  let r : Int := ((max rate 1 : Nat) : Int)
  let n := near * r / secUnits
  let base := n - n % 4294967296 + (ts : Int)
  let cands := [base - 4294967296, base, base + 4294967296].map (fun k => (k * secUnits + r - 1) / r)
  cands.foldl (fun a b => if (b - near).natAbs < (a - near).natAbs then b else a) (lgetD cands 0 0)

/-- Signed 24-bit range (R141). -/
def fits24 (v : Int) : Bool := decide (-8388608 ≤ v ∧ v ≤ 8388607)

end Sys2Proof.Machine
end

