-- ==== Sys2Proof/Machine/PoseOps.lean ====
section
/-! DEFINITION. Poses of spline versions, composite poses and versions kept (R168 to R186). Poses are held as rotations and
translations in units of 2^-60 (log entry 17). -/

namespace Sys2Proof.Machine

open Sys2Proof

/-- The fixed point of pose arithmetic. -/
def poseOne : Int := 1152921504606846976

/-- A pose: nine rotation values and three translations, each times 2^60. -/
structure Pose where
  rot : List Int
  trans : List Int
  deriving DecidableEq, Repr

/-- Product of two fixed-point 3 × 3 matrices. -/
def matMul (a b : List Int) : List Int :=
  (List.range 9).map (fun i =>
    (lgetD a (i / 3 * 3) 0 * lgetD b (i % 3) 0 + lgetD a (i / 3 * 3 + 1) 0 * lgetD b (i % 3 + 3) 0 +
      lgetD a (i / 3 * 3 + 2) 0 * lgetD b (i % 3 + 6) 0) / poseOne)

/-- A fixed-point matrix applied to a fixed-point vector. -/
def matVec (a v : List Int) : List Int :=
  [0, 3, 6].map (fun i => (lgetD a i 0 * lgetD v 0 0 + lgetD a (i + 1) 0 * lgetD v 1 0 + lgetD a (i + 2) 0 * lgetD v 2 0) / poseOne)

/-- Transpose. -/
def matT (a : List Int) : List Int := (List.range 9).map (fun i => lgetD a (i % 3 * 3 + i / 3) 0)

/-- Element by element. -/
def vecAdd3 (a b : List Int) : List Int := a.zipWith (· + ·) b

/-- Identity. -/
def matId : List Int := [poseOne, 0, 0, 0, poseOne, 0, 0, 0, poseOne]

/-- exp of a rotation vector, as the series to the fifth power (R173). -/
def expRot (r : List Int) : List Int :=
  let x := lgetD r 0 0
  let y := lgetD r 1 0
  let z := lgetD r 2 0
  let a := [0, -z, y, z, 0, -x, -y, x, 0]
  let a2 := matMul a a
  let a3 := matMul a2 a
  let a4 := matMul a3 a
  let a5 := matMul a4 a
  let t := fun (m : List Int) (d : Int) => m.map (fun v => v / d)
  vecAdd3 matId (vecAdd3 a (vecAdd3 (t a2 2) (vecAdd3 (t a3 6) (vecAdd3 (t a4 24) (t a5 120)))))

/-- Time of knot n of a version, in units of 1/64 µs (R172). -/
def knotAt (v : Spline) (n : Nat) : Nat := (v.origin + n * 1000) * 64

/-- Whether a version covers a time (R172). -/
def splineCovers (v : Spline) (t : Nat) : Bool := decide (knotAt v 1 ≤ t ∧ t < knotAt v 70)

/-- The components of a control point. -/
def cpParts (c : ControlPoint) : List Int := [c.x, c.y, c.z, c.rx, c.ry, c.rz]

/-- The pose of a version at a covered time (R173). -/
def splinePose (v : Spline) (t : Nat) : Pose :=
  let n := (t - knotAt v 0) / 64000
  let u : Int := rneDiv (((t - knotAt v n : Nat) : Int) * 16777216) 64000
  let o : Int := 16777216
  let w : List Int := [(o - u) * (o - u) * (o - u), 3 * u * u * u - 6 * u * u * o + 4 * o * o * o,
    -3 * u * u * u + 3 * u * u * o + 3 * u * o * o + o * o * o, u * u * u]
  let cps := (List.range 4).map (fun j => cpParts (lgetD v.cps (n - 1 + j) {}))
  let sum := fun i : Nat => (List.range 4).foldl (fun (a : Int) j => a + lgetD w j 0 * lgetD (lgetD cps j []) i 0) 0
  let den : Int := 6 * o * o * o
  let trans := [0, 1, 2].map (fun i => ishl (sum i) 52 / den)
  let rho := [3, 4, 5].map (fun i => ishl (sum i) 30 / den)
  { rot := matMul (v.rot.map (fun x => ishl x 30)) (expRot rho), trans := trans }

end Sys2Proof.Machine

namespace Sys2Proof

/-- The version of a track current at a beat-message number (R54): the newest published by then. -/
def PodStore.versionAt (p : PodStore) (track ord : Nat) : Option Spline :=
  ((mgetD p.versions track []).find? (fun x => decide (x.ord ≤ ord))).map (fun x => x.spline)

/-- The newest version of a track. -/
def PodStore.newest (p : PodStore) (track : Nat) : Option Spline := ((mgetD p.versions track []).head?).map (fun x => x.spline)

end Sys2Proof

namespace Sys2Proof.Machine

/-- Compose a child's pose with its parent's. -/
def poseMul (parent child : Pose) : Pose :=
  { rot := matMul parent.rot child.rot, trans := vecAdd3 (matVec parent.rot child.trans) parent.trans }

/-- The composite zone-frame pose of a track at a time under the versions that `get` gives (R177, R183): none where a
version of its chain is absent or does not cover the time. -/
def compositePose (get : Nat → Option Spline) (track t : Nat) : Option Pose :=
  match get track with
  | none => none
  | some v =>
    if ¬ splineCovers v t then none
    else match v.parent with
      | none => some (splinePose v t)
      | some a => match get a with
        | none => none
        | some w => if splineCovers w t then some (poseMul (splinePose w t) (splinePose v t)) else none

/-- A track and its parent under a version. -/
def chainOf (get : Nat → Option Spline) (track : Nat) : List Nat :=
  match get track with
  | some v => match v.parent with | some a => [track, a] | none => [track]
  | none => [track]

/-- RANGE of a sensor-frame point (R168). -/
def rangeCode (x y z : Int) : Nat :=
  let r := isqrt (x.natAbs * x.natAbs + y.natAbs * y.natAbs + z.natAbs * z.natAbs)
  let a := 1 + r / 128
  min 31 (ilog2 64 (a * a))

/-- Round a fixed-point value to a whole unit, halves toward plus infinity (R178). -/
def poseRound (v : Int) : Int := (2 * v + poseOne) / (2 * poseOne)

/-- The value that fixed-point arithmetic gives within 1 unit of the exact one (R178): the nearest, or a neighbour of it that
a free value picks. -/
def poseResult (v free : Int) : Int :=
  let q := poseRound v
  let c := q + (free % 3 - 1)
  if ((c * poseOne - v).natAbs : Int) ≤ poseOne then c else q

/-- A point in sensor frame, in whole units, through an extrinsic: fixed point. -/
def throughExtrinsic (e : Extrinsic) (x y z : Int) : List Int :=
  (rotApply e.rot [x, y, z]).zipWith (fun a t => ishl a 30 + ishl t 52) e.trans

/-- A pose applied to a fixed-point point. -/
def Pose.apply (p : Pose) (v : List Int) : List Int := vecAdd3 (matVec p.rot v) p.trans

/-- The inverse of a pose applied to a fixed-point point (R186). -/
def Pose.unapply (p : Pose) (v : List Int) : List Int := matVec (matT p.rot) (v.zipWith (· - ·) p.trans)

/-- The displacement of R183 between two poses, in units of 2^-60. -/
def displacement (a b : Pose) : Int :=
  let big := fun (x y : List Int) => (x.zipWith (fun u v => ((u - v).natAbs : Int)) y).foldl max 0
  big a.trans b.trans + 32768 * big a.rot b.rot

/-- A pose as the checker keeps it: s1.30 and s23.8 (R590). -/
def Pose.sample (p : Pose) (beat : Nat) : PoseSample :=
  { beat := beat, rot := p.rot.map (fun v => rneDiv v 1073741824), trans := p.trans.map (fun v => rneDiv v (2 ^ 52)) }

end Sys2Proof.Machine
end

