-- ==== Sys2Proof/Machine/FileOps.lean ====
section
/-! DEFINITION. Filing of peas, eviction, forwarding, re-de-skew and merging at the pod store (R178 to R226). -/

namespace Sys2Proof.Machine

open Sys2Proof

/-! ### Forwarding (R34, R181, R550) -/

/-- The port of the first axis on which a point lies beyond a face of a box (R550). -/
def routePort (b : List Int) (x y z : Int) : Option Nat :=
  (([x, y, z].zipIdx).findSome? (fun c =>
    if c.1 < lgetD b c.2 0 then some (2 * c.2 + 1)
    else if lgetD b (c.2 + 3) 0 ≤ c.1 then some (2 * c.2) else none))

/-- Drop a pea outside the owned box (R34). -/
def State.dropOutside (s : State) (sensor : Nat) : State :=
  (((s.bump Reg.PEAS_OUTSIDE).bump (Reg.SENSOR_DROPS sensor))).raise Reg.POD_EVENTS 1

/-- Put a pea on the PEA flits that wait on a port (R551): the last one where it is of the same frame, epoch and hops and holds
fewer than 14. -/
def State.queuePea (s : State) (n : Nat) (q : Pea) (frame epoch hops : Nat) : State :=
  let one : FlitBody := .pea { frame := frame, epoch := epoch, hops := hops, peas := [q] }
  s.onPeer n (fun p => { p with waiting := lmod p.waiting 1 (fun l =>
    match l.getLast? with
    | some (.pea b) =>
      if b.frame = frame ∧ b.epoch = epoch ∧ b.hops = hops ∧ b.peas.length < 14 then l.dropLast ++ [.pea { b with peas := b.peas ++ [q] }]
      else l ++ [one]
    | _ => l ++ [one]) })

/-- Forward a pea outside the owned box, or drop it (R34, R181, R550). In SAFE_HOLD peers carry no pea (R608). -/
def State.forwardPea (s : State) (q : Pea) (frame epoch hops : Nat) : State :=
  match routePort s.owned q.x q.y q.z with
  | none => s
  | some n =>
    if (s.peer n).state ≠ .up ∨ s.hold then s.dropOutside q.sensor
    else
      let o := fun i => lgetD s.config.offsets (3 * n + i) 0
      (s.queuePea n { q with x := q.x + o 0, y := q.y + o 1, z := q.z + o 2, fwd := true } frame epoch hops).bump Reg.PEAS_FORWARDED

/-! ### Filing -/

/-- Note a column in which the store refused a pea or a delta (R597). -/
def State.refuseAt (s : State) (x y : Int) : State :=
  let c := columnOf x y
  s.onStore (fun p => { p with refusedCols := if p.refusedCols.contains c then p.refusedCols else p.refusedCols ++ [c] })

/-- A refused pod (R226): counted, and reported to the publisher. -/
def State.podRefused (s : State) : State :=
  ((s.bump Reg.PODS_REFUSED).raise Reg.POD_EVENTS 3).onCom (fun c => { c with podRefused := true })

/-- Where a write of a cell goes (R224 to R226): its pod, a new pod, a merged record, or nowhere. -/
def State.placeFor (s : State) (key frame : Nat) : State × PodPlace :=
  let (s1, e) := s.lookup (podKey key)
  match e with
  | some x => if x.kind = .pod then (s1, .pod x.pool) else (s1, .noInsert)
  | none =>
    if s1.poolFree = 0 then
      match s1.mergedOver key with
      | some m => (s1, .merged m.key)
      | none => (s1, .noPod)
    else
      match s1.allocPod (podKey key) frame with
      | (s2, some ix) => (s2, .pod ix)
      | (s2, none) => (s2, .noInsert)

/-- The sweep table a pea uses (R219): its sensor's, or that of the peer port it came from. -/
def sweepKey (q : Pea) : Nat := if q.fwd then 1024 + q.port else q.sensor

/-- Note a pea's sweep (R219). -/
def State.noteSweep (s : State) (q : Pea) (frame : Nat) : State :=
  let k := sweepKey q
  let t := mgetD s.store.sweeps k {}
  if t.last = some q.sweep then s
  else s.onStore (fun p => { p with sweeps := mset p.sweeps k { last := some q.sweep, start := mset t.start q.sweep (frame % 65536) } })

/-- Age of a pea's sweep in frames (R219). -/
def State.sweepAge (s : State) (q : Pea) : Nat :=
  (s.frame % 65536 + 65536 - mgetD (mgetD s.store.sweeps (sweepKey q) {}).start q.sweep 0) % 65536

/-- The candidate evicted from a full pod (R217): earliest sweep start, then larger RANGE, then higher slot. -/
def State.evictee (s : State) (slots : Map Pea) (q : Pea) : Nat :=
  let key := fun x : Nat × Pea => (65535 - s.sweepAge x.2) * 2 ^ 16 + (31 - x.2.range) * 2 ^ 8 + (64 - x.1)
  match lminBy key (slots ++ [(64, q)]) with
  | some x => x.1
  | none => 64

/-- The lowest empty slot of a pod. -/
def firstFree (slots : Map Pea) : Option Nat := (List.range 64).find? (fun i => (mget slots i).isNone)

/-- Keep a pea in a pod (R217, R218): the slot it took, none where it was itself evicted. -/
def State.keepPea (s : State) (ix : Nat) (q : Pea) : State × Option Nat :=
  match mget s.store.pods ix with
  | none => (s, none)
  | some p =>
    let put := fun (t : State) (i : Nat) => t.onStore (fun st => { st with pods := mmod st.pods ix (fun p => { p with slots := mset p.slots i q }) })
    match firstFree p.slots with
    | some i => (put s i, some i)
    | none =>
      let v := s.evictee p.slots q
      let s1 := s.bump Reg.PEAS_EVICTED
      if v = 64 then (s1, none) else (put s1 v, some v)

/-- Append a journal entry to a layer (R185). -/
def State.journal (s : State) (i : Nat) (j : JournalEntry) : State :=
  s.onCom (fun c => { c with layers := lmod c.layers i (fun l => { l with journal := l.journal ++ [j] }) })

/-- The floor of m × d / sqrt(n), for the walk of R214. -/
def lineFloor (m : Nat) (d : Int) (n : Nat) : Int :=
  let v := m * d.natAbs
  let r := isqrt (v * v / max n 1)
  if 0 ≤ d then (r : Int) else if r * r * n = v * v then -(r : Int) else -((r : Int) + 1)

/-- Cell keys of the points 128 × j back from a pea toward the sensor origin (R214). -/
def clearLine (q : Pea) (o : Int × Int × Int) (m : Nat) (own : Nat) : List Nat :=
  let dx := o.1 - q.x
  let dy := o.2.1 - q.y
  let dz := o.2.2 - q.z
  let n := dx.natAbs * dx.natAbs + dy.natAbs * dy.natAbs + dz.natAbs * dz.natAbs
  let js := (List.range m).map (fun j => 128 * (j + 1))
  let ks := (js.filter (fun j => decide (j * j ≤ n))).filterMap (fun j =>
    cellKey (q.x + lineFloor j dx n) (q.y + lineFloor j dy n) (q.z + lineFloor j dz n))
  (ks.filter (fun k => k ≠ own)).eraseDups

/-- Apply MISS to the cleared cells of a pea (R214): a cell in no existing pod of the owned box is skipped. -/
def State.clearCells (s : State) (i frame sensor : Nat) (miss : Int) (ks : List Nat) : State :=
  ks.foldl (fun t k =>
    match t.podAt (podKey k) with
    | none => t
    | some ix =>
      if ¬ t.ownsKey (podKey k) then t
      else if t.layerRoom i 1 then (t.modCell ix k (fun c => hitCell t.config.decay c frame miss)).logDelta i 1 sensor k
      else
        let c := (keyCube k).1
        (t.refuseFull i).refuseAt c.1 c.2.1) s

/-- The increment of a pea by its sensor's model; where the part knows no model of the sensor of a FWD pea, a free value
(log entry 18). -/
def State.hitOf (s : State) (q : Pea) (frame : Nat) : State × Int :=
  match s.sensorFor q.sensor (frame * 65536 + q.timeOffset) with
  | some e => (s, e.hit)
  | none => (s.took, ssat 16 s.freeInt)

/-- Write an evidence increment at a place and log it (R212, R225, R235). -/
def State.writeHit (s : State) (i frame kind source key : Nat) (inc : Int) (pl : PodPlace) : State :=
  match pl with
  | .pod ix => (s.modCell ix key (fun c => hitCell s.config.decay c frame inc)).logDelta i kind source key
  | .merged m =>
    (s.onStore (fun p => p.modNode m (fun e => { e with cell := hitCell s.config.decay e.cell frame inc }))).logDelta i kind source m
  | .noPod | .noInsert => s

/-- File a pea whose layer is at place `i` (R202, R212 to R218, R224 to R226, R236). -/
def State.fileIn (s : State) (i : Nat) (it : FileItem) (key : Nat) : State :=
  let q := it.pea
  if ¬ s.layerRoom i 1 then (((s.refuseFull i).bump Reg.PEAS_REFUSED)).refuseAt q.x q.y
  else
    let (s1, pl) := s.placeFor key it.frame
    match pl with
    | .noPod => ((s1.bump Reg.PEAS_REFUSED).podRefused).refuseAt q.x q.y
    | .noInsert => (s1.bump Reg.PEAS_REFUSED).refuseAt q.x q.y
    | .merged _ =>
      let (s2, inc) := s1.hitOf q it.frame
      (s2.writeHit i it.frame 0 q.sensor key inc pl).bump Reg.MERGED_HITS
    | .pod ix =>
      let (s2, inc) := s1.hitOf q it.frame
      let s3 := (s2.writeHit i it.frame 0 q.sensor key inc pl).bump64 Reg.PEAS_FILED_LO Reg.PEAS_FILED_HI
      let (s4, slot) := s3.keepPea ix q
      let s5 := match slot with
        | some n => s4.journal i { pool := ix, slot := n, track := it.track, beat := it.beat, sensor := q.sensor, timeOffset := q.timeOffset }
        | none => s4
      match it.origin, s.sensorFor q.sensor (it.frame * 65536 + q.timeOffset) with
      | some o, some e => s5.clearCells i it.frame q.sensor e.miss (clearLine q o e.clearCells key)
      | _, _ => s5

/-! ### De-skew -/

/-- A pea dropped at de-skew for a spline miss or its range (R179), with the checker's drop notice (R592). -/
def State.deskewDrop (s : State) (d : DeskewItem) (reg ev : Nat) : State :=
  (((s.bump reg).bump (Reg.SENSOR_DROPS d.pea.sensor)).raise Reg.POD_EVENTS ev).untapPea d.pea.sensor (d.frame * 65536 + d.pea.timeOffset)

/-- Note that a de-skew used the current version of a track (R403, value 9). -/
def State.useVersion (s : State) (track : Nat) : State :=
  s.onStore (fun p => { p with versions := mmod p.versions track (fun l => match l with | v :: r => { v with used := true } :: r | [] => []) })

/-- Move one pea to the zone frame (R177): to filing, to a neighbour, or dropped. -/
def State.deskewOne (s : State) (d : DeskewItem) : State :=
  let q := d.pea
  let t := d.frame * 65536 + q.timeOffset
  let range := rangeCode q.x q.y q.z
  let e := (s.sensorFor q.sensor t).getD {}
  let ex := mgetD s.store.extrinsics q.sensor e.extrinsic
  let p0 := throughExtrinsic ex q.x q.y q.z
  let o0 := throughExtrinsic ex 0 0 0
  let get := fun n => s.store.versionAt n s.tl.beats
  let moved : Option (List Int × List Int) :=
    if e.fixed then some (p0, o0)
    else (compositePose get e.track t).map (fun w => (w.apply p0, w.apply o0))
  match moved with
  | none => s.deskewDrop d Reg.SPLINE_MISSES 8
  | some (p, o) =>
    let f := s.freeInt
    let x := poseResult (lgetD p 0 0) f
    let y := poseResult (lgetD p 1 0) (f / 3)
    let z := poseResult (lgetD p 2 0) (f / 9)
    let s0 := if e.fixed then s.took else (chainOf get e.track).foldl (fun a n => (a.bump (Reg.TRACK_PEAS n)).useVersion n) s.took
    if ¬ (fits24 x ∧ fits24 y ∧ fits24 z) then s0.deskewDrop d Reg.RANGE_DROPS 0
    else
      let pea : Pea := { q with x := x, y := y, z := z, range := range }
      let s1 := s0.noteSweep pea d.frame
      if inBox s.owned x y z then
        s1.onStore (fun st => { st with fileQ := st.fileQ ++
          [{ pea := pea, frame := d.frame, epoch := d.epoch, origin := some (poseRound (lgetD o 0 0), poseRound (lgetD o 1 0), poseRound (lgetD o 2 0)),
             track := if e.fixed then none else some e.track, beat := s.tl.beats }] })
      else s1.forwardPea pea d.frame d.epoch 1

/-! ### Versions (R171, R183 to R190) -/

/-- Publish a version of a track (R171): numbered, current from this beat, the last 8 kept (R186). -/
def State.publishVersion (s : State) (v : Spline) (compare : Bool) : State :=
  let n := (mgetD s.store.versionCount v.track 0 + 1) % 65536
  s.onStore (fun p => { p with
    versionCount := mset p.versionCount v.track n
    versions := mset p.versions v.track (({ spline := { v with version := n }, beat := s.tl.beat, ord := s.tl.beats } :: mgetD p.versions v.track []).take 8)
    compareQ := if compare then p.compareQ ++ [v.track] else p.compareQ })

/-- The affected times of a revised version of track `a` against the one it replaces (R183, R184). -/
def affectedTimes (get : Nat → Option Spline) (new old : Spline) (tol : Nat) : List (Nat × Nat) :=
  let withV := fun (v : Spline) (n : Nat) => if n = new.track then some v else get n
  ((List.range 70).drop 1).filterMap (fun n =>
    let t := knotAt new n
    if splineCovers old t ∧ splineCovers new t then
      match compositePose (withV new) new.track t, compositePose (withV old) new.track t with
      | some a, some b =>
        if (tol : Int) * poseOne < displacement a b then some (knotAt new n - 128000, knotAt new n + 128000) else none
      | _, _ => none
    else none)

/-- The pea that a journal entry names, where it is not stale (R185). -/
def State.journalPea (s : State) (j : JournalEntry) : Option Pea :=
  match mget s.store.pods j.pool with
  | some p => match mget p.slots j.slot with
    | some q => if q.sensor = j.sensor ∧ q.timeOffset = j.timeOffset then some q else none
    | none => none
  | none => none

/-- Mark the re-de-skew candidates of a revised track (R184), oldest layer first. -/
def State.markCandidates (s : State) (a : Nat) (times : List (Nat × Nat)) : State :=
  let get := fun n => s.store.newest n
  let inTimes := fun t : Nat => times.any (fun x => decide (x.1 ≤ t ∧ t < x.2))
  let prov := (s.com.layers.filter (fun l => decide (l.phase = .provisional ∧ l.epoch = s.tl.epoch.toNat))).reverse
  let found : List Candidate := prov.flatMap (fun l => l.journal.filterMap (fun j =>
    match j.track, s.journalPea j with
    | some n, some q =>
      if ¬ q.fwd ∧ (chainOf get n).contains a ∧ inTimes (l.frame * 65536 + j.timeOffset) then some { frame := l.frame, epoch := l.epoch, entry := j }
      else none
    | _, _ => none))
  let known := fun (l : List Candidate) (c : Candidate) =>
    l.any (fun d => decide (d.frame = c.frame ∧ d.entry.pool = c.entry.pool ∧ d.entry.slot = c.entry.slot))
  let fresh := found.filter (fun c => known s.store.candidates c = false)
  s.onStore (fun p => { p with candidates := lsortBy (fun c => c.frame) (p.candidates ++ fresh) })

/-- A candidate that stays as filed (R186, R188). -/
def State.abandonCandidate (s : State) : State := (s.bump Reg.REDESKEW_ABANDONED).raise Reg.POD_EVENTS 7

/-- Replace a journal entry of a layer. -/
def State.rejournal (s : State) (i : Nat) (old new : JournalEntry) : State :=
  s.onCom (fun c => { c with layers := lmod c.layers i (fun l => { l with journal := l.journal.map (fun j => if j = old then new else j) }) })

/-- Empty a pea slot. -/
def State.dropPea (s : State) (ix slot : Nat) : State :=
  s.onStore (fun p => { p with pods := mmod p.pods ix (fun q => { q with slots := merase q.slots slot }) })

/-- Move a re-de-skewed pea to another cell of the owned box (R188): MOVE_OUT and MOVE_IN together or not at all. -/
def State.movePea (s : State) (i : Nat) (c : Candidate) (q : Pea) (oldKey newKey : Nat) : State :=
  if ¬ s.layerRoom i 2 then (s.refuseFull i).abandonCandidate
  else
    let (s1, pl) := s.placeFor newKey c.frame
    match pl with
    | .noPod => s1.podRefused.abandonCandidate
    | .noInsert => s1.abandonCandidate
    | _ =>
      let (s2, inc) := s1.hitOf q c.frame
      let s3 := ((s2.writeHit i c.frame 2 q.sensor oldKey (-inc) (.pod c.entry.pool)).writeHit i c.frame 3 q.sensor newKey inc pl).dropPea
        c.entry.pool c.entry.slot
      let s4 := s3.bump Reg.REDESKEWED
      match pl with
      | .pod ix =>
        match s4.keepPea ix q with
        | (s5, some n) => s5.rejournal i c.entry { c.entry with pool := ix, slot := n, beat := s.tl.beats }
        | (s5, none) => s5
      | _ => s4.bump Reg.MERGED_HITS

/-- One candidate re-de-skewed (R186 to R189). -/
def State.redeskewOne (s : State) (i : Nat) (c : Candidate) : State :=
  match s.journalPea c.entry, c.entry.track with
  | some q, some n =>
    let t := c.frame * 65536 + c.entry.timeOffset
    match compositePose (fun k => s.store.versionAt k c.entry.beat) n t, compositePose (fun k => s.store.newest k) n t with
    | some old, some new =>
      let p := new.apply (old.unapply [ishl q.x 60, ishl q.y 60, ishl q.z 60])
      let f := s.freeInt
      let x := poseResult (lgetD p 0 0) f
      let y := poseResult (lgetD p 1 0) (f / 3)
      let z := poseResult (lgetD p 2 0) (f / 9)
      let s0 := s.took
      let pea : Pea := { q with x := x, y := y, z := z }
      match cellKey q.x q.y q.z with
      | none => s0
      | some oldKey =>
        if inBox s.owned x y z then
          match cellKey x y z with
          | none => s0
          | some newKey =>
            if newKey = oldKey then
              ((s0.onStore (fun st => { st with pods := mmod st.pods c.entry.pool (fun d => { d with slots := mset d.slots c.entry.slot pea }) })).rejournal
                i c.entry { c.entry with beat := s.tl.beats }).bump Reg.REDESKEWED
            else s0.movePea i c pea oldKey newKey
        else if ¬ s0.layerRoom i 1 then (s0.refuseFull i).abandonCandidate
        else
          let (s1, inc) := s0.hitOf q c.frame
          let s2 := ((s1.writeHit i c.frame 2 q.sensor oldKey (-inc) (.pod c.entry.pool)).dropPea c.entry.pool c.entry.slot).bump Reg.REDESKEWED
          s2.forwardPea pea c.frame c.epoch 1
    | _, _ => s.abandonCandidate
  | _, _ => s

/-! ### Ageing and merging (R215, R216, R220 to R223) -/

/-- Frames a cell lies behind. -/
def behind (c : Cell) (g : Nat) : Nat := ((g % 256) + 256 - c.last) % 256

/-- Re-base a cell 96 or more frames behind (R215). -/
def ageCell (d : Nat) (g : Nat) (c : Cell) : Cell :=
  if 96 ≤ behind c g then { c with logOdds := effective d c (g + 256 - 65), last := (g + 256 - 65) % 256 } else c

/-- Whether the ageing pass frees a pod (R216). -/
def agedOut (d depth g : Nat) (p : Pod) : Bool :=
  p.cells.all (fun c => decide (effective d c g = 0 ∧ c.conf = 0 ∧ c.cls = 0 ∧ depth < behind c g))

/-- Child keys that a node's CHILD_MASK names. -/
def childKeys (key mask : Nat) : List Nat :=
  let l := keyLevel key + 1
  ((List.range 8).filter (fun i => mask.testBit i)).map (fun i => l * 2 ^ 33 + keyMorton key + i * 2 ^ (3 * (11 - l)))

/-- Children of a node as entries, where the store holds each. -/
def State.childEntries (s : State) (e : NodeEntry) : List NodeEntry := (childKeys e.key e.childMask).filterMap (fun k => (s.store.lookup k).1)

/-- The records below a node: of its pods' cells and merged children, by key. -/
def State.recordsBelow (s : State) (cs : List NodeEntry) : List (Nat × Cell) :=
  cs.flatMap (fun c => match c.kind with
    | .pod => match mget s.store.pods c.pool with | some p => podCells p | none => []
    | .merged => [(c.key, c.cell)]
    | _ => [])

/-- Twice the centre of a node's cube. -/
def centre2 (key : Nat) : Int × Int × Int :=
  let ((x, y, z), n) := keyCube key
  (2 * x + n, 2 * y + n, 2 * z + n)

/-- Four times the squared distance of a node's centre from its nearest valid track, or from the origin (R221). -/
def State.trackDistance (s : State) (key : Nat) : Nat :=
  let (cx, cy, cz) := centre2 key
  let sq := fun (x y z : Int) => (cx - 2 * x).natAbs ^ 2 + (cy - 2 * y).natAbs ^ 2 + (cz - 2 * z).natAbs ^ 2
  let valid := s.store.versions.map (fun v => mgetD s.store.trackPos v.1 (0, 0, 0))
  match valid.map (fun p => sq p.1 p.2.1 p.2.2) with
  | [] => sq 0 0 0
  | d :: ds => ds.foldl min d

/-- Whether an interior node is eligible for merging (R221). -/
def State.mergeable (s : State) (e : NodeEntry) : Bool :=
  let cs := s.childEntries e
  let r := s.config.radius
  decide (e.kind = .interior ∧ s.config.mergeLimit ≤ keyLevel e.key ∧ keyLevel e.key ≤ 8 ∧ cs ≠ []) &&
    cs.all (fun c => decide (c.kind = .pod ∨ c.kind = .merged)) &&
    (s.store.versions.isEmpty || decide (4 * r * r < s.trackDistance e.key)) &&
    (s.recordsBelow cs).all (fun x => decide (s.config.depth < behind x.2 s.frame))

/-- The eligible node that is merged first (R221). -/
def State.mergeChoice (s : State) : Option NodeEntry :=
  let es := (s.store.nodes.map (fun x => x.2) ++ s.store.stash).filter (fun e => s.mergeable e)
  lminBy (fun e => 2 ^ 160 - (s.trackDistance e.key * 2 ^ 64 + e.key)) es

/-- Merge a node (R222): the strongest record, its children freed, a delta of the open layer. The open layer must have room
(R236). -/
def State.mergeNode (s : State) (e : NodeEntry) : State :=
  let cs := s.childEntries e
  let recs := s.recordsBelow cs
  let d := s.config.decay
  let g := s.frame
  match lminBy (fun x => ((2 ^ 40 : Nat) - effective d x.2 g).toNat * 2 ^ 48 + x.1) recs with
  | none => s
  | some best =>
    if ¬ s.layerRoom 0 1 then s.refuseFull 0
    else
      let conf := (recs.map (fun x => x.2.conf)).foldl min 15
      let rec' : Cell := { best.2 with logOdds := effective d best.2 g, last := g % 256, conf := conf }
      let pods := (cs.filter (fun c => c.kind = .pod)).map (fun c => c.pool)
      let keys := cs.map (fun c => c.key)
      let s1 := s.onStore (fun p =>
        { (keys.foldl (fun q k => q.modNode k (fun x => { x with kind := .tombstone })) p) with
          pods := pods.foldl (fun m ix => merase m ix) p.pods, stash := p.stash.filter (fun x => !keys.contains x.key) })
      let s2 := s1.onStore (fun p => p.modNode e.key (fun x => { x with kind := .merged, cell := rec', childMask := 0 }))
      let s3 := { s2 with peers := { s2.peers with freed := s2.peers.freed ++ keys } }
      ((s3.bump Reg.PODS_MERGED pods.length).logDelta 0 4 0 e.key).mergeStop

end Sys2Proof.Machine
end

