-- ==== Sys2Proof/Machine/Timeline.lean ====
section
/-! DEFINITION. Commands of the timeline unit: measurements, holdover, PPS and the clock roots (R37 to R42, R79 to R100). -/

namespace Sys2Proof.Machine

open Sys2Proof

/-- The outcome of every command: a next state. -/
abbrev Out := Host.Outcome State Fault Refusal

/-- SERVO_MEASUREMENT (R85): the servo treats the oldest measurement formed. -/
def execServoMeasurement (s : State) : Out :=
  match s.tl.formed with
  | [] => .next s
  | e :: rest => .next ((s.onTl (fun t => { t with formed := rest })).measure e)

/-- The measured offsets of the members of the upstream set (R79). -/
def upstreamOffsets (s : State) : List Int :=
  (List.range 6).filterMap (fun p => if s.tl.upstream.getLsbD p then (s.peer p).measured else none)

/-- FOLLOWER_MEASUREMENT (R79): the mean of the offsets to the upstream set. -/
def execFollowerMeasurement (s : State) : Out :=
  match upstreamOffsets s with
  | [] => .next s
  | l => if s.up ∧ s.sourceEff = 3 then .next (s.formMeasurement ((l.foldl (· + ·) 0) / (l.length : Int))) else .next s

/-- CATCH_UP_DONE (R86): the residual reaches zero. -/
def execCatchUpDone (s : State) : Out :=
  if s.tl.servo = .catchUp ∧ s.residualNow = 0 then
    .next (s.onTl (fun t => { t with servo := .acquire, slewTerm := 0, residual := 0 }))
  else .next s

/-- HOLDOVER_TIMEOUT (R87, R93). -/
def execHoldoverTimeout (s : State) : Out :=
  if (s.tl.servo = .acquire ∨ s.tl.servo = .locked ∨ s.tl.servo = .catchUp) ∧
      s.rbits Reg.HOLDOVER_TIMEOUT 15 0 ≤ s.tl.frames - s.tl.holdBase then
    .next ((s.onTl (fun t => { t with servo := .holdover, slewTerm := 0, residual := 0 })).raise Reg.TIME_EVENTS 3)
  else .next s

/-- PPS_IN_EDGE (R67, R83): the edge that marks the second is stamped. -/
def execPpsInEdge (count : BitVec 64) (phase : Fin 8) (s : State) : Out :=
  if ¬ s.up ∨ ¬ s.rbit Reg.PPS_CTRL 0 then .next s
  else
    match s.stampTime (count.toNat * 8 + phase.val) with
    | (s1, none) => .next s1
    | (s1, some f) =>
      let valid : Bool := match s.tl.ppsIn with
        | some c => decide (count.toNat - c < 2 * cyclesS)
        | none => false
      .next ((s1.setWords Reg.PPS_IN_STAMP_LO 3 (timeBits f)).onTl (fun t =>
        { t with ppsIn := some count.toNat, ppsInValid := valid, ppsFrac := some f }))

/-- PPS_MISSING (R83): no PPS_IN edge for 2 s. -/
def execPpsMissing (s : State) : Out :=
  let last := match s.tl.ppsIn with | some c => c | none => 0
  if s.up ∧ s.rbit Reg.PPS_CTRL 0 ∧ s.sourceEff = 2 ∧ 2 * cyclesS ≤ s.now - last then
    .next ((s.onTl (fun t => { t with ppsInValid := false, ppsFrac := none })).raise Reg.TIME_EVENTS 8)
  else .next s

/-- PPS_OUT_PULSE (R99, R100): PPS_OUT rises at a whole second of F. -/
def execPpsOutPulse (s : State) : Out :=
  let sec := s.fusion / secUnits
  let fresh : Bool := match s.tl.ppsLastSec with | some l => decide (l < sec) | none => true
  if s.up ∧ s.rbit Reg.PPS_CTRL 4 ∧ (s.rbit Reg.PPS_CTRL 5 ∨ s.tl.servo = .locked ∨ s.tl.servo = .holdover) ∧ fresh then
    .next ((s.onTl (fun t => { t with ppsOut := true, ppsOutRise := t.count.toNat, ppsLastSec := some sec })).send .pps)
  else .next s

/-- ROOT_SWITCH (R38, R39, R41, R42). -/
def execRootSwitch (s : State) : Out := if s.up then .next s.switchRoot else .next s

/-- ROOT_RELOCK (R40, R41): the failed root relocks within 10 ms and becomes the standby, or it does not and is retired. -/
def execRootRelock (ok : Bool) (s : State) : Out :=
  match s.roots.findIdx? (fun r => decide (r.state = .relocking)) with
  | none => .next s
  | some r =>
    if ok ∧ s.now ≤ (s.root r).failedAt + 10 * cyclesMs then .next (s.onRoot r (fun p => { p with state := .standby }))
    else .next (s.retireRoot r)

/-- ROOT_RETIRE (R41): a root that has not relocked within 10 ms of its failure. -/
def execRootRetire (root : Fin 2) (s : State) : Out :=
  let p := s.root root.val
  if s.up ∧ p.state = .relocking ∧ p.failedAt + 10 * cyclesMs ≤ s.now then .next (s.retireRoot root.val) else .next s

end Sys2Proof.Machine
end

