-- ==== Sys2Proof/Machine/Store.lean ====
section
/-! DEFINITION. Commands of de-skew, the pod store, the commit node and the publisher (R177 to R227, R237 to R260, R466). -/

namespace Sys2Proof.Machine

open Sys2Proof

/-! ### De-skew and filing -/

/-- DESKEW (R177): the oldest pea released to de-skew. -/
def execDeskew (s : State) : Out :=
  match s.store.deskewQ with
  | [] => .next s
  | d :: rest => .next ((s.onStore (fun p => { p with deskewQ := rest })).deskewOne d)

/-- File one pea (R98, R238, then R212 to R226): judged first, then given a pod, a slot and its evidence. -/
def State.fileItem (s : State) (it : FileItem) : State :=
  let t : Int := (it.frame : Int) * 1024 * beatUnits + (it.pea.timeOffset : Int) * 1024000
  if it.epoch = s.tl.epoch.toNat ∧ s.preEpoch t then s.preEpochDrop
  else
    match s.judgeDelta it.frame it.epoch with
    | .inr d => s.discardDelta d
    | .inl i =>
      match cellKey it.pea.x it.pea.y it.pea.z with
      | some key => s.fileIn i it key
      | none => s.dropOutside it.pea.sensor

/-- PEA_FILE (R212): the oldest pea that waits for filing. -/
def execPeaFile (s : State) : Out :=
  match s.store.fileQ with
  | [] => .next s
  | it :: rest => .next ((s.onStore (fun p => { p with fileQ := rest })).fileItem it)

/-! ### Revised versions -/

/-- SPLINE_VERSION_PUBLISH (R183, R184): a published version is compared with the one it replaces, and the peas it moves
by more than the tolerance become candidates. -/
def execSplineVersionPublish (s : State) : Out :=
  match s.store.compareQ with
  | [] => .next s
  | a :: rest =>
    let s1 := s.onStore (fun p => { p with compareQ := rest })
    let i := (rest.filter (fun x => x = a)).length
    let vs := mgetD s.store.versions a []
    match vs[i]?, vs[i + 1]? with
    | some new, some old =>
      .next (s1.markCandidates a (affectedTimes (fun n => s.store.newest n) new.spline old.spline s.config.tol))
    | _, _ => .next s1

/-- REDESKEW (R186 to R189): the first candidate, oldest layer first, within REDESKEW_RATE of the beat. -/
def execRedeskew (s : State) : Out :=
  match s.store.candidates with
  | [] => .next s
  | c :: rest =>
    if s.config.rate ≤ s.store.redone then .next s
    else
      let s1 := s.onStore (fun p => { p with candidates := rest, redone := p.redone + 1 })
      match s.layerOf c.frame c.epoch with
      | some i => .next (s1.redeskewOne i c)
      | none => .next s1.abandonCandidate

/-! ### Re-keying (R205, R206) -/

/-- Live entries of a region under the generation in use, in the table and in the stash. -/
def regionEntries (p : PodStore) (r : Nat) : List NodeEntry :=
  let g := (p.region r).gen
  ((p.nodes.filter (fun (x : Nat × NodeEntry) => decide (keyRegion x.2.key = r ∧ x.2.gen = g ∧ x.2.kind ≠ .tombstone))).map (fun x => x.2)) ++
    p.stash.filter (fun e => decide (keyRegion e.key = r))

/-- Whether an entry of a key stands at its place under the next generation. -/
def copiedNext (p : PodStore) (key : Nat) : Bool :=
  let g := (p.region (keyRegion key)).gen + 1
  (p.probesNext key).any (fun b => (p.bucket b).any (fun e => match e with
    | some x => x.holds key && decide (x.gen = g)
    | none => false))

/-- Copy the entries of a region under the next generation; one that finds no place there goes to the stash or stays in it
(R206). The flag is false where the stash is full. -/
def copyRegion (p : PodStore) (r : Nat) : PodStore × Bool :=
  (regionEntries p r).foldl (fun (a : PodStore × Bool) e =>
    if copiedNext a.1 e.key then a
    else
      let q := a.1.insertNext e
      if copiedNext q e.key ∨ q.stash.any (fun x => x.holds e.key) then (q, a.2)
      else if q.stash.length < 256 then ({ q with stash := q.stash ++ [e] }, a.2)
      else (q, false)) (p, true)

/-- REKEY_START (R205): a PENDING region begins to copy once fewer than 4 regions copy. -/
def execRekeyStart (r : Fin 512) (s : State) : Out :=
  if (s.store.region r.val).phase = .pending ∧ s.store.copying < 4 then
    .next (s.onStore (fun p => { p with regions := mset p.regions r.val { p.region r.val with phase := .copying } }))
  else .next s

/-- REKEY_COPY_DONE (R205, R206): every entry of a region has been copied, and it becomes READY. -/
def execRekeyCopyDone (r : Fin 512) (s : State) : Out :=
  if (s.store.region r.val).phase ≠ .copying then .next s
  else
    match copyRegion s.store r.val with
    | (p, true) => .next { s with store := { p with regions := mset p.regions r.val { p.region r.val with phase := .ready } } }
    | (_, false) => .next s

end Sys2Proof.Machine

namespace Sys2Proof

/-- The switch of a READY region (R205, R206): stash entries that fit under g + 1 leave the stash. -/
def PodStore.takeNext (p : PodStore) (r : Nat) : PodStore :=
  let x := p.region r
  let stash := p.stash.filter (fun e => decide (keyRegion e.key ≠ r) || !Machine.copiedNext p e.key)
  { p with
    stash := stash
    regions := mset p.regions r { x with phase := .draining, gen := (x.gen + 1) % 65536, k := x.kNext, tab := x.tabNext, lg := x.lgNext } }

end Sys2Proof

namespace Sys2Proof.Machine

/-- REKEY_DRAIN_DONE (R205): every entry of a region under its old generation is a tombstone. -/
def execRekeyDrainDone (r : Fin 512) (s : State) : Out :=
  let x := s.store.region r.val
  if x.phase ≠ .draining then .next s
  else
    let after : Region := match x.held with
      | some why => { x with phase := .pending, trigger := why, held := none, kNext := x.kNext }
      | none => { x with phase := .steady }
    let s1 := s.onStore (fun p => { p with
      nodes := p.nodes.map (fun (y : Nat × NodeEntry) =>
        (y.1, if keyRegion y.2.key = r.val ∧ y.2.gen ≠ x.gen then { y.2 with kind := .tombstone } else y.2))
      regions := mset p.regions r.val after })
    .next ((s1.bump Reg.REKEYS_DONE).raise Reg.POD_EVENTS 6)

/-! ### Ageing, merging and relocation -/

/-- AGEING_PASS (R215, R216): the pass visits the pod at a pool index. -/
def execAgeingPass (pool : Nat) (s : State) : Out :=
  if ¬ s.up ∨ s.live.isNone then .next s
  else
    match mget s.store.pods pool with
    | none => .next s
    | some p =>
      let d := s.config.decay
      let g := s.frame
      if agedOut d s.config.depth g p then .next ((s.freePod pool).bump Reg.PODS_FREED)
      else .next (s.onStore (fun q => { q with pods := mset q.pods pool { p with cells := p.cells.map (ageCell d g) } }))

/-- POD_MERGE (R220 to R223): the eligible node farthest from its nearest track is merged. Merging stops where none is
eligible. -/
def execPodMerge (key : BitVec 48) (s : State) : Out :=
  let s0 := s.mergeStart
  if ¬ s0.store.merging then .next s
  else
    match s0.mergeChoice with
    | none => .next (s0.onStore (fun p => { p with merging := false }))
    | some e => if e.key = key.toNat then .next (s0.mergeNode e) else .next s0

/-- The logical channel that carried most, and the one that carried least, in the last window (R464, R465). -/
def State.hotCool (s : State) : Option (Nat × Nat) :=
  let l := s.place.hotBytes.zipIdx
  match lminBy (fun x => 2 ^ 64 - x.1) l, lminBy (fun x => x.1) l with
  | some a, some b => some (a.2, b.2)
  | _, _ => none

/-- POD_RELOCATE (R465, R466): a pod of the hottest partition is copied to the coolest while the ratio is over its limit. -/
def execPodRelocate (key : BitVec 48) (s : State) : Out :=
  let n := max s.mem.inUse 1
  match s.hotCool, s.podAt key.toNat with
  | some (hot, cool), some ix =>
    if ¬ s.place.imbalance ∨ ix % n ≠ hot then .next s
    else
      match freeSlot s.store s.poolPods n cool (s.store.pods.length + 2) 0, mget s.store.pods ix with
      | some new, some p =>
        .next ((s.onStore (fun q => ({ q with pods := mset (merase q.pods ix) new p } : PodStore).modNode key.toNat
          (fun e => { e with pool := new }))).bump Reg.PODS_RELOCATED)
      | _, _ => .next s
  | _, _ => .next s

/-! ### Delta batches -/

/-- Bytes of the delta queue in use (R240): a header and the records not yet applied of each batch. -/
def batchBytes (bs : List DeltaBatch) : Nat := lsum (bs.map (fun b => 16 + 16 * b.records.length))

/-- A delta batch reaches the commit node (R240). -/
def State.takeBatch (s : State) (b : DeltaBatch) : State :=
  if b.count.toNat = 0 ∨ 4096 < b.count.toNat ∨ 262144 < batchBytes s.com.batches + 16 + 16 * b.count.toNat then
    (s.bump Reg.BATCH_REFUSALS).raise Reg.COMMIT_EVENTS 8
  else s.onCom (fun c => { c with batches := c.batches ++ [{ b with records := b.records.take b.count.toNat }] })

/-- DELTA_BATCH_ARRIVE (R240). -/
def execDeltaBatchArrive (b : DeltaBatch) (s : State) : Out := if s.up then .next (s.takeBatch b) else .next s

/-- Whether R241 refuses a record. -/
def badDelta (r : DeltaRecord) : Bool :=
  let k := r.kind.toNat
  let v := r.value.toNat
  decide (¬ (k = 5 ∨ k = 6 ∨ k = 7) ∨ keyLevel r.key.toNat ≠ 11 ∨ (k = 6 ∧ 5 ≤ v % 16) ∨ (k = 7 ∧ 128 < nbits v 39 32))

/-- Half-up rounding of a quotient by 128 (R243). -/
def rnd128 (v : Int) : Int := (v + 64) / 128

/-- A record applied to a cell (R211, R243). -/
def applyDelta (d : Nat) (r : DeltaRecord) (c : Cell) (f : Nat) : Cell :=
  let v := r.value.toNat
  match r.kind.toNat with
  | 5 => hitCell d c f (sval 16 v)
  | 6 =>
    let cls := v % 16
    let conf := nbits v 7 4
    let c1 := touchCell d c f
    if cls = c1.cls then { c1 with conf := max c1.conf conf }
    else if c1.conf < conf then { c1 with cls := cls, conf := conf }
    else if 0 < conf ∧ 0 < c1.conf then { c1 with conf := c1.conf - 1 }
    else c1
  | _ =>
    let c1 := touchCell d c f
    let w : Int := ((nbits v 39 32 : Nat) : Int)
    { c1 with vx := ssat 16 (c1.vx + rnd128 (w * (sval 16 v - c1.vx))), vy := ssat 16 (c1.vy + rnd128 (w * (sval 16 (v / 2 ^ 16) - c1.vy))) }

/-- Note a LOGODDS_ADD record in the lowering map of the frame (R601). -/
def State.noteLowering (s : State) (e : Option (Fin 20)) (key : Nat) (inc : Int) : State :=
  match e with
  | none => s
  | some e =>
    let m := s.lowering s.frame
    let m1 : LoweringMap :=
      if inc < 0 then
        (if m.entries.length < 4096 then { m with entries := m.entries ++ [(key, inc, e.val)] } else { m with overflow := true })
      else m
    let m2 := { m1 with engines := kinsert e.val m1.engines }
    s.onSafety (fun x => { x with lowering := x.lowering.filter (fun y => decide (y.frame ≠ m.frame)) ++ [m2] })

/-- One record of a batch applied to its cell (R238, R241 to R244, R236). -/
def State.applyRecord (s : State) (b : DeltaBatch) (r : DeltaRecord) : State :=
  let key := r.key.toNat % 2 ^ 37
  let c := (keyCube key).1
  if badDelta r then (s.bump Reg.BAD_DELTAS).raise Reg.COMMIT_EVENTS 8
  else if ¬ s.ownsKey key then (s.bump Reg.OUTSIDE_DELTAS).raise Reg.COMMIT_EVENTS 8
  else
    match s.judgeDelta b.frame.toNat b.epoch.toNat with
    | .inr d => s.discardDelta d
    | .inl i =>
      if ¬ s.layerRoom i 1 then (s.refuseFull i).refuseAt c.1 c.2.1
      else
        let (s1, pl) := s.placeFor key b.frame.toNat
        let f := b.frame.toNat
        let note := fun t : State => if r.kind = 5 then t.noteLowering b.engine key (sval 16 r.value.toNat) else t
        match pl with
        | .noPod => ((s1.bump Reg.PEAS_REFUSED).podRefused).refuseAt c.1 c.2.1
        | .noInsert => (s1.bump Reg.PEAS_REFUSED).refuseAt c.1 c.2.1
        | .merged m =>
          note ((s1.onStore (fun p => p.modNode m (fun e => { e with cell := applyDelta s.config.decay r e.cell f }))).logDelta i r.kind.toNat
            b.source.toNat m)
        | .pod ix => note ((s1.modCell ix key (fun x => applyDelta s.config.decay r x f)).logDelta i r.kind.toNat b.source.toNat key)

/-- DELTA_APPLY (R240, R243): the first record of the first batch, at most 1024 in a beat. -/
def execDeltaApply (s : State) : Out :=
  if 1024 ≤ s.com.applied then .next s
  else
    match s.com.batches with
    | [] => .next s
    | b :: rest =>
      match b.records with
      | [] => .next (s.onCom (fun c => { c with batches := rest }))
      | r :: rs =>
        let left := if rs.isEmpty then rest else { b with records := rs } :: rest
        .next ((s.onCom (fun c => { c with batches := left, applied := c.applied + 1 })).applyRecord b r)

/-! ### The publisher -/

/-- RECORD_TRANSMIT (R246, R255, R256, R260): the first record of a destination is read and transmitted: a peer copy to the
transmit queue of its port, the host copy to the ring writer once the ring has room (R653). -/
def execRecordTransmit (dest : Fin 7) (s : State) : Out :=
  let n := dest.val
  match (s.dest n).queue with
  | [] => .next s
  | r :: rest =>
    if ¬ (s.dest n).on ∨ (s.dest n).ready.isSome ∨ 4096 < s.com.entriesRead + (s.newKeys r).length ∨ (n = 6 ∧ ¬ s.ringRoom (recordSize r)) then .next s
    else
      let (s1, sr) := s.takeRecord n r rest
      if n = 6 then .next (s1.onDest 6 (fun d => { d with ready := some sr }))
      else .next (s1.queueFlits n 0 [.commit [sr]])

/-- DEADLINE_MISSED (R256, R259): the end of a beat at which a destination has not met a deadline. -/
def execDeadlineMissed (dest : Fin 7) (s : State) : Out := .next (s.missAt dest.val)

end Sys2Proof.Machine
end

