-- ==== Sys2Proof/Machine/MoverOps.lean ====
section
/-! DEFINITION. What the tensor mover does to the elements of a window: reads with fill, drops, aliasing, import, sharding, status,
shadow copies, gather and scatter rows (R301, R334, R335, R353 to R369). -/

namespace Sys2Proof

/-- Local index of a global index under layout 0x05, with the owner on each sharded axis (R367). -/
def Desc.localize (d : Desc) (idx : List Nat) : List Nat × List (Nat × Nat) :=
  if d.layout ≠ 5 then (idx, [])
  else
    let r := (List.range 6).map (fun i =>
      let w := lgetD d.shard i 0
      let x := shardIndex w (gridAxis d.gridCount (shardAxis w)) (d.e i) (lgetD idx i 0)
      (x.2, x.1.map (fun o => (shardAxis w, o))))
    (r.map (fun x => x.1), r.filterMap (fun x => x.2))

/-- Whether the chip at a coordinate owns an index with these owners. -/
def Desc.ownedAt (d : Desc) (owners : List (Nat × Nat)) (coord : Nat) : Bool :=
  owners.all (fun o => decide (coordAxis d.gridOrigin o.1 + o.2 = coordAxis coord o.1))

/-- The chips that hold an index: one position on a sharded axis, every chip of another (R366, R369). -/
def Desc.holders (d : Desc) (owners : List (Nat × Nat)) : List Nat :=
  let at' := fun ax => match owners.find? (fun o => decide (o.1 = ax)) with
    | some o => [coordAxis d.gridOrigin ax + o.2]
    | none => (List.range (gridAxis d.gridCount ax)).map (fun i => coordAxis d.gridOrigin ax + i)
  (at' 0).flatMap (fun x => (at' 1).flatMap (fun y => (at' 2).map (fun z => x + 16 * y + 256 * z)))

/-- Elements that move together: a block of 32 in a block format, else one. -/
def Desc.unit (d : Desc) : Nat := if fmtBlock d.format then 32 else 1

/-- Bytes of a unit. -/
def Desc.unitBytes (d : Desc) : Nat := d.unit * fmtBits d.format / 8

/-- A unit of fill values (R354). -/
def Desc.fillUnit (d : Desc) : List Byte :=
  let g := fmtBits d.format
  leBytes d.unitBytes ((List.range d.unit).foldl (fun a i => a + d.fill % 2 ^ g * 2 ^ (g * i)) 0)

/-- Outermost dimension. -/
def Desc.outer (d : Desc) : Nat := d.rank - 1

/-- Whether the window of a block format starts and ends on blocks (R353). -/
def blockWindow (d : Desc) (origin : List Int) (count : List Nat) : Bool :=
  !fmtBlock d.format || decide (lgetD origin 0 0 % 32 = 0 ∧ lgetD count 0 1 % 32 = 0)

/-- The delta batch that bytes hold (R239). -/
def batchOf (b : List Byte) (e : Option (Fin 20)) : DeltaBatch :=
  let h := leAt b 0 16
  let n := h % 8192
  { frame := BitVec.ofNat 64 (h / 2 ^ 64), epoch := BitVec.ofNat 16 (h / 2 ^ 48), source := BitVec.ofNat 12 (h / 2 ^ 36), count := BitVec.ofNat 13 n
    records := (List.range (min n (b.length / 16 - 1))).map (fun i =>
      let r := leAt b (16 * (i + 1)) 16
      { kind := BitVec.ofNat 4 (r / 2 ^ 124), value := BitVec.ofNat 64 (r / 2 ^ 48), key := BitVec.ofNat 48 r })
    engine := e }

end Sys2Proof

namespace Sys2Proof.Machine

open Sys2Proof

/-- The operation running on a channel has met a fault (R364, R537). -/
def State.opFault (s : State) (ch : Nat) : State :=
  s.onMover ch (fun c => { c with running := c.running.map (fun j => { j with faulted := true }) })

/-- Whether the part owns an index with these owners. -/
def State.ownsIx (s : State) (d : Desc) (owners : List (Nat × Nat)) : Bool :=
  match s.coordNat with
  | some c => d.ownedAt owners c
  | none => owners.isEmpty

/-- Whether bytes of a place are poisoned (R496). -/
def State.poisonedIn (s : State) (p : Place) (o : Int) (n : Nat) : Bool :=
  match p with
  | .set sp num _ => s.poisonedAt sp num o.toNat n
  | _ => false

/-- Read a unit of a window (R354, R364, R368, R496): its bytes and shared scale. -/
def State.readUnit (s : State) (a : Agent) (d : Desc) (p : Place) (idx : List Int) : State × List Byte × Nat :=
  if ¬ d.inside idx then
    ((s.bump64 Reg.FILL_ELEMENTS_LO Reg.FILL_ELEMENTS_HI d.unit).raise Reg.MOVER_EVENTS 3, d.fillUnit, d.fillScale)
  else
    let (l, owners) := d.localize (idx.map Int.toNat)
    if ¬ s.ownsIx d owners then ((s.bump Reg.REMOTE_READS_REFUSED d.unit).raise Reg.MOVER_EVENTS 7, d.fillUnit, d.fillScale)
    else
      match s.readVia a p (d.bitAddr l / 8) d.unitBytes with
      | (s1, none) => (s1, d.fillUnit, d.fillScale)
      | (s1, some b) =>
        if s.poisonedIn p (d.bitAddr l / 8) d.unitBytes then (s1, d.fillUnit, d.fillScale)
        else if fmtBlock d.format then
          match s1.readVia a p (d.scaleAddr l : Nat) 1 with
          | (s2, some x) => if s.poisonedIn p (d.scaleAddr l : Nat) 1 then (s2, d.fillUnit, d.fillScale) else (s2, b, leNat x)
          | (s2, none) => (s2, b, d.fillScale)
        else (s1, b, 0)

/-- The regions of shadow contexts that hold a copy of a data set (R358): engine and base. -/
def State.shadowCopies (s : State) (ds : Nat) : List (Nat × Nat) :=
  engines20.filterMap (fun e => match (s.engine e).shadow with
    | some c => (mget c.regions ds).map (fun x => (e, x.1))
    | none => none)

/-- Write bytes to a place, and the same bytes to the shadow copies of an engine-store data set (R358). -/
def State.moverWrite (s : State) (a : Agent) (p : Place) (ds : Nat) (o : Int) (b : List Byte) : State :=
  let s1 := s.writeVia a p o b
  match p with
  | .engine _ _ _ => (s.shadowCopies ds).foldl (fun (t : State) x => t.onEngine x.1 (fun g => { g with store := cwrite g.store (x.2 + o.toNat) b })) s1
  | _ => s1

/-- Set bits in the status byte of the tile at a local index, where the tensor has a status plane. -/
def State.markTile (s : State) (a : Agent) (d : Desc) (p : Place) (l : List Nat) (bits : Nat) : State :=
  if ¬ d.statusEn ∨ bits = 0 then s
  else
    let o := d.statusOff + d.tile l
    s.moverWrite a p d.dataSet (o : Nat) [BitVec.ofNat 8 (leNat (s.placeRead p o 1) ||| bits)]

/-- A unit written to local storage: ACCUMULATE adds each element, saturating (R334). -/
def State.writeLocal (s : State) (a : Agent) (d : Desc) (p : Place) (l : List Nat) (b : List Byte) (scale : Nat) : State :=
  let o := d.bitAddr l / 8
  let g := fmtBits d.format
  let s1 :=
    if d.aliasing = 1 then
      let v := sval g (leNat (s.placeRead p o.toNat d.unitBytes)) + sval g (leNat b)
      let t := s.moverWrite a p d.dataSet o (leBytes d.unitBytes (sbits g (ssat g v)))
      if beyond g v then ((t.bump Reg.ACCUM_SATURATIONS).raise Reg.MOVER_EVENTS 8).markTile a d p l 2 else t
    else s.moverWrite a p d.dataSet o b
  if fmtBlock d.format then s1.moverWrite a p d.dataSet (d.scaleAddr l : Nat) [BitVec.ofNat 8 scale] else s1

/-- Write a unit of a window: dropped outside the extents, sent to the chips that hold it, or written here (R354, R369). `marks`
are status bits for its tile. -/
def State.writeUnit (s : State) (a : Agent) (d : Desc) (p : Place) (idx : List Int) (b : List Byte) (scale marks : Nat) : State :=
  if ¬ d.inside idx then (s.bump64 Reg.DROPPED_ELEMENTS_LO Reg.DROPPED_ELEMENTS_HI d.unit).raise Reg.MOVER_EVENTS 4
  else
    let (l, owners) := d.localize (idx.map Int.toNat)
    let own := s.coordNat.getD 0
    let far := if d.layout = 5 then (d.holders owners).filter (fun c => c ≠ own) else []
    let s1 := if s.ownsIx d owners then (s.writeLocal a d p l b scale).markTile a d p l marks else s
    far.foldl (fun (t : State) c =>
      let body : WriteBody := { dataSet := d.dataSet, aliasing := d.aliasing, format := d.format, offset := (d.bitAddr l / 8).toNat, source := own, bytes := b }
      let r := t.sendWrite c body
      let r2 := if fmtBlock d.format then r.1.sendWrite c { body with offset := d.scaleAddr l, bytes := [BitVec.ofNat 8 scale], aliasing := 0, format := 1 }
        else (r.1, true)
      if r.2 ∧ r2.2 then r2.1 else r2.1.opFault a.ch) s1

/-- The INHERITED bit that a source unit hands to the tile it is copied to (R296, R357, R496). -/
def State.inheritOf (s : State) (d dd : Desc) (p : Place) (idx : List Int) : Nat :=
  if dd.statusEn ∧ d.inside idx then
    let (l, owners) := d.localize (idx.map Int.toNat)
    let bad := s.poisonedIn p (d.bitAddr l / 8) d.unitBytes || (fmtBlock d.format && s.poisonedIn p (d.scaleAddr l : Nat) 1)
    let flagged := d.statusEn && decide (leNat (s.placeRead p (d.statusOff + d.tile l) 1) % 4 ≠ 0)
    if s.ownsIx d owners ∧ (bad ∨ flagged) then 16 else 0
  else 0

/-- Carry a unit from source format to destination format: an import block becomes an MXINT8 block (R301, R303, R304). Gives
bytes, scale and status bits. -/
def State.convert (s : State) (d dd : Desc) (p : Place) (b : List Byte) (scale : Nat) : State × List Byte × Nat × Nat :=
  if ¬ fmtImport d.format ∨ fmtImport dd.format then (s, b, scale, 0)
  else
    let g := fmtBits d.format
    let r := importBlock d.format scale ((List.range 32).map (fun i => leNat b / 2 ^ (g * i) % 2 ^ g))
    let s1 := match p with
      | .engine e _ _ =>
        let t := if r.2.2.1 then s.bump (Reg.IMPORT_INEXACT e) else s
        if r.2.2.2 then t.bump (Reg.IMPORT_NONFINITE e) else t
      | _ => s
    (s1, elemsBytes 8 32 r.2.1, r.1, 4 * b2n r.2.2.1 + 8 * b2n r.2.2.2)

/-- One unit from a source index to a destination index. -/
def State.moveUnit (s : State) (a : Agent) (d dd : Desc) (p q : Place) (src dst : List Int) : State :=
  let (s1, b, x) := s.readUnit a d p src
  let (s2, b2, x2, f) := s1.convert d dd q b x
  s2.writeUnit a dd q dst b2 x2 (f ||| s.inheritOf d dd p src)

/-- Index vector with dimension `i` replaced. -/
def putDim (idx : List Int) (i : Nat) (v : Int) : List Int := lput idx i v

/-- Whether every row of a window is full-speed bursts: 64-B aligned, whole blocks of 64 B, no tile crossed (R355). -/
def fastWindow (d : Desc) (origin : List Int) (count : List Nat) : Bool :=
  let run := lgetD count 0 1 * fmtBits d.format / 8
  let rows := windowSize (count.drop 1)
  decide (d.layout ≠ 2 ∧ run % 64 = 0) && (List.range rows).all (fun r =>
    decide ((d.bitAddr (d.clamp (windowAt origin count (r * lgetD count 0 1))) / 8) % 64 = 0))

/-- Note the bytes an operation moved and the bursts at half speed; their number is free where some burst is (log entry 23). -/
def State.noteMoved (s : State) (ch bytes : Nat) (fast : Bool) : State :=
  let s1 := (s.bump64 (Reg.CHAN_BYTES_LO ch) (Reg.CHAN_BYTES_HI ch) bytes).onMover ch (fun c =>
    { c with running := c.running.map (fun j => { j with moved := j.moved + bytes, done := true }) })
  if fast then s1 else s1.took.bump64 Reg.MISALIGNED_BURSTS_LO Reg.MISALIGNED_BURSTS_HI (1 + s1.freeNat % max bytes 1)

/-- Count the shadow copies that an operation wrote (R358). -/
def State.noteShadows (s : State) (d : Desc) : State :=
  if d.space = 0 ∧ ¬ (s.shadowCopies d.dataSet).isEmpty then s.bump Reg.SHADOW_COPIES (s.shadowCopies d.dataSet).length else s

/-- A descriptor of the table that is not void. -/
def State.descAt (s : State) (i : Nat) : Option DescEntry :=
  match mget s.descs i with
  | some d => if d.void then none else some d
  | none => none

/-- The job running on a channel with operation `op`, not yet carried out. -/
def State.jobOf (s : State) (ch op : Nat) : Option MoverOp :=
  match (s.mover ch).running with
  | some j => if j.op.op = op ∧ ¬ j.done then some j.op else none
  | none => none

/-- COPY (R352). -/
def State.moverCopy (s : State) (ch : Nat) : State :=
  match s.jobOf ch 1 with
  | none => s
  | some o =>
    match s.descAt o.src, s.descAt o.dst with
    | some d, some dd =>
      let p := s.placeOf d
      let q := s.placeOf dd
      let w := max d.desc.unit dd.desc.unit
      let n := windowSize o.count / w
      let s1 := (List.range n).foldl (fun (t : State) u =>
        t.moveUnit (agentOf ch) d.desc dd.desc p q (windowAt o.srcOrigin o.count (u * w)) (windowAt o.dstOrigin o.count (u * w))) s
      (s1.noteShadows dd.desc).noteMoved ch (n * dd.desc.unitBytes) (fastWindow d.desc o.srcOrigin o.count && fastWindow dd.desc o.dstOrigin o.count)
    | _, _ => s

/-- FILL (R352). -/
def State.moverFill (s : State) (ch : Nat) : State :=
  match s.jobOf ch 2 with
  | none => s
  | some o =>
    match s.descAt o.dst with
    | some dd =>
      let q := s.placeOf dd
      let w := dd.desc.unit
      let n := windowSize o.count / w
      let s1 := (List.range n).foldl (fun (t : State) u =>
        t.writeUnit (agentOf ch) dd.desc q (windowAt o.dstOrigin o.count (u * w)) dd.desc.fillUnit dd.desc.fillScale 0) s
      (s1.noteShadows dd.desc).noteMoved ch (n * dd.desc.unitBytes) (fastWindow dd.desc o.dstOrigin o.count)
    | none => s

/-- Entry `k` of an index tensor, signed (R360). -/
def State.indexAt (s : State) (a : Agent) (x : DescEntry) (k : Nat) : State × Int :=
  let r := s.readUnit a x.desc (s.placeOf x) ((windowIdx x.desc.ext k).map Int.ofNat)
  (r.1, sval 32 (leNat r.2.1))

/-- Serve a row from a channel's coalescer: the coalescer after it, and whether the row was held (R361). -/
def coalesce (c : List (Nat × Nat)) (row bytes : Nat) : List (Nat × Nat) × Bool :=
  let segs := (List.range (max 1 (cdiv bytes 512))).map (fun i => (row, i))
  (((segs ++ c.filter (fun x => !segs.contains x)).take 64), segs.all (fun x => c.contains x))

/-- GATHER (R360, R361). -/
def State.moverGather (s : State) (ch : Nat) : State :=
  match s.jobOf ch 3 with
  | none => s
  | some o =>
    match s.descAt o.src, s.descAt o.dst, s.descAt o.idx with
    | some d, some dd, some x =>
      let a := agentOf ch
      let p := s.placeOf d
      let q := s.placeOf dd
      let w := max d.desc.unit dd.desc.unit
      let out := dd.desc.outer
      let rowCount := lput o.count out 1
      let n := windowSize rowCount / w
      let s1 := (List.range (lgetD o.count out 1)).foldl (fun (t : State) k =>
        let (t1, i) := t.indexAt a x k
        let good := decide (0 ≤ i ∧ i < ((d.desc.e d.desc.outer : Nat) : Int))
        let dst := fun u => putDim (windowAt o.dstOrigin rowCount (u * w)) out (lgetD o.dstOrigin out 0 + (k : Int))
        if good then
          let c := coalesce (t1.mover ch).coalescer i.toNat (n * d.desc.unitBytes)
          let t2 := t1.onMover ch (fun m => { m with coalescer := c.1 })
          let t3 := if c.2 then t2.bump64 Reg.COALESCER_HITS_LO Reg.COALESCER_HITS_HI else t2
          (List.range n).foldl (fun (v : State) u =>
            v.moveUnit a d.desc dd.desc p q (putDim (windowAt o.srcOrigin rowCount (u * w)) d.desc.outer i) (dst u)) t3
        else
          let t2 := (t1.bump Reg.GATHER_FILLS).raise Reg.MOVER_EVENTS 5
          (List.range n).foldl (fun (v : State) u =>
            let (v1, b, sc, f) := v.convert d.desc dd.desc q d.desc.fillUnit d.desc.fillScale
            v1.writeUnit a dd.desc q (dst u) b sc f) t2) s
      (s1.noteShadows dd.desc).noteMoved ch (lgetD o.count out 1 * n * dd.desc.unitBytes) (fastWindow dd.desc o.dstOrigin o.count)
    | _, _, _ => s

/-- SCATTER (R362): rows in order of `k`, so that the highest remains under ORDERED_LAST. -/
def State.moverScatter (s : State) (ch : Nat) : State :=
  match s.jobOf ch 4 with
  | none => s
  | some o =>
    match s.descAt o.src, s.descAt o.dst, s.descAt o.idx with
    | some d, some dd, some x =>
      let a := agentOf ch
      let p := s.placeOf d
      let q := s.placeOf dd
      let w := max d.desc.unit dd.desc.unit
      let out := d.desc.outer
      let rowCount := lput o.count out 1
      let n := windowSize rowCount / w
      let s1 := (List.range (lgetD o.count out 1)).foldl (fun (t : State) k =>
        let (t1, i) := t.indexAt a x k
        if 0 ≤ i ∧ i < ((dd.desc.e dd.desc.outer : Nat) : Int) then
          (List.range n).foldl (fun (v : State) u =>
            v.moveUnit a d.desc dd.desc p q (putDim (windowAt o.srcOrigin rowCount (u * w)) out (lgetD o.srcOrigin out 0 + (k : Int)))
              (putDim (windowAt o.dstOrigin rowCount (u * w)) dd.desc.outer i)) t1
        else (t1.bump Reg.SCATTER_DROPS).raise Reg.MOVER_EVENTS 6) s
      (s1.noteShadows dd.desc).noteMoved ch (lgetD o.count out 1 * n * d.desc.unitBytes) (fastWindow d.desc o.srcOrigin o.count)
    | _, _, _ => s

/-- The records of a batch that the mesh port of an engine lets pass (R308): the stage's escape policy. -/
def State.passRecords (s : State) (e : Nat) (d : Desc) (p : Place) (origin : List Int) (count : List Nat) (b : DeltaBatch) : State × DeltaBatch :=
  let held : Bool := match s.live with | some i => i.body.withhold.contains d.dataSet | none => false
  if ¬ held ∨ ¬ d.statusEn then (s, b)
  else
    let g := max (fmtBits d.format / 8) 1
    let keep := b.records.zipIdx.filter (fun r =>
      let l := d.clamp (windowAt origin count ((16 + 16 * r.2) / g))
      decide (leNat (s.placeRead p (d.statusOff + d.tile l) 1) &&& 0x13 = 0))
    (s.bump (Reg.WITHHELD_RECORDS e) (b.records.length - keep.length),
      { b with records := keep.map (fun r => r.1), count := BitVec.ofNat 13 keep.length })

/-- DELIVER (R352): the batch in the destination window goes to the commit node's queue. -/
def State.moverDeliver (s : State) (ch : Nat) : State :=
  match s.jobOf ch 5 with
  | none => s
  | some o =>
    match s.descAt o.dst with
    | some dd =>
      let q := s.placeOf dd
      let w := dd.desc.unit
      let n := windowSize o.count / w
      let r := (List.range n).foldl (fun (t : State × List Byte) u =>
        let x := t.1.readUnit (agentOf ch) dd.desc q (windowAt o.dstOrigin o.count (u * w))
        (x.1, t.2 ++ x.2.1)) (s, [])
      let s1 := r.1.noteMoved ch (n * dd.desc.unitBytes) (fastWindow dd.desc o.dstOrigin o.count)
      match q with
      | .engine e _ _ =>
        let y := s1.passRecords e dd.desc q o.dstOrigin o.count (batchOf r.2 (if h : e < 20 then some ⟨e, h⟩ else none))
        if y.2.records.isEmpty ∧ (batchOf r.2 none).count ≠ 0 ∧ y.2.count = 0 then y.1 else y.1.takeBatch y.2
      | _ => s1.takeBatch (batchOf r.2 none)
    | none => s

/-! ### Operations and channels -/

/-- Whether R353 refuses an operation. -/
def State.opBad (s : State) (o : MoverOp) : Bool :=
  let dst := s.descAt o.dst
  let src := s.descAt o.src
  let two := decide (o.op = 1 ∨ o.op = 3 ∨ o.op = 4)
  o.reserved || decide (o.op = 0 ∨ 5 < o.op) || o.count.any (fun n => decide (n = 0 ∨ 2 ^ 31 ≤ n)) ||
    (match dst with
     | none => true
     | some dd => !dd.desc.write || !blockWindow dd.desc o.dstOrigin o.count || (decide (o.op = 4 ∧ dd.desc.aliasing = 0)) ||
        (two && (match src with
          | none => true
          | some d => !blockWindow d.desc o.srcOrigin o.count || (decide (d.desc.format ≠ dd.desc.format) &&
              !(fmtImport d.desc.format && decide (dd.desc.format = 2 ∧ dd.desc.space = 0)))))) ||
    (decide (o.op = 3 ∨ o.op = 4) && (s.descAt o.idx).isNone)

/-- Count a refused operation (R353). -/
def State.opRefused (s : State) : State := (s.bump Reg.OP_REFUSED).raise Reg.MOVER_EVENTS 1

/-- Tokens that a finished operation of channel `ch` sets in the contexts of the units the graph names (R280). -/
def State.chanSignal (s : State) (ch : Nat) (m : BitVec 32) : State :=
  match s.live with
  | none => s
  | some i => s.signalTokens .live .none (mgetD i.body.chanOutputs ch []) m

end Sys2Proof.Machine
end

