-- ==== Sys2Proof/Machine/HostOps.lean ====
section
/-! DEFINITION. Command queues, items, host descriptors, windows, dumps and the commit ring (R624 to R658, R693 to R702). -/

namespace Sys2Proof

/-- Words that an item takes in its queue (R636, R637). -/
def HostItem.words (i : HostItem) : Nat := 1 + i.payload.length

/-- The header word of an item (R636) as an item without payload, and its LENGTH. -/
def headerItem (w : Word) : HostItem × Nat :=
  ({ prio := wbits w 30 29, tag := wbits w 28 20, opcode := wbits w 19 12 }, wbits w 11 0)

/-- Payload words that an opcode takes (R644); none for a reserved value. -/
def opcodeWords (op : Nat) : Option Nat := lgetD [some 0, some 0, some 32, some 1, some 33, some 4, some 1, some 17, some 17] op none

/-- A payload word of an item. -/
def HostItem.word (i : HostItem) (n : Nat) : Nat := (lgetD i.payload n 0).toNat

/-- Whether an item keeps LENGTH, reserved bits and values as its opcode asks (R631, R642, R644). -/
def HostItem.ok (i : HostItem) : Bool :=
  decide (opcodeWords i.opcode = some i.payload.length) &&
    (match i.opcode with
     | 3 => decide (i.word 0 < 4096)
     | 4 => decide (i.word 0 < 2)
     | 5 => decide (i.word 0 < 1024 ∧ i.word 1 % 4096 = 0 ∧ 1 ≤ i.word 3 ∧ i.word 3 ≤ 2 ^ 20)
     | 6 => decide (i.word 0 < 256)
     | 7 => decide (i.word 0 < 256)
     | 8 => decide (i.word 0 < 256)
     | _ => true)

/-- The bytes of payload words from `n` on (R9). -/
def HostItem.bytesFrom (i : HostItem) (n : Nat) : List Byte := (i.payload.drop n).flatMap (fun w => leBytes 4 w.toNat)

/-- The owner that a function's descriptors carry (R330). -/
def fnOwner (f : Nat) : DescOwner := if f = 1 then .pf1 else .pf0

/-- The first item of the highest priority, and its place in the queue (R637). -/
def firstItem (q : List HostItem) : Option (HostItem × Nat) := lminBy (fun x => (3 - x.1.prio) * 2 ^ 16 + x.2) q.zipIdx

/-- Whether a dump's mask names a key's region. -/
def DumpJob.names (j : DumpJob) (key : Nat) : Bool := let r := keyRegion key; wbit (lgetD j.mask (r / 32) 0) (r % 32)

end Sys2Proof

namespace Sys2Proof.Machine

open Sys2Proof

/-- `s` with its HOST_QUEUES state changed. -/
def State.onHost (s : State) (f : HostQueues → HostQueues) : State := { s with host := f s.host }

/-- QUEUE_LEVEL of a function (R641). -/
def State.hqLevel (s : State) (f : Nat) : Nat :=
  let h := s.fn f
  lsum (h.queue.map HostItem.words) + (match h.building with | some x => x.1.words | none => 0)

/-- The watermark of a command queue (R641). -/
def State.hqWatermark (s : State) (f : Nat) : State :=
  let beyond := decide ((s.rget (hqReg f Reg.HQ_WM_HI)).toNat ≤ s.hqLevel f)
  let was := (s.fn f).wmNow
  let s1 := s.onFn f (fun h => { h with wmNow := beyond })
  if beyond ∧ ¬ was then
    let o := hqReg f Reg.HQ_CROSS_COUNT
    (s1.rset o (nw (min 255 ((s1.rget o).toNat + 1)))).hqRaise f 2 2
  else s1

/-- A word dropped (R638, R640). -/
def State.dropWord (s : State) (f : Nat) : State := s.bump (hqReg f Reg.HQ_DROPPED_WORDS)

/-- Discard the item being written and drop words until a header (R635, R638). -/
def State.startDropping (s : State) (f : Nat) : State := s.onFn f (fun h => { h with building := none, dropping := true })

/-- A header begins an item, complete at once where LENGTH is 0 (R636). -/
def State.beginItem (s : State) (f : Nat) (w : Word) : State :=
  let (i, n) := headerItem w
  s.onFn f (fun h => if n = 0 then { h with queue := h.queue ++ [i], dropping := false } else { h with building := some (i, n), dropping := false })

/-- A whole word arrives at a function's queue (R634, R636, R638, R640, R641). -/
def State.pushWhole (s : State) (f : Nat) (w : Word) : State :=
  let h := s.fn f
  if 16384 ≤ s.hqLevel f then ((s.dropWord f).startDropping f).hqRaise f 3 2
  else if h.dropping then
    if wbit w 31 ∧ (opcodeWords (wbits w 19 12)).isSome then (s.beginItem f w) else s.dropWord f
  else match h.building with
    | some (i, n) =>
      let j : HostItem := { i with payload := i.payload ++ [w] }
      if n ≤ 1 then s.onFn f (fun x => { x with queue := x.queue ++ [j], building := none })
      else s.onFn f (fun x => { x with building := some (j, n - 1) })
    | none => if wbit w 31 then s.beginItem f w else (s.dropWord f).startDropping f

/-- A word at the push aperture (R634, R635, R700): one without all byte enables is dropped as a narrow write (R666). -/
def State.pushOne (s : State) (ini off f : Nat) (p : PushWord) : State :=
  if p.enables = 0xF then (s.pushWhole f p.data).hqWatermark f
  else (((s.late ini off 4).dropWord f).startDropping f).hqWatermark f

/-- FLUSH (R639). -/
def State.flushHq (s : State) (f : Nat) : State :=
  ((s.bump (hqReg f Reg.FLUSHED_ITEMS) (s.fn f).queue.length).onFn f (fun h => { h with queue := [], building := none, dropping := true })).hqWatermark f

/-- Operations queued on a host DMA channel (R646). -/
def State.moveChannel (f : Nat) (i : HostItem) : Nat := 28 + 2 * f + i.word 0 % 2

/-- Whether an item must wait in the queue (R637, R646, R648). -/
def State.itemWaits (s : State) (f : Nat) (i : HostItem) : Bool :=
  i.ok && (decide (i.opcode = 4 ∧ 16 ≤ (s.mover (State.moveChannel f i)).queue.length) ||
    (decide (i.opcode = 5) && (s.fn f).unmapping.contains (i.word 0 % 256)))

/-- Take an item (R637): an opcode that names no command completes BAD_ITEM (R644). -/
def State.takeItem (s : State) (f : Nat) (i : HostItem) (ix : Nat) : State :=
  let id := (s.fn f).nextId
  let t : TakenItem := { id := id, tag := i.tag, opcode := i.opcode }
  let s1 := (s.bump (hqReg f Reg.ITEMS_TAKEN)).onFn f (fun h => { h with
    queue := h.queue.eraseIdx ix, taken := h.taken ++ [t], nextId := id + 1
    unmapping := if i.opcode = 6 ∧ i.ok then h.unmapping ++ [i.word 0] else h.unmapping })
  let s2 := s1.hqWatermark f
  if (opcodeWords i.opcode).isNone then s2.complete f id 4 0 0 else s2.onFn f (fun h => { h with current := some (id, i) })

/-- Act on the item taken, where it is a command `op` (R642): BAD_ITEM before PRIVILEGE. `only` names the one function that may use
it. -/
def State.actItem (s : State) (f op : Nat) (only : Option Nat) (act : State → Nat → HostItem → State) : State :=
  match (s.fn f).current with
  | none => s
  | some (id, i) =>
    if i.opcode ≠ op then s
    else
      let s1 := s.onFn f (fun h => { h with current := none })
      if ¬ i.ok then s1.complete f id 4 0 0
      else if only.isSome ∧ only ≠ some f then s1.complete f id 3 0 0
      else act s1 id i

/-- Change an item taken and not completed. -/
def State.onTaken (s : State) (f id : Nat) (g : TakenItem → TakenItem) : State :=
  s.onFn f (fun h => { h with taken := h.taken.map (fun t => if t.id = id then g t else t) })

/-- Whether the items that an item waits for have completed (R643, R647). -/
def State.waitsOver (s : State) (f : Nat) (t : TakenItem) : Bool := !t.waits.any (fun n => (s.fn f).taken.any (fun x => decide (x.id = n)))

/-! ### Descriptors -/

/-- The lowest free index of the mover's descriptor table. -/
def State.freeDesc (s : State) : Option Nat := (List.range 4096).find? (fun i => (mget s.descs i).isNone)

/-- The REASON that refuses a descriptor created by a command (R337, R645). -/
def State.hostDescReason (s : State) (f : Nat) (d : Desc) : Option Nat :=
  let stored := (mget s.data (2 * 65536 + d.dataSet)).map (fun x => x.size)
  let size := if d.space = 3 then some (2 ^ 62) else if d.space = 2 ∧ (d.dataSet ≠ 0xFFFE ∨ f = 1) then stored else none
  let handle := decide (d.space = 2 ∨ (d.space = 3 ∧ d.dataSet < 256))
  let rs := (d.reasons size handle false s.coordNat).filter (fun r => decide (d.space ≠ 3 ∨ r ≠ 1))
  let all := rs ++ (if s.freeDesc.isNone then [9] else [])
  match all with
  | [] => none
  | r :: l => some (l.foldl min r)

/-- DESC_CREATE (R645): its completion. -/
def State.createDesc (s : State) (f id : Nat) (d : Desc) : State :=
  if d.space = 2 ∧ d.dataSet ≠ 0xFFFE ∧ s.live.isNone then s.complete f id 6 0 0
  else match s.hostDescReason f d, s.freeDesc with
    | none, some i => ({ s with descs := mset s.descs i { desc := d, owner := fnOwner f } }.bump Reg.DESC_CREATED).complete f id 0 i 0
    | r, _ => (s.descRefused 1 0 (r.getD 9)).complete f id 1 (r.getD 9) 0

/-- Whether a queued or running operation names a descriptor (R338). -/
def State.descBusy (s : State) (i : Nat) : Bool :=
  s.movers.any (fun m => (m.queue ++ m.running.toList).any (fun j =>
    decide (j.op.dst = i ∨ ((j.op.op = 1 ∨ j.op.op = 3 ∨ j.op.op = 4) ∧ j.op.src = i) ∨ ((j.op.op = 3 ∨ j.op.op = 4) ∧ j.op.idx = i))))

/-- DESC_DESTROY (R338, R644): only a descriptor that the function created. -/
def State.destroyDesc (s : State) (f id ix : Nat) : State :=
  match mget s.descs ix with
  | some d =>
    if d.owner ≠ fnOwner f then s.complete f id 4 0 0
    else if s.descBusy ix then (s.descRefused 1 ix 10).complete f id 5 0 0
    else { s with descs := merase s.descs ix }.complete f id 0 0 0
  | none => s.complete f id 4 0 0

/-- The windows that an operation names (R632). -/
def State.opWindows (s : State) (o : MoverOp) : List Nat :=
  (if o.op = 1 then [o.src, o.dst] else [o.dst]).filterMap (fun i => match mget s.descs i with
    | some d => if d.desc.space = 3 then some (d.desc.dataSet % 256) else none
    | none => none)

/-- Whether a MOVE keeps R646. -/
def State.moveOk (s : State) (f : Nat) (o : MoverOp) : Bool :=
  let own := fun i => match mget s.descs i with | some d => decide (d.owner = fnOwner f) | none => false
  let host := fun i => match mget s.descs i with | some d => decide (d.desc.space = 3) | none => false
  decide (o.wait = 0 ∧ o.signal = 0) && own o.dst &&
    (decide (o.op = 2) || (decide (o.op = 1) && own o.src && (host o.src != host o.dst)))

/-- MOVE (R646). -/
def State.hostMoveItem (s : State) (f id : Nat) (i : HostItem) : State :=
  let o := moverOpOf (i.bytesFrom 1)
  if ¬ s.moveOk f o then s.complete f id 8 0 0
  else
    let ws := s.opWindows o
    (s.onTaken f id (fun t => { t with windows := ws })).onMover (State.moveChannel f i) (fun m =>
      { m with queue := m.queue ++ [{ op := o, host := some (f, id) }] })

/-! ### Dumps (R656) -/

/-- Whether a stored record is non-zero (R656). -/
def cellShown (c : Cell) : Bool := decide (c.logOdds ≠ 0 ∨ c.vx ≠ 0 ∨ c.vy ≠ 0 ∨ c.cls ≠ 0 ∨ c.conf ≠ 0)

/-- One entry written to the window, or dropped beyond it (R364, R656). -/
def State.dumpEntry (s : State) (j : DumpJob) (x : Nat × Cell) : State × DumpJob :=
  let e : CommitEntry := { key := x.1, cell := x.2, seq := s.tl.beat % 65536 }
  let o := 16 * j.found
  match s.winFor 0 j.window true with
  | some w =>
    if o + 16 ≤ w.pages * 4096 then (s.hwrite (w.base + o) (leBytes 16 (entryBits e)), { j with found := j.found + 1 })
    else ((s.xlateCapture true 0x09 28 o).hqRaise 0 5 3, { j with found := j.found + 1, faulted := true })
  | none => ((s.xlateCapture true 0x09 28 o).hqRaise 0 5 3, { j with found := j.found + 1, faulted := true })

/-- What a dump reads in one beat (R656): the merged nodes first, then at most 512 pods in the order of their keys. -/
def State.dumpRead (s : State) (j : DumpJob) : State × DumpJob :=
  let merged := if j.cursor = 0 then s.allRecords.filter (fun (x : Nat × Cell) => decide (keyLevel x.1 < 11)) else []
  let pods := lsortBy (fun (p : Pod) => p.key) ((s.store.pods.map (fun (x : Nat × Pod) => x.2)).filter (fun p => decide (j.cursor ≤ p.key) && j.names p.key))
  let now := pods.take 512
  let recs := (merged ++ now.flatMap podCells).filter (fun (x : Nat × Cell) => j.names x.1 && s.ownsKey x.1 && cellShown x.2)
  let r := recs.foldl (fun (a : State × DumpJob) x => a.1.dumpEntry a.2 x) (s, j)
  let next := match now.getLast? with | some p => p.key + 1 | none => j.cursor + 1
  (r.1, { r.2 with cursor := next, done := decide (pods.length ≤ 512) })

/-- The oldest dump reads in a beat. -/
def State.dumpBeat (s : State) : State :=
  match s.host.dumps with
  | [] => s
  | j :: rest => if j.done then s else let r := s.dumpRead j; r.1.onHost (fun h => { h with dumps := r.2 :: rest })

/-! ### Resets of a function (R628, R629, R695) -/

/-- A Function Level Reset. The LOCK of HOST_QUEUES stays. -/
def State.resetFn (s : State) (f : Nat) : State :=
  let lo := hqReg f 0xF00000
  let lock := s.rbit (hqReg 0 Reg.HQ_CTRL) 0
  let chans := [28 + 2 * f, 29 + 2 * f]
  let busy := fun i => chans.any (fun c => match (s.mover c).running with | some j => decide (j.op.dst = i ∨ j.op.src = i) | none => false)
  let s1 := s.onFn f (fun h => { nextId := h.nextId })
  let s2 : State := { s1 with
    regs := s1.regs.filter (fun (x : Nat × Word) => decide (x.1 < lo ∨ lo + 0x2000 ≤ x.1))
    descs := s1.descs.filterMap (fun (x : Nat × DescEntry) =>
      if x.2.owner ≠ fnOwner f then some x else if busy x.1 then some (x.1, { x.2 with void := true }) else none)
    movers := s1.movers.zipIdx.map (fun x =>
      if chans.contains x.2 then { x.1 with queue := [], running := x.1.running.map (fun j => { j with cancelled := true }) } else x.1) }
  let s3 := if lock then s2.rput (hqReg 0 Reg.HQ_CTRL) 0 0 1 else s2
  if f = 1 then s3.onHost (fun h => { h with attests := [] })
  else ((s3.rput Reg.RING_CTRL 0 0 0).destOff 6).onHost (fun h => { h with dumps := [], stall := 0, irqArmed := false })

/-! ### The commit ring (R652 to R655) -/

/-- RING_CTRL.ENABLE written (R654, R699): the host copy begins with the records of the next beat. -/
def State.ringEnable (s : State) (on : Bool) : State :=
  if on then
    if s.rbit Reg.RING_CTRL 0 then s
    else
      let s1 := ((s.rput Reg.RING_CTRL 0 0 1).setPair Reg.RING_WRITE_LO Reg.RING_WRITE_HI 0).setPair Reg.RING_READ_LO Reg.RING_READ_HI 0
      (if s1.com.closed then s1 else s1.onDest 6 (fun d => { d with starting := true })).onHost (fun h => { h with stall := 0 })
  else (s.rput Reg.RING_CTRL 0 0 0).destOff 6

/-- A host record is written to the ring (R652, R653). -/
def State.ringRecord (s : State) (r : SentRecord) : State :=
  let b := r.bytes
  let w := s.rpair Reg.RING_WRITE_LO Reg.RING_WRITE_HI
  let base := s.rpair Reg.RING_BASE_LO Reg.RING_BASE_HI
  let n := s.ringSize - w % s.ringSize
  let s1 := (s.hwrite (base + w % s.ringSize) (b.take n)).hwrite base (b.drop n)
  let s2 := s1.setPair Reg.RING_WRITE_LO Reg.RING_WRITE_HI (w + b.length)
  let s3 := s2.hwrite (s.rpair Reg.RING_WB_ADDR_LO Reg.RING_WB_ADDR_HI) (leBytes 8 (w + b.length))
  let o := hqReg 0 Reg.HQ_EVENTS
  (s3.rset o (s3.rget o ||| 2)).onHost (fun h => { h with left := true, irqArmed := true })

/-- The ring's counts at the end of a beat (R655, R657). -/
def State.ringBeat (s : State) : State :=
  let waits := (s.dest 6).on && (!(s.dest 6).queue.isEmpty || (s.dest 6).ready.isSome)
  s.onHost (fun h => { h with stall := if waits ∧ ¬ h.left then h.stall + 1 else 0, left := false, irqBeats := min 1024 (h.irqBeats + 1) })

/-- The host copy is suspended (R655). -/
def State.ringSuspendAct (s : State) : State :=
  let first : Option (Nat × Nat) := match (s.dest 6).queue with
    | r :: _ => some (r.epoch, r.beat)
    | [] => none
  let s1 := match first with
    | some (e, b) => (s.rset Reg.LOST_EPOCH (nw e)).setPair Reg.LOST_FIRST_BEAT_LO Reg.LOST_FIRST_BEAT_HI b
    | none => s
  let s2 := ((s1.destOff 6).rput Reg.RING_CTRL 0 0 0).onHost (fun h => { h with stall := 0 })
  ((s2.bump Reg.RING_SUSPENDS).hqRaise 0 4 3).logRec 3 0 0 0 0

end Sys2Proof.Machine
end

