-- ==== Sys2Proof/Machine/Host.lean ====
section
/-! DEFINITION. Commands of the host interface: queues, items and the commit ring (R624 to R658). -/

namespace Sys2Proof.Machine

open Sys2Proof

/-- PCIE_PERST (R628): PCIE_PERST_N asserted, or the link down: both functions reset. -/
def execPciePerst (s : State) : Out := if s.up then .next ((s.resetFn 0).resetFn 1) else .next s

/-- FUNCTION_LEVEL_RESET (R629). -/
def execFunctionLevelReset (fn : Fin 2) (s : State) : Out :=
  if ¬ s.up ∨ s.boot.step < 8 ∨ (fn = 1 ∧ ¬ s.pf1Present) then .next s else .next (s.resetFn fn.val)

/-- Whether an initiator's requests reach the control window (R663, R706, R707, R751): those of the host from boot step 8, those of PF1
where it is present; none once the part has stopped at step 2 or 3, or after a save. -/
def State.reaches (s : State) (ini : Initiator) : Bool :=
  s.up && !s.power.stopped && !(s.boot.stopped && decide (s.boot.step ≤ 3)) && (match ini with
    | .pf0 => decide (8 ≤ s.boot.step)
    | .pf1 => decide (8 ≤ s.boot.step) && s.pf1Present
    | _ => true)

/-- Each word of a push, judged by the firewall first (R662, R700). -/
def State.pushAll (s : State) (ini : Initiator) (o : Nat) (ws : List PushWord) : State :=
  lfoldIdx (fun (t : State) i w =>
    let a := o + 4 * i
    if t.fwOpen 0 true ini.id a 4 then t.pushOne ini.id a ini.hostFn w else t.deny true ini.id 0 a) s 0 ws

/-- PUSH_WORD (R634 to R641, R693, R700). -/
def execPushWord (ini : Initiator) (off : Fin 1024) (words : List PushWord) (s : State) : Out :=
  if ¬ s.reaches ini then .next s else .next (s.pushAll ini (0xFA0000 + 4 * off.val) words)

/-- ITEM_TAKE (R637, R648, R651). -/
def execItemTake (fn : Fin 2) (s : State) : Out :=
  let f := fn.val
  match firstItem (s.fn f).queue with
  | none => .next s
  | some (i, ix) =>
    if (s.fn f).current.isSome ∨ s.cplFull f ∨ s.itemWaits f i then .next s else .next (s.takeItem f i ix)

/-- NOP. -/
def execHostNop (fn : Fin 2) (s : State) : Out := .next (s.actItem fn.val 0 none (fun t id _ => t.complete fn.val id 0 0 0))

/-- FENCE (R643): it waits for every item of its function taken before it. -/
def execHostFence (fn : Fin 2) (s : State) : Out :=
  .next (s.actItem fn.val 1 none (fun t id _ =>
    t.onTaken fn.val id (fun x => { x with waits := ((t.fn fn.val).taken.map (fun y => y.id)).filter (fun n => n ≠ id) })))

/-- DESC_CREATE (R645). -/
def execDescCreate (fn : Fin 2) (s : State) : Out :=
  .next (s.actItem fn.val 2 none (fun t id i => t.createDesc fn.val id (descOf (i.bytesFrom 0))))

/-- DESC_DESTROY (R338, R644). -/
def execDescDestroy (fn : Fin 2) (s : State) : Out := .next (s.actItem fn.val 3 none (fun t id i => t.destroyDesc fn.val id (i.word 0)))

/-- MOVE (R646). -/
def execHostMove (fn : Fin 2) (s : State) : Out := .next (s.actItem fn.val 4 none (fun t id i => t.hostMoveItem fn.val id i))

/-- MAP_WINDOW (R631, R648). -/
def execMapWindow (fn : Fin 2) (s : State) : Out :=
  .next (s.actItem fn.val 5 none (fun t id i =>
    let w := i.word 0 % 256
    if (mget (t.fn fn.val).windows w).isSome then t.complete fn.val id 5 0 0
    else
      let x : HostWindow := { base := i.word 1 + i.word 2 * 2 ^ 32, pages := i.word 3, read := nbit (i.word 0) 8, write := nbit (i.word 0) 9 }
      (t.onFn fn.val (fun h => { h with windows := mset h.windows w x })).complete fn.val id 0 0 0))

/-- UNMAP_WINDOW (R647): it waits for the operations that name the window. -/
def execUnmapWindow (fn : Fin 2) (s : State) : Out :=
  .next (s.actItem fn.val 6 none (fun t id i =>
    t.onTaken fn.val id (fun x => { x with
      windows := [i.word 0]
      waits := (((t.fn fn.val).taken.filter (fun y => y.windows.contains (i.word 0))).map (fun y => y.id)).filter (fun n => n ≠ id) })))

/-- DUMP (R656): PF0 only; reading begins at once where no dump runs. -/
def execHostDump (fn : Fin 2) (s : State) : Out :=
  .next (s.actItem fn.val 7 (some 0) (fun t id i =>
    if t.live.isNone then t.complete fn.val id 6 0 0
    else
      let t1 := t.onTaken fn.val id (fun x => { x with windows := [i.word 0] })
      let j : DumpJob := { id := id, window := i.word 0, mask := i.payload.drop 1, beat := t.tl.beat, epoch := t.tl.epoch.toNat }
      let t2 := t1.onHost (fun h => { h with dumps := h.dumps ++ [j] })
      if t.host.dumps.isEmpty then t2.dumpBeat else t2))

/-- FENCE_COMPLETE (R643). -/
def execFenceComplete (fn : Fin 2) (s : State) : Out :=
  match (s.fn fn.val).taken.find? (fun t => decide (t.opcode = 1) && s.waitsOver fn.val t &&
      decide ((s.fn fn.val).current.map (fun x => x.1) ≠ some t.id)) with
  | some t => .next (s.complete fn.val t.id 0 0 0)
  | none => .next s

/-- UNMAP_WINDOW_COMPLETE (R647, R648). -/
def execUnmapWindowComplete (fn : Fin 2) (s : State) : Out :=
  match (s.fn fn.val).taken.find? (fun t => decide (t.opcode = 6) && s.waitsOver fn.val t &&
      decide ((s.fn fn.val).current.map (fun x => x.1) ≠ some t.id)) with
  | some t =>
    let w := lgetD t.windows 0 0
    .next ((s.onFn fn.val (fun h => { h with windows := merase h.windows w, unmapping := h.unmapping.erase w })).complete fn.val t.id 0 0 0)
  | none => .next s

/-- DUMP_COMPLETE (R656): EPOCH_CHANGED, FAULTED or OK; the next dump begins to read. -/
def execDumpComplete (s : State) : Out :=
  match s.host.dumps with
  | [] => .next s
  | j :: rest =>
    if ¬ j.done then .next s
    else
      let st := if j.epoch ≠ s.tl.epoch.toNat then 7 else if j.faulted then 2 else 0
      let s1 := (s.onHost (fun h => { h with dumps := rest })).complete 0 j.id st j.beat j.found
      match rest with
      | [] => .next s1
      | k :: more => .next ((s1.onHost (fun h => { h with dumps := { k with beat := s.tl.beat, epoch := s.tl.epoch.toNat } :: more })).dumpBeat)

/-- RING_RECORD_WRITE (R652, R653). -/
def execRingRecordWrite (s : State) : Out :=
  match (s.dest 6).ready with
  | some r => if s.ringRoom r.bytes.length then .next ((s.onDest 6 (fun d => { d with ready := none })).ringRecord r) else .next s
  | none => .next s

/-- RING_SUSPEND (R655). -/
def execRingSuspend (s : State) : Out :=
  if s.rbit Reg.RING_CTRL 0 ∧ s.rbits Reg.RING_STALL_LIMIT 15 0 ≤ s.host.stall ∧ 0 < s.host.stall then .next s.ringSuspendAct else .next s

/-- RING_IRQ (R657): vector 1, at most once in RING_IRQ_BEATS beats. -/
def execRingIrq (s : State) : Out :=
  if s.host.irqArmed ∧ s.rbits Reg.RING_IRQ_BEATS 10 0 ≤ s.host.irqBeats ∧ s.rbit (hqReg 0 Reg.HQ_EVENTS) 1 ∧
      s.rbit (hqReg 0 Reg.HQ_EVENT_EN) 1 then
    .next ((s.msix 0 1).onHost (fun h => { h with irqArmed := false, irqBeats := 0 }))
  else .next s

end Sys2Proof.Machine
end

