-- ==== Sys2Proof/Machine/MemOps.lean ====
section
/-! DEFINITION. DRAM reads, counting, repair, sparing and poison, and SRAM bank groups (R485 to R516). -/

namespace Sys2Proof

/-- Bank of a channel address (R489): GROUP × 4 + BANK. -/
def addrBank (a : Nat) : Nat := nbits a 8 7 * 4 + nbits a 10 9
/-- Row of a channel address. -/
def addrRow (a : Nat) : Nat := nbits a 29 15
/-- Codeword in row of a channel address. -/
def addrCol (a : Nat) : Nat := nbits a 14 12 * 2 + nbits a 11 11
/-- Codeword number of a channel address. -/
def addrCw (a : Nat) : Nat := a / 128

/-- The channel address of codeword `n`. -/
def cwAddr (n : Nat) : Nat := n * 128

/-- Codewords of a channel: 1 GiB of 128 B (R486). -/
def channelCws : Nat := 8388608

/-- Whether a codeword holds the poison pattern. -/
def Channel.holdsPoison (c : Channel) (cw : Nat) : Bool :=
  c.poisoned.contains cw || (match c.poisonFrom with | some n => decide (n ≤ cw) | none => false)

end Sys2Proof

namespace Sys2Proof.Machine

open Sys2Proof

/-- `s` with the memory system changed. -/
def State.onMem (s : State) (f : Memory → Memory) : State := { s with mem := f s.mem }

/-- The logical channel that a physical channel serves, as a source or in service. -/
def State.logicalOf (s : State) (c : Nat) : Option Nat := s.mem.map.findIdx? (fun p => decide (p = c))

/-! ### Poison (R495, R496) -/

/-- Poison the data that lies at DRAM addresses for which `f` holds: data sets, pods, node-table buckets. -/
def State.poisonWhere (s : State) (f : Nat → Bool) : State :=
  let k := match s.live with | some i => i.k | none => 0
  let data := s.data.map (fun (x : Nat × DataStore) =>
    if x.1 / 65536 ≠ 2 then x
    else
      let spans := ((List.range (cdiv x.2.size 128)).filter (fun w => f (Config.dramAddress k (x.1 % 65536) (128 * w)))).map (fun w => ({ lo := 128 * w } : PoisonSpan))
      (x.1, { x.2 with poisoned := x.2.poisoned.filter (fun p => !spans.any (fun q => decide (q.lo = p.lo))) ++ spans }))
  let s1 : State := { s with data := data }
  let lost := (s1.store.pods.filter (fun (x : Nat × Pod) => (List.range 12).any (fun i => f (Config.poolAddress x.1 + 128 * i)))).map (fun x => x.1)
  let s2 := lost.foldl (fun (t : State) ix => (t.freePod ix).bump Reg.PODS_POISONED) s1
  let hit := fun (x : Nat × NodeEntry) => decide (17 < (s2.store.region (keyRegion x.2.key)).lg) && f (Config.tableAddress (x.1 / 4))
  let regions := ((s2.store.nodes.filter hit).map (fun x => keyRegion x.2.key)).eraseDups
  let s3 := s2.onStore (fun p => { p with nodes := p.nodes.map (fun x => if hit x then (x.1, { x.2 with kind := .tombstone }) else x) })
  regions.foldl (fun (t : State) r => t.onStore (fun p => p.trigger r 2 none)) s3

/-- Poison one codeword of a physical channel. -/
def State.poisonCw (s : State) (c cw : Nat) : State :=
  let s1 := ((s.onChannel c (fun x => { x with poisoned := kinsert cw x.poisoned })).bump (Reg.POISONED c)).raise Reg.MEM_EVENTS 2
  match s.logicalOf c with
  | some l => s1.poisonWhere (fun a => decide (a / 128 = (l * 2 ^ 30 + cwAddr cw) / 128))
  | none => s1

/-! ### Captures and counts -/

/-- Capture an ECC error while ECC_INFO is free (R519). -/
def State.eccCapture (s : State) (unc dram hard : Bool) (unit syms addr : Nat) : State :=
  if s.rbit Reg.ECC_INFO 31 then s
  else
    (s.rset Reg.ECC_INFO (nw (2 ^ 31 + b2n unc * 2 ^ 30 + b2n dram * 2 ^ 29 + b2n hard * 2 ^ 28 + unit * 2 ^ 22 + syms * 2 ^ 18))).setPair
      Reg.ECC_ADDR_LO Reg.ECC_ADDR_HI addr

/-- Symbols counted against a channel in the current window (R504). -/
def State.windowSymbols (s : State) (c : Nat) : Nat :=
  lsum (((s.channel c).stamps.filter (fun (x : Nat × Nat) => decide (s.now < x.2 + s.rbits Reg.DRAM_FAULT_CFG 31 16 * cyclesS))).map (fun x => x.1))

/-- Whether a channel has been declared (R582). -/
def State.chDeclared (s : State) (c : Nat) : Bool :=
  let x := (s.channel c).state
  decide (x = .source ∨ x = .retired)

/-! ### Sparing (R475, R504 to R508) -/

/-- The spare that replaces a channel (R505): of the same die where one remains, else the other. -/
def State.spareFor (s : State) (c : Nat) : Option Nat :=
  let spare := (List.range 18).filter (fun x => decide ((s.channel x).state = .spare ∧ x ≠ c))
  match spare.find? (fun x => decide (x / 9 = c / 9)) with
  | some x => some x
  | none => spare.head?

/-- DRAM_AVAIL in KiB with `n` channels (R514). -/
def dramAvailOf (n : Nat) : Nat := (n * 1024 - 2624) * 1024

/-- Replace channel `c` (R505, R507), or re-interleave over the others when no spare remains (R475). -/
def State.spareChannel (s : State) (c : Nat) (spare : Option Nat) : State :=
  match spare with
  | some d =>
    let s1 := (s.onChannel c (fun x => { x with state := .source, repairs := [] })).onChannel d (fun x => { x with state := .target })
    s1.onMem (fun m => { m with copies := m.copies ++ [{ src := c, dst := d }] })
  | none =>
    let s1 := (s.onChannel c (fun x => { x with state := .source, repairs := [] })).onMem (fun m => { m with copies := m.copies ++ [{ src := c, dst := 18 }] })
    let left := s1.mem.inUse - (s1.mem.copies.filter (fun x => decide (x.dst = 18))).length
    let fits := match s.live with | some i => decide (cdiv (dramClaim i none) 1024 ≤ dramAvailOf left) | none => true
    if fits then s1 else (s1.raise Reg.PLACE_EVENTS 10).enterHold 4

/-- A channel becomes a permanent fault (R504, R505, R507, R508, R582). -/
def State.retireChannel (s : State) (c : Nat) (hard : Bool) : State :=
  let x := s.channel c
  match x.state with
  | .retired => s
  | .source =>
    if ¬ hard then s
    else match s.mem.copies.find? (fun y => decide (y.src = c ∧ ¬ y.done ∧ y.dst < 18)) with
      | none => s
      | some y =>
        let frm := y.copied * 1024 / 128
        let s1 := s.onMem (fun m => { m with copies := m.copies.map (fun z => if z = y then { z with done := true } else z) })
        let s2 := (s1.onChannel y.dst (fun d => { d with poisonFrom := some frm })).raise Reg.MEM_EVENTS 2
        match s.logicalOf c with
        | some l => s2.poisonWhere (fun a => decide (a / 2 ^ 30 = l ∧ frm ≤ a % 2 ^ 30 / 128))
        | none => s2
  | .spare =>
    ((s.onChannel c (fun x => { x with state := .retired, repairs := [] })).declare 2 c 0 none hard).raise Reg.MEM_EVENTS 3
  | .target =>
    let gone := s.mem.copies.filter (fun y => decide (y.dst = c))
    let s1 := ((s.onChannel c (fun x => { x with state := .retired, repairs := [] })).declare 2 c 0 (s.spareFor c) hard).raise Reg.MEM_EVENTS 3
    let s2 := s1.onMem (fun m => { m with copies := m.copies.filter (fun y => !decide (y.dst = c)) })
    gone.foldl (fun (t : State) y => t.spareChannel y.src (t.spareFor y.src)) s2
  | .service =>
    let sp := s.spareFor c
    let s1 := (s.declare 2 c 0 sp hard).raise Reg.MEM_EVENTS 3
    ({ s1 with place := { s1.place with evalDue := true } }).spareChannel c sp

/-- Count `n` symbols against a channel (R494, R504, R578). -/
def State.countSymbols (s : State) (c n : Nat) : State :=
  if s.chDeclared c then s
  else
    let keep := (s.channel c).stamps.filter (fun (x : Nat × Nat) => decide (s.now < x.2 + s.rbits Reg.DRAM_FAULT_CFG 31 16 * cyclesS))
    let s1 := s.onChannel c (fun x => { x with stamps := (n, s.now) :: keep })
    let s2 := s1.logRec 1 2 c 0 (min 255 (s1.windowSymbols c))
    if s.rbits Reg.DRAM_FAULT_CFG 7 0 < s1.windowSymbols c then s2.retireChannel c false else s2

/-- Request a repair after a hard event (R501). -/
def State.requestRepair (s : State) (c addr : Nat) : State :=
  if s.chDeclared c then s
  else
    let b := addrBank addr
    let x := s.channel c
    let recent := x.hard.filter (fun (h : Nat × Nat × Nat × Nat) => decide (s.now < h.2.2.2 + s.rbits Reg.DRAM_FAULT_CFG 31 16 * cyclesS))
    let column := recent.any (fun (h : Nat × Nat × Nat × Nat) => decide (h.1 = b ∧ h.2.2.1 = addrCol addr ∧ h.2.1 ≠ addrRow addr))
    let r : Repair := { column := column, bank := b, line := if column then addrCol addr else addrRow addr }
    s.onChannel c (fun x => { x with
      hard := (b, addrRow addr, addrCol addr, s.now) :: recent
      counted := kinsert (addrCw addr) x.counted
      repairs := if x.repairs.contains r then x.repairs else x.repairs ++ [r] })

/-- Whether a repair of this codeword's row or column is pending, and the codeword counted (R494). -/
def State.countedPending (s : State) (c addr : Nat) : Bool :=
  let x := s.channel c
  x.counted.contains (addrCw addr) && x.repairs.any (fun r => decide (r.bank = addrBank addr ∧ r.line = (if r.column then addrCol addr else addrRow addr)))

/-- A corrected codeword (R494): `again` is the decode after the write-back. -/
def State.corrected (s : State) (c addr n : Nat) (again : Decoded) : State :=
  let s1 := s.raise Reg.MEM_EVENTS 0
  if again = .clean then ((s1.bump (Reg.SOFT_CORRECTED c)).eccCapture false true false c n addr).countSymbols c n
  else
    let s2 := (s1.bump (Reg.HARD_CORRECTED c)).eccCapture false true true c n addr
    let s3 := if s.countedPending c addr then s2 else s2.countSymbols c n
    s3.requestRepair c addr

/-- The codeword read of R494. -/
def State.readCw (s : State) (c addr : Nat) (first second third : Decoded) : State :=
  if (s.channel c).holdsPoison (addrCw addr) then s
  else match first with
    | .clean | .poisoned => s
    | .corrected n => if n.val = 0 then s else s.corrected c addr n.val second
    | .uncorrectable =>
      let s1 := s.raise Reg.MEM_EVENTS 1
      match second with
      | .clean => ((s1.bump (Reg.UNCORR_TRANSIENT c)).eccCapture true true false c 0 addr).countSymbols c 8
      | .corrected n => (((s1.bump (Reg.UNCORR_TRANSIENT c)).eccCapture true true false c 0 addr).countSymbols c 8).corrected c addr n.val third
      | .poisoned | .uncorrectable =>
        ((s1.eccCapture true true true c 0 addr).poisonCw c (addrCw addr)).retireChannel c true

/-! ### SRAM bank groups (R509 to R513) -/

/-- SRAM of a unit: engines 0 to 19, slices 20 to 23. -/
def State.sram (s : State) (u : Nat) : SramUnit := lgetD s.mem.srams u { spares := 0 }

/-- `s` with the SRAM of a unit changed. -/
def State.onSram (s : State) (u : Nat) (f : SramUnit → SramUnit) : State := s.onMem (fun m => { m with srams := lmod m.srams u f })

/-- COMMONS_AVAIL in KiB (R513, R515). -/
def State.commonsKib (s : State) : Nat := 7936 - 512 * lsum ((s.mem.srams.drop 20).map (fun u => u.lost.length))

/-- SPACE 1 data sets that have not been moved to DRAM. -/
def State.commonsSets (s : State) : List (Nat × Nat) :=
  (s.data.filter (fun (x : Nat × DataStore) => decide (x.1 / 65536 = 1 ∧ (mget s.place.located (x.1 % 65536)).isNone))).map (fun x => (x.1 % 65536, x.2.size))

/-- Choose SPACE 1 data sets, the highest number first, until the rest fits `room` KiB (R513). -/
def commonsMoves : List (Nat × Nat) → Nat → List (Nat × Nat)
  | [], _ => []
  | x :: l, room => if cdiv (lsum ((x :: l).map (fun y => y.2))) 1024 ≤ room then [] else x :: commonsMoves l room

/-- A bank group becomes a permanent fault (R512, R513). -/
def State.groupFault (s : State) (u g : Nat) : State :=
  let x := s.sram u
  let idx := u * 16 + g
  let clear := fun (t : State) => t.onSram u (fun y => { y with events := y.events.filter (fun (e : Nat × Nat) => e.1 ≠ g) })
  if x.lost.contains g then s
  else if 0 < x.spares then
    let k := (if u < 20 then 3 else 2) - x.spares
    let s1 := (clear s).onSram u (fun y => { y with spares := y.spares - 1, groups := lput y.groups g k })
    let s2 := (s1.declare 4 idx 0 (some (u * 16 + 7 + k)) false).raise Reg.MEM_EVENTS 10
    let s3 : State := { s2 with keeper := { s2.keeper with remaps := s2.keeper.remaps ++ [(u, g)] }, place := { s2.place with evalDue := true } }
    if u < 20 then s3.took.bump64 (Reg.STALL_CYCLES_LO u) (Reg.STALL_CYCLES_HI u) (s3.freeNat % 8193) else s3
  else
    let s1 := ((clear s).declare 4 idx 0 none false)
    let s2 : State := { s1 with place := { s1.place with evalDue := true } }
    if u < 20 then s2.engPermanent u 1 false
    else
      let s3 := s2.onSram u (fun y => { y with lost := y.lost ++ [g] })
      let ms := commonsMoves s3.commonsSets.reverse s3.commonsKib
      { s3 with place := { s3.place with moves := s3.place.moves ++ ms.map (fun y => ({ set := y.1, target := 64, bytes := y.2 } : SetMove)) } }

/-- An event against a bank group (R512, R578): more than WORD_LIMIT in WORD_WINDOW frames declare it. -/
def State.groupEvent (s : State) (u g : Nat) : State :=
  if (s.sram u).lost.contains g then s
  else
    let keep := (s.sram u).events.filter (fun (e : Nat × Nat) => decide (s.tl.frames < e.2 + s.rbits Reg.SRAM_FAULT_CFG 31 16))
    let s1 := s.onSram u (fun y => { y with events := (g, s.tl.frames) :: keep })
    let n := (((s1.sram u).events).filter (fun (e : Nat × Nat) => e.1 = g)).length
    let s2 := s1.logRec 1 4 (u * 16 + g) 0 (min 255 n)
    if s.rbits Reg.SRAM_FAULT_CFG 7 0 < n then s2.groupFault u g else s2

/-- Poison the word of commons at a byte address of slice order (R511, R496). -/
def State.poisonCommons (s : State) (addr : Nat) : State :=
  { s with data := s.data.map (fun (x : Nat × DataStore) =>
      if x.1 / 65536 ≠ 1 then x
      else
        let spans := ((List.range (cdiv x.2.size 8)).filter (fun w => decide (Config.commonsAddress (x.1 % 65536) (8 * w) / 8 = addr / 8))).map
          (fun w => ({ lo := 8 * w, len := 8 } : PoisonSpan))
        (x.1, { x.2 with poisoned := x.2.poisoned ++ spans })) }

end Sys2Proof.Machine
end

