-- ==== Sys2Proof/Machine/Mem.lean ====
section
/-! DEFINITION. Commands of the DRAM channels, the scrub, the SRAMs and the mesh links (R48 to R50, R494 to R513). -/

namespace Sys2Proof.Machine

open Sys2Proof

/-- DRAM_READ (R494): a codeword read of a physical channel. -/
def execDramRead (ch : Fin 18) (addr : BitVec 30) (first second third : Decoded) (s : State) : Out :=
  if ¬ s.up ∨ s.boot.step < 6 ∨ (s.channel ch.val).state = .retired ∨ s.power.stopped then .next s
  else .next (s.readCw ch.val addr.toNat first second third)

/-- DRAM_REPAIR (R502, R504): the oldest repair requested of a channel, at most one a frame. -/
def execDramRepair (ch : Fin 18) (s : State) : Out :=
  let x := s.channel ch.val
  if ¬ s.up ∨ s.saved ∨ x.repairFrame = some s.tl.frames then .next s
  else match x.repairs with
    | [] => .next s
    | r :: rest =>
      let used := mgetD (if r.column then x.cols else x.rows) r.bank 0
      let left := if r.column then 4 - used else 16 - used
      let s1 := s.onChannel ch.val (fun y => { y with repairs := rest, repairFrame := some s.tl.frames })
      if left = 0 then .next ((s1.raise Reg.MEM_EVENTS 6).retireChannel ch.val false)
      else
        let inLine := fun cw => let a := cwAddr cw; decide (addrBank a = r.bank ∧ (if r.column then addrCol a else addrRow a) = r.line)
        let s2 := s1.onChannel ch.val (fun y => { y with
          done := y.done ++ [r], counted := y.counted.filter (fun cw => !inLine cw)
          rows := if r.column then y.rows else mset y.rows r.bank (used + 1)
          cols := if r.column then mset y.cols r.bank (used + 1) else y.cols })
        let s3 := if s2.safety.keeperBad then s2 else { s2 with keeper := { s2.keeper with repairs := s2.keeper.repairs ++ [(ch.val, r)] } }
        .next ((s3.bump (if r.column then Reg.COL_REPAIRS ch.val else Reg.ROW_REPAIRS ch.val)).raise Reg.MEM_EVENTS (if r.column then 5 else 4))

/-- DRAM_COPY_DONE (R505 to R507): the running copy has reached its last codeword; step 4 of the next boundary changes the map. -/
def execDramCopyDone (s : State) : Out :=
  match s.mem.copies.findIdx? (fun y => !y.done) with
  | none => .next s
  | some i => if s.saved then .next s else .next (s.onMem (fun m => { m with copies := lmod m.copies i (fun y => { y with copied := 1048576, done := true }) }))

/-- DRAM_REFRESH (R498): a bank is refreshed. It holds the bank for a while and changes nothing that the part holds. -/
def execDramRefresh (_ch : Fin 18) (_bank : Fin 16) (s : State) : Out := .next s

/-- DRAM_RECALIBRATE (R499): channel c in frames of index 3 × c modulo 64; a failure is a hard-fail signature. -/
def execDramRecalibrate (ch : Fin 18) (ok : Bool) (s : State) : Out :=
  if ¬ s.up ∨ s.boot.step < 6 ∨ (s.channel ch.val).state = .retired ∨ s.frame % 64 ≠ 3 * ch.val ∨ s.saved then .next s
  else
    let s1 := s.bump (Reg.RECALIBRATIONS ch.val)
    if ok then .next s1 else .next ((s1.raise Reg.MEM_EVENTS 11).retireChannel ch.val true)

/-- The first channel from `c` on that the scrub visits. -/
def State.scrubFrom (s : State) (c : Nat) : Option Nat :=
  (List.range 18).find? (fun x => decide (c ≤ x ∧ (s.channel x).state ≠ .retired))

/-- SCRUB_READ (R500): the next codeword of the pass; a pass that has ended begins again. -/
def execScrubRead (first second third : Decoded) (s : State) : Out :=
  if ¬ s.up ∨ s.boot.step < 6 ∨ s.saved then .next s
  else
    let (c0, a0) := if s.mem.scrubActive then (s.mem.scrubChannel, s.mem.scrubAddr) else (0, 0)
    match s.scrubFrom c0 with
    | none => .next (s.onMem (fun m => { m with scrubActive := false }))
    | some c =>
      let a := if c = c0 then a0 else 0
      let s1 := s.readCw c (cwAddr a) first second third
      if a + 1 < channelCws then .next (s1.onMem (fun m => { m with scrubActive := true, scrubChannel := c, scrubAddr := a + 1 }))
      else .next ((s1.bump (Reg.SCRUB_PASSES c)).onMem (fun m =>
        { m with scrubActive := (s.scrubFrom (c + 1)).isSome, scrubChannel := c + 1, scrubAddr := 0 }))

/-- SRAM_READ_ERROR (R510 to R513): engine stores are units 0 to 19, commons slices 20 to 23, any other SRAM 24. `again` says whether an
uncorrectable error recurs on a re-read. -/
def execSramReadError (unit : Fin 25) (bank : Fin 32) (addr : Nat) (uncorrectable again : Bool) (s : State) : Out :=
  let u := unit.val
  let g := bank.val / 4
  if ¬ s.up ∨ s.power.stopped then .next s
  else if u = 24 then
    if uncorrectable then .next (((s.eccCapture true false again u 0 addr).raise Reg.MEM_EVENTS 9).hardFail 5)
    else .next (((s.bump Reg.OTHER_SRAM_CORRECTED).eccCapture false false false u 1 addr).raise Reg.MEM_EVENTS 8)
  else if ¬ uncorrectable then
    .next ((((s.bump (Reg.SRAM_CORRECTED (sramReg u))).eccCapture false false false u 1 addr).raise Reg.MEM_EVENTS 8).groupEvent u g)
  else
    let s1 := ((s.bump (Reg.SRAM_UNCORRECTABLE (sramReg u))).eccCapture true false again u 0 addr).raise Reg.MEM_EVENTS 9
    let s2 := if u < 20 then s1.engEvent u 1 else s1.poisonCommons addr
    let s3 := s2.groupEvent u g
    .next (if again then s3.groupFault u g else s3)
where
  /-- Index of a unit's registers: commons slices lie at 0x4400 (R517). -/
  sramReg (u : Nat) : Nat := if u < 20 then u else 32 + (u - 20)

/-- MESH_SINGLE_BIT (R49): corrected, and counted against the link. -/
def execMeshSingleBit (router : Fin 45) (link : Fin 4) (s : State) : Out :=
  let k := router.val * 4 + link.val
  .next (s.onMem (fun m => { m with links := mset m.links k (mgetD m.links k 0 + 1) }))

/-- MESH_DOUBLE_BIT (R50): the packet is dropped; the event counts against the channel behind the sending node, or is a hard-fail
signature. `index` is the physical channel behind a memory node, or the bank group of a commons slice. -/
def execMeshDoubleBit (node : Fin 45) (index : Nat) (s : State) : Out :=
  let n := node.val
  if ¬ s.up then .next s
  else if n < 20 then .next (s.engEvent n 4)
  else if n < 24 then .next (s.groupEvent n (index % 8))
  else if n < 33 then
    let c := if index / 9 % 2 = 0 then n - 24 else n - 24 + 9
    .next (if (s.channel c).state = .retired then s else s.countSymbols c 1)
  else .next (s.hardFail 2)

end Sys2Proof.Machine
end

