-- ==== Sys2Proof/Machine/Ports.lean ====
section
/-! DEFINITION. Commands of the sensor ports and the bridge (R111 to R135, R161 to R163). -/

namespace Sys2Proof.Machine

open Sys2Proof

/-- FRAME_RECEIVE (R114 to R135, R152): a frame arriving on a sensor port. Dropped until boot step 10 (R126). -/
def execFrameReceive (port : Fin 8) (bytes : List Byte) (fcsOk : Bool) (count : BitVec 64) (phase : Fin 8) (s : State) : Out :=
  let p := port.val
  if ¬ s.up ∨ ¬ s.portOn p ∨ s.boot.step < 10 then .next s
  else
    let s1 := s.bump64 (Reg.RX_FRAMES_LO p) (Reg.RX_FRAMES_HI p)
    if bytes.length < 64 ∨ 9216 < bytes.length then .next (s1.bump (Reg.RX_ERRORS p))
    else .next (s1.receive p bytes fcsOk (count.toNat * 8 + phase.val))

/-- PDELAY_REQ_SEND (R129): an up port in peer-to-peer mode sends Pdelay_Req, once per second. -/
def execPdelayReqSend (port : Fin 8) (s : State) : Out :=
  let p := port.val
  let q := s.port p
  let due : Bool := match q.pdLast with | some t => decide (t + cyclesS ≤ s.now) | none => true
  if s.up ∧ s.portOn p ∧ 10 ≤ s.boot.step ∧ s.tcMode = 2 ∧ due then
    let seq := (q.pdSeq + 1) % 65536
    .next ((s.egress p { bytes := pdelayReq s.stationMac p (s.rbits Reg.PTP_CTRL 15 8) seq, kind := .pdelayReq seq }).onPort p
      (fun x => { x with pdLast := some s.now, pdSeq := seq, pdT1 := none, pdResp := none }))
  else .next s

/-- DELAY_REQ_SEND (R81): the time receiver in delay request-response mode sends Delay_Req on PTP_CTRL.PORT. -/
def execDelayReqSend (s : State) : Out :=
  let c := s.rget Reg.PTP_CTRL
  let p := wbits c 2 0
  if s.up ∧ 10 ≤ s.boot.step ∧ wbit c 31 ∧ ¬ wbit c 16 ∧ s.portOn p ∧ s.tl.ptp.master.isSome then
    let seq := (s.tl.ptp.delaySeq + 1) % 65536
    .next ((s.egress p { bytes := delayReq (wbits c 18 17) s.stationMac p (wbits c 15 8) seq (s.rget Reg.IP4_ADDR).toNat s.ip6,
                         kind := .delayReq seq }).onPtp (fun q => { q with delaySeq := seq, t3 := none }))
  else .next s

/-- FDB_AGE_OUT (R119). -/
def execFdbAgeOut (mac : BitVec 48) (s : State) : Out :=
  .next { s with fdb := s.fdb.filter (fun e =>
    !decide (e.mac = mac.toNat ∧ e.seen + s.rbits Reg.BRIDGE_CTRL 31 16 * cyclesS ≤ s.now)) }

/-- The link of a sensor port goes down: frames in flight are lost (R113). -/
def State.sensorDown (s : State) (p : Nat) : State :=
  let lost := lsum ((s.port p).egress.map List.length)
  let s1 := (s.onPort p (fun q => { q with up := false, blockLock := false, egress := [[], [], [], []] })).bump (Reg.EGRESS_DROPS p) lost
  if (s.port p).up then s1.raise Reg.PORT_EVENTS (8 + p) else s1

/-- SENSOR_LINK_UP (R163). The port is not off and not retired. -/
def execSensorLinkUp (port : Fin 8) (s : State) : Out :=
  let p := port.val
  if s.up ∧ ¬ (s.port p).retired ∧ s.speed p ≠ 0 ∧ ¬ (s.port p).up ∧ ¬ s.power.serdesOff then
    .next ((s.onPort p (fun q => { q with up := true, blockLock := true })).raise Reg.PORT_EVENTS p)
  else .next s

/-- SENSOR_LINK_DOWN (R161): the link is lost without signal energy; no port event. -/
def execSensorLinkDown (port : Fin 8) (s : State) : Out :=
  if s.up ∧ (s.port port.val).up then .next (s.sensorDown port.val) else .next s

/-- A port becomes a permanent fault (R162, R581): off, with no spare. -/
def State.retireSensorPort (s : State) (p : Nat) : State :=
  (((s.sensorDown p).onPort p (fun q => { q with retired := true })).declare 5 p 0 none false).raise Reg.PORT_EVENTS (16 + p)

/-- PORT_EVENT (R161, R162): a link loss with signal, or a 1 ms interval with an uncorrectable block; more than 32 within
10 s, or a SerDes PLL that does not relock, retire the port. -/
def execPortEvent (port : Fin 8) (linkLost relockFailed : Bool) (s : State) : Out :=
  let p := port.val
  if ¬ s.up ∨ (s.port p).retired ∨ s.speed p = 0 then .next s
  else
    let ev := s.now :: (s.port p).events.filter (fun t => decide (s.now < t + 10 * cyclesS))
    let s1 := (s.onPort p (fun q => { q with events := ev })).logRec 1 5 p 0 (min 255 ev.length)
    let s2 := if linkLost then s1.sensorDown p else if s.speed p = 3 then s1.bump (Reg.FEC_UNCORRECTED p) else s1
    if relockFailed ∨ 32 < ev.length then .next (s2.retireSensorPort p) else .next s2

end Sys2Proof.Machine
end

