-- ==== Sys2Proof/Machine/Engine.lean ====
section
/-! DEFINITION. Commands of the fusion engines: bundle slots (R276 to R299, R339 to R349, R374 to R380), events and states (R312
to R318), radishes (R476 to R481) and the controller's background moves (R460, R464, R465). -/

namespace Sys2Proof.Machine

open Sys2Proof

/-! ### Sequencer operations (R279) -/

/-- Bundles of a program store of 256 KiB, 32 B each (R270, R279). -/
def bundles : Nat := 8192

/-- The next sequencer position. -/
def nextPc (pc : Nat) : Nat := (pc + 1) % bundles

/-- NEXT: the sequencer continues with the next bundle. -/
def execSeqNext (e : Fin 20) (c : CtxSel) (s : State) : Out := .next (s.seqTo e c (fun x => { x with pc := nextPc x.pc }))

/-- LOOP: the body that follows runs `count` times. A count of 0 and a fifth loop have no stated result: the passes, or the
position, are free (log entry 22). -/
def execSeqLoop (e : Fin 20) (c : CtxSel) (count : BitVec 16) (s : State) : Out :=
  match s.issuing e c with
  | none => .next s
  | some x =>
    if 4 ≤ x.loops.length then .next (s.took.seqTo e c (fun y => { y with pc := s.freeNat % bundles }))
    else if count = 0 then
      .next (s.took.seqTo e c (fun y => { y with pc := nextPc y.pc, loops := { start := nextPc y.pc, left := s.freeNat % 65536 } :: y.loops }))
    else .next (s.seqTo e c (fun y => { y with pc := nextPc y.pc, loops := { start := nextPc y.pc, left := count.toNat } :: y.loops }))

/-- LOOP_END: the innermost body is repeated or its loop ends; without a loop the position is free (log entry 22). -/
def execSeqLoopEnd (e : Fin 20) (c : CtxSel) (s : State) : Out :=
  match s.issuing e c with
  | none => .next s
  | some x =>
    match x.loops with
    | [] => .next (s.took.seqTo e c (fun y => { y with pc := s.freeNat % bundles }))
    | l :: ls =>
      if 1 < l.left then .next (s.seqTo e c (fun y => { y with pc := l.start, loops := { l with left := l.left - 1 } :: ls }))
      else .next (s.seqTo e c (fun y => { y with pc := nextPc y.pc, loops := ls }))

/-- JUMP_MASK: a signed jump when any lane mask bit is set. -/
def execSeqJumpMask (e : Fin 20) (c : CtxSel) (offset : BitVec 16) (s : State) : Out :=
  .next (s.seqTo e c (fun x => { x with
    pc := if x.mask = 0 then nextPc x.pc else (((x.pc : Int) + offset.toInt) % (bundles : Int)).toNat }))

/-- END_PASS of a unit after `cycles` ENG_CLK cycles (R277, R278, R280). -/
def execSeqEndPass (e : Fin 20) (c : CtxSel) (unit : BitVec 16) (cycles : BitVec 32) (s : State) : Out :=
  .next (s.endPass e c unit.toNat cycles.toNat)

/-- HALT: the work unit has finished its work for this frame. -/
def execSeqHalt (e : Fin 20) (c : CtxSel) (unit : BitVec 16) (s : State) : Out :=
  .next (s.seqTo e c (fun x => { x with pc := nextPc x.pc, halts := kinsert unit.toNat x.halts }))

/-! ### Array operations (R285 to R289) -/

/-- MAC. -/
def execArrayMac (e : Fin 20) (c : CtxSel) (mode : ArrayMode) (bankB : Bool) (k : BitVec 16) (w : BitVec 8) (s : State) : Out :=
  .next (s.macOp e c mode bankB false k.toNat w.toInt)

/-- MAC_FIRST. -/
def execArrayMacFirst (e : Fin 20) (c : CtxSel) (mode : ArrayMode) (bankB : Bool) (k : BitVec 16) (w : BitVec 8) (s : State) : Out :=
  .next (s.macOp e c mode bankB true k.toNat w.toInt)

/-- DRAIN: the next row of the bank goes through the requantizer toward descriptor register `d`. -/
def execArrayDrain (e : Fin 20) (c : CtxSel) (bankB : Bool) (requant : Fin 256) (d : Fin 16) (s : State) : Out :=
  .next (s.drainRow e c bankB requant d)

/-! ### Vector operations (R298, R299) -/

/-- ADD. -/
def execVecAdd (e : Fin 20) (c : CtxSel) (dst a b : Fin 64) (s : State) : Out := .next (s.laneOp e c dst a b (fun x y => x + y))

/-- SUB. -/
def execVecSub (e : Fin 20) (c : CtxSel) (dst a b : Fin 64) (s : State) : Out := .next (s.laneOp e c dst a b (fun x y => x - y))

/-- The low 24 bits of a lane, signed. -/
def low24 (v : Int) : Int := sval 24 (sbits 24 v)

/-- MUL: exact product of the low 24 bits. -/
def execVecMul (e : Fin 20) (c : CtxSel) (dst a b : Fin 64) (s : State) : Out :=
  .next (s.laneOp e c dst a b (fun x y => low24 x * low24 y))

/-- MULR. -/
def execVecMulr (e : Fin 20) (c : CtxSel) (dst a b : Fin 64) (imm : Fin 64) (s : State) : Out :=
  .next (s.laneOp e c dst a b (fun x y => rndDiv (x * low24 y) (2 ^ imm.val)))

/-- SHR. -/
def execVecShr (e : Fin 20) (c : CtxSel) (dst a : Fin 64) (imm : Fin 64) (s : State) : Out :=
  .next (s.laneOp e c dst a a (fun x _ => rndDiv x (2 ^ imm.val)))

/-- SHL. -/
def execVecShl (e : Fin 20) (c : CtxSel) (dst a : Fin 64) (imm : Fin 64) (s : State) : Out :=
  .next (s.laneOp e c dst a a (fun x _ => ishl x imm.val))

/-- MIN. -/
def execVecMin (e : Fin 20) (c : CtxSel) (dst a b : Fin 64) (s : State) : Out := .next (s.laneOp e c dst a b (fun x y => min x y))

/-- MAX. -/
def execVecMax (e : Fin 20) (c : CtxSel) (dst a b : Fin 64) (s : State) : Out := .next (s.laneOp e c dst a b (fun x y => max x y))

/-- The comparison of CMP. -/
def cmpLane (op : VecCmp) (a b : Int) : Bool :=
  match op with
  | .lt => decide (a < b)
  | .eq => decide (a = b)
  | .le => decide (a ≤ b)

/-- CMP: the lane mask. -/
def execVecCmp (e : Fin 20) (c : CtxSel) (op : VecCmp) (a b : Fin 64) (s : State) : Out :=
  .next (s.vecOp e c (fun x => { x with mask := maskOf (((x.vreg a).zip (x.vreg b)).map (fun p => cmpLane op p.1 p.2)) }))

/-- SEL. -/
def execVecSel (e : Fin 20) (c : CtxSel) (dst a b : Fin 64) (s : State) : Out :=
  .next (s.vecOp e c (fun x =>
    x.setVreg dst (((x.vreg a).zip (x.vreg b)).zipIdx.map (fun p => if maskBit x.mask p.2 then p.1.1 else p.1.2))))

/-- A piecewise-linear table applied to a value (R299). -/
def PwlTable.at (t : PwlTable) (a : Int) : Int :=
  let i := (clampI 0 63 ((a - t.base) / ((2 ^ t.stepLog2 : Nat) : Int))).toNat
  let p := lgetD t.seg i (0, 0)
  p.1 + rndDiv (p.2 * (a - t.base - ishl (i : Int) t.stepLog2)) 32768

/-- PWL: the result saturates to the lane (R298). -/
def execVecPwl (e : Fin 20) (c : CtxSel) (dst a : Fin 64) (table : Fin 16) (s : State) : Out :=
  .next (s.vecOp e c (fun x =>
    let raw := (x.vreg a).map (PwlTable.at (mgetD x.pwls table.val {}))
    (x.setVreg dst (raw.map sat48)).satIf (raw.any (beyond 48))))

/-- REDUCE: lane 0 takes the saturating sum over the masked lanes. -/
def execVecReduce (e : Fin 20) (c : CtxSel) (dst a : Fin 64) (s : State) : Out :=
  .next (s.vecOp e c (fun x =>
    let t := ((x.vreg a).zipIdx.map (fun p => if maskBit x.mask p.2 then p.1 else 0)).foldl (· + ·) 0
    (x.setVreg dst (sat48 t :: List.replicate 63 0)).satIf (beyond 48 t)))

/-- CVT: the lanes requantized under an entry, toward descriptor register `d` (R293). -/
def execVecCvt (e : Fin 20) (c : CtxSel) (a : Fin 64) (requant : Fin 256) (d : Fin 16) (s : State) : Out :=
  match s.issuing e c with
  | none => .next s
  | some x =>
    let (s1, b) := s.requant e (mgetD x.requants requant.val {}) (x.vreg a) x.vecFlags.accSat true 0 (x.destTile d)
    .next (s1.vecOp e c (fun y => { y with vecOut := y.vecOut ++ [b] }))

/-- ACCV: an accumulator row into the lanes; a tile that saturated marks the results. -/
def execVecAccv (e : Fin 20) (c : CtxSel) (dst : Fin 64) (bankB : Bool) (row : Fin 128) (s : State) : Out :=
  let k := (s.engine e).bank bankB
  let r := (k.row row.val ++ List.replicate 64 0).take 64
  .next (s.vecOp e c (fun x => (x.setVreg dst r).satIf k.sat))

/-- LOADV: the elements that the load address generator read last. -/
def execVecLoadv (e : Fin 20) (c : CtxSel) (dst : Fin 64) (s : State) : Out :=
  .next (s.vecOp e c (fun x => x.setVreg dst ((x.loaded ++ List.replicate 64 0).take 64)))

/-! ### Root operations (R374 to R380) -/

/-- RECIP. -/
def execRootRecip (e : Fin 20) (c : CtxSel) (fmt : Fin 16) (dst a : Fin 64) (lane : Fin 64) (s : State) : Out :=
  .next (s.rootOp e c fmt dst lane [a.val] (fun f l => rootRecip f (lgetD l 0 0)))

/-- DIV. -/
def execRootDiv (e : Fin 20) (c : CtxSel) (fmt : Fin 16) (dst a b : Fin 64) (lane : Fin 64) (s : State) : Out :=
  .next (s.rootOp e c fmt dst lane [a.val, b.val] (fun f l => rootDiv f (lgetD l 0 0) (lgetD l 1 0)))

/-- SQRT. -/
def execRootSqrt (e : Fin 20) (c : CtxSel) (fmt : Fin 16) (dst a : Fin 64) (lane : Fin 64) (s : State) : Out :=
  .next (s.rootOp e c fmt dst lane [a.val] (fun f l => rootSqrt f (lgetD l 0 0)))

/-- RSQRT. -/
def execRootRsqrt (e : Fin 20) (c : CtxSel) (fmt : Fin 16) (dst a : Fin 64) (lane : Fin 64) (s : State) : Out :=
  .next (s.rootOp e c fmt dst lane [a.val] (fun f l => rootRsqrt f (lgetD l 0 0)))

/-- PIVOT. -/
def execRootPivot (e : Fin 20) (c : CtxSel) (fmt : Fin 16) (dst a : Fin 64) (lane : Fin 64) (s : State) : Out :=
  .next (s.pivotOp e c fmt dst a lane)

/-! ### Sync (R280) -/

/-- A context that waits for a mask: it stalls unless every token is set. -/
def EngCtx.wait (x : EngCtx) (m : BitVec 32) (consume : Bool) : EngCtx :=
  let y := { x with waiting := some (m, consume) }
  y.resume.getD y

/-- WAIT. -/
def execSyncWait (e : Fin 20) (c : CtxSel) (mask : BitVec 32) (s : State) : Out := .next (s.slotOp e c (fun x => EngCtx.wait x mask false))

/-- WAIT_CONSUME. -/
def execSyncWaitConsume (e : Fin 20) (c : CtxSel) (mask : BitVec 32) (s : State) : Out :=
  .next (s.slotOp e c (fun x => EngCtx.wait x mask true))

/-- SIGNAL: tokens of the consumers, set at END_PASS. -/
def execSyncSignal (e : Fin 20) (c : CtxSel) (mask : BitVec 32) (s : State) : Out :=
  .next (s.slotOp e c (fun x => { x with signals := x.signals ||| mask }))

/-! ### Load, store and exchange -/

/-- LOAD slot (R339 to R343). -/
def execLoadSlot (e : Fin 20) (c : CtxSel) (d : Fin 16) (dest : LoadDest) (n : BitVec 11) (s : State) : Out :=
  .next (s.loadOp e c d dest n.toNat)

/-- STORE slot (R340): the next beat of its source; nothing where the source holds none. -/
def execStoreSlot (e : Fin 20) (c : CtxSel) (d : Fin 16) (src : StoreSrc) (s : State) : Out :=
  match s.issuing e c with
  | none => .next s
  | some x =>
    match src with
    | .requantizer =>
      match x.rq, x.vecOut with
      | b :: _, _ => .next (s.storeBeat e c d b.pack (fun y => { y with rq := y.rq.drop 1 }))
      | [], b :: _ => .next (s.storeBeat e c d b.pack (fun y => { y with vecOut := y.vecOut.drop 1 }))
      | [], [] => .next s
    | .exchange =>
      match x.xchg with
      | b :: _ => .next (s.storeBeat e c d b (fun y => { y with xchg := y.xchg.drop 1 }))
      | [] => .next s
    | .vector r =>
      let f := match mget x.descs d.val with | some q => q.desc.format | none => 1
      let (s1, b) := s.laneBeat (x.vreg r) f x.vecFlags
      .next (s1.storeBeat e c d b (fun y => y))

/-- EXCHANGE slot (R344 to R349): the next beat of its source crosses the network under a permutation entry. -/
def execExchange (e : Fin 20) (c : CtxSel) (perm : Fin 64) (src : ExchangeSrc) (s : State) : Out :=
  .next (s.slotOp e c (fun x =>
    let p := mgetD x.perms perm.val {}
    match src with
    | .requantizer => match x.rq with | b :: r => EngCtx.relayout { x with rq := r } p b | [] => x
    | .vectorUnit => match x.vecOut with | b :: r => EngCtx.relayout { x with vecOut := r } p b | [] => x
    | .loadGen => if x.loaded.isEmpty then x else EngCtx.relayout { x with loaded := [] } p { vals := x.loaded, format := x.loadedFormat }))

/-! ### Events and states (R312 to R318) -/

/-- ENGINE_EVENT of cause 1 to 6 (R290, R316 to R318); cause 0 is no event. -/
def execEngineEvent (e : Fin 20) (cause : Fin 7) (s : State) : Out :=
  if ¬ s.up ∨ cause = 0 then .next s
  else .next ((if cause = 2 then s.bump (Reg.RESIDUE_ERRORS e) else s).engEvent e cause)

/-- Whether a context holds work of the frame that has not reached HALT. -/
def ctxOpen (c : Option EngCtx) : Bool := match c with | some x => !x.done | none => false

/-- ENGINE_HANG (R315): a context that holds work has issued no bundle for a frame. -/
def execEngineHang (e : Fin 20) (s : State) : Out :=
  let g := s.engine e
  if s.up ∧ ¬ s.hold ∧ ¬ s.saved ∧ (ctxOpen g.live ∨ ctxOpen g.shadow) ∧ g.lastIssue + 1024 ≤ s.tl.beats then .next (s.engHard e 7)
  else .next s

/-- SELF_TEST_DONE (R312). -/
def execSelfTestDone (e : Fin 20) (ok : Bool) (s : State) : Out :=
  if (s.engine e).state ≠ .selfTest then .next s
  else if ok then .next (s.onEngine e (fun g => { g with state := .spare }))
  else .next (s.engHard e 8)

/-- The allocation that a context's descriptor addresses: its region in the engine store. -/
def ctxRegion (c : EngCtx) (d : Desc) : Option Nat := (mget c.regions d.dataSet).map (fun x => x.2)

/-- REASON for which the assignment of a descriptor register is refused (R330, R337, R339), if any: another space than the engine
store is HANDLE, layout 0x05 is LAYOUT, a write window outside the extents SPAN. -/
def refuseReg (c : EngCtx) (r : DescReg) : Option Nat :=
  let rs := r.desc.reasons (ctxRegion c r.desc) (decide (r.desc.space = 0)) false none
  let rs1 := if r.desc.layout = 5 then 4 :: rs else rs
  let rs2 := if r.desc.write ∧ ¬ r.windowIn then 1 :: rs1 else rs1
  lminBy (fun x => x) rs2

/-- ASSIGN_SHADOW (R312), with the descriptor registers it loads validated against the context's regions (R275, R330). -/
def execEngAssignShadow (e : Fin 20) (ctx : CtxLoad) (s : State) : Out :=
  if ¬ s.up ∨ s.hold ∨ s.saved then .next s
  else
    let base := loadCtx (s.imageFor ctx.kind) ctx.units []
    let bad := ctx.descs.filterMap (fun (x : Nat × DescReg) => (refuseReg base x.2).map (fun r => (x.1, r)))
    let good := ctx.descs.filter (fun (x : Nat × DescReg) => decide (refuseReg base x.2 = none ∧ x.1 < 16))
    let s1 := bad.foldl (fun (t : State) (x : Nat × Nat) => t.descRefused 2 (e.val * 16 + x.1) x.2) s
    .next (s1.assignShadow e ctx.kind ctx.units good)

/-- SWITCH (R312). -/
def execEngSwitch (e : Fin 20) (s : State) : Out := if s.up ∧ ¬ s.saved then .next (s.switchEng e) else .next s

/-- RELEASE (R312). -/
def execEngRelease (e : Fin 20) (s : State) : Out := if s.up ∧ ¬ s.saved then .next (s.releaseEng e) else .next s

/-- RADISH (R312, R477). -/
def execEngRadish (e : Fin 20) (inst : BitVec 16) (s : State) : Out :=
  if s.up ∧ ¬ s.saved then .next (s.radishEng e inst.toNat) else .next s

/-- RETIRE (R312). -/
def execEngRetire (e : Fin 20) (s : State) : Out := if s.up ∧ ¬ s.saved then .next (s.retireEng e) else .next s

/-! ### Radishes (R476 to R481) -/

/-- COVERAGE_UNVERIFIED follows the debts (R478, R481). -/
def State.updateCoverage (s : State) : State :=
  let c := s.place.books.any (fun b => decide (4 < b.debt))
  let s1 := { s with place := { s.place with coverage := c } }
  if c ∧ ¬ s.place.coverage then s1.raise Reg.PLACE_EVENTS 9 else s1

/-- The answer of engine `e`'s radish, matching or not; the engine is SPARE again (R312, R478). -/
def State.radishEnd (s : State) (e : Nat) (ok : Bool) : State :=
  let s1 := (s.onEngine e (fun g => { g with state := .spare, radish := none })).onBook e (fun b => { b with running := false, passed := ok })
  if ok then (s1.onBook e (fun b => { b with answered := true, debt := 0, suspect := false })).updateCoverage
  else
    let s2 := (s1.bump Reg.RADISH_MISMATCHES).raise Reg.PLACE_EVENTS 8
    (s2.engEvent e 5).onBook e (fun b => { b with suspect := true, due := decide (((s2.engEvent e 5).engine e).state ≠ .retired) })

/-- RADISH_ANSWER. -/
def execRadishAnswer (e : Fin 20) (ok : Bool) (s : State) : Out :=
  if (s.engine e).state = .radish then .next (s.radishEnd e ok) else .next s

/-- RADISH_TIMEOUT (R477): the frame in which the radish was issued has ended without its answer. -/
def execRadishTimeout (e : Fin 20) (s : State) : Out :=
  if (s.engine e).state = .radish ∧ (s.book e).issuedAt < s.tl.frames then .next (s.radishEnd e false)
  else .next s

/-! ### Background moves (R460, R464, R465) -/

/-- DATASET_MOVE_DONE: the copy of the first running move of the data set is complete; step 4 of the next boundary switches it. -/
def execDatasetMoveDone (set : BitVec 16) (s : State) : Out :=
  match s.place.moves.findIdx? (fun m => decide (m.set = set.toNat ∧ ¬ m.copied)) with
  | some i => .next { s with place := { s.place with moves := lmod s.place.moves i (fun m => { m with copied := true }) } }
  | none => .next s

/-- Bytes that a channel's payload of 115.2 GB/s carries in 8 frames (R464). -/
def channelWindow : Nat := 943718400

/-- Enter a granule in the remap table and start its move (R465): the table holds 16,384 entries. -/
def State.remapGranule (s : State) (g cool : Nat) : State :=
  if 16384 ≤ s.place.remap.length ∧ (mget s.place.remap g).isNone then s
  else
    let m : SetMove := { set := g / 2 ^ 28, granule := some (g % 2 ^ 28), target := cool, bytes := 4096 }
    let t : State := { s with place := { s.place with remap := mset s.place.remap g cool, moves := s.place.moves ++ [m] } }
    t.bump Reg.GRANULES_REMAPPED

/-- CHANNEL_BALANCE_WINDOW (R464, R465, R467). -/
def execChannelBalanceWindow (o : BalanceObs) (s : State) : Out :=
  if ¬ s.inServ ∨ s.tl.frames % 8 ≠ 0 ∨ s.saved then .next s
  else
    let n := s.mem.inUse
    let bytes := (o.bytes ++ List.replicate 16 0).take n
    let total := lsum bytes
    let top := bytes.foldl max 0
    let hot := (bytes.findIdx? (fun b => decide (b = top))).getD 0
    let ratio := if total = 0 then 0 else min 65535 (top * n * 256 / total)
    let beyond := decide (s.rbits Reg.IMBALANCE_CFG 31 24 * total < top * n * 64 ∧ s.rbits Reg.IMBALANCE_CFG 15 8 * channelWindow < 100 * top)
    let s1 := s.rset Reg.CHANNEL_BALANCE (nw (min 255 (100 * top / channelWindow) * 2 ^ 24 + hot * 2 ^ 16 + ratio))
    let crossed := decide (beyond ≠ s.place.imbalance)
    let s2 := { s1 with place := { s1.place with imbalance := beyond, hotBytes := bytes, evalDue := s1.place.evalDue || crossed } }
    let s3 := if beyond ∧ crossed then s2.raise Reg.PLACE_EVENTS 0 else s2
    let s4 := if o.single = 0 then s3 else (s3.bump Reg.HOT_GRANULE o.single).raise Reg.PLACE_EVENTS 11
    if ¬ beyond then .next s4
    else
      let s5 := o.regions.foldl (fun (t : State) r => t.onStore (fun p => p.trigger r.val 2 none)) s4
      let cool := match s5.hotCool with | some x => x.2 | none => 0
      .next (o.granules.foldl (fun (t : State) g => t.remapGranule g cool) s5)

end Sys2Proof.Machine
end

