-- ==== Sys2Proof/Machine/SolverOps.lean ====
section
/-! DEFINITION. Solver control: parent requests, waves, the course of a solve, signatures and warm starts, the version a solve forms,
publication and results (R382 to R409). -/

namespace Sys2Proof

/-- What a solve did (R400): result, iterations run, whether damped, retries made, and its tiny pivots as (retry, index, operand). -/
structure SolveRun where
  result : Nat
  iters : Nat
  damped : Bool
  retries : Nat
  tiny : List (Bool × Nat × Int)
  deriving DecidableEq, Repr

/-- The pseudocode of R400 over the iterations that the engines report. -/
def solveRun : List IterOutcome → Nat → Bool → SolveRun
  | [], n, d => { result := if d then 2 else 1, iters := n, damped := d, retries := 0, tiny := [] }
  | i :: is, n, d =>
    let done := fun (r : Nat) (d : Bool) (k : Nat) (t : List (Bool × Nat × Int)) =>
      ({ result := r, iters := n + 1, damped := d, retries := k, tiny := t } : SolveRun)
    let go := fun (d : Bool) (k : Nat) (t : List (Bool × Nat × Int)) =>
      if i.rejected then done 4 d k t
      else
        let r := solveRun is (n + 1) d
        { r with retries := r.retries + k, tiny := t ++ r.tiny }
    match i.tiny, d with
    | none, _ => go d 0 []
    | some x, true => done 3 true 0 [(true, x.1, x.2)]
    | some x, false =>
      if ¬ i.cyclesLeft then done 3 false 0 [(false, x.1, x.2)]
      else match i.retryTiny with
        | some y => done 3 true 1 [(false, x.1, x.2), (true, y.1, y.2)]
        | none => go true 1 [(false, x.1, x.2)]

/-- The iterations of a solve: `n` of them, those not reported met nothing (R389). -/
def itersOf (l : List IterOutcome) (n : Nat) : List IterOutcome := (l ++ List.replicate n ({} : IterOutcome)).take n

/-- Bytes of the blocks of a structure signature (R405): ascending i, then j, each once. -/
def blockBytes (blocks : List (Nat × Nat)) : List Byte :=
  let keys := (blocks.filter (fun b => decide (b.2 ≤ b.1))).foldl (fun a b => kinsert (b.1 % 65536 * 65536 + b.2 % 65536) a) []
  keys.flatMap (fun k => leBytes 2 (k / 65536) ++ leBytes 2 (k % 65536))

/-- Structure signature of a fast problem (R405). -/
def fastSig (parent : Option Nat) (blocks : List (Nat × Nat)) : Nat :=
  shakeNat 64 ([0, BitVec.ofNat 8 (b2n parent.isSome), BitVec.ofNat 8 (parent.getD 0)] ++ blockBytes blocks)

/-- Structure signature of the slow problem (R405). -/
def slowSig (blocks : List (Nat × Nat)) : Nat := shakeNat 64 ([1] ++ blockBytes blocks)

end Sys2Proof

namespace Sys2Proof.Machine

open Sys2Proof

/-- `s` with solver control changed. -/
def State.onSolver (s : State) (f : Solver → Solver) : State := { s with solver := f s.solver }

/-- The live image's solver parameters. -/
def State.shape (s : State) : SolverShape := match s.live with | some i => i.body.solver | none => {}

/-- Beats after its start by which a fast loop ends (R408). -/
def State.fastDeadline (s : State) : Nat := s.shape.fastDeadline

/-! ### Parent requests and waves (R388, R391 to R393) -/

/-- The parent requests of the 64 tracks, where the live image declares data set 0xFFF9. -/
def State.parentRequests (s : State) : Option (List (Option Nat)) :=
  match s.live with
  | none => none
  | some i =>
    (i.body.dataSets.find? (fun d => decide (d.num = 0xFFF9))).map (fun d =>
      (s.dread d.space 0xFFF9 0 64).map (fun b => if b.getLsbD 7 then some (b.toNat % 64) else none))

/-- The parent of a track's current version. -/
def State.parentOf (s : State) (n : Nat) : Option Nat := match s.store.newest n with | some v => v.parent | none => none

/-- How a loop treats track `n` (R392): its PARENT, whether it is re-parented, whether the request is refused. -/
def State.judgeParent (s : State) (reqs : Option (List (Option Nat))) (n : Nat) : Option Nat × Bool × Bool :=
  let cur := s.parentOf n
  match reqs with
  | none => (cur, false, false)
  | some rs =>
    let want := lgetD rs n none
    if want = cur then (cur, false, false)
    else match want with
      | none => (none, true, false)
      | some p =>
        if p = n ∨ (s.store.newest p).isNone ∨ (lgetD rs p none).isSome ∨ (s.parentOf p).isSome then (cur, false, true) else (some p, true, false)

/-- The fast loop of the frame that has ended starts (R388). -/
def State.startFast (s : State) (frame : Nat) : State :=
  let reqs := s.parentRequests
  let tracks := (s.store.versions.filter (fun (v : Nat × List Published) => !v.2.isEmpty)).map (fun v => v.1)
  if s.live.isNone ∨ tracks.isEmpty then s
  else
    let js := tracks.map (fun n => (n, s.judgeParent reqs n))
    let refused := (js.filter (fun x => x.2.2.2)).length
    let s1 := if refused = 0 then s else (s.bump Reg.REPARENT_REFUSALS refused).raise Reg.SOLVER_EVENTS 10
    s1.onSolver (fun v => { v with
      fast := some { frame := frame, ord := s.tl.beats, beat := s.tl.beat, cold := v.coldFast
                     tracks := js.map (fun x => { track := x.1, wave := b2n x.2.1.isSome, parent := x.2.1, reparent := x.2.2.1 }) }
      coldFast := false })

/-- The slow loop starts (R396). -/
def State.startSlow (s : State) : State :=
  if s.live.isNone ∨ s.frame % 1000 ≠ s.shape.slowPhase then s
  else
    (s.onSolver (fun v => { v with slow := some { frame := s.frame, ord := s.tl.frames, cold := v.coldSlow }, coldSlow := false })).setPair
      Reg.SLOW_START_FRAME_LO Reg.SLOW_START_FRAME_HI s.frame

/-! ### Results (R402, R403) -/

/-- Capture a tiny pivot (R402, R413). -/
def State.pivotCapture (s : State) (slow : Bool) (track : Nat) (t : Bool × Nat × Int) : State :=
  if s.rbit Reg.PIVOT_INFO 31 ∧ s.rbit Reg.SOLVER_CFG 0 then s
  else
    ((s.rset Reg.PIVOT_INFO (nw (2 ^ 31 + b2n slow * 2 ^ 30 + b2n t.1 * 2 ^ 29 + track * 2 ^ 16 + t.2.1 % 8192))).rset Reg.PIVOT_VALUE
      (iw (ssat 32 t.2.2))).setPair Reg.PIVOT_BEAT_LO Reg.PIVOT_BEAT_HI s.tl.beat

/-- Whether a result keeps the previous estimate (R403). -/
def resultFlags (r : Nat) : Bool := decide (3 ≤ r)

/-- TRACK_SOLVE of a track after a solve: iterations, damped and cold are those of the solve. -/
def State.trackResult (s : State) (n r iters : Nat) (damped cold : Bool) : State :=
  let old := s.rbits (Reg.TRACK_SOLVE n) 15 8
  let consec := if resultFlags r then min 255 (old + 1) else 0
  s.rset (Reg.TRACK_SOLVE n) (nw (r * 2 ^ 28 + iters % 16 * 2 ^ 24 + b2n (resultFlags r) * 2 ^ 23 + b2n damped * 2 ^ 22 + b2n cold * 2 ^ 21 + consec * 2 ^ 8))

/-- The result of a solve already ended changes: its iterations, DAMPED and COLD stay. -/
def State.trackChange (s : State) (n r : Nat) : State :=
  let o := Reg.TRACK_SOLVE n
  s.trackResult n r (s.rbits o 27 24) (s.rbit o 22) (s.rbit o 21)

/-- Counters and events of a run, both loops (R400 to R403). -/
def State.noteRun (s : State) (slow : Bool) (track : Nat) (r : SolveRun) : State :=
  let s1 := r.tiny.foldl (fun (t : State) x => t.pivotCapture slow track x) s
  let s2 := if r.retries = 0 then s1 else (s1.bump Reg.DAMPED_RETRIES r.retries).raise Reg.SOLVER_EVENTS 3
  if r.result = 3 then (s2.bump Reg.RANK_DEFICIENT).raise Reg.SOLVER_EVENTS 2
  else if r.result = 4 then (s2.bump Reg.RANGE_REJECTS).raise Reg.SOLVER_EVENTS 2
  else s2

/-- Whether a solve cold-starts (R406). -/
def State.coldStart (s : State) (key sig : Nat) (all : Bool) : Bool :=
  all || (match mget s.solver.warm key with
    | some w => decide (w.sig ≠ sig ∨ w.epoch ≠ s.tl.epoch.toNat)
    | none => true)

/-- Count a cold start. -/
def State.noteCold (s : State) (c : Bool) : State := if c then (s.bump Reg.COLD_STARTS).raise Reg.SOLVER_EVENTS 4 else s

/-- Replace a warm-start record (R404). -/
def State.keepWarm (s : State) (key sig : Nat) (state prior : List Int) : State :=
  let w : WarmRecord := { sig := sig, epoch := s.tl.epoch.toNat, beat := (s.tl.beat : Int), state := state, prior := prior }
  s.onSolver (fun v => { v with warm := mset v.warm key w })

/-! ### The version a solve forms (R390, R393) -/

/-- A control point from six values. -/
def cpOf (l : List Int) : ControlPoint :=
  { x := lgetD l 0 0, y := lgetD l 1 0, z := lgetD l 2 0, rx := lgetD l 3 0, ry := lgetD l 4 0, rz := lgetD l 5 0 }

/-- A control point that the spec leaves open, since the current version holds none at its knot time (log entry 24). -/
def freeCp (n : Nat) : ControlPoint := cpOf ((List.range 6).map (fun i => sval 32 (sbits 32 (Config.freeInt (n + i)))))

/-- Knots by which the new ORIGIN lies past the current one, so that the head lies in [k_66, k_67). -/
def knotShift (cur : Spline) (head : Nat) : Int := ((head : Int) - (cur.origin : Int)) / 1000 - 66

/-- The nearest time that a version covers (R393). -/
def nearCovered (v : Spline) (t : Int) : Nat := (clampI (knotAt v 1 : Nat) (knotAt v 69 : Nat) t).toNat

/-- Zone-frame pose of a track at a time under the newest versions, each at its nearest covered knot (R393). -/
def State.poseNear (s : State) (n : Nat) (t : Int) : Pose :=
  match s.store.newest n with
  | none => { rot := matId, trans := [0, 0, 0] }
  | some v =>
    let own := splinePose v (nearCovered v t)
    match v.parent with
    | none => own
    | some a => match s.store.newest a with
      | some w => poseMul (splinePose w (nearCovered w t)) own
      | none => own

/-- A pose in the frame of another. -/
def Pose.within (p parent : Pose) : Pose :=
  { rot := matMul (matT parent.rot) p.rot, trans := matVec (matT parent.rot) (p.trans.zipWith (· - ·) parent.trans) }

/-- Rotation vector of a fixed-point rotation near the identity, by the series of the arcsine. -/
def logRot (m : List Int) : List Int :=
  let v := [lgetD m 7 0 - lgetD m 5 0, lgetD m 2 0 - lgetD m 6 0, lgetD m 3 0 - lgetD m 1 0].map (fun x => x / 2)
  let s2 := v.foldl (fun (a : Int) x => a + x * x / poseOne) 0
  let k := poseOne + s2 / 6 + 3 * (s2 * s2 / poseOne) / 40 + 15 * (s2 * s2 / poseOne * s2 / poseOne) / 336
  v.map (fun x => x * k / poseOne)

/-- A control point from a pose relative to ROT_BASE, each value within one unit (log entry 17). -/
def cpFromPose (base : List Int) (p : Pose) (f : Nat) : ControlPoint :=
  let r := logRot (matMul (matT base) p.rot)
  let near := fun (v : Int) (sh i : Nat) => poseResult (v * (2 ^ sh : Nat)) (Config.freeInt (f + i))
  cpOf ((p.trans.zipIdx.map (fun x => near x.1 8 x.2)) ++ (r.zipIdx.map (fun x => near x.1 30 (3 + x.2))))

/-- The version that an accepted solve forms. -/
def State.formVersion (s : State) (t : TrackSolve) (head : Nat) (states : List Int) : State × Option Spline :=
  match s.store.newest t.track with
  | none => (s, none)
  | some cur =>
    let j := knotShift cur head
    let origin := ((cur.origin : Int) + 1000 * j).toNat
    let img := match s.live with | some i => i.id | none => 0
    let tail := ((Config.knotMap img states).map cpOf ++ List.replicate 6 ({} : ControlPoint)).take 6
    let f := s.free
    if ¬ t.reparent then
      let cps := (List.range 66).map (fun (i : Nat) =>
        let k := (i : Int) + j
        if 0 ≤ k ∧ k ≤ 71 then lgetD cur.cps k.toNat {} else freeCp (f + 6 * i))
      let v : Spline := { cur with origin := origin, cps := cps ++ tail, parent := t.parent }
      ({ s with free := f + 396 }, some v)
    else
      let rel := fun (time : Int) =>
        let p := s.poseNear t.track time
        match t.parent with
        | some a => p.within (s.poseNear a time)
        | none => p
      let base := (rel ((head : Int) * 64)).rot
      let cps := (List.range 66).map (fun (i : Nat) => cpFromPose base (rel (((origin : Int) + 1000 * (i : Int)) * 64)) (f + 6 * i))
      let v : Spline := { cur with origin := origin, rot := base.map (fun x => rneDiv x 1073741824), cps := cps ++ tail, parent := t.parent }
      ({ s with free := f + 396 }, some v)

/-- R174: every rotation vector of magnitude at most 0.125 rad. -/
def rotationsOk (v : Spline) : Bool := v.cps.all (fun c => decide (c.rx * c.rx + c.ry * c.ry + c.rz * c.rz ≤ 18014398509481984))

/-- R175 among versions published together: those whose parent would have a parent, or is their own track, drop out until none
does; `fuel` bounds the rounds. -/
def State.publishable (s : State) : Nat → List Spline → List Spline
  | 0, vs => vs
  | n + 1, vs =>
    let parentAfter := fun (x : Nat) => match vs.find? (fun v => decide (v.track = x)) with
      | some v => v.parent
      | none => s.parentOf x
    let ok := vs.filter (fun v => match v.parent with
      | none => true
      | some a => decide (a ≠ v.track ∧ parentAfter a = none))
    if ok.length = vs.length then vs else s.publishable n ok

end Sys2Proof.Machine
end

