-- ==== Sys2Proof/Machine/SlotOps.lean ====
section
/-! DEFINITION. The shallot slot: the container, its checks, admission, arming, groups of rehearsal and the image switch (R415 to
R446). -/

namespace Sys2Proof

/-! ### The container (R415 to R420) -/

/-- The fields of the header (R415). -/
structure ImageHeader where
  magic : Nat
  format : Nat
  count : Nat
  part : Nat
  stepping : Nat
  secVersion : Nat
  id : Nat
  size : Nat
  certOff : Nat
  certSize : Nat
  sigOff : Nat
  sigSize : Nat
  tool : Nat

/-- The header at the start of stored bytes. -/
def imageHeader (m : List Host.Cell) : ImageHeader :=
  let a := cnat m
  { magic := a 0 4, format := a 4 2, count := a 6 2, part := a 8 2, stepping := a 10 1, secVersion := a 12 4, id := a 16 8,
    size := a 24 8, certOff := a 32 8, certSize := a 40 4, sigOff := a 48 8, sigSize := a 56 4, tool := a 60 4 }

/-- An entry of the section table (R418). -/
structure Section where
  ty : Nat
  inst : Nat
  off : Nat
  size : Nat

/-- The first `n` entries of the section table (R416). -/
def sections (m : List Host.Cell) (n : Nat) : List Section :=
  (List.range n).map (fun i =>
    let a := fun o k => cnat m (256 + 32 * i + o) k
    { ty := a 0 2, inst := a 2 2, off := a 8 8, size := a 16 8 })

/-- Whether `f` holds of every pair of a list. -/
def pairwiseB {α : Type} (f : α → α → Bool) : List α → Bool
  | [] => true
  | a :: l => l.all (f a) && pairwiseB f l

/-- Check 1 of R427: R415, R416, and IMAGE_SIZE against LOAD_LENGTH. -/
def formatOk (h : ImageHeader) (ss : List Section) (len : Nat) : Bool :=
  decide (h.magic = 0x49535A58 ∧ h.format = 1 ∧ 1 ≤ h.count ∧ h.count ≤ 64 ∧ h.size = len ∧ h.size ≤ 268435456) &&
    decide (h.certOff % 64 = 0 ∧ h.sigOff % 64 = 0 ∧ h.certOff + h.certSize ≤ h.sigOff ∧ h.sigOff + h.sigSize = h.size) &&
    ss.all (fun x => decide (x.off % 64 = 0 ∧ 256 + 32 * h.count ≤ x.off ∧ x.off + x.size ≤ h.certOff)) &&
    pairwiseB (fun x y => decide (x.off + x.size ≤ y.off ∨ y.off + y.size ≤ x.off)) ss

/-- What R715 asks of a certificate of a KIND, its signature aside: MAGIC, KIND, ALGORITHM, the digest of ROOT_KEY, and for KIND 2
and 4 its CUSTOMER_ID. -/
def certOk (cert : List Byte) (kind : Nat) (f : Fuses) : Bool :=
  let cust := leAt cert 8 4
  decide (leAt cert 0 4 = 0x43525A58 ∧ leAt cert 4 1 = kind ∧ leAt cert 5 1 = (if kind = 3 then 2 else 1)) &&
    decide ((kind ≠ 2 ∧ kind ≠ 4) ∨ cust = 0 ∨ cust = f.customer.toNat ∨ f.customer = 0) &&
    decide (shakeNat 512 (lsub cert 84 64) = f.rootHash.toNat)

/-- Section types that admit several instances (R419). -/
def multiType (t : Nat) : Bool := decide (t = 3 ∨ t = 6 ∨ t = 0xB ∨ t = 0xC)

/-- Section types that every image holds; RADISH is asked of the units that have one (R419). -/
def requiredTypes : List Nat := [1, 2, 3, 4, 5, 6, 7, 8, 9, 0xA, 0xD]

/-- The first section of a type. -/
def sectionOf (ss : List Section) (t : Nat) : Option Section := ss.find? (fun x => decide (x.ty = t))

/-- Six or three signed 32-bit values from an address. -/
def cwords (m : List Host.Cell) (a n : Nat) : List Int := (List.range n).map (fun i => sval 32 (cnat m (a + 4 * i) 4))

/-- CONFIG (R420). -/
def configAt (m : List Host.Cell) (o : Nat) : ImageConfig :=
  let a := fun i k => cnat m (o + i) k
  { depth := a 0 1, latency := a 1 1, bucketsLog2 := a 2 1, mergeLimit := a 3 1, layerCap := a 4 4, poolPods := a 8 4,
    poolReserve := a 12 4, decay := a 16 2, tol := a 18 2, rate := a 20 1, radius := a 24 3, owned := cwords m (o + 32) 6,
    offsets := cwords m (o + 56) 18 }

/-- Whether a value lies in a range. -/
def inRange (lo hi v : Nat) : Bool := decide (lo ≤ v ∧ v ≤ hi)

/-- The ranges of R420. -/
def configOk (c : ImageConfig) : Bool :=
  inRange 4 64 c.depth && inRange 4 64 c.latency && inRange 16 22 c.bucketsLog2 && inRange 6 8 c.mergeLimit &&
    inRange 1 4194304 c.layerCap && inRange 1 4194304 c.poolPods && decide (c.poolReserve < c.poolPods) &&
    (c.owned ++ c.offsets).all (fun v => decide (v % 512 = 0))

/-- The entry of a unit in the SHED section (R422): its place, where there is one. -/
def shedAt (m : List Host.Cell) (o n unit : Nat) : Option Nat :=
  ((List.range n).map (fun i => o + 8 * i)).find? (fun a => decide (cnat m a 2 = unit))

/-- The records of work units at the start of the GRAPH section, as many as the SHED section has entries (R421, R422). -/
def unitsAt (m : List Host.Cell) (graph shed n : Nat) (b : ImageBody) : List WorkUnit :=
  (List.range n).map (fun i =>
    let a := fun o k => cnat m (graph + 32 * i + o) k
    let num := a 0 2
    let sh := (shedAt m shed n num).getD 0
    { num := num, kind := a 2 1, bound := a 4 4, passes := a 8 2, cadence := a 10 2, store := a 12 4, spill := a 16 4,
      traffic := a 20 4, radish := if a 24 2 = 0xFFFF then none else some (a 24 2), prio := cnat m (sh + 2) 1
      shifts := (List.range 8).map (fun l => nbits (cnat m (sh + 4) 4) (4 * l + 3) (4 * l))
      inputs := match b.inputs.find? (fun x => x.1 = num) with | some x => x.2 | none => []
      recheckable := b.recheckable.contains num })

/-- A list that does not decrease. -/
def nondecreasing : List Nat → Bool
  | a :: b :: l => decide (a ≤ b) && nondecreasing (b :: l)
  | _ => true

/-- The ranges of R421 and R422. -/
def unitOk (u : WorkUnit) : Bool :=
  decide (u.num ≤ 1023 ∧ u.kind ≤ 3 ∧ 1 ≤ u.passes ∧ 1 ≤ u.cadence ∧ u.cadence ≤ 4096 ∧ u.prio ≤ 7) && nondecreasing u.shifts &&
    (decide (u.prio ≠ 7) || u.shifts.all (fun x => x = 0)) && decide ((u.kind ≠ 1 ∧ u.kind ≠ 2) ∨ u.prio = 7)

/-- Check 6 (R419). -/
def sectionsOk (ss : List Section) (units : List WorkUnit) : Bool :=
  let has := fun t => ss.any (fun x => decide (x.ty = t))
  let n := fun t => (ss.filter (fun x => decide (x.ty = t))).length
  requiredTypes.all has && ss.all (fun x => inRange 1 0xE x.ty) && ss.all (fun x => multiType x.ty || decide (x.inst = 0)) &&
    pairwiseB (fun x y => decide (x.ty ≠ y.ty ∨ (multiType x.ty ∧ x.inst ≠ y.inst))) ss && decide (n 3 ≤ 32 ∧ n 6 = units.length) &&
    units.all (fun u => match u.radish with | some r => ss.any (fun x => decide (x.ty = 0xC ∧ x.inst = r)) | none => true)

/-- Remove the nodes whose producers have all been removed; what is left after enough rounds lies on a cycle or behind one. -/
def acyclicRest (edges : List (Nat × List Nat)) : Nat → List (Nat × List Nat)
  | 0 => edges
  | n + 1 =>
    let l := acyclicRest edges n
    l.filter (fun x => x.2.any (fun p => l.any (fun y => decide (y.1 = p))))

/-- Whether tokens form a cycle (check 10): units at their number, mover channels at 1024 up. -/
def tokenCycle (units : List WorkUnit) (b : ImageBody) : Bool :=
  let fromChans := fun u => (b.chanOutputs.filter (fun x => x.2.contains u)).map (fun x => 1024 + x.1)
  let es := units.map (fun u => (u.num, u.inputs ++ fromChans u.num)) ++ b.chanInputs.map (fun x => (1024 + x.1, x.2))
  !(acyclicRest es es.length).isEmpty

/-- Two boxes that overlap. -/
def boxesMeet (a b : List Int) : Bool :=
  [0, 1, 2].all (fun i => decide (lgetD a i 0 < lgetD b (i + 3) 0 ∧ lgetD b i 0 < lgetD a (i + 3) 0))

/-- The part's stepping code (R228). -/
def steppingCode : Nat := 0xA1

end Sys2Proof

namespace Sys2Proof.Machine

open Sys2Proof

/-- `s` with its slot changed. -/
def State.onSlot (s : State) (f : Slot → Slot) : State := { s with slot := f s.slot }

/-! ### Loading (R424 to R426) -/

/-- The staging area (R424): data set 0xFFFE of DRAM. -/
def stagingKey : Nat := 2 * 65536 + 0xFFFE

/-- LOAD (R424, R425): a load starts once LOAD_LENGTH has been written. -/
def State.loadSlotCmd (s : State) : State :=
  if s.boot.stopped then s
  else if s.slot.state ≠ .empty then (s.bump Reg.LOADS_BUSY).raise Reg.SLOT_EVENTS 3
  else if s.rget Reg.LOAD_LENGTH = 0 then s
  else (s.bump Reg.LOADS).onSlot (fun _ => { state := .copying, len := (s.rget Reg.LOAD_LENGTH).toNat })

/-- CANCEL (R446). -/
def State.cancelSlotCmd (s : State) : State := s.discardSlot

/-- A load of the flash's autoload region (R711). -/
def State.autoload (s : State) : State :=
  if cnat s.flash 0x100000 4 ≠ 0x49535A58 ∨ s.slot.state ≠ .empty then s
  else
    let n := cnat s.flash (0x100000 + 24) 8
    (s.bump Reg.LOADS).onSlot (fun _ => { state := .copying, len := n, fromFlash := true })

/-- The bytes that a load copies (R426, R711). -/
def State.loadBytes (s : State) : List Host.Cell :=
  if s.slot.fromFlash then
    (s.flash.filter (fun (c : Host.Cell) => decide (0x100000 ≤ c.1 ∧ c.1 < 0x100000 + s.slot.len))).map (fun (c : Host.Cell) => (c.1 - 0x100000, c.2))
  else match mget s.data stagingKey with
    | some d => d.bytes.filter (fun (c : Host.Cell) => decide (c.1 < s.slot.len))
    | none => []

/-! ### Checks 1 to 5 (R427) -/

/-- The first of checks 1 to 5 that fails. -/
def State.verifyReason (s : State) (certSig sig : Bool) : Option Nat :=
  let m := s.slot.bytes
  let h := imageHeader m
  let cert := cread m h.certOff h.certSize
  if ¬ formatOk h (sections m (min h.count 64)) s.slot.len then some 1
  else if h.part ≠ 0x2016 ∨ steppingCode < h.stepping then some 2
  else if ¬ (certOk cert 2 s.fuses ∧ certSig) then some 3
  else if ¬ sig then some 4
  else if h.secVersion < s.keeper.imageMin then some 5
  else none

/-! ### Admission (R427 to R432) -/

/-- DRAM_AVAIL in KiB (R514): the capacity in service less the part's claim. -/
def State.dramAvail (s : State) : Nat := dramAvailOf s.mem.inUse

/-- Engines that run an image: LIVE first, then SPARE, as many as are available (R429, R473). -/
def State.runEngines (s : State) : List Nat :=
  let at' := fun (k : EngState) => engines20.filter (fun e => decide ((s.engine e).state = k) && !(s.engine e).permanent)
  (at' .live ++ at' .spare ++ at' .radish).take s.available

/-- Bins of the switch form (R431): each engine gives the store that its live context leaves free. -/
def State.switchBins (s : State) : List PackBin := s.runEngines.map (fun e => { eng := e, cap := storeCap - s.engStore e })

/-- Descriptors of the image that R337 refuses, with their REASON: those of the mover's table, and those of contexts. -/
def State.badDescs (s : State) (b : ImageBody) : List (Nat × Nat) :=
  let size := fun (d : Desc) => (b.dataSets.find? (fun x => decide (x.num = d.dataSet ∧ x.space = d.space))).map (fun x => x.size)
  let table := b.descs.filterMap (fun (x : Nat × Desc) =>
    (x.2.refusal (size x.2) (decide (x.2.space = 0 ∨ x.2.space = 1 ∨ x.2.space = 2)) false s.coordNat).map (fun r => (x.1, r)))
  let ctx := b.ctxs.flatMap (fun (x : Nat × EngCtx) => x.2.descs.filterMap (fun (y : Nat × DescReg) => (refuseReg x.2 y.2).map (fun r => (y.1, r))))
  table ++ ctx

/-- An accepted neighbour's box under the offsets of another image (R27, R28). -/
def State.nbBoxUnder (s : State) (c : ImageConfig) (p : Nat) : List Int :=
  let d := fun a => lgetD c.offsets (3 * p + a) 0 - lgetD s.config.offsets (3 * p + a) 0
  (s.peer p).nb.box.zipIdx.map (fun x => x.1 + d (x.2 % 3))

/-- The image in the slot, parsed from the slot copy and from what the loader reads of the other sections. -/
def State.parseImage (s : State) (b : ImageBody) : Image :=
  let m := s.slot.bytes
  let h := imageHeader m
  let ss := sections m (min h.count 64)
  let at' := fun t => match sectionOf ss t with | some x => (x.off, x.size) | none => (0, 0)
  let old := s.slot.image.getD {}
  { old with
    config := configAt m (at' 1).1
    units := unitsAt m (at' 5).1 (at' 0xA).1 ((at' 0xA).2 / 8) b
    body := b }

/-- Checks 6 to 13 (R427): the reason, with the unit or the shortfall. -/
def State.contentReason (s : State) (img : Image) : Option (Nat × Nat × Nat) :=
  let ss := sections s.slot.bytes (min (imageHeader s.slot.bytes).count 64)
  let b := img.body
  let graph := match sectionOf ss 5 with | some x => x.size | none => 0
  if ¬ sectionsOk ss img.units then some (6, 0, 0)
  else if ¬ configOk img.config ∨ ¬ img.units.all unitOk ∨ 1024 < img.units.length ∨ 4096 < b.dataSets.length ∨ graph < 32 * img.units.length ∨
      (sectionOf ss 1).any (fun x => x.size ≠ 256) ∨ ¬ pairwiseB (fun x y => decide (x.num ≠ y.num)) img.units ∨ b.badField then some (7, 0, 0)
  else match b.badProgram with
    | some u => some (8, u, 0)
    | none =>
      if ¬ (s.badDescs b).isEmpty then some (9, 0, 0)
      else if b.badGraph ∨ tokenCycle img.units b ∨ ¬ b.sensors.any (fun (x : Nat × SensorEntry) => x.2.anchor) then some (10, 0, 0)
      else if img.config.poolPods < s.store.pods.length then some (11, 0, 0)
      else if (List.range 6).any (fun p => decide ((s.peer p).state = .up) && boxesMeet img.config.owned (s.nbBoxUnder img.config p)) then some (12, 0, 0)
      else if s.available < 8 then some (13, 0, 8 - s.available)
      else none

/-- Show the figures of a form (R432, R447). -/
def State.showForm (s : State) (img : Image) (f : AdmitForm) : State :=
  let cyc := lsum (f.bins.map (fun b => b.cyc))
  let s1 := (s.rset Reg.CYCLE_CLAIM (nw cyc)).rset Reg.CYCLE_CAP (nw (s.available * cycleCap))
  let s2 := (s1.rset Reg.STORE_CLAIM_MAX (nw ((f.bins.map (fun b => b.store)).foldl max 0))).rset Reg.COMMONS_CLAIM (nw (cdiv (commonsClaim img) 1024))
  let s3 := (s2.rset Reg.DRAM_CLAIM (nw (cdiv (dramClaim img s.live) 1024))).rset Reg.DRAM_AVAIL (nw s.dramAvail)
  s3.rset Reg.RHO (nw (min 65535 (f.traffic * 65536 / dramPayload)))

/-- The margins of a form (R429, STEADY_MARGIN). -/
def marginWord (img : Image) (f : AdmitForm) : Word :=
  nw ((img.config.latency - f.commit) * 2 ^ 24 + min 1023 (img.body.solver.fastDeadline - f.fast) * 2 ^ 14 +
    min 1023 (img.body.solver.slowDeadline - f.slow))

/-- Units packed on the engines that will run them (R440): the switch form, whose claims fit beside the live image. -/
def State.armTargets (s : State) (img : Image) : List (Nat × List Nat) :=
  ((packSwitch (16 - s.available) img.units s.switchBins).filter (fun b => !b.units.isEmpty)).map
    (fun b => (b.eng, b.units.map (fun u => u.num)))

/-- Cancel every pending placement migration (R433). -/
def State.cancelAllMigrations (s : State) : State :=
  s.place.migrations.foldl (fun t m => match m.engines with | e :: _ => t.cancelMigrations e | [] => t) s

/-- ARMING begins (R433, R440): placement is computed, pending placement migrations are cancelled. -/
def State.beginArming (s : State) : State :=
  match s.slot.image with
  | none => s
  | some img =>
    let s1 := s.cancelAllMigrations
    let ts := s1.armTargets img
    s1.onSlot (fun x => { x with state := .arming, targets := ts, left := ts.map (fun t => (t.1, s1.armBytes t.2)) })

/-- Admit the image (R429, R430, R433). -/
def State.admitImage (s : State) (img : Image) (steady switch : AdmitForm) : State :=
  let spill := !steady.spilled.isEmpty || !switch.spilled.isEmpty
  let img : Image := { img with
    steadySpill := steady.spilled.map (fun x => x.1)
    spilled := ((steady.spilled ++ switch.spilled).map (fun x => x.1)).foldl (fun a n => kinsert n a) [] }
  let s1 := (s.rset Reg.ADMIT_RESULT (nw (2 ^ 31 + 2 ^ 30 + b2n spill * 2 ^ 29))).rset Reg.ADMIT_SHORTFALL 0
  let s2 := (s1.rset Reg.STEADY_MARGIN (marginWord img steady)).rset Reg.SWITCH_MARGIN (marginWord img switch)
  let s3 := ((s2.rset Reg.REHEARSAL (nw img.units.length)).bump Reg.ADMISSIONS).raise Reg.SLOT_EVENTS 1
  let s4 := s3.onSlot (fun x => { x with image := some img, state := .rehearsing })
  if s.live.isSome then s4 else s4.beginArming

/-- The arithmetic of R429 in both forms. -/
def State.admitArith (s : State) (img : Image) : State :=
  let lvl := 16 - s.available
  let form := fun bins => admitForm img s.live lvl s.commonsKib s.dramAvail bins
  let steady := form (packSteady lvl img.units ((List.range s.available).map (fun i => { eng := i })))
  let switch := form (packSwitch lvl img.units s.switchBins)
  let s1 := s.showForm img steady
  match steady.fail, switch.fail with
  | some x, _ => s1.refuseImage x.1 0 x.2 false
  | none, some x => s1.refuseImage x.1 0 x.2 true
  | none, none => s1.admitImage img steady switch

/-! ### Rehearsal (R434 to R439) -/

/-- Whether the group of the frame runs in the shadows of LIVE engines (R439). -/
def State.noSpareGroup (s : State) : Bool := s.slot.held.isEmpty

/-- A unit's rehearsal frame ends (R436, R438). -/
def State.rehearsed (s : State) (r : RehearsalResult) (e : Nat) (units : Nat) : State :=
  let lax := s.noSpareGroup
  let ok := !r.event && !r.mismatch && (lax || (r.halted && !r.overrun))
  let onlyMiss := r.mismatch && !r.event && (lax || (r.halted && !r.overrun))
  let s0 := s.onSlot (fun x => { x with group := x.group.filter (fun y => y.1 ≠ r.unit) })
  let before := s.slot.failures.find? (fun (f : Nat × Nat × Bool) => decide (f.1 = r.unit))
  if ok then
    let s1 := s0.onSlot (fun x => { x with rehearsed := kinsert r.unit x.rehearsed, failures := x.failures.filter (fun (f : Nat × Nat × Bool) => f.1 ≠ r.unit) })
    let s2 := match before with
      | some (_, e1, true) => s1.engEvent e1 5
      | _ => s1
    let s3 := s2.rset Reg.REHEARSAL (nw (s2.slot.rehearsed.length * 65536 + units))
    if s3.slot.state = .rehearsing ∧ s3.slot.rehearsed.length = units then s3.beginArming else s3
  else match before with
    | none =>
      let s1 := s0.onSlot (fun x => { x with failures := x.failures ++ [(r.unit, e, onlyMiss)] })
      ((s1.bump Reg.REHEARSAL_RETRIES).raise Reg.SLOT_EVENTS 5).clearShadow e
    | some (_, _, miss1) => s0.refuseImage (if miss1 && onlyMiss then 20 else 19) r.unit 0 false

/-- The engines that the slot holds at a boundary (R434): SPARE ones, at most SLOT_ENGINES, one left unheld while two are SPARE. -/
def State.slotHold (s : State) : State :=
  let spare := engines20.filter (fun e => decide ((s.engine e).state = .spare))
  let most := min (s.rbits Reg.SLOT_CFG 2 0) (if 2 ≤ spare.length then spare.length - 1 else spare.length)
  let keep := (s.slot.held.filter (fun e => spare.contains e)).take most
  let drop := s.slot.held.filter (fun e => !keep.contains e)
  let more := (spare.filter (fun e =>
    decide ((s.engine e).shadow.isNone) && !keep.contains e && !drop.contains e && !(s.book e).suspect && decide ((s.book e).debt < 2))).take (most - keep.length)
  let s1 := drop.foldl (fun (t : State) e => if (t.engine e).shadowKind = .rehearsal then t.clearShadow e else t) s
  s1.onSlot (fun x => { x with held := keep ++ more, group := x.group.filter (fun y => !drop.contains y.2) })

/-- Give each free engine of a list a unit to rehearse (R435, R438): `free` engines, `ready` units. -/
def State.fillGroup (s : State) : List Nat → List Nat → State
  | [], _ => s
  | e :: es, ready =>
    let mayRun := fun u => !s.slot.failures.any (fun (f : Nat × Nat × Bool) => decide (f.1 = u ∧ f.2.1 = e))
    match ready.find? mayRun with
    | none => State.fillGroup s es ready
    | some u =>
      State.fillGroup ((s.assignShadow e .rehearsal [u]).onSlot (fun x => { x with group := x.group ++ [(u, e)] })) es (ready.filter (fun v => v ≠ u))

/-- The group of the new frame (R435, R439). -/
def State.nextGroup (s : State) : State :=
  if s.slot.state ≠ .rehearsing then s
  else match s.slot.image with
    | none => s
    | some img =>
      let s1 := s.slotHold
      let waiting := img.units.filter (fun u => !s1.slot.rehearsed.contains u.num && !s1.slot.group.any (fun g => decide (g.1 = u.num)) &&
        u.inputs.all (fun i => s1.slot.rehearsed.contains i || !img.units.any (fun v => decide (v.num = i))))
      let busy := fun e => s1.slot.group.any (fun g => decide (g.2 = e))
      let noSpare := !engines20.any (fun e => decide ((s1.engine e).state = .spare))
      let free :=
        if noSpare then
          (engines20.filter (fun e => decide ((s1.engine e).state = .live) &&
            ((s1.engine e).shadow.isNone || decide ((s1.engine e).shadowKind = .rehearsal)) && !busy e)).take (s1.rbits Reg.SLOT_CFG 2 0)
        else s1.slot.held.filter (fun e => !busy e)
      let s2 := if noSpare then s1.onSlot (fun x => { x with noSpare := true }) else s1
      s2.fillGroup free (waiting.map (fun u => u.num))

/-! ### Arming (R440) -/

/-- At a boundary each target without another shadow takes its arming shadow, and 256 KiB of its store load (R440). -/
def State.armFrame (s : State) : State :=
  if s.slot.state ≠ .arming then s
  else
    s.slot.left.foldl (fun (t : State) (x : Nat × Nat) =>
      let g := t.engine x.1
      if g.shadowKind = .fault ∨ g.shadowKind = .rerun ∨ g.shadowKind = .recheck then t
      else
        let units := t.slot.targets.flatMap (fun y => if y.1 = x.1 then y.2 else [])
        let t1 := if g.shadowKind = .arming then t else t.assignShadow x.1 .arming units
        t1.onSlot (fun y => { y with left := y.left.map (fun (z : Nat × Nat) => if z.1 = x.1 then (z.1, z.2 - 262144) else z) })) s

/-! ### The switch (R442) -/

/-- Passes of the live image that have not ended. -/
def State.openPasses (s : State) : Nat :=
  (s.engines.filter (fun g => match g.live with | some c => c.passRunning && !c.withheld | none => false)).length

/-- Whether the live image has a sensor. -/
def State.sensorBefore (s : State) (id : Nat) : Bool :=
  match s.live with | some i => i.body.sensors.any (fun (x : Nat × SensorEntry) => decide (x.1 = id)) | none => false

/-- Extrinsics after the switch (R442). -/
def State.switchExtrinsics (s : State) (img : Image) : Map Extrinsic :=
  img.body.sensors.foldl (fun (m : Map Extrinsic) (x : Nat × SensorEntry) =>
    if img.body.keep.contains x.1 ∧ (s.sensorBefore x.1) ∧ (mget m x.1).isSome then m else mset m x.1 x.2.extrinsic) s.store.extrinsics

/-- Node table and hash keys at the switch (R204, R208). The first image's key and table are in use at once: nothing is hashed yet. -/
def State.switchTable (s : State) (img : Image) : State :=
  let c := s.config
  let other := decide (s.live.isSome ∧ (c.bucketsLog2 ≠ img.config.bucketsLog2 ∨ c.poolPods ≠ img.config.poolPods))
  let tab := if other then 1 - s.store.tab else s.store.tab
  let lg := img.config.bucketsLog2
  s.onStore (fun p =>
    let p1 : PodStore :=
      if s.live.isSome then { p with tab := tab }
      else { p with regions := (List.range 512).foldl (fun m r => mset m r { p.region r with k := img.k, tab := tab, lg := lg }) p.regions }
    (List.range 512).foldl (fun q r => q.trigger r 0 (some (img.k, tab, lg))) p1)

/-- Storage of the new image's data sets; those at 0xFFF0 and above that it does not declare stay. -/
def State.switchData (s : State) (img : Image) : Map DataStore :=
  let kept := s.data.filter (fun (x : Nat × DataStore) => decide (0xFFF0 ≤ x.1 % 65536))
  img.body.dataSets.foldl (fun (m : Map DataStore) d =>
    let k := d.space * 65536 + d.num
    if (mget m k).isSome then m else mset m k { size := d.size }) kept

/-- The mover's descriptor table after the switch (R330, R649). -/
def State.switchDescs (s : State) (img : Image) : Map DescEntry :=
  let host := (s.descs.filter (fun (x : Nat × DescEntry) => decide (x.2.owner ≠ .loader))).map (fun (x : Nat × DescEntry) =>
    let gone := decide (x.2.desc.space = 2 ∧ x.2.desc.dataSet ≠ 0xFFFE) && !img.body.dataSets.any (fun d => decide (d.space = 2 ∧ d.num = x.2.desc.dataSet))
    (x.1, { x.2 with void := x.2.void || gone }))
  img.body.descs.foldl (fun (m : Map DescEntry) (x : Nat × Desc) => mset m x.1 { desc := x.2 }) host

/-- The slow solve ends ABANDONED (R409). -/
def State.abandonSlow (s : State) : State :=
  if s.solver.slow.isNone then s
  else
    let s1 := (s.rput Reg.SLOW_RESULT 31 28 6).onSolver (fun v => { v with slow := none })
    (s1.bump Reg.ABANDONED_SOLVES).raise Reg.SOLVER_EVENTS 6

/-- LIVE registers (R442, R447). -/
def State.showLive (s : State) (img : Image) : State :=
  let s1 := s.setWords (Reg.LIVE_DIGEST 0) 16 img.digest
  let s2 := (s1.setPair Reg.LIVE_IMAGE_ID_LO Reg.LIVE_IMAGE_ID_HI img.id).rset Reg.LIVE_SECURITY_VERSION (nw img.version)
  let s3 := (s2.rset Reg.LIVE_TOOL_VERSION (nw img.tool)).setPair Reg.LIVE_SINCE_BEAT_LO Reg.LIVE_SINCE_BEAT_HI s.tl.beat
  s3.rset Reg.LIVE_SINCE_EPOCH (nw s.tl.epoch.toNat)

/-- The switch to an ARMED image (R442). -/
def State.switchImage (s : State) : State :=
  match s.slot.state, s.slot.image with
  | .armed, some img =>
    let targets := s.slot.targets.map (fun t => t.1)
    let lost := s.openPasses
    let s1 := targets.foldl (fun (t : State) e => t.switchEng e) s
    let s2 := (engines20.filter (fun e => !targets.contains e)).foldl (fun (t : State) e => if (t.engine e).state = .live then t.releaseEng e else t) s1
    let s3 := s2.abandonSlow.switchTable img
    let ext := s3.switchExtrinsics img
    let s4 : State := { s3 with
      data := s3.switchData img, descs := s3.switchDescs img, old := s3.live, live := some img, liveBeat := s3.tl.beat
      movers := s3.movers.zipIdx.map (fun x => { x.1 with assigned := decide (28 ≤ x.2) || img.body.ops.any (fun o => decide (o.1 = x.2)) })
      place := { s3.place with suspended := [], located := [], remap := [], moves := [], changed := targets } }
    let s5 := ((s4.onStore (fun p => { p with extrinsics := ext })).bump Reg.DESC_CREATED img.body.descs.length).emptySlot
    ((s5.showLive img).bump Reg.ABANDONED_PASSES lost |>.bump Reg.SWITCHES).raise Reg.SLOT_EVENTS 0
  | _, _ => s

end Sys2Proof.Machine
end

