-- ==== Sys2Proof/Machine/PowerOps.lean ====
section
/-! DEFINITION. The sweep, the trickle, the marrow save and its restore (R737 to R757). -/

namespace Sys2Proof.Machine

open Sys2Proof

/-- `s` with its power state changed. -/
def State.onPower (s : State) (f : Power → Power) : State := { s with power := f s.power }

/-- `s` with the keeper die changed. -/
def State.onKeeper (s : State) (f : Keeper → Keeper) : State := { s with keeper := f s.keeper }

/-- `s` with the marrow region of the keeper die changed. -/
def State.onMarrow (s : State) (f : Marrow → Marrow) : State := s.onKeeper (fun k => { k with marrow := f k.marrow })

/-- Pages of the GRID section (R742). -/
def gridPages : Nat := 6032

/-- An empty page: SWEEP 0, so not valid (R744). -/
def emptyPage : GridPage := { sweep := 0 }

/-- Dirty pages, in page order: those whose staging copy differs from the keeper's (R746). -/
def State.dirtyPages (s : State) : List (Nat × GridPage) :=
  s.power.staging.filter (fun (x : Nat × GridPage) => decide (mgetD s.keeper.marrow.grid x.1 emptyPage ≠ x.2))

/-- DIRTY_BYTES in KiB (R759). -/
def State.dirtyKib (s : State) : Nat := 4 * s.dirtyPages.length

/-- Whether dirty bytes reach DIRTY_LIMIT (R746). -/
def State.sweepWaits (s : State) : Bool := decide (s.rbits Reg.MARROW_CFG 15 8 * 1024 ≤ s.dirtyKib)

/-! ### The sweep (R745) -/

/-- Whether the sweep takes a record: its effective log-odds and its age. -/
def State.sweepTakes (s : State) (x : Nat × Cell) : Bool :=
  s.ownsKey x.1 && decide (sval 16 (s.rbits Reg.MARROW_CFG 31 16) ≤ effective s.config.decay x.2 s.frame) &&
    decide (s.config.depth < (s.frame % 256 + 256 - x.2.last) % 256)

/-- The entry the sweep forms of a record. -/
def State.sweepEntry (s : State) (x : Nat × Cell) : CommitEntry :=
  { key := x.1, cell := { x.2 with logOdds := effective s.config.decay x.2 s.frame, last := s.frame % 256 }, seq := s.tl.beat % 65536 }

/-- The highest SWEEP number that the keeper holds (R757). -/
def State.topSweep (s : State) : Nat := (s.keeper.marrow.grid.map (fun (x : Nat × GridPage) => x.2.sweep)).foldl max s.keeper.sweepCounter

/-- A sweep begins with the next number of the keeper counter (R745, R757). -/
def State.beginSweep (s : State) : State :=
  let n := s.topSweep + 1
  (s.onKeeper (fun k => { k with sweepCounter := n })).onPower (fun p =>
    { p with sweeping := true, sweep := n, pos := 0, page := 0, fill := [], found := 0 })

/-- A sweep ends: the page it was filling is written and the pages it did not fill take COUNT 0; `left` keys found no page. -/
def State.endSweep (s : State) (left : Nat) : State :=
  let p := s.power
  let fresh := (List.range gridPages).drop p.page |>.map (fun i =>
    (i, ({ sweep := p.sweep, entries := if i = p.page then p.fill else [] } : GridPage)))
  let s1 := s.onPower (fun q => { q with
    sweeping := false, fill := [], full := decide (0 < left), staging := q.staging.filter (fun (x : Nat × GridPage) => decide (x.1 < p.page)) ++ fresh })
  let s2 := (s1.rset Reg.SWEEP_ENTRIES (nw p.found)).rset Reg.GRID_LEFT_OUT (nw left)
  if left = 0 then s2 else s2.raise Reg.POWER_EVENTS 1

/-- The sweep walks on until a page is full or the keys end. -/
def State.walkSweep (s : State) : State :=
  let p := s.power
  let recs := s.allRecords.filter (fun (x : Nat × Cell) => decide (p.pos ≤ x.1) && s.sweepTakes x)
  if p.page = gridPages then s.endSweep recs.length
  else
    let now := recs.take (255 - p.fill.length)
    let fill := p.fill ++ now.map s.sweepEntry
    let s1 := s.onPower (fun q => { q with fill := fill, found := q.found + now.length })
    if recs.length ≤ 255 - p.fill.length ∧ fill.length < 255 then s1.endSweep 0
    else
      s1.onPower (fun q => { q with
        staging := mset q.staging p.page { sweep := p.sweep, entries := fill }, fill := [], page := p.page + 1
        pos := match now.getLast? with | some x => x.1 + 1 | none => q.pos })

/-! ### The trickle (R746) -/

/-- A dirty page is written to the keeper. -/
def State.writePage (s : State) (x : Nat × GridPage) : State := s.onMarrow (fun m => { m with grid := mput emptyPage m.grid x.1 x.2 })

/-- MARROW_FORGET (R750, R758): COMPLETE is cleared and every page is emptied, by way of the staging copy. -/
def State.forgetMarrow (s : State) : State :=
  if s.saved then s
  else
    let pages := (munion s.keeper.marrow.grid s.power.staging).map (fun (x : Nat × GridPage) => (x.1, emptyPage))
    (s.onMarrow (fun m => { m with complete := false })).onPower (fun p => { p with staging := pages, fill := [], page := 0, pos := 0, found := 0 })

/-! ### The save (R747 to R752) -/

/-- A sag in service (R748): the part leaves IN_SERVICE, the heartbeat stops, the slot is discarded, the HEADER loses COMPLETE and CLOSE
is queued. -/
def State.beginSave (s : State) : State :=
  let s1 := { s with boot := { s.boot with inService := false } }
  let s2 := if s1.safety.hbRun then s1.stopHeartbeat else s1
  let s3 := s2.discardSlot
  let s4 := if s3.boot.straps.getLsbD 10 then
      s3.onMarrow (fun m => { m with complete := false, fromHold := s.hold, beat := s.tl.beat, epoch := s.tl.epoch.toNat })
    else s3
  (s4.close 0).onPower (fun p => { p with saving := some s.now })

/-- The records of the on-chip shadows are written to the keeper (R748). -/
def State.flushShadows (s : State) : State :=
  let n := s.keeper.logSeq
  let recs := s.safety.waiting.zipIdx.map (fun (x : LogRecord × Nat) => { x.1 with seq := (n + 1 + x.2) % 2 ^ 32 })
  let s1 := s.onKeeper (fun k => { k with
    log := (recs.reverse ++ k.log).take 131072, logSeq := n + recs.length, faults := k.faults ++ s.safety.mapShadow })
  { s1 with safety := { s1.safety with waiting := [], mapShadow := [] } }

/-- The current version of every track (R742). -/
def State.trackVersions (s : State) : Map Spline :=
  s.store.versions.filterMap (fun (x : Nat × List Published) => match x.2 with | v :: _ => some (x.1, v.spline) | [] => none)

/-- The marrow sections and the HEADER of a completed save (R742, R743). -/
def State.writeMarrow (s : State) (us : Nat) : State :=
  s.onMarrow (fun m => { m with
    tracks := s.trackVersions, warm := s.solver.warm, sensors := s.store.extrinsics
    grid := s.dirtyPages.foldl (fun g (x : Nat × GridPage) => mput emptyPage g x.1 x.2) m.grid
    digest := match s.live with | some i => i.digest | none => 0
    saveUs := us, complete := true })

/-- The save ends (R748 to R752): records not yet sent are gone, the SerDes are off, HOLDUP_OK is asserted where a capacitor is fitted. -/
def State.endSave (s : State) (us : Nat) : State :=
  let s1 := s.flushShadows
  let held := s1.boot.straps.getLsbD 10
  let s2 := if held then s1.writeMarrow us else s1
  let s3 := (s2.onCom (fun c => { c with slot := [], dests := c.dests.map (fun d => { d with queue := [], ready := none, await := [], awaitBeats := 0 }) }))
  s3.onPower (fun p => { p with saving := none, stopped := true, serdesOff := true, holdupOk := held, sweeping := false })

/-! ### Restore (R754 to R756) -/

/-- The marrow region is read at boot step 6 (R754); `headerOk` is the HEADER's DIGEST, `bad` the pages whose CHECK fails. -/
def State.readMarrow (s : State) (headerOk : Bool) (bad : List Nat) : State :=
  let m := s.keeper.marrow
  let valid := headerOk && m.complete
  let pages := m.grid.filter (fun (x : Nat × GridPage) => decide (x.2.sweep ≠ 0) && !bad.contains x.1)
  let s1 := s.onPower (fun p => { p with staging := pages, image := m, headerValid := valid, marrowRead := true })
  let s2 := s1.rset Reg.RESTORE_RESULT (nw (b2n valid * 2 ^ 31 + b2n m.fromHold * 2 ^ 29 + pages.length))
  if valid then s2.rset Reg.LAST_SAVE_US (nw m.saveUs) else s2

/-- Pages in ascending SWEEP and then page order (R755). -/
def pageOrder (pages : Map GridPage) : List GridPage := (lsortBy (fun (x : Nat × GridPage) => x.2.sweep) pages).map (fun x => x.2)

/-- A GRID entry filed (R755). -/
def State.restoreEntry (s : State) (e : CommitEntry) : State :=
  let c : Cell := { e.cell with vx := 0, vy := 0, last := s.frame % 256 }
  if ¬ s.ownsKey e.key then s.bump Reg.RESTORE_REFUSED
  else match s.fileEntry e.key s.frame c with
    | some t => (t.bump Reg.RESTORED_ENTRIES).onPower (fun p => { p with restored := true })
    | none => s.bump Reg.RESTORE_REFUSED

/-- The restore at the frame boundary at which the first image goes live (R755): GRID, WARM and SENSORS; TRACKS fall due. -/
def State.restoreMarrow (s : State) : State :=
  match s.live with
  | none => s
  | some img =>
    if ¬ s.power.marrowRead then s
    else
      let m := s.power.image
      let hv := s.power.headerValid
      let same := hv && decide (m.digest = img.digest)
      let s1 := ((pageOrder s.power.staging).flatMap (fun p => p.entries)).foldl State.restoreEntry s
      let s2 := if same then s1.onSolver (fun v => { v with warm := m.warm }) else s1
      let keep := if hv then m.sensors.filter (fun (x : Nat × Extrinsic) => img.body.keep.contains x.1) else []
      let s3 := s2.onStore (fun p => { p with extrinsics := munion p.extrinsics keep })
      let old := (s3.rget Reg.RESTORE_RESULT).toNat
      let s4 := s3.rset Reg.RESTORE_RESULT (nw (old + b2n same * 2 ^ 30 + b2n same * 2 ^ 23 + b2n (!keep.isEmpty) * 2 ^ 22 + b2n s3.power.restored * 2 ^ 21))
      let due := same && !m.tracks.isEmpty
      let s5 := s4.onPower (fun p => { p with marrowRead := false, tracksDue := due })
      if due then s5 else s5.raise Reg.POWER_EVENTS 0

/-- A saved track published anew (R755): its pose at BEAT_INDEX held over the whole span from ORIGIN. -/
def State.restoreTrack (s : State) (v : Spline) : State :=
  let p := splinePose v (nearCovered v ((s.power.image.beat * 64 : Nat) : Int))
  let t := p.trans.map (fun x => rneDiv x 4503599627370496)
  let cp : ControlPoint := { x := lgetD t 0 0, y := lgetD t 1 0, z := lgetD t 2 0 }
  s.publishVersion { track := v.track, parent := v.parent, origin := s.tl.beat - 1000
                     rot := p.rot.map (fun x => rneDiv x 1073741824), cps := List.replicate 72 cp } false

/-- TRACKS restored at the first beat after IN_SERVICE (R755). -/
def State.restoreTracks (s : State) : State :=
  if s.power.tracksDue ∧ s.inServ then
    let s1 := (s.power.image.tracks.map (fun (x : Nat × Spline) => x.2)).foldl State.restoreTrack (s.onPower (fun p => { p with tracksDue := false }))
    (s1.rput Reg.RESTORE_RESULT 24 24 1).raise Reg.POWER_EVENTS 0
  else s

/-! ### Power domains (R605, R788) -/

/-- A power-domain fault: of an engine or a DRAM channel, which is then retired at once, or of anything else. -/
def State.domainFault (s : State) (d : Option (Bool × Fin 20)) : State :=
  match d with
  | none => s.enterHold 8
  | some (false, e) => s.engHard e.val 9
  | some (true, c) => if c.val < 18 then s.retireChannel c.val true else s

end Sys2Proof.Machine
end

