-- ==== Sys2Proof/Machine/Power.lean ====
section
/-! DEFINITION. Commands of the power manager: sags, the save, the sweep, the trickle and faults (R605, R745 to R752, R788). -/

namespace Sys2Proof.Machine

open Sys2Proof

/-- SAG (R747, R748, R750, R752): the internal monitors count only while SAG_CFG.MON_EN is 1. -/
def execPowerSag (internal : Bool) (s : State) : Out :=
  if ¬ s.up ∨ s.saved ∨ (internal ∧ ¬ s.rbit Reg.SAG_CFG 0) then .next s
  else
    let s1 := s.bump Reg.SAGS
    let s2 := if internal then s1.raise Reg.POWER_EVENTS 3 else s1
    if s2.inServ then .next s2.beginSave
    else if s2.boot.straps.getLsbD 10 then .next (s2.onPower (fun p => { p with stopped := true, holdupOk := true }))
    else .next s2

/-- SAVE_COMPLETE (R748, R749): `us` is the save's duration. -/
def execSaveComplete (us : Nat) (s : State) : Out := if s.power.saving.isSome then .next (s.endSave us) else .next s

/-- SWEEP (R745): the sweep begins, or walks on until it has filled a page or ended. -/
def execMarrowSweep (s : State) : Out :=
  if ¬ s.inServ ∨ s.hold ∨ s.saved ∨ s.sweepWaits then .next s
  else .next (if s.power.sweeping then s.walkSweep else s.beginSweep)

/-- TRICKLE_WRITE (R746, R584): the first dirty page reaches the keeper, or its write fails. -/
def execTrickleWrite (ok : Bool) (s : State) : Out :=
  if ¬ s.up ∨ s.saved then .next s
  else match s.dirtyPages with
    | [] => .next s
    | x :: _ => if ok then .next (s.writePage x) else .next (s.keeperFail.raise Reg.POWER_EVENTS 2)

/-- THERMAL_TRIP (R788): the highest logic die sensor reaches 115 °C. -/
def execThermalTrip (s : State) : Out := if s.up then .next (s.domainFault none) else .next s

/-- POWER_DOMAIN_FAULT (R315, R504, R605): in the domain of an engine or a DRAM channel, or outside them. -/
def execPowerDomainFault (d : Option (Bool × Fin 20)) (s : State) : Out := if s.up then .next (s.domainFault d) else .next s

end Sys2Proof.Machine
end

