-- ==== Sys2Proof/Machine/PeerOps.lean ====
section
/-! DEFINITION. The link layer, lanes, link-up, time exchange, peer rings, mirrors and seeding (R521 to R564). -/

namespace Sys2Proof

/-- Lane modes of a direction from which of its five lanes can serve (R524, R540, R541): lane 4 takes the slot of the first that
cannot. -/
def assignLanes (ok : Nat → Bool) (gone : Nat → Bool) : List LaneMode :=
  let bad : Option Nat := [0, 1, 2, 3].find? (fun l => !ok l)
  (List.range 5).map (fun l =>
    if gone l then LaneMode.retired
    else if ¬ ok l then LaneMode.down
    else if l < 4 then LaneMode.active (Fin.ofNat 4 l)
    else match bad with
      | some b => LaneMode.active (Fin.ofNat 4 b)
      | none => LaneMode.spare)

/-- Whether a lane is active in a direction. -/
def LaneMode.isActive : LaneMode → Bool
  | .active _ => true
  | _ => false

/-- Retire lane `l` in one direction (R540, R541): the spare takes its slot. -/
def retireMode (ms : List LaneMode) (l : Nat) : List LaneMode :=
  let old := lgetD ms l .down
  let m := lput ms l .retired
  match old with
  | .active sl => match m.findIdx? (fun x => decide (x = .spare)) with
    | some i => lput m i (.active sl)
    | none => m
  | _ => m

/-- The receive modes of a port. -/
def PeerPort.rxModes (p : PeerPort) : List LaneMode := p.lanes.map (fun l => l.rx)

/-- The transmit modes of a port. -/
def PeerPort.txModes (p : PeerPort) : List LaneMode := p.lanes.map (fun l => l.tx)

/-- A port with other receive modes. -/
def PeerPort.setRx (p : PeerPort) (ms : List LaneMode) : PeerPort :=
  { p with lanes := p.lanes.zipIdx.map (fun x => { x.1 with rx := lgetD ms x.2 .down }) }

/-- A port with other transmit modes. -/
def PeerPort.setTx (p : PeerPort) (ms : List LaneMode) : PeerPort :=
  { p with lanes := p.lanes.zipIdx.map (fun x => { x.1 with tx := lgetD ms x.2 .down }) }

/-- The header of the port's next flit (R526, R528): VCs with credits pending take turns. -/
def PeerPort.header (p : PeerPort) : OutHead × PeerPort :=
  match ([0, 1, 2, 3].map (fun i => (p.creditTurn + i) % 4)).find? (fun v => decide (0 < lgetD p.owe v 0)) with
  | some v =>
    let n := min 255 (lgetD p.owe v 0)
    ({ ack := p.rxGood, creditVc := v, credits := n }, { p with owe := lmod p.owe v (fun x => x - n), creditTurn := (v + 1) % 4 })
  | none => ({ ack := p.rxGood }, p)

/-- Flits are acknowledged up to `ack` (R529); the flag says whether the ACK advanced. -/
def PeerPort.acknowledge (p : PeerPort) (ack : BitVec 12) : PeerPort × Bool :=
  match p.replay.findIdx? (fun f => decide (f.seq = ack)) with
  | some i => ({ p with replay := p.replay.drop (i + 1), replaysRow := 0 }, true)
  | none => (p, false)

/-- What survives when a port leaves UP (R531): its lanes, counters held elsewhere and the ring's position; the link starts
afresh. -/
def PeerPort.fresh (p : PeerPort) (st : PeerState) : PeerPort :=
  { state := st, reason := p.reason, lanes := p.lanes, ringPos := p.ringPos, wantRefresh := p.wantRefresh, own := p.own
    nb := { p.nb with epoch := none, announced := none } }

/-- The VC of a flit's body (R527). -/
def FlitBody.vc : FlitBody → Fin 4
  | .commit _ => 0
  | .pea _ => 1
  | .write _ _ => 2
  | .mirror _ => 3
  | .seed _ => 3

/-- The sets that a flit's END entries close. -/
def FlitBody.ends : FlitBody → List (Nat × Nat)
  | .mirror es => es.filterMap (fun e => match e with | .fin ep fr => some (fr, ep) | _ => none)
  | _ => []

/-- A key with its cube moved by cells on each axis; none where it leaves the zone cube or is no whole node (R548, R549). -/
def moveKey (k : Nat) (dx dy dz : Int) : Option Nat :=
  let (x, y, z) := demorton3 11 (keyMorton k)
  let a := (x : Int) - dx
  let b := (y : Int) - dy
  let c := (z : Int) - dz
  if 0 ≤ a ∧ a < 2048 ∧ 0 ≤ b ∧ b < 2048 ∧ 0 ≤ c ∧ c < 2048 then
    let k' := keyLevel k * 2 ^ 33 + morton3 11 a.toNat b.toNat c.toNat
    if keyWhole k' then some k' else none
  else none

/-- The VC whose next flit a port sends (R528): VC0, VC1, then VC2 and VC3 in turn, of those with a flit waiting and a credit. -/
def PeerPort.nextVc (p : PeerPort) : Option Nat :=
  if 512 ≤ p.replay.length then none
  else (if p.vcTurn then [0, 1, 3, 2] else [0, 1, 2, 3]).find? (fun v => !(lgetD p.waiting v []).isEmpty && decide (0 < lgetD p.credits v 0))

/-- Pages of the mirror region in use (R560). -/
def Mirror.pages (m : Mirror) : Nat := m.pods.length + cdiv m.nodes.length 32

/-- Records of the mirror, by key. -/
def Mirror.records (m : Mirror) : List (Nat × Cell) :=
  m.pods.flatMap (fun (x : Nat × Map Cell) => x.2.map (fun (y : Nat × Cell) => (11 * 2 ^ 33 + keyMorton x.1 + y.1, y.2))) ++ m.nodes

end Sys2Proof

namespace Sys2Proof.Machine

open Sys2Proof

/-- `s` with its peer links changed. -/
def State.onPeers (s : State) (f : Peers → Peers) : State := { s with peers := f s.peers }

/-- Whether the part takes flits (R532, R706): CHIP_COORD written, an image live, boot at step 8. -/
def State.linkReady (s : State) : Bool := s.up && decide (8 ≤ s.boot.step) && s.peers.coord.isSome && s.live.isSome

/-- Ports that are UP (ACCEPTED of R567). -/
def State.upPorts (s : State) : List Nat := (List.range 6).filter (fun p => decide ((s.peer p).state = .up))

/-! ### Sending -/

/-- Send an unsequenced flit on a port (R527). -/
def State.sendLink (s : State) (p : Nat) (f : LinkOut) : State :=
  let (h, q) := (s.peer p).header
  ((s.onPeer p (fun _ => q)).send (.link p h f)).bump64 (Reg.TX_FLITS_LO p) (Reg.TX_FLITS_HI p)

/-- Put a sequenced flit of the replay buffer on the link (R529). -/
def State.sendHeld (s : State) (p : Nat) (f : HeldFlit) : State :=
  let (h, q) := (s.peer p).header
  ((s.onPeer p (fun _ => q)).send (.flit p h f)).bump64 (Reg.TX_FLITS_LO p) (Reg.TX_FLITS_HI p)

/-- Whether a port still has to send a mirror set's END. -/
def State.setWaiting (s : State) (m : MirrorSet) : Bool :=
  s.upPorts.any (fun p => (lgetD (s.peer p).waiting 3 []).any (fun b => b.ends.contains (m.frame, m.epoch)))

/-- A mirror set's END has been sent: the frames it took, and the set is done once no port still has to send it (R558, R565). -/
def State.noteEnd (s : State) (x : Nat × Nat) : State :=
  match s.peers.sets.find? (fun m => decide (m.frame = x.1 ∧ m.epoch = x.2)) with
  | none => s
  | some m =>
    let s1 := s.rmax Reg.MIRROR_LAG_MAX (min 255 (s.tl.frames - m.due))
    if s1.setWaiting m then s1 else s1.onPeers (fun q => { q with sets := q.sets.filter (fun y => y ≠ m) })

/-- The port sends its next sequenced flit, if it may (R528, R529). -/
def State.sendNext (s : State) (p : Nat) : State :=
  let q := s.peer p
  if q.state ≠ .up then s
  else match q.nextVc with
    | none => s
    | some v =>
      match lgetD q.waiting v [] with
      | [] => s
      | b :: rest =>
        let f : HeldFlit := { seq := q.txSeq, vc := Fin.ofNat 4 v, body := b }
        let s1 := s.onPeer p (fun _ => { q with
          waiting := lput q.waiting v rest, credits := lmod q.credits v (fun n => n - 1), txSeq := q.txSeq + 1
          replay := q.replay ++ [f], ackAt := if q.replay.isEmpty then s.now else q.ackAt
          vcTurn := if v = 2 then true else if v = 3 then false else q.vcTurn })
        b.ends.foldl State.noteEnd (s1.sendHeld p f)

/-- A port sends up to `n` flits. -/
def State.pumpPort (s : State) (p : Nat) : Nat → State
  | 0 => s
  | n + 1 =>
    let q := s.peer p
    if q.state = .up ∧ q.nextVc.isSome then (s.sendNext p).pumpPort p n else s

/-- Every port sends up to `n` flits. -/
def State.pumpPeers (s : State) (n : Nat) : State := (List.range 6).foldl (fun t p => t.pumpPort p n) s

/-! ### Leaving UP -/

/-- A port leaves UP (R537). -/
def State.leaveUp (s : State) (p : Nat) (st : PeerState) : State :=
  let q := s.peer p
  if q.state ≠ .up then s.onPeer p (fun x => { x with state := st })
  else
    let lost := (lgetD q.waiting 2 []).length
    let s0 := if s.tl.upstream.getLsbD p then s.raise Reg.TIME_EVENTS 10 else s
    let s1 := ((s0.bump (Reg.LINK_DOWNS p)).destOff p).onTl (fun t => { t with upstream := t.upstream &&& ~~~ BitVec.ofNat 6 (2 ^ p) })
    let s2 := if lost = 0 then s1 else (s1.bump Reg.RELAY_DROPS lost).raise Reg.PEER_EVENTS 2
    let own := s.coordNat.getD 0
    let s3 := (lgetD q.waiting 2 []).foldl (fun (t : State) b => match b with
      | .write _ w => if w.source = own then
          ((t.bump Reg.XLATE_FAULTS).raise Reg.MOVER_EVENTS 2) else t
      | _ => t) s2
    let held := s.peers.mirror.valid && decide (s.peers.mirror.port = p)
    let s4 := (s3.onPeer p (fun x => { x.fresh st with wantRefresh := x.wantRefresh || held })).onPeers (fun x =>
      if held then { x with mirror := { x.mirror with stale := true } } else x)
    if s4.upPorts.isEmpty then s4.onTl (fun t => { t with depth := 0, votes := 0, upstream := 0, conflict := false }) else s4

/-- A port goes DOWN from UP (R531): LINK_DOWN and the effects of R537. -/
def State.linkDown (s : State) (p : Nat) (st : PeerState) : State :=
  if (s.peer p).state = .up then (s.leaveUp p st).raise Reg.PEER_EVENTS (12 + p) else s.leaveUp p st

/-- A port is retired (R541). -/
def State.retirePort (s : State) (p : Nat) : State :=
  if (s.peer p).state = .retired then s
  else
    let s1 := s.linkDown p .retired
    (s1.onPeer p (fun q => { q with lanes := q.lanes.map (fun l =>
      { l with rx := if l.rx = .retired then .retired else .down, tx := if l.tx = .retired then .retired else .down }) })).raise Reg.PEER_EVENTS 0

/-! ### Lanes -/

/-- Replays counted against a lane in the current LANE_WINDOW (R539). -/
def State.laneWindow (s : State) (p l : Nat) : Nat :=
  ((lgetD (s.peer p).lanes l {}).replays.filter (fun t => decide (s.now < t + s.rbits Reg.LANE_FAULT_CFG 31 16 * cyclesMs))).length

/-- A receiving lane is retired (R539 to R541). -/
def State.retireLane (s : State) (p l : Nat) : State :=
  let q := s.peer p
  let old := lgetD q.rxModes l .down
  if old = .retired then s
  else
    let ms := retireMode q.rxModes l
    let spare := q.rxModes.findIdx? (fun x => decide (x = .spare))
    let repl := if old.isActive then spare.map (fun i => p * 8 + i) else none
    let s1 := ((s.onPeer p (fun x => x.setRx ms)).declare 3 (p * 8 + l) 0 repl false).raise Reg.PEER_EVENTS (18 + p)
    if ¬ old.isActive then s1
    else
      let s2 := s1.sendLink p (.laneSwap l (q.rxGood + 1))
      let s3 := if spare.isSome then s2 else s2.raise Reg.PEER_EVENTS 1
      if ms.any LaneMode.isActive then s3 else s3.retirePort p

/-- A lane event (R538, R539): a flit on the lane was bad and causes a replay. -/
def State.laneEvent (s : State) (p l : Nat) : State :=
  let keep := fun t : Nat => decide (s.now < t + s.rbits Reg.LANE_FAULT_CFG 31 16 * cyclesMs)
  let s1 := (s.bump (Reg.LANE_REPLAYS p l)).onPeer p (fun q =>
    { q with lanes := lmod q.lanes l (fun x => { x with replays := s.now :: x.replays.filter keep }) })
  let n := s1.laneWindow p l
  let s2 := s1.logRec 1 3 (p * 8 + l) 0 (min 255 n)
  if s2.rbits Reg.LANE_FAULT_CFG 7 0 < n then s2.retireLane p l else s2

/-! ### Receiving -/

/-- Whether a port's lanes carry flits (R531). -/
def State.linked (s : State) (p : Nat) : Bool :=
  s.up && decide ((s.peer p).state = .hello ∨ (s.peer p).state = .up ∨ (s.peer p).state = .refused)

/-- What every flit shows of its codeword (R565), and a CRC failure counted. -/
def State.noteFlit (s : State) (p : Nat) (h : FlitHead) : State :=
  let s1 := if h.corrected then s.bump (Reg.LANE_FEC_CORRECTED p h.lane.val) else s
  let s2 := if h.codeword then s1 else s1.bump (Reg.LANE_FEC_UNCORRECTED p h.lane.val)
  if h.intact then s2.bump64 (Reg.RX_FLITS_LO p) (Reg.RX_FLITS_HI p) else s2.bump (Reg.CRC_ERRORS p)

/-- ACK and credits of an intact flit's header (R526, R528, R529). -/
def State.takeHeader (s : State) (p : Nat) (h : FlitHead) : State :=
  s.onPeer p (fun q =>
    let r := q.acknowledge h.ack
    let x := r.1
    { x with credits := lmod x.credits h.creditVc.val (fun n => n + h.credits), ackAt := if r.2 then s.now else x.ackAt })

/-- An unsequenced flit (R527): ignored when its CRC fails; other than LINK it is NAKed before the part takes flits (R532). -/
def State.recvLink (s : State) (p : Nat) (h : FlitHead) (link : Bool) (act : State → State) : State :=
  if ¬ s.linked p then s
  else
    let s1 := s.noteFlit p h
    if ¬ h.intact then s1
    else
      let s2 := s1.takeHeader p h
      if link ∨ s2.linkReady then act s2 else s2.sendLink p (.nak (s2.peer p).rxGood)

/-- Discard a sequenced flit, and NAK the first of those discarded (R529). -/
def State.discardFlit (s : State) (p : Nat) : State :=
  if (s.peer p).discarding then s else (s.onPeer p (fun q => { q with discarding := true })).sendLink p (.nak (s.peer p).rxGood)

/-- A sequenced flit of a VC (R529): taken in order and intact, discarded otherwise. -/
def State.recvFlit (s : State) (p : Nat) (h : FlitHead) (vc : Nat) (act : State → State) : State :=
  if ¬ s.linked p then s
  else
    let s1 := s.noteFlit p h
    if ¬ s.linkReady then (if h.intact then s1.sendLink p (.nak (s1.peer p).rxGood) else s1)
    else if (s.peer p).state ≠ .up then s1
    else if ¬ h.intact then (s1.laneEvent p h.lane.val).discardFlit p
    else
      let s2 := s1.takeHeader p h
      let q := s2.peer p
      if h.seq ≠ q.rxGood + 1 then s2.discardFlit p
      else act (s2.onPeer p (fun x => { x with rxGood := h.seq, discarding := false, owe := lmod x.owe vc (fun n => n + 1) }))

/-- Resend every flit not acknowledged (R529, R530): 16 replays in a row that bring no advance take the port back to TRAINING. -/
def State.replayAll (s : State) (p : Nat) : State :=
  let q := s.peer p
  if q.replay.isEmpty then s
  else
    let s1 := q.replay.foldl (fun (t : State) f => t.sendHeld p f)
      (s.onPeer p (fun x => { x with replaysRow := x.replaysRow + 1, ackAt := s.now }))
    if 16 ≤ q.replaysRow + 1 then s1.linkDown p .training else s1

/-! ### Link-up -/

/-- The coordinate of the neighbour that R29 gives for port `n`; none where it leaves the grid. -/
def stepCoord (own n : Nat) : Option Nat :=
  let ax := n / 2
  let v := coordAxis own ax
  let w := if ax = 2 then 64 else 16
  let unit := if ax = 0 then 1 else if ax = 1 then 16 else 256
  if n % 2 = 0 then (if v + 1 < w then some (own + unit) else none) else (if 0 < v then some (own - unit) else none)

/-- The part's NEIGHBOUR_OFFSET of port `n`. -/
def State.offset (s : State) (n : Nat) : List Int := (List.range 3).map (fun i => lgetD s.config.offsets (3 * n + i) 0)

/-- A HELLO's box in the part's own frame (R534). -/
def State.helloBox (s : State) (n : Nat) (b : HelloBody) : List Int :=
  (List.range 6).map (fun i => lgetD b.owned i 0 - lgetD (s.offset n) (i % 3) 0)

/-- Whether two boxes overlap (R28). -/
def boxesOverlap (a b : List Int) : Bool :=
  [0, 1, 2].all (fun i => decide (lgetD a i 0 < lgetD b (i + 3) 0 ∧ lgetD b i 0 < lgetD a (i + 3) 0))

/-- Whether a neighbour's box starts on the face of the own box behind port `n` (R29, R534). -/
def boxOnFace (own nb : List Int) (n : Nat) : Bool :=
  let ax := n / 2
  if n % 2 = 0 then decide (lgetD nb ax 0 = lgetD own (ax + 3) 0) else decide (lgetD nb (ax + 3) 0 = lgetD own ax 0)

/-- The checks of R534: the REASON of a refusal, 0 where all pass. -/
def State.helloReason (s : State) (n : Nat) (b : HelloBody) : Nat :=
  let box := s.helloBox n b
  if stepCoord (s.coordNat.getD 0) n ≠ some b.coord ∨ b.port ≠ n ^^^ 1 then 1
  else if b.offset ≠ (s.offset n).map (fun x => -x) then 2
  else if boxesOverlap s.owned box then 3
  else if ¬ boxOnFace s.owned box n then 4
  else if b.part ≠ 0x2016 ∨ b.stepping ≠ 0xA1 then 5
  else 0

/-- The port whose neighbour the part mirrors, with port `extra` counted as accepted (R557). -/
def State.mirrorSource (s : State) (extra : Option Nat) : Option Nat :=
  let v := s.rbits Reg.MIRROR_CFG 2 0
  if v < 6 then some v
  else if v = 6 then [1, 3, 5, 0, 2, 4].find? (fun p => decide ((s.peer p).state = .up ∨ extra = some p))
  else none

/-- The HELLO or UPDATE that the part sends on a port (R533). -/
def State.helloBody (s : State) (n : Nat) : HelloBody :=
  let own := s.coordNat.getD 0
  let m := s.peers.mirror
  let held := m.valid && decide (stepCoord own n = some m.coord)
  { mirrorReq := decide (s.mirrorSource (some n) = some n), mirrorHeld := held
    empty := !s.inServ && s.store.pods.isEmpty, port := n, coord := own, owned := s.owned, offset := s.offset n
    mirrorFrame := if held then m.frame else 0, digest := match s.live with | some i => i.digest % 2 ^ 64 | none => 0 }

/-- What the part notes of its neighbour's HELLO or UPDATE. -/
def State.noteNb (s : State) (n : Nat) (b : HelloBody) : State :=
  let box := s.helloBox n b
  s.onPeer n (fun q => { q with nb := { q.nb with
    coord := b.coord, box := box, mirrorReq := b.mirrorReq, mirrorHeld := b.mirrorHeld, empty := b.empty, digest := b.digest } })

/-- REFRESH_REQ (R561): the END that answers it clears STALE. -/
def State.askRefresh (s : State) (n : Nat) : State :=
  ((s.onPeer n (fun q => { q with wantRefresh := false })).onPeers (fun x =>
    { x with mirror := { x.mirror with refreshing := true, dropped := false } })).sendLink n .refreshReq

/-- A neighbour is accepted (R534, R546, R561, R562). -/
def State.acceptNb (s : State) (n : Nat) (b : HelloBody) : State :=
  let s1 := (s.noteNb n b).onPeer n (fun q => { q with state := .up, reason := 0 })
  let s2 := ((s1.sendLink n (.hello (s1.helloBody n))).raise Reg.PEER_EVENTS (6 + n)).destOn n
  let s3 := if (s2.peer n).wantRefresh ∧ ¬ b.empty then s2.askRefresh n else s2
  if ¬ s3.inServ ∧ s3.store.pods.isEmpty ∧ s3.peers.seedPort.isNone ∧ b.mirrorHeld ∧ ¬ s3.power.restored ∧ ¬ s3.hold then
    (s3.onPeers (fun x => { x with seedPort := some n, seedAt := s3.now })).sendLink n .seedReq
  else s3

/-- A refusal (R531, R534): REASON, LINK_REFUSED and a record. -/
def State.refuseNb (s : State) (n reason : Nat) (b : HelloBody) : State :=
  let s1 := (s.noteNb n b).leaveUp n .refused
  ((s1.onPeer n (fun q => { q with reason := reason })).logRec 1 3 (n * 8) 0 reason).raise Reg.PEER_EVENTS (24 + n)

/-- A HELLO checked in state HELLO (R531). -/
def State.judgeHello (s : State) (n : Nat) (b : HelloBody) : State :=
  match s.helloReason n b with
  | 0 => s.acceptNb n b
  | r => s.refuseNb n r b

/-- A HELLO received (R531): in REFUSED, one that shows another live image reopens the check. -/
def State.hello (s : State) (n : Nat) (b : HelloBody) : State :=
  let q := s.peer n
  if q.state = .hello then s.judgeHello n b
  else if q.state = .refused ∧ q.nb.digest ≠ b.digest then (s.onPeer n (fun x => { x with state := .hello })).judgeHello n b
  else s

/-- An UPDATE received in UP (R531, R535). -/
def State.update (s : State) (n : Nat) (b : HelloBody) : State :=
  let q := s.peer n
  if q.state = .up then
    match s.helloReason n b with
    | 0 => s.noteNb n b
    | r => s.refuseNb n r b
  else if q.state = .refused ∧ q.nb.digest ≠ b.digest then s.onPeer n (fun x => { x with state := .hello })
  else s

/-- The live image changes (R531, R535): an UPDATE on every port that is UP, and REFUSED ports go to HELLO. -/
def State.announceImage (s : State) : State :=
  (List.range 6).foldl (fun (t : State) n =>
    if (t.peer n).state = .up then t.sendLink n (.update (t.helloBody n))
    else if (t.peer n).state = .refused then t.onPeer n (fun x => { x with state := .hello }) else t) s

/-! ### Time (R74 to R79, R542 to R546) -/

/-- The fusion time of a kept stamp (R67), 0 where it is too old. -/
def State.keptTime (s : State) (c8 : Nat) : Int := ((s.stampTime c8).2).getD 0

/-- Whether the part acts as the time root of its set, as far as its neighbours show (R75, R76). -/
def State.rootHere (s : State) : Bool :=
  let own := s.coordNat.getD 0
  let nbs := s.upPorts.map (fun p => (s.peer p).nb)
  if s.candidate then !nbs.any (fun n => n.candidate && decide (n.coord < own))
  else nbs.all (fun n => !n.candidate && decide (own < n.coord))

/-- The depth that the neighbours support (R77). -/
def State.depthHere (s : State) : Nat :=
  if s.rootHere then 0
  else min 63 (((s.upPorts.map (fun p => (s.peer p).nb.depth)).foldl min 63) + 1)

/-- Depth and upstream set after a TIME flit (R75, R77): a new depth after 16 flits in a row that support it. -/
def State.voteDepth (s : State) : State :=
  let d := s.depthHere
  let n := if d = s.tl.depth then 0 else if d = s.tl.voteDepth then s.tl.votes + 1 else 1
  let depth := if 16 ≤ n then d else s.tl.depth
  let up : Nat := lsum (s.upPorts.map (fun p => if (s.peer p).nb.depth + 1 = depth then 2 ^ p else 0))
  let clash := s.candidate && !s.rootHere
  let s1 := s.onTl (fun t => { t with
    depth := depth, votes := if 16 ≤ n then 0 else n, voteDepth := d, upstream := BitVec.ofNat 6 up, conflict := clash })
  let s2 := if s1.tl.upstream = s.tl.upstream then s1 else s1.raise Reg.TIME_EVENTS 10
  if clash ∧ ¬ s.tl.conflict then s2.raise Reg.TIME_EVENTS 7 else s2

/-- A step announcement of an upstream neighbour (R92). -/
def State.takeAnnounce (s : State) (b : TimeBody) : State :=
  let key := (b.stepBeats, b.targetFrame)
  if s.tl.lastStep = some key then s
  else
    let late := decide (b.targetFrame ≤ s.frame)
    let target := if late then s.frame + 1 else b.targetFrame
    let (s1, ep) := s.newEpoch
    let s2 := (s1.pendStep b.stepBeats target ep 0).onTl (fun t => { t with lastStep := some key })
    if late then s2.raise Reg.TIME_EVENTS 5 else s2

/-- The offset and path delay that a TIME flit yields (R544). -/
def State.timeOffset (s : State) (p : Nat) (b : TimeBody) : Option (Int × Int) :=
  let q := s.peer p
  match q.timeRx, q.timeTx.find? (fun x => decide (x.1 = b.rxSeq)) with
  | some (sq, c8), some tx =>
    if sq + 1 ≠ b.seq then none
    else match (s.stampTime c8).2, (s.stampTime tx.2).2 with
      | some bRx, some bTx => some (((b.prevTx - bRx) + (b.rxTime - bTx)) / 2, ((bRx - b.prevTx) + (b.rxTime - bTx)) / 2)
      | _, _ => none
  | _, _ => none

/-- A TIME flit received (R77, R92, R544, R546). -/
def State.takeTime (s : State) (p : Nat) (b : TimeBody) (c8 : Nat) : State :=
  let r := s.timeOffset p b
  let s1 := match r with
    | some (o, d) => ((s.setPair (Reg.TIME_OFFSET_LO p) (Reg.TIME_OFFSET_HI p) (sbits 64 o)).rset (Reg.PATH_DELAY p) (iw d)).onPeer p
        (fun q => { q with measured := some o })
    | none => s
  let ep := s.tl.epoch.toNat
  let s2 := s1.onPeer p (fun q =>
    let first := q.nb.epoch.isNone
    let opened := decide (q.nb.epoch = some 0) && decide (b.epoch ≠ 0)
    { q with
      timeRx := some (b.seq, c8), own := if first then ep else q.own
      nb := { q.nb with
        candidate := b.candidate, locked := b.locked, depth := b.depth
        epoch := if first ∨ opened then some b.epoch.toNat else q.nb.epoch
        announced := if b.stepValid then some (b.stepBeats, b.targetFrame, b.newEpoch.toNat) else none } })
  let s3 := s2.voteDepth
  if b.stepValid then (if s3.tl.upstream.getLsbD p then s3.takeAnnounce b else s3)
  else if s3.upPorts.any (fun x => (s3.peer x).nb.announced.isSome) then s3
  else if s3.tl.step.isSome then s3
  else s3.onTl (fun t => { t with lastStep := none })

/-- The TIME flit that the part sends on a port (R542). -/
def State.timeBody (s : State) (p : Nat) : TimeBody :=
  let q := s.peer p
  let st := s.tl.step
  { seq := q.timeSeq, coord := s.coordNat.getD 0, candidate := s.candidate, locked := decide (s.tl.servo = .locked), stepValid := st.isSome
    depth := s.tl.depth, epoch := s.tl.epoch
    prevTx := match q.timeTx with | x :: _ => s.keptTime x.2 | [] => 0
    rxSeq := match q.timeRx with | some x => x.1 | none => 0
    rxTime := match q.timeRx with | some x => s.keptTime x.2 | none => 0
    stepBeats := match st with | some x => x.beats | none => 0
    targetFrame := match st with | some x => x.frame | none => 0
    newEpoch := match st with | some x => BitVec.ofNat 16 x.epoch | none => 0 }

/-! ### Peer rings (R547 to R549) -/

/-- The SPACE of a data set of the live image. -/
def State.spaceOf (s : State) (num : Nat) : Option Nat :=
  match s.live with
  | some i => (i.body.dataSets.find? (fun d => decide (d.num = num))).map (fun d => d.space)
  | none => none

/-- Write bytes into a ring of `size` bytes from position `pos`. -/
def State.ringPut (s : State) (space num size pos : Nat) (b : List Byte) : State :=
  let n := size - pos % size
  (s.dwrite space num (pos % size) (b.take n)).dwrite space num 0 ((b.drop n).take size)

/-- A peer record received on a port (R546, R548, R549). -/
def State.peerRecord (s : State) (p : Nat) (r : SentRecord) : State :=
  let o := (s.offset p).map (fun x => x / 128)
  let moved := r.entries.filterMap (fun e => (moveKey e.key (lgetD o 0 0) (lgetD o 1 0) (lgetD o 2 0)).map (fun k => ({ e with key := k } : CommitEntry)))
  let lost := r.entries.length - moved.length
  let s1 := if lost = 0 then s else s.bump Reg.UNALIGNED_ENTRIES lost
  let s2 := if r.body.kind = .discontinuity then s1.onPeer p (fun q => { q with nb := { q.nb with epoch := some (r.body.aux2 % 65536) } }) else s1
  let num := 0xFFF0 + p
  match s2.spaceOf num with
  | none => s2
  | some sp =>
    let size := match mget s2.data (sp * 65536 + num) with | some d => d.size | none => 0
    if size = 0 then s2
    else
      let b := SentRecord.bytes { r with entries := moved }
      (s2.ringPut sp num size (s2.peer p).ringPos b).onPeer p (fun q => { q with ringPos := (q.ringPos + b.length) % size })

/-! ### Peas (R181, R550, R551) -/

/-- A forwarded pea received on a port. -/
def State.peerPea (s : State) (p : Nat) (frame hops : Nat) (epoch : Option Nat) (q : Pea) : State :=
  let pea : Pea := { q with fwd := true, port := p }
  if inBox s.owned pea.x pea.y pea.z then
    s.offerPea (1024 + p) (fun t =>
      let t1 := (t.noteSweep pea frame).onStore (fun st => { st with fileQ := st.fileQ ++
        [{ pea := pea, frame := frame, epoch := epoch.getD 65536, origin := none, track := none, beat := t.tl.beats }] })
      t1.tapPea { sensor := pea.sensor, time := frame * 65536 + pea.timeOffset, x := pea.x, y := pea.y, z := pea.z, fwd := true })
  else if 3 ≤ hops then ((s.dropOutside pea.sensor).bump Reg.PEA_HOP_DROPS).raise Reg.PEER_EVENTS 2
  else match epoch with
    | some e => s.forwardPea pea frame e (hops + 1)
    | none => s.discardDelta (Reg.SEALED_DISCARDS, 3)

/-- The part's own epoch for an epoch of the neighbour (R546): none where the pair does not hold it. -/
def State.pairEpoch (s : State) (p e : Nat) : Option Nat := if (s.peer p).nb.epoch = some e then some (s.peer p).own else none

/-! ### Remote writes (R552 to R556) -/

/-- The SPACE in which a remote-writable data set lies (R552). -/
def State.remoteSpace (s : State) (num : Nat) : Option Nat :=
  (s.descs.find? (fun (x : Nat × DescEntry) => decide (x.2.desc.layout = 5 ∧ x.2.desc.dataSet = num ∧ ¬ x.2.void))).map (fun x => x.2.desc.space)

/-- The storage of a data set of the live image. -/
def State.setPlace (s : State) (space num : Nat) : Place :=
  if space = 0 then match s.regionOf num with | some (e, b, z) => .engine e b z | none => .nowhere
  else match mget s.data (space * 65536 + num) with | some x => .set space num x.size | none => .nowhere

/-- The bytes that ACCUMULATE leaves (R334), and whether an element saturated. -/
def accumBytes (fmt : Nat) (old new : List Byte) : List Byte × Bool :=
  let g := fmtBits fmt
  let n := max 1 (g / 8)
  let xs := (List.range (new.length / n)).map (fun i => sval g (leAt old (i * n) n) + sval g (leAt new (i * n) n))
  (xs.flatMap (fun v => leBytes n (sbits g (ssat g v))), xs.any (beyond g))

/-- A WRITE at its owner (R555). -/
def State.remoteWrite (s : State) (p : Nat) (b : WriteBody) : State :=
  let a : Agent := { ini := 0x30 + p, ch := 0, priv := true }
  match s.remoteSpace b.dataSet with
  | none => s.xlateFault a true b.offset
  | some sp =>
    let pl := s.setPlace sp b.dataSet
    match s.judgeAccess a pl true (b.offset : Nat) b.bytes.length with
    | (s1, false) => s1
    | (s1, true) =>
      let r := if b.aliasing = 1 then accumBytes b.format (s1.placeRead pl b.offset b.bytes.length) b.bytes else (b.bytes, false)
      let s2 := s1.moverWrite a pl b.dataSet (b.offset : Nat) r.1
      (if r.2 then (s2.bump Reg.ACCUM_SATURATIONS).raise Reg.MOVER_EVENTS 8 else s2).bump64 Reg.REMOTE_WRITES_LO Reg.REMOTE_WRITES_HI

/-! ### Mirrors and seeds (R557 to R564) -/

/-- An entry that finds no place (R560). -/
def State.mirrorDrop (s : State) : State :=
  (s.bump Reg.MIRROR_DROPS).onPeers (fun x => { x with mirror := { x.mirror with dropped := true, complete := false } })

/-- `s` with its mirror changed. -/
def State.onMirror (s : State) (f : Mirror → Mirror) : State := s.onPeers (fun x => { x with mirror := f x.mirror })

/-- An entry applied to the mirror (R560, R561). -/
def State.mirrorEntry (s : State) (e : MirrorEntry) : State :=
  let m := s.peers.mirror
  match e with
  | .cell k c =>
    let pk := podKey k
    match mget m.pods pk with
    | some cs => s.onMirror (fun x => { x with pods := mset x.pods pk (mset cs (cellInPod k) c) })
    | none => if m.pages < 4194304 then s.onMirror (fun x => { x with pods := mset x.pods pk [(cellInPod k, c)] }) else s.mirrorDrop
  | .node k c =>
    if (mget m.nodes k).isSome ∨ m.nodes.length % 32 ≠ 0 ∨ m.pages < 4194304 then s.onMirror (fun x => { x with nodes := mset x.nodes k c })
    else s.mirrorDrop
  | .free k => s.onMirror (fun x => { x with pods := merase x.pods k, nodes := merase x.nodes k })
  | .fin _ fr => s.onMirror (fun x => { x with
      frame := fr, complete := (x.complete || x.refreshing || decide (x.frame = 0)) && !x.dropped
      stale := x.stale && !x.refreshing, refreshing := false })

/-- The entries of a MIRROR flit of a port (R557, R560): the part mirrors one neighbour. -/
def State.mirrorFrom (s : State) (p : Nat) (es : List MirrorEntry) : State :=
  if s.mirrorSource none ≠ some p ∨ s.hold then s
  else
    let m := s.peers.mirror
    let c := (s.peer p).nb.coord
    let s1 := if m.valid ∧ m.port = p ∧ m.coord = c then s else s.onMirror (fun x => { valid := true, port := p, coord := c, refreshing := x.refreshing })
    es.foldl State.mirrorEntry s1

/-- The answer to REFRESH_REQ (R561): every pod and merged node held, closed by an END with the current frame. -/
def State.refreshSet (s : State) (p : Nat) : State :=
  if s.hold then s
  else
    let all := s.allRecords.map (fun (x : Nat × Cell) => if keyLevel x.1 = 11 then MirrorEntry.cell x.1 x.2 else MirrorEntry.node x.1 x.2)
    let es := all ++ [MirrorEntry.fin s.tl.epoch.toNat (s.frame % 2 ^ 48)]
    (s.queueFlits p 3 (mirrorFlits .mirror (es.length + 1) es)).bump Reg.MIRROR_SETS_SENT

/-- The answer to SEED_REQ (R562). -/
def State.seedSet (s : State) (p : Nat) : State :=
  let m := s.peers.mirror
  if s.hold ∨ ¬ m.valid ∨ m.coord ≠ (s.peer p).nb.coord then s
  else
    let d := s.config.decay
    let g := s.frame
    let recs := m.records.filter (fun (x : Nat × Cell) => decide (cellBits x.2 ≠ 0))
    let es := recs.map (fun (x : Nat × Cell) =>
      let c : Cell := { x.2 with logOdds := effective d x.2 g, last := g % 256 }
      if keyLevel x.1 = 11 then MirrorEntry.cell x.1 c else MirrorEntry.node x.1 c)
    let all := es ++ [MirrorEntry.fin s.tl.epoch.toNat (g % 2 ^ 48)]
    s.queueFlits p 3 (mirrorFlits .seed (all.length + 1) all)

/-- A seed entry filed without a delta or a commit (R563). -/
def State.seedRecord (s : State) (key : Nat) (c : Cell) : State :=
  if ¬ s.ownsKey key then s.bump Reg.SEED_DROPS
  else match s.fileEntry key s.frame c with
    | some t => t.bump Reg.SEED_ENTRIES
    | none => s.bump Reg.SEED_DROPS

/-- Whether the part takes seed entries from a port (R562 to R564). -/
def State.seedOpen (s : State) (p : Nat) : Bool :=
  decide (s.peers.seedPort = some p) && !s.peers.seedDone && !s.peers.lateSeed && !s.hold

/-- An entry of a SEED flit (R563, R564). -/
def State.seedEntry (p : Nat) (s : State) (e : MirrorEntry) : State :=
  match e with
  | .cell k c => if s.seedOpen p then s.seedRecord k c else s.bump Reg.SEED_DROPS
  | .node k c => if s.seedOpen p then s.seedRecord k c else s.bump Reg.SEED_DROPS
  | .free _ => s
  | .fin _ _ => if s.seedOpen p then (s.onPeers (fun x => { x with seedDone := true })).raise Reg.PEER_EVENTS 5 else s

end Sys2Proof.Machine
end

