-- ==== Sys2Proof/Machine/BootOps.lean ====
section
/-! DEFINITION. Reset, straps, the boot steps, IN_SERVICE, and the security block (R703 to R733). -/

namespace Sys2Proof

/-- The bytes over which INTEGRITY is formed (R719). -/
def Fuses.sealed (f : Fuses) : List Byte :=
  leBytes 64 f.rootHash.toNat ++ leBytes 32 f.deviceSecret.toNat ++ leBytes 8 f.serial.toNat ++ beBytes 6 f.mac.toNat ++ leBytes 256 f.repair.toNat

/-- The integrity check of R720. -/
def Fuses.intact (f : Fuses) : Bool := decide (shakeNat 64 f.sealed = f.integrity.toNat)

/-- FW_MIN: the blown bits of ROLLBACK (R716). -/
def Fuses.fwMin (f : Fuses) : Nat := ((List.range 128).filter (fun i => f.rollback.getLsbD i)).length

/-- DEBUG_KILL (R719): set when any of its bits is blown. -/
def Fuses.killed (f : Fuses) : Bool := decide (f.debugKill ≠ 0)

/-- The thermometer with `n` bits blown, lowest first (R717). -/
def Fuses.blowTo (f : Fuses) (n : Nat) : Fuses := { f with rollback := f.rollback ||| BitVec.ofNat 128 (2 ^ min n 128 - 1) }

/-- Whether a firmware slot is valid under FW_MIN (R709). -/
def SlotCheck.valid (c : SlotCheck) (fwMin : Nat) : Bool :=
  c.header && c.cert && c.sig && decide (c.security ≤ 128 ∧ fwMin ≤ c.security)

end Sys2Proof

namespace Sys2Proof.Machine

open Sys2Proof

/-- `s` with its boot and security state changed. -/
def State.onBoot (s : State) (f : Boot → Boot) : State := { s with boot := f s.boot }

/-! ### Reset (R703 to R705, R778) -/

/-- The part in reset: what survives is the keeper die, the fuses, what lies outside the part, and the model's own fields. -/
def State.inReset (s : State) : State :=
  { keeper := s.keeper, fuses := s.fuses, flash := s.flash, hostMem := s.hostMem, pwrOk := s.pwrOk
    pending := s.pending, out := s.out, free := s.free }

/-- Registers whose reset value comes from the straps (R703, R109, R110, R112, R565). -/
def State.strapRegs (s : State) (straps : BitVec 12) : State :=
  let b := fun i => straps.getLsbD i
  let speed := nw (b2n (b 1) + 2 * b2n (b 2))
  let s1 := (List.range 8).foldl (fun (t : State) n => t.rset (Reg.PORT_CFG n) speed) s
  let s2 := (List.range 6).foldl (fun (t : State) n => t.rset (Reg.PEER_CFG n) (nw (b2n (b (3 + n))))) s1
  let root := b 9
  let s3 := s2.rset Reg.SERVO_CTRL (nw (20 * 2 ^ 24 + (if root then 34 else 32) * 2 ^ 16 + (if root then 30 else 24) * 2 ^ 8))
  let s4 := s3.rset Reg.LOCK_CTRL (nw (8 * 2 ^ 24 + (if root then 4000 else 20)))
  s4.rset Reg.HOLDOVER_TIMEOUT (nw (if root then 2930 else 16))

/-- The rising edge of RESET_N (R703, R705): straps sampled, TIME_COUNT from zero, boot step 2. -/
def State.releaseReset (s : State) (straps : BitVec 12) (refB : Bool) : State :=
  let s1 := s.inReset
  let s2 : State := { s1 with
    resetN := true
    roots := [{ state := .running }, { state := .standby, refA := !refB }]
    boot := { step := 2, straps := straps, refB := refB } }
  s2.strapRegs straps

/-! ### Boot steps (R705 to R711) -/

/-- The next step begins (R705). -/
def State.stepTo (s : State) (n : Nat) : State := s.onBoot (fun b => { b with step := n, stepAt := s.now })

/-- A step fails (R707): after step 3 the part goes on to steps 7 and 8; at step 2 or 3 it stops. -/
def State.bootFail (s : State) (code : Nat) : State :=
  let s1 := (s.onBoot (fun b => { b with failCode := code })).raise Reg.SEC_EVENTS 1
  if s.boot.step ≤ 3 then s1.onBoot (fun b => { b with stopped := true }) else s1

/-- Step 2 (R37, R42): the roots that lock. -/
def State.bootRoots (s : State) (locked : List Bool) : State :=
  let a := lgetD locked 0 true
  let b := lgetD locked 1 true
  let lost : RootState := .relocking
  if a then (if b then s else s.onRoot 1 (fun r => { r with state := lost, failedAt := s.now })).stepTo 3
  else if b then
    ((s.onRoot 0 (fun r => { r with state := lost, failedAt := s.now })).onRoot 1 (fun r => { r with state := .running })).stepTo 3
  else
    let s1 := (s.onRoot 0 (fun r => { r with state := lost, failedAt := s.now })).onRoot 1 (fun r => { r with state := lost, failedAt := s.now })
    (s1.bootFail 4).enterHold 1

/-- Run firmware slot `n` (R709). -/
def State.runFirmware (s : State) (n : Nat) (c : SlotCheck) : State :=
  (s.setWords (Reg.FW_DIGEST 0) 16 c.digest.toNat).onBoot (fun b => { b with fwSlot := n, fwVersion := c.version, fwSecurity := c.security })

/-- Step 3 (R709): the slot of the higher SECURITY_VERSION first, slot A of equals; the other with FW_FALLBACK. -/
def State.bootFirmware (s : State) (a b : SlotCheck) : State :=
  let m := s.fuses.fwMin
  let first : Nat := if a.security < b.security then 1 else 0
  let get := fun n : Nat => if n = 0 then a else b
  if (get first).valid m then (s.runFirmware first (get first)).stepTo 4
  else if (get (1 - first)).valid m then
    (((s.runFirmware (1 - first) (get (1 - first))).raise Reg.SEC_EVENTS 0).logRec 1).stepTo 4
  else s.bootFail 1

/-- A repair applied to a channel (R502, R503). -/
def State.applyRepair (s : State) (x : Nat × Repair) : State :=
  s.onChannel x.1 (fun c => { c with
    done := c.done ++ [x.2]
    rows := if x.2.column then c.rows else mset c.rows x.2.bank (mgetD c.rows x.2.bank 0 + 1)
    cols := if x.2.column then mset c.cols x.2.bank (mgetD c.cols x.2.bank 0 + 1) else c.cols })

/-- Step 4 (R503, R719, R720). -/
def State.bootFuses (s : State) (idCert : Bool) : State :=
  let f := s.fuses
  let mac := f.mac.toNat
  let s1 := (s.rset Reg.STATION_MAC_LO (nw mac)).rset Reg.STATION_MAC_HI (nw (mac / 2 ^ 32))
  if ¬ f.intact then (s.bootFail 2).stepTo 7
  else
    let s2 := f.repairs.foldl State.applyRepair s1
    (s2.onBoot (fun b => { b with fusesOk := true, idCert := idCert })).stepTo 5

/-- The channel map of R488: the first map, each retired channel's place taken by a spare under R505, or the channels left over
interleaved (R475). -/
def bootMap (good : List Nat) : List Nat :=
  let home := [0, 1, 2, 3, 4, 5, 6, 7, 9, 10, 11, 12, 13, 14, 15, 16]
  let r := home.foldl (fun (a : List (Option Nat) × List Nat) c =>
    if good.contains c then (a.1 ++ [some c], a.2)
    else
      let t := match a.2.find? (fun x => decide (x / 9 = c / 9)) with | some x => some x | none => a.2.head?
      (a.1 ++ [t], match t with | some x => a.2.erase x | none => a.2)) ([], good.filter (fun c => decide (c = 8 ∨ c = 17)))
  r.1.filterMap id

/-- Step 5 (R486 to R488, R499, R585): every channel is trained; one without a fault-map entry that fails is a permanent fault, and
one whose clear is requested is tested like a sound one. -/
def State.bootDram (s : State) (untrained : List Nat) : State :=
  let out := fun c => s.keeper.faults.contains (2, c) && !s.keeper.clears.contains (2, c)
  let good := (List.range 18).filter (fun c => !out c && !untrained.contains c)
  let m := bootMap good
  let s1 := (List.range 18).foldl (fun (t : State) c => t.onChannel c (fun x => { x with
    state := if m.contains c then .service else if good.contains c then .spare else .retired })) s
  let s2 := s1.onMem (fun x => { x with map := m, inUse := m.length })
  let lost := (List.range 18).filter (fun c => !out c && untrained.contains c)
  let s3 := lost.foldl (fun (t : State) c => (t.declare 2 c 0 none true).raise Reg.MEM_EVENTS 11) s2
  let staging : DataStore := { size := 268435456 }
  ({ s3 with data := mset s3.data stagingKey staging }).stepTo 6

/-- A requested clear (R585): the entry leaves the map, unless its channel has failed its test again. -/
def State.applyClear (s : State) (x : Nat × Nat) : State :=
  let again := decide (x.1 = 2 ∧ (s.channel x.2).state = .retired)
  if again then s else (s.onKeeper (fun k => { k with faults := k.faults.filter (fun y => y ≠ x) })).logRec 8 x.1 x.2

/-- An SRAM bank group whose place a spare group has taken (R509, R513). -/
def State.applyRemap (s : State) (x : Nat × Nat) : State :=
  s.onSram x.1 (fun u => { u with spares := u.spares - 1, groups := lput u.groups x.2 ((if x.1 < 20 then 3 else 2) - u.spares) })

/-- Step 6 (R503, R513, R585, R754): the keeper die is read. Clears are applied, then the map: groups, ports and roots that it shows
retired stay so. -/
def State.bootKeeper (s : State) (ok headerOk : Bool) (bad : List Nat) : State :=
  if ¬ ok then (s.bootFail 3).stepTo 7
  else
    let s1 := (s.keeper.clears.foldl State.applyClear s).onKeeper (fun k => { k with clears := [] })
    let s2 := s1.keeper.repairs.foldl State.applyRepair s1
    let s3 := s2.keeper.remaps.foldl State.applyRemap s2
    let gone := fun (k i : Nat) => s3.keeper.faults.contains (k, i)
    let s4 := s3.onMem (fun m => { m with srams := m.srams.zipIdx.map (fun x =>
      { x.1 with lost := (List.range 8).filter (fun g => gone 4 (x.2 * 16 + g) && !s3.keeper.remaps.contains (x.2, g)) }) })
    let s5 := (List.range 8).foldl (fun (t : State) p => t.onPort p (fun q => { q with retired := gone 5 p })) s4
    let s6 := (List.range 2).foldl (fun (t : State) r =>
      if gone 6 r ∧ (t.root (1 - r)).state ≠ .retired then
        let o := if (t.root r).state = .running then (t.onRoot (1 - r) (fun p => { p with state := .running })) else t
        o.onRoot r (fun p => { p with state := .retired })
      else t) s5
    (s6.readMarrow headerOk bad).stepTo 7

/-- Step 7 begins (R312): engines without a fault-map entry test themselves. -/
def State.startSelfTest (s : State) : State :=
  engines20.foldl (fun (t : State) e => t.onEngine e (fun g => { g with
    state := if s.keeper.faults.contains (1, e) then .retired else .selfTest, permanent := s.keeper.faults.contains (1, e) })) s

/-- Step 7 ends (R312): the tests still running end, failing for the engines `bad`. -/
def State.endSelfTest (s : State) (bad : List Nat) : State :=
  engines20.foldl (fun (t : State) e =>
    if (t.engine e).state ≠ .selfTest then t
    else if bad.contains e then t.engHard e 8
    else t.onEngine e (fun g => { g with state := .spare })) s

/-- The end of step 8: a failed boot goes no further (R707); else step 9 begins, with the autoload (R711). -/
def State.admitHost (s : State) : State :=
  if s.boot.failCode ≠ 0 then s.onBoot (fun b => { b with stopped := true }) else (s.stepTo 9).autoload

/-- The end of the step in progress, where what it waits for has come about (R705). -/
def State.endStep (s : State) (o : BootObs) : State :=
  let n := s.boot.step
  let s0 := if 3 ≤ n ∧ n ≤ 9 then s.onBoot (fun b => { b with times := mset b.times n s.now }) else s
  match n with
  | 2 => s0.bootRoots o.roots
  | 3 => s0.bootFirmware o.slotA o.slotB
  | 4 =>
    let t := s0.bootFuses o.idCert
    if t.boot.step = 7 then t.startSelfTest else t
  | 5 => s0.bootDram o.untrained
  | 6 => (s0.bootKeeper o.keeperOk o.headerOk o.badPages).startSelfTest
  | 7 => (s0.endSelfTest o.badEngines).stepTo 8
  | 8 => s0.admitHost
  | 9 => if s.live.isSome then s0.stepTo 10 else s
  | 10 => if s.tl.servo = .locked then s0.stepTo 11 else s
  | _ => s

/-! ### IN_SERVICE (R96, R234, R546, R705, R757) -/

/-- Whether boot step 11 waits for a seed (R564). -/
def State.seedWaits (s : State) : Bool := s.peers.seedPort.isSome && !s.peers.seedDone && !s.peers.lateSeed

/-- The part enters IN_SERVICE: a new epoch from this beat, the first layer, the commit stream, the HEADER without COMPLETE. -/
def State.enterService (s : State) : State :=
  let (s1, ep) := s.newEpoch
  let s2 := s1.onTl (fun t => { t with epoch := BitVec.ofNat 16 ep, epochFirst := t.beat, frameFirst := true })
  let s3 := s2.onBoot (fun b => { b with step := 11, stepAt := s.now, inService := true })
  let s4 := (s3.onPeers (fun p => { p with ports := p.ports.map (fun q => { q with own := ep }) })).onSafety (fun x =>
    { x with unvSince := if x.state = .unverified then some s.tl.beats else none })
  let s5 := s4.onCom (fun c => { c with layers := { frame := s.frame, epoch := ep } :: c.layers })
  let s6 := s5.onMarrow (fun m => { m with complete := false })
  (s6.raise Reg.GLOBAL_EVENTS 0).startHeartbeat

/-! ### Fuses and anti-rollback (R716 to R721) -/

/-- ADVANCE_FW (R717). -/
def State.advanceFw (s : State) : State :=
  if s.boot.fwSecurity ≤ s.fuses.fwMin then s
  else ({ s with fuses := s.fuses.blowTo s.boot.fwSecurity }.logRec 1).raise Reg.SEC_EVENTS 5

/-- ADVANCE_IMAGE (R717, R718); `ok` says whether the keeper write succeeds. -/
def State.advanceImage (s : State) (ok : Bool) : State :=
  let v := (s.rget Reg.LIVE_SECURITY_VERSION).toNat
  if v ≤ s.keeper.imageMin then s
  else if ¬ ok then s.keeperFail
  else
    let s1 := ((s.onKeeper (fun k => { k with imageMin := v })).logRec 1).raise Reg.SEC_EVENTS 5
    let below : Bool := match s1.slot.image with | some i => decide (i.version < v) | none => false
    if below then s1.discardSlot else s1

/-- Log an access without a capture (R611, R613, R732): an ACCESS record of KIND 2. -/
def State.logAccess (s : State) (ini off : Nat) : State :=
  (s.bump Reg.LATE_WRITES).logRec 6 0 0 0 (off + ini * 2 ^ 40 + 15 * 2 ^ 46 + 2 * 2 ^ 50)

/-- PROGRAM (R721): the field named starts to be programmed. -/
def State.programFuse (s : State) (ini : Nat) : State :=
  let v := s.rget Reg.FUSE_PROGRAM_VALUE
  let late := s.late ini Reg.FUSE_CTRL 2
  if s.boot.programming.isSome then late
  else if s.rbit Reg.FUSE_CTRL 0 then s
  else match s.rbits Reg.FUSE_PROGRAM 1 0 with
    | 1 => if s.fuses.customer ≠ 0 ∨ v = 0 then late else s.onBoot (fun b => { b with programming := some (1, v) })
    | 2 => if v = 0x4B494C4C then s.onBoot (fun b => { b with programming := some (2, v) }) else s
    | _ => s

/-! ### Debug (R683, R731 to R733) -/

/-- The debug port's grants in the fixed region of REGISTERS follow the lock of debug (R574). -/
def State.debugGrant (s : State) (on : Bool) : State :=
  let v := b2n on
  (s.rput 0xE04014 31 31 v).rput 0xE0401C 31 31 v

/-- Programming ends (R721); debug locks when DEBUG_KILL is blown (R733). -/
def State.programDone (s : State) (ok : Bool) : State :=
  match s.boot.programming with
  | none => s
  | some (f, v) =>
    let s1 := s.onBoot (fun b => { b with programming := none })
    if ¬ ok then s1.raise Reg.FUSE_EVENTS 1
    else if f = 1 then { s1 with fuses := { s1.fuses with customer := v } }.raise Reg.FUSE_EVENTS 0
    else
      let s2 : State := { s1 with fuses := { s1.fuses with debugKill := 7 } }
      ((s2.onBoot (fun b => { b with unlocked := false })).debugGrant false).raise Reg.FUSE_EVENTS 0

/-- CHALLENGE (R731, R733). -/
def State.challengeDebug (s : State) (random : BitVec 256) : State :=
  if s.fuses.killed then s
  else
    (s.setWords (Reg.DEBUG_CHALLENGE 0) 16 (random.toNat + s.fuses.serial.toNat * 2 ^ 256 + s.keeper.attestCount % 2 ^ 32 * 2 ^ 320)).onBoot
      (fun b => { b with challenge := true })

/-- The reason that refuses an UNLOCK (R732): the staged certificate is checked but for its signature, whose answers come with the
command; 1 grants it, the lowest of several refuses (log entry 20). -/
def State.unlockReason (s : State) (certOk' sigOk : Bool) : Nat :=
  let cert := s.dread 2 0xFFFE 0 30048
  if s.fuses.killed then 2
  else if s.inServ ∧ ¬ s.hold then 3
  else if ¬ (certOk cert 4 s.fuses ∧ certOk') then 4
  else if ¬ sigOk then 5
  else if ¬ s.boot.challenge then 6
  else if s.rbit Reg.SEC_CTRL 0 then 7
  else if 3 ≤ s.boot.refusals then 8
  else 1

/-- UNLOCK (R731 to R733). -/
def State.unlockDebug (s : State) (ini : Nat) (certOk' sigOk : Bool) : State :=
  let r := s.unlockReason certOk' sigOk
  let s1 := (s.onBoot (fun b => { b with challenge := false })).rset Reg.UNLOCK_RESULT (nw r)
  if r = 1 then ((s1.onBoot (fun b => { b with unlocked := true })).debugGrant true).raise Reg.SEC_EVENTS 3
  else ((s1.onBoot (fun b => { b with refusals := min 3 (b.refusals + 1) })).logAccess ini Reg.SEC_CTRL).raise Reg.SEC_EVENTS 4

end Sys2Proof.Machine
end

