-- ==== Sys2Proof/Machine/RegRead.lean ====
section
/-! DEFINITION. What a read of a register returns (R659 to R661, and the register tables of each chapter): most registers are
stored; those below show other state. `Image:` registers read 0 while no image is live. -/

namespace Sys2Proof

/-- The index and the rest at which an offset falls in an array of `c` registers or groups at stride `st` from `base`. -/
def slotIx (base st c off : Nat) : Option (Nat × Nat) :=
  if off < base ∨ c ≤ (off - base) / st then none else some ((off - base) / st, (off - base) % st)

/-- Word `i` of a value, least significant first. -/
def wordOf (v i : Nat) : Nat := v / 2 ^ (32 * i) % 2 ^ 32

/-- Two's complement in 32 bits. -/
def sword (v : Int) : Nat := sbits 32 v

/-- The sum of 2^i over the indexes below `n` for which `f` holds. -/
def idxMask (n : Nat) (f : Nat → Bool) : Nat := lsum ((List.range n).map (fun i => if f i then 2 ^ i else 0))

/-- The bits of a log record (R613). -/
def LogRecord.bits (r : LogRecord) : Nat :=
  r.detail % 2 ^ 96 + r.seq % 2 ^ 32 * 2 ^ 96 + r.cause % 256 * 2 ^ 136 + r.index % 65536 * 2 ^ 144 + r.kind % 256 * 2 ^ 160 +
    r.cls % 256 * 2 ^ 168 + r.epoch % 65536 * 2 ^ 176 + r.beat % 2 ^ 64 * 2 ^ 192

/-- Codes of the servo's states (R106). -/
def Servo.code : Servo → Nat
  | .free => 0
  | .acquire => 1
  | .locked => 2
  | .holdover => 3
  | .stepPending => 4
  | .catchUp => 5

/-- Codes of the time sources (R146). -/
def TimeSource.code : TimeSource → Nat
  | .payloadPtp => 0
  | .payloadNs => 1
  | .payloadRtp => 2
  | .arrival => 3

/-- Codes of a region's states (R229). -/
def RegionPhase.code : RegionPhase → Nat
  | .steady => 0
  | .pending => 1
  | .copying => 2
  | .ready => 3
  | .draining => 4

/-- Codes of the slot's states (R449). -/
def SlotState.code : SlotState → Nat
  | .empty => 0
  | .copying => 1
  | .verifying => 2
  | .admitting => 3
  | .rehearsing => 4
  | .arming => 5
  | .armed => 6

/-- Codes of a DRAM channel's states (R519). -/
def ChannelState.code : ChannelState → Nat
  | .spare => 0
  | .service => 1
  | .source => 2
  | .target => 3
  | .retired => 4

/-- Codes of a peer port's states (PORT_STATE.STATE). -/
def PeerState.code : PeerState → Nat
  | .down => 0
  | .training => 1
  | .aligning => 2
  | .hello => 3
  | .up => 4
  | .refused => 5
  | .retired => 6

/-- State and slot of one direction of a lane (LANE_STATE). -/
def LaneMode.code : LaneMode → Nat × Nat
  | .active n => (0, n.val)
  | .spare => (1, 0)
  | .retired => (2, 0)
  | .down => (3, 0)

/-- Codes of a declaration's states (DECL_INFO.STATE). -/
def DeclPhase.code : DeclPhase → Nat
  | .declared => 1
  | .rechecking => 2
  | .awaitSwitch => 3
  | .awaitClean => 4

/-- The kind and the instance of mesh node `n` (NODE_MAP). -/
def nodeKind (n : Nat) : Nat × Nat :=
  if n < 20 then (0, n) else if n < 24 then (1, n - 20) else if n < 33 then (2, n - 24) else if n < 34 then (3, 0)
  else if n < 37 then (4, n - 34) else if n < 38 then (5, 0) else if n < 39 then (6, 0) else if n < 40 then (7, 0)
  else if n < 41 then (8, 0) else if n < 43 then (9, n - 41) else (10, n - 43)

end Sys2Proof

namespace Sys2Proof.Machine

open Sys2Proof

/-! ### Locks and events -/

/-- The register and bit that hold the LOCK of the block with an index, where it has one (R676, R679). -/
def lockAt (i : Nat) : Option (Nat × Nat) :=
  match i with
  | 3 => some (Reg.INGEST_CTRL, 8)
  | 4 | 7 => none
  | 6 => some (Reg.ENG_CTRL, 0)
  | 15 => some (hqReg 0 Reg.HQ_CTRL, 0)
  | _ => if i < 19 then some (i * 0x100000 + 0xC, 0) else none

/-- Whether the LOCK of a block is set. ENGINES spans the indexes 6 and 7. -/
def State.locked (s : State) (i : Nat) : Bool :=
  match lockAt (if i = 7 then 6 else i) with
  | some (o, b) => s.rbit o b
  | none => false

/-- BLOCK_LOCKED. -/
def State.blockLocked (s : State) : Nat := idxMask 19 (fun i => decide (i ≠ 7) && s.locked i)

/-- BLOCK_EVENT_SUMMARY as function `fn` reads it. -/
def State.eventSummary (s : State) (fn : Nat) : Nat :=
  let on := fun (ev en : Nat) => decide (s.rget ev &&& s.rget en ≠ 0)
  idxMask 19 (fun i =>
    if i = 7 then false
    else if i = 6 then on Reg.ESCAPE_EVENTS Reg.ESCAPE_EVENT_EN || on Reg.FAULT_EVENTS Reg.FAULT_EVENT_EN
    else if i = 15 then on (hqReg fn Reg.HQ_EVENTS) (hqReg fn Reg.HQ_EVENT_EN)
    else on (i * 0x100000 + 4) (i * 0x100000 + 8))

/-! ### Blocks -/

/-- A field of the live image's CONFIG section, 0 while none is live. -/
def State.shown (s : State) (f : ImageConfig → Nat) : Nat := match s.live with | some i => f i.config | none => 0

/-- GLOBAL (R689, R691). -/
def State.rdGlobal (s : State) (fn off : Nat) : Nat :=
  if off = Reg.GLOBAL_STATUS then
    b2n s.inServ + s.boot.step % 16 * 2 ^ 4 + b2n s.boot.mboxFull * 2 ^ 8 + b2n s.boot.mboxBusy * 2 ^ 9 +
      b2n (decide (s.blockLocked = idxMask 19 (fun i => (lockAt i).isSome))) * 2 ^ 10 + b2n s.pf1Present * 2 ^ 11 + b2n s.boot.unlocked * 2 ^ 12
  else if off = Reg.BLOCK_EVENT_SUMMARY then s.eventSummary fn
  else if off = Reg.BLOCK_LOCKED then s.blockLocked
  else if off = Reg.BOOT_FW_VERSION then s.boot.fwVersion.toNat
  else if off = Reg.DIE_TEMP then sbits 8 s.power.ioTemp * 256 + sbits 8 s.power.logicTemp
  else (s.rget off).toNat

/-- TIMELINE (R101, R106, R110). -/
def State.rdTime (s : State) (off : Nat) : Nat :=
  let t := s.tl
  if off = Reg.TIME_STATUS then
    t.servo.code + s.sourceEff * 2 ^ 4 + b2n (decide (t.servo = .locked)) * 2 ^ 8 + b2n s.isRoot * 2 ^ 9 + b2n t.conflict * 2 ^ 10 +
      b2n t.ppsInValid * 2 ^ 11 + b2n t.step.isSome * 2 ^ 12
  else match slotIx Reg.TIME_COUNT_LO 4 2 off with
  | some (i, _) => wordOf s.now i
  | none => match slotIx Reg.FUSION_TIME_LO 4 3 off with
  | some (i, _) => wordOf (timeBits s.fusion) i
  | none => match slotIx Reg.BEAT_INDEX_LO 4 3 off with
  | some (i, _) => wordOf (t.beat + t.epoch.toNat * 2 ^ 64) i
  | none => match slotIx Reg.OFFSET_LO 4 3 off with
  | some (i, _) => wordOf (timeBits t.offset) i
  | none => match slotIx Reg.RATE_LO 4 2 off with
  | some (i, _) => wordOf (sbits 64 t.rate) i
  | none => match slotIx Reg.FREQ_TERM_LO 4 2 off with
  | some (i, _) => wordOf (sbits 64 t.freqTerm) i
  | none => match slotIx Reg.SLEW_REMAINING_LO 4 2 off with
  | some (i, _) => wordOf s.residualNow.toNat i
  | none =>
    if off = Reg.ROLE_STATUS then b2n s.candidate + t.depth * 2 ^ 8 + t.upstream.toNat * 2 ^ 16
    else if off = Reg.ROOT_COORD then t.rootCoord.toNat
    else (s.rget off).toNat

/-- SENSOR_PORTS (R163). -/
def State.rdPorts (s : State) (off : Nat) : Nat :=
  if off = Reg.PORT_STATUS then idxMask 8 (fun p => (s.port p).up) + idxMask 8 (fun p => (s.port p).retired) * 256
  else if off = Reg.FDB_COUNT then s.fdb.length
  else match slotIx (Reg.PORT_CFG 0) 0x100 8 off with
  | some (p, 4) =>
    b2n (s.port p).up + b2n (s.port p).blockLock * 2 + b2n ((s.port p).up && decide (s.speed p = 3)) * 4 + b2n (s.port p).retired * 8
  | some (p, 0x2C) => ((s.port p).events.filter (fun e => decide (s.now < e + 10 * cyclesS))).length
  | _ => (s.rget off).toNat

/-- INGEST (R164, R165). -/
def State.rdIngest (s : State) (off : Nat) : Nat :=
  if off = Reg.INGEST_STATUS then idxMask 8 (fun p => lgetD s.ing.wmNow p false) + b2n (decide (0 < s.ing.decLevel)) * 256
  else if off = Reg.DECIMATION_LEVEL then s.ing.decLevel
  else match slotIx 0x301000 0x20 8 off with
  | some (p, 0) => s.queueLevel p
  | _ => match slotIx 0x304000 0x10 256 off with
    | some (n, w) =>
      match s.live.bind (fun i => i.body.streams.find? (fun (x : Nat × StreamEntry) => decide (x.1 = n))) with
      | none => 0
      | some (_, e) =>
        if w = 0 then 2 ^ 31 + e.prio * 2 ^ 29 + e.program * 2 ^ 24 + e.source.code * 2 ^ 20 + e.port * 2 ^ 17 + e.sensorBase
        else if w = 4 then sword e.latency
        else if w = 8 then e.maxAge * 65536 + e.maxLead
        else e.rtpRate
    | none => match slotIx 0x30C000 4 1024 off with
      | some (n, _) => match s.sensorEntry n with
        | some e => 2 ^ 15 + b2n e.fixed * 2 ^ 14 + e.track * 2 ^ 8 + e.prio
        | none => 0
      | none => (s.rget off).toNat

/-- POD_STORE (R228, R229). -/
def State.rdPods (s : State) (off : Nat) : Nat :=
  if off = Reg.POD_STATUS then
    let adm := decide (s.rget Reg.ADMISSIONS ≠ 0)
    b2n (adm && decide (s.poolFree = 0)) + b2n (adm && decide (s.poolFree < s.shown (fun c => c.poolReserve))) * 2 + b2n s.store.merging * 4 +
      b2n (s.store.regions.any (fun (x : Nat × Region) => decide (x.2.phase ≠ .steady))) * 8 +
      b2n (!s.store.candidates.isEmpty) * 16 + b2n (!s.store.stash.isEmpty) * 32
  else if off = Reg.POOL_PODS then s.shown (fun c => c.poolPods)
  else if off = Reg.POOL_FREE then s.shown (fun _ => s.poolFree)
  else if off = Reg.POOL_RESERVE then s.shown (fun c => c.poolReserve)
  else if off = Reg.HASH_CFG then s.shown (fun c => c.bucketsLog2)
  else if off = Reg.STASH_USED then s.store.stash.length
  else if off = Reg.INFLUENCE_RADIUS then s.shown (fun c => c.radius)
  else if off = Reg.REDESKEW_CFG then s.shown (fun c => c.tol * 65536 + c.rate)
  else if off = Reg.DECAY then s.shown (fun c => c.decay)
  else if off = Reg.MERGE_LIMIT then s.shown (fun c => c.mergeLimit)
  else match slotIx Reg.OWNED_MIN_X 4 6 off with
  | some (i, _) => s.shown (fun c => sword (lgetD c.owned i 0))
  | none => match slotIx 0x404000 4 512 off with
    | some (r, _) => let x := s.store.region r; x.phase.code * 2 ^ 29 + x.trigger * 2 ^ 27 + x.gen % 65536
    | none => match slotIx 0x406000 0x20 64 off with
      | some (n, w) =>
        let v := s.store.versionAt n s.tl.beats
        let pos := mgetD s.store.trackPos n (0, 0, 0)
        if w = 0 then match v with
          | some x => 2 ^ 31 + (match x.parent with | some a => 2 ^ 30 + a * 2 ^ 24 | none => 0) + x.version % 65536
          | none => 0
        else if w = 4 ∨ w = 8 then match v with | some x => wordOf x.origin (w / 4 - 1) | none => 0
        else if w = 0xC then sword pos.1
        else if w = 0x10 then sword pos.2.1
        else if w = 0x14 then sword pos.2.2
        else (s.rget off).toNat
      | none => match slotIx 0x408000 8 1024 off with
        | some (n, w) => match s.sensorEntry n with
          | some e => if w = 0 then sbits 16 e.hit * 65536 + sbits 16 e.miss else e.clearCells
          | none => 0
        | none => (s.rget off).toNat

/-- ONION_COMMIT (R265, R266). -/
def State.rdCommit (s : State) (off : Nat) : Nat :=
  if off = Reg.COMMIT_STATUS then
    b2n (s.dest 6).on + b2n (s.com.dests.any (fun d => !d.await.isEmpty)) * 2 + b2n (decide (s.degradedCause ≠ 0)) * 4 +
      b2n s.unvBox.isSome * 8 + b2n s.com.closed * 16 + idxMask 6 (fun p => (s.dest p).on) * 256
  else if off = Reg.ONION_DEPTH then s.shown (fun c => c.depth)
  else if off = Reg.COMMIT_LATENCY then s.shown (fun c => c.latency)
  else if off = Reg.LAYER_CAP then s.shown (fun c => c.layerCap)
  else if off = Reg.UNV_BOX then match s.unvBox with
    | some b => b.2.2.2 * 2 ^ 23 + b.2.2.1 * 2 ^ 14 + b.2.1 * 2 ^ 5
    | none => 0
  else if off = Reg.UNV_BOX_X_MIN then match s.unvBox with | some b => b.1 | none => 0
  else match slotIx Reg.OPEN_FRAME_LO 4 2 off with
  | some (i, _) => match s.com.layers with | l :: _ => wordOf l.frame i | [] => 0
  | none => match slotIx 0x502000 0x10 64 off with
    | some (a, w) => match s.com.layers[a]? with
      | none => 0
      | some l =>
        if w = 0 then (if l.phase = .opened then 1 else 2) * 2 ^ 30 + b2n l.overflowed * 2 ^ 29 + l.epoch % 65536
        else if w = 0xC then l.log.length
        else wordOf l.frame (w / 4 - 1)
    | none => (s.rget off).toNat

/-- ENGINES (R319 to R322). -/
def State.rdEngines (s : State) (off : Nat) : Nat :=
  let inState := fun (k : EngState) => idxMask 20 (fun e => decide ((s.engine e).state = k))
  if off = Reg.ENG_LIVE then inState .live
  else if off = Reg.ENG_SPARE then inState .spare
  else if off = Reg.ENG_RETIRED then inState .retired
  else if off = Reg.IN_SERVICE_COUNT then (s.engines.filter (fun g => decide (g.state = .live))).length
  else match slotIx 0x610000 0x10000 20 off with
  | some (e, 0) => (s.engine e).state.code * 2 ^ 29 + ((lminBy (fun x => x) (ctxUnits (s.engine e).live)).getD 0)
  | some (e, 4) =>
    b2n (s.engine e).shadow.isSome * 2 ^ 31 + b2n (s.engine e).shadowDone * 2 ^ 30 + ((lminBy (fun x => x) (ctxUnits (s.engine e).shadow)).getD 0)
  | some (e, 8) => min 255 (s.engWindow e).length * 2 ^ 24 + (s.engine e).lastCause
  | _ => (s.rget off).toNat

/-- TENSOR_MOVER (R365 to R367). -/
def State.rdMover (s : State) (off : Nat) : Nat :=
  if off = Reg.MOVER_STATUS then
    b2n (s.rbit Reg.REFUSAL_INFO 31) + b2n (s.rbit Reg.XLATE_INFO 31) * 2 +
      b2n (!s.place.moves.isEmpty || s.engines.any (fun g => decide (g.shadowKind = .migration ∨ g.shadowKind = .swap))) * 4
  else if off = Reg.CHAN_BUSY then idxMask 32 (fun c => (s.mover c).running.isSome)
  else if off = Reg.DESC_COUNT then s.descs.length
  else match slotIx 0x802000 0x20 32 off with
  | some (c, 0) => (if 28 ≤ c then 2 else b2n (s.mover c).assigned) * 2 ^ 30 + (s.mover c).lastOp * 2 ^ 16 + min 65535 (s.mover c).queue.length
  | _ => (s.rget off).toNat

/-- SOLVER (R410 to R412). -/
def State.rdSolver (s : State) (off : Nat) : Nat :=
  let img := fun (f : SolverShape → Nat) => match s.live with | some i => f i.body.solver | none => 0
  if off = Reg.SOLVER_STATUS then
    b2n s.solver.fast.isSome + b2n s.solver.slow.isSome * 2 + b2n ((List.range 64).any (fun n => s.rbit (Reg.TRACK_SOLVE n) 23)) * 4 +
      b2n (resultFlags (s.rbits Reg.SLOW_RESULT 31 28)) * 8 + b2n (s.rbit Reg.PIVOT_INFO 31) * 16
  else if off = Reg.FAST_CFG then img (fun x => x.fastDeadline * 2 ^ 22 + x.windowFrames % 16 * 2 ^ 16 + x.iterMax)
  else if off = Reg.SLOW_CFG then img (fun x => x.slowDeadline * 2 ^ 22 + x.slowPhase * 2 ^ 12 + x.slowIter)
  else if off = Reg.SLOW_SENSORS then img (fun x => x.anchors * 2 ^ 16 + x.sensors)
  else if off = Reg.LANDMARKS_MAX then img (fun x => x.landmarksMax)
  else if off = Reg.OBS_MAX then img (fun x => x.obsMax)
  else if off = Reg.PIVOT_EPS_FAST then img (fun x => sword x.epsFast)
  else if off = Reg.PIVOT_EPS_SLOW then img (fun x => sword x.epsSlow)
  else if off = Reg.LAMBDA_FAST then img (fun x => x.lambdaFast)
  else if off = Reg.LAMBDA_SLOW then img (fun x => x.lambdaSlow)
  else if off = Reg.SCAN_CFG then img (fun x => sbits 16 x.scanMin * 65536 + x.scanMax)
  else (s.rget off).toNat

/-- STRUCTURE (R447, R449). -/
def State.rdStructure (s : State) (off : Nat) : Nat :=
  if off = Reg.SLOT_STATUS then
    s.slot.state.code + b2n s.live.isSome * 2 ^ 4 + b2n (match s.live with | some i => !i.spilled.isEmpty | none => false) * 2 ^ 5 +
      b2n s.slot.noSpare * 2 ^ 6 + b2n s.shedActive * 2 ^ 7 + s.slot.held.length * 2 ^ 8 + s.place.shed * 2 ^ 16
  else match slotIx 0xA04000 4 1024 off with
  | some (u, _) => match imgUnit s.live u with
    | some x =>
      2 ^ 31 + b2n (match s.live with | some i => i.spilled.contains u | none => false) * 2 ^ 30 + x.kind * 2 ^ 28 + x.prio * 2 ^ 24 +
        x.shiftAt s.place.shed * 2 ^ 20
    | none => 0
  | none => (s.rget off).toNat

/-- The engine whose live context runs a unit. -/
def State.engineOf (s : State) (u : Nat) : Option Nat := engines20.find? (fun e => (ctxUnits (s.engine e).live).contains u)

/-- Engines in service: LIVE. -/
def State.liveEngines (s : State) : List Nat := engines20.filter (fun e => decide ((s.engine e).state = .live))

/-- The space of a data set of the live image, or of one held. -/
def State.setSpace (s : State) (d : Nat) : Option Nat := [0, 1, 2].find? (fun sp => (mget s.data (sp * 65536 + d)).isSome)

/-- The physical channels that hold data of a DRAM data set (R462): its granules, and those that the remap table names. -/
def State.setChannels (s : State) (d : Nat) : Nat :=
  let k := match s.live with | some i => i.k | none => 0
  let sp := (s.setSpace d).getD 0
  let inDram := decide (sp = 2) || decide (sp = 1 ∧ (mget s.place.located d).isSome)
  if ¬ inDram then 0
  else
    let size := match mget s.data (sp * 65536 + d) with | some x => x.size | none => 0
    let at' := fun j => match mget s.place.remap (d * 2 ^ 28 + j) with
      | some l => l
      | none => sip13 (interleaveKey k d) j % max s.mem.inUse 1
    let ls := ((List.range (cdiv size 4096)).map at').eraseDups
    idxMask 18 (fun c => ls.any (fun l => decide (lgetD s.mem.map l 18 = c)))

/-- PLACEMENT (R482 to R484). -/
def State.rdPlace (s : State) (off : Nat) : Nat :=
  let p := s.place
  let count := fun (k : EngState) => (s.engines.filter (fun g => decide (g.state = k))).length
  if off = Reg.PLACE_STATUS then
    b2n p.evalDue + b2n (decide (8 ≤ s.boot.step) && !engines20.any s.class1) * 2 +
      b2n (s.engines.any (fun g => decide (g.shadowKind = .migration ∨ g.shadowKind = .swap ∨ g.shadowKind = .fault))) * 4 +
      b2n (!p.moves.isEmpty || s.mem.copies.any (fun c => !c.done)) * 8 + b2n p.loadOver * 16 + b2n p.imbalance * 32 +
      b2n (!p.suspended.isEmpty) * 64 + b2n p.coverage * 128
  else if off = Reg.ENGINE_COUNTS then
    (p.books.filter (fun b => b.suspect)).length + count .spare * 2 ^ 8 + count .live * 2 ^ 16 + s.available * 2 ^ 24
  else if off = Reg.DRAM_SPARES then (s.mem.channels.filter (fun c => decide (c.state = .spare))).length
  else if off = Reg.LOAD_MAX then (s.liveEngines.map s.load).foldl max 0
  else if off = Reg.LOAD_MEAN then lsum (s.liveEngines.map s.load) / max 1 s.liveEngines.length
  else if off = Reg.MOVE_REMAINING then
    lsum (p.moves.map (fun m => if m.copied then 0 else cdiv m.bytes 1024)) + lsum (s.mem.copies.map (fun c => if c.done then 0 else 1048576 - c.copied))
  else if off = Reg.REMAP_USED then p.remap.length
  else match slotIx 0xB03000 4 45 off with
  | some (i, _) => match (List.range 45).find? (fun n => decide (Config.routerOf n % 45 = i)) with
    | some n => (nodeKind n).1 * 2 ^ 24 + (nodeKind n).2 * 2 ^ 16
    | none => 0
  | none => match slotIx 0xB04000 0x20 20 off with
    | some (e, 0) =>
      let g := s.engine e
      let b := s.book e
      (ctxUnits g.live).length + b2n b.due * 2 ^ 23 + min 7 b.debt * 2 ^ 24 + g.shadowKind.code * 2 ^ 27 +
        b2n (g.permanent && decide (g.state = .live)) * 2 ^ 30 + b2n b.suspect * 2 ^ 31
    | some (e, 4) => s.load e
    | some (e, 0x10) => b2n (s.book e).passed * 2 ^ 31 + (s.book e).inst % 65536
    | some _ => (s.rget off).toNat
    | none => match slotIx 0xB08000 4 1024 off with
      | some (u, _) =>
        if (imgUnit s.live u).isNone then 0
        else
          let mv := (p.migrations.flatMap (fun m => m.moves)).find? (fun (x : Nat × Nat × Nat) => decide (x.1 = u))
          2 ^ 31 + b2n (p.suspended.contains u) * 2 ^ 30 + (match mv with | some x => 2 ^ 29 + x.2.2 * 2 ^ 19 | none => 0) +
            (s.engineOf u).getD 0 * 2 ^ 24
      | none => match slotIx 0xB0C000 8 4096 off with
        | some (d, 0) => match s.setSpace d with
          | none => 0
          | some sp =>
            let sp1 := if sp = 1 ∧ (mget p.located d).isSome then 2 else sp
            sp1 * 2 ^ 28 + b2n (p.moves.any (fun m => decide (m.set = d)) || (decide (sp1 = 2) && s.mem.copies.any (fun c => decide (c.dst = 18)))) * 2 ^ 27 +
              (if sp1 = 0 then (match s.regionOf d with | some x => x.1 | none => 0) * 2 ^ 22
               else if sp1 = 1 then Config.commonsSlices d % 16 * 2 ^ 18 else 0)
        | some (d, _) => s.setChannels d
        | none => (s.rget off).toNat

/-- The fewest spares left of a kind over the 16 banks of a channel. -/
def sparesLeft (n : Nat) (used : Map Nat) : Nat := n - (used.map (fun x => x.2)).foldl max 0

/-- MEMORY and the keeper interface (R517, R519, R758). -/
def State.rdMem (s : State) (off : Nat) : Nat :=
  let count := fun (f : Channel → Bool) => (s.mem.channels.filter f).length
  if off = Reg.MEM_STATUS then
    b2n (s.rbit Reg.ECC_INFO 31) + b2n (decide (count (fun c => decide (c.state = .spare)) = 0)) * 2 + b2n (s.mem.copies.any (fun c => !c.done)) * 4 +
      b2n s.mem.scrubActive * 8 + b2n (s.mem.channels.any (fun c => decide (85 < c.temp))) * 16
  else if off = Reg.CHANNEL_COUNT then
    count (fun c => decide (c.state = .retired)) + count (fun c => decide (c.state = .spare)) * 2 ^ 8 +
      count (fun c => decide (c.state = .service ∨ c.state = .source)) * 2 ^ 16
  else if off = Reg.DRAM_CAPACITY then s.mem.inUse * 1048576
  else if off = Reg.COMMONS_AVAIL then s.commonsKib
  else if off = Reg.BASE_TRAFFIC then match s.live with | some i => baseTraffic i | none => 0
  else if off = Reg.SPARE_PROGRESS then match s.mem.copies.find? (fun c => !c.done) with | some c => c.copied | none => 0
  else if off = Reg.KEEPER_STATUS then b2n s.sweepWaits * 2 ^ 29 + b2n s.power.sweeping * 2 ^ 30
  else if off = Reg.DIRTY_BYTES then s.dirtyKib
  else if off = Reg.SWEEP_NUMBER then s.power.sweep
  else match slotIx 0xC01000 4 16 off with
  | some (l, _) => lgetD s.mem.map l 0
  | none => match slotIx 0xC02000 0x40 18 off with
    | some (c, 0) =>
      let x := s.channel c
      x.state.code * 2 ^ 29 + (s.logicalOf c).getD 0 * 2 ^ 24 + sbits 8 x.temp * 2 ^ 16 + sparesLeft 16 x.rows * 2 ^ 8 + sparesLeft 4 x.cols * 2 ^ 4
    | some (c, 4) => min 255 (s.windowSymbols c)
    | some _ => (s.rget off).toNat
    | none => match slotIx 0xC04000 0x20 36 off with
      | some (n, 0) =>
        let x := s.sram (if n < 20 then n else n - 12)
        x.spares * 2 ^ 24 + lsum (x.groups.zipIdx.map (fun y => y.1 * 4 ^ y.2))
      | _ => (s.rget off).toNat

/-- PEER (R565 to R567). -/
def State.rdPeer (s : State) (off : Nat) : Nat :=
  let mask := fun (f : PeerPort → Bool) => idxMask 6 (fun p => f (s.peer p))
  let slots := fun (ms : List LaneMode) => (ms.filter LaneMode.isActive).length
  let up := fun (p : PeerPort) => decide (p.state = .up)
  let mirroredBy := mask (fun p => up p && p.nb.mirrorReq)
  let m := s.peers.mirror
  if off = Reg.PEER_STATUS then
    b2n s.peers.coord.isSome + b2n (decide (mirroredBy = 0 ∧ mask up ≠ 0)) * 2 + b2n (s.peers.seedPort.isSome && !s.peers.seedDone) * 4 +
      mask up * 2 ^ 6 + mask (fun p => !(p.lanes.any (fun l => decide (l.rx = .spare ∨ l.tx = .spare)))) * 2 ^ 12 +
      mask (fun p => decide (slots p.rxModes < 4 ∨ slots p.txModes < 4)) * 2 ^ 18 + mirroredBy * 2 ^ 24
  else if off = Reg.MIRROR_STATE then b2n m.valid * 2 ^ 31 + b2n m.complete * 2 ^ 30 + b2n m.stale * 2 ^ 29 + m.port * 2 ^ 16 + m.coord
  else if off = Reg.MIRROR_PODS then m.pods.length
  else if off = Reg.CHIP_COORD then match s.peers.coord with | some c => 2 ^ 31 + c.toNat | none => 0
  else match slotIx Reg.MIRROR_FRAME_LO 4 2 off with
  | some (i, _) => wordOf m.frame i
  | none => match slotIx 0xD02000 0x100 6 off with
    | none => (s.rget off).toNat
    | some (n, w) =>
      let p := s.peer n
      if w = 4 then
        p.state.code * 2 ^ 29 + p.reason * 2 ^ 24 + slots p.rxModes * 2 ^ 21 + slots p.txModes * 2 ^ 18 + p.nb.coord
      else if w = 8 then b2n p.nb.candidate * 2 ^ 31 + b2n p.nb.locked * 2 ^ 30 + p.nb.depth * 2 ^ 24 + b2n p.nb.mirrorHeld * 2 ^ 23
      else if w = 0xC then (p.nb.epoch.getD 0) % 65536 * 65536 + p.own % 65536
      else match slotIx 0x80 0x10 5 w with
        | some (l, 0) =>
          let x := lgetD p.lanes l {}
          x.rx.code.1 * 2 ^ 30 + x.tx.code.1 * 2 ^ 28 + x.rx.code.2 * 2 ^ 26 + x.tx.code.2 * 2 ^ 24 + min 255 (s.laneWindow n l) * 2 ^ 8
        | _ => (s.rget off).toNat

/-- The record that LOG_INDEX names, and LOG_STATUS (R613, R620): record numbers begin at 1. -/
def State.logNamed (s : State) : Option LogRecord × Nat :=
  let n := s.keeper.logSeq
  let i := (s.rget Reg.LOG_INDEX).toNat
  match s.keeper.log.find? (fun r => decide (r.seq = i)) with
  | some r => (some r, 0)
  | none => (none, if 2 ^ 32 ≤ n ∨ (1 ≤ i ∧ i ≤ n) then 2 ^ 31 else 2 ^ 30)

/-- SAFETY (R620, R623). A record that LOG_INDEX does not name reads as free values in LOG_DATA once the log holds any (log entry 2). -/
def State.rdSafety (s : State) (off : Nat) : Nat :=
  let chk := fun (f : CheckerShape → Nat) => match s.live with | some i => f i.body.checker | none => 0
  if off = Reg.SAFETY_STATUS then
    s.safety.state.code + b2n s.safety.hbRun * 2 ^ 4 + b2n s.faultN * 2 ^ 5 + s.declCount * 2 ^ 12 + s.unvFrames * 2 ^ 16 + s.safety.holdCause * 2 ^ 24
  else if off = Reg.CONDITIONS then s.conditions
  else if off = Reg.CHECK_Z_MIN then chk (fun c => sword c.zMin)
  else if off = Reg.CHECK_Z_MAX then chk (fun c => sword c.zMax)
  else if off = Reg.CHECK_CFG then chk (fun c => sbits 16 c.occ * 65536 + c.minPeas)
  else if off = Reg.RECHECK_TOL then chk (fun c => c.tol)
  else if off = Reg.CLEARS_PENDING then s.keeper.clears.length
  else if off = Reg.LOG_HEAD then s.keeper.logSeq % 2 ^ 32
  else if off = Reg.LOG_STATUS then s.logNamed.2
  else match slotIx Reg.LOG_COUNT_LO 4 2 off with
  | some (i, _) => wordOf s.keeper.logSeq i
  | none => match slotIx 0xE02020 4 8 off with
    | some (i, _) => match s.logNamed.1 with
      | some r => wordOf r.bits i
      | none => if s.keeper.logSeq = 0 then 0 else Config.freeNat (s.free + i) % 2 ^ 32
    | none => match slotIx 0xE01200 0x20 8 off with
      | none => (s.rget off).toNat
      | some (i, w) => match lgetD s.safety.decls i none with
        | none => 0
        | some d =>
          let (x0, x1, y0, y1) := d.box
          if w = 0 then d.phase.code * 2 ^ 29 + d.outcome * 2 ^ 25 + d.engine * 2 ^ 20 + idxMask 20 (fun e => d.engines.contains e)
          else if w = 4 ∨ w = 8 then wordOf d.frame (w / 4 - 1)
          else if w = 0xC then x1 * 65536 + x0
          else if w = 0x10 then y1 * 65536 + y0
          else d.cols.length

/-- HOST_QUEUES as function `fn` sees it (R696, R697, R701). -/
def State.rdHost (s : State) (fn off : Nat) : Nat :=
  if off = Reg.HQ_STATUS then
    let waits := match (s.dest 6).queue with | r :: _ => s.rbit Reg.RING_CTRL 0 && !s.ringRoom (recordSize r) | [] => false
    b2n (s.fn fn).wmNow + b2n (s.cplFull fn) * 2 + b2n (s.fn fn).dropping * 4 +
      (if fn = 0 then b2n waits * 8 + b2n (s.rbit Reg.RING_CTRL 0) * 16 else 0)
  else if off = Reg.HQ_QUEUE_LEVEL then s.hqLevel fn
  else if off < 0xF02000 then (s.rget (hqReg fn off)).toNat
  else (s.rget off).toNat

/-- SECURITY (R726, R727). -/
def State.rdSecurity (s : State) (off : Nat) : Nat :=
  let b := s.boot
  if off = Reg.SEC_STATUS then
    min 3 b.refusals + b2n b.challenge * 2 ^ 6 + b2n (match s.host.attests with | j :: _ => !j.measures.isEmpty | [] => false) * 2 ^ 7 +
      b.fwSlot * 2 ^ 8 + b2n b.unlocked * 2 ^ 9 + b2n s.fuses.killed * 2 ^ 10 + b2n (decide (b.failCode ≠ 0)) * 2 ^ 11 + b.failCode * 2 ^ 12
  else if off = Reg.FW_SECURITY_VERSION then b.fwSecurity
  else if off = Reg.FW_MIN then s.fuses.fwMin
  else if off = Reg.IMAGE_MIN then s.keeper.imageMin
  else if off = Reg.ATTEST_COUNT then s.keeper.attestCount
  else (s.rget off).toNat

/-- POWER (R756, R757). -/
def State.rdPower (s : State) (off : Nat) : Nat :=
  if off = Reg.POWER_STATUS then b2n s.power.saving.isSome + b2n (s.boot.straps.getLsbD 10) * 2 + b2n s.power.full * 4
  else if off = Reg.PACKAGE_POWER then s.power.milliwatts
  else match slotIx 0x1101020 4 8 off with
  | some (r, _) => let x := lgetD s.power.rails r (0, 0); x.1 * 65536 + x.2
  | none => (s.rget off).toNat

/-- FUSE_STRAP (R734). -/
def State.rdFuse (s : State) (off : Nat) : Nat :=
  let f := s.fuses
  if off = Reg.FUSE_STATUS then b2n (decide (f.customer ≠ 0)) + b2n s.boot.fusesOk * 2 + b2n s.boot.programming.isSome * 4
  else if off = Reg.STRAP_VALUE then s.boot.straps.toNat
  else if off = Reg.SERIAL_LO then wordOf f.serial.toNat 0
  else if off = Reg.SERIAL_HI then wordOf f.serial.toNat 1
  else if off = Reg.CUSTOMER_ID then f.customer.toNat
  else if off = Reg.DEBUG_KILL then b2n f.killed
  else match slotIx 0x1201010 4 4 off with
  | some (i, _) => wordOf f.rollback.toNat i
  | none => match slotIx 0x1201040 4 16 off with
    | some (i, _) => wordOf f.rootHash.toNat i
    | none => (s.rget off).toNat

/-- The value in effect of the register mapped at a low offset, as function `fn` sees it; 0 where none is mapped (R661). -/
def State.regValue (s : State) (fn off : Nat) : Word :=
  if (findReg off).isNone then 0
  else nw (match off / 0x100000 with
    | 0 => s.rdGlobal fn off
    | 1 => s.rdTime off
    | 2 => s.rdPorts off
    | 3 => s.rdIngest off
    | 4 => s.rdPods off
    | 5 => s.rdCommit off
    | 6 | 7 => s.rdEngines off
    | 8 => s.rdMover off
    | 9 => s.rdSolver off
    | 10 => s.rdStructure off
    | 11 => s.rdPlace off
    | 12 => s.rdMem off
    | 13 => s.rdPeer off
    | 14 => s.rdSafety off
    | 15 => s.rdHost fn off
    | 16 => s.rdSecurity off
    | 17 => s.rdPower off
    | 18 => s.rdFuse off
    | _ => 0)

end Sys2Proof.Machine
end

