-- ==== Sys2Proof/Machine/Solver.lean ====
section
/-! DEFINITION. Commands of solver control: ends of solves, publications and missed deadlines (R388 to R408). -/

namespace Sys2Proof.Machine

open Sys2Proof

/-- Whether every solve of wave 0 has ended. -/
def waveDone (l : FastLoop) : Bool := l.tracks.all (fun t => t.ended || decide (t.wave = 1))

/-- Whether every solve of a loop has ended. -/
def loopDone (l : FastLoop) : Bool := l.tracks.all (fun t => t.ended)

/-- `s` with a track's entry in the running fast loop changed. -/
def State.onTrackSolve (s : State) (n : Nat) (f : TrackSolve → TrackSolve) : State :=
  s.onSolver (fun v => { v with fast := v.fast.map (fun l => { l with tracks := l.tracks.map (fun t => if t.track = n then f t else t) }) })

/-- One fast solve ends (R388 to R390, R400 to R406). -/
def State.endFastSolve (s : State) (l : FastLoop) (t : TrackSolve) (o : FastOutcome) : State :=
  let n := t.track
  let s0 := s.bump Reg.FAST_SOLVES
  if ¬ o.data then (s0.trackResult n 8 0 false false).onTrackSolve n (fun x => { x with ended := true, result := 8 })
  else
    let sig := fastSig t.parent o.blocks
    let cold := s.coldStart n sig l.cold
    let r := solveRun (itersOf o.iters s.shape.iterMax) 0 false
    let s1 := (((s0.noteCold cold).noteRun false n r).trackResult n r.result r.iters r.damped cold).setPair (Reg.TRACK_SIG_LO n) (Reg.TRACK_SIG_HI n) sig
    if resultFlags r.result then s1.onTrackSolve n (fun x => { x with ended := true, result := r.result })
    else
      let (s2, v) := ((s1.bump Reg.FAST_ACCEPTED).keepWarm n sig o.head o.prior).formVersion t l.beat o.head
      s2.onTrackSolve n (fun x => { x with ended := true, accepted := true, result := r.result, formed := v })

/-- FAST_SOLVE_END: the solve of a track that runs ends before its deadline; wave 1 begins when wave 0 has ended. -/
def execFastSolveEnd (track : Fin 64) (o : FastOutcome) (s : State) : Out :=
  match s.solver.fast with
  | none => .next s
  | some l =>
    match l.tracks.find? (fun t => decide (t.track = track.val)) with
    | none => .next s
    | some t =>
      if s.saved ∨ s.hold ∨ t.ended ∨ (t.wave = 1 ∧ ¬ waveDone l) ∨ l.ord + s.fastDeadline ≤ s.tl.beats then .next s
      else .next (s.endFastSolve l t o)

/-- Publish one accepted version of a loop, or refuse it (R394). -/
def State.publishOne (s : State) (l : FastLoop) (t : TrackSolve) (v : Spline) (ok : Bool) : State :=
  let n := t.track
  if ¬ ok then ((s.trackChange n 7).bump Reg.PUBLISH_REFUSALS).raise Reg.SOLVER_EVENTS 5
  else
    let margin := l.ord + s.fastDeadline - s.tl.beats
    let s1 := (s.publishVersion v true).setPair (Reg.TRACK_PUBLISH_BEAT_LO n) (Reg.TRACK_PUBLISH_BEAT_HI n) s.tl.beat
    let s2 := s1.rset (Reg.TRACK_MARGIN n) (nw margin)
    let s3 := if margin < s2.rbits Reg.MIN_FAST_MARGIN 9 0 then s2.rset Reg.MIN_FAST_MARGIN (nw margin) else s2
    if t.reparent then s3.bump Reg.REPARENTS else s3

/-- FAST_PUBLISH (R394): every solve of the loop has ended, and its accepted versions become current at this beat together. -/
def execFastPublish (s : State) : Out :=
  match s.solver.fast with
  | none => .next s
  | some l =>
    if s.saved ∨ ¬ loopDone l then .next s
    else
      let vs := l.tracks.filterMap (fun t => if t.accepted then t.formed else none)
      let good := s.publishable 64 (vs.filter rotationsOk)
      let s1 := l.tracks.foldl (fun (a : State) t =>
        match t.formed with
        | some v => if t.accepted then a.publishOne l t v (good.any (fun w => decide (w.track = t.track))) else a
        | none => a) s
      .next (s1.onSolver (fun v => { v with fast := none }))

/-- FAST_DEADLINE_MISS (R408): the solves that have not ended by FAST_DEADLINE beats are abandoned. -/
def execFastDeadlineMiss (s : State) : Out :=
  match s.solver.fast with
  | none => .next s
  | some l =>
    if s.saved ∨ loopDone l ∨ s.tl.beats < l.ord + s.fastDeadline then .next s
    else
      .next ((l.tracks.filter (fun t => !t.ended)).foldl (fun (a : State) t =>
        let a1 := ((a.trackResult t.track 5 0 false false).bump Reg.FAST_MISSES).raise Reg.SOLVER_EVENTS 0
        ((a1.onCom (fun c => { c with solverMiss := true })).error 2 t.track).onTrackSolve t.track (fun x => { x with ended := true, result := 5 })) s)

/-! ### The slow loop -/

/-- Sensors whose extrinsics the slow loop estimates: fixed, no anchor (R395). -/
def State.slowSensors (s : State) : List Nat :=
  match s.live with
  | some i => (i.body.sensors.filter (fun (x : Nat × SensorEntry) => x.2.fixed && !x.2.anchor)).map (fun x => x.1)
  | none => []

/-- The slow loop ends with a result. -/
def State.slowResult (s : State) (r iters used : Nat) (damped cold : Bool) : State :=
  s.rset Reg.SLOW_RESULT (nw (r * 2 ^ 28 + iters % 16 * 2 ^ 24 + b2n damped * 2 ^ 23 + b2n cold * 2 ^ 22 + used % 131072))

/-- SLOW_SOLVE_END (R395 to R406): an accepted solve waits for its publication; another ends the loop. -/
def execSlowSolveEnd (o : SlowOutcome) (s : State) : Out :=
  match s.solver.slow with
  | none => .next s
  | some l =>
    if s.saved ∨ s.hold ∨ l.accepted.isSome ∨ l.ord + s.shape.slowDeadline ≤ s.tl.frames then .next s
    else
      let beyond := o.recorded - s.shape.obsMax
      let s0 := (s.bump Reg.SLOW_SOLVES).raise Reg.SOLVER_EVENTS 7
      let s1 := if beyond = 0 then s0 else (s0.bump Reg.OBS_DROPPED beyond).raise Reg.SOLVER_EVENTS 9
      if ¬ o.data then .next ((s1.slowResult 8 0 0 false false).onSolver (fun v => { v with slow := none }))
      else
        let sig := slowSig o.blocks
        let cold := s.coldStart 64 sig l.cold
        let r := solveRun (itersOf o.iters s.shape.slowIter) 0 false
        let s2 := if o.dropped = 0 then s1 else (s1.bump Reg.LANDMARKS_DROPPED o.dropped).raise Reg.SOLVER_EVENTS 8
        let s3 := (((s2.noteCold cold).noteRun true 0 r).slowResult r.result r.iters o.used r.damped cold).setPair Reg.SLOW_SIG_LO Reg.SLOW_SIG_HI sig
        if resultFlags r.result then .next (s3.onSolver (fun v => { v with slow := none }))
        else
          let ex := o.extrinsics.filter (fun (x : Nat × Extrinsic) => s.slowSensors.contains x.1)
          .next ((s3.keepWarm 64 sig (ex.flatMap (fun x => x.2.rot ++ x.2.trans)) []).onSolver (fun v => { v with slow := some { l with accepted := some ex } }))

/-- SLOW_PUBLISH (R399): the extrinsics of an accepted slow solve take effect together at this beat. -/
def execSlowPublish (s : State) : Out :=
  match s.solver.slow with
  | none => .next s
  | some l =>
    match l.accepted with
    | none => .next s
    | some ex =>
      if s.saved then .next s
      else
        let s1 := s.onStore (fun p => { p with extrinsics := ex.foldl (fun (m : Map Extrinsic) x => mset m x.1 x.2) p.extrinsics })
        .next ((s1.rset Reg.SLOW_MARGIN (nw (l.ord + s.shape.slowDeadline - s.tl.frames))).onSolver (fun v => { v with slow := none }))

/-- SLOW_DEADLINE_MISS (R408). -/
def execSlowDeadlineMiss (s : State) : Out :=
  match s.solver.slow with
  | none => .next s
  | some l =>
    if s.saved ∨ l.accepted.isSome ∨ s.tl.frames < l.ord + s.shape.slowDeadline then .next s
    else
      let s1 := ((s.slowResult 5 0 0 false false).bump Reg.SLOW_MISSES).raise Reg.SOLVER_EVENTS 1
      .next (((s1.onCom (fun c => { c with solverMiss := true })).error 3 0).onSolver (fun v => { v with slow := none }))

end Sys2Proof.Machine
end

