-- ==== Sys2Proof/Machine/RegOps.lean ====
section
/-! DEFINITION. Accesses to the control window: the order in which they are judged, shadows, locks, privilege, bit aliases and the
effects of writes (R659 to R702). -/

namespace Sys2Proof

/-- The bits that a field covers. -/
def FieldDef.mask (f : FieldDef) : Word := nw ((2 ^ (f.hi + 1 - f.lo) - 1) * 2 ^ f.lo)

end Sys2Proof

namespace Sys2Proof.Machine

open Sys2Proof

/-! ### Offsets -/

/-- The function, the low offset and the privileged view that an offset names (R693). -/
def canonReg (ini : Initiator) (off : Nat) : Nat × Nat × Bool :=
  if 0xF40000 ≤ off ∧ off < 0xF42000 then (0, off - 0x40000, true)
  else if 0xF50000 ≤ off ∧ off < 0xF52000 then (1, off - 0x50000, true)
  else (ini.hostFn, off, false)

/-- Where a register is held: those of R696 once for each function. -/
def regKey (fn low : Nat) : Nat := if 0xF00000 ≤ low ∧ low < 0xF02000 then hqReg fn low else low

/-- Where a shadow of an initiator is held (R671, R672). -/
def shadowKey (ini : Initiator) (key : Nat) : Nat := ini.id * 2 ^ 26 + key

/-- The register and the bit that an alias word names (R685): none outside the alias region. -/
def aliasOf (off : Nat) : Option (Nat × Nat) :=
  if off < 0x2000000 ∨ 0x2260000 ≤ off then none
  else
    let x := off - 0x2000000
    let i := x / 0x20000
    let k := x % 0x20000 / 4
    some (if i = 7 then 0x1300000 else i * 0x100000 + k / 32 * 4, k % 32)

/-- Whether an offset lies in a fixed firewall region, which is read only (R574, R620). -/
def fixedFw (low : Nat) : Bool := decide (0xE04000 ≤ low ∧ low < 0xE07000 ∧ (low - 0xE04000) % 0x800 < 0x400)

/-! ### Locks (R676, R679, R698) -/

/-- Set the LOCK of a block that has one. -/
def State.setLock (s : State) (i : Nat) : State :=
  match lockAt i with
  | some (o, b) => s.rput o b b 1
  | none => s

/-- LOCK_ALL (R679). -/
def State.lockEvery (s : State) : State := (List.range 19).foldl State.setLock s

/-- Whether a register counts as locked while its ring is enabled (R698). -/
def State.ringLocked (s : State) (fn low : Nat) : Bool :=
  (decide (low = Reg.CPL_BASE_LO ∨ low = Reg.CPL_BASE_HI ∨ low = Reg.CPL_SIZE) && s.rbit (hqReg fn Reg.CPL_CTRL) 0) ||
    (decide (low = Reg.RING_BASE_LO ∨ low = Reg.RING_BASE_HI ∨ low = Reg.RING_SIZE ∨ low = Reg.RING_WB_ADDR_LO ∨ low = Reg.RING_WB_ADDR_HI) &&
      s.rbit Reg.RING_CTRL 0)

/-- Whether a field keeps its value because of a lock. -/
def State.fieldLocked (s : State) (fn low : Nat) (f : FieldDef) : Bool := (f.lk && s.locked (low / 0x100000)) || s.ringLocked fn low

/-! ### Step 6: values that are dropped with KIND 2 -/

/-- Whether an offset is a firewall region's register. -/
def fwWord (low : Nat) : Bool := decide (0xE04000 ≤ low) && decide (low < 0xE07000)

/-- Whether the region whose registers begin at `o` would have a LIMIT below its BASE once the pair at `o + x - 4` holds `pair` (R621). -/
def State.fwOrder (s : State) (o x pair : Nat) : Bool :=
  let full := fun (v : Nat) => v % 2 ^ 32 / 4096 + v / 2 ^ 32 % 256 * 2 ^ 20
  match x with
  | 4 => decide (full (s.rpair (o + 8) (o + 12)) < full pair)
  | 12 => decide (full pair < full (s.rpair o (o + 4)))
  | _ => false

/-- Whether a write of `data` to the register at `low` is dropped for its value beyond the ranges of its fields: `pair` is the 64-bit value
of its group once `data` takes effect. -/
def State.badValue (s : State) (fn low : Nat) (data : Word) (pair : Nat) : Bool :=
  if low = Reg.RING_BASE_HI then decide (pair % 2 ^ s.rbits Reg.RING_SIZE 5 0 ≠ 0)
  else if low = Reg.RING_SIZE then decide (s.rpair Reg.RING_BASE_LO Reg.RING_BASE_HI % 2 ^ wbits data 5 0 ≠ 0)
  else if low = Reg.RING_READ_HI then
    decide (s.rpair Reg.RING_WRITE_LO Reg.RING_WRITE_HI < pair ∨ pair < s.rpair Reg.RING_READ_LO Reg.RING_READ_HI)
  else if low = Reg.CPL_HEAD then
    let head := s.rget (hqReg fn Reg.CPL_HEAD)
    decide ((s.rget (hqReg fn Reg.CPL_TAIL) - head).toNat < (data - head).toNat)
  else if low = Reg.FAULT_CLEAR then
    let x := (wbits data 23 16, wbits data 15 0)
    !s.marked x.1 x.2 || (decide (16 ≤ s.keeper.clears.length) && !s.keeper.clears.contains x)
  else if (slotIx (Reg.MBOX_OUT 0) 4 8 low).isSome then s.boot.mboxBusy
  else if fwWord low then s.fwOrder (low - (low - 0xE04000) % 0x20) ((low - 0xE04000) % 0x20) pair
  else false

/-! ### Step 7: effects -/

/-- Send the messages of event bits that a write has enabled while they are set (R657). -/
def State.enabledEvents (s : State) (fn low : Nat) (old new : Word) : State :=
  let risen := fun (ev : Nat) => s.rget ev &&& new &&& ~~~ old
  if low = Reg.HQ_EVENT_EN then
    let r := risen (hqReg fn Reg.HQ_EVENTS)
    let s1 := if r &&& 0xC = 0 then s else s.msix fn 2
    if r &&& 0x30 = 0 then s1 else s1.msix fn 3
  else if low = Reg.ESCAPE_EVENT_EN then (if risen Reg.ESCAPE_EVENTS = 0 then s else s.msixBoth 14)
  else if low = Reg.FAULT_EVENT_EN then (if risen Reg.FAULT_EVENTS = 0 then s else s.msixBoth 14)
  else if low % 0x100000 = 8 ∧ low ≠ Reg.ENG_RETIRED then
    (if risen (low - 4) = 0 then s else s.msixBoth (8 + low / 0x100000))
  else s

/-- Clear the VALID of a capture register. -/
def State.freeCapture (s : State) (o : Nat) : State := s.rput o 31 31 0

/-- Bits of a word that are set, from `lo` up, `n` of them. -/
def bitsOn (w : Word) (lo n : Nat) : List Nat := (List.range n).filter (fun i => wbit w (lo + i))

/-- REKEY_ALL (R204). -/
def State.rekeyEvery (s : State) : State := s.onStore (fun p => (List.range 512).foldl (fun q r => q.trigger r 3 none) p)

/-- SCRUB_NOW (R500). -/
def State.scrubAgain (s : State) : State := s.onMem (fun m => { m with scrubActive := true, scrubChannel := 0, scrubAddr := 0 })

/-- RETRY of a peer port (R531). -/
def State.retryPeer (s : State) (p : Nat) : State :=
  if (s.peer p).state = .refused then s.onPeer p (fun q => { q with state := .hello }) else s

/-- REFRESH_MIRROR (R561). -/
def State.refreshNow (s : State) : State :=
  let m := s.peers.mirror
  if m.valid ∧ (s.peer m.port).state = .up then s.askRefresh m.port else s

/-- RESUME (R611): outside NORMAL and DEGRADED it is logged. -/
def State.resumeHeartbeat (s : State) (ini off : Nat) : State :=
  if s.safety.state = .normal ∨ s.safety.state = .degraded then s.onSafety (fun x => { x with resumeAsked := x.hbStopped })
  else s.logAccess ini off

/-- OUT_POST (R692). -/
def State.postOut (s : State) (ini off : Nat) : State :=
  if s.boot.mboxBusy then s.late ini off 2 else (s.bump Reg.MBOX_POSTS).onBoot (fun b => { b with mboxBusy := true })

/-- What a check of SECURITY answers that no register holds: the random bits of a challenge, whether the staged certificate's signature and
the response verify (R731, R732), and whether a keeper write succeeds (R718). -/
structure SecAnswer where
  random : BitVec 256 := 0
  certOk : Bool := false
  sigOk : Bool := false
  keeperOk : Bool := true

/-- Free answers, for a register write that no row of its own names (log entry 2). -/
def State.freeAnswer (s : State) : SecAnswer :=
  let n := s.freeNat
  { random := BitVec.ofNat 256 n, certOk := nbit n 0, sigOk := nbit n 1, keeperOk := nbit n 2 }

/-- A W1S trigger of a block's *_CTRL register, other than LOCK: bit `b` written 1. `ini` and `off` are those of the access. -/
def State.trigger (s : State) (ini off fn low b : Nat) (ans : SecAnswer) : State :=
  match low / 0x100000, b with
  | 0, 1 => if low = Reg.GLOBAL_CTRL then s.lockEvery else s.postOut ini off
  | 0, 0 => if low = Reg.MBOX_CTRL then s.onBoot (fun x => { x with mboxFull := false }) else s
  | 1, 1 => s.snapTime
  | 1, 2 => s.timeSetAct
  | 2, 1 => { s with fdb := [] }
  | 3, p => if p < 8 then s.flushQueue p else s
  | 4, 0 => s.rekeyEvery
  | 5, 1 => s.rset Reg.MIN_MARGIN 64
  | 8, 1 => (s.freeCapture Reg.REFUSAL_INFO).freeCapture Reg.XLATE_INFO
  | 9, 1 => s.onSolver (fun v => { v with coldFast := true, coldSlow := true })
  | 9, 2 => s.freeCapture Reg.PIVOT_INFO
  | 10, 1 => if s.boot.failCode ≠ 0 then s.late ini off 2 else s.loadSlotCmd
  | 10, 2 => s.cancelSlotCmd
  | 11, 1 => { s with place := { s.place with evalDue := true } }
  | 12, 1 => s.freeCapture Reg.ECC_INFO
  | 12, 2 => s.scrubAgain
  | 13, 2 => s.refreshNow
  | 13, p => if 8 ≤ p then s.retryPeer (p - 8) else s
  | 14, 1 => (s.freeCapture Reg.FW_DENY_INFO).freeCapture Reg.LATE_WRITE_INFO
  | 14, 2 => s.enterHold 7
  | 14, 3 => s.resumeHeartbeat ini off
  | 15, 1 => s.flushHq fn
  | 16, 1 => s.challengeDebug ans.random
  | 16, 2 => s.unlockDebug ini ans.certOk ans.sigOk
  | 16, 3 => s.advanceFw
  | 16, 4 => s.advanceImage ans.keeperOk
  | 17, 1 => s.forgetMarrow
  | 18, 1 => s.programFuse ini
  | _, _ => s

/-- A clear of INGEST_EVENTS, ESCAPE_EVENTS or HQ_EVENTS also clears what R157, R321 and R641 name. -/
def State.clearedEvents (s : State) (fn low : Nat) (data : Word) : State :=
  if low = Reg.INGEST_EVENTS then (bitsOn data 0 8).foldl (fun (t : State) p => t.rset (Reg.CROSS_COUNT p) 0) s
  else if low = Reg.ESCAPE_EVENTS then (bitsOn data 0 20).foldl (fun (t : State) e => t.freeCapture (Reg.ESC_INFO e)) s
  else if low = Reg.HQ_EVENTS ∧ wbit data 2 then s.rset (hqReg fn Reg.HQ_CROSS_COUNT) 0
  else s

/-- What the new value of a register does, once it is stored (`old` is the value before). -/
def State.regEffect (s : State) (fn low : Nat) (old new : Word) : State :=
  if low = Reg.CPL_CTRL then
    if wbit new 0 ∧ ¬ wbit old 0 then (s.rset (hqReg fn Reg.CPL_HEAD) 0).rset (hqReg fn Reg.CPL_TAIL) 0 else s
  else if low = Reg.RING_CTRL then
    if wbit new 0 = wbit old 0 then s else (s.rset Reg.RING_CTRL old).ringEnable (wbit new 0)
  else if low = Reg.HQ_WM_HI then s.hqWatermark fn
  else if low = Reg.FAULT_CLEAR then
    let x := (wbits new 23 16, wbits new 15 0)
    if s.keeper.clears.contains x then s else s.onKeeper (fun k => { k with clears := k.clears ++ [x] })
  else match slotIx (Reg.PORT_CFG 0) 0x100 8 low with
  | some (p, 0) => s.sensorDown p
  | _ => match slotIx (Reg.WM_HI 0) 0x20 8 low with
    | some (p, 0) => s.watermark p
    | _ => s.enabledEvents fn low old new

/-! ### The judged write (R662) -/

/-- Steps 4 (fields) to 7 for the register `d` at `low`. `off` is the offset as accessed. -/
def State.writeFields (s : State) (ini : Initiator) (off fn low : Nat) (d : RegDef) (data : Word) (ans : Option SecAnswer := none) : State :=
  let key := regKey fn low
  let old := s.rget key
  let loKey := key - 4
  let heldLo := if d.sh then mget s.held (shadowKey ini loKey) else none
  let lo := heldLo.getD (s.rget loKey)
  let locked := s.fieldLocked fn low
  let spHeld := fun (f : FieldDef) => f.acc = .w1sp && !s.privileged ini
  let woHeld := fun (f : FieldDef) => f.acc = .wo && s.wo.contains key
  let held := fun (f : FieldDef) => locked f || spHeld f || woHeld f
  let differs := fun (f : FieldDef) => decide (wbits data f.hi f.lo ≠ wbits old f.hi f.lo)
  let s1 := if d.fields.any (fun f => spHeld f && decide (wbits data f.hi f.lo ≠ 0)) then s.late ini.id off 3 else s
  let lkBad := d.fields.any (fun f => locked f && differs f) || (d.sh && d.fields.any locked && decide (lo ≠ s.rget loKey))
  let s2 := if lkBad then s1.late ini.id off 0 else s1
  let s3 := if d.fields.any woHeld then s2.late ini.id off 1 else s2
  let ranged := fun (f : FieldDef) => (f.acc = .rw || f.acc = .wo) && !held f
  let bad := d.fields.any (fun f => ranged f && decide (wbits data f.hi f.lo < f.min ∨ f.max < wbits data f.hi f.lo))
  let allHeld := d.fields.all held
  if bad || (!allHeld && s.badValue fn low data (data.toNat * 2 ^ 32 + lo.toNat)) then s3.late ini.id off 2
  else
    let keep := d.fields.filter (fun f => !held f)
    let setMask := (keep.filter (fun f => f.acc = .rw || f.acc = .wo)).foldl (fun (m : Word) f => m ||| f.mask) 0
    let clrMask := (keep.filter (fun f => f.acc = .w1c)).foldl (fun (m : Word) f => m ||| f.mask) 0
    let trigMask := (keep.filter (fun f => f.acc = .w1s || f.acc = .w1sp)).foldl (fun (m : Word) f => m ||| f.mask) 0
    let new := ((old &&& ~~~ setMask) ||| (data &&& setMask)) &&& ~~~ (data &&& clrMask)
    let trig := data &&& trigMask
    if d.group ≠ [] ∧ setMask ≠ 0 then { s3 with held := mset s3.held (shadowKey ini key) new }
    else
      let s4 := s3.rset key new
      let s5 : State :=
        if d.sh ∧ setMask ≠ 0 then { s4.rset loKey lo with held := merase s4.held (shadowKey ini loKey) } else s4
      let s6 : State := if (keep.any (fun f => f.acc = .wo)) then
          ({ s5 with wo := kinsert key s5.wo, peers := { s5.peers with coord := some (BitVec.ofNat 14 data.toNat) } } : State) else s5
      let lockBit := match lockAt (low / 0x100000) with
        | some (o, b) => decide (o % 0x100000 % 0x10000 = low % 0x100000) && wbit trig b
        | none => false
      let s7 := if lockBit then s6.setLock (low / 0x100000) else s6
      let s8 := if setMask = 0 then s7 else s7.regEffect fn low old new
      let s9 := if clrMask = 0 then s8 else s8.clearedEvents fn low data
      let order := if low = Reg.SLOT_CTRL then [2, 1] else bitsOn trig 0 14
      (order.filter (fun b => wbit trig b)).foldl (fun (t : State) b => t.trigger ini.id off fn low b (ans.getD s3.freeAnswer)) (if ans.isNone ∧ low = Reg.SEC_CTRL then s9.took else s9)

/-- A write of the MSI-X table of a function (R630, R693): a message that waits goes out when its vector is unmasked. -/
def State.writeMsix (s : State) (fn : Nat) (i : Nat) (data : Word) : State :=
  let v := i / 4
  let s1 := s.onFn fn (fun h => { h with msix := lmod h.msix v (fun e =>
    match i % 4 with
    | 0 => { e with addrLo := data &&& 0xFFFFFFFC }
    | 1 => { e with addrHi := data }
    | 2 => { e with data := data }
    | _ => { e with control := data &&& 1 }) })
  if i % 4 = 3 ∧ ¬ wbit data 0 ∧ (s1.fn fn).msixPending.getLsbD v then
    (s1.onFn fn (fun h => { h with msixPending := h.msixPending &&& ~~~ BitVec.ofNat 64 (2 ^ v) })).msix fn v
  else s1

/-- Steps 3 to 7 of R662 for a word write whose register, by its own offset, is `reg`. -/
def State.writeAt (s : State) (ini : Initiator) (off reg : Nat) (data : Word) (ans : Option SecAnswer := none) : State :=
  let (fn, low, view) := canonReg ini reg
  if 0xF80000 ≤ low ∧ low < 0xF80400 then s.writeMsix fn ((low - 0xF80000) / 4) data
  else if 0xF90000 ≤ low ∧ low < 0xF90008 then s
  else match findReg low with
  | none => s.late ini.id off 2
  | some d =>
    if fixedFw low then s
    else if (view || d.wp) && !s.privileged ini then s.late ini.id off 3
    else s.writeFields ini off fn low d data ans

/-- The word that acts as a write of bit `b` with value `v` and leaves every other bit unchanged (R687). -/
def State.aliasData (s : State) (ini : Initiator) (reg b : Nat) (v : Bool) : Word :=
  let (fn, low, _) := canonReg ini reg
  let cur := s.rget (regKey fn low)
  let clear := match findReg low with
    | some d => (d.fields.filter (fun f => f.acc = .w1c || f.acc = .w1s || f.acc = .w1sp)).foldl (fun (m : Word) f => m ||| f.mask) 0
    | none => 0
  putBits (cur &&& ~~~ clear) b b (b2n v)

/-- A word access that writes (R662, R664, R688), judged from the firewall on. -/
def State.writeWord (s : State) (ini : Initiator) (off : Nat) (data : Word) (ans : Option SecAnswer := none) : State :=
  match aliasOf off with
  | some (reg, b) =>
    if ¬ s.fwOpen 0 true ini.id reg 4 then s.deny true ini.id 0 reg
    else s.writeAt ini off reg (s.aliasData ini reg b (wbit data 0)) ans
  | none =>
    if ¬ s.fwOpen 0 true ini.id off 4 then s.deny true ini.id 0 off
    else s.writeAt ini off off data ans

/-- A write of another width or alignment: dropped at step 2, where the firewall lets it pass. -/
def State.writeNarrow (s : State) (ini : Initiator) (off n : Nat) : State :=
  let at' := match aliasOf off with | some (reg, _) => reg | none => off
  if ¬ s.fwOpen 0 true ini.id at' n then s.deny true ini.id 0 at' else s.late ini.id off 4

/-- Four bytes of a word, none where a byte enable is off. -/
def wordOfBytes (l : List (Option Byte)) : Option Word :=
  if l.all Option.isSome then some (nw (leNat (l.map (fun b => b.getD 0)))) else none

/-- Words of a push: its bytes from a word boundary on, cut into words with their byte enables. -/
def pushWords : Nat → List (Option Byte) → List PushWord
  | 0, _ => []
  | _, [] => []
  | f + 1, l =>
    let w := (l.take 4 ++ List.replicate (4 - (l.take 4).length) none)
    let en := lsum (w.zipIdx.map (fun x => if x.1.isSome then 2 ^ x.2 else 0))
    { data := nw (leNat (w.map (fun b => b.getD 0))), enables := BitVec.ofNat 4 en } :: pushWords f (l.drop 4)

/-- A write access of any length (R664 to R667, R700). -/
def State.writeAccess (s : State) (ini : Initiator) (off : Nat) (bytes : List (Option Byte)) : State :=
  let n := bytes.length
  if ¬ bytes.any Option.isSome then s
  else if 0xFA0000 ≤ off ∧ off + n ≤ 0xFA1000 then
    s.pushAll ini (off / 4 * 4) (pushWords (n + 2) (List.replicate (off % 4) none ++ bytes))
  else if off % 4 = 0 ∧ n = 4 then
    match wordOfBytes bytes with
    | some w => s.writeWord ini off w
    | none => s.writeNarrow ini off 4
  else if off % 8 = 0 ∧ n = 8 then
    let half := fun (t : State) (o : Nat) (b : List (Option Byte)) =>
      if ¬ b.any Option.isSome then t
      else match wordOfBytes b with
        | some w => t.writeWord ini o w
        | none => t.writeNarrow ini o 4
    half (half s off (bytes.take 4)) (off + 4) (bytes.drop 4)
  else s.writeNarrow ini off n

/-! ### Reads (R661 to R671) -/

/-- A word of the MSI-X table or of the pending bit array of a function. -/
def State.readMsix (s : State) (fn low : Nat) : Word :=
  if low < 0xF90000 then
    let i := (low - 0xF80000) / 4
    let e := lgetD (s.fn fn).msix (i / 4) {}
    match i % 4 with
    | 0 => e.addrLo
    | 1 => e.addrHi
    | 2 => e.data
    | _ => e.control
  else nw ((s.fn fn).msixPending.toNat / 2 ^ (8 * (low - 0xF90000)))

/-- The value that a word read returns, and the state after it: a _LO read that includes byte 0 latches the other words of its group
(R670). -/
def State.readAt (s : State) (ini : Initiator) (reg : Nat) (byte0 : Bool) : State × Word :=
  let (fn, low, view) := canonReg ini reg
  if (0xF80000 ≤ low ∧ low < 0xF80400) ∨ (0xF90000 ≤ low ∧ low < 0xF90008) then (s, s.readMsix fn low)
  else match findReg low with
  | none => (s, 0)
  | some d =>
    if (view || d.rp) && !s.privileged ini then (s, 0)
    else if d.sh then (s, mgetD s.shadows (shadowKey ini (regKey fn low)) 0)
    else
      let v := s.regValue fn low
      if byte0 then
        ({ s with shadows := d.group.foldl (fun m g => mput 0 m (shadowKey ini (regKey fn (low + g))) (s.regValue fn (low + g))) s.shadows }, v)
      else (s, v)

/-- What a read within one word returns (R662, R666, R686): the enabled bytes, the others zero; and the state after it. -/
def State.readValue (s : State) (ini : Initiator) (off : Nat) (en : List Bool) : State × Word :=
  let mask := nw (lsum (en.zipIdx.map (fun x => if x.1 then 255 * 256 ^ x.2 else 0)))
  let reg := match aliasOf off with | some (r, _) => r | none => off
  if ¬ s.fwOpen 0 false ini.id reg 4 then (s.deny false ini.id 0 reg, 0)
  else match aliasOf off with
  | some (r, b) => (s, nw (b2n (wbit (s.readAt ini r false).2 b)) &&& mask)
  | none =>
    let x := s.readAt ini off (lgetD en 0 false)
    (x.1, x.2 &&& mask)

/-- A read within one word, answered. -/
def State.readWord (s : State) (ini : Initiator) (off : Nat) (en : List Bool) : State :=
  let x := s.readValue ini off en
  x.1.send (.readData ini off x.2)

/-- A read access of any length (R664 to R667). -/
def State.readAccess (s : State) (ini : Initiator) (off : Nat) (en : List Bool) : State :=
  let n := en.length
  if ¬ en.any (fun b => b) then s
  else if off % 4 + n ≤ 4 then s.readWord ini (off / 4 * 4) (List.replicate (off % 4) false ++ en)
  else if off % 8 = 0 ∧ n = 8 then (s.readWord ini off (en.take 4)).readWord ini (off + 4) (en.drop 4)
  else if ¬ s.fwOpen 0 false ini.id off n then (s.deny false ini.id 0 off).send (.readData ini off 0)
  else (s.late ini.id off 4).send (.readData ini off 0xFFFFFFFF)

end Sys2Proof.Machine
end

