-- ==== Sys2Proof/Machine/Regs.lean ====
section
/-! DEFINITION. Commands that are accesses to the control window: reads, writes, and the triggers and registers that have a row of their
own (R659 to R702). Each is judged under R662 as any write of its register. -/

namespace Sys2Proof.Machine

open Sys2Proof

/-- A word write by an initiator whose requests reach the window. -/
def State.windowWrite (s : State) (ini : Initiator) (off : Nat) (data : Word) (ans : Option SecAnswer := none) : State :=
  if s.reaches ini then s.writeWord ini off data ans else s

/-- REGISTER_WRITE (R662 to R668). -/
def execRegisterWrite (ini : Initiator) (off : BitVec 26) (bytes : List (Option Byte)) (s : State) : Out :=
  if s.reaches ini then .next (s.writeAccess ini off.toNat bytes) else .next s

/-- LO_READ (R666, R670): a read of the window; one of a _LO word latches its group. -/
def execLoRead (ini : Initiator) (off : BitVec 26) (enables : List Bool) (s : State) : Out :=
  if s.reaches ini then .next (s.readAccess ini off.toNat enables) else .next s

/-- HI_WRITE (R672). -/
def execHiWrite (ini : Initiator) (off : BitVec 26) (data : Word) (s : State) : Out := .next (s.windowWrite ini off.toNat data)

/-- ALIAS_WRITE (R685 to R688). -/
def execAliasWrite (ini : Initiator) (block : Fin 19) (word : Fin 1024) (bit : Fin 32) (data : Word) (s : State) : Out :=
  .next (s.windowWrite ini (0x2000000 + block.val * 0x20000 + (word.val * 32 + bit.val) * 4) data)

/-- The offset of the *_CTRL register of a block with a LOCK. -/
def ctrlOf (i : Nat) : Nat := if i = 6 then Reg.ENG_CTRL else i * 0x100000 + 0xC

/-- LOCK (R676): POD_STORE and block index 7 have none. -/
def execBlockLock (ini : Initiator) (block : Fin 19) (s : State) : Out :=
  match lockAt block.val with
  | some (_, b) => .next (s.windowWrite ini (ctrlOf block.val) (nw (2 ^ b)))
  | none => .next s

/-- LOCK_ALL (R679). -/
def execLockAll (ini : Initiator) (s : State) : Out := .next (s.windowWrite ini Reg.GLOBAL_CTRL 2)

/-- SNAP (R69). -/
def execTimeSnap (ini : Initiator) (s : State) : Out := .next (s.windowWrite ini Reg.TIME_CTRL 2)

/-- TIME_SET_GO (R84, R104). -/
def execTimeSetGo (ini : Initiator) (s : State) : Out := .next (s.windowWrite ini Reg.TIME_CTRL 4)

/-- PORT_SPEED_WRITE (R113). -/
def execPortSpeedWrite (ini : Initiator) (port : Fin 8) (data : Word) (s : State) : Out :=
  .next (s.windowWrite ini (Reg.PORT_CFG port.val) data)

/-- FDB_FLUSH (R119). -/
def execFdbFlush (ini : Initiator) (s : State) : Out := .next (s.windowWrite ini Reg.PORT_CTRL 2)

/-- INGEST_FLUSH (R156). -/
def execIngestFlush (ini : Initiator) (mask : BitVec 8) (s : State) : Out := .next (s.windowWrite ini Reg.INGEST_CTRL (nw mask.toNat))

/-- WM_HI_SEEN_CLEAR (R157). -/
def execWmHiSeenClear (ini : Initiator) (mask : BitVec 8) (s : State) : Out := .next (s.windowWrite ini Reg.INGEST_EVENTS (nw mask.toNat))

/-- REKEY_ALL (R204). -/
def execRekeyAll (ini : Initiator) (s : State) : Out := .next (s.windowWrite ini Reg.POD_CTRL 1)

/-- MARGIN_RESET (R265). -/
def execMarginReset (ini : Initiator) (s : State) : Out := .next (s.windowWrite ini Reg.COMMIT_CTRL 2)

/-- ESCAPE_EVENT_CLEAR (R321). -/
def execEscapeEventClear (ini : Initiator) (mask : BitVec 20) (s : State) : Out := .next (s.windowWrite ini Reg.ESCAPE_EVENTS (nw mask.toNat))

/-- RELEASE_CAPTURES (R373): of TENSOR_MOVER, SOLVER, MEMORY or SAFETY; no other block has the bit. -/
def execReleaseCaptures (ini : Initiator) (block : Fin 19) (s : State) : Out :=
  match block.val with
  | 8 | 12 | 14 => .next (s.windowWrite ini (ctrlOf block.val) 2)
  | 9 => .next (s.windowWrite ini Reg.SOLVER_CTRL 4)
  | _ => .next s

/-- COLD_ALL (R406). -/
def execColdAll (ini : Initiator) (s : State) : Out := .next (s.windowWrite ini Reg.SOLVER_CTRL 2)

/-- SLOT_CTRL.LOAD (R424, R425). -/
def execSlotLoad (ini : Initiator) (s : State) : Out := .next (s.windowWrite ini Reg.SLOT_CTRL 2)

/-- SLOT_CTRL.CANCEL (R446). -/
def execSlotCancel (ini : Initiator) (s : State) : Out := .next (s.windowWrite ini Reg.SLOT_CTRL 4)

/-- EVALUATE (R454). -/
def execPlaceEvaluate (ini : Initiator) (s : State) : Out := .next (s.windowWrite ini Reg.PLACE_CTRL 2)

/-- SCRUB_NOW (R500). -/
def execScrubNow (ini : Initiator) (s : State) : Out := .next (s.windowWrite ini Reg.MEM_CTRL 4)

/-- RETRY (R531). -/
def execPeerRetry (ini : Initiator) (mask : BitVec 6) (s : State) : Out := .next (s.windowWrite ini Reg.PEER_CTRL (nw (mask.toNat * 256)))

/-- REFRESH_MIRROR (R561). -/
def execRefreshMirror (ini : Initiator) (s : State) : Out := .next (s.windowWrite ini Reg.PEER_CTRL 4)

/-- CHIP_COORD_WRITE (R532, R678). -/
def execChipCoordWrite (ini : Initiator) (data : Word) (s : State) : Out := .next (s.windowWrite ini Reg.CHIP_COORD data)

/-- RESUME (R611). -/
def execSafetyResume (ini : Initiator) (s : State) : Out := .next (s.windowWrite ini Reg.SAFETY_CTRL 8)

/-- FORCE_HOLD (R605). -/
def execForceHold (ini : Initiator) (s : State) : Out := .next (s.windowWrite ini Reg.SAFETY_CTRL 4)

/-- FAULT_CLEAR (R585, R586). -/
def execFaultClear (ini : Initiator) (data : Word) (s : State) : Out := .next (s.windowWrite ini Reg.FAULT_CLEAR data)

/-- HQ_CTRL.FLUSH (R639). -/
def execHqFlush (ini : Initiator) (s : State) : Out := .next (s.windowWrite ini Reg.HQ_CTRL 2)

/-- CPL_CTRL.ENABLE (R699). -/
def execCplEnable (ini : Initiator) (on : Bool) (s : State) : Out := .next (s.windowWrite ini Reg.CPL_CTRL (nw (b2n on)))

/-- CPL_HEAD (R651). -/
def execCplHeadWrite (ini : Initiator) (data : Word) (s : State) : Out := .next (s.windowWrite ini Reg.CPL_HEAD data)

/-- RING_CTRL.ENABLE (R654, R699). -/
def execRingEnable (ini : Initiator) (on : Bool) (s : State) : Out := .next (s.windowWrite ini Reg.RING_CTRL (nw (b2n on)))

/-- RING_READ (R672, R699): its _LO word is written first, then its _HI word. -/
def execRingReadWrite (ini : Initiator) (data : BitVec 64) (s : State) : Out :=
  .next ((s.windowWrite ini Reg.RING_READ_LO (nw data.toNat)).windowWrite ini Reg.RING_READ_HI (nw (data.toNat / 2 ^ 32)))

/-- OUT_POST (R692). -/
def execOutPost (ini : Initiator) (s : State) : Out := .next (s.windowWrite ini Reg.MBOX_CTRL 2)

/-- IN_ACK (R689). -/
def execInAck (ini : Initiator) (s : State) : Out := .next (s.windowWrite ini Reg.MBOX_CTRL 1)

/-- ADVANCE_FW (R717). -/
def execAdvanceFw (ini : Initiator) (s : State) : Out := .next (s.windowWrite ini Reg.SEC_CTRL 8 (some {}))

/-- ADVANCE_IMAGE (R717, R718); `ok` says whether the keeper write succeeds. -/
def execAdvanceImage (ini : Initiator) (ok : Bool) (s : State) : Out :=
  .next (s.windowWrite ini Reg.SEC_CTRL 16 (some { keeperOk := ok }))

/-- CHALLENGE (R731, R733). -/
def execDebugChallenge (ini : Initiator) (random : BitVec 256) (s : State) : Out :=
  .next (s.windowWrite ini Reg.SEC_CTRL 2 (some { random := random }))

/-- UNLOCK (R731 to R733). -/
def execDebugUnlock (ini : Initiator) (certOk sigOk : Bool) (s : State) : Out :=
  .next (s.windowWrite ini Reg.SEC_CTRL 4 (some { certOk := certOk, sigOk := sigOk }))

/-- FUSE_CTRL.PROGRAM (R721). -/
def execFuseProgram (ini : Initiator) (s : State) : Out := .next (s.windowWrite ini Reg.FUSE_CTRL 2)

/-- Programming ends with its read-back (R721, R733). -/
def execFuseProgramDone (ok : Bool) (s : State) : Out := .next (s.programDone ok)

/-- MARROW_FORGET (R758). -/
def execMarrowForget (ini : Initiator) (s : State) : Out := .next (s.windowWrite ini Reg.POWER_CTRL 2)

end Sys2Proof.Machine
end

