-- ==== Sys2Proof/Machine/Boot.lean ====
section
/-! DEFINITION. Reset, boot, attestation, the mailbox and SMBus: what the commands of Bring-up, straps and security do
(R88, R96, R564, R612, R703 to R730, R778). -/

namespace Sys2Proof

/-- Entries of the fault and spare map as lists of numbers (R722, R741). -/
def Keeper.mapRows (k : Keeper) : List (List Nat) :=
  k.faults.map (fun (x : Nat × Nat) => [x.1, x.2]) ++
    k.repairs.map (fun (x : Nat × Repair) => [x.1, b2n x.2.column, x.2.bank, x.2.line]) ++
    k.remaps.map (fun (x : Nat × Nat) => [x.1, x.2])

/-- The fields that FUSE_STRAP can read, in the order of R719 (R722). -/
def Fuses.readable (f : Fuses) : List Byte :=
  leBytes 64 f.rootHash.toNat ++ leBytes 8 f.serial.toNat ++ leBytes 4 f.customer.toNat ++ leBytes 16 f.rollback.toNat ++
    leBytes 1 (b2n f.killed)

/-- Whether the form of a firmware slot of `n` bytes keeps R708 and R709: its header, and the places of its certificate and signature. -/
def fwForm (b : List Byte) (n : Nat) : Bool :=
  let size := leAt b 4 4
  let cert := leAt b 16 4
  let sig := leAt b 20 4
  decide (leAt b 0 4 = 0x46575A58 ∧ size ≤ 131072 ∧ leAt b 8 4 ≤ 128 ∧ 64 + size ≤ cert ∧ cert + 30048 ≤ sig ∧ sig + 29792 ≤ min n 0x40000)

end Sys2Proof

namespace Sys2Proof.Machine

open Sys2Proof

/-! ### Reset -/

/-- RESET_RELEASE (R703, R705): RESET_N rises while PWR_OK is high. `refB` says whether REFCLK_B is fitted. -/
def execResetRelease (straps : BitVec 12) (refB : Bool) (s : State) : Out :=
  if s.resetN ∨ ¬ s.pwrOk then .next s else .next (s.releaseReset straps refB)

/-- PWR_OK_LOSS (R778): the part resets as though RESET_N had fallen. -/
def execPwrOkLoss (s : State) : Out := .next { s.inReset with pwrOk := false }

/-- RESET_ASSERT (R778): RESET_N falls; a save in progress ends with COMPLETE clear, since its start cleared it. -/
def execResetAssert (s : State) : Out := .next s.inReset

/-- PWR_OK_RISE (R612): FAULT_N is driven, asserted until IN_SERVICE. -/
def execPwrOkRise (s : State) : Out := .next { s with pwrOk := true }

/-! ### Boot -/

/-- BOOT_STEP_END (R705 to R711). -/
def execBootStepEnd (o : BootObs) (s : State) : Out :=
  if ¬ s.up ∨ s.boot.stopped ∨ s.inServ ∨ s.saved then .next s else .next (s.endStep o)

/-- Boot step 11 begins: the part enters service unless it waits for a seed (R564, R705). -/
def State.beginStep11 (s : State) : State := if s.seedWaits then s.stepTo 11 else s.enterService

/-- LOCK_TIMEOUT (R88): boot step 10 has lasted 10 s without LOCKED. -/
def execLockTimeout (s : State) : Out :=
  if s.up ∧ ¬ s.saved ∧ s.boot.step = 10 ∧ s.tl.servo ≠ .locked ∧ s.boot.stepAt + 10 * cyclesS ≤ s.now then
    .next (s.raise Reg.TIME_EVENTS 12).beginStep11
  else .next s

/-- IN_SERVICE (R96, R705). -/
def execInService (s : State) : Out :=
  if s.up ∧ ¬ s.saved ∧ s.boot.step = 11 ∧ ¬ s.inServ ∧ ¬ s.seedWaits then .next s.enterService else .next s

/-- SEED_TIMEOUT (R564): the seed has not come within SEED_TIMEOUT; it is abandoned. -/
def execSeedTimeout (s : State) : Out :=
  if s.up ∧ ¬ s.saved ∧ s.seedWaits ∧ s.peers.seedAt + s.rbits Reg.SEED_CFG 15 0 * cyclesMs ≤ s.now then
    let s1 := (s.onPeers (fun p => { p with lateSeed := true })).raise Reg.PEER_EVENTS 4
    .next (if s1.boot.step = 11 ∧ ¬ s1.inServ then s1.enterService else s1)
  else .next s

/-! ### Attestation (R722 to R724) -/

/-- The first 512 bytes of a report: its measurements, taken now, under ATTEST_COUNT `n` (R722). -/
def State.reportBytes (s : State) (nonce : List Word) (n : Nat) : List Byte :=
  let flags := b2n s.boot.unlocked + 2 * b2n s.fuses.killed + 4 * b2n (decide (s.boot.failCode ≠ 0)) + 8 * b2n s.boot.idCert
  let fw := (List.range 16).flatMap (fun i => leBytes 4 (s.rget (Reg.FW_DIGEST i)).toNat)
  let image := match s.live with | some i => i.digest | none => 0
  leBytes 4 0x54415A58 ++ leBytes 2 0x2016 ++ leBytes 1 0xA1 ++ leBytes 1 flags ++ leBytes 8 s.fuses.serial.toNat ++
    leBytes 64 (leNat (nonce.flatMap (fun w => leBytes 4 w.toNat))) ++ fw ++ leBytes 64 image ++
    shake256 64 (Config.mapBytes s.keeper.mapRows) ++ shake256 64 s.fuses.readable ++
    leBytes 4 s.boot.fwSecurity ++ leBytes 4 (s.rget Reg.LIVE_SECURITY_VERSION).toNat ++ leBytes 4 s.fuses.fwMin ++
    leBytes 4 s.keeper.imageMin ++ leBytes 8 s.tl.beat ++ leBytes 2 s.tl.epoch.toNat ++ leBytes 1 s.safety.state.code ++ [0] ++
    leBytes 4 n ++ List.replicate 144 0

/-- Signing of the oldest report begins (R724): its measurements are taken and its count consumed. -/
def State.beginReport (s : State) : State :=
  match s.host.attests with
  | [] => s
  | j :: rest =>
    let n := s.keeper.attestCount + 1
    let k : AttestJob := { j with count := n, measures := s.reportBytes j.nonce n }
    (s.onKeeper (fun x => { x with attestCount := n })).onHost (fun h => { h with attests := k :: rest })

/-- Bytes of a report (R722). -/
def reportSize : Nat := 80416

/-- The whole report: measurements, their signature, and ID_CERT or zeros. -/
def State.wholeReport (s : State) (j : AttestJob) : List Byte :=
  let sig := Config.signature j.measures
  let cert := cread s.flash 0x80000 30048
  j.measures ++ (sig ++ List.replicate 49856 0).take 49856 ++
    (if leAt cert 0 4 = 0x43525A58 then cert else List.replicate 30048 0)

/-- The oldest report is written and its command completes (R724). -/
def State.endReport (s : State) (j : AttestJob) : State :=
  match s.winFor 1 j.window true with
  | some w =>
    if reportSize ≤ w.pages * 4096 then ((s.hwrite w.base (s.wholeReport j)).raise Reg.SEC_EVENTS 2).complete 1 j.id 0 reportSize j.count
    else ((s.xlateCapture true 0x08 30 0).hqRaise 1 5 3).complete 1 j.id 2 0 0
  | none => ((s.xlateCapture true 0x08 30 0).hqRaise 1 5 3).complete 1 j.id 2 0 0

/-- ATTEST (R724, R644): PF1 only. -/
def execHostAttest (fn : Fin 2) (s : State) : Out :=
  .next (s.actItem fn.val 8 (some 1) (fun t id i =>
    let j : AttestJob := { id := id, window := i.word 0, nonce := (i.payload.drop 1).take 16 }
    let t1 := (t.onTaken fn.val id (fun x => { x with windows := [i.word 0] })).onHost (fun h => { h with attests := h.attests ++ [j] })
    if t.host.attests.isEmpty then t1.beginReport else t1))

/-- ATTEST_COMPLETE (R724): signing ends, and the next report's begins. -/
def execAttestComplete (s : State) : Out :=
  match s.host.attests with
  | [] => .next s
  | j :: rest => .next ((s.endReport j).onHost (fun h => { h with attests := rest })).beginReport

/-! ### Telemetry, mailbox and SMBus (R725 to R730) -/

/-- The 16 bytes of TELEMETRY (R727): DIE_TEMP, package power, VDD_CORE, VDD_SRAM and SAFETY_STATUS. -/
def State.telemetry (s : State) : List Byte :=
  let mv := fun i => (lgetD s.power.rails i (0, 0)).2
  leBytes 4 (s.regValue 0 Reg.DIE_TEMP).toNat ++ leBytes 4 s.power.milliwatts ++ leBytes 2 (mv 0) ++ leBytes 2 (mv 1) ++
    leBytes 4 (s.regValue 0 Reg.SAFETY_STATUS).toNat

/-- Words of a reply in MBOX_IN from word 1 on. -/
def State.replyWords (s : State) (ws : List Nat) : State :=
  lfoldIdx (fun (t : State) i w => t.rset (Reg.MBOX_IN (i + 1)) (nw w)) s 0 ws

/-- A reply is posted (R689, R730): the message leaves OUT, IN fills. -/
def State.reply (s : State) (status : Nat) : State :=
  let cmd := wbits (s.rget (Reg.MBOX_OUT 0)) 7 0
  (((s.rset (Reg.MBOX_IN 0) (nw (cmd + status * 256))).onBoot (fun b => { b with mboxBusy := false, mboxFull := true })).raise
    Reg.GLOBAL_EVENTS 2).raise Reg.GLOBAL_EVENTS 1

/-- The management controller takes the posted message, where its command is `cmd`; one it does not know is answered 0xFF whichever row
stands for it (log entry 28). -/
def State.answer (s : State) (cmd : Nat) (act : State → State) : State :=
  let c := wbits (s.rget (Reg.MBOX_OUT 0)) 7 0
  if ¬ s.up ∨ ¬ s.boot.mboxBusy ∨ s.boot.mboxFull ∨ s.power.stopped then s
  else if c = cmd then act s
  else if c = 0 ∨ 3 < c then s.reply 0xFF
  else s

/-- TELEMETRY of the mailbox (R730). -/
def execMboxTelemetry (s : State) : Out :=
  .next (s.answer 1 (fun t => (t.replyWords ((List.range 4).map (fun i => leAt t.telemetry (4 * i) 4))).reply 0))

/-- BOOT_TIMES (R730). -/
def execMboxBootTimes (s : State) : Out :=
  .next (s.answer 2 (fun t => (t.replyWords ((List.range 7).map (fun i => min (mgetD t.boot.times (i + 3) 0 / cyclesUs) 0xFFFFFFFF))).reply 0))

/-- FW_WRITE (R708 to R710, R730): `c` gives what the checks of the certificate and of the signature answer. -/
def State.fwWrite (s : State) (c : SlotCheck) : State :=
  let slot := (s.rget (Reg.MBOX_OUT 1)).toNat
  let n := (s.rget (Reg.MBOX_OUT 2)).toNat
  let b := s.dread 2 0xFFFE 0 (min n 0x40000)
  let cert := lsub b (leAt b 16 4) 30048
  if slot ≤ 1 ∧ slot ≠ s.boot.fwSlot ∧ n ≤ 0x40000 ∧ fwForm b n ∧ certOk cert 1 s.fuses ∧ c.cert ∧ c.sig ∧
      s.fuses.fwMin ≤ leAt b 8 4 then
    { s with flash := cwrite s.flash (slot * 0x40000) b }.reply 0
  else s.reply 1

/-- FW_WRITE (R710, R730). -/
def execMboxFwWrite (c : SlotCheck) (s : State) : Out := .next (s.answer 3 (fun t => t.fwWrite c))

/-- Whether SMBus commands other than Receive Byte are accepted (R706, R727, R751). -/
def State.smbOpen (s : State) : Bool := s.reaches .management && decide (8 ≤ s.boot.step)

/-- Whether the privileged accesses of SMBus are served (R728). -/
def State.smbPriv (s : State) : Bool := !s.boot.straps.getLsbD 0 || s.rbit Reg.SMB_CFG 0

/-- RECEIVE_BYTE (R726). -/
def execSmbReceiveByte (s : State) : Out :=
  if ¬ s.up then .next s
  else
    let v := b2n s.inServ * 128 + b2n (decide (s.boot.failCode ≠ 0)) * 64 + s.boot.step % 16 * 4 + s.safety.state.code
    .next (s.send (.smbus (leBytes 1 v)))

/-- The register that an offset names, by itself or through an alias word (R685). -/
def regNamed (off : Nat) : Nat := match aliasOf off with | some (r, _) => r | none => off

/-- Whether the register at an offset is read-privileged (R682, R688). -/
def readPrivileged (off : Nat) : Bool :=
  let c := canonReg .management (regNamed off)
  let d := findReg c.2.1
  c.2.2 || (match d with | some x => x.rp | none => false)

/-- The word that a read of SMBus returns, judged as one of initiator 0x02 (R662, R667, R725). -/
def State.smbRead (s : State) (o : Nat) : State × Word :=
  if o % 4 = 0 then s.readValue .management o [true, true, true, true]
  else if ¬ s.fwOpen 0 false 0x02 o 4 then (s.deny false 0x02 0 o, 0)
  else (s.late 0x02 o 4, 0xFFFFFFFF)

/-- READ_REG (R727, R728): read as initiator 0x02 (R725). -/
def execSmbReadReg (off : BitVec 32) (s : State) : Out :=
  let o := off.toNat
  if ¬ s.up then .next s
  else if ¬ s.smbOpen ∨ (readPrivileged o ∧ ¬ s.smbPriv) then .next (s.send .smbNack)
  else
    let r := s.smbRead o
    .next (r.1.send (.smbus (leBytes 4 r.2.toNat)))

/-- WRITE_REG (R725, R727, R728). -/
def execSmbWriteReg (off : BitVec 32) (data : Word) (pecOk : Bool) (s : State) : Out :=
  let o := off.toNat
  if ¬ s.up then .next s
  else if ¬ s.smbOpen then .next (s.send .smbNack)
  else if ¬ s.smbPriv then .next ((s.late 0x02 o 3).send .smbNack)
  else if ¬ pecOk ∨ regNamed o / 0x100000 = 16 ∨ regNamed o / 0x100000 = 18 then .next (s.send .smbNack)
  else .next (s.writeAccess .management o ((leBytes 4 data.toNat).map some))

/-- TELEMETRY of SMBus (R727). -/
def execSmbTelemetry (s : State) : Out :=
  if ¬ s.up then .next s else if s.smbOpen then .next (s.send (.smbus s.telemetry)) else .next (s.send .smbNack)

/-- SERIAL (R727). -/
def execSmbSerial (s : State) : Out :=
  if ¬ s.up then .next s else if s.smbOpen then .next (s.send (.smbus (leBytes 8 s.fuses.serial.toNat))) else .next (s.send .smbNack)

/-- The conditions of SMB_ALERT_N that are present (R729): FAULT_N asserted, THERMAL_WARN 1. -/
def State.alertNow (s : State) : BitVec 2 := BitVec.ofNat 2 (b2n s.faultN + 2 * b2n (s.rbit Reg.GLOBAL_EVENTS 3))

/-- SMB_ALERT_N asserted (R729): some condition is present that no response has answered. -/
def State.alerting (s : State) : Bool := decide (s.alertNow &&& ~~~ s.safety.alertHeld ≠ 0)

/-- A condition that has gone from absent to present asserts SMB_ALERT_N again (R729). -/
def State.alertBeat (s : State) : State := s.onSafety (fun x => { x with alertHeld := x.alertHeld &&& s.alertNow })

/-- ALERT_RESPONSE (R729): the part's address, and SMB_ALERT_N is released. -/
def execSmbAlertResponse (s : State) : Out :=
  if s.up ∧ s.smbOpen ∧ s.alerting then
    .next ((s.onSafety (fun x => { x with alertHeld := s.alertNow })).send
      (.smbus (leBytes 1 (2 * (if s.boot.straps.getLsbD 11 then 0x4B else 0x4A)))))
  else .next s

end Sys2Proof.Machine
end

