-- ==== Sys2Proof/Machine/Peer.lean ====
section
/-! DEFINITION. Commands of the peer links (R521 to R564). -/

namespace Sys2Proof.Machine

open Sys2Proof

/-- PEER_SIGNAL_DETECT (R531): signal on an enabled port in DOWN begins training; loss of signal takes a port out of UP. -/
def execPeerSignalDetect (p : Fin 6) (present : Bool) (s : State) : Out :=
  let st := (s.peer p.val).state
  if ¬ s.up then .next s
  else if present then
    if st = .down ∧ s.rbit (Reg.PEER_CFG p.val) 0 then .next (s.onPeer p.val (fun q => { q with state := .training })) else .next s
  else if st = .up then .next (s.linkDown p.val .down)
  else .next s

/-- Lanes of a port retired for good (R524, R539). -/
def State.laneGone (s : State) (p l : Nat) : Bool :=
  s.marked 3 (p * 8 + l) || decide (lgetD (s.peer p).rxModes l .down = .retired)

/-- PEER_TRAINING_DONE (R531, R539): a lane whose training fails is a permanent fault; four or more trained lanes take the port to
ALIGNING with their slots assigned. -/
def execPeerTrainingDone (p : Fin 6) (ok : BitVec 5) (s : State) : Out :=
  if (s.peer p.val).state ≠ .training then .next s
  else
    let bad := (List.range 5).filter (fun l => !ok.getLsbD l && !s.laneGone p.val l)
    let s1 := bad.foldl (fun (t : State) l => (t.declare 3 (p.val * 8 + l) 0 none false).raise Reg.PEER_EVENTS (18 + p.val)) s
    let gone := fun l => s.laneGone p.val l || !ok.getLsbD l
    let rx := assignLanes (fun l => !gone l) gone
    let txGone := fun l => gone l || decide (lgetD (s.peer p.val).txModes l .down = .retired)
    let s2 := s1.onPeer p.val (fun q => (q.setRx rx).setTx (assignLanes (fun l => !txGone l) txGone))
    if ((List.range 5).filter (fun l => !gone l)).isEmpty then .next (s2.retirePort p.val)
    else if 4 ≤ ((List.range 5).filter (fun l => !gone l)).length then .next (s2.onPeer p.val (fun q => { q with state := .aligning }))
    else .next s2

/-- PEER_ALIGNED (R531): every active lane has locked. -/
def execPeerAligned (p : Fin 6) (s : State) : Out :=
  if (s.peer p.val).state = .aligning then .next (s.onPeer p.val (fun q => { q with state := .hello })) else .next s

/-- HELLO_SEND (R531, R532). -/
def execHelloSend (p : Fin 6) (s : State) : Out :=
  if (s.peer p.val).state = .hello ∧ s.linkReady then .next (s.sendLink p.val (.hello (s.helloBody p.val))) else .next s

/-- HELLO (R531 to R534). -/
def execHelloFlit (p : Fin 6) (h : FlitHead) (b : HelloBody) (s : State) : Out :=
  .next (s.recvLink p.val h true (fun t => if t.linkReady then t.hello p.val b else t))

/-- UPDATE (R531, R534, R535). -/
def execUpdateFlit (p : Fin 6) (h : FlitHead) (b : HelloBody) (s : State) : Out :=
  .next (s.recvLink p.val h true (fun t => if t.linkReady then t.update p.val b else t))

/-- The peer retires a lane that the part transmits on (R540, R541). -/
def State.swapLane (s : State) (p l : Nat) : State :=
  let q := s.peer p
  if ¬ (lgetD q.txModes l .down).isActive then s
  else
    let ms := retireMode q.txModes l
    let s1 := s.onPeer p (fun x => x.setTx ms)
    let s2 := if q.txModes.any (fun m => decide (m = .spare)) then s1 else s1.raise Reg.PEER_EVENTS 1
    if ms.any LaneMode.isActive then s2 else s2.retirePort p

/-- LANE_SWAP (R540). The flits before `first` keep the old lane; the link layer restores their order (R525, R529). -/
def execLaneSwapFlit (p : Fin 6) (h : FlitHead) (lane : Fin 5) (_first : BitVec 12) (s : State) : Out :=
  .next (s.recvLink p.val h true (fun t => t.swapLane p.val lane.val))

/-- SEED_REQ (R562). -/
def execSeedReqFlit (p : Fin 6) (h : FlitHead) (s : State) : Out :=
  .next (s.recvLink p.val h true (fun t => if (t.peer p.val).state = .up then t.seedSet p.val else t))

/-- REFRESH_REQ (R561). -/
def execRefreshReqFlit (p : Fin 6) (h : FlitHead) (s : State) : Out :=
  .next (s.recvLink p.val h true (fun t => if (t.peer p.val).state = .up then t.refreshSet p.val else t))

/-- TIME_FLIT_SEND (R78, R543): once in each block of 64 beats on a port that is UP. -/
def execTimeFlitSend (p : Fin 6) (count : BitVec 64) (phase : Fin 8) (s : State) : Out :=
  let q := s.peer p.val
  if ¬ s.up ∨ q.state ≠ .up ∨ q.timeBlock = some (s.tl.beats / 64) then .next s
  else
    .next ((s.sendLink p.val (.time (s.timeBody p.val))).onPeer p.val (fun x => { x with
      timeBlock := some (s.tl.beats / 64), timeSeq := q.timeSeq + 1, timeTx := ((q.timeSeq, count.toNat * 8 + phase.val) :: x.timeTx).take 4 }))

/-- TIME_FLIT (R77, R92, R544, R546). -/
def execTimeFlit (p : Fin 6) (h : FlitHead) (b : TimeBody) (count : BitVec 64) (phase : Fin 8) (s : State) : Out :=
  .next (s.recvLink p.val h false (fun t => if (t.peer p.val).state = .up then t.takeTime p.val b (count.toNat * 8 + phase.val) else t))

/-- NAK (R529, R530). -/
def execNakFlit (p : Fin 6) (h : FlitHead) (s : State) : Out :=
  .next (s.recvLink p.val h false (fun t =>
    if (t.peer p.val).state = .up ∧ (t.peer p.val).replay ≠ [] then (t.bump (Reg.REPLAYS p.val)).replayAll p.val else t))

/-- REPLAY_TIMEOUT (R529, R530): the ACK has not advanced for 10 µs. -/
def execReplayTimeout (p : Fin 6) (s : State) : Out :=
  let q := s.peer p.val
  if q.state = .up ∧ q.replay ≠ [] ∧ q.ackAt + 10 * cyclesUs ≤ s.now then .next ((s.bump (Reg.REPLAY_TIMEOUTS p.val)).replayAll p.val)
  else .next s

/-- LANE_LOCK_LOSS (R539): more than 1 ms without codeword lock, while the other active lanes keep theirs. -/
def execLaneLockLoss (p : Fin 6) (lane : Fin 5) (s : State) : Out :=
  let q := s.peer p.val
  let m := lgetD q.rxModes lane.val .down
  if s.linked p.val ∧ (m.isActive ∨ m = .spare) then .next (s.retireLane p.val lane.val) else .next s

/-- PORT_DOWN (R531, R537): loss of all active lanes, or of signal. -/
def execPortDown (p : Fin 6) (s : State) : Out :=
  if (s.peer p.val).state = .up then .next (s.linkDown p.val .down) else .next s

/-- COMMIT_FLIT (R547, R548). -/
def execCommitFlit (p : Fin 6) (h : FlitHead) (records : List SentRecord) (s : State) : Out :=
  .next (s.recvFlit p.val h 0 (fun t => records.foldl (fun (u : State) r => u.peerRecord p.val r) t))

/-- PEA_FLIT (R181, R550, R551). In SAFE_HOLD peers carry no pea (R608). -/
def execPeaFlit (p : Fin 6) (h : FlitHead) (b : PeaBody) (s : State) : Out :=
  .next (s.recvFlit p.val h 1 (fun t =>
    if t.hold then t else b.peas.foldl (fun (u : State) q => u.peerPea p.val b.frame b.hops (u.pairEpoch p.val b.epoch) q) t))

/-- WRITE_FLIT (R553 to R556). -/
def execWriteFlit (p : Fin 6) (h : FlitHead) (dest : BitVec 14) (b : WriteBody) (s : State) : Out :=
  .next (s.recvFlit p.val h 2 (fun t => if t.coordNat = some dest.toNat then t.remoteWrite p.val b else (t.sendWrite dest.toNat b).1))

/-- MIRROR_FLIT (R559, R560). -/
def execMirrorFlit (p : Fin 6) (h : FlitHead) (entries : List MirrorEntry) (s : State) : Out :=
  .next (s.recvFlit p.val h 3 (fun t => t.mirrorFrom p.val entries))

/-- SEED_FLIT (R562 to R564). -/
def execSeedFlit (p : Fin 6) (h : FlitHead) (entries : List MirrorEntry) (s : State) : Out :=
  .next (s.recvFlit p.val h 3 (fun t => entries.foldl (State.seedEntry p.val) t))

/-- MIRROR_LAG (R560): a mirror set not complete within 4 frames of its boundary. -/
def execMirrorLag (s : State) : Out :=
  if s.peers.sets.any (fun m => s.setWaiting m && decide (m.due + 4 ≤ s.tl.frames)) then .next (s.raise Reg.PEER_EVENTS 3) else .next s

/-- PEER_SERDES_PLL_LOSS (R541): a SerDes PLL that fails to relock within 10 ms retires its port. -/
def execPeerSerdesPllLoss (p : Fin 6) (relocked : Bool) (s : State) : Out :=
  if s.up ∧ ¬ relocked then .next (s.retirePort p.val) else .next s

end Sys2Proof.Machine
end

