-- ==== Sys2Proof/Machine/Beat.lean ====
section
/-! DEFINITION. The beat boundary (R65 to R72, R159, R240, R245 to R260, R263, R605). -/

namespace Sys2Proof.Machine

open Sys2Proof

/-- Counts that hold for one beat begin again (R189, R240, R260), and destinations enabled in the beat before begin (R654). -/
def State.freshBeat (s : State) : State :=
  (s.onCom (fun c => { c with
    applied := 0, entriesRead := 0, readKeys := [], unvBeat := false
    dests := c.dests.map (fun d => if d.starting then { d with on := true, starting := false } else d) })).onStore
    (fun p => { p with redone := 0 })

/-- TRACK_POS of every valid track (R228): where the version current at this beat puts it; it stays where no version covers the beat. -/
def State.trackBeat (s : State) : State :=
  let get := fun n => s.store.versionAt n s.tl.beats
  let step := fun (m : Map (Int × Int × Int)) (v : Nat × List Published) =>
    match compositePose get v.1 (s.tl.beat * 64) with
    | some q => mset m v.1 (poseRound (lgetD q.trans 0 0), poseRound (lgetD q.trans 1 0), poseRound (lgetD q.trans 2 0))
    | none => m
  s.onStore (fun p => { p with trackPos := p.versions.foldl step p.trackPos })

/-- What every unit does at a beat message (R72, R73), once the beat that ended is published. -/
def State.unitsBeat (s : State) : State :=
  ((((((s.freshBeat.budgetBeat).trackBeat).ringBeat).dumpBeat).pumpPeers 196).restoreTracks).alertBeat

/-- Whether a beat boundary can come: a root PLL runs, no save has stopped the part, and no frame boundary is outstanding. -/
def State.beatOpen (s : State) : Bool :=
  s.up && s.roots.any (fun r => decide (r.state = .running)) && !s.saved && !s.tl.frameDue

/-- The beat boundary: the beat that ends is published under its own number and epoch (R94, R245), and the boundary records of an
ordinary beat are queued; those of a frame boundary follow its steps (R256, R263). -/
def State.passBeat (s : State) : State :=
  let s1 := s.advanceBeat.formCommits s.tl.beats s.tl.beat s.tl.epoch.toNat
  let s2 := if s1.tl.frameDue then s1 else s1.queueSlot
  s2.unitsBeat.evalSafety

/-- BEAT_BOUNDARY (R70, R72). -/
def execBeatBoundary (s : State) : Out := if s.beatOpen then .next s.passBeat else .next s

end Sys2Proof.Machine
end

