-- ==== Sys2Proof/Machine/Checker.lean ====
section
/-! DEFINITION. Commands of the checker slice, the heartbeat and the log writer (R584, R590 to R613). -/

namespace Sys2Proof.Machine

open Sys2Proof

/-- POSE_SAMPLE (R590): at a beat whose index is a multiple of 64, the composite pose of each valid track and the extrinsics;
the last 2048 samples of a track are kept. -/
def execPoseSample (s : State) : Out :=
  if ¬ s.inServ ∨ s.tl.beat % 64 ≠ 0 ∨ s.live.isNone then .next s
  else
    let get := fun n => s.store.versionAt n s.tl.beats
    let poses := s.store.versions.foldl (fun (m : Map (List PoseSample)) (v : Nat × List Published) =>
      match compositePose get v.1 (s.tl.beat * 64) with
      | some p =>
        let old := mgetD m v.1 []
        if old.any (fun q => decide (q.beat = s.tl.beat)) then m else mset m v.1 ((p.sample s.tl.beat :: old).take 2048)
      | none => m) s.safety.poses
    let entries := match s.live with | some i => i.body.sensors | none => []
    let extr := entries.foldl (fun (m : Map Extrinsic) (x : Nat × SensorEntry) => mset m x.1 (mgetD s.store.extrinsics x.1 x.2.extrinsic)) s.safety.extr
    .next (s.onSafety (fun x => { x with poses := poses, extr := extr }))

/-- COMPARISON_COMPLETE (R597, R599, R600): the reads of the main grid end within 256 beats. -/
def execComparisonComplete (s : State) : Out :=
  match s.safety.compare with
  | none => .next s
  | some c => if s.tl.beats < c.ord + 256 then .next (s.finishCompare c) else .next s

/-- COMPARE_SKIPPED (R598): the comparison has not completed within 256 beats of its boundary. -/
def execCompareSkipped (s : State) : Out :=
  match s.safety.compare with
  | none => .next s
  | some c =>
    if c.ord + 256 ≤ s.tl.beats then .next (((s.bump Reg.COMPARE_SKIPPED).raise Reg.SAFETY_EVENTS 5).notCompared) else .next s

/-- RECHECK_END (R603, values 1 to 4): `differs` names the engines whose recomputed increments differ by more than
RECHECK_TOL. -/
def execRecheckEnd (slot : Fin 8) (differs : List (Fin 20)) (s : State) : Out :=
  match lgetD s.safety.decls slot.val none with
  | none => .next s
  | some d => if d.phase = .rechecking then .next (s.endRecheck slot.val d (differs.map (fun e => e.val))) else .next s

/-- RECHECK_TIMEOUT (R603, values 3 and 5): the boundary into frame f + 4 comes before the recheck ends. -/
def execRecheckTimeout (slot : Fin 8) (s : State) : Out :=
  let i := slot.val
  match lgetD s.safety.decls i none with
  | none => .next s
  | some d =>
    if ¬ (d.phase = .declared ∨ d.phase = .rechecking) ∨ s.tl.frames < d.bornAt + 3 then .next s
    else
      let s0 := if d.phase = .rechecking then s.endRecheckShadow d.engine else s
      let rep := s.repeaters d
      if ¬ rep.isEmpty then .next (s0.checkerRetire i d 3 rep)
      else
        let s1 := ((s0.bump Reg.RECHECK_TIMEOUTS).raise Reg.SAFETY_EVENTS 8).logChecker d.frame 5 d.engines d.box
        .next (s1.onSafety (fun x => { x with decls := lput x.decls i (some { d with phase := .awaitClean, outcome := 5 }) }))

/-- HEARTBEAT_STOP (R610): UNVERIFIED for more than UNV_LIMIT frames. -/
def execHeartbeatStop (s : State) : Out :=
  match s.safety.unvSince with
  | some b =>
    if s.inServ ∧ s.safety.state = .unverified ∧ ¬ s.safety.hbStopped ∧ s.rbits Reg.SAFETY_CFG 7 0 * 1024 < s.tl.beats - b then .next s.stopHeartbeat
    else .next s
  | none => .next s

/-- HEARTBEAT_TOGGLE (R609): SAFE_A and SAFE_B toggle in antiphase while the heartbeat runs. -/
def execHeartbeatToggle (s : State) : Out :=
  if s.safety.hbRun then .next (s.onSafety (fun x => { x with safeA := !x.safeA, safeB := x.safeA })) else .next s

/-- KEEPER_RECORD_WRITE (R584, R613, R614): the oldest record of the on-chip shadow is appended to the log with the next
RECORD_SEQ, or the write fails and the record stays. -/
def execKeeperRecordWrite (ok : Bool) (s : State) : Out :=
  match s.safety.waiting with
  | [] => .next s
  | r :: rest =>
    if ¬ ok then .next s.keeperFail
    else
      let n := s.keeper.logSeq + 1
      .next { s with
        keeper := { s.keeper with logSeq := n, log := ({ r with seq := n % 2 ^ 32 } :: s.keeper.log).take 131072 }
        safety := { s.safety with waiting := rest } }

end Sys2Proof.Machine
end

