-- ==== Sys2Proof/Machine/StepOps.lean ====
section
/-! DEFINITION. Step 1 of a frame boundary: a pending backward step takes effect (R86, R90 to R95, R407, R409, R546). -/

namespace Sys2Proof

/-- An epoch pair at the step of target frame `target` to epoch `e` (R546): the own member changes, the neighbour's too where it
announced the same target. -/
def PeerPort.stepPair (q : PeerPort) (target e : Nat) : PeerPort :=
  match q.nb.announced with
  | some (_, t, ne) =>
    if t = target then { q with own := e, nb := { q.nb with epoch := some ne, announced := none } } else { q with own := e }
  | none => { q with own := e }

end Sys2Proof

namespace Sys2Proof.Machine

open Sys2Proof

/-- The step that takes effect at this boundary (R91, R92). -/
def State.stepDue (s : State) : Option TimeStep :=
  match s.tl.step with
  | some x => if x.frame ≤ s.frame then some x else none
  | none => none

/-- Orders 2 and 3 of R94: every layer is sealed, oldest first, and DISCONTINUITY is queued (R252, R266). -/
def State.sealEpoch (s : State) (x : TimeStep) : State :=
  if s.com.layers.isEmpty then s
  else
    let s1 := s.onCom (fun c => { c with layers := [] })
    let s2 := s.com.layers.reverse.foldl (fun (t : State) l => t.sealLayer l (s.frame - l.frame) true) s1
    if s.com.closed ∨ s.live.isNone then s2
    else s2.queueAll { kind := .discontinuity, beat := s.tl.beat - 1, epoch := s.tl.epoch.toNat,
                       aux1 := s.tl.beat - x.beats, aux2 := x.beats % 2 ^ 32 * 65536 + x.epoch % 65536 }

/-- Orders 4 and 5 of R94, with the residual loaded (R86, R87, R93): OFFSET falls by the step, also in the history (R67). -/
def State.stepTime (s : State) (x : TimeStep) : State :=
  let d : Int := (x.beats : Int) * beatUnits
  let hist := match s.tl.hist with
    | h :: l => { h with offset := h.offset - d } :: l
    | [] => []
  let s1 := s.onTl (fun t => { t with
    offset := t.offset - d, hist := hist, beat := t.beat - x.beats, epochFirst := t.beat - x.beats, step := none
    epoch := if s.inServ then BitVec.ofNat 16 x.epoch else t.epoch
    servo := .catchUp, slewTerm := slewLimit, residual := x.residual, residualFrom := t.count.toNat, confirm := 0, holdBase := t.frames })
  let s2 := s1.onTl (fun t => { t with ppsLastSec := some ((s1.fusion - 1) / secUnits) })
  (s2.bump Reg.STEP_COUNT).raise Reg.TIME_EVENTS 0

/-- Order 6 of R94: the current version of every track, its knot times moved back, becomes current. -/
def State.stepVersions (s : State) (x : TimeStep) : State :=
  s.trackVersions.foldl (fun (t : State) (v : Nat × Spline) => t.publishVersion { v.2 with origin := v.2.origin - x.beats } false) s

/-- Times that solver control holds move back by the step (R407, R409). -/
def State.stepSolver (s : State) (x : TimeStep) : State :=
  let e := s.tl.epoch.toNat
  s.onSolver (fun v => { v with
    samples := v.samples.map (fun (y : Nat × List MotionSample) => (y.1, y.2.map (fun m => { m with time := m.time - (x.beats : Int) * beatUnits })))
    warm := v.warm.map (fun (y : Nat × WarmRecord) => (y.1, { y.2 with beat := y.2.beat - x.beats, epoch := e }))
    fast := v.fast.map (fun l => { l with
      beat := l.beat - x.beats
      tracks := l.tracks.map (fun t => { t with formed := t.formed.map (fun w => { w with origin := w.origin - x.beats }) }) }) })

/-- The whole step sequence (R94). -/
def State.takeStep (s : State) (x : TimeStep) : State :=
  let s1 := (s.sealEpoch x).stepTime x
  let s2 := (s1.stepVersions x).stepSolver x
  s2.onPeers (fun p => { p with ports := p.ports.map (fun q => q.stepPair x.frame s2.tl.epoch.toNat) })

/-- What the checker keeps of the epoch that has ended, once the histogram of its last frame `last` is closed (R590, R601). -/
def State.forgetEpoch (s : State) (last : Nat) : State :=
  s.onSafety (fun y => { y with hists := [], poses := [], lowering := y.lowering.filter (fun m => decide (m.frame = last)) })

end Sys2Proof.Machine
end

