-- ==== Sys2Proof/Machine/PlaceOps.lean ====
section
/-! DEFINITION. The placement controller at a frame boundary: replacements, migrations, the shed level, evaluation, radishes
(R58, R60, R423, R434, R454 to R481, R506). -/

namespace Sys2Proof

/-- An engine at the end of a frame: SHADOW_DONE where its shadow ran the whole frame and reached HALT (R322, R470). -/
def Engine.endShadow (g : Engine) : Engine :=
  { g with shadowDone := g.shadowWhole && (match g.shadow with | some c => c.done | none => false) }

/-- A context at the start of a frame: what it notes of a frame begins again; one that reached HALT starts over (R277, R279). -/
def EngCtx.newFrame (c : EngCtx) : EngCtx :=
  { c with halts := [], overran := false, withheld := false, pc := if c.done then 0 else c.pc }

/-- An engine at the start of a frame (R315, R470). -/
def Engine.newFrame (g : Engine) (beats : Nat) : Engine :=
  let beyond := fun (c : Option EngCtx) => match c with | some x => x.done | none => true
  { g with
    live := g.live.map EngCtx.newFrame, shadow := g.shadow.map EngCtx.newFrame
    shadowWhole := g.shadow.isSome, lastIssue := if beyond g.live && beyond g.shadow then beats else g.lastIssue }

/-- A context without some units: what only they use goes with them (R473). -/
def EngCtx.without (c : EngCtx) (us : List Nat) (rest : EngCtx) : EngCtx :=
  { c with
    units := c.units.filter (fun u => !us.contains u), halts := c.halts.filter (fun u => !us.contains u)
    regions := c.regions.filter (fun (r : Nat × (Nat × Nat)) => (mget rest.regions r.1).isSome) }

/-- Lowest PRIORITY first, highest unit number first (R473). -/
def shedOrder (us : List WorkUnit) : List WorkUnit :=
  lsortBy (fun u => u.prio * 1024 + (1023 - min 1023 u.num)) (us.filter (fun u => decide (u.prio < 7)))

/-- The units to suspend so that the rest fit `n` engines at a shed level; none where no choice fits. -/
def suspendFrom (lvl n : Nat) : List WorkUnit → List WorkUnit → Option (List Nat)
  | [], active => if unitsFit lvl n active then some [] else none
  | u :: us, active =>
    if unitsFit lvl n active then some []
    else (suspendFrom lvl n us (active.filter (fun v => v.num ≠ u.num))).map (fun l => u.num :: l)

end Sys2Proof

namespace Sys2Proof.Machine

open Sys2Proof

/-- `s` with its placement changed. -/
def State.onPlace (s : State) (f : Placement → Placement) : State := { s with place := f s.place }

/-- Note engines whose assignment changed in step 4 (R60). -/
def State.noteChanged (s : State) (es : List Nat) : State := s.onPlace (fun p => { p with changed := p.changed ++ es })

/-! ### Infeasibility and the shed level (R423, R473) -/

/-- No placement can hold the image (R473). -/
def State.infeasible (s : State) : State := (s.raise Reg.PLACE_EVENTS 10).enterHold 3

/-- The units of the live image that are not suspended. -/
def State.activeUnits (s : State) : List WorkUnit :=
  match s.live with
  | some i => i.units.filter (fun u => !s.place.suspended.contains u.num)
  | none => []

/-- Units leave every context of the live image; an engine left with none is released. -/
def State.dropUnits (s : State) (us : List Nat) : State :=
  engines20.foldl (fun (t : State) e =>
    let g := t.engine e
    let cut := fun (c : EngCtx) => c.without us (loadCtx t.live (c.units.filter (fun u => !us.contains u)) [])
    let hit := (ctxUnits g.live).any us.contains
    let t1 := t.onEngine e (fun g => { g with
      live := g.live.map cut, shadow := if g.shadowKind = .rehearsal ∨ g.shadowKind = .arming then g.shadow else g.shadow.map cut })
    if hit ∧ g.state = .live ∧ (ctxUnits (t1.engine e).live).isEmpty then t1.releaseEng e else t1) s

/-- Units are suspended (R473). -/
def State.suspendUnits (s : State) (us : List Nat) : State :=
  if us.isEmpty then s
  else
    let s1 := (s.onPlace (fun p => { p with suspended := p.suspended ++ us })).dropUnits us
    (s1.bump Reg.UNITS_SUSPENDED us.length).raise Reg.PLACE_EVENTS 6

/-- The shed level follows the engines available (R423, R473); it waits while the switch of an engine already retired waits. -/
def State.fitLevel (s : State) : State :=
  let n := s.available
  let lvl := 16 - n
  if s.live.isNone ∨ s.place.replacements.any (fun r => r.hard) ∨ lvl = s.place.shed then s
  else
    let s1 := s.onPlace (fun p => { p with shed := lvl })
    if n < 8 then s1.infeasible
    else match suspendFrom lvl n (shedOrder s1.activeUnits) s1.activeUnits with
      | some us => s1.suspendUnits us
      | none => s1.infeasible

/-! ### Fault-driven switches (R58, R470 to R473, R506) -/

/-- An engine leaves the slot (R434, R478): its rehearsal waits for a later frame. -/
def State.unhold (s : State) (e : Nat) : State :=
  let s1 := if (s.engine e).shadowKind = .rehearsal then s.clearShadow e else s
  s1.onSlot (fun x => { x with held := x.held.filter (fun y => y ≠ e), group := x.group.filter (fun y => y.2 ≠ e) })

/-- The target of a replacement that has none: class 1 or 2, or an engine of the slot (R434, R471). -/
def State.findTarget (s : State) (r : Replacement) : State × Replacement :=
  match s.pickTarget r.failed with
  | (s1, some t) => (s1.assignShadow t .fault r.units, { r with target := some t })
  | (s1, none) =>
    match nearest r.failed (s1.slot.held.filter (fun e => !(s1.book e).suspect)) with
    | some t => ((s1.unhold t).assignShadow t .fault r.units, { r with target := some t })
    | none => (s1, r)

/-- At a boundary each replacement becomes pending once its target shows SHADOW_DONE, and one without a target looks for it. -/
def State.reviewReplacements (s : State) : State :=
  let rs := s.place.replacements
  rs.foldl (fun (t : State) r =>
    match r.target with
    | some e =>
      let done := r.ready || ((t.engine e).shadowDone && decide ((t.engine e).shadowKind = .fault))
      t.onPlace (fun p => { p with replacements := p.replacements ++ [{ r with ready := done }] })
    | none =>
      if t.hold then t.onPlace (fun p => { p with replacements := p.replacements ++ [r] })
      else
        let x := t.findTarget r
        x.1.onPlace (fun p => { p with replacements := p.replacements ++ [x.2] })) (s.onPlace (fun p => { p with replacements := [] }))

/-- What every applied replacement counts (R454, R470). -/
def State.countSwitch (s : State) : State :=
  ((s.bump Reg.FAULT_SWITCHES).raise Reg.PLACE_EVENTS 3).onPlace (fun p => { p with evalDue := true })

/-- The failed engine is retired, where a hard fail has not done so. -/
def State.retireFailed (s : State) (x : Nat) : State := if (s.engine x).state = .retired then s else s.retireEng x

/-- A pending replacement is applied: SWITCH to the target, RETIRE to the failed engine (R470, R472). -/
def State.applyReplacement (s : State) (r : Replacement) : State :=
  match r.target with
  | some t => (((s.switchEng t).retireFailed r.failed).noteChanged [t, r.failed]).countSwitch
  | none => s

/-- A unit joins the live context of an engine. -/
def State.joinUnit (s : State) (e u : Nat) : State :=
  (s.onEngine e (fun g => { g with live := g.live.map (fun c =>
    let x := ctxMerge c (loadCtx s.live [u] [])
    { x with units := c.units ++ [u] }) })).noteChanged [e]

/-- The LIVE engines that can take units, with their claims at a shed level. -/
def State.liveBins (s : State) (lvl : Nat) (but : List Nat) : List PackBin :=
  (engines20.filter (fun e => decide ((s.engine e).state = .live ∧ ¬ (s.engine e).permanent) && !but.contains e)).map
    (fun e => { eng := e, cyc := s.engClaim e lvl, store := s.engStore e })

/-- Class 4 of R471: the failed engine is retired, the level follows, and its units go to the other engines (R473). -/
def State.redistribute (s : State) (r : Replacement) : State :=
  let s1 := (((s.onPlace (fun p => { p with replacements := p.replacements.filter (fun y => y ≠ r) })).retireFailed r.failed).fitLevel)
  let lvl := s1.place.shed
  let us := s1.activeUnits.filter (fun u => r.units.contains u.num)
  let s2 := (lsortBy (fun u => 2 ^ 64 - u.claim lvl) us).foldl (fun (t : State) u =>
    match packChoice (t.liveBins lvl []) u (u.claim lvl) with
    | some b => t.joinUnit b.eng u.num
    | none => t) s1
  (s2.noteChanged [r.failed]).countSwitch

/-- The channel map changes once a copy has completed (R475, R505 to R508). -/
def State.applyCopy (s : State) (y : ChannelCopy) : State :=
  let s1 := s.onChannel y.src (fun c => { c with state := .retired, repairs := [] })
  let s2 := (if y.dst < 18 then s1.onChannel y.dst (fun c => { c with state := .service }) else s1).raise Reg.MEM_EVENTS 7
  s2.onMem (fun m =>
    let map := if y.dst < 18 then m.map.map (fun c => if c = y.src then y.dst else c) else m.map.filter (fun c => c ≠ y.src)
    { m with map := map, inUse := map.length, copies := m.copies.filter (fun z => z ≠ y) })

/-- Replacements that step 4 applies: those pending, and those of class 4. -/
def State.dueSwitches (s : State) : List Replacement :=
  s.place.replacements.filter (fun r => r.ready || (r.target.isNone && !s.hold))

/-- All pending fault-driven switches (R58). -/
def State.applyFaults (s : State) : State :=
  let due := s.dueSwitches
  let s1 := (due.filter (fun r => r.target.isSome)).foldl (fun (t : State) r =>
    (t.applyReplacement r).onPlace (fun p => { p with replacements := p.replacements.filter (fun y => y ≠ r) })) s
  let s2 := (due.filter (fun r => r.target.isNone)).foldl State.redistribute s1
  (s.mem.copies.filter (fun y => y.done)).foldl State.applyCopy s2

/-- Whether a fault-driven switch is pending (R58, R506). -/
def State.faultsPending (s : State) : Bool := !s.dueSwitches.isEmpty || s.mem.copies.any (fun y => y.done)

/-! ### Migrations (R457 to R460) -/

/-- Units that a migration brings to an engine, and those that stay there. -/
def State.arriving (m : Migration) (e : Nat) : List Nat := (m.moves.filter (fun (x : Nat × Nat × Nat) => x.2.2 = e)).map (fun x => x.1)
/-- See `State.arriving`. -/
def State.staying (s : State) (m : Migration) (e : Nat) : List Nat :=
  (ctxUnits (s.engine e).live).filter (fun u => !m.moves.any (fun (x : Nat × Nat × Nat) => decide (x.1 = u ∧ x.2.1 = e)))

/-- The shadow of an engine that a migration concerns: its complete new context, in which only the arriving units run (R457). -/
def State.migrationShadow (s : State) (m : Migration) (e : Nat) : State :=
  let new := State.arriving m e
  let all := s.staying m e ++ new
  if all.isEmpty then s
  else (s.assignShadow e (if m.swap then .swap else .migration) all).onEngine e (fun g => { g with shadow := g.shadow.map (fun c => { c with units := new }) })

/-- A migration begins. -/
def State.beginMigration (s : State) (m : Migration) : State :=
  (m.engines.foldl (fun (t : State) e => t.migrationShadow m e) s).onPlace (fun p => { p with migrations := p.migrations ++ [m] })

/-- Migrations that have run a whole frame: they have succeeded and are pending, or are cancelled (R458, R459). -/
def State.reviewMigrations (s : State) : State :=
  s.place.migrations.foldl (fun (t : State) m =>
    let gs := (m.engines.map t.engine).filter (fun g => decide (g.shadowKind = .migration ∨ g.shadowKind = .swap))
    if m.ready ∨ ¬ gs.all (fun g => g.shadowWhole) then t
    else if gs.all (fun g => g.shadowDone && (match g.shadow with | some c => !c.overran | none => false)) then
      t.onPlace (fun p => { p with migrations := p.migrations.map (fun y => if y = m then { y with ready := true } else y) })
    else match m.engines with
      | e :: _ => t.cancelMigrations e
      | [] => t) s

/-- One engine of a migration at its switch (R459): SWITCH, or RELEASE where no unit is left. -/
def State.migrateEngine (s : State) (m : Migration) (e : Nat) : State :=
  let new := State.arriving m e
  let old := s.staying m e
  if (old ++ new).isEmpty then
    let s1 := (s.releaseEng e).slotLost e
    if (s1.engine e).shadowKind = .arming ∧ ¬ s1.slotTarget e then s1.clearShadow e else s1
  else (s.switchEng e).onEngine e (fun g => { g with live := g.live.map (fun c => { c with units := old ++ new }) })

/-- A pending migration is applied (R459). -/
def State.applyMigration (s : State) (m : Migration) : State :=
  let s1 := m.engines.foldl (fun (t : State) e => t.migrateEngine m e) s
  ((((s1.onPlace (fun p => { p with migrations := p.migrations.filter (fun y => y ≠ m) })).noteChanged m.engines).bump Reg.MIGRATIONS_APPLIED).raise
    Reg.PLACE_EVENTS 1)

/-- A data-set move switches (R460, R465, R513). -/
def State.applyMove (s : State) (x : SetMove) : State :=
  s.onPlace (fun p => { p with
    moves := p.moves.filter (fun y => y ≠ x), located := if x.target = 64 then mset p.located x.set 1 else p.located })

/-- All pending placement migrations (R58). -/
def State.applyMigrations (s : State) : State :=
  let s1 := (s.place.migrations.filter (fun m => m.ready)).foldl State.applyMigration s
  (s.place.moves.filter (fun x => x.copied)).foldl State.applyMove s1

/-! ### Evaluation (R453 to R456, R468, R474) -/

/-- Cycle and store claims of an engine with some units taken and some given. -/
def State.claimAfter (s : State) (ms : List (Nat × Nat × Nat)) (e : Nat) : Nat × Nat :=
  let lvl := s.place.shed
  let gone := fun u => ms.any (fun (x : Nat × Nat × Nat) => decide (x.1 = u ∧ x.2.1 = e))
  let us := (ctxUnits (s.engine e).live).filter (fun u => !gone u) ++ (ms.filter (fun (x : Nat × Nat × Nat) => x.2.2 = e)).map (fun x => x.1)
  let ws := us.filterMap (fun u => imgUnit s.live u)
  (lsum (ws.map (fun w => w.claim lvl)), lsum (ws.map (fun w => w.store)))

/-- Whether claims keep objective 1 of R452. -/
def objective1 (l : List (Nat × Nat)) : Bool := l.all (fun x => decide (x.1 ≤ cycleCap ∧ x.2 ≤ storeCap))

/-- Whether an engine may take part in a new migration. -/
def State.movable (s : State) (e : Nat) : Bool :=
  let g := s.engine e
  decide ((g.state = .live ∨ g.state = .spare) ∧ ¬ g.permanent) && g.shadow.isNone && !(s.book e).suspect && !s.slot.held.contains e &&
    !s.place.migrations.any (fun m => m.engines.contains e)

/-- The engine whose live context runs a unit. -/
def State.engineOfUnit (s : State) (u : Nat) : Option Nat := engines20.find? (fun e => (ctxUnits (s.engine e).live).contains u)

/-- The moves of a proposal with the engines they leave, where each can be made. -/
def State.proposedMoves (s : State) (l : List (Nat × Nat)) : Option (List (Nat × Nat × Nat)) :=
  let ms := l.filterMap (fun (x : Nat × Nat) => (s.engineOfUnit x.1).map (fun e => (x.1, e, x.2)))
  if ms.length = l.length ∧ pairwiseB (fun (x y : Nat × Nat) => decide (x.1 ≠ y.1)) l ∧
      ms.all (fun (x : Nat × Nat × Nat) => decide (x.2.1 ≠ x.2.2 ∧ x.2.2 < 20) && s.movable x.2.1 && s.movable x.2.2) then some ms else none

/-- The migration of a list of moves. -/
def migrationOf (ms : List (Nat × Nat × Nat)) : Migration :=
  { moves := ms, engines := (ms.flatMap (fun (x : Nat × Nat × Nat) => [x.2.2, x.2.1])).eraseDups }

/-- Whether an evaluation may propose a migration (R455): the load of an engine is judged by its claims (log entry 31). -/
def State.worth (s : State) (o : Proposal) (ms : List (Nat × Nat × Nat)) : Bool :=
  let before := engines20.map (s.claimAfter [])
  let after := engines20.map (s.claimAfter ms)
  let top := fun (l : List (Nat × Nat)) => (l.map (fun x => x.1)).foldl max 0
  let keep := 100 - s.rbits Reg.LOAD_CFG 7 0
  let gain := decide (0 < top before ∧ top after * 100 ≤ top before * keep) || decide (0 < o.hopsBefore ∧ o.hopsAfter * 100 ≤ o.hopsBefore * keep)
  objective1 after && !ms.isEmpty && ((gain && decide (ms.length ≤ s.rbits Reg.LOAD_CFG 15 8)) || !objective1 before)

/-- Targets for the units of an engine that is to be freed (R474), each on the engine with the lowest claim that has room. -/
def packRest : List WorkUnit → List PackBin → Nat → Option (List (Nat × Nat))
  | [], _, _ => some []
  | u :: us, bins, lvl =>
    match lminBy (fun b => b.cyc) (bins.filter (fun b => decide (b.cyc + u.claim lvl ≤ cycleCap ∧ b.store + u.store ≤ b.cap))) with
    | some b => (packRest us (packOn bins b.eng u (u.claim lvl)) lvl).map (fun l => (u.num, b.eng) :: l)
    | none => none

/-- The migration that frees an engine as a spare (R474). -/
def State.freeSpare (s : State) : Option (List (Nat × Nat × Nat)) :=
  let lvl := s.place.shed
  if engines20.any (fun e => decide ((s.engine e).state = .spare)) ∨ ¬ unitsFit lvl (s.available - 1) s.activeUnits then none
  else match s.leastLoaded (engines20.filter s.movable) with
    | none => none
    | some x =>
      let us := (ctxUnits (s.engine x).live).filterMap (fun u => imgUnit s.live u)
      let bins := (s.liveBins lvl [x]).filter (fun b => s.movable b.eng)
      match packRest us bins lvl with
      | some l => s.proposedMoves l
      | none => none

/-- Loads of the LIVE engines. -/
def State.liveLoads (s : State) : List Nat := (engines20.filter (fun e => decide ((s.engine e).state = .live))).map s.load

/-- Whether the placement target of R453 is met. -/
def State.targetMet (s : State) : Bool :=
  let l := s.liveLoads
  l.all (fun x => decide (x ≤ cycleCap ∧ x * 64 * l.length ≤ s.rbits Reg.LOAD_CFG 31 24 * lsum l))

/-- Whether an evaluation is due at this boundary (R454). -/
def State.evaluationDue (s : State) : Bool := s.live.isSome && !s.hold && (decide (s.frame % 64 = 0) || s.place.evalDue)

/-- An evaluation (R454 to R456, R468, R474). -/
def State.evaluatePlace (s : State) (o : Proposal) : State :=
  let s1 := ((s.bump Reg.EVALUATIONS).setPair Reg.EVAL_FRAME_LO Reg.EVAL_FRAME_HI s.frame).onPlace (fun p => { p with evalDue := false })
  let busy := decide (s.slot.state = .arming ∨ s.slot.state = .armed)
  let own := match s1.proposedMoves o.moves with | some ms => if s1.worth o ms then some ms else none | none => none
  let ms := if busy then none else match own with | some l => some l | none => s1.freeSpare
  let s2 := match ms with | some l => s1.beginMigration (migrationOf l) | none => s1
  s2.onPlace (fun p => { p with loadOver := !busy && !s1.targetMet && own.isNone })

/-- The frames in a row in which the placement target was missed (R454). -/
def State.noteOver (s : State) : State :=
  let n := if s.targetMet then 0 else s.place.overFrames + 1
  s.onPlace (fun p => if n = 8 then { p with overFrames := 0, evalDue := true } else { p with overFrames := n })

/-! ### Radishes (R476 to R480) -/

/-- Whether an engine is due at a boundary into frame `g` (R476). -/
def State.radishDue (s : State) (x : Nat) : Bool := decide (s.frame % 16 = x % 16 ∧ (s.engine x).state ≠ .retired)

/-- A due boundary of an engine (R478). -/
def State.noteDue (s : State) (x : Nat) : State :=
  let miss := !(s.book x).answered
  let s1 := s.onBook x (fun b => { b with
    answered := false, due := true, since := s.tl.frames, period := b.ran, ran := [], debt := b.debt + b2n miss })
  if miss then (s1.bump Reg.DEBT_PERIODS).raise Reg.PLACE_EVENTS 7 else s1

/-- Whether a migration concerns an engine. -/
def State.inMigration (s : State) (x : Nat) : Bool := s.place.migrations.any (fun m => m.engines.contains x)

/-- A swap of the whole context of `x` to a free engine begins (R478, R479); where none is free, one of the slot is taken at the next
boundary (R434). -/
def State.trySwap (s : State) (x : Nat) : State :=
  let us := ctxUnits (s.engine x).live
  let go := fun (t : State) (e : Nat) => t.beginMigration { swap := true, moves := us.map (fun u => (u, x, e)), engines := [e, x] }
  match nearest x (engines20.filter (fun e => s.freeEngine e && !s.inMigration e)) with
  | some e => go s e
  | none =>
    if s.tl.frames < (s.book x).since + 2 then s
    else match nearest x (s.slot.held.filter (fun e => !(s.book e).due && !(s.book e).suspect)) with
      | some e => go (s.unhold e) e
      | none => s

/-- The radish schedule of step 6 (R478). -/
def State.radishStep6 (s : State) : State :=
  let s1 := (engines20.filter s.radishDue).foldl State.noteDue s
  let waits := engines20.filter (fun x =>
    (s1.book x).due && decide ((s1.engine x).state = .live ∧ ¬ (s1.engine x).permanent ∧ (s1.book x).since + 1 ≤ s1.tl.frames) && !s1.inMigration x)
  let s2 := (lsortBy (fun x => (s1.book x).since) waits).foldl State.trySwap s1
  ((s2.slot.held.filter (fun e => decide (2 ≤ (s2.book e).debt))).foldl State.unhold s2).updateCoverage

/-- The instances that an engine's radishes take in turn (R477). -/
def State.radishList (s : State) (x : Nat) : List Nat :=
  let of := fun (us : List WorkUnit) => (us.filterMap (fun u => u.radish)).eraseDups
  match s.live with
  | none => []
  | some i =>
    let mine := of (i.units.filter (fun u => (s.book x).period.contains u.num))
    if mine.isEmpty then of i.units else mine

/-- A radish is issued where step 7 allows it (R60, R478). -/
def State.issueRadish (s : State) (x : Nat) : State :=
  let l := s.radishList x
  if (s.book x).due ∧ (s.engine x).state = .spare ∧ (s.engine x).shadow.isNone ∧ ¬ s.place.changed.contains x ∧ ¬ l.isEmpty then
    let n := (s.book x).turn
    (s.radishEng x (lgetD l (n % l.length) 0)).onBook x (fun b => { b with due := false, turn := n + 1 })
  else s

/-- Step 7 of R57 (R60, R478). -/
def State.radishStep7 (s : State) : State :=
  let s1 := engines20.foldl State.issueRadish s
  let late := engines20.filter (fun x => s1.radishDue x && (s1.book x).due)
  if late.isEmpty then s1 else s1.bump Reg.RADISHES_DEFERRED late.length

end Sys2Proof.Machine
end

