-- ==== Sys2Proof/Machine/Frame.lean ====
section
/-! DEFINITION. The frame boundary: the seven steps of R57 in their order, and what the part does once a frame around them. -/

namespace Sys2Proof.Machine

open Sys2Proof

/-! ### The frame that ends -/

/-- Invocations that a hard-failed engine's units lose in frame `f`, until its switch (R472). -/
def State.lostIn (s : State) (f : Nat) : Nat :=
  let shift := fun (u : WorkUnit) => if s.place.shed = 0 then 0 else lgetD u.shifts (s.place.shed - 1) 0
  let falls := fun (u : WorkUnit) => decide (f % (max 1 u.cadence * 2 ^ shift u) = 0)
  lsum ((s.place.replacements.filter (fun r => r.hard)).map (fun r =>
    ((r.units.filterMap (imgUnit s.live)).filter (fun u => falls u && !s.place.suspended.contains u.num)).length))

/-- The radish book of an engine at the end of a frame: the frame's issued bundles join its load, its units those of the period
(R453, R477). -/
def closeBook (units : List Nat) (b : RadishBook) : RadishBook :=
  { b with loads := (b.issued :: b.loads).take 8, issued := 0, ran := (b.ran ++ units).eraseDups }

/-- The engines and books at the end of frame `ended`. -/
def State.closeEngines (s : State) (ended : Nat) : State :=
  let s1 := s.bump Reg.LOST_INVOCATIONS (s.lostIn ended)
  let s2 : State := { s1 with engines := s1.engines.map Engine.endShadow }
  s2.onPlace (fun p => { p with
    changed := []
    books := p.books.zipIdx.map (fun (x : RadishBook × Nat) => closeBook (ctxUnits (s2.engine x.2).live) x.1) })

/-- The SUPPRESSED record of the frame that ended (R614). -/
def State.logSuppressed (s : State) : State :=
  let s1 := s.onSafety (fun x => { x with frameRecords := 0 })
  if lsum s1.safety.suppressed = 0 ∨ 256 ≤ s1.safety.waiting.length then s1
  else
    let counts := s1.safety.suppressed.zipIdx
    let detail := lsum (counts.map (fun (x : Nat × Nat) => x.1 * 2 ^ (12 * x.2)))
    (s1.onSafety (fun x => { x with suppressed := List.replicate 8 0 })).logRec 7 0 0 0 detail

/-- Once the switch has taken place, the spilled weights are brought into engine store, but for those that the steady form spills
(R431, R444; log entry 33). -/
def State.unspill (s : State) : State :=
  match s.live with
  | some i => { s with live := some { i with spilled := i.steadySpill } }
  | none => s

/-- The frame is counted and closes: records, engines, spilled weights, migrations and replacements. -/
def State.closeFrame (s : State) : State :=
  let s1 := s.onTl (fun t => { t with frames := t.frames + 1, frameDue := false })
  (((s1.logSuppressed.closeEngines (s.frame - 1)).unspill).reviewMigrations).reviewReplacements

/-! ### Steps 1 to 3 -/

/-- Step 1 (R94), and whether steps 4 and 5 are skipped (R59). -/
def State.frameStep1 (s : State) : State × Bool :=
  let s1 := match s.stepDue with | some x => s.takeStep x | none => s
  (s1.onTl (fun t => { t with frameFirst := false }), s.stepDue.isSome || s.tl.frameFirst)

/-- Step 2 (R233, R234, R95). `began` says whether the onion is open. -/
def State.frameStep2 (s : State) (began : Bool) : State := if began then s.settleLayers s.frame s.tl.epoch.toNat else s

/-- Step 3 (R595). -/
def State.frameStep3 (s : State) (ended : Nat) (mismatch stepped : Bool) : State :=
  let s1 := if s.inServ && s.live.isSome then s.closeHist ended mismatch else s
  if stepped then s1.forgetEpoch ended else s1

/-! ### Step 4 -/

/-- Replacements under way when an image switches in: each failed engine that runs the new image gets its replacement anew, and
the others are retired (log entry 32). -/
def State.renewReplacements (s : State) : State :=
  let rs := s.place.replacements
  let s0 := s.onPlace (fun p => { p with replacements := [] })
  rs.foldl (fun (t : State) r =>
    let t1 := match r.target with
      | some e => if (t.engine e).shadowKind = ShadowKind.fault then t.clearShadow e else t
      | none => t
    if (t1.engine r.failed).state = .live then (t1.replace r.failed (ctxUnits (t1.engine r.failed).live) false).1
    else t1.retireFailed r.failed) s0

/-- Re-runs of the old image's passes end with it (R442). -/
def State.dropReruns (s : State) : State :=
  engines20.foldl (fun (t : State) e => if (t.engine e).shadowKind = .rerun then t.clearShadow e else t) s

/-- Layers whose age reaches a lowered ONION_DEPTH settle, in ascending frame order (R234). -/
def State.settleLowered (s : State) : State :=
  let d := s.config.depth
  let beyond := fun (l : Layer) => decide (l.phase = .provisional ∧ d ≤ s.frame - l.frame)
  let out := (s.com.layers.filter beyond).reverse
  out.foldl (fun (t : State) l => t.sealLayer l (s.frame - l.frame) false)
    (s.onCom (fun c => { c with layers := c.layers.filter (fun l => !beyond l) }))

/-- The switch of the ARMED image (R442, R755, R535). -/
def State.applyImage (s : State) : State :=
  let first := s.live.isNone
  let s1 := ((s.cancelAllMigrations.switchImage).dropReruns.renewReplacements).announceImage
  let s2 := if first then s1.restoreMarrow else s1
  s2.settleLowered

/-- Step 4 (R58): one kind of switch, then the shed level and declarations that waited for a switch. -/
def State.frameStep4 (s : State) : State :=
  let s1 :=
    if s.faultsPending then s.applyFaults
    else if s.slot.state = .armed ∧ ¬ s.hold then s.applyImage
    else s.applyMigrations
  s1.fitLevel.releaseSwitched

/-! ### Steps 5 to 7 -/

/-- Step 5 (R205, R206): every READY region takes its next generation. -/
def State.frameStep5 (s : State) : State :=
  s.onStore (fun p => (List.range 512).foldl (fun (q : PodStore) r => if (q.region r).phase = .ready then q.takeNext r else q) p)

/-- Step 6 (R454, R478, R602). -/
def State.frameStep6 (s : State) (o : Proposal) : State :=
  if s.live.isNone ∨ s.hold then s
  else
    let s1 := s.noteOver
    let s2 := if s1.evaluationDue then s1.evaluatePlace o else s1
    s2.radishStep6.assignRechecks

/-- Step 7 (R478), then what begins with the frame: the solver loops, the group of rehearsal and arming. -/
def State.frameStep7 (s : State) (ended : Nat) : State :=
  let s1 := if s.hold then s else s.nextGroup.armFrame
  if s1.live.isNone ∨ s1.hold then s1 else ((s1.radishStep7).startFast ended).startSlow

/-! ### Around the steps -/

/-- Channel copies move 20,000 KiB in a frame (R505: 20 GB/s), the oldest first (R507). -/
def State.copyFrame (s : State) : State :=
  match s.mem.copies.findIdx? (fun y => !y.done) with
  | some i => s.onMem (fun m => { m with copies := lmod m.copies i (fun y => { y with copied := min 1048576 (y.copied + 20000) }) })
  | none => s

/-- The sensors as a frame finds them (R498, R689, R758), with THERMAL_WARN where a field of DIE_TEMP reaches TEMP_WARN. -/
def State.senseFrame (s : State) (o : FrameObs) : State :=
  let warn : Int := (s.rbits Reg.TEMP_WARN 7 0 : Nat)
  let hot := decide ((warn ≤ o.logicTemp ∧ s.power.logicTemp < warn) ∨ (warn ≤ o.ioTemp ∧ s.power.ioTemp < warn))
  let s1 := s.onPower (fun p => { p with logicTemp := o.logicTemp, ioTemp := o.ioTemp, rails := o.rails, milliwatts := o.milliwatts })
  let s2 := s1.onMem (fun m => { m with channels := m.channels.zipIdx.map (fun (x : Channel × Nat) => { x.1 with temp := lgetD o.dramTemps x.2 x.1.temp }) })
  if hot then s2.raise Reg.GLOBAL_EVENTS 3 else s2

/-- What a new frame begins with: boundary records, engines, and the maps kept for a few frames. -/
def State.openFrame (s : State) : State :=
  let s1 := s.queueSlot
  let s2 : State := { s1 with engines := s1.engines.map (fun g => g.newFrame s1.tl.beats) }
  let s3 := (s2.onSolver (fun v => { v with taken := [] })).onSafety (fun x => { x with lowering := x.lowering.filter (fun m => decide (s2.frame ≤ m.frame + 4)) })
  s3.onPeers (fun p => { p with sets := p.sets.filter s3.setWaiting })

/-- Whether a frame boundary can come: its beat boundary has passed and no save has stopped the part. -/
def State.frameOpen (s : State) : Bool := s.up && s.tl.frameDue && !s.saved

/-- The seven steps of R57 in order. -/
def State.frameSteps (s : State) (o : FrameObs) : State :=
  let ended := s.frame - 1
  let (s1, skip) := s.frameStep1
  let s2 := s1.frameStep2 (!s.com.layers.isEmpty)
  let s3 := s2.frameStep3 ended o.coreMismatch s.stepDue.isSome
  let s5 := if skip then s3 else s3.frameStep4.frameStep5
  (s5.frameStep6 o.proposal).frameStep7 ended

/-- The frame boundary. -/
def State.passFrame (s : State) (o : FrameObs) : State :=
  ((((s.closeFrame.frameSteps o).copyFrame).senseFrame o).openFrame).evalSafety

/-- FRAME_BOUNDARY (R57). -/
def execFrameBoundary (o : FrameObs) (s : State) : Out := if s.frameOpen then .next (s.passFrame o) else .next s

end Sys2Proof.Machine
end

