-- ==== Sys2Proof/Machine/Mover.lean ====
section
/-! DEFINITION. Commands of the tensor mover (R350 to R364). -/

namespace Sys2Proof.Machine

open Sys2Proof

/-- The job a refused or void host operation completes at once (R646, R649). -/
def State.jobCompletes (s : State) (j : MoverJob) (status : Nat) : State :=
  match j.host with
  | some (f, id) =>
    if j.cancelled then { s with descs := s.descs.filter (fun (x : Nat × DescEntry) =>
      !(x.2.void && decide (x.2.owner = (if f = 1 then DescOwner.pf1 else .pf0) ∧ (x.1 = j.op.dst ∨ x.1 = j.op.src)))) } else s.complete f id status j.moved 0
  | none => s

/-- Whether a host operation names a void descriptor (R649). -/
def State.namesVoid (s : State) (o : MoverOp) : Bool :=
  [o.src, o.dst].any (fun i => match mget s.descs i with | some d => d.void | none => false)

/-- MOVER_OP_START (R350, R352, R353): a graph channel first takes the operation that the graph gives it, if one comes; then the
oldest queued operation starts once its WAIT tokens are set, which are cleared. -/
def execMoverOpStart (ch : Fin 32) (op : Option MoverOp) (s : State) : Out :=
  if ¬ s.up ∨ s.saved then .next s
  else
    let c := ch.val
    let s0 := match op with
      | some o =>
        let j : MoverJob := { op := o }
        if c < 28 then s.onMover c (fun m => { m with assigned := true, queue := m.queue ++ [j] }) else s
      | none => s
    match (s0.mover c).running, (s0.mover c).queue with
    | none, j :: rest =>
      if (s0.mover c).tokens &&& j.op.wait ≠ j.op.wait then .next s0
      else
        let s1 := s0.onMover c (fun m => { m with queue := rest, lastOp := j.op.op })
        if j.host.isSome ∧ s1.namesVoid j.op then .next (s1.jobCompletes j 2)
        else if s1.opBad j.op then .next (s1.opRefused.jobCompletes j 8)
        else .next (s1.onMover c (fun m => { m with tokens := m.tokens &&& ~~~ j.op.wait, coalescer := [], running := some j }))
    | _, _ => .next s0

/-- COPY. -/
def execMoverCopy (ch : Fin 32) (s : State) : Out := .next (s.moverCopy ch)

/-- FILL. -/
def execMoverFill (ch : Fin 32) (s : State) : Out := .next (s.moverFill ch)

/-- GATHER. -/
def execMoverGather (ch : Fin 32) (s : State) : Out := .next (s.moverGather ch)

/-- SCATTER. -/
def execMoverScatter (ch : Fin 32) (s : State) : Out := .next (s.moverScatter ch)

/-- DELIVER. -/
def execMoverDeliver (ch : Fin 32) (s : State) : Out := .next (s.moverDeliver ch)

/-- MOVER_OP_COMPLETE (R352, R364, R646): the operation's tokens are signalled, and a host MOVE completes, FAULTED where it met a
fault. -/
def execMoverOpComplete (ch : Fin 32) (s : State) : Out :=
  let c := ch.val
  match (s.mover c).running with
  | none => .next s
  | some j =>
    if ¬ j.done then .next s
    else
      let s1 := (s.onMover c (fun m => { m with running := none })).bump (Reg.CHAN_OPS c)
      let s2 := if j.faulted then s1.bump (Reg.CHAN_FAULTED c) else s1
      .next ((s2.chanSignal c j.op.signal).jobCompletes j (if j.faulted then 2 else 0))

end Sys2Proof.Machine
end

