-- ==== Sys2Proof/Machine/Parser.lean ====
section
/-! DEFINITION. Commands of the ingest parser (R137 to R156). -/

namespace Sys2Proof.Machine

open Sys2Proof

/-- The item that the parser takes next (R153): the highest priority, then first in; with its port. -/
def State.nextItem (s : State) : Option (Nat × IngestItem) :=
  let heads := (List.range 8).flatMap (fun p => (lgetD s.ing.queues p []).map (fun i => (p, i)))
  lminBy (fun x => (3 - x.2.entry.prio) * 2 ^ 64 + x.2.id) heads

/-- PARSER_TAKE_ITEM (R153): an idle machine takes the next item whole. -/
def execParserTakeItem (m : Fin 16) (s : State) : Out :=
  if ¬ s.inServ ∨ s.hold ∨ (s.machine m.val).item.isSome then .next s
  else match s.nextItem with
    | none => .next s
    | some (p, i) =>
      let s1 := s.onIng (fun g => { g with queues := lmod g.queues p (fun q => q.filter (fun x => x.id ≠ i.id)) })
      .next ((s1.watermark p).onMachine m.val (fun _ => { item := some i, port := p }))

/-- EXTRACT (R138): an unsigned field. -/
def execParserExtract (m : Fin 16) (dst : Fin 32) (off : BitVec 14) (width : Fin 65) (little : Bool) (s : State) : Out :=
  .next (s.parse m.val (fun p i => (p.field i off.toNat width.val little).map (fun v => p.put dst.val (BitVec.ofNat 64 v))))

/-- EXTRACTS (R138): a sign-extended field. -/
def execParserExtracts (m : Fin 16) (dst : Fin 32) (off : BitVec 14) (width : Fin 65) (little : Bool) (s : State) : Out :=
  .next (s.parse m.val (fun p i => (p.field i off.toNat width.val little).map (fun v => p.put dst.val (BitVec.ofInt 64 (sval width.val v)))))

/-- The result of the ALU (R138); a shift of 64 or more, whose result the spec does not state, gives the free value. -/
def aluResult (op : AluOp) (a b : BitVec 64) (open' : Nat) : BitVec 64 :=
  match op with
  | .add => a + b
  | .sub => a - b
  | .and => a &&& b
  | .or => a ||| b
  | .xor => a ^^^ b
  | .mul => a * b
  | .shl => if b.toNat < 64 then a <<< b.toNat else BitVec.ofNat 64 open'
  | .shr => if b.toNat < 64 then a >>> b.toNat else BitVec.ofNat 64 open'

/-- ALU (R138). -/
def execParserAlu (m : Fin 16) (op : AluOp) (dst src : Fin 32) (b : ParserArg) (s : State) : Out :=
  let p := s.machine m.val
  let s1 := if (op = .shl ∨ op = .shr) ∧ 64 ≤ (p.arg b).toNat then s.took else s
  .next (s1.parse m.val (fun p _ => some (p.put dst.val (aluResult op (p.reg src.val) (p.arg b) s.freeNat))))

/-- Whether a comparison holds (R138). -/
def branchTaken (c : BranchCond) (a b : BitVec 64) : Bool :=
  match c with
  | .eq => decide (a = b)
  | .ne => decide (a ≠ b)
  | .lt => decide (a.toInt < b.toInt)
  | .ge => decide (b.toInt ≤ a.toInt)
  | .ltu => decide (a.toNat < b.toNat)
  | .geu => decide (b.toNat ≤ a.toNat)

/-- BRANCH (R138): compare and jump; loops that the target lies outside are left. -/
def execParserBranch (m : Fin 16) (cond : BranchCond) (a : Fin 32) (b : ParserArg) (target : Fin 512) (s : State) : Out :=
  let p := s.machine m.val
  if p.item.isSome ∧ ¬ p.ended ∧ branchTaken cond (p.reg a.val) (p.arg b) then
    if 65536 < p.count + 1 then .next (s.abandon m.val)
    else .next (s.onMachine m.val (fun p => { p with
      pc := target.val, count := p.count + 1, loops := p.loops.dropWhile (fun l => !decide (l.start ≤ target.val ∧ target.val < l.stop)) }))
  else .next (s.parse m.val (fun p _ => some p))

/-- LOOP (R138): run the block that follows a given number of times, advancing base by a stride after each. -/
def execParserLoop (m : Fin 16) (count : ParserArg) (len : Fin 512) (stride : BitVec 16) (s : State) : Out :=
  .next (s.parse m.val (fun p _ =>
    let n := (p.arg count).toNat
    if n = 0 ∨ len.val = 0 then some { p with pc := p.pc + len.val }
    else some { p with loops := { start := p.pc + 1, stop := p.pc + 1 + len.val, left := n, stride := stride.toNat } :: p.loops }))

/-- SCALE (R138): source × multiplier u0.16, shifted right, to nearest. -/
def execParserScale (m : Fin 16) (dst src : Fin 32) (mult : BitVec 32) (shift : Fin 64) (s : State) : Out :=
  .next (s.parse m.val (fun p _ =>
    some (p.put dst.val (BitVec.ofInt 64 (rneDiv ((p.reg src.val).toInt * (mult.toNat : Int)) (2 ^ (16 + shift.val)))))))

/-- POLAR (R138): x, y and z in three registers from range, azimuth and elevation, through the sine table. -/
def execParserPolar (m : Fin 16) (dst range azimuth elevation : Fin 32) (s : State) : Out :=
  .next (s.parse m.val (fun p _ =>
    let sine := fun a : Nat => Config.sineTable (a % 65536)
    let az := (p.reg azimuth.val).toNat
    let el := (p.reg elevation.val).toNat
    let r := (p.reg range.val).toInt
    let x := rneDiv (r * sine (el + 16384) * sine (az + 16384)) (2 ^ 60)
    let y := rneDiv (r * sine (el + 16384) * sine az) (2 ^ 60)
    let z := rneDiv (r * sine el) (2 ^ 30)
    some (((p.put dst.val (BitVec.ofInt 64 x)).put (dst.val + 1) (BitVec.ofInt 64 y)).put (dst.val + 2) (BitVec.ofInt 64 z))))

/-- TIME (R138, R146 to R148): load the base time from the item's source, or set the record's relative time (register 29). -/
def execParserTime (m : Fin 16) (op : ParserTimeOp) (s : State) : Out :=
  .next (s.parse m.val (fun p i =>
    match op with
    | .relative src => some (p.put 29 (p.reg src.val))
    | .load off little =>
      match i.entry.source with
      | .arrival => some { p with baseTime := some i.arrival }
      | .payloadPtp =>
        match p.field i off.toNat 48 little, p.field i (off.toNat + 6) 32 little with
        | some sec, some ns => some { p with baseTime := some ((sec : Int) * secUnits + (ns : Int) * 65536) }
        | _, _ => none
      | .payloadNs => (p.field i off.toNat 64 little).map (fun ns => { p with baseTime := some ((ns : Int) * 65536) })
      | .payloadRtp => (p.field i off.toNat 32 little).map (fun ts => { p with baseTime := some (rtpTime i.arrival i.entry.rtpRate ts) })))

/-- EMIT (R140, R141, R149): a pea from registers 24 to 31, held until the item's release. -/
def execParserEmit (m : Fin 16) (s : State) : Out :=
  .next (s.parse m.val (fun p i =>
    let x := (p.reg 24).toInt
    let y := (p.reg 25).toInt
    let z := (p.reg 26).toInt
    let id := i.entry.sensorBase + (p.reg 28).toNat
    let t := p.recordTime i
    let o : List ParseOut :=
      if 1023 < id then []
      else if (s.sensorAt id t).isNone then [.drop id 20]
      else if ¬ (fits24 x ∧ fits24 y ∧ fits24 z) then [.drop id 20]
      else if outsideWindow i t then [.drop id 19]
      else [.pea { sensor := id, time := t, x := x, y := y, z := z, intensity := (p.reg 27).toNat % 256, sweep := (p.reg 30).toNat % 256,
                   cls := (p.reg 31).toNat % 64 }]
    some { p with out := o ++ p.out }))

/-- IMAGE (R138, R144): copy a run of pixel groups to the stream's image buffer. -/
def execParserImage (m : Fin 16) (line offset : Fin 32) (start len : BitVec 14) (marker : Bool) (s : State) : Out :=
  .next (s.parse m.val (fun p i =>
    let a := p.base + start.toNat
    if i.bytes.length < a + len.toNat then none
    else
      let seq := match ipInfo i.bytes with
        | some q => match q.udp with | some u => beAt i.bytes (u + 10) 2 | none => 0
        | none => 0
      some { p with out := .image { line := (p.reg line.val).toNat, offset := (p.reg offset.val).toNat, bytes := lsub i.bytes a len.toNat,
                                    marker := marker, seq := seq } :: p.out }))

/-- MOTION (R138, R145): a motion sample of eight s15.16 values in eight registers from `src` on. -/
def execParserMotion (m : Fin 16) (kind : Fin 16) (src : Fin 32) (s : State) : Out :=
  .next (s.parse m.val (fun p i =>
    let id := i.entry.sensorBase + (p.reg 28).toNat
    let t := p.recordTime i
    let o : List ParseOut :=
      if 1023 < id then []
      else if (s.sensorAt id t).isNone then [.drop id 20]
      else if outsideWindow i t then [.drop id 19]
      else [.motion { time := t, sensor := id, kind := kind.val, values := (List.range 8).map (fun j => sval 32 (p.reg (src.val + j)).toNat) }]
    some { p with out := o ++ p.out }))

/-- DROP (R138): abandon the item. -/
def execParserDrop (m : Fin 16) (s : State) : Out :=
  let p := s.machine m.val
  if p.item.isSome ∧ ¬ p.ended then .next (s.abandon m.val) else .next s

/-- END (R138): finish the item; its output waits for its release. -/
def execParserEnd (m : Fin 16) (s : State) : Out := .next (s.parse m.val (fun p _ => some { p with ended := true }))

/-- The machine whose ended item is released next (R142): no machine runs an earlier item of the same stream. -/
def State.releasable (s : State) : Option (Nat × IngestItem) :=
  let held := (List.range 16).filterMap (fun m => (s.machine m).item.map (fun i => (m, i)))
  let ready := held.filter (fun x => (s.machine x.1).ended &&
    !held.any (fun y => decide (y.2.stream = x.2.stream ∧ y.2.id < x.2.id)))
  lminBy (fun x => x.2.id) ready

/-- ITEM_RELEASE (R142, R159): the output of an ended item is released in this beat, in the order produced. -/
def execItemRelease (s : State) : Out :=
  match s.releasable with
  | none => .next s
  | some (m, i) =>
    let outs := (s.machine m).out.reverse
    .next (outs.foldl (fun t o => t.releaseOut i o) (s.onMachine m (fun _ => {})))

end Sys2Proof.Machine
end

