-- ==== Sys2Proof/Machine/Slot.lean ====
section
/-! DEFINITION. Events of the shallot slot (R426 to R440). LOAD and CANCEL are register commands. -/

namespace Sys2Proof.Machine

open Sys2Proof

/-- SLOT_COPY_DONE (R426, R433): the slot copy is complete. -/
def execSlotCopyDone (s : State) : Out :=
  if s.slot.state ≠ .copying ∨ s.saved then .next s
  else .next (s.onSlot (fun x => { x with state := .verifying, bytes := s.loadBytes }))

/-- SLOT_VERIFY_DONE (R427, R417, R199, R715, R716): checks 1 to 5. `certSig` and `sig` say whether the two signatures verify; `key`
is the K drawn. -/
def execSlotVerifyDone (certSig sig : Bool) (key : Nat) (s : State) : Out :=
  if s.slot.state ≠ .verifying ∨ s.saved then .next s
  else match s.verifyReason certSig sig with
    | some r => .next (s.refuseImage r 0 0 false)
    | none =>
      let h := imageHeader s.slot.bytes
      let d := shakeNat 512 (cread s.slot.bytes 0 h.sigOff)
      let img : Image := { id := h.id, version := h.secVersion, tool := h.tool, size := h.size, digest := d, k := key % 2 ^ 64 }
      let s1 := ((s.onSlot (fun x => { x with state := .admitting, image := some img })).setWords (Reg.SLOT_DIGEST 0) 16 d).setPair
        Reg.SLOT_IMAGE_ID_LO Reg.SLOT_IMAGE_ID_HI h.id
      .next (s1.rset Reg.SLOT_SECURITY_VERSION (nw h.secVersion))

/-- ADMISSION_DONE (R427 to R432): checks 6 to 18. -/
def execAdmissionDone (body : ImageBody) (s : State) : Out :=
  if s.slot.state ≠ .admitting ∨ s.saved then .next s
  else
    let img := s.parseImage body
    match s.contentReason img with
    | some (9, _, _) => .next (((s.badDescs body).foldl (fun (t : State) (x : Nat × Nat) => t.descRefused 0 x.1 x.2) s).refuseImage 9 0 0 false)
    | some (r, unit, short) => .next (s.refuseImage r unit short false)
    | none => .next (s.admitArith img)

/-- REHEARSAL_DONE (R436, R438, R439): the rehearsal frame of a unit of the group ends. -/
def execRehearsalDone (r : RehearsalResult) (s : State) : Out :=
  match s.slot.state, s.slot.image, s.slot.group.find? (fun g => decide (g.1 = r.unit)) with
  | .rehearsing, some img, some (_, e) => if s.saved then .next s else .next (s.rehearsed r e img.units.length)
  | _, _, _ => .next s

/-- ARMING_DONE (R433, R440): the context of a target engine is loaded; with the last one the slot is ARMED. -/
def execArmingDone (e : Fin 20) (s : State) : Out :=
  if s.slot.state ≠ .arming ∨ s.saved ∨ (s.engine e.val).shadowKind ≠ .arming ∨ ¬ s.slot.left.contains (e.val, 0) then .next s
  else
    let rest := s.slot.left.filter (fun (x : Nat × Nat) => x.1 ≠ e.val)
    .next (s.onSlot (fun x => { x with left := rest, state := if rest.isEmpty then .armed else .arming }))

end Sys2Proof.Machine
end

