-- ==== Sys2Proof/Machine/Dispatch.lean ====
section
/-! DEFINITION. The meaning of each command, by direct call. -/

namespace Sys2Proof.Machine

/-- The effect of a command on everything but the queue of waiting commands. -/
def exec (i : Instr) (s : State) : Host.Outcome State Fault Refusal :=
  match i with
  | .resetRelease straps refB => Sys2Proof.Machine.execResetRelease straps refB s
  | .pwrOkLoss => Sys2Proof.Machine.execPwrOkLoss s
  | .bootStepEnd o => Sys2Proof.Machine.execBootStepEnd o s
  | .lockTimeout => Sys2Proof.Machine.execLockTimeout s
  | .inService => Sys2Proof.Machine.execInService s
  | .beatBoundary => Sys2Proof.Machine.execBeatBoundary s
  | .deadlineMissed dest => Sys2Proof.Machine.execDeadlineMissed dest s
  | .frameBoundary o => Sys2Proof.Machine.execFrameBoundary o s
  | .servoMeasurement => Sys2Proof.Machine.execServoMeasurement s
  | .followerMeasurement => Sys2Proof.Machine.execFollowerMeasurement s
  | .catchUpDone => Sys2Proof.Machine.execCatchUpDone s
  | .holdoverTimeout => Sys2Proof.Machine.execHoldoverTimeout s
  | .ppsInEdge count phase => Sys2Proof.Machine.execPpsInEdge count phase s
  | .ppsMissing => Sys2Proof.Machine.execPpsMissing s
  | .ppsOutPulse => Sys2Proof.Machine.execPpsOutPulse s
  | .rootSwitch => Sys2Proof.Machine.execRootSwitch s
  | .rootRelock ok => Sys2Proof.Machine.execRootRelock ok s
  | .rootRetire root => Sys2Proof.Machine.execRootRetire root s
  | .frameReceive port bytes fcsOk count phase => Sys2Proof.Machine.execFrameReceive port bytes fcsOk count phase s
  | .pdelayReqSend port => Sys2Proof.Machine.execPdelayReqSend port s
  | .fdbAgeOut mac => Sys2Proof.Machine.execFdbAgeOut mac s
  | .portEvent port linkLost relockFailed => Sys2Proof.Machine.execPortEvent port linkLost relockFailed s
  | .parserTakeItem m => Sys2Proof.Machine.execParserTakeItem m s
  | .parserExtract m dst off width little => Sys2Proof.Machine.execParserExtract m dst off width little s
  | .parserExtracts m dst off width little => Sys2Proof.Machine.execParserExtracts m dst off width little s
  | .parserAlu m op dst src b => Sys2Proof.Machine.execParserAlu m op dst src b s
  | .parserBranch m cond a b target => Sys2Proof.Machine.execParserBranch m cond a b target s
  | .parserLoop m count len stride => Sys2Proof.Machine.execParserLoop m count len stride s
  | .parserScale m dst src mult shift => Sys2Proof.Machine.execParserScale m dst src mult shift s
  | .parserPolar m dst range azimuth elevation => Sys2Proof.Machine.execParserPolar m dst range azimuth elevation s
  | .parserTime m op => Sys2Proof.Machine.execParserTime m op s
  | .parserEmit m => Sys2Proof.Machine.execParserEmit m s
  | .parserImage m line offset start len marker => Sys2Proof.Machine.execParserImage m line offset start len marker s
  | .parserMotion m kind src => Sys2Proof.Machine.execParserMotion m kind src s
  | .parserDrop m => Sys2Proof.Machine.execParserDrop m s
  | .parserEnd m => Sys2Proof.Machine.execParserEnd m s
  | .itemRelease => Sys2Proof.Machine.execItemRelease s
  | .deskew => Sys2Proof.Machine.execDeskew s
  | .peaFile => Sys2Proof.Machine.execPeaFile s
  | .splineVersionPublish => Sys2Proof.Machine.execSplineVersionPublish s
  | .redeskew => Sys2Proof.Machine.execRedeskew s
  | .rekeyStart r => Sys2Proof.Machine.execRekeyStart r s
  | .rekeyCopyDone r => Sys2Proof.Machine.execRekeyCopyDone r s
  | .rekeyDrainDone r => Sys2Proof.Machine.execRekeyDrainDone r s
  | .ageingPass pool => Sys2Proof.Machine.execAgeingPass pool s
  | .podMerge key => Sys2Proof.Machine.execPodMerge key s
  | .podRelocate key => Sys2Proof.Machine.execPodRelocate key s
  | .deltaBatchArrive b => Sys2Proof.Machine.execDeltaBatchArrive b s
  | .deltaApply => Sys2Proof.Machine.execDeltaApply s
  | .recordTransmit dest => Sys2Proof.Machine.execRecordTransmit dest s
  | .seqNext e c => Sys2Proof.Machine.execSeqNext e c s
  | .seqLoop e c count => Sys2Proof.Machine.execSeqLoop e c count s
  | .seqLoopEnd e c => Sys2Proof.Machine.execSeqLoopEnd e c s
  | .seqJumpMask e c offset => Sys2Proof.Machine.execSeqJumpMask e c offset s
  | .seqEndPass e c unit cycles => Sys2Proof.Machine.execSeqEndPass e c unit cycles s
  | .seqHalt e c unit => Sys2Proof.Machine.execSeqHalt e c unit s
  | .arrayMac e c mode bankB k w => Sys2Proof.Machine.execArrayMac e c mode bankB k w s
  | .arrayMacFirst e c mode bankB k w => Sys2Proof.Machine.execArrayMacFirst e c mode bankB k w s
  | .arrayDrain e c bankB requant d => Sys2Proof.Machine.execArrayDrain e c bankB requant d s
  | .vecAdd e c dst a b => Sys2Proof.Machine.execVecAdd e c dst a b s
  | .vecSub e c dst a b => Sys2Proof.Machine.execVecSub e c dst a b s
  | .vecMul e c dst a b => Sys2Proof.Machine.execVecMul e c dst a b s
  | .vecMulr e c dst a b imm => Sys2Proof.Machine.execVecMulr e c dst a b imm s
  | .vecShr e c dst a imm => Sys2Proof.Machine.execVecShr e c dst a imm s
  | .vecShl e c dst a imm => Sys2Proof.Machine.execVecShl e c dst a imm s
  | .vecMin e c dst a b => Sys2Proof.Machine.execVecMin e c dst a b s
  | .vecMax e c dst a b => Sys2Proof.Machine.execVecMax e c dst a b s
  | .vecCmp e c op a b => Sys2Proof.Machine.execVecCmp e c op a b s
  | .vecSel e c dst a b => Sys2Proof.Machine.execVecSel e c dst a b s
  | .vecPwl e c dst a table => Sys2Proof.Machine.execVecPwl e c dst a table s
  | .vecReduce e c dst a => Sys2Proof.Machine.execVecReduce e c dst a s
  | .vecCvt e c a requant d => Sys2Proof.Machine.execVecCvt e c a requant d s
  | .vecAccv e c dst bankB row => Sys2Proof.Machine.execVecAccv e c dst bankB row s
  | .vecLoadv e c dst => Sys2Proof.Machine.execVecLoadv e c dst s
  | .rootRecip e c fmt dst a lane => Sys2Proof.Machine.execRootRecip e c fmt dst a lane s
  | .rootDiv e c fmt dst a b lane => Sys2Proof.Machine.execRootDiv e c fmt dst a b lane s
  | .rootSqrt e c fmt dst a lane => Sys2Proof.Machine.execRootSqrt e c fmt dst a lane s
  | .rootRsqrt e c fmt dst a lane => Sys2Proof.Machine.execRootRsqrt e c fmt dst a lane s
  | .rootPivot e c fmt dst a lane => Sys2Proof.Machine.execRootPivot e c fmt dst a lane s
  | .syncWait e c mask => Sys2Proof.Machine.execSyncWait e c mask s
  | .syncWaitConsume e c mask => Sys2Proof.Machine.execSyncWaitConsume e c mask s
  | .syncSignal e c mask => Sys2Proof.Machine.execSyncSignal e c mask s
  | .loadSlot e c d dest n => Sys2Proof.Machine.execLoadSlot e c d dest n s
  | .storeSlot e c d src => Sys2Proof.Machine.execStoreSlot e c d src s
  | .exchange e c perm src => Sys2Proof.Machine.execExchange e c perm src s
  | .engineEvent e cause => Sys2Proof.Machine.execEngineEvent e cause s
  | .engineHang e => Sys2Proof.Machine.execEngineHang e s
  | .selfTestDone e ok => Sys2Proof.Machine.execSelfTestDone e ok s
  | .engAssignShadow e ctx => Sys2Proof.Machine.execEngAssignShadow e ctx s
  | .engSwitch e => Sys2Proof.Machine.execEngSwitch e s
  | .engRelease e => Sys2Proof.Machine.execEngRelease e s
  | .engRadish e inst => Sys2Proof.Machine.execEngRadish e inst s
  | .engRetire e => Sys2Proof.Machine.execEngRetire e s
  | .radishAnswer e ok => Sys2Proof.Machine.execRadishAnswer e ok s
  | .radishTimeout e => Sys2Proof.Machine.execRadishTimeout e s
  | .datasetMoveDone set => Sys2Proof.Machine.execDatasetMoveDone set s
  | .channelBalanceWindow o => Sys2Proof.Machine.execChannelBalanceWindow o s
  | .moverOpStart ch op => Sys2Proof.Machine.execMoverOpStart ch op s
  | .moverCopy ch => Sys2Proof.Machine.execMoverCopy ch s
  | .moverFill ch => Sys2Proof.Machine.execMoverFill ch s
  | .moverGather ch => Sys2Proof.Machine.execMoverGather ch s
  | .moverScatter ch => Sys2Proof.Machine.execMoverScatter ch s
  | .moverDeliver ch => Sys2Proof.Machine.execMoverDeliver ch s
  | .moverOpComplete ch => Sys2Proof.Machine.execMoverOpComplete ch s
  | .fastPublish => Sys2Proof.Machine.execFastPublish s
  | .fastSolveEnd track o => Sys2Proof.Machine.execFastSolveEnd track o s
  | .fastDeadlineMiss => Sys2Proof.Machine.execFastDeadlineMiss s
  | .slowPublish => Sys2Proof.Machine.execSlowPublish s
  | .slowDeadlineMiss => Sys2Proof.Machine.execSlowDeadlineMiss s
  | .slotLoad ini => Sys2Proof.Machine.execSlotLoad ini s
  | .slotCancel ini => Sys2Proof.Machine.execSlotCancel ini s
  | .slotCopyDone => Sys2Proof.Machine.execSlotCopyDone s
  | .slotVerifyDone certOk sigOk key => Sys2Proof.Machine.execSlotVerifyDone certOk sigOk key s
  | .admissionDone body => Sys2Proof.Machine.execAdmissionDone body s
  | .rehearsalDone r => Sys2Proof.Machine.execRehearsalDone r s
  | .armingDone e => Sys2Proof.Machine.execArmingDone e s
  | .dramRead ch addr first second third => Sys2Proof.Machine.execDramRead ch addr first second third s
  | .dramRepair ch => Sys2Proof.Machine.execDramRepair ch s
  | .dramCopyDone => Sys2Proof.Machine.execDramCopyDone s
  | .dramRefresh ch bank => Sys2Proof.Machine.execDramRefresh ch bank s
  | .dramRecalibrate ch ok => Sys2Proof.Machine.execDramRecalibrate ch ok s
  | .scrubRead first second third => Sys2Proof.Machine.execScrubRead first second third s
  | .sramReadError unit bank addr uncorrectable again => Sys2Proof.Machine.execSramReadError unit bank addr uncorrectable again s
  | .meshDoubleBit node index => Sys2Proof.Machine.execMeshDoubleBit node index s
  | .peerSignalDetect p present => Sys2Proof.Machine.execPeerSignalDetect p present s
  | .peerTrainingDone p ok => Sys2Proof.Machine.execPeerTrainingDone p ok s
  | .peerAligned p => Sys2Proof.Machine.execPeerAligned p s
  | .helloSend p => Sys2Proof.Machine.execHelloSend p s
  | .helloFlit p h b => Sys2Proof.Machine.execHelloFlit p h b s
  | .updateFlit p h b => Sys2Proof.Machine.execUpdateFlit p h b s
  | .laneSwapFlit p h lane first => Sys2Proof.Machine.execLaneSwapFlit p h lane first s
  | .seedReqFlit p h => Sys2Proof.Machine.execSeedReqFlit p h s
  | .refreshReqFlit p h => Sys2Proof.Machine.execRefreshReqFlit p h s
  | .timeFlitSend p count phase => Sys2Proof.Machine.execTimeFlitSend p count phase s
  | .timeFlit p h b count phase => Sys2Proof.Machine.execTimeFlit p h b count phase s
  | .nakFlit p h => Sys2Proof.Machine.execNakFlit p h s
  | .replayTimeout p => Sys2Proof.Machine.execReplayTimeout p s
  | .laneLockLoss p lane => Sys2Proof.Machine.execLaneLockLoss p lane s
  | .portDown p => Sys2Proof.Machine.execPortDown p s
  | .commitFlit p h records => Sys2Proof.Machine.execCommitFlit p h records s
  | .peaFlit p h b => Sys2Proof.Machine.execPeaFlit p h b s
  | .writeFlit p h dest b => Sys2Proof.Machine.execWriteFlit p h dest b s
  | .mirrorFlit p h entries => Sys2Proof.Machine.execMirrorFlit p h entries s
  | .seedFlit p h entries => Sys2Proof.Machine.execSeedFlit p h entries s
  | .mirrorLag => Sys2Proof.Machine.execMirrorLag s
  | .seedTimeout => Sys2Proof.Machine.execSeedTimeout s
  | .poseSample => Sys2Proof.Machine.execPoseSample s
  | .comparisonComplete => Sys2Proof.Machine.execComparisonComplete s
  | .compareSkipped => Sys2Proof.Machine.execCompareSkipped s
  | .recheckEnd slot differs => Sys2Proof.Machine.execRecheckEnd slot differs s
  | .recheckTimeout slot => Sys2Proof.Machine.execRecheckTimeout slot s
  | .heartbeatStop => Sys2Proof.Machine.execHeartbeatStop s
  | .powerSag internal => Sys2Proof.Machine.execPowerSag internal s
  | .saveComplete us => Sys2Proof.Machine.execSaveComplete us s
  | .marrowSweep => Sys2Proof.Machine.execMarrowSweep s
  | .trickleWrite ok => Sys2Proof.Machine.execTrickleWrite ok s
  | .thermalTrip => Sys2Proof.Machine.execThermalTrip s
  | .powerDomainFault d => Sys2Proof.Machine.execPowerDomainFault d s
  | .pciePerst => Sys2Proof.Machine.execPciePerst s
  | .functionLevelReset fn => Sys2Proof.Machine.execFunctionLevelReset fn s
  | .pushWord ini off words => Sys2Proof.Machine.execPushWord ini off words s
  | .itemTake fn => Sys2Proof.Machine.execItemTake fn s
  | .hostNop fn => Sys2Proof.Machine.execHostNop fn s
  | .hostFence fn => Sys2Proof.Machine.execHostFence fn s
  | .descCreate fn => Sys2Proof.Machine.execDescCreate fn s
  | .descDestroy fn => Sys2Proof.Machine.execDescDestroy fn s
  | .hostMove fn => Sys2Proof.Machine.execHostMove fn s
  | .mapWindow fn => Sys2Proof.Machine.execMapWindow fn s
  | .unmapWindow fn => Sys2Proof.Machine.execUnmapWindow fn s
  | .hostDump fn => Sys2Proof.Machine.execHostDump fn s
  | .hostAttest fn => Sys2Proof.Machine.execHostAttest fn s
  | .fenceComplete fn => Sys2Proof.Machine.execFenceComplete fn s
  | .unmapWindowComplete fn => Sys2Proof.Machine.execUnmapWindowComplete fn s
  | .dumpComplete => Sys2Proof.Machine.execDumpComplete s
  | .attestComplete => Sys2Proof.Machine.execAttestComplete s
  | .ringRecordWrite => Sys2Proof.Machine.execRingRecordWrite s
  | .ringSuspend => Sys2Proof.Machine.execRingSuspend s
  | .ringIrq => Sys2Proof.Machine.execRingIrq s
  | .registerWrite ini off bytes => Sys2Proof.Machine.execRegisterWrite ini off bytes s
  | .loRead ini off enables => Sys2Proof.Machine.execLoRead ini off enables s
  | .hiWrite ini off data => Sys2Proof.Machine.execHiWrite ini off data s
  | .aliasWrite ini block word bit data => Sys2Proof.Machine.execAliasWrite ini block word bit data s
  | .blockLock ini block => Sys2Proof.Machine.execBlockLock ini block s
  | .lockAll ini => Sys2Proof.Machine.execLockAll ini s
  | .timeSnap ini => Sys2Proof.Machine.execTimeSnap ini s
  | .timeSetGo ini => Sys2Proof.Machine.execTimeSetGo ini s
  | .portSpeedWrite ini port data => Sys2Proof.Machine.execPortSpeedWrite ini port data s
  | .fdbFlush ini => Sys2Proof.Machine.execFdbFlush ini s
  | .ingestFlush ini mask => Sys2Proof.Machine.execIngestFlush ini mask s
  | .wmHiSeenClear ini mask => Sys2Proof.Machine.execWmHiSeenClear ini mask s
  | .rekeyAll ini => Sys2Proof.Machine.execRekeyAll ini s
  | .marginReset ini => Sys2Proof.Machine.execMarginReset ini s
  | .escapeEventClear ini mask => Sys2Proof.Machine.execEscapeEventClear ini mask s
  | .releaseCaptures ini block => Sys2Proof.Machine.execReleaseCaptures ini block s
  | .coldAll ini => Sys2Proof.Machine.execColdAll ini s
  | .placeEvaluate ini => Sys2Proof.Machine.execPlaceEvaluate ini s
  | .scrubNow ini => Sys2Proof.Machine.execScrubNow ini s
  | .peerRetry ini mask => Sys2Proof.Machine.execPeerRetry ini mask s
  | .refreshMirror ini => Sys2Proof.Machine.execRefreshMirror ini s
  | .chipCoordWrite ini data => Sys2Proof.Machine.execChipCoordWrite ini data s
  | .safetyResume ini => Sys2Proof.Machine.execSafetyResume ini s
  | .forceHold ini => Sys2Proof.Machine.execForceHold ini s
  | .faultClear ini data => Sys2Proof.Machine.execFaultClear ini data s
  | .hqFlush ini => Sys2Proof.Machine.execHqFlush ini s
  | .cplEnable ini on => Sys2Proof.Machine.execCplEnable ini on s
  | .cplHeadWrite ini data => Sys2Proof.Machine.execCplHeadWrite ini data s
  | .ringEnable ini on => Sys2Proof.Machine.execRingEnable ini on s
  | .ringReadWrite ini data => Sys2Proof.Machine.execRingReadWrite ini data s
  | .outPost ini => Sys2Proof.Machine.execOutPost ini s
  | .inAck ini => Sys2Proof.Machine.execInAck ini s
  | .mboxTelemetry => Sys2Proof.Machine.execMboxTelemetry s
  | .mboxBootTimes => Sys2Proof.Machine.execMboxBootTimes s
  | .mboxFwWrite c => Sys2Proof.Machine.execMboxFwWrite c s
  | .advanceFw ini => Sys2Proof.Machine.execAdvanceFw ini s
  | .advanceImage ini ok => Sys2Proof.Machine.execAdvanceImage ini ok s
  | .debugChallenge ini random => Sys2Proof.Machine.execDebugChallenge ini random s
  | .debugUnlock ini certOk sigOk => Sys2Proof.Machine.execDebugUnlock ini certOk sigOk s
  | .fuseProgram ini => Sys2Proof.Machine.execFuseProgram ini s
  | .fuseProgramDone ok => Sys2Proof.Machine.execFuseProgramDone ok s
  | .marrowForget ini => Sys2Proof.Machine.execMarrowForget ini s
  | .smbReceiveByte => Sys2Proof.Machine.execSmbReceiveByte s
  | .smbReadReg off => Sys2Proof.Machine.execSmbReadReg off s
  | .smbWriteReg off data pecOk => Sys2Proof.Machine.execSmbWriteReg off data pecOk s
  | .smbTelemetry => Sys2Proof.Machine.execSmbTelemetry s
  | .smbSerial => Sys2Proof.Machine.execSmbSerial s
  | .smbAlertResponse => Sys2Proof.Machine.execSmbAlertResponse s
  | .resetAssert => Sys2Proof.Machine.execResetAssert s
  | .pwrOkRise => Sys2Proof.Machine.execPwrOkRise s
  | .sensorLinkUp port => Sys2Proof.Machine.execSensorLinkUp port s
  | .sensorLinkDown port => Sys2Proof.Machine.execSensorLinkDown port s
  | .delayReqSend => Sys2Proof.Machine.execDelayReqSend s
  | .slowSolveEnd o => Sys2Proof.Machine.execSlowSolveEnd o s
  | .peerSerdesPllLoss p relocked => Sys2Proof.Machine.execPeerSerdesPllLoss p relocked s
  | .heartbeatToggle => Sys2Proof.Machine.execHeartbeatToggle s
  | .keeperRecordWrite ok => Sys2Proof.Machine.execKeeperRecordWrite ok s
  | .meshSingleBit router link => Sys2Proof.Machine.execMeshSingleBit router link s

end Sys2Proof.Machine
end

