-- ==== Sys2Proof/Machine/Tick.lean ====
section
/-! DEFINITION. What passes while no command waits (log entry 9). -/

namespace Sys2Proof.Machine

open Sys2Proof

/-- A tick: TIME_COUNT counts one edge (R62), each sensor port sends one waiting frame (R125), and each peer port one waiting flit
(R528). While RESET_N is low or the part has stopped after a save, nothing passes. -/
def tick (s : State) : State :=
  if ¬ s.up ∨ s.saved then s
  else
    let s1 := s.onTl (fun t => { t with count := t.count + 1 })
    let s2 := (List.range 8).foldl State.transmitOne s1
    (List.range 6).foldl State.sendNext s2

end Sys2Proof.Machine
end

