-- ==== Sys2Proof/Safety.lean ====
section
/-! DEFINITION. What counts as a safe run of the part, in the terms that claims use. -/

namespace Sys2Proof.Machine

open Sys2Proof

/-! ### The pins and SAFE_HOLD -/

/-- Pins of a safe run: SAFE_A and SAFE_B differ while the heartbeat runs, and both are low otherwise (R609, R610). -/
def State.pinsSafe (s : State) : Bool :=
  if s.safety.hbRun then s.safety.safeA != s.safety.safeB else !s.safety.safeA && !s.safety.safeB

/-- A heartbeat that runs is not one that has stopped, and in SAFE_HOLD it stands stopped (R607, R608, R610). -/
def State.holdSafe (s : State) : Bool := (!s.safety.hbRun || !s.safety.hbStopped) && (!s.hold || s.safety.hbStopped)

/-- What the part promises its supervisor in every state: the pins say whether the heartbeat runs, and SAFE_HOLD keeps it stopped. -/
def State.Safe (s : State) : Prop := s.pinsSafe = true ∧ s.holdSafe = true

/-- Whether a command resets the part: the only ways out of SAFE_HOLD (R607). -/
def resets : Instr → Bool
  | .resetRelease _ _ => true
  | .pwrOkLoss => true
  | .resetAssert => true
  | _ => false

/-! ### Security and lifetime counters -/

/-- Once DEBUG_KILL is blown, debug is locked (R683, R733). -/
def State.DebugSafe (s : State) : Prop := s.fuses.killed = true → s.boot.unlocked = false

/-- No monotonic counter of the keeper die stands lower in `l` than in `k` (R741): epoch, IMAGE_MIN, ATTEST_COUNT, RECORD_SEQ, SWEEP. -/
structure Keeper.Le (k l : Keeper) : Prop where
  epoch : k.epochCounter ≤ l.epochCounter
  image : k.imageMin ≤ l.imageMin
  attest : k.attestCount ≤ l.attestCount
  log : k.logSeq ≤ l.logSeq
  sweep : k.sweepCounter ≤ l.sweepCounter

/-- Every bit blown in the ROLLBACK thermometer of `f` is blown in that of `g` (R717, R719). -/
def Fuses.Blown (f g : Fuses) : Prop := f.rollback &&& g.rollback = f.rollback

/-! ### Units -/

/-- How many units of each kind the state lists. -/
@[reducible] def State.unitCounts (s : State) : List Nat :=
  [s.roots.length, s.ports.length, s.ing.machines.length, s.engines.length, s.movers.length, s.peers.ports.length, s.mem.channels.length,
    s.host.fns.length, s.place.books.length, s.com.dests.length]

/-- The part has 2 clock roots, 8 sensor ports, 16 parser machines, 20 engines, 32 mover channels, 6 peer ports, 18 DRAM channels and 2 host
functions, a radish book for each engine, and 7 destinations of its commit stream (R5, R37, R137, R350, R486, R624, R654). -/
def State.Units (s : State) : Prop := s.unitCounts = [2, 8, 16, 20, 32, 6, 18, 2, 20, 7]

/-! ### Memory -/

/-- The canonical form of the stored registers: offsets strictly rising, none listed at its reset value. -/
def regsWf (m : Map Word) : Bool := mrising 0 m && m.all (fun x => decide (x.2 ≠ regReset x.1))

/-- The canonical form of the data sets: keys strictly rising, the bytes of each in the form of `cwf`. -/
def dataWf (m : Map DataStore) : Bool := mrising 0 m && m.all (fun x => cwf x.2.bytes)

/-- Every memory of the part is in its canonical form: registers, data sets, serial flash and host memory. -/
def State.MemOk (s : State) : Prop :=
  regsWf s.regs = true ∧ dataWf s.data = true ∧ cwf s.flash = true ∧ mrising 0 s.hostMem = true

/-! ### Frames -/

/-- The components of the state, each a field of `State`. -/
inductive Component where
  | pending | regs | shadows | held | wo | resetN | pwrOk | tl | roots
  | ports | fdb | ing | store | com | engines | descs | movers | data
  | solver | live | old | liveBeat | slot | place | mem | peers | safety
  | host | boot | power | keeper | fuses | flash | hostMem | out | free
  deriving DecidableEq, Repr

/-- A component is the same in `t` as in `s`. -/
def Component.same (c : Component) (s t : State) : Prop :=
  match c with
  | .pending => t.pending = s.pending
  | .regs => t.regs = s.regs
  | .shadows => t.shadows = s.shadows
  | .held => t.held = s.held
  | .wo => t.wo = s.wo
  | .resetN => t.resetN = s.resetN
  | .pwrOk => t.pwrOk = s.pwrOk
  | .tl => t.tl = s.tl
  | .roots => t.roots = s.roots
  | .ports => t.ports = s.ports
  | .fdb => t.fdb = s.fdb
  | .ing => t.ing = s.ing
  | .store => t.store = s.store
  | .com => t.com = s.com
  | .engines => t.engines = s.engines
  | .descs => t.descs = s.descs
  | .movers => t.movers = s.movers
  | .data => t.data = s.data
  | .solver => t.solver = s.solver
  | .live => t.live = s.live
  | .old => t.old = s.old
  | .liveBeat => t.liveBeat = s.liveBeat
  | .slot => t.slot = s.slot
  | .place => t.place = s.place
  | .mem => t.mem = s.mem
  | .peers => t.peers = s.peers
  | .safety => t.safety = s.safety
  | .host => t.host = s.host
  | .boot => t.boot = s.boot
  | .power => t.power = s.power
  | .keeper => t.keeper = s.keeper
  | .fuses => t.fuses = s.fuses
  | .flash => t.flash = s.flash
  | .hostMem => t.hostMem = s.hostMem
  | .out => t.out = s.out
  | .free => t.free = s.free

/-- Nothing but the components listed differs between `s` and `t`. -/
def Only (l : List Component) (s t : State) : Prop := ∀ c, l.contains c = false → c.same s t

/-- What a register write may change through its triggers. -/
def writeTouched : List Component :=
  [.regs, .held, .wo, .tl, .ports, .fdb, .ing, .store, .com, .engines, .solver, .slot, .place, .mem, .peers, .safety, .host, .boot, .power, .keeper, .fuses, .out, .free]

/-- What a reset changes: all but the queue, PWR_OK, the serial flash, host memory, the keeper die, the fuses and the model's own trace and count. -/
def resetTouched : List Component :=
  [.regs, .shadows, .held, .wo, .resetN, .tl, .roots, .ports, .fdb, .ing, .store, .com, .engines, .descs, .movers, .data, .solver, .live, .old, .liveBeat, .slot, .place, .mem, .peers, .safety, .host, .boot, .power]

/-- The components that a command may change: what its rule writes, and what the records, events and messages that it raises write
(`regs`, `host`, `out`, `safety`). -/
def touched : Instr → List Component
  | .resetRelease _ _ => resetTouched
  | .pwrOkLoss => [.regs, .shadows, .held, .wo, .resetN, .pwrOk, .tl, .roots, .ports, .fdb, .ing, .store, .com, .engines, .descs, .movers, .data, .solver, .live, .old, .liveBeat, .slot, .place, .mem, .peers, .safety, .host, .boot, .power]
  | .bootStepEnd _ => [.regs, .roots, .ports, .com, .engines, .data, .slot, .place, .mem, .safety, .host, .boot, .power, .keeper, .out]
  | .lockTimeout => [.regs, .tl, .com, .peers, .safety, .host, .boot, .keeper, .out]
  | .inService => [.regs, .tl, .com, .peers, .safety, .host, .boot, .keeper, .out]
  | .beatBoundary => [.regs, .tl, .ing, .store, .com, .peers, .safety, .host, .power, .hostMem, .out]
  | .deadlineMissed _ => [.regs, .com, .safety, .host, .out]
  | .frameBoundary _ => [.regs, .tl, .store, .com, .engines, .descs, .movers, .data, .solver, .live, .old, .liveBeat, .slot, .place, .mem, .peers, .safety, .host, .power, .keeper, .out]
  | .servoMeasurement => [.regs, .tl, .host, .keeper, .out]
  | .followerMeasurement => [.tl]
  | .catchUpDone => [.tl]
  | .holdoverTimeout => [.regs, .tl, .host, .out]
  | .ppsInEdge _ _ => [.regs, .tl, .host, .out]
  | .ppsMissing => [.regs, .tl, .host, .out]
  | .ppsOutPulse => [.tl, .out]
  | .rootSwitch => [.regs, .tl, .roots, .com, .engines, .slot, .safety, .host, .keeper, .out, .free]
  | .rootRelock _ => [.regs, .roots, .com, .engines, .slot, .safety, .host, .keeper, .out]
  | .rootRetire _ => [.regs, .roots, .com, .engines, .slot, .safety, .host, .keeper, .out]
  | .frameReceive _ _ _ _ _ => [.regs, .tl, .ports, .fdb, .ing, .host, .out]
  | .pdelayReqSend _ => [.regs, .ports]
  | .fdbAgeOut _ => [.fdb]
  | .portEvent _ _ _ => [.regs, .ports, .safety, .host, .keeper, .out]
  | .parserTakeItem _ => [.regs, .ing, .host, .out]
  | .parserExtract _ _ _ _ _ => [.regs, .ing, .host, .out]
  | .parserExtracts _ _ _ _ _ => [.regs, .ing, .host, .out]
  | .parserAlu _ _ _ _ _ => [.regs, .ing, .host, .out, .free]
  | .parserBranch _ _ _ _ _ => [.regs, .ing, .host, .out]
  | .parserLoop _ _ _ _ => [.regs, .ing, .host, .out]
  | .parserScale _ _ _ _ _ => [.regs, .ing, .host, .out]
  | .parserPolar _ _ _ _ _ => [.regs, .ing, .host, .out]
  | .parserTime _ _ => [.regs, .ing, .host, .out]
  | .parserEmit _ => [.regs, .ing, .host, .out]
  | .parserImage _ _ _ _ _ _ => [.regs, .ing, .host, .out]
  | .parserMotion _ _ _ => [.regs, .ing, .host, .out]
  | .parserDrop _ => [.regs, .ing, .host, .out]
  | .parserEnd _ => [.regs, .ing, .host, .out]
  | .itemRelease => [.regs, .ing, .store, .solver, .safety, .host, .out]
  | .deskew => [.regs, .store, .peers, .safety, .host, .out, .free]
  | .peaFile => [.regs, .store, .com, .host, .out, .free]
  | .splineVersionPublish => [.store]
  | .redeskew => [.regs, .store, .com, .peers, .host, .out, .free]
  | .rekeyStart _ => [.store]
  | .rekeyCopyDone _ => [.store]
  | .rekeyDrainDone _ => [.regs, .store, .host, .out]
  | .ageingPass _ => [.regs, .store, .peers]
  | .podMerge _ => [.regs, .store, .com, .peers, .host, .out]
  | .podRelocate _ => [.regs, .store]
  | .deltaBatchArrive _ => [.regs, .com, .host, .out]
  | .deltaApply => [.regs, .store, .com, .safety, .host, .out]
  | .recordTransmit _ => [.regs, .com, .peers, .safety]
  | .seqNext _ _ => [.engines, .place]
  | .seqLoop _ _ _ => [.engines, .place, .free]
  | .seqLoopEnd _ _ => [.engines, .place, .free]
  | .seqJumpMask _ _ _ => [.engines, .place]
  | .seqEndPass _ _ _ _ => [.regs, .engines, .movers, .place]
  | .seqHalt _ _ _ => [.engines, .place]
  | .arrayMac _ _ _ _ _ _ => [.regs, .engines]
  | .arrayMacFirst _ _ _ _ _ _ => [.regs, .engines]
  | .arrayDrain _ _ _ _ _ => [.regs, .engines, .host, .out, .free]
  | .vecAdd _ _ _ _ _ => [.regs, .engines]
  | .vecSub _ _ _ _ _ => [.regs, .engines]
  | .vecMul _ _ _ _ _ => [.regs, .engines]
  | .vecMulr _ _ _ _ _ _ => [.regs, .engines]
  | .vecShr _ _ _ _ _ => [.regs, .engines]
  | .vecShl _ _ _ _ _ => [.regs, .engines]
  | .vecMin _ _ _ _ _ => [.regs, .engines]
  | .vecMax _ _ _ _ _ => [.regs, .engines]
  | .vecCmp _ _ _ _ _ => [.regs, .engines]
  | .vecSel _ _ _ _ _ => [.regs, .engines]
  | .vecPwl _ _ _ _ _ => [.regs, .engines]
  | .vecReduce _ _ _ _ => [.regs, .engines]
  | .vecCvt _ _ _ _ _ => [.regs, .engines, .host, .out, .free]
  | .vecAccv _ _ _ _ _ => [.regs, .engines]
  | .vecLoadv _ _ _ => [.regs, .engines]
  | .rootRecip _ _ _ _ _ _ => [.engines]
  | .rootDiv _ _ _ _ _ _ _ => [.engines]
  | .rootSqrt _ _ _ _ _ _ => [.engines]
  | .rootRsqrt _ _ _ _ _ _ => [.engines]
  | .rootPivot _ _ _ _ _ _ => [.engines]
  | .syncWait _ _ _ => [.engines]
  | .syncWaitConsume _ _ _ => [.engines]
  | .syncSignal _ _ _ => [.engines]
  | .loadSlot _ _ _ _ _ => [.regs, .engines]
  | .storeSlot _ _ _ _ => [.regs, .engines, .free]
  | .exchange _ _ _ _ => [.engines]
  | .engineEvent _ _ => [.regs, .engines, .slot, .place, .safety, .host, .keeper, .out]
  | .engineHang _ => [.regs, .engines, .slot, .place, .safety, .host, .keeper, .out]
  | .selfTestDone _ _ => [.regs, .engines, .slot, .place, .safety, .host, .keeper, .out]
  | .engAssignShadow _ _ => [.regs, .engines, .safety, .host, .out]
  | .engSwitch _ => [.regs, .engines, .safety]
  | .engRelease _ => [.regs, .engines, .safety]
  | .engRadish _ _ => [.regs, .engines, .place, .safety]
  | .engRetire _ => [.regs, .engines, .slot, .place, .safety, .host, .keeper, .out]
  | .radishAnswer _ _ => [.regs, .engines, .slot, .place, .safety, .host, .keeper, .out]
  | .radishTimeout _ => [.regs, .engines, .slot, .place, .safety, .host, .keeper, .out]
  | .datasetMoveDone _ => [.place]
  | .channelBalanceWindow _ => [.regs, .store, .place, .host, .out]
  | .moverOpStart _ _ => [.regs, .descs, .movers, .host, .hostMem, .out]
  | .moverCopy _ => [.regs, .engines, .movers, .data, .peers, .safety, .host, .hostMem, .out, .free]
  | .moverFill _ => [.regs, .engines, .movers, .data, .peers, .safety, .host, .hostMem, .out, .free]
  | .moverGather _ => [.regs, .engines, .movers, .data, .peers, .safety, .host, .hostMem, .out, .free]
  | .moverScatter _ => [.regs, .engines, .movers, .data, .peers, .safety, .host, .hostMem, .out, .free]
  | .moverDeliver _ => [.regs, .com, .movers, .safety, .host, .out, .free]
  | .moverOpComplete _ => [.regs, .engines, .descs, .movers, .host, .hostMem, .out]
  | .fastPublish => [.regs, .store, .solver, .host, .out]
  | .fastSolveEnd _ _ => [.regs, .solver, .host, .out, .free]
  | .fastDeadlineMiss => [.regs, .com, .solver, .safety, .host, .out]
  | .slowPublish => [.regs, .store, .solver]
  | .slowDeadlineMiss => [.regs, .com, .solver, .safety, .host, .out]
  | .slotLoad _ => writeTouched
  | .slotCancel _ => writeTouched
  | .slotCopyDone => [.slot]
  | .slotVerifyDone _ _ _ => [.regs, .engines, .slot, .host, .out]
  | .admissionDone _ => [.regs, .engines, .slot, .place, .host, .out]
  | .rehearsalDone _ => [.regs, .engines, .slot, .place, .safety, .host, .keeper, .out]
  | .armingDone _ => [.slot]
  | .dramRead _ _ _ _ _ => [.regs, .store, .com, .engines, .data, .slot, .place, .mem, .peers, .safety, .host, .keeper, .out]
  | .dramRepair _ => [.regs, .store, .com, .engines, .data, .slot, .place, .mem, .peers, .safety, .host, .keeper, .out]
  | .dramCopyDone => [.mem]
  | .dramRefresh _ _ => []
  | .dramRecalibrate _ _ => [.regs, .store, .com, .engines, .data, .slot, .place, .mem, .peers, .safety, .host, .keeper, .out]
  | .scrubRead _ _ _ => [.regs, .store, .com, .engines, .data, .slot, .place, .mem, .peers, .safety, .host, .keeper, .out]
  | .sramReadError _ _ _ _ _ => [.regs, .com, .engines, .data, .slot, .place, .mem, .safety, .host, .keeper, .out, .free]
  | .meshDoubleBit _ _ => [.regs, .store, .com, .engines, .data, .slot, .place, .mem, .peers, .safety, .host, .keeper, .out, .free]
  | .peerSignalDetect _ _ => [.regs, .tl, .com, .peers, .host, .out]
  | .peerTrainingDone _ _ => [.regs, .tl, .com, .peers, .safety, .host, .keeper, .out]
  | .peerAligned _ => [.peers]
  | .helloSend _ => [.regs, .peers, .out]
  | .helloFlit _ _ _ => [.regs, .tl, .com, .peers, .safety, .host, .out]
  | .updateFlit _ _ _ => [.regs, .tl, .com, .peers, .safety, .host, .out]
  | .laneSwapFlit _ _ _ _ => [.regs, .tl, .com, .peers, .host, .out]
  | .seedReqFlit _ _ => [.regs, .peers, .out]
  | .refreshReqFlit _ _ => [.regs, .peers, .out]
  | .timeFlitSend _ _ _ => [.regs, .peers, .out]
  | .timeFlit _ _ _ _ _ => [.regs, .tl, .peers, .host, .keeper, .out]
  | .nakFlit _ _ => [.regs, .tl, .com, .peers, .host, .out]
  | .replayTimeout _ => [.regs, .tl, .com, .peers, .host, .out]
  | .laneLockLoss _ _ => [.regs, .tl, .com, .peers, .safety, .host, .keeper, .out]
  | .portDown _ => [.regs, .tl, .com, .peers, .host, .out]
  | .commitFlit _ _ _ => [.regs, .tl, .com, .data, .peers, .safety, .host, .keeper, .out]
  | .peaFlit _ _ _ => [.regs, .tl, .ing, .store, .com, .peers, .safety, .host, .keeper, .out]
  | .writeFlit _ _ _ _ => [.regs, .tl, .com, .engines, .movers, .data, .peers, .safety, .host, .keeper, .hostMem, .out]
  | .mirrorFlit _ _ _ => [.regs, .tl, .com, .peers, .safety, .host, .keeper, .out]
  | .seedFlit _ _ _ => [.regs, .tl, .store, .com, .peers, .safety, .host, .keeper, .out]
  | .mirrorLag => [.regs, .host, .out]
  | .seedTimeout => [.regs, .tl, .com, .peers, .safety, .host, .boot, .keeper, .out]
  | .poseSample => [.safety]
  | .comparisonComplete => [.regs, .com, .safety, .host, .out]
  | .compareSkipped => [.regs, .safety, .host, .out]
  | .recheckEnd _ _ => [.regs, .com, .engines, .slot, .place, .safety, .host, .keeper, .out]
  | .recheckTimeout _ => [.regs, .com, .engines, .slot, .place, .safety, .host, .keeper, .out]
  | .heartbeatStop => [.regs, .safety, .host, .out]
  | .powerSag _ => [.regs, .com, .engines, .slot, .safety, .host, .boot, .power, .keeper, .out]
  | .saveComplete _ => [.com, .safety, .power, .keeper]
  | .marrowSweep => [.regs, .host, .power, .keeper, .out]
  | .trickleWrite _ => [.regs, .safety, .host, .keeper, .out]
  | .thermalTrip => [.regs, .store, .com, .engines, .data, .slot, .place, .mem, .peers, .safety, .host, .keeper, .out]
  | .powerDomainFault _ => [.regs, .store, .com, .engines, .data, .slot, .place, .mem, .peers, .safety, .host, .keeper, .out]
  | .pciePerst => [.regs, .com, .descs, .movers, .host]
  | .functionLevelReset _ => [.regs, .com, .descs, .movers, .host]
  | .pushWord _ _ _ => [.regs, .safety, .host, .out]
  | .itemTake _ => [.regs, .host, .hostMem, .out]
  | .hostNop _ => [.regs, .host, .hostMem, .out]
  | .hostFence _ => [.regs, .host, .hostMem, .out]
  | .descCreate _ => [.regs, .descs, .host, .hostMem, .out]
  | .descDestroy _ => [.regs, .descs, .host, .hostMem, .out]
  | .hostMove _ => [.regs, .movers, .host, .hostMem, .out]
  | .mapWindow _ => [.regs, .host, .hostMem, .out]
  | .unmapWindow _ => [.regs, .host, .hostMem, .out]
  | .hostDump _ => [.regs, .host, .hostMem, .out]
  | .hostAttest _ => [.regs, .host, .keeper, .hostMem, .out]
  | .fenceComplete _ => [.regs, .host, .hostMem, .out]
  | .unmapWindowComplete _ => [.regs, .host, .hostMem, .out]
  | .dumpComplete => [.regs, .host, .hostMem, .out]
  | .attestComplete => [.regs, .host, .keeper, .hostMem, .out]
  | .ringRecordWrite => [.regs, .com, .host, .hostMem]
  | .ringSuspend => [.regs, .com, .safety, .host, .out]
  | .ringIrq => [.host, .out]
  | .registerWrite _ _ _ => writeTouched
  | .loRead _ _ _ => [.regs, .shadows, .safety, .host, .out]
  | .hiWrite _ _ _ => writeTouched
  | .aliasWrite _ _ _ _ _ => writeTouched
  | .blockLock _ _ => writeTouched
  | .lockAll _ => writeTouched
  | .timeSnap _ => writeTouched
  | .timeSetGo _ => writeTouched
  | .portSpeedWrite _ _ _ => writeTouched
  | .fdbFlush _ => writeTouched
  | .ingestFlush _ _ => writeTouched
  | .wmHiSeenClear _ _ => writeTouched
  | .rekeyAll _ => writeTouched
  | .marginReset _ => writeTouched
  | .escapeEventClear _ _ => writeTouched
  | .releaseCaptures _ _ => writeTouched
  | .coldAll _ => writeTouched
  | .placeEvaluate _ => writeTouched
  | .scrubNow _ => writeTouched
  | .peerRetry _ _ => writeTouched
  | .refreshMirror _ => writeTouched
  | .chipCoordWrite _ _ => writeTouched
  | .safetyResume _ => writeTouched
  | .forceHold _ => writeTouched
  | .faultClear _ _ => writeTouched
  | .hqFlush _ => writeTouched
  | .cplEnable _ _ => writeTouched
  | .cplHeadWrite _ _ => writeTouched
  | .ringEnable _ _ => writeTouched
  | .ringReadWrite _ _ => writeTouched
  | .outPost _ => writeTouched
  | .inAck _ => writeTouched
  | .mboxTelemetry => [.regs, .host, .boot, .out]
  | .mboxBootTimes => [.regs, .host, .boot, .out]
  | .mboxFwWrite _ => [.regs, .host, .boot, .flash, .out]
  | .advanceFw _ => writeTouched
  | .advanceImage _ _ => writeTouched
  | .debugChallenge _ _ => writeTouched
  | .debugUnlock _ _ _ => writeTouched
  | .fuseProgram _ => writeTouched
  | .fuseProgramDone _ => [.regs, .host, .boot, .fuses, .out]
  | .marrowForget _ => writeTouched
  | .smbReceiveByte => [.out]
  | .smbReadReg _ => [.regs, .shadows, .safety, .host, .out]
  | .smbWriteReg _ _ _ => writeTouched
  | .smbTelemetry => [.out]
  | .smbSerial => [.out]
  | .smbAlertResponse => [.safety, .out]
  | .resetAssert => resetTouched
  | .pwrOkRise => [.pwrOk]
  | .sensorLinkUp _ => [.regs, .ports, .host, .out]
  | .sensorLinkDown _ => [.regs, .ports, .host, .out]
  | .delayReqSend => [.regs, .tl, .ports]
  | .slowSolveEnd _ => [.regs, .solver, .host, .out]
  | .peerSerdesPllLoss _ _ => [.regs, .tl, .com, .peers, .host, .out]
  | .heartbeatToggle => [.safety]
  | .keeperRecordWrite _ => [.regs, .safety, .host, .keeper, .out]
  | .meshSingleBit _ _ => [.mem]

/-! ### Parser machines -/

/-- Fixed lists of the sensor ports, of ingest and of the peer ports: 8 queues with a watermark each, 32 registers in every parser machine
(R137, R152), 4 classes in every egress queue (R125), 5 lanes and 4 virtual channels on every peer port (R524, R527), 8 slots of
declarations (R599). -/
def State.Shape (s : State) : Prop :=
  s.ing.queues.length = 8 ∧ s.ing.wmNow.length = 8 ∧ (∀ p ∈ s.ing.machines, p.regs.length = 32) ∧ (∀ q ∈ s.ports, q.egress.length = 4) ∧ s.safety.decls.length = 8 ∧
    ∀ q ∈ s.peers.ports, q.lanes.length = 5 ∧ q.waiting.length = 4 ∧ q.owe.length = 4 ∧ q.credits.length = 4

/-- The parser machine that an instruction of R138 runs on. -/
def parserOf : Instr → Option (Fin 16)
  | .parserExtract m _ _ _ _ | .parserExtracts m _ _ _ _ | .parserAlu m _ _ _ _ | .parserBranch m _ _ _ _ | .parserLoop m _ _ _
  | .parserScale m _ _ _ _ | .parserPolar m _ _ _ _ | .parserTime m _ | .parserEmit m | .parserImage m _ _ _ _ _
  | .parserMotion m _ _ | .parserDrop m | .parserEnd m => some m
  | _ => none

/-- Machine `m` holds an item that it has not ended. -/
def State.parsing (s : State) (m : Nat) (i : IngestItem) : Prop := (s.machine m).item = some i ∧ (s.machine m).ended = false

/-- Machine `m` may run an instruction: it holds an item that it has not ended and has not run its 65,536 (R139). -/
def State.runs (s : State) (m : Nat) (i : IngestItem) : Prop := s.parsing m i ∧ (s.machine m).count < 65536

/-- Nothing but machine `m` and the count of free values differs, and the machine has run one instruction more of the same item. -/
structure ParserRan (s t : State) (m : Nat) : Prop where
  frame : Only [.ing, .free] s t
  ingest : t.ing = { s.ing with machines := t.ing.machines }
  others : ∀ n, n ≠ m → t.machine n = s.machine n
  count : (t.machine m).count = (s.machine m).count + 1
  item : (t.machine m).item = (s.machine m).item ∧ (t.machine m).port = (s.machine m).port

/-- With no loop open, the machine goes on to the next instruction, its base as it was. -/
def ParserNext (s t : State) (m : Nat) : Prop :=
  (s.machine m).loops = [] → (t.machine m).loops = [] ∧ (t.machine m).pc = (s.machine m).pc + 1 ∧ (t.machine m).base = (s.machine m).base

/-- An instruction of machine `m` that writes register `d` and nothing else of its item's work. -/
def ParserWrote (s t : State) (m d : Nat) (v : BitVec 64) : Prop :=
  ParserRan s t m ∧ ParserNext s t m ∧ (t.machine m).reg d = v ∧ (∀ r, r ≠ d → (t.machine m).reg r = (s.machine m).reg r) ∧
    (t.machine m).out = (s.machine m).out ∧ (t.machine m).ended = false ∧ (t.machine m).baseTime = (s.machine m).baseTime

/-- Machine `m` has abandoned its item: it is idle, nothing of the item's output stays, and PARSE_DROPS counts the item (R139). -/
structure ParserAbandoned (s t : State) (m : Nat) : Prop where
  frame : Only [.regs, .ing, .host, .out, .free] s t
  ingest : t.ing = { s.ing with machines := t.ing.machines }
  idle : t.machine m = {}
  others : ∀ n, n ≠ m → t.machine n = s.machine n
  drops : t.rget (Reg.PARSE_DROPS (s.machine m).port) = satAdd32 (s.rget (Reg.PARSE_DROPS (s.machine m).port)) 1
  event : t.rbit Reg.INGEST_EVENTS 18 = true

/-! ### Slots of an engine -/

/-- The engine and context whose bundle slot a command is (R276, R279). -/
def slotOf : Instr → Option (Fin 20 × CtxSel)
  | .seqNext e c | .seqLoop e c _ | .seqLoopEnd e c | .seqJumpMask e c _ | .seqEndPass e c _ _ | .seqHalt e c _
  | .arrayMac e c _ _ _ _ | .arrayMacFirst e c _ _ _ _ | .arrayDrain e c _ _ _
  | .vecAdd e c _ _ _ | .vecSub e c _ _ _ | .vecMul e c _ _ _ | .vecMulr e c _ _ _ _ | .vecShr e c _ _ _ | .vecShl e c _ _ _
  | .vecMin e c _ _ _ | .vecMax e c _ _ _ | .vecCmp e c _ _ _ | .vecSel e c _ _ _ | .vecPwl e c _ _ _ | .vecReduce e c _ _
  | .vecCvt e c _ _ _ | .vecAccv e c _ _ _ | .vecLoadv e c _
  | .rootRecip e c _ _ _ _ | .rootDiv e c _ _ _ _ _ | .rootSqrt e c _ _ _ _ | .rootRsqrt e c _ _ _ _ | .rootPivot e c _ _ _ _
  | .syncWait e c _ | .syncWaitConsume e c _ | .syncSignal e c _ | .loadSlot e c _ _ _ | .storeSlot e c _ _ | .exchange e c _ _ => some (e, c)
  | _ => none

/-- A slot of context `c` of engine `e` has left the context as `y`: the engine's other contexts and its state, the other engines and
every component but the registers, the engines, the load book and the count of free values are as before. -/
structure SlotLeft (s t : State) (e : Fin 20) (c : CtxSel) (y : EngCtx) : Prop where
  ctx : t.ctxOf e c = some y
  other : ∀ d, d ≠ c → t.ctxOf e d = s.ctxOf e d
  state : (t.engine e).state = (s.engine e).state
  engines : ∀ n : Fin 20, n ≠ e → t.engine n = s.engine n
  frame : Only [.regs, .engines, .place, .host, .out, .free] s t

/-- Such a slot that writes neither the engine's store nor an accumulator. -/
structure SlotRan (s t : State) (e : Fin 20) (c : CtxSel) (y : EngCtx) : Prop extends SlotLeft s t e c y where
  store : (t.engine e).store = (s.engine e).store
  banks : (t.engine e).bankA = (s.engine e).bankA ∧ (t.engine e).bankB = (s.engine e).bankB

/-- A vector operation has left its context as `y` and counts in VECTOR_CYCLES. -/
structure VecRan (s t : State) (e : Fin 20) (c : CtxSel) (y : EngCtx) : Prop extends SlotRan s t e c y where
  count : t.rget (Reg.VECTOR_CYCLES_LO e) = nw (s.rpair (Reg.VECTOR_CYCLES_LO e) (Reg.VECTOR_CYCLES_HI e) + 1)

/-- Lane `i` of vector register `r`. -/
def laneOf (x : EngCtx) (r i : Nat) : Int := lgetD (x.vreg r) i 0

/-- `y` is `x` with `f i`, saturated to 48 bits, in each lane `i` of register `dst`, and the mark of a saturation (R298). -/
structure LanesWritten (x y : EngCtx) (dst : Nat) (f : Nat → Int) : Prop where
  vals : ∀ i, i < 64 → laneOf y dst i = ssat 48 (f i)
  sat : y.vecFlags.accSat = true ↔ x.vecFlags.accSat = true ∨ ∃ i, i < 64 ∧ ssat 48 (f i) ≠ f i
  regs : ∀ r, r ≠ dst → y.vreg r = x.vreg r
  rest : y = { x with vregs := y.vregs, vecFlags := { x.vecFlags with accSat := y.vecFlags.accSat } }

/-- Lane `l` of register `dst` holds `v`; every other lane and register is as in `x`, and nothing but the mask and the root status
besides (R374). -/
structure LaneSet (x y : EngCtx) (dst l : Nat) (v : Int) : Prop where
  val : laneOf y dst l = v
  lanes : ∀ i, i ≠ l → laneOf y dst i = laneOf x dst i
  regs : ∀ r, r ≠ dst → y.vreg r = x.vreg r
  rest : y = { x with vregs := y.vregs, mask := y.mask, root := y.root }

/-! ### Completions -/

/-- Item `id` of function `f` has completed: it is outstanding no more, its entry with STATUS `status` and the two INFO words lies in
the completion ring at the former tail, which has moved on by one, and the event is set (R650, R651). -/
structure Completed (s t : State) (f id status info0 info1 : Nat) : Prop where
  taken : (t.fn f).taken = (s.fn f).taken.filter (fun x => x.id ≠ id)
  tail : t.rget (hqReg f Reg.CPL_TAIL) = s.rget (hqReg f Reg.CPL_TAIL) + 1
  event : t.rbit (hqReg f Reg.HQ_EVENTS) 0 = true
  entry : ∀ x, (s.fn f).taken.find? (fun y => y.id = id) = some x → (List.range 32).map (fun i =>
      t.hread (s.rpair (hqReg f Reg.CPL_BASE_LO) (hqReg f Reg.CPL_BASE_HI) + (s.rget (hqReg f Reg.CPL_TAIL)).toNat % s.cplSize f * 32 + i)) =
    cplBytes x.tag x.opcode status s.tl.beat s.tl.epoch.toNat info0 info1 (decide ((s.rget (hqReg f Reg.CPL_TAIL)).toNat / s.cplSize f % 2 = 0))

/-! ### Register commands -/

/-- An initiator's word access to the register at `off` reaches it: the request reaches the window, and every region of the control
window that covers the word grants it (R572, R662). -/
def State.mayReach (s : State) (ini : Initiator) (off : Nat) (write : Bool := true) : Prop :=
  s.reaches ini = true ∧ s.fwOpen 0 write ini.id off 4 = true

/-- A word write reaches the register, and the initiator is privileged (R680). -/
def State.mayWrite (s : State) (ini : Initiator) (off : Nat) : Prop := s.mayReach ini off ∧ s.privileged ini = true

/-- The initiator and the offset of a command that sets a bit of a *_CTRL register only privileged writes may reach (R680). -/
def ctrlWrite : Instr → Option (Initiator × Nat)
  | .lockAll i => some (i, Reg.GLOBAL_CTRL)
  | .outPost i | .inAck i => some (i, Reg.MBOX_CTRL)
  | .timeSnap i | .timeSetGo i => some (i, Reg.TIME_CTRL)
  | .fdbFlush i => some (i, Reg.PORT_CTRL)
  | .ingestFlush i _ => some (i, Reg.INGEST_CTRL)
  | .rekeyAll i => some (i, Reg.POD_CTRL)
  | .marginReset i => some (i, Reg.COMMIT_CTRL)
  | .coldAll i => some (i, Reg.SOLVER_CTRL)
  | .slotLoad i | .slotCancel i => some (i, Reg.SLOT_CTRL)
  | .placeEvaluate i => some (i, Reg.PLACE_CTRL)
  | .scrubNow i => some (i, Reg.MEM_CTRL)
  | .peerRetry i _ | .refreshMirror i => some (i, Reg.PEER_CTRL)
  | .safetyResume i | .forceHold i => some (i, Reg.SAFETY_CTRL)
  | .advanceFw i | .advanceImage i _ | .debugChallenge i _ | .debugUnlock i _ _ => some (i, Reg.SEC_CTRL)
  | .fuseProgram i => some (i, Reg.FUSE_CTRL)
  | .marrowForget i => some (i, Reg.POWER_CTRL)
  | _ => none

end Sys2Proof.Machine

namespace Sys2Proof

/-- A word holds, in every field of a register, a value of the field's range. -/
def RegDef.takes (d : RegDef) (w : Word) : Prop := ∀ f ∈ d.fields, f.min ≤ wbits w f.hi f.lo ∧ wbits w f.hi f.lo ≤ f.max

/-- Two words that agree in every field of a register. -/
def RegDef.agrees (d : RegDef) (v w : Word) : Prop := ∀ f ∈ d.fields, wbits v f.hi f.lo = wbits w f.hi f.lo

end Sys2Proof

namespace Sys2Proof.Machine

open Sys2Proof

/-- A write stopped or held with KIND `kind` (R575, R622, R662): it is counted, the event of its kind is set, and LATE_WRITE_INFO and
LATE_WRITE_ADDR take it while they are free; nothing else but the log and the messages changes. -/
structure WriteLogged (s t : State) (ini : Initiator) (off kind : Nat) : Prop where
  frame : Only [.regs, .safety, .host, .out] s t
  count : t.rget Reg.LATE_WRITES = satAdd32 (s.rget Reg.LATE_WRITES) 1
  event : t.rbit Reg.SAFETY_EVENTS (if 3 ≤ kind then 12 else 9) = true
  taken : s.rbit Reg.LATE_WRITE_INFO 31 = false → t.rget Reg.LATE_WRITE_INFO = nw (2 ^ 31 + kind * 2 ^ 28 + ini.id * 2 ^ 22) ∧
    t.rget Reg.LATE_WRITE_ADDR = nw (off + if ini = .pf1 then 2 ^ 31 else 0)
  kept : s.rbit Reg.LATE_WRITE_INFO 31 = true → t.rget Reg.LATE_WRITE_INFO = s.rget Reg.LATE_WRITE_INFO ∧
    t.rget Reg.LATE_WRITE_ADDR = s.rget Reg.LATE_WRITE_ADDR
  others : ∀ p, p ∉ [Reg.LATE_WRITES, Reg.LATE_WRITE_INFO, Reg.LATE_WRITE_ADDR, Reg.LOG_SUPPRESSED, Reg.SAFETY_EVENTS] → t.rget p = s.rget p

/-- An access that the firewall denies (R575): it is counted, the event is set, and the captures take it while they are free; nothing else
but the log and the messages changes. -/
structure AccessDenied (s t : State) (ini : Initiator) (write : Bool) (off : Nat) : Prop where
  frame : Only [.regs, .safety, .host, .out] s t
  count : t.rget Reg.FW_DENIALS = satAdd32 (s.rget Reg.FW_DENIALS) 1
  event : t.rbit Reg.SAFETY_EVENTS 10 = true
  taken : s.rbit Reg.FW_DENY_INFO 31 = false → t.rget Reg.FW_DENY_INFO = nw (2 ^ 31 + b2n write * 2 ^ 30 + ini.id * 2 ^ 24) ∧
    t.rpair Reg.FW_DENY_ADDR_LO Reg.FW_DENY_ADDR_HI = off
  kept : s.rbit Reg.FW_DENY_INFO 31 = true → t.rget Reg.FW_DENY_INFO = s.rget Reg.FW_DENY_INFO
  others : ∀ p, p ∉ [Reg.FW_DENIALS, Reg.FW_DENY_INFO, Reg.FW_DENY_ADDR_LO, Reg.FW_DENY_ADDR_HI, Reg.LOG_SUPPRESSED, Reg.SAFETY_EVENTS] →
    t.rget p = s.rget p

/-- The register at `off` is one word of its own that may be written whole: plain RW fields, none of them locked, `d` its definition. -/
def State.plainRw (s : State) (ini : Initiator) (off : Nat) (d : RegDef) : Prop :=
  (off < 0xF00000 ∨ 0x1000000 ≤ off) ∧ off < 0x2000000 ∧ off % 4 = 0 ∧ findReg off = some d ∧ fixedFw off = false ∧
    (∀ f ∈ d.fields, f.acc = .rw ∧ s.fieldLocked ini.hostFn off f = false) ∧ s.mayReach ini off ∧ (d.wp = true → s.privileged ini = true)

/-- The capture registers that RELEASE_CAPTURES of a block frees (R370, R373, R575, R622). -/
def capturesOf (b : Nat) : List Nat :=
  if b = 8 then [Reg.REFUSAL_INFO, Reg.XLATE_INFO] else if b = 9 then [Reg.PIVOT_INFO] else if b = 12 then [Reg.ECC_INFO]
  else if b = 14 then [Reg.FW_DENY_INFO, Reg.LATE_WRITE_INFO] else []

/-- The four bytes of a word, all enabled. -/
def bytesOf (w : Word) : List (Option Byte) := (leBytes 4 w.toNat).map some

end Sys2Proof.Machine
end

