-- ==== Sys2Proof/Certificates/Slice0/Obligations.lean ====
section
/-! DEFINITION. The statements for the provers, one `Obligations.<Name> : Prop` each, in the order of OBLIGATIONS.json. -/

open Sys2Proof Sys2Proof.Machine

/-- A step of a state whose queue begins with `c` is `exec c` on the state with the queue's rest. -/
def Obligations.StepServesFrontCommand : Prop :=
  ∀ (c : Instr) (s : State), step { s with pending := c :: s.pending } = exec c s

/-- On an empty queue a step is a tick, the model's choice (log entry 9). -/
def Obligations.IdleStepIsTick : Prop :=
  ∀ s : State, s.pending = [] →
    (¬ s.up ∨ s.saved → step s = .next s) ∧
    (s.up → ¬ s.saved → ∃ t, step s = .next t ∧ t.tl = { s.tl with count := s.tl.count + 1, ptp := t.tl.ptp } ∧
      Only [.regs, .tl, .ports, .peers, .host, .out, .free] s t)

/-- No command stops, and none changes a component of the state that its rule does not write. -/
def Obligations.EveryCommandCompletesWithinItsFrame : Prop :=
  ∀ (c : Instr) (s : State), ∃ t, exec c s = .next t ∧ Only (touched c) s t ∧ t.pending = s.pending

/-- What the part promises its supervisor is kept by every step, tick and reset included. -/
def Obligations.SafePinsInvariant : Prop :=
  ∀ s t : State, s.Safe → step s = .next t → t.Safe

/-- R607: once entered, SAFE_HOLD is left only by reset. -/
def Obligations.SafeHoldLeftOnlyByReset : Prop :=
  (∀ (c : Instr) (s t : State), s.hold = true → resets c = false → exec c s = .next t → t.hold = true) ∧
    (∀ s t : State, s.hold = true → s.pending = [] → step s = .next t → t.hold = true)

/-- DEBUG_KILL, once blown, keeps debug locked. -/
def Obligations.DebugKillInvariant : Prop :=
  ∀ s t : State, s.DebugSafe → step s = .next t → t.DebugSafe

/-- The canonical form of every memory is kept by every step. -/
def Obligations.CanonicalMemoryInvariant : Prop :=
  ∀ s t : State, s.MemOk → step s = .next t → t.MemOk

/-- The units of the part stay the units of the part, and its fixed lists keep their lengths. -/
def Obligations.UnitsAndListsInvariant : Prop :=
  (∀ s t : State, s.Units → step s = .next t → t.Units) ∧ ∀ s t : State, s.Shape → step s = .next t → t.Shape

/-- No step lowers a monotonic counter of the keeper die, and none mends a blown fuse. -/
def Obligations.MonotonicCountersNeverFall : Prop :=
  ∀ s t : State, step s = .next t → Keeper.Le s.keeper t.keeper ∧ Fuses.Blown s.fuses t.fuses

/-- The invariants hold at reset. -/
def Obligations.ResetStateMeetsInvariants : Prop :=
  State.reset.pending = [] ∧ State.reset.Safe ∧ State.reset.DebugSafe ∧ State.reset.MemOk ∧ State.reset.Units ∧ State.reset.Shape

/-- The four commands of the reset and power pins (R703, R705, R778, R612). -/
def Obligations.ResetCommandsResetAndKeep : Prop :=
  (∀ (straps : BitVec 12) (refB : Bool) (s : State), s.resetN = false → s.pwrOk = true →
    ∃ t, exec (.resetRelease straps refB) s = .next t ∧ t.resetN = true ∧ t.boot.step = 2 ∧ t.boot.straps = straps ∧ t.now = 0 ∧
      (t.root 0).state = .running ∧ (t.root 1).state = .standby ∧ (t.root 1).refA = !refB ∧
      (∀ n : Fin 8, t.rget (Reg.PORT_CFG n.val) = nw (b2n (straps.getLsbD 1) + 2 * b2n (straps.getLsbD 2))) ∧
      t.keeper = s.keeper ∧ t.fuses = s.fuses ∧ t.flash = s.flash ∧ t.hostMem = s.hostMem) ∧
  (∀ (straps : BitVec 12) (refB : Bool) (s : State), s.resetN = true ∨ s.pwrOk = false →
    exec (.resetRelease straps refB) s = .next s) ∧
  (∀ s : State, ∃ t, exec .resetAssert s = .next t ∧ t.up = false ∧ t.inServ = false ∧ t.saved = false ∧ t.pwrOk = s.pwrOk ∧
    (∀ o, t.rget o = regReset o) ∧ t.keeper = s.keeper ∧ t.fuses = s.fuses ∧ t.flash = s.flash ∧ t.hostMem = s.hostMem) ∧
  (∀ s : State, ∃ t, exec .pwrOkLoss s = .next t ∧ t.up = false ∧ t.inServ = false ∧ t.saved = false ∧ t.pwrOk = false ∧
    t.faultN = false ∧ (∀ o, t.rget o = regReset o) ∧ t.keeper = s.keeper ∧ t.fuses = s.fuses ∧ t.flash = s.flash ∧ t.hostMem = s.hostMem) ∧
  (∀ s : State, ∃ t, exec .pwrOkRise s = .next t ∧ t.pwrOk = true ∧ Only [.pwrOk] s t ∧ (s.inServ = false → t.faultN = true))

/-- BOOT_STEP_END, step by step (R705, R707, R709, R720). -/
def Obligations.BootStepEndAdvances : Prop :=
  (∀ (o : BootObs) (s : State), ¬ s.up ∨ s.boot.stopped ∨ s.inServ ∨ s.saved → exec (.bootStepEnd o) s = .next s) ∧
  (∀ (o : BootObs) (s : State), s.up → ¬ s.boot.stopped → ¬ s.inServ → ¬ s.saved → ∃ t, exec (.bootStepEnd o) s = .next t ∧
    (s.boot.step = 2 → (lgetD o.roots 0 true = true ∨ lgetD o.roots 1 true = true) → t.boot.step = 3 ∧ t.boot.stepAt = s.now) ∧
    (s.boot.step = 2 → lgetD o.roots 0 true = false → lgetD o.roots 1 true = false → t.boot.stopped = true ∧ t.boot.failCode = 4 ∧ t.hold = true) ∧
    (s.boot.step = 3 → (if o.slotA.security < o.slotB.security then o.slotB else o.slotA).valid s.fuses.fwMin = true →
      t.boot.step = 4 ∧ t.boot.fwSlot = (if o.slotA.security < o.slotB.security then 1 else 0) ∧
        t.boot.fwSecurity = max o.slotA.security o.slotB.security) ∧
    (s.boot.step = 3 → (if o.slotA.security < o.slotB.security then o.slotB else o.slotA).valid s.fuses.fwMin = false →
      (if o.slotA.security < o.slotB.security then o.slotA else o.slotB).valid s.fuses.fwMin = true →
      t.boot.step = 4 ∧ t.boot.fwSlot = (if o.slotA.security < o.slotB.security then 0 else 1)) ∧
    (s.boot.step = 3 → o.slotA.valid s.fuses.fwMin = false → o.slotB.valid s.fuses.fwMin = false →
      t.boot.step = 3 ∧ t.boot.stopped = true ∧ t.boot.failCode = 1) ∧
    (s.boot.step = 4 → s.fuses.intact = true → t.boot.step = 5 ∧ t.boot.fusesOk = true ∧ t.boot.idCert = o.idCert) ∧
    (s.boot.step = 4 → s.fuses.intact = false → t.boot.step = 7 ∧ t.boot.failCode = 2) ∧
    (s.boot.step = 5 → t.boot.step = 6) ∧
    (s.boot.step = 6 → t.boot.step = 7 ∧ (o.keeperOk = false → t.boot.failCode = 3)) ∧
    (s.boot.step = 7 → t.boot.step = 8) ∧
    (s.boot.step = 8 → s.boot.failCode ≠ 0 → t.boot.step = 8 ∧ t.boot.stopped = true) ∧
    (s.boot.step = 8 → s.boot.failCode = 0 → t.boot.step = 9) ∧
    (s.boot.step = 9 → (s.live.isSome = true → t.boot.step = 10) ∧ (s.live = none → t = s)) ∧
    (s.boot.step = 10 → (s.tl.servo = .locked → t.boot.step = 11) ∧ (s.tl.servo ≠ .locked → t = s)))

/-- LOCK_TIMEOUT, IN_SERVICE and SEED_TIMEOUT (R88, R96, R564). -/
def Obligations.LockTimeoutAndServiceEntry : Prop :=
  (∀ s : State, s.MemOk → s.up → ¬ s.saved → s.boot.step = 11 → ¬ s.inServ → ¬ s.seedWaits →
    ∃ t, exec .inService s = .next t ∧ t.inServ = true ∧ t.boot.step = 11 ∧ t.keeper.epochCounter = s.keeper.epochCounter + 1 ∧
      t.tl.epoch = BitVec.ofNat 16 (s.keeper.epochCounter + 1) ∧ t.tl.epochFirst = s.tl.beat ∧
      t.com.layers = { frame := s.frame, epoch := (s.keeper.epochCounter + 1) % 65536 } :: s.com.layers ∧
      t.rbit Reg.GLOBAL_EVENTS 0 = true ∧ t.keeper.marrow.complete = false) ∧
  (∀ s : State, ¬ (s.up ∧ ¬ s.saved ∧ s.boot.step = 11 ∧ ¬ s.inServ ∧ ¬ s.seedWaits) → exec .inService s = .next s) ∧
  (∀ s : State, s.MemOk → s.up → ¬ s.saved → s.boot.step = 10 → s.tl.servo ≠ .locked → s.boot.stepAt + 10 * cyclesS ≤ s.now →
    ∃ t, exec .lockTimeout s = .next t ∧ t.boot.step = 11 ∧ t.rbit Reg.TIME_EVENTS 12 = true ∧ (¬ s.seedWaits → t.inServ = true) ∧
      (s.seedWaits → t.inServ = s.inServ)) ∧
  (∀ s : State, ¬ (s.up ∧ ¬ s.saved ∧ s.boot.step = 10 ∧ s.tl.servo ≠ .locked ∧ s.boot.stepAt + 10 * cyclesS ≤ s.now) →
    exec .lockTimeout s = .next s) ∧
  (∀ s : State, s.MemOk → s.up → ¬ s.saved → s.seedWaits → s.peers.seedAt + s.rbits Reg.SEED_CFG 15 0 * cyclesMs ≤ s.now →
    ∃ t, exec .seedTimeout s = .next t ∧ t.seedWaits = false ∧ t.peers.lateSeed = true ∧ t.rbit Reg.PEER_EVENTS 4 = true ∧
      (s.boot.step = 11 → t.inServ = true) ∧ (s.boot.step ≠ 11 → t.inServ = s.inServ)) ∧
  (∀ s : State, ¬ (s.up ∧ ¬ s.saved ∧ s.seedWaits ∧ s.peers.seedAt + s.rbits Reg.SEED_CFG 15 0 * cyclesMs ≤ s.now) →
    exec .seedTimeout s = .next s)

/-- Measurements and the servo (R79, R85, R93). -/
def Obligations.ServoTreatsMeasurements : Prop :=
  (∀ s : State, s.tl.formed = [] → exec .servoMeasurement s = .next s) ∧
  (∀ (s : State) (e : Int) (rest : List Int), s.MemOk → s.tl.formed = e :: rest →
    ∃ t, exec .servoMeasurement s = .next t ∧ t.tl.formed = rest ∧ Only [.regs, .tl, .keeper, .host, .out] s t ∧
      (s.tl.servo = .stepPending → t = { s with tl := { s.tl with formed := rest } }) ∧
      (s.tl.servo ≠ .stepPending → t.rget Reg.LAST_ERROR_LO = nw (sbits 64 e) ∧ t.rget Reg.LAST_ERROR_HI = nw (sbits 64 e / 2 ^ 32)) ∧
      (s.tl.servo ≠ .stepPending → ((s.rget Reg.STEP_THRESHOLD).toNat : Int) * 65536 < e.natAbs →
        t.rget Reg.OUTLIER_COUNT = satAdd32 (s.rget Reg.OUTLIER_COUNT) 1 ∧ t.rget Reg.MEAS_COUNT = s.rget Reg.MEAS_COUNT ∧
          t.rbit Reg.TIME_EVENTS 4 = true) ∧
      (s.tl.servo ≠ .stepPending → (e.natAbs : Int) ≤ ((s.rget Reg.STEP_THRESHOLD).toNat : Int) * 65536 →
        t.rget Reg.MEAS_COUNT = satAdd32 (s.rget Reg.MEAS_COUNT) 1 ∧ t.rget Reg.OUTLIER_COUNT = s.rget Reg.OUTLIER_COUNT ∧ t.tl.confirm = 0 ∧
          (s.tl.servo ≠ .catchUp →
            t.tl.freqTerm = clampI (-s.freqLimit) s.freqLimit (s.tl.freqTerm + ishr (ishl e 24) (s.rbits Reg.SERVO_CTRL 21 16)) ∧
            t.tl.slewTerm = clampI (-slewLimit) slewLimit (ishr (ishl e 24) (s.rbits Reg.SERVO_CTRL 13 8))))) ∧
  (∀ s : State, upstreamOffsets s ≠ [] → s.up → s.sourceEff = 3 →
    exec .followerMeasurement s = .next { s with tl := { s.tl with formed :=
      s.tl.formed ++ [((upstreamOffsets s).foldl (· + ·) 0) / ((upstreamOffsets s).length : Int)] } }) ∧
  (∀ s : State, upstreamOffsets s = [] ∨ ¬ s.up ∨ s.sourceEff ≠ 3 → exec .followerMeasurement s = .next s)

/-- CATCH_UP_DONE and HOLDOVER_TIMEOUT (R86, R87). -/
def Obligations.CatchUpAndHoldover : Prop :=
  (∀ s : State, s.tl.servo = .catchUp → s.residualNow = 0 →
    exec .catchUpDone s = .next { s with tl := { s.tl with servo := .acquire, slewTerm := 0, residual := 0 } }) ∧
  (∀ s : State, s.tl.servo ≠ .catchUp ∨ s.residualNow ≠ 0 → exec .catchUpDone s = .next s) ∧
  (∀ s : State, s.MemOk → s.tl.servo = .acquire ∨ s.tl.servo = .locked ∨ s.tl.servo = .catchUp →
    s.rbits Reg.HOLDOVER_TIMEOUT 15 0 ≤ s.tl.frames - s.tl.holdBase →
    ∃ t, exec .holdoverTimeout s = .next t ∧ t.tl = { s.tl with servo := .holdover, slewTerm := 0, residual := 0 } ∧
      t.rbit Reg.TIME_EVENTS 3 = true ∧ (∀ o, o ≠ Reg.TIME_EVENTS → t.rget o = s.rget o) ∧ Only [.regs, .tl, .host, .out] s t) ∧
  (∀ s : State, ¬ ((s.tl.servo = .acquire ∨ s.tl.servo = .locked ∨ s.tl.servo = .catchUp) ∧
      s.rbits Reg.HOLDOVER_TIMEOUT 15 0 ≤ s.tl.frames - s.tl.holdBase) → exec .holdoverTimeout s = .next s)

/-- PPS_IN and PPS_OUT (R83, R99, R100). -/
def Obligations.PpsEdgesAndPulses : Prop :=
  (∀ (count : BitVec 64) (phase : Fin 8) (s : State) (h : TimeEntry), s.MemOk → s.up → s.rbit Reg.PPS_CTRL 0 = true →
    histAt s.tl.hist count.toNat = some h →
    ∃ t, exec (.ppsInEdge count phase) s = .next t ∧ t.tl.ppsIn = some count.toNat ∧
      t.tl.ppsFrac = some (h.offset + timeProduct h.rate (count.toNat * 8 + phase.val)) ∧
      t.rget Reg.PPS_IN_STAMP_LO = nw (timeBits (h.offset + timeProduct h.rate (count.toNat * 8 + phase.val))) ∧ Only [.regs, .tl] s t) ∧
  (∀ (count : BitVec 64) (phase : Fin 8) (s : State), ¬ s.up ∨ s.rbit Reg.PPS_CTRL 0 = false → exec (.ppsInEdge count phase) s = .next s) ∧
  (∀ s : State, s.MemOk → s.up → s.rbit Reg.PPS_CTRL 0 = true → s.sourceEff = 2 → 2 * cyclesS ≤ s.now - s.tl.ppsIn.getD 0 →
    ∃ t, exec .ppsMissing s = .next t ∧ t.tl = { s.tl with ppsInValid := false, ppsFrac := none } ∧ t.rbit Reg.TIME_EVENTS 8 = true ∧
      Only [.regs, .tl, .host, .out] s t) ∧
  (∀ s : State, ¬ (s.up ∧ s.rbit Reg.PPS_CTRL 0 = true ∧ s.sourceEff = 2 ∧ 2 * cyclesS ≤ s.now - s.tl.ppsIn.getD 0) →
    exec .ppsMissing s = .next s) ∧
  (∀ s : State, s.up → s.rbit Reg.PPS_CTRL 4 = true →
    s.rbit Reg.PPS_CTRL 5 = true ∨ s.tl.servo = .locked ∨ s.tl.servo = .holdover →
    (∀ l, s.tl.ppsLastSec = some l → l < s.fusion / secUnits) →
    ∃ t, exec .ppsOutPulse s = .next t ∧ t.tl.ppsOut = true ∧ t.tl.ppsLastSec = some (s.fusion / secUnits) ∧ t.out = .pps :: s.out ∧
      Only [.tl, .out] s t) ∧
  (∀ (s : State) (l : Int), s.tl.ppsLastSec = some l → s.fusion / secUnits ≤ l → exec .ppsOutPulse s = .next s) ∧
  (∀ s : State, s.rbit Reg.PPS_CTRL 4 = false → exec .ppsOutPulse s = .next s)

/-- The clock roots (R38 to R42). -/
def Obligations.ClockRootsSwitchAndRetire : Prop :=
  (∀ (s : State) (r : Fin 2), s.Units → s.up → (s.root r).state = .running → (s.root (1 - r.val)).state = .standby →
    ((s.root r).switches.filter (fun t => decide (s.now < t + cyclesS))).length < 2 →
    ∃ t, exec .rootSwitch s = .next t ∧ (t.root r).state = .relocking ∧ (t.root r).failedAt = s.now ∧ (t.root (1 - r.val)).state = .running ∧
      (∃ d : Int, (d = -1 ∨ d = 0 ∨ d = 1) ∧ t.tl = { s.tl with count := BitVec.ofNat 64 (((s.now : Int) + d).toNat) }) ∧ t.keeper = s.keeper) ∧
  (∀ (s : State) (r : Fin 2), s.Units → s.up → (s.root r).state = .running → (s.root (1 - r.val)).state ≠ .standby →
    (s.root (1 - r.val)).state ≠ .running → ∃ t, exec .rootSwitch s = .next t ∧ t.hold = true) ∧
  (∀ s : State, ¬ s.up → exec .rootSwitch s = .next s) ∧
  (∀ (s : State) (r : Fin 2), s.Units → (s.root r).state = .relocking → (s.root (1 - r.val)).state ≠ .relocking →
    s.now ≤ (s.root r).failedAt + 10 * cyclesMs →
    ∃ t, exec (.rootRelock true) s = .next t ∧ (t.root r).state = .standby ∧ t.root (1 - r.val) = s.root (1 - r.val) ∧ Only [.roots] s t) ∧
  (∀ (s : State) (r : Fin 2), s.Units → (s.root r).state = .relocking → (s.root (1 - r.val)).state ≠ .relocking →
    ∃ t, exec (.rootRelock false) s = .next t ∧ (t.root r).state = .retired ∧ t.marked 6 r = true) ∧
  (∀ (ok : Bool) (s : State), (∀ r ∈ s.roots, r.state ≠ .relocking) → exec (.rootRelock ok) s = .next s) ∧
  (∀ (s : State) (r : Fin 2), s.Units → s.up → (s.root r).state = .relocking → (s.root r).failedAt + 10 * cyclesMs ≤ s.now →
    ∃ t, exec (.rootRetire r) s = .next t ∧ (t.root r).state = .retired ∧ t.marked 6 r = true) ∧
  (∀ (s : State) (r : Fin 2), ¬ (s.up ∧ (s.root r).state = .relocking ∧ (s.root r).failedAt + 10 * cyclesMs ≤ s.now) →
    exec (.rootRetire r) s = .next s)

/-- FRAME_RECEIVE (R114, R115, R118, R126, R134, R152). -/
def Obligations.FramesReceivedCountedAndQueued : Prop :=
  (∀ (p : Fin 8) (l : List Byte) (ok : Bool) (count : BitVec 64) (phase : Fin 8) (s : State),
    ¬ s.up ∨ ¬ s.portOn p ∨ s.boot.step < 10 → exec (.frameReceive p l ok count phase) s = .next s) ∧
  (∀ (p : Fin 8) (l : List Byte) (ok : Bool) (count : BitVec 64) (phase : Fin 8) (s : State), s.MemOk → s.up → s.portOn p →
    10 ≤ s.boot.step → l.length < 64 ∨ 9216 < l.length →
    ∃ t, exec (.frameReceive p l ok count phase) s = .next t ∧ Only [.regs] s t ∧
      t.rget (Reg.RX_FRAMES_LO p) = nw (s.rpair (Reg.RX_FRAMES_LO p) (Reg.RX_FRAMES_HI p) + 1) ∧
      t.rget (Reg.RX_ERRORS p) = satAdd32 (s.rget (Reg.RX_ERRORS p)) 1 ∧
      (∀ o, o ≠ Reg.RX_FRAMES_LO p → o ≠ Reg.RX_FRAMES_HI p → o ≠ Reg.RX_ERRORS p → t.rget o = s.rget o)) ∧
  (∀ (p : Fin 8) (l : List Byte) (ok : Bool) (count : BitVec 64) (phase : Fin 8) (s : State), s.MemOk → s.up → s.portOn p →
    10 ≤ s.boot.step → 64 ≤ l.length → l.length ≤ 9216 → etherType l = 0x8808 →
    ∃ t, exec (.frameReceive p l ok count phase) s = .next t ∧ Only [.regs] s t ∧
      t.rget (Reg.RX_FRAMES_LO p) = nw (s.rpair (Reg.RX_FRAMES_LO p) (Reg.RX_FRAMES_HI p) + 1) ∧
      (∀ o, o ≠ Reg.RX_FRAMES_LO p → o ≠ Reg.RX_FRAMES_HI p → t.rget o = s.rget o)) ∧
  (∀ (p : Fin 8) (l : List Byte) (count : BitVec 64) (phase : Fin 8) (s : State) (n : Nat) (e : StreamEntry) (h : TimeEntry),
    s.MemOk → s.up → s.portOn p → 10 ≤ s.boot.step → 64 ≤ l.length → l.length ≤ 9216 → etherType l ≠ 0x8808 → ptpAt l = none →
    dstMac l = s.stationMac → ¬ (0x0180C2000000 ≤ dstMac l ∧ dstMac l ≤ 0x0180C200000F) →
    arpFor l (s.rget Reg.IP4_ADDR).toNat = false → solicitFor l s.ip6 = false → s.inServ → ¬ s.hold → ¬ s.saved →
    histAt s.tl.hist count.toNat = some h → s.streamFor p l = some (n, e) → s.ing.queues.length = 8 →
    s.queueLevel p + (4 + cdiv l.length 4) ≤ 16384 →
    ∃ t i, exec (.frameReceive p l true count phase) s = .next t ∧ lgetD t.ing.queues p [] = lgetD s.ing.queues p [] ++ [i] ∧
      i.bytes = l ∧ i.stream = n ∧ i.entry = e ∧ i.stamp = count.toNat * 8 + phase.val ∧ i.epoch = s.tl.epoch.toNat ∧
      i.arrival = h.offset + timeProduct h.rate (count.toNat * 8 + phase.val))

/-- Path delay requests (R81, R129), links, port events and the learning table (R119, R161, R162). -/
def Obligations.SensorLinksRequestsAndTable : Prop :=
  (∀ (p : Fin 8) (s : State), s.Units → s.up → s.portOn p → 10 ≤ s.boot.step → s.tcMode = 2 →
    (∀ c, (s.port p).pdLast = some c → c + cyclesS ≤ s.now) → (s.port p).egress = [[], [], [], []] →
    ∃ t, exec (.pdelayReqSend p) s = .next t ∧ Only [.ports] s t ∧
      t.port p = { s.port p with pdLast := some s.now, pdSeq := ((s.port p).pdSeq + 1) % 65536, pdT1 := none, pdResp := none
                                 egress := (t.port p).egress } ∧
      (t.port p).egress.flatten = [{ bytes := pdelayReq s.stationMac p (s.rbits Reg.PTP_CTRL 15 8) (((s.port p).pdSeq + 1) % 65536),
                                     kind := .pdelayReq (((s.port p).pdSeq + 1) % 65536) }] ∧
      (∀ q : Fin 8, q ≠ p → t.port q = s.port q)) ∧
  (∀ (p : Fin 8) (s : State), ¬ (s.up ∧ s.portOn p ∧ 10 ≤ s.boot.step ∧ s.tcMode = 2 ∧ ∀ c, (s.port p).pdLast = some c → c + cyclesS ≤ s.now) →
    exec (.pdelayReqSend p) s = .next s) ∧
  (∀ s : State, s.Units → s.up → 10 ≤ s.boot.step → wbit (s.rget Reg.PTP_CTRL) 31 = true → wbit (s.rget Reg.PTP_CTRL) 16 = false →
    s.portOn (s.rbits Reg.PTP_CTRL 2 0) → s.tl.ptp.master.isSome → (s.port (s.rbits Reg.PTP_CTRL 2 0)).egress = [[], [], [], []] →
    ∃ t, exec .delayReqSend s = .next t ∧ Only [.tl, .ports] s t ∧
      t.tl.ptp = { s.tl.ptp with delaySeq := (s.tl.ptp.delaySeq + 1) % 65536, t3 := none } ∧
      (t.port (s.rbits Reg.PTP_CTRL 2 0)).egress.flatten.map (fun f => f.kind) = [.delayReq ((s.tl.ptp.delaySeq + 1) % 65536)]) ∧
  (∀ s : State, ¬ (s.up ∧ 10 ≤ s.boot.step ∧ wbit (s.rget Reg.PTP_CTRL) 31 = true ∧ wbit (s.rget Reg.PTP_CTRL) 16 = false ∧
    s.portOn (s.rbits Reg.PTP_CTRL 2 0) ∧ s.tl.ptp.master.isSome) → exec .delayReqSend s = .next s) ∧
  (∀ (p : Fin 8) (s : State), s.Units → s.MemOk → s.up → ¬ (s.port p).retired → s.speed p ≠ 0 → ¬ (s.port p).up → ¬ s.power.serdesOff →
    ∃ t, exec (.sensorLinkUp p) s = .next t ∧ t.port p = { s.port p with up := true, blockLock := true } ∧
      (∀ q : Fin 8, q ≠ p → t.port q = s.port q) ∧ t.rbit Reg.PORT_EVENTS p = true ∧ Only [.regs, .ports, .host, .out] s t) ∧
  (∀ (p : Fin 8) (s : State), ¬ (s.up ∧ ¬ (s.port p).retired ∧ s.speed p ≠ 0 ∧ ¬ (s.port p).up ∧ ¬ s.power.serdesOff) →
    exec (.sensorLinkUp p) s = .next s) ∧
  (∀ (p : Fin 8) (s : State), s.Units → s.MemOk → s.up → (s.port p).up → ∃ t, exec (.sensorLinkDown p) s = .next t ∧
    t.port p = { s.port p with up := false, blockLock := false, egress := [[], [], [], []] } ∧ (∀ q : Fin 8, q ≠ p → t.port q = s.port q) ∧
    t.rget (Reg.EGRESS_DROPS p) = satAdd32 (s.rget (Reg.EGRESS_DROPS p)) (lsum ((s.port p).egress.map List.length)) ∧
    t.rbit Reg.PORT_EVENTS (8 + p) = true ∧ Only [.regs, .ports, .host, .out] s t) ∧
  (∀ (p : Fin 8) (s : State), ¬ (s.up ∧ (s.port p).up) → exec (.sensorLinkDown p) s = .next s) ∧
  (∀ (p : Fin 8) (lost bad : Bool) (s : State), s.Units → s.up → ¬ (s.port p).retired → s.speed p ≠ 0 →
    ∃ t, exec (.portEvent p lost bad) s = .next t ∧
      (t.port p).events = s.now :: (s.port p).events.filter (fun c => decide (s.now < c + 10 * cyclesS)) ∧
      (lost = true → (t.port p).up = false) ∧
      (bad = true ∨ 32 < (t.port p).events.length → (t.port p).retired = true ∧ (t.port p).up = false ∧
        t.marked 5 p = true) ∧
      (bad = false → (t.port p).events.length ≤ 32 → (t.port p).retired = false ∧ t.keeper = s.keeper)) ∧
  (∀ (p : Fin 8) (lost bad : Bool) (s : State), ¬ s.up ∨ (s.port p).retired ∨ s.speed p = 0 → exec (.portEvent p lost bad) s = .next s) ∧
  (∀ (mac : BitVec 48) (s : State), ∃ t, exec (.fdbAgeOut mac) s = .next t ∧ Only [.fdb] s t ∧
    ∀ e, e ∈ t.fdb ↔ e ∈ s.fdb ∧ ¬ (e.mac = mac.toNat ∧ e.seen + s.rbits Reg.BRIDGE_CTRL 31 16 * cyclesS ≤ s.now))

/-- The register instructions of R138. -/
def Obligations.ParserWritesRegisters : Prop :=
  ∀ (s : State) (m : Fin 16) (i : IngestItem), s.Units → s.Shape → s.runs m i →
    (∀ (dst : Fin 32) (off : BitVec 14) (w : Fin 65) (le : Bool), (s.machine m).base + off.toNat + cdiv w 8 ≤ i.bytes.length →
      (∃ t, exec (.parserExtract m dst off w le) s = .next t ∧ ParserWrote s t m dst (BitVec.ofNat 64
        ((if le then leAt i.bytes ((s.machine m).base + off.toNat) (cdiv w 8) else beAt i.bytes ((s.machine m).base + off.toNat) (cdiv w 8)) % 2 ^ w.val))) ∧
      (∃ t, exec (.parserExtracts m dst off w le) s = .next t ∧ ParserWrote s t m dst (BitVec.ofInt 64 (sval w
        ((if le then leAt i.bytes ((s.machine m).base + off.toNat) (cdiv w 8) else beAt i.bytes ((s.machine m).base + off.toNat) (cdiv w 8)) % 2 ^ w.val))))) ∧
    (∀ (dst src : Fin 32) (b : ParserArg),
      let x := (s.machine m).reg src
      let y := (s.machine m).arg b
      (∃ t, exec (.parserAlu m .add dst src b) s = .next t ∧ ParserWrote s t m dst (x + y)) ∧
      (∃ t, exec (.parserAlu m .sub dst src b) s = .next t ∧ ParserWrote s t m dst (x - y)) ∧
      (∃ t, exec (.parserAlu m .and dst src b) s = .next t ∧ ParserWrote s t m dst (x &&& y)) ∧
      (∃ t, exec (.parserAlu m .or dst src b) s = .next t ∧ ParserWrote s t m dst (x ||| y)) ∧
      (∃ t, exec (.parserAlu m .xor dst src b) s = .next t ∧ ParserWrote s t m dst (x ^^^ y)) ∧
      (∃ t, exec (.parserAlu m .mul dst src b) s = .next t ∧ ParserWrote s t m dst (x * y)) ∧
      (∃ t v, exec (.parserAlu m .shl dst src b) s = .next t ∧ ParserWrote s t m dst v ∧ (y.toNat < 64 → v = x <<< y.toNat)) ∧
      (∃ t v, exec (.parserAlu m .shr dst src b) s = .next t ∧ ParserWrote s t m dst v ∧ (y.toNat < 64 → v = x >>> y.toNat))) ∧
    (∀ (dst src : Fin 32) (mult : BitVec 32) (shift : Fin 64), ∃ t, exec (.parserScale m dst src mult shift) s = .next t ∧
      ParserWrote s t m dst (BitVec.ofInt 64 (rneDiv (((s.machine m).reg src).toInt * (mult.toNat : Int)) (2 ^ (16 + shift.val))))) ∧
    (∀ (dst r a e : Fin 32), dst.val < 30 → ∃ t, exec (.parserPolar m dst r a e) s = .next t ∧ ParserRan s t m ∧ ParserNext s t m ∧
      (t.machine m).reg (dst + 2) = BitVec.ofInt 64 (rneDiv (((s.machine m).reg r).toInt * Config.sineTable (((s.machine m).reg e).toNat % 65536)) (2 ^ 30)) ∧
      (t.machine m).reg (dst + 1) = BitVec.ofInt 64 (rneDiv (((s.machine m).reg r).toInt * Config.sineTable ((((s.machine m).reg e).toNat + 16384) % 65536) *
        Config.sineTable (((s.machine m).reg a).toNat % 65536)) (2 ^ 60)) ∧
      (t.machine m).reg dst = BitVec.ofInt 64 (rneDiv (((s.machine m).reg r).toInt * Config.sineTable ((((s.machine m).reg e).toNat + 16384) % 65536) *
        Config.sineTable ((((s.machine m).reg a).toNat + 16384) % 65536)) (2 ^ 60)) ∧
      (∀ k : Nat, k < dst.val ∨ dst.val + 2 < k → (t.machine m).reg k = (s.machine m).reg k)) ∧
    (∀ src : Fin 32, ∃ t, exec (.parserTime m (.relative src)) s = .next t ∧ ParserWrote s t m 29 ((s.machine m).reg src)) ∧
    (∀ (off : BitVec 14) (le : Bool), i.entry.source = .arrival → ∃ t, exec (.parserTime m (.load off le)) s = .next t ∧ ParserRan s t m ∧
      ParserNext s t m ∧ (t.machine m).baseTime = some i.arrival ∧ (t.machine m).regs = (s.machine m).regs ∧ (t.machine m).out = (s.machine m).out)

/-- R139: when an item runs more than 65,536 instructions, or reads beyond its own end, the machine abandons it. All of the item's output is
discarded, and the item is counted in PARSE_DROPS. -/
def Obligations.ParserAbandonsItem : Prop :=
  ∀ (s : State) (m : Fin 16) (i : IngestItem), s.Units → s.MemOk → s.parsing m i →
    (∀ c : Instr, parserOf c = some m → 65536 ≤ (s.machine m).count → ∃ t, exec c s = .next t ∧ ParserAbandoned s t m) ∧
    (∀ (dst : Fin 32) (off : BitVec 14) (w : Fin 65) (le : Bool), i.bytes.length < (s.machine m).base + off.toNat + cdiv w 8 →
      (∃ t, exec (.parserExtract m dst off w le) s = .next t ∧ ParserAbandoned s t m) ∧
      ∃ t, exec (.parserExtracts m dst off w le) s = .next t ∧ ParserAbandoned s t m) ∧
    (∀ (line offset : Fin 32) (start len : BitVec 14) (marker : Bool), i.bytes.length < (s.machine m).base + start.toNat + len.toNat →
      ∃ t, exec (.parserImage m line offset start len marker) s = .next t ∧ ParserAbandoned s t m) ∧
    (∀ (off : BitVec 14) (le : Bool), i.entry.source ≠ .arrival →
      i.bytes.length < (s.machine m).base + off.toNat +
        (match i.entry.source with | .payloadPtp => 10 | .payloadNs => 8 | .payloadRtp => 4 | .arrival => 0) →
      ∃ t, exec (.parserTime m (.load off le)) s = .next t ∧ ParserAbandoned s t m)

/-- Control flow of a parser machine, and the item it takes and releases (R138, R142, R153). -/
def Obligations.ParserControlFlow : Prop :=
  (∀ (s : State) (m : Fin 16) (i : IngestItem), s.Units → s.runs m i →
    (∀ (cond : BranchCond) (a : Fin 32) (b : ParserArg) (target : Fin 512), ∃ t, exec (.parserBranch m cond a b target) s = .next t ∧ ParserRan s t m ∧
      (t.machine m).regs = (s.machine m).regs ∧
      (branchTaken cond ((s.machine m).reg a) ((s.machine m).arg b) = true → (t.machine m).pc = target ∧ (t.machine m).base = (s.machine m).base) ∧
      (branchTaken cond ((s.machine m).reg a) ((s.machine m).arg b) = false → ParserNext s t m)) ∧
    (∀ (count : ParserArg) (len : Fin 512) (stride : BitVec 16), ((s.machine m).arg count).toNat ≠ 0 → len.val ≠ 0 →
      ∃ t, exec (.parserLoop m count len stride) s = .next t ∧ ParserRan s t m ∧ (t.machine m).pc = (s.machine m).pc + 1 ∧
        (t.machine m).base = (s.machine m).base ∧ (t.machine m).loops =
          { start := (s.machine m).pc + 1, stop := (s.machine m).pc + 1 + len, left := ((s.machine m).arg count).toNat, stride := stride.toNat } ::
            (s.machine m).loops) ∧
    (∀ (count : ParserArg) (len : Fin 512) (stride : BitVec 16), ((s.machine m).arg count).toNat = 0 → (s.machine m).loops = [] →
      ∃ t, exec (.parserLoop m count len stride) s = .next t ∧ ParserRan s t m ∧ (t.machine m).pc = (s.machine m).pc + 1 + len ∧ (t.machine m).loops = []) ∧
    (s.MemOk → ∃ t, exec (.parserDrop m) s = .next t ∧ ParserAbandoned s t m) ∧
    (∃ t, exec (.parserEnd m) s = .next t ∧ ParserRan s t m ∧ (t.machine m).ended = true ∧ (t.machine m).out = (s.machine m).out)) ∧
  (∀ (s : State) (m : Fin 16) (p : Nat) (i : IngestItem), s.Units → s.Shape → s.inServ → ¬ s.hold → (s.machine m).item = none →
    s.nextItem = some (p, i) → ∃ t, exec (.parserTakeItem m) s = .next t ∧ Only [.regs, .ing, .host, .out] s t ∧
      t.machine m = { item := some i, port := p } ∧ (∀ n, n ≠ m.val → t.machine n = s.machine n) ∧
      (∀ q : Fin 8, lgetD t.ing.queues q [] = if q.val = p then (lgetD s.ing.queues q []).filter (fun x => x.id ≠ i.id) else lgetD s.ing.queues q [])) ∧
  (∀ (s : State) (m : Fin 16), ¬ s.inServ ∨ s.hold ∨ (s.machine m).item.isSome ∨ s.nextItem = none → exec (.parserTakeItem m) s = .next s) ∧
  (∀ (s : State) (m : Nat) (i : IngestItem), s.Units → s.releasable = some (m, i) → ∃ t, exec .itemRelease s = .next t ∧ t.machine m = {} ∧
    (∀ n, n ≠ m → t.machine n = s.machine n) ∧ t.ing.queues = s.ing.queues ∧ ((s.machine m).out = [] → Only [.ing] s t)) ∧
  (∀ s : State, s.releasable = none → exec .itemRelease s = .next s)

/-- EMIT, IMAGE and MOTION, and what a release does with a pea (R138 to R149). -/
def Obligations.ParserEmitsOutput : Prop :=
  (∀ (s : State) (m : Fin 16) (i : IngestItem), s.Units → s.runs m i →
    (let p := s.machine m
     let id := i.entry.sensorBase + (p.reg 28).toNat
     let tm := p.recordTime i
     ∃ t, exec (.parserEmit m) s = .next t ∧ ParserRan s t m ∧ ParserNext s t m ∧ (t.machine m).regs = p.regs ∧
      (id ≤ 1023 → (s.sensorAt id tm).isSome → fits24 (p.reg 24).toInt → fits24 (p.reg 25).toInt → fits24 (p.reg 26).toInt → outsideWindow i tm = false →
        (t.machine m).out = .pea { sensor := id, time := tm, x := (p.reg 24).toInt, y := (p.reg 25).toInt, z := (p.reg 26).toInt,
                                   intensity := (p.reg 27).toNat % 256, sweep := (p.reg 30).toNat % 256, cls := (p.reg 31).toNat % 64 } :: p.out) ∧
      (id ≤ 1023 → s.sensorAt id tm = none ∨ ¬ (fits24 (p.reg 24).toInt ∧ fits24 (p.reg 25).toInt ∧ fits24 (p.reg 26).toInt) →
        (t.machine m).out = .drop id 20 :: p.out) ∧
      (id ≤ 1023 → (s.sensorAt id tm).isSome → fits24 (p.reg 24).toInt → fits24 (p.reg 25).toInt → fits24 (p.reg 26).toInt → outsideWindow i tm = true →
        (t.machine m).out = .drop id 19 :: p.out)) ∧
    (∀ (line offset : Fin 32) (start len : BitVec 14) (marker : Bool), (s.machine m).base + start.toNat + len.toNat ≤ i.bytes.length →
      ∃ t r, exec (.parserImage m line offset start len marker) s = .next t ∧ ParserRan s t m ∧ ParserNext s t m ∧ (t.machine m).regs = (s.machine m).regs ∧
        (t.machine m).out = .image r :: (s.machine m).out ∧ r.line = ((s.machine m).reg line).toNat ∧ r.offset = ((s.machine m).reg offset).toNat ∧
        r.bytes = lsub i.bytes ((s.machine m).base + start.toNat) len.toNat ∧ r.marker = marker) ∧
    (∀ (kind : Fin 16) (src : Fin 32), ∃ t, exec (.parserMotion m kind src) s = .next t ∧ ParserRan s t m ∧ ParserNext s t m ∧
      (t.machine m).regs = (s.machine m).regs ∧
      (i.entry.sensorBase + ((s.machine m).reg 28).toNat ≤ 1023 →
        (s.sensorAt (i.entry.sensorBase + ((s.machine m).reg 28).toNat) ((s.machine m).recordTime i)).isSome →
        outsideWindow i ((s.machine m).recordTime i) = false →
        (t.machine m).out = .motion { time := (s.machine m).recordTime i, sensor := i.entry.sensorBase + ((s.machine m).reg 28).toNat, kind := kind
                                      values := (List.range 8).map (fun j => sval 32 ((s.machine m).reg (src + j)).toNat) } :: (s.machine m).out))) ∧
  (∀ (s : State) (m : Nat) (i : IngestItem) (p : RawPea), s.Units → s.releasable = some (m, i) → (s.machine m).out = [.pea p] →
    i.epoch = s.tl.epoch.toNat → s.preEpoch p.time = false → mgetD s.ing.seq p.sensor 0 % stride s.ing.decLevel (s.prioOf p.sensor) = 0 →
    s.ing.granted < 256 → ∃ t, exec .itemRelease s = .next t ∧ t.ing.granted = s.ing.granted + 1 ∧
      t.store.deskewQ = s.store.deskewQ ++ [{ pea := { x := p.x, y := p.y, z := p.z, intensity := p.intensity, sensor := p.sensor
                                                       timeOffset := ((p.time % frameUnits) / 1024000).toNat, sweep := p.sweep, cls := p.cls }
                                              frame := (p.time / frameUnits).toNat, epoch := i.epoch }])

/-- BEAT_BOUNDARY (R65, R67, R70). -/
def Obligations.BeatBoundaryAdvances : Prop :=
  (∀ s : State, s.up → (∃ r ∈ s.roots, r.state = .running) → ¬ s.saved → ¬ s.tl.frameDue → ∃ t, exec .beatBoundary s = .next t ∧
    t.tl.beat = s.tl.beat + 1 ∧ t.tl.beats = s.tl.beats + 1 ∧ t.tl.epoch = s.tl.epoch ∧ t.tl.servo = s.tl.servo ∧ t.tl.step = s.tl.step ∧
    t.tl.count = BitVec.ofNat 64 s.nextEdge ∧ s.now ≤ s.nextEdge ∧ t.tl.rate = s.tl.freqTerm + s.tl.slewTerm ∧
    t.tl.offset + timeProduct t.tl.rate (s.nextEdge * 8) = s.tl.offset + timeProduct s.tl.rate (s.nextEdge * 8) ∧
    (t.tl.frameDue = true ↔ (s.tl.beat + 1) % 1024 = 0) ∧
    t.com.applied = 0 ∧ t.com.entriesRead = 0 ∧ t.com.readKeys = [] ∧ t.store.redone = 0) ∧
  (∀ s : State, ¬ s.up ∨ (∀ r ∈ s.roots, r.state ≠ .running) ∨ s.saved ∨ s.tl.frameDue → exec .beatBoundary s = .next s)

/-- FRAME_BOUNDARY (R57 to R59, R94, R442). -/
def Obligations.FrameBoundaryCarriesOutItsSteps : Prop :=
  (∀ (o : FrameObs) (s : State), ¬ (s.up ∧ s.tl.frameDue ∧ ¬ s.saved) → exec (.frameBoundary o) s = .next s) ∧
  (∀ (o : FrameObs) (s : State), s.up → s.tl.frameDue → ¬ s.saved → ∃ t, exec (.frameBoundary o) s = .next t ∧
    t.tl.frames = s.tl.frames + 1 ∧ t.tl.frameDue = false ∧ t.tl.frameFirst = false ∧ t.tl.count = s.tl.count ∧
    t.power.logicTemp = o.logicTemp ∧ t.power.ioTemp = o.ioTemp ∧ t.power.rails = o.rails ∧ t.power.milliwatts = o.milliwatts ∧
    ((∀ x, s.tl.step = some x → s.frame < x.frame) →
      t.tl.beat = s.tl.beat ∧ t.tl.epoch = s.tl.epoch ∧ t.tl.step = s.tl.step ∧ t.tl.offset = s.tl.offset ∧ t.tl.servo = s.tl.servo) ∧
    (∀ x, s.tl.step = some x → x.frame ≤ s.frame →
      t.tl.beat = s.tl.beat - x.beats ∧ t.tl.epochFirst = s.tl.beat - x.beats ∧ t.tl.offset = s.tl.offset - (x.beats : Int) * beatUnits ∧
      t.tl.epoch = (if s.inServ then BitVec.ofNat 16 x.epoch else s.tl.epoch) ∧ t.tl.step = none ∧ t.tl.servo = .catchUp ∧
      t.tl.slewTerm = slewLimit ∧ t.tl.residual = x.residual) ∧
    ((∃ x, s.tl.step = some x ∧ x.frame ≤ s.frame) ∨ s.tl.frameFirst = true →
      t.live.map (fun i => i.body) = s.live.map (fun i => i.body) ∧ t.liveBeat = s.liveBeat ∧ t.old = s.old) ∧
    (∀ img, (∀ x, s.tl.step = some x → s.frame < x.frame) → s.tl.frameFirst = false → s.place.replacements = [] → s.place.migrations = [] →
      (∀ y ∈ s.mem.copies, y.done = false) → s.slot.state = .armed → s.slot.image = some img → s.hold = false →
      t.live = some img ∧ t.old.map (fun i => i.body) = s.live.map (fun i => i.body) ∧ t.liveBeat = s.tl.beat))

/-- DEADLINE_MISSED (R256, R259). -/
def Obligations.MissedDeadlinesLoseNoKey : Prop :=
  (∀ (n : Fin 7) (s : State), (∀ r ∈ (s.dest n).queue, dueAt s.tl.beats r = false) → (s.dest n).ready = none →
    exec (.deadlineMissed n) s = .next s) ∧
  (∀ (n : Fin 7) (s : State), s.Units → s.MemOk → (∃ r ∈ (s.dest n).queue, dueAt s.tl.beats r = true) → (s.dest n).ready = none →
    ∃ t, exec (.deadlineMissed n) s = .next t ∧
      (∀ r ∈ (s.dest n).queue, ∀ k ∈ r.keys, (∃ q ∈ (t.dest n).queue, k ∈ q.keys) ∨ k ∈ (t.dest n).await) ∧
      (∀ r ∈ (s.dest n).queue, dueAt s.tl.beats r = true →
        ∃ q ∈ (t.dest n).queue, q.kind = .live ∧ q.missed = true ∧ q.keys = [] ∧ q.ord = r.ord ∧ q.beat = r.beat ∧ q.epoch = r.epoch) ∧
      (∀ q ∈ (t.dest n).queue, dueAt s.tl.beats q = false) ∧
      t.rget (if n.val = 6 then Reg.MISSED_HOST else Reg.MISSED_PEER n) =
        satAdd32 (s.rget (if n.val = 6 then Reg.MISSED_HOST else Reg.MISSED_PEER n))
          ((((s.dest n).queue.filter (dueAt s.tl.beats)).map (fun r => (r.ord, r.beat, r.epoch))).eraseDups.length) ∧
      t.rbit Reg.COMMIT_EVENTS (if n.val = 6 then 0 else 1) = true ∧ (∀ m : Fin 7, m ≠ n → t.dest m = s.dest m))

/-- DESKEW (R177 to R179, R182). -/
def Obligations.DeskewMovesPeasToTheZoneFrame : Prop :=
  (∀ s : State, s.store.deskewQ = [] → exec .deskew s = .next s) ∧
  (∀ (s : State) (d : DeskewItem) (rest : List DeskewItem) (e : SensorEntry) (v : List Int), s.MemOk → d.pea.sensor < 1024 → s.store.deskewQ = d :: rest →
    s.sensorFor d.pea.sensor (d.frame * 65536 + d.pea.timeOffset) = some e →
    (e.fixed = true ∧ v = throughExtrinsic (mgetD s.store.extrinsics d.pea.sensor e.extrinsic) d.pea.x d.pea.y d.pea.z ∨
      e.fixed = false ∧ ∃ w, compositePose (fun n => s.store.versionAt n s.tl.beats) e.track (d.frame * 65536 + d.pea.timeOffset) = some w ∧
        v = w.apply (throughExtrinsic (mgetD s.store.extrinsics d.pea.sensor e.extrinsic) d.pea.x d.pea.y d.pea.z)) →
    ∃ t x y z, exec .deskew s = .next t ∧ t.store.deskewQ = rest ∧
      ((x * poseOne - lgetD v 0 0).natAbs : Int) ≤ poseOne ∧ ((y * poseOne - lgetD v 1 0).natAbs : Int) ≤ poseOne ∧
      ((z * poseOne - lgetD v 2 0).natAbs : Int) ≤ poseOne ∧
      (fits24 x ∧ fits24 y ∧ fits24 z → inBox s.owned x y z = true → ∃ it, t.store.fileQ = s.store.fileQ ++ [it] ∧
        it.pea = { d.pea with x := x, y := y, z := z, range := rangeCode d.pea.x d.pea.y d.pea.z } ∧ it.frame = d.frame ∧ it.epoch = d.epoch ∧
        it.beat = s.tl.beats) ∧
      (¬ (fits24 x ∧ fits24 y ∧ fits24 z) → t.store.fileQ = s.store.fileQ ∧ t.rbit Reg.POD_EVENTS 0 = true ∧
        (e.fixed = true → t.rget Reg.RANGE_DROPS = satAdd32 (s.rget Reg.RANGE_DROPS) 1))) ∧
  (∀ (s : State) (d : DeskewItem) (rest : List DeskewItem) (e : SensorEntry), s.MemOk → d.pea.sensor < 1024 → s.store.deskewQ = d :: rest →
    s.sensorFor d.pea.sensor (d.frame * 65536 + d.pea.timeOffset) = some e → e.fixed = false →
    compositePose (fun n => s.store.versionAt n s.tl.beats) e.track (d.frame * 65536 + d.pea.timeOffset) = none →
    ∃ t, exec .deskew s = .next t ∧ t.store = { s.store with deskewQ := rest } ∧
      t.rget Reg.SPLINE_MISSES = satAdd32 (s.rget Reg.SPLINE_MISSES) 1 ∧ t.rbit Reg.POD_EVENTS 8 = true)

/-- PEA_FILE (R98, R212, R217, R226, R235, R238). -/
def Obligations.PeasAreFiledOrRefused : Prop :=
  (∀ s : State, s.store.fileQ = [] → exec .peaFile s = .next s) ∧
  (∀ (s : State) (it : FileItem) (rest : List FileItem), s.MemOk → s.store.fileQ = it :: rest → it.epoch = s.tl.epoch.toNat →
    s.preEpoch ((it.frame : Int) * 1024 * beatUnits + (it.pea.timeOffset : Int) * 1024000) = true →
    ∃ t, exec .peaFile s = .next t ∧ t.store = { s.store with fileQ := rest } ∧ t.com = s.com ∧
      t.rget Reg.PRE_EPOCH_DROPS = satAdd32 (s.rget Reg.PRE_EPOCH_DROPS) 1 ∧ t.rbit Reg.TIME_EVENTS 6 = true) ∧
  (∀ (s : State) (it : FileItem) (rest : List FileItem) (d : Nat × Nat), s.MemOk → s.store.fileQ = it :: rest →
    (it.epoch = s.tl.epoch.toNat → s.preEpoch ((it.frame : Int) * 1024 * beatUnits + (it.pea.timeOffset : Int) * 1024000) = false) →
    s.judgeDelta it.frame it.epoch = .inr d →
    ∃ t, exec .peaFile s = .next t ∧ t.store = { s.store with fileQ := rest } ∧ t.com = s.com ∧
      t.rget d.1 = satAdd32 (s.rget d.1) 1 ∧ t.rbit Reg.COMMIT_EVENTS d.2 = true) ∧
  (∀ (s : State) (it : FileItem) (rest : List FileItem) (i key n : Nat) (e : NodeEntry) (p : Pod) (m : SensorEntry), s.MemOk →
    s.store.fileQ = it :: rest →
    (it.epoch = s.tl.epoch.toNat → s.preEpoch ((it.frame : Int) * 1024 * beatUnits + (it.pea.timeOffset : Int) * 1024000) = false) →
    s.layerOf it.frame it.epoch = some i → s.layerRoom i 1 = true → cellKey it.pea.x it.pea.y it.pea.z = some key →
    (s.store.lookup (podKey key)).1 = some e → e.kind = .pod → mget s.store.pods e.pool = some p → p.cells.length = 64 →
    firstFree p.slots = some n → s.sensorFor it.pea.sensor (it.frame * 65536 + it.pea.timeOffset) = some m →
    ∃ t q l k, exec .peaFile s = .next t ∧ t.store.fileQ = rest ∧ mget t.store.pods e.pool = some q ∧ mget q.slots n = some it.pea ∧
      (∀ j, j ≠ n → mget q.slots j = mget p.slots j) ∧
      (it.origin = none → lgetD q.cells (cellInPod key) {} = hitCell s.config.decay (lgetD p.cells (cellInPod key) {}) it.frame m.hit) ∧
      s.com.layers[i]? = some l ∧ t.com.layers[i]? = some k ∧ (l.log ++ [⟨0, it.pea.sensor, key⟩]) <+: k.log ∧ key ∈ k.touched ∧
      t.rget Reg.PEAS_FILED_LO = nw (s.rpair Reg.PEAS_FILED_LO Reg.PEAS_FILED_HI + 1)) ∧
  (∀ (s : State) (it : FileItem) (rest : List FileItem) (i key : Nat), s.MemOk → s.store.fileQ = it :: rest →
    (it.epoch = s.tl.epoch.toNat → s.preEpoch ((it.frame : Int) * 1024 * beatUnits + (it.pea.timeOffset : Int) * 1024000) = false) →
    s.layerOf it.frame it.epoch = some i → s.layerRoom i 1 = true → cellKey it.pea.x it.pea.y it.pea.z = some key →
    (s.store.lookup (podKey key)).1 = none → s.poolFree = 0 → s.mergedOver key = none →
    ∃ t, exec .peaFile s = .next t ∧ t.store.fileQ = rest ∧ t.store.pods = s.store.pods ∧ t.com.podRefused = true ∧
      t.rget Reg.PEAS_REFUSED = satAdd32 (s.rget Reg.PEAS_REFUSED) 1 ∧ t.rget Reg.PODS_REFUSED = satAdd32 (s.rget Reg.PODS_REFUSED) 1 ∧
      t.rbit Reg.POD_EVENTS 3 = true)

/-- SPLINE_VERSION_PUBLISH and REDESKEW (R183 to R189). -/
def Obligations.RevisedVersionsRedeskewPeas : Prop :=
  (∀ s : State, s.store.compareQ = [] → exec .splineVersionPublish s = .next s) ∧
  (∀ (s : State) (a : Nat) (rest : List Nat), s.store.compareQ = a :: rest → ∃ t, exec .splineVersionPublish s = .next t ∧
    t = { s with store := { s.store with compareQ := rest, candidates := t.store.candidates } } ∧
    (∀ c ∈ s.store.candidates, c ∈ t.store.candidates) ∧
    (∀ c ∈ t.store.candidates, c ∉ s.store.candidates → ∃ l ∈ s.com.layers, ∃ q, l.phase = .provisional ∧ l.epoch = s.tl.epoch.toNat ∧
      l.frame = c.frame ∧ c.epoch = l.epoch ∧ c.entry ∈ l.journal ∧ s.journalPea c.entry = some q ∧ q.fwd = false)) ∧
  (∀ s : State, s.store.candidates = [] ∨ s.config.rate ≤ s.store.redone → exec .redeskew s = .next s) ∧
  (∀ (s : State) (c : Candidate) (rest : List Candidate), s.MemOk → s.store.candidates = c :: rest → s.store.redone < s.config.rate →
    s.layerOf c.frame c.epoch = none → ∃ t, exec .redeskew s = .next t ∧
      t.store = { s.store with candidates := rest, redone := s.store.redone + 1 } ∧ t.com = s.com ∧
      t.rget Reg.REDESKEW_ABANDONED = satAdd32 (s.rget Reg.REDESKEW_ABANDONED) 1 ∧ t.rbit Reg.POD_EVENTS 7 = true) ∧
  (∀ (s : State) (c : Candidate) (rest : List Candidate) (i : Nat) (l : Layer), s.MemOk → s.store.candidates = c :: rest →
    s.store.redone < s.config.rate → s.layerOf c.frame c.epoch = some i → s.com.layers[i]? = some l →
    ∃ t m, exec .redeskew s = .next t ∧ t.store.candidates = rest ∧ t.store.redone = s.store.redone + 1 ∧ t.com.layers[i]? = some m ∧
      (m.log = l.log ∨ (∃ a k, m.log = l.log ++ [⟨2, a, k⟩]) ∨ ∃ a k k', m.log = l.log ++ [⟨2, a, k⟩, ⟨3, a, k'⟩]) ∧
      (∀ j, j ≠ i → t.com.layers[j]? = s.com.layers[j]?))

/-- The re-keying of a region (R205, R206). -/
def Obligations.RegionsAreRekeyed : Prop :=
  (∀ (r : Fin 512) (s : State), (s.store.region r).phase = .pending → s.store.copying < 4 → ∃ t, exec (.rekeyStart r) s = .next t ∧
    t.store.region r = { s.store.region r with phase := .copying } ∧ (∀ q : Fin 512, q ≠ r → t.store.region q = s.store.region q) ∧
    t = { s with store := { s.store with regions := t.store.regions } }) ∧
  (∀ (r : Fin 512) (s : State), (s.store.region r).phase ≠ .pending ∨ 4 ≤ s.store.copying → exec (.rekeyStart r) s = .next s) ∧
  (∀ (r : Fin 512) (s : State), (s.store.region r).phase = .copying → (copyRegion s.store r).2 = true → ∃ t, exec (.rekeyCopyDone r) s = .next t ∧
    t.store.region r = { s.store.region r with phase := .ready } ∧ (∀ q : Fin 512, q ≠ r → t.store.region q = s.store.region q) ∧
    t.store.pods = s.store.pods ∧ Only [.store] s t ∧
    ∀ e ∈ regionEntries s.store r, e.kind ≠ .tombstone → copiedNext t.store e.key = true ∨ ∃ x ∈ t.store.stash, x.holds e.key = true) ∧
  (∀ (r : Fin 512) (s : State), (s.store.region r).phase ≠ .copying ∨ (copyRegion s.store r).2 = false → exec (.rekeyCopyDone r) s = .next s) ∧
  (∀ (r : Fin 512) (s : State), s.MemOk → (s.store.region r).phase = .draining → ∃ t, exec (.rekeyDrainDone r) s = .next t ∧
    (∀ x ∈ t.store.nodes, keyRegion x.2.key = r → x.2.gen ≠ (s.store.region r).gen → x.2.kind = .tombstone) ∧
    ((s.store.region r).held = none → (t.store.region r).phase = .steady) ∧
    (∀ w, (s.store.region r).held = some w → (t.store.region r).phase = .pending ∧ (t.store.region r).trigger = w ∧ (t.store.region r).held = none) ∧
    (t.store.region r).gen = (s.store.region r).gen ∧ (∀ q : Fin 512, q ≠ r → t.store.region q = s.store.region q) ∧
    t.store.pods = s.store.pods ∧ t.store.stash = s.store.stash ∧
    t.rget Reg.REKEYS_DONE = satAdd32 (s.rget Reg.REKEYS_DONE) 1 ∧ t.rbit Reg.POD_EVENTS 6 = true) ∧
  (∀ (r : Fin 512) (s : State), (s.store.region r).phase ≠ .draining → exec (.rekeyDrainDone r) s = .next s)

/-- AGEING_PASS, POD_MERGE and POD_RELOCATE (R215, R216, R220 to R222, R465, R466). -/
def Obligations.AgeingMergingAndRelocation : Prop :=
  (∀ (ix : Nat) (s : State), ¬ s.up ∨ s.live = none ∨ mget s.store.pods ix = none → exec (.ageingPass ix) s = .next s) ∧
  (∀ (ix : Nat) (s : State) (p : Pod), s.up → s.live.isSome → mget s.store.pods ix = some p →
    (∃ c ∈ p.cells, effective s.config.decay c s.frame ≠ 0 ∨ c.conf ≠ 0 ∨ c.cls ≠ 0 ∨ behind c s.frame ≤ s.config.depth) →
    (∀ c ∈ p.cells, c.last < 256) → ∃ t q, exec (.ageingPass ix) s = .next t ∧ mget t.store.pods ix = some q ∧ q.key = p.key ∧ q.slots = p.slots ∧
      q.cells.map (fun c => effective s.config.decay c s.frame) = p.cells.map (fun c => effective s.config.decay c s.frame) ∧
      (∀ c ∈ q.cells, behind c s.frame < 96) ∧ (∀ j, j ≠ ix → mget t.store.pods j = mget s.store.pods j) ∧ Only [.store] s t) ∧
  (∀ (ix : Nat) (s : State) (p : Pod), s.MemOk → mrising 0 s.store.pods = true → s.up → s.live.isSome → mget s.store.pods ix = some p →
    (∀ c ∈ p.cells, effective s.config.decay c s.frame = 0 ∧ c.conf = 0 ∧ c.cls = 0 ∧ s.config.depth < behind c s.frame) →
    ∃ t, exec (.ageingPass ix) s = .next t ∧ mget t.store.pods ix = none ∧ (∀ j, j ≠ ix → mget t.store.pods j = mget s.store.pods j) ∧
      (t.store.lookup p.key).1 = none ∧ t.rget Reg.PODS_FREED = satAdd32 (s.rget Reg.PODS_FREED) 1) ∧
  (∀ (key : BitVec 48) (s : State), s.store.merging = true → s.mergeChoice = none →
    exec (.podMerge key) s = .next { s with store := { s.store with merging := false } }) ∧
  (∀ (key : BitVec 48) (s : State) (e : NodeEntry), s.store.merging = true → s.mergeChoice = some e → e.key ≠ key.toNat →
    exec (.podMerge key) s = .next s) ∧
  (∀ (key : BitVec 48) (s : State) (e : NodeEntry) (l : Layer), s.MemOk → s.store.merging = true → s.mergeChoice = some e → e.key = key.toNat →
    s.recordsBelow (s.childEntries e) ≠ [] → s.com.layers[0]? = some l → s.layerRoom 0 1 = true →
    (∀ r ∈ s.recordsBelow (s.childEntries e), r.1 < 2 ^ 48 ∧ r.2.logOdds.natAbs ≤ 32768) →
    ∃ t x k, exec (.podMerge key) s = .next t ∧ x ∈ t.store.nodes.map (fun y => y.2) ++ t.store.stash ∧ x.key = e.key ∧ x.kind = .merged ∧
      x.childMask = 0 ∧ x.cell.last = s.frame % 256 ∧
      (∀ r ∈ s.recordsBelow (s.childEntries e), effective s.config.decay r.2 s.frame ≤ x.cell.logOdds ∧ x.cell.conf ≤ r.2.conf) ∧
      (∃ r ∈ s.recordsBelow (s.childEntries e), effective s.config.decay r.2 s.frame = x.cell.logOdds) ∧
      t.com.layers[0]? = some k ∧ k.log = l.log ++ [⟨4, 0, e.key⟩]) ∧
  (∀ (key : BitVec 48) (s : State) (ix new : Nat) (hot cool : Nat) (p : Pod), s.MemOk → mrising 0 s.store.pods = true →
    s.hotCool = some (hot, cool) → s.podAt key.toNat = some ix → mget s.store.pods ix = some p → s.place.imbalance = true →
    ix % max s.mem.inUse 1 = hot →
    freeSlot s.store s.poolPods (max s.mem.inUse 1) cool (s.store.pods.length + 2) 0 = some new →
    ∃ t, exec (.podRelocate key) s = .next t ∧ mget t.store.pods new = some p ∧ mget t.store.pods ix = none ∧
      (∀ j, j ≠ new → j ≠ ix → mget t.store.pods j = mget s.store.pods j) ∧
      t.rget Reg.PODS_RELOCATED = satAdd32 (s.rget Reg.PODS_RELOCATED) 1 ∧ Only [.regs, .store] s t) ∧
  (∀ (key : BitVec 48) (s : State), s.place.imbalance = false ∨ s.podAt key.toNat = none → exec (.podRelocate key) s = .next s)

/-- DELTA_BATCH_ARRIVE and DELTA_APPLY (R240 to R243). -/
def Obligations.DeltaBatchesArriveAndApply : Prop :=
  (∀ (b : DeltaBatch) (s : State), ¬ s.up → exec (.deltaBatchArrive b) s = .next s) ∧
  (∀ (b : DeltaBatch) (s : State), s.up → 1 ≤ b.count.toNat → b.count.toNat ≤ 4096 →
    lsum (s.com.batches.map (fun x => 16 + 16 * x.records.length)) + 16 + 16 * b.count.toNat ≤ 262144 →
    ∃ t x, exec (.deltaBatchArrive b) s = .next t ∧ t = { s with com := { s.com with batches := s.com.batches ++ [x] } } ∧
      x.records = b.records.take b.count.toNat ∧ x.frame = b.frame ∧ x.epoch = b.epoch ∧ x.source = b.source) ∧
  (∀ (b : DeltaBatch) (s : State), s.MemOk → s.up → b.count.toNat = 0 ∨ 4096 < b.count.toNat ∨
      262144 < lsum (s.com.batches.map (fun x => 16 + 16 * x.records.length)) + 16 + 16 * b.count.toNat →
    ∃ t, exec (.deltaBatchArrive b) s = .next t ∧ t.com = s.com ∧ t.rget Reg.BATCH_REFUSALS = satAdd32 (s.rget Reg.BATCH_REFUSALS) 1 ∧
      t.rbit Reg.COMMIT_EVENTS 8 = true) ∧
  (∀ s : State, 1024 ≤ s.com.applied ∨ s.com.batches = [] → exec .deltaApply s = .next s) ∧
  (∀ (s : State) (b : DeltaBatch) (rest : List DeltaBatch) (r : DeltaRecord) (rs : List DeltaRecord), s.MemOk → s.com.applied < 1024 →
    s.com.batches = b :: rest → b.records = r :: rs →
    ∃ t, exec .deltaApply s = .next t ∧ t.com.applied = s.com.applied + 1 ∧
      t.com.batches = (if rs.isEmpty then rest else { b with records := rs } :: rest) ∧
      (r.kind.toNat < 5 ∨ 7 < r.kind.toNat ∨ keyLevel r.key.toNat ≠ 11 ∨ (r.kind = 6 ∧ 5 ≤ r.value.toNat % 16) ∨
          (r.kind = 7 ∧ 128 < r.value.toNat / 2 ^ 32 % 256) →
        t.store = s.store ∧ t.com.layers = s.com.layers ∧ t.rget Reg.BAD_DELTAS = satAdd32 (s.rget Reg.BAD_DELTAS) 1 ∧
          t.rbit Reg.COMMIT_EVENTS 8 = true) ∧
      (badDelta r = false → s.ownsKey (r.key.toNat % 2 ^ 37) = false →
        t.store = s.store ∧ t.com.layers = s.com.layers ∧ t.rget Reg.OUTSIDE_DELTAS = satAdd32 (s.rget Reg.OUTSIDE_DELTAS) 1) ∧
      (∀ (i : Nat) (l : Layer) (e : NodeEntry) (p : Pod), r.kind = 5 → keyLevel r.key.toNat = 11 → s.ownsKey (r.key.toNat % 2 ^ 37) = true →
        s.layerOf b.frame.toNat b.epoch.toNat = some i → s.layerRoom i 1 = true → s.com.layers[i]? = some l →
        (s.store.lookup (podKey (r.key.toNat % 2 ^ 37))).1 = some e → e.kind = .pod → mget s.store.pods e.pool = some p → p.cells.length = 64 →
        ∃ q c k, mget t.store.pods e.pool = some q ∧ lgetD q.cells (cellInPod (r.key.toNat % 2 ^ 37)) {} = c ∧
          ((b.frame.toNat % 256 + 256 - (lgetD p.cells (cellInPod (r.key.toNat % 2 ^ 37)) {}).last) % 256 < 128 →
            c.logOdds = ssat 16 (effective s.config.decay (lgetD p.cells (cellInPod (r.key.toNat % 2 ^ 37)) {}) b.frame.toNat + sval 16 r.value.toNat) ∧
            c.last = b.frame.toNat % 256) ∧
          t.com.layers[i]? = some k ∧ k.log = l.log ++ [⟨5, b.source.toNat, r.key.toNat % 2 ^ 37⟩]))

/-- RECORD_TRANSMIT (R246, R255, R260, R653). -/
def Obligations.RecordsAreTransmittedInOrder : Prop :=
  (∀ (n : Fin 7) (s : State), (s.dest n).queue = [] ∨ (s.dest n).on = false ∨ (s.dest n).ready.isSome → exec (.recordTransmit n) s = .next s) ∧
  (∀ (n : Fin 7) (s : State) (r : CommitRecord) (rest : List CommitRecord), (s.dest n).queue = r :: rest →
    4096 < s.com.entriesRead + (r.keys.filter (fun k => !s.com.readKeys.contains k)).length → exec (.recordTransmit n) s = .next s) ∧
  (∀ (s : State) (r : CommitRecord) (rest : List CommitRecord), (s.dest 6).queue = r :: rest → s.ringRoom (64 + 16 * r.keys.length) = false →
    exec (.recordTransmit 6) s = .next s) ∧
  (∀ (n : Fin 7) (s : State) (r : CommitRecord) (rest : List CommitRecord), s.Units → (s.dest n).queue = r :: rest → (s.dest n).on = true →
    (s.dest n).ready = none → s.com.entriesRead + (r.keys.filter (fun k => !s.com.readKeys.contains k)).length ≤ 4096 →
    (n = 6 → s.ringRoom (64 + 16 * r.keys.length) = true) →
    ∃ t x, exec (.recordTransmit n) s = .next t ∧ x.body = r ∧ x.seq = (s.dest n).seq ∧ x.entries.map (fun e => e.key) = r.keys ∧
      (∀ e ∈ x.entries, ∀ c, s.record e.key = some c → e.cell = c) ∧
      (t.dest n).queue = rest ∧ (t.dest n).seq = (s.dest n).seq + 1 ∧ (∀ m : Fin 7, m ≠ n → t.dest m = s.dest m) ∧
      (∀ k ∈ r.keys, k ∈ t.com.readKeys) ∧
      (n = 6 → (t.dest n).ready = some x ∧ t.peers = s.peers) ∧
      (n ≠ 6 → (t.dest n).ready = none ∧ (2 ≤ (s.peer n).waiting.length →
        lgetD (t.peer n).waiting 0 [] = lgetD (s.peer n).waiting 0 [] ++ [.commit [x]] ∧
        ∀ m : Fin 6, m.val ≠ n.val → t.peer m = s.peer m)))

/-- A slot runs only in a context that issues (R276, R280, R608). -/
def Obligations.SlotsWaitForTheirContext : Prop :=
  ∀ (i : Instr) (e : Fin 20) (c : CtxSel) (s : State), slotOf i = some (e, c) →
    (¬ s.up ∨ s.hold ∨ s.saved ∨ s.ctxOf e c = none ∨
      ∃ x m k, s.ctxOf e c = some x ∧ x.waiting = some (m, k) ∧ x.tokens &&& m ≠ m) →
    exec i s = .next s

/-- The sequencer's operations (R277, R279); the free outcomes are the model's (log entry 22). -/
def Obligations.SequencerMovesThroughTheProgram : Prop :=
  ∀ (e : Fin 20) (c : CtxSel) (s : State) (x : EngCtx), s.Units → s.MemOk → s.issuing e c = some x →
    (∃ t, exec (.seqNext e c) s = .next t ∧ SlotRan s t e c { x with pc := (x.pc + 1) % 8192 } ∧
      (c = .live → (t.book e).issued = (s.book e).issued + 1)) ∧
    (∀ u : BitVec 16, ∃ t, exec (.seqHalt e c u) s = .next t ∧ ∃ h, SlotRan s t e c { x with pc := (x.pc + 1) % 8192, halts := h } ∧
      ∀ n, n ∈ h ↔ n = u.toNat ∨ n ∈ x.halts) ∧
    (∀ n : BitVec 16, n ≠ 0 → x.loops.length < 4 → ∃ t, exec (.seqLoop e c n) s = .next t ∧
      SlotRan s t e c { x with pc := (x.pc + 1) % 8192, loops := { start := (x.pc + 1) % 8192, left := n.toNat } :: x.loops }) ∧
    (∀ n : BitVec 16, n = 0 → x.loops.length < 4 → ∃ t k, exec (.seqLoop e c n) s = .next t ∧ k < 65536 ∧
      SlotRan s t e c { x with pc := (x.pc + 1) % 8192, loops := { start := (x.pc + 1) % 8192, left := k } :: x.loops }) ∧
    (∀ n : BitVec 16, 4 ≤ x.loops.length → ∃ t k, exec (.seqLoop e c n) s = .next t ∧ k < 8192 ∧ SlotRan s t e c { x with pc := k }) ∧
    (∀ l ls, x.loops = l :: ls → ∃ t, exec (.seqLoopEnd e c) s = .next t ∧
      SlotRan s t e c (if 1 < l.left then { x with pc := l.start, loops := { l with left := l.left - 1 } :: ls }
        else { x with pc := (x.pc + 1) % 8192, loops := ls })) ∧
    (x.loops = [] → ∃ t k, exec (.seqLoopEnd e c) s = .next t ∧ k < 8192 ∧ SlotRan s t e c { x with pc := k }) ∧
    (∀ o : BitVec 16, ∃ t, exec (.seqJumpMask e c o) s = .next t ∧ ∃ q, SlotRan s t e c { x with pc := q } ∧ q < 8192 ∧
      ((∀ i < 64, x.mask.getLsbD i = false) → q = (x.pc + 1) % 8192) ∧
      ((∃ i < 64, x.mask.getLsbD i = true) → (q : Int) % 8192 = ((x.pc : Int) + o.toInt) % 8192)) ∧
    (∀ (u : BitVec 16) (n : BitVec 32), ∃ t, exec (.seqEndPass e c u n) s = .next t ∧
      t.rget (Reg.PASSES e) = satAdd32 (s.rget (Reg.PASSES e)) 1 ∧
      (∀ w, imgUnit (s.graphOf e c) u.toNat = some w → 0 < w.bound →
        t.rget (Reg.PASS_OVERRUNS e) = satAdd32 (s.rget (Reg.PASS_OVERRUNS e)) (if 9 * w.bound < 8 * n.toNat then 1 else 0)) ∧
      (x.withheld = true → ∃ o, t.ctxOf e c = some { x with pc := (x.pc + 1) % 8192, passRunning := false, withheld := false, signals := 0, overran := o } ∧
        t.movers = s.movers ∧ ∀ m : Fin 20, m ≠ e → t.engine m = s.engine m))

/-- The array (R285 to R289, R293). -/
def Obligations.ArrayMultipliesAndDrains : Prop :=
  (∀ (e : Fin 20) (c : CtxSel) (mode : ArrayMode) (bank first : Bool) (k : BitVec 16) (w : BitVec 8) (s : State) (x : EngCtx), s.Units → s.MemOk →
    s.issuing e c = some x → ((s.engine e).bank bank).drain = none →
    k.toNat / 32 * 32 * mode.shape.1 ≤ x.opA.length → k.toNat / 32 * 32 * mode.shape.2 ≤ x.opB.length →
    ∃ t, exec (if first then .arrayMacFirst e c mode bank k w else .arrayMac e c mode bank k w) s = .next t ∧
      SlotLeft s t e c { x with opA := x.opA.drop (k.toNat / 32 * 32 * mode.shape.1), opB := x.opB.drop (k.toNat / 32 * 32 * mode.shape.2) } ∧
      (t.engine e).store = (s.engine e).store ∧ (t.engine e).bank (!bank) = (s.engine e).bank (!bank) ∧ ((t.engine e).bank bank).mode = mode ∧
      (∀ m n, m < mode.shape.1 → n < mode.shape.2 → mgetD ((t.engine e).bank bank).acc (m * 64 + n) 0 =
        ((operandOf x.opA mode.shape.1 (k.toNat / 32 * 32) m).zip (operandOf x.opB mode.shape.2 (k.toNat / 32 * 32) n)).foldl
          (fun v b => ssat mode.accBits (v + macTerm b.1 b.2 w.toInt)) (if first then 0 else mgetD ((s.engine e).bank bank).acc (m * 64 + n) 0)) ∧
      t.rget (Reg.ARRAY_CYCLES_LO e) = nw (s.rpair (Reg.ARRAY_CYCLES_LO e) (Reg.ARRAY_CYCLES_HI e) +
        (if mode = .b4 then k.toNat / 32 * 32 / 2 else k.toNat / 32 * 32))) ∧
  (∀ (e : Fin 20) (c : CtxSel) (mode : ArrayMode) (bank first : Bool) (k : BitVec 16) (w : BitVec 8) (s : State) (x : EngCtx),
    s.issuing e c = some x → ((s.engine e).bank bank).drain.isSome ∨ x.opA.length < k.toNat / 32 * 32 * mode.shape.1 ∨
      x.opB.length < k.toNat / 32 * 32 * mode.shape.2 →
    exec (if first then .arrayMacFirst e c mode bank k w else .arrayMac e c mode bank k w) s = .next s) ∧
  (∀ (e : Fin 20) (c : CtxSel) (bank : Bool) (entry : Fin 256) (d : Fin 16) (s : State) (x : EngCtx) (q : RequantEntry), s.Units → s.MemOk →
    s.issuing e c = some x → mget x.requants entry = some q → q.perCol = false → q.outFormat = 1 → q.rangeLo ≤ q.rangeHi →
    ∃ t b, exec (.arrayDrain e c bank entry d) s = .next t ∧ SlotLeft s t e c { x with rq := x.rq ++ [b] } ∧
      (t.engine e).store = (s.engine e).store ∧ (t.engine e).bank (!bank) = (s.engine e).bank (!bank) ∧
      (t.engine e).bank bank = { (s.engine e).bank bank with drain :=
        if (((s.engine e).bank bank).drain.getD 0) + 1 < ((s.engine e).bank bank).mode.shape.1 then some ((((s.engine e).bank bank).drain.getD 0) + 1) else none } ∧
      b.vals.length = ((s.engine e).bank bank).mode.shape.2 ∧ (∀ v ∈ b.vals, -128 ≤ v ∧ v ≤ 127) ∧
      (∀ n, n < ((s.engine e).bank bank).mode.shape.2 → ∀ y : Int,
        y = rndDiv ((mgetD ((s.engine e).bank bank).acc ((((s.engine e).bank bank).drain.getD 0) * 64 + n) 0 + q.bias) * (q.mult : Int)) (2 ^ q.shift) →
        (q.rangeLo ≤ y ∧ y ≤ q.rangeHi → q.clampLo ≤ y ∧ y ≤ q.clampHi → -128 ≤ y ∧ y ≤ 127 → lgetD b.vals n 0 = y) ∧
        (y < q.rangeLo ∨ q.rangeHi < y → b.flags.escape = true ∧ t.rbit Reg.ESCAPE_EVENTS e = true)))

/-- The lane operations of the vector unit (R298, R299). -/
def Obligations.VectorLanesCompute : Prop :=
  ∀ (e : Fin 20) (c : CtxSel) (dst a b imm : Fin 64) (table : Fin 16) (s : State) (x : EngCtx), s.Units → s.MemOk → s.issuing e c = some x →
    (x.vreg a).length = 64 → (x.vreg b).length = 64 →
    (∃ t y, exec (.vecAdd e c dst a b) s = .next t ∧ VecRan s t e c y ∧ LanesWritten x y dst (fun i => laneOf x a i + laneOf x b i)) ∧
    (∃ t y, exec (.vecSub e c dst a b) s = .next t ∧ VecRan s t e c y ∧ LanesWritten x y dst (fun i => laneOf x a i - laneOf x b i)) ∧
    (∃ t y, exec (.vecMul e c dst a b) s = .next t ∧ VecRan s t e c y ∧
      LanesWritten x y dst (fun i => sval 24 (sbits 24 (laneOf x a i)) * sval 24 (sbits 24 (laneOf x b i)))) ∧
    (∃ t y, exec (.vecMulr e c dst a b imm) s = .next t ∧ VecRan s t e c y ∧
      LanesWritten x y dst (fun i => (2 * (laneOf x a i * sval 24 (sbits 24 (laneOf x b i))) + 2 ^ imm.val) / (2 * 2 ^ imm.val))) ∧
    (∃ t y, exec (.vecShr e c dst a imm) s = .next t ∧ VecRan s t e c y ∧
      LanesWritten x y dst (fun i => (2 * laneOf x a i + 2 ^ imm.val) / (2 * 2 ^ imm.val))) ∧
    (∃ t y, exec (.vecShl e c dst a imm) s = .next t ∧ VecRan s t e c y ∧ LanesWritten x y dst (fun i => laneOf x a i * 2 ^ imm.val)) ∧
    (∃ t y, exec (.vecMin e c dst a b) s = .next t ∧ VecRan s t e c y ∧
      LanesWritten x y dst (fun i => if laneOf x a i ≤ laneOf x b i then laneOf x a i else laneOf x b i)) ∧
    (∃ t y, exec (.vecMax e c dst a b) s = .next t ∧ VecRan s t e c y ∧
      LanesWritten x y dst (fun i => if laneOf x a i ≤ laneOf x b i then laneOf x b i else laneOf x a i)) ∧
    (∀ p, mget x.pwls table = some p → ∃ t y, exec (.vecPwl e c dst a table) s = .next t ∧ VecRan s t e c y ∧
      LanesWritten x y dst (fun i =>
        let k := (clampI 0 63 ((laneOf x a i - p.base) / 2 ^ p.stepLog2)).toNat
        (lgetD p.seg k (0, 0)).1 + (2 * ((lgetD p.seg k (0, 0)).2 * (laneOf x a i - p.base - (k : Int) * 2 ^ p.stepLog2)) + 32768) / 65536))

/-- The other operations of the vector unit (R298). -/
def Obligations.VectorMasksAndMoves : Prop :=
  ∀ (e : Fin 20) (c : CtxSel) (dst a b : Fin 64) (s : State) (x : EngCtx), s.Units → s.MemOk → s.issuing e c = some x →
    (x.vreg a).length = 64 → (x.vreg b).length = 64 →
    (∀ op, ∃ t m, exec (.vecCmp e c op a b) s = .next t ∧ VecRan s t e c { x with mask := m } ∧ ∀ i, i < 64 →
      (m.getLsbD i = true ↔ match op with
        | .lt => laneOf x a i < laneOf x b i
        | .eq => laneOf x a i = laneOf x b i
        | .le => laneOf x a i ≤ laneOf x b i)) ∧
    (∃ t v, exec (.vecSel e c dst a b) s = .next t ∧ VecRan s t e c { x with vregs := mset x.vregs dst v } ∧ ∀ i, i < 64 →
      lgetD v i 0 = if x.mask.getLsbD i then laneOf x a i else laneOf x b i) ∧
    (∃ t y, exec (.vecReduce e c dst a) s = .next t ∧ VecRan s t e c y ∧ (∀ r, r ≠ dst.val → y.vreg r = x.vreg r) ∧ y.mask = x.mask ∧
      laneOf y dst 0 = ssat 48 (((List.range 64).map (fun i => if x.mask.getLsbD i then laneOf x a i else 0)).foldl (· + ·) 0) ∧
      ∀ i, 0 < i → i < 64 → laneOf y dst i = 0) ∧
    (∀ (bank : Bool) (row : Fin 128), ∃ t y, exec (.vecAccv e c dst bank row) s = .next t ∧ VecRan s t e c y ∧
      (∀ r, r ≠ dst.val → y.vreg r = x.vreg r) ∧ y.mask = x.mask ∧
      (y.vecFlags.accSat = true ↔ x.vecFlags.accSat = true ∨ ((s.engine e).bank bank).sat = true) ∧
      ∀ i, i < 64 → laneOf y dst i = if i < ((s.engine e).bank bank).mode.shape.2 then mgetD ((s.engine e).bank bank).acc (row * 64 + i) 0 else 0) ∧
    (∃ t v, exec (.vecLoadv e c dst) s = .next t ∧ VecRan s t e c { x with vregs := mset x.vregs dst v } ∧ ∀ i, i < 64 → lgetD v i 0 = lgetD x.loaded i 0) ∧
    (∀ (entry : Fin 256) (d : Fin 16) (q : RequantEntry), mget x.requants entry = some q → q.perCol = false → q.outFormat = 1 →
      ∃ t o, exec (.vecCvt e c a entry d) s = .next t ∧ SlotRan s t e c { x with vecOut := x.vecOut ++ [o] } ∧ o.vals.length = 64 ∧ o.format = 1 ∧
      ∀ i, i < 64 → ∀ y : Int, y = rndDiv ((laneOf x a i + q.bias) * (q.mult : Int)) (2 ^ q.shift) →
        q.rangeLo ≤ y → y ≤ q.rangeHi → q.clampLo ≤ y → y ≤ q.clampHi → -128 ≤ y → y ≤ 127 → lgetD o.vals i 0 = y)

/-- The root unit (R374 to R380). -/
def Obligations.RootUnitComputes : Prop :=
  ∀ (e : Fin 20) (c : CtxSel) (fmt : Fin 16) (dst a b l : Fin 64) (s : State) (x : EngCtx) (f : RootFmt) (n m : Int), s.Units →
    s.issuing e c = some x → (x.vreg dst).length = 64 → mget x.rootFmts fmt = some f → f.fa ≤ 39 → f.fb ≤ 39 → f.fr ≤ 39 →
    laneOf x a l = n → laneOf x b l = m → -549755813888 ≤ n → n ≤ 549755813887 → -549755813888 ≤ m → m ≤ 549755813887 →
    (∃ t y v, exec (.rootRecip e c fmt dst a l) s = .next t ∧ SlotRan s t e c y ∧ LaneSet x y dst l v ∧ y.mask = x.mask ∧
      y.root.domain = (x.root.domain || decide (n = 0)) ∧ (n = 0 → v = 549755813887) ∧
      (n ≠ 0 → ∃ q : Int, v = ssat 40 q ∧ (2 * q * n - 2 * 2 ^ (f.fa + f.fr)).natAbs ≤ n.natAbs)) ∧
    (∃ t y v, exec (.rootDiv e c fmt dst a b l) s = .next t ∧ SlotRan s t e c y ∧ LaneSet x y dst l v ∧ y.mask = x.mask ∧
      y.root.domain = (x.root.domain || decide (m = 0)) ∧
      (m = 0 → v = if n = 0 then 0 else if n < 0 then -549755813888 else 549755813887) ∧
      (m ≠ 0 → ∃ q : Int, v = ssat 40 q ∧ (2 * q * (m * 2 ^ f.fa) - 2 * (n * 2 ^ (f.fb + f.fr))).natAbs ≤ (m * 2 ^ f.fa).natAbs)) ∧
    (∃ t y v, exec (.rootSqrt e c fmt dst a l) s = .next t ∧ SlotRan s t e c y ∧ LaneSet x y dst l v ∧ y.mask = x.mask ∧
      y.root.domain = (x.root.domain || decide (n < 0)) ∧ (n < 0 → v = 0) ∧
      (0 ≤ n → ∃ q : Nat, v = ssat 40 q ∧ 4 * n * 2 ^ (2 * f.fr) < ((2 * q + 1) ^ 2 : Nat) * 2 ^ f.fa ∧
        (0 < q → (((2 * q - 1) ^ 2 : Nat) : Int) * 2 ^ f.fa ≤ 4 * n * 2 ^ (2 * f.fr)))) ∧
    (∃ t y v, exec (.rootRsqrt e c fmt dst a l) s = .next t ∧ SlotRan s t e c y ∧ LaneSet x y dst l v ∧ y.mask = x.mask ∧
      y.root.domain = (x.root.domain || decide (n ≤ 0)) ∧ (n ≤ 0 → v = 549755813887) ∧
      (0 < n → ∃ q : Nat, v = ssat 40 q ∧ 4 * 2 ^ (2 * f.fr + f.fa) < ((2 * q + 1) ^ 2 : Nat) * n ∧
        (0 < q → (((2 * q - 1) ^ 2 : Nat) : Int) * n ≤ 4 * 2 ^ (2 * f.fr + f.fa)))) ∧
    (∃ t y v, exec (.rootPivot e c fmt dst a l) s = .next t ∧ SlotRan s t e c y ∧ LaneSet x y dst l v ∧
      y.root.domain = x.root.domain ∧ y.root.pivots = x.root.pivots + 1 ∧ (∀ i, i ≠ l.val → y.mask.getLsbD i = x.mask.getLsbD i) ∧
      (n ≤ f.eps → v = 0 ∧ y.mask.getLsbD l = true ∧ y.root.tiny = true ∧
        (x.root.tiny = false → y.root.index = x.root.pivots ∧ y.root.value = n) ∧
        (x.root.tiny = true → y.root.index = x.root.index ∧ y.root.value = x.root.value)) ∧
      (f.eps < n → n ≤ 0 → v = 549755813887 ∧ y.mask.getLsbD l = false ∧ y.root.tiny = x.root.tiny) ∧
      (f.eps < n → 0 < n → y.mask.getLsbD l = false ∧ y.root.tiny = x.root.tiny ∧
        ∃ q : Nat, v = ssat 40 q ∧ 4 * 2 ^ (2 * f.fr + f.fa) < ((2 * q + 1) ^ 2 : Nat) * n ∧
          (0 < q → (((2 * q - 1) ^ 2 : Nat) : Int) * n ≤ 4 * 2 ^ (2 * f.fr + f.fa))))

/-- Tokens and the load, store and exchange slots (R280, R339 to R349). -/
def Obligations.TokensLoadsAndStores : Prop :=
  ∀ (e : Fin 20) (c : CtxSel) (s : State) (x : EngCtx), s.Units → s.MemOk → s.issuing e c = some x →
    (∀ m : BitVec 32, x.tokens &&& m = m → ∃ t u, exec (.syncWait e c m) s = .next t ∧ SlotRan s t e c x ∧
      exec (.syncWaitConsume e c m) s = .next u ∧ SlotRan s u e c { x with tokens := x.tokens &&& ~~~ m }) ∧
    (∀ m : BitVec 32, x.tokens &&& m ≠ m → ∃ t u, exec (.syncWait e c m) s = .next t ∧ SlotRan s t e c { x with waiting := some (m, false) } ∧
      t.issuing e c = none ∧ exec (.syncWaitConsume e c m) s = .next u ∧ SlotRan s u e c { x with waiting := some (m, true) } ∧
      u.issuing e c = none) ∧
    (∀ m : BitVec 32, ∃ t, exec (.syncSignal e c m) s = .next t ∧ SlotRan s t e c { x with signals := x.signals ||| m }) ∧
    (∀ (d : Fin 16) (dest : LoadDest) (n : BitVec 11), mget x.descs d = none → exec (.loadSlot e c d dest n) s = .next s) ∧
    (∀ (d : Fin 16) (dest : LoadDest) (n : BitVec 11) (r : DescReg), mget x.descs d = some r → ∃ t y l, exec (.loadSlot e c d dest n) s = .next t ∧
      SlotLeft s t e c y ∧ l.length = min n.toNat (4096 / fmtBits r.desc.format) ∧
      (∀ j, j < l.length → lgetD l j (0, 0) = ((s.engine e).elem (x.regionBase r.desc.dataSet) r (r.desc.clamp (r.at j))).1) ∧
      (mget y.descs d).map (fun q => q.cursor) = some ((r.cursor + l.length) % windowSize r.count) ∧
      (match dest with
        | .operandA => y.opA = x.opA ++ l ∧ y.opB = x.opB ∧ y.loaded = x.loaded
        | .operandB => y.opB = x.opB ++ l ∧ y.opA = x.opA ∧ y.loaded = x.loaded
        | _ => y.loaded = l.map (fun p => p.1) ∧ y.opA = x.opA ∧ y.opB = x.opB)) ∧
    (∀ (d : Fin 16) (src : StoreSrc), mget x.descs d = none ∨ (∃ r, mget x.descs d = some r ∧ r.desc.write = false) → (∀ v, src ≠ .vector v) →
      exec (.storeSlot e c d src) s = .next s) ∧
    (∀ (d : Fin 16), x.xchg = [] → exec (.storeSlot e c d .exchange) s = .next s) ∧
    (∀ (d : Fin 16) (r : DescReg) (b : OutBeat) (rest : List OutBeat), mget x.descs d = some r → r.desc.write = true → x.xchg = b :: rest →
      cwf (s.engine e).store = true → ∃ t y, exec (.storeSlot e c d .exchange) s = .next t ∧ SlotLeft s t e c y ∧ y.xchg = rest ∧
      (mget y.descs d).map (fun q => q.cursor) = some ((r.cursor + b.vals.length) % windowSize r.count) ∧
      (t.engine e).bankA = (s.engine e).bankA ∧ (t.engine e).bankB = (s.engine e).bankB ∧
      ∀ p, (∀ j, j < b.vals.length → ∀ k, k < 5 →
          p ≠ x.regionBase r.desc.dataSet + (r.desc.bitAddr (r.desc.clamp (r.at j))).toNat / 8 + k ∧
          p ≠ x.regionBase r.desc.dataSet + r.desc.scaleAddr (r.desc.clamp (r.at j)) ∧
          p ≠ x.regionBase r.desc.dataSet + r.desc.statusOff + r.desc.tile (r.desc.clamp (r.at j))) →
        cget (t.engine e).store p = cget (s.engine e).store p) ∧
    (∀ (p : Fin 64) (b : OutBeat) (rest : List OutBeat), x.vecOut = b :: rest → b.raw = false → mgetD x.perms p {} = {} →
      ∃ t, exec (.exchange e c p .vectorUnit) s = .next t ∧ SlotRan s t e c { x with vecOut := rest, xchg := x.xchg ++ [b] }) ∧
    (∀ (p : Fin 64) (b : OutBeat) (rest : List OutBeat), x.rq = b :: rest → (mgetD x.perms p {}).turn = false → ∃ t o, exec (.exchange e c p .requantizer) s = .next t ∧
      SlotRan s t e c { x with rq := rest, xchg := x.xchg ++ [o] })

/-- The state machine of an engine (R312, R313, R477, R478). -/
def Obligations.EngineStatesFollowTheirCommands : Prop :=
  ∀ (e : Fin 20) (s : State), s.Units → s.MemOk →
    (∀ l : CtxLoad, s.up → ¬ s.hold → ¬ s.saved → l.descs = [] → (s.engine e).state = .spare ∨ (s.engine e).state = .live →
      ∃ t x, exec (.engAssignShadow e l) s = .next t ∧ (t.engine e).shadow = some x ∧ x.units = l.units ∧ (t.engine e).shadowKind = l.kind ∧
        (t.engine e).state = (s.engine e).state ∧ (t.engine e).live = (s.engine e).live ∧ (∀ n : Fin 20, n ≠ e → t.engine n = s.engine n)) ∧
    (∀ l : CtxLoad, ¬ s.up ∨ s.hold ∨ s.saved → exec (.engAssignShadow e l) s = .next s) ∧
    (∀ l : CtxLoad, (s.engine e).state ≠ .spare → (s.engine e).state ≠ .live → ∃ t, exec (.engAssignShadow e l) s = .next t ∧ t.engines = s.engines) ∧
    (∀ x, s.up → ¬ s.saved → (s.engine e).state = .spare ∨ (s.engine e).state = .live → (s.engine e).shadow = some x →
      ∃ t, exec (.engSwitch e) s = .next t ∧ (t.engine e).state = .live ∧ (t.engine e).live = some x ∧ (t.engine e).shadow = none ∧
        (∀ n : Fin 20, n ≠ e → t.engine n = s.engine n) ∧ Only [.engines] s t) ∧
    ((s.engine e).shadow = none ∨ ((s.engine e).state ≠ .spare ∧ (s.engine e).state ≠ .live) →
      ∃ t, exec (.engSwitch e) s = .next t ∧ t.engines = s.engines) ∧
    (s.up → ¬ s.saved → (s.engine e).state = .live → ∃ t, exec (.engRelease e) s = .next t ∧ (t.engine e).state = .spare ∧
      (t.engine e).live = none ∧ (t.engine e).shadow = (s.engine e).shadow ∧ (∀ n : Fin 20, n ≠ e → t.engine n = s.engine n) ∧ Only [.engines] s t) ∧
    ((s.engine e).state ≠ .live → ∃ t, exec (.engRelease e) s = .next t ∧ t.engines = s.engines) ∧
    (∀ i : BitVec 16, s.up → ¬ s.saved → (s.engine e).state = .spare → ∃ t, exec (.engRadish e i) s = .next t ∧ (t.engine e).state = .radish ∧
      (t.book e).running = true ∧ (t.book e).inst = i.toNat ∧ (t.book e).issuedAt = s.tl.frames ∧
      t.rget Reg.RADISHES_ISSUED = satAdd32 (s.rget Reg.RADISHES_ISSUED) 1 ∧ (∀ n : Fin 20, n ≠ e → t.engine n = s.engine n ∧ t.book n = s.book n)) ∧
    (∀ i : BitVec 16, (s.engine e).state ≠ .spare → ∃ t, exec (.engRadish e i) s = .next t ∧ t.engines = s.engines ∧ t.place = s.place) ∧
    (s.up → ¬ s.saved → (s.engine e).state ≠ .retired → ∃ t, exec (.engRetire e) s = .next t ∧ (t.engine e).state = .retired ∧
      (t.engine e).live = none ∧ (t.engine e).shadow = none ∧ (t.engine e).radish = none ∧ t.marked 1 e = true ∧
      (∀ n : Fin 20, n ≠ e → t.engine n = s.engine n)) ∧
    ((s.engine e).state = .retired → ∃ t, exec (.engRetire e) s = .next t ∧ t.engines = s.engines ∧ t.keeper = s.keeper) ∧
    ((s.engine e).state = .selfTest → ∃ t, exec (.selfTestDone e true) s = .next t ∧ t.engine e = { s.engine e with state := .spare } ∧ Only [.engines] s t) ∧
    ((s.engine e).state = .selfTest → ∃ t, exec (.selfTestDone e false) s = .next t ∧ (t.engine e).state = .retired ∧ t.marked 1 e = true) ∧
    (∀ ok, (s.engine e).state ≠ .selfTest → exec (.selfTestDone e ok) s = .next s) ∧
    ((s.engine e).state = .radish → ∃ t, exec (.radishAnswer e true) s = .next t ∧ (t.engine e).state = .spare ∧ (t.engine e).radish = none ∧
      (t.book e).running = false ∧ (t.book e).debt = 0 ∧ (t.book e).suspect = false ∧ (∀ n : Fin 20, n ≠ e → t.engine n = s.engine n)) ∧
    ((s.engine e).state = .radish → ∃ t, exec (.radishAnswer e false) s = .next t ∧ (t.book e).running = false ∧ (t.book e).suspect = true ∧
      t.rget Reg.RADISH_MISMATCHES = satAdd32 (s.rget Reg.RADISH_MISMATCHES) 1 ∧ (t.engine e).lastCause = 5) ∧
    (∀ ok, (s.engine e).state ≠ .radish → exec (.radishAnswer e ok) s = .next s) ∧
    ((s.engine e).state = .radish → (s.book e).issuedAt < s.tl.frames → exec (.radishTimeout e) s = exec (.radishAnswer e false) s) ∧
    ((s.engine e).state ≠ .radish ∨ s.tl.frames ≤ (s.book e).issuedAt → exec (.radishTimeout e) s = .next s)

/-- Engine events (R278, R315 to R317, R472). -/
def Obligations.EngineEventsCountAndRetire : Prop :=
  (∀ (e : Fin 20) (cause : Fin 7) (s : State), ¬ s.up ∨ cause = 0 → exec (.engineEvent e cause) s = .next s) ∧
  (∀ (e : Fin 20) (cause : Fin 7) (s : State), s.Units → s.MemOk → s.up → cause ≠ 0 → (s.engine e).state ≠ .retired → (s.engine e).state ≠ .off →
    (s.engine e).permanent = false → ∃ t, exec (.engineEvent e cause) s = .next t ∧ (t.engine e).lastCause = cause.val ∧
      t.rbit Reg.FAULT_EVENTS e = true ∧
      (t.engine e).events = s.tl.frames :: (s.engine e).events.filter (fun f => decide (s.tl.frames < f + s.rbits Reg.FAULT_WINDOW 15 0)) ∧
      ((t.engine e).events.length ≤ s.rbits Reg.FAULT_WINDOW 23 16 → (t.engine e).state = (s.engine e).state ∧ (t.engine e).permanent = false ∧
        (t.engine e).live = (s.engine e).live.map (fun x => if x.passRunning then { x with withheld := true } else x)) ∧
      (s.rbits Reg.FAULT_WINDOW 23 16 < (t.engine e).events.length → (t.engine e).permanent = true)) ∧
  (∀ (e : Fin 20) (s : State) (x : EngCtx), s.Units → s.up → ¬ s.hold → ¬ s.saved → (s.engine e).live = some x ∨ (s.engine e).shadow = some x →
    (∃ u ∈ x.units, u ∉ x.halts) → (s.engine e).lastIssue + 1024 ≤ s.tl.beats → (s.engine e).state ≠ .retired →
    ∃ t, exec (.engineHang e) s = .next t ∧ (t.engine e).state = .retired ∧ (t.engine e).live = none ∧ t.marked 1 e = true) ∧
  (∀ (e : Fin 20) (s : State), ¬ s.up ∨ s.hold ∨ s.saved ∨ s.tl.beats < (s.engine e).lastIssue + 1024 → exec (.engineHang e) s = .next s)

/-- DRAM channels (R494 to R507). -/
def Obligations.DramReadsRepairsAndScrub : Prop :=
  (∀ (c : Fin 18) (a : BitVec 30) (x y z : Decoded) (s : State),
    ¬ s.up ∨ s.boot.step < 6 ∨ (s.channel c).state = .retired ∨ s.power.stopped ∨ (s.channel c).holdsPoison (addrCw a.toNat) ∨ x = .clean ∨ x = .poisoned →
    exec (.dramRead c a x y z) s = .next s) ∧
  (∀ (c : Fin 18) (a : BitVec 30) (n : Fin 4) (z : Decoded) (s : State), s.Units → s.MemOk → s.up → 6 ≤ s.boot.step →
    (s.channel c).state ≠ .retired → ¬ s.power.stopped → (s.channel c).holdsPoison (addrCw a.toNat) = false → n ≠ 0 →
    ∃ t, exec (.dramRead c a (.corrected n) .clean z) s = .next t ∧ t.rbit Reg.MEM_EVENTS 0 = true ∧
      t.rget (Reg.SOFT_CORRECTED c) = satAdd32 (s.rget (Reg.SOFT_CORRECTED c)) 1 ∧
      t.rget (Reg.HARD_CORRECTED c) = s.rget (Reg.HARD_CORRECTED c) ∧ (t.channel c).poisoned = (s.channel c).poisoned ∧
      ((s.channel c).state = .service ∨ (s.channel c).state = .spare → (t.channel c).stamps.head? = some (n.val, s.now))) ∧
  (∀ (c : Fin 18) (a : BitVec 30) (z : Decoded) (s : State), s.Units → s.MemOk → s.up → 6 ≤ s.boot.step → ¬ s.power.stopped →
    (s.channel c).state = .service → (s.channel c).holdsPoison (addrCw a.toNat) = false →
    ∃ t, exec (.dramRead c a .uncorrectable .uncorrectable z) s = .next t ∧ (t.channel c).holdsPoison (addrCw a.toNat) = true ∧
      (t.channel c).state = .source ∧ t.rbit Reg.MEM_EVENTS 1 = true ∧ t.rbit Reg.MEM_EVENTS 2 = true ∧
      t.rget (Reg.POISONED c) = satAdd32 (s.rget (Reg.POISONED c)) 1 ∧ t.marked 2 c = true) ∧
  (∀ (c : Fin 18) (s : State), ¬ s.up ∨ s.saved ∨ (s.channel c).repairFrame = some s.tl.frames ∨ (s.channel c).repairs = [] →
    exec (.dramRepair c) s = .next s) ∧
  (∀ (c : Fin 18) (s : State) (r : Repair) (rest : List Repair), s.Units → s.MemOk → s.up → ¬ s.saved → (s.channel c).repairFrame ≠ some s.tl.frames →
    (s.channel c).repairs = r :: rest → r.column = false → ∃ t, exec (.dramRepair c) s = .next t ∧
      (mgetD (s.channel c).rows r.bank 0 < 16 → mgetD (t.channel c).rows r.bank 0 = mgetD (s.channel c).rows r.bank 0 + 1 ∧
        (t.channel c).repairs = rest ∧ (t.channel c).state = (s.channel c).state ∧ (t.channel c).repairFrame = some s.tl.frames ∧
        t.rget (Reg.ROW_REPAIRS c) = satAdd32 (s.rget (Reg.ROW_REPAIRS c)) 1 ∧ t.rbit Reg.MEM_EVENTS 4 = true ∧
        (∀ d : Fin 18, d ≠ c → t.channel d = s.channel d)) ∧
      (mgetD (s.channel c).rows r.bank 0 = 16 → (s.channel c).state = .service → (t.channel c).state = .source ∧ t.rbit Reg.MEM_EVENTS 6 = true)) ∧
  (∀ (s : State) (a b : List ChannelCopy) (y : ChannelCopy), ¬ s.saved → s.mem.copies = a ++ y :: b → (∀ x ∈ a, x.done = true) → y.done = false →
    ∃ t, exec .dramCopyDone s = .next t ∧ t.mem.copies = a ++ { y with copied := 1048576, done := true } :: b ∧ Only [.mem] s t) ∧
  (∀ s : State, s.saved ∨ (∀ y ∈ s.mem.copies, y.done = true) → exec .dramCopyDone s = .next s) ∧
  (∀ (c : Fin 18) (b : Fin 16) (s : State), exec (.dramRefresh c b) s = .next s) ∧
  (∀ (c : Fin 18) (ok : Bool) (s : State), ¬ s.up ∨ s.boot.step < 6 ∨ (s.channel c).state = .retired ∨ s.frame % 64 ≠ 3 * c ∨ s.saved →
    exec (.dramRecalibrate c ok) s = .next s) ∧
  (∀ (c : Fin 18) (s : State), s.Units → s.MemOk → s.up → 6 ≤ s.boot.step → (s.channel c).state = .service → s.frame % 64 = 3 * c → ¬ s.saved →
    ∃ t u, exec (.dramRecalibrate c true) s = .next t ∧ Only [.regs] s t ∧
      t.rget (Reg.RECALIBRATIONS c) = satAdd32 (s.rget (Reg.RECALIBRATIONS c)) 1 ∧ (∀ o, o ≠ Reg.RECALIBRATIONS c → t.rget o = s.rget o) ∧
      exec (.dramRecalibrate c false) s = .next u ∧ (u.channel c).state = .source ∧ u.rbit Reg.MEM_EVENTS 11 = true) ∧
  (∀ (x y z : Decoded) (s : State), ¬ s.up ∨ s.boot.step < 6 ∨ s.saved → exec (.scrubRead x y z) s = .next s) ∧
  (∀ (y z : Decoded) (c : Fin 18) (s : State), s.Units → s.MemOk → s.up → 6 ≤ s.boot.step → ¬ s.saved → s.mem.scrubActive = true → s.mem.scrubChannel = c →
    (s.channel c).state ≠ .retired → ∃ t, exec (.scrubRead .clean y z) s = .next t ∧ t.mem.channels = s.mem.channels ∧
      (s.mem.scrubAddr + 1 < 8388608 → t = { s with mem := { s.mem with scrubAddr := s.mem.scrubAddr + 1 } }) ∧
      (8388608 ≤ s.mem.scrubAddr + 1 → t.mem.scrubChannel = c + 1 ∧ t.mem.scrubAddr = 0 ∧
        t.rget (Reg.SCRUB_PASSES c) = satAdd32 (s.rget (Reg.SCRUB_PASSES c)) 1))

/-- SRAM, mesh and balance (R49, R50, R460, R464, R510, R511). -/
def Obligations.SramMeshAndBalance : Prop :=
  (∀ (u : Fin 25) (b : Fin 32) (a : Nat) (x y : Bool) (s : State), ¬ s.up ∨ s.power.stopped → exec (.sramReadError u b a x y) s = .next s) ∧
  (∀ (u : Fin 25) (b : Fin 32) (a : Nat) (y : Bool) (s : State), s.Units → s.MemOk → s.up → ¬ s.power.stopped → u.val < 20 →
    ∃ t v, exec (.sramReadError u b a false y) s = .next t ∧ t.rbit Reg.MEM_EVENTS 8 = true ∧
      t.rget (Reg.SRAM_CORRECTED u) = satAdd32 (s.rget (Reg.SRAM_CORRECTED u)) 1 ∧
      exec (.sramReadError u b a true y) s = .next v ∧ v.rbit Reg.MEM_EVENTS 9 = true ∧
      v.rget (Reg.SRAM_UNCORRECTABLE u) = satAdd32 (s.rget (Reg.SRAM_UNCORRECTABLE u)) 1 ∧
      ((s.engine u).state ≠ .retired → (s.engine u).state ≠ .off → (v.engine u).lastCause = 1)) ∧
  (∀ (u : Fin 25) (b : Fin 32) (a : Nat) (y : Bool) (s : State), s.MemOk → s.up → ¬ s.power.stopped → u.val = 24 →
    ∃ t v, exec (.sramReadError u b a false y) s = .next t ∧ t.rget Reg.OTHER_SRAM_CORRECTED = satAdd32 (s.rget Reg.OTHER_SRAM_CORRECTED) 1 ∧
      t.safety = s.safety ∧ exec (.sramReadError u b a true y) s = .next v ∧ v.hold = true) ∧
  (∀ (r : Fin 45) (l : Fin 4) (s : State), ∃ t, exec (.meshSingleBit r l) s = .next t ∧
    mgetD t.mem.links (r * 4 + l) 0 = mgetD s.mem.links (r * 4 + l) 0 + 1 ∧ t = { s with mem := { s.mem with links := t.mem.links } }) ∧
  (∀ (r : Fin 45) (i : Nat) (s : State), ¬ s.up → exec (.meshDoubleBit r i) s = .next s) ∧
  (∀ (r : Fin 45) (i : Nat) (s : State), s.Units → s.up → r.val < 20 → (s.engine r).state ≠ .retired → (s.engine r).state ≠ .off →
    ∃ t, exec (.meshDoubleBit r i) s = .next t ∧ (t.engine r).lastCause = 4) ∧
  (∀ (r : Fin 45) (i : Nat) (s : State), s.up → 33 ≤ r.val → ∃ t, exec (.meshDoubleBit r i) s = .next t ∧ t.hold = true) ∧
  (∀ (n : BitVec 16) (s : State) (a b : List SetMove) (m : SetMove), s.place.moves = a ++ m :: b → m.set = n.toNat → m.copied = false →
    (∀ x ∈ a, x.set ≠ n.toNat ∨ x.copied = true) →
    exec (.datasetMoveDone n) s = .next { s with place := { s.place with moves := a ++ { m with copied := true } :: b } }) ∧
  (∀ (n : BitVec 16) (s : State), (∀ x ∈ s.place.moves, x.set ≠ n.toNat ∨ x.copied = true) → exec (.datasetMoveDone n) s = .next s) ∧
  (∀ (o : BalanceObs) (s : State), ¬ s.inServ ∨ s.tl.frames % 8 ≠ 0 ∨ s.saved → exec (.channelBalanceWindow o) s = .next s) ∧
  (∀ (o : BalanceObs) (s : State) (total top : Nat), s.MemOk → s.inServ → s.tl.frames % 8 = 0 → ¬ s.saved → o.bytes.length = s.mem.inUse → s.mem.inUse ≤ 16 →
    total = o.bytes.foldl (· + ·) 0 → top = o.bytes.foldl max 0 →
    ∃ t, exec (.channelBalanceWindow o) s = .next t ∧ t.place.hotBytes = o.bytes ∧
      (t.place.imbalance = true ↔ s.rbits Reg.IMBALANCE_CFG 31 24 * total < top * s.mem.inUse * 64 ∧ s.rbits Reg.IMBALANCE_CFG 15 8 * 943718400 < 100 * top) ∧
      t.rbits Reg.CHANNEL_BALANCE 15 0 = (if total = 0 then 0 else min 65535 (top * s.mem.inUse * 256 / total)) ∧
      (s.place.imbalance = false → t.place.imbalance = true → t.rbit Reg.PLACE_EVENTS 0 = true))

/-- Starting and completing operations of a mover channel (R350, R352, R353, R364). -/
def Obligations.MoverStartsAndCompletes : Prop :=
  (∀ (ch : Fin 32) (op : Option MoverOp) (s : State), ¬ s.up ∨ s.saved → exec (.moverOpStart ch op) s = .next s) ∧
  (∀ (ch : Fin 32) (s : State), (s.mover ch).running.isSome ∨ (s.mover ch).queue = [] → exec (.moverOpStart ch none) s = .next s) ∧
  (∀ (ch : Fin 32) (op : MoverOp) (s : State), 28 ≤ ch.val → exec (.moverOpStart ch (some op)) s = exec (.moverOpStart ch none) s) ∧
  (∀ (ch : Fin 32) (op : MoverOp) (s : State), s.Units → s.up → ¬ s.saved → ch.val < 28 → (s.mover ch).running.isSome →
    ∃ t, exec (.moverOpStart ch (some op)) s = .next t ∧ (t.mover ch).queue = (s.mover ch).queue ++ [{ op := op }] ∧
      (t.mover ch).running = (s.mover ch).running ∧ (t.mover ch).tokens = (s.mover ch).tokens ∧
      (∀ d : Fin 32, d ≠ ch → t.mover d = s.mover d) ∧ Only [.movers] s t) ∧
  (∀ (ch : Fin 32) (s : State) (j : MoverJob) (rest : List MoverJob), (s.mover ch).running = none → (s.mover ch).queue = j :: rest →
    (s.mover ch).tokens &&& j.op.wait ≠ j.op.wait → exec (.moverOpStart ch none) s = .next s) ∧
  (∀ (ch : Fin 32) (s : State) (j : MoverJob) (rest : List MoverJob), s.Units → s.up → ¬ s.saved → (s.mover ch).running = none →
    (s.mover ch).queue = j :: rest → (s.mover ch).tokens &&& j.op.wait = j.op.wait → s.opBad j.op = false → (j.host = none ∨ s.namesVoid j.op = false) →
    ∃ t, exec (.moverOpStart ch none) s = .next t ∧ (t.mover ch).running = some j ∧ (t.mover ch).queue = rest ∧
      (t.mover ch).tokens = (s.mover ch).tokens &&& ~~~ j.op.wait ∧ (t.mover ch).coalescer = [] ∧
      (∀ d : Fin 32, d ≠ ch → t.mover d = s.mover d) ∧ Only [.movers] s t) ∧
  (∀ (ch : Fin 32) (s : State) (j : MoverJob) (rest : List MoverJob), s.Units → s.MemOk → s.up → ¬ s.saved → (s.mover ch).running = none →
    (s.mover ch).queue = j :: rest → (s.mover ch).tokens &&& j.op.wait = j.op.wait → s.opBad j.op = true → j.host = none →
    ∃ t, exec (.moverOpStart ch none) s = .next t ∧ (t.mover ch).running = none ∧ (t.mover ch).queue = rest ∧
      (t.mover ch).tokens = (s.mover ch).tokens ∧ t.rget Reg.OP_REFUSED = satAdd32 (s.rget Reg.OP_REFUSED) 1 ∧ t.rbit Reg.MOVER_EVENTS 1 = true ∧
      t.data = s.data ∧ t.engines = s.engines ∧ (∀ d : Fin 32, d ≠ ch → t.mover d = s.mover d)) ∧
  (∀ (ch : Fin 32) (s : State), (∀ j, (s.mover ch).running = some j → j.done = false) → exec (.moverOpComplete ch) s = .next s) ∧
  (∀ (ch : Fin 32) (s : State) (j : MoverJob), s.Units → s.MemOk → (s.mover ch).running = some j → j.done = true → j.host = none →
    ∃ t, exec (.moverOpComplete ch) s = .next t ∧ (t.mover ch).running = none ∧ (t.mover ch).queue = (s.mover ch).queue ∧
      t.rget (Reg.CHAN_OPS ch) = satAdd32 (s.rget (Reg.CHAN_OPS ch)) 1 ∧
      t.rget (Reg.CHAN_FAULTED ch) = (if j.faulted then satAdd32 (s.rget (Reg.CHAN_FAULTED ch)) 1 else s.rget (Reg.CHAN_FAULTED ch)) ∧
      (∀ d : Fin 32, d ≠ ch → t.mover d = s.mover d) ∧ (s.live = none → t.engines = s.engines) ∧ Only [.regs, .movers, .engines] s t)

/-- Operations of the mover (R352 to R362). -/
def Obligations.MoverCarriesOutItsOperations : Prop :=
  (∀ (ch : Fin 32) (s : State),
    (s.jobOf ch 1 = none → exec (.moverCopy ch) s = .next s) ∧ (s.jobOf ch 2 = none → exec (.moverFill ch) s = .next s) ∧
    (s.jobOf ch 3 = none → exec (.moverGather ch) s = .next s) ∧ (s.jobOf ch 4 = none → exec (.moverScatter ch) s = .next s) ∧
    (s.jobOf ch 5 = none → exec (.moverDeliver ch) s = .next s)) ∧
  (∀ (c : Instr) (ch : Fin 32) (k : Nat) (s : State) (o : MoverOp) (j : MoverJob) (d : DescEntry), s.Units →
    (c, k) ∈ [(Instr.moverCopy ch, 1), (.moverFill ch, 2), (.moverGather ch, 3), (.moverScatter ch, 4), (.moverDeliver ch, 5)] →
    s.jobOf ch k = some o → (s.mover ch).running = some j → s.descAt o.dst = some d →
    (k = 1 ∨ k = 3 ∨ k = 4 → (s.descAt o.src).isSome) → (k = 3 ∨ k = 4 → (s.descAt o.idx).isSome) →
    ∃ t i, exec c s = .next t ∧ (t.mover ch).running = some i ∧ i.done = true ∧ i.op = j.op ∧ i.host = j.host ∧ j.moved ≤ i.moved ∧
      (j.faulted = true → i.faulted = true) ∧ (t.mover ch).queue = (s.mover ch).queue ∧ (t.mover ch).tokens = (s.mover ch).tokens ∧
      (∀ e : Fin 32, e ≠ ch → t.mover e = s.mover e) ∧
      (k = 2 → i.moved = j.moved + windowSize o.count / d.desc.unit * d.desc.unitBytes) ∧
      (k = 5 → t.data = s.data ∧ t.engines = s.engines ∧ t.store = s.store) ∧
      (∀ sp num z, s.placeOf d = .set sp num z → t.engines = s.engines ∧ t.hostMem = s.hostMem ∧
        ∀ key, key ≠ sp * 65536 + num → mget t.data key = mget s.data key)) ∧
  (∀ (ch : Fin 32) (s : State) (o : MoverOp) (d : DescEntry) (sp num z : Nat) (x : DataStore), s.Units → s.MemOk → s.jobOf ch 2 = some o →
    s.descAt o.dst = some d → d.desc.format = 1 → d.desc.layout = 1 → d.desc.aliasing = 0 → d.desc.statusEn = false → o.count = [1, 1, 1, 1, 1, 1] →
    d.desc.inside (windowAt o.dstOrigin o.count 0) = true → s.placeOf d = .set sp num z → mget s.data (sp * 65536 + num) = some x →
    s.judgeAccess (agentOf ch) (.set sp num z) true (d.desc.bitAddr ((windowAt o.dstOrigin o.count 0).map Int.toNat) / 8) 1 = (s, true) →
    ∃ t y, exec (.moverFill ch) s = .next t ∧ mget t.data (sp * 65536 + num) = some y ∧
      cget y.bytes (d.desc.bitAddr ((windowAt o.dstOrigin o.count 0).map Int.toNat) / 8).toNat = BitVec.ofNat 8 d.desc.fill ∧
      (∀ a, a ≠ (d.desc.bitAddr ((windowAt o.dstOrigin o.count 0).map Int.toNat) / 8).toNat → cget y.bytes a = cget x.bytes a)) ∧
  (∀ (ch : Fin 32) (s : State) (o : MoverOp) (d : DescEntry) (sp num z : Nat), s.Units → s.jobOf ch 5 = some o → s.descAt o.dst = some d →
    d.desc.format = 1 → d.desc.layout = 1 → d.desc.ext = [32, 1, 1, 1, 1, 1] → d.desc.st 0 = 1 → o.count = [32, 1, 1, 1, 1, 1] →
    o.dstOrigin = [0, 0, 0, 0, 0, 0] → s.placeOf d = .set sp num z → (mget s.data (sp * 65536 + num)).isSome → d.desc.base + 32 ≤ z →
    s.fwPlace (.set sp num z) false (agentOf ch).ini d.desc.base 32 = true → s.poisonedAt sp num d.desc.base 32 = false →
    (batchOf (s.dread sp num d.desc.base 32) none).count = 1 → lsum (s.com.batches.map (fun x => 16 + 16 * x.records.length)) + 32 ≤ 262144 →
    ∃ t, exec (.moverDeliver ch) s = .next t ∧
      t.com = { s.com with batches := s.com.batches ++ [batchOf (s.dread sp num d.desc.base 32) none] })

/-- Solves, publications and deadlines (R388 to R408). -/
def Obligations.SolverLoopsEndAndPublish : Prop :=
  (∀ (n : Fin 64) (o : FastOutcome) (s : State), s.solver.fast = none ∨ s.saved ∨ s.hold ∨
      (∃ l, s.solver.fast = some l ∧ ((∀ t ∈ l.tracks, t.track ≠ n.val) ∨ (∀ t ∈ l.tracks, t.track = n.val → t.ended = true) ∨ l.ord + s.fastDeadline ≤ s.tl.beats ∨
        ((∀ t ∈ l.tracks, t.track = n.val → t.wave = 1) ∧ ∃ t ∈ l.tracks, t.wave = 0 ∧ t.ended = false))) →
    exec (.fastSolveEnd n o) s = .next s) ∧
  (∀ (n : Fin 64) (o : FastOutcome) (s : State) (l : FastLoop) (x : TrackSolve), s.MemOk → ¬ s.saved → ¬ s.hold → s.solver.fast = some l →
    l.tracks.find? (fun t => t.track = n.val) = some x → x.ended = false → s.tl.beats < l.ord + s.fastDeadline →
    (x.wave = 0 ∨ ∀ t ∈ l.tracks, t.wave ≠ 1 → t.ended = true) →
    (o.data = false → ∃ t, exec (.fastSolveEnd n o) s = .next t ∧ Only [.regs, .solver] s t ∧
      t.solver = { s.solver with fast := some { l with tracks := l.tracks.map (fun y => if y.track = n.val then { y with ended := true, result := 8 } else y) } } ∧
      t.rget (Reg.TRACK_SOLVE n) = nw (8 * 2 ^ 28 + 2 ^ 23 + min 255 (s.rbits (Reg.TRACK_SOLVE n) 15 8 + 1) * 2 ^ 8) ∧
      t.rget Reg.FAST_SOLVES = satAdd32 (s.rget Reg.FAST_SOLVES) 1) ∧
    (o.data = true → (∀ i ∈ o.iters, i.tiny = none ∧ i.rejected = false) → ∃ t m y, exec (.fastSolveEnd n o) s = .next t ∧
      t.solver.fast = some m ∧ m.tracks.find? (fun z => z.track = n.val) = some y ∧ y.ended = true ∧ y.accepted = true ∧ y.result = 1 ∧
      (∀ z ∈ m.tracks, z.track ≠ n.val → z ∈ l.tracks) ∧ (∀ v, y.formed = some v → v.parent = x.parent) ∧
      t.rbits (Reg.TRACK_SOLVE n) 31 28 = 1 ∧ t.rbits (Reg.TRACK_SOLVE n) 27 24 = s.shape.iterMax % 16 ∧ t.rbit (Reg.TRACK_SOLVE n) 23 = false ∧
      t.rget Reg.FAST_ACCEPTED = satAdd32 (s.rget Reg.FAST_ACCEPTED) 1 ∧ t.store = s.store)) ∧
  (∀ s : State, s.solver.fast = none ∨ s.saved ∨ (∃ l, s.solver.fast = some l ∧ ∃ t ∈ l.tracks, t.ended = false) → exec .fastPublish s = .next s) ∧
  (∀ (s : State) (l : FastLoop), ¬ s.saved → s.solver.fast = some l → (∀ t ∈ l.tracks, t.ended = true ∧ t.accepted = false) →
    exec .fastPublish s = .next { s with solver := { s.solver with fast := none } }) ∧
  (∀ (s : State) (l : FastLoop) (x : TrackSolve) (v : Spline), s.MemOk → ¬ s.saved → s.solver.fast = some l → l.tracks = [x] → x.ended = true →
    x.accepted = true → x.formed = some v → v.track = x.track → x.track < 64 → v.parent = none →
    ∃ t, exec .fastPublish s = .next t ∧ t.solver.fast = none ∧
      (rotationsOk v = true → ∃ w, t.store.newest x.track = some w ∧ w = { v with version := w.version } ∧
        (∀ k, k ≠ x.track → t.store.newest k = s.store.newest k) ∧
        t.rget (Reg.TRACK_PUBLISH_BEAT_LO x.track) = nw s.tl.beat ∧ t.rget (Reg.TRACK_MARGIN x.track) = nw (l.ord + s.fastDeadline - s.tl.beats) ∧
        (x.reparent = true → t.rget Reg.REPARENTS = satAdd32 (s.rget Reg.REPARENTS) 1)) ∧
      (rotationsOk v = false → t.store = s.store ∧ t.rbits (Reg.TRACK_SOLVE x.track) 31 28 = 7 ∧
        t.rget Reg.PUBLISH_REFUSALS = satAdd32 (s.rget Reg.PUBLISH_REFUSALS) 1 ∧ t.rbit Reg.SOLVER_EVENTS 5 = true)) ∧
  (∀ s : State, s.solver.fast = none ∨ s.saved ∨ (∃ l, s.solver.fast = some l ∧ ((∀ t ∈ l.tracks, t.ended = true) ∨ s.tl.beats < l.ord + s.fastDeadline)) →
    exec .fastDeadlineMiss s = .next s) ∧
  (∀ (s : State) (l : FastLoop), s.MemOk → ¬ s.saved → s.solver.fast = some l → (l.tracks.map (fun t => t.track)).Nodup → (∀ t ∈ l.tracks, t.track < 64) →
    (∃ t ∈ l.tracks, t.ended = false) → l.ord + s.fastDeadline ≤ s.tl.beats →
    ∃ t, exec .fastDeadlineMiss s = .next t ∧
      t.solver.fast = some { l with tracks := l.tracks.map (fun x => if x.ended then x else { x with ended := true, result := 5 }) } ∧
      (∀ x ∈ l.tracks, x.ended = false → t.rbits (Reg.TRACK_SOLVE x.track) 31 28 = 5) ∧
      t.rget Reg.FAST_MISSES = satAdd32 (s.rget Reg.FAST_MISSES) (l.tracks.filter (fun x => !x.ended)).length ∧
      t.rbit Reg.SOLVER_EVENTS 0 = true ∧ t.com.solverMiss = true ∧ t.store = s.store) ∧
  (∀ (o : SlowOutcome) (s : State), s.solver.slow = none ∨ s.saved ∨ s.hold ∨
      (∃ l, s.solver.slow = some l ∧ (l.accepted.isSome ∨ l.ord + s.shape.slowDeadline ≤ s.tl.frames)) → exec (.slowSolveEnd o) s = .next s) ∧
  (∀ (o : SlowOutcome) (s : State) (l : SlowLoop), s.MemOk → ¬ s.saved → ¬ s.hold → s.solver.slow = some l → l.accepted = none →
    s.tl.frames < l.ord + s.shape.slowDeadline → ∃ t, exec (.slowSolveEnd o) s = .next t ∧ t.store = s.store ∧ t.solver.fast = s.solver.fast ∧
      t.rget Reg.SLOW_SOLVES = satAdd32 (s.rget Reg.SLOW_SOLVES) 1 ∧ t.rbit Reg.SOLVER_EVENTS 7 = true ∧
      t.rget Reg.OBS_DROPPED = satAdd32 (s.rget Reg.OBS_DROPPED) (o.recorded - s.shape.obsMax) ∧
      (o.data = false → t.solver.slow = none ∧ t.rget Reg.SLOW_RESULT = nw (8 * 2 ^ 28)) ∧
      (o.data = true → (∀ i ∈ o.iters, i.tiny = none ∧ i.rejected = false) → t.rbits Reg.SLOW_RESULT 31 28 = 1 ∧
        t.solver.slow = some { l with accepted := some (o.extrinsics.filter (fun x => s.slowSensors.contains x.1)) })) ∧
  (∀ s : State, s.saved ∨ s.solver.slow = none ∨ (∃ l, s.solver.slow = some l ∧ l.accepted = none) → exec .slowPublish s = .next s) ∧
  (∀ (s : State) (l : SlowLoop) (ex : List (Nat × Extrinsic)), s.MemOk → ¬ s.saved → s.solver.slow = some l → l.accepted = some ex →
    (ex.map (fun x => x.1)).Nodup → ∃ t, exec .slowPublish s = .next t ∧ t.solver = { s.solver with slow := none } ∧
      (∀ x ∈ ex, mget t.store.extrinsics x.1 = some x.2) ∧ (∀ k, k ∉ ex.map (fun x => x.1) → mget t.store.extrinsics k = mget s.store.extrinsics k) ∧
      t.store = { s.store with extrinsics := t.store.extrinsics } ∧ t.rget Reg.SLOW_MARGIN = nw (l.ord + s.shape.slowDeadline - s.tl.frames) ∧
      Only [.regs, .store, .solver] s t) ∧
  (∀ s : State, s.saved ∨ s.solver.slow = none ∨ (∃ l, s.solver.slow = some l ∧ (l.accepted.isSome ∨ s.tl.frames < l.ord + s.shape.slowDeadline)) →
    exec .slowDeadlineMiss s = .next s) ∧
  (∀ (s : State) (l : SlowLoop), s.MemOk → ¬ s.saved → s.solver.slow = some l → l.accepted = none → l.ord + s.shape.slowDeadline ≤ s.tl.frames →
    ∃ t, exec .slowDeadlineMiss s = .next t ∧ t.solver = { s.solver with slow := none } ∧ t.rget Reg.SLOW_RESULT = nw (5 * 2 ^ 28) ∧
      t.rget Reg.SLOW_MISSES = satAdd32 (s.rget Reg.SLOW_MISSES) 1 ∧ t.rbit Reg.SOLVER_EVENTS 1 = true ∧ t.com.solverMiss = true ∧ t.store = s.store)

/-- The shallot slot (R424 to R446). -/
def Obligations.SlotLoadsChecksRehearsesAndArms : Prop :=
  (∀ (i : Initiator) (s : State), s.MemOk → s.mayWrite i Reg.SLOT_CTRL → s.boot.failCode = 0 → ¬ s.boot.stopped →
    (s.slot.state ≠ .empty → ∃ t, exec (.slotLoad i) s = .next t ∧ t.slot = s.slot ∧ t.rget Reg.LOADS_BUSY = satAdd32 (s.rget Reg.LOADS_BUSY) 1 ∧
      t.rbit Reg.SLOT_EVENTS 3 = true ∧ t.rget Reg.LOADS = s.rget Reg.LOADS) ∧
    (s.slot.state = .empty → s.rget Reg.LOAD_LENGTH = 0 → exec (.slotLoad i) s = .next s) ∧
    (s.slot.state = .empty → s.rget Reg.LOAD_LENGTH ≠ 0 → ∃ t, exec (.slotLoad i) s = .next t ∧ t.slot.state = .copying ∧
      t.slot.len = (s.rget Reg.LOAD_LENGTH).toNat ∧ t.slot.fromFlash = false ∧ t.rget Reg.LOADS = satAdd32 (s.rget Reg.LOADS) 1 ∧ Only [.regs, .slot] s t)) ∧
  (∀ (i : Initiator) (s : State), s.MemOk → s.mayWrite i Reg.SLOT_CTRL →
    (s.slot.state = .empty → exec (.slotCancel i) s = .next s) ∧
    (s.slot.state ≠ .empty → ∃ t, exec (.slotCancel i) s = .next t ∧ t.slot = {} ∧ t.rget Reg.ADMIT_RESULT = nw (2 ^ 31 + 21 * 2 ^ 16) ∧
      t.rget Reg.REFUSALS = satAdd32 (s.rget Reg.REFUSALS) 1 ∧ t.rbit Reg.SLOT_EVENTS 6 = true ∧ t.live = s.live ∧ t.store = s.store)) ∧
  (∀ s : State, s.slot.state ≠ .copying ∨ s.saved → exec .slotCopyDone s = .next s) ∧
  (∀ s : State, s.slot.state = .copying → ¬ s.saved →
    exec .slotCopyDone s = .next { s with slot := { s.slot with state := .verifying, bytes := s.loadBytes } }) ∧
  (∀ (a b : Bool) (k : Nat) (s : State), s.slot.state ≠ .verifying ∨ s.saved → exec (.slotVerifyDone a b k) s = .next s) ∧
  (∀ (a b : Bool) (k : Nat) (s : State), s.MemOk → s.slot.state = .verifying → ¬ s.saved →
    a = false ∨ b = false ∨ (imageHeader s.slot.bytes).secVersion < s.keeper.imageMin →
    ∃ t, exec (.slotVerifyDone a b k) s = .next t ∧ t.slot = {} ∧ t.rget Reg.REFUSALS = satAdd32 (s.rget Reg.REFUSALS) 1 ∧
      t.rbits Reg.ADMIT_RESULT 31 28 = 8 ∧ 1 ≤ t.rbits Reg.ADMIT_RESULT 20 16 ∧ t.rbits Reg.ADMIT_RESULT 20 16 ≤ 5 ∧ t.rbit Reg.SLOT_EVENTS 2 = true) ∧
  (∀ (k : Nat) (s : State), s.slot.state = .verifying → ¬ s.saved → s.verifyReason true true = none →
    ∃ t m, exec (.slotVerifyDone true true k) s = .next t ∧ t.slot = { s.slot with state := .admitting, image := some m } ∧
      m.id = cnat s.slot.bytes 16 8 ∧ m.version = cnat s.slot.bytes 12 4 ∧ m.size = s.slot.len ∧ s.keeper.imageMin ≤ m.version ∧ Only [.regs, .slot] s t) ∧
  (∀ (b : ImageBody) (s : State), s.slot.state ≠ .admitting ∨ s.saved → exec (.admissionDone b) s = .next s) ∧
  (∀ (b : ImageBody) (s : State), s.MemOk → s.slot.state = .admitting → ¬ s.saved → ∃ t, exec (.admissionDone b) s = .next t ∧
    t.rbit Reg.ADMIT_RESULT 31 = true ∧ t.live = s.live ∧
    (t.rbit Reg.ADMIT_RESULT 30 = false → t.slot = {} ∧ t.rget Reg.REFUSALS = satAdd32 (s.rget Reg.REFUSALS) 1 ∧ t.rbit Reg.SLOT_EVENTS 2 = true) ∧
    (t.rbit Reg.ADMIT_RESULT 30 = true → t.slot.state = (if s.live.isSome then SlotState.rehearsing else .arming) ∧ 8 ≤ s.available ∧
      t.rget Reg.ADMISSIONS = satAdd32 (s.rget Reg.ADMISSIONS) 1 ∧ t.rbit Reg.SLOT_EVENTS 1 = true ∧
      ∃ m, t.slot.image = some m ∧ m.body = b ∧ configOk m.config = true)) ∧
  (∀ (r : RehearsalResult) (s : State), s.saved ∨ s.slot.state ≠ .rehearsing ∨ (∀ g ∈ s.slot.group, g.1 ≠ r.unit) → exec (.rehearsalDone r) s = .next s) ∧
  (∀ (r : RehearsalResult) (s : State) (m : Image) (e : Nat), s.MemOk → ¬ s.saved → s.slot.state = .rehearsing → s.slot.image = some m →
    s.slot.group.find? (fun g => g.1 = r.unit) = some (r.unit, e) →
    (r.halted = true → r.overrun = false → r.event = false → r.mismatch = false → (∀ f ∈ s.slot.failures, f.1 = r.unit → f.2.2 = false) →
      ∃ t, exec (.rehearsalDone r) s = .next t ∧ r.unit ∈ t.slot.rehearsed ∧
      (∀ g ∈ t.slot.group, g.1 ≠ r.unit) ∧ (∀ f ∈ t.slot.failures, f.1 ≠ r.unit) ∧
      t.rget Reg.REHEARSAL = nw ((kinsert r.unit s.slot.rehearsed).length * 65536 + m.units.length) ∧
      t.slot.state = (if (kinsert r.unit s.slot.rehearsed).length = m.units.length then SlotState.arming else .rehearsing)) ∧
    (r.event = true → (∀ f ∈ s.slot.failures, f.1 ≠ r.unit) → ∃ t, exec (.rehearsalDone r) s = .next t ∧ t.slot.state = .rehearsing ∧
      t.slot.rehearsed = s.slot.rehearsed ∧ t.slot.failures = s.slot.failures ++ [(r.unit, e, false)] ∧ (∀ g ∈ t.slot.group, g.1 ≠ r.unit) ∧
      t.rget Reg.REHEARSAL_RETRIES = satAdd32 (s.rget Reg.REHEARSAL_RETRIES) 1 ∧ t.rbit Reg.SLOT_EVENTS 5 = true) ∧
    (r.event = true → (∃ f ∈ s.slot.failures, f.1 = r.unit) → ∃ t, exec (.rehearsalDone r) s = .next t ∧ t.slot = {} ∧
      t.rbits Reg.ADMIT_RESULT 20 16 = 19 ∧ t.rget Reg.REFUSALS = satAdd32 (s.rget Reg.REFUSALS) 1)) ∧
  (∀ (e : Fin 20) (s : State), s.slot.state ≠ .arming ∨ s.saved ∨ (s.engine e).shadowKind ≠ .arming ∨ (e.val, 0) ∉ s.slot.left →
    exec (.armingDone e) s = .next s) ∧
  (∀ (e : Fin 20) (s : State), s.slot.state = .arming → ¬ s.saved → (s.engine e).shadowKind = .arming → (e.val, 0) ∈ s.slot.left →
    ∃ l, (∀ x, x ∈ l ↔ x ∈ s.slot.left ∧ x.1 ≠ e.val) ∧
      exec (.armingDone e) s = .next { s with slot := { s.slot with left := l, state := if l = [] then .armed else .arming } })

/-- Ports and lanes (R524, R529 to R541). -/
def Obligations.PeerPortsTrainAndRetire : Prop :=
  ∀ (p : Fin 6) (s : State), s.Units → s.MemOk → s.Shape →
    (¬ s.up → ∀ b, exec (.peerSignalDetect p b) s = .next s) ∧
    (s.up → (s.peer p).state = .down → s.rbit (Reg.PEER_CFG p) 0 = true → ∃ t, exec (.peerSignalDetect p true) s = .next t ∧
      t.peer p = { s.peer p with state := .training } ∧ (∀ q : Fin 6, q ≠ p → t.peer q = s.peer q) ∧ Only [.peers] s t) ∧
    ((s.peer p).state ≠ .down ∨ s.rbit (Reg.PEER_CFG p) 0 = false → exec (.peerSignalDetect p true) s = .next s) ∧
    ((s.peer p).state ≠ .up → exec (.peerSignalDetect p false) s = .next s ∧ exec (.portDown p) s = .next s) ∧
    ((s.peer p).state = .up → ∃ t, exec (.portDown p) s = .next t ∧ (s.up → exec (.peerSignalDetect p false) s = .next t) ∧ (t.peer p).state = .down ∧
      (t.peer p).waiting = [[], [], [], []] ∧ (t.peer p).replay = [] ∧ (t.peer p).lanes = (s.peer p).lanes ∧
      t.rget (Reg.LINK_DOWNS p) = satAdd32 (s.rget (Reg.LINK_DOWNS p)) 1 ∧ t.rbit Reg.PEER_EVENTS (12 + p) = true ∧
      (t.dest p).on = false ∧ (t.dest p).queue = [] ∧ (∀ q : Fin 6, q ≠ p → t.peer q = s.peer q)) ∧
    (∀ ok, (s.peer p).state ≠ .training → exec (.peerTrainingDone p ok) s = .next s) ∧
    ((s.peer p).state = .training → (∀ l, l < 5 → s.laneGone p l = false) → ∃ t, exec (.peerTrainingDone p 31) s = .next t ∧
      (t.peer p).state = .aligning ∧ (t.peer p).rxModes = [.active 0, .active 1, .active 2, .active 3, .spare] ∧
      (∀ q : Fin 6, q ≠ p → t.peer q = s.peer q) ∧ Only [.peers] s t) ∧
    (∀ (ok : BitVec 5) (b : Fin 4), (s.peer p).state = .training → (∀ l, l < 5 → s.laneGone p l = false) →
      (∀ l : Fin 5, ok.getLsbD l = decide (l.val ≠ b.val)) → ∃ t, exec (.peerTrainingDone p ok) s = .next t ∧ (t.peer p).state = .aligning ∧
      (t.peer p).rxModes = (List.range 5).map (fun l => if l = b.val then LaneMode.retired else if l < 4 then .active (Fin.ofNat 4 l) else .active b) ∧
      t.marked 3 (p.val * 8 + b.val) = true ∧ t.rbit Reg.PEER_EVENTS (18 + p) = true) ∧
    ((s.peer p).state = .training → (∀ l, l < 5 → s.laneGone p l = false) → ∃ t, exec (.peerTrainingDone p 0) s = .next t ∧
      (t.peer p).state = .retired ∧ t.rbit Reg.PEER_EVENTS 0 = true) ∧
    ((s.peer p).state = .aligning → ∃ t, exec (.peerAligned p) s = .next t ∧ t.peer p = { s.peer p with state := .hello } ∧
      (∀ q : Fin 6, q ≠ p → t.peer q = s.peer q) ∧ Only [.peers] s t) ∧
    ((s.peer p).state ≠ .aligning → exec (.peerAligned p) s = .next s) ∧
    ((s.peer p).state = .hello → s.linkReady = true → ∃ t h, exec (.helloSend p) s = .next t ∧ t.out = .link p h (.hello (s.helloBody p)) :: s.out ∧
      h.ack = (s.peer p).rxGood ∧ (t.peer p).state = .hello ∧ Only [.regs, .peers, .out] s t) ∧
    ((s.peer p).state ≠ .hello ∨ s.linkReady = false → exec (.helloSend p) s = .next s) ∧
    ((s.peer p).state ≠ .up ∨ (s.peer p).replay = [] ∨ s.now < (s.peer p).ackAt + 10 * cyclesUs → exec (.replayTimeout p) s = .next s) ∧
    ((s.peer p).state = .up → (s.peer p).replay ≠ [] → (s.peer p).ackAt + 10 * cyclesUs ≤ s.now → ∃ t, exec (.replayTimeout p) s = .next t ∧
      t.rget (Reg.REPLAY_TIMEOUTS p) = satAdd32 (s.rget (Reg.REPLAY_TIMEOUTS p)) 1 ∧ (∀ q : Fin 6, q ≠ p → t.peer q = s.peer q) ∧
      ((s.peer p).replaysRow < 15 → (t.peer p).state = .up ∧ (t.peer p).replay = (s.peer p).replay ∧
        (t.peer p).replaysRow = (s.peer p).replaysRow + 1 ∧ (t.peer p).ackAt = s.now) ∧
      (15 ≤ (s.peer p).replaysRow → (t.peer p).state = .training ∧ (t.peer p).replay = [])) ∧
    (∀ l : Fin 5, s.linked p = false ∨ lgetD (s.peer p).rxModes l .down = .retired ∨ lgetD (s.peer p).rxModes l .down = .down →
      exec (.laneLockLoss p l) s = .next s) ∧
    (∀ l : Fin 5, s.linked p = true → (lgetD (s.peer p).rxModes l .down).isActive = true ∨ lgetD (s.peer p).rxModes l .down = .spare →
      ∃ t, exec (.laneLockLoss p l) s = .next t ∧ lgetD (t.peer p).rxModes l .down = .retired ∧ t.marked 3 (p.val * 8 + l.val) = true ∧
        t.rbit Reg.PEER_EVENTS (18 + p) = true ∧ (∀ q : Fin 6, q ≠ p → t.peer q = s.peer q) ∧
        (∀ sl i, lgetD (s.peer p).rxModes l .down = .active sl → (s.peer p).rxModes.findIdx? (fun x => x = .spare) = some i →
          lgetD (t.peer p).rxModes i .down = .active sl ∧ (t.peer p).state = (s.peer p).state)) ∧
    (¬ s.up → exec (.peerSerdesPllLoss p false) s = .next s) ∧ exec (.peerSerdesPllLoss p true) s = .next s ∧
    (s.up → (s.peer p).state ≠ .retired → ∃ t, exec (.peerSerdesPllLoss p false) s = .next t ∧ (t.peer p).state = .retired ∧
      t.rbit Reg.PEER_EVENTS 0 = true ∧ (∀ q : Fin 6, q ≠ p → t.peer q = s.peer q))

/-- Control flits (R527 to R546, R561, R562). -/
def Obligations.PeerControlFlitsTakeEffect : Prop :=
  ∀ (p : Fin 6) (h : FlitHead) (s : State), s.Units → s.MemOk → s.Shape →
    (∀ (b : HelloBody) (tb : TimeBody) (l : Fin 5) (f : BitVec 12) (n : BitVec 64) (ph : Fin 8) (c : Instr),
      c ∈ [Instr.helloFlit p h b, .updateFlit p h b, .laneSwapFlit p h l f, .seedReqFlit p h, .refreshReqFlit p h, .timeFlit p h tb n ph, .nakFlit p h] →
      (s.linked p = false → exec c s = .next s) ∧
      (s.linked p = true → h.intact = false → ∃ t, exec c s = .next t ∧ Only [.regs] s t ∧
        t.rget (Reg.CRC_ERRORS p) = satAdd32 (s.rget (Reg.CRC_ERRORS p)) 1)) ∧
    (s.linked p = true → h.intact = true →
      (∀ b : HelloBody, s.linkReady = true → (s.peer p).state = .hello → ∃ t, exec (.helloFlit p h b) s = .next t ∧
        (s.helloReason p b = 0 → (t.peer p).state = .up ∧ (t.peer p).nb.coord = b.coord ∧ (t.peer p).nb.mirrorReq = b.mirrorReq ∧
          t.rbit Reg.PEER_EVENTS (6 + p) = true ∧ (s.com.closed = false → (t.dest p).on = true)) ∧
        (s.helloReason p b ≠ 0 → (t.peer p).state = .refused ∧ (t.peer p).reason = s.helloReason p b ∧ t.rbit Reg.PEER_EVENTS (24 + p) = true) ∧
        (stepCoord (s.coordNat.getD 0) p ≠ some b.coord → (t.peer p).state = .refused ∧ (t.peer p).reason = 1) ∧
        (∀ q : Fin 6, q ≠ p → t.peer q = s.peer q)) ∧
      (∀ b : HelloBody, s.linkReady = false ∨ (s.peer p).state = .up → ∃ t, exec (.helloFlit p h b) s = .next t ∧
        (t.peer p).state = (s.peer p).state ∧ (t.peer p).nb = (s.peer p).nb ∧ t.com = s.com) ∧
      (∀ b : HelloBody, s.linkReady = true → (s.peer p).state = .up → ∃ t, exec (.updateFlit p h b) s = .next t ∧
        (s.helloReason p b = 0 → (t.peer p).state = .up ∧ (t.peer p).nb.coord = b.coord ∧ (t.peer p).nb.mirrorReq = b.mirrorReq ∧
          (t.peer p).nb.digest = b.digest) ∧
        (s.helloReason p b ≠ 0 → (t.peer p).state = .refused ∧ (t.peer p).reason = s.helloReason p b ∧
          t.rget (Reg.LINK_DOWNS p) = satAdd32 (s.rget (Reg.LINK_DOWNS p)) 1)) ∧
      (∀ (l : Fin 5) (f : BitVec 12), ∃ t, exec (.laneSwapFlit p h l f) s = .next t ∧
        ((lgetD (s.peer p).txModes l .down).isActive = false → (t.peer p).lanes = (s.peer p).lanes) ∧
        (∀ sl i, lgetD (s.peer p).txModes l .down = .active sl → (s.peer p).txModes.findIdx? (fun x => x = .spare) = some i →
          lgetD (t.peer p).txModes l .down = .retired ∧ lgetD (t.peer p).txModes i .down = .active sl ∧
          (t.peer p).rxModes = (s.peer p).rxModes ∧ (t.peer p).state = (s.peer p).state)) ∧
      (∃ t, exec (.seedReqFlit p h) s = .next t ∧ t.peers.mirror = s.peers.mirror ∧ t.store = s.store ∧
        ((s.peer p).state ≠ .up ∨ s.hold ∨ s.peers.mirror.valid = false ∨ s.peers.mirror.coord ≠ (s.peer p).nb.coord →
          (t.peer p).waiting = (s.peer p).waiting) ∧
        ((s.peer p).state = .up → ¬ s.hold → s.peers.mirror.valid = true → s.peers.mirror.coord = (s.peer p).nb.coord →
          ∃ q, q ≠ [] ∧ lgetD (t.peer p).waiting 3 [] = lgetD (s.peer p).waiting 3 [] ++ q ∧ ∀ x ∈ q, ∃ es, x = .seed es)) ∧
      (∃ t, exec (.refreshReqFlit p h) s = .next t ∧ t.store = s.store ∧
        ((s.peer p).state ≠ .up ∨ s.hold → (t.peer p).waiting = (s.peer p).waiting) ∧
        ((s.peer p).state = .up → ¬ s.hold → t.rget Reg.MIRROR_SETS_SENT = satAdd32 (s.rget Reg.MIRROR_SETS_SENT) 1 ∧
          ∃ q, lgetD (t.peer p).waiting 3 [] = lgetD (s.peer p).waiting 3 [] ++ q ∧ (∀ x ∈ q, ∃ es, x = .mirror es) ∧
            ∃ x ∈ q, x.ends = [(s.frame % 2 ^ 48, s.tl.epoch.toNat)])) ∧
      (∀ (b : TimeBody) (n : BitVec 64) (ph : Fin 8), s.linkReady = true → (s.peer p).state = .up → ∃ t, exec (.timeFlit p h b n ph) s = .next t ∧
        (t.peer p).timeRx = some (b.seq, n.toNat * 8 + ph.val) ∧ (t.peer p).nb.depth = b.depth ∧ (t.peer p).nb.candidate = b.candidate ∧
        (∀ q : Fin 6, q ≠ p → t.peer q = s.peer q)) ∧
      (∀ (b : TimeBody) (n : BitVec 64) (ph : Fin 8), s.linkReady = false → ∃ t o, t.out = .link p o (.nak (s.peer p).rxGood) :: s.out ∧
        exec (.timeFlit p h b n ph) s = .next t ∧ exec (.nakFlit p h) s = .next t ∧ t.tl = s.tl ∧ (t.peer p).nb = (s.peer p).nb) ∧
      (s.linkReady = true → (s.peer p).state = .up → (∀ x ∈ (s.peer p).replay, x.seq ≠ h.ack) → ∃ t, exec (.nakFlit p h) s = .next t ∧
        ((s.peer p).replay ≠ [] → t.rget (Reg.REPLAYS p) = satAdd32 (s.rget (Reg.REPLAYS p)) 1 ∧
          ((s.peer p).replaysRow < 15 → (t.peer p).replay = (s.peer p).replay ∧ (t.peer p).replaysRow = (s.peer p).replaysRow + 1)) ∧
        ((s.peer p).replay = [] → t.rget (Reg.REPLAYS p) = s.rget (Reg.REPLAYS p)))) ∧
    (∀ (n : BitVec 64) (ph : Fin 8), ¬ s.up ∨ (s.peer p).state ≠ .up ∨ (s.peer p).timeBlock = some (s.tl.beats / 64) →
      exec (.timeFlitSend p n ph) s = .next s) ∧
    (∀ (n : BitVec 64) (ph : Fin 8), s.up → (s.peer p).state = .up → (s.peer p).timeBlock ≠ some (s.tl.beats / 64) →
      ∃ t o, exec (.timeFlitSend p n ph) s = .next t ∧ t.out = .link p o (.time (s.timeBody p)) :: s.out ∧
        (t.peer p).timeBlock = some (s.tl.beats / 64) ∧ (t.peer p).timeSeq = (s.peer p).timeSeq + 1 ∧
        (t.peer p).timeTx.head? = some ((s.peer p).timeSeq, n.toNat * 8 + ph.val) ∧ (∀ q : Fin 6, q ≠ p → t.peer q = s.peer q) ∧
        Only [.regs, .peers, .out] s t)

/-- Sequenced flits (R529, R547 to R564). -/
def Obligations.PeerDataFlitsTakeEffect : Prop :=
  (∀ (p : Fin 6) (h : FlitHead) (s : State) (rs : List SentRecord) (pb : PeaBody) (d : BitVec 14) (w : WriteBody) (es : List MirrorEntry) (c : Instr) (vc : Nat),
    s.Units → s.Shape →
    (c, vc) ∈ [(Instr.commitFlit p h rs, 0), (.peaFlit p h pb, 1), (.writeFlit p h d w, 2), (.mirrorFlit p h es, 3), (.seedFlit p h es, 3)] →
    (s.linked p = false → exec c s = .next s) ∧
    (s.linkReady = true → (s.peer p).state = .up → h.intact = true → h.seq ≠ (s.peer p).rxGood + 1 → ∃ t, exec c s = .next t ∧
      (t.peer p).rxGood = (s.peer p).rxGood ∧ (t.peer p).discarding = true ∧ Only [.regs, .peers, .out] s t ∧ t.peers.mirror = s.peers.mirror) ∧
    (s.linkReady = true → (s.peer p).state = .up → h.intact = true → h.seq = (s.peer p).rxGood + 1 → ∃ t, exec c s = .next t ∧
      (t.peer p).rxGood = h.seq ∧ (t.peer p).discarding = false ∧ lgetD (t.peer p).owe vc 0 = lgetD (s.peer p).owe vc 0 + 1)) ∧
  (∀ (p : Fin 6) (h : FlitHead) (s : State), s.Units → s.MemOk → s.Shape → s.linkReady = true → (s.peer p).state = .up → h.intact = true →
    h.seq = (s.peer p).rxGood + 1 →
    (∀ (r : SentRecord) (sp : Nat) (x : DataStore), r.entries = [] → s.spaceOf (0xFFF0 + p) = some sp → mget s.data (sp * 65536 + (0xFFF0 + p.val)) = some x →
      0 < x.size → ∃ t, exec (.commitFlit p h [r]) s = .next t ∧ (t.peer p).ringPos = ((s.peer p).ringPos + 64) % x.size ∧
        (∀ k, k ≠ sp * 65536 + (0xFFF0 + p.val) → mget t.data k = mget s.data k) ∧
        ((s.peer p).ringPos + 64 ≤ x.size → t.dread sp (0xFFF0 + p.val) (s.peer p).ringPos 64 = r.bytes) ∧
        (r.body.kind = .discontinuity → (t.peer p).nb.epoch = some (r.body.aux2 % 65536)) ∧ t.store = s.store) ∧
    (∀ b : PeaBody, s.hold → ∃ t, exec (.peaFlit p h b) s = .next t ∧ t.store = s.store ∧ t.ing = s.ing) ∧
    (∀ (b : PeaBody) (q : Pea), ¬ s.hold → b.peas = [q] → q.sensor < 1024 → inBox s.owned q.x q.y q.z = false → 3 ≤ b.hops →
      ∃ t, exec (.peaFlit p h b) s = .next t ∧ t.store = s.store ∧ t.rget Reg.PEA_HOP_DROPS = satAdd32 (s.rget Reg.PEA_HOP_DROPS) 1 ∧
        t.rbit Reg.PEER_EVENTS 2 = true) ∧
    (∀ (d : BitVec 14) (w : WriteBody), s.coordNat = some d.toNat → s.remoteSpace w.dataSet = none →
      ∃ t, exec (.writeFlit p h d w) s = .next t ∧ t.data = s.data ∧ t.engines = s.engines ∧ t.rbit Reg.MOVER_EVENTS 2 = true ∧
        t.rget Reg.XLATE_FAULTS = satAdd32 (s.rget Reg.XLATE_FAULTS) 1) ∧
    (∀ (d : BitVec 14) (w : WriteBody) (sp z : Nat) (x : DataStore), s.coordNat = some d.toNat → s.remoteSpace w.dataSet = some sp → w.aliasing = 0 →
      s.setPlace sp w.dataSet = .set sp w.dataSet z → mget s.data (sp * 65536 + w.dataSet) = some x → w.offset + w.bytes.length ≤ z →
      s.fwPlace (.set sp w.dataSet z) true (0x30 + p) w.offset w.bytes.length = true →
      ∃ t y, exec (.writeFlit p h d w) s = .next t ∧ mget t.data (sp * 65536 + w.dataSet) = some y ∧
        cread y.bytes w.offset w.bytes.length = w.bytes ∧ (∀ a, a < w.offset ∨ w.offset + w.bytes.length ≤ a → cget y.bytes a = cget x.bytes a) ∧
        (∀ k, k ≠ sp * 65536 + w.dataSet → mget t.data k = mget s.data k) ∧
        t.rpair Reg.REMOTE_WRITES_LO Reg.REMOTE_WRITES_HI = (s.rpair Reg.REMOTE_WRITES_LO Reg.REMOTE_WRITES_HI + 1) % 2 ^ 64) ∧
    (∀ (d : BitVec 14) (w : WriteBody) (own n : Nat), s.coordNat = some own → own ≠ d.toNat → nextHop own d.toNat = some n → n < 6 →
      ∃ t, exec (.writeFlit p h d w) s = .next t ∧ t.data = s.data ∧
        ((s.peer n).state = .up → lgetD (t.peer n).waiting 2 [] = lgetD (s.peer n).waiting 2 [] ++ [.write d.toNat w]) ∧
        ((s.peer n).state ≠ .up → t.rget Reg.RELAY_DROPS = satAdd32 (s.rget Reg.RELAY_DROPS) 1 ∧ t.rbit Reg.PEER_EVENTS 2 = true)) ∧
    (∀ es : List MirrorEntry, s.mirrorSource none ≠ some p.val ∨ s.hold → ∃ t, exec (.mirrorFlit p h es) s = .next t ∧ t.peers.mirror = s.peers.mirror) ∧
    (∀ (k : Nat) (c : Cell) (fr ep : Nat), s.mirrorSource none = some p.val → ¬ s.hold →
      ∃ t u, exec (.mirrorFlit p h [.cell k c]) s = .next t ∧ t.peers.mirror.valid = true ∧ t.peers.mirror.port = p.val ∧
        (s.peers.mirror.pages < 4194304 → ∃ cs, mget t.peers.mirror.pods (podKey k) = some cs ∧ mget cs (cellInPod k) = some c) ∧
        exec (.mirrorFlit p h [.fin ep fr]) s = .next u ∧ u.peers.mirror.frame = fr ∧ u.peers.mirror.refreshing = false ∧ u.store = s.store) ∧
    (∀ (k : Nat) (c : Cell), s.seedOpen p = false ∨ s.ownsKey k = false → ∃ t, exec (.seedFlit p h [.cell k c]) s = .next t ∧ t.store = s.store ∧
      t.rget Reg.SEED_DROPS = satAdd32 (s.rget Reg.SEED_DROPS) 1) ∧
    (∀ ep fr : Nat, s.seedOpen p = true → ∃ t, exec (.seedFlit p h [.fin ep fr]) s = .next t ∧ t.peers.seedDone = true ∧ t.rbit Reg.PEER_EVENTS 5 = true)) ∧
  (∀ s : State, (∀ m ∈ s.peers.sets, s.setWaiting m = false ∨ s.tl.frames < m.due + 4) → exec .mirrorLag s = .next s) ∧
  (∀ (s : State) (m : MirrorSet), s.MemOk → m ∈ s.peers.sets → s.setWaiting m = true → m.due + 4 ≤ s.tl.frames →
    ∃ t, exec .mirrorLag s = .next t ∧ t.rbit Reg.PEER_EVENTS 3 = true ∧ Only [.regs, .host, .out] s t)

/-- The checker slice (R589 to R603). -/
def Obligations.CheckerComparesAndDecides : Prop :=
  (∀ s : State, ¬ s.inServ ∨ s.tl.beat % 64 ≠ 0 ∨ s.live = none → exec .poseSample s = .next s) ∧
  (∀ (s : State) (img : Image), s.inServ → s.tl.beat % 64 = 0 → s.live = some img → ∃ t, exec .poseSample s = .next t ∧ Only [.safety] s t ∧
    (∀ n l p, (n, l) ∈ s.store.versions → compositePose (fun k => s.store.versionAt k s.tl.beats) n (s.tl.beat * 64) = some p →
      (∀ q ∈ mgetD s.safety.poses n [], q.beat ≠ s.tl.beat) → (mgetD t.safety.poses n []).head? = some (p.sample s.tl.beat)) ∧
    (∀ n, n ∉ s.store.versions.map (fun v => v.1) → mget t.safety.poses n = mget s.safety.poses n) ∧
    (∀ x ∈ img.body.sensors, (img.body.sensors.map (fun y => y.1)).Nodup →
      mget t.safety.extr x.1 = some (mgetD s.store.extrinsics x.1 x.2.extrinsic))) ∧
  (∀ s : State, s.safety.compare = none → exec .comparisonComplete s = .next s ∧ exec .compareSkipped s = .next s) ∧
  (∀ (s : State) (c : Comparison), s.MemOk → s.safety.compare = some c →
    (c.ord + 256 ≤ s.tl.beats → exec .comparisonComplete s = .next s ∧ ∃ t, exec .compareSkipped s = .next t ∧ t.safety.compare = none ∧
      t.safety.notCompared = s.safety.notCompared + 1 ∧ t.rget Reg.COMPARE_SKIPPED = satAdd32 (s.rget Reg.COMPARE_SKIPPED) 1 ∧
      t.rbit Reg.SAFETY_EVENTS 5 = true ∧ t.safety.decls = s.safety.decls) ∧
    (s.tl.beats < c.ord + 256 → exec .compareSkipped s = .next s ∧ ∃ t, exec .comparisonComplete s = .next t ∧ t.safety.compare = none ∧
      t.safety.notCompared = 0 ∧ t.store = s.store ∧
      ((∀ k ∈ c.cols, s.comparable k = true → s.colOccupied s.allRecords k = true) → t.rget Reg.DISAGREEMENTS = s.rget Reg.DISAGREEMENTS) ∧
      (∀ k ∈ c.cols, s.comparable k = true → s.colOccupied s.allRecords k = false →
        t.rget Reg.DISAGREEMENTS = satAdd32 (s.rget Reg.DISAGREEMENTS) 1 ∧ t.rbit Reg.SAFETY_EVENTS 6 = true ∧
        (s.Shape → s.declCount < 8 → ∃ d, some d ∈ t.safety.decls ∧ d.frame = c.frame ∧ (k / 512, k % 512) ∈ d.cols ∧ d.phase = .declared)))) ∧
  (∀ (i : Fin 8) (l : List (Fin 20)) (s : State), (∀ d, lgetD s.safety.decls i none = some d → d.phase ≠ .rechecking) → exec (.recheckEnd i l) s = .next s) ∧
  (∀ (i : Fin 8) (l : List (Fin 20)) (s : State) (d : Declaration), s.MemOk → s.Shape → lgetD s.safety.decls i none = some d → d.phase = .rechecking →
    s.repeaters d = [] →
    ((∀ e ∈ l, e.val ∉ d.engines) → d.engines ≠ [] → ∃ t, exec (.recheckEnd i l) s = .next t ∧ lgetD t.safety.decls i none = none ∧
      t.rget Reg.TRANSIENT_DISAGREEMENTS = satAdd32 (s.rget Reg.TRANSIENT_DISAGREEMENTS) 1 ∧ (∀ j : Fin 8, j ≠ i → lgetD t.safety.decls j none = lgetD s.safety.decls j none)) ∧
    ((∃ e ∈ l, e.val ∈ d.engines) → ∃ t, exec (.recheckEnd i l) s = .next t ∧ t.rbit Reg.SAFETY_EVENTS 7 = true ∧
      t.rget Reg.CHECKER_RETIREMENTS = satAdd32 (s.rget Reg.CHECKER_RETIREMENTS) 1)) ∧
  (∀ (i : Fin 8) (s : State), (∀ d, lgetD s.safety.decls i none = some d → (d.phase ≠ .declared ∧ d.phase ≠ .rechecking) ∨ s.tl.frames < d.bornAt + 3) →
    exec (.recheckTimeout i) s = .next s) ∧
  (∀ (i : Fin 8) (s : State) (d : Declaration), s.MemOk → s.Shape → lgetD s.safety.decls i none = some d → d.phase = .declared ∨ d.phase = .rechecking →
    d.bornAt + 3 ≤ s.tl.frames → s.repeaters d = [] → ∃ t, exec (.recheckTimeout i) s = .next t ∧
      lgetD t.safety.decls i none = some { d with phase := .awaitClean, outcome := 5 } ∧
      t.rget Reg.RECHECK_TIMEOUTS = satAdd32 (s.rget Reg.RECHECK_TIMEOUTS) 1 ∧ t.rbit Reg.SAFETY_EVENTS 8 = true ∧
      (∀ j : Fin 8, j ≠ i → lgetD t.safety.decls j none = lgetD s.safety.decls j none))

/-- Heartbeat, log, saves and faults (R584, R605 to R614, R745 to R752, R788). -/
def Obligations.HeartbeatLogPowerAndMarrow : Prop :=
  (∀ s : State, s.safety.unvSince = none ∨ ¬ s.inServ ∨ s.safety.state ≠ .unverified ∨ s.safety.hbStopped ∨
      (∃ b, s.safety.unvSince = some b ∧ s.tl.beats - b ≤ s.rbits Reg.SAFETY_CFG 7 0 * 1024) → exec .heartbeatStop s = .next s) ∧
  (∀ (s : State) (b : Nat), s.MemOk → s.safety.unvSince = some b → s.inServ → s.safety.state = .unverified → ¬ s.safety.hbStopped →
    s.rbits Reg.SAFETY_CFG 7 0 * 1024 < s.tl.beats - b → ∃ t, exec .heartbeatStop s = .next t ∧
      t.safety = { s.safety with hbRun := false, hbStopped := true, resumeAsked := false, safeA := false, safeB := false } ∧
      t.rget Reg.HEARTBEAT_STOPS = satAdd32 (s.rget Reg.HEARTBEAT_STOPS) 1 ∧ t.rbit Reg.SAFETY_EVENTS 3 = true ∧ t.faultN = t.pwrOk) ∧
  (∀ s : State, (s.safety.hbRun = false → exec .heartbeatToggle s = .next s) ∧ (s.safety.hbRun = true →
    exec .heartbeatToggle s = .next { s with safety := { s.safety with safeA := !s.safety.safeA, safeB := s.safety.safeA } })) ∧
  (∀ (ok : Bool) (s : State), s.safety.waiting = [] → exec (.keeperRecordWrite ok) s = .next s) ∧
  (∀ (s : State) (r : LogRecord) (rest : List LogRecord), s.MemOk → s.safety.waiting = r :: rest →
    (∃ t, exec (.keeperRecordWrite true) s = .next t ∧ t.keeper.logSeq = s.keeper.logSeq + 1 ∧ t.safety = { s.safety with waiting := rest } ∧
      t.keeper.log.head? = some { r with seq := (s.keeper.logSeq + 1) % 2 ^ 32 } ∧ t.keeper.log.length ≤ 131072 ∧
      t.keeper = { s.keeper with logSeq := t.keeper.logSeq, log := t.keeper.log } ∧ Only [.keeper, .safety] s t) ∧
    (∃ t, exec (.keeperRecordWrite false) s = .next t ∧ t.keeper = s.keeper ∧ t.safety = { s.safety with keeperBad := true } ∧
      t.rget Reg.KEEPER_WRITE_FAILS = satAdd32 (s.rget Reg.KEEPER_WRITE_FAILS) 1 ∧ t.rbit Reg.SAFETY_EVENTS 11 = true)) ∧
  (∀ (m : Bool) (s : State), ¬ s.up ∨ s.saved ∨ (m = true ∧ s.rbit Reg.SAG_CFG 0 = false) → exec (.powerSag m) s = .next s) ∧
  (∀ s : State, s.MemOk → s.up → ¬ s.saved → ∃ t, exec (.powerSag false) s = .next t ∧ t.rget Reg.SAGS = satAdd32 (s.rget Reg.SAGS) 1 ∧
    (s.inServ → t.inServ = false ∧ t.power.saving = some s.now ∧ t.slot.state = .empty ∧ t.safety.hbRun = false ∧ t.live = s.live ∧
      (s.boot.straps.getLsbD 10 = true → t.keeper.marrow = { s.keeper.marrow with complete := false, fromHold := s.hold, beat := s.tl.beat, epoch := s.tl.epoch.toNat }) ∧
      (s.boot.straps.getLsbD 10 = false → t.keeper = s.keeper)) ∧
    (¬ s.inServ → t.power = (if s.boot.straps.getLsbD 10 then { s.power with stopped := true, holdupOk := true } else s.power) ∧ Only [.regs, .power] s t)) ∧
  (∀ (us : Nat) (s : State), s.power.saving = none → exec (.saveComplete us) s = .next s) ∧
  (∀ (us : Nat) (s : State), s.power.saving.isSome → ∃ t, exec (.saveComplete us) s = .next t ∧ t.power.saving = none ∧ t.power.stopped = true ∧
    t.power.serdesOff = true ∧ t.power.holdupOk = s.boot.straps.getLsbD 10 ∧ t.safety.waiting = [] ∧
    t.keeper.logSeq = s.keeper.logSeq + s.safety.waiting.length ∧ t.keeper.faults = s.keeper.faults ++ s.safety.mapShadow ∧
    (s.boot.straps.getLsbD 10 = true → t.keeper.marrow.complete = true ∧ t.keeper.marrow.saveUs = us ∧ t.keeper.marrow.warm = s.solver.warm ∧
      t.keeper.marrow.sensors = s.store.extrinsics) ∧
    (s.boot.straps.getLsbD 10 = false → t.keeper.marrow = s.keeper.marrow) ∧ Only [.keeper, .safety, .com, .power] s t) ∧
  (∀ s : State, ¬ s.inServ ∨ s.hold ∨ s.saved ∨ s.sweepWaits = true → exec .marrowSweep s = .next s) ∧
  (∀ s : State, s.MemOk → s.inServ → ¬ s.hold → ¬ s.saved → s.sweepWaits = false →
    (s.power.sweeping = false → ∃ t, exec .marrowSweep s = .next t ∧ t.power.sweeping = true ∧ t.power.sweep = t.keeper.sweepCounter ∧
      t.keeper.sweepCounter = s.topSweep + 1 ∧ t.power.pos = 0 ∧ t.power.page = 0 ∧ t.power.staging = s.power.staging ∧ Only [.keeper, .power] s t) ∧
    (s.power.sweeping = true → s.power.page < 6032 → s.power.fill.length < 255 → (∀ x ∈ s.allRecords, s.power.pos ≤ x.1 → s.sweepTakes x = false) →
      ∃ t, exec .marrowSweep s = .next t ∧ t.power.sweeping = false ∧ t.power.full = false ∧ t.rget Reg.GRID_LEFT_OUT = 0 ∧
        mget t.power.staging s.power.page = some { sweep := s.power.sweep, entries := s.power.fill } ∧ t.keeper = s.keeper)) ∧
  (∀ (ok : Bool) (s : State), ¬ s.up ∨ s.saved ∨ s.dirtyPages = [] → exec (.trickleWrite ok) s = .next s) ∧
  (∀ (s : State) (x : Nat × GridPage) (rest : List (Nat × GridPage)), s.MemOk → s.up → ¬ s.saved → s.dirtyPages = x :: rest → mrising 0 s.keeper.marrow.grid = true →
    (∃ t, exec (.trickleWrite true) s = .next t ∧ mgetD t.keeper.marrow.grid x.1 emptyPage = x.2 ∧ Only [.keeper] s t ∧
      (∀ k, k ≠ x.1 → mgetD t.keeper.marrow.grid k emptyPage = mgetD s.keeper.marrow.grid k emptyPage)) ∧
    (∃ t, exec (.trickleWrite false) s = .next t ∧ t.keeper = s.keeper ∧ t.rbit Reg.POWER_EVENTS 2 = true ∧
      t.rget Reg.KEEPER_WRITE_FAILS = satAdd32 (s.rget Reg.KEEPER_WRITE_FAILS) 1)) ∧
  (∀ s : State, ¬ s.up ∨ s.hold → exec .thermalTrip s = .next s) ∧
  (∀ s : State, s.MemOk → s.up → ¬ s.hold → ∃ t, exec .thermalTrip s = .next t ∧ t.hold = true ∧ t.safety.holdCause = 8 ∧ t.safety.hbStopped = true ∧
    t.slot.state = .empty ∧ t.rbit Reg.SAFETY_EVENTS 2 = true ∧ t.rbit Reg.SAFETY_EVENTS 0 = true) ∧
  (∀ s : State, exec (.powerDomainFault none) s = exec .thermalTrip s) ∧
  (∀ (d : Option (Bool × Fin 20)) (s : State), ¬ s.up → exec (.powerDomainFault d) s = .next s) ∧
  (∀ (e : Fin 20) (s : State), s.Units → s.up → (s.engine e).state ≠ .retired → ∃ t, exec (.powerDomainFault (some (false, e))) s = .next t ∧
    (t.engine e).state = .retired ∧ t.marked 1 e = true) ∧
  (∀ (c : Fin 20) (s : State), s.Units → s.MemOk → s.up → c.val < 18 → ∃ t, exec (.powerDomainFault (some (true, c))) s = .next t ∧
    ((s.channel c).state = .spare → (t.channel c).state = .retired ∧ t.marked 2 c = true) ∧
    ((s.channel c).state = .service → (t.channel c).state = .source ∧ t.marked 2 c = true ∧ t.rbit Reg.MEM_EVENTS 3 = true)) ∧
  (∀ (c : Fin 20) (s : State), 18 ≤ c.val → exec (.powerDomainFault (some (true, c))) s = .next s)

/-- Command queues (R624 to R641, R651, R699). -/
def Obligations.CommandQueuesAreFilledAndTaken : Prop :=
  (∀ (i : Initiator) (o : Fin 1024) (ws : List PushWord) (s : State), s.reaches i = false → exec (.pushWord i o ws) s = .next s) ∧
  (∀ (i : Initiator) (o : Fin 1024) (w : Word) (s : State), s.Units → s.MemOk → s.mayReach i (0xFA0000 + 4 * o) → s.hqLevel i.hostFn < 16384 →
    ∃ t, exec (.pushWord i o [⟨w, 15⟩]) s = .next t ∧ (∀ f, f ≠ i.hostFn → t.fn f = s.fn f) ∧ (t.fn i.hostFn).taken = (s.fn i.hostFn).taken ∧
      ((s.fn i.hostFn).dropping = false → (s.fn i.hostFn).building = none → wbit w 31 = true → wbits w 11 0 = 0 →
        (t.fn i.hostFn).queue = (s.fn i.hostFn).queue ++ [{ prio := wbits w 30 29, tag := wbits w 28 20, opcode := wbits w 19 12 }]) ∧
      ((s.fn i.hostFn).dropping = false → (s.fn i.hostFn).building = none → wbit w 31 = true → wbits w 11 0 ≠ 0 →
        (t.fn i.hostFn).queue = (s.fn i.hostFn).queue ∧
        (t.fn i.hostFn).building = some ({ prio := wbits w 30 29, tag := wbits w 28 20, opcode := wbits w 19 12 }, wbits w 11 0)) ∧
      (∀ j n, (s.fn i.hostFn).dropping = false → (s.fn i.hostFn).building = some (j, n) →
        (n = 1 → (t.fn i.hostFn).queue = (s.fn i.hostFn).queue ++ [{ j with payload := j.payload ++ [w] }] ∧ (t.fn i.hostFn).building = none) ∧
        (1 < n → (t.fn i.hostFn).queue = (s.fn i.hostFn).queue ∧ (t.fn i.hostFn).building = some ({ j with payload := j.payload ++ [w] }, n - 1))) ∧
      ((s.fn i.hostFn).dropping = false → (s.fn i.hostFn).building = none → wbit w 31 = false → (t.fn i.hostFn).queue = (s.fn i.hostFn).queue ∧
        (t.fn i.hostFn).dropping = true ∧ t.rget (hqReg i.hostFn Reg.HQ_DROPPED_WORDS) = satAdd32 (s.rget (hqReg i.hostFn Reg.HQ_DROPPED_WORDS)) 1)) ∧
  (∀ (i : Initiator) (o : Fin 1024) (w : PushWord) (s : State), s.Units → s.MemOk → s.mayReach i (0xFA0000 + 4 * o) →
    w.enables ≠ 15 ∨ 16384 ≤ s.hqLevel i.hostFn → ∃ t, exec (.pushWord i o [w]) s = .next t ∧ (t.fn i.hostFn).queue = (s.fn i.hostFn).queue ∧
      (t.fn i.hostFn).building = none ∧ (t.fn i.hostFn).dropping = true ∧
      t.rget (hqReg i.hostFn Reg.HQ_DROPPED_WORDS) = satAdd32 (s.rget (hqReg i.hostFn Reg.HQ_DROPPED_WORDS)) 1) ∧
  (∀ (f : Fin 2) (s : State), (s.fn f).queue = [] ∨ (s.fn f).current.isSome ∨ s.cplFull f = true ∨ (∀ i ∈ (s.fn f).queue, s.itemWaits f i = true) →
    exec (.itemTake f) s = .next s) ∧
  (∀ (f : Fin 2) (s : State), s.Units → s.MemOk → (s.fn f).queue ≠ [] → (s.fn f).queue.length ≤ 16384 → (s.fn f).current = none → s.cplFull f = false →
    (∀ i ∈ (s.fn f).queue, s.itemWaits f i = false) → ∃ t i, exec (.itemTake f) s = .next t ∧ i ∈ (s.fn f).queue ∧
      (∀ j ∈ (s.fn f).queue, min 3 j.prio ≤ min 3 i.prio) ∧ (t.fn f).queue.length + 1 = (s.fn f).queue.length ∧
      t.rget (hqReg f Reg.ITEMS_TAKEN) = satAdd32 (s.rget (hqReg f Reg.ITEMS_TAKEN)) 1 ∧
      ((opcodeWords i.opcode).isSome → (t.fn f).current = some ((s.fn f).nextId, i) ∧
        (t.fn f).taken = (s.fn f).taken ++ [{ id := (s.fn f).nextId, tag := i.tag, opcode := i.opcode }]) ∧
      ((opcodeWords i.opcode).isNone → (t.fn f).current = none ∧ t.rget (hqReg f Reg.CPL_TAIL) = s.rget (hqReg f Reg.CPL_TAIL) + 1) ∧
      (∀ g : Fin 2, g ≠ f → t.fn g = s.fn g)) ∧
  (∀ (i : Initiator) (s : State), s.Units → s.MemOk → s.mayReach i Reg.HQ_CTRL → ∃ t, exec (.hqFlush i) s = .next t ∧
    (t.fn i.hostFn).queue = [] ∧ (t.fn i.hostFn).building = none ∧ (t.fn i.hostFn).dropping = true ∧ (t.fn i.hostFn).taken = (s.fn i.hostFn).taken ∧
    t.rget (hqReg i.hostFn Reg.FLUSHED_ITEMS) = satAdd32 (s.rget (hqReg i.hostFn Reg.FLUSHED_ITEMS)) (s.fn i.hostFn).queue.length) ∧
  (∀ (i : Initiator) (s : State), s.MemOk → s.mayReach i Reg.CPL_CTRL → ∃ t u, exec (.cplEnable i true) s = .next t ∧ Only [.regs] s t ∧
    t.rbit (hqReg i.hostFn Reg.CPL_CTRL) 0 = true ∧
    (s.rbit (hqReg i.hostFn Reg.CPL_CTRL) 0 = false → t.rget (hqReg i.hostFn Reg.CPL_HEAD) = 0 ∧ t.rget (hqReg i.hostFn Reg.CPL_TAIL) = 0) ∧
    exec (.cplEnable i false) s = .next u ∧ Only [.regs] s u ∧ u.rbit (hqReg i.hostFn Reg.CPL_CTRL) 0 = false ∧
    u.rget (hqReg i.hostFn Reg.CPL_TAIL) = s.rget (hqReg i.hostFn Reg.CPL_TAIL)) ∧
  (∀ (i : Initiator) (d : Word) (s : State), s.MemOk → s.mayReach i Reg.CPL_HEAD → ∃ t, exec (.cplHeadWrite i d) s = .next t ∧
    ((d - s.rget (hqReg i.hostFn Reg.CPL_HEAD)).toNat ≤ (s.rget (hqReg i.hostFn Reg.CPL_TAIL) - s.rget (hqReg i.hostFn Reg.CPL_HEAD)).toNat →
      t.rget (hqReg i.hostFn Reg.CPL_HEAD) = d ∧ Only [.regs] s t) ∧
    ((s.rget (hqReg i.hostFn Reg.CPL_TAIL) - s.rget (hqReg i.hostFn Reg.CPL_HEAD)).toNat < (d - s.rget (hqReg i.hostFn Reg.CPL_HEAD)).toNat →
      t.rget (hqReg i.hostFn Reg.CPL_HEAD) = s.rget (hqReg i.hostFn Reg.CPL_HEAD) ∧ t.rget Reg.LATE_WRITES = satAdd32 (s.rget Reg.LATE_WRITES) 1)) ∧
  (∀ (f : Fin 2) (s : State), ¬ s.up ∨ s.boot.step < 8 ∨ (f = 1 ∧ ¬ s.pf1Present) → exec (.functionLevelReset f) s = .next s) ∧
  (∀ (f : Fin 2) (s : State), s.Units → s.MemOk → s.up → 8 ≤ s.boot.step → (f = 1 → s.pf1Present) → ∃ t, exec (.functionLevelReset f) s = .next t ∧
    t.fn f = { nextId := (s.fn f).nextId } ∧ (∀ g : Fin 2, g ≠ f → t.fn g = s.fn g) ∧
    (∀ o, hqReg f 0xF00000 ≤ o → o < hqReg f 0xF00000 + 0x2000 → o ≠ hqReg 0 Reg.HQ_CTRL → t.rget o = regReset o) ∧
    (∀ x ∈ t.descs, x.2.owner = fnOwner f → x.2.void = true) ∧
    (f = 0 → t.rbit Reg.RING_CTRL 0 = false ∧ (t.dest 6).on = false ∧ t.host.dumps = []) ∧ (f = 1 → t.host.attests = [])) ∧
  (∀ s : State, ¬ s.up → exec .pciePerst s = .next s) ∧
  (∀ s : State, s.Units → s.up → ∃ t, exec .pciePerst s = .next t ∧ (∀ f : Fin 2, t.fn f = { nextId := (s.fn f).nextId }) ∧
    (∀ x ∈ t.descs, x.2.owner ≠ .loader → x.2.void = true) ∧ t.host.dumps = [] ∧ t.host.attests = [] ∧ (t.dest 6).on = false)

/-- Items of the command queues (R642 to R656, R724). -/
def Obligations.ItemsActAndComplete : Prop :=
  (∀ (f : Fin 2) (c : Instr) (op : Nat) (s : State), (c, op) ∈ [(Instr.hostNop f, 0), (.hostFence f, 1), (.descCreate f, 2), (.descDestroy f, 3),
      (.hostMove f, 4), (.mapWindow f, 5), (.unmapWindow f, 6), (.hostDump f, 7), (.hostAttest f, 8)] →
    ((∀ id i, (s.fn f).current = some (id, i) → i.opcode ≠ op) → exec c s = .next s) ∧
    (∀ id i, s.Units → s.MemOk → (s.fn f).current = some (id, i) → i.opcode = op → (∃ x ∈ (s.fn f).taken, x.id = id) → i.ok = false →
      ∃ t, exec c s = .next t ∧ (t.fn f).current = none ∧ Completed s t f id 4 0 0 ∧ t.descs = s.descs ∧ t.movers = s.movers)) ∧
  (∀ (f : Fin 2) (s : State) (id : Nat) (i : HostItem), s.Units → s.MemOk → (s.fn f).current = some (id, i) → (∃ x ∈ (s.fn f).taken, x.id = id) → i.ok = true →
    (i.opcode = 0 → ∃ t, exec (.hostNop f) s = .next t ∧ (t.fn f).current = none ∧ Completed s t f id 0 0 0 ∧ Only [.regs, .host, .hostMem, .out] s t) ∧
    (i.opcode = 1 → ∃ t, exec (.hostFence f) s = .next t ∧ (t.fn f).current = none ∧ Only [.host] s t ∧
      (t.fn f).taken = (s.fn f).taken.map (fun x => if x.id = id then { x with waits := ((s.fn f).taken.map (fun y => y.id)).filter (fun n => n ≠ id) } else x)) ∧
    (i.opcode = 2 → ¬ ((descOf (i.bytesFrom 0)).space = 2 ∧ (descOf (i.bytesFrom 0)).dataSet ≠ 0xFFFE ∧ s.live = none) →
      (∀ n, s.hostDescReason f (descOf (i.bytesFrom 0)) = none → s.freeDesc = some n → ∃ t, exec (.descCreate f) s = .next t ∧ Completed s t f id 0 n 0 ∧
        mget s.descs n = none ∧ mget t.descs n = some { desc := descOf (i.bytesFrom 0), owner := fnOwner f } ∧ (∀ m, m ≠ n → mget t.descs m = mget s.descs m) ∧
        t.rget Reg.DESC_CREATED = satAdd32 (s.rget Reg.DESC_CREATED) 1) ∧
      (∀ r, s.hostDescReason f (descOf (i.bytesFrom 0)) = some r → ∃ t, exec (.descCreate f) s = .next t ∧ Completed s t f id 1 r 0 ∧ t.descs = s.descs ∧
        t.rget Reg.DESC_REFUSED = satAdd32 (s.rget Reg.DESC_REFUSED) 1)) ∧
    (i.opcode = 3 → (∀ d, mget s.descs (i.word 0) = some d → d.owner = fnOwner f → s.descBusy (i.word 0) = false → mrising 0 s.descs = true →
        ∃ t, exec (.descDestroy f) s = .next t ∧ Completed s t f id 0 0 0 ∧ mget t.descs (i.word 0) = none ∧
          (∀ m, m ≠ i.word 0 → mget t.descs m = mget s.descs m)) ∧
      (∀ d, mget s.descs (i.word 0) = some d → d.owner = fnOwner f → s.descBusy (i.word 0) = true →
        ∃ t, exec (.descDestroy f) s = .next t ∧ Completed s t f id 5 0 0 ∧ t.descs = s.descs) ∧
      ((∀ d, mget s.descs (i.word 0) = some d → d.owner ≠ fnOwner f) → ∃ t, exec (.descDestroy f) s = .next t ∧ Completed s t f id 4 0 0 ∧ t.descs = s.descs)) ∧
    (i.opcode = 4 → (s.moveOk f (moverOpOf (i.bytesFrom 1)) = false → ∃ t, exec (.hostMove f) s = .next t ∧ Completed s t f id 8 0 0 ∧ t.movers = s.movers) ∧
      (s.moveOk f (moverOpOf (i.bytesFrom 1)) = true → ∃ t, exec (.hostMove f) s = .next t ∧ (t.fn f).current = none ∧ Only [.movers, .host] s t ∧
        (t.mover (28 + 2 * f.val + i.word 0)).queue = (s.mover (28 + 2 * f.val + i.word 0)).queue ++ [{ op := moverOpOf (i.bytesFrom 1), host := some (f.val, id) }] ∧
        (∀ c : Fin 32, c.val ≠ 28 + 2 * f.val + i.word 0 → t.mover c = s.mover c))) ∧
    (i.opcode = 5 → (∀ w, mget (s.fn f).windows (i.word 0 % 256) = some w → ∃ t, exec (.mapWindow f) s = .next t ∧ Completed s t f id 5 0 0 ∧
        (t.fn f).windows = (s.fn f).windows) ∧
      (mget (s.fn f).windows (i.word 0 % 256) = none → ∃ t, exec (.mapWindow f) s = .next t ∧ Completed s t f id 0 0 0 ∧
        mget (t.fn f).windows (i.word 0 % 256) = some { base := i.word 1 + i.word 2 * 2 ^ 32, pages := i.word 3, read := nbit (i.word 0) 8, write := nbit (i.word 0) 9 } ∧
        (∀ w, w ≠ i.word 0 % 256 → mget (t.fn f).windows w = mget (s.fn f).windows w))) ∧
    (i.opcode = 6 → ∃ t, exec (.unmapWindow f) s = .next t ∧ (t.fn f).current = none ∧ (t.fn f).windows = (s.fn f).windows ∧ Only [.host] s t ∧
      (t.fn f).taken = (s.fn f).taken.map (fun x => if x.id = id then { x with
        windows := [i.word 0]
        waits := (((s.fn f).taken.filter (fun y => y.windows.contains (i.word 0))).map (fun y => y.id)).filter (fun n => n ≠ id) } else x)) ∧
    (i.opcode = 7 → f = 0 → (s.live = none → ∃ t, exec (.hostDump f) s = .next t ∧ Completed s t f id 6 0 0 ∧ t.host.dumps = s.host.dumps) ∧
      (s.live.isSome → ∃ t j, exec (.hostDump f) s = .next t ∧ t.host.dumps = s.host.dumps ++ [j] ∧ j.id = id ∧ j.window = i.word 0 ∧
        j.beat = s.tl.beat ∧ j.epoch = s.tl.epoch.toNat ∧ t.store = s.store)) ∧
    (i.opcode = 7 → f = 1 → ∃ t, exec (.hostDump f) s = .next t ∧ Completed s t f id 3 0 0 ∧ t.host.dumps = s.host.dumps) ∧
    (i.opcode = 8 → f = 0 → ∃ t, exec (.hostAttest f) s = .next t ∧ Completed s t f id 3 0 0 ∧ t.host.attests = s.host.attests) ∧
    (i.opcode = 8 → f = 1 → ∃ t j, exec (.hostAttest f) s = .next t ∧ t.host.attests = s.host.attests ++ [j] ∧ j.id = id ∧ j.window = i.word 0 ∧
      (s.host.attests = [] → j.count = s.keeper.attestCount + 1 ∧ t.keeper.attestCount = s.keeper.attestCount + 1) ∧
      (s.host.attests ≠ [] → t.keeper = s.keeper))) ∧
  (∀ (f : Fin 2) (s : State), (∀ x ∈ (s.fn f).taken, x.opcode = 1 → s.waitsOver f x = false ∨ (s.fn f).current.map (fun y => y.1) = some x.id) →
    exec (.fenceComplete f) s = .next s) ∧
  (∀ (f : Fin 2) (s : State), (∀ x ∈ (s.fn f).taken, x.opcode = 6 → s.waitsOver f x = false ∨ (s.fn f).current.map (fun y => y.1) = some x.id) →
    exec (.unmapWindowComplete f) s = .next s) ∧
  (∀ (f : Fin 2) (s : State) (a b : List TakenItem) (x : TakenItem), s.Units → s.MemOk → (s.fn f).taken = a ++ x :: b → (s.fn f).current = none →
    s.waitsOver f x = true → (∀ y ∈ a, y.opcode ≠ x.opcode) →
    (x.opcode = 1 → ∃ t, exec (.fenceComplete f) s = .next t ∧ Completed s t f x.id 0 0 0 ∧ (t.fn f).windows = (s.fn f).windows) ∧
    (∀ w, x.opcode = 6 → x.windows = [w] → mrising 0 (s.fn f).windows = true → ∃ t, exec (.unmapWindowComplete f) s = .next t ∧ Completed s t f x.id 0 0 0 ∧
      mget (t.fn f).windows w = none ∧ (∀ v, v ≠ w → mget (t.fn f).windows v = mget (s.fn f).windows v))) ∧
  (∀ s : State, (∀ j rest, s.host.dumps = j :: rest → j.done = false) → exec .dumpComplete s = .next s) ∧
  (∀ (s : State) (j : DumpJob), s.Units → s.MemOk → s.host.dumps = [j] → j.done = true → (∃ x ∈ (s.fn 0).taken, x.id = j.id) →
    ∃ t, exec .dumpComplete s = .next t ∧ t.host.dumps = [] ∧
      Completed s t 0 j.id (if j.epoch ≠ s.tl.epoch.toNat then 7 else if j.faulted then 2 else 0) j.beat j.found) ∧
  (∀ s : State, s.host.attests = [] → exec .attestComplete s = .next s) ∧
  (∀ (s : State) (j : AttestJob), s.Units → s.MemOk → s.host.attests = [j] → (∃ x ∈ (s.fn 1).taken, x.id = j.id) →
    ∃ t, exec .attestComplete s = .next t ∧ t.host.attests = [] ∧
      (∀ w, s.winFor 1 j.window true = some w → 80416 ≤ w.pages * 4096 → Completed s t 1 j.id 0 80416 j.count ∧ t.rbit Reg.SEC_EVENTS 2 = true) ∧
      (s.winFor 1 j.window true = none → Completed s t 1 j.id 2 0 0 ∧ t.rget Reg.XLATE_FAULTS = satAdd32 (s.rget Reg.XLATE_FAULTS) 1))

/-- The commit ring (R652 to R657, R699). -/
def Obligations.CommitRingIsWrittenAndRead : Prop :=
  (∀ (i : Initiator) (s : State), s.Units → s.MemOk → s.mayReach i Reg.RING_CTRL →
    (s.rbit Reg.RING_CTRL 0 = false → ∃ t, exec (.ringEnable i true) s = .next t ∧ t.rbit Reg.RING_CTRL 0 = true ∧
      t.rpair Reg.RING_WRITE_LO Reg.RING_WRITE_HI = 0 ∧ t.rpair Reg.RING_READ_LO Reg.RING_READ_HI = 0 ∧ t.host.stall = 0 ∧
      (s.com.closed = false → t.dest 6 = { s.dest 6 with starting := true }) ∧ Only [.regs, .com, .host] s t) ∧
    (s.rbit Reg.RING_CTRL 0 = true → ∃ t, exec (.ringEnable i false) s = .next t ∧ t.rbit Reg.RING_CTRL 0 = false ∧ (t.dest 6).on = false ∧
      (t.dest 6).queue = [] ∧ (∀ n : Fin 7, n ≠ 6 → t.dest n = s.dest n) ∧ Only [.regs, .com] s t) ∧
    ∃ t, exec (.ringEnable i (s.rbit Reg.RING_CTRL 0)) s = .next t ∧ t.com = s.com ∧ t.host = s.host ∧ t.rbit Reg.RING_CTRL 0 = s.rbit Reg.RING_CTRL 0) ∧
  (∀ (i : Initiator) (d : BitVec 64) (s : State), s.MemOk → s.mayReach i Reg.RING_READ_LO → s.mayReach i Reg.RING_READ_HI →
    ∃ t, exec (.ringReadWrite i d) s = .next t ∧
      (s.rpair Reg.RING_READ_LO Reg.RING_READ_HI ≤ d.toNat → d.toNat ≤ s.rpair Reg.RING_WRITE_LO Reg.RING_WRITE_HI →
        t.rpair Reg.RING_READ_LO Reg.RING_READ_HI = d.toNat ∧ Only [.regs, .held] s t) ∧
      (d.toNat < s.rpair Reg.RING_READ_LO Reg.RING_READ_HI ∨ s.rpair Reg.RING_WRITE_LO Reg.RING_WRITE_HI < d.toNat →
        t.rpair Reg.RING_READ_LO Reg.RING_READ_HI = s.rpair Reg.RING_READ_LO Reg.RING_READ_HI ∧
        t.rget Reg.LATE_WRITES = satAdd32 (s.rget Reg.LATE_WRITES) 1)) ∧
  (∀ s : State, (∀ r, (s.dest 6).ready = some r → s.ringRoom r.bytes.length = false) → exec .ringRecordWrite s = .next s) ∧
  (∀ (s : State) (r : SentRecord), s.Units → s.MemOk → (s.dest 6).ready = some r → s.ringRoom r.bytes.length = true →
    ∃ t, exec .ringRecordWrite s = .next t ∧ (t.dest 6).ready = none ∧ (t.dest 6).queue = (s.dest 6).queue ∧
      t.rpair Reg.RING_WRITE_LO Reg.RING_WRITE_HI = (s.rpair Reg.RING_WRITE_LO Reg.RING_WRITE_HI + r.bytes.length) % 2 ^ 64 ∧
      t.rbit (hqReg 0 Reg.HQ_EVENTS) 1 = true ∧ t.host.left = true ∧
      (List.range 8).map (fun n => t.hread (s.rpair Reg.RING_WB_ADDR_LO Reg.RING_WB_ADDR_HI + n)) =
        leBytes 8 (s.rpair Reg.RING_WRITE_LO Reg.RING_WRITE_HI + r.bytes.length) ∧
      (s.rpair Reg.RING_WRITE_LO Reg.RING_WRITE_HI % s.ringSize + r.bytes.length ≤ s.ringSize →
        s.rpair Reg.RING_BASE_LO Reg.RING_BASE_HI + s.ringSize ≤ s.rpair Reg.RING_WB_ADDR_LO Reg.RING_WB_ADDR_HI →
        (List.range r.bytes.length).map (fun n => t.hread (s.rpair Reg.RING_BASE_LO Reg.RING_BASE_HI +
          s.rpair Reg.RING_WRITE_LO Reg.RING_WRITE_HI % s.ringSize + n)) = r.bytes) ∧ Only [.regs, .com, .host, .hostMem] s t) ∧
  (∀ s : State, s.rbit Reg.RING_CTRL 0 = false ∨ s.host.stall < s.rbits Reg.RING_STALL_LIMIT 15 0 ∨ s.host.stall = 0 → exec .ringSuspend s = .next s) ∧
  (∀ s : State, s.Units → s.MemOk → s.rbit Reg.RING_CTRL 0 = true → s.rbits Reg.RING_STALL_LIMIT 15 0 ≤ s.host.stall → 0 < s.host.stall →
    ∃ t, exec .ringSuspend s = .next t ∧ t.rbit Reg.RING_CTRL 0 = false ∧ (t.dest 6).on = false ∧ (t.dest 6).queue = [] ∧ t.host.stall = 0 ∧
      t.rget Reg.RING_SUSPENDS = satAdd32 (s.rget Reg.RING_SUSPENDS) 1 ∧ t.rbit (hqReg 0 Reg.HQ_EVENTS) 4 = true ∧
      (∀ r rest, (s.dest 6).queue = r :: rest → t.rget Reg.LOST_EPOCH = nw r.epoch ∧ t.rget Reg.LOST_FIRST_BEAT_LO = nw r.beat)) ∧
  (∀ s : State, ¬ s.host.irqArmed ∨ s.host.irqBeats < s.rbits Reg.RING_IRQ_BEATS 10 0 ∨ s.rbit (hqReg 0 Reg.HQ_EVENTS) 1 = false ∨
    s.rbit (hqReg 0 Reg.HQ_EVENT_EN) 1 = false → exec .ringIrq s = .next s) ∧
  (∀ (s : State) (e : MsixEntry), s.host.irqArmed → s.rbits Reg.RING_IRQ_BEATS 10 0 ≤ s.host.irqBeats → s.rbit (hqReg 0 Reg.HQ_EVENTS) 1 = true →
    s.rbit (hqReg 0 Reg.HQ_EVENT_EN) 1 = true → lgetD (s.fn 0).msix 1 {} = e → wbit e.control 0 = false →
    exec .ringIrq s = .next { s with
      host := { s.host with irqArmed := false, irqBeats := 0 }
      out := .msix 0 1 (e.addrLo.toNat + e.addrHi.toNat * 2 ^ 32) e.data :: s.out })

/-- Accesses to the control window (R575, R661 to R688). -/
def Obligations.RegisterAccessesAreJudged : Prop :=
  (∀ (c : Instr) (i : Initiator) (o : Nat) (s : State), ctrlWrite c = some (i, o) → s.reaches i = false → exec c s = .next s) ∧
  (∀ (i : Initiator) (off : BitVec 26) (l : List (Option Byte)) (en : List Bool) (d : Word) (b : Fin 19) (w : Fin 1024) (k : Fin 32) (s : State),
    s.reaches i = false → exec (.registerWrite i off l) s = .next s ∧ exec (.loRead i off en) s = .next s ∧ exec (.hiWrite i off d) s = .next s ∧
      exec (.aliasWrite i b w k d) s = .next s ∧ exec (.blockLock i b) s = .next s) ∧
  (∀ (c : Instr) (i : Initiator) (o : Nat) (s : State), s.MemOk → ctrlWrite c = some (i, o) → s.reaches i = true →
    s.fwOpen 0 true i.id o 4 = false → ∃ t, exec c s = .next t ∧ AccessDenied s t i true o) ∧
  (∀ (i : Initiator) (off : BitVec 26) (d : Word) (s : State), s.MemOk → s.reaches i = true → off.toNat % 4 = 0 → off.toNat < 0xF00000 →
    (s.fwOpen 0 true i.id off.toNat 4 = false → ∃ t, exec (.registerWrite i off (bytesOf d)) s = .next t ∧ AccessDenied s t i true off.toNat) ∧
    (s.fwOpen 0 false i.id off.toNat 4 = false → ∃ t, exec (.loRead i off [true, true, true, true]) s = .next t ∧
      AccessDenied s t i false off.toNat ∧ t.out.head? = some (.readData i off.toNat 0))) ∧
  (∀ (c : Instr) (i : Initiator) (o : Nat) (s : State), s.MemOk → ctrlWrite c = some (i, o) → s.mayReach i o → s.privileged i = false →
    ∃ t, exec c s = .next t ∧ WriteLogged s t i o 3) ∧
  (∀ (i : Initiator) (off : BitVec 26) (d : RegDef) (w : Word) (s : State), s.MemOk → s.plainRw i off.toNat d → d.sh = false → d.group = [] →
    (d.takes w → (∀ p, s.badValue i.hostFn off.toNat w p = false) → ∃ t, exec (.registerWrite i off (bytesOf w)) s = .next t ∧
      d.agrees (t.rget off.toNat) w ∧
      (off.toNat % 0x100000 ≠ 8 → off.toNat ∉ [Reg.ESCAPE_EVENT_EN, Reg.FAULT_EVENT_EN, Reg.FAULT_CLEAR] →
        slotIx (Reg.PORT_CFG 0) 0x100 8 off.toNat = none → slotIx (Reg.WM_HI 0) 0x20 8 off.toNat = none →
        Only [.regs] s t ∧ ∀ p, p ≠ off.toNat → t.rget p = s.rget p)) ∧
    (¬ d.takes w → ∃ t, exec (.registerWrite i off (bytesOf w)) s = .next t ∧ WriteLogged s t i off.toNat 2)) ∧
  (∀ (i : Initiator) (off : BitVec 26) (w : Word) (s : State), s.MemOk → off.toNat % 4 = 0 → off.toNat < 0xF00000 → findReg off.toNat = none →
    (s.mayReach i off.toNat → ∃ t, exec (.registerWrite i off (bytesOf w)) s = .next t ∧ WriteLogged s t i off.toNat 2) ∧
    (s.mayReach i off.toNat false → ∃ t, exec (.loRead i off [true, true, true, true]) s = .next t ∧ Only [.out] s t ∧
      t.out = .readData i off.toNat 0 :: s.out)) ∧
  (∀ (i : Initiator) (off : BitVec 26) (d : RegDef) (w : Word) (s : State), s.MemOk → s.mayReach i off.toNat → (d.wp = true → s.privileged i = true) →
    off.toNat % 4 = 0 → off.toNat < 0xF00000 → findReg off.toNat = some d → fixedFw off.toNat = false → d.sh = false → d.group = [] →
    (∀ f ∈ d.fields, f.acc = .rw ∧ f.lk = true ∧ s.locked (off.toNat / 0x100000) = true) →
    (d.agrees w (s.rget off.toNat) → ∃ t, exec (.registerWrite i off (bytesOf w)) s = .next t ∧ Only [.regs] s t ∧ ∀ p, t.rget p = s.rget p) ∧
    (¬ d.agrees w (s.rget off.toNat) → ∃ t, exec (.registerWrite i off (bytesOf w)) s = .next t ∧ WriteLogged s t i off.toNat 0)) ∧
  (∀ (i : Initiator) (off : BitVec 26) (l : List (Option Byte)) (s : State),
    ((∀ b ∈ l, b = none) → exec (.registerWrite i off l) s = .next s) ∧
    (s.MemOk → s.mayReach i off.toNat → off.toNat % 4 = 0 → off.toNat < 0xF00000 → l.length = 4 → (∃ b ∈ l, b = none) → (∃ b ∈ l, b ≠ none) →
      ∃ t, exec (.registerWrite i off l) s = .next t ∧ WriteLogged s t i off.toNat 4)) ∧
  (∀ (i : Initiator) (off : BitVec 26) (d : RegDef) (w : Word) (s : State), s.MemOk → s.plainRw i off.toNat d → d.fields ≠ [] → d.takes w →
    (∀ p, s.badValue i.hostFn off.toNat w p = false) →
    (d.group ≠ [] → ∃ t v, exec (.registerWrite i off (bytesOf w)) s = .next t ∧ Only [.held] s t ∧
      mget t.held (shadowKey i off.toNat) = some v ∧ d.agrees v w) ∧
    (d.sh = true → 4 ≤ off.toNat → ∃ t, exec (.hiWrite i off w) s = .next t ∧ Only [.regs, .held] s t ∧ d.agrees (t.rget off.toNat) w ∧
      t.rget (off.toNat - 4) = (mget s.held (shadowKey i (off.toNat - 4))).getD (s.rget (off.toNat - 4)) ∧
      (∀ p, p ≠ off.toNat → p ≠ off.toNat - 4 → t.rget p = s.rget p))) ∧
  (∀ (i : Initiator) (off : BitVec 26) (d : RegDef) (en : List Bool) (s : State), s.mayReach i off.toNat false → off.toNat % 4 = 0 →
    off.toNat < 0xF00000 → findReg off.toNat = some d → en.length = 4 → true ∈ en → ∃ t v, exec (.loRead i off en) s = .next t ∧
      t.out = .readData i off.toNat v :: s.out ∧ Only [.shadows, .out] s t ∧
      ((d.rp = true ∧ s.privileged i = false) → v = 0 ∧ t.shadows = s.shadows) ∧
      ((d.rp = true → s.privileged i = true) → ∀ k, k < 4 → wbits v (8 * k + 7) (8 * k) = if lgetD en k false then
        wbits (if d.sh then mgetD s.shadows (shadowKey i off.toNat) 0 else s.regValue i.hostFn off.toNat) (8 * k + 7) (8 * k) else 0) ∧
      (d.sh = true ∨ lgetD en 0 false = false → t.shadows = s.shadows) ∧
      ((d.rp = true → s.privileged i = true) → d.sh = false → lgetD en 0 false = true → mrising 0 s.shadows → ∀ g ∈ d.group,
        mgetD t.shadows (shadowKey i (regKey i.hostFn (off.toNat + g))) 0 = s.regValue i.hostFn (off.toNat + g))) ∧
  (∀ (i : Initiator) (off : BitVec 26) (en : List Bool) (s : State), s.MemOk → s.reaches i = true →
    s.fwOpen 0 false i.id off.toNat en.length = true → true ∈ en → 4 < off.toNat % 4 + en.length → ¬ (off.toNat % 8 = 0 ∧ en.length = 8) →
    ∃ t, exec (.loRead i off en) s = .next t ∧ WriteLogged s t i off.toNat 4 ∧ t.out.head? = some (.readData i off.toNat 0xFFFFFFFF)) ∧
  (∀ (i : Initiator) (b : Fin 19) (w : Fin 1024) (k : Fin 32) (d : RegDef) (v : Word) (s : State), s.MemOk → b ≠ 7 → b ≠ 15 →
    findReg (b * 0x100000 + w * 4) = some d → d.sh = false → d.group = [] →
    (s.plainRw i (b * 0x100000 + w * 4) d → d.takes (putBits (s.rget (b * 0x100000 + w * 4)) k k (b2n (wbit v 0))) →
      (∀ x p, s.badValue i.hostFn (b * 0x100000 + w * 4) x p = false) → ∃ t, exec (.aliasWrite i b w k v) s = .next t ∧
        d.agrees (t.rget (b * 0x100000 + w * 4)) (putBits (s.rget (b * 0x100000 + w * 4)) k k (b2n (wbit v 0)))) ∧
    (s.mayReach i (b * 0x100000 + w * 4) → (d.wp = true → s.privileged i = true) → (∀ f ∈ d.fields, f.acc = .w1c) →
      ∃ t, exec (.aliasWrite i b w k v) s = .next t ∧ ∀ n, n < 32 → t.rbit (b * 0x100000 + w * 4) n =
        (s.rbit (b * 0x100000 + w * 4) n && !(wbit v 0 && decide (n = k ∧ ∃ f ∈ d.fields, f.lo ≤ n ∧ n ≤ f.hi))))) ∧
  (∀ (i : Initiator) (b : Fin 19) (s : State), lockAt b = none → exec (.blockLock i b) s = .next s) ∧
  (∀ (i : Initiator) (b : Fin 19) (o k : Nat) (s : State), s.MemOk → lockAt b = some (o, k) → s.mayWrite i (ctrlOf b) →
    ∃ t, exec (.blockLock i b) s = .next t ∧ Only [.regs, .free] s t ∧ t.rbit o k = true ∧ t.locked b = true ∧
      (∀ p, p ≠ o → t.rget p = s.rget p) ∧ (∀ n, n < 32 → n ≠ k → t.rbit o n = s.rbit o n)) ∧
  (∀ (i : Initiator) (s : State), s.MemOk → s.mayWrite i Reg.GLOBAL_CTRL → ∃ t, exec (.lockAll i) s = .next t ∧ Only [.regs] s t ∧
    (∀ b o k, lockAt b = some (o, k) → t.rbit o k = true) ∧ (∀ p, (∀ b k, lockAt b ≠ some (p, k)) → t.rget p = s.rget p))

/-- Triggers and registers with a row of their own (R69, R84, R104, R113, R119, R156, R157, R204, R265, R321, R373, R406, R454, R500, R531,
R532, R561, R585, R586, R605, R611, R678). -/
def Obligations.TriggersAct : Prop :=
  (∀ (i : Initiator) (s : State), s.MemOk → s.mayWrite i Reg.TIME_CTRL → ∃ t u, exec (.timeSnap i) s = .next t ∧ Only [.regs] s t ∧
    t.rpair Reg.SNAP_COUNT_LO Reg.SNAP_COUNT_HI = s.tl.count.toNat ∧
    t.rpair Reg.SNAP_TIME_LO Reg.SNAP_TIME_MID + (t.rget Reg.SNAP_TIME_HI).toNat * 2 ^ 64 = timeBits s.fusion ∧
    t.rpair Reg.SNAP_BEAT_LO Reg.SNAP_BEAT_HI = s.tl.beat % 2 ^ 64 ∧ (t.rget Reg.SNAP_EPOCH).toNat = s.tl.epoch.toNat ∧
    exec (.timeSetGo i) s = .next u ∧ Only [.regs, .tl] s u ∧ (∀ p, u.rget p = s.rget p) ∧
    (s.inServ = false → u.fusion = s.timeSet ∧ u.tl.rate = s.tl.rate ∧ u.tl.count = s.tl.count ∧ u.tl.beat = (s.timeSet / beatUnits).toNat) ∧
    (s.inServ = true → s.rbits Reg.SERVO_CTRL 2 0 = 4 → u.tl = { s.tl with formed := s.tl.formed ++ [s.timeSet - s.fusion] }) ∧
    (s.inServ = true → s.rbits Reg.SERVO_CTRL 2 0 ≠ 4 → u.tl = s.tl)) ∧
  (∀ (i : Initiator) (n : Fin 8) (d : Word) (s : State), s.Units → s.MemOk → s.mayWrite i (Reg.PORT_CFG n) → ∃ t,
    exec (.portSpeedWrite i n d) s = .next t ∧ Only [.regs, .ports, .safety, .host, .out] s t ∧
    (s.locked 2 = true → t.ports = s.ports ∧ t.rget (Reg.PORT_CFG n) = s.rget (Reg.PORT_CFG n)) ∧
    (s.locked 2 = false → t.rbits (Reg.PORT_CFG n) 1 0 = wbits d 1 0 ∧
      t.port n = { s.port n with up := false, blockLock := false, egress := [[], [], [], []] } ∧ (∀ m, m ≠ n.val → t.port m = s.port m) ∧
      t.rget (Reg.EGRESS_DROPS n) = satAdd32 (s.rget (Reg.EGRESS_DROPS n)) (lsum ((s.port n).egress.map List.length)))) ∧
  (∀ (i : Initiator) (s : State), s.MemOk → s.mayWrite i Reg.PORT_CTRL → ∃ t, exec (.fdbFlush i) s = .next t ∧ Only [.regs, .fdb] s t ∧
    t.fdb = [] ∧ ∀ p, t.rget p = s.rget p) ∧
  (∀ (i : Initiator) (m : BitVec 8) (s : State), s.MemOk → s.mayWrite i Reg.INGEST_CTRL → ∃ t, exec (.ingestFlush i m) s = .next t ∧
    Only [.regs, .ing, .host, .out] s t ∧ t.ing = { s.ing with queues := t.ing.queues, wmNow := t.ing.wmNow } ∧
    ∀ n, n < 8 → lgetD t.ing.queues n [] = if m.getLsbD n then [] else lgetD s.ing.queues n []) ∧
  (∀ (i : Initiator) (m : BitVec 8) (s : State), s.MemOk → s.mayReach i Reg.INGEST_EVENTS → ∃ t, exec (.wmHiSeenClear i m) s = .next t ∧
    Only [.regs] s t ∧ (∀ n, n < 32 → t.rbit Reg.INGEST_EVENTS n = (s.rbit Reg.INGEST_EVENTS n && !m.getLsbD n)) ∧
    (∀ n, n < 8 → t.rget (Reg.CROSS_COUNT n) = if m.getLsbD n then 0 else s.rget (Reg.CROSS_COUNT n))) ∧
  (∀ (i : Initiator) (m : BitVec 20) (s : State), s.MemOk → s.mayReach i Reg.ESCAPE_EVENTS → ∃ t, exec (.escapeEventClear i m) s = .next t ∧
    Only [.regs] s t ∧ (∀ n, n < 32 → t.rbit Reg.ESCAPE_EVENTS n = (s.rbit Reg.ESCAPE_EVENTS n && !m.getLsbD n)) ∧
    (∀ n, n < 20 → t.rbit (Reg.ESC_INFO n) 31 = (s.rbit (Reg.ESC_INFO n) 31 && !m.getLsbD n))) ∧
  (∀ (i : Initiator) (s : State), s.mayWrite i Reg.POD_CTRL → ∃ t, exec (.rekeyAll i) s = .next t ∧ Only [.regs, .store] s t ∧
    t.store = { s.store with regions := t.store.regions } ∧ ∀ r, r < 512 →
      ((s.store.region r).phase = .steady → ((t.store.region r).phase = .copying ∨ (t.store.region r).phase = .pending) ∧
        (t.store.region r).trigger = 3 ∧ (t.store.region r).gen = (s.store.region r).gen) ∧
      ((s.store.region r).phase = .draining → t.store.region r = { s.store.region r with held := some ((s.store.region r).held.getD 3) }) ∧
      ((s.store.region r).phase ≠ .steady → (s.store.region r).phase ≠ .draining → t.store.region r = s.store.region r)) ∧
  (∀ (i : Initiator) (s : State), s.MemOk → s.mayWrite i Reg.COMMIT_CTRL → ∃ t, exec (.marginReset i) s = .next t ∧ Only [.regs] s t ∧
    t.rget Reg.MIN_MARGIN = 64 ∧ ∀ p, p ≠ Reg.MIN_MARGIN → t.rget p = s.rget p) ∧
  (∀ (i : Initiator) (b : Fin 19) (s : State), capturesOf b = [] → exec (.releaseCaptures i b) s = .next s) ∧
  (∀ (i : Initiator) (b : Fin 19) (s : State), s.MemOk → capturesOf b ≠ [] → s.mayWrite i (ctrlOf b) → ∃ t,
    exec (.releaseCaptures i b) s = .next t ∧ Only [.regs] s t ∧ (∀ o ∈ capturesOf b, t.rbit o 31 = false) ∧
    (∀ o n, n < 32 → o ∉ capturesOf b ∨ n ≠ 31 → t.rbit o n = s.rbit o n)) ∧
  (∀ (i : Initiator) (s : State), s.MemOk → s.mayWrite i Reg.SOLVER_CTRL → ∃ t, exec (.coldAll i) s = .next t ∧ Only [.regs, .solver] s t ∧
    (∀ p, t.rget p = s.rget p) ∧ t.solver = { s.solver with coldFast := true, coldSlow := true }) ∧
  (∀ (i : Initiator) (s : State), s.MemOk → s.mayWrite i Reg.PLACE_CTRL → ∃ t, exec (.placeEvaluate i) s = .next t ∧ Only [.regs, .place] s t ∧
    (∀ p, t.rget p = s.rget p) ∧ t.place = { s.place with evalDue := true }) ∧
  (∀ (i : Initiator) (s : State), s.MemOk → s.mayWrite i Reg.MEM_CTRL → ∃ t, exec (.scrubNow i) s = .next t ∧ Only [.regs, .mem] s t ∧
    (∀ p, t.rget p = s.rget p) ∧ t.mem = { s.mem with scrubActive := true, scrubChannel := 0, scrubAddr := 0 }) ∧
  (∀ (i : Initiator) (m : BitVec 6) (s : State), s.MemOk → s.mayWrite i Reg.PEER_CTRL → ∃ t u, exec (.peerRetry i m) s = .next t ∧
    Only [.regs, .peers] s t ∧ (∀ n, n < 6 → t.peer n = if m.getLsbD n = true ∧ (s.peer n).state = .refused then
      { s.peer n with state := .hello } else s.peer n) ∧
    exec (.refreshMirror i) s = .next u ∧ Only [.regs, .peers, .out] s u ∧
    (s.peers.mirror.valid = true → (s.peer s.peers.mirror.port).state = .up → (∃ h, u.out = .link s.peers.mirror.port h .refreshReq :: s.out) ∧
      u.peers.mirror = { s.peers.mirror with refreshing := true, dropped := false }) ∧
    (¬ (s.peers.mirror.valid = true ∧ (s.peer s.peers.mirror.port).state = .up) → u.peers = s.peers ∧ u.out = s.out)) ∧
  (∀ (i : Initiator) (d : Word) (s : State), s.MemOk → s.mayWrite i Reg.CHIP_COORD → ∃ t, exec (.chipCoordWrite i d) s = .next t ∧
    (Reg.CHIP_COORD ∉ s.wo → Only [.regs, .wo, .peers] s t ∧ t.peers = { s.peers with coord := some (BitVec.ofNat 14 d.toNat) } ∧
      Reg.CHIP_COORD ∈ t.wo) ∧
    (Reg.CHIP_COORD ∈ s.wo → WriteLogged s t i Reg.CHIP_COORD 1)) ∧
  (∀ (i : Initiator) (s : State), s.MemOk → s.mayWrite i Reg.SAFETY_CTRL → ∃ t u, exec (.safetyResume i) s = .next t ∧
    (s.safety.state = .normal ∨ s.safety.state = .degraded → Only [.regs, .safety] s t ∧ (∀ p, t.rget p = s.rget p) ∧
      t.safety = { s.safety with resumeAsked := s.safety.hbStopped }) ∧
    (s.safety.state ≠ .normal → s.safety.state ≠ .degraded → t.safety.resumeAsked = s.safety.resumeAsked ∧ t.safety.hbRun = s.safety.hbRun ∧
      t.rget Reg.LATE_WRITES = satAdd32 (s.rget Reg.LATE_WRITES) 1) ∧
    exec (.forceHold i) s = .next u ∧ (s.hold = true → Only [.regs] s u ∧ ∀ p, u.rget p = s.rget p) ∧
    (s.hold = false → u.safety.state = .safeHold ∧ u.safety.holdCause = 7 ∧ u.safety.hbRun = (s.safety.hbStopped && s.safety.hbRun))) ∧
  (∀ (i : Initiator) (d : Word) (s : State), s.MemOk → s.mayWrite i Reg.FAULT_CLEAR → ∃ t, exec (.faultClear i d) s = .next t ∧
    (s.marked (wbits d 23 16) (wbits d 15 0) = true → s.keeper.clears.length < 16 ∨ (wbits d 23 16, wbits d 15 0) ∈ s.keeper.clears →
      Only [.regs, .keeper] s t ∧ t.keeper = { s.keeper with clears :=
        if (wbits d 23 16, wbits d 15 0) ∈ s.keeper.clears then s.keeper.clears else s.keeper.clears ++ [(wbits d 23 16, wbits d 15 0)] }) ∧
    (s.marked (wbits d 23 16) (wbits d 15 0) = false ∨ (16 ≤ s.keeper.clears.length ∧ (wbits d 23 16, wbits d 15 0) ∉ s.keeper.clears) →
      WriteLogged s t i Reg.FAULT_CLEAR 2))

/-- Anti-rollback, debug, fuses and MARROW_FORGET (R683, R717 to R721, R731 to R733, R750, R758). -/
def Obligations.SecurityFusesAndMarrowCommands : Prop :=
  (∀ (i : Initiator) (s : State), s.MemOk → s.mayWrite i Reg.SEC_CTRL →
    (s.boot.fwSecurity ≤ s.fuses.fwMin → ∃ t, exec (.advanceFw i) s = .next t ∧ Only [.regs] s t ∧ ∀ p, t.rget p = s.rget p) ∧
    (s.fuses.fwMin < s.boot.fwSecurity → ∃ t, exec (.advanceFw i) s = .next t ∧ Only [.regs, .safety, .host, .fuses, .out] s t ∧
      t.fuses = { s.fuses with rollback := t.fuses.rollback } ∧ t.rbit Reg.SEC_EVENTS 5 = true ∧
      (∀ b, b < 128 → t.fuses.rollback.getLsbD b = (s.fuses.rollback.getLsbD b || decide (b < s.boot.fwSecurity))) ∧
      (s.fuses.rollback = BitVec.ofNat 128 (2 ^ s.fuses.fwMin - 1) → s.boot.fwSecurity ≤ 128 → t.fuses.fwMin = s.boot.fwSecurity))) ∧
  (∀ (i : Initiator) (ok : Bool) (s : State), s.MemOk → s.mayWrite i Reg.SEC_CTRL →
    ((s.rget Reg.LIVE_SECURITY_VERSION).toNat ≤ s.keeper.imageMin → ∃ t, exec (.advanceImage i ok) s = .next t ∧ Only [.regs] s t ∧
      ∀ p, t.rget p = s.rget p) ∧
    (s.keeper.imageMin < (s.rget Reg.LIVE_SECURITY_VERSION).toNat →
      (∃ t, exec (.advanceImage i false) s = .next t ∧ t.keeper = s.keeper ∧ t.slot = s.slot ∧ t.safety.keeperBad = true ∧
        t.rget Reg.KEEPER_WRITE_FAILS = satAdd32 (s.rget Reg.KEEPER_WRITE_FAILS) 1) ∧
      (∃ t, exec (.advanceImage i true) s = .next t ∧ t.keeper = { s.keeper with imageMin := (s.rget Reg.LIVE_SECURITY_VERSION).toNat } ∧
        t.rbit Reg.SEC_EVENTS 5 = true ∧
        (∀ m, s.slot.image = some m → m.version < (s.rget Reg.LIVE_SECURITY_VERSION).toNat → s.slot.state ≠ .empty → t.slot = {} ∧
          t.rget Reg.ADMIT_RESULT = nw (2 ^ 31 + 21 * 2 ^ 16)) ∧
        ((∀ m, s.slot.image = some m → (s.rget Reg.LIVE_SECURITY_VERSION).toNat ≤ m.version) → t.slot = s.slot)))) ∧
  (∀ (i : Initiator) (r : BitVec 256) (s : State), s.MemOk → s.mayWrite i Reg.SEC_CTRL → ∃ t, exec (.debugChallenge i r) s = .next t ∧
    (s.fuses.killed = true → Only [.regs] s t ∧ ∀ p, t.rget p = s.rget p) ∧
    (s.fuses.killed = false → Only [.regs, .boot] s t ∧ t.boot = { s.boot with challenge := true } ∧
      (∀ k, k < 8 → t.rget (Reg.DEBUG_CHALLENGE k) = nw (r.toNat / 2 ^ (32 * k))) ∧
      t.rpair (Reg.DEBUG_CHALLENGE 8) (Reg.DEBUG_CHALLENGE 9) = s.fuses.serial.toNat ∧
      t.rget (Reg.DEBUG_CHALLENGE 10) = nw s.keeper.attestCount ∧ ∀ k, 11 ≤ k → k < 16 → t.rget (Reg.DEBUG_CHALLENGE k) = 0)) ∧
  (∀ (i : Initiator) (c g : Bool) (s : State), s.MemOk → s.mayWrite i Reg.SEC_CTRL → ∃ t, exec (.debugUnlock i c g) s = .next t ∧
    t.boot.challenge = false ∧ t.fuses = s.fuses ∧
    (s.fuses.killed = false → (s.inServ = true → s.hold = true) → certOk (s.dread 2 0xFFFE 0 30048) 4 s.fuses = true → c = true → g = true →
      s.boot.challenge = true → s.rbit Reg.SEC_CTRL 0 = false → s.boot.refusals < 3 →
      t.boot = { s.boot with challenge := false, unlocked := true } ∧ t.privileged .debug = true ∧ t.rget Reg.UNLOCK_RESULT = 1 ∧
      t.rbit Reg.SEC_EVENTS 3 = true ∧ t.rbit 0xE04014 31 = true ∧ t.rbit 0xE0401C 31 = true) ∧
    (s.fuses.killed = true ∨ (s.inServ = true ∧ s.hold = false) ∨ certOk (s.dread 2 0xFFFE 0 30048) 4 s.fuses = false ∨ c = false ∨ g = false ∨
        s.boot.challenge = false ∨ s.rbit Reg.SEC_CTRL 0 = true ∨ 3 ≤ s.boot.refusals →
      t.boot = { s.boot with challenge := false, refusals := min 3 (s.boot.refusals + 1) } ∧ t.rbit Reg.SEC_EVENTS 4 = true ∧
      t.rget Reg.LATE_WRITES = satAdd32 (s.rget Reg.LATE_WRITES) 1 ∧ 2 ≤ (t.rget Reg.UNLOCK_RESULT).toNat ∧ (t.rget Reg.UNLOCK_RESULT).toNat ≤ 8) ∧
    (s.fuses.killed = true → t.rget Reg.UNLOCK_RESULT = 2) ∧
    (s.fuses.killed = false → s.inServ = true → s.hold = false → t.rget Reg.UNLOCK_RESULT = 3)) ∧
  (∀ (i : Initiator) (s : State), s.MemOk → s.mayWrite i Reg.FUSE_CTRL → ∃ t, exec (.fuseProgram i) s = .next t ∧ t.fuses = s.fuses ∧
    (s.boot.programming.isSome → WriteLogged s t i Reg.FUSE_CTRL 2) ∧
    (s.boot.programming = none → s.rbit Reg.FUSE_CTRL 0 = true → Only [.regs] s t ∧ ∀ p, t.rget p = s.rget p) ∧
    (s.boot.programming = none → s.rbit Reg.FUSE_CTRL 0 = false →
      (s.rbits Reg.FUSE_PROGRAM 1 0 = 1 → s.fuses.customer = 0 → s.rget Reg.FUSE_PROGRAM_VALUE ≠ 0 → Only [.regs, .boot] s t ∧
        t.boot = { s.boot with programming := some (1, s.rget Reg.FUSE_PROGRAM_VALUE) }) ∧
      (s.rbits Reg.FUSE_PROGRAM 1 0 = 1 → s.fuses.customer ≠ 0 ∨ s.rget Reg.FUSE_PROGRAM_VALUE = 0 → WriteLogged s t i Reg.FUSE_CTRL 2) ∧
      (s.rbits Reg.FUSE_PROGRAM 1 0 = 2 → s.rget Reg.FUSE_PROGRAM_VALUE = 0x4B494C4C → Only [.regs, .boot] s t ∧
        t.boot = { s.boot with programming := some (2, s.rget Reg.FUSE_PROGRAM_VALUE) }) ∧
      (s.rbits Reg.FUSE_PROGRAM 1 0 = 2 → s.rget Reg.FUSE_PROGRAM_VALUE ≠ 0x4B494C4C → Only [.regs] s t ∧ ∀ p, t.rget p = s.rget p))) ∧
  (∀ (ok : Bool) (s : State), s.boot.programming = none → exec (.fuseProgramDone ok) s = .next s) ∧
  (∀ (f : Nat) (v : Word) (s : State), s.MemOk → s.boot.programming = some (f, v) → ∃ t u, exec (.fuseProgramDone false) s = .next t ∧
    t.fuses = s.fuses ∧ t.boot = { s.boot with programming := none } ∧ t.rbit Reg.FUSE_EVENTS 1 = true ∧
    exec (.fuseProgramDone true) s = .next u ∧ u.boot.programming = none ∧ u.rbit Reg.FUSE_EVENTS 0 = true ∧
    (f = 1 → u.fuses = { s.fuses with customer := v } ∧ u.boot.unlocked = s.boot.unlocked) ∧
    (f ≠ 1 → u.fuses.killed = true ∧ u.fuses.customer = s.fuses.customer ∧ u.boot.unlocked = false ∧ u.privileged .debug = false ∧
      u.rbit 0xE04014 31 = false ∧ u.rbit 0xE0401C 31 = false)) ∧
  (∀ (i : Initiator) (s : State), s.MemOk → s.mayWrite i Reg.POWER_CTRL → ∃ t, exec (.marrowForget i) s = .next t ∧
    Only [.regs, .power, .keeper] s t ∧ (∀ p, t.rget p = s.rget p) ∧ (s.saved = true → t.keeper = s.keeper ∧ t.power = s.power) ∧
    (s.saved = false → t.keeper = { s.keeper with marrow := { s.keeper.marrow with complete := false } } ∧
      (∀ x ∈ t.power.staging, x.2 = emptyPage) ∧
      (mrising 0 s.keeper.marrow.grid → mrising 0 s.power.staging → ∀ k, (mget s.keeper.marrow.grid k).isSome →
        mget t.power.staging k = some emptyPage)))

/-- The mailbox and SMBus (R689, R692, R708 to R710, R725 to R730). -/
def Obligations.MailboxAndSmbusCommands : Prop :=
  (∀ (i : Initiator) (s : State), s.MemOk → s.mayWrite i Reg.MBOX_CTRL → ∃ t u, exec (.outPost i) s = .next t ∧
    (s.boot.mboxBusy = true → WriteLogged s t i Reg.MBOX_CTRL 2) ∧
    (s.boot.mboxBusy = false → Only [.regs, .boot] s t ∧ t.boot = { s.boot with mboxBusy := true } ∧
      t.rget Reg.MBOX_POSTS = satAdd32 (s.rget Reg.MBOX_POSTS) 1 ∧ ∀ p, p ≠ Reg.MBOX_POSTS → t.rget p = s.rget p) ∧
    exec (.inAck i) s = .next u ∧ Only [.regs, .boot] s u ∧ u.boot = { s.boot with mboxFull := false } ∧ ∀ p, u.rget p = s.rget p) ∧
  (∀ (c : Instr) (n : Nat) (k : SlotCheck) (s : State), (c, n) ∈ [(Instr.mboxTelemetry, 1), (.mboxBootTimes, 2), (.mboxFwWrite k, 3)] → s.MemOk →
    (¬ s.up ∨ s.boot.mboxBusy = false ∨ s.boot.mboxFull = true ∨ s.power.stopped = true → exec c s = .next s) ∧
    (wbits (s.rget (Reg.MBOX_OUT 0)) 7 0 ≠ n → 1 ≤ wbits (s.rget (Reg.MBOX_OUT 0)) 7 0 → wbits (s.rget (Reg.MBOX_OUT 0)) 7 0 ≤ 3 → exec c s = .next s) ∧
    (s.up → s.boot.mboxBusy = true → s.boot.mboxFull = false → s.power.stopped = false →
      wbits (s.rget (Reg.MBOX_OUT 0)) 7 0 = n ∨ wbits (s.rget (Reg.MBOX_OUT 0)) 7 0 = 0 ∨ 3 < wbits (s.rget (Reg.MBOX_OUT 0)) 7 0 →
      ∃ t, exec c s = .next t ∧ Only [.regs, .host, .boot, .flash, .out] s t ∧ t.boot = { s.boot with mboxBusy := false, mboxFull := true } ∧
        wbits (t.rget (Reg.MBOX_IN 0)) 7 0 = wbits (s.rget (Reg.MBOX_OUT 0)) 7 0 ∧ t.rbit Reg.GLOBAL_EVENTS 1 = true ∧
        t.rbit Reg.GLOBAL_EVENTS 2 = true ∧
        (wbits (s.rget (Reg.MBOX_OUT 0)) 7 0 ≠ n → wbits (t.rget (Reg.MBOX_IN 0)) 15 8 = 0xFF ∧ t.flash = s.flash))) ∧
  (∀ s : State, s.MemOk → s.up → s.boot.mboxBusy = true → s.boot.mboxFull = false → s.power.stopped = false →
    (wbits (s.rget (Reg.MBOX_OUT 0)) 7 0 = 1 → ∃ t, exec .mboxTelemetry s = .next t ∧ wbits (t.rget (Reg.MBOX_IN 0)) 15 8 = 0 ∧ t.flash = s.flash ∧
      t.rget (Reg.MBOX_IN 1) = s.regValue 0 Reg.DIE_TEMP ∧ t.rget (Reg.MBOX_IN 2) = nw s.power.milliwatts ∧
      t.rget (Reg.MBOX_IN 3) = nw ((lgetD s.power.rails 0 (0, 0)).2 % 65536 + (lgetD s.power.rails 1 (0, 0)).2 % 65536 * 65536) ∧
      t.rget (Reg.MBOX_IN 4) = s.regValue 0 Reg.SAFETY_STATUS) ∧
    (wbits (s.rget (Reg.MBOX_OUT 0)) 7 0 = 2 → ∃ t, exec .mboxBootTimes s = .next t ∧ wbits (t.rget (Reg.MBOX_IN 0)) 15 8 = 0 ∧ t.flash = s.flash ∧
      ∀ n, n < 7 → (t.rget (Reg.MBOX_IN (n + 1))).toNat = min (mgetD s.boot.times (n + 3) 0 / 900) 0xFFFFFFFF)) ∧
  (∀ (k : SlotCheck) (n m : Nat) (b : List Byte) (s : State), s.MemOk → s.up → s.boot.mboxBusy = true → s.boot.mboxFull = false →
    s.power.stopped = false → wbits (s.rget (Reg.MBOX_OUT 0)) 7 0 = 3 → (s.rget (Reg.MBOX_OUT 1)).toNat = n → (s.rget (Reg.MBOX_OUT 2)).toNat = m →
    s.dread 2 0xFFFE 0 (min m 0x40000) = b → ∃ t, exec (.mboxFwWrite k) s = .next t ∧
    (n ≤ 1 → n ≠ s.boot.fwSlot → m ≤ 0x40000 → fwForm b m = true → certOk (lsub b (leAt b 16 4) 30048) 1 s.fuses = true → k.cert = true →
      k.sig = true → s.fuses.fwMin ≤ leAt b 8 4 → wbits (t.rget (Reg.MBOX_IN 0)) 15 8 = 0 ∧ t.flash = cwrite s.flash (n * 0x40000) b) ∧
    (1 < n ∨ n = s.boot.fwSlot ∨ 0x40000 < m ∨ fwForm b m = false ∨ certOk (lsub b (leAt b 16 4) 30048) 1 s.fuses = false ∨ k.cert = false ∨
      k.sig = false ∨ leAt b 8 4 < s.fuses.fwMin → wbits (t.rget (Reg.MBOX_IN 0)) 15 8 = 1 ∧ t.flash = s.flash)) ∧
  (∀ (off : BitVec 32) (d : Word) (p : Bool) (s : State), ¬ s.up → exec .smbReceiveByte s = .next s ∧ exec (.smbReadReg off) s = .next s ∧
    exec (.smbWriteReg off d p) s = .next s ∧ exec .smbTelemetry s = .next s ∧ exec .smbSerial s = .next s ∧ exec .smbAlertResponse s = .next s) ∧
  (∀ s : State, s.up → ∃ t v, exec .smbReceiveByte s = .next t ∧ Only [.out] s t ∧ t.out = .smbus [v] :: s.out ∧
    v.getLsbD 7 = s.inServ ∧ v.getLsbD 6 = decide (s.boot.failCode ≠ 0) ∧ v.toNat / 4 % 16 = s.boot.step % 16 ∧ v.toNat % 4 = s.safety.state.code) ∧
  (∀ (off : BitVec 32) (d : Word) (p : Bool) (s : State), s.up → ¬ (s.reaches .management ∧ 8 ≤ s.boot.step) → ∃ t, Only [.out] s t ∧
    t.out = .smbNack :: s.out ∧ exec (.smbReadReg off) s = .next t ∧ exec (.smbWriteReg off d p) s = .next t ∧ exec .smbTelemetry s = .next t ∧
    exec .smbSerial s = .next t ∧ exec .smbAlertResponse s = .next s) ∧
  (∀ s : State, s.reaches .management → 8 ≤ s.boot.step → ∃ t u, exec .smbTelemetry s = .next t ∧ Only [.out] s t ∧
    t.out = .smbus s.telemetry :: s.out ∧ s.telemetry.length = 16 ∧ exec .smbSerial s = .next u ∧ Only [.out] s u ∧
    u.out = .smbus (leBytes 8 s.fuses.serial.toNat) :: s.out) ∧
  (∀ (off : BitVec 32) (r : RegDef) (s : State), s.MemOk → s.reaches .management → 8 ≤ s.boot.step → off.toNat % 4 = 0 → off.toNat < 0xF00000 →
    findReg off.toNat = some r → ∃ t, exec (.smbReadReg off) s = .next t ∧
    (r.rp = true → s.boot.straps.getLsbD 0 = true → s.rbit Reg.SMB_CFG 0 = false → Only [.out] s t ∧ t.out = .smbNack :: s.out) ∧
    ((r.rp = true → s.boot.straps.getLsbD 0 = false ∨ s.rbit Reg.SMB_CFG 0 = true) →
      (s.fwOpen 0 false 0x02 off.toNat 4 = false → AccessDenied s t .management false off.toNat ∧ t.out.head? = some (.smbus [0, 0, 0, 0])) ∧
      (s.fwOpen 0 false 0x02 off.toNat 4 = true → r.sh = false → Only [.shadows, .out] s t ∧
        t.out = .smbus (leBytes 4 (s.regValue 0 off.toNat).toNat) :: s.out))) ∧
  (∀ (off : BitVec 32) (d : Word) (p : Bool) (s : State), s.MemOk → s.reaches .management → 8 ≤ s.boot.step → ∃ t,
    exec (.smbWriteReg off d p) s = .next t ∧
    (s.boot.straps.getLsbD 0 = true → s.rbit Reg.SMB_CFG 0 = false → WriteLogged s t .management off.toNat 3 ∧ t.out.head? = some .smbNack) ∧
    (s.boot.straps.getLsbD 0 = false ∨ s.rbit Reg.SMB_CFG 0 = true →
      (p = false ∨ off.toNat / 0x100000 = 16 ∨ off.toNat / 0x100000 = 18 → Only [.out] s t ∧ t.out = .smbNack :: s.out) ∧
      (p = true → off.toNat < 0xF00000 → exec (.registerWrite .management (BitVec.ofNat 26 off.toNat) (bytesOf d)) s = .next t))) ∧
  (∀ s : State, s.reaches .management → 8 ≤ s.boot.step → (s.alerting = false → exec .smbAlertResponse s = .next s) ∧
    (s.alerting = true → ∃ t, exec .smbAlertResponse s = .next t ∧ Only [.safety, .out] s t ∧ t.alerting = false ∧
      t.out = .smbus [if s.boot.straps.getLsbD 11 then 0x96 else 0x94] :: s.out))
end

