-- ==== Sys2Proof/Laws/Maps.lean ====
section
/-! SUPPORT. Laws of the sparse tables and of byte storage: reading after writing, and that every operation keeps the canonical form. -/

namespace Sys2Proof.Machine

open Sys2Proof

/-! ### Canonical maps -/

theorem mrising_mono {α : Type} {lo lo' : Nat} (m : Map α) (hl : lo' ≤ lo) (h : mrising lo m = true) : mrising lo' m = true := by
  cases m with
  | nil => rfl
  | cons x m =>
    simp only [mrising, Bool.and_eq_true, decide_eq_true_eq] at h ⊢
    exact ⟨by omega, h.2⟩

theorem mrising_mset {α : Type} (m : Map α) (k : Nat) (v : α) {lo : Nat} (hk : lo ≤ k) (h : mrising lo m = true) :
    mrising lo (mset m k v) = true := by
  induction m generalizing lo with
  | nil => simp [mset, mrising, hk]
  | cons x m ih =>
    obtain ⟨k', v'⟩ := x
    simp only [mrising, Bool.and_eq_true, decide_eq_true_eq] at h
    simp only [mset]
    split
    · next e => subst e; simp [mrising, h.1, h.2]
    · split
      · simp only [mrising, Bool.and_eq_true, decide_eq_true_eq]; exact ⟨hk, by omega, h.2⟩
      · simp only [mrising, Bool.and_eq_true, decide_eq_true_eq]; exact ⟨h.1, ih (by omega) h.2⟩

theorem mrising_merase {α : Type} (m : Map α) (k : Nat) {lo : Nat} (h : mrising lo m = true) : mrising lo (merase m k) = true := by
  induction m generalizing lo with
  | nil => rfl
  | cons x m ih =>
    obtain ⟨k', v'⟩ := x
    simp only [mrising, Bool.and_eq_true, decide_eq_true_eq] at h
    simp only [merase]
    split
    · exact mrising_mono m (by omega) h.2
    · split
      · simp only [mrising, Bool.and_eq_true, decide_eq_true_eq]; exact h
      · simp only [mrising, Bool.and_eq_true, decide_eq_true_eq]; exact ⟨h.1, ih h.2⟩

theorem mem_merase {α : Type} {m : Map α} {k : Nat} {x : Nat × α} (h : x ∈ merase m k) : x ∈ m := by
  induction m with
  | nil => exact h
  | cons y m ih =>
    obtain ⟨k', v'⟩ := y
    simp only [merase] at h
    split at h
    · exact List.mem_cons_of_mem _ h
    · split at h
      · exact h
      · rcases List.mem_cons.mp h with h | h
        · exact h ▸ List.mem_cons_self
        · exact List.mem_cons_of_mem _ (ih h)

theorem mem_mset {α : Type} {m : Map α} {k : Nat} {v : α} {x : Nat × α} (h : x ∈ mset m k v) : x ∈ m ∨ x = (k, v) := by
  induction m with
  | nil => simp only [mset, List.mem_singleton] at h; exact .inr h
  | cons y m ih =>
    obtain ⟨k', v'⟩ := y
    simp only [mset] at h
    split at h
    · rcases List.mem_cons.mp h with h | h
      · exact .inr h
      · exact .inl (List.mem_cons_of_mem _ h)
    · split at h
      · rcases List.mem_cons.mp h with h | h
        · exact .inr h
        · exact .inl h
      · rcases List.mem_cons.mp h with h | h
        · exact .inl (h ▸ List.mem_cons_self)
        · rcases ih h with h | h
          · exact .inl (List.mem_cons_of_mem _ h)
          · exact .inr h

theorem mrising_filter {α : Type} (m : Map α) (p : Nat × α → Bool) {lo : Nat} (h : mrising lo m = true) : mrising lo (m.filter p) = true := by
  induction m generalizing lo with
  | nil => rfl
  | cons x m ih =>
    simp only [mrising, Bool.and_eq_true, decide_eq_true_eq] at h
    simp only [List.filter]
    split
    · simp only [mrising, Bool.and_eq_true, decide_eq_true_eq]; exact ⟨h.1, ih h.2⟩
    · exact ih (mrising_mono m (by omega) h.2)

theorem regsWf_set {m : Map Word} (o : Nat) (w : Word) (h : regsWf m = true) :
    regsWf (if w = regReset o then merase m o else mset m o w) = true := by
  simp only [regsWf, Bool.and_eq_true, List.all_eq_true, decide_eq_true_eq] at h ⊢
  split
  · exact ⟨mrising_merase m o h.1, fun x hx => h.2 x (mem_merase hx)⟩
  · refine ⟨mrising_mset m o w (Nat.zero_le _) h.1, fun x hx => ?_⟩
    rcases mem_mset hx with hx | hx
    · exact h.2 x hx
    · subst hx; assumption

theorem cwf_set {m : List Host.Cell} (a : Nat) (v : Byte) (h : cwf m = true) : cwf (cset m a v) = true := by
  simp only [cwf, mwf, cset, mput, Bool.and_eq_true, List.all_eq_true, decide_eq_true_eq] at h ⊢
  split
  · exact ⟨mrising_merase m a h.1, fun x hx => h.2 x (mem_merase hx)⟩
  · refine ⟨mrising_mset m a v (Nat.zero_le _) h.1, fun x hx => ?_⟩
    rcases mem_mset hx with hx | hx
    · exact h.2 x hx
    · subst hx; assumption

theorem cwf_write {m : List Host.Cell} (a : Nat) (l : List Byte) (h : cwf m = true) : cwf (cwrite m a l) = true := by
  induction l generalizing m a with
  | nil => exact h
  | cons b l ih => exact ih _ (cwf_set a b h)

theorem dataWf_set {m : Map DataStore} (k : Nat) (v : DataStore) (hv : cwf v.bytes = true) (h : dataWf m = true) : dataWf (mset m k v) = true := by
  simp only [dataWf, Bool.and_eq_true, List.all_eq_true] at h ⊢
  refine ⟨mrising_mset m k v (Nat.zero_le _) h.1, fun x hx => ?_⟩
  rcases mem_mset hx with hx | hx
  · exact h.2 x hx
  · subst hx; exact hv

theorem mem_of_mget {α : Type} {m : Map α} {k : Nat} {v : α} (h : mget m k = some v) : (k, v) ∈ m := by
  induction m with
  | nil => simp [mget] at h
  | cons y m ih =>
    obtain ⟨k', v'⟩ := y
    simp only [mget] at h
    split at h
    · next e => subst e; simp only [Option.some.injEq] at h; subst h; exact List.mem_cons_self
    · split at h
      · simp at h
      · exact List.mem_cons_of_mem _ (ih h)

theorem dataWf_mod {m : Map DataStore} (k : Nat) (f : DataStore → DataStore) (hf : ∀ d, cwf d.bytes = true → cwf (f d).bytes = true)
    (h : dataWf m = true) : dataWf (mmod m k f) = true := by
  unfold mmod
  split
  · next v e =>
    refine dataWf_set k _ (hf v ?_) h
    simp only [dataWf, Bool.and_eq_true, List.all_eq_true] at h
    exact h.2 _ (mem_of_mget e)
  · exact h

theorem mrising_map {α : Type} (m : Map α) (f : Nat × α → Nat × α) (hf : ∀ x, (f x).1 = x.1) {lo : Nat} (h : mrising lo m = true) :
    mrising lo (m.map f) = true := by
  induction m generalizing lo with
  | nil => rfl
  | cons x m ih =>
    simp only [mrising, Bool.and_eq_true, decide_eq_true_eq] at h
    simp only [List.map, mrising, Bool.and_eq_true, decide_eq_true_eq, hf]
    exact ⟨h.1, ih h.2⟩

theorem regsWf_filter {m : Map Word} (p : Nat × Word → Bool) (h : regsWf m = true) : regsWf (m.filter p) = true := by
  simp only [regsWf, Bool.and_eq_true, List.all_eq_true] at h ⊢
  exact ⟨mrising_filter m p h.1, fun x hx => h.2 x (List.mem_filter.mp hx).1⟩

theorem dataWf_filter {m : Map DataStore} (p : Nat × DataStore → Bool) (h : dataWf m = true) : dataWf (m.filter p) = true := by
  simp only [dataWf, Bool.and_eq_true, List.all_eq_true] at h ⊢
  exact ⟨mrising_filter m p h.1, fun x hx => h.2 x (List.mem_filter.mp hx).1⟩

theorem dataWf_map {m : Map DataStore} (f : Nat × DataStore → Nat × DataStore) (h1 : ∀ x, (f x).1 = x.1)
    (h2 : ∀ x, (f x).2.bytes = x.2.bytes) (h : dataWf m = true) : dataWf (m.map f) = true := by
  simp only [dataWf, Bool.and_eq_true, List.all_eq_true] at h ⊢
  refine ⟨mrising_map m f h1 h.1, fun x hx => ?_⟩
  obtain ⟨y, hy, rfl⟩ := List.mem_map.mp hx
  rw [h2]
  exact h.2 y hy

/-! ### Reading after writing -/

@[simp] theorem mget_mset_same {α : Type} (m : Map α) (k : Nat) (v : α) : mget (mset m k v) k = some v := by
  induction m with
  | nil => simp [mset, mget]
  | cons x m ih =>
    obtain ⟨k', v'⟩ := x
    simp only [mset]
    split
    · simp [mget]
    · split
      · simp [mget]
      · next h1 h2 => simp [mget, h1, h2, ih]

theorem mget_mset_ne {α : Type} (m : Map α) (k : Nat) (v : α) {j : Nat} (h : j ≠ k) : mget (mset m k v) j = mget m j := by
  induction m with
  | nil => simp only [mset, mget]; split <;> simp_all
  | cons x m ih =>
    obtain ⟨k', v'⟩ := x
    simp only [mset]
    split
    · next e => subst e; simp [mget, Ne.symm h]
    · split
      · next e1 e2 =>
        simp only [mget]
        rw [if_neg (Ne.symm h)]
        by_cases hj : j < k
        · rw [if_pos hj, if_neg (by omega), if_pos (by omega)]
        · rw [if_neg hj]
      · simp only [mget, ih]

theorem mget_of_rising {α : Type} {m : Map α} {lo j : Nat} (h : mrising lo m = true) (hj : j < lo) : mget m j = none := by
  cases m with
  | nil => rfl
  | cons x m =>
    simp only [mrising, Bool.and_eq_true, decide_eq_true_eq] at h
    simp only [mget]
    rw [if_neg (by omega), if_pos (by omega)]

theorem mget_merase_same {α : Type} {m : Map α} {lo : Nat} (k : Nat) (h : mrising lo m = true) : mget (merase m k) k = none := by
  induction m generalizing lo with
  | nil => rfl
  | cons x m ih =>
    obtain ⟨k', v'⟩ := x
    simp only [mrising, Bool.and_eq_true, decide_eq_true_eq] at h
    simp only [merase]
    split
    · next e => subst e; exact mget_of_rising h.2 (Nat.lt_succ_self _)
    · split
      · simp [mget, *]
      · simp only [mget]
        rw [if_neg (by assumption), if_neg (by assumption)]
        exact ih h.2

theorem mget_merase_ne {α : Type} {m : Map α} {lo : Nat} (k : Nat) {j : Nat} (h : mrising lo m = true) (hj : j ≠ k) :
    mget (merase m k) j = mget m j := by
  induction m generalizing lo with
  | nil => rfl
  | cons x m ih =>
    obtain ⟨k', v'⟩ := x
    simp only [mrising, Bool.and_eq_true, decide_eq_true_eq] at h
    simp only [merase]
    split
    · next e =>
      subst e
      simp only [mget]
      rw [if_neg (Ne.symm hj)]
      by_cases hk : j < k'
      · rw [if_pos hk]; exact mget_of_rising h.2 (by omega)
      · rw [if_neg hk]
    · split
      · rfl
      · simp only [mget, ih h.2]

/-- A register reads as it was written, where the stored registers are in their canonical form. -/
theorem State.rget_rset_same {s : State} (h : regsWf s.regs = true) (o : Nat) (w : Word) : (s.rset o w).rget o = w := by
  simp only [regsWf, Bool.and_eq_true] at h
  simp only [State.rget, State.rset, mgetD]
  split
  · next e => rw [mget_merase_same o h.1]; exact e.symm
  · rw [mget_mset_same]; rfl

/-- A write of one register leaves every other as it reads. -/
theorem State.rget_rset_ne {s : State} (h : regsWf s.regs = true) (o : Nat) (w : Word) {p : Nat} (hp : p ≠ o) :
    (s.rset o w).rget p = s.rget p := by
  simp only [regsWf, Bool.and_eq_true] at h
  simp only [State.rget, State.rset, mgetD]
  split
  · rw [mget_merase_ne o h.1 hp]
  · rw [mget_mset_ne _ _ _ hp]

theorem State.regsWf_rset {s : State} (h : regsWf s.regs = true) (o : Nat) (w : Word) : regsWf (s.rset o w).regs = true := regsWf_set o w h

/-- A byte reads as it was written. -/
theorem cget_cset_same {m : List Host.Cell} (h : cwf m = true) (a : Nat) (v : Byte) : cget (cset m a v) a = v := by
  simp only [cwf, mwf, Bool.and_eq_true] at h
  simp only [cget, cset, mput, mgetD]
  split
  · next e => rw [mget_merase_same a h.1]; exact e.symm
  · rw [mget_mset_same]; rfl

/-- A write of one byte leaves every other as it reads. -/
theorem cget_cset_ne {m : List Host.Cell} (h : cwf m = true) (a : Nat) (v : Byte) {b : Nat} (hb : b ≠ a) : cget (cset m a v) b = cget m b := by
  simp only [cwf, mwf, Bool.and_eq_true] at h
  simp only [cget, cset, mput, mgetD]
  split
  · rw [mget_merase_ne a h.1 hb]
  · rw [mget_mset_ne _ _ _ hb]

/-- A write of bytes leaves every byte outside it as it reads. -/
theorem cget_cwrite_out {m : List Host.Cell} (h : cwf m = true) (a : Nat) (l : List Byte) {b : Nat} (hb : b < a ∨ a + l.length ≤ b) :
    cget (cwrite m a l) b = cget m b := by
  induction l generalizing m a with
  | nil => rfl
  | cons x l ih =>
    simp only [List.length_cons] at hb
    simp only [cwrite]
    rw [ih (cwf_set a x h) (a + 1) (by omega), cget_cset_ne h a x (by omega)]

/-- A write of bytes reads back. -/
theorem cget_cwrite_in {m : List Host.Cell} (h : cwf m = true) (a : Nat) (l : List Byte) {i : Nat} (hi : i < l.length) :
    cget (cwrite m a l) (a + i) = l[i] := by
  induction l generalizing m a i with
  | nil => simp at hi
  | cons x l ih =>
    simp only [cwrite]
    cases i with
    | zero => rw [cget_cwrite_out (cwf_set a x h) _ _ (by omega), Nat.add_zero, cget_cset_same h]; rfl
    | succ i =>
      have k := ih (cwf_set a x h) (a + 1) (i := i) (by simpa using hi)
      rw [show a + (i + 1) = a + 1 + i by omega, k]
      rfl

theorem cread_length (m : List Host.Cell) (a n : Nat) : (cread m a n).length = n := by
  induction n generalizing a with
  | zero => rfl
  | succ n ih => simp [cread, ih]

/-! ### Lists of units -/

theorem lgetD_lmod_same {α : Type} (l : List α) (i : Nat) (f : α → α) (d : α) (h : i < l.length) : lgetD (lmod l i f) i d = f (lgetD l i d) := by
  induction l generalizing i with
  | nil => simp at h
  | cons x l ih =>
    cases i with
    | zero => rfl
    | succ i => exact ih i (by simpa using h)

theorem lgetD_lmod_ne {α : Type} (l : List α) (i : Nat) (f : α → α) (d : α) {j : Nat} (h : j ≠ i) : lgetD (lmod l i f) j d = lgetD l j d := by
  induction l generalizing i j with
  | nil => rfl
  | cons x l ih =>
    cases i with
    | zero => cases j with
      | zero => exact absurd rfl h
      | succ j => rfl
    | succ i => cases j with
      | zero => rfl
      | succ j => exact ih i (by omega)



end Sys2Proof.Machine
end

