-- ==== Sys2Proof/Laws/Keeps.lean ====
section
/-! SUPPORT. The relation that every command keeps between the state before and the state after, with its laws. -/

namespace Sys2Proof.Machine

open Sys2Proof

set_option linter.unusedTactic false
set_option linter.unreachableTactic false
set_option linter.unusedSimpArgs false

theorem Keeper.Le.refl (k : Keeper) : Keeper.Le k k := ⟨Nat.le_refl _, Nat.le_refl _, Nat.le_refl _, Nat.le_refl _, Nat.le_refl _⟩

theorem Keeper.Le.trans {k l m : Keeper} (h : Keeper.Le k l) (i : Keeper.Le l m) : Keeper.Le k m :=
  ⟨Nat.le_trans h.1 i.1, Nat.le_trans h.2 i.2, Nat.le_trans h.3 i.3, Nat.le_trans h.4 i.4, Nat.le_trans h.5 i.5⟩

/-- What every command but a reset keeps, from `s` to `t`: the queue, blown fuses, the lock of debug, the promises of `State.Safe`,
SAFE_HOLD, the canonical form of memory, and the monotonic counters. -/
structure Keeps (s t : State) : Prop where
  pending : t.pending = s.pending
  rollback : s.fuses.rollback &&& t.fuses.rollback = s.fuses.rollback
  debug : s.DebugSafe → t.DebugSafe
  safe : s.Safe → t.Safe
  held : s.hold = true → t.hold = true
  mem : s.MemOk → t.MemOk
  keeper : Keeper.Le s.keeper t.keeper
  shape : t.unitCounts = s.unitCounts

theorem Keeps.refl (s : State) : Keeps s s :=
  ⟨rfl, BitVec.and_self, id, id, id, id, .refl _, rfl⟩

theorem Keeps.trans {a b c : State} (h : Keeps a b) (k : Keeps b c) : Keeps a c :=
  ⟨k.1.trans h.1, by
    have h2 := h.2
    have k2 := k.2
    rw [← h2, BitVec.and_assoc, k2], k.3 ∘ h.3, k.4 ∘ h.4, k.5 ∘ h.5, k.6 ∘ h.6, h.7.trans k.7, k.8.trans h.8⟩

/-- What `Keeps` speaks of. -/
def State.promised (s : State) :=
  (s.unitCounts, s.pending, s.regs, s.data, s.flash, s.hostMem, s.fuses, s.boot.unlocked, s.keeper.epochCounter, s.keeper.imageMin, s.keeper.attestCount, s.keeper.logSeq, s.keeper.sweepCounter, s.safety.state, s.safety.hbRun, s.safety.hbStopped, s.safety.safeA, s.safety.safeB)

theorem Keeps.same {a b c : State} (h : Keeps a b) (e : c.promised = b.promised) : Keeps a c := by
  refine h.trans ?_
  simp only [State.promised, Prod.mk.injEq] at e
  obtain ⟨e0, e1, e2, e3, e4, e5, e6, e7, c1, c2, c3, c4, c5, e8, e9, e10, e11, e12⟩ := e
  refine ⟨e1, by rw [e6]; exact BitVec.and_self, ?_, ?_, ?_, ?_, ⟨Nat.le_of_eq c1.symm, Nat.le_of_eq c2.symm, Nat.le_of_eq c3.symm, Nat.le_of_eq c4.symm, Nat.le_of_eq c5.symm⟩, e0⟩
  · simp only [State.DebugSafe, e6, e7]; exact id
  · simp only [State.Safe, State.pinsSafe, State.holdSafe, State.hold, e8, e9, e10, e11, e12]; exact id
  · simp only [State.hold, e8]; exact id
  · simp only [State.MemOk, e2, e3, e4, e5]; exact id

variable {a s : State}

theorem Keeps.frame (h : Keeps a s) {shadows held wo resetN pwrOk tl roots ports fdb ing store com engines descs movers solver live old liveBeat slot place mem peers host power out free} (e : State.unitCounts { s with shadows := shadows, held := held, wo := wo, resetN := resetN, pwrOk := pwrOk, tl := tl, roots := roots, ports := ports, fdb := fdb, ing := ing, store := store, com := com, engines := engines, descs := descs, movers := movers, solver := solver, live := live, old := old, liveBeat := liveBeat, slot := slot, place := place, mem := mem, peers := peers, host := host, power := power, out := out, free := free } = s.unitCounts) :
    Keeps a { s with shadows := shadows, held := held, wo := wo, resetN := resetN, pwrOk := pwrOk, tl := tl, roots := roots, ports := ports, fdb := fdb, ing := ing, store := store, com := com, engines := engines, descs := descs, movers := movers, solver := solver, live := live, old := old, liveBeat := liveBeat, slot := slot, place := place, mem := mem, peers := peers, host := host, power := power, out := out, free := free } := h.same (by simp only [State.promised, e])

theorem Keeps.bootFrame (h : Keeps a s) {b : Boot} (e1 : b.unlocked = s.boot.unlocked) {shadows held wo resetN pwrOk tl roots ports fdb ing store com engines descs movers solver live old liveBeat slot place mem peers host power out free} (e : State.unitCounts { s with shadows := shadows, held := held, wo := wo, resetN := resetN, pwrOk := pwrOk, tl := tl, roots := roots, ports := ports, fdb := fdb, ing := ing, store := store, com := com, engines := engines, descs := descs, movers := movers, solver := solver, live := live, old := old, liveBeat := liveBeat, slot := slot, place := place, mem := mem, peers := peers, host := host, power := power, out := out, free := free } = s.unitCounts) :
    Keeps a { s with boot := b, shadows := shadows, held := held, wo := wo, resetN := resetN, pwrOk := pwrOk, tl := tl, roots := roots, ports := ports, fdb := fdb, ing := ing, store := store, com := com, engines := engines, descs := descs, movers := movers, solver := solver, live := live, old := old, liveBeat := liveBeat, slot := slot, place := place, mem := mem, peers := peers, host := host, power := power, out := out, free := free } := h.same (by simp only [State.promised, State.unitCounts, e1] at e ⊢; simp only [e])

theorem Keeps.safetyFrame (h : Keeps a s) {x : Safety} (e1 : x.state = s.safety.state) (e2 : x.hbRun = s.safety.hbRun) (e3 : x.hbStopped = s.safety.hbStopped)
    (e4 : x.safeA = s.safety.safeA) (e5 : x.safeB = s.safety.safeB) {shadows held wo resetN pwrOk tl roots ports fdb ing store com engines descs movers solver live old liveBeat slot place mem peers host power out free} (e : State.unitCounts { s with shadows := shadows, held := held, wo := wo, resetN := resetN, pwrOk := pwrOk, tl := tl, roots := roots, ports := ports, fdb := fdb, ing := ing, store := store, com := com, engines := engines, descs := descs, movers := movers, solver := solver, live := live, old := old, liveBeat := liveBeat, slot := slot, place := place, mem := mem, peers := peers, host := host, power := power, out := out, free := free } = s.unitCounts) :
    Keeps a { s with safety := x, shadows := shadows, held := held, wo := wo, resetN := resetN, pwrOk := pwrOk, tl := tl, roots := roots, ports := ports, fdb := fdb, ing := ing, store := store, com := com, engines := engines, descs := descs, movers := movers, solver := solver, live := live, old := old, liveBeat := liveBeat, slot := slot, place := place, mem := mem, peers := peers, host := host, power := power, out := out, free := free } := h.same (by simp only [State.promised, State.unitCounts, e1, e2, e3, e4, e5] at e ⊢; simp only [e])

theorem Keeps.keeperFrame (h : Keeps a s) {k : Keeper} (ek : Keeper.Le s.keeper k) {shadows held wo resetN pwrOk tl roots ports fdb ing store com engines descs movers solver live old liveBeat slot place mem peers host power out free} (e : State.unitCounts { s with shadows := shadows, held := held, wo := wo, resetN := resetN, pwrOk := pwrOk, tl := tl, roots := roots, ports := ports, fdb := fdb, ing := ing, store := store, com := com, engines := engines, descs := descs, movers := movers, solver := solver, live := live, old := old, liveBeat := liveBeat, slot := slot, place := place, mem := mem, peers := peers, host := host, power := power, out := out, free := free } = s.unitCounts) :
    Keeps a { s with keeper := k, shadows := shadows, held := held, wo := wo, resetN := resetN, pwrOk := pwrOk, tl := tl, roots := roots, ports := ports, fdb := fdb, ing := ing, store := store, com := com, engines := engines, descs := descs, movers := movers, solver := solver, live := live, old := old, liveBeat := liveBeat, slot := slot, place := place, mem := mem, peers := peers, host := host, power := power, out := out, free := free } :=
  Keeps.frame (s := { s with keeper := k }) (h.trans ⟨rfl, BitVec.and_self, id, id, id, id, ek, rfl⟩) e

@[simp] theorem lmod_length {β : Type} (l : List β) (i : Nat) (f : β → β) : (lmod l i f).length = l.length := by
  induction l generalizing i with
  | nil => rfl
  | cons x l ih => cases i <;> simp [lmod, ih]

theorem Keeps.foldl {β : Type} {f : State → β → State} {l : List β} (h : Keeps a s)
    (hf : ∀ t x, Keeps a t → Keeps a (f t x)) : Keeps a (l.foldl f s) := by
  induction l generalizing s with
  | nil => exact h
  | cons x l ih => exact ih (hf _ _ h)

theorem Keeps.foldr {β : Type} {f : β → State → State} {l : List β} (h : Keeps a s)
    (hf : ∀ t x, Keeps a t → Keeps a (f x t)) : Keeps a (l.foldr f s) := by
  induction l with
  | nil => exact h
  | cons x l ih => exact hf _ _ ih

theorem Keeps.foldlP {β γ : Type} {f : State × γ → β → State × γ} {l : List β} {p : State × γ} (h : Keeps a p.1)
    (hf : ∀ t x, Keeps a t.1 → Keeps a (f t x).1) : Keeps a (l.foldl f p).1 := by
  induction l generalizing p with
  | nil => exact h
  | cons x l ih => exact ih (hf _ _ h)

theorem Keeps.lfoldIdx {β : Type} {f : State → Nat → β → State} {l : List β} {i : Nat} (h : Keeps a s)
    (hf : ∀ t i x, Keeps a t → Keeps a (f t i x)) : Keeps a (lfoldIdx f s i l) := by
  induction l generalizing s i with
  | nil => exact h
  | cons x l ih => exact ih (hf _ _ _ h)

theorem Keeps.lfoldIdxP {β γ : Type} {f : State × γ → Nat → β → State × γ} {l : List β} {i : Nat} {p : State × γ} (h : Keeps a p.1)
    (hf : ∀ t i x, Keeps a t.1 → Keeps a (f t i x).1) : Keeps a (Sys2Proof.lfoldIdx f p i l).1 := by
  induction l generalizing p i with
  | nil => exact h
  | cons x l ih => exact ih (hf _ _ _ h)

theorem Keeps.ite {c : Prop} [Decidable c] {x y : State} (hx : c → Keeps a x) (hy : ¬ c → Keeps a y) : Keeps a (if c then x else y) := by
  split
  · exact hx ‹_›
  · exact hy ‹_›

/-! ### Critical updates -/

theorem Keeps.safety (h : Keeps a s) {x : Safety} (hh : s.safety.state = .safeHold → x.state = .safeHold)
    (hs : s.Safe → State.Safe { s with safety := x }) : Keeps a { s with safety := x } :=
  h.trans ⟨rfl, BitVec.and_self, id, hs, fun k => by
    simp only [State.hold, decide_eq_true_eq] at k ⊢
    exact hh k, id, .refl _, rfl⟩

theorem Keeps.flash (h : Keeps a s) {m : List Host.Cell} (hm : cwf s.flash = true → cwf m = true) : Keeps a { s with flash := m } :=
  h.trans ⟨rfl, BitVec.and_self, id, id, id, fun k => ⟨k.1, k.2.1, hm k.2.2.1, k.2.2.2⟩, .refl _, rfl⟩

theorem Keeps.fuses (h : Keeps a s) {f : Fuses} (hr : s.fuses.rollback &&& f.rollback = s.fuses.rollback)
    (hk : s.DebugSafe → State.DebugSafe { s with fuses := f }) : Keeps a { s with fuses := f } :=
  h.trans ⟨rfl, hr, hk, id, id, id, .refl _, rfl⟩

theorem Keeps.regs {r : Map Word} (h : Keeps a s) (hr : regsWf s.regs = true → regsWf r = true) : Keeps a { s with regs := r } :=
  h.trans ⟨rfl, BitVec.and_self, id, id, id, fun m => ⟨hr m.1, m.2⟩, .refl _, rfl⟩

theorem Keeps.data {r : Map DataStore} (h : Keeps a s) (hr : dataWf s.data = true → dataWf r = true) : Keeps a { s with data := r } :=
  h.trans ⟨rfl, BitVec.and_self, id, id, id, fun m => ⟨m.1, hr m.2.1, m.2.2⟩, .refl _, rfl⟩

theorem State.rset_keeps (h : Keeps a s) (o : Nat) (w : Word) : Keeps a (s.rset o w) := h.regs (regsWf_set o w)

theorem State.dwrite_keeps (h : Keeps a s) (space set o : Nat) (b : List Byte) : Keeps a (s.dwrite space set o b) :=
  h.data (dataWf_mod _ _ (fun _ hd => cwf_write _ _ hd))

theorem State.hwrite_keeps (h : Keeps a s) (o : Nat) (b : List Byte) : Keeps a (s.hwrite o b) := by
  induction b generalizing s o with
  | nil => exact h
  | cons x l ih =>
    have k : Keeps s { s with hostMem := mset s.hostMem o x } :=
      ⟨rfl, BitVec.and_self, id, id, id, fun m => ⟨m.1, m.2.1, m.2.2.1, mrising_mset _ _ _ (Nat.zero_le _) m.2.2.2⟩, .refl _, rfl⟩
    exact ih (h.trans k) _

theorem State.setWords_keeps (h : Keeps a s) (o n v : Nat) : Keeps a (s.setWords o n v) := by
  induction n generalizing s o v with
  | zero => exact h
  | succ n ih => exact ih (State.rset_keeps h _ _) _ _


/-- A command answers a next state, which keeps what `Keeps` says. -/
def KeepsOut (a : State) (o : Out) : Prop := ∃ t, o = .next t ∧ Keeps a t

theorem KeepsOut.next {a t : State} (h : Keeps a t) : KeepsOut a (.next t) := ⟨t, rfl, h⟩

end Sys2Proof.Machine
end

