-- ==== Sys2Proof/Laws/Keeps1.lean ====
section
/-! SUPPORT. What each operation and command keeps (part 1). -/

namespace Sys2Proof.Machine

open Sys2Proof

set_option linter.unusedTactic false
set_option linter.unreachableTactic false
set_option linter.unusedSimpArgs false

theorem State.onFn_keeps {a s : State} (h : Keeps a s) {x1 x2} : Keeps a (State.onFn s x1 x2) := by
  unfold State.onFn
  try dsimp only
  with_reducible repeat' first | assumption | fail_if_no_progress (apply Keeps.frame; rotate_left; (first | rfl | focus (simp only [State.unitCounts, lmod_length, lput, List.length_map, List.length_zipIdx]; done)))

theorem State.send_keeps {a s : State} (h : Keeps a s) {x1} : Keeps a (State.send s x1) := by
  unfold State.send
  try dsimp only
  with_reducible repeat' first | assumption | fail_if_no_progress (apply Keeps.frame; rotate_left; (first | rfl | focus (simp only [State.unitCounts, lmod_length, lput, List.length_map, List.length_zipIdx]; done)))

theorem State.msix_keeps {a s : State} (h : Keeps a s) {x1 x2} : Keeps a (State.msix s x1 x2) := by
  unfold State.msix
  try dsimp only
  with_reducible repeat' first | assumption | split | apply State.onFn_keeps | apply State.send_keeps

theorem State.msixBoth_keeps {a s : State} (h : Keeps a s) {x1} : Keeps a (State.msixBoth s x1) := by
  unfold State.msixBoth
  try dsimp only
  with_reducible repeat' first | assumption | apply State.msix_keeps

theorem State.raiseAt_keeps {a s : State} (h : Keeps a s) {x1 x2 x3 x4} : Keeps a (State.raiseAt s x1 x2 x3 x4) := by
  unfold State.raiseAt
  try dsimp only
  with_reducible repeat' first | assumption | split | apply State.rset_keeps | apply State.msixBoth_keeps

theorem State.raise_keeps {a s : State} (h : Keeps a s) {x1 x2} : Keeps a (State.raise s x1 x2) := by
  unfold State.raise
  try dsimp only
  with_reducible repeat' first | assumption | apply State.raiseAt_keeps

theorem State.bump_keeps {a s : State} (h : Keeps a s) {x1 x2} : Keeps a (State.bump s x1 x2) := by
  unfold State.bump
  try dsimp only
  with_reducible repeat' first | assumption | apply State.rset_keeps

theorem State.onMachine_keeps {a s : State} (h : Keeps a s) {x1 x2} : Keeps a (State.onMachine s x1 x2) := by
  unfold State.onMachine
  try dsimp only
  with_reducible repeat' first | assumption | fail_if_no_progress (apply Keeps.frame; rotate_left; (first | rfl | focus (simp only [State.unitCounts, lmod_length, lput, List.length_map, List.length_zipIdx]; done)))

theorem State.abandon_keeps {a s : State} (h : Keeps a s) {x1} : Keeps a (State.abandon s x1) := by
  unfold State.abandon
  try dsimp only
  with_reducible repeat' first | assumption | apply State.raise_keeps | apply State.bump_keeps | apply State.onMachine_keeps

theorem State.abandonCandidate_keeps {a s : State} (h : Keeps a s) : Keeps a (State.abandonCandidate s) := by
  unfold State.abandonCandidate
  try dsimp only
  with_reducible repeat' first | assumption | apply State.raise_keeps | apply State.bump_keeps

theorem State.onSolver_keeps {a s : State} (h : Keeps a s) {x1} : Keeps a (State.onSolver s x1) := by
  unfold State.onSolver
  try dsimp only
  with_reducible repeat' first | assumption | fail_if_no_progress (apply Keeps.frame; rotate_left; (first | rfl | focus (simp only [State.unitCounts, lmod_length, lput, List.length_map, List.length_zipIdx]; done)))

theorem State.rput_keeps {a s : State} (h : Keeps a s) {x1 x2 x3 x4} : Keeps a (State.rput s x1 x2 x3 x4) := by
  unfold State.rput
  try dsimp only
  with_reducible repeat' first | assumption | apply State.rset_keeps

theorem State.abandonSlow_keeps {a s : State} (h : Keeps a s) : Keeps a (State.abandonSlow s) := by
  unfold State.abandonSlow
  try dsimp only
  with_reducible repeat' first | assumption | split | apply State.onSolver_keeps | apply State.rput_keeps | apply State.raise_keeps | apply State.bump_keeps

theorem State.onPeer_keeps {a s : State} (h : Keeps a s) {x1 x2} : Keeps a (State.onPeer s x1 x2) := by
  unfold State.onPeer
  try dsimp only
  with_reducible repeat' first | assumption | fail_if_no_progress (apply Keeps.frame; rotate_left; (first | rfl | focus (simp only [State.unitCounts, lmod_length, lput, List.length_map, List.length_zipIdx]; done)))

theorem State.noteNb_keeps {a s : State} (h : Keeps a s) {x1 x2} : Keeps a (State.noteNb s x1 x2) := by
  unfold State.noteNb
  try dsimp only
  with_reducible repeat' first | assumption | apply State.onPeer_keeps

theorem State.onDest_keeps {a s : State} (h : Keeps a s) {x1 x2} : Keeps a (State.onDest s x1 x2) := by
  unfold State.onDest
  try dsimp only
  with_reducible repeat' first | assumption | fail_if_no_progress (apply Keeps.frame; rotate_left; (first | rfl | focus (simp only [State.unitCounts, lmod_length, lput, List.length_map, List.length_zipIdx]; done)))

theorem State.destOn_keeps {a s : State} (h : Keeps a s) {x1} : Keeps a (State.destOn s x1) := by
  unfold State.destOn
  try dsimp only
  with_reducible repeat' first | assumption | split | apply State.onDest_keeps

theorem State.setPair_keeps {a s : State} (h : Keeps a s) {x1 x2 x3} : Keeps a (State.setPair s x1 x2 x3) := by
  unfold State.setPair
  try dsimp only
  with_reducible repeat' first | assumption | apply State.rset_keeps

theorem State.bump64_keeps {a s : State} (h : Keeps a s) {x1 x2 x3} : Keeps a (State.bump64 s x1 x2 x3) := by
  unfold State.bump64
  try dsimp only
  with_reducible repeat' first | assumption | apply State.setPair_keeps

theorem State.sendLink_keeps {a s : State} (h : Keeps a s) {x1 x2} : Keeps a (State.sendLink s x1 x2) := by
  unfold State.sendLink
  try dsimp only
  with_reducible repeat' first | assumption | split | apply State.bump64_keeps | apply State.send_keeps | apply State.onPeer_keeps

theorem State.onBoot_keeps {a s : State} (h : Keeps a s) {f : Boot → Boot} (e : (f s.boot).unlocked = s.boot.unlocked) :
    Keeps a (s.onBoot f) := Keeps.bootFrame h e rfl

theorem State.onSafety_keeps {a s : State} (h : Keeps a s) {f : Safety → Safety} (e1 : (f s.safety).state = s.safety.state)
    (e2 : (f s.safety).hbRun = s.safety.hbRun) (e3 : (f s.safety).hbStopped = s.safety.hbStopped)
    (e4 : (f s.safety).safeA = s.safety.safeA) (e5 : (f s.safety).safeB = s.safety.safeB) : Keeps a (s.onSafety f) :=
  Keeps.safetyFrame h e1 e2 e3 e4 e5 rfl

theorem State.onKeeper_keeps {a s : State} (h : Keeps a s) {f : Keeper → Keeper} (e : Keeper.Le s.keeper (f s.keeper)) :
    Keeps a (s.onKeeper f) := Keeps.keeperFrame h e rfl

theorem State.onMarrow_keeps {a s : State} (h : Keeps a s) {f : Marrow → Marrow} : Keeps a (s.onMarrow f) :=
  State.onKeeper_keeps h ⟨Nat.le_refl _, Nat.le_refl _, Nat.le_refl _, Nat.le_refl _, Nat.le_refl _⟩

theorem State.onPeers_keeps {a s : State} (h : Keeps a s) {f : Peers → Peers} (e : ∀ x, (f x).ports.length = x.ports.length) :
    Keeps a (s.onPeers f) := Keeps.frame h (by simp only [State.unitCounts, e])

theorem State.onCom_keeps {a s : State} (h : Keeps a s) {f : Commit → Commit} (e : ∀ x, (f x).dests.length = x.dests.length) :
    Keeps a (s.onCom f) := Keeps.frame h (by simp only [State.unitCounts, e])

theorem State.onMem_keeps {a s : State} (h : Keeps a s) {f : Memory → Memory} (e : ∀ x, (f x).channels.length = x.channels.length) :
    Keeps a (s.onMem f) := Keeps.frame h (by simp only [State.unitCounts, e])

theorem State.onPlace_keeps {a s : State} (h : Keeps a s) {f : Placement → Placement} (e : ∀ x, (f x).books.length = x.books.length) :
    Keeps a (s.onPlace f) := Keeps.frame h (by simp only [State.unitCounts, e])

theorem State.onHost_keeps {a s : State} (h : Keeps a s) {f : HostQueues → HostQueues} (e : ∀ x, (f x).fns.length = x.fns.length) :
    Keeps a (s.onHost f) := Keeps.frame h (by simp only [State.unitCounts, e])

theorem State.onIng_keeps {a s : State} (h : Keeps a s) {f : Ingest → Ingest} (e : ∀ x, (f x).machines.length = x.machines.length) :
    Keeps a (s.onIng f) := Keeps.frame h (by simp only [State.unitCounts, e])

theorem State.askRefresh_keeps {a s : State} (h : Keeps a s) {x1} : Keeps a (State.askRefresh s x1) := by
  unfold State.askRefresh
  try dsimp only
  with_reducible repeat' first | assumption | focus (intro _; first | rfl | (simp only [lmod_length, lput, List.length_map, List.length_zipIdx]; done)) | apply State.sendLink_keeps | apply State.onPeers_keeps | apply State.onPeer_keeps

theorem State.acceptNb_keeps {a s : State} (h : Keeps a s) {n b} : Keeps a (s.acceptNb n b) := by
  unfold State.acceptNb
  extract_lets s1 s2 s3
  have k1 : Keeps a s1 := State.onPeer_keeps (State.noteNb_keeps h)
  have k2 : Keeps a s2 := State.destOn_keeps (State.raise_keeps (State.sendLink_keeps k1))
  have k3 : Keeps a s3 := Keeps.ite (fun _ => State.askRefresh_keeps k2) (fun _ => k2)
  clear_value s3
  exact Keeps.ite (fun _ => State.sendLink_keeps (State.onPeers_keeps k3 (by intro _; rfl))) (fun _ => k3)

theorem State.complete_keeps {a s : State} (h : Keeps a s) {x1 x2 x3 x4 x5} : Keeps a (State.complete s x1 x2 x3 x4 x5) := by
  unfold State.complete
  try dsimp only
  with_reducible repeat' first | assumption | split | apply State.hwrite_keeps | apply State.onFn_keeps | apply State.rset_keeps | apply State.msix_keeps

theorem State.actItem_keeps {a s : State} (h : Keeps a s) {x1 x2 x3 x4} (h4 : ∀ y0 y1 y2, Keeps a y0 → Keeps a (x4 y0 y1 y2)): Keeps a (State.actItem s x1 x2 x3 x4) := by
  unfold State.actItem
  try dsimp only
  with_reducible repeat' first | assumption | (intro _; intros; try beta_reduce) | split | apply State.onFn_keeps | apply State.complete_keeps | apply h4

theorem State.showForm_keeps {a s : State} (h : Keeps a s) {x1 x2} : Keeps a (State.showForm s x1 x2) := by
  unfold State.showForm
  try dsimp only
  with_reducible repeat' first | assumption | (intro _; intros; try beta_reduce) | apply State.rset_keeps | apply Keeps.foldl

theorem State.onEngine_keeps {a s : State} (h : Keeps a s) {x1 x2} : Keeps a (State.onEngine s x1 x2) := by
  unfold State.onEngine
  try dsimp only
  with_reducible repeat' first | assumption | fail_if_no_progress (apply Keeps.frame; rotate_left; (first | rfl | focus (simp only [State.unitCounts, lmod_length, lput, List.length_map, List.length_zipIdx]; done)))

theorem State.clearShadow_keeps {a s : State} (h : Keeps a s) {x1} : Keeps a (State.clearShadow s x1) := by
  unfold State.clearShadow
  try dsimp only
  with_reducible repeat' first | assumption | apply State.onEngine_keeps

theorem State.emptySlot_keeps {a s : State} (h : Keeps a s) : Keeps a (State.emptySlot s) := by
  unfold State.emptySlot
  try dsimp only
  with_reducible repeat' first | assumption | (intro _; intros; try beta_reduce) | split | apply State.clearShadow_keeps | apply Keeps.foldl | fail_if_no_progress (apply Keeps.frame; rotate_left; (first | rfl | focus (simp only [State.unitCounts, lmod_length, lput, List.length_map, List.length_zipIdx]; done)))

theorem State.refuseImage_keeps {a s : State} (h : Keeps a s) {x1 x2 x3 x4} : Keeps a (State.refuseImage s x1 x2 x3 x4) := by
  unfold State.refuseImage
  try dsimp only
  with_reducible repeat' first | assumption | apply State.rset_keeps | apply State.raise_keeps | apply State.bump_keeps | apply State.emptySlot_keeps

theorem State.onSlot_keeps {a s : State} (h : Keeps a s) {x1} : Keeps a (State.onSlot s x1) := by
  unfold State.onSlot
  try dsimp only
  with_reducible repeat' first | assumption | fail_if_no_progress (apply Keeps.frame; rotate_left; (first | rfl | focus (simp only [State.unitCounts, lmod_length, lput, List.length_map, List.length_zipIdx]; done)))

theorem State.cancelMigrations_keeps {a s : State} (h : Keeps a s) {x1} : Keeps a (State.cancelMigrations s x1) := by
  unfold State.cancelMigrations
  try dsimp only
  with_reducible repeat' first | assumption | (intro _; intros; try beta_reduce) | split | apply State.raise_keeps | apply State.bump_keeps | apply State.clearShadow_keeps | apply Keeps.foldl | fail_if_no_progress (apply Keeps.frame; rotate_left; (first | rfl | focus (simp only [State.unitCounts, lmod_length, lput, List.length_map, List.length_zipIdx]; done)))

theorem State.cancelAllMigrations_keeps {a s : State} (h : Keeps a s) : Keeps a (State.cancelAllMigrations s) := by
  unfold State.cancelAllMigrations
  try dsimp only
  with_reducible repeat' first | assumption | (intro _; intros; try beta_reduce) | split | apply State.cancelMigrations_keeps | apply Keeps.foldl

theorem State.beginArming_keeps {a s : State} (h : Keeps a s) : Keeps a (State.beginArming s) := by
  unfold State.beginArming
  try dsimp only
  with_reducible repeat' first | assumption | split | apply State.cancelAllMigrations_keeps | apply State.onSlot_keeps

theorem State.admitImage_keeps {a s : State} (h : Keeps a s) {x1 x2 x3} : Keeps a (State.admitImage s x1 x2 x3) := by
  unfold State.admitImage
  try dsimp only
  with_reducible repeat' first | assumption | (intro _; intros; try beta_reduce) | split | apply State.rset_keeps | apply State.raise_keeps | apply State.bump_keeps | apply State.onSlot_keeps | apply State.beginArming_keeps | apply Keeps.foldl

theorem State.admitArith_keeps {a s : State} (h : Keeps a s) {x1} : Keeps a (State.admitArith s x1) := by
  unfold State.admitArith
  try dsimp only
  with_reducible repeat' first | assumption | split | apply State.showForm_keeps | apply State.refuseImage_keeps | apply State.admitImage_keeps

theorem State.autoload_keeps {a s : State} (h : Keeps a s) : Keeps a (State.autoload s) := by
  unfold State.autoload
  try dsimp only
  with_reducible repeat' first | assumption | split | apply State.onSlot_keeps | apply State.bump_keeps

theorem State.stepTo_keeps {a s : State} (h : Keeps a s) {x1} : Keeps a (State.stepTo s x1) := by
  unfold State.stepTo
  try dsimp only
  with_reducible repeat' first | assumption | rfl | apply State.onBoot_keeps

theorem State.admitHost_keeps {a s : State} (h : Keeps a s) : Keeps a (State.admitHost s) := by
  unfold State.admitHost
  try dsimp only
  with_reducible repeat' first | assumption | rfl | split | apply State.onBoot_keeps | apply State.autoload_keeps | apply State.stepTo_keeps

theorem State.onTl_keeps {a s : State} (h : Keeps a s) {x1} : Keeps a (State.onTl s x1) := by
  unfold State.onTl
  try dsimp only
  with_reducible repeat' first | assumption | fail_if_no_progress (apply Keeps.frame; rotate_left; (first | rfl | focus (simp only [State.unitCounts, lmod_length, lput, List.length_map, List.length_zipIdx]; done)))

theorem State.advanceBeat_keeps {a s : State} (h : Keeps a s) : Keeps a (State.advanceBeat s) := by
  unfold State.advanceBeat
  try dsimp only
  with_reducible repeat' first | assumption | split | apply State.onTl_keeps

theorem State.logRec_keeps {a s : State} (h : Keeps a s) {x1 x2 x3 x4 x5} : Keeps a (State.logRec s x1 x2 x3 x4 x5) := by
  unfold State.logRec
  try dsimp only
  with_reducible repeat' first | assumption | split | apply State.bump_keeps | fail_if_no_progress (apply Keeps.frame; rotate_left; (first | rfl | focus (simp only [State.unitCounts, lmod_length, lput, List.length_map, List.length_zipIdx]; done))) | fail_if_no_progress (apply Keeps.safetyFrame; rotate_left; rfl; rfl; rfl; rfl; rfl; (first | rfl | focus (simp only [State.unitCounts, lmod_length, lput, List.length_map, List.length_zipIdx]; done)))

theorem Fuses.blowTo_rollback (f : Fuses) (n : Nat) : f.rollback &&& (f.blowTo n).rollback = f.rollback := by
  unfold Fuses.blowTo
  ext i hi
  simp only [BitVec.getElem_and, BitVec.getElem_or]
  cases f.rollback[i] <;> simp

theorem State.advanceFw_keeps {a s : State} (h : Keeps a s) : Keeps a s.advanceFw := by
  unfold State.advanceFw
  split
  · exact h
  · apply State.raise_keeps
    apply State.logRec_keeps
    exact h.fuses (Fuses.blowTo_rollback _ _) id

theorem State.keeperFail_keeps {a s : State} (h : Keeps a s) : Keeps a (State.keeperFail s) := by
  unfold State.keeperFail
  try dsimp only
  with_reducible repeat' first | assumption | rfl | apply State.raise_keeps | apply State.bump_keeps | apply State.onSafety_keeps

theorem State.discardSlot_keeps {a s : State} (h : Keeps a s) : Keeps a (State.discardSlot s) := by
  unfold State.discardSlot
  try dsimp only
  with_reducible repeat' first | assumption | split | apply State.raise_keeps | apply State.refuseImage_keeps

theorem State.advanceImage_keeps {a s : State} (h : Keeps a s) {ok} : Keeps a (s.advanceImage ok) := by
  unfold State.advanceImage
  extract_lets v s1 below
  split
  · exact h
  · next hv =>
    split
    · exact State.keeperFail_keeps h
    · have k1 : Keeps a s1 := State.raise_keeps (State.logRec_keeps (State.onKeeper_keeps h
        ⟨Nat.le_refl _, Nat.le_of_lt (Nat.lt_of_not_le hv), Nat.le_refl _, Nat.le_refl _, Nat.le_refl _⟩))
      exact Keeps.ite (fun _ => State.discardSlot_keeps k1) (fun _ => k1)

theorem State.alertBeat_keeps {a s : State} (h : Keeps a s) : Keeps a (State.alertBeat s) := by
  unfold State.alertBeat
  try dsimp only
  with_reducible repeat' first | assumption | rfl | apply State.onSafety_keeps

theorem State.onStore_keeps {a s : State} (h : Keeps a s) {x1} : Keeps a (State.onStore s x1) := by
  unfold State.onStore
  try dsimp only
  with_reducible repeat' first | assumption | fail_if_no_progress (apply Keeps.frame; rotate_left; (first | rfl | focus (simp only [State.unitCounts, lmod_length, lput, List.length_map, List.length_zipIdx]; done)))

theorem State.lookup_keeps {a s : State} (h : Keeps a s) {x1} : Keeps a (State.lookup s x1).1 := by
  unfold State.lookup
  try dsimp only
  with_reducible repeat' first | assumption | split | apply State.bump_keeps

theorem State.lookup_keeps' {a s t : State} {x1} {r} (e : State.lookup s x1 = (t, r)) (h : Keeps a s) : Keeps a t := by
  have k := State.lookup_keeps h (x1 := x1)
  rw [e] at k
  exact k

theorem State.insertNode_keeps {a s : State} (h : Keeps a s) {x1} : Keeps a (State.insertNode s x1).1 := by
  unfold State.insertNode
  try dsimp only
  with_reducible repeat' first | assumption | split | apply State.onStore_keeps | apply State.raise_keeps | apply State.bump_keeps | fail_if_no_progress (apply Keeps.frame; rotate_left; (first | rfl | focus (simp only [State.unitCounts, lmod_length, lput, List.length_map, List.length_zipIdx]; done)))

theorem State.insertNode_keeps' {a s t : State} {x1} {r} (e : State.insertNode s x1 = (t, r)) (h : Keeps a s) : Keeps a t := by
  have k := State.insertNode_keeps h (x1 := x1)
  rw [e] at k
  exact k

theorem State.ancestors_keeps {a s : State} (h : Keeps a s) {n l k} : Keeps a (State.ancestors n l s k).1 := by
  induction n generalizing l s with
  | zero => exact h
  | succ n ih =>
    unfold State.ancestors
    split
    · exact h
    · dsimp only
      split
      · next heq => exact ih (State.onStore_keeps (State.lookup_keeps' heq h))
      · next heq =>
        split
        · next heq2 => exact ih (State.insertNode_keeps' heq2 (State.lookup_keeps' heq h))
        · next heq2 => exact State.insertNode_keeps' heq2 (State.lookup_keeps' heq h)

theorem State.ancestors_keeps' {a s t : State} {n l k r} (e : State.ancestors n l s k = (t, r)) (h : Keeps a s) : Keeps a t := by
  have x := State.ancestors_keeps h (n := n) (l := l) (k := k)
  rw [e] at x
  exact x

theorem State.mergeStart_keeps {a s : State} (h : Keeps a s) : Keeps a (State.mergeStart s) := by
  unfold State.mergeStart
  try dsimp only
  with_reducible repeat' first | assumption | split | apply State.raise_keeps | apply State.onStore_keeps

theorem State.allocPod_keeps {a s : State} (h : Keeps a s) {x1 x2} : Keeps a (State.allocPod s x1 x2).1 := by
  unfold State.allocPod
  try dsimp only
  with_reducible repeat' first | assumption | split | apply State.ancestors_keeps | refine State.ancestors_keeps' (by assumption) ?_ | apply State.insertNode_keeps | refine State.insertNode_keeps' (by assumption) ?_ | apply State.mergeStart_keeps | apply State.bump_keeps | apply State.onStore_keeps | fail_if_no_progress (apply Keeps.frame; rotate_left; (first | rfl | focus (simp only [State.unitCounts, lmod_length, lput, List.length_map, List.length_zipIdx]; done)))

theorem State.allocPod_keeps' {a s t : State} {x1 x2} {r} (e : State.allocPod s x1 x2 = (t, r)) (h : Keeps a s) : Keeps a t := by
  have k := State.allocPod_keeps h (x1 := x1) (x2 := x2)
  rw [e] at k
  exact k

theorem State.announceImage_keeps {a s : State} (h : Keeps a s) : Keeps a (State.announceImage s) := by
  unfold State.announceImage
  try dsimp only
  with_reducible repeat' first | assumption | (intro _; intros; try beta_reduce) | split | apply State.sendLink_keeps | apply State.onPeer_keeps | apply Keeps.foldl

theorem State.reply_keeps {a s : State} (h : Keeps a s) {x1} : Keeps a (State.reply s x1) := by
  unfold State.reply
  try dsimp only
  with_reducible repeat' first | assumption | rfl | apply State.raise_keeps | apply State.onBoot_keeps | apply State.rset_keeps

theorem State.answer_keeps {a s : State} (h : Keeps a s) {x1 x2} (h2 : ∀ y0, Keeps a y0 → Keeps a (x2 y0)): Keeps a (State.answer s x1 x2) := by
  unfold State.answer
  try dsimp only
  with_reducible repeat' first | assumption | (intro _; intros; try beta_reduce) | split | apply State.reply_keeps | apply h2

theorem State.applyClear_keeps {a s : State} (h : Keeps a s) {x1} : Keeps a (State.applyClear s x1) := by
  unfold State.applyClear
  try dsimp only
  with_reducible repeat' first | assumption | rfl | split | apply State.logRec_keeps | apply State.onKeeper_keeps | exact ⟨by first | exact Nat.le_refl _ | exact Nat.le_add_right _ _ | omega, by first | exact Nat.le_refl _ | exact Nat.le_add_right _ _ | omega, by first | exact Nat.le_refl _ | exact Nat.le_add_right _ _ | omega, by first | exact Nat.le_refl _ | exact Nat.le_add_right _ _ | omega, by first | exact Nat.le_refl _ | exact Nat.le_add_right _ _ | omega⟩

theorem State.onChannel_keeps {a s : State} (h : Keeps a s) {x1 x2} : Keeps a (State.onChannel s x1 x2) := by
  unfold State.onChannel
  try dsimp only
  with_reducible repeat' first | assumption | fail_if_no_progress (apply Keeps.frame; rotate_left; (first | rfl | focus (simp only [State.unitCounts, lmod_length, lput, List.length_map, List.length_zipIdx]; done)))

theorem State.applyCopy_keeps {a s : State} (h : Keeps a s) {x1} : Keeps a (State.applyCopy s x1) := by
  unfold State.applyCopy
  try dsimp only
  with_reducible repeat' first | assumption | focus (intro _; first | rfl | (simp only [lmod_length, lput, List.length_map, List.length_zipIdx]; done)) | split | apply State.onChannel_keeps | apply State.raise_keeps | apply State.onMem_keeps

theorem State.countSwitch_keeps {a s : State} (h : Keeps a s) : Keeps a (State.countSwitch s) := by
  unfold State.countSwitch
  try dsimp only
  with_reducible repeat' first | assumption | focus (intro _; first | rfl | (simp only [lmod_length, lput, List.length_map, List.length_zipIdx]; done)) | apply State.onPlace_keeps | apply State.raise_keeps | apply State.bump_keeps

theorem State.noteChanged_keeps {a s : State} (h : Keeps a s) {x1} : Keeps a (State.noteChanged s x1) := by
  unfold State.noteChanged
  try dsimp only
  with_reducible repeat' first | assumption | focus (intro _; first | rfl | (simp only [lmod_length, lput, List.length_map, List.length_zipIdx]; done)) | apply State.onPlace_keeps

theorem State.engIgnored_keeps {a s : State} (h : Keeps a s) {x1 x2} : Keeps a (State.engIgnored s x1 x2) := by
  unfold State.engIgnored
  try dsimp only
  with_reducible repeat' first | assumption | apply State.logRec_keeps

theorem State.markRetired_keeps {a s : State} (h : Keeps a s) {x1 x2} : Keeps a (State.markRetired s x1 x2) := by
  unfold State.markRetired
  try dsimp only
  with_reducible repeat' first | assumption | split | fail_if_no_progress (apply Keeps.frame; rotate_left; (first | rfl | focus (simp only [State.unitCounts, lmod_length, lput, List.length_map, List.length_zipIdx]; done))) | fail_if_no_progress (apply Keeps.keeperFrame; rotate_left; exact ⟨by first | exact Nat.le_refl _ | exact Nat.le_add_right _ _ | omega, by first | exact Nat.le_refl _ | exact Nat.le_add_right _ _ | omega, by first | exact Nat.le_refl _ | exact Nat.le_add_right _ _ | omega, by first | exact Nat.le_refl _ | exact Nat.le_add_right _ _ | omega, by first | exact Nat.le_refl _ | exact Nat.le_add_right _ _ | omega⟩; (first | rfl | focus (simp only [State.unitCounts, lmod_length, lput, List.length_map, List.length_zipIdx]; done))) | fail_if_no_progress (apply Keeps.safetyFrame; rotate_left; rfl; rfl; rfl; rfl; rfl; (first | rfl | focus (simp only [State.unitCounts, lmod_length, lput, List.length_map, List.length_zipIdx]; done)))

theorem State.slotLost_keeps {a s : State} (h : Keeps a s) {x1} : Keeps a (State.slotLost s x1) := by
  unfold State.slotLost
  try dsimp only
  with_reducible repeat' first | assumption | split | apply State.raise_keeps | apply State.bump_keeps | fail_if_no_progress (apply Keeps.frame; rotate_left; (first | rfl | focus (simp only [State.unitCounts, lmod_length, lput, List.length_map, List.length_zipIdx]; done)))

theorem State.onBook_keeps {a s : State} (h : Keeps a s) {x1 x2} : Keeps a (State.onBook s x1 x2) := by
  unfold State.onBook
  try dsimp only
  with_reducible repeat' first | assumption | fail_if_no_progress (apply Keeps.frame; rotate_left; (first | rfl | focus (simp only [State.unitCounts, lmod_length, lput, List.length_map, List.length_zipIdx]; done)))

theorem State.retireEng_keeps {a s : State} (h : Keeps a s) {x1} : Keeps a (State.retireEng s x1) := by
  unfold State.retireEng
  try dsimp only
  with_reducible repeat' first | assumption | split | apply State.engIgnored_keeps | apply State.onEngine_keeps | apply State.markRetired_keeps | apply State.slotLost_keeps | apply State.onBook_keeps

theorem State.retireFailed_keeps {a s : State} (h : Keeps a s) {x1} : Keeps a (State.retireFailed s x1) := by
  unfold State.retireFailed
  try dsimp only
  with_reducible repeat' first | assumption | split | apply State.retireEng_keeps

theorem State.switchEng_keeps {a s : State} (h : Keeps a s) {x1} : Keeps a (State.switchEng s x1) := by
  unfold State.switchEng
  try dsimp only
  with_reducible repeat' first | assumption | split | apply State.onEngine_keeps | apply State.engIgnored_keeps

theorem State.applyReplacement_keeps {a s : State} (h : Keeps a s) {x1} : Keeps a (State.applyReplacement s x1) := by
  unfold State.applyReplacement
  try dsimp only
  with_reducible repeat' first | assumption | split | apply State.countSwitch_keeps | apply State.noteChanged_keeps | apply State.retireFailed_keeps | apply State.switchEng_keeps

theorem State.stopHeartbeat_keeps {a s : State} (h : Keeps a s) : Keeps a s.stopHeartbeat := by
  unfold State.stopHeartbeat
  dsimp only
  apply State.raise_keeps
  apply State.bump_keeps
  refine h.safety (x := { s.safety with hbRun := false, hbStopped := true, resumeAsked := false, safeA := false, safeB := false }) id ?_
  simp [State.Safe, State.pinsSafe, State.holdSafe, State.hold]

theorem State.queueTo_keeps {a s : State} (h : Keeps a s) {x1 x2} : Keeps a (State.queueTo s x1 x2) := by
  unfold State.queueTo
  try dsimp only
  with_reducible repeat' first | assumption | split | apply State.onDest_keeps

theorem State.queueAll_keeps {a s : State} (h : Keeps a s) {x1} : Keeps a (State.queueAll s x1) := by
  unfold State.queueAll
  try dsimp only
  with_reducible repeat' first | assumption | (intro _; intros; try beta_reduce) | apply State.queueTo_keeps | apply Keeps.foldl

theorem State.close_keeps {a s : State} (h : Keeps a s) {x1} : Keeps a (State.close s x1) := by
  unfold State.close
  try dsimp only
  with_reducible repeat' first | assumption | focus (intro _; first | rfl | (simp only [lmod_length, lput, List.length_map, List.length_zipIdx]; done)) | split | apply State.queueAll_keeps | apply State.raise_keeps | apply State.onCom_keeps

theorem State.logState_keeps {a s : State} (h : Keeps a s) {x1 x2} : Keeps a (State.logState s x1 x2) := by
  unfold State.logState
  try dsimp only
  with_reducible repeat' first | assumption | apply State.logRec_keeps

theorem State.stopHeartbeat_off (s : State) : s.stopHeartbeat.safety.hbRun = false ∧ s.stopHeartbeat.safety.hbStopped = true ∧
    s.stopHeartbeat.safety.safeA = false ∧ s.stopHeartbeat.safety.safeB = false := by
  have k : ∀ (t : State) r i, (t.raise r i).safety = t.safety := by
    intro t r i
    have m : ∀ (u : State) f v, (u.msix f v).safety = u.safety := by
      intro u f v
      unfold State.msix
      dsimp only
      repeat' first | rfl | split
    unfold State.raise State.raiseAt
    dsimp only
    split
    · rfl
    · unfold State.msixBoth
      simp only [m]
      rfl
  unfold State.stopHeartbeat
  dsimp only
  rw [k]
  exact ⟨rfl, rfl, rfl, rfl⟩

theorem State.enterHold_keeps {a s : State} (h : Keeps a s) {x1} : Keeps a (s.enterHold x1) := by
  unfold State.enterHold
  split
  · exact h
  · apply State.raise_keeps
    apply State.raise_keeps
    apply State.logState_keeps
    apply State.discardSlot_keeps
    apply State.close_keeps
    split
    · next hb =>
      refine h.safety (x := { s.safety with state := .safeHold, holdCause := x1, unvSince := none }) (fun _ => rfl) ?_
      simp only [State.Safe, State.pinsSafe, State.holdSafe, State.hold, hb]
      rintro ⟨hp, hq⟩
      cases hr : s.safety.hbRun <;> simp_all
    · obtain ⟨h1, h2, h3, h4⟩ := s.stopHeartbeat_off
      refine (State.stopHeartbeat_keeps h).safety (x := { s.stopHeartbeat.safety with state := .safeHold, holdCause := x1, unvSince := none }) (fun _ => rfl) ?_
      intro _
      simp [State.Safe, State.pinsSafe, State.holdSafe, State.hold, h1, h2, h3, h4]

theorem State.infeasible_keeps {a s : State} (h : Keeps a s) : Keeps a (State.infeasible s) := by
  unfold State.infeasible
  try dsimp only
  with_reducible repeat' first | assumption | apply State.enterHold_keeps | apply State.raise_keeps

theorem State.releaseEng_keeps {a s : State} (h : Keeps a s) {x1} : Keeps a (State.releaseEng s x1) := by
  unfold State.releaseEng
  try dsimp only
  with_reducible repeat' first | assumption | split | apply State.onEngine_keeps | apply State.engIgnored_keeps

theorem State.dropUnits_keeps {a s : State} (h : Keeps a s) {x1} : Keeps a (State.dropUnits s x1) := by
  unfold State.dropUnits
  try dsimp only
  with_reducible repeat' first | assumption | (intro _; intros; try beta_reduce) | split | apply State.onEngine_keeps | apply State.releaseEng_keeps | apply Keeps.foldl

theorem State.suspendUnits_keeps {a s : State} (h : Keeps a s) {x1} : Keeps a (State.suspendUnits s x1) := by
  unfold State.suspendUnits
  try dsimp only
  with_reducible repeat' first | assumption | focus (intro _; first | rfl | (simp only [lmod_length, lput, List.length_map, List.length_zipIdx]; done)) | split | apply State.dropUnits_keeps | apply State.onPlace_keeps | apply State.raise_keeps | apply State.bump_keeps

theorem State.fitLevel_keeps {a s : State} (h : Keeps a s) : Keeps a (State.fitLevel s) := by
  unfold State.fitLevel
  try dsimp only
  with_reducible repeat' first | assumption | focus (intro _; first | rfl | (simp only [lmod_length, lput, List.length_map, List.length_zipIdx]; done)) | split | apply State.onPlace_keeps | apply State.infeasible_keeps | apply State.suspendUnits_keeps

theorem State.joinUnit_keeps {a s : State} (h : Keeps a s) {x1 x2} : Keeps a (State.joinUnit s x1 x2) := by
  unfold State.joinUnit
  try dsimp only
  with_reducible repeat' first | assumption | apply State.noteChanged_keeps | apply State.onEngine_keeps

theorem State.redistribute_keeps {a s : State} (h : Keeps a s) {x1} : Keeps a (State.redistribute s x1) := by
  unfold State.redistribute
  try dsimp only
  with_reducible repeat' first | assumption | focus (intro _; first | rfl | (simp only [lmod_length, lput, List.length_map, List.length_zipIdx]; done)) | (intro _; intros; try beta_reduce) | split | apply State.fitLevel_keeps | apply State.retireFailed_keeps | apply State.onPlace_keeps | apply State.joinUnit_keeps | apply State.countSwitch_keeps | apply State.noteChanged_keeps | apply Keeps.foldl

theorem State.applyFaults_keeps {a s : State} (h : Keeps a s) : Keeps a (State.applyFaults s) := by
  unfold State.applyFaults
  try dsimp only
  with_reducible repeat' first | assumption | focus (intro _; first | rfl | (simp only [lmod_length, lput, List.length_map, List.length_zipIdx]; done)) | (intro _; intros; try beta_reduce) | apply State.onPlace_keeps | apply State.applyReplacement_keeps | apply State.redistribute_keeps | apply State.applyCopy_keeps | apply Keeps.foldl

theorem State.pickTarget_keeps {a s : State} (h : Keeps a s) {x1} : Keeps a (State.pickTarget s x1).1 := by
  unfold State.pickTarget
  try dsimp only
  with_reducible repeat' first | assumption | split | apply State.raise_keeps | apply State.cancelMigrations_keeps

theorem State.pickTarget_keeps' {a s t : State} {x1} {r} (e : State.pickTarget s x1 = (t, r)) (h : Keeps a s) : Keeps a t := by
  have k := State.pickTarget_keeps h (x1 := x1)
  rw [e] at k
  exact k

theorem State.assignShadow_keeps {a s : State} (h : Keeps a s) {x1 x2 x3 x4} : Keeps a (State.assignShadow s x1 x2 x3 x4) := by
  unfold State.assignShadow
  try dsimp only
  with_reducible repeat' first | assumption | split | apply State.onEngine_keeps | apply State.engIgnored_keeps

theorem State.replace_keeps {a s : State} (h : Keeps a s) {x1 x2 x3} : Keeps a (State.replace s x1 x2 x3).1 := by
  unfold State.replace
  try dsimp only
  with_reducible repeat' first | assumption | split | apply State.pickTarget_keeps | refine State.pickTarget_keeps' (by assumption) ?_ | apply State.assignShadow_keeps | fail_if_no_progress (apply Keeps.frame; rotate_left; (first | rfl | focus (simp only [State.unitCounts, lmod_length, lput, List.length_map, List.length_zipIdx]; done)))

theorem State.replace_keeps' {a s t : State} {x1 x2 x3} {r} (e : State.replace s x1 x2 x3 = (t, r)) (h : Keeps a s) : Keeps a t := by
  have k := State.replace_keeps h (x1 := x1) (x2 := x2) (x3 := x3)
  rw [e] at k
  exact k

theorem State.renewReplacements_keeps {a s : State} (h : Keeps a s) : Keeps a (State.renewReplacements s) := by
  unfold State.renewReplacements
  try dsimp only
  with_reducible repeat' first | assumption | focus (intro _; first | rfl | (simp only [lmod_length, lput, List.length_map, List.length_zipIdx]; done)) | (intro _; intros; try beta_reduce) | split | apply State.onPlace_keeps | apply State.clearShadow_keeps | apply State.replace_keeps | refine State.replace_keeps' (by assumption) ?_ | apply State.retireFailed_keeps | apply Keeps.foldl

theorem State.dropReruns_keeps {a s : State} (h : Keeps a s) : Keeps a (State.dropReruns s) := by
  unfold State.dropReruns
  try dsimp only
  with_reducible repeat' first | assumption | (intro _; intros; try beta_reduce) | split | apply State.clearShadow_keeps | apply Keeps.foldl

theorem State.switchTable_keeps {a s : State} (h : Keeps a s) {x1} : Keeps a (State.switchTable s x1) := by
  unfold State.switchTable
  try dsimp only
  with_reducible repeat' first | assumption | (intro _; intros; try beta_reduce) | split | apply State.onStore_keeps | apply Keeps.foldl | apply Keeps.foldlP

theorem State.showLive_keeps {a s : State} (h : Keeps a s) {x1} : Keeps a (State.showLive s x1) := by
  unfold State.showLive
  try dsimp only
  with_reducible repeat' first | assumption | apply State.setWords_keeps | apply State.rset_keeps | apply State.setPair_keeps

theorem dataWf_switch {s : State} (img : Image) (h : dataWf s.data = true) : dataWf (s.switchData img) = true := by
  unfold State.switchData
  dsimp only
  have k : dataWf (s.data.filter (fun (x : Nat × DataStore) => decide (0xFFF0 ≤ x.1 % 65536))) = true := dataWf_filter _ h
  revert k
  generalize s.data.filter (fun (x : Nat × DataStore) => decide (0xFFF0 ≤ x.1 % 65536)) = m
  intro k
  generalize img.body.dataSets = l
  induction l generalizing m with
  | nil => exact k
  | cons d l ih =>
    simp only [List.foldl_cons]
    apply ih
    split
    · exact k
    · exact dataWf_set _ _ rfl k

theorem State.switchImage_keeps {a s : State} (h : Keeps a s) : Keeps a s.switchImage := by
  unfold State.switchImage
  split
  · next img _ _ =>
    extract_lets targets lost s1 s2 s3 ext pl s4 s5
    have k1 : Keeps a s1 := Keeps.foldl h (fun t e k => State.switchEng_keeps k)
    have k2 : Keeps a s2 := Keeps.foldl k1 (fun t e k => by
      split
      · exact State.releaseEng_keeps k
      · exact k)
    have k3 : Keeps a s3 := State.switchTable_keeps (State.abandonSlow_keeps k2)
    clear_value s3
    have k4 : Keeps a s4 := Keeps.frame (s := { s3 with data := s3.switchData img }) (k3.data (dataWf_switch img)) (by simp only [State.unitCounts, List.length_map, List.length_zipIdx]; rfl)
    have k5 : Keeps a s5 := State.emptySlot_keeps (State.bump_keeps (State.onStore_keeps k4))
    exact State.raise_keeps (State.bump_keeps (State.bump_keeps (State.showLive_keeps k5)))
  · exact h

theorem State.modCell_keeps {a s : State} (h : Keeps a s) {x1 x2 x3} : Keeps a (State.modCell s x1 x2 x3) := by
  unfold State.modCell
  try dsimp only
  with_reducible repeat' first | assumption | apply State.onStore_keeps

theorem State.fileEntry_keeps {a s t : State} {x1 x2 x3} (e : State.fileEntry s x1 x2 x3 = some t) (h : Keeps a s) : Keeps a t := by
  unfold State.fileEntry at e
  split at e
  · split at e
    · simp only [Option.some.injEq] at e; subst e; exact State.modCell_keeps h
    · split at e
      · simp at e
      · split at e
        · next heq => simp only [Option.some.injEq] at e; subst e; exact State.modCell_keeps (State.allocPod_keeps' heq h)
        · simp at e
  · split at e
    · split at e
      · simp only [Option.some.injEq] at e; subst e; exact State.onStore_keeps h
      · simp at e
    · split at e
      · next heq =>
        split at e
        · next heq2 => simp only [Option.some.injEq] at e; subst e; exact State.insertNode_keeps' heq2 (State.ancestors_keeps' heq h)
        · simp at e
      · simp at e

theorem State.onPower_keeps {a s : State} (h : Keeps a s) {x1} : Keeps a (State.onPower s x1) := by
  unfold State.onPower
  try dsimp only
  with_reducible repeat' first | assumption | fail_if_no_progress (apply Keeps.frame; rotate_left; (first | rfl | focus (simp only [State.unitCounts, lmod_length, lput, List.length_map, List.length_zipIdx]; done)))

theorem State.restoreEntry_keeps {a s : State} (h : Keeps a s) {x1} : Keeps a (s.restoreEntry x1) := by
  unfold State.restoreEntry
  dsimp only
  split
  · exact State.bump_keeps h
  · split
    · next heq => exact State.onPower_keeps (State.bump_keeps (State.fileEntry_keeps heq h))
    · exact State.bump_keeps h

theorem State.restoreMarrow_keeps {a s : State} (h : Keeps a s) : Keeps a (State.restoreMarrow s) := by
  unfold State.restoreMarrow
  try dsimp only
  with_reducible repeat' first | assumption | (intro _; intros; try beta_reduce) | split | apply State.restoreEntry_keeps | apply State.onSolver_keeps | apply State.onStore_keeps | apply State.rset_keeps | apply State.onPower_keeps | apply State.raise_keeps | apply Keeps.foldl

theorem State.dropCandidates_keeps {a s : State} (h : Keeps a s) {x1} : Keeps a (State.dropCandidates s x1) := by
  unfold State.dropCandidates
  try dsimp only
  with_reducible repeat' first | assumption | split | apply State.raise_keeps | apply State.bump_keeps | apply State.onStore_keeps

theorem State.queueFlits_keeps {a s : State} (h : Keeps a s) {x1 x2 x3} : Keeps a (State.queueFlits s x1 x2 x3) := by
  unfold State.queueFlits
  try dsimp only
  with_reducible repeat' first | assumption | apply State.onPeer_keeps

theorem State.sendMirrorSet_keeps {a s : State} (h : Keeps a s) {x1 x2 x3} : Keeps a (State.sendMirrorSet s x1 x2 x3) := by
  unfold State.sendMirrorSet
  try dsimp only
  with_reducible repeat' first | assumption | (intro _; intros; try beta_reduce) | split | apply State.bump_keeps | apply State.queueFlits_keeps | apply Keeps.foldl | fail_if_no_progress (apply Keeps.frame; rotate_left; (first | rfl | focus (simp only [State.unitCounts, lmod_length, lput, List.length_map, List.length_zipIdx]; done)))

theorem State.sealLayer_keeps {a s : State} (h : Keeps a s) {x1 x2 x3} : Keeps a (State.sealLayer s x1 x2 x3) := by
  unfold State.sealLayer
  try dsimp only
  with_reducible repeat' first | assumption | split | apply State.dropCandidates_keeps | apply State.bump_keeps | apply State.queueAll_keeps | apply State.sendMirrorSet_keeps

theorem State.settleLowered_keeps {a s : State} (h : Keeps a s) : Keeps a (State.settleLowered s) := by
  unfold State.settleLowered
  try dsimp only
  with_reducible repeat' first | assumption | focus (intro _; first | rfl | (simp only [lmod_length, lput, List.length_map, List.length_zipIdx]; done)) | (intro _; intros; try beta_reduce) | apply State.sealLayer_keeps | apply State.onCom_keeps | apply Keeps.foldl

theorem State.applyImage_keeps {a s : State} (h : Keeps a s) : Keeps a (State.applyImage s) := by
  unfold State.applyImage
  try dsimp only
  with_reducible repeat' first | assumption | split | apply State.announceImage_keeps | apply State.renewReplacements_keeps | apply State.dropReruns_keeps | apply State.switchImage_keeps | apply State.cancelAllMigrations_keeps | apply State.restoreMarrow_keeps | apply State.settleLowered_keeps

theorem State.migrateEngine_keeps {a s : State} (h : Keeps a s) {x1 x2} : Keeps a (State.migrateEngine s x1 x2) := by
  unfold State.migrateEngine
  try dsimp only
  with_reducible repeat' first | assumption | split | apply State.slotLost_keeps | apply State.releaseEng_keeps | apply State.clearShadow_keeps | apply State.onEngine_keeps | apply State.switchEng_keeps

theorem State.applyMigration_keeps {a s : State} (h : Keeps a s) {x1} : Keeps a (State.applyMigration s x1) := by
  unfold State.applyMigration
  try dsimp only
  with_reducible repeat' first | assumption | focus (intro _; first | rfl | (simp only [lmod_length, lput, List.length_map, List.length_zipIdx]; done)) | (intro _; intros; try beta_reduce) | apply State.migrateEngine_keeps | apply State.raise_keeps | apply State.bump_keeps | apply State.noteChanged_keeps | apply State.onPlace_keeps | apply Keeps.foldl

theorem State.applyMove_keeps {a s : State} (h : Keeps a s) {x1} : Keeps a (State.applyMove s x1) := by
  unfold State.applyMove
  try dsimp only
  with_reducible repeat' first | assumption | focus (intro _; first | rfl | (simp only [lmod_length, lput, List.length_map, List.length_zipIdx]; done)) | split | apply State.onPlace_keeps

theorem State.applyMigrations_keeps {a s : State} (h : Keeps a s) : Keeps a (State.applyMigrations s) := by
  unfold State.applyMigrations
  try dsimp only
  with_reducible repeat' first | assumption | (intro _; intros; try beta_reduce) | apply State.applyMigration_keeps | apply State.applyMove_keeps | apply Keeps.foldl

theorem State.discardDelta_keeps {a s : State} (h : Keeps a s) {x1} : Keeps a (State.discardDelta s x1) := by
  unfold State.discardDelta
  try dsimp only
  with_reducible repeat' first | assumption | apply State.raise_keeps | apply State.bump_keeps

theorem State.refuseAt_keeps {a s : State} (h : Keeps a s) {x1 x2} : Keeps a (State.refuseAt s x1 x2) := by
  unfold State.refuseAt
  try dsimp only
  with_reducible repeat' first | assumption | split | apply State.onStore_keeps

theorem State.refuseFull_keeps {a s : State} (h : Keeps a s) {x1} : Keeps a (State.refuseFull s x1) := by
  unfold State.refuseFull
  try dsimp only
  with_reducible repeat' first | assumption | focus (intro _; first | rfl | (simp only [lmod_length, lput, List.length_map, List.length_zipIdx]; done)) | apply State.raise_keeps | apply State.bump_keeps | apply State.onCom_keeps

theorem State.placeFor_keeps {a s : State} (h : Keeps a s) {x1 x2} : Keeps a (State.placeFor s x1 x2).1 := by
  unfold State.placeFor
  try dsimp only
  with_reducible repeat' first | assumption | split | apply State.lookup_keeps | refine State.lookup_keeps' (by assumption) ?_ | apply State.allocPod_keeps | refine State.allocPod_keeps' (by assumption) ?_

theorem State.placeFor_keeps' {a s t : State} {x1 x2} {r} (e : State.placeFor s x1 x2 = (t, r)) (h : Keeps a s) : Keeps a t := by
  have k := State.placeFor_keeps h (x1 := x1) (x2 := x2)
  rw [e] at k
  exact k

theorem State.noteLowering_keeps {a s : State} (h : Keeps a s) {x1 x2 x3} : Keeps a (State.noteLowering s x1 x2 x3) := by
  unfold State.noteLowering
  try dsimp only
  with_reducible repeat' first | assumption | rfl | split | apply State.onSafety_keeps

theorem State.podRefused_keeps {a s : State} (h : Keeps a s) : Keeps a (State.podRefused s) := by
  unfold State.podRefused
  try dsimp only
  with_reducible repeat' first | assumption | focus (intro _; first | rfl | (simp only [lmod_length, lput, List.length_map, List.length_zipIdx]; done)) | apply State.onCom_keeps | apply State.raise_keeps | apply State.bump_keeps

theorem State.logDelta_keeps {a s : State} (h : Keeps a s) {x1 x2 x3 x4} : Keeps a (State.logDelta s x1 x2 x3 x4) := by
  unfold State.logDelta
  try dsimp only
  with_reducible repeat' first | assumption | focus (intro _; first | rfl | (simp only [lmod_length, lput, List.length_map, List.length_zipIdx]; done)) | apply State.onCom_keeps

theorem State.applyRecord_keeps {a s : State} (h : Keeps a s) {x1 x2} : Keeps a (State.applyRecord s x1 x2) := by
  unfold State.applyRecord
  try dsimp only
  with_reducible repeat' first | assumption | split | apply State.raise_keeps | apply State.bump_keeps | apply State.discardDelta_keeps | apply State.refuseAt_keeps | apply State.refuseFull_keeps | apply State.placeFor_keeps | refine State.placeFor_keeps' (by assumption) ?_ | apply State.noteLowering_keeps | apply State.podRefused_keeps | apply State.logDelta_keeps | apply State.onStore_keeps | apply State.modCell_keeps

theorem State.onSram_keeps {a s : State} (h : Keeps a s) {x1 x2} : Keeps a (State.onSram s x1 x2) := by
  unfold State.onSram
  try dsimp only
  with_reducible repeat' first | assumption | focus (intro _; first | rfl | (simp only [lmod_length, lput, List.length_map, List.length_zipIdx]; done)) | apply State.onMem_keeps

theorem State.applyRemap_keeps {a s : State} (h : Keeps a s) {x1} : Keeps a (State.applyRemap s x1) := by
  unfold State.applyRemap
  try dsimp only
  with_reducible repeat' first | assumption | split | apply State.onSram_keeps

theorem State.applyRepair_keeps {a s : State} (h : Keeps a s) {x1} : Keeps a (State.applyRepair s x1) := by
  unfold State.applyRepair
  try dsimp only
  with_reducible repeat' first | assumption | split | apply State.onChannel_keeps

theorem State.armFrame_keeps {a s : State} (h : Keeps a s) : Keeps a (State.armFrame s) := by
  unfold State.armFrame
  try dsimp only
  with_reducible repeat' first | assumption | (intro _; intros; try beta_reduce) | split | apply State.assignShadow_keeps | apply State.onSlot_keeps | apply Keeps.foldl | apply Keeps.foldlP

theorem State.assignRechecks_keeps {a s : State} (h : Keeps a s) : Keeps a (State.assignRechecks s) := by
  unfold State.assignRechecks
  try dsimp only
  with_reducible repeat' first | assumption | rfl | (intro _; intros; try beta_reduce) | split | apply State.onSafety_keeps | apply State.assignShadow_keeps | apply Keeps.foldl

theorem State.onPort_keeps {a s : State} (h : Keeps a s) {x1 x2} : Keeps a (State.onPort s x1 x2) := by
  unfold State.onPort
  try dsimp only
  with_reducible repeat' first | assumption | fail_if_no_progress (apply Keeps.frame; rotate_left; (first | rfl | focus (simp only [State.unitCounts, lmod_length, lput, List.length_map, List.length_zipIdx]; done)))

theorem State.egress_keeps {a s : State} (h : Keeps a s) {x1 x2} : Keeps a (State.egress s x1 x2) := by
  unfold State.egress
  try dsimp only
  with_reducible repeat' first | assumption | split | apply State.bump_keeps | apply State.onPort_keeps

theorem State.bridge_keeps {a s : State} (h : Keeps a s) {x1 x2 x3} : Keeps a (State.bridge s x1 x2 x3).1 := by
  unfold State.bridge
  try dsimp only
  with_reducible repeat' first | assumption | (intro _; intros; try beta_reduce) | split | apply State.egress_keeps | apply State.bump_keeps | apply Keeps.foldl | apply Keeps.foldlP

theorem State.bridge_keeps' {a s t : State} {x1 x2 x3} {r} (e : State.bridge s x1 x2 x3 = (t, r)) (h : Keeps a s) : Keeps a t := by
  have k := State.bridge_keeps h (x1 := x1) (x2 := x2) (x3 := x3)
  rw [e] at k
  exact k

theorem State.badFrame_keeps {a s : State} (h : Keeps a s) {x1 x2 x3 x4} : Keeps a (State.badFrame s x1 x2 x3 x4) := by
  unfold State.badFrame
  try dsimp only
  with_reducible repeat' first | assumption | split | apply State.bridge_keeps | refine State.bridge_keeps' (by assumption) ?_ | apply State.bump_keeps

theorem State.beginItem_keeps {a s : State} (h : Keeps a s) {x1 x2} : Keeps a (State.beginItem s x1 x2) := by
  unfold State.beginItem
  try dsimp only
  with_reducible repeat' first | assumption | split | apply State.onFn_keeps

theorem State.migrationShadow_keeps {a s : State} (h : Keeps a s) {x1 x2} : Keeps a (State.migrationShadow s x1 x2) := by
  unfold State.migrationShadow
  try dsimp only
  with_reducible repeat' first | assumption | split | apply State.onEngine_keeps | apply State.assignShadow_keeps

end Sys2Proof.Machine
end

