-- ==== Sys2Proof/Laws/Keeps2.lean ====
section
/-! SUPPORT. What each operation and command keeps (part 2). -/

namespace Sys2Proof.Machine

open Sys2Proof

set_option linter.unusedTactic false
set_option linter.unreachableTactic false
set_option linter.unusedSimpArgs false

theorem State.beginMigration_keeps {a s : State} (h : Keeps a s) {x1} : Keeps a (State.beginMigration s x1) := by
  unfold State.beginMigration
  try dsimp only
  with_reducible repeat' first | assumption | focus (intro _; first | rfl | (simp only [lmod_length, lput, List.length_map, List.length_zipIdx]; done)) | (intro _; intros; try beta_reduce) | apply State.onPlace_keeps | apply State.migrationShadow_keeps | apply Keeps.foldl

theorem State.beginReport_keeps {a s : State} (h : Keeps a s) : Keeps a (State.beginReport s) := by
  unfold State.beginReport
  try dsimp only
  with_reducible repeat' first | assumption | rfl | focus (intro _; first | rfl | (simp only [lmod_length, lput, List.length_map, List.length_zipIdx]; done)) | split | apply State.onHost_keeps | apply State.onKeeper_keeps | exact ⟨by first | exact Nat.le_refl _ | exact Nat.le_add_right _ _ | omega, by first | exact Nat.le_refl _ | exact Nat.le_add_right _ _ | omega, by first | exact Nat.le_refl _ | exact Nat.le_add_right _ _ | omega, by first | exact Nat.le_refl _ | exact Nat.le_add_right _ _ | omega, by first | exact Nat.le_refl _ | exact Nat.le_add_right _ _ | omega⟩

theorem State.beginSave_keeps {a s : State} (h : Keeps a s) : Keeps a (State.beginSave s) := by
  unfold State.beginSave
  try dsimp only
  with_reducible repeat' first | assumption | split | apply State.stopHeartbeat_keeps | apply State.discardSlot_keeps | apply State.onMarrow_keeps | apply State.onPower_keeps | apply State.close_keeps | fail_if_no_progress (apply Keeps.frame; rotate_left; (first | rfl | focus (simp only [State.unitCounts, lmod_length, lput, List.length_map, List.length_zipIdx]; done))) | fail_if_no_progress (apply Keeps.bootFrame; rotate_left; rfl; (first | rfl | focus (simp only [State.unitCounts, lmod_length, lput, List.length_map, List.length_zipIdx]; done)))

theorem State.newEpoch_keeps {a s : State} (h : Keeps a s) : Keeps a (State.newEpoch s).1 := by
  unfold State.newEpoch
  try dsimp only
  with_reducible repeat' first | assumption | fail_if_no_progress (apply Keeps.frame; rotate_left; (first | rfl | focus (simp only [State.unitCounts, lmod_length, lput, List.length_map, List.length_zipIdx]; done))) | fail_if_no_progress (apply Keeps.keeperFrame; rotate_left; exact ⟨by first | exact Nat.le_refl _ | exact Nat.le_add_right _ _ | omega, by first | exact Nat.le_refl _ | exact Nat.le_add_right _ _ | omega, by first | exact Nat.le_refl _ | exact Nat.le_add_right _ _ | omega, by first | exact Nat.le_refl _ | exact Nat.le_add_right _ _ | omega, by first | exact Nat.le_refl _ | exact Nat.le_add_right _ _ | omega⟩; (first | rfl | focus (simp only [State.unitCounts, lmod_length, lput, List.length_map, List.length_zipIdx]; done)))

theorem State.newEpoch_keeps' {a s t : State} {r} (e : State.newEpoch s = (t, r)) (h : Keeps a s) : Keeps a t := by
  have k := State.newEpoch_keeps h
  rw [e] at k
  exact k

theorem State.startHeartbeat_keeps {a s : State} (h : Keeps a s) : Keeps a s.startHeartbeat := by
  unfold State.startHeartbeat
  extract_lets ok
  refine Keeps.ite (fun hc => ?_) (fun _ => State.onSafety_keeps h rfl rfl rfl rfl rfl)
  have h1 := hc.1
  simp only [ok, Bool.and_eq_true, decide_eq_true_eq] at h1
  refine h.safety (x := { s.safety with hbRun := true, hbStopped := false, resumeAsked := false, safeA := true, safeB := false }) id ?_
  intro _
  rcases h1.2 with k | k <;> simp [State.Safe, State.pinsSafe, State.holdSafe, State.hold, k]

theorem State.enterService_keeps {a s : State} (h : Keeps a s) : Keeps a (State.enterService s) := by
  unfold State.enterService
  try dsimp only
  with_reducible repeat' first | assumption | rfl | focus (intro _; first | rfl | (simp only [lmod_length, lput, List.length_map, List.length_zipIdx]; done)) | split | apply State.newEpoch_keeps | refine State.newEpoch_keeps' (by assumption) ?_ | apply State.onTl_keeps | apply State.onBoot_keeps | apply State.onSafety_keeps | apply State.onPeers_keeps | apply State.onCom_keeps | apply State.onMarrow_keeps | apply State.startHeartbeat_keeps | apply State.raise_keeps

theorem State.beginStep11_keeps {a s : State} (h : Keeps a s) : Keeps a (State.beginStep11 s) := by
  unfold State.beginStep11
  try dsimp only
  with_reducible repeat' first | assumption | split | apply State.stepTo_keeps | apply State.enterService_keeps

theorem le_foldl_max (l : List Nat) (m : Nat) : m ≤ l.foldl max m := by
  induction l generalizing m with
  | nil => exact Nat.le_refl _
  | cons x l ih => exact Nat.le_trans (Nat.le_max_left m x) (ih _)

theorem State.beginSweep_keeps {a s : State} (h : Keeps a s) : Keeps a s.beginSweep := by
  unfold State.beginSweep
  apply State.onPower_keeps
  exact State.onKeeper_keeps h ⟨Nat.le_refl _, Nat.le_refl _, Nat.le_refl _, Nat.le_refl _, Nat.le_succ_of_le (le_foldl_max _ _)⟩

theorem State.declare_keeps {a s : State} (h : Keeps a s) {x1 x2 x3 x4 x5} : Keeps a (State.declare s x1 x2 x3 x4 x5) := by
  unfold State.declare
  try dsimp only
  with_reducible repeat' first | assumption | split | apply State.raise_keeps | apply State.bump_keeps | apply State.logRec_keeps | apply State.markRetired_keeps

theorem State.bootDram_keeps {a s : State} (h : Keeps a s) {l} : Keeps a (s.bootDram l) := by
  unfold State.bootDram
  extract_lets out good m s1 s2 lost s3 staging
  apply State.stepTo_keeps
  refine Keeps.data (s := s3) ?_ (dataWf_set _ _ rfl)
  refine Keeps.foldl ?_ (fun t c k => State.raise_keeps (State.declare_keeps k))
  refine State.onMem_keeps ?_ (fun _ => rfl)
  exact Keeps.foldl h (fun t c k => State.onChannel_keeps k)

theorem State.bootFail_keeps {a s : State} (h : Keeps a s) {x1} : Keeps a (State.bootFail s x1) := by
  unfold State.bootFail
  try dsimp only
  with_reducible repeat' first | assumption | rfl | split | apply State.raise_keeps | apply State.onBoot_keeps

theorem State.runFirmware_keeps {a s : State} (h : Keeps a s) {x1 x2} : Keeps a (State.runFirmware s x1 x2) := by
  unfold State.runFirmware
  try dsimp only
  with_reducible repeat' first | assumption | rfl | apply State.onBoot_keeps | apply State.setWords_keeps

theorem State.bootFirmware_keeps {a s : State} (h : Keeps a s) {x1 x2} : Keeps a (State.bootFirmware s x1 x2) := by
  unfold State.bootFirmware
  try dsimp only
  with_reducible repeat' first | assumption | split | apply State.stepTo_keeps | apply State.runFirmware_keeps | apply State.logRec_keeps | apply State.raise_keeps | apply State.bootFail_keeps

theorem State.bootFuses_keeps {a s : State} (h : Keeps a s) {x1} : Keeps a (State.bootFuses s x1) := by
  unfold State.bootFuses
  try dsimp only
  with_reducible repeat' first | assumption | rfl | (intro _; intros; try beta_reduce) | split | apply State.rset_keeps | apply State.stepTo_keeps | apply State.bootFail_keeps | apply State.applyRepair_keeps | apply State.onBoot_keeps | apply Keeps.foldl

theorem State.onRoot_keeps {a s : State} (h : Keeps a s) {x1 x2} : Keeps a (State.onRoot s x1 x2) := by
  unfold State.onRoot
  try dsimp only
  with_reducible repeat' first | assumption | fail_if_no_progress (apply Keeps.frame; rotate_left; (first | rfl | focus (simp only [State.unitCounts, lmod_length, lput, List.length_map, List.length_zipIdx]; done)))

theorem State.readMarrow_keeps {a s : State} (h : Keeps a s) {x1 x2} : Keeps a (State.readMarrow s x1 x2) := by
  unfold State.readMarrow
  try dsimp only
  with_reducible repeat' first | assumption | split | apply State.onPower_keeps | apply State.rset_keeps

theorem State.bootKeeper_keeps {a s : State} (h : Keeps a s) {x1 x2 x3} : Keeps a (State.bootKeeper s x1 x2 x3) := by
  unfold State.bootKeeper
  try dsimp only
  with_reducible repeat' first | assumption | rfl | focus (intro _; first | rfl | (simp only [lmod_length, lput, List.length_map, List.length_zipIdx]; done)) | (intro _; intros; try beta_reduce) | split | apply State.stepTo_keeps | apply State.bootFail_keeps | apply State.onKeeper_keeps | apply State.applyClear_keeps | apply State.applyRepair_keeps | apply State.applyRemap_keeps | apply State.onMem_keeps | apply State.onPort_keeps | apply State.onRoot_keeps | apply State.readMarrow_keeps | apply Keeps.foldl | apply Keeps.foldlP | exact ⟨by first | exact Nat.le_refl _ | exact Nat.le_add_right _ _ | omega, by first | exact Nat.le_refl _ | exact Nat.le_add_right _ _ | omega, by first | exact Nat.le_refl _ | exact Nat.le_add_right _ _ | omega, by first | exact Nat.le_refl _ | exact Nat.le_add_right _ _ | omega, by first | exact Nat.le_refl _ | exact Nat.le_add_right _ _ | omega⟩

theorem State.bootRoots_keeps {a s : State} (h : Keeps a s) {x1} : Keeps a (State.bootRoots s x1) := by
  unfold State.bootRoots
  try dsimp only
  with_reducible repeat' first | assumption | split | apply State.stepTo_keeps | apply State.onRoot_keeps | apply State.enterHold_keeps | apply State.bootFail_keeps

theorem State.budgetBeat_keeps {a s : State} (h : Keeps a s) : Keeps a (State.budgetBeat s) := by
  unfold State.budgetBeat
  try dsimp only
  with_reducible repeat' first | assumption | focus (intro _; first | rfl | (simp only [lmod_length, lput, List.length_map, List.length_zipIdx]; done)) | apply State.onIng_keeps | apply State.rset_keeps

theorem State.cancelSlotCmd_keeps {a s : State} (h : Keeps a s) : Keeps a (State.cancelSlotCmd s) := by
  unfold State.cancelSlotCmd
  try dsimp only
  with_reducible repeat' first | assumption | apply State.discardSlot_keeps

theorem State.challengeDebug_keeps {a s : State} (h : Keeps a s) {x1} : Keeps a (State.challengeDebug s x1) := by
  unfold State.challengeDebug
  try dsimp only
  with_reducible repeat' first | assumption | rfl | split | apply State.onBoot_keeps | apply State.setWords_keeps

theorem State.signalTokens_keeps {a s : State} (h : Keeps a s) {x1 x2 x3 x4} : Keeps a (State.signalTokens s x1 x2 x3 x4) := by
  unfold State.signalTokens
  try dsimp only
  with_reducible repeat' first | assumption | split | fail_if_no_progress (apply Keeps.frame; rotate_left; (first | rfl | focus (simp only [State.unitCounts, lmod_length, lput, List.length_map, List.length_zipIdx]; done)))

theorem State.chanSignal_keeps {a s : State} (h : Keeps a s) {x1 x2} : Keeps a (State.chanSignal s x1 x2) := by
  unfold State.chanSignal
  try dsimp only
  with_reducible repeat' first | assumption | split | apply State.signalTokens_keeps

theorem State.checkRoots_keeps {a s : State} (h : Keeps a s) : Keeps a (State.checkRoots s) := by
  unfold State.checkRoots
  try dsimp only
  with_reducible repeat' first | assumption | split | apply State.enterHold_keeps

theorem State.retarget_keeps {a s : State} (h : Keeps a s) {x1} : Keeps a (State.retarget s x1) := by
  unfold State.retarget
  try dsimp only
  with_reducible repeat' first | assumption | (intro _; intros; try beta_reduce) | split | apply State.pickTarget_keeps | refine State.pickTarget_keeps' (by assumption) ?_ | apply State.assignShadow_keeps | apply Keeps.foldl | fail_if_no_progress (apply Keeps.frame; rotate_left; (first | rfl | focus (simp only [State.unitCounts, lmod_length, lput, List.length_map, List.length_zipIdx]; done)))

theorem State.engPermanent_keeps {a s : State} (h : Keeps a s) {x1 x2 x3} : Keeps a (State.engPermanent s x1 x2 x3) := by
  unfold State.engPermanent
  try dsimp only
  with_reducible repeat' first | assumption | split | apply State.cancelMigrations_keeps | apply State.onEngine_keeps | apply State.retireEng_keeps | apply State.replace_keeps | refine State.replace_keeps' (by assumption) ?_ | apply State.retarget_keeps | apply State.declare_keeps

theorem State.rerun_keeps {a s : State} (h : Keeps a s) {x1 x2} : Keeps a (State.rerun s x1 x2) := by
  unfold State.rerun
  try dsimp only
  with_reducible repeat' first | assumption | split | apply State.assignShadow_keeps

theorem State.engEvent_keeps {a s : State} (h : Keeps a s) {x1 x2} : Keeps a (State.engEvent s x1 x2) := by
  unfold State.engEvent
  try dsimp only
  with_reducible repeat' first | assumption | split | apply State.onEngine_keeps | apply State.logRec_keeps | apply State.raiseAt_keeps | apply State.cancelMigrations_keeps | apply State.engPermanent_keeps | apply State.bump_keeps | apply State.rerun_keeps

theorem State.logChecker_keeps {a s : State} (h : Keeps a s) {x1 x2 x3 x4} : Keeps a (State.logChecker s x1 x2 x3 x4) := by
  unfold State.logChecker
  try dsimp only
  with_reducible repeat' first | assumption | apply State.logRec_keeps

theorem State.notice_keeps {a s : State} (h : Keeps a s) {x1 x2 x3} : Keeps a (State.notice s x1 x2 x3) := by
  unfold State.notice
  try dsimp only
  with_reducible repeat' first | assumption | focus (intro _; first | rfl | (simp only [lmod_length, lput, List.length_map, List.length_zipIdx]; done)) | split | apply State.onCom_keeps

theorem State.releaseDecl_keeps {a s : State} (h : Keeps a s) {x1} : Keeps a (State.releaseDecl s x1) := by
  unfold State.releaseDecl
  try dsimp only
  with_reducible repeat' first | assumption | rfl | split | apply State.onSafety_keeps | apply State.notice_keeps

theorem State.checkerRetire_keeps {a s : State} (h : Keeps a s) {x1 x2 x3 x4} : Keeps a (State.checkerRetire s x1 x2 x3 x4) := by
  unfold State.checkerRetire
  try dsimp only
  with_reducible repeat' first | assumption | rfl | (intro _; intros; try beta_reduce) | split | apply State.engPermanent_keeps | apply State.engEvent_keeps | apply State.logChecker_keeps | apply State.raise_keeps | apply State.bump_keeps | apply State.releaseDecl_keeps | apply State.onSafety_keeps | apply Keeps.foldl

theorem State.cleanDecls_keeps {a s : State} (h : Keeps a s) {x1} : Keeps a (State.cleanDecls s x1) := by
  unfold State.cleanDecls
  try dsimp only
  with_reducible repeat' first | assumption | rfl | (intro _; intros; try beta_reduce) | split | apply State.releaseDecl_keeps | apply State.onSafety_keeps | apply State.notice_keeps | apply Keeps.foldl

theorem State.clearCells_keeps {a s : State} (h : Keeps a s) {x1 x2 x3 x4 x5} : Keeps a (State.clearCells s x1 x2 x3 x4 x5) := by
  unfold State.clearCells
  try dsimp only
  with_reducible repeat' first | assumption | (intro _; intros; try beta_reduce) | split | apply State.logDelta_keeps | apply State.modCell_keeps | apply State.refuseAt_keeps | apply State.refuseFull_keeps | apply Keeps.foldl

theorem State.freeCapture_keeps {a s : State} (h : Keeps a s) {x1} : Keeps a (State.freeCapture s x1) := by
  unfold State.freeCapture
  try dsimp only
  with_reducible repeat' first | assumption | apply State.rput_keeps

theorem State.clearedEvents_keeps {a s : State} (h : Keeps a s) {x1 x2 x3} : Keeps a (State.clearedEvents s x1 x2 x3) := by
  unfold State.clearedEvents
  try dsimp only
  with_reducible repeat' first | assumption | (intro _; intros; try beta_reduce) | split | apply State.rset_keeps | apply State.freeCapture_keeps | apply Keeps.foldl

theorem State.closeEngines_keeps {a s : State} (h : Keeps a s) {x1} : Keeps a (State.closeEngines s x1) := by
  unfold State.closeEngines
  try dsimp only
  with_reducible repeat' first | assumption | focus (intro _; first | rfl | (simp only [lmod_length, lput, List.length_map, List.length_zipIdx]; done)) | apply State.bump_keeps | apply State.onPlace_keeps | fail_if_no_progress (apply Keeps.frame; rotate_left; (first | rfl | focus (simp only [State.unitCounts, lmod_length, lput, List.length_map, List.length_zipIdx]; done)))

theorem State.unhold_keeps {a s : State} (h : Keeps a s) {x1} : Keeps a (State.unhold s x1) := by
  unfold State.unhold
  try dsimp only
  with_reducible repeat' first | assumption | split | apply State.clearShadow_keeps | apply State.onSlot_keeps

theorem State.findTarget_keeps {a s : State} (h : Keeps a s) {x1} : Keeps a (State.findTarget s x1).1 := by
  unfold State.findTarget
  try dsimp only
  with_reducible repeat' first | assumption | split | apply State.pickTarget_keeps | refine State.pickTarget_keeps' (by assumption) ?_ | apply State.assignShadow_keeps | apply State.unhold_keeps

theorem State.findTarget_keeps' {a s t : State} {x1} {r} (e : State.findTarget s x1 = (t, r)) (h : Keeps a s) : Keeps a t := by
  have k := State.findTarget_keeps h (x1 := x1)
  rw [e] at k
  exact k

theorem State.reviewReplacements_keeps {a s : State} (h : Keeps a s) : Keeps a (State.reviewReplacements s) := by
  unfold State.reviewReplacements
  try dsimp only
  with_reducible repeat' first | assumption | focus (intro _; first | rfl | (simp only [lmod_length, lput, List.length_map, List.length_zipIdx]; done)) | (intro _; intros; try beta_reduce) | split | apply State.onPlace_keeps | apply State.findTarget_keeps | refine State.findTarget_keeps' (by assumption) ?_ | apply Keeps.foldl

theorem State.reviewMigrations_keeps {a s : State} (h : Keeps a s) : Keeps a (State.reviewMigrations s) := by
  unfold State.reviewMigrations
  try dsimp only
  with_reducible repeat' first | assumption | focus (intro _; first | rfl | (simp only [lmod_length, lput, List.length_map, List.length_zipIdx]; done)) | (intro _; intros; try beta_reduce) | split | apply State.onPlace_keeps | apply State.cancelMigrations_keeps | apply Keeps.foldl

theorem State.unspill_keeps {a s : State} (h : Keeps a s) : Keeps a (State.unspill s) := by
  unfold State.unspill
  try dsimp only
  with_reducible repeat' first | assumption | split | fail_if_no_progress (apply Keeps.frame; rotate_left; (first | rfl | focus (simp only [State.unitCounts, lmod_length, lput, List.length_map, List.length_zipIdx]; done)))

theorem State.logSuppressed_keeps {a s : State} (h : Keeps a s) : Keeps a (State.logSuppressed s) := by
  unfold State.logSuppressed
  try dsimp only
  with_reducible repeat' first | assumption | rfl | split | apply State.onSafety_keeps | apply State.logRec_keeps

theorem State.closeFrame_keeps {a s : State} (h : Keeps a s) : Keeps a (State.closeFrame s) := by
  unfold State.closeFrame
  try dsimp only
  with_reducible repeat' first | assumption | apply State.onTl_keeps | apply State.reviewReplacements_keeps | apply State.reviewMigrations_keeps | apply State.unspill_keeps | apply State.closeEngines_keeps | apply State.logSuppressed_keeps

theorem State.notCompared_keeps {a s : State} (h : Keeps a s) : Keeps a (State.notCompared s) := by
  unfold State.notCompared
  try dsimp only
  with_reducible repeat' first | assumption | rfl | apply State.onSafety_keeps

theorem State.closeHist_keeps {a s : State} (h : Keeps a s) {x1 x2} : Keeps a (State.closeHist s x1 x2) := by
  unfold State.closeHist
  try dsimp only
  with_reducible repeat' first | assumption | rfl | split | apply State.onSafety_keeps | apply State.bump_keeps | apply State.onStore_keeps | apply State.notCompared_keeps | apply State.raise_keeps

theorem State.onPtp_keeps {a s : State} (h : Keeps a s) {x1} : Keeps a (State.onPtp s x1) := by
  unfold State.onPtp
  try dsimp only
  with_reducible repeat' first | assumption | apply State.onTl_keeps

theorem State.ptpAnnounce_keeps {a s : State} (h : Keeps a s) {x1 x2} : Keeps a (State.ptpAnnounce s x1 x2) := by
  unfold State.ptpAnnounce
  try dsimp only
  with_reducible repeat' first | assumption | split | apply State.onPtp_keeps

theorem State.formMeasurement_keeps {a s : State} (h : Keeps a s) {x1} : Keeps a (State.formMeasurement s x1) := by
  unfold State.formMeasurement
  try dsimp only
  with_reducible repeat' first | assumption | apply State.onTl_keeps

theorem State.ptpMeasurement_keeps {a s : State} (h : Keeps a s) {x1} : Keeps a (State.ptpMeasurement s x1) := by
  unfold State.ptpMeasurement
  try dsimp only
  with_reducible repeat' first | assumption | split | apply State.formMeasurement_keeps

theorem State.ptpOffset_keeps {a s : State} (h : Keeps a s) {x1 x2 x3} : Keeps a (State.ptpOffset s x1 x2 x3) := by
  unfold State.ptpOffset
  try dsimp only
  with_reducible repeat' first | assumption | split | apply State.ptpMeasurement_keeps | apply State.onPtp_keeps

theorem State.ptpReceive_keeps {a s : State} (h : Keeps a s) {x1 x2 x3 x4} : Keeps a (State.ptpReceive s x1 x2 x3 x4) := by
  unfold State.ptpReceive
  try dsimp only
  with_reducible repeat' first | assumption | split | apply State.ptpAnnounce_keeps | apply State.onPtp_keeps | apply State.ptpOffset_keeps

theorem State.watermark_keeps {a s : State} (h : Keeps a s) {x1} : Keeps a (State.watermark s x1) := by
  unfold State.watermark
  try dsimp only
  with_reducible repeat' first | assumption | focus (intro _; first | rfl | (simp only [lmod_length, lput, List.length_map, List.length_zipIdx]; done)) | split | apply State.onIng_keeps | apply State.raise_keeps | apply State.rset_keeps

theorem State.enqueue_keeps {a s : State} (h : Keeps a s) {x1 x2 x3 x4 x5 x6} : Keeps a (State.enqueue s x1 x2 x3 x4 x5 x6) := by
  unfold State.enqueue
  try dsimp only
  with_reducible repeat' first | assumption | focus (intro _; first | rfl | (simp only [lmod_length, lput, List.length_map, List.length_zipIdx]; done)) | split | apply State.raise_keeps | apply State.bump_keeps | apply State.watermark_keeps | apply State.onIng_keeps

theorem State.consume_keeps {a s : State} (h : Keeps a s) {x1 x2 x3 x4} : Keeps a (State.consume s x1 x2 x3 x4) := by
  unfold State.consume
  try dsimp only
  with_reducible repeat' first | assumption | split | apply State.ptpReceive_keeps | apply State.egress_keeps | apply State.enqueue_keeps | apply State.bump_keeps

theorem State.convert_keeps {a s : State} (h : Keeps a s) {x1 x2 x3 x4 x5} : Keeps a (State.convert s x1 x2 x3 x4 x5).1 := by
  unfold State.convert
  try dsimp only
  with_reducible repeat' first | assumption | split | apply State.bump_keeps

theorem State.convert_keeps' {a s t : State} {x1 x2 x3 x4 x5} {r} (e : State.convert s x1 x2 x3 x4 x5 = (t, r)) (h : Keeps a s) : Keeps a t := by
  have k := State.convert_keeps h (x1 := x1) (x2 := x2) (x3 := x3) (x4 := x4) (x5 := x5)
  rw [e] at k
  exact k

theorem State.copyFrame_keeps {a s : State} (h : Keeps a s) : Keeps a (State.copyFrame s) := by
  unfold State.copyFrame
  try dsimp only
  with_reducible repeat' first | assumption | focus (intro _; first | rfl | (simp only [lmod_length, lput, List.length_map, List.length_zipIdx]; done)) | split | apply State.onMem_keeps

theorem State.mergeStop_keeps {a s : State} (h : Keeps a s) : Keeps a (State.mergeStop s) := by
  unfold State.mergeStop
  try dsimp only
  with_reducible repeat' first | assumption | split | apply State.onStore_keeps

theorem State.freePod_keeps {a s : State} (h : Keeps a s) {x1} : Keeps a (State.freePod s x1) := by
  unfold State.freePod
  try dsimp only
  with_reducible repeat' first | assumption | split | apply State.onStore_keeps | apply State.mergeStop_keeps | fail_if_no_progress (apply Keeps.frame; rotate_left; (first | rfl | focus (simp only [State.unitCounts, lmod_length, lput, List.length_map, List.length_zipIdx]; done)))

theorem State.poisonWhere_keeps {a s : State} (h : Keeps a s) {f} : Keeps a (s.poisonWhere f) := by
  have k : ∀ (g : Nat × DataStore → List PoisonSpan), Keeps a { s with data := s.data.map (fun (x : Nat × DataStore) =>
      if x.1 / 65536 ≠ 2 then x else (x.1, { x.2 with poisoned := g x })) } := fun g =>
    h.data (dataWf_map _ (fun x => by split <;> rfl) (fun x => by split <;> rfl))
  unfold State.poisonWhere
  dsimp only
  repeat' first
    | assumption
    | (intro _; intros; try beta_reduce)
    | split
    | with_reducible apply State.bump_keeps
    | with_reducible apply State.freePod_keeps
    | with_reducible apply State.onStore_keeps
    | with_reducible apply State.raise_keeps
    | with_reducible apply Keeps.foldl
    | exact k _

theorem State.spareChannel_keeps {a s : State} (h : Keeps a s) {x1 x2} : Keeps a (State.spareChannel s x1 x2) := by
  unfold State.spareChannel
  try dsimp only
  with_reducible repeat' first | assumption | focus (intro _; first | rfl | (simp only [lmod_length, lput, List.length_map, List.length_zipIdx]; done)) | split | apply State.onChannel_keeps | apply State.onMem_keeps | apply State.enterHold_keeps | apply State.raise_keeps

theorem State.retireChannel_keeps {a s : State} (h : Keeps a s) {x1 x2} : Keeps a (State.retireChannel s x1 x2) := by
  unfold State.retireChannel
  try dsimp only
  with_reducible repeat' first | assumption | focus (intro _; first | rfl | (simp only [lmod_length, lput, List.length_map, List.length_zipIdx]; done)) | (intro _; intros; try beta_reduce) | split | apply State.onMem_keeps | apply State.raise_keeps | apply State.onChannel_keeps | apply State.poisonWhere_keeps | apply State.declare_keeps | apply State.spareChannel_keeps | apply Keeps.foldl | fail_if_no_progress (apply Keeps.frame; rotate_left; (first | rfl | focus (simp only [State.unitCounts, lmod_length, lput, List.length_map, List.length_zipIdx]; done)))

theorem State.countSymbols_keeps {a s : State} (h : Keeps a s) {x1 x2} : Keeps a (State.countSymbols s x1 x2) := by
  unfold State.countSymbols
  try dsimp only
  with_reducible repeat' first | assumption | split | apply State.onChannel_keeps | apply State.logRec_keeps | apply State.retireChannel_keeps

theorem State.eccCapture_keeps {a s : State} (h : Keeps a s) {x1 x2 x3 x4 x5 x6} : Keeps a (State.eccCapture s x1 x2 x3 x4 x5 x6) := by
  unfold State.eccCapture
  try dsimp only
  with_reducible repeat' first | assumption | split | apply State.setPair_keeps | apply State.rset_keeps

theorem State.requestRepair_keeps {a s : State} (h : Keeps a s) {x1 x2} : Keeps a (State.requestRepair s x1 x2) := by
  unfold State.requestRepair
  try dsimp only
  with_reducible repeat' first | assumption | split | apply State.onChannel_keeps

theorem State.corrected_keeps {a s : State} (h : Keeps a s) {x1 x2 x3 x4} : Keeps a (State.corrected s x1 x2 x3 x4) := by
  unfold State.corrected
  try dsimp only
  with_reducible repeat' first | assumption | split | apply State.raise_keeps | apply State.countSymbols_keeps | apply State.eccCapture_keeps | apply State.bump_keeps | apply State.requestRepair_keeps

theorem State.descRefused_keeps {a s : State} (h : Keeps a s) {x1 x2 x3} : Keeps a (State.descRefused s x1 x2 x3) := by
  unfold State.descRefused
  try dsimp only
  with_reducible repeat' first | assumption | split | apply State.raise_keeps | apply State.bump_keeps | apply State.rset_keeps

theorem State.createDesc_keeps {a s : State} (h : Keeps a s) {x1 x2 x3} : Keeps a (State.createDesc s x1 x2 x3) := by
  unfold State.createDesc
  try dsimp only
  with_reducible repeat' first | assumption | split | apply State.complete_keeps | apply State.bump_keeps | apply State.descRefused_keeps | fail_if_no_progress (apply Keeps.frame; rotate_left; (first | rfl | focus (simp only [State.unitCounts, lmod_length, lput, List.length_map, List.length_zipIdx]; done)))

theorem State.debugGrant_keeps {a s : State} (h : Keeps a s) {x1} : Keeps a (State.debugGrant s x1) := by
  unfold State.debugGrant
  try dsimp only
  with_reducible repeat' first | assumption | apply State.rput_keeps

theorem State.declareColumns_keeps {a s : State} (h : Keeps a s) {x1 x2} : Keeps a (State.declareColumns s x1 x2) := by
  unfold State.declareColumns
  try dsimp only
  with_reducible repeat' first | assumption | rfl | (intro _; intros; try beta_reduce) | split | apply State.raise_keeps | apply State.notice_keeps | apply State.bump_keeps | apply State.logChecker_keeps | apply State.onSafety_keeps | apply Keeps.foldl | apply Keeps.foldlP

theorem State.deny_keeps {a s : State} (h : Keeps a s) {x1 x2 x3 x4} : Keeps a (State.deny s x1 x2 x3 x4) := by
  unfold State.deny
  try dsimp only
  with_reducible repeat' first | assumption | split | apply State.bump_keeps | apply State.logRec_keeps | apply State.setPair_keeps | apply State.rset_keeps | apply State.raise_keeps

theorem State.untapPea_keeps {a s : State} (h : Keeps a s) {x1 x2} : Keeps a (State.untapPea s x1 x2) := by
  unfold State.untapPea
  try dsimp only
  with_reducible repeat' first | assumption | rfl | apply State.onSafety_keeps

theorem State.deskewDrop_keeps {a s : State} (h : Keeps a s) {x1 x2 x3} : Keeps a (State.deskewDrop s x1 x2 x3) := by
  unfold State.deskewDrop
  try dsimp only
  with_reducible repeat' first | assumption | apply State.untapPea_keeps | apply State.raise_keeps | apply State.bump_keeps

theorem State.took_keeps {a s : State} (h : Keeps a s) : Keeps a (State.took s) := by
  unfold State.took
  try dsimp only
  with_reducible repeat' first | assumption | fail_if_no_progress (apply Keeps.frame; rotate_left; (first | rfl | focus (simp only [State.unitCounts, lmod_length, lput, List.length_map, List.length_zipIdx]; done)))

theorem State.useVersion_keeps {a s : State} (h : Keeps a s) {x1} : Keeps a (State.useVersion s x1) := by
  unfold State.useVersion
  try dsimp only
  with_reducible repeat' first | assumption | split | apply State.onStore_keeps

theorem State.noteSweep_keeps {a s : State} (h : Keeps a s) {x1 x2} : Keeps a (State.noteSweep s x1 x2) := by
  unfold State.noteSweep
  try dsimp only
  with_reducible repeat' first | assumption | split | apply State.onStore_keeps

theorem State.dropOutside_keeps {a s : State} (h : Keeps a s) {x1} : Keeps a (State.dropOutside s x1) := by
  unfold State.dropOutside
  try dsimp only
  with_reducible repeat' first | assumption | apply State.raise_keeps | apply State.bump_keeps

theorem State.queuePea_keeps {a s : State} (h : Keeps a s) {x1 x2 x3 x4 x5} : Keeps a (State.queuePea s x1 x2 x3 x4 x5) := by
  unfold State.queuePea
  try dsimp only
  with_reducible repeat' first | assumption | split | apply State.onPeer_keeps

theorem State.forwardPea_keeps {a s : State} (h : Keeps a s) {x1 x2 x3 x4} : Keeps a (State.forwardPea s x1 x2 x3 x4) := by
  unfold State.forwardPea
  try dsimp only
  with_reducible repeat' first | assumption | split | apply State.dropOutside_keeps | apply State.bump_keeps | apply State.queuePea_keeps

theorem State.deskewOne_keeps {a s : State} (h : Keeps a s) {x1} : Keeps a (State.deskewOne s x1) := by
  unfold State.deskewOne
  try dsimp only
  with_reducible repeat' first | assumption | (intro _; intros; try beta_reduce) | split | apply State.deskewDrop_keeps | apply State.took_keeps | apply State.useVersion_keeps | apply State.bump_keeps | apply State.noteSweep_keeps | apply State.onStore_keeps | apply State.forwardPea_keeps | apply Keeps.foldl | apply Keeps.foldlP

theorem State.destOff_keeps {a s : State} (h : Keeps a s) {x1} : Keeps a (State.destOff s x1) := by
  unfold State.destOff
  try dsimp only
  with_reducible repeat' first | assumption | apply State.onDest_keeps

theorem State.destroyDesc_keeps {a s : State} (h : Keeps a s) {x1 x2 x3} : Keeps a (State.destroyDesc s x1 x2 x3) := by
  unfold State.destroyDesc
  try dsimp only
  with_reducible repeat' first | assumption | split | apply State.complete_keeps | apply State.descRefused_keeps | fail_if_no_progress (apply Keeps.frame; rotate_left; (first | rfl | focus (simp only [State.unitCounts, lmod_length, lput, List.length_map, List.length_zipIdx]; done)))

theorem State.discardFlit_keeps {a s : State} (h : Keeps a s) {x1} : Keeps a (State.discardFlit s x1) := by
  unfold State.discardFlit
  try dsimp only
  with_reducible repeat' first | assumption | split | apply State.sendLink_keeps | apply State.onPeer_keeps

theorem State.engHard_keeps {a s : State} (h : Keeps a s) {x1 x2} : Keeps a (State.engHard s x1 x2) := by
  unfold State.engHard
  try dsimp only
  with_reducible repeat' first | assumption | split | apply State.retireEng_keeps | apply State.onEngine_keeps | apply State.engPermanent_keeps | apply State.raiseAt_keeps

theorem State.domainFault_keeps {a s : State} (h : Keeps a s) {x1} : Keeps a (State.domainFault s x1) := by
  unfold State.domainFault
  try dsimp only
  with_reducible repeat' first | assumption | split | apply State.enterHold_keeps | apply State.engHard_keeps | apply State.retireChannel_keeps

theorem State.escape_keeps {a s : State} (h : Keeps a s) {x1 x2 x3 x4 x5 x6 x7 x8 x9} : Keeps a (State.escape s x1 x2 x3 x4 x5 x6 x7 x8 x9) := by
  unfold State.escape
  try dsimp only
  with_reducible repeat' first | assumption | split | apply State.raiseAt_keeps | apply State.bump_keeps | apply State.setPair_keeps | apply State.rset_keeps

theorem State.requant_keeps {a s : State} (h : Keeps a s) {x1 x2 x3 x4 x5 x6 x7} : Keeps a (State.requant s x1 x2 x3 x4 x5 x6 x7).1 := by
  unfold State.requant
  try dsimp only
  with_reducible repeat' first | assumption | (intro _; intros; try beta_reduce) | split | apply State.escape_keeps | apply State.took_keeps | apply Keeps.lfoldIdx | apply Keeps.lfoldIdxP

theorem State.requant_keeps' {a s t : State} {x1 x2 x3 x4 x5 x6 x7} {r} (e : State.requant s x1 x2 x3 x4 x5 x6 x7 = (t, r)) (h : Keeps a s) : Keeps a t := by
  have k := State.requant_keeps h (x1 := x1) (x2 := x2) (x3 := x3) (x4 := x4) (x5 := x5) (x6 := x6) (x7 := x7)
  rw [e] at k
  exact k

theorem State.putCtx_keeps {a s : State} (h : Keeps a s) {x1 x2 x3} : Keeps a (State.putCtx s x1 x2 x3) := by
  unfold State.putCtx
  try dsimp only
  with_reducible repeat' first | assumption | split | apply State.onEngine_keeps

theorem State.slotOp_keeps {a s : State} (h : Keeps a s) {x1 x2 x3} : Keeps a (State.slotOp s x1 x2 x3) := by
  unfold State.slotOp
  try dsimp only
  with_reducible repeat' first | assumption | split | apply State.onEngine_keeps | apply State.putCtx_keeps

theorem State.drainRow_keeps {a s : State} (h : Keeps a s) {x1 x2 x3 x4 x5} : Keeps a (State.drainRow s x1 x2 x3 x4 x5) := by
  unfold State.drainRow
  try dsimp only
  with_reducible repeat' first | assumption | split | apply State.requant_keeps | refine State.requant_keeps' (by assumption) ?_ | apply State.onEngine_keeps | apply State.slotOp_keeps

theorem State.dropPea_keeps {a s : State} (h : Keeps a s) {x1 x2} : Keeps a (State.dropPea s x1 x2) := by
  unfold State.dropPea
  try dsimp only
  with_reducible repeat' first | assumption | apply State.onStore_keeps

theorem State.dropWord_keeps {a s : State} (h : Keeps a s) {x1} : Keeps a (State.dropWord s x1) := by
  unfold State.dropWord
  try dsimp only
  with_reducible repeat' first | assumption | apply State.bump_keeps

theorem State.hqRaise_keeps {a s : State} (h : Keeps a s) {x1 x2 x3} : Keeps a (State.hqRaise s x1 x2 x3) := by
  unfold State.hqRaise
  try dsimp only
  with_reducible repeat' first | assumption | split | apply State.rset_keeps | apply State.msix_keeps

theorem State.xlateCapture_keeps {a s : State} (h : Keeps a s) {x1 x2 x3 x4} : Keeps a (State.xlateCapture s x1 x2 x3 x4) := by
  unfold State.xlateCapture
  try dsimp only
  with_reducible repeat' first | assumption | split | apply State.raise_keeps | apply State.bump_keeps | apply State.setPair_keeps | apply State.rset_keeps

theorem State.dumpEntry_keeps {a s : State} (h : Keeps a s) {x1 x2} : Keeps a (State.dumpEntry s x1 x2).1 := by
  unfold State.dumpEntry
  try dsimp only
  with_reducible repeat' first | assumption | split | apply State.hwrite_keeps | apply State.hqRaise_keeps | apply State.xlateCapture_keeps

theorem State.dumpEntry_keeps' {a s t : State} {x1 x2} {r} (e : State.dumpEntry s x1 x2 = (t, r)) (h : Keeps a s) : Keeps a t := by
  have k := State.dumpEntry_keeps h (x1 := x1) (x2 := x2)
  rw [e] at k
  exact k

theorem State.dumpRead_keeps {a s : State} (h : Keeps a s) {x1} : Keeps a (State.dumpRead s x1).1 := by
  unfold State.dumpRead
  try dsimp only
  with_reducible repeat' first | assumption | (intro _; intros; try beta_reduce) | split | apply State.dumpEntry_keeps | refine State.dumpEntry_keeps' (by assumption) ?_ | apply Keeps.foldl | apply Keeps.foldlP

theorem State.dumpRead_keeps' {a s t : State} {x1} {r} (e : State.dumpRead s x1 = (t, r)) (h : Keeps a s) : Keeps a t := by
  have k := State.dumpRead_keeps h (x1 := x1)
  rw [e] at k
  exact k

theorem State.dumpBeat_keeps {a s : State} (h : Keeps a s) : Keeps a (State.dumpBeat s) := by
  unfold State.dumpBeat
  try dsimp only
  with_reducible repeat' first | assumption | focus (intro _; first | rfl | (simp only [lmod_length, lput, List.length_map, List.length_zipIdx]; done)) | split | apply State.dumpRead_keeps | refine State.dumpRead_keeps' (by assumption) ?_ | apply State.onHost_keeps

theorem State.enabledEvents_keeps {a s : State} (h : Keeps a s) {x1 x2 x3 x4} : Keeps a (State.enabledEvents s x1 x2 x3 x4) := by
  unfold State.enabledEvents
  try dsimp only
  with_reducible repeat' first | assumption | split | apply State.msix_keeps | apply State.msixBoth_keeps

theorem State.onTrackSolve_keeps {a s : State} (h : Keeps a s) {x1 x2} : Keeps a (State.onTrackSolve s x1 x2) := by
  unfold State.onTrackSolve
  try dsimp only
  with_reducible repeat' first | assumption | split | apply State.onSolver_keeps

theorem State.trackResult_keeps {a s : State} (h : Keeps a s) {x1 x2 x3 x4 x5} : Keeps a (State.trackResult s x1 x2 x3 x4 x5) := by
  unfold State.trackResult
  try dsimp only
  with_reducible repeat' first | assumption | split | apply State.rset_keeps

theorem State.pivotCapture_keeps {a s : State} (h : Keeps a s) {x1 x2 x3} : Keeps a (State.pivotCapture s x1 x2 x3) := by
  unfold State.pivotCapture
  try dsimp only
  with_reducible repeat' first | assumption | split | apply State.setPair_keeps | apply State.rset_keeps

theorem State.noteRun_keeps {a s : State} (h : Keeps a s) {x1 x2 x3} : Keeps a (State.noteRun s x1 x2 x3) := by
  unfold State.noteRun
  try dsimp only
  with_reducible repeat' first | assumption | (intro _; intros; try beta_reduce) | split | apply State.pivotCapture_keeps | apply State.raise_keeps | apply State.bump_keeps | apply Keeps.foldl

theorem State.noteCold_keeps {a s : State} (h : Keeps a s) {x1} : Keeps a (State.noteCold s x1) := by
  unfold State.noteCold
  try dsimp only
  with_reducible repeat' first | assumption | split | apply State.raise_keeps | apply State.bump_keeps

theorem State.formVersion_keeps {a s : State} (h : Keeps a s) {x1 x2 x3} : Keeps a (State.formVersion s x1 x2 x3).1 := by
  unfold State.formVersion
  try dsimp only
  with_reducible repeat' first | assumption | split | fail_if_no_progress (apply Keeps.frame; rotate_left; (first | rfl | focus (simp only [State.unitCounts, lmod_length, lput, List.length_map, List.length_zipIdx]; done)))

theorem State.formVersion_keeps' {a s t : State} {x1 x2 x3} {r} (e : State.formVersion s x1 x2 x3 = (t, r)) (h : Keeps a s) : Keeps a t := by
  have k := State.formVersion_keeps h (x1 := x1) (x2 := x2) (x3 := x3)
  rw [e] at k
  exact k

theorem State.keepWarm_keeps {a s : State} (h : Keeps a s) {x1 x2 x3 x4} : Keeps a (State.keepWarm s x1 x2 x3 x4) := by
  unfold State.keepWarm
  try dsimp only
  with_reducible repeat' first | assumption | apply State.onSolver_keeps

theorem State.endFastSolve_keeps {a s : State} (h : Keeps a s) {x1 x2 x3} : Keeps a (State.endFastSolve s x1 x2 x3) := by
  unfold State.endFastSolve
  try dsimp only
  with_reducible repeat' first | assumption | split | apply State.bump_keeps | apply State.onTrackSolve_keeps | apply State.trackResult_keeps | apply State.setPair_keeps | apply State.noteRun_keeps | apply State.noteCold_keeps | apply State.formVersion_keeps | refine State.formVersion_keeps' (by assumption) ?_ | apply State.keepWarm_keeps

theorem State.seqTo_keeps {a s : State} (h : Keeps a s) {x1 x2 x3} : Keeps a (State.seqTo s x1 x2 x3) := by
  unfold State.seqTo
  try dsimp only
  with_reducible repeat' first | assumption | split | apply State.slotOp_keeps | apply State.onBook_keeps

theorem State.onMover_keeps {a s : State} (h : Keeps a s) {x1 x2} : Keeps a (State.onMover s x1 x2) := by
  unfold State.onMover
  try dsimp only
  with_reducible repeat' first | assumption | fail_if_no_progress (apply Keeps.frame; rotate_left; (first | rfl | focus (simp only [State.unitCounts, lmod_length, lput, List.length_map, List.length_zipIdx]; done)))

theorem State.signalChannels_keeps {a s : State} (h : Keeps a s) {x1 x2} : Keeps a (State.signalChannels s x1 x2) := by
  unfold State.signalChannels
  try dsimp only
  with_reducible repeat' first | assumption | (intro _; intros; try beta_reduce) | split | apply State.onMover_keeps | apply Keeps.foldl

theorem State.endPass_keeps {a s : State} (h : Keeps a s) {x1 x2 x3 x4} : Keeps a (State.endPass s x1 x2 x3 x4) := by
  unfold State.endPass
  try dsimp only
  with_reducible repeat' first | assumption | split | apply State.seqTo_keeps | apply State.bump_keeps | apply State.signalTokens_keeps | apply State.signalChannels_keeps | fail_if_no_progress (apply Keeps.frame; rotate_left; (first | rfl | focus (simp only [State.unitCounts, lmod_length, lput, List.length_map, List.length_zipIdx]; done)))

theorem State.endRecheckShadow_keeps {a s : State} (h : Keeps a s) {x1} : Keeps a (State.endRecheckShadow s x1) := by
  unfold State.endRecheckShadow
  try dsimp only
  with_reducible repeat' first | assumption | split | apply State.clearShadow_keeps

theorem State.hardFail_keeps {a s : State} (h : Keeps a s) {x1} : Keeps a (State.hardFail s x1) := by
  unfold State.hardFail
  try dsimp only
  with_reducible repeat' first | assumption | apply State.enterHold_keeps

theorem State.endRecheck_keeps {a s : State} (h : Keeps a s) {x1 x2 x3} : Keeps a (State.endRecheck s x1 x2 x3) := by
  unfold State.endRecheck
  try dsimp only
  with_reducible repeat' first | assumption | split | apply State.endRecheckShadow_keeps | apply State.checkerRetire_keeps | apply State.hardFail_keeps | apply State.logChecker_keeps | apply State.releaseDecl_keeps | apply State.bump_keeps

theorem State.endReport_keeps {a s : State} (h : Keeps a s) {x1} : Keeps a (State.endReport s x1) := by
  unfold State.endReport
  try dsimp only
  with_reducible repeat' first | assumption | split | apply State.complete_keeps | apply State.raise_keeps | apply State.hwrite_keeps | apply State.hqRaise_keeps | apply State.xlateCapture_keeps

theorem State.flushShadows_keeps {a s : State} (h : Keeps a s) : Keeps a (State.flushShadows s) := by
  unfold State.flushShadows
  try dsimp only
  with_reducible repeat' first | assumption | rfl | apply State.onKeeper_keeps | fail_if_no_progress (apply Keeps.frame; rotate_left; (first | rfl | focus (simp only [State.unitCounts, lmod_length, lput, List.length_map, List.length_zipIdx]; done))) | fail_if_no_progress (apply Keeps.keeperFrame; rotate_left; exact ⟨by first | exact Nat.le_refl _ | exact Nat.le_add_right _ _ | omega, by first | exact Nat.le_refl _ | exact Nat.le_add_right _ _ | omega, by first | exact Nat.le_refl _ | exact Nat.le_add_right _ _ | omega, by first | exact Nat.le_refl _ | exact Nat.le_add_right _ _ | omega, by first | exact Nat.le_refl _ | exact Nat.le_add_right _ _ | omega⟩; (first | rfl | focus (simp only [State.unitCounts, lmod_length, lput, List.length_map, List.length_zipIdx]; done))) | fail_if_no_progress (apply Keeps.safetyFrame; rotate_left; rfl; rfl; rfl; rfl; rfl; (first | rfl | focus (simp only [State.unitCounts, lmod_length, lput, List.length_map, List.length_zipIdx]; done))) | exact ⟨by first | exact Nat.le_refl _ | exact Nat.le_add_right _ _ | omega, by first | exact Nat.le_refl _ | exact Nat.le_add_right _ _ | omega, by first | exact Nat.le_refl _ | exact Nat.le_add_right _ _ | omega, by first | exact Nat.le_refl _ | exact Nat.le_add_right _ _ | omega, by first | exact Nat.le_refl _ | exact Nat.le_add_right _ _ | omega⟩

theorem State.writeMarrow_keeps {a s : State} (h : Keeps a s) {x1} : Keeps a (State.writeMarrow s x1) := by
  unfold State.writeMarrow
  try dsimp only
  with_reducible repeat' first | assumption | (intro _; intros; try beta_reduce) | split | apply State.onMarrow_keeps | apply Keeps.foldl

theorem State.endSave_keeps {a s : State} (h : Keeps a s) {x1} : Keeps a (State.endSave s x1) := by
  unfold State.endSave
  try dsimp only
  with_reducible repeat' first | assumption | focus (intro _; first | rfl | (simp only [lmod_length, lput, List.length_map, List.length_zipIdx]; done)) | split | apply State.flushShadows_keeps | apply State.writeMarrow_keeps | apply State.onCom_keeps | apply State.onPower_keeps

theorem State.endSelfTest_keeps {a s : State} (h : Keeps a s) {x1} : Keeps a (State.endSelfTest s x1) := by
  unfold State.endSelfTest
  try dsimp only
  with_reducible repeat' first | assumption | (intro _; intros; try beta_reduce) | split | apply State.engHard_keeps | apply State.onEngine_keeps | apply Keeps.foldl

theorem State.startSelfTest_keeps {a s : State} (h : Keeps a s) : Keeps a (State.startSelfTest s) := by
  unfold State.startSelfTest
  try dsimp only
  with_reducible repeat' first | assumption | (intro _; intros; try beta_reduce) | split | apply State.onEngine_keeps | apply Keeps.foldl | apply Keeps.foldlP

theorem State.endStep_keeps {a s : State} (h : Keeps a s) {x1} : Keeps a (State.endStep s x1) := by
  unfold State.endStep
  try dsimp only
  with_reducible repeat' first | assumption | rfl | split | apply State.onBoot_keeps | apply State.bootRoots_keeps | apply State.bootFirmware_keeps | apply State.bootFuses_keeps | apply State.startSelfTest_keeps | apply State.bootDram_keeps | apply State.bootKeeper_keeps | apply State.stepTo_keeps | apply State.endSelfTest_keeps | apply State.admitHost_keeps

theorem State.endSweep_keeps {a s : State} (h : Keeps a s) {x1} : Keeps a (State.endSweep s x1) := by
  unfold State.endSweep
  try dsimp only
  with_reducible repeat' first | assumption | split | apply State.onPower_keeps | apply State.rset_keeps | apply State.raise_keeps

theorem State.error_keeps {a s : State} (h : Keeps a s) {x1 x2} : Keeps a (State.error s x1 x2) := by
  unfold State.error
  try dsimp only
  with_reducible repeat' first | assumption | apply State.raise_keeps | apply State.logRec_keeps | apply State.bump_keeps | fail_if_no_progress (apply Keeps.frame; rotate_left; (first | rfl | focus (simp only [State.unitCounts, lmod_length, lput, List.length_map, List.length_zipIdx]; done))) | fail_if_no_progress (apply Keeps.safetyFrame; rotate_left; rfl; rfl; rfl; rfl; rfl; (first | rfl | focus (simp only [State.unitCounts, lmod_length, lput, List.length_map, List.length_zipIdx]; done)))

theorem stateOf_ne_hold (c : Nat) : stateOf c ≠ .safeHold := by
  unfold stateOf
  split
  · simp
  · split <;> simp

theorem State.evalSafety_keeps {a s : State} (h : Keeps a s) : Keeps a s.evalSafety := by
  unfold State.evalSafety
  split
  · exact h
  · next hn =>
    have hne : s.safety.state ≠ .safeHold := by simpa [State.hold] using hn
    extract_lets old new s1 s2 s3
    split
    · exact State.startHeartbeat_keeps h
    · have k1 : Keeps a s1 := by
        refine h.safety (fun e => absurd e hne) ?_
        simp [State.Safe, State.pinsSafe, State.holdSafe, State.hold, new, stateOf_ne_hold, hne]
      have k2 : Keeps a s2 := State.raise_keeps (State.logState_keeps k1)
      have k3 : Keeps a s3 := Keeps.ite (fun _ => State.raise_keeps k2) (fun _ => k2)
      exact State.startHeartbeat_keeps (Keeps.ite (fun _ => State.raise_keeps k3) (fun _ => k3))

theorem State.evaluatePlace_keeps {a s : State} (h : Keeps a s) {x1} : Keeps a (State.evaluatePlace s x1) := by
  unfold State.evaluatePlace
  try dsimp only
  with_reducible repeat' first | assumption | focus (intro _; first | rfl | (simp only [lmod_length, lput, List.length_map, List.length_zipIdx]; done)) | split | apply State.onPlace_keeps | apply State.setPair_keeps | apply State.bump_keeps | apply State.beginMigration_keeps

theorem State.hitOf_keeps {a s : State} (h : Keeps a s) {x1 x2} : Keeps a (State.hitOf s x1 x2).1 := by
  unfold State.hitOf
  try dsimp only
  with_reducible repeat' first | assumption | split | apply State.took_keeps

theorem State.hitOf_keeps' {a s t : State} {x1 x2} {r} (e : State.hitOf s x1 x2 = (t, r)) (h : Keeps a s) : Keeps a t := by
  have k := State.hitOf_keeps h (x1 := x1) (x2 := x2)
  rw [e] at k
  exact k

theorem State.writeHit_keeps {a s : State} (h : Keeps a s) {x1 x2 x3 x4 x5 x6 x7} : Keeps a (State.writeHit s x1 x2 x3 x4 x5 x6 x7) := by
  unfold State.writeHit
  try dsimp only
  with_reducible repeat' first | assumption | split | apply State.logDelta_keeps | apply State.modCell_keeps | apply State.onStore_keeps

theorem State.keepPea_keeps {a s : State} (h : Keeps a s) {x1 x2} : Keeps a (State.keepPea s x1 x2).1 := by
  unfold State.keepPea
  try dsimp only
  with_reducible repeat' first | assumption | split | apply State.onStore_keeps | apply State.bump_keeps

theorem State.keepPea_keeps' {a s t : State} {x1 x2} {r} (e : State.keepPea s x1 x2 = (t, r)) (h : Keeps a s) : Keeps a t := by
  have k := State.keepPea_keeps h (x1 := x1) (x2 := x2)
  rw [e] at k
  exact k

theorem State.journal_keeps {a s : State} (h : Keeps a s) {x1 x2} : Keeps a (State.journal s x1 x2) := by
  unfold State.journal
  try dsimp only
  with_reducible repeat' first | assumption | focus (intro _; first | rfl | (simp only [lmod_length, lput, List.length_map, List.length_zipIdx]; done)) | apply State.onCom_keeps

theorem State.fileIn_keeps {a s : State} (h : Keeps a s) {x1 x2 x3} : Keeps a (State.fileIn s x1 x2 x3) := by
  unfold State.fileIn
  try dsimp only
  with_reducible repeat' first | assumption | split | apply State.refuseAt_keeps | apply State.bump_keeps | apply State.refuseFull_keeps | apply State.placeFor_keeps | refine State.placeFor_keeps' (by assumption) ?_ | apply State.podRefused_keeps | apply State.hitOf_keeps | refine State.hitOf_keeps' (by assumption) ?_ | apply State.writeHit_keeps | apply State.bump64_keeps | apply State.keepPea_keeps | refine State.keepPea_keeps' (by assumption) ?_ | apply State.journal_keeps | apply State.clearCells_keeps

end Sys2Proof.Machine
end

