-- ==== Sys2Proof/Laws/Keeps3.lean ====
section
/-! SUPPORT. What each operation and command keeps (part 3). -/

namespace Sys2Proof.Machine

open Sys2Proof

set_option linter.unusedTactic false
set_option linter.unreachableTactic false
set_option linter.unusedSimpArgs false

theorem State.preEpochDrop_keeps {a s : State} (h : Keeps a s) : Keeps a (State.preEpochDrop s) := by
  unfold State.preEpochDrop
  try dsimp only
  with_reducible repeat' first | assumption | apply State.raise_keeps | apply State.bump_keeps

theorem State.fileItem_keeps {a s : State} (h : Keeps a s) {x1} : Keeps a (State.fileItem s x1) := by
  unfold State.fileItem
  try dsimp only
  with_reducible repeat' first | assumption | split | apply State.preEpochDrop_keeps | apply State.discardDelta_keeps | apply State.fileIn_keeps | apply State.dropOutside_keeps

theorem State.fillGroup_keeps {a s : State} (h : Keeps a s) {l r} : Keeps a (s.fillGroup l r) := by
  induction l generalizing s r with
  | nil => exact h
  | cons e es ih =>
    unfold State.fillGroup
    dsimp only
    split
    · exact ih h
    · exact ih (State.onSlot_keeps (State.assignShadow_keeps h))

theorem State.finishCompare_keeps {a s : State} (h : Keeps a s) {x1} : Keeps a (State.finishCompare s x1) := by
  unfold State.finishCompare
  try dsimp only
  with_reducible repeat' first | assumption | rfl | split | apply State.onSafety_keeps | apply State.cleanDecls_keeps | apply State.declareColumns_keeps

theorem State.hqWatermark_keeps {a s : State} (h : Keeps a s) {x1} : Keeps a (State.hqWatermark s x1) := by
  unfold State.hqWatermark
  try dsimp only
  with_reducible repeat' first | assumption | split | apply State.onFn_keeps | apply State.hqRaise_keeps | apply State.rset_keeps

theorem State.flushHq_keeps {a s : State} (h : Keeps a s) {x1} : Keeps a (State.flushHq s x1) := by
  unfold State.flushHq
  try dsimp only
  with_reducible repeat' first | assumption | apply State.hqWatermark_keeps | apply State.onFn_keeps | apply State.bump_keeps

theorem State.flushQueue_keeps {a s : State} (h : Keeps a s) {x1} : Keeps a (State.flushQueue s x1) := by
  unfold State.flushQueue
  try dsimp only
  with_reducible repeat' first | assumption | focus (intro _; first | rfl | (simp only [lmod_length, lput, List.length_map, List.length_zipIdx]; done)) | apply State.watermark_keeps | apply State.onIng_keeps

theorem State.forgetEpoch_keeps {a s : State} (h : Keeps a s) {x1} : Keeps a (State.forgetEpoch s x1) := by
  unfold State.forgetEpoch
  try dsimp only
  with_reducible repeat' first | assumption | rfl | apply State.onSafety_keeps

theorem State.forgetMarrow_keeps {a s : State} (h : Keeps a s) : Keeps a (State.forgetMarrow s) := by
  unfold State.forgetMarrow
  try dsimp only
  with_reducible repeat' first | assumption | split | apply State.onPower_keeps | apply State.onMarrow_keeps

theorem State.rmax_keeps {a s : State} (h : Keeps a s) {x1 x2} : Keeps a (State.rmax s x1 x2) := by
  unfold State.rmax
  try dsimp only
  with_reducible repeat' first | assumption | split | apply State.rset_keeps

theorem State.formCommits_keeps {a s : State} (h : Keeps a s) {x1 x2 x3} : Keeps a (State.formCommits s x1 x2 x3) := by
  unfold State.formCommits
  try dsimp only
  with_reducible repeat' first | assumption | focus (intro _; first | rfl | (simp only [lmod_length, lput, List.length_map, List.length_zipIdx]; done)) | (intro _; intros; try beta_reduce) | split | apply State.queueTo_keeps | apply State.rmax_keeps | apply State.bump_keeps | apply State.raise_keeps | apply State.onCom_keeps | apply Keeps.foldl

theorem State.stepTime_keeps {a s : State} (h : Keeps a s) {x1} : Keeps a (State.stepTime s x1) := by
  unfold State.stepTime
  try dsimp only
  with_reducible repeat' first | assumption | split | apply State.onTl_keeps | apply State.raise_keeps | apply State.bump_keeps

theorem State.sealEpoch_keeps {a s : State} (h : Keeps a s) {x1} : Keeps a (State.sealEpoch s x1) := by
  unfold State.sealEpoch
  try dsimp only
  with_reducible repeat' first | assumption | focus (intro _; first | rfl | (simp only [lmod_length, lput, List.length_map, List.length_zipIdx]; done)) | (intro _; intros; try beta_reduce) | split | apply State.onCom_keeps | apply State.sealLayer_keeps | apply State.queueAll_keeps | apply Keeps.foldl

theorem State.stepSolver_keeps {a s : State} (h : Keeps a s) {x1} : Keeps a (State.stepSolver s x1) := by
  unfold State.stepSolver
  try dsimp only
  with_reducible repeat' first | assumption | apply State.onSolver_keeps

theorem State.publishVersion_keeps {a s : State} (h : Keeps a s) {x1 x2} : Keeps a (State.publishVersion s x1 x2) := by
  unfold State.publishVersion
  try dsimp only
  with_reducible repeat' first | assumption | split | apply State.onStore_keeps

theorem State.stepVersions_keeps {a s : State} (h : Keeps a s) {x1} : Keeps a (State.stepVersions s x1) := by
  unfold State.stepVersions
  try dsimp only
  with_reducible repeat' first | assumption | (intro _; intros; try beta_reduce) | apply State.publishVersion_keeps | apply Keeps.foldl

theorem State.takeStep_keeps {a s : State} (h : Keeps a s) {x1} : Keeps a (State.takeStep s x1) := by
  unfold State.takeStep
  try dsimp only
  with_reducible repeat' first | assumption | focus (intro _; first | rfl | (simp only [lmod_length, lput, List.length_map, List.length_zipIdx]; done)) | apply State.stepTime_keeps | apply State.sealEpoch_keeps | apply State.stepSolver_keeps | apply State.stepVersions_keeps | apply State.onPeers_keeps

theorem State.frameStep1_keeps {a s : State} (h : Keeps a s) : Keeps a (State.frameStep1 s).1 := by
  unfold State.frameStep1
  try dsimp only
  with_reducible repeat' first | assumption | split | apply State.takeStep_keeps | apply State.onTl_keeps

theorem State.frameStep1_keeps' {a s t : State} {r} (e : State.frameStep1 s = (t, r)) (h : Keeps a s) : Keeps a t := by
  have k := State.frameStep1_keeps h
  rw [e] at k
  exact k

theorem State.settleLayers_keeps {a s : State} (h : Keeps a s) {x1 x2} : Keeps a (State.settleLayers s x1 x2) := by
  unfold State.settleLayers
  try dsimp only
  with_reducible repeat' first | assumption | focus (intro _; first | rfl | (simp only [lmod_length, lput, List.length_map, List.length_zipIdx]; done)) | (intro _; intros; try beta_reduce) | apply State.onCom_keeps | apply State.sealLayer_keeps | apply Keeps.foldl

theorem State.frameStep2_keeps {a s : State} (h : Keeps a s) {x1} : Keeps a (State.frameStep2 s x1) := by
  unfold State.frameStep2
  try dsimp only
  with_reducible repeat' first | assumption | split | apply State.settleLayers_keeps

theorem State.frameStep3_keeps {a s : State} (h : Keeps a s) {x1 x2 x3} : Keeps a (State.frameStep3 s x1 x2 x3) := by
  unfold State.frameStep3
  try dsimp only
  with_reducible repeat' first | assumption | split | apply State.closeHist_keeps | apply State.forgetEpoch_keeps

theorem State.releaseSwitched_keeps {a s : State} (h : Keeps a s) : Keeps a (State.releaseSwitched s) := by
  unfold State.releaseSwitched
  try dsimp only
  with_reducible repeat' first | assumption | (intro _; intros; try beta_reduce) | split | apply State.releaseDecl_keeps | apply Keeps.foldl

theorem State.frameStep4_keeps {a s : State} (h : Keeps a s) : Keeps a (State.frameStep4 s) := by
  unfold State.frameStep4
  try dsimp only
  with_reducible repeat' first | assumption | split | apply State.applyFaults_keeps | apply State.applyImage_keeps | apply State.applyMigrations_keeps | apply State.releaseSwitched_keeps | apply State.fitLevel_keeps

theorem State.frameStep5_keeps {a s : State} (h : Keeps a s) : Keeps a (State.frameStep5 s) := by
  unfold State.frameStep5
  try dsimp only
  with_reducible repeat' first | assumption | (intro _; intros; try beta_reduce) | split | apply State.onStore_keeps | apply Keeps.foldl

theorem State.noteOver_keeps {a s : State} (h : Keeps a s) : Keeps a (State.noteOver s) := by
  unfold State.noteOver
  try dsimp only
  with_reducible repeat' first | assumption | focus (intro _; first | rfl | (simp only [lmod_length, lput, List.length_map, List.length_zipIdx]; done)) | split | apply State.onPlace_keeps

theorem State.noteDue_keeps {a s : State} (h : Keeps a s) {x1} : Keeps a (State.noteDue s x1) := by
  unfold State.noteDue
  try dsimp only
  with_reducible repeat' first | assumption | split | apply State.onBook_keeps | apply State.raise_keeps | apply State.bump_keeps

theorem State.trySwap_keeps {a s : State} (h : Keeps a s) {x1} : Keeps a (State.trySwap s x1) := by
  unfold State.trySwap
  try dsimp only
  with_reducible repeat' first | assumption | split | apply State.beginMigration_keeps | apply State.unhold_keeps

theorem State.updateCoverage_keeps {a s : State} (h : Keeps a s) : Keeps a (State.updateCoverage s) := by
  unfold State.updateCoverage
  try dsimp only
  with_reducible repeat' first | assumption | split | apply State.raise_keeps | fail_if_no_progress (apply Keeps.frame; rotate_left; (first | rfl | focus (simp only [State.unitCounts, lmod_length, lput, List.length_map, List.length_zipIdx]; done)))

theorem State.radishStep6_keeps {a s : State} (h : Keeps a s) : Keeps a (State.radishStep6 s) := by
  unfold State.radishStep6
  try dsimp only
  with_reducible repeat' first | assumption | (intro _; intros; try beta_reduce) | apply State.noteDue_keeps | apply State.trySwap_keeps | apply State.updateCoverage_keeps | apply State.unhold_keeps | apply Keeps.foldl

theorem State.frameStep6_keeps {a s : State} (h : Keeps a s) {x1} : Keeps a (State.frameStep6 s x1) := by
  unfold State.frameStep6
  try dsimp only
  with_reducible repeat' first | assumption | split | apply State.noteOver_keeps | apply State.evaluatePlace_keeps | apply State.assignRechecks_keeps | apply State.radishStep6_keeps

theorem State.slotHold_keeps {a s : State} (h : Keeps a s) : Keeps a (State.slotHold s) := by
  unfold State.slotHold
  try dsimp only
  with_reducible repeat' first | assumption | (intro _; intros; try beta_reduce) | split | apply State.clearShadow_keeps | apply State.onSlot_keeps | apply Keeps.foldl

theorem State.nextGroup_keeps {a s : State} (h : Keeps a s) : Keeps a (State.nextGroup s) := by
  unfold State.nextGroup
  try dsimp only
  with_reducible repeat' first | assumption | split | apply State.slotHold_keeps | apply State.onSlot_keeps | apply State.fillGroup_keeps

theorem State.startSlow_keeps {a s : State} (h : Keeps a s) : Keeps a (State.startSlow s) := by
  unfold State.startSlow
  try dsimp only
  with_reducible repeat' first | assumption | split | apply State.setPair_keeps | apply State.onSolver_keeps

theorem State.startFast_keeps {a s : State} (h : Keeps a s) {x1} : Keeps a (State.startFast s x1) := by
  unfold State.startFast
  try dsimp only
  with_reducible repeat' first | assumption | split | apply State.raise_keeps | apply State.bump_keeps | apply State.onSolver_keeps

theorem State.radishEng_keeps {a s : State} (h : Keeps a s) {x1 x2} : Keeps a (State.radishEng s x1 x2) := by
  unfold State.radishEng
  try dsimp only
  with_reducible repeat' first | assumption | split | apply State.onEngine_keeps | apply State.onBook_keeps | apply State.bump_keeps | apply State.setPair_keeps | apply State.engIgnored_keeps

theorem State.issueRadish_keeps {a s : State} (h : Keeps a s) {x1} : Keeps a (State.issueRadish s x1) := by
  unfold State.issueRadish
  try dsimp only
  with_reducible repeat' first | assumption | split | apply State.onBook_keeps | apply State.radishEng_keeps

theorem State.radishStep7_keeps {a s : State} (h : Keeps a s) : Keeps a (State.radishStep7 s) := by
  unfold State.radishStep7
  try dsimp only
  with_reducible repeat' first | assumption | (intro _; intros; try beta_reduce) | split | apply State.issueRadish_keeps | apply State.bump_keeps | apply Keeps.foldl

theorem State.frameStep7_keeps {a s : State} (h : Keeps a s) {x1} : Keeps a (State.frameStep7 s x1) := by
  unfold State.frameStep7
  try dsimp only
  with_reducible repeat' first | assumption | split | apply State.armFrame_keeps | apply State.nextGroup_keeps | apply State.startSlow_keeps | apply State.startFast_keeps | apply State.radishStep7_keeps

theorem State.frameSteps_keeps {a s : State} (h : Keeps a s) {x1} : Keeps a (State.frameSteps s x1) := by
  unfold State.frameSteps
  try dsimp only
  with_reducible repeat' first | assumption | split | apply State.frameStep1_keeps | refine State.frameStep1_keeps' (by assumption) ?_ | apply State.frameStep2_keeps | apply State.frameStep3_keeps | apply State.frameStep5_keeps | apply State.frameStep4_keeps | apply State.frameStep7_keeps | apply State.frameStep6_keeps

theorem State.freshBeat_keeps {a s : State} (h : Keeps a s) : Keeps a (State.freshBeat s) := by
  unfold State.freshBeat
  try dsimp only
  with_reducible repeat' first | assumption | focus (intro _; first | rfl | (simp only [lmod_length, lput, List.length_map, List.length_zipIdx]; done)) | split | apply State.onStore_keeps | apply State.onCom_keeps

theorem State.fwWrite_keeps {a s : State} (h : Keeps a s) {c} : Keeps a (s.fwWrite c) := by
  unfold State.fwWrite
  dsimp only
  split
  · apply State.reply_keeps
    exact h.flash (cwf_write _ _)
  · exact State.reply_keeps h

theorem State.groupFault_keeps {a s : State} (h : Keeps a s) {x1 x2} : Keeps a (State.groupFault s x1 x2) := by
  unfold State.groupFault
  try dsimp only
  with_reducible repeat' first | assumption | split | apply State.onSram_keeps | apply State.raise_keeps | apply State.declare_keeps | apply State.bump64_keeps | apply State.took_keeps | apply State.engPermanent_keeps | fail_if_no_progress (apply Keeps.frame; rotate_left; (first | rfl | focus (simp only [State.unitCounts, lmod_length, lput, List.length_map, List.length_zipIdx]; done))) | fail_if_no_progress (apply Keeps.keeperFrame; rotate_left; exact ⟨by first | exact Nat.le_refl _ | exact Nat.le_add_right _ _ | omega, by first | exact Nat.le_refl _ | exact Nat.le_add_right _ _ | omega, by first | exact Nat.le_refl _ | exact Nat.le_add_right _ _ | omega, by first | exact Nat.le_refl _ | exact Nat.le_add_right _ _ | omega, by first | exact Nat.le_refl _ | exact Nat.le_add_right _ _ | omega⟩; (first | rfl | focus (simp only [State.unitCounts, lmod_length, lput, List.length_map, List.length_zipIdx]; done)))

theorem State.groupEvent_keeps {a s : State} (h : Keeps a s) {x1 x2} : Keeps a (State.groupEvent s x1 x2) := by
  unfold State.groupEvent
  try dsimp only
  with_reducible repeat' first | assumption | split | apply State.onSram_keeps | apply State.logRec_keeps | apply State.groupFault_keeps

theorem State.leaveUp_keeps {a s : State} (h : Keeps a s) {x1 x2} : Keeps a (State.leaveUp s x1 x2) := by
  unfold State.leaveUp
  try dsimp only
  with_reducible repeat' first | assumption | focus (intro _; first | rfl | (simp only [lmod_length, lput, List.length_map, List.length_zipIdx]; done)) | (intro _; intros; try beta_reduce) | split | apply State.onPeer_keeps | apply State.raise_keeps | apply State.onTl_keeps | apply State.destOff_keeps | apply State.bump_keeps | apply State.onPeers_keeps | apply Keeps.foldl

theorem State.refuseNb_keeps {a s : State} (h : Keeps a s) {x1 x2 x3} : Keeps a (State.refuseNb s x1 x2 x3) := by
  unfold State.refuseNb
  try dsimp only
  with_reducible repeat' first | assumption | apply State.leaveUp_keeps | apply State.noteNb_keeps | apply State.raise_keeps | apply State.logRec_keeps | apply State.onPeer_keeps

theorem State.judgeHello_keeps {a s : State} (h : Keeps a s) {x1 x2} : Keeps a (State.judgeHello s x1 x2) := by
  unfold State.judgeHello
  try dsimp only
  with_reducible repeat' first | assumption | split | apply State.acceptNb_keeps | apply State.refuseNb_keeps

theorem State.hello_keeps {a s : State} (h : Keeps a s) {x1 x2} : Keeps a (State.hello s x1 x2) := by
  unfold State.hello
  try dsimp only
  with_reducible repeat' first | assumption | split | apply State.judgeHello_keeps | apply State.onPeer_keeps

theorem State.onTaken_keeps {a s : State} (h : Keeps a s) {x1 x2 x3} : Keeps a (State.onTaken s x1 x2 x3) := by
  unfold State.onTaken
  try dsimp only
  with_reducible repeat' first | assumption | split | apply State.onFn_keeps

theorem State.hostMoveItem_keeps {a s : State} (h : Keeps a s) {x1 x2 x3} : Keeps a (State.hostMoveItem s x1 x2 x3) := by
  unfold State.hostMoveItem
  try dsimp only
  with_reducible repeat' first | assumption | split | apply State.complete_keeps | apply State.onMover_keeps | apply State.onTaken_keeps

/-- What a reset keeps: all that `Keeps` says but SAFE_HOLD. -/
structure KeepsReset (s t : State) : Prop where
  pending : t.pending = s.pending
  rollback : s.fuses.rollback &&& t.fuses.rollback = s.fuses.rollback
  debug : s.DebugSafe → t.DebugSafe
  safe : s.Safe → t.Safe
  mem : s.MemOk → t.MemOk
  keeper : Keeper.Le s.keeper t.keeper
  units : s.Units → t.Units

theorem Keeps.weaken {a s : State} (h : Keeps a s) : KeepsReset a s := ⟨h.1, h.2, h.3, h.4, h.6, h.7, fun k => h.8.trans k⟩

theorem KeepsReset.trans {a b c : State} (h : KeepsReset a b) (k : Keeps b c) : KeepsReset a c :=
  ⟨k.1.trans h.1, by
    have h2 := h.2
    have k2 := k.2
    rw [← h2, BitVec.and_assoc, k2], k.3 ∘ h.3, k.4 ∘ h.4, k.6 ∘ h.5, h.6.trans k.7, fun u => k.8.trans (h.7 u)⟩

theorem State.inReset_keeps (s : State) : KeepsReset s s.inReset :=
  ⟨rfl, BitVec.and_self, fun _ _ => rfl, fun _ => ⟨rfl, rfl⟩, fun k => ⟨rfl, rfl, k.2.2.1, k.2.2.2⟩, .refl _, fun _ => rfl⟩

theorem State.strapRegs_keeps {a s : State} (h : Keeps a s) {b} : Keeps a (s.strapRegs b) := by
  unfold State.strapRegs
  extract_lets bt speed s1 s2 root s3 s4
  have k1 : Keeps a s1 := Keeps.foldl h (fun t n k => State.rset_keeps k _ _)
  have k2 : Keeps a s2 := Keeps.foldl k1 (fun t n k => State.rset_keeps k _ _)
  exact State.rset_keeps (State.rset_keeps (State.rset_keeps k2 _ _) _ _) _ _

theorem State.releaseReset_keeps {s : State} {x y} : KeepsReset s (s.releaseReset x y) := by
  unfold State.releaseReset
  extract_lets s1 s2
  refine KeepsReset.trans ?_ (State.strapRegs_keeps (Keeps.refl _))
  have k := s.inReset_keeps
  exact ⟨k.1, k.2, k.3, k.4, k.5, k.6, fun _ => rfl⟩

theorem execResetRelease_keeps {s : State} {x y} : ∃ t, execResetRelease x y s = .next t ∧ KeepsReset s t := by
  unfold execResetRelease
  split
  · exact ⟨_, rfl, (Keeps.refl s).weaken⟩
  · exact ⟨_, rfl, State.releaseReset_keeps⟩

theorem execPwrOkLoss_keeps {s : State} : ∃ t, execPwrOkLoss s = .next t ∧ KeepsReset s t :=
  ⟨_, rfl, s.inReset_keeps.1, s.inReset_keeps.2, s.inReset_keeps.3, s.inReset_keeps.4, s.inReset_keeps.5, s.inReset_keeps.6, fun _ => rfl⟩

theorem execResetAssert_keeps {s : State} : ∃ t, execResetAssert s = .next t ∧ KeepsReset s t := ⟨_, rfl, s.inReset_keeps⟩

theorem State.xlateFault_keeps {a s : State} (h : Keeps a s) {x1 x2 x3} : Keeps a (State.xlateFault s x1 x2 x3) := by
  unfold State.xlateFault
  try dsimp only
  with_reducible repeat' first | assumption | split | apply State.xlateCapture_keeps | apply State.onMover_keeps | apply State.hqRaise_keeps

theorem State.judgeAccess_keeps {a s : State} (h : Keeps a s) {x1 x2 x3 x4 x5} : Keeps a (State.judgeAccess s x1 x2 x3 x4 x5).1 := by
  unfold State.judgeAccess
  try dsimp only
  with_reducible repeat' first | assumption | split | apply State.xlateFault_keeps | apply State.deny_keeps

theorem State.judgeAccess_keeps' {a s t : State} {x1 x2 x3 x4 x5} {r} (e : State.judgeAccess s x1 x2 x3 x4 x5 = (t, r)) (h : Keeps a s) : Keeps a t := by
  have k := State.judgeAccess_keeps h (x1 := x1) (x2 := x2) (x3 := x3) (x4 := x4) (x5 := x5)
  rw [e] at k
  exact k

theorem State.readVia_keeps {a s : State} (h : Keeps a s) {x1 x2 x3 x4} : Keeps a (State.readVia s x1 x2 x3 x4).1 := by
  unfold State.readVia
  try dsimp only
  with_reducible repeat' first | assumption | split | apply State.judgeAccess_keeps | refine State.judgeAccess_keeps' (by assumption) ?_

theorem State.readVia_keeps' {a s t : State} {x1 x2 x3 x4} {r} (e : State.readVia s x1 x2 x3 x4 = (t, r)) (h : Keeps a s) : Keeps a t := by
  have k := State.readVia_keeps h (x1 := x1) (x2 := x2) (x3 := x3) (x4 := x4)
  rw [e] at k
  exact k

theorem State.readUnit_keeps {a s : State} (h : Keeps a s) {x1 x2 x3 x4} : Keeps a (State.readUnit s x1 x2 x3 x4).1 := by
  unfold State.readUnit
  try dsimp only
  with_reducible repeat' first | assumption | split | apply State.raise_keeps | apply State.bump64_keeps | apply State.bump_keeps | apply State.readVia_keeps | refine State.readVia_keeps' (by assumption) ?_

theorem State.readUnit_keeps' {a s t : State} {x1 x2 x3 x4} {r} (e : State.readUnit s x1 x2 x3 x4 = (t, r)) (h : Keeps a s) : Keeps a t := by
  have k := State.readUnit_keeps h (x1 := x1) (x2 := x2) (x3 := x3) (x4 := x4)
  rw [e] at k
  exact k

theorem State.indexAt_keeps {a s : State} (h : Keeps a s) {x1 x2 x3} : Keeps a (State.indexAt s x1 x2 x3).1 := by
  unfold State.indexAt
  try dsimp only
  with_reducible repeat' first | assumption | apply State.readUnit_keeps | refine State.readUnit_keeps' (by assumption) ?_

theorem State.indexAt_keeps' {a s t : State} {x1 x2 x3} {r} (e : State.indexAt s x1 x2 x3 = (t, r)) (h : Keeps a s) : Keeps a t := by
  have k := State.indexAt_keeps h (x1 := x1) (x2 := x2) (x3 := x3)
  rw [e] at k
  exact k

theorem State.jobCompletes_keeps {a s : State} (h : Keeps a s) {x1 x2} : Keeps a (State.jobCompletes s x1 x2) := by
  unfold State.jobCompletes
  try dsimp only
  with_reducible repeat' first | assumption | split | apply State.complete_keeps | fail_if_no_progress (apply Keeps.frame; rotate_left; (first | rfl | focus (simp only [State.unitCounts, lmod_length, lput, List.length_map, List.length_zipIdx]; done)))

theorem State.jumpOffset_keeps {a s : State} (h : Keeps a s) {x1} : Keeps a (State.jumpOffset s x1) := by
  unfold State.jumpOffset
  try dsimp only
  with_reducible repeat' first | assumption | apply State.onTl_keeps

theorem State.laneBeat_keeps {a s : State} (h : Keeps a s) {x1 x2 x3} : Keeps a (State.laneBeat s x1 x2 x3).1 := by
  unfold State.laneBeat
  try dsimp only
  with_reducible repeat' first | assumption | (intro _; intros; try beta_reduce) | split | apply State.took_keeps | apply Keeps.foldl | apply Keeps.foldlP

theorem State.laneBeat_keeps' {a s t : State} {x1 x2 x3} {r} (e : State.laneBeat s x1 x2 x3 = (t, r)) (h : Keeps a s) : Keeps a t := by
  have k := State.laneBeat_keeps h (x1 := x1) (x2 := x2) (x3 := x3)
  rw [e] at k
  exact k

theorem State.linkDown_keeps {a s : State} (h : Keeps a s) {x1 x2} : Keeps a (State.linkDown s x1 x2) := by
  unfold State.linkDown
  try dsimp only
  with_reducible repeat' first | assumption | split | apply State.raise_keeps | apply State.leaveUp_keeps

theorem State.retirePort_keeps {a s : State} (h : Keeps a s) {x1} : Keeps a (State.retirePort s x1) := by
  unfold State.retirePort
  try dsimp only
  with_reducible repeat' first | assumption | split | apply State.linkDown_keeps | apply State.raise_keeps | apply State.onPeer_keeps

theorem State.retireLane_keeps {a s : State} (h : Keeps a s) {x1 x2} : Keeps a (State.retireLane s x1 x2) := by
  unfold State.retireLane
  try dsimp only
  with_reducible repeat' first | assumption | split | apply State.raise_keeps | apply State.declare_keeps | apply State.onPeer_keeps | apply State.sendLink_keeps | apply State.retirePort_keeps

theorem State.laneEvent_keeps {a s : State} (h : Keeps a s) {x1 x2} : Keeps a (State.laneEvent s x1 x2) := by
  unfold State.laneEvent
  try dsimp only
  with_reducible repeat' first | assumption | split | apply State.onPeer_keeps | apply State.bump_keeps | apply State.logRec_keeps | apply State.retireLane_keeps

theorem State.vecOp_keeps {a s : State} (h : Keeps a s) {x1 x2 x3} : Keeps a (State.vecOp s x1 x2 x3) := by
  unfold State.vecOp
  try dsimp only
  with_reducible repeat' first | assumption | split | apply State.bump64_keeps | apply State.slotOp_keeps

theorem State.laneOp_keeps {a s : State} (h : Keeps a s) {x1 x2 x3 x4 x5 x6} : Keeps a (State.laneOp s x1 x2 x3 x4 x5 x6) := by
  unfold State.laneOp
  try dsimp only
  with_reducible repeat' first | assumption | apply State.vecOp_keeps

theorem State.late_keeps {a s : State} (h : Keeps a s) {x1 x2 x3} : Keeps a (State.late s x1 x2 x3) := by
  unfold State.late
  try dsimp only
  with_reducible repeat' first | assumption | split | apply State.rset_keeps | apply State.logRec_keeps | apply State.bump_keeps | apply State.raise_keeps

theorem State.learn_keeps {a s : State} (h : Keeps a s) {x1 x2} : Keeps a (State.learn s x1 x2) := by
  unfold State.learn
  try dsimp only
  with_reducible repeat' first | assumption | split | apply State.raise_keeps | fail_if_no_progress (apply Keeps.frame; rotate_left; (first | rfl | focus (simp only [State.unitCounts, lmod_length, lput, List.length_map, List.length_zipIdx]; done)))

theorem State.stampTime_keeps {a s : State} (h : Keeps a s) {x1} : Keeps a (State.stampTime s x1).1 := by
  unfold State.stampTime
  try dsimp only
  with_reducible repeat' first | assumption | split | apply State.raise_keeps | apply State.bump_keeps

theorem State.stampTime_keeps' {a s t : State} {x1} {r} (e : State.stampTime s x1 = (t, r)) (h : Keeps a s) : Keeps a t := by
  have k := State.stampTime_keeps h (x1 := x1)
  rw [e] at k
  exact k

theorem State.leave_keeps {a s : State} (h : Keeps a s) {x1 x2 x3} : Keeps a (State.leave s x1 x2 x3).1 := by
  unfold State.leave
  try dsimp only
  with_reducible repeat' first | assumption | split | apply State.stampTime_keeps | refine State.stampTime_keeps' (by assumption) ?_ | apply State.bump_keeps | apply State.onPtp_keeps | apply State.onPort_keeps

theorem State.leave_keeps' {a s t : State} {x1 x2 x3} {r} (e : State.leave s x1 x2 x3 = (t, r)) (h : Keeps a s) : Keeps a t := by
  have k := State.leave_keeps h (x1 := x1) (x2 := x2) (x3 := x3)
  rw [e] at k
  exact k

theorem State.stall_keeps {a s : State} (h : Keeps a s) {x1 x2} : Keeps a (State.stall s x1 x2) := by
  unfold State.stall
  try dsimp only
  with_reducible repeat' first | assumption | split | apply State.bump64_keeps

theorem State.loadOp_keeps {a s : State} (h : Keeps a s) {x1 x2 x3 x4 x5} : Keeps a (State.loadOp s x1 x2 x3 x4 x5) := by
  unfold State.loadOp
  try dsimp only
  with_reducible repeat' first | assumption | split | apply State.slotOp_keeps | apply State.bump_keeps | apply State.onEngine_keeps | apply State.stall_keeps

theorem State.loadSlotCmd_keeps {a s : State} (h : Keeps a s) : Keeps a (State.loadSlotCmd s) := by
  unfold State.loadSlotCmd
  try dsimp only
  with_reducible repeat' first | assumption | split | apply State.raise_keeps | apply State.bump_keeps | apply State.onSlot_keeps

theorem State.setLock_keeps {a s : State} (h : Keeps a s) {x1} : Keeps a (State.setLock s x1) := by
  unfold State.setLock
  try dsimp only
  with_reducible repeat' first | assumption | split | apply State.rput_keeps

theorem State.lockEvery_keeps {a s : State} (h : Keeps a s) : Keeps a (State.lockEvery s) := by
  unfold State.lockEvery
  try dsimp only
  with_reducible repeat' first | assumption | (intro _; intros; try beta_reduce) | apply State.setLock_keeps | apply Keeps.foldl

theorem State.logAccess_keeps {a s : State} (h : Keeps a s) {x1 x2} : Keeps a (State.logAccess s x1 x2) := by
  unfold State.logAccess
  try dsimp only
  with_reducible repeat' first | assumption | apply State.logRec_keeps | apply State.bump_keeps

theorem State.macOp_keeps {a s : State} (h : Keeps a s) {x1 x2 x3 x4 x5 x6 x7} : Keeps a (State.macOp s x1 x2 x3 x4 x5 x6 x7) := by
  unfold State.macOp
  try dsimp only
  with_reducible repeat' first | assumption | split | apply State.slotOp_keeps | apply State.onEngine_keeps | apply State.bump64_keeps

theorem State.markCandidates_keeps {a s : State} (h : Keeps a s) {x1 x2} : Keeps a (State.markCandidates s x1 x2) := by
  unfold State.markCandidates
  try dsimp only
  with_reducible repeat' first | assumption | split | apply State.onStore_keeps

theorem State.placeWrite_keeps {a s : State} (h : Keeps a s) {x1 x2 x3} : Keeps a (State.placeWrite s x1 x2 x3) := by
  unfold State.placeWrite
  try dsimp only
  with_reducible repeat' first | assumption | split | apply State.onEngine_keeps | apply State.dwrite_keeps | apply State.hwrite_keeps

theorem State.writeVia_keeps {a s : State} (h : Keeps a s) {x1 x2 x3 x4} : Keeps a (State.writeVia s x1 x2 x3 x4) := by
  unfold State.writeVia
  try dsimp only
  with_reducible repeat' first | assumption | split | apply State.judgeAccess_keeps | refine State.judgeAccess_keeps' (by assumption) ?_ | apply State.placeWrite_keeps

theorem State.moverWrite_keeps {a s : State} (h : Keeps a s) {x1 x2 x3 x4 x5} : Keeps a (State.moverWrite s x1 x2 x3 x4 x5) := by
  unfold State.moverWrite
  try dsimp only
  with_reducible repeat' first | assumption | (intro _; intros; try beta_reduce) | split | apply State.writeVia_keeps | apply State.onEngine_keeps | apply Keeps.foldl

theorem State.markTile_keeps {a s : State} (h : Keeps a s) {x1 x2 x3 x4 x5} : Keeps a (State.markTile s x1 x2 x3 x4 x5) := by
  unfold State.markTile
  try dsimp only
  with_reducible repeat' first | assumption | split | apply State.moverWrite_keeps

theorem State.runLocks_keeps {a s : State} (h : Keeps a s) {x1 x2} : Keeps a (State.runLocks s x1 x2) := by
  unfold State.runLocks
  try dsimp only
  with_reducible repeat' first | assumption | split | apply State.onTl_keeps | apply State.raise_keeps | apply State.bump_keeps

theorem State.pendStep_keeps {a s : State} (h : Keeps a s) {x1 x2 x3 x4} : Keeps a (State.pendStep s x1 x2 x3 x4) := by
  unfold State.pendStep
  try dsimp only
  with_reducible repeat' first | assumption | apply State.onTl_keeps

theorem State.scheduleStep_keeps {a s : State} (h : Keeps a s) {x1} : Keeps a (State.scheduleStep s x1) := by
  unfold State.scheduleStep
  try dsimp only
  with_reducible repeat' first | assumption | split | apply State.newEpoch_keeps | refine State.newEpoch_keeps' (by assumption) ?_ | apply State.pendStep_keeps

theorem State.outlier_keeps {a s : State} (h : Keeps a s) {x1} : Keeps a (State.outlier s x1) := by
  unfold State.outlier
  try dsimp only
  with_reducible repeat' first | assumption | split | apply State.raise_keeps | apply State.bump_keeps | apply State.onTl_keeps | apply State.jumpOffset_keeps | apply State.scheduleStep_keeps

theorem State.steer_keeps {a s : State} (h : Keeps a s) {x1} : Keeps a (State.steer s x1) := by
  unfold State.steer
  try dsimp only
  with_reducible repeat' first | assumption | apply State.onTl_keeps

theorem State.measure_keeps {a s : State} (h : Keeps a s) {x1} : Keeps a (State.measure s x1) := by
  unfold State.measure
  try dsimp only
  with_reducible repeat' first | assumption | split | apply State.setPair_keeps | apply State.runLocks_keeps | apply State.outlier_keeps | apply State.onTl_keeps | apply State.bump_keeps | apply State.steer_keeps

theorem State.mergeNode_keeps {a s : State} (h : Keeps a s) {x1} : Keeps a (State.mergeNode s x1) := by
  unfold State.mergeNode
  try dsimp only
  with_reducible repeat' first | assumption | (intro _; intros; try beta_reduce) | split | apply State.refuseFull_keeps | apply State.onStore_keeps | apply State.mergeStop_keeps | apply State.logDelta_keeps | apply State.bump_keeps | apply Keeps.foldl | fail_if_no_progress (apply Keeps.frame; rotate_left; (first | rfl | focus (simp only [State.unitCounts, lmod_length, lput, List.length_map, List.length_zipIdx]; done)))

theorem State.mirrorDrop_keeps {a s : State} (h : Keeps a s) : Keeps a (State.mirrorDrop s) := by
  unfold State.mirrorDrop
  try dsimp only
  with_reducible repeat' first | assumption | focus (intro _; first | rfl | (simp only [lmod_length, lput, List.length_map, List.length_zipIdx]; done)) | apply State.onPeers_keeps | apply State.bump_keeps

theorem State.onMirror_keeps {a s : State} (h : Keeps a s) {x1} : Keeps a (State.onMirror s x1) := by
  unfold State.onMirror
  try dsimp only
  with_reducible repeat' first | assumption | focus (intro _; first | rfl | (simp only [lmod_length, lput, List.length_map, List.length_zipIdx]; done)) | apply State.onPeers_keeps

theorem State.mirrorEntry_keeps {a s : State} (h : Keeps a s) {x1} : Keeps a (State.mirrorEntry s x1) := by
  unfold State.mirrorEntry
  try dsimp only
  with_reducible repeat' first | assumption | split | apply State.onMirror_keeps | apply State.mirrorDrop_keeps

theorem State.mirrorFrom_keeps {a s : State} (h : Keeps a s) {x1 x2} : Keeps a (State.mirrorFrom s x1 x2) := by
  unfold State.mirrorFrom
  try dsimp only
  with_reducible repeat' first | assumption | (intro _; intros; try beta_reduce) | split | apply State.onMirror_keeps | apply State.mirrorEntry_keeps | apply Keeps.foldl

theorem State.missAt_keeps {a s : State} (h : Keeps a s) {x1} : Keeps a (State.missAt s x1) := by
  unfold State.missAt
  try dsimp only
  with_reducible repeat' first | assumption | (intro _; intros; try beta_reduce) | split | apply State.bump_keeps | apply State.onDest_keeps | apply State.error_keeps | apply State.raise_keeps | apply Keeps.foldl | apply Keeps.foldlP

theorem State.rejournal_keeps {a s : State} (h : Keeps a s) {x1 x2 x3} : Keeps a (State.rejournal s x1 x2 x3) := by
  unfold State.rejournal
  try dsimp only
  with_reducible repeat' first | assumption | focus (intro _; first | rfl | (simp only [lmod_length, lput, List.length_map, List.length_zipIdx]; done)) | split | apply State.onCom_keeps

theorem State.movePea_keeps {a s : State} (h : Keeps a s) {x1 x2 x3 x4 x5} : Keeps a (State.movePea s x1 x2 x3 x4 x5) := by
  unfold State.movePea
  try dsimp only
  with_reducible repeat' first | assumption | split | apply State.abandonCandidate_keeps | apply State.refuseFull_keeps | apply State.placeFor_keeps | refine State.placeFor_keeps' (by assumption) ?_ | apply State.podRefused_keeps | apply State.hitOf_keeps | refine State.hitOf_keeps' (by assumption) ?_ | apply State.dropPea_keeps | apply State.writeHit_keeps | apply State.bump_keeps | apply State.keepPea_keeps | refine State.keepPea_keeps' (by assumption) ?_ | apply State.rejournal_keeps

theorem State.writeLocal_keeps {a s : State} (h : Keeps a s) {x1 x2 x3 x4 x5 x6} : Keeps a (State.writeLocal s x1 x2 x3 x4 x5 x6) := by
  unfold State.writeLocal
  try dsimp only
  with_reducible repeat' first | assumption | split | apply State.moverWrite_keeps | apply State.markTile_keeps | apply State.raise_keeps | apply State.bump_keeps

theorem State.sendWrite_keeps {a s : State} (h : Keeps a s) {x1 x2} : Keeps a (State.sendWrite s x1 x2).1 := by
  unfold State.sendWrite
  try dsimp only
  with_reducible repeat' first | assumption | split | apply State.queueFlits_keeps | apply State.raise_keeps | apply State.bump_keeps

theorem State.sendWrite_keeps' {a s t : State} {x1 x2} {r} (e : State.sendWrite s x1 x2 = (t, r)) (h : Keeps a s) : Keeps a t := by
  have k := State.sendWrite_keeps h (x1 := x1) (x2 := x2)
  rw [e] at k
  exact k

theorem State.opFault_keeps {a s : State} (h : Keeps a s) {x1} : Keeps a (State.opFault s x1) := by
  unfold State.opFault
  try dsimp only
  with_reducible repeat' first | assumption | apply State.onMover_keeps

theorem State.writeUnit_keeps {a s : State} (h : Keeps a s) {x1 x2 x3 x4 x5 x6 x7} : Keeps a (State.writeUnit s x1 x2 x3 x4 x5 x6 x7) := by
  unfold State.writeUnit
  try dsimp only
  with_reducible repeat' first | assumption | (intro _; intros; try beta_reduce) | split | apply State.raise_keeps | apply State.bump64_keeps | apply State.markTile_keeps | apply State.writeLocal_keeps | apply State.sendWrite_keeps | refine State.sendWrite_keeps' (by assumption) ?_ | apply State.opFault_keeps | apply Keeps.foldl | apply Keeps.foldlP

theorem State.moveUnit_keeps {a s : State} (h : Keeps a s) {x1 x2 x3 x4 x5 x6 x7} : Keeps a (State.moveUnit s x1 x2 x3 x4 x5 x6 x7) := by
  unfold State.moveUnit
  try dsimp only
  with_reducible repeat' first | assumption | split | apply State.readUnit_keeps | refine State.readUnit_keeps' (by assumption) ?_ | apply State.convert_keeps | refine State.convert_keeps' (by assumption) ?_ | apply State.writeUnit_keeps

theorem State.noteMoved_keeps {a s : State} (h : Keeps a s) {x1 x2 x3} : Keeps a (State.noteMoved s x1 x2 x3) := by
  unfold State.noteMoved
  try dsimp only
  with_reducible repeat' first | assumption | split | apply State.onMover_keeps | apply State.bump64_keeps | apply State.took_keeps

theorem State.noteShadows_keeps {a s : State} (h : Keeps a s) {x1} : Keeps a (State.noteShadows s x1) := by
  unfold State.noteShadows
  try dsimp only
  with_reducible repeat' first | assumption | split | apply State.bump_keeps

theorem State.moverCopy_keeps {a s : State} (h : Keeps a s) {x1} : Keeps a (State.moverCopy s x1) := by
  unfold State.moverCopy
  try dsimp only
  with_reducible repeat' first | assumption | (intro _; intros; try beta_reduce) | split | apply State.moveUnit_keeps | apply State.noteMoved_keeps | apply State.noteShadows_keeps | apply Keeps.foldl

theorem State.passRecords_keeps {a s : State} (h : Keeps a s) {x1 x2 x3 x4 x5 x6} : Keeps a (State.passRecords s x1 x2 x3 x4 x5 x6).1 := by
  unfold State.passRecords
  try dsimp only
  with_reducible repeat' first | assumption | split | apply State.bump_keeps

theorem State.passRecords_keeps' {a s t : State} {x1 x2 x3 x4 x5 x6} {r} (e : State.passRecords s x1 x2 x3 x4 x5 x6 = (t, r)) (h : Keeps a s) : Keeps a t := by
  have k := State.passRecords_keeps h (x1 := x1) (x2 := x2) (x3 := x3) (x4 := x4) (x5 := x5) (x6 := x6)
  rw [e] at k
  exact k

theorem State.takeBatch_keeps {a s : State} (h : Keeps a s) {x1} : Keeps a (State.takeBatch s x1) := by
  unfold State.takeBatch
  try dsimp only
  with_reducible repeat' first | assumption | focus (intro _; first | rfl | (simp only [lmod_length, lput, List.length_map, List.length_zipIdx]; done)) | split | apply State.raise_keeps | apply State.bump_keeps | apply State.onCom_keeps

theorem State.moverDeliver_keeps {a s : State} (h : Keeps a s) {x1} : Keeps a (State.moverDeliver s x1) := by
  unfold State.moverDeliver
  try dsimp only
  with_reducible repeat' first | assumption | (intro _; intros; try beta_reduce) | split | apply State.readUnit_keeps | refine State.readUnit_keeps' (by assumption) ?_ | apply State.noteMoved_keeps | apply State.passRecords_keeps | refine State.passRecords_keeps' (by assumption) ?_ | apply State.takeBatch_keeps | apply Keeps.foldl | apply Keeps.foldlP

theorem State.moverFill_keeps {a s : State} (h : Keeps a s) {x1} : Keeps a (State.moverFill s x1) := by
  unfold State.moverFill
  try dsimp only
  with_reducible repeat' first | assumption | (intro _; intros; try beta_reduce) | split | apply State.writeUnit_keeps | apply State.noteMoved_keeps | apply State.noteShadows_keeps | apply Keeps.foldl

theorem State.moverGather_keeps {a s : State} (h : Keeps a s) {x1} : Keeps a (State.moverGather s x1) := by
  unfold State.moverGather
  try dsimp only
  with_reducible repeat' first | assumption | (intro _; intros; try beta_reduce) | split | apply State.indexAt_keeps | refine State.indexAt_keeps' (by assumption) ?_ | apply State.onMover_keeps | apply State.bump64_keeps | apply State.moveUnit_keeps | apply State.raise_keeps | apply State.bump_keeps | apply State.convert_keeps | refine State.convert_keeps' (by assumption) ?_ | apply State.writeUnit_keeps | apply State.noteMoved_keeps | apply State.noteShadows_keeps | apply Keeps.foldl

theorem State.moverScatter_keeps {a s : State} (h : Keeps a s) {x1} : Keeps a (State.moverScatter s x1) := by
  unfold State.moverScatter
  try dsimp only
  with_reducible repeat' first | assumption | (intro _; intros; try beta_reduce) | split | apply State.indexAt_keeps | refine State.indexAt_keeps' (by assumption) ?_ | apply State.moveUnit_keeps | apply State.raise_keeps | apply State.bump_keeps | apply State.noteMoved_keeps | apply State.noteShadows_keeps | apply Keeps.foldl

theorem State.noteEnd_keeps {a s : State} (h : Keeps a s) {x1} : Keeps a (State.noteEnd s x1) := by
  unfold State.noteEnd
  try dsimp only
  with_reducible repeat' first | assumption | focus (intro _; first | rfl | (simp only [lmod_length, lput, List.length_map, List.length_zipIdx]; done)) | split | apply State.rmax_keeps | apply State.onPeers_keeps

theorem State.noteFlit_keeps {a s : State} (h : Keeps a s) {x1 x2} : Keeps a (State.noteFlit s x1 x2) := by
  unfold State.noteFlit
  try dsimp only
  with_reducible repeat' first | assumption | split | apply State.bump_keeps | apply State.bump64_keeps

theorem State.offerPea_keeps {a s : State} (h : Keeps a s) {x1 x2} (h2 : ∀ y0, Keeps a y0 → Keeps a (x2 y0)): Keeps a (State.offerPea s x1 x2) := by
  unfold State.offerPea
  try dsimp only
  with_reducible repeat' first | assumption | focus (intro _; first | rfl | (simp only [lmod_length, lput, List.length_map, List.length_zipIdx]; done)) | (intro _; intros; try beta_reduce) | split | apply State.bump_keeps | apply State.onIng_keeps | apply State.raise_keeps | apply h2

theorem State.opRefused_keeps {a s : State} (h : Keeps a s) : Keeps a (State.opRefused s) := by
  unfold State.opRefused
  try dsimp only
  with_reducible repeat' first | assumption | apply State.raise_keeps | apply State.bump_keeps

theorem State.queueSlot_keeps {a s : State} (h : Keeps a s) : Keeps a (State.queueSlot s) := by
  unfold State.queueSlot
  try dsimp only
  with_reducible repeat' first | assumption | focus (intro _; first | rfl | (simp only [lmod_length, lput, List.length_map, List.length_zipIdx]; done)) | (intro _; intros; try beta_reduce) | apply State.onCom_keeps | apply State.queueAll_keeps | apply Keeps.foldl

theorem State.openFrame_keeps {a s : State} (h : Keeps a s) : Keeps a (State.openFrame s) := by
  unfold State.openFrame
  try dsimp only
  with_reducible repeat' first | assumption | rfl | focus (intro _; first | rfl | (simp only [lmod_length, lput, List.length_map, List.length_zipIdx]; done)) | apply State.queueSlot_keeps | apply State.onSafety_keeps | apply State.onSolver_keeps | apply State.onPeers_keeps | fail_if_no_progress (apply Keeps.frame; rotate_left; (first | rfl | focus (simp only [State.unitCounts, lmod_length, lput, List.length_map, List.length_zipIdx]; done))) | fail_if_no_progress (apply Keeps.safetyFrame; rotate_left; rfl; rfl; rfl; rfl; rfl; (first | rfl | focus (simp only [State.unitCounts, lmod_length, lput, List.length_map, List.length_zipIdx]; done)))

theorem State.parse_keeps {a s : State} (h : Keeps a s) {x1 x2} : Keeps a (State.parse s x1 x2) := by
  unfold State.parse
  try dsimp only
  with_reducible repeat' first | assumption | split | apply State.abandon_keeps | apply State.onMachine_keeps

theorem State.restoreTrack_keeps {a s : State} (h : Keeps a s) {x1} : Keeps a (State.restoreTrack s x1) := by
  unfold State.restoreTrack
  try dsimp only
  with_reducible repeat' first | assumption | apply State.publishVersion_keeps

theorem State.restoreTracks_keeps {a s : State} (h : Keeps a s) : Keeps a (State.restoreTracks s) := by
  unfold State.restoreTracks
  try dsimp only
  with_reducible repeat' first | assumption | (intro _; intros; try beta_reduce) | split | apply State.restoreTrack_keeps | apply State.onPower_keeps | apply State.raise_keeps | apply State.rput_keeps | apply Keeps.foldl

theorem State.sendHeld_keeps {a s : State} (h : Keeps a s) {x1 x2} : Keeps a (State.sendHeld s x1 x2) := by
  unfold State.sendHeld
  try dsimp only
  with_reducible repeat' first | assumption | split | apply State.bump64_keeps | apply State.send_keeps | apply State.onPeer_keeps

theorem State.sendNext_keeps {a s : State} (h : Keeps a s) {x1} : Keeps a (State.sendNext s x1) := by
  unfold State.sendNext
  try dsimp only
  with_reducible repeat' first | assumption | (intro _; intros; try beta_reduce) | split | apply State.onPeer_keeps | apply State.noteEnd_keeps | apply State.sendHeld_keeps | apply Keeps.foldl

theorem State.pumpPort_keeps {a s : State} (h : Keeps a s) {p n} : Keeps a (s.pumpPort p n) := by
  induction n generalizing s with
  | zero => exact h
  | succ n ih =>
    unfold State.pumpPort
    dsimp only
    split
    · exact ih (State.sendNext_keeps h)
    · exact h

theorem State.pumpPeers_keeps {a s : State} (h : Keeps a s) {x1} : Keeps a (State.pumpPeers s x1) := by
  unfold State.pumpPeers
  try dsimp only
  with_reducible repeat' first | assumption | (intro _; intros; try beta_reduce) | apply State.pumpPort_keeps | apply Keeps.foldl

theorem State.ringBeat_keeps {a s : State} (h : Keeps a s) : Keeps a (State.ringBeat s) := by
  unfold State.ringBeat
  try dsimp only
  with_reducible repeat' first | assumption | focus (intro _; first | rfl | (simp only [lmod_length, lput, List.length_map, List.length_zipIdx]; done)) | split | apply State.onHost_keeps

theorem State.trackBeat_keeps {a s : State} (h : Keeps a s) : Keeps a (State.trackBeat s) := by
  unfold State.trackBeat
  try dsimp only
  with_reducible repeat' first | assumption | (intro _; intros; try beta_reduce) | split | apply State.onStore_keeps | apply Keeps.foldl | apply Keeps.foldlP

theorem State.unitsBeat_keeps {a s : State} (h : Keeps a s) : Keeps a (State.unitsBeat s) := by
  unfold State.unitsBeat
  try dsimp only
  with_reducible repeat' first | assumption | apply State.alertBeat_keeps | apply State.restoreTracks_keeps | apply State.pumpPeers_keeps | apply State.dumpBeat_keeps | apply State.ringBeat_keeps | apply State.trackBeat_keeps | apply State.budgetBeat_keeps | apply State.freshBeat_keeps

theorem State.passBeat_keeps {a s : State} (h : Keeps a s) : Keeps a (State.passBeat s) := by
  unfold State.passBeat
  try dsimp only
  with_reducible repeat' first | assumption | split | apply State.formCommits_keeps | apply State.advanceBeat_keeps | apply State.queueSlot_keeps | apply State.evalSafety_keeps | apply State.unitsBeat_keeps

theorem State.senseFrame_keeps {a s : State} (h : Keeps a s) {x1} : Keeps a (State.senseFrame s x1) := by
  unfold State.senseFrame
  try dsimp only
  with_reducible repeat' first | assumption | focus (intro _; first | rfl | (simp only [lmod_length, lput, List.length_map, List.length_zipIdx]; done)) | split | apply State.onPower_keeps | apply State.onMem_keeps | apply State.raise_keeps

theorem State.passFrame_keeps {a s : State} (h : Keeps a s) {x1} : Keeps a (State.passFrame s x1) := by
  unfold State.passFrame
  try dsimp only
  with_reducible repeat' first | assumption | apply State.evalSafety_keeps | apply State.openFrame_keeps | apply State.senseFrame_keeps | apply State.copyFrame_keeps | apply State.frameSteps_keeps | apply State.closeFrame_keeps

theorem State.pdelayReceive_keeps {a s : State} (h : Keeps a s) {x1 x2 x3 x4 x5} : Keeps a (State.pdelayReceive s x1 x2 x3 x4 x5) := by
  unfold State.pdelayReceive
  try dsimp only
  with_reducible repeat' first | assumption | split | apply State.egress_keeps | apply State.onPort_keeps | apply State.rset_keeps

theorem State.tapPea_keeps {a s : State} (h : Keeps a s) {x1} : Keeps a (State.tapPea s x1) := by
  unfold State.tapPea
  try dsimp only
  with_reducible repeat' first | assumption | rfl | split | apply State.onSafety_keeps

theorem State.peerPea_keeps {a s : State} (h : Keeps a s) {x1 x2 x3 x4 x5} : Keeps a (State.peerPea s x1 x2 x3 x4 x5) := by
  unfold State.peerPea
  try dsimp only
  with_reducible repeat' first | assumption | (intro _; intros; try beta_reduce) | split | apply State.offerPea_keeps | apply State.onStore_keeps | apply State.noteSweep_keeps | apply State.tapPea_keeps | apply State.raise_keeps | apply State.bump_keeps | apply State.dropOutside_keeps | apply State.forwardPea_keeps | apply State.discardDelta_keeps

theorem State.ringPut_keeps {a s : State} (h : Keeps a s) {x1 x2 x3 x4 x5} : Keeps a (State.ringPut s x1 x2 x3 x4 x5) := by
  unfold State.ringPut
  try dsimp only
  with_reducible repeat' first | assumption | apply State.dwrite_keeps

theorem State.peerRecord_keeps {a s : State} (h : Keeps a s) {x1 x2} : Keeps a (State.peerRecord s x1 x2) := by
  unfold State.peerRecord
  try dsimp only
  with_reducible repeat' first | assumption | split | apply State.bump_keeps | apply State.onPeer_keeps | apply State.ringPut_keeps

theorem State.pivotOp_keeps {a s : State} (h : Keeps a s) {x1 x2 x3 x4 x5 x6} : Keeps a (State.pivotOp s x1 x2 x3 x4 x5 x6) := by
  unfold State.pivotOp
  try dsimp only
  with_reducible repeat' first | assumption | split | apply State.slotOp_keeps

theorem State.poisonCommons_keeps {a s : State} (h : Keeps a s) {x1} : Keeps a (s.poisonCommons x1) := by
  unfold State.poisonCommons
  refine h.data (dataWf_map _ ?_ ?_)
  · intro x; split <;> rfl
  · intro x; split <;> rfl

theorem State.poisonCw_keeps {a s : State} (h : Keeps a s) {x1 x2} : Keeps a (State.poisonCw s x1 x2) := by
  unfold State.poisonCw
  try dsimp only
  with_reducible repeat' first | assumption | split | apply State.raise_keeps | apply State.bump_keeps | apply State.onChannel_keeps | apply State.poisonWhere_keeps

theorem State.postOut_keeps {a s : State} (h : Keeps a s) {x1 x2} : Keeps a (State.postOut s x1 x2) := by
  unfold State.postOut
  try dsimp only
  with_reducible repeat' first | assumption | rfl | split | apply State.late_keeps | apply State.onBoot_keeps | apply State.bump_keeps

end Sys2Proof.Machine
end

