-- ==== Sys2Proof/Laws/Keeps4.lean ====
section
/-! SUPPORT. What each operation and command keeps (part 4). -/

namespace Sys2Proof.Machine

open Sys2Proof

set_option linter.unusedTactic false
set_option linter.unreachableTactic false
set_option linter.unusedSimpArgs false

theorem State.programDone_keeps {a s : State} (h : Keeps a s) {x1} : Keeps a (s.programDone x1) := by
  unfold State.programDone
  split
  · exact h
  · dsimp only
    split
    · apply State.raise_keeps
      exact State.onBoot_keeps h rfl
    · split
      · apply State.raise_keeps
        exact (State.onBoot_keeps (f := fun b => { b with programming := none }) h rfl).fuses BitVec.and_self id
      · apply State.raise_keeps
        apply State.debugGrant_keeps
        exact h.trans ⟨rfl, BitVec.and_self, fun _ _ => rfl, id, id, id, .refl _, rfl⟩

theorem State.programFuse_keeps {a s : State} (h : Keeps a s) {x1} : Keeps a (State.programFuse s x1) := by
  unfold State.programFuse
  try dsimp only
  with_reducible repeat' first | assumption | rfl | split | apply State.late_keeps | apply State.onBoot_keeps

theorem State.trackChange_keeps {a s : State} (h : Keeps a s) {x1 x2} : Keeps a (State.trackChange s x1 x2) := by
  unfold State.trackChange
  try dsimp only
  with_reducible repeat' first | assumption | apply State.trackResult_keeps

theorem State.publishOne_keeps {a s : State} (h : Keeps a s) {x1 x2 x3 x4} : Keeps a (State.publishOne s x1 x2 x3 x4) := by
  unfold State.publishOne
  try dsimp only
  with_reducible repeat' first | assumption | split | apply State.raise_keeps | apply State.bump_keeps | apply State.trackChange_keeps | apply State.setPair_keeps | apply State.publishVersion_keeps | apply State.rset_keeps

theorem State.startDropping_keeps {a s : State} (h : Keeps a s) {x1} : Keeps a (State.startDropping s x1) := by
  unfold State.startDropping
  try dsimp only
  with_reducible repeat' first | assumption | apply State.onFn_keeps

theorem State.pushWhole_keeps {a s : State} (h : Keeps a s) {x1 x2} : Keeps a (State.pushWhole s x1 x2) := by
  unfold State.pushWhole
  try dsimp only
  with_reducible repeat' first | assumption | split | apply State.hqRaise_keeps | apply State.startDropping_keeps | apply State.dropWord_keeps | apply State.beginItem_keeps | apply State.onFn_keeps

theorem State.pushOne_keeps {a s : State} (h : Keeps a s) {x1 x2 x3 x4} : Keeps a (State.pushOne s x1 x2 x3 x4) := by
  unfold State.pushOne
  try dsimp only
  with_reducible repeat' first | assumption | split | apply State.hqWatermark_keeps | apply State.pushWhole_keeps | apply State.startDropping_keeps | apply State.dropWord_keeps | apply State.late_keeps

theorem State.pushAll_keeps {a s : State} (h : Keeps a s) {x1 x2 x3} : Keeps a (State.pushAll s x1 x2 x3) := by
  unfold State.pushAll
  try dsimp only
  with_reducible repeat' first | assumption | (intro _; intros; try beta_reduce) | split | apply State.pushOne_keeps | apply State.deny_keeps | apply Keeps.lfoldIdx

theorem State.radishEnd_keeps {a s : State} (h : Keeps a s) {x1 x2} : Keeps a (State.radishEnd s x1 x2) := by
  unfold State.radishEnd
  try dsimp only
  with_reducible repeat' first | assumption | split | apply State.onBook_keeps | apply State.onEngine_keeps | apply State.updateCoverage_keeps | apply State.raise_keeps | apply State.bump_keeps | apply State.engEvent_keeps

theorem State.readAt_keeps {a s : State} (h : Keeps a s) {x1 x2 x3} : Keeps a (State.readAt s x1 x2 x3).1 := by
  unfold State.readAt
  try dsimp only
  with_reducible repeat' first | assumption | (intro _; intros; try beta_reduce) | split | apply Keeps.foldl | apply Keeps.foldlP | fail_if_no_progress (apply Keeps.frame; rotate_left; (first | rfl | focus (simp only [State.unitCounts, lmod_length, lput, List.length_map, List.length_zipIdx]; done)))

theorem State.readAt_keeps' {a s t : State} {x1 x2 x3} {r} (e : State.readAt s x1 x2 x3 = (t, r)) (h : Keeps a s) : Keeps a t := by
  have k := State.readAt_keeps h (x1 := x1) (x2 := x2) (x3 := x3)
  rw [e] at k
  exact k

theorem State.readValue_keeps {a s : State} (h : Keeps a s) {x1 x2 x3} : Keeps a (State.readValue s x1 x2 x3).1 := by
  unfold State.readValue
  try dsimp only
  with_reducible repeat' first | assumption | split | apply State.deny_keeps | apply State.readAt_keeps

theorem State.readWord_keeps {a s : State} (h : Keeps a s) {x1 x2 x3} : Keeps a (State.readWord s x1 x2 x3) :=
  State.send_keeps (State.readValue_keeps h)

theorem State.readAccess_keeps {a s : State} (h : Keeps a s) {x1 x2 x3} : Keeps a (State.readAccess s x1 x2 x3) := by
  unfold State.readAccess
  try dsimp only
  with_reducible repeat' first | assumption | split | apply State.readWord_keeps | apply State.send_keeps | apply State.deny_keeps | apply State.late_keeps

theorem State.readCw_keeps {a s : State} (h : Keeps a s) {x1 x2 x3 x4 x5} : Keeps a (State.readCw s x1 x2 x3 x4 x5) := by
  unfold State.readCw
  try dsimp only
  with_reducible repeat' first | assumption | split | apply State.corrected_keeps | apply State.raise_keeps | apply State.countSymbols_keeps | apply State.eccCapture_keeps | apply State.bump_keeps | apply State.retireChannel_keeps | apply State.poisonCw_keeps

theorem State.receive_keeps {a s : State} (h : Keeps a s) {x1 x2 x3 x4} : Keeps a (State.receive s x1 x2 x3 x4) := by
  unfold State.receive
  try dsimp only
  with_reducible repeat' first | assumption | split | apply State.stampTime_keeps | refine State.stampTime_keeps' (by assumption) ?_ | apply State.learn_keeps | apply State.badFrame_keeps | apply State.pdelayReceive_keeps | apply State.consume_keeps | apply State.bridge_keeps | refine State.bridge_keeps' (by assumption) ?_

theorem State.takeHeader_keeps {a s : State} (h : Keeps a s) {x1 x2} : Keeps a (State.takeHeader s x1 x2) := by
  unfold State.takeHeader
  try dsimp only
  with_reducible repeat' first | assumption | split | apply State.onPeer_keeps

theorem State.recvFlit_keeps {a s : State} (h : Keeps a s) {x1 x2 x3 x4} (h4 : ∀ y0, Keeps a y0 → Keeps a (x4 y0)): Keeps a (State.recvFlit s x1 x2 x3 x4) := by
  unfold State.recvFlit
  try dsimp only
  with_reducible repeat' first | assumption | (intro _; intros; try beta_reduce) | split | apply State.noteFlit_keeps | apply State.sendLink_keeps | apply State.discardFlit_keeps | apply State.laneEvent_keeps | apply State.takeHeader_keeps | apply State.onPeer_keeps | apply h4

theorem State.recvLink_keeps {a s : State} (h : Keeps a s) {x1 x2 x3 x4} (h4 : ∀ y0, Keeps a y0 → Keeps a (x4 y0)): Keeps a (State.recvLink s x1 x2 x3 x4) := by
  unfold State.recvLink
  try dsimp only
  with_reducible repeat' first | assumption | (intro _; intros; try beta_reduce) | split | apply State.noteFlit_keeps | apply State.takeHeader_keeps | apply State.sendLink_keeps | apply h4

theorem State.redeskewOne_keeps {a s : State} (h : Keeps a s) {x1 x2} : Keeps a (State.redeskewOne s x1 x2) := by
  unfold State.redeskewOne
  try dsimp only
  with_reducible repeat' first | assumption | split | apply State.took_keeps | apply State.bump_keeps | apply State.rejournal_keeps | apply State.onStore_keeps | apply State.movePea_keeps | apply State.abandonCandidate_keeps | apply State.refuseFull_keeps | apply State.hitOf_keeps | refine State.hitOf_keeps' (by assumption) ?_ | apply State.dropPea_keeps | apply State.writeHit_keeps | apply State.forwardPea_keeps

theorem State.refreshNow_keeps {a s : State} (h : Keeps a s) : Keeps a (State.refreshNow s) := by
  unfold State.refreshNow
  try dsimp only
  with_reducible repeat' first | assumption | split | apply State.askRefresh_keeps

theorem State.refreshSet_keeps {a s : State} (h : Keeps a s) {x1} : Keeps a (State.refreshSet s x1) := by
  unfold State.refreshSet
  try dsimp only
  with_reducible repeat' first | assumption | split | apply State.bump_keeps | apply State.queueFlits_keeps

theorem State.ringEnable_keeps {a s : State} (h : Keeps a s) {x1} : Keeps a (State.ringEnable s x1) := by
  unfold State.ringEnable
  try dsimp only
  with_reducible repeat' first | assumption | focus (intro _; first | rfl | (simp only [lmod_length, lput, List.length_map, List.length_zipIdx]; done)) | split | apply State.setPair_keeps | apply State.rput_keeps | apply State.onHost_keeps | apply State.onDest_keeps | apply State.destOff_keeps

theorem State.sensorDown_keeps {a s : State} (h : Keeps a s) {x1} : Keeps a (State.sensorDown s x1) := by
  unfold State.sensorDown
  try dsimp only
  with_reducible repeat' first | assumption | split | apply State.bump_keeps | apply State.onPort_keeps | apply State.raise_keeps

theorem State.regEffect_keeps {a s : State} (h : Keeps a s) {x1 x2 x3 x4} : Keeps a (State.regEffect s x1 x2 x3 x4) := by
  unfold State.regEffect
  try dsimp only
  with_reducible repeat' first | assumption | rfl | split | apply State.rset_keeps | apply State.ringEnable_keeps | apply State.hqWatermark_keeps | apply State.onKeeper_keeps | apply State.sensorDown_keeps | apply State.watermark_keeps | apply State.enabledEvents_keeps | exact ⟨by first | exact Nat.le_refl _ | exact Nat.le_add_right _ _ | omega, by first | exact Nat.le_refl _ | exact Nat.le_add_right _ _ | omega, by first | exact Nat.le_refl _ | exact Nat.le_add_right _ _ | omega, by first | exact Nat.le_refl _ | exact Nat.le_add_right _ _ | omega, by first | exact Nat.le_refl _ | exact Nat.le_add_right _ _ | omega⟩

theorem State.rehearsed_keeps {a s : State} (h : Keeps a s) {x1 x2 x3} : Keeps a (State.rehearsed s x1 x2 x3) := by
  unfold State.rehearsed
  try dsimp only
  with_reducible repeat' first | assumption | split | apply State.onSlot_keeps | apply State.engEvent_keeps | apply State.rset_keeps | apply State.beginArming_keeps | apply State.clearShadow_keeps | apply State.raise_keeps | apply State.bump_keeps | apply State.refuseImage_keeps

theorem State.rekeyEvery_keeps {a s : State} (h : Keeps a s) : Keeps a (State.rekeyEvery s) := by
  unfold State.rekeyEvery
  try dsimp only
  with_reducible repeat' first | assumption | (intro _; intros; try beta_reduce) | apply State.onStore_keeps | apply Keeps.foldl

theorem State.releasePea_keeps {a s : State} (h : Keeps a s) {x1 x2} : Keeps a (State.releasePea s x1 x2) := by
  unfold State.releasePea
  try dsimp only
  with_reducible repeat' first | assumption | (intro _; intros; try beta_reduce) | split | apply State.preEpochDrop_keeps | apply State.offerPea_keeps | apply State.tapPea_keeps | apply State.onStore_keeps

theorem State.takeSample_keeps {a s : State} (h : Keeps a s) {x1} : Keeps a (State.takeSample s x1) := by
  unfold State.takeSample
  try dsimp only
  with_reducible repeat' first | assumption | split | apply State.bump_keeps | fail_if_no_progress (apply Keeps.frame; rotate_left; (first | rfl | focus (simp only [State.unitCounts, lmod_length, lput, List.length_map, List.length_zipIdx]; done)))

theorem State.takePixels_keeps {a s : State} (h : Keeps a s) {x1 x2} : Keeps a (State.takePixels s x1 x2) := by
  unfold State.takePixels
  try dsimp only
  with_reducible repeat' first | assumption | focus (intro _; first | rfl | (simp only [lmod_length, lput, List.length_map, List.length_zipIdx]; done)) | split | apply State.onIng_keeps

theorem State.releaseOut_keeps {a s : State} (h : Keeps a s) {x1 x2} : Keeps a (State.releaseOut s x1 x2) := by
  unfold State.releaseOut
  try dsimp only
  with_reducible repeat' first | assumption | split | apply State.releasePea_keeps | apply State.raise_keeps | apply State.bump_keeps | apply State.preEpochDrop_keeps | apply State.takeSample_keeps | apply State.takePixels_keeps

theorem State.remapGranule_keeps {a s : State} (h : Keeps a s) {x1 x2} : Keeps a (State.remapGranule s x1 x2) := by
  unfold State.remapGranule
  try dsimp only
  with_reducible repeat' first | assumption | split | apply State.bump_keeps | fail_if_no_progress (apply Keeps.frame; rotate_left; (first | rfl | focus (simp only [State.unitCounts, lmod_length, lput, List.length_map, List.length_zipIdx]; done)))

theorem State.remoteWrite_keeps {a s : State} (h : Keeps a s) {x1 x2} : Keeps a (State.remoteWrite s x1 x2) := by
  unfold State.remoteWrite
  try dsimp only
  with_reducible repeat' first | assumption | split | apply State.xlateFault_keeps | apply State.judgeAccess_keeps | refine State.judgeAccess_keeps' (by assumption) ?_ | apply State.moverWrite_keeps | apply State.bump64_keeps | apply State.raise_keeps | apply State.bump_keeps

theorem State.replayAll_keeps {a s : State} (h : Keeps a s) {x1} : Keeps a (State.replayAll s x1) := by
  unfold State.replayAll
  try dsimp only
  with_reducible repeat' first | assumption | (intro _; intros; try beta_reduce) | split | apply State.sendHeld_keeps | apply State.onPeer_keeps | apply State.linkDown_keeps | apply Keeps.foldl

theorem State.replyWords_keeps {a s : State} (h : Keeps a s) {x1} : Keeps a (State.replyWords s x1) := by
  unfold State.replyWords
  try dsimp only
  with_reducible repeat' first | assumption | (intro _; intros; try beta_reduce) | apply State.rset_keeps | apply Keeps.lfoldIdx

theorem State.resetFn_keeps {a s : State} (h : Keeps a s) {f} : Keeps a (s.resetFn f) := by
  unfold State.resetFn
  extract_lets lo lock chans busy s1 s2 s3
  have k1 : Keeps a s1 := State.onFn_keeps h
  clear_value s1
  have k2 : Keeps a s2 := Keeps.frame (s := { s1 with regs := _ }) (k1.regs (regsWf_filter _))
    (by simp only [State.unitCounts, List.length_map, List.length_zipIdx])
  have k3 : Keeps a s3 := Keeps.ite (fun _ => State.rput_keeps k2) (fun _ => k2)
  clear_value s3
  exact Keeps.ite (fun _ => State.onHost_keeps k3 (by intro _; rfl))
    (fun _ => State.onHost_keeps (State.destOff_keeps (State.rput_keeps k3)) (by intro _; rfl))

theorem State.resumeHeartbeat_keeps {a s : State} (h : Keeps a s) {x1 x2} : Keeps a (State.resumeHeartbeat s x1 x2) := by
  unfold State.resumeHeartbeat
  try dsimp only
  with_reducible repeat' first | assumption | rfl | split | apply State.onSafety_keeps | apply State.logAccess_keeps

theorem State.retireRoot_keeps {a s : State} (h : Keeps a s) {x1} : Keeps a (State.retireRoot s x1) := by
  unfold State.retireRoot
  try dsimp only
  with_reducible repeat' first | assumption | split | apply State.checkRoots_keeps | apply State.declare_keeps | apply State.onRoot_keeps

theorem State.retireSensorPort_keeps {a s : State} (h : Keeps a s) {x1} : Keeps a (State.retireSensorPort s x1) := by
  unfold State.retireSensorPort
  try dsimp only
  with_reducible repeat' first | assumption | apply State.raise_keeps | apply State.declare_keeps | apply State.onPort_keeps | apply State.sensorDown_keeps

theorem State.retryPeer_keeps {a s : State} (h : Keeps a s) {x1} : Keeps a (State.retryPeer s x1) := by
  unfold State.retryPeer
  try dsimp only
  with_reducible repeat' first | assumption | split | apply State.onPeer_keeps

theorem State.ringRecord_keeps {a s : State} (h : Keeps a s) {r} : Keeps a (s.ringRecord r) := by
  unfold State.ringRecord
  extract_lets b w base n s1 s2 s3 o
  have k1 : Keeps a s1 := State.hwrite_keeps (State.hwrite_keeps h _ _) _ _
  have k3 : Keeps a s3 := State.hwrite_keeps (State.setPair_keeps k1) _ _
  exact State.onHost_keeps (State.rset_keeps k3 _ _) (by intro _; rfl)

theorem State.ringSuspendAct_keeps {a s : State} (h : Keeps a s) : Keeps a (State.ringSuspendAct s) := by
  unfold State.ringSuspendAct
  try dsimp only
  with_reducible repeat' first | assumption | focus (intro _; first | rfl | (simp only [lmod_length, lput, List.length_map, List.length_zipIdx]; done)) | split | apply State.setPair_keeps | apply State.rset_keeps | apply State.onHost_keeps | apply State.rput_keeps | apply State.destOff_keeps | apply State.logRec_keeps | apply State.hqRaise_keeps | apply State.bump_keeps

theorem State.rootOp_keeps {a s : State} (h : Keeps a s) {x1 x2 x3 x4 x5 x6 x7} : Keeps a (State.rootOp s x1 x2 x3 x4 x5 x6 x7) := by
  unfold State.rootOp
  try dsimp only
  with_reducible repeat' first | assumption | apply State.slotOp_keeps

theorem State.scrubAgain_keeps {a s : State} (h : Keeps a s) : Keeps a (State.scrubAgain s) := by
  unfold State.scrubAgain
  try dsimp only
  with_reducible repeat' first | assumption | focus (intro _; first | rfl | (simp only [lmod_length, lput, List.length_map, List.length_zipIdx]; done)) | apply State.onMem_keeps

theorem State.seedRecord_keeps {a s : State} (h : Keeps a s) {x1 x2} : Keeps a (State.seedRecord s x1 x2) := by
  unfold State.seedRecord
  try dsimp only
  with_reducible repeat' first | assumption | split | apply State.bump_keeps | apply State.fileEntry_keeps | refine State.fileEntry_keeps (by assumption) ?_

theorem State.seedEntry_keeps {a s : State} (h : Keeps a s) {x0 x2} : Keeps a (State.seedEntry x0 s x2) := by
  unfold State.seedEntry
  try dsimp only
  with_reducible repeat' first | assumption | focus (intro _; first | rfl | (simp only [lmod_length, lput, List.length_map, List.length_zipIdx]; done)) | split | apply State.seedRecord_keeps | apply State.bump_keeps | apply State.raise_keeps | apply State.onPeers_keeps

theorem State.seedSet_keeps {a s : State} (h : Keeps a s) {x1} : Keeps a (State.seedSet s x1) := by
  unfold State.seedSet
  try dsimp only
  with_reducible repeat' first | assumption | split | apply State.queueFlits_keeps

theorem State.slowResult_keeps {a s : State} (h : Keeps a s) {x1 x2 x3 x4 x5} : Keeps a (State.slowResult s x1 x2 x3 x4 x5) := by
  unfold State.slowResult
  try dsimp only
  with_reducible repeat' first | assumption | apply State.rset_keeps

theorem State.snapTime_keeps {a s : State} (h : Keeps a s) : Keeps a (State.snapTime s) := by
  unfold State.snapTime
  try dsimp only
  with_reducible repeat' first | assumption | apply State.setPair_keeps | apply State.setWords_keeps | apply State.rset_keeps

theorem State.storeBeat_keeps {a s : State} (h : Keeps a s) {x1 x2 x3 x4 x5} : Keeps a (State.storeBeat s x1 x2 x3 x4 x5) := by
  unfold State.storeBeat
  try dsimp only
  with_reducible repeat' first | assumption | (intro _; intros; try beta_reduce) | split | apply State.slotOp_keeps | apply State.bump_keeps | apply State.onEngine_keeps | apply State.stall_keeps | apply Keeps.foldl | apply Keeps.foldlP | apply Keeps.lfoldIdx | apply Keeps.lfoldIdxP

theorem State.swapLane_keeps {a s : State} (h : Keeps a s) {x1 x2} : Keeps a (State.swapLane s x1 x2) := by
  unfold State.swapLane
  try dsimp only
  with_reducible repeat' first | assumption | split | apply State.onPeer_keeps | apply State.raise_keeps | apply State.retirePort_keeps

theorem State.switchRoot_keeps {a s : State} (h : Keeps a s) : Keeps a (State.switchRoot s) := by
  unfold State.switchRoot
  try dsimp only
  with_reducible repeat' first | assumption | split | apply State.onRoot_keeps | apply State.logRec_keeps | apply State.raise_keeps | apply State.took_keeps | apply State.onTl_keeps | apply State.checkRoots_keeps | apply State.retireRoot_keeps

theorem State.takeAnnounce_keeps {a s : State} (h : Keeps a s) {x1} : Keeps a (State.takeAnnounce s x1) := by
  unfold State.takeAnnounce
  try dsimp only
  with_reducible repeat' first | assumption | split | apply State.newEpoch_keeps | refine State.newEpoch_keeps' (by assumption) ?_ | apply State.onTl_keeps | apply State.pendStep_keeps | apply State.raise_keeps

theorem State.takeItem_keeps {a s : State} (h : Keeps a s) {x1 x2 x3} : Keeps a (State.takeItem s x1 x2 x3) := by
  unfold State.takeItem
  try dsimp only
  with_reducible repeat' first | assumption | split | apply State.onFn_keeps | apply State.bump_keeps | apply State.hqWatermark_keeps | apply State.complete_keeps

theorem State.takeRecord_keeps {a s : State} (h : Keeps a s) {n r rest} : Keeps a (s.takeRecord n r rest).1 := by
  unfold State.takeRecord
  extract_lets sr s1 s2 s3 s4 s5
  have k2 : Keeps a s2 := State.onDest_keeps (State.onCom_keeps h (by intro _; rfl))
  have k3 : Keeps a s3 := by
    unfold s3
    split
    · exact Keeps.ite (fun _ => State.rset_keeps k2 _ _) (fun _ => k2)
    · exact k2
  have k4 : Keeps a s4 := Keeps.ite (fun _ => State.bump64_keeps k3) (fun _ => Keeps.ite (fun _ => State.bump64_keeps k3) (fun _ => k3))
  have k5 : Keeps a s5 := Keeps.ite (fun _ => State.bump_keeps k4) (fun _ => k4)
  clear_value s5
  exact Keeps.ite (fun _ => Keeps.same (b := s5) k5 rfl) (fun _ => k5)

theorem State.takeRecord_keeps' {a s t : State} {n r rest x} (e : s.takeRecord n r rest = (t, x)) (h : Keeps a s) : Keeps a t := by
  have k := State.takeRecord_keeps h (n := n) (r := r) (rest := rest)
  rw [e] at k
  exact k

theorem State.voteDepth_keeps {a s : State} (h : Keeps a s) : Keeps a (State.voteDepth s) := by
  unfold State.voteDepth
  try dsimp only
  with_reducible repeat' first | assumption | split | apply State.onTl_keeps | apply State.raise_keeps

theorem State.takeTime_keeps {a s : State} (h : Keeps a s) {x1 x2 x3} : Keeps a (State.takeTime s x1 x2 x3) := by
  unfold State.takeTime
  try dsimp only
  with_reducible repeat' first | assumption | split | apply State.onPeer_keeps | apply State.rset_keeps | apply State.setPair_keeps | apply State.voteDepth_keeps | apply State.takeAnnounce_keeps | apply State.onTl_keeps

theorem State.timeSetAct_keeps {a s : State} (h : Keeps a s) : Keeps a (State.timeSetAct s) := by
  unfold State.timeSetAct
  try dsimp only
  with_reducible repeat' first | assumption | split | apply State.jumpOffset_keeps | apply State.formMeasurement_keeps

theorem State.transmitOne_keeps {a s : State} (h : Keeps a s) {x1} : Keeps a (State.transmitOne s x1) := by
  unfold State.transmitOne
  try dsimp only
  with_reducible repeat' first | assumption | split | apply State.onPort_keeps | apply State.took_keeps | apply State.leave_keeps | refine State.leave_keeps' (by assumption) ?_ | apply State.send_keeps | apply State.bump64_keeps

theorem State.unlockDebug_keeps {a s : State} (h : Keeps a s) {x1 x2 x3} : Keeps a (s.unlockDebug x1 x2 x3) := by
  unfold State.unlockDebug
  dsimp only
  split
  · next hr =>
    have hk : s.fuses.killed = false := by
      unfold State.unlockReason at hr
      cases hf : s.fuses.killed
      · rfl
      · simp [hf] at hr
    apply State.raise_keeps
    apply State.debugGrant_keeps
    have k : Keeps a ((s.onBoot (fun b => { b with challenge := false })).rset Reg.UNLOCK_RESULT (nw (s.unlockReason x2 x3))) :=
      State.rset_keeps (State.onBoot_keeps h rfl) _ _
    refine k.trans ⟨rfl, BitVec.and_self, ?_, id, id, id, .refl _, rfl⟩
    intro _ e
    have e' : s.fuses.killed = true := e
    rw [hk] at e'
    exact absurd e' (by simp)
  · apply State.raise_keeps
    apply State.logAccess_keeps
    apply State.onBoot_keeps
    · exact State.rset_keeps (State.onBoot_keeps h rfl) _ _
    · rfl

theorem State.trigger_keeps {a s : State} (h : Keeps a s) {x1 x2 x3 x4 x5 x6} : Keeps a (State.trigger s x1 x2 x3 x4 x5 x6) := by
  unfold State.trigger
  try dsimp only
  with_reducible repeat' first | assumption | rfl | split | apply State.lockEvery_keeps | apply State.postOut_keeps | apply State.onBoot_keeps | apply State.snapTime_keeps | apply State.timeSetAct_keeps | apply State.flushQueue_keeps | apply State.rekeyEvery_keeps | apply State.rset_keeps | apply State.freeCapture_keeps | apply State.onSolver_keeps | apply State.late_keeps | apply State.loadSlotCmd_keeps | apply State.cancelSlotCmd_keeps | apply State.scrubAgain_keeps | apply State.refreshNow_keeps | apply State.retryPeer_keeps | apply State.enterHold_keeps | apply State.resumeHeartbeat_keeps | apply State.flushHq_keeps | apply State.challengeDebug_keeps | apply State.unlockDebug_keeps | apply State.advanceFw_keeps | apply State.advanceImage_keeps | apply State.forgetMarrow_keeps | apply State.programFuse_keeps | fail_if_no_progress (apply Keeps.frame; rotate_left; (first | rfl | focus (simp only [State.unitCounts, lmod_length, lput, List.length_map, List.length_zipIdx]; done))) | fail_if_no_progress (apply Keeps.bootFrame; rotate_left; rfl; (first | rfl | focus (simp only [State.unitCounts, lmod_length, lput, List.length_map, List.length_zipIdx]; done)))

theorem State.update_keeps {a s : State} (h : Keeps a s) {x1 x2} : Keeps a (State.update s x1 x2) := by
  unfold State.update
  try dsimp only
  with_reducible repeat' first | assumption | split | apply State.noteNb_keeps | apply State.refuseNb_keeps | apply State.onPeer_keeps

theorem State.walkSweep_keeps {a s : State} (h : Keeps a s) : Keeps a (State.walkSweep s) := by
  unfold State.walkSweep
  try dsimp only
  with_reducible repeat' first | assumption | split | apply State.endSweep_keeps | apply State.onPower_keeps

theorem State.writeMsix_keeps {a s : State} (h : Keeps a s) {x1 x2 x3} : Keeps a (State.writeMsix s x1 x2 x3) := by
  unfold State.writeMsix
  try dsimp only
  with_reducible repeat' first | assumption | split | apply State.onFn_keeps | apply State.msix_keeps

theorem State.writeFields_keeps {a s : State} (h : Keeps a s) {ini off fn low d data ans} :
    Keeps a (s.writeFields ini off fn low d data ans) := by
  unfold State.writeFields
  extract_lets key old loKey heldLo lo locked spHeld woHeld held differs s1 lkBad s2 s3 ranged bad allHeld keep setMask clrMask trigMask new trig s4 src5 s5 src6 s6 lockBit s7 s8 s9 order
  have k1 : Keeps a s1 := Keeps.ite (fun _ => State.late_keeps h) (fun _ => h)
  have k2 : Keeps a s2 := Keeps.ite (fun _ => State.late_keeps k1) (fun _ => k1)
  have k3 : Keeps a s3 := Keeps.ite (fun _ => State.late_keeps k2) (fun _ => k2)
  refine Keeps.ite (fun _ => State.late_keeps k3) (fun _ => ?_)
  refine Keeps.ite (fun _ => k3.frame rfl) (fun _ => ?_)
  have k4 : Keeps a s4 := State.rset_keeps k3 _ _
  have k5 : Keeps a s5 := Keeps.ite (fun _ => (State.rset_keeps k4 _ _).frame rfl) (fun _ => k4)
  have k6 : Keeps a s6 := Keeps.ite (fun _ => k5.frame rfl) (fun _ => k5)
  have k7 : Keeps a s7 := Keeps.ite (fun _ => State.setLock_keeps k6) (fun _ => k6)
  have k8 : Keeps a s8 := Keeps.ite (fun _ => k7) (fun _ => State.regEffect_keeps k7)
  have k9 : Keeps a s9 := Keeps.ite (fun _ => k8) (fun _ => State.clearedEvents_keeps k8)
  refine Keeps.foldl (Keeps.ite (fun _ => State.took_keeps k9) (fun _ => k9)) (fun t b k => State.trigger_keeps k)

theorem State.writeAt_keeps {a s : State} (h : Keeps a s) {x1 x2 x3 x4 x5} : Keeps a (State.writeAt s x1 x2 x3 x4 x5) := by
  unfold State.writeAt
  try dsimp only
  with_reducible repeat' first | assumption | split | apply State.writeMsix_keeps | apply State.late_keeps | apply State.writeFields_keeps

theorem State.writeWord_keeps {a s : State} (h : Keeps a s) {x1 x2 x3 x4} : Keeps a (State.writeWord s x1 x2 x3 x4) := by
  unfold State.writeWord
  try dsimp only
  with_reducible repeat' first | assumption | split | apply State.deny_keeps | apply State.writeAt_keeps

theorem State.windowWrite_keeps {a s : State} (h : Keeps a s) {x1 x2 x3 x4} : Keeps a (State.windowWrite s x1 x2 x3 x4) := by
  unfold State.windowWrite
  try dsimp only
  with_reducible repeat' first | assumption | split | apply State.writeWord_keeps

theorem State.writeNarrow_keeps {a s : State} (h : Keeps a s) {x1 x2 x3} : Keeps a (State.writeNarrow s x1 x2 x3) := by
  unfold State.writeNarrow
  try dsimp only
  with_reducible repeat' first | assumption | split | apply State.deny_keeps | apply State.late_keeps

theorem State.writeAccess_keeps {a s : State} (h : Keeps a s) {x1 x2 x3} : Keeps a (State.writeAccess s x1 x2 x3) := by
  unfold State.writeAccess
  try dsimp only
  with_reducible repeat' first | assumption | split | apply State.pushAll_keeps | apply State.writeWord_keeps | apply State.writeNarrow_keeps

theorem State.writePage_keeps {a s : State} (h : Keeps a s) {x1} : Keeps a (State.writePage s x1) := by
  unfold State.writePage
  try dsimp only
  with_reducible repeat' first | assumption | apply State.onMarrow_keeps

theorem execAdmissionDone_keeps {a s : State} (h : Keeps a s) {x0} : KeepsOut a (execAdmissionDone x0 s) := by
  unfold execAdmissionDone
  try dsimp only
  with_reducible repeat' first | apply KeepsOut.next | assumption | (intro _; intros; try beta_reduce) | split | apply State.refuseImage_keeps | apply State.descRefused_keeps | apply State.admitArith_keeps | apply Keeps.foldl

theorem execAdvanceFw_keeps {a s : State} (h : Keeps a s) {x0} : KeepsOut a (execAdvanceFw x0 s) := by
  unfold execAdvanceFw
  try dsimp only
  with_reducible repeat' first | apply KeepsOut.next | assumption | apply State.windowWrite_keeps

theorem execAdvanceImage_keeps {a s : State} (h : Keeps a s) {x0 x1} : KeepsOut a (execAdvanceImage x0 x1 s) := by
  unfold execAdvanceImage
  try dsimp only
  with_reducible repeat' first | apply KeepsOut.next | assumption | apply State.windowWrite_keeps

theorem execAgeingPass_keeps {a s : State} (h : Keeps a s) {x0} : KeepsOut a (execAgeingPass x0 s) := by
  unfold execAgeingPass
  try dsimp only
  with_reducible repeat' first | apply KeepsOut.next | assumption | split | apply State.bump_keeps | apply State.freePod_keeps | apply State.onStore_keeps

theorem execAliasWrite_keeps {a s : State} (h : Keeps a s) {x0 x1 x2 x3 x4} : KeepsOut a (execAliasWrite x0 x1 x2 x3 x4 s) := by
  unfold execAliasWrite
  try dsimp only
  with_reducible repeat' first | apply KeepsOut.next | assumption | apply State.windowWrite_keeps

theorem execArmingDone_keeps {a s : State} (h : Keeps a s) {x0} : KeepsOut a (execArmingDone x0 s) := by
  unfold execArmingDone
  try dsimp only
  with_reducible repeat' first | apply KeepsOut.next | assumption | split | apply State.onSlot_keeps

theorem execArrayDrain_keeps {a s : State} (h : Keeps a s) {x0 x1 x2 x3 x4} : KeepsOut a (execArrayDrain x0 x1 x2 x3 x4 s) := by
  unfold execArrayDrain
  try dsimp only
  with_reducible repeat' first | apply KeepsOut.next | assumption | apply State.drainRow_keeps

theorem execArrayMac_keeps {a s : State} (h : Keeps a s) {x0 x1 x2 x3 x4 x5} : KeepsOut a (execArrayMac x0 x1 x2 x3 x4 x5 s) := by
  unfold execArrayMac
  try dsimp only
  with_reducible repeat' first | apply KeepsOut.next | assumption | apply State.macOp_keeps

theorem execArrayMacFirst_keeps {a s : State} (h : Keeps a s) {x0 x1 x2 x3 x4 x5} : KeepsOut a (execArrayMacFirst x0 x1 x2 x3 x4 x5 s) := by
  unfold execArrayMacFirst
  try dsimp only
  with_reducible repeat' first | apply KeepsOut.next | assumption | apply State.macOp_keeps

theorem execAttestComplete_keeps {a s : State} (h : Keeps a s) : KeepsOut a (execAttestComplete s) := by
  unfold execAttestComplete
  try dsimp only
  with_reducible repeat' first | apply KeepsOut.next | assumption | focus (intro _; first | rfl | (simp only [lmod_length, lput, List.length_map, List.length_zipIdx]; done)) | split | apply State.beginReport_keeps | apply State.onHost_keeps | apply State.endReport_keeps

theorem execBeatBoundary_keeps {a s : State} (h : Keeps a s) : KeepsOut a (execBeatBoundary s) := by
  unfold execBeatBoundary
  try dsimp only
  with_reducible repeat' first | apply KeepsOut.next | assumption | split | apply State.passBeat_keeps

theorem execBlockLock_keeps {a s : State} (h : Keeps a s) {x0 x1} : KeepsOut a (execBlockLock x0 x1 s) := by
  unfold execBlockLock
  try dsimp only
  with_reducible repeat' first | apply KeepsOut.next | assumption | split | apply State.windowWrite_keeps

theorem execBootStepEnd_keeps {a s : State} (h : Keeps a s) {x0} : KeepsOut a (execBootStepEnd x0 s) := by
  unfold execBootStepEnd
  try dsimp only
  with_reducible repeat' first | apply KeepsOut.next | assumption | split | apply State.endStep_keeps

theorem execCatchUpDone_keeps {a s : State} (h : Keeps a s) : KeepsOut a (execCatchUpDone s) := by
  unfold execCatchUpDone
  try dsimp only
  with_reducible repeat' first | apply KeepsOut.next | assumption | split | apply State.onTl_keeps

theorem State.overBalance_keeps {a s : State} (h : Keeps a s) {x y z} :
    Keeps a { s with place := { s.place with imbalance := x, hotBytes := y, evalDue := z } } := Keeps.frame h rfl

theorem execChannelBalanceWindow_keeps {a s : State} (h : Keeps a s) {o} : KeepsOut a (execChannelBalanceWindow o s) := by
  unfold execChannelBalanceWindow
  split
  · exact KeepsOut.next h
  · extract_lets n bytes total top hot ratio ov s1 crossed pl s2 s3 s4 s5 cool
    have k1 : Keeps a s1 := State.rset_keeps h _ _
    have k2 : Keeps a s2 := State.overBalance_keeps k1
    have k3 : Keeps a s3 := Keeps.ite (fun _ => State.raise_keeps k2) (fun _ => k2)
    have k4 : Keeps a s4 := Keeps.ite (fun _ => k3) (fun _ => State.raise_keeps (State.bump_keeps k3))
    have k5 : Keeps a s5 := Keeps.foldl k4 (fun t r k => State.onStore_keeps k)
    split
    · exact KeepsOut.next k4
    · exact KeepsOut.next (Keeps.foldl k5 (fun t g k => State.remapGranule_keeps k))

theorem execChipCoordWrite_keeps {a s : State} (h : Keeps a s) {x0 x1} : KeepsOut a (execChipCoordWrite x0 x1 s) := by
  unfold execChipCoordWrite
  try dsimp only
  with_reducible repeat' first | apply KeepsOut.next | assumption | apply State.windowWrite_keeps

theorem execColdAll_keeps {a s : State} (h : Keeps a s) {x0} : KeepsOut a (execColdAll x0 s) := by
  unfold execColdAll
  try dsimp only
  with_reducible repeat' first | apply KeepsOut.next | assumption | apply State.windowWrite_keeps

theorem execCommitFlit_keeps {a s : State} (h : Keeps a s) {x0 x1 x2} : KeepsOut a (execCommitFlit x0 x1 x2 s) := by
  unfold execCommitFlit
  try dsimp only
  with_reducible repeat' first | apply KeepsOut.next | assumption | (intro _; intros; try beta_reduce) | apply State.recvFlit_keeps | apply State.peerRecord_keeps | apply Keeps.foldl

theorem execCompareSkipped_keeps {a s : State} (h : Keeps a s) : KeepsOut a (execCompareSkipped s) := by
  unfold execCompareSkipped
  try dsimp only
  with_reducible repeat' first | apply KeepsOut.next | assumption | split | apply State.notCompared_keeps | apply State.raise_keeps | apply State.bump_keeps

theorem execComparisonComplete_keeps {a s : State} (h : Keeps a s) : KeepsOut a (execComparisonComplete s) := by
  unfold execComparisonComplete
  try dsimp only
  with_reducible repeat' first | apply KeepsOut.next | assumption | split | apply State.finishCompare_keeps

theorem execCplEnable_keeps {a s : State} (h : Keeps a s) {x0 x1} : KeepsOut a (execCplEnable x0 x1 s) := by
  unfold execCplEnable
  try dsimp only
  with_reducible repeat' first | apply KeepsOut.next | assumption | apply State.windowWrite_keeps

theorem execCplHeadWrite_keeps {a s : State} (h : Keeps a s) {x0 x1} : KeepsOut a (execCplHeadWrite x0 x1 s) := by
  unfold execCplHeadWrite
  try dsimp only
  with_reducible repeat' first | apply KeepsOut.next | assumption | apply State.windowWrite_keeps

theorem execDatasetMoveDone_keeps {a s : State} (h : Keeps a s) {x0} : KeepsOut a (execDatasetMoveDone x0 s) := by
  unfold execDatasetMoveDone
  try dsimp only
  with_reducible repeat' first | apply KeepsOut.next | assumption | split | fail_if_no_progress (apply Keeps.frame; rotate_left; (first | rfl | focus (simp only [State.unitCounts, lmod_length, lput, List.length_map, List.length_zipIdx]; done)))

theorem execDeadlineMissed_keeps {a s : State} (h : Keeps a s) {x0} : KeepsOut a (execDeadlineMissed x0 s) := by
  unfold execDeadlineMissed
  try dsimp only
  with_reducible repeat' first | apply KeepsOut.next | assumption | apply State.missAt_keeps

theorem execDebugChallenge_keeps {a s : State} (h : Keeps a s) {x0 x1} : KeepsOut a (execDebugChallenge x0 x1 s) := by
  unfold execDebugChallenge
  try dsimp only
  with_reducible repeat' first | apply KeepsOut.next | assumption | apply State.windowWrite_keeps

theorem execDebugUnlock_keeps {a s : State} (h : Keeps a s) {x0 x1 x2} : KeepsOut a (execDebugUnlock x0 x1 x2 s) := by
  unfold execDebugUnlock
  try dsimp only
  with_reducible repeat' first | apply KeepsOut.next | assumption | apply State.windowWrite_keeps

theorem execDelayReqSend_keeps {a s : State} (h : Keeps a s) : KeepsOut a (execDelayReqSend s) := by
  unfold execDelayReqSend
  try dsimp only
  with_reducible repeat' first | apply KeepsOut.next | assumption | split | apply State.onPtp_keeps | apply State.egress_keeps

theorem execDeltaApply_keeps {a s : State} (h : Keeps a s) : KeepsOut a (execDeltaApply s) := by
  unfold execDeltaApply
  try dsimp only
  with_reducible repeat' first | apply KeepsOut.next | assumption | focus (intro _; first | rfl | (simp only [lmod_length, lput, List.length_map, List.length_zipIdx]; done)) | split | apply State.onCom_keeps | apply State.applyRecord_keeps

theorem execDeltaBatchArrive_keeps {a s : State} (h : Keeps a s) {x0} : KeepsOut a (execDeltaBatchArrive x0 s) := by
  unfold execDeltaBatchArrive
  try dsimp only
  with_reducible repeat' first | apply KeepsOut.next | assumption | split | apply State.takeBatch_keeps

theorem execDescCreate_keeps {a s : State} (h : Keeps a s) {x0} : KeepsOut a (execDescCreate x0 s) := by
  unfold execDescCreate
  try dsimp only
  with_reducible repeat' first | apply KeepsOut.next | assumption | (intro _; intros; try beta_reduce) | apply State.actItem_keeps | apply State.createDesc_keeps

theorem execDescDestroy_keeps {a s : State} (h : Keeps a s) {x0} : KeepsOut a (execDescDestroy x0 s) := by
  unfold execDescDestroy
  try dsimp only
  with_reducible repeat' first | apply KeepsOut.next | assumption | (intro _; intros; try beta_reduce) | apply State.actItem_keeps | apply State.destroyDesc_keeps

theorem execDeskew_keeps {a s : State} (h : Keeps a s) : KeepsOut a (execDeskew s) := by
  unfold execDeskew
  try dsimp only
  with_reducible repeat' first | apply KeepsOut.next | assumption | split | apply State.deskewOne_keeps | apply State.onStore_keeps

theorem execDramCopyDone_keeps {a s : State} (h : Keeps a s) : KeepsOut a (execDramCopyDone s) := by
  unfold execDramCopyDone
  try dsimp only
  with_reducible repeat' first | apply KeepsOut.next | assumption | focus (intro _; first | rfl | (simp only [lmod_length, lput, List.length_map, List.length_zipIdx]; done)) | split | apply State.onMem_keeps

theorem execDramRead_keeps {a s : State} (h : Keeps a s) {x0 x1 x2 x3 x4} : KeepsOut a (execDramRead x0 x1 x2 x3 x4 s) := by
  unfold execDramRead
  try dsimp only
  with_reducible repeat' first | apply KeepsOut.next | assumption | split | apply State.readCw_keeps

theorem execDramRecalibrate_keeps {a s : State} (h : Keeps a s) {x0 x1} : KeepsOut a (execDramRecalibrate x0 x1 s) := by
  unfold execDramRecalibrate
  try dsimp only
  with_reducible repeat' first | apply KeepsOut.next | assumption | split | apply State.bump_keeps | apply State.retireChannel_keeps | apply State.raise_keeps

theorem execDramRefresh_keeps {a s : State} (h : Keeps a s) {x0 x1} : KeepsOut a (execDramRefresh x0 x1 s) := by
  unfold execDramRefresh
  try dsimp only
  with_reducible repeat' first | apply KeepsOut.next | assumption

theorem execDramRepair_keeps {a s : State} (h : Keeps a s) {x0} : KeepsOut a (execDramRepair x0 s) := by
  unfold execDramRepair
  try dsimp only
  with_reducible repeat' first | apply KeepsOut.next | assumption | split | apply State.onChannel_keeps | apply State.retireChannel_keeps | apply State.raise_keeps | apply State.bump_keeps | fail_if_no_progress (apply Keeps.frame; rotate_left; (first | rfl | focus (simp only [State.unitCounts, lmod_length, lput, List.length_map, List.length_zipIdx]; done))) | fail_if_no_progress (apply Keeps.keeperFrame; rotate_left; exact ⟨by first | exact Nat.le_refl _ | exact Nat.le_add_right _ _ | omega, by first | exact Nat.le_refl _ | exact Nat.le_add_right _ _ | omega, by first | exact Nat.le_refl _ | exact Nat.le_add_right _ _ | omega, by first | exact Nat.le_refl _ | exact Nat.le_add_right _ _ | omega, by first | exact Nat.le_refl _ | exact Nat.le_add_right _ _ | omega⟩; (first | rfl | focus (simp only [State.unitCounts, lmod_length, lput, List.length_map, List.length_zipIdx]; done)))

theorem execDumpComplete_keeps {a s : State} (h : Keeps a s) : KeepsOut a (execDumpComplete s) := by
  unfold execDumpComplete
  try dsimp only
  with_reducible repeat' first | apply KeepsOut.next | assumption | focus (intro _; first | rfl | (simp only [lmod_length, lput, List.length_map, List.length_zipIdx]; done)) | split | apply State.complete_keeps | apply State.onHost_keeps | apply State.dumpBeat_keeps

theorem execEngAssignShadow_keeps {a s : State} (h : Keeps a s) {x0 x1} : KeepsOut a (execEngAssignShadow x0 x1 s) := by
  unfold execEngAssignShadow
  try dsimp only
  with_reducible repeat' first | apply KeepsOut.next | assumption | (intro _; intros; try beta_reduce) | split | apply State.descRefused_keeps | apply State.assignShadow_keeps | apply Keeps.foldl | apply Keeps.foldlP

theorem execEngRadish_keeps {a s : State} (h : Keeps a s) {x0 x1} : KeepsOut a (execEngRadish x0 x1 s) := by
  unfold execEngRadish
  try dsimp only
  with_reducible repeat' first | apply KeepsOut.next | assumption | split | apply State.radishEng_keeps

theorem execEngRelease_keeps {a s : State} (h : Keeps a s) {x0} : KeepsOut a (execEngRelease x0 s) := by
  unfold execEngRelease
  try dsimp only
  with_reducible repeat' first | apply KeepsOut.next | assumption | split | apply State.releaseEng_keeps

theorem execEngRetire_keeps {a s : State} (h : Keeps a s) {x0} : KeepsOut a (execEngRetire x0 s) := by
  unfold execEngRetire
  try dsimp only
  with_reducible repeat' first | apply KeepsOut.next | assumption | split | apply State.retireEng_keeps

theorem execEngSwitch_keeps {a s : State} (h : Keeps a s) {x0} : KeepsOut a (execEngSwitch x0 s) := by
  unfold execEngSwitch
  try dsimp only
  with_reducible repeat' first | apply KeepsOut.next | assumption | split | apply State.switchEng_keeps

theorem execEngineEvent_keeps {a s : State} (h : Keeps a s) {x0 x1} : KeepsOut a (execEngineEvent x0 x1 s) := by
  unfold execEngineEvent
  try dsimp only
  with_reducible repeat' first | apply KeepsOut.next | assumption | split | apply State.engEvent_keeps | apply State.bump_keeps

theorem execEngineHang_keeps {a s : State} (h : Keeps a s) {x0} : KeepsOut a (execEngineHang x0 s) := by
  unfold execEngineHang
  try dsimp only
  with_reducible repeat' first | apply KeepsOut.next | assumption | split | apply State.engHard_keeps

theorem execEscapeEventClear_keeps {a s : State} (h : Keeps a s) {x0 x1} : KeepsOut a (execEscapeEventClear x0 x1 s) := by
  unfold execEscapeEventClear
  try dsimp only
  with_reducible repeat' first | apply KeepsOut.next | assumption | apply State.windowWrite_keeps

theorem execExchange_keeps {a s : State} (h : Keeps a s) {x0 x1 x2 x3} : KeepsOut a (execExchange x0 x1 x2 x3 s) := by
  unfold execExchange
  try dsimp only
  with_reducible repeat' first | apply KeepsOut.next | assumption | split | apply State.slotOp_keeps

theorem execFastDeadlineMiss_keeps {a s : State} (h : Keeps a s) : KeepsOut a (execFastDeadlineMiss s) := by
  unfold execFastDeadlineMiss
  try dsimp only
  with_reducible repeat' first | apply KeepsOut.next | assumption | focus (intro _; first | rfl | (simp only [lmod_length, lput, List.length_map, List.length_zipIdx]; done)) | (intro _; intros; try beta_reduce) | split | apply State.raise_keeps | apply State.bump_keeps | apply State.trackResult_keeps | apply State.onTrackSolve_keeps | apply State.error_keeps | apply State.onCom_keeps | apply Keeps.foldl

theorem execFastPublish_keeps {a s : State} (h : Keeps a s) : KeepsOut a (execFastPublish s) := by
  unfold execFastPublish
  try dsimp only
  with_reducible repeat' first | apply KeepsOut.next | assumption | (intro _; intros; try beta_reduce) | split | apply State.publishOne_keeps | apply State.onSolver_keeps | apply Keeps.foldl

theorem execFastSolveEnd_keeps {a s : State} (h : Keeps a s) {x0 x1} : KeepsOut a (execFastSolveEnd x0 x1 s) := by
  unfold execFastSolveEnd
  try dsimp only
  with_reducible repeat' first | apply KeepsOut.next | assumption | split | apply State.endFastSolve_keeps

theorem execFaultClear_keeps {a s : State} (h : Keeps a s) {x0 x1} : KeepsOut a (execFaultClear x0 x1 s) := by
  unfold execFaultClear
  try dsimp only
  with_reducible repeat' first | apply KeepsOut.next | assumption | apply State.windowWrite_keeps

theorem execFdbAgeOut_keeps {a s : State} (h : Keeps a s) {x0} : KeepsOut a (execFdbAgeOut x0 s) := by
  unfold execFdbAgeOut
  try dsimp only
  with_reducible repeat' first | apply KeepsOut.next | assumption | fail_if_no_progress (apply Keeps.frame; rotate_left; (first | rfl | focus (simp only [State.unitCounts, lmod_length, lput, List.length_map, List.length_zipIdx]; done)))

theorem execFdbFlush_keeps {a s : State} (h : Keeps a s) {x0} : KeepsOut a (execFdbFlush x0 s) := by
  unfold execFdbFlush
  try dsimp only
  with_reducible repeat' first | apply KeepsOut.next | assumption | apply State.windowWrite_keeps

theorem execFenceComplete_keeps {a s : State} (h : Keeps a s) {x0} : KeepsOut a (execFenceComplete x0 s) := by
  unfold execFenceComplete
  try dsimp only
  with_reducible repeat' first | apply KeepsOut.next | assumption | split | apply State.complete_keeps

theorem execFollowerMeasurement_keeps {a s : State} (h : Keeps a s) : KeepsOut a (execFollowerMeasurement s) := by
  unfold execFollowerMeasurement
  try dsimp only
  with_reducible repeat' first | apply KeepsOut.next | assumption | (intro _; intros; try beta_reduce) | split | apply State.formMeasurement_keeps | apply Keeps.foldl

theorem execForceHold_keeps {a s : State} (h : Keeps a s) {x0} : KeepsOut a (execForceHold x0 s) := by
  unfold execForceHold
  try dsimp only
  with_reducible repeat' first | apply KeepsOut.next | assumption | apply State.windowWrite_keeps

theorem execFrameBoundary_keeps {a s : State} (h : Keeps a s) {x0} : KeepsOut a (execFrameBoundary x0 s) := by
  unfold execFrameBoundary
  try dsimp only
  with_reducible repeat' first | apply KeepsOut.next | assumption | split | apply State.passFrame_keeps

theorem execFrameReceive_keeps {a s : State} (h : Keeps a s) {x0 x1 x2 x3 x4} : KeepsOut a (execFrameReceive x0 x1 x2 x3 x4 s) := by
  unfold execFrameReceive
  try dsimp only
  with_reducible repeat' first | apply KeepsOut.next | assumption | split | apply State.bump64_keeps | apply State.bump_keeps | apply State.receive_keeps

theorem execFunctionLevelReset_keeps {a s : State} (h : Keeps a s) {x0} : KeepsOut a (execFunctionLevelReset x0 s) := by
  unfold execFunctionLevelReset
  try dsimp only
  with_reducible repeat' first | apply KeepsOut.next | assumption | split | apply State.resetFn_keeps

theorem execFuseProgram_keeps {a s : State} (h : Keeps a s) {x0} : KeepsOut a (execFuseProgram x0 s) := by
  unfold execFuseProgram
  try dsimp only
  with_reducible repeat' first | apply KeepsOut.next | assumption | apply State.windowWrite_keeps

theorem execFuseProgramDone_keeps {a s : State} (h : Keeps a s) {x0} : KeepsOut a (execFuseProgramDone x0 s) := by
  unfold execFuseProgramDone
  try dsimp only
  with_reducible repeat' first | apply KeepsOut.next | assumption | apply State.programDone_keeps

theorem execHeartbeatStop_keeps {a s : State} (h : Keeps a s) : KeepsOut a (execHeartbeatStop s) := by
  unfold execHeartbeatStop
  try dsimp only
  with_reducible repeat' first | apply KeepsOut.next | assumption | split | apply State.stopHeartbeat_keeps

theorem execHeartbeatToggle_keeps {a s : State} (h : Keeps a s) : KeepsOut a (execHeartbeatToggle s) := by
  unfold execHeartbeatToggle
  split
  · next hr =>
    refine KeepsOut.next (h.safety (x := { s.safety with safeA := !s.safety.safeA, safeB := s.safety.safeA }) id ?_)
    simp [State.Safe, State.pinsSafe, State.holdSafe, State.hold, hr]
  · exact KeepsOut.next h

theorem execHelloFlit_keeps {a s : State} (h : Keeps a s) {x0 x1 x2} : KeepsOut a (execHelloFlit x0 x1 x2 s) := by
  unfold execHelloFlit
  try dsimp only
  with_reducible repeat' first | apply KeepsOut.next | assumption | (intro _; intros; try beta_reduce) | split | apply State.recvLink_keeps | apply State.hello_keeps

theorem execHelloSend_keeps {a s : State} (h : Keeps a s) {x0} : KeepsOut a (execHelloSend x0 s) := by
  unfold execHelloSend
  try dsimp only
  with_reducible repeat' first | apply KeepsOut.next | assumption | split | apply State.sendLink_keeps

theorem execHiWrite_keeps {a s : State} (h : Keeps a s) {x0 x1 x2} : KeepsOut a (execHiWrite x0 x1 x2 s) := by
  unfold execHiWrite
  try dsimp only
  with_reducible repeat' first | apply KeepsOut.next | assumption | apply State.windowWrite_keeps

theorem execHoldoverTimeout_keeps {a s : State} (h : Keeps a s) : KeepsOut a (execHoldoverTimeout s) := by
  unfold execHoldoverTimeout
  try dsimp only
  with_reducible repeat' first | apply KeepsOut.next | assumption | split | apply State.raise_keeps | apply State.onTl_keeps

theorem execHostAttest_keeps {a s : State} (h : Keeps a s) {x0} : KeepsOut a (execHostAttest x0 s) := by
  unfold execHostAttest
  try dsimp only
  with_reducible repeat' first | apply KeepsOut.next | assumption | focus (intro _; first | rfl | (simp only [lmod_length, lput, List.length_map, List.length_zipIdx]; done)) | (intro _; intros; try beta_reduce) | split | apply State.actItem_keeps | apply State.onHost_keeps | apply State.onTaken_keeps | apply State.beginReport_keeps

theorem execHostDump_keeps {a s : State} (h : Keeps a s) {x0} : KeepsOut a (execHostDump x0 s) := by
  unfold execHostDump
  try dsimp only
  with_reducible repeat' first | apply KeepsOut.next | assumption | focus (intro _; first | rfl | (simp only [lmod_length, lput, List.length_map, List.length_zipIdx]; done)) | (intro _; intros; try beta_reduce) | split | apply State.actItem_keeps | apply State.complete_keeps | apply State.onTaken_keeps | apply State.onHost_keeps | apply State.dumpBeat_keeps

end Sys2Proof.Machine
end

