-- ==== Sys2Proof/Laws/Keeps5.lean ====
section
/-! SUPPORT. What each operation and command keeps (part 5). -/

namespace Sys2Proof.Machine

open Sys2Proof

set_option linter.unusedTactic false
set_option linter.unreachableTactic false
set_option linter.unusedSimpArgs false

theorem execHostFence_keeps {a s : State} (h : Keeps a s) {x0} : KeepsOut a (execHostFence x0 s) := by
  unfold execHostFence
  try dsimp only
  with_reducible repeat' first | apply KeepsOut.next | assumption | (intro _; intros; try beta_reduce) | apply State.actItem_keeps | apply State.onTaken_keeps

theorem execHostMove_keeps {a s : State} (h : Keeps a s) {x0} : KeepsOut a (execHostMove x0 s) := by
  unfold execHostMove
  try dsimp only
  with_reducible repeat' first | apply KeepsOut.next | assumption | (intro _; intros; try beta_reduce) | apply State.actItem_keeps | apply State.hostMoveItem_keeps

theorem execHostNop_keeps {a s : State} (h : Keeps a s) {x0} : KeepsOut a (execHostNop x0 s) := by
  unfold execHostNop
  try dsimp only
  with_reducible repeat' first | apply KeepsOut.next | assumption | (intro _; intros; try beta_reduce) | apply State.actItem_keeps | apply State.complete_keeps

theorem execHqFlush_keeps {a s : State} (h : Keeps a s) {x0} : KeepsOut a (execHqFlush x0 s) := by
  unfold execHqFlush
  try dsimp only
  with_reducible repeat' first | apply KeepsOut.next | assumption | apply State.windowWrite_keeps

theorem execInAck_keeps {a s : State} (h : Keeps a s) {x0} : KeepsOut a (execInAck x0 s) := by
  unfold execInAck
  try dsimp only
  with_reducible repeat' first | apply KeepsOut.next | assumption | apply State.windowWrite_keeps

theorem execInService_keeps {a s : State} (h : Keeps a s) : KeepsOut a (execInService s) := by
  unfold execInService
  try dsimp only
  with_reducible repeat' first | apply KeepsOut.next | assumption | split | apply State.enterService_keeps

theorem execIngestFlush_keeps {a s : State} (h : Keeps a s) {x0 x1} : KeepsOut a (execIngestFlush x0 x1 s) := by
  unfold execIngestFlush
  try dsimp only
  with_reducible repeat' first | apply KeepsOut.next | assumption | apply State.windowWrite_keeps

theorem execItemRelease_keeps {a s : State} (h : Keeps a s) : KeepsOut a (execItemRelease s) := by
  unfold execItemRelease
  try dsimp only
  with_reducible repeat' first | apply KeepsOut.next | assumption | (intro _; intros; try beta_reduce) | split | apply State.releaseOut_keeps | apply State.onMachine_keeps | apply Keeps.foldl

theorem execItemTake_keeps {a s : State} (h : Keeps a s) {x0} : KeepsOut a (execItemTake x0 s) := by
  unfold execItemTake
  try dsimp only
  with_reducible repeat' first | apply KeepsOut.next | assumption | split | apply State.takeItem_keeps

theorem execKeeperRecordWrite_keeps {a s : State} (h : Keeps a s) {ok} : KeepsOut a (execKeeperRecordWrite ok s) := by
  unfold execKeeperRecordWrite
  split
  · exact KeepsOut.next h
  · split
    · exact KeepsOut.next (State.keeperFail_keeps h)
    · exact KeepsOut.next (Keeps.same (b := { s with keeper := { s.keeper with logSeq := s.keeper.logSeq + 1 } })
        (h.trans ⟨rfl, BitVec.and_self, id, id, id, id, ⟨Nat.le_refl _, Nat.le_refl _, Nat.le_refl _, Nat.le_succ _, Nat.le_refl _⟩, rfl⟩) rfl)

theorem execLaneLockLoss_keeps {a s : State} (h : Keeps a s) {x0 x1} : KeepsOut a (execLaneLockLoss x0 x1 s) := by
  unfold execLaneLockLoss
  try dsimp only
  with_reducible repeat' first | apply KeepsOut.next | assumption | split | apply State.retireLane_keeps

theorem execLaneSwapFlit_keeps {a s : State} (h : Keeps a s) {x0 x1 x2 x3} : KeepsOut a (execLaneSwapFlit x0 x1 x2 x3 s) := by
  unfold execLaneSwapFlit
  try dsimp only
  with_reducible repeat' first | apply KeepsOut.next | assumption | (intro _; intros; try beta_reduce) | apply State.recvLink_keeps | apply State.swapLane_keeps

theorem execLoRead_keeps {a s : State} (h : Keeps a s) {x0 x1 x2} : KeepsOut a (execLoRead x0 x1 x2 s) := by
  unfold execLoRead
  try dsimp only
  with_reducible repeat' first | apply KeepsOut.next | assumption | split | apply State.readAccess_keeps

theorem execLoadSlot_keeps {a s : State} (h : Keeps a s) {x0 x1 x2 x3 x4} : KeepsOut a (execLoadSlot x0 x1 x2 x3 x4 s) := by
  unfold execLoadSlot
  try dsimp only
  with_reducible repeat' first | apply KeepsOut.next | assumption | apply State.loadOp_keeps

theorem execLockAll_keeps {a s : State} (h : Keeps a s) {x0} : KeepsOut a (execLockAll x0 s) := by
  unfold execLockAll
  try dsimp only
  with_reducible repeat' first | apply KeepsOut.next | assumption | apply State.windowWrite_keeps

theorem execLockTimeout_keeps {a s : State} (h : Keeps a s) : KeepsOut a (execLockTimeout s) := by
  unfold execLockTimeout
  try dsimp only
  with_reducible repeat' first | apply KeepsOut.next | assumption | split | apply State.beginStep11_keeps | apply State.raise_keeps

theorem execMapWindow_keeps {a s : State} (h : Keeps a s) {x0} : KeepsOut a (execMapWindow x0 s) := by
  unfold execMapWindow
  try dsimp only
  with_reducible repeat' first | apply KeepsOut.next | assumption | (intro _; intros; try beta_reduce) | split | apply State.actItem_keeps | apply State.complete_keeps | apply State.onFn_keeps

theorem execMarginReset_keeps {a s : State} (h : Keeps a s) {x0} : KeepsOut a (execMarginReset x0 s) := by
  unfold execMarginReset
  try dsimp only
  with_reducible repeat' first | apply KeepsOut.next | assumption | apply State.windowWrite_keeps

theorem execMarrowForget_keeps {a s : State} (h : Keeps a s) {x0} : KeepsOut a (execMarrowForget x0 s) := by
  unfold execMarrowForget
  try dsimp only
  with_reducible repeat' first | apply KeepsOut.next | assumption | apply State.windowWrite_keeps

theorem execMarrowSweep_keeps {a s : State} (h : Keeps a s) : KeepsOut a (execMarrowSweep s) := by
  unfold execMarrowSweep
  try dsimp only
  with_reducible repeat' first | apply KeepsOut.next | assumption | split | apply State.walkSweep_keeps | apply State.beginSweep_keeps

theorem execMboxBootTimes_keeps {a s : State} (h : Keeps a s) : KeepsOut a (execMboxBootTimes s) := by
  unfold execMboxBootTimes
  try dsimp only
  with_reducible repeat' first | apply KeepsOut.next | assumption | (intro _; intros; try beta_reduce) | apply State.answer_keeps | apply State.reply_keeps | apply State.replyWords_keeps

theorem execMboxFwWrite_keeps {a s : State} (h : Keeps a s) {x0} : KeepsOut a (execMboxFwWrite x0 s) := by
  unfold execMboxFwWrite
  try dsimp only
  with_reducible repeat' first | apply KeepsOut.next | assumption | (intro _; intros; try beta_reduce) | apply State.answer_keeps | apply State.fwWrite_keeps

theorem execMboxTelemetry_keeps {a s : State} (h : Keeps a s) : KeepsOut a (execMboxTelemetry s) := by
  unfold execMboxTelemetry
  try dsimp only
  with_reducible repeat' first | apply KeepsOut.next | assumption | (intro _; intros; try beta_reduce) | apply State.answer_keeps | apply State.reply_keeps | apply State.replyWords_keeps

theorem execMeshDoubleBit_keeps {a s : State} (h : Keeps a s) {x0 x1} : KeepsOut a (execMeshDoubleBit x0 x1 s) := by
  unfold execMeshDoubleBit
  try dsimp only
  with_reducible repeat' first | apply KeepsOut.next | assumption | split | apply State.engEvent_keeps | apply State.groupEvent_keeps | apply State.countSymbols_keeps | apply State.hardFail_keeps

theorem execMeshSingleBit_keeps {a s : State} (h : Keeps a s) {x0 x1} : KeepsOut a (execMeshSingleBit x0 x1 s) := by
  unfold execMeshSingleBit
  try dsimp only
  with_reducible repeat' first | apply KeepsOut.next | assumption | focus (intro _; first | rfl | (simp only [lmod_length, lput, List.length_map, List.length_zipIdx]; done)) | apply State.onMem_keeps

theorem execMirrorFlit_keeps {a s : State} (h : Keeps a s) {x0 x1 x2} : KeepsOut a (execMirrorFlit x0 x1 x2 s) := by
  unfold execMirrorFlit
  try dsimp only
  with_reducible repeat' first | apply KeepsOut.next | assumption | (intro _; intros; try beta_reduce) | apply State.recvFlit_keeps | apply State.mirrorFrom_keeps

theorem execMirrorLag_keeps {a s : State} (h : Keeps a s) : KeepsOut a (execMirrorLag s) := by
  unfold execMirrorLag
  try dsimp only
  with_reducible repeat' first | apply KeepsOut.next | assumption | split | apply State.raise_keeps

theorem execMoverCopy_keeps {a s : State} (h : Keeps a s) {x0} : KeepsOut a (execMoverCopy x0 s) := by
  unfold execMoverCopy
  try dsimp only
  with_reducible repeat' first | apply KeepsOut.next | assumption | apply State.moverCopy_keeps

theorem execMoverDeliver_keeps {a s : State} (h : Keeps a s) {x0} : KeepsOut a (execMoverDeliver x0 s) := by
  unfold execMoverDeliver
  try dsimp only
  with_reducible repeat' first | apply KeepsOut.next | assumption | apply State.moverDeliver_keeps

theorem execMoverFill_keeps {a s : State} (h : Keeps a s) {x0} : KeepsOut a (execMoverFill x0 s) := by
  unfold execMoverFill
  try dsimp only
  with_reducible repeat' first | apply KeepsOut.next | assumption | apply State.moverFill_keeps

theorem execMoverGather_keeps {a s : State} (h : Keeps a s) {x0} : KeepsOut a (execMoverGather x0 s) := by
  unfold execMoverGather
  try dsimp only
  with_reducible repeat' first | apply KeepsOut.next | assumption | apply State.moverGather_keeps

theorem execMoverOpComplete_keeps {a s : State} (h : Keeps a s) {x0} : KeepsOut a (execMoverOpComplete x0 s) := by
  unfold execMoverOpComplete
  try dsimp only
  with_reducible repeat' first | apply KeepsOut.next | assumption | split | apply State.bump_keeps | apply State.onMover_keeps | apply State.jobCompletes_keeps | apply State.chanSignal_keeps

theorem execMoverOpStart_keeps {a s : State} (h : Keeps a s) {x0 x1} : KeepsOut a (execMoverOpStart x0 x1 s) := by
  unfold execMoverOpStart
  try dsimp only
  with_reducible repeat' first | apply KeepsOut.next | assumption | split | apply State.onMover_keeps | apply State.jobCompletes_keeps | apply State.opRefused_keeps

theorem execMoverScatter_keeps {a s : State} (h : Keeps a s) {x0} : KeepsOut a (execMoverScatter x0 s) := by
  unfold execMoverScatter
  try dsimp only
  with_reducible repeat' first | apply KeepsOut.next | assumption | apply State.moverScatter_keeps

theorem execNakFlit_keeps {a s : State} (h : Keeps a s) {x0 x1} : KeepsOut a (execNakFlit x0 x1 s) := by
  unfold execNakFlit
  try dsimp only
  with_reducible repeat' first | apply KeepsOut.next | assumption | (intro _; intros; try beta_reduce) | split | apply State.recvLink_keeps | apply State.replayAll_keeps | apply State.bump_keeps

theorem execOutPost_keeps {a s : State} (h : Keeps a s) {x0} : KeepsOut a (execOutPost x0 s) := by
  unfold execOutPost
  try dsimp only
  with_reducible repeat' first | apply KeepsOut.next | assumption | apply State.windowWrite_keeps

theorem execParserAlu_keeps {a s : State} (h : Keeps a s) {x0 x1 x2 x3 x4} : KeepsOut a (execParserAlu x0 x1 x2 x3 x4 s) := by
  unfold execParserAlu
  try dsimp only
  with_reducible repeat' first | apply KeepsOut.next | assumption | split | apply State.took_keeps | apply State.parse_keeps

theorem execParserBranch_keeps {a s : State} (h : Keeps a s) {x0 x1 x2 x3 x4} : KeepsOut a (execParserBranch x0 x1 x2 x3 x4 s) := by
  unfold execParserBranch
  try dsimp only
  with_reducible repeat' first | apply KeepsOut.next | assumption | split | apply State.abandon_keeps | apply State.onMachine_keeps | apply State.parse_keeps

theorem execParserDrop_keeps {a s : State} (h : Keeps a s) {x0} : KeepsOut a (execParserDrop x0 s) := by
  unfold execParserDrop
  try dsimp only
  with_reducible repeat' first | apply KeepsOut.next | assumption | split | apply State.abandon_keeps

theorem execParserEmit_keeps {a s : State} (h : Keeps a s) {x0} : KeepsOut a (execParserEmit x0 s) := by
  unfold execParserEmit
  try dsimp only
  with_reducible repeat' first | apply KeepsOut.next | assumption | split | apply State.parse_keeps

theorem execParserEnd_keeps {a s : State} (h : Keeps a s) {x0} : KeepsOut a (execParserEnd x0 s) := by
  unfold execParserEnd
  try dsimp only
  with_reducible repeat' first | apply KeepsOut.next | assumption | apply State.parse_keeps

theorem execParserExtract_keeps {a s : State} (h : Keeps a s) {x0 x1 x2 x3 x4} : KeepsOut a (execParserExtract x0 x1 x2 x3 x4 s) := by
  unfold execParserExtract
  try dsimp only
  with_reducible repeat' first | apply KeepsOut.next | assumption | apply State.parse_keeps

theorem execParserExtracts_keeps {a s : State} (h : Keeps a s) {x0 x1 x2 x3 x4} : KeepsOut a (execParserExtracts x0 x1 x2 x3 x4 s) := by
  unfold execParserExtracts
  try dsimp only
  with_reducible repeat' first | apply KeepsOut.next | assumption | apply State.parse_keeps

theorem execParserImage_keeps {a s : State} (h : Keeps a s) {x0 x1 x2 x3 x4 x5} : KeepsOut a (execParserImage x0 x1 x2 x3 x4 x5 s) := by
  unfold execParserImage
  try dsimp only
  with_reducible repeat' first | apply KeepsOut.next | assumption | split | apply State.parse_keeps

theorem execParserLoop_keeps {a s : State} (h : Keeps a s) {x0 x1 x2 x3} : KeepsOut a (execParserLoop x0 x1 x2 x3 s) := by
  unfold execParserLoop
  try dsimp only
  with_reducible repeat' first | apply KeepsOut.next | assumption | split | apply State.parse_keeps

theorem execParserMotion_keeps {a s : State} (h : Keeps a s) {x0 x1 x2} : KeepsOut a (execParserMotion x0 x1 x2 s) := by
  unfold execParserMotion
  try dsimp only
  with_reducible repeat' first | apply KeepsOut.next | assumption | split | apply State.parse_keeps

theorem execParserPolar_keeps {a s : State} (h : Keeps a s) {x0 x1 x2 x3 x4} : KeepsOut a (execParserPolar x0 x1 x2 x3 x4 s) := by
  unfold execParserPolar
  try dsimp only
  with_reducible repeat' first | apply KeepsOut.next | assumption | apply State.parse_keeps

theorem execParserScale_keeps {a s : State} (h : Keeps a s) {x0 x1 x2 x3 x4} : KeepsOut a (execParserScale x0 x1 x2 x3 x4 s) := by
  unfold execParserScale
  try dsimp only
  with_reducible repeat' first | apply KeepsOut.next | assumption | apply State.parse_keeps

theorem execParserTakeItem_keeps {a s : State} (h : Keeps a s) {x0} : KeepsOut a (execParserTakeItem x0 s) := by
  unfold execParserTakeItem
  try dsimp only
  with_reducible repeat' first | apply KeepsOut.next | assumption | focus (intro _; first | rfl | (simp only [lmod_length, lput, List.length_map, List.length_zipIdx]; done)) | split | apply State.onIng_keeps | apply State.onMachine_keeps | apply State.watermark_keeps

theorem execParserTime_keeps {a s : State} (h : Keeps a s) {x0 x1} : KeepsOut a (execParserTime x0 x1 s) := by
  unfold execParserTime
  try dsimp only
  with_reducible repeat' first | apply KeepsOut.next | assumption | split | apply State.parse_keeps

theorem execPciePerst_keeps {a s : State} (h : Keeps a s) : KeepsOut a (execPciePerst s) := by
  unfold execPciePerst
  try dsimp only
  with_reducible repeat' first | apply KeepsOut.next | assumption | split | apply State.resetFn_keeps

theorem execPdelayReqSend_keeps {a s : State} (h : Keeps a s) {x0} : KeepsOut a (execPdelayReqSend x0 s) := by
  unfold execPdelayReqSend
  try dsimp only
  with_reducible repeat' first | apply KeepsOut.next | assumption | split | apply State.onPort_keeps | apply State.egress_keeps

theorem execPeaFile_keeps {a s : State} (h : Keeps a s) : KeepsOut a (execPeaFile s) := by
  unfold execPeaFile
  try dsimp only
  with_reducible repeat' first | apply KeepsOut.next | assumption | split | apply State.fileItem_keeps | apply State.onStore_keeps

theorem execPeaFlit_keeps {a s : State} (h : Keeps a s) {x0 x1 x2} : KeepsOut a (execPeaFlit x0 x1 x2 s) := by
  unfold execPeaFlit
  try dsimp only
  with_reducible repeat' first | apply KeepsOut.next | assumption | (intro _; intros; try beta_reduce) | split | apply State.recvFlit_keeps | apply State.peerPea_keeps | apply Keeps.foldl

theorem execPeerAligned_keeps {a s : State} (h : Keeps a s) {x0} : KeepsOut a (execPeerAligned x0 s) := by
  unfold execPeerAligned
  try dsimp only
  with_reducible repeat' first | apply KeepsOut.next | assumption | split | apply State.onPeer_keeps

theorem execPeerRetry_keeps {a s : State} (h : Keeps a s) {x0 x1} : KeepsOut a (execPeerRetry x0 x1 s) := by
  unfold execPeerRetry
  try dsimp only
  with_reducible repeat' first | apply KeepsOut.next | assumption | apply State.windowWrite_keeps

theorem execPeerSerdesPllLoss_keeps {a s : State} (h : Keeps a s) {x0 x1} : KeepsOut a (execPeerSerdesPllLoss x0 x1 s) := by
  unfold execPeerSerdesPllLoss
  try dsimp only
  with_reducible repeat' first | apply KeepsOut.next | assumption | split | apply State.retirePort_keeps

theorem execPeerSignalDetect_keeps {a s : State} (h : Keeps a s) {x0 x1} : KeepsOut a (execPeerSignalDetect x0 x1 s) := by
  unfold execPeerSignalDetect
  try dsimp only
  with_reducible repeat' first | apply KeepsOut.next | assumption | split | apply State.onPeer_keeps | apply State.linkDown_keeps

theorem execPeerTrainingDone_keeps {a s : State} (h : Keeps a s) {x0 x1} : KeepsOut a (execPeerTrainingDone x0 x1 s) := by
  unfold execPeerTrainingDone
  try dsimp only
  with_reducible repeat' first | apply KeepsOut.next | assumption | (intro _; intros; try beta_reduce) | split | apply State.raise_keeps | apply State.declare_keeps | apply State.onPeer_keeps | apply State.retirePort_keeps | apply Keeps.foldl

theorem execPlaceEvaluate_keeps {a s : State} (h : Keeps a s) {x0} : KeepsOut a (execPlaceEvaluate x0 s) := by
  unfold execPlaceEvaluate
  try dsimp only
  with_reducible repeat' first | apply KeepsOut.next | assumption | apply State.windowWrite_keeps

theorem execPodMerge_keeps {a s : State} (h : Keeps a s) {x0} : KeepsOut a (execPodMerge x0 s) := by
  unfold execPodMerge
  try dsimp only
  with_reducible repeat' first | apply KeepsOut.next | assumption | split | apply State.mergeStart_keeps | apply State.onStore_keeps | apply State.mergeNode_keeps

theorem execPodRelocate_keeps {a s : State} (h : Keeps a s) {x0} : KeepsOut a (execPodRelocate x0 s) := by
  unfold execPodRelocate
  try dsimp only
  with_reducible repeat' first | apply KeepsOut.next | assumption | split | apply State.bump_keeps | apply State.onStore_keeps

theorem execPortDown_keeps {a s : State} (h : Keeps a s) {x0} : KeepsOut a (execPortDown x0 s) := by
  unfold execPortDown
  try dsimp only
  with_reducible repeat' first | apply KeepsOut.next | assumption | split | apply State.linkDown_keeps

theorem execPortEvent_keeps {a s : State} (h : Keeps a s) {x0 x1 x2} : KeepsOut a (execPortEvent x0 x1 x2 s) := by
  unfold execPortEvent
  try dsimp only
  with_reducible repeat' first | apply KeepsOut.next | assumption | split | apply State.logRec_keeps | apply State.onPort_keeps | apply State.sensorDown_keeps | apply State.bump_keeps | apply State.retireSensorPort_keeps

theorem execPortSpeedWrite_keeps {a s : State} (h : Keeps a s) {x0 x1 x2} : KeepsOut a (execPortSpeedWrite x0 x1 x2 s) := by
  unfold execPortSpeedWrite
  try dsimp only
  with_reducible repeat' first | apply KeepsOut.next | assumption | apply State.windowWrite_keeps

theorem execPoseSample_keeps {a s : State} (h : Keeps a s) : KeepsOut a (execPoseSample s) := by
  unfold execPoseSample
  try dsimp only
  with_reducible repeat' first | apply KeepsOut.next | assumption | rfl | (intro _; intros; try beta_reduce) | split | apply State.onSafety_keeps | apply Keeps.foldl

theorem execPowerDomainFault_keeps {a s : State} (h : Keeps a s) {x0} : KeepsOut a (execPowerDomainFault x0 s) := by
  unfold execPowerDomainFault
  try dsimp only
  with_reducible repeat' first | apply KeepsOut.next | assumption | split | apply State.domainFault_keeps

theorem execPowerSag_keeps {a s : State} (h : Keeps a s) {x0} : KeepsOut a (execPowerSag x0 s) := by
  unfold execPowerSag
  try dsimp only
  with_reducible repeat' first | apply KeepsOut.next | assumption | split | apply State.bump_keeps | apply State.raise_keeps | apply State.beginSave_keeps | apply State.onPower_keeps

theorem execPpsInEdge_keeps {a s : State} (h : Keeps a s) {x0 x1} : KeepsOut a (execPpsInEdge x0 x1 s) := by
  unfold execPpsInEdge
  try dsimp only
  with_reducible repeat' first | apply KeepsOut.next | assumption | split | apply State.stampTime_keeps | refine State.stampTime_keeps' (by assumption) ?_ | apply State.onTl_keeps | apply State.setWords_keeps

theorem execPpsMissing_keeps {a s : State} (h : Keeps a s) : KeepsOut a (execPpsMissing s) := by
  unfold execPpsMissing
  try dsimp only
  with_reducible repeat' first | apply KeepsOut.next | assumption | split | apply State.raise_keeps | apply State.onTl_keeps

theorem execPpsOutPulse_keeps {a s : State} (h : Keeps a s) : KeepsOut a (execPpsOutPulse s) := by
  unfold execPpsOutPulse
  try dsimp only
  with_reducible repeat' first | apply KeepsOut.next | assumption | split | apply State.send_keeps | apply State.onTl_keeps

theorem execPushWord_keeps {a s : State} (h : Keeps a s) {x0 x1 x2} : KeepsOut a (execPushWord x0 x1 x2 s) := by
  unfold execPushWord
  try dsimp only
  with_reducible repeat' first | apply KeepsOut.next | assumption | split | apply State.pushAll_keeps

theorem execPwrOkRise_keeps {a s : State} (h : Keeps a s) : KeepsOut a (execPwrOkRise s) := by
  unfold execPwrOkRise
  try dsimp only
  with_reducible repeat' first | apply KeepsOut.next | assumption | fail_if_no_progress (apply Keeps.frame; rotate_left; (first | rfl | focus (simp only [State.unitCounts, lmod_length, lput, List.length_map, List.length_zipIdx]; done)))

theorem execRadishAnswer_keeps {a s : State} (h : Keeps a s) {x0 x1} : KeepsOut a (execRadishAnswer x0 x1 s) := by
  unfold execRadishAnswer
  try dsimp only
  with_reducible repeat' first | apply KeepsOut.next | assumption | split | apply State.radishEnd_keeps

theorem execRadishTimeout_keeps {a s : State} (h : Keeps a s) {x0} : KeepsOut a (execRadishTimeout x0 s) := by
  unfold execRadishTimeout
  try dsimp only
  with_reducible repeat' first | apply KeepsOut.next | assumption | split | apply State.radishEnd_keeps

theorem execRecheckEnd_keeps {a s : State} (h : Keeps a s) {x0 x1} : KeepsOut a (execRecheckEnd x0 x1 s) := by
  unfold execRecheckEnd
  try dsimp only
  with_reducible repeat' first | apply KeepsOut.next | assumption | split | apply State.endRecheck_keeps

theorem execRecheckTimeout_keeps {a s : State} (h : Keeps a s) {x0} : KeepsOut a (execRecheckTimeout x0 s) := by
  unfold execRecheckTimeout
  try dsimp only
  with_reducible repeat' first | apply KeepsOut.next | assumption | rfl | split | apply State.endRecheckShadow_keeps | apply State.checkerRetire_keeps | apply State.logChecker_keeps | apply State.raise_keeps | apply State.bump_keeps | apply State.onSafety_keeps

theorem execRecordTransmit_keeps {a s : State} (h : Keeps a s) {x0} : KeepsOut a (execRecordTransmit x0 s) := by
  unfold execRecordTransmit
  try dsimp only
  with_reducible repeat' first | apply KeepsOut.next | assumption | split | apply State.takeRecord_keeps | refine State.takeRecord_keeps' (by assumption) ?_ | apply State.onDest_keeps | apply State.queueFlits_keeps

theorem execRedeskew_keeps {a s : State} (h : Keeps a s) : KeepsOut a (execRedeskew s) := by
  unfold execRedeskew
  try dsimp only
  with_reducible repeat' first | apply KeepsOut.next | assumption | split | apply State.onStore_keeps | apply State.redeskewOne_keeps | apply State.abandonCandidate_keeps

theorem execRefreshMirror_keeps {a s : State} (h : Keeps a s) {x0} : KeepsOut a (execRefreshMirror x0 s) := by
  unfold execRefreshMirror
  try dsimp only
  with_reducible repeat' first | apply KeepsOut.next | assumption | apply State.windowWrite_keeps

theorem execRefreshReqFlit_keeps {a s : State} (h : Keeps a s) {x0 x1} : KeepsOut a (execRefreshReqFlit x0 x1 s) := by
  unfold execRefreshReqFlit
  try dsimp only
  with_reducible repeat' first | apply KeepsOut.next | assumption | (intro _; intros; try beta_reduce) | split | apply State.recvLink_keeps | apply State.refreshSet_keeps

theorem execRegisterWrite_keeps {a s : State} (h : Keeps a s) {x0 x1 x2} : KeepsOut a (execRegisterWrite x0 x1 x2 s) := by
  unfold execRegisterWrite
  try dsimp only
  with_reducible repeat' first | apply KeepsOut.next | assumption | split | apply State.writeAccess_keeps

theorem execRehearsalDone_keeps {a s : State} (h : Keeps a s) {x0} : KeepsOut a (execRehearsalDone x0 s) := by
  unfold execRehearsalDone
  try dsimp only
  with_reducible repeat' first | apply KeepsOut.next | assumption | split | apply State.rehearsed_keeps

theorem execRekeyAll_keeps {a s : State} (h : Keeps a s) {x0} : KeepsOut a (execRekeyAll x0 s) := by
  unfold execRekeyAll
  try dsimp only
  with_reducible repeat' first | apply KeepsOut.next | assumption | apply State.windowWrite_keeps

theorem execRekeyCopyDone_keeps {a s : State} (h : Keeps a s) {x0} : KeepsOut a (execRekeyCopyDone x0 s) := by
  unfold execRekeyCopyDone
  try dsimp only
  with_reducible repeat' first | apply KeepsOut.next | assumption | split | fail_if_no_progress (apply Keeps.frame; rotate_left; (first | rfl | focus (simp only [State.unitCounts, lmod_length, lput, List.length_map, List.length_zipIdx]; done)))

theorem execRekeyDrainDone_keeps {a s : State} (h : Keeps a s) {x0} : KeepsOut a (execRekeyDrainDone x0 s) := by
  unfold execRekeyDrainDone
  try dsimp only
  with_reducible repeat' first | apply KeepsOut.next | assumption | split | apply State.onStore_keeps | apply State.raise_keeps | apply State.bump_keeps

theorem execRekeyStart_keeps {a s : State} (h : Keeps a s) {x0} : KeepsOut a (execRekeyStart x0 s) := by
  unfold execRekeyStart
  try dsimp only
  with_reducible repeat' first | apply KeepsOut.next | assumption | split | apply State.onStore_keeps

theorem execReleaseCaptures_keeps {a s : State} (h : Keeps a s) {x0 x1} : KeepsOut a (execReleaseCaptures x0 x1 s) := by
  unfold execReleaseCaptures
  try dsimp only
  with_reducible repeat' first | apply KeepsOut.next | assumption | split | apply State.windowWrite_keeps

theorem execReplayTimeout_keeps {a s : State} (h : Keeps a s) {x0} : KeepsOut a (execReplayTimeout x0 s) := by
  unfold execReplayTimeout
  try dsimp only
  with_reducible repeat' first | apply KeepsOut.next | assumption | split | apply State.replayAll_keeps | apply State.bump_keeps

theorem execRingEnable_keeps {a s : State} (h : Keeps a s) {x0 x1} : KeepsOut a (execRingEnable x0 x1 s) := by
  unfold execRingEnable
  try dsimp only
  with_reducible repeat' first | apply KeepsOut.next | assumption | apply State.windowWrite_keeps

theorem execRingIrq_keeps {a s : State} (h : Keeps a s) : KeepsOut a (execRingIrq s) := by
  unfold execRingIrq
  try dsimp only
  with_reducible repeat' first | apply KeepsOut.next | assumption | focus (intro _; first | rfl | (simp only [lmod_length, lput, List.length_map, List.length_zipIdx]; done)) | split | apply State.onHost_keeps | apply State.msix_keeps

theorem execRingReadWrite_keeps {a s : State} (h : Keeps a s) {x0 x1} : KeepsOut a (execRingReadWrite x0 x1 s) := by
  unfold execRingReadWrite
  try dsimp only
  with_reducible repeat' first | apply KeepsOut.next | assumption | apply State.windowWrite_keeps

theorem execRingRecordWrite_keeps {a s : State} (h : Keeps a s) : KeepsOut a (execRingRecordWrite s) := by
  unfold execRingRecordWrite
  try dsimp only
  with_reducible repeat' first | apply KeepsOut.next | assumption | split | apply State.ringRecord_keeps | apply State.onDest_keeps

theorem execRingSuspend_keeps {a s : State} (h : Keeps a s) : KeepsOut a (execRingSuspend s) := by
  unfold execRingSuspend
  try dsimp only
  with_reducible repeat' first | apply KeepsOut.next | assumption | split | apply State.ringSuspendAct_keeps

theorem execRootDiv_keeps {a s : State} (h : Keeps a s) {x0 x1 x2 x3 x4 x5 x6} : KeepsOut a (execRootDiv x0 x1 x2 x3 x4 x5 x6 s) := by
  unfold execRootDiv
  try dsimp only
  with_reducible repeat' first | apply KeepsOut.next | assumption | apply State.rootOp_keeps

theorem execRootPivot_keeps {a s : State} (h : Keeps a s) {x0 x1 x2 x3 x4 x5} : KeepsOut a (execRootPivot x0 x1 x2 x3 x4 x5 s) := by
  unfold execRootPivot
  try dsimp only
  with_reducible repeat' first | apply KeepsOut.next | assumption | apply State.pivotOp_keeps

theorem execRootRecip_keeps {a s : State} (h : Keeps a s) {x0 x1 x2 x3 x4 x5} : KeepsOut a (execRootRecip x0 x1 x2 x3 x4 x5 s) := by
  unfold execRootRecip
  try dsimp only
  with_reducible repeat' first | apply KeepsOut.next | assumption | apply State.rootOp_keeps

theorem execRootRelock_keeps {a s : State} (h : Keeps a s) {x0} : KeepsOut a (execRootRelock x0 s) := by
  unfold execRootRelock
  try dsimp only
  with_reducible repeat' first | apply KeepsOut.next | assumption | split | apply State.onRoot_keeps | apply State.retireRoot_keeps

theorem execRootRetire_keeps {a s : State} (h : Keeps a s) {x0} : KeepsOut a (execRootRetire x0 s) := by
  unfold execRootRetire
  try dsimp only
  with_reducible repeat' first | apply KeepsOut.next | assumption | split | apply State.retireRoot_keeps

theorem execRootRsqrt_keeps {a s : State} (h : Keeps a s) {x0 x1 x2 x3 x4 x5} : KeepsOut a (execRootRsqrt x0 x1 x2 x3 x4 x5 s) := by
  unfold execRootRsqrt
  try dsimp only
  with_reducible repeat' first | apply KeepsOut.next | assumption | apply State.rootOp_keeps

theorem execRootSqrt_keeps {a s : State} (h : Keeps a s) {x0 x1 x2 x3 x4 x5} : KeepsOut a (execRootSqrt x0 x1 x2 x3 x4 x5 s) := by
  unfold execRootSqrt
  try dsimp only
  with_reducible repeat' first | apply KeepsOut.next | assumption | apply State.rootOp_keeps

theorem execRootSwitch_keeps {a s : State} (h : Keeps a s) : KeepsOut a (execRootSwitch s) := by
  unfold execRootSwitch
  try dsimp only
  with_reducible repeat' first | apply KeepsOut.next | assumption | split | apply State.switchRoot_keeps

theorem execSafetyResume_keeps {a s : State} (h : Keeps a s) {x0} : KeepsOut a (execSafetyResume x0 s) := by
  unfold execSafetyResume
  try dsimp only
  with_reducible repeat' first | apply KeepsOut.next | assumption | apply State.windowWrite_keeps

theorem execSaveComplete_keeps {a s : State} (h : Keeps a s) {x0} : KeepsOut a (execSaveComplete x0 s) := by
  unfold execSaveComplete
  try dsimp only
  with_reducible repeat' first | apply KeepsOut.next | assumption | split | apply State.endSave_keeps

theorem execScrubNow_keeps {a s : State} (h : Keeps a s) {x0} : KeepsOut a (execScrubNow x0 s) := by
  unfold execScrubNow
  try dsimp only
  with_reducible repeat' first | apply KeepsOut.next | assumption | apply State.windowWrite_keeps

theorem execScrubRead_keeps {a s : State} (h : Keeps a s) {x0 x1 x2} : KeepsOut a (execScrubRead x0 x1 x2 s) := by
  unfold execScrubRead
  try dsimp only
  with_reducible repeat' first | apply KeepsOut.next | assumption | focus (intro _; first | rfl | (simp only [lmod_length, lput, List.length_map, List.length_zipIdx]; done)) | split | apply State.onMem_keeps | apply State.readCw_keeps | apply State.bump_keeps

theorem execSeedFlit_keeps {a s : State} (h : Keeps a s) {x0 x1 x2} : KeepsOut a (execSeedFlit x0 x1 x2 s) := by
  unfold execSeedFlit
  try dsimp only
  with_reducible repeat' first | apply KeepsOut.next | assumption | (intro _; intros; try beta_reduce) | apply State.recvFlit_keeps | apply State.seedEntry_keeps | apply Keeps.foldl

theorem execSeedReqFlit_keeps {a s : State} (h : Keeps a s) {x0 x1} : KeepsOut a (execSeedReqFlit x0 x1 s) := by
  unfold execSeedReqFlit
  try dsimp only
  with_reducible repeat' first | apply KeepsOut.next | assumption | (intro _; intros; try beta_reduce) | split | apply State.recvLink_keeps | apply State.seedSet_keeps

theorem execSeedTimeout_keeps {a s : State} (h : Keeps a s) : KeepsOut a (execSeedTimeout s) := by
  unfold execSeedTimeout
  try dsimp only
  with_reducible repeat' first | apply KeepsOut.next | assumption | focus (intro _; first | rfl | (simp only [lmod_length, lput, List.length_map, List.length_zipIdx]; done)) | split | apply State.raise_keeps | apply State.onPeers_keeps | apply State.enterService_keeps

theorem execSelfTestDone_keeps {a s : State} (h : Keeps a s) {x0 x1} : KeepsOut a (execSelfTestDone x0 x1 s) := by
  unfold execSelfTestDone
  try dsimp only
  with_reducible repeat' first | apply KeepsOut.next | assumption | split | apply State.onEngine_keeps | apply State.engHard_keeps

theorem execSensorLinkDown_keeps {a s : State} (h : Keeps a s) {x0} : KeepsOut a (execSensorLinkDown x0 s) := by
  unfold execSensorLinkDown
  try dsimp only
  with_reducible repeat' first | apply KeepsOut.next | assumption | split | apply State.sensorDown_keeps

theorem execSensorLinkUp_keeps {a s : State} (h : Keeps a s) {x0} : KeepsOut a (execSensorLinkUp x0 s) := by
  unfold execSensorLinkUp
  try dsimp only
  with_reducible repeat' first | apply KeepsOut.next | assumption | split | apply State.raise_keeps | apply State.onPort_keeps

theorem execSeqEndPass_keeps {a s : State} (h : Keeps a s) {x0 x1 x2 x3} : KeepsOut a (execSeqEndPass x0 x1 x2 x3 s) := by
  unfold execSeqEndPass
  try dsimp only
  with_reducible repeat' first | apply KeepsOut.next | assumption | apply State.endPass_keeps

theorem execSeqHalt_keeps {a s : State} (h : Keeps a s) {x0 x1 x2} : KeepsOut a (execSeqHalt x0 x1 x2 s) := by
  unfold execSeqHalt
  try dsimp only
  with_reducible repeat' first | apply KeepsOut.next | assumption | apply State.seqTo_keeps

theorem execSeqJumpMask_keeps {a s : State} (h : Keeps a s) {x0 x1 x2} : KeepsOut a (execSeqJumpMask x0 x1 x2 s) := by
  unfold execSeqJumpMask
  try dsimp only
  with_reducible repeat' first | apply KeepsOut.next | assumption | split | apply State.seqTo_keeps

theorem execSeqLoop_keeps {a s : State} (h : Keeps a s) {x0 x1 x2} : KeepsOut a (execSeqLoop x0 x1 x2 s) := by
  unfold execSeqLoop
  try dsimp only
  with_reducible repeat' first | apply KeepsOut.next | assumption | split | apply State.seqTo_keeps | apply State.took_keeps

theorem execSeqLoopEnd_keeps {a s : State} (h : Keeps a s) {x0 x1} : KeepsOut a (execSeqLoopEnd x0 x1 s) := by
  unfold execSeqLoopEnd
  try dsimp only
  with_reducible repeat' first | apply KeepsOut.next | assumption | split | apply State.seqTo_keeps | apply State.took_keeps

theorem execSeqNext_keeps {a s : State} (h : Keeps a s) {x0 x1} : KeepsOut a (execSeqNext x0 x1 s) := by
  unfold execSeqNext
  try dsimp only
  with_reducible repeat' first | apply KeepsOut.next | assumption | apply State.seqTo_keeps

theorem execServoMeasurement_keeps {a s : State} (h : Keeps a s) : KeepsOut a (execServoMeasurement s) := by
  unfold execServoMeasurement
  try dsimp only
  with_reducible repeat' first | apply KeepsOut.next | assumption | split | apply State.measure_keeps | apply State.onTl_keeps

theorem execSlotCancel_keeps {a s : State} (h : Keeps a s) {x0} : KeepsOut a (execSlotCancel x0 s) := by
  unfold execSlotCancel
  try dsimp only
  with_reducible repeat' first | apply KeepsOut.next | assumption | apply State.windowWrite_keeps

theorem execSlotCopyDone_keeps {a s : State} (h : Keeps a s) : KeepsOut a (execSlotCopyDone s) := by
  unfold execSlotCopyDone
  try dsimp only
  with_reducible repeat' first | apply KeepsOut.next | assumption | split | apply State.onSlot_keeps

theorem execSlotLoad_keeps {a s : State} (h : Keeps a s) {x0} : KeepsOut a (execSlotLoad x0 s) := by
  unfold execSlotLoad
  try dsimp only
  with_reducible repeat' first | apply KeepsOut.next | assumption | apply State.windowWrite_keeps

theorem execSlotVerifyDone_keeps {a s : State} (h : Keeps a s) {x0 x1 x2} : KeepsOut a (execSlotVerifyDone x0 x1 x2 s) := by
  unfold execSlotVerifyDone
  try dsimp only
  with_reducible repeat' first | apply KeepsOut.next | assumption | split | apply State.refuseImage_keeps | apply State.setPair_keeps | apply State.setWords_keeps | apply State.onSlot_keeps | apply State.rset_keeps

theorem execSlowDeadlineMiss_keeps {a s : State} (h : Keeps a s) : KeepsOut a (execSlowDeadlineMiss s) := by
  unfold execSlowDeadlineMiss
  try dsimp only
  with_reducible repeat' first | apply KeepsOut.next | assumption | focus (intro _; first | rfl | (simp only [lmod_length, lput, List.length_map, List.length_zipIdx]; done)) | split | apply State.raise_keeps | apply State.bump_keeps | apply State.slowResult_keeps | apply State.onSolver_keeps | apply State.error_keeps | apply State.onCom_keeps

theorem execSlowPublish_keeps {a s : State} (h : Keeps a s) : KeepsOut a (execSlowPublish s) := by
  unfold execSlowPublish
  try dsimp only
  with_reducible repeat' first | apply KeepsOut.next | assumption | (intro _; intros; try beta_reduce) | split | apply State.onStore_keeps | apply State.onSolver_keeps | apply State.rset_keeps | apply Keeps.foldl

theorem execSlowSolveEnd_keeps {a s : State} (h : Keeps a s) {x0} : KeepsOut a (execSlowSolveEnd x0 s) := by
  unfold execSlowSolveEnd
  try dsimp only
  with_reducible repeat' first | apply KeepsOut.next | assumption | split | apply State.raise_keeps | apply State.bump_keeps | apply State.onSolver_keeps | apply State.slowResult_keeps | apply State.setPair_keeps | apply State.noteRun_keeps | apply State.noteCold_keeps | apply State.keepWarm_keeps

theorem execSmbAlertResponse_keeps {a s : State} (h : Keeps a s) : KeepsOut a (execSmbAlertResponse s) := by
  unfold execSmbAlertResponse
  try dsimp only
  with_reducible repeat' first | apply KeepsOut.next | assumption | rfl | split | apply State.send_keeps | apply State.onSafety_keeps

theorem State.smbRead_keeps {a s : State} (h : Keeps a s) {x1} : Keeps a (State.smbRead s x1).1 := by
  unfold State.smbRead
  with_reducible repeat' first | assumption | split | apply State.readValue_keeps | apply State.deny_keeps | apply State.late_keeps

theorem execSmbReadReg_keeps {a s : State} (h : Keeps a s) {x0} : KeepsOut a (execSmbReadReg x0 s) := by
  unfold execSmbReadReg
  try dsimp only
  with_reducible repeat' first | apply KeepsOut.next | assumption | split | apply State.send_keeps | apply State.smbRead_keeps

theorem execSmbReceiveByte_keeps {a s : State} (h : Keeps a s) : KeepsOut a (execSmbReceiveByte s) := by
  unfold execSmbReceiveByte
  try dsimp only
  with_reducible repeat' first | apply KeepsOut.next | assumption | split | apply State.send_keeps

theorem execSmbSerial_keeps {a s : State} (h : Keeps a s) : KeepsOut a (execSmbSerial s) := by
  unfold execSmbSerial
  try dsimp only
  with_reducible repeat' first | apply KeepsOut.next | assumption | split | apply State.send_keeps

theorem execSmbTelemetry_keeps {a s : State} (h : Keeps a s) : KeepsOut a (execSmbTelemetry s) := by
  unfold execSmbTelemetry
  try dsimp only
  with_reducible repeat' first | apply KeepsOut.next | assumption | split | apply State.send_keeps

theorem execSmbWriteReg_keeps {a s : State} (h : Keeps a s) {x0 x1 x2} : KeepsOut a (execSmbWriteReg x0 x1 x2 s) := by
  unfold execSmbWriteReg
  try dsimp only
  with_reducible repeat' first | apply KeepsOut.next | assumption | split | apply State.send_keeps | apply State.late_keeps | apply State.writeAccess_keeps

theorem execSplineVersionPublish_keeps {a s : State} (h : Keeps a s) : KeepsOut a (execSplineVersionPublish s) := by
  unfold execSplineVersionPublish
  try dsimp only
  with_reducible repeat' first | apply KeepsOut.next | assumption | split | apply State.onStore_keeps | apply State.markCandidates_keeps

theorem execSramReadError_keeps {a s : State} (h : Keeps a s) {x0 x1 x2 x3 x4} : KeepsOut a (execSramReadError x0 x1 x2 x3 x4 s) := by
  unfold execSramReadError
  try dsimp only
  with_reducible repeat' first | apply KeepsOut.next | assumption | split | apply State.hardFail_keeps | apply State.raise_keeps | apply State.eccCapture_keeps | apply State.bump_keeps | apply State.groupEvent_keeps | apply State.engEvent_keeps | apply State.poisonCommons_keeps | apply State.groupFault_keeps

theorem execStoreSlot_keeps {a s : State} (h : Keeps a s) {x0 x1 x2 x3} : KeepsOut a (execStoreSlot x0 x1 x2 x3 s) := by
  unfold execStoreSlot
  try dsimp only
  with_reducible repeat' first | apply KeepsOut.next | assumption | split | apply State.storeBeat_keeps | apply State.laneBeat_keeps | refine State.laneBeat_keeps' (by assumption) ?_

theorem execSyncSignal_keeps {a s : State} (h : Keeps a s) {x0 x1 x2} : KeepsOut a (execSyncSignal x0 x1 x2 s) := by
  unfold execSyncSignal
  try dsimp only
  with_reducible repeat' first | apply KeepsOut.next | assumption | apply State.slotOp_keeps

theorem execSyncWait_keeps {a s : State} (h : Keeps a s) {x0 x1 x2} : KeepsOut a (execSyncWait x0 x1 x2 s) := by
  unfold execSyncWait
  try dsimp only
  with_reducible repeat' first | apply KeepsOut.next | assumption | apply State.slotOp_keeps

theorem execSyncWaitConsume_keeps {a s : State} (h : Keeps a s) {x0 x1 x2} : KeepsOut a (execSyncWaitConsume x0 x1 x2 s) := by
  unfold execSyncWaitConsume
  try dsimp only
  with_reducible repeat' first | apply KeepsOut.next | assumption | apply State.slotOp_keeps

theorem execThermalTrip_keeps {a s : State} (h : Keeps a s) : KeepsOut a (execThermalTrip s) := by
  unfold execThermalTrip
  try dsimp only
  with_reducible repeat' first | apply KeepsOut.next | assumption | split | apply State.domainFault_keeps

theorem execTimeFlit_keeps {a s : State} (h : Keeps a s) {x0 x1 x2 x3 x4} : KeepsOut a (execTimeFlit x0 x1 x2 x3 x4 s) := by
  unfold execTimeFlit
  try dsimp only
  with_reducible repeat' first | apply KeepsOut.next | assumption | (intro _; intros; try beta_reduce) | split | apply State.recvLink_keeps | apply State.takeTime_keeps

theorem execTimeFlitSend_keeps {a s : State} (h : Keeps a s) {x0 x1 x2} : KeepsOut a (execTimeFlitSend x0 x1 x2 s) := by
  unfold execTimeFlitSend
  try dsimp only
  with_reducible repeat' first | apply KeepsOut.next | assumption | split | apply State.onPeer_keeps | apply State.sendLink_keeps

theorem execTimeSetGo_keeps {a s : State} (h : Keeps a s) {x0} : KeepsOut a (execTimeSetGo x0 s) := by
  unfold execTimeSetGo
  try dsimp only
  with_reducible repeat' first | apply KeepsOut.next | assumption | apply State.windowWrite_keeps

theorem execTimeSnap_keeps {a s : State} (h : Keeps a s) {x0} : KeepsOut a (execTimeSnap x0 s) := by
  unfold execTimeSnap
  try dsimp only
  with_reducible repeat' first | apply KeepsOut.next | assumption | apply State.windowWrite_keeps

theorem execTrickleWrite_keeps {a s : State} (h : Keeps a s) {x0} : KeepsOut a (execTrickleWrite x0 s) := by
  unfold execTrickleWrite
  try dsimp only
  with_reducible repeat' first | apply KeepsOut.next | assumption | split | apply State.writePage_keeps | apply State.raise_keeps | apply State.keeperFail_keeps

theorem execUnmapWindow_keeps {a s : State} (h : Keeps a s) {x0} : KeepsOut a (execUnmapWindow x0 s) := by
  unfold execUnmapWindow
  try dsimp only
  with_reducible repeat' first | apply KeepsOut.next | assumption | (intro _; intros; try beta_reduce) | apply State.actItem_keeps | apply State.onTaken_keeps

theorem execUnmapWindowComplete_keeps {a s : State} (h : Keeps a s) {x0} : KeepsOut a (execUnmapWindowComplete x0 s) := by
  unfold execUnmapWindowComplete
  try dsimp only
  with_reducible repeat' first | apply KeepsOut.next | assumption | split | apply State.complete_keeps | apply State.onFn_keeps

theorem execUpdateFlit_keeps {a s : State} (h : Keeps a s) {x0 x1 x2} : KeepsOut a (execUpdateFlit x0 x1 x2 s) := by
  unfold execUpdateFlit
  try dsimp only
  with_reducible repeat' first | apply KeepsOut.next | assumption | (intro _; intros; try beta_reduce) | split | apply State.recvLink_keeps | apply State.update_keeps

theorem execVecAccv_keeps {a s : State} (h : Keeps a s) {x0 x1 x2 x3 x4} : KeepsOut a (execVecAccv x0 x1 x2 x3 x4 s) := by
  unfold execVecAccv
  try dsimp only
  with_reducible repeat' first | apply KeepsOut.next | assumption | apply State.vecOp_keeps

theorem execVecAdd_keeps {a s : State} (h : Keeps a s) {x0 x1 x2 x3 x4} : KeepsOut a (execVecAdd x0 x1 x2 x3 x4 s) := by
  unfold execVecAdd
  try dsimp only
  with_reducible repeat' first | apply KeepsOut.next | assumption | apply State.laneOp_keeps

theorem execVecCmp_keeps {a s : State} (h : Keeps a s) {x0 x1 x2 x3 x4} : KeepsOut a (execVecCmp x0 x1 x2 x3 x4 s) := by
  unfold execVecCmp
  try dsimp only
  with_reducible repeat' first | apply KeepsOut.next | assumption | apply State.vecOp_keeps

theorem execVecCvt_keeps {a s : State} (h : Keeps a s) {x0 x1 x2 x3 x4} : KeepsOut a (execVecCvt x0 x1 x2 x3 x4 s) := by
  unfold execVecCvt
  try dsimp only
  with_reducible repeat' first | apply KeepsOut.next | assumption | split | apply State.requant_keeps | refine State.requant_keeps' (by assumption) ?_ | apply State.vecOp_keeps

theorem execVecLoadv_keeps {a s : State} (h : Keeps a s) {x0 x1 x2} : KeepsOut a (execVecLoadv x0 x1 x2 s) := by
  unfold execVecLoadv
  try dsimp only
  with_reducible repeat' first | apply KeepsOut.next | assumption | apply State.vecOp_keeps

theorem execVecMax_keeps {a s : State} (h : Keeps a s) {x0 x1 x2 x3 x4} : KeepsOut a (execVecMax x0 x1 x2 x3 x4 s) := by
  unfold execVecMax
  try dsimp only
  with_reducible repeat' first | apply KeepsOut.next | assumption | apply State.laneOp_keeps

theorem execVecMin_keeps {a s : State} (h : Keeps a s) {x0 x1 x2 x3 x4} : KeepsOut a (execVecMin x0 x1 x2 x3 x4 s) := by
  unfold execVecMin
  try dsimp only
  with_reducible repeat' first | apply KeepsOut.next | assumption | apply State.laneOp_keeps

theorem execVecMul_keeps {a s : State} (h : Keeps a s) {x0 x1 x2 x3 x4} : KeepsOut a (execVecMul x0 x1 x2 x3 x4 s) := by
  unfold execVecMul
  try dsimp only
  with_reducible repeat' first | apply KeepsOut.next | assumption | apply State.laneOp_keeps

theorem execVecMulr_keeps {a s : State} (h : Keeps a s) {x0 x1 x2 x3 x4 x5} : KeepsOut a (execVecMulr x0 x1 x2 x3 x4 x5 s) := by
  unfold execVecMulr
  try dsimp only
  with_reducible repeat' first | apply KeepsOut.next | assumption | apply State.laneOp_keeps

theorem execVecPwl_keeps {a s : State} (h : Keeps a s) {x0 x1 x2 x3 x4} : KeepsOut a (execVecPwl x0 x1 x2 x3 x4 s) := by
  unfold execVecPwl
  try dsimp only
  with_reducible repeat' first | apply KeepsOut.next | assumption | apply State.vecOp_keeps

theorem execVecReduce_keeps {a s : State} (h : Keeps a s) {x0 x1 x2 x3} : KeepsOut a (execVecReduce x0 x1 x2 x3 s) := by
  unfold execVecReduce
  try dsimp only
  with_reducible repeat' first | apply KeepsOut.next | assumption | (intro _; intros; try beta_reduce) | split | apply State.vecOp_keeps | apply Keeps.foldl

theorem execVecSel_keeps {a s : State} (h : Keeps a s) {x0 x1 x2 x3 x4} : KeepsOut a (execVecSel x0 x1 x2 x3 x4 s) := by
  unfold execVecSel
  try dsimp only
  with_reducible repeat' first | apply KeepsOut.next | assumption | split | apply State.vecOp_keeps

theorem execVecShl_keeps {a s : State} (h : Keeps a s) {x0 x1 x2 x3 x4} : KeepsOut a (execVecShl x0 x1 x2 x3 x4 s) := by
  unfold execVecShl
  try dsimp only
  with_reducible repeat' first | apply KeepsOut.next | assumption | apply State.laneOp_keeps

theorem execVecShr_keeps {a s : State} (h : Keeps a s) {x0 x1 x2 x3 x4} : KeepsOut a (execVecShr x0 x1 x2 x3 x4 s) := by
  unfold execVecShr
  try dsimp only
  with_reducible repeat' first | apply KeepsOut.next | assumption | apply State.laneOp_keeps

theorem execVecSub_keeps {a s : State} (h : Keeps a s) {x0 x1 x2 x3 x4} : KeepsOut a (execVecSub x0 x1 x2 x3 x4 s) := by
  unfold execVecSub
  try dsimp only
  with_reducible repeat' first | apply KeepsOut.next | assumption | apply State.laneOp_keeps

theorem execWmHiSeenClear_keeps {a s : State} (h : Keeps a s) {x0 x1} : KeepsOut a (execWmHiSeenClear x0 x1 s) := by
  unfold execWmHiSeenClear
  try dsimp only
  with_reducible repeat' first | apply KeepsOut.next | assumption | apply State.windowWrite_keeps

theorem execWriteFlit_keeps {a s : State} (h : Keeps a s) {x0 x1 x2 x3} : KeepsOut a (execWriteFlit x0 x1 x2 x3 s) := by
  unfold execWriteFlit
  try dsimp only
  with_reducible repeat' first | apply KeepsOut.next | assumption | (intro _; intros; try beta_reduce) | split | apply State.recvFlit_keeps | apply State.remoteWrite_keeps | apply State.sendWrite_keeps | refine State.sendWrite_keeps' (by assumption) ?_

theorem tick_keeps {a s : State} (h : Keeps a s) : Keeps a (tick s) := by
  unfold tick
  try dsimp only
  with_reducible repeat' first | assumption | (intro _; intros; try beta_reduce) | split | apply State.onTl_keeps | apply State.transmitOne_keeps | apply State.sendNext_keeps | apply Keeps.foldl

end Sys2Proof.Machine
end

