-- ==== Sys2Proof/Laws/Only.lean ====
section
/-! SUPPORT. Laws of `Only`: what a change is confined to, composed. -/

namespace Sys2Proof.Machine

open Sys2Proof

set_option linter.unusedTactic false
set_option linter.unreachableTactic false
set_option linter.unusedSimpArgs false
set_option linter.unusedVariables false

/-- A component outside `l` is outside every list that `l` contains. -/
theorem Only.outside {l m : List Component} (e : l.all m.contains = true) {c : Component} (h : m.contains c = false) : l.contains c = false := by
  rcases hl : l.contains c with _ | _
  · rfl
  · have k := List.all_eq_true.mp e c (by simpa using hl)
    rw [h] at k
    exact absurd k (by simp)

theorem Only.refl (l : List Component) (s : State) : Only l s s := fun c _ => by cases c <;> rfl

theorem Component.same_trans {c : Component} {s t u : State} (h : c.same s t) (k : c.same t u) : c.same s u := by
  cases c <;> exact Eq.trans k h

theorem Only.trans {l : List Component} {s t u : State} (h : Only l s t) (k : Only l t u) : Only l s u :=
  fun c hc => Component.same_trans (h c hc) (k c hc)

theorem Only.step {l m : List Component} {s t u : State} (h : Only l s t) (k : Only m t u) (e : m.all l.contains = true) : Only l s u :=
  h.trans (fun c hc => k c (Only.outside e hc))

theorem Only.mono {l m : List Component} {s t : State} (k : Only m s t) (e : m.all l.contains = true) : Only l s t :=
  (Only.refl l s).step k e

theorem Only.sub_trans {l m n : List Component} (h : l.all m.contains = true) (k : m.all n.contains = true) : l.all n.contains = true := by
  rw [List.all_eq_true] at *
  intro c hc
  exact k c (by simpa using h c hc)

theorem Only.mk {l : List Component} {a s : State} (h : Only l a s) {regs shadows held wo resetN pwrOk tl roots ports fdb ing store com engines descs movers data solver live old liveBeat slot place mem peers safety host boot power keeper fuses flash hostMem out free}
    (e : ∀ c : Component, l.contains c = false → (match c with
      | .pending => True
      | .regs => regs = s.regs
      | .shadows => shadows = s.shadows
      | .held => held = s.held
      | .wo => wo = s.wo
      | .resetN => resetN = s.resetN
      | .pwrOk => pwrOk = s.pwrOk
      | .tl => tl = s.tl
      | .roots => roots = s.roots
      | .ports => ports = s.ports
      | .fdb => fdb = s.fdb
      | .ing => ing = s.ing
      | .store => store = s.store
      | .com => com = s.com
      | .engines => engines = s.engines
      | .descs => descs = s.descs
      | .movers => movers = s.movers
      | .data => data = s.data
      | .solver => solver = s.solver
      | .live => live = s.live
      | .old => old = s.old
      | .liveBeat => liveBeat = s.liveBeat
      | .slot => slot = s.slot
      | .place => place = s.place
      | .mem => mem = s.mem
      | .peers => peers = s.peers
      | .safety => safety = s.safety
      | .host => host = s.host
      | .boot => boot = s.boot
      | .power => power = s.power
      | .keeper => keeper = s.keeper
      | .fuses => fuses = s.fuses
      | .flash => flash = s.flash
      | .hostMem => hostMem = s.hostMem
      | .out => out = s.out
      | .free => free = s.free)) :
    Only l a { s with regs := regs, shadows := shadows, held := held, wo := wo, resetN := resetN, pwrOk := pwrOk, tl := tl, roots := roots, ports := ports, fdb := fdb, ing := ing, store := store, com := com, engines := engines, descs := descs, movers := movers, data := data, solver := solver, live := live, old := old, liveBeat := liveBeat, slot := slot, place := place, mem := mem, peers := peers, safety := safety, host := host, boot := boot, power := power, keeper := keeper, fuses := fuses, flash := flash, hostMem := hostMem, out := out, free := free } :=
  h.trans (fun c hc => by
    have k := e c hc
    cases c <;> first | exact k | rfl)

variable {l : List Component} {a s : State}

theorem Only.ite {c : Prop} [Decidable c] {t u : State} (h : c → Only l a t) (k : ¬c → Only l a u) : Only l a (if c then t else u) := by
  split
  · exact h ‹_›
  · exact k ‹_›

theorem Only.foldl {β : Type} {f : State → β → State} {xs : List β} (h : Only l a s)
    (hf : ∀ t x, Only l a t → Only l a (f t x)) : Only l a (xs.foldl f s) := by
  induction xs generalizing s with
  | nil => exact h
  | cons x xs ih => exact ih (hf _ _ h)

theorem Only.foldr {β : Type} {f : β → State → State} {xs : List β} (h : Only l a s)
    (hf : ∀ t x, Only l a t → Only l a (f x t)) : Only l a (xs.foldr f s) := by
  induction xs with
  | nil => exact h
  | cons x xs ih => exact hf _ _ ih

theorem Only.foldlP {β γ : Type} {f : State × γ → β → State × γ} {xs : List β} {p : State × γ} (h : Only l a p.1)
    (hf : ∀ t x, Only l a t.1 → Only l a (f t x).1) : Only l a (xs.foldl f p).1 := by
  induction xs generalizing p with
  | nil => exact h
  | cons x xs ih => exact ih (hf _ _ h)

theorem Only.lfoldIdx {β : Type} {f : State → Nat → β → State} {xs : List β} {i : Nat} (h : Only l a s)
    (hf : ∀ t i x, Only l a t → Only l a (f t i x)) : Only l a (Sys2Proof.lfoldIdx f s i xs) := by
  induction xs generalizing s i with
  | nil => exact h
  | cons x xs ih => exact ih (hf _ _ _ h)

theorem Only.lfoldIdxP {β γ : Type} {f : State × γ → Nat → β → State × γ} {xs : List β} {i : Nat} {p : State × γ} (h : Only l a p.1)
    (hf : ∀ t i x, Only l a t.1 → Only l a (f t i x).1) : Only l a (Sys2Proof.lfoldIdx f p i xs).1 := by
  induction xs generalizing p i with
  | nil => exact h
  | cons x xs ih => exact ih (hf _ _ _ h)

/-- A command answers a next state, which differs in the components listed only. -/
def OnlyOut (l : List Component) (s : State) (o : Out) : Prop := ∃ t, o = .next t ∧ Only l s t

theorem OnlyOut.next {t : State} (h : Only l a t) : OnlyOut l a (.next t) := ⟨t, rfl, h⟩

theorem State.hwrite_only {l : List Component} {a s : State} {o b} (h : Only l a s) (e : [Component.hostMem].all l.contains = true) :
    Only l a (s.hwrite o b) := by
  refine h.step ?_ e
  clear h e
  induction b generalizing s o with
  | nil => exact Only.refl _ _
  | cons x xs ih =>
    refine Only.trans (t := { s with hostMem := mset s.hostMem o x }) ?_ ih
    intro c hc
    cases c <;> first | exact absurd hc (by decide) | rfl

theorem State.rset_only {l : List Component} {a s : State} {o w} (h : Only l a s) (e : [Component.regs].all l.contains = true) :
    Only l a (s.rset o w) := by
  refine h.step ?_ e
  intro c hc
  cases c <;> first | exact absurd hc (by decide) | rfl

theorem State.setWords_only {l : List Component} {a s : State} {o n v} (h : Only l a s) (e : [Component.regs].all l.contains = true) :
    Only l a (s.setWords o n v) := by
  induction n generalizing s o v with
  | zero => exact h
  | succ n ih => exact ih (State.rset_only h e)


end Sys2Proof.Machine
end

