-- ==== Sys2Proof/Laws/Only1.lean ====
section
/-! SUPPORT. What each operation and command leaves alone (part 1). -/

namespace Sys2Proof.Machine

open Sys2Proof

set_option linter.unusedTactic false
set_option linter.unreachableTactic false
set_option linter.unusedSimpArgs false
set_option linter.unusedVariables false

variable {l : List Component} {a s : State}

theorem State.onFn_only {x1 x2} (h : Only l a s) (e : [.host].all l.contains = true) : Only l a (State.onFn s x1 x2) := by
  refine h.step ?_ e
  clear h e
  unfold State.onFn
  try dsimp only
  with_reducible repeat' first | exact Only.refl _ _ | assumption | decide | fail_if_no_progress (apply Only.mk; rotate_left; (intro c hc; cases c <;> first | exact absurd hc (by decide) | exact trivial | exact rfl))

theorem State.send_only {x1} (h : Only l a s) (e : [.out].all l.contains = true) : Only l a (State.send s x1) := by
  refine h.step ?_ e
  clear h e
  unfold State.send
  try dsimp only
  with_reducible repeat' first | exact Only.refl _ _ | assumption | decide | fail_if_no_progress (apply Only.mk; rotate_left; (intro c hc; cases c <;> first | exact absurd hc (by decide) | exact trivial | exact rfl))

theorem State.msix_only {x1 x2} (h : Only l a s) (e : [.host, .out].all l.contains = true) : Only l a (State.msix s x1 x2) := by
  refine h.step ?_ e
  clear h e
  unfold State.msix
  try dsimp only
  with_reducible repeat' first | exact Only.refl _ _ | assumption | split | apply State.onFn_only | apply State.send_only | decide

theorem State.msixBoth_only {x1} (h : Only l a s) (e : [.host, .out].all l.contains = true) : Only l a (State.msixBoth s x1) := by
  refine h.step ?_ e
  clear h e
  unfold State.msixBoth
  try dsimp only
  with_reducible repeat' first | exact Only.refl _ _ | assumption | apply State.msix_only | decide

theorem State.raiseAt_only {x1 x2 x3 x4} (h : Only l a s) (e : [.regs, .host, .out].all l.contains = true) : Only l a (State.raiseAt s x1 x2 x3 x4) := by
  refine h.step ?_ e
  clear h e
  unfold State.raiseAt
  try dsimp only
  with_reducible repeat' first | exact Only.refl _ _ | assumption | split | apply State.rset_only | apply State.msixBoth_only | decide

theorem State.raise_only {x1 x2} (h : Only l a s) (e : [.regs, .host, .out].all l.contains = true) : Only l a (State.raise s x1 x2) := by
  refine h.step ?_ e
  clear h e
  unfold State.raise
  try dsimp only
  with_reducible repeat' first | exact Only.refl _ _ | assumption | apply State.raiseAt_only | decide

theorem State.bump_only {x1 x2} (h : Only l a s) (e : [.regs].all l.contains = true) : Only l a (State.bump s x1 x2) := by
  refine h.step ?_ e
  clear h e
  unfold State.bump
  try dsimp only
  with_reducible repeat' first | exact Only.refl _ _ | assumption | apply State.rset_only | decide

theorem State.onMachine_only {x1 x2} (h : Only l a s) (e : [.ing].all l.contains = true) : Only l a (State.onMachine s x1 x2) := by
  refine h.step ?_ e
  clear h e
  unfold State.onMachine
  try dsimp only
  with_reducible repeat' first | exact Only.refl _ _ | assumption | decide | fail_if_no_progress (apply Only.mk; rotate_left; (intro c hc; cases c <;> first | exact absurd hc (by decide) | exact trivial | exact rfl))

theorem State.abandon_only {x1} (h : Only l a s) (e : [.regs, .ing, .host, .out].all l.contains = true) : Only l a (State.abandon s x1) := by
  refine h.step ?_ e
  clear h e
  unfold State.abandon
  try dsimp only
  with_reducible repeat' first | exact Only.refl _ _ | assumption | apply State.raise_only | apply State.bump_only | apply State.onMachine_only | decide

theorem State.abandonCandidate_only  (h : Only l a s) (e : [.regs, .host, .out].all l.contains = true) : Only l a (State.abandonCandidate s) := by
  refine h.step ?_ e
  clear h e
  unfold State.abandonCandidate
  try dsimp only
  with_reducible repeat' first | exact Only.refl _ _ | assumption | apply State.raise_only | apply State.bump_only | decide

theorem State.onSolver_only {x1} (h : Only l a s) (e : [.solver].all l.contains = true) : Only l a (State.onSolver s x1) := by
  refine h.step ?_ e
  clear h e
  unfold State.onSolver
  try dsimp only
  with_reducible repeat' first | exact Only.refl _ _ | assumption | decide | fail_if_no_progress (apply Only.mk; rotate_left; (intro c hc; cases c <;> first | exact absurd hc (by decide) | exact trivial | exact rfl))

theorem State.rput_only {x1 x2 x3 x4} (h : Only l a s) (e : [.regs].all l.contains = true) : Only l a (State.rput s x1 x2 x3 x4) := by
  refine h.step ?_ e
  clear h e
  unfold State.rput
  try dsimp only
  with_reducible repeat' first | exact Only.refl _ _ | assumption | apply State.rset_only | decide

theorem State.abandonSlow_only  (h : Only l a s) (e : [.regs, .solver, .host, .out].all l.contains = true) : Only l a (State.abandonSlow s) := by
  refine h.step ?_ e
  clear h e
  unfold State.abandonSlow
  try dsimp only
  with_reducible repeat' first | exact Only.refl _ _ | assumption | split | apply State.onSolver_only | apply State.rput_only | apply State.raise_only | apply State.bump_only | decide

theorem State.onPeer_only {x1 x2} (h : Only l a s) (e : [.peers].all l.contains = true) : Only l a (State.onPeer s x1 x2) := by
  refine h.step ?_ e
  clear h e
  unfold State.onPeer
  try dsimp only
  with_reducible repeat' first | exact Only.refl _ _ | assumption | decide | fail_if_no_progress (apply Only.mk; rotate_left; (intro c hc; cases c <;> first | exact absurd hc (by decide) | exact trivial | exact rfl))

theorem State.noteNb_only {x1 x2} (h : Only l a s) (e : [.peers].all l.contains = true) : Only l a (State.noteNb s x1 x2) := by
  refine h.step ?_ e
  clear h e
  unfold State.noteNb
  try dsimp only
  with_reducible repeat' first | exact Only.refl _ _ | assumption | apply State.onPeer_only | decide

theorem State.onDest_only {x1 x2} (h : Only l a s) (e : [.com].all l.contains = true) : Only l a (State.onDest s x1 x2) := by
  refine h.step ?_ e
  clear h e
  unfold State.onDest
  try dsimp only
  with_reducible repeat' first | exact Only.refl _ _ | assumption | decide | fail_if_no_progress (apply Only.mk; rotate_left; (intro c hc; cases c <;> first | exact absurd hc (by decide) | exact trivial | exact rfl))

theorem State.destOn_only {x1} (h : Only l a s) (e : [.com].all l.contains = true) : Only l a (State.destOn s x1) := by
  refine h.step ?_ e
  clear h e
  unfold State.destOn
  try dsimp only
  with_reducible repeat' first | exact Only.refl _ _ | assumption | split | apply State.onDest_only | decide

theorem State.setPair_only {x1 x2 x3} (h : Only l a s) (e : [.regs].all l.contains = true) : Only l a (State.setPair s x1 x2 x3) := by
  refine h.step ?_ e
  clear h e
  unfold State.setPair
  try dsimp only
  with_reducible repeat' first | exact Only.refl _ _ | assumption | apply State.rset_only | decide

theorem State.bump64_only {x1 x2 x3} (h : Only l a s) (e : [.regs].all l.contains = true) : Only l a (State.bump64 s x1 x2 x3) := by
  refine h.step ?_ e
  clear h e
  unfold State.bump64
  try dsimp only
  with_reducible repeat' first | exact Only.refl _ _ | assumption | apply State.setPair_only | decide

theorem State.sendLink_only {x1 x2} (h : Only l a s) (e : [.regs, .peers, .out].all l.contains = true) : Only l a (State.sendLink s x1 x2) := by
  refine h.step ?_ e
  clear h e
  unfold State.sendLink
  try dsimp only
  with_reducible repeat' first | exact Only.refl _ _ | assumption | split | apply State.bump64_only | apply State.send_only | apply State.onPeer_only | decide

theorem State.onPeers_only {x1} (h : Only l a s) (e : [.peers].all l.contains = true) : Only l a (State.onPeers s x1) := by
  refine h.step ?_ e
  clear h e
  unfold State.onPeers
  try dsimp only
  with_reducible repeat' first | exact Only.refl _ _ | assumption | decide | fail_if_no_progress (apply Only.mk; rotate_left; (intro c hc; cases c <;> first | exact absurd hc (by decide) | exact trivial | exact rfl))

theorem State.askRefresh_only {x1} (h : Only l a s) (e : [.regs, .peers, .out].all l.contains = true) : Only l a (State.askRefresh s x1) := by
  refine h.step ?_ e
  clear h e
  unfold State.askRefresh
  try dsimp only
  with_reducible repeat' first | exact Only.refl _ _ | assumption | apply State.sendLink_only | apply State.onPeers_only | apply State.onPeer_only | decide

theorem State.acceptNb_only {x1 x2} (h : Only l a s) (e : [.regs, .com, .peers, .host, .out].all l.contains = true) : Only l a (State.acceptNb s x1 x2) := by
  refine h.step ?_ e
  clear h e
  unfold State.acceptNb
  try dsimp only
  with_reducible repeat' first | exact Only.refl _ _ | assumption | split | apply State.onPeer_only | apply State.noteNb_only | apply State.destOn_only | apply State.raise_only | apply State.sendLink_only | apply State.askRefresh_only | apply State.onPeers_only | decide

theorem State.complete_only {x1 x2 x3 x4 x5} (h : Only l a s) (e : [.regs, .host, .hostMem, .out].all l.contains = true) : Only l a (State.complete s x1 x2 x3 x4 x5) := by
  refine h.step ?_ e
  clear h e
  unfold State.complete
  try dsimp only
  with_reducible repeat' first | exact Only.refl _ _ | assumption | split | apply State.hwrite_only | apply State.onFn_only | apply State.rset_only | apply State.msix_only | decide

theorem State.actItem_only {x1 x2 x3 x4} (h : Only l a s) (hF : [.regs, .host, .hostMem, .out].all l.contains = true) (h4 : ∀ y0 y1 y2, Only l a y0 → Only l a (x4 y0 y1 y2)) : Only l a (State.actItem s x1 x2 x3 x4) := by
  unfold State.actItem
  try dsimp only
  with_reducible repeat' first | exact Only.refl _ _ | assumption | split | apply State.onFn_only | apply State.complete_only | apply h4 | exact Only.sub_trans (by decide) hF

theorem State.showForm_only {x1 x2} (h : Only l a s) (e : [.regs].all l.contains = true) : Only l a (State.showForm s x1 x2) := by
  refine h.step ?_ e
  clear h e
  unfold State.showForm
  try dsimp only
  with_reducible repeat' first | exact Only.refl _ _ | assumption | (intro _; intros; try beta_reduce) | apply State.rset_only | decide | apply Only.foldl

theorem State.onEngine_only {x1 x2} (h : Only l a s) (e : [.engines].all l.contains = true) : Only l a (State.onEngine s x1 x2) := by
  refine h.step ?_ e
  clear h e
  unfold State.onEngine
  try dsimp only
  with_reducible repeat' first | exact Only.refl _ _ | assumption | decide | fail_if_no_progress (apply Only.mk; rotate_left; (intro c hc; cases c <;> first | exact absurd hc (by decide) | exact trivial | exact rfl))

theorem State.clearShadow_only {x1} (h : Only l a s) (e : [.engines].all l.contains = true) : Only l a (State.clearShadow s x1) := by
  refine h.step ?_ e
  clear h e
  unfold State.clearShadow
  try dsimp only
  with_reducible repeat' first | exact Only.refl _ _ | assumption | apply State.onEngine_only | decide

theorem State.emptySlot_only  (h : Only l a s) (e : [.engines, .slot].all l.contains = true) : Only l a (State.emptySlot s) := by
  refine h.step ?_ e
  clear h e
  unfold State.emptySlot
  try dsimp only
  with_reducible repeat' first | exact Only.refl _ _ | assumption | (intro _; intros; try beta_reduce) | split | apply State.clearShadow_only | decide | apply Only.foldl | fail_if_no_progress (apply Only.mk; rotate_left; (intro c hc; cases c <;> first | exact absurd hc (by decide) | exact trivial | exact rfl))

theorem State.refuseImage_only {x1 x2 x3 x4} (h : Only l a s) (e : [.regs, .engines, .slot, .host, .out].all l.contains = true) : Only l a (State.refuseImage s x1 x2 x3 x4) := by
  refine h.step ?_ e
  clear h e
  unfold State.refuseImage
  try dsimp only
  with_reducible repeat' first | exact Only.refl _ _ | assumption | apply State.rset_only | apply State.raise_only | apply State.bump_only | apply State.emptySlot_only | decide

theorem State.onSlot_only {x1} (h : Only l a s) (e : [.slot].all l.contains = true) : Only l a (State.onSlot s x1) := by
  refine h.step ?_ e
  clear h e
  unfold State.onSlot
  try dsimp only
  with_reducible repeat' first | exact Only.refl _ _ | assumption | decide | fail_if_no_progress (apply Only.mk; rotate_left; (intro c hc; cases c <;> first | exact absurd hc (by decide) | exact trivial | exact rfl))

theorem State.cancelMigrations_only {x1} (h : Only l a s) (e : [.regs, .engines, .place, .host, .out].all l.contains = true) : Only l a (State.cancelMigrations s x1) := by
  refine h.step ?_ e
  clear h e
  unfold State.cancelMigrations
  try dsimp only
  with_reducible repeat' first | exact Only.refl _ _ | assumption | (intro _; intros; try beta_reduce) | split | apply State.raise_only | apply State.bump_only | apply State.clearShadow_only | decide | apply Only.foldl | fail_if_no_progress (apply Only.mk; rotate_left; (intro c hc; cases c <;> first | exact absurd hc (by decide) | exact trivial | exact rfl))

theorem State.cancelAllMigrations_only  (h : Only l a s) (e : [.regs, .engines, .place, .host, .out].all l.contains = true) : Only l a (State.cancelAllMigrations s) := by
  refine h.step ?_ e
  clear h e
  unfold State.cancelAllMigrations
  try dsimp only
  with_reducible repeat' first | exact Only.refl _ _ | assumption | (intro _; intros; try beta_reduce) | split | apply State.cancelMigrations_only | decide | apply Only.foldl

theorem State.beginArming_only  (h : Only l a s) (e : [.regs, .engines, .slot, .place, .host, .out].all l.contains = true) : Only l a (State.beginArming s) := by
  refine h.step ?_ e
  clear h e
  unfold State.beginArming
  try dsimp only
  with_reducible repeat' first | exact Only.refl _ _ | assumption | split | apply State.cancelAllMigrations_only | apply State.onSlot_only | decide

theorem State.admitImage_only {x1 x2 x3} (h : Only l a s) (e : [.regs, .engines, .slot, .place, .host, .out].all l.contains = true) : Only l a (State.admitImage s x1 x2 x3) := by
  refine h.step ?_ e
  clear h e
  unfold State.admitImage
  try dsimp only
  with_reducible repeat' first | exact Only.refl _ _ | assumption | (intro _; intros; try beta_reduce) | split | apply State.rset_only | apply State.raise_only | apply State.bump_only | apply State.onSlot_only | apply State.beginArming_only | decide | apply Only.foldl

theorem State.admitArith_only {x1} (h : Only l a s) (e : [.regs, .engines, .slot, .place, .host, .out].all l.contains = true) : Only l a (State.admitArith s x1) := by
  refine h.step ?_ e
  clear h e
  unfold State.admitArith
  try dsimp only
  with_reducible repeat' first | exact Only.refl _ _ | assumption | split | apply State.showForm_only | apply State.refuseImage_only | apply State.admitImage_only | decide

theorem State.onBoot_only {x1} (h : Only l a s) (e : [.boot].all l.contains = true) : Only l a (State.onBoot s x1) := by
  refine h.step ?_ e
  clear h e
  unfold State.onBoot
  try dsimp only
  with_reducible repeat' first | exact Only.refl _ _ | assumption | decide | fail_if_no_progress (apply Only.mk; rotate_left; (intro c hc; cases c <;> first | exact absurd hc (by decide) | exact trivial | exact rfl))

theorem State.autoload_only  (h : Only l a s) (e : [.regs, .slot].all l.contains = true) : Only l a (State.autoload s) := by
  refine h.step ?_ e
  clear h e
  unfold State.autoload
  try dsimp only
  with_reducible repeat' first | exact Only.refl _ _ | assumption | split | apply State.onSlot_only | apply State.bump_only | decide

theorem State.stepTo_only {x1} (h : Only l a s) (e : [.boot].all l.contains = true) : Only l a (State.stepTo s x1) := by
  refine h.step ?_ e
  clear h e
  unfold State.stepTo
  try dsimp only
  with_reducible repeat' first | exact Only.refl _ _ | assumption | apply State.onBoot_only | decide

theorem State.admitHost_only  (h : Only l a s) (e : [.regs, .slot, .boot].all l.contains = true) : Only l a (State.admitHost s) := by
  refine h.step ?_ e
  clear h e
  unfold State.admitHost
  try dsimp only
  with_reducible repeat' first | exact Only.refl _ _ | assumption | split | apply State.onBoot_only | apply State.autoload_only | apply State.stepTo_only | decide

theorem State.onTl_only {x1} (h : Only l a s) (e : [.tl].all l.contains = true) : Only l a (State.onTl s x1) := by
  refine h.step ?_ e
  clear h e
  unfold State.onTl
  try dsimp only
  with_reducible repeat' first | exact Only.refl _ _ | assumption | decide | fail_if_no_progress (apply Only.mk; rotate_left; (intro c hc; cases c <;> first | exact absurd hc (by decide) | exact trivial | exact rfl))

theorem State.advanceBeat_only  (h : Only l a s) (e : [.tl].all l.contains = true) : Only l a (State.advanceBeat s) := by
  refine h.step ?_ e
  clear h e
  unfold State.advanceBeat
  try dsimp only
  with_reducible repeat' first | exact Only.refl _ _ | assumption | split | apply State.onTl_only | decide

theorem State.logRec_only {x1 x2 x3 x4 x5} (h : Only l a s) (e : [.regs, .safety].all l.contains = true) : Only l a (State.logRec s x1 x2 x3 x4 x5) := by
  refine h.step ?_ e
  clear h e
  unfold State.logRec
  try dsimp only
  with_reducible repeat' first | exact Only.refl _ _ | assumption | split | apply State.bump_only | decide | fail_if_no_progress (apply Only.mk; rotate_left; (intro c hc; cases c <;> first | exact absurd hc (by decide) | exact trivial | exact rfl))

theorem State.advanceFw_only  (h : Only l a s) (e : [.regs, .safety, .host, .fuses, .out].all l.contains = true) : Only l a (State.advanceFw s) := by
  refine h.step ?_ e
  clear h e
  unfold State.advanceFw
  try dsimp only
  with_reducible repeat' first | exact Only.refl _ _ | assumption | split | apply State.raise_only | apply State.logRec_only | decide | fail_if_no_progress (apply Only.mk; rotate_left; (intro c hc; cases c <;> first | exact absurd hc (by decide) | exact trivial | exact rfl))

theorem State.onSafety_only {x1} (h : Only l a s) (e : [.safety].all l.contains = true) : Only l a (State.onSafety s x1) := by
  refine h.step ?_ e
  clear h e
  unfold State.onSafety
  try dsimp only
  with_reducible repeat' first | exact Only.refl _ _ | assumption | decide | fail_if_no_progress (apply Only.mk; rotate_left; (intro c hc; cases c <;> first | exact absurd hc (by decide) | exact trivial | exact rfl))

theorem State.keeperFail_only  (h : Only l a s) (e : [.regs, .safety, .host, .out].all l.contains = true) : Only l a (State.keeperFail s) := by
  refine h.step ?_ e
  clear h e
  unfold State.keeperFail
  try dsimp only
  with_reducible repeat' first | exact Only.refl _ _ | assumption | apply State.raise_only | apply State.bump_only | apply State.onSafety_only | decide

theorem State.onKeeper_only {x1} (h : Only l a s) (e : [.keeper].all l.contains = true) : Only l a (State.onKeeper s x1) := by
  refine h.step ?_ e
  clear h e
  unfold State.onKeeper
  try dsimp only
  with_reducible repeat' first | exact Only.refl _ _ | assumption | decide | fail_if_no_progress (apply Only.mk; rotate_left; (intro c hc; cases c <;> first | exact absurd hc (by decide) | exact trivial | exact rfl))

theorem State.discardSlot_only  (h : Only l a s) (e : [.regs, .engines, .slot, .host, .out].all l.contains = true) : Only l a (State.discardSlot s) := by
  refine h.step ?_ e
  clear h e
  unfold State.discardSlot
  try dsimp only
  with_reducible repeat' first | exact Only.refl _ _ | assumption | split | apply State.raise_only | apply State.refuseImage_only | decide

theorem State.advanceImage_only {x1} (h : Only l a s) (e : [.regs, .engines, .slot, .safety, .host, .keeper, .out].all l.contains = true) : Only l a (State.advanceImage s x1) := by
  refine h.step ?_ e
  clear h e
  unfold State.advanceImage
  try dsimp only
  with_reducible repeat' first | exact Only.refl _ _ | assumption | split | apply State.keeperFail_only | apply State.raise_only | apply State.logRec_only | apply State.onKeeper_only | apply State.discardSlot_only | decide

theorem State.alertBeat_only  (h : Only l a s) (e : [.safety].all l.contains = true) : Only l a (State.alertBeat s) := by
  refine h.step ?_ e
  clear h e
  unfold State.alertBeat
  try dsimp only
  with_reducible repeat' first | exact Only.refl _ _ | assumption | apply State.onSafety_only | decide

theorem State.onStore_only {x1} (h : Only l a s) (e : [.store].all l.contains = true) : Only l a (State.onStore s x1) := by
  refine h.step ?_ e
  clear h e
  unfold State.onStore
  try dsimp only
  with_reducible repeat' first | exact Only.refl _ _ | assumption | decide | fail_if_no_progress (apply Only.mk; rotate_left; (intro c hc; cases c <;> first | exact absurd hc (by decide) | exact trivial | exact rfl))

theorem State.lookup_only {x1} (h : Only l a s) (e : [.regs].all l.contains = true) : Only l a (State.lookup s x1).1 := by
  refine h.step ?_ e
  clear h e
  unfold State.lookup
  try dsimp only
  with_reducible repeat' first | exact Only.refl _ _ | assumption | split | apply State.bump_only | decide

theorem State.lookup_only' {t : State} {x1} {r} (h : Only l a s) (e : [.regs].all l.contains = true) (q : State.lookup s x1 = (t, r)) : Only l a t := by
  have k := State.lookup_only h e (x1 := x1)
  rw [q] at k
  exact k

theorem State.insertNode_only {x1} (h : Only l a s) (e : [.regs, .store, .com, .host, .out].all l.contains = true) : Only l a (State.insertNode s x1).1 := by
  refine h.step ?_ e
  clear h e
  unfold State.insertNode
  try dsimp only
  with_reducible repeat' first | exact Only.refl _ _ | assumption | split | apply State.onStore_only | apply State.raise_only | apply State.bump_only | decide | fail_if_no_progress (apply Only.mk; rotate_left; (intro c hc; cases c <;> first | exact absurd hc (by decide) | exact trivial | exact rfl))

theorem State.insertNode_only' {t : State} {x1} {r} (h : Only l a s) (e : [.regs, .store, .com, .host, .out].all l.contains = true) (q : State.insertNode s x1 = (t, r)) : Only l a t := by
  have k := State.insertNode_only h e (x1 := x1)
  rw [q] at k
  exact k

theorem State.ancestors_only {n i k} (h : Only l a s) (e : [Component.regs, .store, .com, .host, .out].all l.contains = true) :
    Only l a (State.ancestors n i s k).1 := by
  induction n generalizing i s with
  | zero => exact h
  | succ n ih =>
    unfold State.ancestors
    split
    · exact h
    · dsimp only
      split
      · next heq => exact ih (State.onStore_only (State.lookup_only' h (Only.sub_trans (by decide) e) heq) (Only.sub_trans (by decide) e))
      · next heq =>
        have h2 := State.lookup_only' h (Only.sub_trans (by decide) e) heq
        split
        · next heq2 => exact ih (State.insertNode_only' h2 (Only.sub_trans (by decide) e) heq2)
        · next heq2 => exact State.insertNode_only' h2 (Only.sub_trans (by decide) e) heq2

theorem State.ancestors_only' {t : State} {n i k r} (h : Only l a s) (e : [Component.regs, .store, .com, .host, .out].all l.contains = true)
    (q : State.ancestors n i s k = (t, r)) : Only l a t := by
  have x := State.ancestors_only h e (n := n) (i := i) (k := k)
  rw [q] at x
  exact x

theorem State.mergeStart_only  (h : Only l a s) (e : [.regs, .store, .host, .out].all l.contains = true) : Only l a (State.mergeStart s) := by
  refine h.step ?_ e
  clear h e
  unfold State.mergeStart
  try dsimp only
  with_reducible repeat' first | exact Only.refl _ _ | assumption | split | apply State.raise_only | apply State.onStore_only | decide

theorem State.allocPod_only {x1 x2} (h : Only l a s) (e : [.regs, .store, .com, .host, .out].all l.contains = true) : Only l a (State.allocPod s x1 x2).1 := by
  refine h.step ?_ e
  clear h e
  unfold State.allocPod
  try dsimp only
  with_reducible repeat' first | exact Only.refl _ _ | assumption | split | apply State.ancestors_only | (apply State.ancestors_only'; rotate_left; decide; assumption) | apply State.insertNode_only | (apply State.insertNode_only'; rotate_left; decide; assumption) | apply State.mergeStart_only | apply State.bump_only | apply State.onStore_only | decide | fail_if_no_progress (apply Only.mk; rotate_left; (intro c hc; cases c <;> first | exact absurd hc (by decide) | exact trivial | exact rfl))

theorem State.allocPod_only' {t : State} {x1 x2} {r} (h : Only l a s) (e : [.regs, .store, .com, .host, .out].all l.contains = true) (q : State.allocPod s x1 x2 = (t, r)) : Only l a t := by
  have k := State.allocPod_only h e (x1 := x1) (x2 := x2)
  rw [q] at k
  exact k

theorem State.announceImage_only  (h : Only l a s) (e : [.regs, .peers, .out].all l.contains = true) : Only l a (State.announceImage s) := by
  refine h.step ?_ e
  clear h e
  unfold State.announceImage
  try dsimp only
  with_reducible repeat' first | exact Only.refl _ _ | assumption | (intro _; intros; try beta_reduce) | split | apply State.sendLink_only | apply State.onPeer_only | decide | apply Only.foldl

theorem State.reply_only {x1} (h : Only l a s) (e : [.regs, .host, .boot, .out].all l.contains = true) : Only l a (State.reply s x1) := by
  refine h.step ?_ e
  clear h e
  unfold State.reply
  try dsimp only
  with_reducible repeat' first | exact Only.refl _ _ | assumption | apply State.raise_only | apply State.onBoot_only | apply State.rset_only | decide

theorem State.answer_only {x1 x2} (h : Only l a s) (hF : [.regs, .host, .boot, .out].all l.contains = true) (h2 : ∀ y0, Only l a y0 → Only l a (x2 y0)) : Only l a (State.answer s x1 x2) := by
  unfold State.answer
  try dsimp only
  with_reducible repeat' first | exact Only.refl _ _ | assumption | split | apply State.reply_only | apply h2 | exact Only.sub_trans (by decide) hF

theorem State.applyClear_only {x1} (h : Only l a s) (e : [.regs, .safety, .keeper].all l.contains = true) : Only l a (State.applyClear s x1) := by
  refine h.step ?_ e
  clear h e
  unfold State.applyClear
  try dsimp only
  with_reducible repeat' first | exact Only.refl _ _ | assumption | split | apply State.logRec_only | apply State.onKeeper_only | decide

theorem State.onChannel_only {x1 x2} (h : Only l a s) (e : [.mem].all l.contains = true) : Only l a (State.onChannel s x1 x2) := by
  refine h.step ?_ e
  clear h e
  unfold State.onChannel
  try dsimp only
  with_reducible repeat' first | exact Only.refl _ _ | assumption | decide | fail_if_no_progress (apply Only.mk; rotate_left; (intro c hc; cases c <;> first | exact absurd hc (by decide) | exact trivial | exact rfl))

theorem State.onMem_only {x1} (h : Only l a s) (e : [.mem].all l.contains = true) : Only l a (State.onMem s x1) := by
  refine h.step ?_ e
  clear h e
  unfold State.onMem
  try dsimp only
  with_reducible repeat' first | exact Only.refl _ _ | assumption | decide | fail_if_no_progress (apply Only.mk; rotate_left; (intro c hc; cases c <;> first | exact absurd hc (by decide) | exact trivial | exact rfl))

theorem State.applyCopy_only {x1} (h : Only l a s) (e : [.regs, .mem, .host, .out].all l.contains = true) : Only l a (State.applyCopy s x1) := by
  refine h.step ?_ e
  clear h e
  unfold State.applyCopy
  try dsimp only
  with_reducible repeat' first | exact Only.refl _ _ | assumption | split | apply State.onChannel_only | apply State.raise_only | apply State.onMem_only | decide

theorem State.onPlace_only {x1} (h : Only l a s) (e : [.place].all l.contains = true) : Only l a (State.onPlace s x1) := by
  refine h.step ?_ e
  clear h e
  unfold State.onPlace
  try dsimp only
  with_reducible repeat' first | exact Only.refl _ _ | assumption | decide | fail_if_no_progress (apply Only.mk; rotate_left; (intro c hc; cases c <;> first | exact absurd hc (by decide) | exact trivial | exact rfl))

theorem State.countSwitch_only  (h : Only l a s) (e : [.regs, .place, .host, .out].all l.contains = true) : Only l a (State.countSwitch s) := by
  refine h.step ?_ e
  clear h e
  unfold State.countSwitch
  try dsimp only
  with_reducible repeat' first | exact Only.refl _ _ | assumption | apply State.onPlace_only | apply State.raise_only | apply State.bump_only | decide

theorem State.noteChanged_only {x1} (h : Only l a s) (e : [.place].all l.contains = true) : Only l a (State.noteChanged s x1) := by
  refine h.step ?_ e
  clear h e
  unfold State.noteChanged
  try dsimp only
  with_reducible repeat' first | exact Only.refl _ _ | assumption | apply State.onPlace_only | decide

theorem State.engIgnored_only {x1 x2} (h : Only l a s) (e : [.regs, .safety].all l.contains = true) : Only l a (State.engIgnored s x1 x2) := by
  refine h.step ?_ e
  clear h e
  unfold State.engIgnored
  try dsimp only
  with_reducible repeat' first | exact Only.refl _ _ | assumption | apply State.logRec_only | decide

theorem State.markRetired_only {x1 x2} (h : Only l a s) (e : [.safety, .keeper].all l.contains = true) : Only l a (State.markRetired s x1 x2) := by
  refine h.step ?_ e
  clear h e
  unfold State.markRetired
  try dsimp only
  with_reducible repeat' first | exact Only.refl _ _ | assumption | split | decide | fail_if_no_progress (apply Only.mk; rotate_left; (intro c hc; cases c <;> first | exact absurd hc (by decide) | exact trivial | exact rfl))

theorem State.slotLost_only {x1} (h : Only l a s) (e : [.regs, .slot, .host, .out].all l.contains = true) : Only l a (State.slotLost s x1) := by
  refine h.step ?_ e
  clear h e
  unfold State.slotLost
  try dsimp only
  with_reducible repeat' first | exact Only.refl _ _ | assumption | split | apply State.raise_only | apply State.bump_only | decide | fail_if_no_progress (apply Only.mk; rotate_left; (intro c hc; cases c <;> first | exact absurd hc (by decide) | exact trivial | exact rfl))

theorem State.onBook_only {x1 x2} (h : Only l a s) (e : [.place].all l.contains = true) : Only l a (State.onBook s x1 x2) := by
  refine h.step ?_ e
  clear h e
  unfold State.onBook
  try dsimp only
  with_reducible repeat' first | exact Only.refl _ _ | assumption | decide | fail_if_no_progress (apply Only.mk; rotate_left; (intro c hc; cases c <;> first | exact absurd hc (by decide) | exact trivial | exact rfl))

theorem State.retireEng_only {x1} (h : Only l a s) (e : [.regs, .engines, .slot, .place, .safety, .host, .keeper, .out].all l.contains = true) : Only l a (State.retireEng s x1) := by
  refine h.step ?_ e
  clear h e
  unfold State.retireEng
  try dsimp only
  with_reducible repeat' first | exact Only.refl _ _ | assumption | split | apply State.engIgnored_only | apply State.onEngine_only | apply State.markRetired_only | apply State.slotLost_only | apply State.onBook_only | decide

theorem State.retireFailed_only {x1} (h : Only l a s) (e : [.regs, .engines, .slot, .place, .safety, .host, .keeper, .out].all l.contains = true) : Only l a (State.retireFailed s x1) := by
  refine h.step ?_ e
  clear h e
  unfold State.retireFailed
  try dsimp only
  with_reducible repeat' first | exact Only.refl _ _ | assumption | split | apply State.retireEng_only | decide

theorem State.switchEng_only {x1} (h : Only l a s) (e : [.regs, .engines, .safety].all l.contains = true) : Only l a (State.switchEng s x1) := by
  refine h.step ?_ e
  clear h e
  unfold State.switchEng
  try dsimp only
  with_reducible repeat' first | exact Only.refl _ _ | assumption | split | apply State.onEngine_only | apply State.engIgnored_only | decide

theorem State.applyReplacement_only {x1} (h : Only l a s) (e : [.regs, .engines, .slot, .place, .safety, .host, .keeper, .out].all l.contains = true) : Only l a (State.applyReplacement s x1) := by
  refine h.step ?_ e
  clear h e
  unfold State.applyReplacement
  try dsimp only
  with_reducible repeat' first | exact Only.refl _ _ | assumption | split | apply State.countSwitch_only | apply State.noteChanged_only | apply State.retireFailed_only | apply State.switchEng_only | decide

theorem State.stopHeartbeat_only  (h : Only l a s) (e : [.regs, .safety, .host, .out].all l.contains = true) : Only l a (State.stopHeartbeat s) := by
  refine h.step ?_ e
  clear h e
  unfold State.stopHeartbeat
  try dsimp only
  with_reducible repeat' first | exact Only.refl _ _ | assumption | apply State.onSafety_only | apply State.raise_only | apply State.bump_only | decide

theorem State.queueTo_only {x1 x2} (h : Only l a s) (e : [.com].all l.contains = true) : Only l a (State.queueTo s x1 x2) := by
  refine h.step ?_ e
  clear h e
  unfold State.queueTo
  try dsimp only
  with_reducible repeat' first | exact Only.refl _ _ | assumption | split | apply State.onDest_only | decide

theorem State.queueAll_only {x1} (h : Only l a s) (e : [.com].all l.contains = true) : Only l a (State.queueAll s x1) := by
  refine h.step ?_ e
  clear h e
  unfold State.queueAll
  try dsimp only
  with_reducible repeat' first | exact Only.refl _ _ | assumption | (intro _; intros; try beta_reduce) | apply State.queueTo_only | decide | apply Only.foldl

theorem State.onCom_only {x1} (h : Only l a s) (e : [.com].all l.contains = true) : Only l a (State.onCom s x1) := by
  refine h.step ?_ e
  clear h e
  unfold State.onCom
  try dsimp only
  with_reducible repeat' first | exact Only.refl _ _ | assumption | decide | fail_if_no_progress (apply Only.mk; rotate_left; (intro c hc; cases c <;> first | exact absurd hc (by decide) | exact trivial | exact rfl))

theorem State.close_only {x1} (h : Only l a s) (e : [.regs, .com, .host, .out].all l.contains = true) : Only l a (State.close s x1) := by
  refine h.step ?_ e
  clear h e
  unfold State.close
  try dsimp only
  with_reducible repeat' first | exact Only.refl _ _ | assumption | split | apply State.queueAll_only | apply State.raise_only | apply State.onCom_only | decide

theorem State.logState_only {x1 x2} (h : Only l a s) (e : [.regs, .safety].all l.contains = true) : Only l a (State.logState s x1 x2) := by
  refine h.step ?_ e
  clear h e
  unfold State.logState
  try dsimp only
  with_reducible repeat' first | exact Only.refl _ _ | assumption | apply State.logRec_only | decide

theorem State.enterHold_only {x1} (h : Only l a s) (e : [.regs, .com, .engines, .slot, .safety, .host, .out].all l.contains = true) : Only l a (State.enterHold s x1) := by
  refine h.step ?_ e
  clear h e
  unfold State.enterHold
  try dsimp only
  with_reducible repeat' first | exact Only.refl _ _ | assumption | split | apply State.onSafety_only | apply State.stopHeartbeat_only | apply State.discardSlot_only | apply State.close_only | apply State.raise_only | apply State.logState_only | decide

theorem State.infeasible_only  (h : Only l a s) (e : [.regs, .com, .engines, .slot, .safety, .host, .out].all l.contains = true) : Only l a (State.infeasible s) := by
  refine h.step ?_ e
  clear h e
  unfold State.infeasible
  try dsimp only
  with_reducible repeat' first | exact Only.refl _ _ | assumption | apply State.enterHold_only | apply State.raise_only | decide

theorem State.releaseEng_only {x1} (h : Only l a s) (e : [.regs, .engines, .safety].all l.contains = true) : Only l a (State.releaseEng s x1) := by
  refine h.step ?_ e
  clear h e
  unfold State.releaseEng
  try dsimp only
  with_reducible repeat' first | exact Only.refl _ _ | assumption | split | apply State.onEngine_only | apply State.engIgnored_only | decide

theorem State.dropUnits_only {x1} (h : Only l a s) (e : [.regs, .engines, .safety].all l.contains = true) : Only l a (State.dropUnits s x1) := by
  refine h.step ?_ e
  clear h e
  unfold State.dropUnits
  try dsimp only
  with_reducible repeat' first | exact Only.refl _ _ | assumption | (intro _; intros; try beta_reduce) | split | apply State.onEngine_only | apply State.releaseEng_only | decide | apply Only.foldl

theorem State.suspendUnits_only {x1} (h : Only l a s) (e : [.regs, .engines, .place, .safety, .host, .out].all l.contains = true) : Only l a (State.suspendUnits s x1) := by
  refine h.step ?_ e
  clear h e
  unfold State.suspendUnits
  try dsimp only
  with_reducible repeat' first | exact Only.refl _ _ | assumption | split | apply State.dropUnits_only | apply State.onPlace_only | apply State.raise_only | apply State.bump_only | decide

theorem State.fitLevel_only  (h : Only l a s) (e : [.regs, .com, .engines, .slot, .place, .safety, .host, .out].all l.contains = true) : Only l a (State.fitLevel s) := by
  refine h.step ?_ e
  clear h e
  unfold State.fitLevel
  try dsimp only
  with_reducible repeat' first | exact Only.refl _ _ | assumption | split | apply State.onPlace_only | apply State.infeasible_only | apply State.suspendUnits_only | decide

theorem State.joinUnit_only {x1 x2} (h : Only l a s) (e : [.engines, .place].all l.contains = true) : Only l a (State.joinUnit s x1 x2) := by
  refine h.step ?_ e
  clear h e
  unfold State.joinUnit
  try dsimp only
  with_reducible repeat' first | exact Only.refl _ _ | assumption | apply State.noteChanged_only | apply State.onEngine_only | decide

theorem State.redistribute_only {x1} (h : Only l a s) (e : [.regs, .com, .engines, .slot, .place, .safety, .host, .keeper, .out].all l.contains = true) : Only l a (State.redistribute s x1) := by
  refine h.step ?_ e
  clear h e
  unfold State.redistribute
  try dsimp only
  with_reducible repeat' first | exact Only.refl _ _ | assumption | (intro _; intros; try beta_reduce) | split | apply State.fitLevel_only | apply State.retireFailed_only | apply State.onPlace_only | apply State.joinUnit_only | apply State.countSwitch_only | apply State.noteChanged_only | decide | apply Only.foldl

theorem State.applyFaults_only  (h : Only l a s) (e : [.regs, .com, .engines, .slot, .place, .mem, .safety, .host, .keeper, .out].all l.contains = true) : Only l a (State.applyFaults s) := by
  refine h.step ?_ e
  clear h e
  unfold State.applyFaults
  try dsimp only
  with_reducible repeat' first | exact Only.refl _ _ | assumption | (intro _; intros; try beta_reduce) | apply State.onPlace_only | apply State.applyReplacement_only | apply State.redistribute_only | apply State.applyCopy_only | decide | apply Only.foldl

theorem State.pickTarget_only {x1} (h : Only l a s) (e : [.regs, .engines, .place, .host, .out].all l.contains = true) : Only l a (State.pickTarget s x1).1 := by
  refine h.step ?_ e
  clear h e
  unfold State.pickTarget
  try dsimp only
  with_reducible repeat' first | exact Only.refl _ _ | assumption | split | apply State.raise_only | apply State.cancelMigrations_only | decide

theorem State.pickTarget_only' {t : State} {x1} {r} (h : Only l a s) (e : [.regs, .engines, .place, .host, .out].all l.contains = true) (q : State.pickTarget s x1 = (t, r)) : Only l a t := by
  have k := State.pickTarget_only h e (x1 := x1)
  rw [q] at k
  exact k

theorem State.assignShadow_only {x1 x2 x3 x4} (h : Only l a s) (e : [.regs, .engines, .safety].all l.contains = true) : Only l a (State.assignShadow s x1 x2 x3 x4) := by
  refine h.step ?_ e
  clear h e
  unfold State.assignShadow
  try dsimp only
  with_reducible repeat' first | exact Only.refl _ _ | assumption | split | apply State.onEngine_only | apply State.engIgnored_only | decide

theorem State.replace_only {x1 x2 x3} (h : Only l a s) (e : [.regs, .engines, .place, .safety, .host, .out].all l.contains = true) : Only l a (State.replace s x1 x2 x3).1 := by
  refine h.step ?_ e
  clear h e
  unfold State.replace
  try dsimp only
  with_reducible repeat' first | exact Only.refl _ _ | assumption | split | apply State.pickTarget_only | (apply State.pickTarget_only'; rotate_left; decide; assumption) | apply State.assignShadow_only | decide | fail_if_no_progress (apply Only.mk; rotate_left; (intro c hc; cases c <;> first | exact absurd hc (by decide) | exact trivial | exact rfl))

theorem State.replace_only' {t : State} {x1 x2 x3} {r} (h : Only l a s) (e : [.regs, .engines, .place, .safety, .host, .out].all l.contains = true) (q : State.replace s x1 x2 x3 = (t, r)) : Only l a t := by
  have k := State.replace_only h e (x1 := x1) (x2 := x2) (x3 := x3)
  rw [q] at k
  exact k

theorem State.renewReplacements_only  (h : Only l a s) (e : [.regs, .engines, .slot, .place, .safety, .host, .keeper, .out].all l.contains = true) : Only l a (State.renewReplacements s) := by
  refine h.step ?_ e
  clear h e
  unfold State.renewReplacements
  try dsimp only
  with_reducible repeat' first | exact Only.refl _ _ | assumption | (intro _; intros; try beta_reduce) | split | apply State.onPlace_only | apply State.clearShadow_only | apply State.replace_only | (apply State.replace_only'; rotate_left; decide; assumption) | apply State.retireFailed_only | decide | apply Only.foldl

theorem State.dropReruns_only  (h : Only l a s) (e : [.engines].all l.contains = true) : Only l a (State.dropReruns s) := by
  refine h.step ?_ e
  clear h e
  unfold State.dropReruns
  try dsimp only
  with_reducible repeat' first | exact Only.refl _ _ | assumption | (intro _; intros; try beta_reduce) | split | apply State.clearShadow_only | decide | apply Only.foldl

theorem State.switchTable_only {x1} (h : Only l a s) (e : [.store].all l.contains = true) : Only l a (State.switchTable s x1) := by
  refine h.step ?_ e
  clear h e
  unfold State.switchTable
  try dsimp only
  with_reducible repeat' first | exact Only.refl _ _ | assumption | (intro _; intros; try beta_reduce) | split | apply State.onStore_only | decide | apply Only.foldl | apply Only.foldlP

theorem State.showLive_only {x1} (h : Only l a s) (e : [.regs].all l.contains = true) : Only l a (State.showLive s x1) := by
  refine h.step ?_ e
  clear h e
  unfold State.showLive
  try dsimp only
  with_reducible repeat' first | exact Only.refl _ _ | assumption | apply State.setWords_only | apply State.rset_only | apply State.setPair_only | decide

theorem State.switchImage_only  (h : Only l a s) (e : [.regs, .store, .engines, .descs, .movers, .data, .solver, .live, .old, .liveBeat, .slot, .place, .safety, .host, .out].all l.contains = true) : Only l a (State.switchImage s) := by
  refine h.step ?_ e
  clear h e
  unfold State.switchImage
  try dsimp only
  with_reducible repeat' first | exact Only.refl _ _ | assumption | (intro _; intros; try beta_reduce) | split | apply State.switchEng_only | apply State.releaseEng_only | apply State.switchTable_only | apply State.abandonSlow_only | apply State.emptySlot_only | apply State.bump_only | apply State.onStore_only | apply State.raise_only | apply State.showLive_only | decide | apply Only.foldl | fail_if_no_progress (apply Only.mk; rotate_left; (intro c hc; cases c <;> first | exact absurd hc (by decide) | exact trivial | exact rfl))

theorem State.modCell_only {x1 x2 x3} (h : Only l a s) (e : [.store].all l.contains = true) : Only l a (State.modCell s x1 x2 x3) := by
  refine h.step ?_ e
  clear h e
  unfold State.modCell
  try dsimp only
  with_reducible repeat' first | exact Only.refl _ _ | assumption | apply State.onStore_only | decide

theorem State.fileEntry_only' {t : State} {x1 x2 x3} (h : Only l a s) (e : [Component.regs, .store, .com, .host, .out].all l.contains = true)
    (q : State.fileEntry s x1 x2 x3 = some t) : Only l a t := by
  have es : [Component.store].all l.contains = true := Only.sub_trans (by decide) e
  unfold State.fileEntry at q
  split at q
  · split at q
    · simp only [Option.some.injEq] at q; subst q; exact State.modCell_only h es
    · split at q
      · simp at q
      · split at q
        · next heq => simp only [Option.some.injEq] at q; subst q; exact State.modCell_only (State.allocPod_only' h e heq) es
        · simp at q
  · split at q
    · split at q
      · simp only [Option.some.injEq] at q; subst q; exact State.onStore_only h es
      · simp at q
    · split at q
      · next heq =>
        split at q
        · next heq2 => simp only [Option.some.injEq] at q; subst q; exact State.insertNode_only' (State.ancestors_only' h e heq) e heq2
        · simp at q
      · simp at q

theorem State.onPower_only {x1} (h : Only l a s) (e : [.power].all l.contains = true) : Only l a (State.onPower s x1) := by
  refine h.step ?_ e
  clear h e
  unfold State.onPower
  try dsimp only
  with_reducible repeat' first | exact Only.refl _ _ | assumption | decide | fail_if_no_progress (apply Only.mk; rotate_left; (intro c hc; cases c <;> first | exact absurd hc (by decide) | exact trivial | exact rfl))

theorem State.restoreEntry_only {x1} (h : Only l a s) (e : [.regs, .store, .com, .host, .power, .out].all l.contains = true) : Only l a (State.restoreEntry s x1) := by
  refine h.step ?_ e
  clear h e
  unfold State.restoreEntry
  try dsimp only
  with_reducible repeat' first | exact Only.refl _ _ | assumption | split | apply State.bump_only | (apply State.fileEntry_only'; rotate_left; decide; assumption) | apply State.onPower_only | decide

theorem State.restoreMarrow_only  (h : Only l a s) (e : [.regs, .store, .com, .solver, .host, .power, .out].all l.contains = true) : Only l a (State.restoreMarrow s) := by
  refine h.step ?_ e
  clear h e
  unfold State.restoreMarrow
  try dsimp only
  with_reducible repeat' first | exact Only.refl _ _ | assumption | (intro _; intros; try beta_reduce) | split | apply State.restoreEntry_only | apply State.onSolver_only | apply State.onStore_only | apply State.rset_only | apply State.onPower_only | apply State.raise_only | decide | apply Only.foldl

theorem State.dropCandidates_only {x1} (h : Only l a s) (e : [.regs, .store, .host, .out].all l.contains = true) : Only l a (State.dropCandidates s x1) := by
  refine h.step ?_ e
  clear h e
  unfold State.dropCandidates
  try dsimp only
  with_reducible repeat' first | exact Only.refl _ _ | assumption | split | apply State.raise_only | apply State.bump_only | apply State.onStore_only | decide

theorem State.queueFlits_only {x1 x2 x3} (h : Only l a s) (e : [.peers].all l.contains = true) : Only l a (State.queueFlits s x1 x2 x3) := by
  refine h.step ?_ e
  clear h e
  unfold State.queueFlits
  try dsimp only
  with_reducible repeat' first | exact Only.refl _ _ | assumption | apply State.onPeer_only | decide

theorem State.sendMirrorSet_only {x1 x2 x3} (h : Only l a s) (e : [.regs, .peers].all l.contains = true) : Only l a (State.sendMirrorSet s x1 x2 x3) := by
  refine h.step ?_ e
  clear h e
  unfold State.sendMirrorSet
  try dsimp only
  with_reducible repeat' first | exact Only.refl _ _ | assumption | (intro _; intros; try beta_reduce) | split | apply State.bump_only | apply State.queueFlits_only | decide | apply Only.foldl | fail_if_no_progress (apply Only.mk; rotate_left; (intro c hc; cases c <;> first | exact absurd hc (by decide) | exact trivial | exact rfl))

theorem State.sealLayer_only {x1 x2 x3} (h : Only l a s) (e : [.regs, .store, .com, .peers, .host, .out].all l.contains = true) : Only l a (State.sealLayer s x1 x2 x3) := by
  refine h.step ?_ e
  clear h e
  unfold State.sealLayer
  try dsimp only
  with_reducible repeat' first | exact Only.refl _ _ | assumption | split | apply State.dropCandidates_only | apply State.bump_only | apply State.queueAll_only | apply State.sendMirrorSet_only | decide

theorem State.settleLowered_only  (h : Only l a s) (e : [.regs, .store, .com, .peers, .host, .out].all l.contains = true) : Only l a (State.settleLowered s) := by
  refine h.step ?_ e
  clear h e
  unfold State.settleLowered
  try dsimp only
  with_reducible repeat' first | exact Only.refl _ _ | assumption | (intro _; intros; try beta_reduce) | apply State.sealLayer_only | apply State.onCom_only | decide | apply Only.foldl

theorem State.applyImage_only  (h : Only l a s) (e : [.regs, .store, .com, .engines, .descs, .movers, .data, .solver, .live, .old, .liveBeat, .slot, .place, .peers, .safety, .host, .power, .keeper, .out].all l.contains = true) : Only l a (State.applyImage s) := by
  refine h.step ?_ e
  clear h e
  unfold State.applyImage
  try dsimp only
  with_reducible repeat' first | exact Only.refl _ _ | assumption | split | apply State.announceImage_only | apply State.renewReplacements_only | apply State.dropReruns_only | apply State.switchImage_only | apply State.cancelAllMigrations_only | apply State.restoreMarrow_only | apply State.settleLowered_only | decide

theorem State.migrateEngine_only {x1 x2} (h : Only l a s) (e : [.regs, .engines, .slot, .safety, .host, .out].all l.contains = true) : Only l a (State.migrateEngine s x1 x2) := by
  refine h.step ?_ e
  clear h e
  unfold State.migrateEngine
  try dsimp only
  with_reducible repeat' first | exact Only.refl _ _ | assumption | split | apply State.slotLost_only | apply State.releaseEng_only | apply State.clearShadow_only | apply State.onEngine_only | apply State.switchEng_only | decide

theorem State.applyMigration_only {x1} (h : Only l a s) (e : [.regs, .engines, .slot, .place, .safety, .host, .out].all l.contains = true) : Only l a (State.applyMigration s x1) := by
  refine h.step ?_ e
  clear h e
  unfold State.applyMigration
  try dsimp only
  with_reducible repeat' first | exact Only.refl _ _ | assumption | (intro _; intros; try beta_reduce) | apply State.migrateEngine_only | apply State.raise_only | apply State.bump_only | apply State.noteChanged_only | apply State.onPlace_only | decide | apply Only.foldl

theorem State.applyMove_only {x1} (h : Only l a s) (e : [.place].all l.contains = true) : Only l a (State.applyMove s x1) := by
  refine h.step ?_ e
  clear h e
  unfold State.applyMove
  try dsimp only
  with_reducible repeat' first | exact Only.refl _ _ | assumption | split | apply State.onPlace_only | decide

theorem State.applyMigrations_only  (h : Only l a s) (e : [.regs, .engines, .slot, .place, .safety, .host, .out].all l.contains = true) : Only l a (State.applyMigrations s) := by
  refine h.step ?_ e
  clear h e
  unfold State.applyMigrations
  try dsimp only
  with_reducible repeat' first | exact Only.refl _ _ | assumption | (intro _; intros; try beta_reduce) | apply State.applyMigration_only | apply State.applyMove_only | decide | apply Only.foldl

theorem State.discardDelta_only {x1} (h : Only l a s) (e : [.regs, .host, .out].all l.contains = true) : Only l a (State.discardDelta s x1) := by
  refine h.step ?_ e
  clear h e
  unfold State.discardDelta
  try dsimp only
  with_reducible repeat' first | exact Only.refl _ _ | assumption | apply State.raise_only | apply State.bump_only | decide

theorem State.refuseAt_only {x1 x2} (h : Only l a s) (e : [.store].all l.contains = true) : Only l a (State.refuseAt s x1 x2) := by
  refine h.step ?_ e
  clear h e
  unfold State.refuseAt
  try dsimp only
  with_reducible repeat' first | exact Only.refl _ _ | assumption | split | apply State.onStore_only | decide

theorem State.refuseFull_only {x1} (h : Only l a s) (e : [.regs, .com, .host, .out].all l.contains = true) : Only l a (State.refuseFull s x1) := by
  refine h.step ?_ e
  clear h e
  unfold State.refuseFull
  try dsimp only
  with_reducible repeat' first | exact Only.refl _ _ | assumption | apply State.raise_only | apply State.bump_only | apply State.onCom_only | decide

theorem State.placeFor_only {x1 x2} (h : Only l a s) (e : [.regs, .store, .com, .host, .out].all l.contains = true) : Only l a (State.placeFor s x1 x2).1 := by
  refine h.step ?_ e
  clear h e
  unfold State.placeFor
  try dsimp only
  with_reducible repeat' first | exact Only.refl _ _ | assumption | split | apply State.lookup_only | (apply State.lookup_only'; rotate_left; decide; assumption) | apply State.allocPod_only | (apply State.allocPod_only'; rotate_left; decide; assumption) | decide

theorem State.placeFor_only' {t : State} {x1 x2} {r} (h : Only l a s) (e : [.regs, .store, .com, .host, .out].all l.contains = true) (q : State.placeFor s x1 x2 = (t, r)) : Only l a t := by
  have k := State.placeFor_only h e (x1 := x1) (x2 := x2)
  rw [q] at k
  exact k

theorem State.noteLowering_only {x1 x2 x3} (h : Only l a s) (e : [.safety].all l.contains = true) : Only l a (State.noteLowering s x1 x2 x3) := by
  refine h.step ?_ e
  clear h e
  unfold State.noteLowering
  try dsimp only
  with_reducible repeat' first | exact Only.refl _ _ | assumption | split | apply State.onSafety_only | decide

theorem State.podRefused_only  (h : Only l a s) (e : [.regs, .com, .host, .out].all l.contains = true) : Only l a (State.podRefused s) := by
  refine h.step ?_ e
  clear h e
  unfold State.podRefused
  try dsimp only
  with_reducible repeat' first | exact Only.refl _ _ | assumption | apply State.onCom_only | apply State.raise_only | apply State.bump_only | decide

theorem State.logDelta_only {x1 x2 x3 x4} (h : Only l a s) (e : [.com].all l.contains = true) : Only l a (State.logDelta s x1 x2 x3 x4) := by
  refine h.step ?_ e
  clear h e
  unfold State.logDelta
  try dsimp only
  with_reducible repeat' first | exact Only.refl _ _ | assumption | apply State.onCom_only | decide

theorem State.applyRecord_only {x1 x2} (h : Only l a s) (e : [.regs, .store, .com, .safety, .host, .out].all l.contains = true) : Only l a (State.applyRecord s x1 x2) := by
  refine h.step ?_ e
  clear h e
  unfold State.applyRecord
  try dsimp only
  with_reducible repeat' first | exact Only.refl _ _ | assumption | split | apply State.raise_only | apply State.bump_only | apply State.discardDelta_only | apply State.refuseAt_only | apply State.refuseFull_only | apply State.placeFor_only | (apply State.placeFor_only'; rotate_left; decide; assumption) | apply State.noteLowering_only | apply State.podRefused_only | apply State.logDelta_only | apply State.onStore_only | apply State.modCell_only | decide

theorem State.onSram_only {x1 x2} (h : Only l a s) (e : [.mem].all l.contains = true) : Only l a (State.onSram s x1 x2) := by
  refine h.step ?_ e
  clear h e
  unfold State.onSram
  try dsimp only
  with_reducible repeat' first | exact Only.refl _ _ | assumption | apply State.onMem_only | decide

theorem State.applyRemap_only {x1} (h : Only l a s) (e : [.mem].all l.contains = true) : Only l a (State.applyRemap s x1) := by
  refine h.step ?_ e
  clear h e
  unfold State.applyRemap
  try dsimp only
  with_reducible repeat' first | exact Only.refl _ _ | assumption | split | apply State.onSram_only | decide

theorem State.applyRepair_only {x1} (h : Only l a s) (e : [.mem].all l.contains = true) : Only l a (State.applyRepair s x1) := by
  refine h.step ?_ e
  clear h e
  unfold State.applyRepair
  try dsimp only
  with_reducible repeat' first | exact Only.refl _ _ | assumption | split | apply State.onChannel_only | decide

theorem State.armFrame_only  (h : Only l a s) (e : [.regs, .engines, .slot, .safety].all l.contains = true) : Only l a (State.armFrame s) := by
  refine h.step ?_ e
  clear h e
  unfold State.armFrame
  try dsimp only
  with_reducible repeat' first | exact Only.refl _ _ | assumption | (intro _; intros; try beta_reduce) | split | apply State.assignShadow_only | apply State.onSlot_only | decide | apply Only.foldl | apply Only.foldlP

theorem State.assignRechecks_only  (h : Only l a s) (e : [.regs, .engines, .safety].all l.contains = true) : Only l a (State.assignRechecks s) := by
  refine h.step ?_ e
  clear h e
  unfold State.assignRechecks
  try dsimp only
  with_reducible repeat' first | exact Only.refl _ _ | assumption | (intro _; intros; try beta_reduce) | split | apply State.onSafety_only | apply State.assignShadow_only | decide | apply Only.foldl

theorem State.onPort_only {x1 x2} (h : Only l a s) (e : [.ports].all l.contains = true) : Only l a (State.onPort s x1 x2) := by
  refine h.step ?_ e
  clear h e
  unfold State.onPort
  try dsimp only
  with_reducible repeat' first | exact Only.refl _ _ | assumption | decide | fail_if_no_progress (apply Only.mk; rotate_left; (intro c hc; cases c <;> first | exact absurd hc (by decide) | exact trivial | exact rfl))

theorem State.egress_only {x1 x2} (h : Only l a s) (e : [.regs, .ports].all l.contains = true) : Only l a (State.egress s x1 x2) := by
  refine h.step ?_ e
  clear h e
  unfold State.egress
  try dsimp only
  with_reducible repeat' first | exact Only.refl _ _ | assumption | split | apply State.bump_only | apply State.onPort_only | decide

theorem State.bridge_only {x1 x2 x3} (h : Only l a s) (e : [.regs, .ports].all l.contains = true) : Only l a (State.bridge s x1 x2 x3).1 := by
  refine h.step ?_ e
  clear h e
  unfold State.bridge
  try dsimp only
  with_reducible repeat' first | exact Only.refl _ _ | assumption | (intro _; intros; try beta_reduce) | split | apply State.egress_only | apply State.bump_only | decide | apply Only.foldl | apply Only.foldlP

theorem State.bridge_only' {t : State} {x1 x2 x3} {r} (h : Only l a s) (e : [.regs, .ports].all l.contains = true) (q : State.bridge s x1 x2 x3 = (t, r)) : Only l a t := by
  have k := State.bridge_only h e (x1 := x1) (x2 := x2) (x3 := x3)
  rw [q] at k
  exact k

theorem State.badFrame_only {x1 x2 x3 x4} (h : Only l a s) (e : [.regs, .ports].all l.contains = true) : Only l a (State.badFrame s x1 x2 x3 x4) := by
  refine h.step ?_ e
  clear h e
  unfold State.badFrame
  try dsimp only
  with_reducible repeat' first | exact Only.refl _ _ | assumption | split | apply State.bridge_only | (apply State.bridge_only'; rotate_left; decide; assumption) | apply State.bump_only | decide

theorem State.beginItem_only {x1 x2} (h : Only l a s) (e : [.host].all l.contains = true) : Only l a (State.beginItem s x1 x2) := by
  refine h.step ?_ e
  clear h e
  unfold State.beginItem
  try dsimp only
  with_reducible repeat' first | exact Only.refl _ _ | assumption | split | apply State.onFn_only | decide

theorem State.migrationShadow_only {x1 x2} (h : Only l a s) (e : [.regs, .engines, .safety].all l.contains = true) : Only l a (State.migrationShadow s x1 x2) := by
  refine h.step ?_ e
  clear h e
  unfold State.migrationShadow
  try dsimp only
  with_reducible repeat' first | exact Only.refl _ _ | assumption | split | apply State.onEngine_only | apply State.assignShadow_only | decide

theorem State.beginMigration_only {x1} (h : Only l a s) (e : [.regs, .engines, .place, .safety].all l.contains = true) : Only l a (State.beginMigration s x1) := by
  refine h.step ?_ e
  clear h e
  unfold State.beginMigration
  try dsimp only
  with_reducible repeat' first | exact Only.refl _ _ | assumption | (intro _; intros; try beta_reduce) | apply State.onPlace_only | apply State.migrationShadow_only | decide | apply Only.foldl

theorem State.onHost_only {x1} (h : Only l a s) (e : [.host].all l.contains = true) : Only l a (State.onHost s x1) := by
  refine h.step ?_ e
  clear h e
  unfold State.onHost
  try dsimp only
  with_reducible repeat' first | exact Only.refl _ _ | assumption | decide | fail_if_no_progress (apply Only.mk; rotate_left; (intro c hc; cases c <;> first | exact absurd hc (by decide) | exact trivial | exact rfl))

theorem State.beginReport_only  (h : Only l a s) (e : [.host, .keeper].all l.contains = true) : Only l a (State.beginReport s) := by
  refine h.step ?_ e
  clear h e
  unfold State.beginReport
  try dsimp only
  with_reducible repeat' first | exact Only.refl _ _ | assumption | split | apply State.onHost_only | apply State.onKeeper_only | decide

theorem State.onMarrow_only {x1} (h : Only l a s) (e : [.keeper].all l.contains = true) : Only l a (State.onMarrow s x1) := by
  refine h.step ?_ e
  clear h e
  unfold State.onMarrow
  try dsimp only
  with_reducible repeat' first | exact Only.refl _ _ | assumption | apply State.onKeeper_only | decide

theorem State.beginSave_only  (h : Only l a s) (e : [.regs, .com, .engines, .slot, .safety, .host, .boot, .power, .keeper, .out].all l.contains = true) : Only l a (State.beginSave s) := by
  refine h.step ?_ e
  clear h e
  unfold State.beginSave
  try dsimp only
  with_reducible repeat' first | exact Only.refl _ _ | assumption | split | apply State.stopHeartbeat_only | apply State.discardSlot_only | apply State.onMarrow_only | apply State.onPower_only | apply State.close_only | decide | fail_if_no_progress (apply Only.mk; rotate_left; (intro c hc; cases c <;> first | exact absurd hc (by decide) | exact trivial | exact rfl))

end Sys2Proof.Machine
end

