-- ==== Sys2Proof/Laws/Only2.lean ====
section
/-! SUPPORT. What each operation and command leaves alone (part 2). -/

namespace Sys2Proof.Machine

open Sys2Proof

set_option linter.unusedTactic false
set_option linter.unreachableTactic false
set_option linter.unusedSimpArgs false
set_option linter.unusedVariables false

variable {l : List Component} {a s : State}

theorem State.newEpoch_only  (h : Only l a s) (e : [.keeper].all l.contains = true) : Only l a (State.newEpoch s).1 := by
  refine h.step ?_ e
  clear h e
  unfold State.newEpoch
  try dsimp only
  with_reducible repeat' first | exact Only.refl _ _ | assumption | decide | fail_if_no_progress (apply Only.mk; rotate_left; (intro c hc; cases c <;> first | exact absurd hc (by decide) | exact trivial | exact rfl))

theorem State.newEpoch_only' {t : State} {r} (h : Only l a s) (e : [.keeper].all l.contains = true) (q : State.newEpoch s = (t, r)) : Only l a t := by
  have k := State.newEpoch_only h e
  rw [q] at k
  exact k

theorem State.startHeartbeat_only  (h : Only l a s) (e : [.safety].all l.contains = true) : Only l a (State.startHeartbeat s) := by
  refine h.step ?_ e
  clear h e
  unfold State.startHeartbeat
  try dsimp only
  with_reducible repeat' first | exact Only.refl _ _ | assumption | split | apply State.onSafety_only | decide

theorem State.enterService_only  (h : Only l a s) (e : [.regs, .tl, .com, .peers, .safety, .host, .boot, .keeper, .out].all l.contains = true) : Only l a (State.enterService s) := by
  refine h.step ?_ e
  clear h e
  unfold State.enterService
  try dsimp only
  with_reducible repeat' first | exact Only.refl _ _ | assumption | split | apply State.newEpoch_only | (apply State.newEpoch_only'; rotate_left; decide; assumption) | apply State.onTl_only | apply State.onBoot_only | apply State.onSafety_only | apply State.onPeers_only | apply State.onCom_only | apply State.onMarrow_only | apply State.startHeartbeat_only | apply State.raise_only | decide

theorem State.beginStep11_only  (h : Only l a s) (e : [.regs, .tl, .com, .peers, .safety, .host, .boot, .keeper, .out].all l.contains = true) : Only l a (State.beginStep11 s) := by
  refine h.step ?_ e
  clear h e
  unfold State.beginStep11
  try dsimp only
  with_reducible repeat' first | exact Only.refl _ _ | assumption | split | apply State.stepTo_only | apply State.enterService_only | decide

theorem State.beginSweep_only  (h : Only l a s) (e : [.power, .keeper].all l.contains = true) : Only l a (State.beginSweep s) := by
  refine h.step ?_ e
  clear h e
  unfold State.beginSweep
  try dsimp only
  with_reducible repeat' first | exact Only.refl _ _ | assumption | apply State.onPower_only | apply State.onKeeper_only | decide

theorem State.declare_only {x1 x2 x3 x4 x5} (h : Only l a s) (e : [.regs, .safety, .host, .keeper, .out].all l.contains = true) : Only l a (State.declare s x1 x2 x3 x4 x5) := by
  refine h.step ?_ e
  clear h e
  unfold State.declare
  try dsimp only
  with_reducible repeat' first | exact Only.refl _ _ | assumption | split | apply State.raise_only | apply State.bump_only | apply State.logRec_only | apply State.markRetired_only | decide

theorem State.bootDram_only {x1} (h : Only l a s) (e : [.regs, .data, .mem, .safety, .host, .boot, .keeper, .out].all l.contains = true) : Only l a (State.bootDram s x1) := by
  refine h.step ?_ e
  clear h e
  unfold State.bootDram
  try dsimp only
  with_reducible repeat' first | exact Only.refl _ _ | assumption | (intro _; intros; try beta_reduce) | split | apply State.onChannel_only | apply State.onMem_only | apply State.raise_only | apply State.declare_only | apply State.stepTo_only | decide | apply Only.foldl | apply Only.foldlP | fail_if_no_progress (apply Only.mk; rotate_left; (intro c hc; cases c <;> first | exact absurd hc (by decide) | exact trivial | exact rfl))

theorem State.bootFail_only {x1} (h : Only l a s) (e : [.regs, .host, .boot, .out].all l.contains = true) : Only l a (State.bootFail s x1) := by
  refine h.step ?_ e
  clear h e
  unfold State.bootFail
  try dsimp only
  with_reducible repeat' first | exact Only.refl _ _ | assumption | split | apply State.raise_only | apply State.onBoot_only | decide

theorem State.runFirmware_only {x1 x2} (h : Only l a s) (e : [.regs, .boot].all l.contains = true) : Only l a (State.runFirmware s x1 x2) := by
  refine h.step ?_ e
  clear h e
  unfold State.runFirmware
  try dsimp only
  with_reducible repeat' first | exact Only.refl _ _ | assumption | apply State.onBoot_only | apply State.setWords_only | decide

theorem State.bootFirmware_only {x1 x2} (h : Only l a s) (e : [.regs, .safety, .host, .boot, .out].all l.contains = true) : Only l a (State.bootFirmware s x1 x2) := by
  refine h.step ?_ e
  clear h e
  unfold State.bootFirmware
  try dsimp only
  with_reducible repeat' first | exact Only.refl _ _ | assumption | split | apply State.stepTo_only | apply State.runFirmware_only | apply State.logRec_only | apply State.raise_only | apply State.bootFail_only | decide

theorem State.bootFuses_only {x1} (h : Only l a s) (e : [.regs, .mem, .host, .boot, .out].all l.contains = true) : Only l a (State.bootFuses s x1) := by
  refine h.step ?_ e
  clear h e
  unfold State.bootFuses
  try dsimp only
  with_reducible repeat' first | exact Only.refl _ _ | assumption | (intro _; intros; try beta_reduce) | split | apply State.rset_only | apply State.stepTo_only | apply State.bootFail_only | apply State.applyRepair_only | apply State.onBoot_only | decide | apply Only.foldl

theorem State.onRoot_only {x1 x2} (h : Only l a s) (e : [.roots].all l.contains = true) : Only l a (State.onRoot s x1 x2) := by
  refine h.step ?_ e
  clear h e
  unfold State.onRoot
  try dsimp only
  with_reducible repeat' first | exact Only.refl _ _ | assumption | decide | fail_if_no_progress (apply Only.mk; rotate_left; (intro c hc; cases c <;> first | exact absurd hc (by decide) | exact trivial | exact rfl))

theorem State.readMarrow_only {x1 x2} (h : Only l a s) (e : [.regs, .power].all l.contains = true) : Only l a (State.readMarrow s x1 x2) := by
  refine h.step ?_ e
  clear h e
  unfold State.readMarrow
  try dsimp only
  with_reducible repeat' first | exact Only.refl _ _ | assumption | split | apply State.onPower_only | apply State.rset_only | decide

theorem State.bootKeeper_only {x1 x2 x3} (h : Only l a s) (e : [.regs, .roots, .ports, .mem, .safety, .host, .boot, .power, .keeper, .out].all l.contains = true) : Only l a (State.bootKeeper s x1 x2 x3) := by
  refine h.step ?_ e
  clear h e
  unfold State.bootKeeper
  try dsimp only
  with_reducible repeat' first | exact Only.refl _ _ | assumption | (intro _; intros; try beta_reduce) | split | apply State.stepTo_only | apply State.bootFail_only | apply State.onKeeper_only | apply State.applyClear_only | apply State.applyRepair_only | apply State.applyRemap_only | apply State.onMem_only | apply State.onPort_only | apply State.onRoot_only | apply State.readMarrow_only | decide | apply Only.foldl | apply Only.foldlP

theorem State.bootRoots_only {x1} (h : Only l a s) (e : [.regs, .roots, .com, .engines, .slot, .safety, .host, .boot, .out].all l.contains = true) : Only l a (State.bootRoots s x1) := by
  refine h.step ?_ e
  clear h e
  unfold State.bootRoots
  try dsimp only
  with_reducible repeat' first | exact Only.refl _ _ | assumption | split | apply State.stepTo_only | apply State.onRoot_only | apply State.enterHold_only | apply State.bootFail_only | decide

theorem State.onIng_only {x1} (h : Only l a s) (e : [.ing].all l.contains = true) : Only l a (State.onIng s x1) := by
  refine h.step ?_ e
  clear h e
  unfold State.onIng
  try dsimp only
  with_reducible repeat' first | exact Only.refl _ _ | assumption | decide | fail_if_no_progress (apply Only.mk; rotate_left; (intro c hc; cases c <;> first | exact absurd hc (by decide) | exact trivial | exact rfl))

theorem State.budgetBeat_only  (h : Only l a s) (e : [.regs, .ing].all l.contains = true) : Only l a (State.budgetBeat s) := by
  refine h.step ?_ e
  clear h e
  unfold State.budgetBeat
  try dsimp only
  with_reducible repeat' first | exact Only.refl _ _ | assumption | apply State.onIng_only | apply State.rset_only | decide

theorem State.cancelSlotCmd_only  (h : Only l a s) (e : [.regs, .engines, .slot, .host, .out].all l.contains = true) : Only l a (State.cancelSlotCmd s) := by
  refine h.step ?_ e
  clear h e
  unfold State.cancelSlotCmd
  try dsimp only
  with_reducible repeat' first | exact Only.refl _ _ | assumption | apply State.discardSlot_only | decide

theorem State.challengeDebug_only {x1} (h : Only l a s) (e : [.regs, .boot].all l.contains = true) : Only l a (State.challengeDebug s x1) := by
  refine h.step ?_ e
  clear h e
  unfold State.challengeDebug
  try dsimp only
  with_reducible repeat' first | exact Only.refl _ _ | assumption | split | apply State.onBoot_only | apply State.setWords_only | decide

theorem State.signalTokens_only {x1 x2 x3 x4} (h : Only l a s) (e : [.engines].all l.contains = true) : Only l a (State.signalTokens s x1 x2 x3 x4) := by
  refine h.step ?_ e
  clear h e
  unfold State.signalTokens
  try dsimp only
  with_reducible repeat' first | exact Only.refl _ _ | assumption | split | decide | fail_if_no_progress (apply Only.mk; rotate_left; (intro c hc; cases c <;> first | exact absurd hc (by decide) | exact trivial | exact rfl))

theorem State.chanSignal_only {x1 x2} (h : Only l a s) (e : [.engines].all l.contains = true) : Only l a (State.chanSignal s x1 x2) := by
  refine h.step ?_ e
  clear h e
  unfold State.chanSignal
  try dsimp only
  with_reducible repeat' first | exact Only.refl _ _ | assumption | split | apply State.signalTokens_only | decide

theorem State.checkRoots_only  (h : Only l a s) (e : [.regs, .com, .engines, .slot, .safety, .host, .out].all l.contains = true) : Only l a (State.checkRoots s) := by
  refine h.step ?_ e
  clear h e
  unfold State.checkRoots
  try dsimp only
  with_reducible repeat' first | exact Only.refl _ _ | assumption | split | apply State.enterHold_only | decide

theorem State.retarget_only {x1} (h : Only l a s) (e : [.regs, .engines, .place, .safety, .host, .out].all l.contains = true) : Only l a (State.retarget s x1) := by
  refine h.step ?_ e
  clear h e
  unfold State.retarget
  try dsimp only
  with_reducible repeat' first | exact Only.refl _ _ | assumption | (intro _; intros; try beta_reduce) | split | apply State.pickTarget_only | (apply State.pickTarget_only'; rotate_left; decide; assumption) | apply State.assignShadow_only | decide | apply Only.foldl | fail_if_no_progress (apply Only.mk; rotate_left; (intro c hc; cases c <;> first | exact absurd hc (by decide) | exact trivial | exact rfl))

theorem State.engPermanent_only {x1 x2 x3} (h : Only l a s) (e : [.regs, .engines, .slot, .place, .safety, .host, .keeper, .out].all l.contains = true) : Only l a (State.engPermanent s x1 x2 x3) := by
  refine h.step ?_ e
  clear h e
  unfold State.engPermanent
  try dsimp only
  with_reducible repeat' first | exact Only.refl _ _ | assumption | split | apply State.cancelMigrations_only | apply State.onEngine_only | apply State.retireEng_only | apply State.replace_only | (apply State.replace_only'; rotate_left; decide; assumption) | apply State.retarget_only | apply State.declare_only | decide

theorem State.rerun_only {x1 x2} (h : Only l a s) (e : [.regs, .engines, .safety].all l.contains = true) : Only l a (State.rerun s x1 x2) := by
  refine h.step ?_ e
  clear h e
  unfold State.rerun
  try dsimp only
  with_reducible repeat' first | exact Only.refl _ _ | assumption | split | apply State.assignShadow_only | decide

theorem State.engEvent_only {x1 x2} (h : Only l a s) (e : [.regs, .engines, .slot, .place, .safety, .host, .keeper, .out].all l.contains = true) : Only l a (State.engEvent s x1 x2) := by
  refine h.step ?_ e
  clear h e
  unfold State.engEvent
  try dsimp only
  with_reducible repeat' first | exact Only.refl _ _ | assumption | split | apply State.onEngine_only | apply State.logRec_only | apply State.raiseAt_only | apply State.cancelMigrations_only | apply State.engPermanent_only | apply State.bump_only | apply State.rerun_only | decide

theorem State.logChecker_only {x1 x2 x3 x4} (h : Only l a s) (e : [.regs, .safety].all l.contains = true) : Only l a (State.logChecker s x1 x2 x3 x4) := by
  refine h.step ?_ e
  clear h e
  unfold State.logChecker
  try dsimp only
  with_reducible repeat' first | exact Only.refl _ _ | assumption | apply State.logRec_only | decide

theorem State.notice_only {x1 x2 x3} (h : Only l a s) (e : [.com].all l.contains = true) : Only l a (State.notice s x1 x2 x3) := by
  refine h.step ?_ e
  clear h e
  unfold State.notice
  try dsimp only
  with_reducible repeat' first | exact Only.refl _ _ | assumption | split | apply State.onCom_only | decide

theorem State.releaseDecl_only {x1} (h : Only l a s) (e : [.com, .safety].all l.contains = true) : Only l a (State.releaseDecl s x1) := by
  refine h.step ?_ e
  clear h e
  unfold State.releaseDecl
  try dsimp only
  with_reducible repeat' first | exact Only.refl _ _ | assumption | split | apply State.onSafety_only | apply State.notice_only | decide

theorem State.checkerRetire_only {x1 x2 x3 x4} (h : Only l a s) (e : [.regs, .com, .engines, .slot, .place, .safety, .host, .keeper, .out].all l.contains = true) : Only l a (State.checkerRetire s x1 x2 x3 x4) := by
  refine h.step ?_ e
  clear h e
  unfold State.checkerRetire
  try dsimp only
  with_reducible repeat' first | exact Only.refl _ _ | assumption | (intro _; intros; try beta_reduce) | split | apply State.engPermanent_only | apply State.engEvent_only | apply State.logChecker_only | apply State.raise_only | apply State.bump_only | apply State.releaseDecl_only | apply State.onSafety_only | decide | apply Only.foldl

theorem State.cleanDecls_only {x1} (h : Only l a s) (e : [.com, .safety].all l.contains = true) : Only l a (State.cleanDecls s x1) := by
  refine h.step ?_ e
  clear h e
  unfold State.cleanDecls
  try dsimp only
  with_reducible repeat' first | exact Only.refl _ _ | assumption | (intro _; intros; try beta_reduce) | split | apply State.releaseDecl_only | apply State.onSafety_only | apply State.notice_only | decide | apply Only.foldl

theorem State.clearCells_only {x1 x2 x3 x4 x5} (h : Only l a s) (e : [.regs, .store, .com, .host, .out].all l.contains = true) : Only l a (State.clearCells s x1 x2 x3 x4 x5) := by
  refine h.step ?_ e
  clear h e
  unfold State.clearCells
  try dsimp only
  with_reducible repeat' first | exact Only.refl _ _ | assumption | (intro _; intros; try beta_reduce) | split | apply State.logDelta_only | apply State.modCell_only | apply State.refuseAt_only | apply State.refuseFull_only | decide | apply Only.foldl

theorem State.freeCapture_only {x1} (h : Only l a s) (e : [.regs].all l.contains = true) : Only l a (State.freeCapture s x1) := by
  refine h.step ?_ e
  clear h e
  unfold State.freeCapture
  try dsimp only
  with_reducible repeat' first | exact Only.refl _ _ | assumption | apply State.rput_only | decide

theorem State.clearedEvents_only {x1 x2 x3} (h : Only l a s) (e : [.regs].all l.contains = true) : Only l a (State.clearedEvents s x1 x2 x3) := by
  refine h.step ?_ e
  clear h e
  unfold State.clearedEvents
  try dsimp only
  with_reducible repeat' first | exact Only.refl _ _ | assumption | (intro _; intros; try beta_reduce) | split | apply State.rset_only | apply State.freeCapture_only | decide | apply Only.foldl

theorem State.closeEngines_only {x1} (h : Only l a s) (e : [.regs, .engines, .place].all l.contains = true) : Only l a (State.closeEngines s x1) := by
  refine h.step ?_ e
  clear h e
  unfold State.closeEngines
  try dsimp only
  with_reducible repeat' first | exact Only.refl _ _ | assumption | apply State.bump_only | apply State.onPlace_only | decide | fail_if_no_progress (apply Only.mk; rotate_left; (intro c hc; cases c <;> first | exact absurd hc (by decide) | exact trivial | exact rfl))

theorem State.unhold_only {x1} (h : Only l a s) (e : [.engines, .slot].all l.contains = true) : Only l a (State.unhold s x1) := by
  refine h.step ?_ e
  clear h e
  unfold State.unhold
  try dsimp only
  with_reducible repeat' first | exact Only.refl _ _ | assumption | split | apply State.clearShadow_only | apply State.onSlot_only | decide

theorem State.findTarget_only {x1} (h : Only l a s) (e : [.regs, .engines, .slot, .place, .safety, .host, .out].all l.contains = true) : Only l a (State.findTarget s x1).1 := by
  refine h.step ?_ e
  clear h e
  unfold State.findTarget
  try dsimp only
  with_reducible repeat' first | exact Only.refl _ _ | assumption | split | apply State.pickTarget_only | (apply State.pickTarget_only'; rotate_left; decide; assumption) | apply State.assignShadow_only | apply State.unhold_only | decide

theorem State.findTarget_only' {t : State} {x1} {r} (h : Only l a s) (e : [.regs, .engines, .slot, .place, .safety, .host, .out].all l.contains = true) (q : State.findTarget s x1 = (t, r)) : Only l a t := by
  have k := State.findTarget_only h e (x1 := x1)
  rw [q] at k
  exact k

theorem State.reviewReplacements_only  (h : Only l a s) (e : [.regs, .engines, .slot, .place, .safety, .host, .out].all l.contains = true) : Only l a (State.reviewReplacements s) := by
  refine h.step ?_ e
  clear h e
  unfold State.reviewReplacements
  try dsimp only
  with_reducible repeat' first | exact Only.refl _ _ | assumption | (intro _; intros; try beta_reduce) | split | apply State.onPlace_only | apply State.findTarget_only | (apply State.findTarget_only'; rotate_left; decide; assumption) | decide | apply Only.foldl

theorem State.reviewMigrations_only  (h : Only l a s) (e : [.regs, .engines, .place, .host, .out].all l.contains = true) : Only l a (State.reviewMigrations s) := by
  refine h.step ?_ e
  clear h e
  unfold State.reviewMigrations
  try dsimp only
  with_reducible repeat' first | exact Only.refl _ _ | assumption | (intro _; intros; try beta_reduce) | split | apply State.onPlace_only | apply State.cancelMigrations_only | decide | apply Only.foldl

theorem State.unspill_only  (h : Only l a s) (e : [.live].all l.contains = true) : Only l a (State.unspill s) := by
  refine h.step ?_ e
  clear h e
  unfold State.unspill
  try dsimp only
  with_reducible repeat' first | exact Only.refl _ _ | assumption | split | decide | fail_if_no_progress (apply Only.mk; rotate_left; (intro c hc; cases c <;> first | exact absurd hc (by decide) | exact trivial | exact rfl))

theorem State.logSuppressed_only  (h : Only l a s) (e : [.regs, .safety].all l.contains = true) : Only l a (State.logSuppressed s) := by
  refine h.step ?_ e
  clear h e
  unfold State.logSuppressed
  try dsimp only
  with_reducible repeat' first | exact Only.refl _ _ | assumption | split | apply State.onSafety_only | apply State.logRec_only | decide

theorem State.closeFrame_only  (h : Only l a s) (e : [.regs, .tl, .engines, .live, .slot, .place, .safety, .host, .out].all l.contains = true) : Only l a (State.closeFrame s) := by
  refine h.step ?_ e
  clear h e
  unfold State.closeFrame
  try dsimp only
  with_reducible repeat' first | exact Only.refl _ _ | assumption | apply State.onTl_only | apply State.reviewReplacements_only | apply State.reviewMigrations_only | apply State.unspill_only | apply State.closeEngines_only | apply State.logSuppressed_only | decide

theorem State.notCompared_only  (h : Only l a s) (e : [.safety].all l.contains = true) : Only l a (State.notCompared s) := by
  refine h.step ?_ e
  clear h e
  unfold State.notCompared
  try dsimp only
  with_reducible repeat' first | exact Only.refl _ _ | assumption | apply State.onSafety_only | decide

theorem State.closeHist_only {x1 x2} (h : Only l a s) (e : [.regs, .store, .safety, .host, .out].all l.contains = true) : Only l a (State.closeHist s x1 x2) := by
  refine h.step ?_ e
  clear h e
  unfold State.closeHist
  try dsimp only
  with_reducible repeat' first | exact Only.refl _ _ | assumption | split | apply State.onSafety_only | apply State.bump_only | apply State.onStore_only | apply State.notCompared_only | apply State.raise_only | decide

theorem State.onPtp_only {x1} (h : Only l a s) (e : [.tl].all l.contains = true) : Only l a (State.onPtp s x1) := by
  refine h.step ?_ e
  clear h e
  unfold State.onPtp
  try dsimp only
  with_reducible repeat' first | exact Only.refl _ _ | assumption | apply State.onTl_only | decide

theorem State.ptpAnnounce_only {x1 x2} (h : Only l a s) (e : [.tl].all l.contains = true) : Only l a (State.ptpAnnounce s x1 x2) := by
  refine h.step ?_ e
  clear h e
  unfold State.ptpAnnounce
  try dsimp only
  with_reducible repeat' first | exact Only.refl _ _ | assumption | split | apply State.onPtp_only | decide

theorem State.formMeasurement_only {x1} (h : Only l a s) (e : [.tl].all l.contains = true) : Only l a (State.formMeasurement s x1) := by
  refine h.step ?_ e
  clear h e
  unfold State.formMeasurement
  try dsimp only
  with_reducible repeat' first | exact Only.refl _ _ | assumption | apply State.onTl_only | decide

theorem State.ptpMeasurement_only {x1} (h : Only l a s) (e : [.tl].all l.contains = true) : Only l a (State.ptpMeasurement s x1) := by
  refine h.step ?_ e
  clear h e
  unfold State.ptpMeasurement
  try dsimp only
  with_reducible repeat' first | exact Only.refl _ _ | assumption | split | apply State.formMeasurement_only | decide

theorem State.ptpOffset_only {x1 x2 x3} (h : Only l a s) (e : [.tl].all l.contains = true) : Only l a (State.ptpOffset s x1 x2 x3) := by
  refine h.step ?_ e
  clear h e
  unfold State.ptpOffset
  try dsimp only
  with_reducible repeat' first | exact Only.refl _ _ | assumption | split | apply State.ptpMeasurement_only | apply State.onPtp_only | decide

theorem State.ptpReceive_only {x1 x2 x3 x4} (h : Only l a s) (e : [.tl].all l.contains = true) : Only l a (State.ptpReceive s x1 x2 x3 x4) := by
  refine h.step ?_ e
  clear h e
  unfold State.ptpReceive
  try dsimp only
  with_reducible repeat' first | exact Only.refl _ _ | assumption | split | apply State.ptpAnnounce_only | apply State.onPtp_only | apply State.ptpOffset_only | decide

theorem State.watermark_only {x1} (h : Only l a s) (e : [.regs, .ing, .host, .out].all l.contains = true) : Only l a (State.watermark s x1) := by
  refine h.step ?_ e
  clear h e
  unfold State.watermark
  try dsimp only
  with_reducible repeat' first | exact Only.refl _ _ | assumption | split | apply State.onIng_only | apply State.raise_only | apply State.rset_only | decide

theorem State.enqueue_only {x1 x2 x3 x4 x5 x6} (h : Only l a s) (e : [.regs, .ing, .host, .out].all l.contains = true) : Only l a (State.enqueue s x1 x2 x3 x4 x5 x6) := by
  refine h.step ?_ e
  clear h e
  unfold State.enqueue
  try dsimp only
  with_reducible repeat' first | exact Only.refl _ _ | assumption | split | apply State.raise_only | apply State.bump_only | apply State.watermark_only | apply State.onIng_only | decide

theorem State.consume_only {x1 x2 x3 x4} (h : Only l a s) (e : [.regs, .tl, .ports, .ing, .host, .out].all l.contains = true) : Only l a (State.consume s x1 x2 x3 x4) := by
  refine h.step ?_ e
  clear h e
  unfold State.consume
  try dsimp only
  with_reducible repeat' first | exact Only.refl _ _ | assumption | split | apply State.ptpReceive_only | apply State.egress_only | apply State.enqueue_only | apply State.bump_only | decide

theorem State.convert_only {x1 x2 x3 x4 x5} (h : Only l a s) (e : [.regs].all l.contains = true) : Only l a (State.convert s x1 x2 x3 x4 x5).1 := by
  refine h.step ?_ e
  clear h e
  unfold State.convert
  try dsimp only
  with_reducible repeat' first | exact Only.refl _ _ | assumption | split | apply State.bump_only | decide

theorem State.convert_only' {t : State} {x1 x2 x3 x4 x5} {r} (h : Only l a s) (e : [.regs].all l.contains = true) (q : State.convert s x1 x2 x3 x4 x5 = (t, r)) : Only l a t := by
  have k := State.convert_only h e (x1 := x1) (x2 := x2) (x3 := x3) (x4 := x4) (x5 := x5)
  rw [q] at k
  exact k

theorem State.copyFrame_only  (h : Only l a s) (e : [.mem].all l.contains = true) : Only l a (State.copyFrame s) := by
  refine h.step ?_ e
  clear h e
  unfold State.copyFrame
  try dsimp only
  with_reducible repeat' first | exact Only.refl _ _ | assumption | split | apply State.onMem_only | decide

theorem State.mergeStop_only  (h : Only l a s) (e : [.store].all l.contains = true) : Only l a (State.mergeStop s) := by
  refine h.step ?_ e
  clear h e
  unfold State.mergeStop
  try dsimp only
  with_reducible repeat' first | exact Only.refl _ _ | assumption | split | apply State.onStore_only | decide

theorem State.freePod_only {x1} (h : Only l a s) (e : [.store, .peers].all l.contains = true) : Only l a (State.freePod s x1) := by
  refine h.step ?_ e
  clear h e
  unfold State.freePod
  try dsimp only
  with_reducible repeat' first | exact Only.refl _ _ | assumption | split | apply State.onStore_only | apply State.mergeStop_only | decide | fail_if_no_progress (apply Only.mk; rotate_left; (intro c hc; cases c <;> first | exact absurd hc (by decide) | exact trivial | exact rfl))

theorem State.poisonWhere_only {x1} (h : Only l a s) (e : [.regs, .store, .data, .peers].all l.contains = true) : Only l a (State.poisonWhere s x1) := by
  refine h.step ?_ e
  clear h e
  unfold State.poisonWhere
  try dsimp only
  with_reducible repeat' first | exact Only.refl _ _ | assumption | (intro _; intros; try beta_reduce) | split | apply State.bump_only | apply State.freePod_only | apply State.onStore_only | decide | apply Only.foldl | apply Only.foldlP | fail_if_no_progress (apply Only.mk; rotate_left; (intro c hc; cases c <;> first | exact absurd hc (by decide) | exact trivial | exact rfl))

theorem State.spareChannel_only {x1 x2} (h : Only l a s) (e : [.regs, .com, .engines, .slot, .mem, .safety, .host, .out].all l.contains = true) : Only l a (State.spareChannel s x1 x2) := by
  refine h.step ?_ e
  clear h e
  unfold State.spareChannel
  try dsimp only
  with_reducible repeat' first | exact Only.refl _ _ | assumption | split | apply State.onChannel_only | apply State.onMem_only | apply State.enterHold_only | apply State.raise_only | decide

theorem State.retireChannel_only {x1 x2} (h : Only l a s) (e : [.regs, .store, .com, .engines, .data, .slot, .place, .mem, .peers, .safety, .host, .keeper, .out].all l.contains = true) : Only l a (State.retireChannel s x1 x2) := by
  refine h.step ?_ e
  clear h e
  unfold State.retireChannel
  try dsimp only
  with_reducible repeat' first | exact Only.refl _ _ | assumption | (intro _; intros; try beta_reduce) | split | apply State.onMem_only | apply State.raise_only | apply State.onChannel_only | apply State.poisonWhere_only | apply State.declare_only | apply State.spareChannel_only | decide | apply Only.foldl | fail_if_no_progress (apply Only.mk; rotate_left; (intro c hc; cases c <;> first | exact absurd hc (by decide) | exact trivial | exact rfl))

theorem State.countSymbols_only {x1 x2} (h : Only l a s) (e : [.regs, .store, .com, .engines, .data, .slot, .place, .mem, .peers, .safety, .host, .keeper, .out].all l.contains = true) : Only l a (State.countSymbols s x1 x2) := by
  refine h.step ?_ e
  clear h e
  unfold State.countSymbols
  try dsimp only
  with_reducible repeat' first | exact Only.refl _ _ | assumption | split | apply State.onChannel_only | apply State.logRec_only | apply State.retireChannel_only | decide

theorem State.eccCapture_only {x1 x2 x3 x4 x5 x6} (h : Only l a s) (e : [.regs].all l.contains = true) : Only l a (State.eccCapture s x1 x2 x3 x4 x5 x6) := by
  refine h.step ?_ e
  clear h e
  unfold State.eccCapture
  try dsimp only
  with_reducible repeat' first | exact Only.refl _ _ | assumption | split | apply State.setPair_only | apply State.rset_only | decide

theorem State.requestRepair_only {x1 x2} (h : Only l a s) (e : [.mem].all l.contains = true) : Only l a (State.requestRepair s x1 x2) := by
  refine h.step ?_ e
  clear h e
  unfold State.requestRepair
  try dsimp only
  with_reducible repeat' first | exact Only.refl _ _ | assumption | split | apply State.onChannel_only | decide

theorem State.corrected_only {x1 x2 x3 x4} (h : Only l a s) (e : [.regs, .store, .com, .engines, .data, .slot, .place, .mem, .peers, .safety, .host, .keeper, .out].all l.contains = true) : Only l a (State.corrected s x1 x2 x3 x4) := by
  refine h.step ?_ e
  clear h e
  unfold State.corrected
  try dsimp only
  with_reducible repeat' first | exact Only.refl _ _ | assumption | split | apply State.raise_only | apply State.countSymbols_only | apply State.eccCapture_only | apply State.bump_only | apply State.requestRepair_only | decide

theorem State.descRefused_only {x1 x2 x3} (h : Only l a s) (e : [.regs, .host, .out].all l.contains = true) : Only l a (State.descRefused s x1 x2 x3) := by
  refine h.step ?_ e
  clear h e
  unfold State.descRefused
  try dsimp only
  with_reducible repeat' first | exact Only.refl _ _ | assumption | split | apply State.raise_only | apply State.bump_only | apply State.rset_only | decide

theorem State.createDesc_only {x1 x2 x3} (h : Only l a s) (e : [.regs, .descs, .host, .hostMem, .out].all l.contains = true) : Only l a (State.createDesc s x1 x2 x3) := by
  refine h.step ?_ e
  clear h e
  unfold State.createDesc
  try dsimp only
  with_reducible repeat' first | exact Only.refl _ _ | assumption | split | apply State.complete_only | apply State.bump_only | apply State.descRefused_only | decide | fail_if_no_progress (apply Only.mk; rotate_left; (intro c hc; cases c <;> first | exact absurd hc (by decide) | exact trivial | exact rfl))

theorem State.debugGrant_only {x1} (h : Only l a s) (e : [.regs].all l.contains = true) : Only l a (State.debugGrant s x1) := by
  refine h.step ?_ e
  clear h e
  unfold State.debugGrant
  try dsimp only
  with_reducible repeat' first | exact Only.refl _ _ | assumption | apply State.rput_only | decide

theorem State.declareColumns_only {x1 x2} (h : Only l a s) (e : [.regs, .com, .safety, .host, .out].all l.contains = true) : Only l a (State.declareColumns s x1 x2) := by
  refine h.step ?_ e
  clear h e
  unfold State.declareColumns
  try dsimp only
  with_reducible repeat' first | exact Only.refl _ _ | assumption | (intro _; intros; try beta_reduce) | split | apply State.raise_only | apply State.notice_only | apply State.bump_only | apply State.logChecker_only | apply State.onSafety_only | decide | apply Only.foldl | apply Only.foldlP

theorem State.deny_only {x1 x2 x3 x4} (h : Only l a s) (e : [.regs, .safety, .host, .out].all l.contains = true) : Only l a (State.deny s x1 x2 x3 x4) := by
  refine h.step ?_ e
  clear h e
  unfold State.deny
  try dsimp only
  with_reducible repeat' first | exact Only.refl _ _ | assumption | split | apply State.bump_only | apply State.logRec_only | apply State.setPair_only | apply State.rset_only | apply State.raise_only | decide

theorem State.untapPea_only {x1 x2} (h : Only l a s) (e : [.safety].all l.contains = true) : Only l a (State.untapPea s x1 x2) := by
  refine h.step ?_ e
  clear h e
  unfold State.untapPea
  try dsimp only
  with_reducible repeat' first | exact Only.refl _ _ | assumption | apply State.onSafety_only | decide

theorem State.deskewDrop_only {x1 x2 x3} (h : Only l a s) (e : [.regs, .safety, .host, .out].all l.contains = true) : Only l a (State.deskewDrop s x1 x2 x3) := by
  refine h.step ?_ e
  clear h e
  unfold State.deskewDrop
  try dsimp only
  with_reducible repeat' first | exact Only.refl _ _ | assumption | apply State.untapPea_only | apply State.raise_only | apply State.bump_only | decide

theorem State.took_only  (h : Only l a s) (e : [.free].all l.contains = true) : Only l a (State.took s) := by
  refine h.step ?_ e
  clear h e
  unfold State.took
  try dsimp only
  with_reducible repeat' first | exact Only.refl _ _ | assumption | decide | fail_if_no_progress (apply Only.mk; rotate_left; (intro c hc; cases c <;> first | exact absurd hc (by decide) | exact trivial | exact rfl))

theorem State.useVersion_only {x1} (h : Only l a s) (e : [.store].all l.contains = true) : Only l a (State.useVersion s x1) := by
  refine h.step ?_ e
  clear h e
  unfold State.useVersion
  try dsimp only
  with_reducible repeat' first | exact Only.refl _ _ | assumption | split | apply State.onStore_only | decide

theorem State.noteSweep_only {x1 x2} (h : Only l a s) (e : [.store].all l.contains = true) : Only l a (State.noteSweep s x1 x2) := by
  refine h.step ?_ e
  clear h e
  unfold State.noteSweep
  try dsimp only
  with_reducible repeat' first | exact Only.refl _ _ | assumption | split | apply State.onStore_only | decide

theorem State.dropOutside_only {x1} (h : Only l a s) (e : [.regs, .host, .out].all l.contains = true) : Only l a (State.dropOutside s x1) := by
  refine h.step ?_ e
  clear h e
  unfold State.dropOutside
  try dsimp only
  with_reducible repeat' first | exact Only.refl _ _ | assumption | apply State.raise_only | apply State.bump_only | decide

theorem State.queuePea_only {x1 x2 x3 x4 x5} (h : Only l a s) (e : [.peers].all l.contains = true) : Only l a (State.queuePea s x1 x2 x3 x4 x5) := by
  refine h.step ?_ e
  clear h e
  unfold State.queuePea
  try dsimp only
  with_reducible repeat' first | exact Only.refl _ _ | assumption | split | apply State.onPeer_only | decide

theorem State.forwardPea_only {x1 x2 x3 x4} (h : Only l a s) (e : [.regs, .peers, .host, .out].all l.contains = true) : Only l a (State.forwardPea s x1 x2 x3 x4) := by
  refine h.step ?_ e
  clear h e
  unfold State.forwardPea
  try dsimp only
  with_reducible repeat' first | exact Only.refl _ _ | assumption | split | apply State.dropOutside_only | apply State.bump_only | apply State.queuePea_only | decide

theorem State.deskewOne_only {x1} (h : Only l a s) (e : [.regs, .store, .peers, .safety, .host, .out, .free].all l.contains = true) : Only l a (State.deskewOne s x1) := by
  refine h.step ?_ e
  clear h e
  unfold State.deskewOne
  try dsimp only
  with_reducible repeat' first | exact Only.refl _ _ | assumption | (intro _; intros; try beta_reduce) | split | apply State.deskewDrop_only | apply State.took_only | apply State.useVersion_only | apply State.bump_only | apply State.noteSweep_only | apply State.onStore_only | apply State.forwardPea_only | decide | apply Only.foldl | apply Only.foldlP

theorem State.destOff_only {x1} (h : Only l a s) (e : [.com].all l.contains = true) : Only l a (State.destOff s x1) := by
  refine h.step ?_ e
  clear h e
  unfold State.destOff
  try dsimp only
  with_reducible repeat' first | exact Only.refl _ _ | assumption | apply State.onDest_only | decide

theorem State.destroyDesc_only {x1 x2 x3} (h : Only l a s) (e : [.regs, .descs, .host, .hostMem, .out].all l.contains = true) : Only l a (State.destroyDesc s x1 x2 x3) := by
  refine h.step ?_ e
  clear h e
  unfold State.destroyDesc
  try dsimp only
  with_reducible repeat' first | exact Only.refl _ _ | assumption | split | apply State.complete_only | apply State.descRefused_only | decide | fail_if_no_progress (apply Only.mk; rotate_left; (intro c hc; cases c <;> first | exact absurd hc (by decide) | exact trivial | exact rfl))

theorem State.discardFlit_only {x1} (h : Only l a s) (e : [.regs, .peers, .out].all l.contains = true) : Only l a (State.discardFlit s x1) := by
  refine h.step ?_ e
  clear h e
  unfold State.discardFlit
  try dsimp only
  with_reducible repeat' first | exact Only.refl _ _ | assumption | split | apply State.sendLink_only | apply State.onPeer_only | decide

theorem State.engHard_only {x1 x2} (h : Only l a s) (e : [.regs, .engines, .slot, .place, .safety, .host, .keeper, .out].all l.contains = true) : Only l a (State.engHard s x1 x2) := by
  refine h.step ?_ e
  clear h e
  unfold State.engHard
  try dsimp only
  with_reducible repeat' first | exact Only.refl _ _ | assumption | split | apply State.retireEng_only | apply State.onEngine_only | apply State.engPermanent_only | apply State.raiseAt_only | decide

theorem State.domainFault_only {x1} (h : Only l a s) (e : [.regs, .store, .com, .engines, .data, .slot, .place, .mem, .peers, .safety, .host, .keeper, .out].all l.contains = true) : Only l a (State.domainFault s x1) := by
  refine h.step ?_ e
  clear h e
  unfold State.domainFault
  try dsimp only
  with_reducible repeat' first | exact Only.refl _ _ | assumption | split | apply State.enterHold_only | apply State.engHard_only | apply State.retireChannel_only | decide

theorem State.escape_only {x1 x2 x3 x4 x5 x6 x7 x8 x9} (h : Only l a s) (e : [.regs, .host, .out].all l.contains = true) : Only l a (State.escape s x1 x2 x3 x4 x5 x6 x7 x8 x9) := by
  refine h.step ?_ e
  clear h e
  unfold State.escape
  try dsimp only
  with_reducible repeat' first | exact Only.refl _ _ | assumption | split | apply State.raiseAt_only | apply State.bump_only | apply State.setPair_only | apply State.rset_only | decide

theorem State.requant_only {x1 x2 x3 x4 x5 x6 x7} (h : Only l a s) (e : [.regs, .host, .out, .free].all l.contains = true) : Only l a (State.requant s x1 x2 x3 x4 x5 x6 x7).1 := by
  refine h.step ?_ e
  clear h e
  unfold State.requant
  try dsimp only
  with_reducible repeat' first | exact Only.refl _ _ | assumption | (intro _; intros; try beta_reduce) | split | apply State.escape_only | apply State.took_only | decide | apply Only.lfoldIdx | apply Only.lfoldIdxP

theorem State.requant_only' {t : State} {x1 x2 x3 x4 x5 x6 x7} {r} (h : Only l a s) (e : [.regs, .host, .out, .free].all l.contains = true) (q : State.requant s x1 x2 x3 x4 x5 x6 x7 = (t, r)) : Only l a t := by
  have k := State.requant_only h e (x1 := x1) (x2 := x2) (x3 := x3) (x4 := x4) (x5 := x5) (x6 := x6) (x7 := x7)
  rw [q] at k
  exact k

theorem State.putCtx_only {x1 x2 x3} (h : Only l a s) (e : [.engines].all l.contains = true) : Only l a (State.putCtx s x1 x2 x3) := by
  refine h.step ?_ e
  clear h e
  unfold State.putCtx
  try dsimp only
  with_reducible repeat' first | exact Only.refl _ _ | assumption | split | apply State.onEngine_only | decide

theorem State.slotOp_only {x1 x2 x3} (h : Only l a s) (e : [.engines].all l.contains = true) : Only l a (State.slotOp s x1 x2 x3) := by
  refine h.step ?_ e
  clear h e
  unfold State.slotOp
  try dsimp only
  with_reducible repeat' first | exact Only.refl _ _ | assumption | split | apply State.onEngine_only | apply State.putCtx_only | decide

theorem State.drainRow_only {x1 x2 x3 x4 x5} (h : Only l a s) (e : [.regs, .engines, .host, .out, .free].all l.contains = true) : Only l a (State.drainRow s x1 x2 x3 x4 x5) := by
  refine h.step ?_ e
  clear h e
  unfold State.drainRow
  try dsimp only
  with_reducible repeat' first | exact Only.refl _ _ | assumption | split | apply State.requant_only | (apply State.requant_only'; rotate_left; decide; assumption) | apply State.onEngine_only | apply State.slotOp_only | decide

theorem State.dropPea_only {x1 x2} (h : Only l a s) (e : [.store].all l.contains = true) : Only l a (State.dropPea s x1 x2) := by
  refine h.step ?_ e
  clear h e
  unfold State.dropPea
  try dsimp only
  with_reducible repeat' first | exact Only.refl _ _ | assumption | apply State.onStore_only | decide

theorem State.dropWord_only {x1} (h : Only l a s) (e : [.regs].all l.contains = true) : Only l a (State.dropWord s x1) := by
  refine h.step ?_ e
  clear h e
  unfold State.dropWord
  try dsimp only
  with_reducible repeat' first | exact Only.refl _ _ | assumption | apply State.bump_only | decide

theorem State.hqRaise_only {x1 x2 x3} (h : Only l a s) (e : [.regs, .host, .out].all l.contains = true) : Only l a (State.hqRaise s x1 x2 x3) := by
  refine h.step ?_ e
  clear h e
  unfold State.hqRaise
  try dsimp only
  with_reducible repeat' first | exact Only.refl _ _ | assumption | split | apply State.rset_only | apply State.msix_only | decide

theorem State.xlateCapture_only {x1 x2 x3 x4} (h : Only l a s) (e : [.regs, .host, .out].all l.contains = true) : Only l a (State.xlateCapture s x1 x2 x3 x4) := by
  refine h.step ?_ e
  clear h e
  unfold State.xlateCapture
  try dsimp only
  with_reducible repeat' first | exact Only.refl _ _ | assumption | split | apply State.raise_only | apply State.bump_only | apply State.setPair_only | apply State.rset_only | decide

theorem State.dumpEntry_only {x1 x2} (h : Only l a s) (e : [.regs, .host, .hostMem, .out].all l.contains = true) : Only l a (State.dumpEntry s x1 x2).1 := by
  refine h.step ?_ e
  clear h e
  unfold State.dumpEntry
  try dsimp only
  with_reducible repeat' first | exact Only.refl _ _ | assumption | split | apply State.hwrite_only | apply State.hqRaise_only | apply State.xlateCapture_only | decide

theorem State.dumpEntry_only' {t : State} {x1 x2} {r} (h : Only l a s) (e : [.regs, .host, .hostMem, .out].all l.contains = true) (q : State.dumpEntry s x1 x2 = (t, r)) : Only l a t := by
  have k := State.dumpEntry_only h e (x1 := x1) (x2 := x2)
  rw [q] at k
  exact k

theorem State.dumpRead_only {x1} (h : Only l a s) (e : [.regs, .host, .hostMem, .out].all l.contains = true) : Only l a (State.dumpRead s x1).1 := by
  refine h.step ?_ e
  clear h e
  unfold State.dumpRead
  try dsimp only
  with_reducible repeat' first | exact Only.refl _ _ | assumption | (intro _; intros; try beta_reduce) | split | apply State.dumpEntry_only | (apply State.dumpEntry_only'; rotate_left; decide; assumption) | decide | apply Only.foldl | apply Only.foldlP

theorem State.dumpRead_only' {t : State} {x1} {r} (h : Only l a s) (e : [.regs, .host, .hostMem, .out].all l.contains = true) (q : State.dumpRead s x1 = (t, r)) : Only l a t := by
  have k := State.dumpRead_only h e (x1 := x1)
  rw [q] at k
  exact k

theorem State.dumpBeat_only  (h : Only l a s) (e : [.regs, .host, .hostMem, .out].all l.contains = true) : Only l a (State.dumpBeat s) := by
  refine h.step ?_ e
  clear h e
  unfold State.dumpBeat
  try dsimp only
  with_reducible repeat' first | exact Only.refl _ _ | assumption | split | apply State.dumpRead_only | (apply State.dumpRead_only'; rotate_left; decide; assumption) | apply State.onHost_only | decide

theorem State.dwrite_only {x1 x2 x3 x4} (h : Only l a s) (e : [.data].all l.contains = true) : Only l a (State.dwrite s x1 x2 x3 x4) := by
  refine h.step ?_ e
  clear h e
  unfold State.dwrite
  try dsimp only
  with_reducible repeat' first | exact Only.refl _ _ | assumption | decide | fail_if_no_progress (apply Only.mk; rotate_left; (intro c hc; cases c <;> first | exact absurd hc (by decide) | exact trivial | exact rfl))

theorem State.enabledEvents_only {x1 x2 x3 x4} (h : Only l a s) (e : [.host, .out].all l.contains = true) : Only l a (State.enabledEvents s x1 x2 x3 x4) := by
  refine h.step ?_ e
  clear h e
  unfold State.enabledEvents
  try dsimp only
  with_reducible repeat' first | exact Only.refl _ _ | assumption | split | apply State.msix_only | apply State.msixBoth_only | decide

theorem State.onTrackSolve_only {x1 x2} (h : Only l a s) (e : [.solver].all l.contains = true) : Only l a (State.onTrackSolve s x1 x2) := by
  refine h.step ?_ e
  clear h e
  unfold State.onTrackSolve
  try dsimp only
  with_reducible repeat' first | exact Only.refl _ _ | assumption | split | apply State.onSolver_only | decide

theorem State.trackResult_only {x1 x2 x3 x4 x5} (h : Only l a s) (e : [.regs].all l.contains = true) : Only l a (State.trackResult s x1 x2 x3 x4 x5) := by
  refine h.step ?_ e
  clear h e
  unfold State.trackResult
  try dsimp only
  with_reducible repeat' first | exact Only.refl _ _ | assumption | split | apply State.rset_only | decide

theorem State.pivotCapture_only {x1 x2 x3} (h : Only l a s) (e : [.regs].all l.contains = true) : Only l a (State.pivotCapture s x1 x2 x3) := by
  refine h.step ?_ e
  clear h e
  unfold State.pivotCapture
  try dsimp only
  with_reducible repeat' first | exact Only.refl _ _ | assumption | split | apply State.setPair_only | apply State.rset_only | decide

theorem State.noteRun_only {x1 x2 x3} (h : Only l a s) (e : [.regs, .host, .out].all l.contains = true) : Only l a (State.noteRun s x1 x2 x3) := by
  refine h.step ?_ e
  clear h e
  unfold State.noteRun
  try dsimp only
  with_reducible repeat' first | exact Only.refl _ _ | assumption | (intro _; intros; try beta_reduce) | split | apply State.pivotCapture_only | apply State.raise_only | apply State.bump_only | decide | apply Only.foldl

theorem State.noteCold_only {x1} (h : Only l a s) (e : [.regs, .host, .out].all l.contains = true) : Only l a (State.noteCold s x1) := by
  refine h.step ?_ e
  clear h e
  unfold State.noteCold
  try dsimp only
  with_reducible repeat' first | exact Only.refl _ _ | assumption | split | apply State.raise_only | apply State.bump_only | decide

theorem State.formVersion_only {x1 x2 x3} (h : Only l a s) (e : [.free].all l.contains = true) : Only l a (State.formVersion s x1 x2 x3).1 := by
  refine h.step ?_ e
  clear h e
  unfold State.formVersion
  try dsimp only
  with_reducible repeat' first | exact Only.refl _ _ | assumption | split | decide | fail_if_no_progress (apply Only.mk; rotate_left; (intro c hc; cases c <;> first | exact absurd hc (by decide) | exact trivial | exact rfl))

theorem State.formVersion_only' {t : State} {x1 x2 x3} {r} (h : Only l a s) (e : [.free].all l.contains = true) (q : State.formVersion s x1 x2 x3 = (t, r)) : Only l a t := by
  have k := State.formVersion_only h e (x1 := x1) (x2 := x2) (x3 := x3)
  rw [q] at k
  exact k

theorem State.keepWarm_only {x1 x2 x3 x4} (h : Only l a s) (e : [.solver].all l.contains = true) : Only l a (State.keepWarm s x1 x2 x3 x4) := by
  refine h.step ?_ e
  clear h e
  unfold State.keepWarm
  try dsimp only
  with_reducible repeat' first | exact Only.refl _ _ | assumption | apply State.onSolver_only | decide

theorem State.endFastSolve_only {x1 x2 x3} (h : Only l a s) (e : [.regs, .solver, .host, .out, .free].all l.contains = true) : Only l a (State.endFastSolve s x1 x2 x3) := by
  refine h.step ?_ e
  clear h e
  unfold State.endFastSolve
  try dsimp only
  with_reducible repeat' first | exact Only.refl _ _ | assumption | split | apply State.bump_only | apply State.onTrackSolve_only | apply State.trackResult_only | apply State.setPair_only | apply State.noteRun_only | apply State.noteCold_only | apply State.formVersion_only | (apply State.formVersion_only'; rotate_left; decide; assumption) | apply State.keepWarm_only | decide

theorem State.seqTo_only {x1 x2 x3} (h : Only l a s) (e : [.engines, .place].all l.contains = true) : Only l a (State.seqTo s x1 x2 x3) := by
  refine h.step ?_ e
  clear h e
  unfold State.seqTo
  try dsimp only
  with_reducible repeat' first | exact Only.refl _ _ | assumption | split | apply State.slotOp_only | apply State.onBook_only | decide

theorem State.onMover_only {x1 x2} (h : Only l a s) (e : [.movers].all l.contains = true) : Only l a (State.onMover s x1 x2) := by
  refine h.step ?_ e
  clear h e
  unfold State.onMover
  try dsimp only
  with_reducible repeat' first | exact Only.refl _ _ | assumption | decide | fail_if_no_progress (apply Only.mk; rotate_left; (intro c hc; cases c <;> first | exact absurd hc (by decide) | exact trivial | exact rfl))

theorem State.signalChannels_only {x1 x2} (h : Only l a s) (e : [.movers].all l.contains = true) : Only l a (State.signalChannels s x1 x2) := by
  refine h.step ?_ e
  clear h e
  unfold State.signalChannels
  try dsimp only
  with_reducible repeat' first | exact Only.refl _ _ | assumption | (intro _; intros; try beta_reduce) | split | apply State.onMover_only | decide | apply Only.foldl

theorem State.endPass_only {x1 x2 x3 x4} (h : Only l a s) (e : [.regs, .engines, .movers, .place].all l.contains = true) : Only l a (State.endPass s x1 x2 x3 x4) := by
  refine h.step ?_ e
  clear h e
  unfold State.endPass
  try dsimp only
  with_reducible repeat' first | exact Only.refl _ _ | assumption | split | apply State.seqTo_only | apply State.bump_only | apply State.signalTokens_only | apply State.signalChannels_only | decide | fail_if_no_progress (apply Only.mk; rotate_left; (intro c hc; cases c <;> first | exact absurd hc (by decide) | exact trivial | exact rfl))

theorem State.endRecheckShadow_only {x1} (h : Only l a s) (e : [.engines].all l.contains = true) : Only l a (State.endRecheckShadow s x1) := by
  refine h.step ?_ e
  clear h e
  unfold State.endRecheckShadow
  try dsimp only
  with_reducible repeat' first | exact Only.refl _ _ | assumption | split | apply State.clearShadow_only | decide

theorem State.hardFail_only {x1} (h : Only l a s) (e : [.regs, .com, .engines, .slot, .safety, .host, .out].all l.contains = true) : Only l a (State.hardFail s x1) := by
  refine h.step ?_ e
  clear h e
  unfold State.hardFail
  try dsimp only
  with_reducible repeat' first | exact Only.refl _ _ | assumption | apply State.enterHold_only | decide

theorem State.endRecheck_only {x1 x2 x3} (h : Only l a s) (e : [.regs, .com, .engines, .slot, .place, .safety, .host, .keeper, .out].all l.contains = true) : Only l a (State.endRecheck s x1 x2 x3) := by
  refine h.step ?_ e
  clear h e
  unfold State.endRecheck
  try dsimp only
  with_reducible repeat' first | exact Only.refl _ _ | assumption | split | apply State.endRecheckShadow_only | apply State.checkerRetire_only | apply State.hardFail_only | apply State.logChecker_only | apply State.releaseDecl_only | apply State.bump_only | decide

theorem State.endReport_only {x1} (h : Only l a s) (e : [.regs, .host, .hostMem, .out].all l.contains = true) : Only l a (State.endReport s x1) := by
  refine h.step ?_ e
  clear h e
  unfold State.endReport
  try dsimp only
  with_reducible repeat' first | exact Only.refl _ _ | assumption | split | apply State.complete_only | apply State.raise_only | apply State.hwrite_only | apply State.hqRaise_only | apply State.xlateCapture_only | decide

theorem State.flushShadows_only  (h : Only l a s) (e : [.safety, .keeper].all l.contains = true) : Only l a (State.flushShadows s) := by
  refine h.step ?_ e
  clear h e
  unfold State.flushShadows
  try dsimp only
  with_reducible repeat' first | exact Only.refl _ _ | assumption | apply State.onKeeper_only | decide | fail_if_no_progress (apply Only.mk; rotate_left; (intro c hc; cases c <;> first | exact absurd hc (by decide) | exact trivial | exact rfl))

theorem State.writeMarrow_only {x1} (h : Only l a s) (e : [.keeper].all l.contains = true) : Only l a (State.writeMarrow s x1) := by
  refine h.step ?_ e
  clear h e
  unfold State.writeMarrow
  try dsimp only
  with_reducible repeat' first | exact Only.refl _ _ | assumption | (intro _; intros; try beta_reduce) | split | apply State.onMarrow_only | decide | apply Only.foldl

theorem State.endSave_only {x1} (h : Only l a s) (e : [.com, .safety, .power, .keeper].all l.contains = true) : Only l a (State.endSave s x1) := by
  refine h.step ?_ e
  clear h e
  unfold State.endSave
  try dsimp only
  with_reducible repeat' first | exact Only.refl _ _ | assumption | split | apply State.flushShadows_only | apply State.writeMarrow_only | apply State.onCom_only | apply State.onPower_only | decide

theorem State.endSelfTest_only {x1} (h : Only l a s) (e : [.regs, .engines, .slot, .place, .safety, .host, .keeper, .out].all l.contains = true) : Only l a (State.endSelfTest s x1) := by
  refine h.step ?_ e
  clear h e
  unfold State.endSelfTest
  try dsimp only
  with_reducible repeat' first | exact Only.refl _ _ | assumption | (intro _; intros; try beta_reduce) | split | apply State.engHard_only | apply State.onEngine_only | decide | apply Only.foldl

theorem State.startSelfTest_only  (h : Only l a s) (e : [.engines].all l.contains = true) : Only l a (State.startSelfTest s) := by
  refine h.step ?_ e
  clear h e
  unfold State.startSelfTest
  try dsimp only
  with_reducible repeat' first | exact Only.refl _ _ | assumption | (intro _; intros; try beta_reduce) | split | apply State.onEngine_only | decide | apply Only.foldl | apply Only.foldlP

theorem State.endStep_only {x1} (h : Only l a s) (e : [.regs, .roots, .ports, .com, .engines, .data, .slot, .place, .mem, .safety, .host, .boot, .power, .keeper, .out].all l.contains = true) : Only l a (State.endStep s x1) := by
  refine h.step ?_ e
  clear h e
  unfold State.endStep
  try dsimp only
  with_reducible repeat' first | exact Only.refl _ _ | assumption | split | apply State.onBoot_only | apply State.bootRoots_only | apply State.bootFirmware_only | apply State.bootFuses_only | apply State.startSelfTest_only | apply State.bootDram_only | apply State.bootKeeper_only | apply State.stepTo_only | apply State.endSelfTest_only | apply State.admitHost_only | decide

theorem State.endSweep_only {x1} (h : Only l a s) (e : [.regs, .host, .power, .out].all l.contains = true) : Only l a (State.endSweep s x1) := by
  refine h.step ?_ e
  clear h e
  unfold State.endSweep
  try dsimp only
  with_reducible repeat' first | exact Only.refl _ _ | assumption | split | apply State.onPower_only | apply State.rset_only | apply State.raise_only | decide

theorem State.error_only {x1 x2} (h : Only l a s) (e : [.regs, .safety, .host, .out].all l.contains = true) : Only l a (State.error s x1 x2) := by
  refine h.step ?_ e
  clear h e
  unfold State.error
  try dsimp only
  with_reducible repeat' first | exact Only.refl _ _ | assumption | apply State.raise_only | apply State.logRec_only | apply State.bump_only | decide | fail_if_no_progress (apply Only.mk; rotate_left; (intro c hc; cases c <;> first | exact absurd hc (by decide) | exact trivial | exact rfl))

theorem State.evalSafety_only  (h : Only l a s) (e : [.regs, .safety, .host, .out].all l.contains = true) : Only l a (State.evalSafety s) := by
  refine h.step ?_ e
  clear h e
  unfold State.evalSafety
  try dsimp only
  with_reducible repeat' first | exact Only.refl _ _ | assumption | split | apply State.startHeartbeat_only | apply State.onSafety_only | apply State.raise_only | apply State.logState_only | decide

theorem State.evaluatePlace_only {x1} (h : Only l a s) (e : [.regs, .engines, .place, .safety].all l.contains = true) : Only l a (State.evaluatePlace s x1) := by
  refine h.step ?_ e
  clear h e
  unfold State.evaluatePlace
  try dsimp only
  with_reducible repeat' first | exact Only.refl _ _ | assumption | split | apply State.onPlace_only | apply State.setPair_only | apply State.bump_only | apply State.beginMigration_only | decide

theorem State.hitOf_only {x1 x2} (h : Only l a s) (e : [.free].all l.contains = true) : Only l a (State.hitOf s x1 x2).1 := by
  refine h.step ?_ e
  clear h e
  unfold State.hitOf
  try dsimp only
  with_reducible repeat' first | exact Only.refl _ _ | assumption | split | apply State.took_only | decide

theorem State.hitOf_only' {t : State} {x1 x2} {r} (h : Only l a s) (e : [.free].all l.contains = true) (q : State.hitOf s x1 x2 = (t, r)) : Only l a t := by
  have k := State.hitOf_only h e (x1 := x1) (x2 := x2)
  rw [q] at k
  exact k

theorem State.writeHit_only {x1 x2 x3 x4 x5 x6 x7} (h : Only l a s) (e : [.store, .com].all l.contains = true) : Only l a (State.writeHit s x1 x2 x3 x4 x5 x6 x7) := by
  refine h.step ?_ e
  clear h e
  unfold State.writeHit
  try dsimp only
  with_reducible repeat' first | exact Only.refl _ _ | assumption | split | apply State.logDelta_only | apply State.modCell_only | apply State.onStore_only | decide

theorem State.keepPea_only {x1 x2} (h : Only l a s) (e : [.regs, .store].all l.contains = true) : Only l a (State.keepPea s x1 x2).1 := by
  refine h.step ?_ e
  clear h e
  unfold State.keepPea
  try dsimp only
  with_reducible repeat' first | exact Only.refl _ _ | assumption | split | apply State.onStore_only | apply State.bump_only | decide

theorem State.keepPea_only' {t : State} {x1 x2} {r} (h : Only l a s) (e : [.regs, .store].all l.contains = true) (q : State.keepPea s x1 x2 = (t, r)) : Only l a t := by
  have k := State.keepPea_only h e (x1 := x1) (x2 := x2)
  rw [q] at k
  exact k

theorem State.journal_only {x1 x2} (h : Only l a s) (e : [.com].all l.contains = true) : Only l a (State.journal s x1 x2) := by
  refine h.step ?_ e
  clear h e
  unfold State.journal
  try dsimp only
  with_reducible repeat' first | exact Only.refl _ _ | assumption | apply State.onCom_only | decide

theorem State.fileIn_only {x1 x2 x3} (h : Only l a s) (e : [.regs, .store, .com, .host, .out, .free].all l.contains = true) : Only l a (State.fileIn s x1 x2 x3) := by
  refine h.step ?_ e
  clear h e
  unfold State.fileIn
  try dsimp only
  with_reducible repeat' first | exact Only.refl _ _ | assumption | split | apply State.refuseAt_only | apply State.bump_only | apply State.refuseFull_only | apply State.placeFor_only | (apply State.placeFor_only'; rotate_left; decide; assumption) | apply State.podRefused_only | apply State.hitOf_only | (apply State.hitOf_only'; rotate_left; decide; assumption) | apply State.writeHit_only | apply State.bump64_only | apply State.keepPea_only | (apply State.keepPea_only'; rotate_left; decide; assumption) | apply State.journal_only | apply State.clearCells_only | decide

theorem State.preEpochDrop_only  (h : Only l a s) (e : [.regs, .host, .out].all l.contains = true) : Only l a (State.preEpochDrop s) := by
  refine h.step ?_ e
  clear h e
  unfold State.preEpochDrop
  try dsimp only
  with_reducible repeat' first | exact Only.refl _ _ | assumption | apply State.raise_only | apply State.bump_only | decide

theorem State.fileItem_only {x1} (h : Only l a s) (e : [.regs, .store, .com, .host, .out, .free].all l.contains = true) : Only l a (State.fileItem s x1) := by
  refine h.step ?_ e
  clear h e
  unfold State.fileItem
  try dsimp only
  with_reducible repeat' first | exact Only.refl _ _ | assumption | split | apply State.preEpochDrop_only | apply State.discardDelta_only | apply State.fileIn_only | apply State.dropOutside_only | decide

theorem State.fillGroup_only {es r} (h : Only l a s) (e : [Component.regs, .engines, .slot, .safety].all l.contains = true) : Only l a (s.fillGroup es r) := by
  induction es generalizing s r with
  | nil => exact h
  | cons x xs ih =>
    unfold State.fillGroup
    dsimp only
    split
    · exact ih h
    · exact ih (State.onSlot_only (State.assignShadow_only h (Only.sub_trans (by decide) e)) (Only.sub_trans (by decide) e))

theorem State.finishCompare_only {x1} (h : Only l a s) (e : [.regs, .com, .safety, .host, .out].all l.contains = true) : Only l a (State.finishCompare s x1) := by
  refine h.step ?_ e
  clear h e
  unfold State.finishCompare
  try dsimp only
  with_reducible repeat' first | exact Only.refl _ _ | assumption | split | apply State.onSafety_only | apply State.cleanDecls_only | apply State.declareColumns_only | decide

theorem State.hqWatermark_only {x1} (h : Only l a s) (e : [.regs, .host, .out].all l.contains = true) : Only l a (State.hqWatermark s x1) := by
  refine h.step ?_ e
  clear h e
  unfold State.hqWatermark
  try dsimp only
  with_reducible repeat' first | exact Only.refl _ _ | assumption | split | apply State.onFn_only | apply State.hqRaise_only | apply State.rset_only | decide

theorem State.flushHq_only {x1} (h : Only l a s) (e : [.regs, .host, .out].all l.contains = true) : Only l a (State.flushHq s x1) := by
  refine h.step ?_ e
  clear h e
  unfold State.flushHq
  try dsimp only
  with_reducible repeat' first | exact Only.refl _ _ | assumption | apply State.hqWatermark_only | apply State.onFn_only | apply State.bump_only | decide

end Sys2Proof.Machine
end

