-- ==== Sys2Proof/Laws/Only3.lean ====
section
/-! SUPPORT. What each operation and command leaves alone (part 3). -/

namespace Sys2Proof.Machine

open Sys2Proof

set_option linter.unusedTactic false
set_option linter.unreachableTactic false
set_option linter.unusedSimpArgs false
set_option linter.unusedVariables false

variable {l : List Component} {a s : State}

theorem State.flushQueue_only {x1} (h : Only l a s) (e : [.regs, .ing, .host, .out].all l.contains = true) : Only l a (State.flushQueue s x1) := by
  refine h.step ?_ e
  clear h e
  unfold State.flushQueue
  try dsimp only
  with_reducible repeat' first | exact Only.refl _ _ | assumption | apply State.watermark_only | apply State.onIng_only | decide

theorem State.forgetEpoch_only {x1} (h : Only l a s) (e : [.safety].all l.contains = true) : Only l a (State.forgetEpoch s x1) := by
  refine h.step ?_ e
  clear h e
  unfold State.forgetEpoch
  try dsimp only
  with_reducible repeat' first | exact Only.refl _ _ | assumption | apply State.onSafety_only | decide

theorem State.forgetMarrow_only  (h : Only l a s) (e : [.power, .keeper].all l.contains = true) : Only l a (State.forgetMarrow s) := by
  refine h.step ?_ e
  clear h e
  unfold State.forgetMarrow
  try dsimp only
  with_reducible repeat' first | exact Only.refl _ _ | assumption | split | apply State.onPower_only | apply State.onMarrow_only | decide

theorem State.rmax_only {x1 x2} (h : Only l a s) (e : [.regs].all l.contains = true) : Only l a (State.rmax s x1 x2) := by
  refine h.step ?_ e
  clear h e
  unfold State.rmax
  try dsimp only
  with_reducible repeat' first | exact Only.refl _ _ | assumption | split | apply State.rset_only | decide

theorem State.formCommits_only {x1 x2 x3} (h : Only l a s) (e : [.regs, .com, .host, .out].all l.contains = true) : Only l a (State.formCommits s x1 x2 x3) := by
  refine h.step ?_ e
  clear h e
  unfold State.formCommits
  try dsimp only
  with_reducible repeat' first | exact Only.refl _ _ | assumption | (intro _; intros; try beta_reduce) | split | apply State.queueTo_only | apply State.rmax_only | apply State.bump_only | apply State.raise_only | apply State.onCom_only | decide | apply Only.foldl

theorem State.stepTime_only {x1} (h : Only l a s) (e : [.regs, .tl, .host, .out].all l.contains = true) : Only l a (State.stepTime s x1) := by
  refine h.step ?_ e
  clear h e
  unfold State.stepTime
  try dsimp only
  with_reducible repeat' first | exact Only.refl _ _ | assumption | split | apply State.onTl_only | apply State.raise_only | apply State.bump_only | decide

theorem State.sealEpoch_only {x1} (h : Only l a s) (e : [.regs, .store, .com, .peers, .host, .out].all l.contains = true) : Only l a (State.sealEpoch s x1) := by
  refine h.step ?_ e
  clear h e
  unfold State.sealEpoch
  try dsimp only
  with_reducible repeat' first | exact Only.refl _ _ | assumption | (intro _; intros; try beta_reduce) | split | apply State.onCom_only | apply State.sealLayer_only | apply State.queueAll_only | decide | apply Only.foldl

theorem State.stepSolver_only {x1} (h : Only l a s) (e : [.solver].all l.contains = true) : Only l a (State.stepSolver s x1) := by
  refine h.step ?_ e
  clear h e
  unfold State.stepSolver
  try dsimp only
  with_reducible repeat' first | exact Only.refl _ _ | assumption | apply State.onSolver_only | decide

theorem State.publishVersion_only {x1 x2} (h : Only l a s) (e : [.store].all l.contains = true) : Only l a (State.publishVersion s x1 x2) := by
  refine h.step ?_ e
  clear h e
  unfold State.publishVersion
  try dsimp only
  with_reducible repeat' first | exact Only.refl _ _ | assumption | split | apply State.onStore_only | decide

theorem State.stepVersions_only {x1} (h : Only l a s) (e : [.store].all l.contains = true) : Only l a (State.stepVersions s x1) := by
  refine h.step ?_ e
  clear h e
  unfold State.stepVersions
  try dsimp only
  with_reducible repeat' first | exact Only.refl _ _ | assumption | (intro _; intros; try beta_reduce) | apply State.publishVersion_only | decide | apply Only.foldl

theorem State.takeStep_only {x1} (h : Only l a s) (e : [.regs, .tl, .store, .com, .solver, .peers, .host, .out].all l.contains = true) : Only l a (State.takeStep s x1) := by
  refine h.step ?_ e
  clear h e
  unfold State.takeStep
  try dsimp only
  with_reducible repeat' first | exact Only.refl _ _ | assumption | apply State.stepTime_only | apply State.sealEpoch_only | apply State.stepSolver_only | apply State.stepVersions_only | apply State.onPeers_only | decide

theorem State.frameStep1_only  (h : Only l a s) (e : [.regs, .tl, .store, .com, .solver, .peers, .host, .out].all l.contains = true) : Only l a (State.frameStep1 s).1 := by
  refine h.step ?_ e
  clear h e
  unfold State.frameStep1
  try dsimp only
  with_reducible repeat' first | exact Only.refl _ _ | assumption | split | apply State.takeStep_only | apply State.onTl_only | decide

theorem State.frameStep1_only' {t : State} {r} (h : Only l a s) (e : [.regs, .tl, .store, .com, .solver, .peers, .host, .out].all l.contains = true) (q : State.frameStep1 s = (t, r)) : Only l a t := by
  have k := State.frameStep1_only h e
  rw [q] at k
  exact k

theorem State.settleLayers_only {x1 x2} (h : Only l a s) (e : [.regs, .store, .com, .peers, .host, .out].all l.contains = true) : Only l a (State.settleLayers s x1 x2) := by
  refine h.step ?_ e
  clear h e
  unfold State.settleLayers
  try dsimp only
  with_reducible repeat' first | exact Only.refl _ _ | assumption | (intro _; intros; try beta_reduce) | apply State.onCom_only | apply State.sealLayer_only | decide | apply Only.foldl

theorem State.frameStep2_only {x1} (h : Only l a s) (e : [.regs, .store, .com, .peers, .host, .out].all l.contains = true) : Only l a (State.frameStep2 s x1) := by
  refine h.step ?_ e
  clear h e
  unfold State.frameStep2
  try dsimp only
  with_reducible repeat' first | exact Only.refl _ _ | assumption | split | apply State.settleLayers_only | decide

theorem State.frameStep3_only {x1 x2 x3} (h : Only l a s) (e : [.regs, .store, .safety, .host, .out].all l.contains = true) : Only l a (State.frameStep3 s x1 x2 x3) := by
  refine h.step ?_ e
  clear h e
  unfold State.frameStep3
  try dsimp only
  with_reducible repeat' first | exact Only.refl _ _ | assumption | split | apply State.closeHist_only | apply State.forgetEpoch_only | decide

theorem State.releaseSwitched_only  (h : Only l a s) (e : [.com, .safety].all l.contains = true) : Only l a (State.releaseSwitched s) := by
  refine h.step ?_ e
  clear h e
  unfold State.releaseSwitched
  try dsimp only
  with_reducible repeat' first | exact Only.refl _ _ | assumption | (intro _; intros; try beta_reduce) | split | apply State.releaseDecl_only | decide | apply Only.foldl

theorem State.frameStep4_only  (h : Only l a s) (e : [.regs, .store, .com, .engines, .descs, .movers, .data, .solver, .live, .old, .liveBeat, .slot, .place, .mem, .peers, .safety, .host, .power, .keeper, .out].all l.contains = true) : Only l a (State.frameStep4 s) := by
  refine h.step ?_ e
  clear h e
  unfold State.frameStep4
  try dsimp only
  with_reducible repeat' first | exact Only.refl _ _ | assumption | split | apply State.applyFaults_only | apply State.applyImage_only | apply State.applyMigrations_only | apply State.releaseSwitched_only | apply State.fitLevel_only | decide

theorem State.frameStep5_only  (h : Only l a s) (e : [.store].all l.contains = true) : Only l a (State.frameStep5 s) := by
  refine h.step ?_ e
  clear h e
  unfold State.frameStep5
  try dsimp only
  with_reducible repeat' first | exact Only.refl _ _ | assumption | (intro _; intros; try beta_reduce) | split | apply State.onStore_only | decide | apply Only.foldl

theorem State.noteOver_only  (h : Only l a s) (e : [.place].all l.contains = true) : Only l a (State.noteOver s) := by
  refine h.step ?_ e
  clear h e
  unfold State.noteOver
  try dsimp only
  with_reducible repeat' first | exact Only.refl _ _ | assumption | split | apply State.onPlace_only | decide

theorem State.noteDue_only {x1} (h : Only l a s) (e : [.regs, .place, .host, .out].all l.contains = true) : Only l a (State.noteDue s x1) := by
  refine h.step ?_ e
  clear h e
  unfold State.noteDue
  try dsimp only
  with_reducible repeat' first | exact Only.refl _ _ | assumption | split | apply State.onBook_only | apply State.raise_only | apply State.bump_only | decide

theorem State.trySwap_only {x1} (h : Only l a s) (e : [.regs, .engines, .slot, .place, .safety].all l.contains = true) : Only l a (State.trySwap s x1) := by
  refine h.step ?_ e
  clear h e
  unfold State.trySwap
  try dsimp only
  with_reducible repeat' first | exact Only.refl _ _ | assumption | split | apply State.beginMigration_only | apply State.unhold_only | decide

theorem State.updateCoverage_only  (h : Only l a s) (e : [.regs, .place, .host, .out].all l.contains = true) : Only l a (State.updateCoverage s) := by
  refine h.step ?_ e
  clear h e
  unfold State.updateCoverage
  try dsimp only
  with_reducible repeat' first | exact Only.refl _ _ | assumption | split | apply State.raise_only | decide | fail_if_no_progress (apply Only.mk; rotate_left; (intro c hc; cases c <;> first | exact absurd hc (by decide) | exact trivial | exact rfl))

theorem State.radishStep6_only  (h : Only l a s) (e : [.regs, .engines, .slot, .place, .safety, .host, .out].all l.contains = true) : Only l a (State.radishStep6 s) := by
  refine h.step ?_ e
  clear h e
  unfold State.radishStep6
  try dsimp only
  with_reducible repeat' first | exact Only.refl _ _ | assumption | (intro _; intros; try beta_reduce) | apply State.noteDue_only | apply State.trySwap_only | apply State.updateCoverage_only | apply State.unhold_only | decide | apply Only.foldl

theorem State.frameStep6_only {x1} (h : Only l a s) (e : [.regs, .engines, .slot, .place, .safety, .host, .out].all l.contains = true) : Only l a (State.frameStep6 s x1) := by
  refine h.step ?_ e
  clear h e
  unfold State.frameStep6
  try dsimp only
  with_reducible repeat' first | exact Only.refl _ _ | assumption | split | apply State.noteOver_only | apply State.evaluatePlace_only | apply State.assignRechecks_only | apply State.radishStep6_only | decide

theorem State.slotHold_only  (h : Only l a s) (e : [.engines, .slot].all l.contains = true) : Only l a (State.slotHold s) := by
  refine h.step ?_ e
  clear h e
  unfold State.slotHold
  try dsimp only
  with_reducible repeat' first | exact Only.refl _ _ | assumption | (intro _; intros; try beta_reduce) | split | apply State.clearShadow_only | apply State.onSlot_only | decide | apply Only.foldl

theorem State.nextGroup_only  (h : Only l a s) (e : [.regs, .engines, .slot, .safety].all l.contains = true) : Only l a (State.nextGroup s) := by
  refine h.step ?_ e
  clear h e
  unfold State.nextGroup
  try dsimp only
  with_reducible repeat' first | exact Only.refl _ _ | assumption | split | apply State.slotHold_only | apply State.onSlot_only | apply State.fillGroup_only | decide

theorem State.startSlow_only  (h : Only l a s) (e : [.regs, .solver].all l.contains = true) : Only l a (State.startSlow s) := by
  refine h.step ?_ e
  clear h e
  unfold State.startSlow
  try dsimp only
  with_reducible repeat' first | exact Only.refl _ _ | assumption | split | apply State.setPair_only | apply State.onSolver_only | decide

theorem State.startFast_only {x1} (h : Only l a s) (e : [.regs, .solver, .host, .out].all l.contains = true) : Only l a (State.startFast s x1) := by
  refine h.step ?_ e
  clear h e
  unfold State.startFast
  try dsimp only
  with_reducible repeat' first | exact Only.refl _ _ | assumption | split | apply State.raise_only | apply State.bump_only | apply State.onSolver_only | decide

theorem State.radishEng_only {x1 x2} (h : Only l a s) (e : [.regs, .engines, .place, .safety].all l.contains = true) : Only l a (State.radishEng s x1 x2) := by
  refine h.step ?_ e
  clear h e
  unfold State.radishEng
  try dsimp only
  with_reducible repeat' first | exact Only.refl _ _ | assumption | split | apply State.onEngine_only | apply State.onBook_only | apply State.bump_only | apply State.setPair_only | apply State.engIgnored_only | decide

theorem State.issueRadish_only {x1} (h : Only l a s) (e : [.regs, .engines, .place, .safety].all l.contains = true) : Only l a (State.issueRadish s x1) := by
  refine h.step ?_ e
  clear h e
  unfold State.issueRadish
  try dsimp only
  with_reducible repeat' first | exact Only.refl _ _ | assumption | split | apply State.onBook_only | apply State.radishEng_only | decide

theorem State.radishStep7_only  (h : Only l a s) (e : [.regs, .engines, .place, .safety].all l.contains = true) : Only l a (State.radishStep7 s) := by
  refine h.step ?_ e
  clear h e
  unfold State.radishStep7
  try dsimp only
  with_reducible repeat' first | exact Only.refl _ _ | assumption | (intro _; intros; try beta_reduce) | split | apply State.issueRadish_only | apply State.bump_only | decide | apply Only.foldl

theorem State.frameStep7_only {x1} (h : Only l a s) (e : [.regs, .engines, .solver, .slot, .place, .safety, .host, .out].all l.contains = true) : Only l a (State.frameStep7 s x1) := by
  refine h.step ?_ e
  clear h e
  unfold State.frameStep7
  try dsimp only
  with_reducible repeat' first | exact Only.refl _ _ | assumption | split | apply State.armFrame_only | apply State.nextGroup_only | apply State.startSlow_only | apply State.startFast_only | apply State.radishStep7_only | decide

theorem State.frameSteps_only {x1} (h : Only l a s) (e : [.regs, .tl, .store, .com, .engines, .descs, .movers, .data, .solver, .live, .old, .liveBeat, .slot, .place, .mem, .peers, .safety, .host, .power, .keeper, .out].all l.contains = true) : Only l a (State.frameSteps s x1) := by
  refine h.step ?_ e
  clear h e
  unfold State.frameSteps
  try dsimp only
  with_reducible repeat' first | exact Only.refl _ _ | assumption | split | apply State.frameStep1_only | (apply State.frameStep1_only'; rotate_left; decide; assumption) | apply State.frameStep2_only | apply State.frameStep3_only | apply State.frameStep5_only | apply State.frameStep4_only | apply State.frameStep7_only | apply State.frameStep6_only | decide

theorem State.freshBeat_only  (h : Only l a s) (e : [.store, .com].all l.contains = true) : Only l a (State.freshBeat s) := by
  refine h.step ?_ e
  clear h e
  unfold State.freshBeat
  try dsimp only
  with_reducible repeat' first | exact Only.refl _ _ | assumption | split | apply State.onStore_only | apply State.onCom_only | decide

theorem State.fwWrite_only {x1} (h : Only l a s) (e : [.regs, .host, .boot, .flash, .out].all l.contains = true) : Only l a (State.fwWrite s x1) := by
  refine h.step ?_ e
  clear h e
  unfold State.fwWrite
  try dsimp only
  with_reducible repeat' first | exact Only.refl _ _ | assumption | split | apply State.reply_only | decide | fail_if_no_progress (apply Only.mk; rotate_left; (intro c hc; cases c <;> first | exact absurd hc (by decide) | exact trivial | exact rfl))

theorem State.groupFault_only {x1 x2} (h : Only l a s) (e : [.regs, .engines, .slot, .place, .mem, .safety, .host, .keeper, .out, .free].all l.contains = true) : Only l a (State.groupFault s x1 x2) := by
  refine h.step ?_ e
  clear h e
  unfold State.groupFault
  try dsimp only
  with_reducible repeat' first | exact Only.refl _ _ | assumption | split | apply State.onSram_only | apply State.raise_only | apply State.declare_only | apply State.bump64_only | apply State.took_only | apply State.engPermanent_only | decide | fail_if_no_progress (apply Only.mk; rotate_left; (intro c hc; cases c <;> first | exact absurd hc (by decide) | exact trivial | exact rfl))

theorem State.groupEvent_only {x1 x2} (h : Only l a s) (e : [.regs, .engines, .slot, .place, .mem, .safety, .host, .keeper, .out, .free].all l.contains = true) : Only l a (State.groupEvent s x1 x2) := by
  refine h.step ?_ e
  clear h e
  unfold State.groupEvent
  try dsimp only
  with_reducible repeat' first | exact Only.refl _ _ | assumption | split | apply State.onSram_only | apply State.logRec_only | apply State.groupFault_only | decide

theorem State.leaveUp_only {x1 x2} (h : Only l a s) (e : [.regs, .tl, .com, .peers, .host, .out].all l.contains = true) : Only l a (State.leaveUp s x1 x2) := by
  refine h.step ?_ e
  clear h e
  unfold State.leaveUp
  try dsimp only
  with_reducible repeat' first | exact Only.refl _ _ | assumption | (intro _; intros; try beta_reduce) | split | apply State.onPeer_only | apply State.raise_only | apply State.onTl_only | apply State.destOff_only | apply State.bump_only | apply State.onPeers_only | decide | apply Only.foldl

theorem State.refuseNb_only {x1 x2 x3} (h : Only l a s) (e : [.regs, .tl, .com, .peers, .safety, .host, .out].all l.contains = true) : Only l a (State.refuseNb s x1 x2 x3) := by
  refine h.step ?_ e
  clear h e
  unfold State.refuseNb
  try dsimp only
  with_reducible repeat' first | exact Only.refl _ _ | assumption | apply State.leaveUp_only | apply State.noteNb_only | apply State.raise_only | apply State.logRec_only | apply State.onPeer_only | decide

theorem State.judgeHello_only {x1 x2} (h : Only l a s) (e : [.regs, .tl, .com, .peers, .safety, .host, .out].all l.contains = true) : Only l a (State.judgeHello s x1 x2) := by
  refine h.step ?_ e
  clear h e
  unfold State.judgeHello
  try dsimp only
  with_reducible repeat' first | exact Only.refl _ _ | assumption | split | apply State.acceptNb_only | apply State.refuseNb_only | decide

theorem State.hello_only {x1 x2} (h : Only l a s) (e : [.regs, .tl, .com, .peers, .safety, .host, .out].all l.contains = true) : Only l a (State.hello s x1 x2) := by
  refine h.step ?_ e
  clear h e
  unfold State.hello
  try dsimp only
  with_reducible repeat' first | exact Only.refl _ _ | assumption | split | apply State.judgeHello_only | apply State.onPeer_only | decide

theorem State.onTaken_only {x1 x2 x3} (h : Only l a s) (e : [.host].all l.contains = true) : Only l a (State.onTaken s x1 x2 x3) := by
  refine h.step ?_ e
  clear h e
  unfold State.onTaken
  try dsimp only
  with_reducible repeat' first | exact Only.refl _ _ | assumption | split | apply State.onFn_only | decide

theorem State.hostMoveItem_only {x1 x2 x3} (h : Only l a s) (e : [.regs, .movers, .host, .hostMem, .out].all l.contains = true) : Only l a (State.hostMoveItem s x1 x2 x3) := by
  refine h.step ?_ e
  clear h e
  unfold State.hostMoveItem
  try dsimp only
  with_reducible repeat' first | exact Only.refl _ _ | assumption | split | apply State.complete_only | apply State.onMover_only | apply State.onTaken_only | decide

theorem State.inReset_only  (h : Only l a s) (e : [.regs, .shadows, .held, .wo, .resetN, .tl, .roots, .ports, .fdb, .ing, .store, .com, .engines, .descs, .movers, .data, .solver, .live, .old, .liveBeat, .slot, .place, .mem, .peers, .safety, .host, .boot, .power].all l.contains = true) : Only l a (State.inReset s) := by
  refine h.step ?_ e
  clear h e
  unfold State.inReset
  try dsimp only
  with_reducible repeat' first | exact Only.refl _ _ | assumption | decide | fail_if_no_progress (apply Only.mk; rotate_left; (intro c hc; cases c <;> first | exact absurd hc (by decide) | exact trivial | exact rfl))

theorem State.xlateFault_only {x1 x2 x3} (h : Only l a s) (e : [.regs, .movers, .host, .out].all l.contains = true) : Only l a (State.xlateFault s x1 x2 x3) := by
  refine h.step ?_ e
  clear h e
  unfold State.xlateFault
  try dsimp only
  with_reducible repeat' first | exact Only.refl _ _ | assumption | split | apply State.xlateCapture_only | apply State.onMover_only | apply State.hqRaise_only | decide

theorem State.judgeAccess_only {x1 x2 x3 x4 x5} (h : Only l a s) (e : [.regs, .movers, .safety, .host, .out].all l.contains = true) : Only l a (State.judgeAccess s x1 x2 x3 x4 x5).1 := by
  refine h.step ?_ e
  clear h e
  unfold State.judgeAccess
  try dsimp only
  with_reducible repeat' first | exact Only.refl _ _ | assumption | split | apply State.xlateFault_only | apply State.deny_only | decide

theorem State.judgeAccess_only' {t : State} {x1 x2 x3 x4 x5} {r} (h : Only l a s) (e : [.regs, .movers, .safety, .host, .out].all l.contains = true) (q : State.judgeAccess s x1 x2 x3 x4 x5 = (t, r)) : Only l a t := by
  have k := State.judgeAccess_only h e (x1 := x1) (x2 := x2) (x3 := x3) (x4 := x4) (x5 := x5)
  rw [q] at k
  exact k

theorem State.readVia_only {x1 x2 x3 x4} (h : Only l a s) (e : [.regs, .movers, .safety, .host, .out].all l.contains = true) : Only l a (State.readVia s x1 x2 x3 x4).1 := by
  refine h.step ?_ e
  clear h e
  unfold State.readVia
  try dsimp only
  with_reducible repeat' first | exact Only.refl _ _ | assumption | split | apply State.judgeAccess_only | (apply State.judgeAccess_only'; rotate_left; decide; assumption) | decide

theorem State.readVia_only' {t : State} {x1 x2 x3 x4} {r} (h : Only l a s) (e : [.regs, .movers, .safety, .host, .out].all l.contains = true) (q : State.readVia s x1 x2 x3 x4 = (t, r)) : Only l a t := by
  have k := State.readVia_only h e (x1 := x1) (x2 := x2) (x3 := x3) (x4 := x4)
  rw [q] at k
  exact k

theorem State.readUnit_only {x1 x2 x3 x4} (h : Only l a s) (e : [.regs, .movers, .safety, .host, .out].all l.contains = true) : Only l a (State.readUnit s x1 x2 x3 x4).1 := by
  refine h.step ?_ e
  clear h e
  unfold State.readUnit
  try dsimp only
  with_reducible repeat' first | exact Only.refl _ _ | assumption | split | apply State.raise_only | apply State.bump64_only | apply State.bump_only | apply State.readVia_only | (apply State.readVia_only'; rotate_left; decide; assumption) | decide

theorem State.readUnit_only' {t : State} {x1 x2 x3 x4} {r} (h : Only l a s) (e : [.regs, .movers, .safety, .host, .out].all l.contains = true) (q : State.readUnit s x1 x2 x3 x4 = (t, r)) : Only l a t := by
  have k := State.readUnit_only h e (x1 := x1) (x2 := x2) (x3 := x3) (x4 := x4)
  rw [q] at k
  exact k

theorem State.indexAt_only {x1 x2 x3} (h : Only l a s) (e : [.regs, .movers, .safety, .host, .out].all l.contains = true) : Only l a (State.indexAt s x1 x2 x3).1 := by
  refine h.step ?_ e
  clear h e
  unfold State.indexAt
  try dsimp only
  with_reducible repeat' first | exact Only.refl _ _ | assumption | apply State.readUnit_only | (apply State.readUnit_only'; rotate_left; decide; assumption) | decide

theorem State.indexAt_only' {t : State} {x1 x2 x3} {r} (h : Only l a s) (e : [.regs, .movers, .safety, .host, .out].all l.contains = true) (q : State.indexAt s x1 x2 x3 = (t, r)) : Only l a t := by
  have k := State.indexAt_only h e (x1 := x1) (x2 := x2) (x3 := x3)
  rw [q] at k
  exact k

theorem State.jobCompletes_only {x1 x2} (h : Only l a s) (e : [.regs, .descs, .host, .hostMem, .out].all l.contains = true) : Only l a (State.jobCompletes s x1 x2) := by
  refine h.step ?_ e
  clear h e
  unfold State.jobCompletes
  try dsimp only
  with_reducible repeat' first | exact Only.refl _ _ | assumption | split | apply State.complete_only | decide | fail_if_no_progress (apply Only.mk; rotate_left; (intro c hc; cases c <;> first | exact absurd hc (by decide) | exact trivial | exact rfl))

theorem State.jumpOffset_only {x1} (h : Only l a s) (e : [.tl].all l.contains = true) : Only l a (State.jumpOffset s x1) := by
  refine h.step ?_ e
  clear h e
  unfold State.jumpOffset
  try dsimp only
  with_reducible repeat' first | exact Only.refl _ _ | assumption | apply State.onTl_only | decide

theorem State.laneBeat_only {x1 x2 x3} (h : Only l a s) (e : [.free].all l.contains = true) : Only l a (State.laneBeat s x1 x2 x3).1 := by
  refine h.step ?_ e
  clear h e
  unfold State.laneBeat
  try dsimp only
  with_reducible repeat' first | exact Only.refl _ _ | assumption | (intro _; intros; try beta_reduce) | split | apply State.took_only | decide | apply Only.foldl | apply Only.foldlP

theorem State.laneBeat_only' {t : State} {x1 x2 x3} {r} (h : Only l a s) (e : [.free].all l.contains = true) (q : State.laneBeat s x1 x2 x3 = (t, r)) : Only l a t := by
  have k := State.laneBeat_only h e (x1 := x1) (x2 := x2) (x3 := x3)
  rw [q] at k
  exact k

theorem State.linkDown_only {x1 x2} (h : Only l a s) (e : [.regs, .tl, .com, .peers, .host, .out].all l.contains = true) : Only l a (State.linkDown s x1 x2) := by
  refine h.step ?_ e
  clear h e
  unfold State.linkDown
  try dsimp only
  with_reducible repeat' first | exact Only.refl _ _ | assumption | split | apply State.raise_only | apply State.leaveUp_only | decide

theorem State.retirePort_only {x1} (h : Only l a s) (e : [.regs, .tl, .com, .peers, .host, .out].all l.contains = true) : Only l a (State.retirePort s x1) := by
  refine h.step ?_ e
  clear h e
  unfold State.retirePort
  try dsimp only
  with_reducible repeat' first | exact Only.refl _ _ | assumption | split | apply State.linkDown_only | apply State.raise_only | apply State.onPeer_only | decide

theorem State.retireLane_only {x1 x2} (h : Only l a s) (e : [.regs, .tl, .com, .peers, .safety, .host, .keeper, .out].all l.contains = true) : Only l a (State.retireLane s x1 x2) := by
  refine h.step ?_ e
  clear h e
  unfold State.retireLane
  try dsimp only
  with_reducible repeat' first | exact Only.refl _ _ | assumption | split | apply State.raise_only | apply State.declare_only | apply State.onPeer_only | apply State.sendLink_only | apply State.retirePort_only | decide

theorem State.laneEvent_only {x1 x2} (h : Only l a s) (e : [.regs, .tl, .com, .peers, .safety, .host, .keeper, .out].all l.contains = true) : Only l a (State.laneEvent s x1 x2) := by
  refine h.step ?_ e
  clear h e
  unfold State.laneEvent
  try dsimp only
  with_reducible repeat' first | exact Only.refl _ _ | assumption | split | apply State.onPeer_only | apply State.bump_only | apply State.logRec_only | apply State.retireLane_only | decide

theorem State.vecOp_only {x1 x2 x3} (h : Only l a s) (e : [.regs, .engines].all l.contains = true) : Only l a (State.vecOp s x1 x2 x3) := by
  refine h.step ?_ e
  clear h e
  unfold State.vecOp
  try dsimp only
  with_reducible repeat' first | exact Only.refl _ _ | assumption | split | apply State.bump64_only | apply State.slotOp_only | decide

theorem State.laneOp_only {x1 x2 x3 x4 x5 x6} (h : Only l a s) (e : [.regs, .engines].all l.contains = true) : Only l a (State.laneOp s x1 x2 x3 x4 x5 x6) := by
  refine h.step ?_ e
  clear h e
  unfold State.laneOp
  try dsimp only
  with_reducible repeat' first | exact Only.refl _ _ | assumption | apply State.vecOp_only | decide

theorem State.late_only {x1 x2 x3} (h : Only l a s) (e : [.regs, .safety, .host, .out].all l.contains = true) : Only l a (State.late s x1 x2 x3) := by
  refine h.step ?_ e
  clear h e
  unfold State.late
  try dsimp only
  with_reducible repeat' first | exact Only.refl _ _ | assumption | split | apply State.rset_only | apply State.logRec_only | apply State.bump_only | apply State.raise_only | decide

theorem State.learn_only {x1 x2} (h : Only l a s) (e : [.regs, .fdb, .host, .out].all l.contains = true) : Only l a (State.learn s x1 x2) := by
  refine h.step ?_ e
  clear h e
  unfold State.learn
  try dsimp only
  with_reducible repeat' first | exact Only.refl _ _ | assumption | split | apply State.raise_only | decide | fail_if_no_progress (apply Only.mk; rotate_left; (intro c hc; cases c <;> first | exact absurd hc (by decide) | exact trivial | exact rfl))

theorem State.stampTime_only {x1} (h : Only l a s) (e : [.regs, .host, .out].all l.contains = true) : Only l a (State.stampTime s x1).1 := by
  refine h.step ?_ e
  clear h e
  unfold State.stampTime
  try dsimp only
  with_reducible repeat' first | exact Only.refl _ _ | assumption | split | apply State.raise_only | apply State.bump_only | decide

theorem State.stampTime_only' {t : State} {x1} {r} (h : Only l a s) (e : [.regs, .host, .out].all l.contains = true) (q : State.stampTime s x1 = (t, r)) : Only l a t := by
  have k := State.stampTime_only h e (x1 := x1)
  rw [q] at k
  exact k

theorem State.leave_only {x1 x2 x3} (h : Only l a s) (e : [.regs, .tl, .ports, .host, .out].all l.contains = true) : Only l a (State.leave s x1 x2 x3).1 := by
  refine h.step ?_ e
  clear h e
  unfold State.leave
  try dsimp only
  with_reducible repeat' first | exact Only.refl _ _ | assumption | split | apply State.stampTime_only | (apply State.stampTime_only'; rotate_left; decide; assumption) | apply State.bump_only | apply State.onPtp_only | apply State.onPort_only | decide

theorem State.leave_only' {t : State} {x1 x2 x3} {r} (h : Only l a s) (e : [.regs, .tl, .ports, .host, .out].all l.contains = true) (q : State.leave s x1 x2 x3 = (t, r)) : Only l a t := by
  have k := State.leave_only h e (x1 := x1) (x2 := x2) (x3 := x3)
  rw [q] at k
  exact k

theorem State.stall_only {x1 x2} (h : Only l a s) (e : [.regs].all l.contains = true) : Only l a (State.stall s x1 x2) := by
  refine h.step ?_ e
  clear h e
  unfold State.stall
  try dsimp only
  with_reducible repeat' first | exact Only.refl _ _ | assumption | split | apply State.bump64_only | decide

theorem State.loadOp_only {x1 x2 x3 x4 x5} (h : Only l a s) (e : [.regs, .engines].all l.contains = true) : Only l a (State.loadOp s x1 x2 x3 x4 x5) := by
  refine h.step ?_ e
  clear h e
  unfold State.loadOp
  try dsimp only
  with_reducible repeat' first | exact Only.refl _ _ | assumption | split | apply State.slotOp_only | apply State.bump_only | apply State.onEngine_only | apply State.stall_only | decide

theorem State.loadSlotCmd_only  (h : Only l a s) (e : [.regs, .slot, .host, .out].all l.contains = true) : Only l a (State.loadSlotCmd s) := by
  refine h.step ?_ e
  clear h e
  unfold State.loadSlotCmd
  try dsimp only
  with_reducible repeat' first | exact Only.refl _ _ | assumption | split | apply State.raise_only | apply State.bump_only | apply State.onSlot_only | decide

theorem State.setLock_only {x1} (h : Only l a s) (e : [.regs].all l.contains = true) : Only l a (State.setLock s x1) := by
  refine h.step ?_ e
  clear h e
  unfold State.setLock
  try dsimp only
  with_reducible repeat' first | exact Only.refl _ _ | assumption | split | apply State.rput_only | decide

theorem State.lockEvery_only  (h : Only l a s) (e : [.regs].all l.contains = true) : Only l a (State.lockEvery s) := by
  refine h.step ?_ e
  clear h e
  unfold State.lockEvery
  try dsimp only
  with_reducible repeat' first | exact Only.refl _ _ | assumption | (intro _; intros; try beta_reduce) | apply State.setLock_only | decide | apply Only.foldl

theorem State.logAccess_only {x1 x2} (h : Only l a s) (e : [.regs, .safety].all l.contains = true) : Only l a (State.logAccess s x1 x2) := by
  refine h.step ?_ e
  clear h e
  unfold State.logAccess
  try dsimp only
  with_reducible repeat' first | exact Only.refl _ _ | assumption | apply State.logRec_only | apply State.bump_only | decide

theorem State.macOp_only {x1 x2 x3 x4 x5 x6 x7} (h : Only l a s) (e : [.regs, .engines].all l.contains = true) : Only l a (State.macOp s x1 x2 x3 x4 x5 x6 x7) := by
  refine h.step ?_ e
  clear h e
  unfold State.macOp
  try dsimp only
  with_reducible repeat' first | exact Only.refl _ _ | assumption | split | apply State.slotOp_only | apply State.onEngine_only | apply State.bump64_only | decide

theorem State.markCandidates_only {x1 x2} (h : Only l a s) (e : [.store].all l.contains = true) : Only l a (State.markCandidates s x1 x2) := by
  refine h.step ?_ e
  clear h e
  unfold State.markCandidates
  try dsimp only
  with_reducible repeat' first | exact Only.refl _ _ | assumption | split | apply State.onStore_only | decide

theorem State.placeWrite_only {x1 x2 x3} (h : Only l a s) (e : [.engines, .data, .hostMem].all l.contains = true) : Only l a (State.placeWrite s x1 x2 x3) := by
  refine h.step ?_ e
  clear h e
  unfold State.placeWrite
  try dsimp only
  with_reducible repeat' first | exact Only.refl _ _ | assumption | split | apply State.onEngine_only | apply State.dwrite_only | apply State.hwrite_only | decide

theorem State.writeVia_only {x1 x2 x3 x4} (h : Only l a s) (e : [.regs, .engines, .movers, .data, .safety, .host, .hostMem, .out].all l.contains = true) : Only l a (State.writeVia s x1 x2 x3 x4) := by
  refine h.step ?_ e
  clear h e
  unfold State.writeVia
  try dsimp only
  with_reducible repeat' first | exact Only.refl _ _ | assumption | split | apply State.judgeAccess_only | (apply State.judgeAccess_only'; rotate_left; decide; assumption) | apply State.placeWrite_only | decide

theorem State.moverWrite_only {x1 x2 x3 x4 x5} (h : Only l a s) (e : [.regs, .engines, .movers, .data, .safety, .host, .hostMem, .out].all l.contains = true) : Only l a (State.moverWrite s x1 x2 x3 x4 x5) := by
  refine h.step ?_ e
  clear h e
  unfold State.moverWrite
  try dsimp only
  with_reducible repeat' first | exact Only.refl _ _ | assumption | (intro _; intros; try beta_reduce) | split | apply State.writeVia_only | apply State.onEngine_only | decide | apply Only.foldl

theorem State.markTile_only {x1 x2 x3 x4 x5} (h : Only l a s) (e : [.regs, .engines, .movers, .data, .safety, .host, .hostMem, .out].all l.contains = true) : Only l a (State.markTile s x1 x2 x3 x4 x5) := by
  refine h.step ?_ e
  clear h e
  unfold State.markTile
  try dsimp only
  with_reducible repeat' first | exact Only.refl _ _ | assumption | split | apply State.moverWrite_only | decide

theorem State.runLocks_only {x1 x2} (h : Only l a s) (e : [.regs, .tl, .host, .out].all l.contains = true) : Only l a (State.runLocks s x1 x2) := by
  refine h.step ?_ e
  clear h e
  unfold State.runLocks
  try dsimp only
  with_reducible repeat' first | exact Only.refl _ _ | assumption | split | apply State.onTl_only | apply State.raise_only | apply State.bump_only | decide

theorem State.pendStep_only {x1 x2 x3 x4} (h : Only l a s) (e : [.tl].all l.contains = true) : Only l a (State.pendStep s x1 x2 x3 x4) := by
  refine h.step ?_ e
  clear h e
  unfold State.pendStep
  try dsimp only
  with_reducible repeat' first | exact Only.refl _ _ | assumption | apply State.onTl_only | decide

theorem State.scheduleStep_only {x1} (h : Only l a s) (e : [.tl, .keeper].all l.contains = true) : Only l a (State.scheduleStep s x1) := by
  refine h.step ?_ e
  clear h e
  unfold State.scheduleStep
  try dsimp only
  with_reducible repeat' first | exact Only.refl _ _ | assumption | split | apply State.newEpoch_only | (apply State.newEpoch_only'; rotate_left; decide; assumption) | apply State.pendStep_only | decide

theorem State.outlier_only {x1} (h : Only l a s) (e : [.regs, .tl, .host, .keeper, .out].all l.contains = true) : Only l a (State.outlier s x1) := by
  refine h.step ?_ e
  clear h e
  unfold State.outlier
  try dsimp only
  with_reducible repeat' first | exact Only.refl _ _ | assumption | split | apply State.raise_only | apply State.bump_only | apply State.onTl_only | apply State.jumpOffset_only | apply State.scheduleStep_only | decide

theorem State.steer_only {x1} (h : Only l a s) (e : [.tl].all l.contains = true) : Only l a (State.steer s x1) := by
  refine h.step ?_ e
  clear h e
  unfold State.steer
  try dsimp only
  with_reducible repeat' first | exact Only.refl _ _ | assumption | apply State.onTl_only | decide

theorem State.measure_only {x1} (h : Only l a s) (e : [.regs, .tl, .host, .keeper, .out].all l.contains = true) : Only l a (State.measure s x1) := by
  refine h.step ?_ e
  clear h e
  unfold State.measure
  try dsimp only
  with_reducible repeat' first | exact Only.refl _ _ | assumption | split | apply State.setPair_only | apply State.runLocks_only | apply State.outlier_only | apply State.onTl_only | apply State.bump_only | apply State.steer_only | decide

theorem State.mergeNode_only {x1} (h : Only l a s) (e : [.regs, .store, .com, .peers, .host, .out].all l.contains = true) : Only l a (State.mergeNode s x1) := by
  refine h.step ?_ e
  clear h e
  unfold State.mergeNode
  try dsimp only
  with_reducible repeat' first | exact Only.refl _ _ | assumption | (intro _; intros; try beta_reduce) | split | apply State.refuseFull_only | apply State.onStore_only | apply State.mergeStop_only | apply State.logDelta_only | apply State.bump_only | decide | apply Only.foldl | fail_if_no_progress (apply Only.mk; rotate_left; (intro c hc; cases c <;> first | exact absurd hc (by decide) | exact trivial | exact rfl))

theorem State.mirrorDrop_only  (h : Only l a s) (e : [.regs, .peers].all l.contains = true) : Only l a (State.mirrorDrop s) := by
  refine h.step ?_ e
  clear h e
  unfold State.mirrorDrop
  try dsimp only
  with_reducible repeat' first | exact Only.refl _ _ | assumption | apply State.onPeers_only | apply State.bump_only | decide

theorem State.onMirror_only {x1} (h : Only l a s) (e : [.peers].all l.contains = true) : Only l a (State.onMirror s x1) := by
  refine h.step ?_ e
  clear h e
  unfold State.onMirror
  try dsimp only
  with_reducible repeat' first | exact Only.refl _ _ | assumption | apply State.onPeers_only | decide

theorem State.mirrorEntry_only {x1} (h : Only l a s) (e : [.regs, .peers].all l.contains = true) : Only l a (State.mirrorEntry s x1) := by
  refine h.step ?_ e
  clear h e
  unfold State.mirrorEntry
  try dsimp only
  with_reducible repeat' first | exact Only.refl _ _ | assumption | split | apply State.onMirror_only | apply State.mirrorDrop_only | decide

theorem State.mirrorFrom_only {x1 x2} (h : Only l a s) (e : [.regs, .peers].all l.contains = true) : Only l a (State.mirrorFrom s x1 x2) := by
  refine h.step ?_ e
  clear h e
  unfold State.mirrorFrom
  try dsimp only
  with_reducible repeat' first | exact Only.refl _ _ | assumption | (intro _; intros; try beta_reduce) | split | apply State.onMirror_only | apply State.mirrorEntry_only | decide | apply Only.foldl

theorem State.missAt_only {x1} (h : Only l a s) (e : [.regs, .com, .safety, .host, .out].all l.contains = true) : Only l a (State.missAt s x1) := by
  refine h.step ?_ e
  clear h e
  unfold State.missAt
  try dsimp only
  with_reducible repeat' first | exact Only.refl _ _ | assumption | (intro _; intros; try beta_reduce) | split | apply State.bump_only | apply State.onDest_only | apply State.error_only | apply State.raise_only | decide | apply Only.foldl | apply Only.foldlP

theorem State.rejournal_only {x1 x2 x3} (h : Only l a s) (e : [.com].all l.contains = true) : Only l a (State.rejournal s x1 x2 x3) := by
  refine h.step ?_ e
  clear h e
  unfold State.rejournal
  try dsimp only
  with_reducible repeat' first | exact Only.refl _ _ | assumption | split | apply State.onCom_only | decide

theorem State.movePea_only {x1 x2 x3 x4 x5} (h : Only l a s) (e : [.regs, .store, .com, .host, .out, .free].all l.contains = true) : Only l a (State.movePea s x1 x2 x3 x4 x5) := by
  refine h.step ?_ e
  clear h e
  unfold State.movePea
  try dsimp only
  with_reducible repeat' first | exact Only.refl _ _ | assumption | split | apply State.abandonCandidate_only | apply State.refuseFull_only | apply State.placeFor_only | (apply State.placeFor_only'; rotate_left; decide; assumption) | apply State.podRefused_only | apply State.hitOf_only | (apply State.hitOf_only'; rotate_left; decide; assumption) | apply State.dropPea_only | apply State.writeHit_only | apply State.bump_only | apply State.keepPea_only | (apply State.keepPea_only'; rotate_left; decide; assumption) | apply State.rejournal_only | decide

theorem State.writeLocal_only {x1 x2 x3 x4 x5 x6} (h : Only l a s) (e : [.regs, .engines, .movers, .data, .safety, .host, .hostMem, .out].all l.contains = true) : Only l a (State.writeLocal s x1 x2 x3 x4 x5 x6) := by
  refine h.step ?_ e
  clear h e
  unfold State.writeLocal
  try dsimp only
  with_reducible repeat' first | exact Only.refl _ _ | assumption | split | apply State.moverWrite_only | apply State.markTile_only | apply State.raise_only | apply State.bump_only | decide

theorem State.sendWrite_only {x1 x2} (h : Only l a s) (e : [.regs, .peers, .host, .out].all l.contains = true) : Only l a (State.sendWrite s x1 x2).1 := by
  refine h.step ?_ e
  clear h e
  unfold State.sendWrite
  try dsimp only
  with_reducible repeat' first | exact Only.refl _ _ | assumption | split | apply State.queueFlits_only | apply State.raise_only | apply State.bump_only | decide

theorem State.sendWrite_only' {t : State} {x1 x2} {r} (h : Only l a s) (e : [.regs, .peers, .host, .out].all l.contains = true) (q : State.sendWrite s x1 x2 = (t, r)) : Only l a t := by
  have k := State.sendWrite_only h e (x1 := x1) (x2 := x2)
  rw [q] at k
  exact k

theorem State.opFault_only {x1} (h : Only l a s) (e : [.movers].all l.contains = true) : Only l a (State.opFault s x1) := by
  refine h.step ?_ e
  clear h e
  unfold State.opFault
  try dsimp only
  with_reducible repeat' first | exact Only.refl _ _ | assumption | apply State.onMover_only | decide

theorem State.writeUnit_only {x1 x2 x3 x4 x5 x6 x7} (h : Only l a s) (e : [.regs, .engines, .movers, .data, .peers, .safety, .host, .hostMem, .out].all l.contains = true) : Only l a (State.writeUnit s x1 x2 x3 x4 x5 x6 x7) := by
  refine h.step ?_ e
  clear h e
  unfold State.writeUnit
  try dsimp only
  with_reducible repeat' first | exact Only.refl _ _ | assumption | (intro _; intros; try beta_reduce) | split | apply State.raise_only | apply State.bump64_only | apply State.markTile_only | apply State.writeLocal_only | apply State.sendWrite_only | (apply State.sendWrite_only'; rotate_left; decide; assumption) | apply State.opFault_only | decide | apply Only.foldl | apply Only.foldlP

theorem State.moveUnit_only {x1 x2 x3 x4 x5 x6 x7} (h : Only l a s) (e : [.regs, .engines, .movers, .data, .peers, .safety, .host, .hostMem, .out].all l.contains = true) : Only l a (State.moveUnit s x1 x2 x3 x4 x5 x6 x7) := by
  refine h.step ?_ e
  clear h e
  unfold State.moveUnit
  try dsimp only
  with_reducible repeat' first | exact Only.refl _ _ | assumption | split | apply State.readUnit_only | (apply State.readUnit_only'; rotate_left; decide; assumption) | apply State.convert_only | (apply State.convert_only'; rotate_left; decide; assumption) | apply State.writeUnit_only | decide

theorem State.noteMoved_only {x1 x2 x3} (h : Only l a s) (e : [.regs, .movers, .free].all l.contains = true) : Only l a (State.noteMoved s x1 x2 x3) := by
  refine h.step ?_ e
  clear h e
  unfold State.noteMoved
  try dsimp only
  with_reducible repeat' first | exact Only.refl _ _ | assumption | split | apply State.onMover_only | apply State.bump64_only | apply State.took_only | decide

theorem State.noteShadows_only {x1} (h : Only l a s) (e : [.regs].all l.contains = true) : Only l a (State.noteShadows s x1) := by
  refine h.step ?_ e
  clear h e
  unfold State.noteShadows
  try dsimp only
  with_reducible repeat' first | exact Only.refl _ _ | assumption | split | apply State.bump_only | decide

theorem State.moverCopy_only {x1} (h : Only l a s) (e : [.regs, .engines, .movers, .data, .peers, .safety, .host, .hostMem, .out, .free].all l.contains = true) : Only l a (State.moverCopy s x1) := by
  refine h.step ?_ e
  clear h e
  unfold State.moverCopy
  try dsimp only
  with_reducible repeat' first | exact Only.refl _ _ | assumption | (intro _; intros; try beta_reduce) | split | apply State.moveUnit_only | apply State.noteMoved_only | apply State.noteShadows_only | decide | apply Only.foldl

theorem State.passRecords_only {x1 x2 x3 x4 x5 x6} (h : Only l a s) (e : [.regs].all l.contains = true) : Only l a (State.passRecords s x1 x2 x3 x4 x5 x6).1 := by
  refine h.step ?_ e
  clear h e
  unfold State.passRecords
  try dsimp only
  with_reducible repeat' first | exact Only.refl _ _ | assumption | split | apply State.bump_only | decide

theorem State.passRecords_only' {t : State} {x1 x2 x3 x4 x5 x6} {r} (h : Only l a s) (e : [.regs].all l.contains = true) (q : State.passRecords s x1 x2 x3 x4 x5 x6 = (t, r)) : Only l a t := by
  have k := State.passRecords_only h e (x1 := x1) (x2 := x2) (x3 := x3) (x4 := x4) (x5 := x5) (x6 := x6)
  rw [q] at k
  exact k

theorem State.takeBatch_only {x1} (h : Only l a s) (e : [.regs, .com, .host, .out].all l.contains = true) : Only l a (State.takeBatch s x1) := by
  refine h.step ?_ e
  clear h e
  unfold State.takeBatch
  try dsimp only
  with_reducible repeat' first | exact Only.refl _ _ | assumption | split | apply State.raise_only | apply State.bump_only | apply State.onCom_only | decide

theorem State.moverDeliver_only {x1} (h : Only l a s) (e : [.regs, .com, .movers, .safety, .host, .out, .free].all l.contains = true) : Only l a (State.moverDeliver s x1) := by
  refine h.step ?_ e
  clear h e
  unfold State.moverDeliver
  try dsimp only
  with_reducible repeat' first | exact Only.refl _ _ | assumption | (intro _; intros; try beta_reduce) | split | apply State.readUnit_only | (apply State.readUnit_only'; rotate_left; decide; assumption) | apply State.noteMoved_only | apply State.passRecords_only | (apply State.passRecords_only'; rotate_left; decide; assumption) | apply State.takeBatch_only | decide | apply Only.foldl | apply Only.foldlP

theorem State.moverFill_only {x1} (h : Only l a s) (e : [.regs, .engines, .movers, .data, .peers, .safety, .host, .hostMem, .out, .free].all l.contains = true) : Only l a (State.moverFill s x1) := by
  refine h.step ?_ e
  clear h e
  unfold State.moverFill
  try dsimp only
  with_reducible repeat' first | exact Only.refl _ _ | assumption | (intro _; intros; try beta_reduce) | split | apply State.writeUnit_only | apply State.noteMoved_only | apply State.noteShadows_only | decide | apply Only.foldl

theorem State.moverGather_only {x1} (h : Only l a s) (e : [.regs, .engines, .movers, .data, .peers, .safety, .host, .hostMem, .out, .free].all l.contains = true) : Only l a (State.moverGather s x1) := by
  refine h.step ?_ e
  clear h e
  unfold State.moverGather
  try dsimp only
  with_reducible repeat' first | exact Only.refl _ _ | assumption | (intro _; intros; try beta_reduce) | split | apply State.indexAt_only | (apply State.indexAt_only'; rotate_left; decide; assumption) | apply State.onMover_only | apply State.bump64_only | apply State.moveUnit_only | apply State.raise_only | apply State.bump_only | apply State.convert_only | (apply State.convert_only'; rotate_left; decide; assumption) | apply State.writeUnit_only | apply State.noteMoved_only | apply State.noteShadows_only | decide | apply Only.foldl

theorem State.moverScatter_only {x1} (h : Only l a s) (e : [.regs, .engines, .movers, .data, .peers, .safety, .host, .hostMem, .out, .free].all l.contains = true) : Only l a (State.moverScatter s x1) := by
  refine h.step ?_ e
  clear h e
  unfold State.moverScatter
  try dsimp only
  with_reducible repeat' first | exact Only.refl _ _ | assumption | (intro _; intros; try beta_reduce) | split | apply State.indexAt_only | (apply State.indexAt_only'; rotate_left; decide; assumption) | apply State.moveUnit_only | apply State.raise_only | apply State.bump_only | apply State.noteMoved_only | apply State.noteShadows_only | decide | apply Only.foldl

theorem State.noteEnd_only {x1} (h : Only l a s) (e : [.regs, .peers].all l.contains = true) : Only l a (State.noteEnd s x1) := by
  refine h.step ?_ e
  clear h e
  unfold State.noteEnd
  try dsimp only
  with_reducible repeat' first | exact Only.refl _ _ | assumption | split | apply State.rmax_only | apply State.onPeers_only | decide

theorem State.noteFlit_only {x1 x2} (h : Only l a s) (e : [.regs].all l.contains = true) : Only l a (State.noteFlit s x1 x2) := by
  refine h.step ?_ e
  clear h e
  unfold State.noteFlit
  try dsimp only
  with_reducible repeat' first | exact Only.refl _ _ | assumption | split | apply State.bump_only | apply State.bump64_only | decide

theorem State.offerPea_only {x1 x2} (h : Only l a s) (hF : [.regs, .ing, .host, .out].all l.contains = true) (h2 : ∀ y0, Only l a y0 → Only l a (x2 y0)) : Only l a (State.offerPea s x1 x2) := by
  unfold State.offerPea
  try dsimp only
  with_reducible repeat' first | exact Only.refl _ _ | assumption | split | apply State.bump_only | apply State.onIng_only | apply State.raise_only | apply h2 | exact Only.sub_trans (by decide) hF

theorem State.opRefused_only  (h : Only l a s) (e : [.regs, .host, .out].all l.contains = true) : Only l a (State.opRefused s) := by
  refine h.step ?_ e
  clear h e
  unfold State.opRefused
  try dsimp only
  with_reducible repeat' first | exact Only.refl _ _ | assumption | apply State.raise_only | apply State.bump_only | decide

theorem State.queueSlot_only  (h : Only l a s) (e : [.com].all l.contains = true) : Only l a (State.queueSlot s) := by
  refine h.step ?_ e
  clear h e
  unfold State.queueSlot
  try dsimp only
  with_reducible repeat' first | exact Only.refl _ _ | assumption | (intro _; intros; try beta_reduce) | apply State.onCom_only | apply State.queueAll_only | decide | apply Only.foldl

theorem State.openFrame_only  (h : Only l a s) (e : [.com, .engines, .solver, .peers, .safety].all l.contains = true) : Only l a (State.openFrame s) := by
  refine h.step ?_ e
  clear h e
  unfold State.openFrame
  try dsimp only
  with_reducible repeat' first | exact Only.refl _ _ | assumption | apply State.queueSlot_only | apply State.onSafety_only | apply State.onSolver_only | apply State.onPeers_only | decide | fail_if_no_progress (apply Only.mk; rotate_left; (intro c hc; cases c <;> first | exact absurd hc (by decide) | exact trivial | exact rfl))

theorem State.parse_only {x1 x2} (h : Only l a s) (e : [.regs, .ing, .host, .out].all l.contains = true) : Only l a (State.parse s x1 x2) := by
  refine h.step ?_ e
  clear h e
  unfold State.parse
  try dsimp only
  with_reducible repeat' first | exact Only.refl _ _ | assumption | split | apply State.abandon_only | apply State.onMachine_only | decide

theorem State.restoreTrack_only {x1} (h : Only l a s) (e : [.store].all l.contains = true) : Only l a (State.restoreTrack s x1) := by
  refine h.step ?_ e
  clear h e
  unfold State.restoreTrack
  try dsimp only
  with_reducible repeat' first | exact Only.refl _ _ | assumption | apply State.publishVersion_only | decide

theorem State.restoreTracks_only  (h : Only l a s) (e : [.regs, .store, .host, .power, .out].all l.contains = true) : Only l a (State.restoreTracks s) := by
  refine h.step ?_ e
  clear h e
  unfold State.restoreTracks
  try dsimp only
  with_reducible repeat' first | exact Only.refl _ _ | assumption | (intro _; intros; try beta_reduce) | split | apply State.restoreTrack_only | apply State.onPower_only | apply State.raise_only | apply State.rput_only | decide | apply Only.foldl

theorem State.sendHeld_only {x1 x2} (h : Only l a s) (e : [.regs, .peers, .out].all l.contains = true) : Only l a (State.sendHeld s x1 x2) := by
  refine h.step ?_ e
  clear h e
  unfold State.sendHeld
  try dsimp only
  with_reducible repeat' first | exact Only.refl _ _ | assumption | split | apply State.bump64_only | apply State.send_only | apply State.onPeer_only | decide

theorem State.sendNext_only {x1} (h : Only l a s) (e : [.regs, .peers, .out].all l.contains = true) : Only l a (State.sendNext s x1) := by
  refine h.step ?_ e
  clear h e
  unfold State.sendNext
  try dsimp only
  with_reducible repeat' first | exact Only.refl _ _ | assumption | (intro _; intros; try beta_reduce) | split | apply State.onPeer_only | apply State.noteEnd_only | apply State.sendHeld_only | decide | apply Only.foldl

theorem State.pumpPort_only {p n} (h : Only l a s) (e : [Component.regs, .peers, .out].all l.contains = true) : Only l a (s.pumpPort p n) := by
  induction n generalizing s with
  | zero => exact h
  | succ n ih =>
    unfold State.pumpPort
    dsimp only
    split
    · exact ih (State.sendNext_only h e)
    · exact h

theorem State.pumpPeers_only {x1} (h : Only l a s) (e : [.regs, .peers, .out].all l.contains = true) : Only l a (State.pumpPeers s x1) := by
  refine h.step ?_ e
  clear h e
  unfold State.pumpPeers
  try dsimp only
  with_reducible repeat' first | exact Only.refl _ _ | assumption | (intro _; intros; try beta_reduce) | apply State.pumpPort_only | decide | apply Only.foldl

theorem State.ringBeat_only  (h : Only l a s) (e : [.host].all l.contains = true) : Only l a (State.ringBeat s) := by
  refine h.step ?_ e
  clear h e
  unfold State.ringBeat
  try dsimp only
  with_reducible repeat' first | exact Only.refl _ _ | assumption | split | apply State.onHost_only | decide

theorem State.trackBeat_only  (h : Only l a s) (e : [.store].all l.contains = true) : Only l a (State.trackBeat s) := by
  refine h.step ?_ e
  clear h e
  unfold State.trackBeat
  try dsimp only
  with_reducible repeat' first | exact Only.refl _ _ | assumption | (intro _; intros; try beta_reduce) | split | apply State.onStore_only | decide | apply Only.foldl | apply Only.foldlP

theorem State.unitsBeat_only  (h : Only l a s) (e : [.regs, .ing, .store, .com, .peers, .safety, .host, .power, .hostMem, .out].all l.contains = true) : Only l a (State.unitsBeat s) := by
  refine h.step ?_ e
  clear h e
  unfold State.unitsBeat
  try dsimp only
  with_reducible repeat' first | exact Only.refl _ _ | assumption | apply State.alertBeat_only | apply State.restoreTracks_only | apply State.pumpPeers_only | apply State.dumpBeat_only | apply State.ringBeat_only | apply State.trackBeat_only | apply State.budgetBeat_only | apply State.freshBeat_only | decide

theorem State.passBeat_only  (h : Only l a s) (e : [.regs, .tl, .ing, .store, .com, .peers, .safety, .host, .power, .hostMem, .out].all l.contains = true) : Only l a (State.passBeat s) := by
  refine h.step ?_ e
  clear h e
  unfold State.passBeat
  try dsimp only
  with_reducible repeat' first | exact Only.refl _ _ | assumption | split | apply State.formCommits_only | apply State.advanceBeat_only | apply State.queueSlot_only | apply State.evalSafety_only | apply State.unitsBeat_only | decide

theorem State.senseFrame_only {x1} (h : Only l a s) (e : [.regs, .mem, .host, .power, .out].all l.contains = true) : Only l a (State.senseFrame s x1) := by
  refine h.step ?_ e
  clear h e
  unfold State.senseFrame
  try dsimp only
  with_reducible repeat' first | exact Only.refl _ _ | assumption | split | apply State.onPower_only | apply State.onMem_only | apply State.raise_only | decide

theorem State.passFrame_only {x1} (h : Only l a s) (e : [.regs, .tl, .store, .com, .engines, .descs, .movers, .data, .solver, .live, .old, .liveBeat, .slot, .place, .mem, .peers, .safety, .host, .power, .keeper, .out].all l.contains = true) : Only l a (State.passFrame s x1) := by
  refine h.step ?_ e
  clear h e
  unfold State.passFrame
  try dsimp only
  with_reducible repeat' first | exact Only.refl _ _ | assumption | apply State.evalSafety_only | apply State.openFrame_only | apply State.senseFrame_only | apply State.copyFrame_only | apply State.frameSteps_only | apply State.closeFrame_only | decide

theorem State.pdelayReceive_only {x1 x2 x3 x4 x5} (h : Only l a s) (e : [.regs, .ports].all l.contains = true) : Only l a (State.pdelayReceive s x1 x2 x3 x4 x5) := by
  refine h.step ?_ e
  clear h e
  unfold State.pdelayReceive
  try dsimp only
  with_reducible repeat' first | exact Only.refl _ _ | assumption | split | apply State.egress_only | apply State.onPort_only | apply State.rset_only | decide

theorem State.tapPea_only {x1} (h : Only l a s) (e : [.safety].all l.contains = true) : Only l a (State.tapPea s x1) := by
  refine h.step ?_ e
  clear h e
  unfold State.tapPea
  try dsimp only
  with_reducible repeat' first | exact Only.refl _ _ | assumption | split | apply State.onSafety_only | decide

theorem State.peerPea_only {x1 x2 x3 x4 x5} (h : Only l a s) (e : [.regs, .ing, .store, .peers, .safety, .host, .out].all l.contains = true) : Only l a (State.peerPea s x1 x2 x3 x4 x5) := by
  refine h.step ?_ e
  clear h e
  unfold State.peerPea
  try dsimp only
  with_reducible repeat' first | exact Only.refl _ _ | assumption | (intro _; intros; try beta_reduce) | split | apply State.offerPea_only | apply State.onStore_only | apply State.noteSweep_only | apply State.tapPea_only | apply State.raise_only | apply State.bump_only | apply State.dropOutside_only | apply State.forwardPea_only | apply State.discardDelta_only | decide

theorem State.ringPut_only {x1 x2 x3 x4 x5} (h : Only l a s) (e : [.data].all l.contains = true) : Only l a (State.ringPut s x1 x2 x3 x4 x5) := by
  refine h.step ?_ e
  clear h e
  unfold State.ringPut
  try dsimp only
  with_reducible repeat' first | exact Only.refl _ _ | assumption | apply State.dwrite_only | decide

theorem State.peerRecord_only {x1 x2} (h : Only l a s) (e : [.regs, .data, .peers].all l.contains = true) : Only l a (State.peerRecord s x1 x2) := by
  refine h.step ?_ e
  clear h e
  unfold State.peerRecord
  try dsimp only
  with_reducible repeat' first | exact Only.refl _ _ | assumption | split | apply State.bump_only | apply State.onPeer_only | apply State.ringPut_only | decide

theorem State.pivotOp_only {x1 x2 x3 x4 x5 x6} (h : Only l a s) (e : [.engines].all l.contains = true) : Only l a (State.pivotOp s x1 x2 x3 x4 x5 x6) := by
  refine h.step ?_ e
  clear h e
  unfold State.pivotOp
  try dsimp only
  with_reducible repeat' first | exact Only.refl _ _ | assumption | split | apply State.slotOp_only | decide

theorem State.poisonCommons_only {x1} (h : Only l a s) (e : [.data].all l.contains = true) : Only l a (State.poisonCommons s x1) := by
  refine h.step ?_ e
  clear h e
  unfold State.poisonCommons
  try dsimp only
  with_reducible repeat' first | exact Only.refl _ _ | assumption | split | decide | fail_if_no_progress (apply Only.mk; rotate_left; (intro c hc; cases c <;> first | exact absurd hc (by decide) | exact trivial | exact rfl))

theorem State.poisonCw_only {x1 x2} (h : Only l a s) (e : [.regs, .store, .data, .mem, .peers, .host, .out].all l.contains = true) : Only l a (State.poisonCw s x1 x2) := by
  refine h.step ?_ e
  clear h e
  unfold State.poisonCw
  try dsimp only
  with_reducible repeat' first | exact Only.refl _ _ | assumption | split | apply State.raise_only | apply State.bump_only | apply State.onChannel_only | apply State.poisonWhere_only | decide

theorem State.postOut_only {x1 x2} (h : Only l a s) (e : [.regs, .safety, .host, .boot, .out].all l.contains = true) : Only l a (State.postOut s x1 x2) := by
  refine h.step ?_ e
  clear h e
  unfold State.postOut
  try dsimp only
  with_reducible repeat' first | exact Only.refl _ _ | assumption | split | apply State.late_only | apply State.onBoot_only | apply State.bump_only | decide

theorem State.programDone_only {x1} (h : Only l a s) (e : [.regs, .host, .boot, .fuses, .out].all l.contains = true) : Only l a (State.programDone s x1) := by
  refine h.step ?_ e
  clear h e
  unfold State.programDone
  try dsimp only
  with_reducible repeat' first | exact Only.refl _ _ | assumption | split | apply State.onBoot_only | apply State.raise_only | apply State.debugGrant_only | decide | fail_if_no_progress (apply Only.mk; rotate_left; (intro c hc; cases c <;> first | exact absurd hc (by decide) | exact trivial | exact rfl))

theorem State.programFuse_only {x1} (h : Only l a s) (e : [.regs, .safety, .host, .boot, .out].all l.contains = true) : Only l a (State.programFuse s x1) := by
  refine h.step ?_ e
  clear h e
  unfold State.programFuse
  try dsimp only
  with_reducible repeat' first | exact Only.refl _ _ | assumption | split | apply State.late_only | apply State.onBoot_only | decide

end Sys2Proof.Machine
end

