-- ==== Sys2Proof/Laws/Only4.lean ====
section
/-! SUPPORT. What each operation and command leaves alone (part 4). -/

namespace Sys2Proof.Machine

open Sys2Proof

set_option linter.unusedTactic false
set_option linter.unreachableTactic false
set_option linter.unusedSimpArgs false
set_option linter.unusedVariables false

variable {l : List Component} {a s : State}

theorem State.trackChange_only {x1 x2} (h : Only l a s) (e : [.regs].all l.contains = true) : Only l a (State.trackChange s x1 x2) := by
  refine h.step ?_ e
  clear h e
  unfold State.trackChange
  try dsimp only
  with_reducible repeat' first | exact Only.refl _ _ | assumption | apply State.trackResult_only | decide

theorem State.publishOne_only {x1 x2 x3 x4} (h : Only l a s) (e : [.regs, .store, .host, .out].all l.contains = true) : Only l a (State.publishOne s x1 x2 x3 x4) := by
  refine h.step ?_ e
  clear h e
  unfold State.publishOne
  try dsimp only
  with_reducible repeat' first | exact Only.refl _ _ | assumption | split | apply State.raise_only | apply State.bump_only | apply State.trackChange_only | apply State.setPair_only | apply State.publishVersion_only | apply State.rset_only | decide

theorem State.startDropping_only {x1} (h : Only l a s) (e : [.host].all l.contains = true) : Only l a (State.startDropping s x1) := by
  refine h.step ?_ e
  clear h e
  unfold State.startDropping
  try dsimp only
  with_reducible repeat' first | exact Only.refl _ _ | assumption | apply State.onFn_only | decide

theorem State.pushWhole_only {x1 x2} (h : Only l a s) (e : [.regs, .host, .out].all l.contains = true) : Only l a (State.pushWhole s x1 x2) := by
  refine h.step ?_ e
  clear h e
  unfold State.pushWhole
  try dsimp only
  with_reducible repeat' first | exact Only.refl _ _ | assumption | split | apply State.hqRaise_only | apply State.startDropping_only | apply State.dropWord_only | apply State.beginItem_only | apply State.onFn_only | decide

theorem State.pushOne_only {x1 x2 x3 x4} (h : Only l a s) (e : [.regs, .safety, .host, .out].all l.contains = true) : Only l a (State.pushOne s x1 x2 x3 x4) := by
  refine h.step ?_ e
  clear h e
  unfold State.pushOne
  try dsimp only
  with_reducible repeat' first | exact Only.refl _ _ | assumption | split | apply State.hqWatermark_only | apply State.pushWhole_only | apply State.startDropping_only | apply State.dropWord_only | apply State.late_only | decide

theorem State.pushAll_only {x1 x2 x3} (h : Only l a s) (e : [.regs, .safety, .host, .out].all l.contains = true) : Only l a (State.pushAll s x1 x2 x3) := by
  refine h.step ?_ e
  clear h e
  unfold State.pushAll
  try dsimp only
  with_reducible repeat' first | exact Only.refl _ _ | assumption | (intro _; intros; try beta_reduce) | split | apply State.pushOne_only | apply State.deny_only | decide | apply Only.lfoldIdx

theorem State.radishEnd_only {x1 x2} (h : Only l a s) (e : [.regs, .engines, .slot, .place, .safety, .host, .keeper, .out].all l.contains = true) : Only l a (State.radishEnd s x1 x2) := by
  refine h.step ?_ e
  clear h e
  unfold State.radishEnd
  try dsimp only
  with_reducible repeat' first | exact Only.refl _ _ | assumption | split | apply State.onBook_only | apply State.onEngine_only | apply State.updateCoverage_only | apply State.raise_only | apply State.bump_only | apply State.engEvent_only | decide

theorem State.readAt_only {x1 x2 x3} (h : Only l a s) (e : [.shadows].all l.contains = true) : Only l a (State.readAt s x1 x2 x3).1 := by
  refine h.step ?_ e
  clear h e
  unfold State.readAt
  try dsimp only
  with_reducible repeat' first | exact Only.refl _ _ | assumption | (intro _; intros; try beta_reduce) | split | decide | apply Only.foldl | apply Only.foldlP | fail_if_no_progress (apply Only.mk; rotate_left; (intro c hc; cases c <;> first | exact absurd hc (by decide) | exact trivial | exact rfl))

theorem State.readAt_only' {t : State} {x1 x2 x3} {r} (h : Only l a s) (e : [.shadows].all l.contains = true) (q : State.readAt s x1 x2 x3 = (t, r)) : Only l a t := by
  have k := State.readAt_only h e (x1 := x1) (x2 := x2) (x3 := x3)
  rw [q] at k
  exact k

theorem State.readValue_only {x1 x2 x3} (h : Only l a s) (e : [.regs, .shadows, .safety, .host, .out].all l.contains = true) : Only l a (State.readValue s x1 x2 x3).1 := by
  refine h.step ?_ e
  clear h e
  unfold State.readValue
  try dsimp only
  with_reducible repeat' first | exact Only.refl _ _ | assumption | split | apply State.deny_only | apply State.readAt_only | decide

theorem State.readWord_only {x1 x2 x3} (h : Only l a s) (e : [.regs, .shadows, .safety, .host, .out].all l.contains = true) : Only l a (State.readWord s x1 x2 x3) := by
  refine h.step ?_ e
  exact State.send_only (State.readValue_only (Only.refl _ _) (by decide)) (by decide)

theorem State.readAccess_only {x1 x2 x3} (h : Only l a s) (e : [.regs, .shadows, .safety, .host, .out].all l.contains = true) : Only l a (State.readAccess s x1 x2 x3) := by
  refine h.step ?_ e
  clear h e
  unfold State.readAccess
  try dsimp only
  with_reducible repeat' first | exact Only.refl _ _ | assumption | split | apply State.readWord_only | apply State.send_only | apply State.deny_only | apply State.late_only | decide

theorem State.readCw_only {x1 x2 x3 x4 x5} (h : Only l a s) (e : [.regs, .store, .com, .engines, .data, .slot, .place, .mem, .peers, .safety, .host, .keeper, .out].all l.contains = true) : Only l a (State.readCw s x1 x2 x3 x4 x5) := by
  refine h.step ?_ e
  clear h e
  unfold State.readCw
  try dsimp only
  with_reducible repeat' first | exact Only.refl _ _ | assumption | split | apply State.corrected_only | apply State.raise_only | apply State.countSymbols_only | apply State.eccCapture_only | apply State.bump_only | apply State.retireChannel_only | apply State.poisonCw_only | decide

theorem State.receive_only {x1 x2 x3 x4} (h : Only l a s) (e : [.regs, .tl, .ports, .fdb, .ing, .host, .out].all l.contains = true) : Only l a (State.receive s x1 x2 x3 x4) := by
  refine h.step ?_ e
  clear h e
  unfold State.receive
  try dsimp only
  with_reducible repeat' first | exact Only.refl _ _ | assumption | split | apply State.stampTime_only | (apply State.stampTime_only'; rotate_left; decide; assumption) | apply State.learn_only | apply State.badFrame_only | apply State.pdelayReceive_only | apply State.consume_only | apply State.bridge_only | (apply State.bridge_only'; rotate_left; decide; assumption) | decide

theorem State.takeHeader_only {x1 x2} (h : Only l a s) (e : [.peers].all l.contains = true) : Only l a (State.takeHeader s x1 x2) := by
  refine h.step ?_ e
  clear h e
  unfold State.takeHeader
  try dsimp only
  with_reducible repeat' first | exact Only.refl _ _ | assumption | split | apply State.onPeer_only | decide

theorem State.recvFlit_only {x1 x2 x3 x4} (h : Only l a s) (hF : [.regs, .tl, .com, .peers, .safety, .host, .keeper, .out].all l.contains = true) (h4 : ∀ y0, Only l a y0 → Only l a (x4 y0)) : Only l a (State.recvFlit s x1 x2 x3 x4) := by
  unfold State.recvFlit
  try dsimp only
  with_reducible repeat' first | exact Only.refl _ _ | assumption | split | apply State.noteFlit_only | apply State.sendLink_only | apply State.discardFlit_only | apply State.laneEvent_only | apply State.takeHeader_only | apply State.onPeer_only | apply h4 | exact Only.sub_trans (by decide) hF

theorem State.recvLink_only {x1 x2 x3 x4} (h : Only l a s) (hF : [.regs, .peers, .out].all l.contains = true) (h4 : ∀ y0, Only l a y0 → Only l a (x4 y0)) : Only l a (State.recvLink s x1 x2 x3 x4) := by
  unfold State.recvLink
  try dsimp only
  with_reducible repeat' first | exact Only.refl _ _ | assumption | split | apply State.noteFlit_only | apply State.takeHeader_only | apply State.sendLink_only | apply h4 | exact Only.sub_trans (by decide) hF

theorem State.redeskewOne_only {x1 x2} (h : Only l a s) (e : [.regs, .store, .com, .peers, .host, .out, .free].all l.contains = true) : Only l a (State.redeskewOne s x1 x2) := by
  refine h.step ?_ e
  clear h e
  unfold State.redeskewOne
  try dsimp only
  with_reducible repeat' first | exact Only.refl _ _ | assumption | split | apply State.took_only | apply State.bump_only | apply State.rejournal_only | apply State.onStore_only | apply State.movePea_only | apply State.abandonCandidate_only | apply State.refuseFull_only | apply State.hitOf_only | (apply State.hitOf_only'; rotate_left; decide; assumption) | apply State.dropPea_only | apply State.writeHit_only | apply State.forwardPea_only | decide

theorem State.refreshNow_only  (h : Only l a s) (e : [.regs, .peers, .out].all l.contains = true) : Only l a (State.refreshNow s) := by
  refine h.step ?_ e
  clear h e
  unfold State.refreshNow
  try dsimp only
  with_reducible repeat' first | exact Only.refl _ _ | assumption | split | apply State.askRefresh_only | decide

theorem State.refreshSet_only {x1} (h : Only l a s) (e : [.regs, .peers].all l.contains = true) : Only l a (State.refreshSet s x1) := by
  refine h.step ?_ e
  clear h e
  unfold State.refreshSet
  try dsimp only
  with_reducible repeat' first | exact Only.refl _ _ | assumption | split | apply State.bump_only | apply State.queueFlits_only | decide

theorem State.ringEnable_only {x1} (h : Only l a s) (e : [.regs, .com, .host].all l.contains = true) : Only l a (State.ringEnable s x1) := by
  refine h.step ?_ e
  clear h e
  unfold State.ringEnable
  try dsimp only
  with_reducible repeat' first | exact Only.refl _ _ | assumption | split | apply State.setPair_only | apply State.rput_only | apply State.onHost_only | apply State.onDest_only | apply State.destOff_only | decide

theorem State.sensorDown_only {x1} (h : Only l a s) (e : [.regs, .ports, .host, .out].all l.contains = true) : Only l a (State.sensorDown s x1) := by
  refine h.step ?_ e
  clear h e
  unfold State.sensorDown
  try dsimp only
  with_reducible repeat' first | exact Only.refl _ _ | assumption | split | apply State.bump_only | apply State.onPort_only | apply State.raise_only | decide

theorem State.regEffect_only {x1 x2 x3 x4} (h : Only l a s) (e : [.regs, .ports, .ing, .com, .host, .keeper, .out].all l.contains = true) : Only l a (State.regEffect s x1 x2 x3 x4) := by
  refine h.step ?_ e
  clear h e
  unfold State.regEffect
  try dsimp only
  with_reducible repeat' first | exact Only.refl _ _ | assumption | split | apply State.rset_only | apply State.ringEnable_only | apply State.hqWatermark_only | apply State.onKeeper_only | apply State.sensorDown_only | apply State.watermark_only | apply State.enabledEvents_only | decide

theorem State.rehearsed_only {x1 x2 x3} (h : Only l a s) (e : [.regs, .engines, .slot, .place, .safety, .host, .keeper, .out].all l.contains = true) : Only l a (State.rehearsed s x1 x2 x3) := by
  refine h.step ?_ e
  clear h e
  unfold State.rehearsed
  try dsimp only
  with_reducible repeat' first | exact Only.refl _ _ | assumption | split | apply State.onSlot_only | apply State.engEvent_only | apply State.rset_only | apply State.beginArming_only | apply State.clearShadow_only | apply State.raise_only | apply State.bump_only | apply State.refuseImage_only | decide

theorem State.rekeyEvery_only  (h : Only l a s) (e : [.store].all l.contains = true) : Only l a (State.rekeyEvery s) := by
  refine h.step ?_ e
  clear h e
  unfold State.rekeyEvery
  try dsimp only
  with_reducible repeat' first | exact Only.refl _ _ | assumption | (intro _; intros; try beta_reduce) | apply State.onStore_only | decide | apply Only.foldl

theorem State.releasePea_only {x1 x2} (h : Only l a s) (e : [.regs, .ing, .store, .safety, .host, .out].all l.contains = true) : Only l a (State.releasePea s x1 x2) := by
  refine h.step ?_ e
  clear h e
  unfold State.releasePea
  try dsimp only
  with_reducible repeat' first | exact Only.refl _ _ | assumption | (intro _; intros; try beta_reduce) | split | apply State.preEpochDrop_only | apply State.offerPea_only | apply State.tapPea_only | apply State.onStore_only | decide

theorem State.takeSample_only {x1} (h : Only l a s) (e : [.regs, .solver].all l.contains = true) : Only l a (State.takeSample s x1) := by
  refine h.step ?_ e
  clear h e
  unfold State.takeSample
  try dsimp only
  with_reducible repeat' first | exact Only.refl _ _ | assumption | split | apply State.bump_only | decide | fail_if_no_progress (apply Only.mk; rotate_left; (intro c hc; cases c <;> first | exact absurd hc (by decide) | exact trivial | exact rfl))

theorem State.takePixels_only {x1 x2} (h : Only l a s) (e : [.ing].all l.contains = true) : Only l a (State.takePixels s x1 x2) := by
  refine h.step ?_ e
  clear h e
  unfold State.takePixels
  try dsimp only
  with_reducible repeat' first | exact Only.refl _ _ | assumption | split | apply State.onIng_only | decide

theorem State.releaseOut_only {x1 x2} (h : Only l a s) (e : [.regs, .ing, .store, .solver, .safety, .host, .out].all l.contains = true) : Only l a (State.releaseOut s x1 x2) := by
  refine h.step ?_ e
  clear h e
  unfold State.releaseOut
  try dsimp only
  with_reducible repeat' first | exact Only.refl _ _ | assumption | split | apply State.releasePea_only | apply State.raise_only | apply State.bump_only | apply State.preEpochDrop_only | apply State.takeSample_only | apply State.takePixels_only | decide

theorem State.strapRegs_only {x1} (h : Only l a s) (e : [.regs].all l.contains = true) : Only l a (State.strapRegs s x1) := by
  refine h.step ?_ e
  clear h e
  unfold State.strapRegs
  try dsimp only
  with_reducible repeat' first | exact Only.refl _ _ | assumption | (intro _; intros; try beta_reduce) | split | apply State.rset_only | decide | apply Only.foldl

theorem State.releaseReset_only {x1 x2} (h : Only l a s) (e : [.regs, .shadows, .held, .wo, .resetN, .tl, .roots, .ports, .fdb, .ing, .store, .com, .engines, .descs, .movers, .data, .solver, .live, .old, .liveBeat, .slot, .place, .mem, .peers, .safety, .host, .boot, .power].all l.contains = true) : Only l a (State.releaseReset s x1 x2) := by
  refine h.step ?_ e
  clear h e
  unfold State.releaseReset
  try dsimp only
  with_reducible repeat' first | exact Only.refl _ _ | assumption | apply State.inReset_only | apply State.strapRegs_only | decide | fail_if_no_progress (apply Only.mk; rotate_left; (intro c hc; cases c <;> first | exact absurd hc (by decide) | exact trivial | exact rfl))

theorem State.remapGranule_only {x1 x2} (h : Only l a s) (e : [.regs, .place].all l.contains = true) : Only l a (State.remapGranule s x1 x2) := by
  refine h.step ?_ e
  clear h e
  unfold State.remapGranule
  try dsimp only
  with_reducible repeat' first | exact Only.refl _ _ | assumption | split | apply State.bump_only | decide | fail_if_no_progress (apply Only.mk; rotate_left; (intro c hc; cases c <;> first | exact absurd hc (by decide) | exact trivial | exact rfl))

theorem State.remoteWrite_only {x1 x2} (h : Only l a s) (e : [.regs, .engines, .movers, .data, .safety, .host, .hostMem, .out].all l.contains = true) : Only l a (State.remoteWrite s x1 x2) := by
  refine h.step ?_ e
  clear h e
  unfold State.remoteWrite
  try dsimp only
  with_reducible repeat' first | exact Only.refl _ _ | assumption | split | apply State.xlateFault_only | apply State.judgeAccess_only | (apply State.judgeAccess_only'; rotate_left; decide; assumption) | apply State.moverWrite_only | apply State.bump64_only | apply State.raise_only | apply State.bump_only | decide

theorem State.replayAll_only {x1} (h : Only l a s) (e : [.regs, .tl, .com, .peers, .host, .out].all l.contains = true) : Only l a (State.replayAll s x1) := by
  refine h.step ?_ e
  clear h e
  unfold State.replayAll
  try dsimp only
  with_reducible repeat' first | exact Only.refl _ _ | assumption | (intro _; intros; try beta_reduce) | split | apply State.sendHeld_only | apply State.onPeer_only | apply State.linkDown_only | decide | apply Only.foldl

theorem State.replyWords_only {x1} (h : Only l a s) (e : [.regs].all l.contains = true) : Only l a (State.replyWords s x1) := by
  refine h.step ?_ e
  clear h e
  unfold State.replyWords
  try dsimp only
  with_reducible repeat' first | exact Only.refl _ _ | assumption | (intro _; intros; try beta_reduce) | apply State.rset_only | decide | apply Only.lfoldIdx

theorem State.resetFn_only {x1} (h : Only l a s) (e : [.regs, .com, .descs, .movers, .host].all l.contains = true) : Only l a (State.resetFn s x1) := by
  refine h.step ?_ e
  clear h e
  unfold State.resetFn
  try dsimp only
  with_reducible repeat' first | exact Only.refl _ _ | assumption | split | apply State.onFn_only | apply State.rput_only | apply State.onHost_only | apply State.destOff_only | decide | fail_if_no_progress (apply Only.mk; rotate_left; (intro c hc; cases c <;> first | exact absurd hc (by decide) | exact trivial | exact rfl))

theorem State.resumeHeartbeat_only {x1 x2} (h : Only l a s) (e : [.regs, .safety].all l.contains = true) : Only l a (State.resumeHeartbeat s x1 x2) := by
  refine h.step ?_ e
  clear h e
  unfold State.resumeHeartbeat
  try dsimp only
  with_reducible repeat' first | exact Only.refl _ _ | assumption | split | apply State.onSafety_only | apply State.logAccess_only | decide

theorem State.retireRoot_only {x1} (h : Only l a s) (e : [.regs, .roots, .com, .engines, .slot, .safety, .host, .keeper, .out].all l.contains = true) : Only l a (State.retireRoot s x1) := by
  refine h.step ?_ e
  clear h e
  unfold State.retireRoot
  try dsimp only
  with_reducible repeat' first | exact Only.refl _ _ | assumption | split | apply State.checkRoots_only | apply State.declare_only | apply State.onRoot_only | decide

theorem State.retireSensorPort_only {x1} (h : Only l a s) (e : [.regs, .ports, .safety, .host, .keeper, .out].all l.contains = true) : Only l a (State.retireSensorPort s x1) := by
  refine h.step ?_ e
  clear h e
  unfold State.retireSensorPort
  try dsimp only
  with_reducible repeat' first | exact Only.refl _ _ | assumption | apply State.raise_only | apply State.declare_only | apply State.onPort_only | apply State.sensorDown_only | decide

theorem State.retryPeer_only {x1} (h : Only l a s) (e : [.peers].all l.contains = true) : Only l a (State.retryPeer s x1) := by
  refine h.step ?_ e
  clear h e
  unfold State.retryPeer
  try dsimp only
  with_reducible repeat' first | exact Only.refl _ _ | assumption | split | apply State.onPeer_only | decide

theorem State.ringRecord_only {x1} (h : Only l a s) (e : [.regs, .host, .hostMem].all l.contains = true) : Only l a (State.ringRecord s x1) := by
  refine h.step ?_ e
  clear h e
  unfold State.ringRecord
  try dsimp only
  with_reducible repeat' first | exact Only.refl _ _ | assumption | apply State.hwrite_only | apply State.setPair_only | apply State.onHost_only | apply State.rset_only | decide

theorem State.ringSuspendAct_only  (h : Only l a s) (e : [.regs, .com, .safety, .host, .out].all l.contains = true) : Only l a (State.ringSuspendAct s) := by
  refine h.step ?_ e
  clear h e
  unfold State.ringSuspendAct
  try dsimp only
  with_reducible repeat' first | exact Only.refl _ _ | assumption | split | apply State.setPair_only | apply State.rset_only | apply State.onHost_only | apply State.rput_only | apply State.destOff_only | apply State.logRec_only | apply State.hqRaise_only | apply State.bump_only | decide

theorem State.rootOp_only {x1 x2 x3 x4 x5 x6 x7} (h : Only l a s) (e : [.engines].all l.contains = true) : Only l a (State.rootOp s x1 x2 x3 x4 x5 x6 x7) := by
  refine h.step ?_ e
  clear h e
  unfold State.rootOp
  try dsimp only
  with_reducible repeat' first | exact Only.refl _ _ | assumption | apply State.slotOp_only | decide

theorem State.scrubAgain_only  (h : Only l a s) (e : [.mem].all l.contains = true) : Only l a (State.scrubAgain s) := by
  refine h.step ?_ e
  clear h e
  unfold State.scrubAgain
  try dsimp only
  with_reducible repeat' first | exact Only.refl _ _ | assumption | apply State.onMem_only | decide

theorem State.seedRecord_only {x1 x2} (h : Only l a s) (e : [.regs, .store, .com, .host, .out].all l.contains = true) : Only l a (State.seedRecord s x1 x2) := by
  refine h.step ?_ e
  clear h e
  unfold State.seedRecord
  try dsimp only
  with_reducible repeat' first | exact Only.refl _ _ | assumption | split | apply State.bump_only | (apply State.fileEntry_only'; rotate_left; decide; assumption) | decide

theorem State.seedEntry_only {x0 x2} (h : Only l a s) (e : [.regs, .store, .com, .peers, .host, .out].all l.contains = true) : Only l a (State.seedEntry x0 s x2) := by
  refine h.step ?_ e
  clear h e
  unfold State.seedEntry
  try dsimp only
  with_reducible repeat' first | exact Only.refl _ _ | assumption | split | apply State.seedRecord_only | apply State.bump_only | apply State.raise_only | apply State.onPeers_only | decide

theorem State.seedSet_only {x1} (h : Only l a s) (e : [.peers].all l.contains = true) : Only l a (State.seedSet s x1) := by
  refine h.step ?_ e
  clear h e
  unfold State.seedSet
  try dsimp only
  with_reducible repeat' first | exact Only.refl _ _ | assumption | split | apply State.queueFlits_only | decide

theorem State.slowResult_only {x1 x2 x3 x4 x5} (h : Only l a s) (e : [.regs].all l.contains = true) : Only l a (State.slowResult s x1 x2 x3 x4 x5) := by
  refine h.step ?_ e
  clear h e
  unfold State.slowResult
  try dsimp only
  with_reducible repeat' first | exact Only.refl _ _ | assumption | apply State.rset_only | decide

theorem State.snapTime_only  (h : Only l a s) (e : [.regs].all l.contains = true) : Only l a (State.snapTime s) := by
  refine h.step ?_ e
  clear h e
  unfold State.snapTime
  try dsimp only
  with_reducible repeat' first | exact Only.refl _ _ | assumption | apply State.setPair_only | apply State.setWords_only | apply State.rset_only | decide

theorem State.storeBeat_only {x1 x2 x3 x4 x5} (h : Only l a s) (e : [.regs, .engines].all l.contains = true) : Only l a (State.storeBeat s x1 x2 x3 x4 x5) := by
  refine h.step ?_ e
  clear h e
  unfold State.storeBeat
  try dsimp only
  with_reducible repeat' first | exact Only.refl _ _ | assumption | (intro _; intros; try beta_reduce) | split | apply State.slotOp_only | apply State.bump_only | apply State.onEngine_only | apply State.stall_only | decide | apply Only.foldl | apply Only.foldlP | apply Only.lfoldIdx | apply Only.lfoldIdxP

theorem State.swapLane_only {x1 x2} (h : Only l a s) (e : [.regs, .tl, .com, .peers, .host, .out].all l.contains = true) : Only l a (State.swapLane s x1 x2) := by
  refine h.step ?_ e
  clear h e
  unfold State.swapLane
  try dsimp only
  with_reducible repeat' first | exact Only.refl _ _ | assumption | split | apply State.onPeer_only | apply State.raise_only | apply State.retirePort_only | decide

theorem State.switchRoot_only  (h : Only l a s) (e : [.regs, .tl, .roots, .com, .engines, .slot, .safety, .host, .keeper, .out, .free].all l.contains = true) : Only l a (State.switchRoot s) := by
  refine h.step ?_ e
  clear h e
  unfold State.switchRoot
  try dsimp only
  with_reducible repeat' first | exact Only.refl _ _ | assumption | split | apply State.onRoot_only | apply State.logRec_only | apply State.raise_only | apply State.took_only | apply State.onTl_only | apply State.checkRoots_only | apply State.retireRoot_only | decide

theorem State.takeAnnounce_only {x1} (h : Only l a s) (e : [.regs, .tl, .host, .keeper, .out].all l.contains = true) : Only l a (State.takeAnnounce s x1) := by
  refine h.step ?_ e
  clear h e
  unfold State.takeAnnounce
  try dsimp only
  with_reducible repeat' first | exact Only.refl _ _ | assumption | split | apply State.newEpoch_only | (apply State.newEpoch_only'; rotate_left; decide; assumption) | apply State.onTl_only | apply State.pendStep_only | apply State.raise_only | decide

theorem State.takeItem_only {x1 x2 x3} (h : Only l a s) (e : [.regs, .host, .hostMem, .out].all l.contains = true) : Only l a (State.takeItem s x1 x2 x3) := by
  refine h.step ?_ e
  clear h e
  unfold State.takeItem
  try dsimp only
  with_reducible repeat' first | exact Only.refl _ _ | assumption | split | apply State.onFn_only | apply State.bump_only | apply State.hqWatermark_only | apply State.complete_only | decide

theorem State.takeRecord_only {x1 x2 x3} (h : Only l a s) (e : [.regs, .com, .safety].all l.contains = true) : Only l a (State.takeRecord s x1 x2 x3).1 := by
  refine h.step ?_ e
  clear h e
  unfold State.takeRecord
  try dsimp only
  with_reducible repeat' first | exact Only.refl _ _ | assumption | (intro _; intros; try beta_reduce) | split | apply State.onCom_only | apply State.onDest_only | apply State.rset_only | apply State.bump64_only | apply State.bump_only | decide | apply Only.foldl | apply Only.foldlP | fail_if_no_progress (apply Only.mk; rotate_left; (intro c hc; cases c <;> first | exact absurd hc (by decide) | exact trivial | exact rfl))

theorem State.takeRecord_only' {t : State} {x1 x2 x3} {r} (h : Only l a s) (e : [.regs, .com, .safety].all l.contains = true) (q : State.takeRecord s x1 x2 x3 = (t, r)) : Only l a t := by
  have k := State.takeRecord_only h e (x1 := x1) (x2 := x2) (x3 := x3)
  rw [q] at k
  exact k

theorem State.voteDepth_only  (h : Only l a s) (e : [.regs, .tl, .host, .out].all l.contains = true) : Only l a (State.voteDepth s) := by
  refine h.step ?_ e
  clear h e
  unfold State.voteDepth
  try dsimp only
  with_reducible repeat' first | exact Only.refl _ _ | assumption | split | apply State.onTl_only | apply State.raise_only | decide

theorem State.takeTime_only {x1 x2 x3} (h : Only l a s) (e : [.regs, .tl, .peers, .host, .keeper, .out].all l.contains = true) : Only l a (State.takeTime s x1 x2 x3) := by
  refine h.step ?_ e
  clear h e
  unfold State.takeTime
  try dsimp only
  with_reducible repeat' first | exact Only.refl _ _ | assumption | split | apply State.onPeer_only | apply State.rset_only | apply State.setPair_only | apply State.voteDepth_only | apply State.takeAnnounce_only | apply State.onTl_only | decide

theorem State.timeSetAct_only  (h : Only l a s) (e : [.tl].all l.contains = true) : Only l a (State.timeSetAct s) := by
  refine h.step ?_ e
  clear h e
  unfold State.timeSetAct
  try dsimp only
  with_reducible repeat' first | exact Only.refl _ _ | assumption | split | apply State.jumpOffset_only | apply State.formMeasurement_only | decide

theorem State.transmitOne_only {x1} (h : Only l a s) (e : [.regs, .tl, .ports, .host, .out, .free].all l.contains = true) : Only l a (State.transmitOne s x1) := by
  refine h.step ?_ e
  clear h e
  unfold State.transmitOne
  try dsimp only
  with_reducible repeat' first | exact Only.refl _ _ | assumption | split | apply State.onPort_only | apply State.took_only | apply State.leave_only | (apply State.leave_only'; rotate_left; decide; assumption) | apply State.send_only | apply State.bump64_only | decide

theorem State.unlockDebug_only {x1 x2 x3} (h : Only l a s) (e : [.regs, .safety, .host, .boot, .out].all l.contains = true) : Only l a (State.unlockDebug s x1 x2 x3) := by
  refine h.step ?_ e
  clear h e
  unfold State.unlockDebug
  try dsimp only
  with_reducible repeat' first | exact Only.refl _ _ | assumption | split | apply State.rset_only | apply State.onBoot_only | apply State.raise_only | apply State.debugGrant_only | apply State.logAccess_only | decide

theorem State.trigger_only {x1 x2 x3 x4 x5 x6} (h : Only l a s) (e : [.regs, .tl, .fdb, .ing, .store, .com, .engines, .solver, .slot, .place, .mem, .peers, .safety, .host, .boot, .power, .keeper, .fuses, .out].all l.contains = true) : Only l a (State.trigger s x1 x2 x3 x4 x5 x6) := by
  refine h.step ?_ e
  clear h e
  unfold State.trigger
  try dsimp only
  with_reducible repeat' first | exact Only.refl _ _ | assumption | split | apply State.lockEvery_only | apply State.postOut_only | apply State.onBoot_only | apply State.snapTime_only | apply State.timeSetAct_only | apply State.flushQueue_only | apply State.rekeyEvery_only | apply State.rset_only | apply State.freeCapture_only | apply State.onSolver_only | apply State.late_only | apply State.loadSlotCmd_only | apply State.cancelSlotCmd_only | apply State.scrubAgain_only | apply State.refreshNow_only | apply State.retryPeer_only | apply State.enterHold_only | apply State.resumeHeartbeat_only | apply State.flushHq_only | apply State.challengeDebug_only | apply State.unlockDebug_only | apply State.advanceFw_only | apply State.advanceImage_only | apply State.forgetMarrow_only | apply State.programFuse_only | decide | fail_if_no_progress (apply Only.mk; rotate_left; (intro c hc; cases c <;> first | exact absurd hc (by decide) | exact trivial | exact rfl))

theorem State.update_only {x1 x2} (h : Only l a s) (e : [.regs, .tl, .com, .peers, .safety, .host, .out].all l.contains = true) : Only l a (State.update s x1 x2) := by
  refine h.step ?_ e
  clear h e
  unfold State.update
  try dsimp only
  with_reducible repeat' first | exact Only.refl _ _ | assumption | split | apply State.noteNb_only | apply State.refuseNb_only | apply State.onPeer_only | decide

theorem State.walkSweep_only  (h : Only l a s) (e : [.regs, .host, .power, .out].all l.contains = true) : Only l a (State.walkSweep s) := by
  refine h.step ?_ e
  clear h e
  unfold State.walkSweep
  try dsimp only
  with_reducible repeat' first | exact Only.refl _ _ | assumption | split | apply State.endSweep_only | apply State.onPower_only | decide

theorem State.writeMsix_only {x1 x2 x3} (h : Only l a s) (e : [.host, .out].all l.contains = true) : Only l a (State.writeMsix s x1 x2 x3) := by
  refine h.step ?_ e
  clear h e
  unfold State.writeMsix
  try dsimp only
  with_reducible repeat' first | exact Only.refl _ _ | assumption | split | apply State.onFn_only | apply State.msix_only | decide

theorem State.writeFields_only {ini off fn low d data ans} (h : Only l a s) (e : [Component.regs, .held, .wo, .tl, .ports, .fdb, .ing, .store, .com, .engines, .solver, .slot, .place, .mem, .peers, .safety, .host, .boot, .power, .keeper, .fuses, .out, .free].all l.contains = true) :
    Only l a (s.writeFields ini off fn low d data ans) := by
  refine h.step (m := [.regs, .held, .wo, .tl, .ports, .fdb, .ing, .store, .com, .engines, .solver, .slot, .place, .mem, .peers, .safety, .host, .boot, .power, .keeper, .fuses, .out, .free]) ?_ e
  clear h e
  unfold State.writeFields
  extract_lets key old loKey heldLo lo locked spHeld woHeld held differs s1 lkBad s2 s3 ranged bad allHeld keep setMask clrMask trigMask new trig s4 src5 s5 src6 s6 lockBit s7 s8 s9 order
  have k1 : Only [.regs, .held, .wo, .tl, .ports, .fdb, .ing, .store, .com, .engines, .solver, .slot, .place, .mem, .peers, .safety, .host, .boot, .power, .keeper, .fuses, .out, .free] s s1 := Only.ite (fun _ => State.late_only (Only.refl _ _) (by decide)) (fun _ => Only.refl _ _)
  have k2 : Only [.regs, .held, .wo, .tl, .ports, .fdb, .ing, .store, .com, .engines, .solver, .slot, .place, .mem, .peers, .safety, .host, .boot, .power, .keeper, .fuses, .out, .free] s s2 := Only.ite (fun _ => State.late_only k1 (by decide)) (fun _ => k1)
  have k3 : Only [.regs, .held, .wo, .tl, .ports, .fdb, .ing, .store, .com, .engines, .solver, .slot, .place, .mem, .peers, .safety, .host, .boot, .power, .keeper, .fuses, .out, .free] s s3 := Only.ite (fun _ => State.late_only k2 (by decide)) (fun _ => k2)
  refine Only.ite (fun _ => State.late_only k3 (by decide)) (fun _ => ?_)
  refine Only.ite (fun _ => k3.step (m := [.regs, .held, .wo, .peers]) (by intro c hc; cases c <;> first | exact absurd hc (by decide) | exact rfl) (by decide)) (fun _ => ?_)
  have k4 : Only [.regs, .held, .wo, .tl, .ports, .fdb, .ing, .store, .com, .engines, .solver, .slot, .place, .mem, .peers, .safety, .host, .boot, .power, .keeper, .fuses, .out, .free] s s4 := State.rset_only k3 (by decide)
  have k5 : Only [.regs, .held, .wo, .tl, .ports, .fdb, .ing, .store, .com, .engines, .solver, .slot, .place, .mem, .peers, .safety, .host, .boot, .power, .keeper, .fuses, .out, .free] s s5 := Only.ite (fun _ => (State.rset_only (o := loKey) (w := lo) k4 (by decide)).step (m := [.regs, .held, .wo, .peers]) (by intro c hc; cases c <;> first | exact absurd hc (by decide) | exact rfl) (by decide)) (fun _ => k4)
  have k6 : Only [.regs, .held, .wo, .tl, .ports, .fdb, .ing, .store, .com, .engines, .solver, .slot, .place, .mem, .peers, .safety, .host, .boot, .power, .keeper, .fuses, .out, .free] s s6 := Only.ite (fun _ => k5.step (m := [.regs, .held, .wo, .peers]) (by intro c hc; cases c <;> first | exact absurd hc (by decide) | exact rfl) (by decide)) (fun _ => k5)
  have k7 : Only [.regs, .held, .wo, .tl, .ports, .fdb, .ing, .store, .com, .engines, .solver, .slot, .place, .mem, .peers, .safety, .host, .boot, .power, .keeper, .fuses, .out, .free] s s7 := Only.ite (fun _ => State.setLock_only k6 (by decide)) (fun _ => k6)
  have k8 : Only [.regs, .held, .wo, .tl, .ports, .fdb, .ing, .store, .com, .engines, .solver, .slot, .place, .mem, .peers, .safety, .host, .boot, .power, .keeper, .fuses, .out, .free] s s8 := Only.ite (fun _ => k7) (fun _ => State.regEffect_only k7 (by decide))
  have k9 : Only [.regs, .held, .wo, .tl, .ports, .fdb, .ing, .store, .com, .engines, .solver, .slot, .place, .mem, .peers, .safety, .host, .boot, .power, .keeper, .fuses, .out, .free] s s9 := Only.ite (fun _ => k8) (fun _ => State.clearedEvents_only k8 (by decide))
  refine Only.foldl (Only.ite (fun _ => State.took_only k9 (by decide)) (fun _ => k9)) (fun t b k => State.trigger_only k (by decide))

theorem State.writeAt_only {x1 x2 x3 x4 x5} (h : Only l a s) (e : [.regs, .held, .wo, .tl, .ports, .fdb, .ing, .store, .com, .engines, .solver, .slot, .place, .mem, .peers, .safety, .host, .boot, .power, .keeper, .fuses, .out, .free].all l.contains = true) : Only l a (State.writeAt s x1 x2 x3 x4 x5) := by
  refine h.step ?_ e
  clear h e
  unfold State.writeAt
  try dsimp only
  with_reducible repeat' first | exact Only.refl _ _ | assumption | split | apply State.writeMsix_only | apply State.late_only | apply State.writeFields_only | decide

theorem State.writeWord_only {x1 x2 x3 x4} (h : Only l a s) (e : [.regs, .held, .wo, .tl, .ports, .fdb, .ing, .store, .com, .engines, .solver, .slot, .place, .mem, .peers, .safety, .host, .boot, .power, .keeper, .fuses, .out, .free].all l.contains = true) : Only l a (State.writeWord s x1 x2 x3 x4) := by
  refine h.step ?_ e
  clear h e
  unfold State.writeWord
  try dsimp only
  with_reducible repeat' first | exact Only.refl _ _ | assumption | split | apply State.deny_only | apply State.writeAt_only | decide

theorem State.windowWrite_only {x1 x2 x3 x4} (h : Only l a s) (e : [.regs, .held, .wo, .tl, .ports, .fdb, .ing, .store, .com, .engines, .solver, .slot, .place, .mem, .peers, .safety, .host, .boot, .power, .keeper, .fuses, .out, .free].all l.contains = true) : Only l a (State.windowWrite s x1 x2 x3 x4) := by
  refine h.step ?_ e
  clear h e
  unfold State.windowWrite
  try dsimp only
  with_reducible repeat' first | exact Only.refl _ _ | assumption | split | apply State.writeWord_only | decide

theorem State.writeNarrow_only {x1 x2 x3} (h : Only l a s) (e : [.regs, .safety, .host, .out].all l.contains = true) : Only l a (State.writeNarrow s x1 x2 x3) := by
  refine h.step ?_ e
  clear h e
  unfold State.writeNarrow
  try dsimp only
  with_reducible repeat' first | exact Only.refl _ _ | assumption | split | apply State.deny_only | apply State.late_only | decide

theorem State.writeAccess_only {x1 x2 x3} (h : Only l a s) (e : [.regs, .held, .wo, .tl, .ports, .fdb, .ing, .store, .com, .engines, .solver, .slot, .place, .mem, .peers, .safety, .host, .boot, .power, .keeper, .fuses, .out, .free].all l.contains = true) : Only l a (State.writeAccess s x1 x2 x3) := by
  refine h.step ?_ e
  clear h e
  unfold State.writeAccess
  try dsimp only
  with_reducible repeat' first | exact Only.refl _ _ | assumption | split | apply State.pushAll_only | apply State.writeWord_only | apply State.writeNarrow_only | decide

theorem State.writePage_only {x1} (h : Only l a s) (e : [.keeper].all l.contains = true) : Only l a (State.writePage s x1) := by
  refine h.step ?_ e
  clear h e
  unfold State.writePage
  try dsimp only
  with_reducible repeat' first | exact Only.refl _ _ | assumption | apply State.onMarrow_only | decide

theorem execAdmissionDone_only {x0} : OnlyOut [.regs, .engines, .slot, .place, .host, .out] s (execAdmissionDone x0 s) := by
  unfold execAdmissionDone
  try dsimp only
  with_reducible repeat' first | apply OnlyOut.next | exact Only.refl _ _ | assumption | (intro _; intros; try beta_reduce) | split | apply State.refuseImage_only | apply State.descRefused_only | apply State.admitArith_only | decide | apply Only.foldl

theorem execAdvanceFw_only {x0} : OnlyOut [.regs, .held, .wo, .tl, .ports, .fdb, .ing, .store, .com, .engines, .solver, .slot, .place, .mem, .peers, .safety, .host, .boot, .power, .keeper, .fuses, .out, .free] s (execAdvanceFw x0 s) := by
  unfold execAdvanceFw
  try dsimp only
  with_reducible repeat' first | apply OnlyOut.next | exact Only.refl _ _ | assumption | apply State.windowWrite_only | decide

theorem execAdvanceImage_only {x0 x1} : OnlyOut [.regs, .held, .wo, .tl, .ports, .fdb, .ing, .store, .com, .engines, .solver, .slot, .place, .mem, .peers, .safety, .host, .boot, .power, .keeper, .fuses, .out, .free] s (execAdvanceImage x0 x1 s) := by
  unfold execAdvanceImage
  try dsimp only
  with_reducible repeat' first | apply OnlyOut.next | exact Only.refl _ _ | assumption | apply State.windowWrite_only | decide

theorem execAgeingPass_only {x0} : OnlyOut [.regs, .store, .peers] s (execAgeingPass x0 s) := by
  unfold execAgeingPass
  try dsimp only
  with_reducible repeat' first | apply OnlyOut.next | exact Only.refl _ _ | assumption | split | apply State.bump_only | apply State.freePod_only | apply State.onStore_only | decide

theorem execAliasWrite_only {x0 x1 x2 x3 x4} : OnlyOut [.regs, .held, .wo, .tl, .ports, .fdb, .ing, .store, .com, .engines, .solver, .slot, .place, .mem, .peers, .safety, .host, .boot, .power, .keeper, .fuses, .out, .free] s (execAliasWrite x0 x1 x2 x3 x4 s) := by
  unfold execAliasWrite
  try dsimp only
  with_reducible repeat' first | apply OnlyOut.next | exact Only.refl _ _ | assumption | apply State.windowWrite_only | decide

theorem execArmingDone_only {x0} : OnlyOut [.slot] s (execArmingDone x0 s) := by
  unfold execArmingDone
  try dsimp only
  with_reducible repeat' first | apply OnlyOut.next | exact Only.refl _ _ | assumption | split | apply State.onSlot_only | decide

theorem execArrayDrain_only {x0 x1 x2 x3 x4} : OnlyOut [.regs, .engines, .host, .out, .free] s (execArrayDrain x0 x1 x2 x3 x4 s) := by
  unfold execArrayDrain
  try dsimp only
  with_reducible repeat' first | apply OnlyOut.next | exact Only.refl _ _ | assumption | apply State.drainRow_only | decide

theorem execArrayMac_only {x0 x1 x2 x3 x4 x5} : OnlyOut [.regs, .engines] s (execArrayMac x0 x1 x2 x3 x4 x5 s) := by
  unfold execArrayMac
  try dsimp only
  with_reducible repeat' first | apply OnlyOut.next | exact Only.refl _ _ | assumption | apply State.macOp_only | decide

theorem execArrayMacFirst_only {x0 x1 x2 x3 x4 x5} : OnlyOut [.regs, .engines] s (execArrayMacFirst x0 x1 x2 x3 x4 x5 s) := by
  unfold execArrayMacFirst
  try dsimp only
  with_reducible repeat' first | apply OnlyOut.next | exact Only.refl _ _ | assumption | apply State.macOp_only | decide

theorem execAttestComplete_only : OnlyOut [.regs, .host, .keeper, .hostMem, .out] s (execAttestComplete s) := by
  unfold execAttestComplete
  try dsimp only
  with_reducible repeat' first | apply OnlyOut.next | exact Only.refl _ _ | assumption | split | apply State.beginReport_only | apply State.onHost_only | apply State.endReport_only | decide

theorem execBeatBoundary_only : OnlyOut [.regs, .tl, .ing, .store, .com, .peers, .safety, .host, .power, .hostMem, .out] s (execBeatBoundary s) := by
  unfold execBeatBoundary
  try dsimp only
  with_reducible repeat' first | apply OnlyOut.next | exact Only.refl _ _ | assumption | split | apply State.passBeat_only | decide

theorem execBlockLock_only {x0 x1} : OnlyOut [.regs, .held, .wo, .tl, .ports, .fdb, .ing, .store, .com, .engines, .solver, .slot, .place, .mem, .peers, .safety, .host, .boot, .power, .keeper, .fuses, .out, .free] s (execBlockLock x0 x1 s) := by
  unfold execBlockLock
  try dsimp only
  with_reducible repeat' first | apply OnlyOut.next | exact Only.refl _ _ | assumption | split | apply State.windowWrite_only | decide

theorem execBootStepEnd_only {x0} : OnlyOut [.regs, .roots, .ports, .com, .engines, .data, .slot, .place, .mem, .safety, .host, .boot, .power, .keeper, .out] s (execBootStepEnd x0 s) := by
  unfold execBootStepEnd
  try dsimp only
  with_reducible repeat' first | apply OnlyOut.next | exact Only.refl _ _ | assumption | split | apply State.endStep_only | decide

theorem execCatchUpDone_only : OnlyOut [.tl] s (execCatchUpDone s) := by
  unfold execCatchUpDone
  try dsimp only
  with_reducible repeat' first | apply OnlyOut.next | exact Only.refl _ _ | assumption | split | apply State.onTl_only | decide

theorem execChannelBalanceWindow_only {x0} : OnlyOut [.regs, .store, .place, .host, .out] s (execChannelBalanceWindow x0 s) := by
  unfold execChannelBalanceWindow
  try dsimp only
  with_reducible repeat' first | apply OnlyOut.next | exact Only.refl _ _ | assumption | (intro _; intros; try beta_reduce) | split | apply State.rset_only | apply State.raise_only | apply State.bump_only | apply State.onStore_only | apply State.remapGranule_only | decide | apply Only.foldl | fail_if_no_progress (apply Only.mk; rotate_left; (intro c hc; cases c <;> first | exact absurd hc (by decide) | exact trivial | exact rfl))

theorem execChipCoordWrite_only {x0 x1} : OnlyOut [.regs, .held, .wo, .tl, .ports, .fdb, .ing, .store, .com, .engines, .solver, .slot, .place, .mem, .peers, .safety, .host, .boot, .power, .keeper, .fuses, .out, .free] s (execChipCoordWrite x0 x1 s) := by
  unfold execChipCoordWrite
  try dsimp only
  with_reducible repeat' first | apply OnlyOut.next | exact Only.refl _ _ | assumption | apply State.windowWrite_only | decide

theorem execColdAll_only {x0} : OnlyOut [.regs, .held, .wo, .tl, .ports, .fdb, .ing, .store, .com, .engines, .solver, .slot, .place, .mem, .peers, .safety, .host, .boot, .power, .keeper, .fuses, .out, .free] s (execColdAll x0 s) := by
  unfold execColdAll
  try dsimp only
  with_reducible repeat' first | apply OnlyOut.next | exact Only.refl _ _ | assumption | apply State.windowWrite_only | decide

theorem execCommitFlit_only {x0 x1 x2} : OnlyOut [.regs, .tl, .com, .data, .peers, .safety, .host, .keeper, .out] s (execCommitFlit x0 x1 x2 s) := by
  unfold execCommitFlit
  try dsimp only
  with_reducible repeat' first | apply OnlyOut.next | exact Only.refl _ _ | assumption | (intro _; intros; try beta_reduce) | apply State.recvFlit_only | apply State.peerRecord_only | decide | apply Only.foldl

theorem execCompareSkipped_only : OnlyOut [.regs, .safety, .host, .out] s (execCompareSkipped s) := by
  unfold execCompareSkipped
  try dsimp only
  with_reducible repeat' first | apply OnlyOut.next | exact Only.refl _ _ | assumption | split | apply State.notCompared_only | apply State.raise_only | apply State.bump_only | decide

theorem execComparisonComplete_only : OnlyOut [.regs, .com, .safety, .host, .out] s (execComparisonComplete s) := by
  unfold execComparisonComplete
  try dsimp only
  with_reducible repeat' first | apply OnlyOut.next | exact Only.refl _ _ | assumption | split | apply State.finishCompare_only | decide

theorem execCplEnable_only {x0 x1} : OnlyOut [.regs, .held, .wo, .tl, .ports, .fdb, .ing, .store, .com, .engines, .solver, .slot, .place, .mem, .peers, .safety, .host, .boot, .power, .keeper, .fuses, .out, .free] s (execCplEnable x0 x1 s) := by
  unfold execCplEnable
  try dsimp only
  with_reducible repeat' first | apply OnlyOut.next | exact Only.refl _ _ | assumption | apply State.windowWrite_only | decide

theorem execCplHeadWrite_only {x0 x1} : OnlyOut [.regs, .held, .wo, .tl, .ports, .fdb, .ing, .store, .com, .engines, .solver, .slot, .place, .mem, .peers, .safety, .host, .boot, .power, .keeper, .fuses, .out, .free] s (execCplHeadWrite x0 x1 s) := by
  unfold execCplHeadWrite
  try dsimp only
  with_reducible repeat' first | apply OnlyOut.next | exact Only.refl _ _ | assumption | apply State.windowWrite_only | decide

theorem execDatasetMoveDone_only {x0} : OnlyOut [.place] s (execDatasetMoveDone x0 s) := by
  unfold execDatasetMoveDone
  try dsimp only
  with_reducible repeat' first | apply OnlyOut.next | exact Only.refl _ _ | assumption | split | decide | fail_if_no_progress (apply Only.mk; rotate_left; (intro c hc; cases c <;> first | exact absurd hc (by decide) | exact trivial | exact rfl))

theorem execDeadlineMissed_only {x0} : OnlyOut [.regs, .com, .safety, .host, .out] s (execDeadlineMissed x0 s) := by
  unfold execDeadlineMissed
  try dsimp only
  with_reducible repeat' first | apply OnlyOut.next | exact Only.refl _ _ | assumption | apply State.missAt_only | decide

theorem execDebugChallenge_only {x0 x1} : OnlyOut [.regs, .held, .wo, .tl, .ports, .fdb, .ing, .store, .com, .engines, .solver, .slot, .place, .mem, .peers, .safety, .host, .boot, .power, .keeper, .fuses, .out, .free] s (execDebugChallenge x0 x1 s) := by
  unfold execDebugChallenge
  try dsimp only
  with_reducible repeat' first | apply OnlyOut.next | exact Only.refl _ _ | assumption | apply State.windowWrite_only | decide

theorem execDebugUnlock_only {x0 x1 x2} : OnlyOut [.regs, .held, .wo, .tl, .ports, .fdb, .ing, .store, .com, .engines, .solver, .slot, .place, .mem, .peers, .safety, .host, .boot, .power, .keeper, .fuses, .out, .free] s (execDebugUnlock x0 x1 x2 s) := by
  unfold execDebugUnlock
  try dsimp only
  with_reducible repeat' first | apply OnlyOut.next | exact Only.refl _ _ | assumption | apply State.windowWrite_only | decide

theorem execDelayReqSend_only : OnlyOut [.regs, .tl, .ports] s (execDelayReqSend s) := by
  unfold execDelayReqSend
  try dsimp only
  with_reducible repeat' first | apply OnlyOut.next | exact Only.refl _ _ | assumption | split | apply State.onPtp_only | apply State.egress_only | decide

theorem execDeltaApply_only : OnlyOut [.regs, .store, .com, .safety, .host, .out] s (execDeltaApply s) := by
  unfold execDeltaApply
  try dsimp only
  with_reducible repeat' first | apply OnlyOut.next | exact Only.refl _ _ | assumption | split | apply State.onCom_only | apply State.applyRecord_only | decide

theorem execDeltaBatchArrive_only {x0} : OnlyOut [.regs, .com, .host, .out] s (execDeltaBatchArrive x0 s) := by
  unfold execDeltaBatchArrive
  try dsimp only
  with_reducible repeat' first | apply OnlyOut.next | exact Only.refl _ _ | assumption | split | apply State.takeBatch_only | decide

theorem execDescCreate_only {x0} : OnlyOut [.regs, .descs, .host, .hostMem, .out] s (execDescCreate x0 s) := by
  unfold execDescCreate
  try dsimp only
  with_reducible repeat' first | apply OnlyOut.next | exact Only.refl _ _ | assumption | (intro _; intros; try beta_reduce) | apply State.actItem_only | apply State.createDesc_only | decide

theorem execDescDestroy_only {x0} : OnlyOut [.regs, .descs, .host, .hostMem, .out] s (execDescDestroy x0 s) := by
  unfold execDescDestroy
  try dsimp only
  with_reducible repeat' first | apply OnlyOut.next | exact Only.refl _ _ | assumption | (intro _; intros; try beta_reduce) | apply State.actItem_only | apply State.destroyDesc_only | decide

theorem execDeskew_only : OnlyOut [.regs, .store, .peers, .safety, .host, .out, .free] s (execDeskew s) := by
  unfold execDeskew
  try dsimp only
  with_reducible repeat' first | apply OnlyOut.next | exact Only.refl _ _ | assumption | split | apply State.deskewOne_only | apply State.onStore_only | decide

theorem execDramCopyDone_only : OnlyOut [.mem] s (execDramCopyDone s) := by
  unfold execDramCopyDone
  try dsimp only
  with_reducible repeat' first | apply OnlyOut.next | exact Only.refl _ _ | assumption | split | apply State.onMem_only | decide

theorem execDramRead_only {x0 x1 x2 x3 x4} : OnlyOut [.regs, .store, .com, .engines, .data, .slot, .place, .mem, .peers, .safety, .host, .keeper, .out] s (execDramRead x0 x1 x2 x3 x4 s) := by
  unfold execDramRead
  try dsimp only
  with_reducible repeat' first | apply OnlyOut.next | exact Only.refl _ _ | assumption | split | apply State.readCw_only | decide

theorem execDramRecalibrate_only {x0 x1} : OnlyOut [.regs, .store, .com, .engines, .data, .slot, .place, .mem, .peers, .safety, .host, .keeper, .out] s (execDramRecalibrate x0 x1 s) := by
  unfold execDramRecalibrate
  try dsimp only
  with_reducible repeat' first | apply OnlyOut.next | exact Only.refl _ _ | assumption | split | apply State.bump_only | apply State.retireChannel_only | apply State.raise_only | decide

theorem execDramRefresh_only {x0 x1} : OnlyOut [] s (execDramRefresh x0 x1 s) := by
  unfold execDramRefresh
  try dsimp only
  with_reducible repeat' first | apply OnlyOut.next | exact Only.refl _ _ | assumption | decide

theorem execDramRepair_only {x0} : OnlyOut [.regs, .store, .com, .engines, .data, .slot, .place, .mem, .peers, .safety, .host, .keeper, .out] s (execDramRepair x0 s) := by
  unfold execDramRepair
  try dsimp only
  with_reducible repeat' first | apply OnlyOut.next | exact Only.refl _ _ | assumption | split | apply State.onChannel_only | apply State.retireChannel_only | apply State.raise_only | apply State.bump_only | decide | fail_if_no_progress (apply Only.mk; rotate_left; (intro c hc; cases c <;> first | exact absurd hc (by decide) | exact trivial | exact rfl))

theorem execDumpComplete_only : OnlyOut [.regs, .host, .hostMem, .out] s (execDumpComplete s) := by
  unfold execDumpComplete
  try dsimp only
  with_reducible repeat' first | apply OnlyOut.next | exact Only.refl _ _ | assumption | split | apply State.complete_only | apply State.onHost_only | apply State.dumpBeat_only | decide

theorem execEngAssignShadow_only {x0 x1} : OnlyOut [.regs, .engines, .safety, .host, .out] s (execEngAssignShadow x0 x1 s) := by
  unfold execEngAssignShadow
  try dsimp only
  with_reducible repeat' first | apply OnlyOut.next | exact Only.refl _ _ | assumption | (intro _; intros; try beta_reduce) | split | apply State.descRefused_only | apply State.assignShadow_only | decide | apply Only.foldl | apply Only.foldlP

theorem execEngRadish_only {x0 x1} : OnlyOut [.regs, .engines, .place, .safety] s (execEngRadish x0 x1 s) := by
  unfold execEngRadish
  try dsimp only
  with_reducible repeat' first | apply OnlyOut.next | exact Only.refl _ _ | assumption | split | apply State.radishEng_only | decide

theorem execEngRelease_only {x0} : OnlyOut [.regs, .engines, .safety] s (execEngRelease x0 s) := by
  unfold execEngRelease
  try dsimp only
  with_reducible repeat' first | apply OnlyOut.next | exact Only.refl _ _ | assumption | split | apply State.releaseEng_only | decide

theorem execEngRetire_only {x0} : OnlyOut [.regs, .engines, .slot, .place, .safety, .host, .keeper, .out] s (execEngRetire x0 s) := by
  unfold execEngRetire
  try dsimp only
  with_reducible repeat' first | apply OnlyOut.next | exact Only.refl _ _ | assumption | split | apply State.retireEng_only | decide

theorem execEngSwitch_only {x0} : OnlyOut [.regs, .engines, .safety] s (execEngSwitch x0 s) := by
  unfold execEngSwitch
  try dsimp only
  with_reducible repeat' first | apply OnlyOut.next | exact Only.refl _ _ | assumption | split | apply State.switchEng_only | decide

theorem execEngineEvent_only {x0 x1} : OnlyOut [.regs, .engines, .slot, .place, .safety, .host, .keeper, .out] s (execEngineEvent x0 x1 s) := by
  unfold execEngineEvent
  try dsimp only
  with_reducible repeat' first | apply OnlyOut.next | exact Only.refl _ _ | assumption | split | apply State.engEvent_only | apply State.bump_only | decide

theorem execEngineHang_only {x0} : OnlyOut [.regs, .engines, .slot, .place, .safety, .host, .keeper, .out] s (execEngineHang x0 s) := by
  unfold execEngineHang
  try dsimp only
  with_reducible repeat' first | apply OnlyOut.next | exact Only.refl _ _ | assumption | split | apply State.engHard_only | decide

theorem execEscapeEventClear_only {x0 x1} : OnlyOut [.regs, .held, .wo, .tl, .ports, .fdb, .ing, .store, .com, .engines, .solver, .slot, .place, .mem, .peers, .safety, .host, .boot, .power, .keeper, .fuses, .out, .free] s (execEscapeEventClear x0 x1 s) := by
  unfold execEscapeEventClear
  try dsimp only
  with_reducible repeat' first | apply OnlyOut.next | exact Only.refl _ _ | assumption | apply State.windowWrite_only | decide

theorem execExchange_only {x0 x1 x2 x3} : OnlyOut [.engines] s (execExchange x0 x1 x2 x3 s) := by
  unfold execExchange
  try dsimp only
  with_reducible repeat' first | apply OnlyOut.next | exact Only.refl _ _ | assumption | split | apply State.slotOp_only | decide

theorem execFastDeadlineMiss_only : OnlyOut [.regs, .com, .solver, .safety, .host, .out] s (execFastDeadlineMiss s) := by
  unfold execFastDeadlineMiss
  try dsimp only
  with_reducible repeat' first | apply OnlyOut.next | exact Only.refl _ _ | assumption | (intro _; intros; try beta_reduce) | split | apply State.raise_only | apply State.bump_only | apply State.trackResult_only | apply State.onTrackSolve_only | apply State.error_only | apply State.onCom_only | decide | apply Only.foldl

theorem execFastPublish_only : OnlyOut [.regs, .store, .solver, .host, .out] s (execFastPublish s) := by
  unfold execFastPublish
  try dsimp only
  with_reducible repeat' first | apply OnlyOut.next | exact Only.refl _ _ | assumption | (intro _; intros; try beta_reduce) | split | apply State.publishOne_only | apply State.onSolver_only | decide | apply Only.foldl

theorem execFastSolveEnd_only {x0 x1} : OnlyOut [.regs, .solver, .host, .out, .free] s (execFastSolveEnd x0 x1 s) := by
  unfold execFastSolveEnd
  try dsimp only
  with_reducible repeat' first | apply OnlyOut.next | exact Only.refl _ _ | assumption | split | apply State.endFastSolve_only | decide

theorem execFaultClear_only {x0 x1} : OnlyOut [.regs, .held, .wo, .tl, .ports, .fdb, .ing, .store, .com, .engines, .solver, .slot, .place, .mem, .peers, .safety, .host, .boot, .power, .keeper, .fuses, .out, .free] s (execFaultClear x0 x1 s) := by
  unfold execFaultClear
  try dsimp only
  with_reducible repeat' first | apply OnlyOut.next | exact Only.refl _ _ | assumption | apply State.windowWrite_only | decide

theorem execFdbAgeOut_only {x0} : OnlyOut [.fdb] s (execFdbAgeOut x0 s) := by
  unfold execFdbAgeOut
  try dsimp only
  with_reducible repeat' first | apply OnlyOut.next | exact Only.refl _ _ | assumption | decide | fail_if_no_progress (apply Only.mk; rotate_left; (intro c hc; cases c <;> first | exact absurd hc (by decide) | exact trivial | exact rfl))

theorem execFdbFlush_only {x0} : OnlyOut [.regs, .held, .wo, .tl, .ports, .fdb, .ing, .store, .com, .engines, .solver, .slot, .place, .mem, .peers, .safety, .host, .boot, .power, .keeper, .fuses, .out, .free] s (execFdbFlush x0 s) := by
  unfold execFdbFlush
  try dsimp only
  with_reducible repeat' first | apply OnlyOut.next | exact Only.refl _ _ | assumption | apply State.windowWrite_only | decide

theorem execFenceComplete_only {x0} : OnlyOut [.regs, .host, .hostMem, .out] s (execFenceComplete x0 s) := by
  unfold execFenceComplete
  try dsimp only
  with_reducible repeat' first | apply OnlyOut.next | exact Only.refl _ _ | assumption | split | apply State.complete_only | decide

theorem execFollowerMeasurement_only : OnlyOut [.tl] s (execFollowerMeasurement s) := by
  unfold execFollowerMeasurement
  try dsimp only
  with_reducible repeat' first | apply OnlyOut.next | exact Only.refl _ _ | assumption | (intro _; intros; try beta_reduce) | split | apply State.formMeasurement_only | decide | apply Only.foldl

theorem execForceHold_only {x0} : OnlyOut [.regs, .held, .wo, .tl, .ports, .fdb, .ing, .store, .com, .engines, .solver, .slot, .place, .mem, .peers, .safety, .host, .boot, .power, .keeper, .fuses, .out, .free] s (execForceHold x0 s) := by
  unfold execForceHold
  try dsimp only
  with_reducible repeat' first | apply OnlyOut.next | exact Only.refl _ _ | assumption | apply State.windowWrite_only | decide

theorem execFrameBoundary_only {x0} : OnlyOut [.regs, .tl, .store, .com, .engines, .descs, .movers, .data, .solver, .live, .old, .liveBeat, .slot, .place, .mem, .peers, .safety, .host, .power, .keeper, .out] s (execFrameBoundary x0 s) := by
  unfold execFrameBoundary
  try dsimp only
  with_reducible repeat' first | apply OnlyOut.next | exact Only.refl _ _ | assumption | split | apply State.passFrame_only | decide

theorem execFrameReceive_only {x0 x1 x2 x3 x4} : OnlyOut [.regs, .tl, .ports, .fdb, .ing, .host, .out] s (execFrameReceive x0 x1 x2 x3 x4 s) := by
  unfold execFrameReceive
  try dsimp only
  with_reducible repeat' first | apply OnlyOut.next | exact Only.refl _ _ | assumption | split | apply State.bump64_only | apply State.bump_only | apply State.receive_only | decide

theorem execFunctionLevelReset_only {x0} : OnlyOut [.regs, .com, .descs, .movers, .host] s (execFunctionLevelReset x0 s) := by
  unfold execFunctionLevelReset
  try dsimp only
  with_reducible repeat' first | apply OnlyOut.next | exact Only.refl _ _ | assumption | split | apply State.resetFn_only | decide

theorem execFuseProgram_only {x0} : OnlyOut [.regs, .held, .wo, .tl, .ports, .fdb, .ing, .store, .com, .engines, .solver, .slot, .place, .mem, .peers, .safety, .host, .boot, .power, .keeper, .fuses, .out, .free] s (execFuseProgram x0 s) := by
  unfold execFuseProgram
  try dsimp only
  with_reducible repeat' first | apply OnlyOut.next | exact Only.refl _ _ | assumption | apply State.windowWrite_only | decide

theorem execFuseProgramDone_only {x0} : OnlyOut [.regs, .host, .boot, .fuses, .out] s (execFuseProgramDone x0 s) := by
  unfold execFuseProgramDone
  try dsimp only
  with_reducible repeat' first | apply OnlyOut.next | exact Only.refl _ _ | assumption | apply State.programDone_only | decide

theorem execHeartbeatStop_only : OnlyOut [.regs, .safety, .host, .out] s (execHeartbeatStop s) := by
  unfold execHeartbeatStop
  try dsimp only
  with_reducible repeat' first | apply OnlyOut.next | exact Only.refl _ _ | assumption | split | apply State.stopHeartbeat_only | decide

theorem execHeartbeatToggle_only : OnlyOut [.safety] s (execHeartbeatToggle s) := by
  unfold execHeartbeatToggle
  try dsimp only
  with_reducible repeat' first | apply OnlyOut.next | exact Only.refl _ _ | assumption | split | apply State.onSafety_only | decide

theorem execHelloFlit_only {x0 x1 x2} : OnlyOut [.regs, .tl, .com, .peers, .safety, .host, .out] s (execHelloFlit x0 x1 x2 s) := by
  unfold execHelloFlit
  try dsimp only
  with_reducible repeat' first | apply OnlyOut.next | exact Only.refl _ _ | assumption | (intro _; intros; try beta_reduce) | split | apply State.recvLink_only | apply State.hello_only | decide

theorem execHelloSend_only {x0} : OnlyOut [.regs, .peers, .out] s (execHelloSend x0 s) := by
  unfold execHelloSend
  try dsimp only
  with_reducible repeat' first | apply OnlyOut.next | exact Only.refl _ _ | assumption | split | apply State.sendLink_only | decide

theorem execHiWrite_only {x0 x1 x2} : OnlyOut [.regs, .held, .wo, .tl, .ports, .fdb, .ing, .store, .com, .engines, .solver, .slot, .place, .mem, .peers, .safety, .host, .boot, .power, .keeper, .fuses, .out, .free] s (execHiWrite x0 x1 x2 s) := by
  unfold execHiWrite
  try dsimp only
  with_reducible repeat' first | apply OnlyOut.next | exact Only.refl _ _ | assumption | apply State.windowWrite_only | decide

end Sys2Proof.Machine
end

