-- ==== Sys2Proof/Laws/Only5.lean ====
section
/-! SUPPORT. What each operation and command leaves alone (part 5). -/

namespace Sys2Proof.Machine

open Sys2Proof

set_option linter.unusedTactic false
set_option linter.unreachableTactic false
set_option linter.unusedSimpArgs false
set_option linter.unusedVariables false

variable {l : List Component} {a s : State}

theorem execHoldoverTimeout_only : OnlyOut [.regs, .tl, .host, .out] s (execHoldoverTimeout s) := by
  unfold execHoldoverTimeout
  try dsimp only
  with_reducible repeat' first | apply OnlyOut.next | exact Only.refl _ _ | assumption | split | apply State.raise_only | apply State.onTl_only | decide

theorem execHostAttest_only {x0} : OnlyOut [.regs, .host, .keeper, .hostMem, .out] s (execHostAttest x0 s) := by
  unfold execHostAttest
  try dsimp only
  with_reducible repeat' first | apply OnlyOut.next | exact Only.refl _ _ | assumption | (intro _; intros; try beta_reduce) | split | apply State.actItem_only | apply State.onHost_only | apply State.onTaken_only | apply State.beginReport_only | decide

theorem execHostDump_only {x0} : OnlyOut [.regs, .host, .hostMem, .out] s (execHostDump x0 s) := by
  unfold execHostDump
  try dsimp only
  with_reducible repeat' first | apply OnlyOut.next | exact Only.refl _ _ | assumption | (intro _; intros; try beta_reduce) | split | apply State.actItem_only | apply State.complete_only | apply State.onTaken_only | apply State.onHost_only | apply State.dumpBeat_only | decide

theorem execHostFence_only {x0} : OnlyOut [.regs, .host, .hostMem, .out] s (execHostFence x0 s) := by
  unfold execHostFence
  try dsimp only
  with_reducible repeat' first | apply OnlyOut.next | exact Only.refl _ _ | assumption | (intro _; intros; try beta_reduce) | apply State.actItem_only | apply State.onTaken_only | decide

theorem execHostMove_only {x0} : OnlyOut [.regs, .movers, .host, .hostMem, .out] s (execHostMove x0 s) := by
  unfold execHostMove
  try dsimp only
  with_reducible repeat' first | apply OnlyOut.next | exact Only.refl _ _ | assumption | (intro _; intros; try beta_reduce) | apply State.actItem_only | apply State.hostMoveItem_only | decide

theorem execHostNop_only {x0} : OnlyOut [.regs, .host, .hostMem, .out] s (execHostNop x0 s) := by
  unfold execHostNop
  try dsimp only
  with_reducible repeat' first | apply OnlyOut.next | exact Only.refl _ _ | assumption | (intro _; intros; try beta_reduce) | apply State.actItem_only | apply State.complete_only | decide

theorem execHqFlush_only {x0} : OnlyOut [.regs, .held, .wo, .tl, .ports, .fdb, .ing, .store, .com, .engines, .solver, .slot, .place, .mem, .peers, .safety, .host, .boot, .power, .keeper, .fuses, .out, .free] s (execHqFlush x0 s) := by
  unfold execHqFlush
  try dsimp only
  with_reducible repeat' first | apply OnlyOut.next | exact Only.refl _ _ | assumption | apply State.windowWrite_only | decide

theorem execInAck_only {x0} : OnlyOut [.regs, .held, .wo, .tl, .ports, .fdb, .ing, .store, .com, .engines, .solver, .slot, .place, .mem, .peers, .safety, .host, .boot, .power, .keeper, .fuses, .out, .free] s (execInAck x0 s) := by
  unfold execInAck
  try dsimp only
  with_reducible repeat' first | apply OnlyOut.next | exact Only.refl _ _ | assumption | apply State.windowWrite_only | decide

theorem execInService_only : OnlyOut [.regs, .tl, .com, .peers, .safety, .host, .boot, .keeper, .out] s (execInService s) := by
  unfold execInService
  try dsimp only
  with_reducible repeat' first | apply OnlyOut.next | exact Only.refl _ _ | assumption | split | apply State.enterService_only | decide

theorem execIngestFlush_only {x0 x1} : OnlyOut [.regs, .held, .wo, .tl, .ports, .fdb, .ing, .store, .com, .engines, .solver, .slot, .place, .mem, .peers, .safety, .host, .boot, .power, .keeper, .fuses, .out, .free] s (execIngestFlush x0 x1 s) := by
  unfold execIngestFlush
  try dsimp only
  with_reducible repeat' first | apply OnlyOut.next | exact Only.refl _ _ | assumption | apply State.windowWrite_only | decide

theorem execItemRelease_only : OnlyOut [.regs, .ing, .store, .solver, .safety, .host, .out] s (execItemRelease s) := by
  unfold execItemRelease
  try dsimp only
  with_reducible repeat' first | apply OnlyOut.next | exact Only.refl _ _ | assumption | (intro _; intros; try beta_reduce) | split | apply State.releaseOut_only | apply State.onMachine_only | decide | apply Only.foldl

theorem execItemTake_only {x0} : OnlyOut [.regs, .host, .hostMem, .out] s (execItemTake x0 s) := by
  unfold execItemTake
  try dsimp only
  with_reducible repeat' first | apply OnlyOut.next | exact Only.refl _ _ | assumption | split | apply State.takeItem_only | decide

theorem execKeeperRecordWrite_only {x0} : OnlyOut [.regs, .safety, .host, .keeper, .out] s (execKeeperRecordWrite x0 s) := by
  unfold execKeeperRecordWrite
  try dsimp only
  with_reducible repeat' first | apply OnlyOut.next | exact Only.refl _ _ | assumption | split | apply State.keeperFail_only | decide | fail_if_no_progress (apply Only.mk; rotate_left; (intro c hc; cases c <;> first | exact absurd hc (by decide) | exact trivial | exact rfl))

theorem execLaneLockLoss_only {x0 x1} : OnlyOut [.regs, .tl, .com, .peers, .safety, .host, .keeper, .out] s (execLaneLockLoss x0 x1 s) := by
  unfold execLaneLockLoss
  try dsimp only
  with_reducible repeat' first | apply OnlyOut.next | exact Only.refl _ _ | assumption | split | apply State.retireLane_only | decide

theorem execLaneSwapFlit_only {x0 x1 x2 x3} : OnlyOut [.regs, .tl, .com, .peers, .host, .out] s (execLaneSwapFlit x0 x1 x2 x3 s) := by
  unfold execLaneSwapFlit
  try dsimp only
  with_reducible repeat' first | apply OnlyOut.next | exact Only.refl _ _ | assumption | (intro _; intros; try beta_reduce) | apply State.recvLink_only | apply State.swapLane_only | decide

theorem execLoRead_only {x0 x1 x2} : OnlyOut [.regs, .shadows, .safety, .host, .out] s (execLoRead x0 x1 x2 s) := by
  unfold execLoRead
  try dsimp only
  with_reducible repeat' first | apply OnlyOut.next | exact Only.refl _ _ | assumption | split | apply State.readAccess_only | decide

theorem execLoadSlot_only {x0 x1 x2 x3 x4} : OnlyOut [.regs, .engines] s (execLoadSlot x0 x1 x2 x3 x4 s) := by
  unfold execLoadSlot
  try dsimp only
  with_reducible repeat' first | apply OnlyOut.next | exact Only.refl _ _ | assumption | apply State.loadOp_only | decide

theorem execLockAll_only {x0} : OnlyOut [.regs, .held, .wo, .tl, .ports, .fdb, .ing, .store, .com, .engines, .solver, .slot, .place, .mem, .peers, .safety, .host, .boot, .power, .keeper, .fuses, .out, .free] s (execLockAll x0 s) := by
  unfold execLockAll
  try dsimp only
  with_reducible repeat' first | apply OnlyOut.next | exact Only.refl _ _ | assumption | apply State.windowWrite_only | decide

theorem execLockTimeout_only : OnlyOut [.regs, .tl, .com, .peers, .safety, .host, .boot, .keeper, .out] s (execLockTimeout s) := by
  unfold execLockTimeout
  try dsimp only
  with_reducible repeat' first | apply OnlyOut.next | exact Only.refl _ _ | assumption | split | apply State.beginStep11_only | apply State.raise_only | decide

theorem execMapWindow_only {x0} : OnlyOut [.regs, .host, .hostMem, .out] s (execMapWindow x0 s) := by
  unfold execMapWindow
  try dsimp only
  with_reducible repeat' first | apply OnlyOut.next | exact Only.refl _ _ | assumption | (intro _; intros; try beta_reduce) | split | apply State.actItem_only | apply State.complete_only | apply State.onFn_only | decide

theorem execMarginReset_only {x0} : OnlyOut [.regs, .held, .wo, .tl, .ports, .fdb, .ing, .store, .com, .engines, .solver, .slot, .place, .mem, .peers, .safety, .host, .boot, .power, .keeper, .fuses, .out, .free] s (execMarginReset x0 s) := by
  unfold execMarginReset
  try dsimp only
  with_reducible repeat' first | apply OnlyOut.next | exact Only.refl _ _ | assumption | apply State.windowWrite_only | decide

theorem execMarrowForget_only {x0} : OnlyOut [.regs, .held, .wo, .tl, .ports, .fdb, .ing, .store, .com, .engines, .solver, .slot, .place, .mem, .peers, .safety, .host, .boot, .power, .keeper, .fuses, .out, .free] s (execMarrowForget x0 s) := by
  unfold execMarrowForget
  try dsimp only
  with_reducible repeat' first | apply OnlyOut.next | exact Only.refl _ _ | assumption | apply State.windowWrite_only | decide

theorem execMarrowSweep_only : OnlyOut [.regs, .host, .power, .keeper, .out] s (execMarrowSweep s) := by
  unfold execMarrowSweep
  try dsimp only
  with_reducible repeat' first | apply OnlyOut.next | exact Only.refl _ _ | assumption | split | apply State.walkSweep_only | apply State.beginSweep_only | decide

theorem execMboxBootTimes_only : OnlyOut [.regs, .host, .boot, .out] s (execMboxBootTimes s) := by
  unfold execMboxBootTimes
  try dsimp only
  with_reducible repeat' first | apply OnlyOut.next | exact Only.refl _ _ | assumption | (intro _; intros; try beta_reduce) | apply State.answer_only | apply State.reply_only | apply State.replyWords_only | decide

theorem execMboxFwWrite_only {x0} : OnlyOut [.regs, .host, .boot, .flash, .out] s (execMboxFwWrite x0 s) := by
  unfold execMboxFwWrite
  try dsimp only
  with_reducible repeat' first | apply OnlyOut.next | exact Only.refl _ _ | assumption | (intro _; intros; try beta_reduce) | apply State.answer_only | apply State.fwWrite_only | decide

theorem execMboxTelemetry_only : OnlyOut [.regs, .host, .boot, .out] s (execMboxTelemetry s) := by
  unfold execMboxTelemetry
  try dsimp only
  with_reducible repeat' first | apply OnlyOut.next | exact Only.refl _ _ | assumption | (intro _; intros; try beta_reduce) | apply State.answer_only | apply State.reply_only | apply State.replyWords_only | decide

theorem execMeshDoubleBit_only {x0 x1} : OnlyOut [.regs, .store, .com, .engines, .data, .slot, .place, .mem, .peers, .safety, .host, .keeper, .out, .free] s (execMeshDoubleBit x0 x1 s) := by
  unfold execMeshDoubleBit
  try dsimp only
  with_reducible repeat' first | apply OnlyOut.next | exact Only.refl _ _ | assumption | split | apply State.engEvent_only | apply State.groupEvent_only | apply State.countSymbols_only | apply State.hardFail_only | decide

theorem execMeshSingleBit_only {x0 x1} : OnlyOut [.mem] s (execMeshSingleBit x0 x1 s) := by
  unfold execMeshSingleBit
  try dsimp only
  with_reducible repeat' first | apply OnlyOut.next | exact Only.refl _ _ | assumption | apply State.onMem_only | decide

theorem execMirrorFlit_only {x0 x1 x2} : OnlyOut [.regs, .tl, .com, .peers, .safety, .host, .keeper, .out] s (execMirrorFlit x0 x1 x2 s) := by
  unfold execMirrorFlit
  try dsimp only
  with_reducible repeat' first | apply OnlyOut.next | exact Only.refl _ _ | assumption | (intro _; intros; try beta_reduce) | apply State.recvFlit_only | apply State.mirrorFrom_only | decide

theorem execMirrorLag_only : OnlyOut [.regs, .host, .out] s (execMirrorLag s) := by
  unfold execMirrorLag
  try dsimp only
  with_reducible repeat' first | apply OnlyOut.next | exact Only.refl _ _ | assumption | split | apply State.raise_only | decide

theorem execMoverCopy_only {x0} : OnlyOut [.regs, .engines, .movers, .data, .peers, .safety, .host, .hostMem, .out, .free] s (execMoverCopy x0 s) := by
  unfold execMoverCopy
  try dsimp only
  with_reducible repeat' first | apply OnlyOut.next | exact Only.refl _ _ | assumption | apply State.moverCopy_only | decide

theorem execMoverDeliver_only {x0} : OnlyOut [.regs, .com, .movers, .safety, .host, .out, .free] s (execMoverDeliver x0 s) := by
  unfold execMoverDeliver
  try dsimp only
  with_reducible repeat' first | apply OnlyOut.next | exact Only.refl _ _ | assumption | apply State.moverDeliver_only | decide

theorem execMoverFill_only {x0} : OnlyOut [.regs, .engines, .movers, .data, .peers, .safety, .host, .hostMem, .out, .free] s (execMoverFill x0 s) := by
  unfold execMoverFill
  try dsimp only
  with_reducible repeat' first | apply OnlyOut.next | exact Only.refl _ _ | assumption | apply State.moverFill_only | decide

theorem execMoverGather_only {x0} : OnlyOut [.regs, .engines, .movers, .data, .peers, .safety, .host, .hostMem, .out, .free] s (execMoverGather x0 s) := by
  unfold execMoverGather
  try dsimp only
  with_reducible repeat' first | apply OnlyOut.next | exact Only.refl _ _ | assumption | apply State.moverGather_only | decide

theorem execMoverOpComplete_only {x0} : OnlyOut [.regs, .engines, .descs, .movers, .host, .hostMem, .out] s (execMoverOpComplete x0 s) := by
  unfold execMoverOpComplete
  try dsimp only
  with_reducible repeat' first | apply OnlyOut.next | exact Only.refl _ _ | assumption | split | apply State.bump_only | apply State.onMover_only | apply State.jobCompletes_only | apply State.chanSignal_only | decide

theorem execMoverOpStart_only {x0 x1} : OnlyOut [.regs, .descs, .movers, .host, .hostMem, .out] s (execMoverOpStart x0 x1 s) := by
  unfold execMoverOpStart
  try dsimp only
  with_reducible repeat' first | apply OnlyOut.next | exact Only.refl _ _ | assumption | split | apply State.onMover_only | apply State.jobCompletes_only | apply State.opRefused_only | decide

theorem execMoverScatter_only {x0} : OnlyOut [.regs, .engines, .movers, .data, .peers, .safety, .host, .hostMem, .out, .free] s (execMoverScatter x0 s) := by
  unfold execMoverScatter
  try dsimp only
  with_reducible repeat' first | apply OnlyOut.next | exact Only.refl _ _ | assumption | apply State.moverScatter_only | decide

theorem execNakFlit_only {x0 x1} : OnlyOut [.regs, .tl, .com, .peers, .host, .out] s (execNakFlit x0 x1 s) := by
  unfold execNakFlit
  try dsimp only
  with_reducible repeat' first | apply OnlyOut.next | exact Only.refl _ _ | assumption | (intro _; intros; try beta_reduce) | split | apply State.recvLink_only | apply State.replayAll_only | apply State.bump_only | decide

theorem execOutPost_only {x0} : OnlyOut [.regs, .held, .wo, .tl, .ports, .fdb, .ing, .store, .com, .engines, .solver, .slot, .place, .mem, .peers, .safety, .host, .boot, .power, .keeper, .fuses, .out, .free] s (execOutPost x0 s) := by
  unfold execOutPost
  try dsimp only
  with_reducible repeat' first | apply OnlyOut.next | exact Only.refl _ _ | assumption | apply State.windowWrite_only | decide

theorem execParserAlu_only {x0 x1 x2 x3 x4} : OnlyOut [.regs, .ing, .host, .out, .free] s (execParserAlu x0 x1 x2 x3 x4 s) := by
  unfold execParserAlu
  try dsimp only
  with_reducible repeat' first | apply OnlyOut.next | exact Only.refl _ _ | assumption | split | apply State.took_only | apply State.parse_only | decide

theorem execParserBranch_only {x0 x1 x2 x3 x4} : OnlyOut [.regs, .ing, .host, .out] s (execParserBranch x0 x1 x2 x3 x4 s) := by
  unfold execParserBranch
  try dsimp only
  with_reducible repeat' first | apply OnlyOut.next | exact Only.refl _ _ | assumption | split | apply State.abandon_only | apply State.onMachine_only | apply State.parse_only | decide

theorem execParserDrop_only {x0} : OnlyOut [.regs, .ing, .host, .out] s (execParserDrop x0 s) := by
  unfold execParserDrop
  try dsimp only
  with_reducible repeat' first | apply OnlyOut.next | exact Only.refl _ _ | assumption | split | apply State.abandon_only | decide

theorem execParserEmit_only {x0} : OnlyOut [.regs, .ing, .host, .out] s (execParserEmit x0 s) := by
  unfold execParserEmit
  try dsimp only
  with_reducible repeat' first | apply OnlyOut.next | exact Only.refl _ _ | assumption | split | apply State.parse_only | decide

theorem execParserEnd_only {x0} : OnlyOut [.regs, .ing, .host, .out] s (execParserEnd x0 s) := by
  unfold execParserEnd
  try dsimp only
  with_reducible repeat' first | apply OnlyOut.next | exact Only.refl _ _ | assumption | apply State.parse_only | decide

theorem execParserExtract_only {x0 x1 x2 x3 x4} : OnlyOut [.regs, .ing, .host, .out] s (execParserExtract x0 x1 x2 x3 x4 s) := by
  unfold execParserExtract
  try dsimp only
  with_reducible repeat' first | apply OnlyOut.next | exact Only.refl _ _ | assumption | apply State.parse_only | decide

theorem execParserExtracts_only {x0 x1 x2 x3 x4} : OnlyOut [.regs, .ing, .host, .out] s (execParserExtracts x0 x1 x2 x3 x4 s) := by
  unfold execParserExtracts
  try dsimp only
  with_reducible repeat' first | apply OnlyOut.next | exact Only.refl _ _ | assumption | apply State.parse_only | decide

theorem execParserImage_only {x0 x1 x2 x3 x4 x5} : OnlyOut [.regs, .ing, .host, .out] s (execParserImage x0 x1 x2 x3 x4 x5 s) := by
  unfold execParserImage
  try dsimp only
  with_reducible repeat' first | apply OnlyOut.next | exact Only.refl _ _ | assumption | split | apply State.parse_only | decide

theorem execParserLoop_only {x0 x1 x2 x3} : OnlyOut [.regs, .ing, .host, .out] s (execParserLoop x0 x1 x2 x3 s) := by
  unfold execParserLoop
  try dsimp only
  with_reducible repeat' first | apply OnlyOut.next | exact Only.refl _ _ | assumption | split | apply State.parse_only | decide

theorem execParserMotion_only {x0 x1 x2} : OnlyOut [.regs, .ing, .host, .out] s (execParserMotion x0 x1 x2 s) := by
  unfold execParserMotion
  try dsimp only
  with_reducible repeat' first | apply OnlyOut.next | exact Only.refl _ _ | assumption | split | apply State.parse_only | decide

theorem execParserPolar_only {x0 x1 x2 x3 x4} : OnlyOut [.regs, .ing, .host, .out] s (execParserPolar x0 x1 x2 x3 x4 s) := by
  unfold execParserPolar
  try dsimp only
  with_reducible repeat' first | apply OnlyOut.next | exact Only.refl _ _ | assumption | apply State.parse_only | decide

theorem execParserScale_only {x0 x1 x2 x3 x4} : OnlyOut [.regs, .ing, .host, .out] s (execParserScale x0 x1 x2 x3 x4 s) := by
  unfold execParserScale
  try dsimp only
  with_reducible repeat' first | apply OnlyOut.next | exact Only.refl _ _ | assumption | apply State.parse_only | decide

theorem execParserTakeItem_only {x0} : OnlyOut [.regs, .ing, .host, .out] s (execParserTakeItem x0 s) := by
  unfold execParserTakeItem
  try dsimp only
  with_reducible repeat' first | apply OnlyOut.next | exact Only.refl _ _ | assumption | split | apply State.onIng_only | apply State.onMachine_only | apply State.watermark_only | decide

theorem execParserTime_only {x0 x1} : OnlyOut [.regs, .ing, .host, .out] s (execParserTime x0 x1 s) := by
  unfold execParserTime
  try dsimp only
  with_reducible repeat' first | apply OnlyOut.next | exact Only.refl _ _ | assumption | split | apply State.parse_only | decide

theorem execPciePerst_only : OnlyOut [.regs, .com, .descs, .movers, .host] s (execPciePerst s) := by
  unfold execPciePerst
  try dsimp only
  with_reducible repeat' first | apply OnlyOut.next | exact Only.refl _ _ | assumption | split | apply State.resetFn_only | decide

theorem execPdelayReqSend_only {x0} : OnlyOut [.regs, .ports] s (execPdelayReqSend x0 s) := by
  unfold execPdelayReqSend
  try dsimp only
  with_reducible repeat' first | apply OnlyOut.next | exact Only.refl _ _ | assumption | split | apply State.onPort_only | apply State.egress_only | decide

theorem execPeaFile_only : OnlyOut [.regs, .store, .com, .host, .out, .free] s (execPeaFile s) := by
  unfold execPeaFile
  try dsimp only
  with_reducible repeat' first | apply OnlyOut.next | exact Only.refl _ _ | assumption | split | apply State.fileItem_only | apply State.onStore_only | decide

theorem execPeaFlit_only {x0 x1 x2} : OnlyOut [.regs, .tl, .ing, .store, .com, .peers, .safety, .host, .keeper, .out] s (execPeaFlit x0 x1 x2 s) := by
  unfold execPeaFlit
  try dsimp only
  with_reducible repeat' first | apply OnlyOut.next | exact Only.refl _ _ | assumption | (intro _; intros; try beta_reduce) | split | apply State.recvFlit_only | apply State.peerPea_only | decide | apply Only.foldl

theorem execPeerAligned_only {x0} : OnlyOut [.peers] s (execPeerAligned x0 s) := by
  unfold execPeerAligned
  try dsimp only
  with_reducible repeat' first | apply OnlyOut.next | exact Only.refl _ _ | assumption | split | apply State.onPeer_only | decide

theorem execPeerRetry_only {x0 x1} : OnlyOut [.regs, .held, .wo, .tl, .ports, .fdb, .ing, .store, .com, .engines, .solver, .slot, .place, .mem, .peers, .safety, .host, .boot, .power, .keeper, .fuses, .out, .free] s (execPeerRetry x0 x1 s) := by
  unfold execPeerRetry
  try dsimp only
  with_reducible repeat' first | apply OnlyOut.next | exact Only.refl _ _ | assumption | apply State.windowWrite_only | decide

theorem execPeerSerdesPllLoss_only {x0 x1} : OnlyOut [.regs, .tl, .com, .peers, .host, .out] s (execPeerSerdesPllLoss x0 x1 s) := by
  unfold execPeerSerdesPllLoss
  try dsimp only
  with_reducible repeat' first | apply OnlyOut.next | exact Only.refl _ _ | assumption | split | apply State.retirePort_only | decide

theorem execPeerSignalDetect_only {x0 x1} : OnlyOut [.regs, .tl, .com, .peers, .host, .out] s (execPeerSignalDetect x0 x1 s) := by
  unfold execPeerSignalDetect
  try dsimp only
  with_reducible repeat' first | apply OnlyOut.next | exact Only.refl _ _ | assumption | split | apply State.onPeer_only | apply State.linkDown_only | decide

theorem execPeerTrainingDone_only {x0 x1} : OnlyOut [.regs, .tl, .com, .peers, .safety, .host, .keeper, .out] s (execPeerTrainingDone x0 x1 s) := by
  unfold execPeerTrainingDone
  try dsimp only
  with_reducible repeat' first | apply OnlyOut.next | exact Only.refl _ _ | assumption | (intro _; intros; try beta_reduce) | split | apply State.raise_only | apply State.declare_only | apply State.onPeer_only | apply State.retirePort_only | decide | apply Only.foldl

theorem execPlaceEvaluate_only {x0} : OnlyOut [.regs, .held, .wo, .tl, .ports, .fdb, .ing, .store, .com, .engines, .solver, .slot, .place, .mem, .peers, .safety, .host, .boot, .power, .keeper, .fuses, .out, .free] s (execPlaceEvaluate x0 s) := by
  unfold execPlaceEvaluate
  try dsimp only
  with_reducible repeat' first | apply OnlyOut.next | exact Only.refl _ _ | assumption | apply State.windowWrite_only | decide

theorem execPodMerge_only {x0} : OnlyOut [.regs, .store, .com, .peers, .host, .out] s (execPodMerge x0 s) := by
  unfold execPodMerge
  try dsimp only
  with_reducible repeat' first | apply OnlyOut.next | exact Only.refl _ _ | assumption | split | apply State.mergeStart_only | apply State.onStore_only | apply State.mergeNode_only | decide

theorem execPodRelocate_only {x0} : OnlyOut [.regs, .store] s (execPodRelocate x0 s) := by
  unfold execPodRelocate
  try dsimp only
  with_reducible repeat' first | apply OnlyOut.next | exact Only.refl _ _ | assumption | split | apply State.bump_only | apply State.onStore_only | decide

theorem execPortDown_only {x0} : OnlyOut [.regs, .tl, .com, .peers, .host, .out] s (execPortDown x0 s) := by
  unfold execPortDown
  try dsimp only
  with_reducible repeat' first | apply OnlyOut.next | exact Only.refl _ _ | assumption | split | apply State.linkDown_only | decide

theorem execPortEvent_only {x0 x1 x2} : OnlyOut [.regs, .ports, .safety, .host, .keeper, .out] s (execPortEvent x0 x1 x2 s) := by
  unfold execPortEvent
  try dsimp only
  with_reducible repeat' first | apply OnlyOut.next | exact Only.refl _ _ | assumption | split | apply State.logRec_only | apply State.onPort_only | apply State.sensorDown_only | apply State.bump_only | apply State.retireSensorPort_only | decide

theorem execPortSpeedWrite_only {x0 x1 x2} : OnlyOut [.regs, .held, .wo, .tl, .ports, .fdb, .ing, .store, .com, .engines, .solver, .slot, .place, .mem, .peers, .safety, .host, .boot, .power, .keeper, .fuses, .out, .free] s (execPortSpeedWrite x0 x1 x2 s) := by
  unfold execPortSpeedWrite
  try dsimp only
  with_reducible repeat' first | apply OnlyOut.next | exact Only.refl _ _ | assumption | apply State.windowWrite_only | decide

theorem execPoseSample_only : OnlyOut [.safety] s (execPoseSample s) := by
  unfold execPoseSample
  try dsimp only
  with_reducible repeat' first | apply OnlyOut.next | exact Only.refl _ _ | assumption | (intro _; intros; try beta_reduce) | split | apply State.onSafety_only | decide | apply Only.foldl

theorem execPowerDomainFault_only {x0} : OnlyOut [.regs, .store, .com, .engines, .data, .slot, .place, .mem, .peers, .safety, .host, .keeper, .out] s (execPowerDomainFault x0 s) := by
  unfold execPowerDomainFault
  try dsimp only
  with_reducible repeat' first | apply OnlyOut.next | exact Only.refl _ _ | assumption | split | apply State.domainFault_only | decide

theorem execPowerSag_only {x0} : OnlyOut [.regs, .com, .engines, .slot, .safety, .host, .boot, .power, .keeper, .out] s (execPowerSag x0 s) := by
  unfold execPowerSag
  try dsimp only
  with_reducible repeat' first | apply OnlyOut.next | exact Only.refl _ _ | assumption | split | apply State.bump_only | apply State.raise_only | apply State.beginSave_only | apply State.onPower_only | decide

theorem execPpsInEdge_only {x0 x1} : OnlyOut [.regs, .tl, .host, .out] s (execPpsInEdge x0 x1 s) := by
  unfold execPpsInEdge
  try dsimp only
  with_reducible repeat' first | apply OnlyOut.next | exact Only.refl _ _ | assumption | split | apply State.stampTime_only | (apply State.stampTime_only'; rotate_left; decide; assumption) | apply State.onTl_only | apply State.setWords_only | decide

theorem execPpsMissing_only : OnlyOut [.regs, .tl, .host, .out] s (execPpsMissing s) := by
  unfold execPpsMissing
  try dsimp only
  with_reducible repeat' first | apply OnlyOut.next | exact Only.refl _ _ | assumption | split | apply State.raise_only | apply State.onTl_only | decide

theorem execPpsOutPulse_only : OnlyOut [.tl, .out] s (execPpsOutPulse s) := by
  unfold execPpsOutPulse
  try dsimp only
  with_reducible repeat' first | apply OnlyOut.next | exact Only.refl _ _ | assumption | split | apply State.send_only | apply State.onTl_only | decide

theorem execPushWord_only {x0 x1 x2} : OnlyOut [.regs, .safety, .host, .out] s (execPushWord x0 x1 x2 s) := by
  unfold execPushWord
  try dsimp only
  with_reducible repeat' first | apply OnlyOut.next | exact Only.refl _ _ | assumption | split | apply State.pushAll_only | decide

theorem execPwrOkLoss_only : OnlyOut [.regs, .shadows, .held, .wo, .resetN, .pwrOk, .tl, .roots, .ports, .fdb, .ing, .store, .com, .engines, .descs, .movers, .data, .solver, .live, .old, .liveBeat, .slot, .place, .mem, .peers, .safety, .host, .boot, .power] s (execPwrOkLoss s) := by
  unfold execPwrOkLoss
  try dsimp only
  with_reducible repeat' first | apply OnlyOut.next | exact Only.refl _ _ | assumption | apply State.inReset_only | decide | fail_if_no_progress (apply Only.mk; rotate_left; (intro c hc; cases c <;> first | exact absurd hc (by decide) | exact trivial | exact rfl))

theorem execPwrOkRise_only : OnlyOut [.pwrOk] s (execPwrOkRise s) := by
  unfold execPwrOkRise
  try dsimp only
  with_reducible repeat' first | apply OnlyOut.next | exact Only.refl _ _ | assumption | decide | fail_if_no_progress (apply Only.mk; rotate_left; (intro c hc; cases c <;> first | exact absurd hc (by decide) | exact trivial | exact rfl))

theorem execRadishAnswer_only {x0 x1} : OnlyOut [.regs, .engines, .slot, .place, .safety, .host, .keeper, .out] s (execRadishAnswer x0 x1 s) := by
  unfold execRadishAnswer
  try dsimp only
  with_reducible repeat' first | apply OnlyOut.next | exact Only.refl _ _ | assumption | split | apply State.radishEnd_only | decide

theorem execRadishTimeout_only {x0} : OnlyOut [.regs, .engines, .slot, .place, .safety, .host, .keeper, .out] s (execRadishTimeout x0 s) := by
  unfold execRadishTimeout
  try dsimp only
  with_reducible repeat' first | apply OnlyOut.next | exact Only.refl _ _ | assumption | split | apply State.radishEnd_only | decide

theorem execRecheckEnd_only {x0 x1} : OnlyOut [.regs, .com, .engines, .slot, .place, .safety, .host, .keeper, .out] s (execRecheckEnd x0 x1 s) := by
  unfold execRecheckEnd
  try dsimp only
  with_reducible repeat' first | apply OnlyOut.next | exact Only.refl _ _ | assumption | split | apply State.endRecheck_only | decide

theorem execRecheckTimeout_only {x0} : OnlyOut [.regs, .com, .engines, .slot, .place, .safety, .host, .keeper, .out] s (execRecheckTimeout x0 s) := by
  unfold execRecheckTimeout
  try dsimp only
  with_reducible repeat' first | apply OnlyOut.next | exact Only.refl _ _ | assumption | split | apply State.endRecheckShadow_only | apply State.checkerRetire_only | apply State.logChecker_only | apply State.raise_only | apply State.bump_only | apply State.onSafety_only | decide

theorem execRecordTransmit_only {x0} : OnlyOut [.regs, .com, .peers, .safety] s (execRecordTransmit x0 s) := by
  unfold execRecordTransmit
  try dsimp only
  with_reducible repeat' first | apply OnlyOut.next | exact Only.refl _ _ | assumption | split | apply State.takeRecord_only | (apply State.takeRecord_only'; rotate_left; decide; assumption) | apply State.onDest_only | apply State.queueFlits_only | decide

theorem execRedeskew_only : OnlyOut [.regs, .store, .com, .peers, .host, .out, .free] s (execRedeskew s) := by
  unfold execRedeskew
  try dsimp only
  with_reducible repeat' first | apply OnlyOut.next | exact Only.refl _ _ | assumption | split | apply State.onStore_only | apply State.redeskewOne_only | apply State.abandonCandidate_only | decide

theorem execRefreshMirror_only {x0} : OnlyOut [.regs, .held, .wo, .tl, .ports, .fdb, .ing, .store, .com, .engines, .solver, .slot, .place, .mem, .peers, .safety, .host, .boot, .power, .keeper, .fuses, .out, .free] s (execRefreshMirror x0 s) := by
  unfold execRefreshMirror
  try dsimp only
  with_reducible repeat' first | apply OnlyOut.next | exact Only.refl _ _ | assumption | apply State.windowWrite_only | decide

theorem execRefreshReqFlit_only {x0 x1} : OnlyOut [.regs, .peers, .out] s (execRefreshReqFlit x0 x1 s) := by
  unfold execRefreshReqFlit
  try dsimp only
  with_reducible repeat' first | apply OnlyOut.next | exact Only.refl _ _ | assumption | (intro _; intros; try beta_reduce) | split | apply State.recvLink_only | apply State.refreshSet_only | decide

theorem execRegisterWrite_only {x0 x1 x2} : OnlyOut [.regs, .held, .wo, .tl, .ports, .fdb, .ing, .store, .com, .engines, .solver, .slot, .place, .mem, .peers, .safety, .host, .boot, .power, .keeper, .fuses, .out, .free] s (execRegisterWrite x0 x1 x2 s) := by
  unfold execRegisterWrite
  try dsimp only
  with_reducible repeat' first | apply OnlyOut.next | exact Only.refl _ _ | assumption | split | apply State.writeAccess_only | decide

theorem execRehearsalDone_only {x0} : OnlyOut [.regs, .engines, .slot, .place, .safety, .host, .keeper, .out] s (execRehearsalDone x0 s) := by
  unfold execRehearsalDone
  try dsimp only
  with_reducible repeat' first | apply OnlyOut.next | exact Only.refl _ _ | assumption | split | apply State.rehearsed_only | decide

theorem execRekeyAll_only {x0} : OnlyOut [.regs, .held, .wo, .tl, .ports, .fdb, .ing, .store, .com, .engines, .solver, .slot, .place, .mem, .peers, .safety, .host, .boot, .power, .keeper, .fuses, .out, .free] s (execRekeyAll x0 s) := by
  unfold execRekeyAll
  try dsimp only
  with_reducible repeat' first | apply OnlyOut.next | exact Only.refl _ _ | assumption | apply State.windowWrite_only | decide

theorem execRekeyCopyDone_only {x0} : OnlyOut [.store] s (execRekeyCopyDone x0 s) := by
  unfold execRekeyCopyDone
  try dsimp only
  with_reducible repeat' first | apply OnlyOut.next | exact Only.refl _ _ | assumption | split | decide | fail_if_no_progress (apply Only.mk; rotate_left; (intro c hc; cases c <;> first | exact absurd hc (by decide) | exact trivial | exact rfl))

theorem execRekeyDrainDone_only {x0} : OnlyOut [.regs, .store, .host, .out] s (execRekeyDrainDone x0 s) := by
  unfold execRekeyDrainDone
  try dsimp only
  with_reducible repeat' first | apply OnlyOut.next | exact Only.refl _ _ | assumption | split | apply State.onStore_only | apply State.raise_only | apply State.bump_only | decide

theorem execRekeyStart_only {x0} : OnlyOut [.store] s (execRekeyStart x0 s) := by
  unfold execRekeyStart
  try dsimp only
  with_reducible repeat' first | apply OnlyOut.next | exact Only.refl _ _ | assumption | split | apply State.onStore_only | decide

theorem execReleaseCaptures_only {x0 x1} : OnlyOut [.regs, .held, .wo, .tl, .ports, .fdb, .ing, .store, .com, .engines, .solver, .slot, .place, .mem, .peers, .safety, .host, .boot, .power, .keeper, .fuses, .out, .free] s (execReleaseCaptures x0 x1 s) := by
  unfold execReleaseCaptures
  try dsimp only
  with_reducible repeat' first | apply OnlyOut.next | exact Only.refl _ _ | assumption | split | apply State.windowWrite_only | decide

theorem execReplayTimeout_only {x0} : OnlyOut [.regs, .tl, .com, .peers, .host, .out] s (execReplayTimeout x0 s) := by
  unfold execReplayTimeout
  try dsimp only
  with_reducible repeat' first | apply OnlyOut.next | exact Only.refl _ _ | assumption | split | apply State.replayAll_only | apply State.bump_only | decide

theorem execResetAssert_only : OnlyOut [.regs, .shadows, .held, .wo, .resetN, .tl, .roots, .ports, .fdb, .ing, .store, .com, .engines, .descs, .movers, .data, .solver, .live, .old, .liveBeat, .slot, .place, .mem, .peers, .safety, .host, .boot, .power] s (execResetAssert s) := by
  unfold execResetAssert
  try dsimp only
  with_reducible repeat' first | apply OnlyOut.next | exact Only.refl _ _ | assumption | apply State.inReset_only | decide

theorem execResetRelease_only {x0 x1} : OnlyOut [.regs, .shadows, .held, .wo, .resetN, .tl, .roots, .ports, .fdb, .ing, .store, .com, .engines, .descs, .movers, .data, .solver, .live, .old, .liveBeat, .slot, .place, .mem, .peers, .safety, .host, .boot, .power] s (execResetRelease x0 x1 s) := by
  unfold execResetRelease
  try dsimp only
  with_reducible repeat' first | apply OnlyOut.next | exact Only.refl _ _ | assumption | split | apply State.releaseReset_only | decide

theorem execRingEnable_only {x0 x1} : OnlyOut [.regs, .held, .wo, .tl, .ports, .fdb, .ing, .store, .com, .engines, .solver, .slot, .place, .mem, .peers, .safety, .host, .boot, .power, .keeper, .fuses, .out, .free] s (execRingEnable x0 x1 s) := by
  unfold execRingEnable
  try dsimp only
  with_reducible repeat' first | apply OnlyOut.next | exact Only.refl _ _ | assumption | apply State.windowWrite_only | decide

theorem execRingIrq_only : OnlyOut [.host, .out] s (execRingIrq s) := by
  unfold execRingIrq
  try dsimp only
  with_reducible repeat' first | apply OnlyOut.next | exact Only.refl _ _ | assumption | split | apply State.onHost_only | apply State.msix_only | decide

theorem execRingReadWrite_only {x0 x1} : OnlyOut [.regs, .held, .wo, .tl, .ports, .fdb, .ing, .store, .com, .engines, .solver, .slot, .place, .mem, .peers, .safety, .host, .boot, .power, .keeper, .fuses, .out, .free] s (execRingReadWrite x0 x1 s) := by
  unfold execRingReadWrite
  try dsimp only
  with_reducible repeat' first | apply OnlyOut.next | exact Only.refl _ _ | assumption | apply State.windowWrite_only | decide

theorem execRingRecordWrite_only : OnlyOut [.regs, .com, .host, .hostMem] s (execRingRecordWrite s) := by
  unfold execRingRecordWrite
  try dsimp only
  with_reducible repeat' first | apply OnlyOut.next | exact Only.refl _ _ | assumption | split | apply State.ringRecord_only | apply State.onDest_only | decide

theorem execRingSuspend_only : OnlyOut [.regs, .com, .safety, .host, .out] s (execRingSuspend s) := by
  unfold execRingSuspend
  try dsimp only
  with_reducible repeat' first | apply OnlyOut.next | exact Only.refl _ _ | assumption | split | apply State.ringSuspendAct_only | decide

theorem execRootDiv_only {x0 x1 x2 x3 x4 x5 x6} : OnlyOut [.engines] s (execRootDiv x0 x1 x2 x3 x4 x5 x6 s) := by
  unfold execRootDiv
  try dsimp only
  with_reducible repeat' first | apply OnlyOut.next | exact Only.refl _ _ | assumption | apply State.rootOp_only | decide

theorem execRootPivot_only {x0 x1 x2 x3 x4 x5} : OnlyOut [.engines] s (execRootPivot x0 x1 x2 x3 x4 x5 s) := by
  unfold execRootPivot
  try dsimp only
  with_reducible repeat' first | apply OnlyOut.next | exact Only.refl _ _ | assumption | apply State.pivotOp_only | decide

theorem execRootRecip_only {x0 x1 x2 x3 x4 x5} : OnlyOut [.engines] s (execRootRecip x0 x1 x2 x3 x4 x5 s) := by
  unfold execRootRecip
  try dsimp only
  with_reducible repeat' first | apply OnlyOut.next | exact Only.refl _ _ | assumption | apply State.rootOp_only | decide

theorem execRootRelock_only {x0} : OnlyOut [.regs, .roots, .com, .engines, .slot, .safety, .host, .keeper, .out] s (execRootRelock x0 s) := by
  unfold execRootRelock
  try dsimp only
  with_reducible repeat' first | apply OnlyOut.next | exact Only.refl _ _ | assumption | split | apply State.onRoot_only | apply State.retireRoot_only | decide

theorem execRootRetire_only {x0} : OnlyOut [.regs, .roots, .com, .engines, .slot, .safety, .host, .keeper, .out] s (execRootRetire x0 s) := by
  unfold execRootRetire
  try dsimp only
  with_reducible repeat' first | apply OnlyOut.next | exact Only.refl _ _ | assumption | split | apply State.retireRoot_only | decide

theorem execRootRsqrt_only {x0 x1 x2 x3 x4 x5} : OnlyOut [.engines] s (execRootRsqrt x0 x1 x2 x3 x4 x5 s) := by
  unfold execRootRsqrt
  try dsimp only
  with_reducible repeat' first | apply OnlyOut.next | exact Only.refl _ _ | assumption | apply State.rootOp_only | decide

theorem execRootSqrt_only {x0 x1 x2 x3 x4 x5} : OnlyOut [.engines] s (execRootSqrt x0 x1 x2 x3 x4 x5 s) := by
  unfold execRootSqrt
  try dsimp only
  with_reducible repeat' first | apply OnlyOut.next | exact Only.refl _ _ | assumption | apply State.rootOp_only | decide

theorem execRootSwitch_only : OnlyOut [.regs, .tl, .roots, .com, .engines, .slot, .safety, .host, .keeper, .out, .free] s (execRootSwitch s) := by
  unfold execRootSwitch
  try dsimp only
  with_reducible repeat' first | apply OnlyOut.next | exact Only.refl _ _ | assumption | split | apply State.switchRoot_only | decide

theorem execSafetyResume_only {x0} : OnlyOut [.regs, .held, .wo, .tl, .ports, .fdb, .ing, .store, .com, .engines, .solver, .slot, .place, .mem, .peers, .safety, .host, .boot, .power, .keeper, .fuses, .out, .free] s (execSafetyResume x0 s) := by
  unfold execSafetyResume
  try dsimp only
  with_reducible repeat' first | apply OnlyOut.next | exact Only.refl _ _ | assumption | apply State.windowWrite_only | decide

theorem execSaveComplete_only {x0} : OnlyOut [.com, .safety, .power, .keeper] s (execSaveComplete x0 s) := by
  unfold execSaveComplete
  try dsimp only
  with_reducible repeat' first | apply OnlyOut.next | exact Only.refl _ _ | assumption | split | apply State.endSave_only | decide

theorem execScrubNow_only {x0} : OnlyOut [.regs, .held, .wo, .tl, .ports, .fdb, .ing, .store, .com, .engines, .solver, .slot, .place, .mem, .peers, .safety, .host, .boot, .power, .keeper, .fuses, .out, .free] s (execScrubNow x0 s) := by
  unfold execScrubNow
  try dsimp only
  with_reducible repeat' first | apply OnlyOut.next | exact Only.refl _ _ | assumption | apply State.windowWrite_only | decide

theorem execScrubRead_only {x0 x1 x2} : OnlyOut [.regs, .store, .com, .engines, .data, .slot, .place, .mem, .peers, .safety, .host, .keeper, .out] s (execScrubRead x0 x1 x2 s) := by
  unfold execScrubRead
  try dsimp only
  with_reducible repeat' first | apply OnlyOut.next | exact Only.refl _ _ | assumption | split | apply State.onMem_only | apply State.readCw_only | apply State.bump_only | decide

theorem execSeedFlit_only {x0 x1 x2} : OnlyOut [.regs, .tl, .store, .com, .peers, .safety, .host, .keeper, .out] s (execSeedFlit x0 x1 x2 s) := by
  unfold execSeedFlit
  try dsimp only
  with_reducible repeat' first | apply OnlyOut.next | exact Only.refl _ _ | assumption | (intro _; intros; try beta_reduce) | apply State.recvFlit_only | apply State.seedEntry_only | decide | apply Only.foldl

theorem execSeedReqFlit_only {x0 x1} : OnlyOut [.regs, .peers, .out] s (execSeedReqFlit x0 x1 s) := by
  unfold execSeedReqFlit
  try dsimp only
  with_reducible repeat' first | apply OnlyOut.next | exact Only.refl _ _ | assumption | (intro _; intros; try beta_reduce) | split | apply State.recvLink_only | apply State.seedSet_only | decide

theorem execSeedTimeout_only : OnlyOut [.regs, .tl, .com, .peers, .safety, .host, .boot, .keeper, .out] s (execSeedTimeout s) := by
  unfold execSeedTimeout
  try dsimp only
  with_reducible repeat' first | apply OnlyOut.next | exact Only.refl _ _ | assumption | split | apply State.raise_only | apply State.onPeers_only | apply State.enterService_only | decide

theorem execSelfTestDone_only {x0 x1} : OnlyOut [.regs, .engines, .slot, .place, .safety, .host, .keeper, .out] s (execSelfTestDone x0 x1 s) := by
  unfold execSelfTestDone
  try dsimp only
  with_reducible repeat' first | apply OnlyOut.next | exact Only.refl _ _ | assumption | split | apply State.onEngine_only | apply State.engHard_only | decide

theorem execSensorLinkDown_only {x0} : OnlyOut [.regs, .ports, .host, .out] s (execSensorLinkDown x0 s) := by
  unfold execSensorLinkDown
  try dsimp only
  with_reducible repeat' first | apply OnlyOut.next | exact Only.refl _ _ | assumption | split | apply State.sensorDown_only | decide

theorem execSensorLinkUp_only {x0} : OnlyOut [.regs, .ports, .host, .out] s (execSensorLinkUp x0 s) := by
  unfold execSensorLinkUp
  try dsimp only
  with_reducible repeat' first | apply OnlyOut.next | exact Only.refl _ _ | assumption | split | apply State.raise_only | apply State.onPort_only | decide

theorem execSeqEndPass_only {x0 x1 x2 x3} : OnlyOut [.regs, .engines, .movers, .place] s (execSeqEndPass x0 x1 x2 x3 s) := by
  unfold execSeqEndPass
  try dsimp only
  with_reducible repeat' first | apply OnlyOut.next | exact Only.refl _ _ | assumption | apply State.endPass_only | decide

theorem execSeqHalt_only {x0 x1 x2} : OnlyOut [.engines, .place] s (execSeqHalt x0 x1 x2 s) := by
  unfold execSeqHalt
  try dsimp only
  with_reducible repeat' first | apply OnlyOut.next | exact Only.refl _ _ | assumption | apply State.seqTo_only | decide

theorem execSeqJumpMask_only {x0 x1 x2} : OnlyOut [.engines, .place] s (execSeqJumpMask x0 x1 x2 s) := by
  unfold execSeqJumpMask
  try dsimp only
  with_reducible repeat' first | apply OnlyOut.next | exact Only.refl _ _ | assumption | split | apply State.seqTo_only | decide

theorem execSeqLoop_only {x0 x1 x2} : OnlyOut [.engines, .place, .free] s (execSeqLoop x0 x1 x2 s) := by
  unfold execSeqLoop
  try dsimp only
  with_reducible repeat' first | apply OnlyOut.next | exact Only.refl _ _ | assumption | split | apply State.seqTo_only | apply State.took_only | decide

theorem execSeqLoopEnd_only {x0 x1} : OnlyOut [.engines, .place, .free] s (execSeqLoopEnd x0 x1 s) := by
  unfold execSeqLoopEnd
  try dsimp only
  with_reducible repeat' first | apply OnlyOut.next | exact Only.refl _ _ | assumption | split | apply State.seqTo_only | apply State.took_only | decide

theorem execSeqNext_only {x0 x1} : OnlyOut [.engines, .place] s (execSeqNext x0 x1 s) := by
  unfold execSeqNext
  try dsimp only
  with_reducible repeat' first | apply OnlyOut.next | exact Only.refl _ _ | assumption | apply State.seqTo_only | decide

theorem execServoMeasurement_only : OnlyOut [.regs, .tl, .host, .keeper, .out] s (execServoMeasurement s) := by
  unfold execServoMeasurement
  try dsimp only
  with_reducible repeat' first | apply OnlyOut.next | exact Only.refl _ _ | assumption | split | apply State.measure_only | apply State.onTl_only | decide

theorem execSlotCancel_only {x0} : OnlyOut [.regs, .held, .wo, .tl, .ports, .fdb, .ing, .store, .com, .engines, .solver, .slot, .place, .mem, .peers, .safety, .host, .boot, .power, .keeper, .fuses, .out, .free] s (execSlotCancel x0 s) := by
  unfold execSlotCancel
  try dsimp only
  with_reducible repeat' first | apply OnlyOut.next | exact Only.refl _ _ | assumption | apply State.windowWrite_only | decide

theorem execSlotCopyDone_only : OnlyOut [.slot] s (execSlotCopyDone s) := by
  unfold execSlotCopyDone
  try dsimp only
  with_reducible repeat' first | apply OnlyOut.next | exact Only.refl _ _ | assumption | split | apply State.onSlot_only | decide

theorem execSlotLoad_only {x0} : OnlyOut [.regs, .held, .wo, .tl, .ports, .fdb, .ing, .store, .com, .engines, .solver, .slot, .place, .mem, .peers, .safety, .host, .boot, .power, .keeper, .fuses, .out, .free] s (execSlotLoad x0 s) := by
  unfold execSlotLoad
  try dsimp only
  with_reducible repeat' first | apply OnlyOut.next | exact Only.refl _ _ | assumption | apply State.windowWrite_only | decide

theorem execSlotVerifyDone_only {x0 x1 x2} : OnlyOut [.regs, .engines, .slot, .host, .out] s (execSlotVerifyDone x0 x1 x2 s) := by
  unfold execSlotVerifyDone
  try dsimp only
  with_reducible repeat' first | apply OnlyOut.next | exact Only.refl _ _ | assumption | split | apply State.refuseImage_only | apply State.setPair_only | apply State.setWords_only | apply State.onSlot_only | apply State.rset_only | decide

theorem execSlowDeadlineMiss_only : OnlyOut [.regs, .com, .solver, .safety, .host, .out] s (execSlowDeadlineMiss s) := by
  unfold execSlowDeadlineMiss
  try dsimp only
  with_reducible repeat' first | apply OnlyOut.next | exact Only.refl _ _ | assumption | split | apply State.raise_only | apply State.bump_only | apply State.slowResult_only | apply State.onSolver_only | apply State.error_only | apply State.onCom_only | decide

theorem execSlowPublish_only : OnlyOut [.regs, .store, .solver] s (execSlowPublish s) := by
  unfold execSlowPublish
  try dsimp only
  with_reducible repeat' first | apply OnlyOut.next | exact Only.refl _ _ | assumption | (intro _; intros; try beta_reduce) | split | apply State.onStore_only | apply State.onSolver_only | apply State.rset_only | decide | apply Only.foldl

theorem execSlowSolveEnd_only {x0} : OnlyOut [.regs, .solver, .host, .out] s (execSlowSolveEnd x0 s) := by
  unfold execSlowSolveEnd
  try dsimp only
  with_reducible repeat' first | apply OnlyOut.next | exact Only.refl _ _ | assumption | split | apply State.raise_only | apply State.bump_only | apply State.onSolver_only | apply State.slowResult_only | apply State.setPair_only | apply State.noteRun_only | apply State.noteCold_only | apply State.keepWarm_only | decide

theorem execSmbAlertResponse_only : OnlyOut [.safety, .out] s (execSmbAlertResponse s) := by
  unfold execSmbAlertResponse
  try dsimp only
  with_reducible repeat' first | apply OnlyOut.next | exact Only.refl _ _ | assumption | split | apply State.send_only | apply State.onSafety_only | decide

theorem State.smbRead_only {x1} (h : Only l a s) (e : [.regs, .shadows, .safety, .host, .out].all l.contains = true) : Only l a (State.smbRead s x1).1 := by
  refine h.step ?_ e
  clear h e
  unfold State.smbRead
  with_reducible repeat' first | exact Only.refl _ _ | assumption | split | apply State.readValue_only | apply State.deny_only | apply State.late_only | decide

theorem execSmbReadReg_only {x0} : OnlyOut [.regs, .shadows, .safety, .host, .out] s (execSmbReadReg x0 s) := by
  unfold execSmbReadReg
  try dsimp only
  with_reducible repeat' first | apply OnlyOut.next | exact Only.refl _ _ | assumption | split | apply State.send_only | apply State.smbRead_only | decide

theorem execSmbReceiveByte_only : OnlyOut [.out] s (execSmbReceiveByte s) := by
  unfold execSmbReceiveByte
  try dsimp only
  with_reducible repeat' first | apply OnlyOut.next | exact Only.refl _ _ | assumption | split | apply State.send_only | decide

theorem execSmbSerial_only : OnlyOut [.out] s (execSmbSerial s) := by
  unfold execSmbSerial
  try dsimp only
  with_reducible repeat' first | apply OnlyOut.next | exact Only.refl _ _ | assumption | split | apply State.send_only | decide

theorem execSmbTelemetry_only : OnlyOut [.out] s (execSmbTelemetry s) := by
  unfold execSmbTelemetry
  try dsimp only
  with_reducible repeat' first | apply OnlyOut.next | exact Only.refl _ _ | assumption | split | apply State.send_only | decide

theorem execSmbWriteReg_only {x0 x1 x2} : OnlyOut [.regs, .held, .wo, .tl, .ports, .fdb, .ing, .store, .com, .engines, .solver, .slot, .place, .mem, .peers, .safety, .host, .boot, .power, .keeper, .fuses, .out, .free] s (execSmbWriteReg x0 x1 x2 s) := by
  unfold execSmbWriteReg
  try dsimp only
  with_reducible repeat' first | apply OnlyOut.next | exact Only.refl _ _ | assumption | split | apply State.send_only | apply State.late_only | apply State.writeAccess_only | decide

theorem execSplineVersionPublish_only : OnlyOut [.store] s (execSplineVersionPublish s) := by
  unfold execSplineVersionPublish
  try dsimp only
  with_reducible repeat' first | apply OnlyOut.next | exact Only.refl _ _ | assumption | split | apply State.onStore_only | apply State.markCandidates_only | decide

theorem execSramReadError_only {x0 x1 x2 x3 x4} : OnlyOut [.regs, .com, .engines, .data, .slot, .place, .mem, .safety, .host, .keeper, .out, .free] s (execSramReadError x0 x1 x2 x3 x4 s) := by
  unfold execSramReadError
  try dsimp only
  with_reducible repeat' first | apply OnlyOut.next | exact Only.refl _ _ | assumption | split | apply State.hardFail_only | apply State.raise_only | apply State.eccCapture_only | apply State.bump_only | apply State.groupEvent_only | apply State.engEvent_only | apply State.poisonCommons_only | apply State.groupFault_only | decide

theorem execStoreSlot_only {x0 x1 x2 x3} : OnlyOut [.regs, .engines, .free] s (execStoreSlot x0 x1 x2 x3 s) := by
  unfold execStoreSlot
  try dsimp only
  with_reducible repeat' first | apply OnlyOut.next | exact Only.refl _ _ | assumption | split | apply State.storeBeat_only | apply State.laneBeat_only | (apply State.laneBeat_only'; rotate_left; decide; assumption) | decide

theorem execSyncSignal_only {x0 x1 x2} : OnlyOut [.engines] s (execSyncSignal x0 x1 x2 s) := by
  unfold execSyncSignal
  try dsimp only
  with_reducible repeat' first | apply OnlyOut.next | exact Only.refl _ _ | assumption | apply State.slotOp_only | decide

theorem execSyncWait_only {x0 x1 x2} : OnlyOut [.engines] s (execSyncWait x0 x1 x2 s) := by
  unfold execSyncWait
  try dsimp only
  with_reducible repeat' first | apply OnlyOut.next | exact Only.refl _ _ | assumption | apply State.slotOp_only | decide

theorem execSyncWaitConsume_only {x0 x1 x2} : OnlyOut [.engines] s (execSyncWaitConsume x0 x1 x2 s) := by
  unfold execSyncWaitConsume
  try dsimp only
  with_reducible repeat' first | apply OnlyOut.next | exact Only.refl _ _ | assumption | apply State.slotOp_only | decide

theorem execThermalTrip_only : OnlyOut [.regs, .store, .com, .engines, .data, .slot, .place, .mem, .peers, .safety, .host, .keeper, .out] s (execThermalTrip s) := by
  unfold execThermalTrip
  try dsimp only
  with_reducible repeat' first | apply OnlyOut.next | exact Only.refl _ _ | assumption | split | apply State.domainFault_only | decide

theorem execTimeFlit_only {x0 x1 x2 x3 x4} : OnlyOut [.regs, .tl, .peers, .host, .keeper, .out] s (execTimeFlit x0 x1 x2 x3 x4 s) := by
  unfold execTimeFlit
  try dsimp only
  with_reducible repeat' first | apply OnlyOut.next | exact Only.refl _ _ | assumption | (intro _; intros; try beta_reduce) | split | apply State.recvLink_only | apply State.takeTime_only | decide

theorem execTimeFlitSend_only {x0 x1 x2} : OnlyOut [.regs, .peers, .out] s (execTimeFlitSend x0 x1 x2 s) := by
  unfold execTimeFlitSend
  try dsimp only
  with_reducible repeat' first | apply OnlyOut.next | exact Only.refl _ _ | assumption | split | apply State.onPeer_only | apply State.sendLink_only | decide

theorem execTimeSetGo_only {x0} : OnlyOut [.regs, .held, .wo, .tl, .ports, .fdb, .ing, .store, .com, .engines, .solver, .slot, .place, .mem, .peers, .safety, .host, .boot, .power, .keeper, .fuses, .out, .free] s (execTimeSetGo x0 s) := by
  unfold execTimeSetGo
  try dsimp only
  with_reducible repeat' first | apply OnlyOut.next | exact Only.refl _ _ | assumption | apply State.windowWrite_only | decide

theorem execTimeSnap_only {x0} : OnlyOut [.regs, .held, .wo, .tl, .ports, .fdb, .ing, .store, .com, .engines, .solver, .slot, .place, .mem, .peers, .safety, .host, .boot, .power, .keeper, .fuses, .out, .free] s (execTimeSnap x0 s) := by
  unfold execTimeSnap
  try dsimp only
  with_reducible repeat' first | apply OnlyOut.next | exact Only.refl _ _ | assumption | apply State.windowWrite_only | decide

theorem execTrickleWrite_only {x0} : OnlyOut [.regs, .safety, .host, .keeper, .out] s (execTrickleWrite x0 s) := by
  unfold execTrickleWrite
  try dsimp only
  with_reducible repeat' first | apply OnlyOut.next | exact Only.refl _ _ | assumption | split | apply State.writePage_only | apply State.raise_only | apply State.keeperFail_only | decide

theorem execUnmapWindow_only {x0} : OnlyOut [.regs, .host, .hostMem, .out] s (execUnmapWindow x0 s) := by
  unfold execUnmapWindow
  try dsimp only
  with_reducible repeat' first | apply OnlyOut.next | exact Only.refl _ _ | assumption | (intro _; intros; try beta_reduce) | apply State.actItem_only | apply State.onTaken_only | decide

theorem execUnmapWindowComplete_only {x0} : OnlyOut [.regs, .host, .hostMem, .out] s (execUnmapWindowComplete x0 s) := by
  unfold execUnmapWindowComplete
  try dsimp only
  with_reducible repeat' first | apply OnlyOut.next | exact Only.refl _ _ | assumption | split | apply State.complete_only | apply State.onFn_only | decide

theorem execUpdateFlit_only {x0 x1 x2} : OnlyOut [.regs, .tl, .com, .peers, .safety, .host, .out] s (execUpdateFlit x0 x1 x2 s) := by
  unfold execUpdateFlit
  try dsimp only
  with_reducible repeat' first | apply OnlyOut.next | exact Only.refl _ _ | assumption | (intro _; intros; try beta_reduce) | split | apply State.recvLink_only | apply State.update_only | decide

theorem execVecAccv_only {x0 x1 x2 x3 x4} : OnlyOut [.regs, .engines] s (execVecAccv x0 x1 x2 x3 x4 s) := by
  unfold execVecAccv
  try dsimp only
  with_reducible repeat' first | apply OnlyOut.next | exact Only.refl _ _ | assumption | apply State.vecOp_only | decide

theorem execVecAdd_only {x0 x1 x2 x3 x4} : OnlyOut [.regs, .engines] s (execVecAdd x0 x1 x2 x3 x4 s) := by
  unfold execVecAdd
  try dsimp only
  with_reducible repeat' first | apply OnlyOut.next | exact Only.refl _ _ | assumption | apply State.laneOp_only | decide

theorem execVecCmp_only {x0 x1 x2 x3 x4} : OnlyOut [.regs, .engines] s (execVecCmp x0 x1 x2 x3 x4 s) := by
  unfold execVecCmp
  try dsimp only
  with_reducible repeat' first | apply OnlyOut.next | exact Only.refl _ _ | assumption | apply State.vecOp_only | decide

theorem execVecCvt_only {x0 x1 x2 x3 x4} : OnlyOut [.regs, .engines, .host, .out, .free] s (execVecCvt x0 x1 x2 x3 x4 s) := by
  unfold execVecCvt
  try dsimp only
  with_reducible repeat' first | apply OnlyOut.next | exact Only.refl _ _ | assumption | split | apply State.requant_only | (apply State.requant_only'; rotate_left; decide; assumption) | apply State.vecOp_only | decide

theorem execVecLoadv_only {x0 x1 x2} : OnlyOut [.regs, .engines] s (execVecLoadv x0 x1 x2 s) := by
  unfold execVecLoadv
  try dsimp only
  with_reducible repeat' first | apply OnlyOut.next | exact Only.refl _ _ | assumption | apply State.vecOp_only | decide

theorem execVecMax_only {x0 x1 x2 x3 x4} : OnlyOut [.regs, .engines] s (execVecMax x0 x1 x2 x3 x4 s) := by
  unfold execVecMax
  try dsimp only
  with_reducible repeat' first | apply OnlyOut.next | exact Only.refl _ _ | assumption | apply State.laneOp_only | decide

theorem execVecMin_only {x0 x1 x2 x3 x4} : OnlyOut [.regs, .engines] s (execVecMin x0 x1 x2 x3 x4 s) := by
  unfold execVecMin
  try dsimp only
  with_reducible repeat' first | apply OnlyOut.next | exact Only.refl _ _ | assumption | apply State.laneOp_only | decide

theorem execVecMul_only {x0 x1 x2 x3 x4} : OnlyOut [.regs, .engines] s (execVecMul x0 x1 x2 x3 x4 s) := by
  unfold execVecMul
  try dsimp only
  with_reducible repeat' first | apply OnlyOut.next | exact Only.refl _ _ | assumption | apply State.laneOp_only | decide

theorem execVecMulr_only {x0 x1 x2 x3 x4 x5} : OnlyOut [.regs, .engines] s (execVecMulr x0 x1 x2 x3 x4 x5 s) := by
  unfold execVecMulr
  try dsimp only
  with_reducible repeat' first | apply OnlyOut.next | exact Only.refl _ _ | assumption | apply State.laneOp_only | decide

theorem execVecPwl_only {x0 x1 x2 x3 x4} : OnlyOut [.regs, .engines] s (execVecPwl x0 x1 x2 x3 x4 s) := by
  unfold execVecPwl
  try dsimp only
  with_reducible repeat' first | apply OnlyOut.next | exact Only.refl _ _ | assumption | apply State.vecOp_only | decide

theorem execVecReduce_only {x0 x1 x2 x3} : OnlyOut [.regs, .engines] s (execVecReduce x0 x1 x2 x3 s) := by
  unfold execVecReduce
  try dsimp only
  with_reducible repeat' first | apply OnlyOut.next | exact Only.refl _ _ | assumption | (intro _; intros; try beta_reduce) | split | apply State.vecOp_only | decide | apply Only.foldl

theorem execVecSel_only {x0 x1 x2 x3 x4} : OnlyOut [.regs, .engines] s (execVecSel x0 x1 x2 x3 x4 s) := by
  unfold execVecSel
  try dsimp only
  with_reducible repeat' first | apply OnlyOut.next | exact Only.refl _ _ | assumption | split | apply State.vecOp_only | decide

theorem execVecShl_only {x0 x1 x2 x3 x4} : OnlyOut [.regs, .engines] s (execVecShl x0 x1 x2 x3 x4 s) := by
  unfold execVecShl
  try dsimp only
  with_reducible repeat' first | apply OnlyOut.next | exact Only.refl _ _ | assumption | apply State.laneOp_only | decide

theorem execVecShr_only {x0 x1 x2 x3 x4} : OnlyOut [.regs, .engines] s (execVecShr x0 x1 x2 x3 x4 s) := by
  unfold execVecShr
  try dsimp only
  with_reducible repeat' first | apply OnlyOut.next | exact Only.refl _ _ | assumption | apply State.laneOp_only | decide

theorem execVecSub_only {x0 x1 x2 x3 x4} : OnlyOut [.regs, .engines] s (execVecSub x0 x1 x2 x3 x4 s) := by
  unfold execVecSub
  try dsimp only
  with_reducible repeat' first | apply OnlyOut.next | exact Only.refl _ _ | assumption | apply State.laneOp_only | decide

theorem execWmHiSeenClear_only {x0 x1} : OnlyOut [.regs, .held, .wo, .tl, .ports, .fdb, .ing, .store, .com, .engines, .solver, .slot, .place, .mem, .peers, .safety, .host, .boot, .power, .keeper, .fuses, .out, .free] s (execWmHiSeenClear x0 x1 s) := by
  unfold execWmHiSeenClear
  try dsimp only
  with_reducible repeat' first | apply OnlyOut.next | exact Only.refl _ _ | assumption | apply State.windowWrite_only | decide

theorem execWriteFlit_only {x0 x1 x2 x3} : OnlyOut [.regs, .tl, .com, .engines, .movers, .data, .peers, .safety, .host, .keeper, .hostMem, .out] s (execWriteFlit x0 x1 x2 x3 s) := by
  unfold execWriteFlit
  try dsimp only
  with_reducible repeat' first | apply OnlyOut.next | exact Only.refl _ _ | assumption | (intro _; intros; try beta_reduce) | split | apply State.recvFlit_only | apply State.remoteWrite_only | apply State.sendWrite_only | (apply State.sendWrite_only'; rotate_left; decide; assumption) | decide

theorem tick_only  (h : Only l a s) (e : [.regs, .tl, .ports, .peers, .host, .out, .free].all l.contains = true) : Only l a (tick s) := by
  refine h.step ?_ e
  clear h e
  unfold tick
  try dsimp only
  with_reducible repeat' first | exact Only.refl _ _ | assumption | (intro _; intros; try beta_reduce) | split | apply State.onTl_only | apply State.transmitOne_only | apply State.sendNext_only | decide | apply Only.foldl

end Sys2Proof.Machine
end

