-- ==== Sys2Proof/Laws/State.lean ====
section
/-! SUPPORT. What each update of a part of the state leaves as it is: one lemma for each field and update. -/

namespace Sys2Proof.Machine

open Sys2Proof

variable (s : State)

@[simp] theorem State.onBook_pending {a b} : (s.onBook a b).pending = s.pending := rfl
@[simp] theorem State.onBook_regs {a b} : (s.onBook a b).regs = s.regs := rfl
@[simp] theorem State.onBook_shadows {a b} : (s.onBook a b).shadows = s.shadows := rfl
@[simp] theorem State.onBook_held {a b} : (s.onBook a b).held = s.held := rfl
@[simp] theorem State.onBook_wo {a b} : (s.onBook a b).wo = s.wo := rfl
@[simp] theorem State.onBook_resetN {a b} : (s.onBook a b).resetN = s.resetN := rfl
@[simp] theorem State.onBook_pwrOk {a b} : (s.onBook a b).pwrOk = s.pwrOk := rfl
@[simp] theorem State.onBook_tl {a b} : (s.onBook a b).tl = s.tl := rfl
@[simp] theorem State.onBook_roots {a b} : (s.onBook a b).roots = s.roots := rfl
@[simp] theorem State.onBook_ports {a b} : (s.onBook a b).ports = s.ports := rfl
@[simp] theorem State.onBook_fdb {a b} : (s.onBook a b).fdb = s.fdb := rfl
@[simp] theorem State.onBook_ing {a b} : (s.onBook a b).ing = s.ing := rfl
@[simp] theorem State.onBook_store {a b} : (s.onBook a b).store = s.store := rfl
@[simp] theorem State.onBook_com {a b} : (s.onBook a b).com = s.com := rfl
@[simp] theorem State.onBook_engines {a b} : (s.onBook a b).engines = s.engines := rfl
@[simp] theorem State.onBook_descs {a b} : (s.onBook a b).descs = s.descs := rfl
@[simp] theorem State.onBook_movers {a b} : (s.onBook a b).movers = s.movers := rfl
@[simp] theorem State.onBook_data {a b} : (s.onBook a b).data = s.data := rfl
@[simp] theorem State.onBook_solver {a b} : (s.onBook a b).solver = s.solver := rfl
@[simp] theorem State.onBook_live {a b} : (s.onBook a b).live = s.live := rfl
@[simp] theorem State.onBook_old {a b} : (s.onBook a b).old = s.old := rfl
@[simp] theorem State.onBook_liveBeat {a b} : (s.onBook a b).liveBeat = s.liveBeat := rfl
@[simp] theorem State.onBook_slot {a b} : (s.onBook a b).slot = s.slot := rfl
@[simp] theorem State.onBook_mem {a b} : (s.onBook a b).mem = s.mem := rfl
@[simp] theorem State.onBook_peers {a b} : (s.onBook a b).peers = s.peers := rfl
@[simp] theorem State.onBook_safety {a b} : (s.onBook a b).safety = s.safety := rfl
@[simp] theorem State.onBook_host {a b} : (s.onBook a b).host = s.host := rfl
@[simp] theorem State.onBook_boot {a b} : (s.onBook a b).boot = s.boot := rfl
@[simp] theorem State.onBook_power {a b} : (s.onBook a b).power = s.power := rfl
@[simp] theorem State.onBook_keeper {a b} : (s.onBook a b).keeper = s.keeper := rfl
@[simp] theorem State.onBook_fuses {a b} : (s.onBook a b).fuses = s.fuses := rfl
@[simp] theorem State.onBook_flash {a b} : (s.onBook a b).flash = s.flash := rfl
@[simp] theorem State.onBook_hostMem {a b} : (s.onBook a b).hostMem = s.hostMem := rfl
@[simp] theorem State.onBook_out {a b} : (s.onBook a b).out = s.out := rfl
@[simp] theorem State.onBook_free {a b} : (s.onBook a b).free = s.free := rfl
@[simp] theorem State.onBoot_pending {a} : (s.onBoot a).pending = s.pending := rfl
@[simp] theorem State.onBoot_regs {a} : (s.onBoot a).regs = s.regs := rfl
@[simp] theorem State.onBoot_shadows {a} : (s.onBoot a).shadows = s.shadows := rfl
@[simp] theorem State.onBoot_held {a} : (s.onBoot a).held = s.held := rfl
@[simp] theorem State.onBoot_wo {a} : (s.onBoot a).wo = s.wo := rfl
@[simp] theorem State.onBoot_resetN {a} : (s.onBoot a).resetN = s.resetN := rfl
@[simp] theorem State.onBoot_pwrOk {a} : (s.onBoot a).pwrOk = s.pwrOk := rfl
@[simp] theorem State.onBoot_tl {a} : (s.onBoot a).tl = s.tl := rfl
@[simp] theorem State.onBoot_roots {a} : (s.onBoot a).roots = s.roots := rfl
@[simp] theorem State.onBoot_ports {a} : (s.onBoot a).ports = s.ports := rfl
@[simp] theorem State.onBoot_fdb {a} : (s.onBoot a).fdb = s.fdb := rfl
@[simp] theorem State.onBoot_ing {a} : (s.onBoot a).ing = s.ing := rfl
@[simp] theorem State.onBoot_store {a} : (s.onBoot a).store = s.store := rfl
@[simp] theorem State.onBoot_com {a} : (s.onBoot a).com = s.com := rfl
@[simp] theorem State.onBoot_engines {a} : (s.onBoot a).engines = s.engines := rfl
@[simp] theorem State.onBoot_descs {a} : (s.onBoot a).descs = s.descs := rfl
@[simp] theorem State.onBoot_movers {a} : (s.onBoot a).movers = s.movers := rfl
@[simp] theorem State.onBoot_data {a} : (s.onBoot a).data = s.data := rfl
@[simp] theorem State.onBoot_solver {a} : (s.onBoot a).solver = s.solver := rfl
@[simp] theorem State.onBoot_live {a} : (s.onBoot a).live = s.live := rfl
@[simp] theorem State.onBoot_old {a} : (s.onBoot a).old = s.old := rfl
@[simp] theorem State.onBoot_liveBeat {a} : (s.onBoot a).liveBeat = s.liveBeat := rfl
@[simp] theorem State.onBoot_slot {a} : (s.onBoot a).slot = s.slot := rfl
@[simp] theorem State.onBoot_place {a} : (s.onBoot a).place = s.place := rfl
@[simp] theorem State.onBoot_mem {a} : (s.onBoot a).mem = s.mem := rfl
@[simp] theorem State.onBoot_peers {a} : (s.onBoot a).peers = s.peers := rfl
@[simp] theorem State.onBoot_safety {a} : (s.onBoot a).safety = s.safety := rfl
@[simp] theorem State.onBoot_host {a} : (s.onBoot a).host = s.host := rfl
@[simp] theorem State.onBoot_power {a} : (s.onBoot a).power = s.power := rfl
@[simp] theorem State.onBoot_keeper {a} : (s.onBoot a).keeper = s.keeper := rfl
@[simp] theorem State.onBoot_fuses {a} : (s.onBoot a).fuses = s.fuses := rfl
@[simp] theorem State.onBoot_flash {a} : (s.onBoot a).flash = s.flash := rfl
@[simp] theorem State.onBoot_hostMem {a} : (s.onBoot a).hostMem = s.hostMem := rfl
@[simp] theorem State.onBoot_out {a} : (s.onBoot a).out = s.out := rfl
@[simp] theorem State.onBoot_free {a} : (s.onBoot a).free = s.free := rfl
@[simp] theorem State.onChannel_pending {a b} : (s.onChannel a b).pending = s.pending := rfl
@[simp] theorem State.onChannel_regs {a b} : (s.onChannel a b).regs = s.regs := rfl
@[simp] theorem State.onChannel_shadows {a b} : (s.onChannel a b).shadows = s.shadows := rfl
@[simp] theorem State.onChannel_held {a b} : (s.onChannel a b).held = s.held := rfl
@[simp] theorem State.onChannel_wo {a b} : (s.onChannel a b).wo = s.wo := rfl
@[simp] theorem State.onChannel_resetN {a b} : (s.onChannel a b).resetN = s.resetN := rfl
@[simp] theorem State.onChannel_pwrOk {a b} : (s.onChannel a b).pwrOk = s.pwrOk := rfl
@[simp] theorem State.onChannel_tl {a b} : (s.onChannel a b).tl = s.tl := rfl
@[simp] theorem State.onChannel_roots {a b} : (s.onChannel a b).roots = s.roots := rfl
@[simp] theorem State.onChannel_ports {a b} : (s.onChannel a b).ports = s.ports := rfl
@[simp] theorem State.onChannel_fdb {a b} : (s.onChannel a b).fdb = s.fdb := rfl
@[simp] theorem State.onChannel_ing {a b} : (s.onChannel a b).ing = s.ing := rfl
@[simp] theorem State.onChannel_store {a b} : (s.onChannel a b).store = s.store := rfl
@[simp] theorem State.onChannel_com {a b} : (s.onChannel a b).com = s.com := rfl
@[simp] theorem State.onChannel_engines {a b} : (s.onChannel a b).engines = s.engines := rfl
@[simp] theorem State.onChannel_descs {a b} : (s.onChannel a b).descs = s.descs := rfl
@[simp] theorem State.onChannel_movers {a b} : (s.onChannel a b).movers = s.movers := rfl
@[simp] theorem State.onChannel_data {a b} : (s.onChannel a b).data = s.data := rfl
@[simp] theorem State.onChannel_solver {a b} : (s.onChannel a b).solver = s.solver := rfl
@[simp] theorem State.onChannel_live {a b} : (s.onChannel a b).live = s.live := rfl
@[simp] theorem State.onChannel_old {a b} : (s.onChannel a b).old = s.old := rfl
@[simp] theorem State.onChannel_liveBeat {a b} : (s.onChannel a b).liveBeat = s.liveBeat := rfl
@[simp] theorem State.onChannel_slot {a b} : (s.onChannel a b).slot = s.slot := rfl
@[simp] theorem State.onChannel_place {a b} : (s.onChannel a b).place = s.place := rfl
@[simp] theorem State.onChannel_peers {a b} : (s.onChannel a b).peers = s.peers := rfl
@[simp] theorem State.onChannel_safety {a b} : (s.onChannel a b).safety = s.safety := rfl
@[simp] theorem State.onChannel_host {a b} : (s.onChannel a b).host = s.host := rfl
@[simp] theorem State.onChannel_boot {a b} : (s.onChannel a b).boot = s.boot := rfl
@[simp] theorem State.onChannel_power {a b} : (s.onChannel a b).power = s.power := rfl
@[simp] theorem State.onChannel_keeper {a b} : (s.onChannel a b).keeper = s.keeper := rfl
@[simp] theorem State.onChannel_fuses {a b} : (s.onChannel a b).fuses = s.fuses := rfl
@[simp] theorem State.onChannel_flash {a b} : (s.onChannel a b).flash = s.flash := rfl
@[simp] theorem State.onChannel_hostMem {a b} : (s.onChannel a b).hostMem = s.hostMem := rfl
@[simp] theorem State.onChannel_out {a b} : (s.onChannel a b).out = s.out := rfl
@[simp] theorem State.onChannel_free {a b} : (s.onChannel a b).free = s.free := rfl
@[simp] theorem State.onCom_pending {a} : (s.onCom a).pending = s.pending := rfl
@[simp] theorem State.onCom_regs {a} : (s.onCom a).regs = s.regs := rfl
@[simp] theorem State.onCom_shadows {a} : (s.onCom a).shadows = s.shadows := rfl
@[simp] theorem State.onCom_held {a} : (s.onCom a).held = s.held := rfl
@[simp] theorem State.onCom_wo {a} : (s.onCom a).wo = s.wo := rfl
@[simp] theorem State.onCom_resetN {a} : (s.onCom a).resetN = s.resetN := rfl
@[simp] theorem State.onCom_pwrOk {a} : (s.onCom a).pwrOk = s.pwrOk := rfl
@[simp] theorem State.onCom_tl {a} : (s.onCom a).tl = s.tl := rfl
@[simp] theorem State.onCom_roots {a} : (s.onCom a).roots = s.roots := rfl
@[simp] theorem State.onCom_ports {a} : (s.onCom a).ports = s.ports := rfl
@[simp] theorem State.onCom_fdb {a} : (s.onCom a).fdb = s.fdb := rfl
@[simp] theorem State.onCom_ing {a} : (s.onCom a).ing = s.ing := rfl
@[simp] theorem State.onCom_store {a} : (s.onCom a).store = s.store := rfl
@[simp] theorem State.onCom_engines {a} : (s.onCom a).engines = s.engines := rfl
@[simp] theorem State.onCom_descs {a} : (s.onCom a).descs = s.descs := rfl
@[simp] theorem State.onCom_movers {a} : (s.onCom a).movers = s.movers := rfl
@[simp] theorem State.onCom_data {a} : (s.onCom a).data = s.data := rfl
@[simp] theorem State.onCom_solver {a} : (s.onCom a).solver = s.solver := rfl
@[simp] theorem State.onCom_live {a} : (s.onCom a).live = s.live := rfl
@[simp] theorem State.onCom_old {a} : (s.onCom a).old = s.old := rfl
@[simp] theorem State.onCom_liveBeat {a} : (s.onCom a).liveBeat = s.liveBeat := rfl
@[simp] theorem State.onCom_slot {a} : (s.onCom a).slot = s.slot := rfl
@[simp] theorem State.onCom_place {a} : (s.onCom a).place = s.place := rfl
@[simp] theorem State.onCom_mem {a} : (s.onCom a).mem = s.mem := rfl
@[simp] theorem State.onCom_peers {a} : (s.onCom a).peers = s.peers := rfl
@[simp] theorem State.onCom_safety {a} : (s.onCom a).safety = s.safety := rfl
@[simp] theorem State.onCom_host {a} : (s.onCom a).host = s.host := rfl
@[simp] theorem State.onCom_boot {a} : (s.onCom a).boot = s.boot := rfl
@[simp] theorem State.onCom_power {a} : (s.onCom a).power = s.power := rfl
@[simp] theorem State.onCom_keeper {a} : (s.onCom a).keeper = s.keeper := rfl
@[simp] theorem State.onCom_fuses {a} : (s.onCom a).fuses = s.fuses := rfl
@[simp] theorem State.onCom_flash {a} : (s.onCom a).flash = s.flash := rfl
@[simp] theorem State.onCom_hostMem {a} : (s.onCom a).hostMem = s.hostMem := rfl
@[simp] theorem State.onCom_out {a} : (s.onCom a).out = s.out := rfl
@[simp] theorem State.onCom_free {a} : (s.onCom a).free = s.free := rfl
@[simp] theorem State.onDest_pending {a b} : (s.onDest a b).pending = s.pending := rfl
@[simp] theorem State.onDest_regs {a b} : (s.onDest a b).regs = s.regs := rfl
@[simp] theorem State.onDest_shadows {a b} : (s.onDest a b).shadows = s.shadows := rfl
@[simp] theorem State.onDest_held {a b} : (s.onDest a b).held = s.held := rfl
@[simp] theorem State.onDest_wo {a b} : (s.onDest a b).wo = s.wo := rfl
@[simp] theorem State.onDest_resetN {a b} : (s.onDest a b).resetN = s.resetN := rfl
@[simp] theorem State.onDest_pwrOk {a b} : (s.onDest a b).pwrOk = s.pwrOk := rfl
@[simp] theorem State.onDest_tl {a b} : (s.onDest a b).tl = s.tl := rfl
@[simp] theorem State.onDest_roots {a b} : (s.onDest a b).roots = s.roots := rfl
@[simp] theorem State.onDest_ports {a b} : (s.onDest a b).ports = s.ports := rfl
@[simp] theorem State.onDest_fdb {a b} : (s.onDest a b).fdb = s.fdb := rfl
@[simp] theorem State.onDest_ing {a b} : (s.onDest a b).ing = s.ing := rfl
@[simp] theorem State.onDest_store {a b} : (s.onDest a b).store = s.store := rfl
@[simp] theorem State.onDest_engines {a b} : (s.onDest a b).engines = s.engines := rfl
@[simp] theorem State.onDest_descs {a b} : (s.onDest a b).descs = s.descs := rfl
@[simp] theorem State.onDest_movers {a b} : (s.onDest a b).movers = s.movers := rfl
@[simp] theorem State.onDest_data {a b} : (s.onDest a b).data = s.data := rfl
@[simp] theorem State.onDest_solver {a b} : (s.onDest a b).solver = s.solver := rfl
@[simp] theorem State.onDest_live {a b} : (s.onDest a b).live = s.live := rfl
@[simp] theorem State.onDest_old {a b} : (s.onDest a b).old = s.old := rfl
@[simp] theorem State.onDest_liveBeat {a b} : (s.onDest a b).liveBeat = s.liveBeat := rfl
@[simp] theorem State.onDest_slot {a b} : (s.onDest a b).slot = s.slot := rfl
@[simp] theorem State.onDest_place {a b} : (s.onDest a b).place = s.place := rfl
@[simp] theorem State.onDest_mem {a b} : (s.onDest a b).mem = s.mem := rfl
@[simp] theorem State.onDest_peers {a b} : (s.onDest a b).peers = s.peers := rfl
@[simp] theorem State.onDest_safety {a b} : (s.onDest a b).safety = s.safety := rfl
@[simp] theorem State.onDest_host {a b} : (s.onDest a b).host = s.host := rfl
@[simp] theorem State.onDest_boot {a b} : (s.onDest a b).boot = s.boot := rfl
@[simp] theorem State.onDest_power {a b} : (s.onDest a b).power = s.power := rfl
@[simp] theorem State.onDest_keeper {a b} : (s.onDest a b).keeper = s.keeper := rfl
@[simp] theorem State.onDest_fuses {a b} : (s.onDest a b).fuses = s.fuses := rfl
@[simp] theorem State.onDest_flash {a b} : (s.onDest a b).flash = s.flash := rfl
@[simp] theorem State.onDest_hostMem {a b} : (s.onDest a b).hostMem = s.hostMem := rfl
@[simp] theorem State.onDest_out {a b} : (s.onDest a b).out = s.out := rfl
@[simp] theorem State.onDest_free {a b} : (s.onDest a b).free = s.free := rfl
@[simp] theorem State.onEngine_pending {a b} : (s.onEngine a b).pending = s.pending := rfl
@[simp] theorem State.onEngine_regs {a b} : (s.onEngine a b).regs = s.regs := rfl
@[simp] theorem State.onEngine_shadows {a b} : (s.onEngine a b).shadows = s.shadows := rfl
@[simp] theorem State.onEngine_held {a b} : (s.onEngine a b).held = s.held := rfl
@[simp] theorem State.onEngine_wo {a b} : (s.onEngine a b).wo = s.wo := rfl
@[simp] theorem State.onEngine_resetN {a b} : (s.onEngine a b).resetN = s.resetN := rfl
@[simp] theorem State.onEngine_pwrOk {a b} : (s.onEngine a b).pwrOk = s.pwrOk := rfl
@[simp] theorem State.onEngine_tl {a b} : (s.onEngine a b).tl = s.tl := rfl
@[simp] theorem State.onEngine_roots {a b} : (s.onEngine a b).roots = s.roots := rfl
@[simp] theorem State.onEngine_ports {a b} : (s.onEngine a b).ports = s.ports := rfl
@[simp] theorem State.onEngine_fdb {a b} : (s.onEngine a b).fdb = s.fdb := rfl
@[simp] theorem State.onEngine_ing {a b} : (s.onEngine a b).ing = s.ing := rfl
@[simp] theorem State.onEngine_store {a b} : (s.onEngine a b).store = s.store := rfl
@[simp] theorem State.onEngine_com {a b} : (s.onEngine a b).com = s.com := rfl
@[simp] theorem State.onEngine_descs {a b} : (s.onEngine a b).descs = s.descs := rfl
@[simp] theorem State.onEngine_movers {a b} : (s.onEngine a b).movers = s.movers := rfl
@[simp] theorem State.onEngine_data {a b} : (s.onEngine a b).data = s.data := rfl
@[simp] theorem State.onEngine_solver {a b} : (s.onEngine a b).solver = s.solver := rfl
@[simp] theorem State.onEngine_live {a b} : (s.onEngine a b).live = s.live := rfl
@[simp] theorem State.onEngine_old {a b} : (s.onEngine a b).old = s.old := rfl
@[simp] theorem State.onEngine_liveBeat {a b} : (s.onEngine a b).liveBeat = s.liveBeat := rfl
@[simp] theorem State.onEngine_slot {a b} : (s.onEngine a b).slot = s.slot := rfl
@[simp] theorem State.onEngine_place {a b} : (s.onEngine a b).place = s.place := rfl
@[simp] theorem State.onEngine_mem {a b} : (s.onEngine a b).mem = s.mem := rfl
@[simp] theorem State.onEngine_peers {a b} : (s.onEngine a b).peers = s.peers := rfl
@[simp] theorem State.onEngine_safety {a b} : (s.onEngine a b).safety = s.safety := rfl
@[simp] theorem State.onEngine_host {a b} : (s.onEngine a b).host = s.host := rfl
@[simp] theorem State.onEngine_boot {a b} : (s.onEngine a b).boot = s.boot := rfl
@[simp] theorem State.onEngine_power {a b} : (s.onEngine a b).power = s.power := rfl
@[simp] theorem State.onEngine_keeper {a b} : (s.onEngine a b).keeper = s.keeper := rfl
@[simp] theorem State.onEngine_fuses {a b} : (s.onEngine a b).fuses = s.fuses := rfl
@[simp] theorem State.onEngine_flash {a b} : (s.onEngine a b).flash = s.flash := rfl
@[simp] theorem State.onEngine_hostMem {a b} : (s.onEngine a b).hostMem = s.hostMem := rfl
@[simp] theorem State.onEngine_out {a b} : (s.onEngine a b).out = s.out := rfl
@[simp] theorem State.onEngine_free {a b} : (s.onEngine a b).free = s.free := rfl
@[simp] theorem State.onFn_pending {a b} : (s.onFn a b).pending = s.pending := rfl
@[simp] theorem State.onFn_regs {a b} : (s.onFn a b).regs = s.regs := rfl
@[simp] theorem State.onFn_shadows {a b} : (s.onFn a b).shadows = s.shadows := rfl
@[simp] theorem State.onFn_held {a b} : (s.onFn a b).held = s.held := rfl
@[simp] theorem State.onFn_wo {a b} : (s.onFn a b).wo = s.wo := rfl
@[simp] theorem State.onFn_resetN {a b} : (s.onFn a b).resetN = s.resetN := rfl
@[simp] theorem State.onFn_pwrOk {a b} : (s.onFn a b).pwrOk = s.pwrOk := rfl
@[simp] theorem State.onFn_tl {a b} : (s.onFn a b).tl = s.tl := rfl
@[simp] theorem State.onFn_roots {a b} : (s.onFn a b).roots = s.roots := rfl
@[simp] theorem State.onFn_ports {a b} : (s.onFn a b).ports = s.ports := rfl
@[simp] theorem State.onFn_fdb {a b} : (s.onFn a b).fdb = s.fdb := rfl
@[simp] theorem State.onFn_ing {a b} : (s.onFn a b).ing = s.ing := rfl
@[simp] theorem State.onFn_store {a b} : (s.onFn a b).store = s.store := rfl
@[simp] theorem State.onFn_com {a b} : (s.onFn a b).com = s.com := rfl
@[simp] theorem State.onFn_engines {a b} : (s.onFn a b).engines = s.engines := rfl
@[simp] theorem State.onFn_descs {a b} : (s.onFn a b).descs = s.descs := rfl
@[simp] theorem State.onFn_movers {a b} : (s.onFn a b).movers = s.movers := rfl
@[simp] theorem State.onFn_data {a b} : (s.onFn a b).data = s.data := rfl
@[simp] theorem State.onFn_solver {a b} : (s.onFn a b).solver = s.solver := rfl
@[simp] theorem State.onFn_live {a b} : (s.onFn a b).live = s.live := rfl
@[simp] theorem State.onFn_old {a b} : (s.onFn a b).old = s.old := rfl
@[simp] theorem State.onFn_liveBeat {a b} : (s.onFn a b).liveBeat = s.liveBeat := rfl
@[simp] theorem State.onFn_slot {a b} : (s.onFn a b).slot = s.slot := rfl
@[simp] theorem State.onFn_place {a b} : (s.onFn a b).place = s.place := rfl
@[simp] theorem State.onFn_mem {a b} : (s.onFn a b).mem = s.mem := rfl
@[simp] theorem State.onFn_peers {a b} : (s.onFn a b).peers = s.peers := rfl
@[simp] theorem State.onFn_safety {a b} : (s.onFn a b).safety = s.safety := rfl
@[simp] theorem State.onFn_boot {a b} : (s.onFn a b).boot = s.boot := rfl
@[simp] theorem State.onFn_power {a b} : (s.onFn a b).power = s.power := rfl
@[simp] theorem State.onFn_keeper {a b} : (s.onFn a b).keeper = s.keeper := rfl
@[simp] theorem State.onFn_fuses {a b} : (s.onFn a b).fuses = s.fuses := rfl
@[simp] theorem State.onFn_flash {a b} : (s.onFn a b).flash = s.flash := rfl
@[simp] theorem State.onFn_hostMem {a b} : (s.onFn a b).hostMem = s.hostMem := rfl
@[simp] theorem State.onFn_out {a b} : (s.onFn a b).out = s.out := rfl
@[simp] theorem State.onFn_free {a b} : (s.onFn a b).free = s.free := rfl
@[simp] theorem State.onHost_pending {a} : (s.onHost a).pending = s.pending := rfl
@[simp] theorem State.onHost_regs {a} : (s.onHost a).regs = s.regs := rfl
@[simp] theorem State.onHost_shadows {a} : (s.onHost a).shadows = s.shadows := rfl
@[simp] theorem State.onHost_held {a} : (s.onHost a).held = s.held := rfl
@[simp] theorem State.onHost_wo {a} : (s.onHost a).wo = s.wo := rfl
@[simp] theorem State.onHost_resetN {a} : (s.onHost a).resetN = s.resetN := rfl
@[simp] theorem State.onHost_pwrOk {a} : (s.onHost a).pwrOk = s.pwrOk := rfl
@[simp] theorem State.onHost_tl {a} : (s.onHost a).tl = s.tl := rfl
@[simp] theorem State.onHost_roots {a} : (s.onHost a).roots = s.roots := rfl
@[simp] theorem State.onHost_ports {a} : (s.onHost a).ports = s.ports := rfl
@[simp] theorem State.onHost_fdb {a} : (s.onHost a).fdb = s.fdb := rfl
@[simp] theorem State.onHost_ing {a} : (s.onHost a).ing = s.ing := rfl
@[simp] theorem State.onHost_store {a} : (s.onHost a).store = s.store := rfl
@[simp] theorem State.onHost_com {a} : (s.onHost a).com = s.com := rfl
@[simp] theorem State.onHost_engines {a} : (s.onHost a).engines = s.engines := rfl
@[simp] theorem State.onHost_descs {a} : (s.onHost a).descs = s.descs := rfl
@[simp] theorem State.onHost_movers {a} : (s.onHost a).movers = s.movers := rfl
@[simp] theorem State.onHost_data {a} : (s.onHost a).data = s.data := rfl
@[simp] theorem State.onHost_solver {a} : (s.onHost a).solver = s.solver := rfl
@[simp] theorem State.onHost_live {a} : (s.onHost a).live = s.live := rfl
@[simp] theorem State.onHost_old {a} : (s.onHost a).old = s.old := rfl
@[simp] theorem State.onHost_liveBeat {a} : (s.onHost a).liveBeat = s.liveBeat := rfl
@[simp] theorem State.onHost_slot {a} : (s.onHost a).slot = s.slot := rfl
@[simp] theorem State.onHost_place {a} : (s.onHost a).place = s.place := rfl
@[simp] theorem State.onHost_mem {a} : (s.onHost a).mem = s.mem := rfl
@[simp] theorem State.onHost_peers {a} : (s.onHost a).peers = s.peers := rfl
@[simp] theorem State.onHost_safety {a} : (s.onHost a).safety = s.safety := rfl
@[simp] theorem State.onHost_boot {a} : (s.onHost a).boot = s.boot := rfl
@[simp] theorem State.onHost_power {a} : (s.onHost a).power = s.power := rfl
@[simp] theorem State.onHost_keeper {a} : (s.onHost a).keeper = s.keeper := rfl
@[simp] theorem State.onHost_fuses {a} : (s.onHost a).fuses = s.fuses := rfl
@[simp] theorem State.onHost_flash {a} : (s.onHost a).flash = s.flash := rfl
@[simp] theorem State.onHost_hostMem {a} : (s.onHost a).hostMem = s.hostMem := rfl
@[simp] theorem State.onHost_out {a} : (s.onHost a).out = s.out := rfl
@[simp] theorem State.onHost_free {a} : (s.onHost a).free = s.free := rfl
@[simp] theorem State.onIng_pending {a} : (s.onIng a).pending = s.pending := rfl
@[simp] theorem State.onIng_regs {a} : (s.onIng a).regs = s.regs := rfl
@[simp] theorem State.onIng_shadows {a} : (s.onIng a).shadows = s.shadows := rfl
@[simp] theorem State.onIng_held {a} : (s.onIng a).held = s.held := rfl
@[simp] theorem State.onIng_wo {a} : (s.onIng a).wo = s.wo := rfl
@[simp] theorem State.onIng_resetN {a} : (s.onIng a).resetN = s.resetN := rfl
@[simp] theorem State.onIng_pwrOk {a} : (s.onIng a).pwrOk = s.pwrOk := rfl
@[simp] theorem State.onIng_tl {a} : (s.onIng a).tl = s.tl := rfl
@[simp] theorem State.onIng_roots {a} : (s.onIng a).roots = s.roots := rfl
@[simp] theorem State.onIng_ports {a} : (s.onIng a).ports = s.ports := rfl
@[simp] theorem State.onIng_fdb {a} : (s.onIng a).fdb = s.fdb := rfl
@[simp] theorem State.onIng_store {a} : (s.onIng a).store = s.store := rfl
@[simp] theorem State.onIng_com {a} : (s.onIng a).com = s.com := rfl
@[simp] theorem State.onIng_engines {a} : (s.onIng a).engines = s.engines := rfl
@[simp] theorem State.onIng_descs {a} : (s.onIng a).descs = s.descs := rfl
@[simp] theorem State.onIng_movers {a} : (s.onIng a).movers = s.movers := rfl
@[simp] theorem State.onIng_data {a} : (s.onIng a).data = s.data := rfl
@[simp] theorem State.onIng_solver {a} : (s.onIng a).solver = s.solver := rfl
@[simp] theorem State.onIng_live {a} : (s.onIng a).live = s.live := rfl
@[simp] theorem State.onIng_old {a} : (s.onIng a).old = s.old := rfl
@[simp] theorem State.onIng_liveBeat {a} : (s.onIng a).liveBeat = s.liveBeat := rfl
@[simp] theorem State.onIng_slot {a} : (s.onIng a).slot = s.slot := rfl
@[simp] theorem State.onIng_place {a} : (s.onIng a).place = s.place := rfl
@[simp] theorem State.onIng_mem {a} : (s.onIng a).mem = s.mem := rfl
@[simp] theorem State.onIng_peers {a} : (s.onIng a).peers = s.peers := rfl
@[simp] theorem State.onIng_safety {a} : (s.onIng a).safety = s.safety := rfl
@[simp] theorem State.onIng_host {a} : (s.onIng a).host = s.host := rfl
@[simp] theorem State.onIng_boot {a} : (s.onIng a).boot = s.boot := rfl
@[simp] theorem State.onIng_power {a} : (s.onIng a).power = s.power := rfl
@[simp] theorem State.onIng_keeper {a} : (s.onIng a).keeper = s.keeper := rfl
@[simp] theorem State.onIng_fuses {a} : (s.onIng a).fuses = s.fuses := rfl
@[simp] theorem State.onIng_flash {a} : (s.onIng a).flash = s.flash := rfl
@[simp] theorem State.onIng_hostMem {a} : (s.onIng a).hostMem = s.hostMem := rfl
@[simp] theorem State.onIng_out {a} : (s.onIng a).out = s.out := rfl
@[simp] theorem State.onIng_free {a} : (s.onIng a).free = s.free := rfl
@[simp] theorem State.onKeeper_pending {a} : (s.onKeeper a).pending = s.pending := rfl
@[simp] theorem State.onKeeper_regs {a} : (s.onKeeper a).regs = s.regs := rfl
@[simp] theorem State.onKeeper_shadows {a} : (s.onKeeper a).shadows = s.shadows := rfl
@[simp] theorem State.onKeeper_held {a} : (s.onKeeper a).held = s.held := rfl
@[simp] theorem State.onKeeper_wo {a} : (s.onKeeper a).wo = s.wo := rfl
@[simp] theorem State.onKeeper_resetN {a} : (s.onKeeper a).resetN = s.resetN := rfl
@[simp] theorem State.onKeeper_pwrOk {a} : (s.onKeeper a).pwrOk = s.pwrOk := rfl
@[simp] theorem State.onKeeper_tl {a} : (s.onKeeper a).tl = s.tl := rfl
@[simp] theorem State.onKeeper_roots {a} : (s.onKeeper a).roots = s.roots := rfl
@[simp] theorem State.onKeeper_ports {a} : (s.onKeeper a).ports = s.ports := rfl
@[simp] theorem State.onKeeper_fdb {a} : (s.onKeeper a).fdb = s.fdb := rfl
@[simp] theorem State.onKeeper_ing {a} : (s.onKeeper a).ing = s.ing := rfl
@[simp] theorem State.onKeeper_store {a} : (s.onKeeper a).store = s.store := rfl
@[simp] theorem State.onKeeper_com {a} : (s.onKeeper a).com = s.com := rfl
@[simp] theorem State.onKeeper_engines {a} : (s.onKeeper a).engines = s.engines := rfl
@[simp] theorem State.onKeeper_descs {a} : (s.onKeeper a).descs = s.descs := rfl
@[simp] theorem State.onKeeper_movers {a} : (s.onKeeper a).movers = s.movers := rfl
@[simp] theorem State.onKeeper_data {a} : (s.onKeeper a).data = s.data := rfl
@[simp] theorem State.onKeeper_solver {a} : (s.onKeeper a).solver = s.solver := rfl
@[simp] theorem State.onKeeper_live {a} : (s.onKeeper a).live = s.live := rfl
@[simp] theorem State.onKeeper_old {a} : (s.onKeeper a).old = s.old := rfl
@[simp] theorem State.onKeeper_liveBeat {a} : (s.onKeeper a).liveBeat = s.liveBeat := rfl
@[simp] theorem State.onKeeper_slot {a} : (s.onKeeper a).slot = s.slot := rfl
@[simp] theorem State.onKeeper_place {a} : (s.onKeeper a).place = s.place := rfl
@[simp] theorem State.onKeeper_mem {a} : (s.onKeeper a).mem = s.mem := rfl
@[simp] theorem State.onKeeper_peers {a} : (s.onKeeper a).peers = s.peers := rfl
@[simp] theorem State.onKeeper_safety {a} : (s.onKeeper a).safety = s.safety := rfl
@[simp] theorem State.onKeeper_host {a} : (s.onKeeper a).host = s.host := rfl
@[simp] theorem State.onKeeper_boot {a} : (s.onKeeper a).boot = s.boot := rfl
@[simp] theorem State.onKeeper_power {a} : (s.onKeeper a).power = s.power := rfl
@[simp] theorem State.onKeeper_fuses {a} : (s.onKeeper a).fuses = s.fuses := rfl
@[simp] theorem State.onKeeper_flash {a} : (s.onKeeper a).flash = s.flash := rfl
@[simp] theorem State.onKeeper_hostMem {a} : (s.onKeeper a).hostMem = s.hostMem := rfl
@[simp] theorem State.onKeeper_out {a} : (s.onKeeper a).out = s.out := rfl
@[simp] theorem State.onKeeper_free {a} : (s.onKeeper a).free = s.free := rfl
@[simp] theorem State.onMachine_pending {a b} : (s.onMachine a b).pending = s.pending := rfl
@[simp] theorem State.onMachine_regs {a b} : (s.onMachine a b).regs = s.regs := rfl
@[simp] theorem State.onMachine_shadows {a b} : (s.onMachine a b).shadows = s.shadows := rfl
@[simp] theorem State.onMachine_held {a b} : (s.onMachine a b).held = s.held := rfl
@[simp] theorem State.onMachine_wo {a b} : (s.onMachine a b).wo = s.wo := rfl
@[simp] theorem State.onMachine_resetN {a b} : (s.onMachine a b).resetN = s.resetN := rfl
@[simp] theorem State.onMachine_pwrOk {a b} : (s.onMachine a b).pwrOk = s.pwrOk := rfl
@[simp] theorem State.onMachine_tl {a b} : (s.onMachine a b).tl = s.tl := rfl
@[simp] theorem State.onMachine_roots {a b} : (s.onMachine a b).roots = s.roots := rfl
@[simp] theorem State.onMachine_ports {a b} : (s.onMachine a b).ports = s.ports := rfl
@[simp] theorem State.onMachine_fdb {a b} : (s.onMachine a b).fdb = s.fdb := rfl
@[simp] theorem State.onMachine_store {a b} : (s.onMachine a b).store = s.store := rfl
@[simp] theorem State.onMachine_com {a b} : (s.onMachine a b).com = s.com := rfl
@[simp] theorem State.onMachine_engines {a b} : (s.onMachine a b).engines = s.engines := rfl
@[simp] theorem State.onMachine_descs {a b} : (s.onMachine a b).descs = s.descs := rfl
@[simp] theorem State.onMachine_movers {a b} : (s.onMachine a b).movers = s.movers := rfl
@[simp] theorem State.onMachine_data {a b} : (s.onMachine a b).data = s.data := rfl
@[simp] theorem State.onMachine_solver {a b} : (s.onMachine a b).solver = s.solver := rfl
@[simp] theorem State.onMachine_live {a b} : (s.onMachine a b).live = s.live := rfl
@[simp] theorem State.onMachine_old {a b} : (s.onMachine a b).old = s.old := rfl
@[simp] theorem State.onMachine_liveBeat {a b} : (s.onMachine a b).liveBeat = s.liveBeat := rfl
@[simp] theorem State.onMachine_slot {a b} : (s.onMachine a b).slot = s.slot := rfl
@[simp] theorem State.onMachine_place {a b} : (s.onMachine a b).place = s.place := rfl
@[simp] theorem State.onMachine_mem {a b} : (s.onMachine a b).mem = s.mem := rfl
@[simp] theorem State.onMachine_peers {a b} : (s.onMachine a b).peers = s.peers := rfl
@[simp] theorem State.onMachine_safety {a b} : (s.onMachine a b).safety = s.safety := rfl
@[simp] theorem State.onMachine_host {a b} : (s.onMachine a b).host = s.host := rfl
@[simp] theorem State.onMachine_boot {a b} : (s.onMachine a b).boot = s.boot := rfl
@[simp] theorem State.onMachine_power {a b} : (s.onMachine a b).power = s.power := rfl
@[simp] theorem State.onMachine_keeper {a b} : (s.onMachine a b).keeper = s.keeper := rfl
@[simp] theorem State.onMachine_fuses {a b} : (s.onMachine a b).fuses = s.fuses := rfl
@[simp] theorem State.onMachine_flash {a b} : (s.onMachine a b).flash = s.flash := rfl
@[simp] theorem State.onMachine_hostMem {a b} : (s.onMachine a b).hostMem = s.hostMem := rfl
@[simp] theorem State.onMachine_out {a b} : (s.onMachine a b).out = s.out := rfl
@[simp] theorem State.onMachine_free {a b} : (s.onMachine a b).free = s.free := rfl
@[simp] theorem State.onMarrow_pending {a} : (s.onMarrow a).pending = s.pending := rfl
@[simp] theorem State.onMarrow_regs {a} : (s.onMarrow a).regs = s.regs := rfl
@[simp] theorem State.onMarrow_shadows {a} : (s.onMarrow a).shadows = s.shadows := rfl
@[simp] theorem State.onMarrow_held {a} : (s.onMarrow a).held = s.held := rfl
@[simp] theorem State.onMarrow_wo {a} : (s.onMarrow a).wo = s.wo := rfl
@[simp] theorem State.onMarrow_resetN {a} : (s.onMarrow a).resetN = s.resetN := rfl
@[simp] theorem State.onMarrow_pwrOk {a} : (s.onMarrow a).pwrOk = s.pwrOk := rfl
@[simp] theorem State.onMarrow_tl {a} : (s.onMarrow a).tl = s.tl := rfl
@[simp] theorem State.onMarrow_roots {a} : (s.onMarrow a).roots = s.roots := rfl
@[simp] theorem State.onMarrow_ports {a} : (s.onMarrow a).ports = s.ports := rfl
@[simp] theorem State.onMarrow_fdb {a} : (s.onMarrow a).fdb = s.fdb := rfl
@[simp] theorem State.onMarrow_ing {a} : (s.onMarrow a).ing = s.ing := rfl
@[simp] theorem State.onMarrow_store {a} : (s.onMarrow a).store = s.store := rfl
@[simp] theorem State.onMarrow_com {a} : (s.onMarrow a).com = s.com := rfl
@[simp] theorem State.onMarrow_engines {a} : (s.onMarrow a).engines = s.engines := rfl
@[simp] theorem State.onMarrow_descs {a} : (s.onMarrow a).descs = s.descs := rfl
@[simp] theorem State.onMarrow_movers {a} : (s.onMarrow a).movers = s.movers := rfl
@[simp] theorem State.onMarrow_data {a} : (s.onMarrow a).data = s.data := rfl
@[simp] theorem State.onMarrow_solver {a} : (s.onMarrow a).solver = s.solver := rfl
@[simp] theorem State.onMarrow_live {a} : (s.onMarrow a).live = s.live := rfl
@[simp] theorem State.onMarrow_old {a} : (s.onMarrow a).old = s.old := rfl
@[simp] theorem State.onMarrow_liveBeat {a} : (s.onMarrow a).liveBeat = s.liveBeat := rfl
@[simp] theorem State.onMarrow_slot {a} : (s.onMarrow a).slot = s.slot := rfl
@[simp] theorem State.onMarrow_place {a} : (s.onMarrow a).place = s.place := rfl
@[simp] theorem State.onMarrow_mem {a} : (s.onMarrow a).mem = s.mem := rfl
@[simp] theorem State.onMarrow_peers {a} : (s.onMarrow a).peers = s.peers := rfl
@[simp] theorem State.onMarrow_safety {a} : (s.onMarrow a).safety = s.safety := rfl
@[simp] theorem State.onMarrow_host {a} : (s.onMarrow a).host = s.host := rfl
@[simp] theorem State.onMarrow_boot {a} : (s.onMarrow a).boot = s.boot := rfl
@[simp] theorem State.onMarrow_power {a} : (s.onMarrow a).power = s.power := rfl
@[simp] theorem State.onMarrow_fuses {a} : (s.onMarrow a).fuses = s.fuses := rfl
@[simp] theorem State.onMarrow_flash {a} : (s.onMarrow a).flash = s.flash := rfl
@[simp] theorem State.onMarrow_hostMem {a} : (s.onMarrow a).hostMem = s.hostMem := rfl
@[simp] theorem State.onMarrow_out {a} : (s.onMarrow a).out = s.out := rfl
@[simp] theorem State.onMarrow_free {a} : (s.onMarrow a).free = s.free := rfl
@[simp] theorem State.onMem_pending {a} : (s.onMem a).pending = s.pending := rfl
@[simp] theorem State.onMem_regs {a} : (s.onMem a).regs = s.regs := rfl
@[simp] theorem State.onMem_shadows {a} : (s.onMem a).shadows = s.shadows := rfl
@[simp] theorem State.onMem_held {a} : (s.onMem a).held = s.held := rfl
@[simp] theorem State.onMem_wo {a} : (s.onMem a).wo = s.wo := rfl
@[simp] theorem State.onMem_resetN {a} : (s.onMem a).resetN = s.resetN := rfl
@[simp] theorem State.onMem_pwrOk {a} : (s.onMem a).pwrOk = s.pwrOk := rfl
@[simp] theorem State.onMem_tl {a} : (s.onMem a).tl = s.tl := rfl
@[simp] theorem State.onMem_roots {a} : (s.onMem a).roots = s.roots := rfl
@[simp] theorem State.onMem_ports {a} : (s.onMem a).ports = s.ports := rfl
@[simp] theorem State.onMem_fdb {a} : (s.onMem a).fdb = s.fdb := rfl
@[simp] theorem State.onMem_ing {a} : (s.onMem a).ing = s.ing := rfl
@[simp] theorem State.onMem_store {a} : (s.onMem a).store = s.store := rfl
@[simp] theorem State.onMem_com {a} : (s.onMem a).com = s.com := rfl
@[simp] theorem State.onMem_engines {a} : (s.onMem a).engines = s.engines := rfl
@[simp] theorem State.onMem_descs {a} : (s.onMem a).descs = s.descs := rfl
@[simp] theorem State.onMem_movers {a} : (s.onMem a).movers = s.movers := rfl
@[simp] theorem State.onMem_data {a} : (s.onMem a).data = s.data := rfl
@[simp] theorem State.onMem_solver {a} : (s.onMem a).solver = s.solver := rfl
@[simp] theorem State.onMem_live {a} : (s.onMem a).live = s.live := rfl
@[simp] theorem State.onMem_old {a} : (s.onMem a).old = s.old := rfl
@[simp] theorem State.onMem_liveBeat {a} : (s.onMem a).liveBeat = s.liveBeat := rfl
@[simp] theorem State.onMem_slot {a} : (s.onMem a).slot = s.slot := rfl
@[simp] theorem State.onMem_place {a} : (s.onMem a).place = s.place := rfl
@[simp] theorem State.onMem_peers {a} : (s.onMem a).peers = s.peers := rfl
@[simp] theorem State.onMem_safety {a} : (s.onMem a).safety = s.safety := rfl
@[simp] theorem State.onMem_host {a} : (s.onMem a).host = s.host := rfl
@[simp] theorem State.onMem_boot {a} : (s.onMem a).boot = s.boot := rfl
@[simp] theorem State.onMem_power {a} : (s.onMem a).power = s.power := rfl
@[simp] theorem State.onMem_keeper {a} : (s.onMem a).keeper = s.keeper := rfl
@[simp] theorem State.onMem_fuses {a} : (s.onMem a).fuses = s.fuses := rfl
@[simp] theorem State.onMem_flash {a} : (s.onMem a).flash = s.flash := rfl
@[simp] theorem State.onMem_hostMem {a} : (s.onMem a).hostMem = s.hostMem := rfl
@[simp] theorem State.onMem_out {a} : (s.onMem a).out = s.out := rfl
@[simp] theorem State.onMem_free {a} : (s.onMem a).free = s.free := rfl
@[simp] theorem State.onMirror_pending {a} : (s.onMirror a).pending = s.pending := rfl
@[simp] theorem State.onMirror_regs {a} : (s.onMirror a).regs = s.regs := rfl
@[simp] theorem State.onMirror_shadows {a} : (s.onMirror a).shadows = s.shadows := rfl
@[simp] theorem State.onMirror_held {a} : (s.onMirror a).held = s.held := rfl
@[simp] theorem State.onMirror_wo {a} : (s.onMirror a).wo = s.wo := rfl
@[simp] theorem State.onMirror_resetN {a} : (s.onMirror a).resetN = s.resetN := rfl
@[simp] theorem State.onMirror_pwrOk {a} : (s.onMirror a).pwrOk = s.pwrOk := rfl
@[simp] theorem State.onMirror_tl {a} : (s.onMirror a).tl = s.tl := rfl
@[simp] theorem State.onMirror_roots {a} : (s.onMirror a).roots = s.roots := rfl
@[simp] theorem State.onMirror_ports {a} : (s.onMirror a).ports = s.ports := rfl
@[simp] theorem State.onMirror_fdb {a} : (s.onMirror a).fdb = s.fdb := rfl
@[simp] theorem State.onMirror_ing {a} : (s.onMirror a).ing = s.ing := rfl
@[simp] theorem State.onMirror_store {a} : (s.onMirror a).store = s.store := rfl
@[simp] theorem State.onMirror_com {a} : (s.onMirror a).com = s.com := rfl
@[simp] theorem State.onMirror_engines {a} : (s.onMirror a).engines = s.engines := rfl
@[simp] theorem State.onMirror_descs {a} : (s.onMirror a).descs = s.descs := rfl
@[simp] theorem State.onMirror_movers {a} : (s.onMirror a).movers = s.movers := rfl
@[simp] theorem State.onMirror_data {a} : (s.onMirror a).data = s.data := rfl
@[simp] theorem State.onMirror_solver {a} : (s.onMirror a).solver = s.solver := rfl
@[simp] theorem State.onMirror_live {a} : (s.onMirror a).live = s.live := rfl
@[simp] theorem State.onMirror_old {a} : (s.onMirror a).old = s.old := rfl
@[simp] theorem State.onMirror_liveBeat {a} : (s.onMirror a).liveBeat = s.liveBeat := rfl
@[simp] theorem State.onMirror_slot {a} : (s.onMirror a).slot = s.slot := rfl
@[simp] theorem State.onMirror_place {a} : (s.onMirror a).place = s.place := rfl
@[simp] theorem State.onMirror_mem {a} : (s.onMirror a).mem = s.mem := rfl
@[simp] theorem State.onMirror_safety {a} : (s.onMirror a).safety = s.safety := rfl
@[simp] theorem State.onMirror_host {a} : (s.onMirror a).host = s.host := rfl
@[simp] theorem State.onMirror_boot {a} : (s.onMirror a).boot = s.boot := rfl
@[simp] theorem State.onMirror_power {a} : (s.onMirror a).power = s.power := rfl
@[simp] theorem State.onMirror_keeper {a} : (s.onMirror a).keeper = s.keeper := rfl
@[simp] theorem State.onMirror_fuses {a} : (s.onMirror a).fuses = s.fuses := rfl
@[simp] theorem State.onMirror_flash {a} : (s.onMirror a).flash = s.flash := rfl
@[simp] theorem State.onMirror_hostMem {a} : (s.onMirror a).hostMem = s.hostMem := rfl
@[simp] theorem State.onMirror_out {a} : (s.onMirror a).out = s.out := rfl
@[simp] theorem State.onMirror_free {a} : (s.onMirror a).free = s.free := rfl
@[simp] theorem State.onMover_pending {a b} : (s.onMover a b).pending = s.pending := rfl
@[simp] theorem State.onMover_regs {a b} : (s.onMover a b).regs = s.regs := rfl
@[simp] theorem State.onMover_shadows {a b} : (s.onMover a b).shadows = s.shadows := rfl
@[simp] theorem State.onMover_held {a b} : (s.onMover a b).held = s.held := rfl
@[simp] theorem State.onMover_wo {a b} : (s.onMover a b).wo = s.wo := rfl
@[simp] theorem State.onMover_resetN {a b} : (s.onMover a b).resetN = s.resetN := rfl
@[simp] theorem State.onMover_pwrOk {a b} : (s.onMover a b).pwrOk = s.pwrOk := rfl
@[simp] theorem State.onMover_tl {a b} : (s.onMover a b).tl = s.tl := rfl
@[simp] theorem State.onMover_roots {a b} : (s.onMover a b).roots = s.roots := rfl
@[simp] theorem State.onMover_ports {a b} : (s.onMover a b).ports = s.ports := rfl
@[simp] theorem State.onMover_fdb {a b} : (s.onMover a b).fdb = s.fdb := rfl
@[simp] theorem State.onMover_ing {a b} : (s.onMover a b).ing = s.ing := rfl
@[simp] theorem State.onMover_store {a b} : (s.onMover a b).store = s.store := rfl
@[simp] theorem State.onMover_com {a b} : (s.onMover a b).com = s.com := rfl
@[simp] theorem State.onMover_engines {a b} : (s.onMover a b).engines = s.engines := rfl
@[simp] theorem State.onMover_descs {a b} : (s.onMover a b).descs = s.descs := rfl
@[simp] theorem State.onMover_data {a b} : (s.onMover a b).data = s.data := rfl
@[simp] theorem State.onMover_solver {a b} : (s.onMover a b).solver = s.solver := rfl
@[simp] theorem State.onMover_live {a b} : (s.onMover a b).live = s.live := rfl
@[simp] theorem State.onMover_old {a b} : (s.onMover a b).old = s.old := rfl
@[simp] theorem State.onMover_liveBeat {a b} : (s.onMover a b).liveBeat = s.liveBeat := rfl
@[simp] theorem State.onMover_slot {a b} : (s.onMover a b).slot = s.slot := rfl
@[simp] theorem State.onMover_place {a b} : (s.onMover a b).place = s.place := rfl
@[simp] theorem State.onMover_mem {a b} : (s.onMover a b).mem = s.mem := rfl
@[simp] theorem State.onMover_peers {a b} : (s.onMover a b).peers = s.peers := rfl
@[simp] theorem State.onMover_safety {a b} : (s.onMover a b).safety = s.safety := rfl
@[simp] theorem State.onMover_host {a b} : (s.onMover a b).host = s.host := rfl
@[simp] theorem State.onMover_boot {a b} : (s.onMover a b).boot = s.boot := rfl
@[simp] theorem State.onMover_power {a b} : (s.onMover a b).power = s.power := rfl
@[simp] theorem State.onMover_keeper {a b} : (s.onMover a b).keeper = s.keeper := rfl
@[simp] theorem State.onMover_fuses {a b} : (s.onMover a b).fuses = s.fuses := rfl
@[simp] theorem State.onMover_flash {a b} : (s.onMover a b).flash = s.flash := rfl
@[simp] theorem State.onMover_hostMem {a b} : (s.onMover a b).hostMem = s.hostMem := rfl
@[simp] theorem State.onMover_out {a b} : (s.onMover a b).out = s.out := rfl
@[simp] theorem State.onMover_free {a b} : (s.onMover a b).free = s.free := rfl
@[simp] theorem State.onPeer_pending {a b} : (s.onPeer a b).pending = s.pending := rfl
@[simp] theorem State.onPeer_regs {a b} : (s.onPeer a b).regs = s.regs := rfl
@[simp] theorem State.onPeer_shadows {a b} : (s.onPeer a b).shadows = s.shadows := rfl
@[simp] theorem State.onPeer_held {a b} : (s.onPeer a b).held = s.held := rfl
@[simp] theorem State.onPeer_wo {a b} : (s.onPeer a b).wo = s.wo := rfl
@[simp] theorem State.onPeer_resetN {a b} : (s.onPeer a b).resetN = s.resetN := rfl
@[simp] theorem State.onPeer_pwrOk {a b} : (s.onPeer a b).pwrOk = s.pwrOk := rfl
@[simp] theorem State.onPeer_tl {a b} : (s.onPeer a b).tl = s.tl := rfl
@[simp] theorem State.onPeer_roots {a b} : (s.onPeer a b).roots = s.roots := rfl
@[simp] theorem State.onPeer_ports {a b} : (s.onPeer a b).ports = s.ports := rfl
@[simp] theorem State.onPeer_fdb {a b} : (s.onPeer a b).fdb = s.fdb := rfl
@[simp] theorem State.onPeer_ing {a b} : (s.onPeer a b).ing = s.ing := rfl
@[simp] theorem State.onPeer_store {a b} : (s.onPeer a b).store = s.store := rfl
@[simp] theorem State.onPeer_com {a b} : (s.onPeer a b).com = s.com := rfl
@[simp] theorem State.onPeer_engines {a b} : (s.onPeer a b).engines = s.engines := rfl
@[simp] theorem State.onPeer_descs {a b} : (s.onPeer a b).descs = s.descs := rfl
@[simp] theorem State.onPeer_movers {a b} : (s.onPeer a b).movers = s.movers := rfl
@[simp] theorem State.onPeer_data {a b} : (s.onPeer a b).data = s.data := rfl
@[simp] theorem State.onPeer_solver {a b} : (s.onPeer a b).solver = s.solver := rfl
@[simp] theorem State.onPeer_live {a b} : (s.onPeer a b).live = s.live := rfl
@[simp] theorem State.onPeer_old {a b} : (s.onPeer a b).old = s.old := rfl
@[simp] theorem State.onPeer_liveBeat {a b} : (s.onPeer a b).liveBeat = s.liveBeat := rfl
@[simp] theorem State.onPeer_slot {a b} : (s.onPeer a b).slot = s.slot := rfl
@[simp] theorem State.onPeer_place {a b} : (s.onPeer a b).place = s.place := rfl
@[simp] theorem State.onPeer_mem {a b} : (s.onPeer a b).mem = s.mem := rfl
@[simp] theorem State.onPeer_safety {a b} : (s.onPeer a b).safety = s.safety := rfl
@[simp] theorem State.onPeer_host {a b} : (s.onPeer a b).host = s.host := rfl
@[simp] theorem State.onPeer_boot {a b} : (s.onPeer a b).boot = s.boot := rfl
@[simp] theorem State.onPeer_power {a b} : (s.onPeer a b).power = s.power := rfl
@[simp] theorem State.onPeer_keeper {a b} : (s.onPeer a b).keeper = s.keeper := rfl
@[simp] theorem State.onPeer_fuses {a b} : (s.onPeer a b).fuses = s.fuses := rfl
@[simp] theorem State.onPeer_flash {a b} : (s.onPeer a b).flash = s.flash := rfl
@[simp] theorem State.onPeer_hostMem {a b} : (s.onPeer a b).hostMem = s.hostMem := rfl
@[simp] theorem State.onPeer_out {a b} : (s.onPeer a b).out = s.out := rfl
@[simp] theorem State.onPeer_free {a b} : (s.onPeer a b).free = s.free := rfl
@[simp] theorem State.onPeers_pending {a} : (s.onPeers a).pending = s.pending := rfl
@[simp] theorem State.onPeers_regs {a} : (s.onPeers a).regs = s.regs := rfl
@[simp] theorem State.onPeers_shadows {a} : (s.onPeers a).shadows = s.shadows := rfl
@[simp] theorem State.onPeers_held {a} : (s.onPeers a).held = s.held := rfl
@[simp] theorem State.onPeers_wo {a} : (s.onPeers a).wo = s.wo := rfl
@[simp] theorem State.onPeers_resetN {a} : (s.onPeers a).resetN = s.resetN := rfl
@[simp] theorem State.onPeers_pwrOk {a} : (s.onPeers a).pwrOk = s.pwrOk := rfl
@[simp] theorem State.onPeers_tl {a} : (s.onPeers a).tl = s.tl := rfl
@[simp] theorem State.onPeers_roots {a} : (s.onPeers a).roots = s.roots := rfl
@[simp] theorem State.onPeers_ports {a} : (s.onPeers a).ports = s.ports := rfl
@[simp] theorem State.onPeers_fdb {a} : (s.onPeers a).fdb = s.fdb := rfl
@[simp] theorem State.onPeers_ing {a} : (s.onPeers a).ing = s.ing := rfl
@[simp] theorem State.onPeers_store {a} : (s.onPeers a).store = s.store := rfl
@[simp] theorem State.onPeers_com {a} : (s.onPeers a).com = s.com := rfl
@[simp] theorem State.onPeers_engines {a} : (s.onPeers a).engines = s.engines := rfl
@[simp] theorem State.onPeers_descs {a} : (s.onPeers a).descs = s.descs := rfl
@[simp] theorem State.onPeers_movers {a} : (s.onPeers a).movers = s.movers := rfl
@[simp] theorem State.onPeers_data {a} : (s.onPeers a).data = s.data := rfl
@[simp] theorem State.onPeers_solver {a} : (s.onPeers a).solver = s.solver := rfl
@[simp] theorem State.onPeers_live {a} : (s.onPeers a).live = s.live := rfl
@[simp] theorem State.onPeers_old {a} : (s.onPeers a).old = s.old := rfl
@[simp] theorem State.onPeers_liveBeat {a} : (s.onPeers a).liveBeat = s.liveBeat := rfl
@[simp] theorem State.onPeers_slot {a} : (s.onPeers a).slot = s.slot := rfl
@[simp] theorem State.onPeers_place {a} : (s.onPeers a).place = s.place := rfl
@[simp] theorem State.onPeers_mem {a} : (s.onPeers a).mem = s.mem := rfl
@[simp] theorem State.onPeers_safety {a} : (s.onPeers a).safety = s.safety := rfl
@[simp] theorem State.onPeers_host {a} : (s.onPeers a).host = s.host := rfl
@[simp] theorem State.onPeers_boot {a} : (s.onPeers a).boot = s.boot := rfl
@[simp] theorem State.onPeers_power {a} : (s.onPeers a).power = s.power := rfl
@[simp] theorem State.onPeers_keeper {a} : (s.onPeers a).keeper = s.keeper := rfl
@[simp] theorem State.onPeers_fuses {a} : (s.onPeers a).fuses = s.fuses := rfl
@[simp] theorem State.onPeers_flash {a} : (s.onPeers a).flash = s.flash := rfl
@[simp] theorem State.onPeers_hostMem {a} : (s.onPeers a).hostMem = s.hostMem := rfl
@[simp] theorem State.onPeers_out {a} : (s.onPeers a).out = s.out := rfl
@[simp] theorem State.onPeers_free {a} : (s.onPeers a).free = s.free := rfl
@[simp] theorem State.onPlace_pending {a} : (s.onPlace a).pending = s.pending := rfl
@[simp] theorem State.onPlace_regs {a} : (s.onPlace a).regs = s.regs := rfl
@[simp] theorem State.onPlace_shadows {a} : (s.onPlace a).shadows = s.shadows := rfl
@[simp] theorem State.onPlace_held {a} : (s.onPlace a).held = s.held := rfl
@[simp] theorem State.onPlace_wo {a} : (s.onPlace a).wo = s.wo := rfl
@[simp] theorem State.onPlace_resetN {a} : (s.onPlace a).resetN = s.resetN := rfl
@[simp] theorem State.onPlace_pwrOk {a} : (s.onPlace a).pwrOk = s.pwrOk := rfl
@[simp] theorem State.onPlace_tl {a} : (s.onPlace a).tl = s.tl := rfl
@[simp] theorem State.onPlace_roots {a} : (s.onPlace a).roots = s.roots := rfl
@[simp] theorem State.onPlace_ports {a} : (s.onPlace a).ports = s.ports := rfl
@[simp] theorem State.onPlace_fdb {a} : (s.onPlace a).fdb = s.fdb := rfl
@[simp] theorem State.onPlace_ing {a} : (s.onPlace a).ing = s.ing := rfl
@[simp] theorem State.onPlace_store {a} : (s.onPlace a).store = s.store := rfl
@[simp] theorem State.onPlace_com {a} : (s.onPlace a).com = s.com := rfl
@[simp] theorem State.onPlace_engines {a} : (s.onPlace a).engines = s.engines := rfl
@[simp] theorem State.onPlace_descs {a} : (s.onPlace a).descs = s.descs := rfl
@[simp] theorem State.onPlace_movers {a} : (s.onPlace a).movers = s.movers := rfl
@[simp] theorem State.onPlace_data {a} : (s.onPlace a).data = s.data := rfl
@[simp] theorem State.onPlace_solver {a} : (s.onPlace a).solver = s.solver := rfl
@[simp] theorem State.onPlace_live {a} : (s.onPlace a).live = s.live := rfl
@[simp] theorem State.onPlace_old {a} : (s.onPlace a).old = s.old := rfl
@[simp] theorem State.onPlace_liveBeat {a} : (s.onPlace a).liveBeat = s.liveBeat := rfl
@[simp] theorem State.onPlace_slot {a} : (s.onPlace a).slot = s.slot := rfl
@[simp] theorem State.onPlace_mem {a} : (s.onPlace a).mem = s.mem := rfl
@[simp] theorem State.onPlace_peers {a} : (s.onPlace a).peers = s.peers := rfl
@[simp] theorem State.onPlace_safety {a} : (s.onPlace a).safety = s.safety := rfl
@[simp] theorem State.onPlace_host {a} : (s.onPlace a).host = s.host := rfl
@[simp] theorem State.onPlace_boot {a} : (s.onPlace a).boot = s.boot := rfl
@[simp] theorem State.onPlace_power {a} : (s.onPlace a).power = s.power := rfl
@[simp] theorem State.onPlace_keeper {a} : (s.onPlace a).keeper = s.keeper := rfl
@[simp] theorem State.onPlace_fuses {a} : (s.onPlace a).fuses = s.fuses := rfl
@[simp] theorem State.onPlace_flash {a} : (s.onPlace a).flash = s.flash := rfl
@[simp] theorem State.onPlace_hostMem {a} : (s.onPlace a).hostMem = s.hostMem := rfl
@[simp] theorem State.onPlace_out {a} : (s.onPlace a).out = s.out := rfl
@[simp] theorem State.onPlace_free {a} : (s.onPlace a).free = s.free := rfl
@[simp] theorem State.onPort_pending {a b} : (s.onPort a b).pending = s.pending := rfl
@[simp] theorem State.onPort_regs {a b} : (s.onPort a b).regs = s.regs := rfl
@[simp] theorem State.onPort_shadows {a b} : (s.onPort a b).shadows = s.shadows := rfl
@[simp] theorem State.onPort_held {a b} : (s.onPort a b).held = s.held := rfl
@[simp] theorem State.onPort_wo {a b} : (s.onPort a b).wo = s.wo := rfl
@[simp] theorem State.onPort_resetN {a b} : (s.onPort a b).resetN = s.resetN := rfl
@[simp] theorem State.onPort_pwrOk {a b} : (s.onPort a b).pwrOk = s.pwrOk := rfl
@[simp] theorem State.onPort_tl {a b} : (s.onPort a b).tl = s.tl := rfl
@[simp] theorem State.onPort_roots {a b} : (s.onPort a b).roots = s.roots := rfl
@[simp] theorem State.onPort_fdb {a b} : (s.onPort a b).fdb = s.fdb := rfl
@[simp] theorem State.onPort_ing {a b} : (s.onPort a b).ing = s.ing := rfl
@[simp] theorem State.onPort_store {a b} : (s.onPort a b).store = s.store := rfl
@[simp] theorem State.onPort_com {a b} : (s.onPort a b).com = s.com := rfl
@[simp] theorem State.onPort_engines {a b} : (s.onPort a b).engines = s.engines := rfl
@[simp] theorem State.onPort_descs {a b} : (s.onPort a b).descs = s.descs := rfl
@[simp] theorem State.onPort_movers {a b} : (s.onPort a b).movers = s.movers := rfl
@[simp] theorem State.onPort_data {a b} : (s.onPort a b).data = s.data := rfl
@[simp] theorem State.onPort_solver {a b} : (s.onPort a b).solver = s.solver := rfl
@[simp] theorem State.onPort_live {a b} : (s.onPort a b).live = s.live := rfl
@[simp] theorem State.onPort_old {a b} : (s.onPort a b).old = s.old := rfl
@[simp] theorem State.onPort_liveBeat {a b} : (s.onPort a b).liveBeat = s.liveBeat := rfl
@[simp] theorem State.onPort_slot {a b} : (s.onPort a b).slot = s.slot := rfl
@[simp] theorem State.onPort_place {a b} : (s.onPort a b).place = s.place := rfl
@[simp] theorem State.onPort_mem {a b} : (s.onPort a b).mem = s.mem := rfl
@[simp] theorem State.onPort_peers {a b} : (s.onPort a b).peers = s.peers := rfl
@[simp] theorem State.onPort_safety {a b} : (s.onPort a b).safety = s.safety := rfl
@[simp] theorem State.onPort_host {a b} : (s.onPort a b).host = s.host := rfl
@[simp] theorem State.onPort_boot {a b} : (s.onPort a b).boot = s.boot := rfl
@[simp] theorem State.onPort_power {a b} : (s.onPort a b).power = s.power := rfl
@[simp] theorem State.onPort_keeper {a b} : (s.onPort a b).keeper = s.keeper := rfl
@[simp] theorem State.onPort_fuses {a b} : (s.onPort a b).fuses = s.fuses := rfl
@[simp] theorem State.onPort_flash {a b} : (s.onPort a b).flash = s.flash := rfl
@[simp] theorem State.onPort_hostMem {a b} : (s.onPort a b).hostMem = s.hostMem := rfl
@[simp] theorem State.onPort_out {a b} : (s.onPort a b).out = s.out := rfl
@[simp] theorem State.onPort_free {a b} : (s.onPort a b).free = s.free := rfl
@[simp] theorem State.onPower_pending {a} : (s.onPower a).pending = s.pending := rfl
@[simp] theorem State.onPower_regs {a} : (s.onPower a).regs = s.regs := rfl
@[simp] theorem State.onPower_shadows {a} : (s.onPower a).shadows = s.shadows := rfl
@[simp] theorem State.onPower_held {a} : (s.onPower a).held = s.held := rfl
@[simp] theorem State.onPower_wo {a} : (s.onPower a).wo = s.wo := rfl
@[simp] theorem State.onPower_resetN {a} : (s.onPower a).resetN = s.resetN := rfl
@[simp] theorem State.onPower_pwrOk {a} : (s.onPower a).pwrOk = s.pwrOk := rfl
@[simp] theorem State.onPower_tl {a} : (s.onPower a).tl = s.tl := rfl
@[simp] theorem State.onPower_roots {a} : (s.onPower a).roots = s.roots := rfl
@[simp] theorem State.onPower_ports {a} : (s.onPower a).ports = s.ports := rfl
@[simp] theorem State.onPower_fdb {a} : (s.onPower a).fdb = s.fdb := rfl
@[simp] theorem State.onPower_ing {a} : (s.onPower a).ing = s.ing := rfl
@[simp] theorem State.onPower_store {a} : (s.onPower a).store = s.store := rfl
@[simp] theorem State.onPower_com {a} : (s.onPower a).com = s.com := rfl
@[simp] theorem State.onPower_engines {a} : (s.onPower a).engines = s.engines := rfl
@[simp] theorem State.onPower_descs {a} : (s.onPower a).descs = s.descs := rfl
@[simp] theorem State.onPower_movers {a} : (s.onPower a).movers = s.movers := rfl
@[simp] theorem State.onPower_data {a} : (s.onPower a).data = s.data := rfl
@[simp] theorem State.onPower_solver {a} : (s.onPower a).solver = s.solver := rfl
@[simp] theorem State.onPower_live {a} : (s.onPower a).live = s.live := rfl
@[simp] theorem State.onPower_old {a} : (s.onPower a).old = s.old := rfl
@[simp] theorem State.onPower_liveBeat {a} : (s.onPower a).liveBeat = s.liveBeat := rfl
@[simp] theorem State.onPower_slot {a} : (s.onPower a).slot = s.slot := rfl
@[simp] theorem State.onPower_place {a} : (s.onPower a).place = s.place := rfl
@[simp] theorem State.onPower_mem {a} : (s.onPower a).mem = s.mem := rfl
@[simp] theorem State.onPower_peers {a} : (s.onPower a).peers = s.peers := rfl
@[simp] theorem State.onPower_safety {a} : (s.onPower a).safety = s.safety := rfl
@[simp] theorem State.onPower_host {a} : (s.onPower a).host = s.host := rfl
@[simp] theorem State.onPower_boot {a} : (s.onPower a).boot = s.boot := rfl
@[simp] theorem State.onPower_keeper {a} : (s.onPower a).keeper = s.keeper := rfl
@[simp] theorem State.onPower_fuses {a} : (s.onPower a).fuses = s.fuses := rfl
@[simp] theorem State.onPower_flash {a} : (s.onPower a).flash = s.flash := rfl
@[simp] theorem State.onPower_hostMem {a} : (s.onPower a).hostMem = s.hostMem := rfl
@[simp] theorem State.onPower_out {a} : (s.onPower a).out = s.out := rfl
@[simp] theorem State.onPower_free {a} : (s.onPower a).free = s.free := rfl
@[simp] theorem State.onPtp_pending {a} : (s.onPtp a).pending = s.pending := rfl
@[simp] theorem State.onPtp_regs {a} : (s.onPtp a).regs = s.regs := rfl
@[simp] theorem State.onPtp_shadows {a} : (s.onPtp a).shadows = s.shadows := rfl
@[simp] theorem State.onPtp_held {a} : (s.onPtp a).held = s.held := rfl
@[simp] theorem State.onPtp_wo {a} : (s.onPtp a).wo = s.wo := rfl
@[simp] theorem State.onPtp_resetN {a} : (s.onPtp a).resetN = s.resetN := rfl
@[simp] theorem State.onPtp_pwrOk {a} : (s.onPtp a).pwrOk = s.pwrOk := rfl
@[simp] theorem State.onPtp_roots {a} : (s.onPtp a).roots = s.roots := rfl
@[simp] theorem State.onPtp_ports {a} : (s.onPtp a).ports = s.ports := rfl
@[simp] theorem State.onPtp_fdb {a} : (s.onPtp a).fdb = s.fdb := rfl
@[simp] theorem State.onPtp_ing {a} : (s.onPtp a).ing = s.ing := rfl
@[simp] theorem State.onPtp_store {a} : (s.onPtp a).store = s.store := rfl
@[simp] theorem State.onPtp_com {a} : (s.onPtp a).com = s.com := rfl
@[simp] theorem State.onPtp_engines {a} : (s.onPtp a).engines = s.engines := rfl
@[simp] theorem State.onPtp_descs {a} : (s.onPtp a).descs = s.descs := rfl
@[simp] theorem State.onPtp_movers {a} : (s.onPtp a).movers = s.movers := rfl
@[simp] theorem State.onPtp_data {a} : (s.onPtp a).data = s.data := rfl
@[simp] theorem State.onPtp_solver {a} : (s.onPtp a).solver = s.solver := rfl
@[simp] theorem State.onPtp_live {a} : (s.onPtp a).live = s.live := rfl
@[simp] theorem State.onPtp_old {a} : (s.onPtp a).old = s.old := rfl
@[simp] theorem State.onPtp_liveBeat {a} : (s.onPtp a).liveBeat = s.liveBeat := rfl
@[simp] theorem State.onPtp_slot {a} : (s.onPtp a).slot = s.slot := rfl
@[simp] theorem State.onPtp_place {a} : (s.onPtp a).place = s.place := rfl
@[simp] theorem State.onPtp_mem {a} : (s.onPtp a).mem = s.mem := rfl
@[simp] theorem State.onPtp_peers {a} : (s.onPtp a).peers = s.peers := rfl
@[simp] theorem State.onPtp_safety {a} : (s.onPtp a).safety = s.safety := rfl
@[simp] theorem State.onPtp_host {a} : (s.onPtp a).host = s.host := rfl
@[simp] theorem State.onPtp_boot {a} : (s.onPtp a).boot = s.boot := rfl
@[simp] theorem State.onPtp_power {a} : (s.onPtp a).power = s.power := rfl
@[simp] theorem State.onPtp_keeper {a} : (s.onPtp a).keeper = s.keeper := rfl
@[simp] theorem State.onPtp_fuses {a} : (s.onPtp a).fuses = s.fuses := rfl
@[simp] theorem State.onPtp_flash {a} : (s.onPtp a).flash = s.flash := rfl
@[simp] theorem State.onPtp_hostMem {a} : (s.onPtp a).hostMem = s.hostMem := rfl
@[simp] theorem State.onPtp_out {a} : (s.onPtp a).out = s.out := rfl
@[simp] theorem State.onPtp_free {a} : (s.onPtp a).free = s.free := rfl
@[simp] theorem State.onRoot_pending {a b} : (s.onRoot a b).pending = s.pending := rfl
@[simp] theorem State.onRoot_regs {a b} : (s.onRoot a b).regs = s.regs := rfl
@[simp] theorem State.onRoot_shadows {a b} : (s.onRoot a b).shadows = s.shadows := rfl
@[simp] theorem State.onRoot_held {a b} : (s.onRoot a b).held = s.held := rfl
@[simp] theorem State.onRoot_wo {a b} : (s.onRoot a b).wo = s.wo := rfl
@[simp] theorem State.onRoot_resetN {a b} : (s.onRoot a b).resetN = s.resetN := rfl
@[simp] theorem State.onRoot_pwrOk {a b} : (s.onRoot a b).pwrOk = s.pwrOk := rfl
@[simp] theorem State.onRoot_tl {a b} : (s.onRoot a b).tl = s.tl := rfl
@[simp] theorem State.onRoot_ports {a b} : (s.onRoot a b).ports = s.ports := rfl
@[simp] theorem State.onRoot_fdb {a b} : (s.onRoot a b).fdb = s.fdb := rfl
@[simp] theorem State.onRoot_ing {a b} : (s.onRoot a b).ing = s.ing := rfl
@[simp] theorem State.onRoot_store {a b} : (s.onRoot a b).store = s.store := rfl
@[simp] theorem State.onRoot_com {a b} : (s.onRoot a b).com = s.com := rfl
@[simp] theorem State.onRoot_engines {a b} : (s.onRoot a b).engines = s.engines := rfl
@[simp] theorem State.onRoot_descs {a b} : (s.onRoot a b).descs = s.descs := rfl
@[simp] theorem State.onRoot_movers {a b} : (s.onRoot a b).movers = s.movers := rfl
@[simp] theorem State.onRoot_data {a b} : (s.onRoot a b).data = s.data := rfl
@[simp] theorem State.onRoot_solver {a b} : (s.onRoot a b).solver = s.solver := rfl
@[simp] theorem State.onRoot_live {a b} : (s.onRoot a b).live = s.live := rfl
@[simp] theorem State.onRoot_old {a b} : (s.onRoot a b).old = s.old := rfl
@[simp] theorem State.onRoot_liveBeat {a b} : (s.onRoot a b).liveBeat = s.liveBeat := rfl
@[simp] theorem State.onRoot_slot {a b} : (s.onRoot a b).slot = s.slot := rfl
@[simp] theorem State.onRoot_place {a b} : (s.onRoot a b).place = s.place := rfl
@[simp] theorem State.onRoot_mem {a b} : (s.onRoot a b).mem = s.mem := rfl
@[simp] theorem State.onRoot_peers {a b} : (s.onRoot a b).peers = s.peers := rfl
@[simp] theorem State.onRoot_safety {a b} : (s.onRoot a b).safety = s.safety := rfl
@[simp] theorem State.onRoot_host {a b} : (s.onRoot a b).host = s.host := rfl
@[simp] theorem State.onRoot_boot {a b} : (s.onRoot a b).boot = s.boot := rfl
@[simp] theorem State.onRoot_power {a b} : (s.onRoot a b).power = s.power := rfl
@[simp] theorem State.onRoot_keeper {a b} : (s.onRoot a b).keeper = s.keeper := rfl
@[simp] theorem State.onRoot_fuses {a b} : (s.onRoot a b).fuses = s.fuses := rfl
@[simp] theorem State.onRoot_flash {a b} : (s.onRoot a b).flash = s.flash := rfl
@[simp] theorem State.onRoot_hostMem {a b} : (s.onRoot a b).hostMem = s.hostMem := rfl
@[simp] theorem State.onRoot_out {a b} : (s.onRoot a b).out = s.out := rfl
@[simp] theorem State.onRoot_free {a b} : (s.onRoot a b).free = s.free := rfl
@[simp] theorem State.onSafety_pending {a} : (s.onSafety a).pending = s.pending := rfl
@[simp] theorem State.onSafety_regs {a} : (s.onSafety a).regs = s.regs := rfl
@[simp] theorem State.onSafety_shadows {a} : (s.onSafety a).shadows = s.shadows := rfl
@[simp] theorem State.onSafety_held {a} : (s.onSafety a).held = s.held := rfl
@[simp] theorem State.onSafety_wo {a} : (s.onSafety a).wo = s.wo := rfl
@[simp] theorem State.onSafety_resetN {a} : (s.onSafety a).resetN = s.resetN := rfl
@[simp] theorem State.onSafety_pwrOk {a} : (s.onSafety a).pwrOk = s.pwrOk := rfl
@[simp] theorem State.onSafety_tl {a} : (s.onSafety a).tl = s.tl := rfl
@[simp] theorem State.onSafety_roots {a} : (s.onSafety a).roots = s.roots := rfl
@[simp] theorem State.onSafety_ports {a} : (s.onSafety a).ports = s.ports := rfl
@[simp] theorem State.onSafety_fdb {a} : (s.onSafety a).fdb = s.fdb := rfl
@[simp] theorem State.onSafety_ing {a} : (s.onSafety a).ing = s.ing := rfl
@[simp] theorem State.onSafety_store {a} : (s.onSafety a).store = s.store := rfl
@[simp] theorem State.onSafety_com {a} : (s.onSafety a).com = s.com := rfl
@[simp] theorem State.onSafety_engines {a} : (s.onSafety a).engines = s.engines := rfl
@[simp] theorem State.onSafety_descs {a} : (s.onSafety a).descs = s.descs := rfl
@[simp] theorem State.onSafety_movers {a} : (s.onSafety a).movers = s.movers := rfl
@[simp] theorem State.onSafety_data {a} : (s.onSafety a).data = s.data := rfl
@[simp] theorem State.onSafety_solver {a} : (s.onSafety a).solver = s.solver := rfl
@[simp] theorem State.onSafety_live {a} : (s.onSafety a).live = s.live := rfl
@[simp] theorem State.onSafety_old {a} : (s.onSafety a).old = s.old := rfl
@[simp] theorem State.onSafety_liveBeat {a} : (s.onSafety a).liveBeat = s.liveBeat := rfl
@[simp] theorem State.onSafety_slot {a} : (s.onSafety a).slot = s.slot := rfl
@[simp] theorem State.onSafety_place {a} : (s.onSafety a).place = s.place := rfl
@[simp] theorem State.onSafety_mem {a} : (s.onSafety a).mem = s.mem := rfl
@[simp] theorem State.onSafety_peers {a} : (s.onSafety a).peers = s.peers := rfl
@[simp] theorem State.onSafety_host {a} : (s.onSafety a).host = s.host := rfl
@[simp] theorem State.onSafety_boot {a} : (s.onSafety a).boot = s.boot := rfl
@[simp] theorem State.onSafety_power {a} : (s.onSafety a).power = s.power := rfl
@[simp] theorem State.onSafety_keeper {a} : (s.onSafety a).keeper = s.keeper := rfl
@[simp] theorem State.onSafety_fuses {a} : (s.onSafety a).fuses = s.fuses := rfl
@[simp] theorem State.onSafety_flash {a} : (s.onSafety a).flash = s.flash := rfl
@[simp] theorem State.onSafety_hostMem {a} : (s.onSafety a).hostMem = s.hostMem := rfl
@[simp] theorem State.onSafety_out {a} : (s.onSafety a).out = s.out := rfl
@[simp] theorem State.onSafety_free {a} : (s.onSafety a).free = s.free := rfl
@[simp] theorem State.onSlot_pending {a} : (s.onSlot a).pending = s.pending := rfl
@[simp] theorem State.onSlot_regs {a} : (s.onSlot a).regs = s.regs := rfl
@[simp] theorem State.onSlot_shadows {a} : (s.onSlot a).shadows = s.shadows := rfl
@[simp] theorem State.onSlot_held {a} : (s.onSlot a).held = s.held := rfl
@[simp] theorem State.onSlot_wo {a} : (s.onSlot a).wo = s.wo := rfl
@[simp] theorem State.onSlot_resetN {a} : (s.onSlot a).resetN = s.resetN := rfl
@[simp] theorem State.onSlot_pwrOk {a} : (s.onSlot a).pwrOk = s.pwrOk := rfl
@[simp] theorem State.onSlot_tl {a} : (s.onSlot a).tl = s.tl := rfl
@[simp] theorem State.onSlot_roots {a} : (s.onSlot a).roots = s.roots := rfl
@[simp] theorem State.onSlot_ports {a} : (s.onSlot a).ports = s.ports := rfl
@[simp] theorem State.onSlot_fdb {a} : (s.onSlot a).fdb = s.fdb := rfl
@[simp] theorem State.onSlot_ing {a} : (s.onSlot a).ing = s.ing := rfl
@[simp] theorem State.onSlot_store {a} : (s.onSlot a).store = s.store := rfl
@[simp] theorem State.onSlot_com {a} : (s.onSlot a).com = s.com := rfl
@[simp] theorem State.onSlot_engines {a} : (s.onSlot a).engines = s.engines := rfl
@[simp] theorem State.onSlot_descs {a} : (s.onSlot a).descs = s.descs := rfl
@[simp] theorem State.onSlot_movers {a} : (s.onSlot a).movers = s.movers := rfl
@[simp] theorem State.onSlot_data {a} : (s.onSlot a).data = s.data := rfl
@[simp] theorem State.onSlot_solver {a} : (s.onSlot a).solver = s.solver := rfl
@[simp] theorem State.onSlot_live {a} : (s.onSlot a).live = s.live := rfl
@[simp] theorem State.onSlot_old {a} : (s.onSlot a).old = s.old := rfl
@[simp] theorem State.onSlot_liveBeat {a} : (s.onSlot a).liveBeat = s.liveBeat := rfl
@[simp] theorem State.onSlot_place {a} : (s.onSlot a).place = s.place := rfl
@[simp] theorem State.onSlot_mem {a} : (s.onSlot a).mem = s.mem := rfl
@[simp] theorem State.onSlot_peers {a} : (s.onSlot a).peers = s.peers := rfl
@[simp] theorem State.onSlot_safety {a} : (s.onSlot a).safety = s.safety := rfl
@[simp] theorem State.onSlot_host {a} : (s.onSlot a).host = s.host := rfl
@[simp] theorem State.onSlot_boot {a} : (s.onSlot a).boot = s.boot := rfl
@[simp] theorem State.onSlot_power {a} : (s.onSlot a).power = s.power := rfl
@[simp] theorem State.onSlot_keeper {a} : (s.onSlot a).keeper = s.keeper := rfl
@[simp] theorem State.onSlot_fuses {a} : (s.onSlot a).fuses = s.fuses := rfl
@[simp] theorem State.onSlot_flash {a} : (s.onSlot a).flash = s.flash := rfl
@[simp] theorem State.onSlot_hostMem {a} : (s.onSlot a).hostMem = s.hostMem := rfl
@[simp] theorem State.onSlot_out {a} : (s.onSlot a).out = s.out := rfl
@[simp] theorem State.onSlot_free {a} : (s.onSlot a).free = s.free := rfl
@[simp] theorem State.onSolver_pending {a} : (s.onSolver a).pending = s.pending := rfl
@[simp] theorem State.onSolver_regs {a} : (s.onSolver a).regs = s.regs := rfl
@[simp] theorem State.onSolver_shadows {a} : (s.onSolver a).shadows = s.shadows := rfl
@[simp] theorem State.onSolver_held {a} : (s.onSolver a).held = s.held := rfl
@[simp] theorem State.onSolver_wo {a} : (s.onSolver a).wo = s.wo := rfl
@[simp] theorem State.onSolver_resetN {a} : (s.onSolver a).resetN = s.resetN := rfl
@[simp] theorem State.onSolver_pwrOk {a} : (s.onSolver a).pwrOk = s.pwrOk := rfl
@[simp] theorem State.onSolver_tl {a} : (s.onSolver a).tl = s.tl := rfl
@[simp] theorem State.onSolver_roots {a} : (s.onSolver a).roots = s.roots := rfl
@[simp] theorem State.onSolver_ports {a} : (s.onSolver a).ports = s.ports := rfl
@[simp] theorem State.onSolver_fdb {a} : (s.onSolver a).fdb = s.fdb := rfl
@[simp] theorem State.onSolver_ing {a} : (s.onSolver a).ing = s.ing := rfl
@[simp] theorem State.onSolver_store {a} : (s.onSolver a).store = s.store := rfl
@[simp] theorem State.onSolver_com {a} : (s.onSolver a).com = s.com := rfl
@[simp] theorem State.onSolver_engines {a} : (s.onSolver a).engines = s.engines := rfl
@[simp] theorem State.onSolver_descs {a} : (s.onSolver a).descs = s.descs := rfl
@[simp] theorem State.onSolver_movers {a} : (s.onSolver a).movers = s.movers := rfl
@[simp] theorem State.onSolver_data {a} : (s.onSolver a).data = s.data := rfl
@[simp] theorem State.onSolver_live {a} : (s.onSolver a).live = s.live := rfl
@[simp] theorem State.onSolver_old {a} : (s.onSolver a).old = s.old := rfl
@[simp] theorem State.onSolver_liveBeat {a} : (s.onSolver a).liveBeat = s.liveBeat := rfl
@[simp] theorem State.onSolver_slot {a} : (s.onSolver a).slot = s.slot := rfl
@[simp] theorem State.onSolver_place {a} : (s.onSolver a).place = s.place := rfl
@[simp] theorem State.onSolver_mem {a} : (s.onSolver a).mem = s.mem := rfl
@[simp] theorem State.onSolver_peers {a} : (s.onSolver a).peers = s.peers := rfl
@[simp] theorem State.onSolver_safety {a} : (s.onSolver a).safety = s.safety := rfl
@[simp] theorem State.onSolver_host {a} : (s.onSolver a).host = s.host := rfl
@[simp] theorem State.onSolver_boot {a} : (s.onSolver a).boot = s.boot := rfl
@[simp] theorem State.onSolver_power {a} : (s.onSolver a).power = s.power := rfl
@[simp] theorem State.onSolver_keeper {a} : (s.onSolver a).keeper = s.keeper := rfl
@[simp] theorem State.onSolver_fuses {a} : (s.onSolver a).fuses = s.fuses := rfl
@[simp] theorem State.onSolver_flash {a} : (s.onSolver a).flash = s.flash := rfl
@[simp] theorem State.onSolver_hostMem {a} : (s.onSolver a).hostMem = s.hostMem := rfl
@[simp] theorem State.onSolver_out {a} : (s.onSolver a).out = s.out := rfl
@[simp] theorem State.onSolver_free {a} : (s.onSolver a).free = s.free := rfl
@[simp] theorem State.onSram_pending {a b} : (s.onSram a b).pending = s.pending := rfl
@[simp] theorem State.onSram_regs {a b} : (s.onSram a b).regs = s.regs := rfl
@[simp] theorem State.onSram_shadows {a b} : (s.onSram a b).shadows = s.shadows := rfl
@[simp] theorem State.onSram_held {a b} : (s.onSram a b).held = s.held := rfl
@[simp] theorem State.onSram_wo {a b} : (s.onSram a b).wo = s.wo := rfl
@[simp] theorem State.onSram_resetN {a b} : (s.onSram a b).resetN = s.resetN := rfl
@[simp] theorem State.onSram_pwrOk {a b} : (s.onSram a b).pwrOk = s.pwrOk := rfl
@[simp] theorem State.onSram_tl {a b} : (s.onSram a b).tl = s.tl := rfl
@[simp] theorem State.onSram_roots {a b} : (s.onSram a b).roots = s.roots := rfl
@[simp] theorem State.onSram_ports {a b} : (s.onSram a b).ports = s.ports := rfl
@[simp] theorem State.onSram_fdb {a b} : (s.onSram a b).fdb = s.fdb := rfl
@[simp] theorem State.onSram_ing {a b} : (s.onSram a b).ing = s.ing := rfl
@[simp] theorem State.onSram_store {a b} : (s.onSram a b).store = s.store := rfl
@[simp] theorem State.onSram_com {a b} : (s.onSram a b).com = s.com := rfl
@[simp] theorem State.onSram_engines {a b} : (s.onSram a b).engines = s.engines := rfl
@[simp] theorem State.onSram_descs {a b} : (s.onSram a b).descs = s.descs := rfl
@[simp] theorem State.onSram_movers {a b} : (s.onSram a b).movers = s.movers := rfl
@[simp] theorem State.onSram_data {a b} : (s.onSram a b).data = s.data := rfl
@[simp] theorem State.onSram_solver {a b} : (s.onSram a b).solver = s.solver := rfl
@[simp] theorem State.onSram_live {a b} : (s.onSram a b).live = s.live := rfl
@[simp] theorem State.onSram_old {a b} : (s.onSram a b).old = s.old := rfl
@[simp] theorem State.onSram_liveBeat {a b} : (s.onSram a b).liveBeat = s.liveBeat := rfl
@[simp] theorem State.onSram_slot {a b} : (s.onSram a b).slot = s.slot := rfl
@[simp] theorem State.onSram_place {a b} : (s.onSram a b).place = s.place := rfl
@[simp] theorem State.onSram_peers {a b} : (s.onSram a b).peers = s.peers := rfl
@[simp] theorem State.onSram_safety {a b} : (s.onSram a b).safety = s.safety := rfl
@[simp] theorem State.onSram_host {a b} : (s.onSram a b).host = s.host := rfl
@[simp] theorem State.onSram_boot {a b} : (s.onSram a b).boot = s.boot := rfl
@[simp] theorem State.onSram_power {a b} : (s.onSram a b).power = s.power := rfl
@[simp] theorem State.onSram_keeper {a b} : (s.onSram a b).keeper = s.keeper := rfl
@[simp] theorem State.onSram_fuses {a b} : (s.onSram a b).fuses = s.fuses := rfl
@[simp] theorem State.onSram_flash {a b} : (s.onSram a b).flash = s.flash := rfl
@[simp] theorem State.onSram_hostMem {a b} : (s.onSram a b).hostMem = s.hostMem := rfl
@[simp] theorem State.onSram_out {a b} : (s.onSram a b).out = s.out := rfl
@[simp] theorem State.onSram_free {a b} : (s.onSram a b).free = s.free := rfl
@[simp] theorem State.onStore_pending {a} : (s.onStore a).pending = s.pending := rfl
@[simp] theorem State.onStore_regs {a} : (s.onStore a).regs = s.regs := rfl
@[simp] theorem State.onStore_shadows {a} : (s.onStore a).shadows = s.shadows := rfl
@[simp] theorem State.onStore_held {a} : (s.onStore a).held = s.held := rfl
@[simp] theorem State.onStore_wo {a} : (s.onStore a).wo = s.wo := rfl
@[simp] theorem State.onStore_resetN {a} : (s.onStore a).resetN = s.resetN := rfl
@[simp] theorem State.onStore_pwrOk {a} : (s.onStore a).pwrOk = s.pwrOk := rfl
@[simp] theorem State.onStore_tl {a} : (s.onStore a).tl = s.tl := rfl
@[simp] theorem State.onStore_roots {a} : (s.onStore a).roots = s.roots := rfl
@[simp] theorem State.onStore_ports {a} : (s.onStore a).ports = s.ports := rfl
@[simp] theorem State.onStore_fdb {a} : (s.onStore a).fdb = s.fdb := rfl
@[simp] theorem State.onStore_ing {a} : (s.onStore a).ing = s.ing := rfl
@[simp] theorem State.onStore_com {a} : (s.onStore a).com = s.com := rfl
@[simp] theorem State.onStore_engines {a} : (s.onStore a).engines = s.engines := rfl
@[simp] theorem State.onStore_descs {a} : (s.onStore a).descs = s.descs := rfl
@[simp] theorem State.onStore_movers {a} : (s.onStore a).movers = s.movers := rfl
@[simp] theorem State.onStore_data {a} : (s.onStore a).data = s.data := rfl
@[simp] theorem State.onStore_solver {a} : (s.onStore a).solver = s.solver := rfl
@[simp] theorem State.onStore_live {a} : (s.onStore a).live = s.live := rfl
@[simp] theorem State.onStore_old {a} : (s.onStore a).old = s.old := rfl
@[simp] theorem State.onStore_liveBeat {a} : (s.onStore a).liveBeat = s.liveBeat := rfl
@[simp] theorem State.onStore_slot {a} : (s.onStore a).slot = s.slot := rfl
@[simp] theorem State.onStore_place {a} : (s.onStore a).place = s.place := rfl
@[simp] theorem State.onStore_mem {a} : (s.onStore a).mem = s.mem := rfl
@[simp] theorem State.onStore_peers {a} : (s.onStore a).peers = s.peers := rfl
@[simp] theorem State.onStore_safety {a} : (s.onStore a).safety = s.safety := rfl
@[simp] theorem State.onStore_host {a} : (s.onStore a).host = s.host := rfl
@[simp] theorem State.onStore_boot {a} : (s.onStore a).boot = s.boot := rfl
@[simp] theorem State.onStore_power {a} : (s.onStore a).power = s.power := rfl
@[simp] theorem State.onStore_keeper {a} : (s.onStore a).keeper = s.keeper := rfl
@[simp] theorem State.onStore_fuses {a} : (s.onStore a).fuses = s.fuses := rfl
@[simp] theorem State.onStore_flash {a} : (s.onStore a).flash = s.flash := rfl
@[simp] theorem State.onStore_hostMem {a} : (s.onStore a).hostMem = s.hostMem := rfl
@[simp] theorem State.onStore_out {a} : (s.onStore a).out = s.out := rfl
@[simp] theorem State.onStore_free {a} : (s.onStore a).free = s.free := rfl
@[simp] theorem State.onTaken_pending {a b c} : (s.onTaken a b c).pending = s.pending := rfl
@[simp] theorem State.onTaken_regs {a b c} : (s.onTaken a b c).regs = s.regs := rfl
@[simp] theorem State.onTaken_shadows {a b c} : (s.onTaken a b c).shadows = s.shadows := rfl
@[simp] theorem State.onTaken_held {a b c} : (s.onTaken a b c).held = s.held := rfl
@[simp] theorem State.onTaken_wo {a b c} : (s.onTaken a b c).wo = s.wo := rfl
@[simp] theorem State.onTaken_resetN {a b c} : (s.onTaken a b c).resetN = s.resetN := rfl
@[simp] theorem State.onTaken_pwrOk {a b c} : (s.onTaken a b c).pwrOk = s.pwrOk := rfl
@[simp] theorem State.onTaken_tl {a b c} : (s.onTaken a b c).tl = s.tl := rfl
@[simp] theorem State.onTaken_roots {a b c} : (s.onTaken a b c).roots = s.roots := rfl
@[simp] theorem State.onTaken_ports {a b c} : (s.onTaken a b c).ports = s.ports := rfl
@[simp] theorem State.onTaken_fdb {a b c} : (s.onTaken a b c).fdb = s.fdb := rfl
@[simp] theorem State.onTaken_ing {a b c} : (s.onTaken a b c).ing = s.ing := rfl
@[simp] theorem State.onTaken_store {a b c} : (s.onTaken a b c).store = s.store := rfl
@[simp] theorem State.onTaken_com {a b c} : (s.onTaken a b c).com = s.com := rfl
@[simp] theorem State.onTaken_engines {a b c} : (s.onTaken a b c).engines = s.engines := rfl
@[simp] theorem State.onTaken_descs {a b c} : (s.onTaken a b c).descs = s.descs := rfl
@[simp] theorem State.onTaken_movers {a b c} : (s.onTaken a b c).movers = s.movers := rfl
@[simp] theorem State.onTaken_data {a b c} : (s.onTaken a b c).data = s.data := rfl
@[simp] theorem State.onTaken_solver {a b c} : (s.onTaken a b c).solver = s.solver := rfl
@[simp] theorem State.onTaken_live {a b c} : (s.onTaken a b c).live = s.live := rfl
@[simp] theorem State.onTaken_old {a b c} : (s.onTaken a b c).old = s.old := rfl
@[simp] theorem State.onTaken_liveBeat {a b c} : (s.onTaken a b c).liveBeat = s.liveBeat := rfl
@[simp] theorem State.onTaken_slot {a b c} : (s.onTaken a b c).slot = s.slot := rfl
@[simp] theorem State.onTaken_place {a b c} : (s.onTaken a b c).place = s.place := rfl
@[simp] theorem State.onTaken_mem {a b c} : (s.onTaken a b c).mem = s.mem := rfl
@[simp] theorem State.onTaken_peers {a b c} : (s.onTaken a b c).peers = s.peers := rfl
@[simp] theorem State.onTaken_safety {a b c} : (s.onTaken a b c).safety = s.safety := rfl
@[simp] theorem State.onTaken_boot {a b c} : (s.onTaken a b c).boot = s.boot := rfl
@[simp] theorem State.onTaken_power {a b c} : (s.onTaken a b c).power = s.power := rfl
@[simp] theorem State.onTaken_keeper {a b c} : (s.onTaken a b c).keeper = s.keeper := rfl
@[simp] theorem State.onTaken_fuses {a b c} : (s.onTaken a b c).fuses = s.fuses := rfl
@[simp] theorem State.onTaken_flash {a b c} : (s.onTaken a b c).flash = s.flash := rfl
@[simp] theorem State.onTaken_hostMem {a b c} : (s.onTaken a b c).hostMem = s.hostMem := rfl
@[simp] theorem State.onTaken_out {a b c} : (s.onTaken a b c).out = s.out := rfl
@[simp] theorem State.onTaken_free {a b c} : (s.onTaken a b c).free = s.free := rfl
@[simp] theorem State.onTl_pending {a} : (s.onTl a).pending = s.pending := rfl
@[simp] theorem State.onTl_regs {a} : (s.onTl a).regs = s.regs := rfl
@[simp] theorem State.onTl_shadows {a} : (s.onTl a).shadows = s.shadows := rfl
@[simp] theorem State.onTl_held {a} : (s.onTl a).held = s.held := rfl
@[simp] theorem State.onTl_wo {a} : (s.onTl a).wo = s.wo := rfl
@[simp] theorem State.onTl_resetN {a} : (s.onTl a).resetN = s.resetN := rfl
@[simp] theorem State.onTl_pwrOk {a} : (s.onTl a).pwrOk = s.pwrOk := rfl
@[simp] theorem State.onTl_roots {a} : (s.onTl a).roots = s.roots := rfl
@[simp] theorem State.onTl_ports {a} : (s.onTl a).ports = s.ports := rfl
@[simp] theorem State.onTl_fdb {a} : (s.onTl a).fdb = s.fdb := rfl
@[simp] theorem State.onTl_ing {a} : (s.onTl a).ing = s.ing := rfl
@[simp] theorem State.onTl_store {a} : (s.onTl a).store = s.store := rfl
@[simp] theorem State.onTl_com {a} : (s.onTl a).com = s.com := rfl
@[simp] theorem State.onTl_engines {a} : (s.onTl a).engines = s.engines := rfl
@[simp] theorem State.onTl_descs {a} : (s.onTl a).descs = s.descs := rfl
@[simp] theorem State.onTl_movers {a} : (s.onTl a).movers = s.movers := rfl
@[simp] theorem State.onTl_data {a} : (s.onTl a).data = s.data := rfl
@[simp] theorem State.onTl_solver {a} : (s.onTl a).solver = s.solver := rfl
@[simp] theorem State.onTl_live {a} : (s.onTl a).live = s.live := rfl
@[simp] theorem State.onTl_old {a} : (s.onTl a).old = s.old := rfl
@[simp] theorem State.onTl_liveBeat {a} : (s.onTl a).liveBeat = s.liveBeat := rfl
@[simp] theorem State.onTl_slot {a} : (s.onTl a).slot = s.slot := rfl
@[simp] theorem State.onTl_place {a} : (s.onTl a).place = s.place := rfl
@[simp] theorem State.onTl_mem {a} : (s.onTl a).mem = s.mem := rfl
@[simp] theorem State.onTl_peers {a} : (s.onTl a).peers = s.peers := rfl
@[simp] theorem State.onTl_safety {a} : (s.onTl a).safety = s.safety := rfl
@[simp] theorem State.onTl_host {a} : (s.onTl a).host = s.host := rfl
@[simp] theorem State.onTl_boot {a} : (s.onTl a).boot = s.boot := rfl
@[simp] theorem State.onTl_power {a} : (s.onTl a).power = s.power := rfl
@[simp] theorem State.onTl_keeper {a} : (s.onTl a).keeper = s.keeper := rfl
@[simp] theorem State.onTl_fuses {a} : (s.onTl a).fuses = s.fuses := rfl
@[simp] theorem State.onTl_flash {a} : (s.onTl a).flash = s.flash := rfl
@[simp] theorem State.onTl_hostMem {a} : (s.onTl a).hostMem = s.hostMem := rfl
@[simp] theorem State.onTl_out {a} : (s.onTl a).out = s.out := rfl
@[simp] theorem State.onTl_free {a} : (s.onTl a).free = s.free := rfl
@[simp] theorem State.onTrackSolve_pending {a b} : (s.onTrackSolve a b).pending = s.pending := rfl
@[simp] theorem State.onTrackSolve_regs {a b} : (s.onTrackSolve a b).regs = s.regs := rfl
@[simp] theorem State.onTrackSolve_shadows {a b} : (s.onTrackSolve a b).shadows = s.shadows := rfl
@[simp] theorem State.onTrackSolve_held {a b} : (s.onTrackSolve a b).held = s.held := rfl
@[simp] theorem State.onTrackSolve_wo {a b} : (s.onTrackSolve a b).wo = s.wo := rfl
@[simp] theorem State.onTrackSolve_resetN {a b} : (s.onTrackSolve a b).resetN = s.resetN := rfl
@[simp] theorem State.onTrackSolve_pwrOk {a b} : (s.onTrackSolve a b).pwrOk = s.pwrOk := rfl
@[simp] theorem State.onTrackSolve_tl {a b} : (s.onTrackSolve a b).tl = s.tl := rfl
@[simp] theorem State.onTrackSolve_roots {a b} : (s.onTrackSolve a b).roots = s.roots := rfl
@[simp] theorem State.onTrackSolve_ports {a b} : (s.onTrackSolve a b).ports = s.ports := rfl
@[simp] theorem State.onTrackSolve_fdb {a b} : (s.onTrackSolve a b).fdb = s.fdb := rfl
@[simp] theorem State.onTrackSolve_ing {a b} : (s.onTrackSolve a b).ing = s.ing := rfl
@[simp] theorem State.onTrackSolve_store {a b} : (s.onTrackSolve a b).store = s.store := rfl
@[simp] theorem State.onTrackSolve_com {a b} : (s.onTrackSolve a b).com = s.com := rfl
@[simp] theorem State.onTrackSolve_engines {a b} : (s.onTrackSolve a b).engines = s.engines := rfl
@[simp] theorem State.onTrackSolve_descs {a b} : (s.onTrackSolve a b).descs = s.descs := rfl
@[simp] theorem State.onTrackSolve_movers {a b} : (s.onTrackSolve a b).movers = s.movers := rfl
@[simp] theorem State.onTrackSolve_data {a b} : (s.onTrackSolve a b).data = s.data := rfl
@[simp] theorem State.onTrackSolve_live {a b} : (s.onTrackSolve a b).live = s.live := rfl
@[simp] theorem State.onTrackSolve_old {a b} : (s.onTrackSolve a b).old = s.old := rfl
@[simp] theorem State.onTrackSolve_liveBeat {a b} : (s.onTrackSolve a b).liveBeat = s.liveBeat := rfl
@[simp] theorem State.onTrackSolve_slot {a b} : (s.onTrackSolve a b).slot = s.slot := rfl
@[simp] theorem State.onTrackSolve_place {a b} : (s.onTrackSolve a b).place = s.place := rfl
@[simp] theorem State.onTrackSolve_mem {a b} : (s.onTrackSolve a b).mem = s.mem := rfl
@[simp] theorem State.onTrackSolve_peers {a b} : (s.onTrackSolve a b).peers = s.peers := rfl
@[simp] theorem State.onTrackSolve_safety {a b} : (s.onTrackSolve a b).safety = s.safety := rfl
@[simp] theorem State.onTrackSolve_host {a b} : (s.onTrackSolve a b).host = s.host := rfl
@[simp] theorem State.onTrackSolve_boot {a b} : (s.onTrackSolve a b).boot = s.boot := rfl
@[simp] theorem State.onTrackSolve_power {a b} : (s.onTrackSolve a b).power = s.power := rfl
@[simp] theorem State.onTrackSolve_keeper {a b} : (s.onTrackSolve a b).keeper = s.keeper := rfl
@[simp] theorem State.onTrackSolve_fuses {a b} : (s.onTrackSolve a b).fuses = s.fuses := rfl
@[simp] theorem State.onTrackSolve_flash {a b} : (s.onTrackSolve a b).flash = s.flash := rfl
@[simp] theorem State.onTrackSolve_hostMem {a b} : (s.onTrackSolve a b).hostMem = s.hostMem := rfl
@[simp] theorem State.onTrackSolve_out {a b} : (s.onTrackSolve a b).out = s.out := rfl
@[simp] theorem State.onTrackSolve_free {a b} : (s.onTrackSolve a b).free = s.free := rfl
@[simp] theorem State.rset_pending {a b} : (s.rset a b).pending = s.pending := rfl
@[simp] theorem State.rset_shadows {a b} : (s.rset a b).shadows = s.shadows := rfl
@[simp] theorem State.rset_held {a b} : (s.rset a b).held = s.held := rfl
@[simp] theorem State.rset_wo {a b} : (s.rset a b).wo = s.wo := rfl
@[simp] theorem State.rset_resetN {a b} : (s.rset a b).resetN = s.resetN := rfl
@[simp] theorem State.rset_pwrOk {a b} : (s.rset a b).pwrOk = s.pwrOk := rfl
@[simp] theorem State.rset_tl {a b} : (s.rset a b).tl = s.tl := rfl
@[simp] theorem State.rset_roots {a b} : (s.rset a b).roots = s.roots := rfl
@[simp] theorem State.rset_ports {a b} : (s.rset a b).ports = s.ports := rfl
@[simp] theorem State.rset_fdb {a b} : (s.rset a b).fdb = s.fdb := rfl
@[simp] theorem State.rset_ing {a b} : (s.rset a b).ing = s.ing := rfl
@[simp] theorem State.rset_store {a b} : (s.rset a b).store = s.store := rfl
@[simp] theorem State.rset_com {a b} : (s.rset a b).com = s.com := rfl
@[simp] theorem State.rset_engines {a b} : (s.rset a b).engines = s.engines := rfl
@[simp] theorem State.rset_descs {a b} : (s.rset a b).descs = s.descs := rfl
@[simp] theorem State.rset_movers {a b} : (s.rset a b).movers = s.movers := rfl
@[simp] theorem State.rset_data {a b} : (s.rset a b).data = s.data := rfl
@[simp] theorem State.rset_solver {a b} : (s.rset a b).solver = s.solver := rfl
@[simp] theorem State.rset_live {a b} : (s.rset a b).live = s.live := rfl
@[simp] theorem State.rset_old {a b} : (s.rset a b).old = s.old := rfl
@[simp] theorem State.rset_liveBeat {a b} : (s.rset a b).liveBeat = s.liveBeat := rfl
@[simp] theorem State.rset_slot {a b} : (s.rset a b).slot = s.slot := rfl
@[simp] theorem State.rset_place {a b} : (s.rset a b).place = s.place := rfl
@[simp] theorem State.rset_mem {a b} : (s.rset a b).mem = s.mem := rfl
@[simp] theorem State.rset_peers {a b} : (s.rset a b).peers = s.peers := rfl
@[simp] theorem State.rset_safety {a b} : (s.rset a b).safety = s.safety := rfl
@[simp] theorem State.rset_host {a b} : (s.rset a b).host = s.host := rfl
@[simp] theorem State.rset_boot {a b} : (s.rset a b).boot = s.boot := rfl
@[simp] theorem State.rset_power {a b} : (s.rset a b).power = s.power := rfl
@[simp] theorem State.rset_keeper {a b} : (s.rset a b).keeper = s.keeper := rfl
@[simp] theorem State.rset_fuses {a b} : (s.rset a b).fuses = s.fuses := rfl
@[simp] theorem State.rset_flash {a b} : (s.rset a b).flash = s.flash := rfl
@[simp] theorem State.rset_hostMem {a b} : (s.rset a b).hostMem = s.hostMem := rfl
@[simp] theorem State.rset_out {a b} : (s.rset a b).out = s.out := rfl
@[simp] theorem State.rset_free {a b} : (s.rset a b).free = s.free := rfl
@[simp] theorem State.send_pending {a} : (s.send a).pending = s.pending := rfl
@[simp] theorem State.send_regs {a} : (s.send a).regs = s.regs := rfl
@[simp] theorem State.send_shadows {a} : (s.send a).shadows = s.shadows := rfl
@[simp] theorem State.send_held {a} : (s.send a).held = s.held := rfl
@[simp] theorem State.send_wo {a} : (s.send a).wo = s.wo := rfl
@[simp] theorem State.send_resetN {a} : (s.send a).resetN = s.resetN := rfl
@[simp] theorem State.send_pwrOk {a} : (s.send a).pwrOk = s.pwrOk := rfl
@[simp] theorem State.send_tl {a} : (s.send a).tl = s.tl := rfl
@[simp] theorem State.send_roots {a} : (s.send a).roots = s.roots := rfl
@[simp] theorem State.send_ports {a} : (s.send a).ports = s.ports := rfl
@[simp] theorem State.send_fdb {a} : (s.send a).fdb = s.fdb := rfl
@[simp] theorem State.send_ing {a} : (s.send a).ing = s.ing := rfl
@[simp] theorem State.send_store {a} : (s.send a).store = s.store := rfl
@[simp] theorem State.send_com {a} : (s.send a).com = s.com := rfl
@[simp] theorem State.send_engines {a} : (s.send a).engines = s.engines := rfl
@[simp] theorem State.send_descs {a} : (s.send a).descs = s.descs := rfl
@[simp] theorem State.send_movers {a} : (s.send a).movers = s.movers := rfl
@[simp] theorem State.send_data {a} : (s.send a).data = s.data := rfl
@[simp] theorem State.send_solver {a} : (s.send a).solver = s.solver := rfl
@[simp] theorem State.send_live {a} : (s.send a).live = s.live := rfl
@[simp] theorem State.send_old {a} : (s.send a).old = s.old := rfl
@[simp] theorem State.send_liveBeat {a} : (s.send a).liveBeat = s.liveBeat := rfl
@[simp] theorem State.send_slot {a} : (s.send a).slot = s.slot := rfl
@[simp] theorem State.send_place {a} : (s.send a).place = s.place := rfl
@[simp] theorem State.send_mem {a} : (s.send a).mem = s.mem := rfl
@[simp] theorem State.send_peers {a} : (s.send a).peers = s.peers := rfl
@[simp] theorem State.send_safety {a} : (s.send a).safety = s.safety := rfl
@[simp] theorem State.send_host {a} : (s.send a).host = s.host := rfl
@[simp] theorem State.send_boot {a} : (s.send a).boot = s.boot := rfl
@[simp] theorem State.send_power {a} : (s.send a).power = s.power := rfl
@[simp] theorem State.send_keeper {a} : (s.send a).keeper = s.keeper := rfl
@[simp] theorem State.send_fuses {a} : (s.send a).fuses = s.fuses := rfl
@[simp] theorem State.send_flash {a} : (s.send a).flash = s.flash := rfl
@[simp] theorem State.send_hostMem {a} : (s.send a).hostMem = s.hostMem := rfl
@[simp] theorem State.send_free {a} : (s.send a).free = s.free := rfl
@[simp] theorem State.took_pending : (s.took).pending = s.pending := rfl
@[simp] theorem State.took_regs : (s.took).regs = s.regs := rfl
@[simp] theorem State.took_shadows : (s.took).shadows = s.shadows := rfl
@[simp] theorem State.took_held : (s.took).held = s.held := rfl
@[simp] theorem State.took_wo : (s.took).wo = s.wo := rfl
@[simp] theorem State.took_resetN : (s.took).resetN = s.resetN := rfl
@[simp] theorem State.took_pwrOk : (s.took).pwrOk = s.pwrOk := rfl
@[simp] theorem State.took_tl : (s.took).tl = s.tl := rfl
@[simp] theorem State.took_roots : (s.took).roots = s.roots := rfl
@[simp] theorem State.took_ports : (s.took).ports = s.ports := rfl
@[simp] theorem State.took_fdb : (s.took).fdb = s.fdb := rfl
@[simp] theorem State.took_ing : (s.took).ing = s.ing := rfl
@[simp] theorem State.took_store : (s.took).store = s.store := rfl
@[simp] theorem State.took_com : (s.took).com = s.com := rfl
@[simp] theorem State.took_engines : (s.took).engines = s.engines := rfl
@[simp] theorem State.took_descs : (s.took).descs = s.descs := rfl
@[simp] theorem State.took_movers : (s.took).movers = s.movers := rfl
@[simp] theorem State.took_data : (s.took).data = s.data := rfl
@[simp] theorem State.took_solver : (s.took).solver = s.solver := rfl
@[simp] theorem State.took_live : (s.took).live = s.live := rfl
@[simp] theorem State.took_old : (s.took).old = s.old := rfl
@[simp] theorem State.took_liveBeat : (s.took).liveBeat = s.liveBeat := rfl
@[simp] theorem State.took_slot : (s.took).slot = s.slot := rfl
@[simp] theorem State.took_place : (s.took).place = s.place := rfl
@[simp] theorem State.took_mem : (s.took).mem = s.mem := rfl
@[simp] theorem State.took_peers : (s.took).peers = s.peers := rfl
@[simp] theorem State.took_safety : (s.took).safety = s.safety := rfl
@[simp] theorem State.took_host : (s.took).host = s.host := rfl
@[simp] theorem State.took_boot : (s.took).boot = s.boot := rfl
@[simp] theorem State.took_power : (s.took).power = s.power := rfl
@[simp] theorem State.took_keeper : (s.took).keeper = s.keeper := rfl
@[simp] theorem State.took_fuses : (s.took).fuses = s.fuses := rfl
@[simp] theorem State.took_flash : (s.took).flash = s.flash := rfl
@[simp] theorem State.took_hostMem : (s.took).hostMem = s.hostMem := rfl
@[simp] theorem State.took_out : (s.took).out = s.out := rfl

end Sys2Proof.Machine
end

