-- ==== Sys2Proof/Laws/Regs.lean ====
section
/-! SUPPORT. Laws of the stored registers through the shared operations: what each register reads after an operation, that the
registers keep their canonical form, and what events and records leave alone. -/

namespace Sys2Proof.Machine

open Sys2Proof

variable {s : State}

/-! ### Reading registers -/

theorem State.rget_rset (h : regsWf s.regs = true) {o p : Nat} {w : Word} : (s.rset o w).rget p = if p = o then w else s.rget p := by
  split
  · next e => subst e; exact State.rget_rset_same h p w
  · next e => exact State.rget_rset_ne h o w e

theorem State.rget_congr {t : State} (e : t.regs = s.regs) (o : Nat) : t.rget o = s.rget o := by simp only [State.rget, e]

theorem State.wf_rset {o w} (h : regsWf s.regs = true) : regsWf (s.rset o w).regs = true := regsWf_set o w h

@[simp] theorem State.msix_regs {f v} : (s.msix f v).regs = s.regs := by
  unfold State.msix
  dsimp only
  split
  · rfl
  · split <;> rfl

@[simp] theorem State.msixBoth_regs {v} : (s.msixBoth v).regs = s.regs := by
  unfold State.msixBoth
  rw [State.msix_regs, State.msix_regs]

theorem State.raiseAt_regs {ev en v m} : (s.raiseAt ev en v m).regs = (s.rset ev (s.rget ev ||| nw m)).regs := by
  unfold State.raiseAt
  dsimp only
  split
  · rfl
  · exact State.msixBoth_regs

theorem State.raise_regs {ev b} : (s.raise ev b).regs = (s.rset ev (s.rget ev ||| nw (2 ^ b))).regs := State.raiseAt_regs

theorem State.hqRaise_regs {f b v} : (s.hqRaise f b v).regs = (s.rset (hqReg f Reg.HQ_EVENTS) (s.rget (hqReg f Reg.HQ_EVENTS) ||| nw (2 ^ b))).regs := by
  unfold State.hqRaise
  dsimp only
  split
  · rfl
  · exact State.msix_regs

theorem State.rget_bump (h : regsWf s.regs = true) {o p n} : (s.bump o n).rget p = if p = o then satAdd32 (s.rget o) n else s.rget p := State.rget_rset h

theorem State.rget_raise (h : regsWf s.regs = true) {o p b} : (s.raise o b).rget p = if p = o then s.rget o ||| nw (2 ^ b) else s.rget p := by
  rw [State.rget_congr State.raise_regs, State.rget_rset h]

theorem State.rget_hqRaise (h : regsWf s.regs = true) {f b v p} :
    (s.hqRaise f b v).rget p = if p = hqReg f Reg.HQ_EVENTS then s.rget (hqReg f Reg.HQ_EVENTS) ||| nw (2 ^ b) else s.rget p := by
  rw [State.rget_congr State.hqRaise_regs, State.rget_rset h]

theorem State.rget_setPair (h : regsWf s.regs = true) {lo hi v p} :
    (s.setPair lo hi v).rget p = if p = hi then nw (v / 2 ^ 32) else if p = lo then nw v else s.rget p := by
  unfold State.setPair
  rw [State.rget_rset (State.wf_rset h), State.rget_rset h]

theorem State.wf_bump {o n} (h : regsWf s.regs = true) : regsWf (s.bump o n).regs = true := State.wf_rset h

theorem State.wf_raise {o b} (h : regsWf s.regs = true) : regsWf (s.raise o b).regs = true := by
  rw [State.raise_regs]
  exact State.wf_rset h

theorem State.wf_hqRaise {f b v} (h : regsWf s.regs = true) : regsWf (s.hqRaise f b v).regs = true := by
  rw [State.hqRaise_regs]
  exact State.wf_rset h

theorem State.wf_setPair {lo hi v} (h : regsWf s.regs = true) : regsWf (s.setPair lo hi v).regs = true := State.wf_rset (State.wf_rset h)

theorem State.wf_setWords {o n v} (h : regsWf s.regs = true) : regsWf (s.setWords o n v).regs = true := by
  induction n generalizing s o v with
  | zero => exact h
  | succ n ih => exact ih (State.wf_rset h)

theorem State.rget_setWords_out (h : regsWf s.regs = true) {o n v p} (hp : p < o ∨ o + 4 * n ≤ p) : (s.setWords o n v).rget p = s.rget p := by
  induction n generalizing s o v with
  | zero => rfl
  | succ n ih =>
    unfold State.setWords
    rw [ih (State.wf_rset h) (by omega), State.rget_rset h, if_neg (by omega)]

theorem wbit_or_two {w : Word} {b i : Nat} (hb : b < 32) : wbit (w ||| nw (2 ^ b)) i = (wbit w i || decide (i = b)) := by
  simp only [wbit, nw, BitVec.toNat_or, Nat.testBit_or, BitVec.toNat_ofNat]
  rw [Nat.mod_eq_of_lt (Nat.pow_lt_pow_right (by decide) hb), Nat.testBit_two_pow]
  simp only [eq_comm]

/-- The bit that an event raises reads 1, whatever else the register holds. -/
theorem State.rbit_raise (h : regsWf s.regs = true) {o p b i : Nat} (hb : b < 32) :
    (s.raise o b).rbit p i = (s.rbit p i || decide (p = o ∧ i = b)) := by
  unfold State.rbit
  rw [State.rget_raise h]
  split
  · next e => subst e; rw [wbit_or_two hb]; simp
  · next e => simp [e]

/-! ### What events and records leave alone -/

theorem State.bump_fr {x1 x2} : Only [.regs] s (State.bump s x1 x2) := State.bump_only (Only.refl _ _) (by decide)
@[simp] theorem State.bump_pending {x1 x2} : (State.bump s x1 x2).pending = s.pending := State.bump_fr .pending rfl
@[simp] theorem State.bump_shadows {x1 x2} : (State.bump s x1 x2).shadows = s.shadows := State.bump_fr .shadows rfl
@[simp] theorem State.bump_held {x1 x2} : (State.bump s x1 x2).held = s.held := State.bump_fr .held rfl
@[simp] theorem State.bump_wo {x1 x2} : (State.bump s x1 x2).wo = s.wo := State.bump_fr .wo rfl
@[simp] theorem State.bump_resetN {x1 x2} : (State.bump s x1 x2).resetN = s.resetN := State.bump_fr .resetN rfl
@[simp] theorem State.bump_pwrOk {x1 x2} : (State.bump s x1 x2).pwrOk = s.pwrOk := State.bump_fr .pwrOk rfl
@[simp] theorem State.bump_tl {x1 x2} : (State.bump s x1 x2).tl = s.tl := State.bump_fr .tl rfl
@[simp] theorem State.bump_roots {x1 x2} : (State.bump s x1 x2).roots = s.roots := State.bump_fr .roots rfl
@[simp] theorem State.bump_ports {x1 x2} : (State.bump s x1 x2).ports = s.ports := State.bump_fr .ports rfl
@[simp] theorem State.bump_fdb {x1 x2} : (State.bump s x1 x2).fdb = s.fdb := State.bump_fr .fdb rfl
@[simp] theorem State.bump_ing {x1 x2} : (State.bump s x1 x2).ing = s.ing := State.bump_fr .ing rfl
@[simp] theorem State.bump_store {x1 x2} : (State.bump s x1 x2).store = s.store := State.bump_fr .store rfl
@[simp] theorem State.bump_com {x1 x2} : (State.bump s x1 x2).com = s.com := State.bump_fr .com rfl
@[simp] theorem State.bump_engines {x1 x2} : (State.bump s x1 x2).engines = s.engines := State.bump_fr .engines rfl
@[simp] theorem State.bump_descs {x1 x2} : (State.bump s x1 x2).descs = s.descs := State.bump_fr .descs rfl
@[simp] theorem State.bump_movers {x1 x2} : (State.bump s x1 x2).movers = s.movers := State.bump_fr .movers rfl
@[simp] theorem State.bump_data {x1 x2} : (State.bump s x1 x2).data = s.data := State.bump_fr .data rfl
@[simp] theorem State.bump_solver {x1 x2} : (State.bump s x1 x2).solver = s.solver := State.bump_fr .solver rfl
@[simp] theorem State.bump_live {x1 x2} : (State.bump s x1 x2).live = s.live := State.bump_fr .live rfl
@[simp] theorem State.bump_old {x1 x2} : (State.bump s x1 x2).old = s.old := State.bump_fr .old rfl
@[simp] theorem State.bump_liveBeat {x1 x2} : (State.bump s x1 x2).liveBeat = s.liveBeat := State.bump_fr .liveBeat rfl
@[simp] theorem State.bump_slot {x1 x2} : (State.bump s x1 x2).slot = s.slot := State.bump_fr .slot rfl
@[simp] theorem State.bump_place {x1 x2} : (State.bump s x1 x2).place = s.place := State.bump_fr .place rfl
@[simp] theorem State.bump_mem {x1 x2} : (State.bump s x1 x2).mem = s.mem := State.bump_fr .mem rfl
@[simp] theorem State.bump_peers {x1 x2} : (State.bump s x1 x2).peers = s.peers := State.bump_fr .peers rfl
@[simp] theorem State.bump_safety {x1 x2} : (State.bump s x1 x2).safety = s.safety := State.bump_fr .safety rfl
@[simp] theorem State.bump_host {x1 x2} : (State.bump s x1 x2).host = s.host := State.bump_fr .host rfl
@[simp] theorem State.bump_boot {x1 x2} : (State.bump s x1 x2).boot = s.boot := State.bump_fr .boot rfl
@[simp] theorem State.bump_power {x1 x2} : (State.bump s x1 x2).power = s.power := State.bump_fr .power rfl
@[simp] theorem State.bump_keeper {x1 x2} : (State.bump s x1 x2).keeper = s.keeper := State.bump_fr .keeper rfl
@[simp] theorem State.bump_fuses {x1 x2} : (State.bump s x1 x2).fuses = s.fuses := State.bump_fr .fuses rfl
@[simp] theorem State.bump_flash {x1 x2} : (State.bump s x1 x2).flash = s.flash := State.bump_fr .flash rfl
@[simp] theorem State.bump_hostMem {x1 x2} : (State.bump s x1 x2).hostMem = s.hostMem := State.bump_fr .hostMem rfl
@[simp] theorem State.bump_out {x1 x2} : (State.bump s x1 x2).out = s.out := State.bump_fr .out rfl
@[simp] theorem State.bump_free {x1 x2} : (State.bump s x1 x2).free = s.free := State.bump_fr .free rfl

theorem State.setPair_fr {x1 x2 x3} : Only [.regs] s (State.setPair s x1 x2 x3) := State.setPair_only (Only.refl _ _) (by decide)
@[simp] theorem State.setPair_pending {x1 x2 x3} : (State.setPair s x1 x2 x3).pending = s.pending := State.setPair_fr .pending rfl
@[simp] theorem State.setPair_shadows {x1 x2 x3} : (State.setPair s x1 x2 x3).shadows = s.shadows := State.setPair_fr .shadows rfl
@[simp] theorem State.setPair_held {x1 x2 x3} : (State.setPair s x1 x2 x3).held = s.held := State.setPair_fr .held rfl
@[simp] theorem State.setPair_wo {x1 x2 x3} : (State.setPair s x1 x2 x3).wo = s.wo := State.setPair_fr .wo rfl
@[simp] theorem State.setPair_resetN {x1 x2 x3} : (State.setPair s x1 x2 x3).resetN = s.resetN := State.setPair_fr .resetN rfl
@[simp] theorem State.setPair_pwrOk {x1 x2 x3} : (State.setPair s x1 x2 x3).pwrOk = s.pwrOk := State.setPair_fr .pwrOk rfl
@[simp] theorem State.setPair_tl {x1 x2 x3} : (State.setPair s x1 x2 x3).tl = s.tl := State.setPair_fr .tl rfl
@[simp] theorem State.setPair_roots {x1 x2 x3} : (State.setPair s x1 x2 x3).roots = s.roots := State.setPair_fr .roots rfl
@[simp] theorem State.setPair_ports {x1 x2 x3} : (State.setPair s x1 x2 x3).ports = s.ports := State.setPair_fr .ports rfl
@[simp] theorem State.setPair_fdb {x1 x2 x3} : (State.setPair s x1 x2 x3).fdb = s.fdb := State.setPair_fr .fdb rfl
@[simp] theorem State.setPair_ing {x1 x2 x3} : (State.setPair s x1 x2 x3).ing = s.ing := State.setPair_fr .ing rfl
@[simp] theorem State.setPair_store {x1 x2 x3} : (State.setPair s x1 x2 x3).store = s.store := State.setPair_fr .store rfl
@[simp] theorem State.setPair_com {x1 x2 x3} : (State.setPair s x1 x2 x3).com = s.com := State.setPair_fr .com rfl
@[simp] theorem State.setPair_engines {x1 x2 x3} : (State.setPair s x1 x2 x3).engines = s.engines := State.setPair_fr .engines rfl
@[simp] theorem State.setPair_descs {x1 x2 x3} : (State.setPair s x1 x2 x3).descs = s.descs := State.setPair_fr .descs rfl
@[simp] theorem State.setPair_movers {x1 x2 x3} : (State.setPair s x1 x2 x3).movers = s.movers := State.setPair_fr .movers rfl
@[simp] theorem State.setPair_data {x1 x2 x3} : (State.setPair s x1 x2 x3).data = s.data := State.setPair_fr .data rfl
@[simp] theorem State.setPair_solver {x1 x2 x3} : (State.setPair s x1 x2 x3).solver = s.solver := State.setPair_fr .solver rfl
@[simp] theorem State.setPair_live {x1 x2 x3} : (State.setPair s x1 x2 x3).live = s.live := State.setPair_fr .live rfl
@[simp] theorem State.setPair_old {x1 x2 x3} : (State.setPair s x1 x2 x3).old = s.old := State.setPair_fr .old rfl
@[simp] theorem State.setPair_liveBeat {x1 x2 x3} : (State.setPair s x1 x2 x3).liveBeat = s.liveBeat := State.setPair_fr .liveBeat rfl
@[simp] theorem State.setPair_slot {x1 x2 x3} : (State.setPair s x1 x2 x3).slot = s.slot := State.setPair_fr .slot rfl
@[simp] theorem State.setPair_place {x1 x2 x3} : (State.setPair s x1 x2 x3).place = s.place := State.setPair_fr .place rfl
@[simp] theorem State.setPair_mem {x1 x2 x3} : (State.setPair s x1 x2 x3).mem = s.mem := State.setPair_fr .mem rfl
@[simp] theorem State.setPair_peers {x1 x2 x3} : (State.setPair s x1 x2 x3).peers = s.peers := State.setPair_fr .peers rfl
@[simp] theorem State.setPair_safety {x1 x2 x3} : (State.setPair s x1 x2 x3).safety = s.safety := State.setPair_fr .safety rfl
@[simp] theorem State.setPair_host {x1 x2 x3} : (State.setPair s x1 x2 x3).host = s.host := State.setPair_fr .host rfl
@[simp] theorem State.setPair_boot {x1 x2 x3} : (State.setPair s x1 x2 x3).boot = s.boot := State.setPair_fr .boot rfl
@[simp] theorem State.setPair_power {x1 x2 x3} : (State.setPair s x1 x2 x3).power = s.power := State.setPair_fr .power rfl
@[simp] theorem State.setPair_keeper {x1 x2 x3} : (State.setPair s x1 x2 x3).keeper = s.keeper := State.setPair_fr .keeper rfl
@[simp] theorem State.setPair_fuses {x1 x2 x3} : (State.setPair s x1 x2 x3).fuses = s.fuses := State.setPair_fr .fuses rfl
@[simp] theorem State.setPair_flash {x1 x2 x3} : (State.setPair s x1 x2 x3).flash = s.flash := State.setPair_fr .flash rfl
@[simp] theorem State.setPair_hostMem {x1 x2 x3} : (State.setPair s x1 x2 x3).hostMem = s.hostMem := State.setPair_fr .hostMem rfl
@[simp] theorem State.setPair_out {x1 x2 x3} : (State.setPair s x1 x2 x3).out = s.out := State.setPair_fr .out rfl
@[simp] theorem State.setPair_free {x1 x2 x3} : (State.setPair s x1 x2 x3).free = s.free := State.setPair_fr .free rfl

theorem State.bump64_fr {x1 x2 x3} : Only [.regs] s (State.bump64 s x1 x2 x3) := State.bump64_only (Only.refl _ _) (by decide)
@[simp] theorem State.bump64_pending {x1 x2 x3} : (State.bump64 s x1 x2 x3).pending = s.pending := State.bump64_fr .pending rfl
@[simp] theorem State.bump64_shadows {x1 x2 x3} : (State.bump64 s x1 x2 x3).shadows = s.shadows := State.bump64_fr .shadows rfl
@[simp] theorem State.bump64_held {x1 x2 x3} : (State.bump64 s x1 x2 x3).held = s.held := State.bump64_fr .held rfl
@[simp] theorem State.bump64_wo {x1 x2 x3} : (State.bump64 s x1 x2 x3).wo = s.wo := State.bump64_fr .wo rfl
@[simp] theorem State.bump64_resetN {x1 x2 x3} : (State.bump64 s x1 x2 x3).resetN = s.resetN := State.bump64_fr .resetN rfl
@[simp] theorem State.bump64_pwrOk {x1 x2 x3} : (State.bump64 s x1 x2 x3).pwrOk = s.pwrOk := State.bump64_fr .pwrOk rfl
@[simp] theorem State.bump64_tl {x1 x2 x3} : (State.bump64 s x1 x2 x3).tl = s.tl := State.bump64_fr .tl rfl
@[simp] theorem State.bump64_roots {x1 x2 x3} : (State.bump64 s x1 x2 x3).roots = s.roots := State.bump64_fr .roots rfl
@[simp] theorem State.bump64_ports {x1 x2 x3} : (State.bump64 s x1 x2 x3).ports = s.ports := State.bump64_fr .ports rfl
@[simp] theorem State.bump64_fdb {x1 x2 x3} : (State.bump64 s x1 x2 x3).fdb = s.fdb := State.bump64_fr .fdb rfl
@[simp] theorem State.bump64_ing {x1 x2 x3} : (State.bump64 s x1 x2 x3).ing = s.ing := State.bump64_fr .ing rfl
@[simp] theorem State.bump64_store {x1 x2 x3} : (State.bump64 s x1 x2 x3).store = s.store := State.bump64_fr .store rfl
@[simp] theorem State.bump64_com {x1 x2 x3} : (State.bump64 s x1 x2 x3).com = s.com := State.bump64_fr .com rfl
@[simp] theorem State.bump64_engines {x1 x2 x3} : (State.bump64 s x1 x2 x3).engines = s.engines := State.bump64_fr .engines rfl
@[simp] theorem State.bump64_descs {x1 x2 x3} : (State.bump64 s x1 x2 x3).descs = s.descs := State.bump64_fr .descs rfl
@[simp] theorem State.bump64_movers {x1 x2 x3} : (State.bump64 s x1 x2 x3).movers = s.movers := State.bump64_fr .movers rfl
@[simp] theorem State.bump64_data {x1 x2 x3} : (State.bump64 s x1 x2 x3).data = s.data := State.bump64_fr .data rfl
@[simp] theorem State.bump64_solver {x1 x2 x3} : (State.bump64 s x1 x2 x3).solver = s.solver := State.bump64_fr .solver rfl
@[simp] theorem State.bump64_live {x1 x2 x3} : (State.bump64 s x1 x2 x3).live = s.live := State.bump64_fr .live rfl
@[simp] theorem State.bump64_old {x1 x2 x3} : (State.bump64 s x1 x2 x3).old = s.old := State.bump64_fr .old rfl
@[simp] theorem State.bump64_liveBeat {x1 x2 x3} : (State.bump64 s x1 x2 x3).liveBeat = s.liveBeat := State.bump64_fr .liveBeat rfl
@[simp] theorem State.bump64_slot {x1 x2 x3} : (State.bump64 s x1 x2 x3).slot = s.slot := State.bump64_fr .slot rfl
@[simp] theorem State.bump64_place {x1 x2 x3} : (State.bump64 s x1 x2 x3).place = s.place := State.bump64_fr .place rfl
@[simp] theorem State.bump64_mem {x1 x2 x3} : (State.bump64 s x1 x2 x3).mem = s.mem := State.bump64_fr .mem rfl
@[simp] theorem State.bump64_peers {x1 x2 x3} : (State.bump64 s x1 x2 x3).peers = s.peers := State.bump64_fr .peers rfl
@[simp] theorem State.bump64_safety {x1 x2 x3} : (State.bump64 s x1 x2 x3).safety = s.safety := State.bump64_fr .safety rfl
@[simp] theorem State.bump64_host {x1 x2 x3} : (State.bump64 s x1 x2 x3).host = s.host := State.bump64_fr .host rfl
@[simp] theorem State.bump64_boot {x1 x2 x3} : (State.bump64 s x1 x2 x3).boot = s.boot := State.bump64_fr .boot rfl
@[simp] theorem State.bump64_power {x1 x2 x3} : (State.bump64 s x1 x2 x3).power = s.power := State.bump64_fr .power rfl
@[simp] theorem State.bump64_keeper {x1 x2 x3} : (State.bump64 s x1 x2 x3).keeper = s.keeper := State.bump64_fr .keeper rfl
@[simp] theorem State.bump64_fuses {x1 x2 x3} : (State.bump64 s x1 x2 x3).fuses = s.fuses := State.bump64_fr .fuses rfl
@[simp] theorem State.bump64_flash {x1 x2 x3} : (State.bump64 s x1 x2 x3).flash = s.flash := State.bump64_fr .flash rfl
@[simp] theorem State.bump64_hostMem {x1 x2 x3} : (State.bump64 s x1 x2 x3).hostMem = s.hostMem := State.bump64_fr .hostMem rfl
@[simp] theorem State.bump64_out {x1 x2 x3} : (State.bump64 s x1 x2 x3).out = s.out := State.bump64_fr .out rfl
@[simp] theorem State.bump64_free {x1 x2 x3} : (State.bump64 s x1 x2 x3).free = s.free := State.bump64_fr .free rfl

theorem State.rput_fr {x1 x2 x3 x4} : Only [.regs] s (State.rput s x1 x2 x3 x4) := State.rput_only (Only.refl _ _) (by decide)
@[simp] theorem State.rput_pending {x1 x2 x3 x4} : (State.rput s x1 x2 x3 x4).pending = s.pending := State.rput_fr .pending rfl
@[simp] theorem State.rput_shadows {x1 x2 x3 x4} : (State.rput s x1 x2 x3 x4).shadows = s.shadows := State.rput_fr .shadows rfl
@[simp] theorem State.rput_held {x1 x2 x3 x4} : (State.rput s x1 x2 x3 x4).held = s.held := State.rput_fr .held rfl
@[simp] theorem State.rput_wo {x1 x2 x3 x4} : (State.rput s x1 x2 x3 x4).wo = s.wo := State.rput_fr .wo rfl
@[simp] theorem State.rput_resetN {x1 x2 x3 x4} : (State.rput s x1 x2 x3 x4).resetN = s.resetN := State.rput_fr .resetN rfl
@[simp] theorem State.rput_pwrOk {x1 x2 x3 x4} : (State.rput s x1 x2 x3 x4).pwrOk = s.pwrOk := State.rput_fr .pwrOk rfl
@[simp] theorem State.rput_tl {x1 x2 x3 x4} : (State.rput s x1 x2 x3 x4).tl = s.tl := State.rput_fr .tl rfl
@[simp] theorem State.rput_roots {x1 x2 x3 x4} : (State.rput s x1 x2 x3 x4).roots = s.roots := State.rput_fr .roots rfl
@[simp] theorem State.rput_ports {x1 x2 x3 x4} : (State.rput s x1 x2 x3 x4).ports = s.ports := State.rput_fr .ports rfl
@[simp] theorem State.rput_fdb {x1 x2 x3 x4} : (State.rput s x1 x2 x3 x4).fdb = s.fdb := State.rput_fr .fdb rfl
@[simp] theorem State.rput_ing {x1 x2 x3 x4} : (State.rput s x1 x2 x3 x4).ing = s.ing := State.rput_fr .ing rfl
@[simp] theorem State.rput_store {x1 x2 x3 x4} : (State.rput s x1 x2 x3 x4).store = s.store := State.rput_fr .store rfl
@[simp] theorem State.rput_com {x1 x2 x3 x4} : (State.rput s x1 x2 x3 x4).com = s.com := State.rput_fr .com rfl
@[simp] theorem State.rput_engines {x1 x2 x3 x4} : (State.rput s x1 x2 x3 x4).engines = s.engines := State.rput_fr .engines rfl
@[simp] theorem State.rput_descs {x1 x2 x3 x4} : (State.rput s x1 x2 x3 x4).descs = s.descs := State.rput_fr .descs rfl
@[simp] theorem State.rput_movers {x1 x2 x3 x4} : (State.rput s x1 x2 x3 x4).movers = s.movers := State.rput_fr .movers rfl
@[simp] theorem State.rput_data {x1 x2 x3 x4} : (State.rput s x1 x2 x3 x4).data = s.data := State.rput_fr .data rfl
@[simp] theorem State.rput_solver {x1 x2 x3 x4} : (State.rput s x1 x2 x3 x4).solver = s.solver := State.rput_fr .solver rfl
@[simp] theorem State.rput_live {x1 x2 x3 x4} : (State.rput s x1 x2 x3 x4).live = s.live := State.rput_fr .live rfl
@[simp] theorem State.rput_old {x1 x2 x3 x4} : (State.rput s x1 x2 x3 x4).old = s.old := State.rput_fr .old rfl
@[simp] theorem State.rput_liveBeat {x1 x2 x3 x4} : (State.rput s x1 x2 x3 x4).liveBeat = s.liveBeat := State.rput_fr .liveBeat rfl
@[simp] theorem State.rput_slot {x1 x2 x3 x4} : (State.rput s x1 x2 x3 x4).slot = s.slot := State.rput_fr .slot rfl
@[simp] theorem State.rput_place {x1 x2 x3 x4} : (State.rput s x1 x2 x3 x4).place = s.place := State.rput_fr .place rfl
@[simp] theorem State.rput_mem {x1 x2 x3 x4} : (State.rput s x1 x2 x3 x4).mem = s.mem := State.rput_fr .mem rfl
@[simp] theorem State.rput_peers {x1 x2 x3 x4} : (State.rput s x1 x2 x3 x4).peers = s.peers := State.rput_fr .peers rfl
@[simp] theorem State.rput_safety {x1 x2 x3 x4} : (State.rput s x1 x2 x3 x4).safety = s.safety := State.rput_fr .safety rfl
@[simp] theorem State.rput_host {x1 x2 x3 x4} : (State.rput s x1 x2 x3 x4).host = s.host := State.rput_fr .host rfl
@[simp] theorem State.rput_boot {x1 x2 x3 x4} : (State.rput s x1 x2 x3 x4).boot = s.boot := State.rput_fr .boot rfl
@[simp] theorem State.rput_power {x1 x2 x3 x4} : (State.rput s x1 x2 x3 x4).power = s.power := State.rput_fr .power rfl
@[simp] theorem State.rput_keeper {x1 x2 x3 x4} : (State.rput s x1 x2 x3 x4).keeper = s.keeper := State.rput_fr .keeper rfl
@[simp] theorem State.rput_fuses {x1 x2 x3 x4} : (State.rput s x1 x2 x3 x4).fuses = s.fuses := State.rput_fr .fuses rfl
@[simp] theorem State.rput_flash {x1 x2 x3 x4} : (State.rput s x1 x2 x3 x4).flash = s.flash := State.rput_fr .flash rfl
@[simp] theorem State.rput_hostMem {x1 x2 x3 x4} : (State.rput s x1 x2 x3 x4).hostMem = s.hostMem := State.rput_fr .hostMem rfl
@[simp] theorem State.rput_out {x1 x2 x3 x4} : (State.rput s x1 x2 x3 x4).out = s.out := State.rput_fr .out rfl
@[simp] theorem State.rput_free {x1 x2 x3 x4} : (State.rput s x1 x2 x3 x4).free = s.free := State.rput_fr .free rfl

theorem State.took_fr : Only [.free] s (State.took s) := State.took_only (Only.refl _ _) (by decide)

theorem State.send_fr {x1} : Only [.out] s (State.send s x1) := State.send_only (Only.refl _ _) (by decide)

theorem State.msix_fr {x1 x2} : Only [.host, .out] s (State.msix s x1 x2) := State.msix_only (Only.refl _ _) (by decide)
@[simp] theorem State.msix_pending {x1 x2} : (State.msix s x1 x2).pending = s.pending := State.msix_fr .pending rfl
@[simp] theorem State.msix_shadows {x1 x2} : (State.msix s x1 x2).shadows = s.shadows := State.msix_fr .shadows rfl
@[simp] theorem State.msix_held {x1 x2} : (State.msix s x1 x2).held = s.held := State.msix_fr .held rfl
@[simp] theorem State.msix_wo {x1 x2} : (State.msix s x1 x2).wo = s.wo := State.msix_fr .wo rfl
@[simp] theorem State.msix_resetN {x1 x2} : (State.msix s x1 x2).resetN = s.resetN := State.msix_fr .resetN rfl
@[simp] theorem State.msix_pwrOk {x1 x2} : (State.msix s x1 x2).pwrOk = s.pwrOk := State.msix_fr .pwrOk rfl
@[simp] theorem State.msix_tl {x1 x2} : (State.msix s x1 x2).tl = s.tl := State.msix_fr .tl rfl
@[simp] theorem State.msix_roots {x1 x2} : (State.msix s x1 x2).roots = s.roots := State.msix_fr .roots rfl
@[simp] theorem State.msix_ports {x1 x2} : (State.msix s x1 x2).ports = s.ports := State.msix_fr .ports rfl
@[simp] theorem State.msix_fdb {x1 x2} : (State.msix s x1 x2).fdb = s.fdb := State.msix_fr .fdb rfl
@[simp] theorem State.msix_ing {x1 x2} : (State.msix s x1 x2).ing = s.ing := State.msix_fr .ing rfl
@[simp] theorem State.msix_store {x1 x2} : (State.msix s x1 x2).store = s.store := State.msix_fr .store rfl
@[simp] theorem State.msix_com {x1 x2} : (State.msix s x1 x2).com = s.com := State.msix_fr .com rfl
@[simp] theorem State.msix_engines {x1 x2} : (State.msix s x1 x2).engines = s.engines := State.msix_fr .engines rfl
@[simp] theorem State.msix_descs {x1 x2} : (State.msix s x1 x2).descs = s.descs := State.msix_fr .descs rfl
@[simp] theorem State.msix_movers {x1 x2} : (State.msix s x1 x2).movers = s.movers := State.msix_fr .movers rfl
@[simp] theorem State.msix_data {x1 x2} : (State.msix s x1 x2).data = s.data := State.msix_fr .data rfl
@[simp] theorem State.msix_solver {x1 x2} : (State.msix s x1 x2).solver = s.solver := State.msix_fr .solver rfl
@[simp] theorem State.msix_live {x1 x2} : (State.msix s x1 x2).live = s.live := State.msix_fr .live rfl
@[simp] theorem State.msix_old {x1 x2} : (State.msix s x1 x2).old = s.old := State.msix_fr .old rfl
@[simp] theorem State.msix_liveBeat {x1 x2} : (State.msix s x1 x2).liveBeat = s.liveBeat := State.msix_fr .liveBeat rfl
@[simp] theorem State.msix_slot {x1 x2} : (State.msix s x1 x2).slot = s.slot := State.msix_fr .slot rfl
@[simp] theorem State.msix_place {x1 x2} : (State.msix s x1 x2).place = s.place := State.msix_fr .place rfl
@[simp] theorem State.msix_mem {x1 x2} : (State.msix s x1 x2).mem = s.mem := State.msix_fr .mem rfl
@[simp] theorem State.msix_peers {x1 x2} : (State.msix s x1 x2).peers = s.peers := State.msix_fr .peers rfl
@[simp] theorem State.msix_safety {x1 x2} : (State.msix s x1 x2).safety = s.safety := State.msix_fr .safety rfl
@[simp] theorem State.msix_boot {x1 x2} : (State.msix s x1 x2).boot = s.boot := State.msix_fr .boot rfl
@[simp] theorem State.msix_power {x1 x2} : (State.msix s x1 x2).power = s.power := State.msix_fr .power rfl
@[simp] theorem State.msix_keeper {x1 x2} : (State.msix s x1 x2).keeper = s.keeper := State.msix_fr .keeper rfl
@[simp] theorem State.msix_fuses {x1 x2} : (State.msix s x1 x2).fuses = s.fuses := State.msix_fr .fuses rfl
@[simp] theorem State.msix_flash {x1 x2} : (State.msix s x1 x2).flash = s.flash := State.msix_fr .flash rfl
@[simp] theorem State.msix_hostMem {x1 x2} : (State.msix s x1 x2).hostMem = s.hostMem := State.msix_fr .hostMem rfl
@[simp] theorem State.msix_free {x1 x2} : (State.msix s x1 x2).free = s.free := State.msix_fr .free rfl

theorem State.msixBoth_fr {x1} : Only [.host, .out] s (State.msixBoth s x1) := State.msixBoth_only (Only.refl _ _) (by decide)
@[simp] theorem State.msixBoth_pending {x1} : (State.msixBoth s x1).pending = s.pending := State.msixBoth_fr .pending rfl
@[simp] theorem State.msixBoth_shadows {x1} : (State.msixBoth s x1).shadows = s.shadows := State.msixBoth_fr .shadows rfl
@[simp] theorem State.msixBoth_held {x1} : (State.msixBoth s x1).held = s.held := State.msixBoth_fr .held rfl
@[simp] theorem State.msixBoth_wo {x1} : (State.msixBoth s x1).wo = s.wo := State.msixBoth_fr .wo rfl
@[simp] theorem State.msixBoth_resetN {x1} : (State.msixBoth s x1).resetN = s.resetN := State.msixBoth_fr .resetN rfl
@[simp] theorem State.msixBoth_pwrOk {x1} : (State.msixBoth s x1).pwrOk = s.pwrOk := State.msixBoth_fr .pwrOk rfl
@[simp] theorem State.msixBoth_tl {x1} : (State.msixBoth s x1).tl = s.tl := State.msixBoth_fr .tl rfl
@[simp] theorem State.msixBoth_roots {x1} : (State.msixBoth s x1).roots = s.roots := State.msixBoth_fr .roots rfl
@[simp] theorem State.msixBoth_ports {x1} : (State.msixBoth s x1).ports = s.ports := State.msixBoth_fr .ports rfl
@[simp] theorem State.msixBoth_fdb {x1} : (State.msixBoth s x1).fdb = s.fdb := State.msixBoth_fr .fdb rfl
@[simp] theorem State.msixBoth_ing {x1} : (State.msixBoth s x1).ing = s.ing := State.msixBoth_fr .ing rfl
@[simp] theorem State.msixBoth_store {x1} : (State.msixBoth s x1).store = s.store := State.msixBoth_fr .store rfl
@[simp] theorem State.msixBoth_com {x1} : (State.msixBoth s x1).com = s.com := State.msixBoth_fr .com rfl
@[simp] theorem State.msixBoth_engines {x1} : (State.msixBoth s x1).engines = s.engines := State.msixBoth_fr .engines rfl
@[simp] theorem State.msixBoth_descs {x1} : (State.msixBoth s x1).descs = s.descs := State.msixBoth_fr .descs rfl
@[simp] theorem State.msixBoth_movers {x1} : (State.msixBoth s x1).movers = s.movers := State.msixBoth_fr .movers rfl
@[simp] theorem State.msixBoth_data {x1} : (State.msixBoth s x1).data = s.data := State.msixBoth_fr .data rfl
@[simp] theorem State.msixBoth_solver {x1} : (State.msixBoth s x1).solver = s.solver := State.msixBoth_fr .solver rfl
@[simp] theorem State.msixBoth_live {x1} : (State.msixBoth s x1).live = s.live := State.msixBoth_fr .live rfl
@[simp] theorem State.msixBoth_old {x1} : (State.msixBoth s x1).old = s.old := State.msixBoth_fr .old rfl
@[simp] theorem State.msixBoth_liveBeat {x1} : (State.msixBoth s x1).liveBeat = s.liveBeat := State.msixBoth_fr .liveBeat rfl
@[simp] theorem State.msixBoth_slot {x1} : (State.msixBoth s x1).slot = s.slot := State.msixBoth_fr .slot rfl
@[simp] theorem State.msixBoth_place {x1} : (State.msixBoth s x1).place = s.place := State.msixBoth_fr .place rfl
@[simp] theorem State.msixBoth_mem {x1} : (State.msixBoth s x1).mem = s.mem := State.msixBoth_fr .mem rfl
@[simp] theorem State.msixBoth_peers {x1} : (State.msixBoth s x1).peers = s.peers := State.msixBoth_fr .peers rfl
@[simp] theorem State.msixBoth_safety {x1} : (State.msixBoth s x1).safety = s.safety := State.msixBoth_fr .safety rfl
@[simp] theorem State.msixBoth_boot {x1} : (State.msixBoth s x1).boot = s.boot := State.msixBoth_fr .boot rfl
@[simp] theorem State.msixBoth_power {x1} : (State.msixBoth s x1).power = s.power := State.msixBoth_fr .power rfl
@[simp] theorem State.msixBoth_keeper {x1} : (State.msixBoth s x1).keeper = s.keeper := State.msixBoth_fr .keeper rfl
@[simp] theorem State.msixBoth_fuses {x1} : (State.msixBoth s x1).fuses = s.fuses := State.msixBoth_fr .fuses rfl
@[simp] theorem State.msixBoth_flash {x1} : (State.msixBoth s x1).flash = s.flash := State.msixBoth_fr .flash rfl
@[simp] theorem State.msixBoth_hostMem {x1} : (State.msixBoth s x1).hostMem = s.hostMem := State.msixBoth_fr .hostMem rfl
@[simp] theorem State.msixBoth_free {x1} : (State.msixBoth s x1).free = s.free := State.msixBoth_fr .free rfl

theorem State.raiseAt_fr {x1 x2 x3 x4} : Only [.regs, .host, .out] s (State.raiseAt s x1 x2 x3 x4) := State.raiseAt_only (Only.refl _ _) (by decide)
@[simp] theorem State.raiseAt_pending {x1 x2 x3 x4} : (State.raiseAt s x1 x2 x3 x4).pending = s.pending := State.raiseAt_fr .pending rfl
@[simp] theorem State.raiseAt_shadows {x1 x2 x3 x4} : (State.raiseAt s x1 x2 x3 x4).shadows = s.shadows := State.raiseAt_fr .shadows rfl
@[simp] theorem State.raiseAt_held {x1 x2 x3 x4} : (State.raiseAt s x1 x2 x3 x4).held = s.held := State.raiseAt_fr .held rfl
@[simp] theorem State.raiseAt_wo {x1 x2 x3 x4} : (State.raiseAt s x1 x2 x3 x4).wo = s.wo := State.raiseAt_fr .wo rfl
@[simp] theorem State.raiseAt_resetN {x1 x2 x3 x4} : (State.raiseAt s x1 x2 x3 x4).resetN = s.resetN := State.raiseAt_fr .resetN rfl
@[simp] theorem State.raiseAt_pwrOk {x1 x2 x3 x4} : (State.raiseAt s x1 x2 x3 x4).pwrOk = s.pwrOk := State.raiseAt_fr .pwrOk rfl
@[simp] theorem State.raiseAt_tl {x1 x2 x3 x4} : (State.raiseAt s x1 x2 x3 x4).tl = s.tl := State.raiseAt_fr .tl rfl
@[simp] theorem State.raiseAt_roots {x1 x2 x3 x4} : (State.raiseAt s x1 x2 x3 x4).roots = s.roots := State.raiseAt_fr .roots rfl
@[simp] theorem State.raiseAt_ports {x1 x2 x3 x4} : (State.raiseAt s x1 x2 x3 x4).ports = s.ports := State.raiseAt_fr .ports rfl
@[simp] theorem State.raiseAt_fdb {x1 x2 x3 x4} : (State.raiseAt s x1 x2 x3 x4).fdb = s.fdb := State.raiseAt_fr .fdb rfl
@[simp] theorem State.raiseAt_ing {x1 x2 x3 x4} : (State.raiseAt s x1 x2 x3 x4).ing = s.ing := State.raiseAt_fr .ing rfl
@[simp] theorem State.raiseAt_store {x1 x2 x3 x4} : (State.raiseAt s x1 x2 x3 x4).store = s.store := State.raiseAt_fr .store rfl
@[simp] theorem State.raiseAt_com {x1 x2 x3 x4} : (State.raiseAt s x1 x2 x3 x4).com = s.com := State.raiseAt_fr .com rfl
@[simp] theorem State.raiseAt_engines {x1 x2 x3 x4} : (State.raiseAt s x1 x2 x3 x4).engines = s.engines := State.raiseAt_fr .engines rfl
@[simp] theorem State.raiseAt_descs {x1 x2 x3 x4} : (State.raiseAt s x1 x2 x3 x4).descs = s.descs := State.raiseAt_fr .descs rfl
@[simp] theorem State.raiseAt_movers {x1 x2 x3 x4} : (State.raiseAt s x1 x2 x3 x4).movers = s.movers := State.raiseAt_fr .movers rfl
@[simp] theorem State.raiseAt_data {x1 x2 x3 x4} : (State.raiseAt s x1 x2 x3 x4).data = s.data := State.raiseAt_fr .data rfl
@[simp] theorem State.raiseAt_solver {x1 x2 x3 x4} : (State.raiseAt s x1 x2 x3 x4).solver = s.solver := State.raiseAt_fr .solver rfl
@[simp] theorem State.raiseAt_live {x1 x2 x3 x4} : (State.raiseAt s x1 x2 x3 x4).live = s.live := State.raiseAt_fr .live rfl
@[simp] theorem State.raiseAt_old {x1 x2 x3 x4} : (State.raiseAt s x1 x2 x3 x4).old = s.old := State.raiseAt_fr .old rfl
@[simp] theorem State.raiseAt_liveBeat {x1 x2 x3 x4} : (State.raiseAt s x1 x2 x3 x4).liveBeat = s.liveBeat := State.raiseAt_fr .liveBeat rfl
@[simp] theorem State.raiseAt_slot {x1 x2 x3 x4} : (State.raiseAt s x1 x2 x3 x4).slot = s.slot := State.raiseAt_fr .slot rfl
@[simp] theorem State.raiseAt_place {x1 x2 x3 x4} : (State.raiseAt s x1 x2 x3 x4).place = s.place := State.raiseAt_fr .place rfl
@[simp] theorem State.raiseAt_mem {x1 x2 x3 x4} : (State.raiseAt s x1 x2 x3 x4).mem = s.mem := State.raiseAt_fr .mem rfl
@[simp] theorem State.raiseAt_peers {x1 x2 x3 x4} : (State.raiseAt s x1 x2 x3 x4).peers = s.peers := State.raiseAt_fr .peers rfl
@[simp] theorem State.raiseAt_safety {x1 x2 x3 x4} : (State.raiseAt s x1 x2 x3 x4).safety = s.safety := State.raiseAt_fr .safety rfl
@[simp] theorem State.raiseAt_boot {x1 x2 x3 x4} : (State.raiseAt s x1 x2 x3 x4).boot = s.boot := State.raiseAt_fr .boot rfl
@[simp] theorem State.raiseAt_power {x1 x2 x3 x4} : (State.raiseAt s x1 x2 x3 x4).power = s.power := State.raiseAt_fr .power rfl
@[simp] theorem State.raiseAt_keeper {x1 x2 x3 x4} : (State.raiseAt s x1 x2 x3 x4).keeper = s.keeper := State.raiseAt_fr .keeper rfl
@[simp] theorem State.raiseAt_fuses {x1 x2 x3 x4} : (State.raiseAt s x1 x2 x3 x4).fuses = s.fuses := State.raiseAt_fr .fuses rfl
@[simp] theorem State.raiseAt_flash {x1 x2 x3 x4} : (State.raiseAt s x1 x2 x3 x4).flash = s.flash := State.raiseAt_fr .flash rfl
@[simp] theorem State.raiseAt_hostMem {x1 x2 x3 x4} : (State.raiseAt s x1 x2 x3 x4).hostMem = s.hostMem := State.raiseAt_fr .hostMem rfl
@[simp] theorem State.raiseAt_free {x1 x2 x3 x4} : (State.raiseAt s x1 x2 x3 x4).free = s.free := State.raiseAt_fr .free rfl

theorem State.raise_fr {x1 x2} : Only [.regs, .host, .out] s (State.raise s x1 x2) := State.raise_only (Only.refl _ _) (by decide)
@[simp] theorem State.raise_pending {x1 x2} : (State.raise s x1 x2).pending = s.pending := State.raise_fr .pending rfl
@[simp] theorem State.raise_shadows {x1 x2} : (State.raise s x1 x2).shadows = s.shadows := State.raise_fr .shadows rfl
@[simp] theorem State.raise_held {x1 x2} : (State.raise s x1 x2).held = s.held := State.raise_fr .held rfl
@[simp] theorem State.raise_wo {x1 x2} : (State.raise s x1 x2).wo = s.wo := State.raise_fr .wo rfl
@[simp] theorem State.raise_resetN {x1 x2} : (State.raise s x1 x2).resetN = s.resetN := State.raise_fr .resetN rfl
@[simp] theorem State.raise_pwrOk {x1 x2} : (State.raise s x1 x2).pwrOk = s.pwrOk := State.raise_fr .pwrOk rfl
@[simp] theorem State.raise_tl {x1 x2} : (State.raise s x1 x2).tl = s.tl := State.raise_fr .tl rfl
@[simp] theorem State.raise_roots {x1 x2} : (State.raise s x1 x2).roots = s.roots := State.raise_fr .roots rfl
@[simp] theorem State.raise_ports {x1 x2} : (State.raise s x1 x2).ports = s.ports := State.raise_fr .ports rfl
@[simp] theorem State.raise_fdb {x1 x2} : (State.raise s x1 x2).fdb = s.fdb := State.raise_fr .fdb rfl
@[simp] theorem State.raise_ing {x1 x2} : (State.raise s x1 x2).ing = s.ing := State.raise_fr .ing rfl
@[simp] theorem State.raise_store {x1 x2} : (State.raise s x1 x2).store = s.store := State.raise_fr .store rfl
@[simp] theorem State.raise_com {x1 x2} : (State.raise s x1 x2).com = s.com := State.raise_fr .com rfl
@[simp] theorem State.raise_engines {x1 x2} : (State.raise s x1 x2).engines = s.engines := State.raise_fr .engines rfl
@[simp] theorem State.raise_descs {x1 x2} : (State.raise s x1 x2).descs = s.descs := State.raise_fr .descs rfl
@[simp] theorem State.raise_movers {x1 x2} : (State.raise s x1 x2).movers = s.movers := State.raise_fr .movers rfl
@[simp] theorem State.raise_data {x1 x2} : (State.raise s x1 x2).data = s.data := State.raise_fr .data rfl
@[simp] theorem State.raise_solver {x1 x2} : (State.raise s x1 x2).solver = s.solver := State.raise_fr .solver rfl
@[simp] theorem State.raise_live {x1 x2} : (State.raise s x1 x2).live = s.live := State.raise_fr .live rfl
@[simp] theorem State.raise_old {x1 x2} : (State.raise s x1 x2).old = s.old := State.raise_fr .old rfl
@[simp] theorem State.raise_liveBeat {x1 x2} : (State.raise s x1 x2).liveBeat = s.liveBeat := State.raise_fr .liveBeat rfl
@[simp] theorem State.raise_slot {x1 x2} : (State.raise s x1 x2).slot = s.slot := State.raise_fr .slot rfl
@[simp] theorem State.raise_place {x1 x2} : (State.raise s x1 x2).place = s.place := State.raise_fr .place rfl
@[simp] theorem State.raise_mem {x1 x2} : (State.raise s x1 x2).mem = s.mem := State.raise_fr .mem rfl
@[simp] theorem State.raise_peers {x1 x2} : (State.raise s x1 x2).peers = s.peers := State.raise_fr .peers rfl
@[simp] theorem State.raise_safety {x1 x2} : (State.raise s x1 x2).safety = s.safety := State.raise_fr .safety rfl
@[simp] theorem State.raise_boot {x1 x2} : (State.raise s x1 x2).boot = s.boot := State.raise_fr .boot rfl
@[simp] theorem State.raise_power {x1 x2} : (State.raise s x1 x2).power = s.power := State.raise_fr .power rfl
@[simp] theorem State.raise_keeper {x1 x2} : (State.raise s x1 x2).keeper = s.keeper := State.raise_fr .keeper rfl
@[simp] theorem State.raise_fuses {x1 x2} : (State.raise s x1 x2).fuses = s.fuses := State.raise_fr .fuses rfl
@[simp] theorem State.raise_flash {x1 x2} : (State.raise s x1 x2).flash = s.flash := State.raise_fr .flash rfl
@[simp] theorem State.raise_hostMem {x1 x2} : (State.raise s x1 x2).hostMem = s.hostMem := State.raise_fr .hostMem rfl
@[simp] theorem State.raise_free {x1 x2} : (State.raise s x1 x2).free = s.free := State.raise_fr .free rfl

theorem State.hqRaise_fr {x1 x2 x3} : Only [.regs, .host, .out] s (State.hqRaise s x1 x2 x3) := State.hqRaise_only (Only.refl _ _) (by decide)
@[simp] theorem State.hqRaise_pending {x1 x2 x3} : (State.hqRaise s x1 x2 x3).pending = s.pending := State.hqRaise_fr .pending rfl
@[simp] theorem State.hqRaise_shadows {x1 x2 x3} : (State.hqRaise s x1 x2 x3).shadows = s.shadows := State.hqRaise_fr .shadows rfl
@[simp] theorem State.hqRaise_held {x1 x2 x3} : (State.hqRaise s x1 x2 x3).held = s.held := State.hqRaise_fr .held rfl
@[simp] theorem State.hqRaise_wo {x1 x2 x3} : (State.hqRaise s x1 x2 x3).wo = s.wo := State.hqRaise_fr .wo rfl
@[simp] theorem State.hqRaise_resetN {x1 x2 x3} : (State.hqRaise s x1 x2 x3).resetN = s.resetN := State.hqRaise_fr .resetN rfl
@[simp] theorem State.hqRaise_pwrOk {x1 x2 x3} : (State.hqRaise s x1 x2 x3).pwrOk = s.pwrOk := State.hqRaise_fr .pwrOk rfl
@[simp] theorem State.hqRaise_tl {x1 x2 x3} : (State.hqRaise s x1 x2 x3).tl = s.tl := State.hqRaise_fr .tl rfl
@[simp] theorem State.hqRaise_roots {x1 x2 x3} : (State.hqRaise s x1 x2 x3).roots = s.roots := State.hqRaise_fr .roots rfl
@[simp] theorem State.hqRaise_ports {x1 x2 x3} : (State.hqRaise s x1 x2 x3).ports = s.ports := State.hqRaise_fr .ports rfl
@[simp] theorem State.hqRaise_fdb {x1 x2 x3} : (State.hqRaise s x1 x2 x3).fdb = s.fdb := State.hqRaise_fr .fdb rfl
@[simp] theorem State.hqRaise_ing {x1 x2 x3} : (State.hqRaise s x1 x2 x3).ing = s.ing := State.hqRaise_fr .ing rfl
@[simp] theorem State.hqRaise_store {x1 x2 x3} : (State.hqRaise s x1 x2 x3).store = s.store := State.hqRaise_fr .store rfl
@[simp] theorem State.hqRaise_com {x1 x2 x3} : (State.hqRaise s x1 x2 x3).com = s.com := State.hqRaise_fr .com rfl
@[simp] theorem State.hqRaise_engines {x1 x2 x3} : (State.hqRaise s x1 x2 x3).engines = s.engines := State.hqRaise_fr .engines rfl
@[simp] theorem State.hqRaise_descs {x1 x2 x3} : (State.hqRaise s x1 x2 x3).descs = s.descs := State.hqRaise_fr .descs rfl
@[simp] theorem State.hqRaise_movers {x1 x2 x3} : (State.hqRaise s x1 x2 x3).movers = s.movers := State.hqRaise_fr .movers rfl
@[simp] theorem State.hqRaise_data {x1 x2 x3} : (State.hqRaise s x1 x2 x3).data = s.data := State.hqRaise_fr .data rfl
@[simp] theorem State.hqRaise_solver {x1 x2 x3} : (State.hqRaise s x1 x2 x3).solver = s.solver := State.hqRaise_fr .solver rfl
@[simp] theorem State.hqRaise_live {x1 x2 x3} : (State.hqRaise s x1 x2 x3).live = s.live := State.hqRaise_fr .live rfl
@[simp] theorem State.hqRaise_old {x1 x2 x3} : (State.hqRaise s x1 x2 x3).old = s.old := State.hqRaise_fr .old rfl
@[simp] theorem State.hqRaise_liveBeat {x1 x2 x3} : (State.hqRaise s x1 x2 x3).liveBeat = s.liveBeat := State.hqRaise_fr .liveBeat rfl
@[simp] theorem State.hqRaise_slot {x1 x2 x3} : (State.hqRaise s x1 x2 x3).slot = s.slot := State.hqRaise_fr .slot rfl
@[simp] theorem State.hqRaise_place {x1 x2 x3} : (State.hqRaise s x1 x2 x3).place = s.place := State.hqRaise_fr .place rfl
@[simp] theorem State.hqRaise_mem {x1 x2 x3} : (State.hqRaise s x1 x2 x3).mem = s.mem := State.hqRaise_fr .mem rfl
@[simp] theorem State.hqRaise_peers {x1 x2 x3} : (State.hqRaise s x1 x2 x3).peers = s.peers := State.hqRaise_fr .peers rfl
@[simp] theorem State.hqRaise_safety {x1 x2 x3} : (State.hqRaise s x1 x2 x3).safety = s.safety := State.hqRaise_fr .safety rfl
@[simp] theorem State.hqRaise_boot {x1 x2 x3} : (State.hqRaise s x1 x2 x3).boot = s.boot := State.hqRaise_fr .boot rfl
@[simp] theorem State.hqRaise_power {x1 x2 x3} : (State.hqRaise s x1 x2 x3).power = s.power := State.hqRaise_fr .power rfl
@[simp] theorem State.hqRaise_keeper {x1 x2 x3} : (State.hqRaise s x1 x2 x3).keeper = s.keeper := State.hqRaise_fr .keeper rfl
@[simp] theorem State.hqRaise_fuses {x1 x2 x3} : (State.hqRaise s x1 x2 x3).fuses = s.fuses := State.hqRaise_fr .fuses rfl
@[simp] theorem State.hqRaise_flash {x1 x2 x3} : (State.hqRaise s x1 x2 x3).flash = s.flash := State.hqRaise_fr .flash rfl
@[simp] theorem State.hqRaise_hostMem {x1 x2 x3} : (State.hqRaise s x1 x2 x3).hostMem = s.hostMem := State.hqRaise_fr .hostMem rfl
@[simp] theorem State.hqRaise_free {x1 x2 x3} : (State.hqRaise s x1 x2 x3).free = s.free := State.hqRaise_fr .free rfl

theorem State.logRec_fr {x1 x2 x3 x4 x5} : Only [.regs, .safety] s (State.logRec s x1 x2 x3 x4 x5) := State.logRec_only (Only.refl _ _) (by decide)
@[simp] theorem State.logRec_pending {x1 x2 x3 x4 x5} : (State.logRec s x1 x2 x3 x4 x5).pending = s.pending := State.logRec_fr .pending rfl
@[simp] theorem State.logRec_shadows {x1 x2 x3 x4 x5} : (State.logRec s x1 x2 x3 x4 x5).shadows = s.shadows := State.logRec_fr .shadows rfl
@[simp] theorem State.logRec_held {x1 x2 x3 x4 x5} : (State.logRec s x1 x2 x3 x4 x5).held = s.held := State.logRec_fr .held rfl
@[simp] theorem State.logRec_wo {x1 x2 x3 x4 x5} : (State.logRec s x1 x2 x3 x4 x5).wo = s.wo := State.logRec_fr .wo rfl
@[simp] theorem State.logRec_resetN {x1 x2 x3 x4 x5} : (State.logRec s x1 x2 x3 x4 x5).resetN = s.resetN := State.logRec_fr .resetN rfl
@[simp] theorem State.logRec_pwrOk {x1 x2 x3 x4 x5} : (State.logRec s x1 x2 x3 x4 x5).pwrOk = s.pwrOk := State.logRec_fr .pwrOk rfl
@[simp] theorem State.logRec_tl {x1 x2 x3 x4 x5} : (State.logRec s x1 x2 x3 x4 x5).tl = s.tl := State.logRec_fr .tl rfl
@[simp] theorem State.logRec_roots {x1 x2 x3 x4 x5} : (State.logRec s x1 x2 x3 x4 x5).roots = s.roots := State.logRec_fr .roots rfl
@[simp] theorem State.logRec_ports {x1 x2 x3 x4 x5} : (State.logRec s x1 x2 x3 x4 x5).ports = s.ports := State.logRec_fr .ports rfl
@[simp] theorem State.logRec_fdb {x1 x2 x3 x4 x5} : (State.logRec s x1 x2 x3 x4 x5).fdb = s.fdb := State.logRec_fr .fdb rfl
@[simp] theorem State.logRec_ing {x1 x2 x3 x4 x5} : (State.logRec s x1 x2 x3 x4 x5).ing = s.ing := State.logRec_fr .ing rfl
@[simp] theorem State.logRec_store {x1 x2 x3 x4 x5} : (State.logRec s x1 x2 x3 x4 x5).store = s.store := State.logRec_fr .store rfl
@[simp] theorem State.logRec_com {x1 x2 x3 x4 x5} : (State.logRec s x1 x2 x3 x4 x5).com = s.com := State.logRec_fr .com rfl
@[simp] theorem State.logRec_engines {x1 x2 x3 x4 x5} : (State.logRec s x1 x2 x3 x4 x5).engines = s.engines := State.logRec_fr .engines rfl
@[simp] theorem State.logRec_descs {x1 x2 x3 x4 x5} : (State.logRec s x1 x2 x3 x4 x5).descs = s.descs := State.logRec_fr .descs rfl
@[simp] theorem State.logRec_movers {x1 x2 x3 x4 x5} : (State.logRec s x1 x2 x3 x4 x5).movers = s.movers := State.logRec_fr .movers rfl
@[simp] theorem State.logRec_data {x1 x2 x3 x4 x5} : (State.logRec s x1 x2 x3 x4 x5).data = s.data := State.logRec_fr .data rfl
@[simp] theorem State.logRec_solver {x1 x2 x3 x4 x5} : (State.logRec s x1 x2 x3 x4 x5).solver = s.solver := State.logRec_fr .solver rfl
@[simp] theorem State.logRec_live {x1 x2 x3 x4 x5} : (State.logRec s x1 x2 x3 x4 x5).live = s.live := State.logRec_fr .live rfl
@[simp] theorem State.logRec_old {x1 x2 x3 x4 x5} : (State.logRec s x1 x2 x3 x4 x5).old = s.old := State.logRec_fr .old rfl
@[simp] theorem State.logRec_liveBeat {x1 x2 x3 x4 x5} : (State.logRec s x1 x2 x3 x4 x5).liveBeat = s.liveBeat := State.logRec_fr .liveBeat rfl
@[simp] theorem State.logRec_slot {x1 x2 x3 x4 x5} : (State.logRec s x1 x2 x3 x4 x5).slot = s.slot := State.logRec_fr .slot rfl
@[simp] theorem State.logRec_place {x1 x2 x3 x4 x5} : (State.logRec s x1 x2 x3 x4 x5).place = s.place := State.logRec_fr .place rfl
@[simp] theorem State.logRec_mem {x1 x2 x3 x4 x5} : (State.logRec s x1 x2 x3 x4 x5).mem = s.mem := State.logRec_fr .mem rfl
@[simp] theorem State.logRec_peers {x1 x2 x3 x4 x5} : (State.logRec s x1 x2 x3 x4 x5).peers = s.peers := State.logRec_fr .peers rfl
@[simp] theorem State.logRec_host {x1 x2 x3 x4 x5} : (State.logRec s x1 x2 x3 x4 x5).host = s.host := State.logRec_fr .host rfl
@[simp] theorem State.logRec_boot {x1 x2 x3 x4 x5} : (State.logRec s x1 x2 x3 x4 x5).boot = s.boot := State.logRec_fr .boot rfl
@[simp] theorem State.logRec_power {x1 x2 x3 x4 x5} : (State.logRec s x1 x2 x3 x4 x5).power = s.power := State.logRec_fr .power rfl
@[simp] theorem State.logRec_keeper {x1 x2 x3 x4 x5} : (State.logRec s x1 x2 x3 x4 x5).keeper = s.keeper := State.logRec_fr .keeper rfl
@[simp] theorem State.logRec_fuses {x1 x2 x3 x4 x5} : (State.logRec s x1 x2 x3 x4 x5).fuses = s.fuses := State.logRec_fr .fuses rfl
@[simp] theorem State.logRec_flash {x1 x2 x3 x4 x5} : (State.logRec s x1 x2 x3 x4 x5).flash = s.flash := State.logRec_fr .flash rfl
@[simp] theorem State.logRec_hostMem {x1 x2 x3 x4 x5} : (State.logRec s x1 x2 x3 x4 x5).hostMem = s.hostMem := State.logRec_fr .hostMem rfl
@[simp] theorem State.logRec_out {x1 x2 x3 x4 x5} : (State.logRec s x1 x2 x3 x4 x5).out = s.out := State.logRec_fr .out rfl
@[simp] theorem State.logRec_free {x1 x2 x3 x4 x5} : (State.logRec s x1 x2 x3 x4 x5).free = s.free := State.logRec_fr .free rfl

theorem State.late_fr {x1 x2 x3} : Only [.regs, .safety, .host, .out] s (State.late s x1 x2 x3) := State.late_only (Only.refl _ _) (by decide)
@[simp] theorem State.late_pending {x1 x2 x3} : (State.late s x1 x2 x3).pending = s.pending := State.late_fr .pending rfl
@[simp] theorem State.late_shadows {x1 x2 x3} : (State.late s x1 x2 x3).shadows = s.shadows := State.late_fr .shadows rfl
@[simp] theorem State.late_held {x1 x2 x3} : (State.late s x1 x2 x3).held = s.held := State.late_fr .held rfl
@[simp] theorem State.late_wo {x1 x2 x3} : (State.late s x1 x2 x3).wo = s.wo := State.late_fr .wo rfl
@[simp] theorem State.late_resetN {x1 x2 x3} : (State.late s x1 x2 x3).resetN = s.resetN := State.late_fr .resetN rfl
@[simp] theorem State.late_pwrOk {x1 x2 x3} : (State.late s x1 x2 x3).pwrOk = s.pwrOk := State.late_fr .pwrOk rfl
@[simp] theorem State.late_tl {x1 x2 x3} : (State.late s x1 x2 x3).tl = s.tl := State.late_fr .tl rfl
@[simp] theorem State.late_roots {x1 x2 x3} : (State.late s x1 x2 x3).roots = s.roots := State.late_fr .roots rfl
@[simp] theorem State.late_ports {x1 x2 x3} : (State.late s x1 x2 x3).ports = s.ports := State.late_fr .ports rfl
@[simp] theorem State.late_fdb {x1 x2 x3} : (State.late s x1 x2 x3).fdb = s.fdb := State.late_fr .fdb rfl
@[simp] theorem State.late_ing {x1 x2 x3} : (State.late s x1 x2 x3).ing = s.ing := State.late_fr .ing rfl
@[simp] theorem State.late_store {x1 x2 x3} : (State.late s x1 x2 x3).store = s.store := State.late_fr .store rfl
@[simp] theorem State.late_com {x1 x2 x3} : (State.late s x1 x2 x3).com = s.com := State.late_fr .com rfl
@[simp] theorem State.late_engines {x1 x2 x3} : (State.late s x1 x2 x3).engines = s.engines := State.late_fr .engines rfl
@[simp] theorem State.late_descs {x1 x2 x3} : (State.late s x1 x2 x3).descs = s.descs := State.late_fr .descs rfl
@[simp] theorem State.late_movers {x1 x2 x3} : (State.late s x1 x2 x3).movers = s.movers := State.late_fr .movers rfl
@[simp] theorem State.late_data {x1 x2 x3} : (State.late s x1 x2 x3).data = s.data := State.late_fr .data rfl
@[simp] theorem State.late_solver {x1 x2 x3} : (State.late s x1 x2 x3).solver = s.solver := State.late_fr .solver rfl
@[simp] theorem State.late_live {x1 x2 x3} : (State.late s x1 x2 x3).live = s.live := State.late_fr .live rfl
@[simp] theorem State.late_old {x1 x2 x3} : (State.late s x1 x2 x3).old = s.old := State.late_fr .old rfl
@[simp] theorem State.late_liveBeat {x1 x2 x3} : (State.late s x1 x2 x3).liveBeat = s.liveBeat := State.late_fr .liveBeat rfl
@[simp] theorem State.late_slot {x1 x2 x3} : (State.late s x1 x2 x3).slot = s.slot := State.late_fr .slot rfl
@[simp] theorem State.late_place {x1 x2 x3} : (State.late s x1 x2 x3).place = s.place := State.late_fr .place rfl
@[simp] theorem State.late_mem {x1 x2 x3} : (State.late s x1 x2 x3).mem = s.mem := State.late_fr .mem rfl
@[simp] theorem State.late_peers {x1 x2 x3} : (State.late s x1 x2 x3).peers = s.peers := State.late_fr .peers rfl
@[simp] theorem State.late_boot {x1 x2 x3} : (State.late s x1 x2 x3).boot = s.boot := State.late_fr .boot rfl
@[simp] theorem State.late_power {x1 x2 x3} : (State.late s x1 x2 x3).power = s.power := State.late_fr .power rfl
@[simp] theorem State.late_keeper {x1 x2 x3} : (State.late s x1 x2 x3).keeper = s.keeper := State.late_fr .keeper rfl
@[simp] theorem State.late_fuses {x1 x2 x3} : (State.late s x1 x2 x3).fuses = s.fuses := State.late_fr .fuses rfl
@[simp] theorem State.late_flash {x1 x2 x3} : (State.late s x1 x2 x3).flash = s.flash := State.late_fr .flash rfl
@[simp] theorem State.late_hostMem {x1 x2 x3} : (State.late s x1 x2 x3).hostMem = s.hostMem := State.late_fr .hostMem rfl
@[simp] theorem State.late_free {x1 x2 x3} : (State.late s x1 x2 x3).free = s.free := State.late_fr .free rfl

theorem State.deny_fr {x1 x2 x3 x4} : Only [.regs, .safety, .host, .out] s (State.deny s x1 x2 x3 x4) := State.deny_only (Only.refl _ _) (by decide)
@[simp] theorem State.deny_pending {x1 x2 x3 x4} : (State.deny s x1 x2 x3 x4).pending = s.pending := State.deny_fr .pending rfl
@[simp] theorem State.deny_shadows {x1 x2 x3 x4} : (State.deny s x1 x2 x3 x4).shadows = s.shadows := State.deny_fr .shadows rfl
@[simp] theorem State.deny_held {x1 x2 x3 x4} : (State.deny s x1 x2 x3 x4).held = s.held := State.deny_fr .held rfl
@[simp] theorem State.deny_wo {x1 x2 x3 x4} : (State.deny s x1 x2 x3 x4).wo = s.wo := State.deny_fr .wo rfl
@[simp] theorem State.deny_resetN {x1 x2 x3 x4} : (State.deny s x1 x2 x3 x4).resetN = s.resetN := State.deny_fr .resetN rfl
@[simp] theorem State.deny_pwrOk {x1 x2 x3 x4} : (State.deny s x1 x2 x3 x4).pwrOk = s.pwrOk := State.deny_fr .pwrOk rfl
@[simp] theorem State.deny_tl {x1 x2 x3 x4} : (State.deny s x1 x2 x3 x4).tl = s.tl := State.deny_fr .tl rfl
@[simp] theorem State.deny_roots {x1 x2 x3 x4} : (State.deny s x1 x2 x3 x4).roots = s.roots := State.deny_fr .roots rfl
@[simp] theorem State.deny_ports {x1 x2 x3 x4} : (State.deny s x1 x2 x3 x4).ports = s.ports := State.deny_fr .ports rfl
@[simp] theorem State.deny_fdb {x1 x2 x3 x4} : (State.deny s x1 x2 x3 x4).fdb = s.fdb := State.deny_fr .fdb rfl
@[simp] theorem State.deny_ing {x1 x2 x3 x4} : (State.deny s x1 x2 x3 x4).ing = s.ing := State.deny_fr .ing rfl
@[simp] theorem State.deny_store {x1 x2 x3 x4} : (State.deny s x1 x2 x3 x4).store = s.store := State.deny_fr .store rfl
@[simp] theorem State.deny_com {x1 x2 x3 x4} : (State.deny s x1 x2 x3 x4).com = s.com := State.deny_fr .com rfl
@[simp] theorem State.deny_engines {x1 x2 x3 x4} : (State.deny s x1 x2 x3 x4).engines = s.engines := State.deny_fr .engines rfl
@[simp] theorem State.deny_descs {x1 x2 x3 x4} : (State.deny s x1 x2 x3 x4).descs = s.descs := State.deny_fr .descs rfl
@[simp] theorem State.deny_movers {x1 x2 x3 x4} : (State.deny s x1 x2 x3 x4).movers = s.movers := State.deny_fr .movers rfl
@[simp] theorem State.deny_data {x1 x2 x3 x4} : (State.deny s x1 x2 x3 x4).data = s.data := State.deny_fr .data rfl
@[simp] theorem State.deny_solver {x1 x2 x3 x4} : (State.deny s x1 x2 x3 x4).solver = s.solver := State.deny_fr .solver rfl
@[simp] theorem State.deny_live {x1 x2 x3 x4} : (State.deny s x1 x2 x3 x4).live = s.live := State.deny_fr .live rfl
@[simp] theorem State.deny_old {x1 x2 x3 x4} : (State.deny s x1 x2 x3 x4).old = s.old := State.deny_fr .old rfl
@[simp] theorem State.deny_liveBeat {x1 x2 x3 x4} : (State.deny s x1 x2 x3 x4).liveBeat = s.liveBeat := State.deny_fr .liveBeat rfl
@[simp] theorem State.deny_slot {x1 x2 x3 x4} : (State.deny s x1 x2 x3 x4).slot = s.slot := State.deny_fr .slot rfl
@[simp] theorem State.deny_place {x1 x2 x3 x4} : (State.deny s x1 x2 x3 x4).place = s.place := State.deny_fr .place rfl
@[simp] theorem State.deny_mem {x1 x2 x3 x4} : (State.deny s x1 x2 x3 x4).mem = s.mem := State.deny_fr .mem rfl
@[simp] theorem State.deny_peers {x1 x2 x3 x4} : (State.deny s x1 x2 x3 x4).peers = s.peers := State.deny_fr .peers rfl
@[simp] theorem State.deny_boot {x1 x2 x3 x4} : (State.deny s x1 x2 x3 x4).boot = s.boot := State.deny_fr .boot rfl
@[simp] theorem State.deny_power {x1 x2 x3 x4} : (State.deny s x1 x2 x3 x4).power = s.power := State.deny_fr .power rfl
@[simp] theorem State.deny_keeper {x1 x2 x3 x4} : (State.deny s x1 x2 x3 x4).keeper = s.keeper := State.deny_fr .keeper rfl
@[simp] theorem State.deny_fuses {x1 x2 x3 x4} : (State.deny s x1 x2 x3 x4).fuses = s.fuses := State.deny_fr .fuses rfl
@[simp] theorem State.deny_flash {x1 x2 x3 x4} : (State.deny s x1 x2 x3 x4).flash = s.flash := State.deny_fr .flash rfl
@[simp] theorem State.deny_hostMem {x1 x2 x3 x4} : (State.deny s x1 x2 x3 x4).hostMem = s.hostMem := State.deny_fr .hostMem rfl
@[simp] theorem State.deny_free {x1 x2 x3 x4} : (State.deny s x1 x2 x3 x4).free = s.free := State.deny_fr .free rfl

theorem State.error_fr {x1 x2} : Only [.regs, .safety, .host, .out] s (State.error s x1 x2) := State.error_only (Only.refl _ _) (by decide)
@[simp] theorem State.error_pending {x1 x2} : (State.error s x1 x2).pending = s.pending := State.error_fr .pending rfl
@[simp] theorem State.error_shadows {x1 x2} : (State.error s x1 x2).shadows = s.shadows := State.error_fr .shadows rfl
@[simp] theorem State.error_held {x1 x2} : (State.error s x1 x2).held = s.held := State.error_fr .held rfl
@[simp] theorem State.error_wo {x1 x2} : (State.error s x1 x2).wo = s.wo := State.error_fr .wo rfl
@[simp] theorem State.error_resetN {x1 x2} : (State.error s x1 x2).resetN = s.resetN := State.error_fr .resetN rfl
@[simp] theorem State.error_pwrOk {x1 x2} : (State.error s x1 x2).pwrOk = s.pwrOk := State.error_fr .pwrOk rfl
@[simp] theorem State.error_tl {x1 x2} : (State.error s x1 x2).tl = s.tl := State.error_fr .tl rfl
@[simp] theorem State.error_roots {x1 x2} : (State.error s x1 x2).roots = s.roots := State.error_fr .roots rfl
@[simp] theorem State.error_ports {x1 x2} : (State.error s x1 x2).ports = s.ports := State.error_fr .ports rfl
@[simp] theorem State.error_fdb {x1 x2} : (State.error s x1 x2).fdb = s.fdb := State.error_fr .fdb rfl
@[simp] theorem State.error_ing {x1 x2} : (State.error s x1 x2).ing = s.ing := State.error_fr .ing rfl
@[simp] theorem State.error_store {x1 x2} : (State.error s x1 x2).store = s.store := State.error_fr .store rfl
@[simp] theorem State.error_com {x1 x2} : (State.error s x1 x2).com = s.com := State.error_fr .com rfl
@[simp] theorem State.error_engines {x1 x2} : (State.error s x1 x2).engines = s.engines := State.error_fr .engines rfl
@[simp] theorem State.error_descs {x1 x2} : (State.error s x1 x2).descs = s.descs := State.error_fr .descs rfl
@[simp] theorem State.error_movers {x1 x2} : (State.error s x1 x2).movers = s.movers := State.error_fr .movers rfl
@[simp] theorem State.error_data {x1 x2} : (State.error s x1 x2).data = s.data := State.error_fr .data rfl
@[simp] theorem State.error_solver {x1 x2} : (State.error s x1 x2).solver = s.solver := State.error_fr .solver rfl
@[simp] theorem State.error_live {x1 x2} : (State.error s x1 x2).live = s.live := State.error_fr .live rfl
@[simp] theorem State.error_old {x1 x2} : (State.error s x1 x2).old = s.old := State.error_fr .old rfl
@[simp] theorem State.error_liveBeat {x1 x2} : (State.error s x1 x2).liveBeat = s.liveBeat := State.error_fr .liveBeat rfl
@[simp] theorem State.error_slot {x1 x2} : (State.error s x1 x2).slot = s.slot := State.error_fr .slot rfl
@[simp] theorem State.error_place {x1 x2} : (State.error s x1 x2).place = s.place := State.error_fr .place rfl
@[simp] theorem State.error_mem {x1 x2} : (State.error s x1 x2).mem = s.mem := State.error_fr .mem rfl
@[simp] theorem State.error_peers {x1 x2} : (State.error s x1 x2).peers = s.peers := State.error_fr .peers rfl
@[simp] theorem State.error_boot {x1 x2} : (State.error s x1 x2).boot = s.boot := State.error_fr .boot rfl
@[simp] theorem State.error_power {x1 x2} : (State.error s x1 x2).power = s.power := State.error_fr .power rfl
@[simp] theorem State.error_keeper {x1 x2} : (State.error s x1 x2).keeper = s.keeper := State.error_fr .keeper rfl
@[simp] theorem State.error_fuses {x1 x2} : (State.error s x1 x2).fuses = s.fuses := State.error_fr .fuses rfl
@[simp] theorem State.error_flash {x1 x2} : (State.error s x1 x2).flash = s.flash := State.error_fr .flash rfl
@[simp] theorem State.error_hostMem {x1 x2} : (State.error s x1 x2).hostMem = s.hostMem := State.error_fr .hostMem rfl
@[simp] theorem State.error_free {x1 x2} : (State.error s x1 x2).free = s.free := State.error_fr .free rfl

theorem State.declare_fr {x1 x2 x3 x4 x5} : Only [.regs, .safety, .host, .keeper, .out] s (State.declare s x1 x2 x3 x4 x5) := State.declare_only (Only.refl _ _) (by decide)
@[simp] theorem State.declare_pending {x1 x2 x3 x4 x5} : (State.declare s x1 x2 x3 x4 x5).pending = s.pending := State.declare_fr .pending rfl
@[simp] theorem State.declare_shadows {x1 x2 x3 x4 x5} : (State.declare s x1 x2 x3 x4 x5).shadows = s.shadows := State.declare_fr .shadows rfl
@[simp] theorem State.declare_held {x1 x2 x3 x4 x5} : (State.declare s x1 x2 x3 x4 x5).held = s.held := State.declare_fr .held rfl
@[simp] theorem State.declare_wo {x1 x2 x3 x4 x5} : (State.declare s x1 x2 x3 x4 x5).wo = s.wo := State.declare_fr .wo rfl
@[simp] theorem State.declare_resetN {x1 x2 x3 x4 x5} : (State.declare s x1 x2 x3 x4 x5).resetN = s.resetN := State.declare_fr .resetN rfl
@[simp] theorem State.declare_pwrOk {x1 x2 x3 x4 x5} : (State.declare s x1 x2 x3 x4 x5).pwrOk = s.pwrOk := State.declare_fr .pwrOk rfl
@[simp] theorem State.declare_tl {x1 x2 x3 x4 x5} : (State.declare s x1 x2 x3 x4 x5).tl = s.tl := State.declare_fr .tl rfl
@[simp] theorem State.declare_roots {x1 x2 x3 x4 x5} : (State.declare s x1 x2 x3 x4 x5).roots = s.roots := State.declare_fr .roots rfl
@[simp] theorem State.declare_ports {x1 x2 x3 x4 x5} : (State.declare s x1 x2 x3 x4 x5).ports = s.ports := State.declare_fr .ports rfl
@[simp] theorem State.declare_fdb {x1 x2 x3 x4 x5} : (State.declare s x1 x2 x3 x4 x5).fdb = s.fdb := State.declare_fr .fdb rfl
@[simp] theorem State.declare_ing {x1 x2 x3 x4 x5} : (State.declare s x1 x2 x3 x4 x5).ing = s.ing := State.declare_fr .ing rfl
@[simp] theorem State.declare_store {x1 x2 x3 x4 x5} : (State.declare s x1 x2 x3 x4 x5).store = s.store := State.declare_fr .store rfl
@[simp] theorem State.declare_com {x1 x2 x3 x4 x5} : (State.declare s x1 x2 x3 x4 x5).com = s.com := State.declare_fr .com rfl
@[simp] theorem State.declare_engines {x1 x2 x3 x4 x5} : (State.declare s x1 x2 x3 x4 x5).engines = s.engines := State.declare_fr .engines rfl
@[simp] theorem State.declare_descs {x1 x2 x3 x4 x5} : (State.declare s x1 x2 x3 x4 x5).descs = s.descs := State.declare_fr .descs rfl
@[simp] theorem State.declare_movers {x1 x2 x3 x4 x5} : (State.declare s x1 x2 x3 x4 x5).movers = s.movers := State.declare_fr .movers rfl
@[simp] theorem State.declare_data {x1 x2 x3 x4 x5} : (State.declare s x1 x2 x3 x4 x5).data = s.data := State.declare_fr .data rfl
@[simp] theorem State.declare_solver {x1 x2 x3 x4 x5} : (State.declare s x1 x2 x3 x4 x5).solver = s.solver := State.declare_fr .solver rfl
@[simp] theorem State.declare_live {x1 x2 x3 x4 x5} : (State.declare s x1 x2 x3 x4 x5).live = s.live := State.declare_fr .live rfl
@[simp] theorem State.declare_old {x1 x2 x3 x4 x5} : (State.declare s x1 x2 x3 x4 x5).old = s.old := State.declare_fr .old rfl
@[simp] theorem State.declare_liveBeat {x1 x2 x3 x4 x5} : (State.declare s x1 x2 x3 x4 x5).liveBeat = s.liveBeat := State.declare_fr .liveBeat rfl
@[simp] theorem State.declare_slot {x1 x2 x3 x4 x5} : (State.declare s x1 x2 x3 x4 x5).slot = s.slot := State.declare_fr .slot rfl
@[simp] theorem State.declare_place {x1 x2 x3 x4 x5} : (State.declare s x1 x2 x3 x4 x5).place = s.place := State.declare_fr .place rfl
@[simp] theorem State.declare_mem {x1 x2 x3 x4 x5} : (State.declare s x1 x2 x3 x4 x5).mem = s.mem := State.declare_fr .mem rfl
@[simp] theorem State.declare_peers {x1 x2 x3 x4 x5} : (State.declare s x1 x2 x3 x4 x5).peers = s.peers := State.declare_fr .peers rfl
@[simp] theorem State.declare_boot {x1 x2 x3 x4 x5} : (State.declare s x1 x2 x3 x4 x5).boot = s.boot := State.declare_fr .boot rfl
@[simp] theorem State.declare_power {x1 x2 x3 x4 x5} : (State.declare s x1 x2 x3 x4 x5).power = s.power := State.declare_fr .power rfl
@[simp] theorem State.declare_fuses {x1 x2 x3 x4 x5} : (State.declare s x1 x2 x3 x4 x5).fuses = s.fuses := State.declare_fr .fuses rfl
@[simp] theorem State.declare_flash {x1 x2 x3 x4 x5} : (State.declare s x1 x2 x3 x4 x5).flash = s.flash := State.declare_fr .flash rfl
@[simp] theorem State.declare_hostMem {x1 x2 x3 x4 x5} : (State.declare s x1 x2 x3 x4 x5).hostMem = s.hostMem := State.declare_fr .hostMem rfl
@[simp] theorem State.declare_free {x1 x2 x3 x4 x5} : (State.declare s x1 x2 x3 x4 x5).free = s.free := State.declare_fr .free rfl

theorem State.markRetired_fr {x1 x2} : Only [.safety, .keeper] s (State.markRetired s x1 x2) := State.markRetired_only (Only.refl _ _) (by decide)
@[simp] theorem State.markRetired_pending {x1 x2} : (State.markRetired s x1 x2).pending = s.pending := State.markRetired_fr .pending rfl
@[simp] theorem State.markRetired_regs {x1 x2} : (State.markRetired s x1 x2).regs = s.regs := State.markRetired_fr .regs rfl
@[simp] theorem State.markRetired_shadows {x1 x2} : (State.markRetired s x1 x2).shadows = s.shadows := State.markRetired_fr .shadows rfl
@[simp] theorem State.markRetired_held {x1 x2} : (State.markRetired s x1 x2).held = s.held := State.markRetired_fr .held rfl
@[simp] theorem State.markRetired_wo {x1 x2} : (State.markRetired s x1 x2).wo = s.wo := State.markRetired_fr .wo rfl
@[simp] theorem State.markRetired_resetN {x1 x2} : (State.markRetired s x1 x2).resetN = s.resetN := State.markRetired_fr .resetN rfl
@[simp] theorem State.markRetired_pwrOk {x1 x2} : (State.markRetired s x1 x2).pwrOk = s.pwrOk := State.markRetired_fr .pwrOk rfl
@[simp] theorem State.markRetired_tl {x1 x2} : (State.markRetired s x1 x2).tl = s.tl := State.markRetired_fr .tl rfl
@[simp] theorem State.markRetired_roots {x1 x2} : (State.markRetired s x1 x2).roots = s.roots := State.markRetired_fr .roots rfl
@[simp] theorem State.markRetired_ports {x1 x2} : (State.markRetired s x1 x2).ports = s.ports := State.markRetired_fr .ports rfl
@[simp] theorem State.markRetired_fdb {x1 x2} : (State.markRetired s x1 x2).fdb = s.fdb := State.markRetired_fr .fdb rfl
@[simp] theorem State.markRetired_ing {x1 x2} : (State.markRetired s x1 x2).ing = s.ing := State.markRetired_fr .ing rfl
@[simp] theorem State.markRetired_store {x1 x2} : (State.markRetired s x1 x2).store = s.store := State.markRetired_fr .store rfl
@[simp] theorem State.markRetired_com {x1 x2} : (State.markRetired s x1 x2).com = s.com := State.markRetired_fr .com rfl
@[simp] theorem State.markRetired_engines {x1 x2} : (State.markRetired s x1 x2).engines = s.engines := State.markRetired_fr .engines rfl
@[simp] theorem State.markRetired_descs {x1 x2} : (State.markRetired s x1 x2).descs = s.descs := State.markRetired_fr .descs rfl
@[simp] theorem State.markRetired_movers {x1 x2} : (State.markRetired s x1 x2).movers = s.movers := State.markRetired_fr .movers rfl
@[simp] theorem State.markRetired_data {x1 x2} : (State.markRetired s x1 x2).data = s.data := State.markRetired_fr .data rfl
@[simp] theorem State.markRetired_solver {x1 x2} : (State.markRetired s x1 x2).solver = s.solver := State.markRetired_fr .solver rfl
@[simp] theorem State.markRetired_live {x1 x2} : (State.markRetired s x1 x2).live = s.live := State.markRetired_fr .live rfl
@[simp] theorem State.markRetired_old {x1 x2} : (State.markRetired s x1 x2).old = s.old := State.markRetired_fr .old rfl
@[simp] theorem State.markRetired_liveBeat {x1 x2} : (State.markRetired s x1 x2).liveBeat = s.liveBeat := State.markRetired_fr .liveBeat rfl
@[simp] theorem State.markRetired_slot {x1 x2} : (State.markRetired s x1 x2).slot = s.slot := State.markRetired_fr .slot rfl
@[simp] theorem State.markRetired_place {x1 x2} : (State.markRetired s x1 x2).place = s.place := State.markRetired_fr .place rfl
@[simp] theorem State.markRetired_mem {x1 x2} : (State.markRetired s x1 x2).mem = s.mem := State.markRetired_fr .mem rfl
@[simp] theorem State.markRetired_peers {x1 x2} : (State.markRetired s x1 x2).peers = s.peers := State.markRetired_fr .peers rfl
@[simp] theorem State.markRetired_host {x1 x2} : (State.markRetired s x1 x2).host = s.host := State.markRetired_fr .host rfl
@[simp] theorem State.markRetired_boot {x1 x2} : (State.markRetired s x1 x2).boot = s.boot := State.markRetired_fr .boot rfl
@[simp] theorem State.markRetired_power {x1 x2} : (State.markRetired s x1 x2).power = s.power := State.markRetired_fr .power rfl
@[simp] theorem State.markRetired_fuses {x1 x2} : (State.markRetired s x1 x2).fuses = s.fuses := State.markRetired_fr .fuses rfl
@[simp] theorem State.markRetired_flash {x1 x2} : (State.markRetired s x1 x2).flash = s.flash := State.markRetired_fr .flash rfl
@[simp] theorem State.markRetired_hostMem {x1 x2} : (State.markRetired s x1 x2).hostMem = s.hostMem := State.markRetired_fr .hostMem rfl
@[simp] theorem State.markRetired_out {x1 x2} : (State.markRetired s x1 x2).out = s.out := State.markRetired_fr .out rfl
@[simp] theorem State.markRetired_free {x1 x2} : (State.markRetired s x1 x2).free = s.free := State.markRetired_fr .free rfl

theorem State.setWords_fr {x1 x2 x3} : Only [.regs] s (State.setWords s x1 x2 x3) := State.setWords_only (Only.refl _ _) (by decide)
@[simp] theorem State.setWords_pending {x1 x2 x3} : (State.setWords s x1 x2 x3).pending = s.pending := State.setWords_fr .pending rfl
@[simp] theorem State.setWords_shadows {x1 x2 x3} : (State.setWords s x1 x2 x3).shadows = s.shadows := State.setWords_fr .shadows rfl
@[simp] theorem State.setWords_held {x1 x2 x3} : (State.setWords s x1 x2 x3).held = s.held := State.setWords_fr .held rfl
@[simp] theorem State.setWords_wo {x1 x2 x3} : (State.setWords s x1 x2 x3).wo = s.wo := State.setWords_fr .wo rfl
@[simp] theorem State.setWords_resetN {x1 x2 x3} : (State.setWords s x1 x2 x3).resetN = s.resetN := State.setWords_fr .resetN rfl
@[simp] theorem State.setWords_pwrOk {x1 x2 x3} : (State.setWords s x1 x2 x3).pwrOk = s.pwrOk := State.setWords_fr .pwrOk rfl
@[simp] theorem State.setWords_tl {x1 x2 x3} : (State.setWords s x1 x2 x3).tl = s.tl := State.setWords_fr .tl rfl
@[simp] theorem State.setWords_roots {x1 x2 x3} : (State.setWords s x1 x2 x3).roots = s.roots := State.setWords_fr .roots rfl
@[simp] theorem State.setWords_ports {x1 x2 x3} : (State.setWords s x1 x2 x3).ports = s.ports := State.setWords_fr .ports rfl
@[simp] theorem State.setWords_fdb {x1 x2 x3} : (State.setWords s x1 x2 x3).fdb = s.fdb := State.setWords_fr .fdb rfl
@[simp] theorem State.setWords_ing {x1 x2 x3} : (State.setWords s x1 x2 x3).ing = s.ing := State.setWords_fr .ing rfl
@[simp] theorem State.setWords_store {x1 x2 x3} : (State.setWords s x1 x2 x3).store = s.store := State.setWords_fr .store rfl
@[simp] theorem State.setWords_com {x1 x2 x3} : (State.setWords s x1 x2 x3).com = s.com := State.setWords_fr .com rfl
@[simp] theorem State.setWords_engines {x1 x2 x3} : (State.setWords s x1 x2 x3).engines = s.engines := State.setWords_fr .engines rfl
@[simp] theorem State.setWords_descs {x1 x2 x3} : (State.setWords s x1 x2 x3).descs = s.descs := State.setWords_fr .descs rfl
@[simp] theorem State.setWords_movers {x1 x2 x3} : (State.setWords s x1 x2 x3).movers = s.movers := State.setWords_fr .movers rfl
@[simp] theorem State.setWords_data {x1 x2 x3} : (State.setWords s x1 x2 x3).data = s.data := State.setWords_fr .data rfl
@[simp] theorem State.setWords_solver {x1 x2 x3} : (State.setWords s x1 x2 x3).solver = s.solver := State.setWords_fr .solver rfl
@[simp] theorem State.setWords_live {x1 x2 x3} : (State.setWords s x1 x2 x3).live = s.live := State.setWords_fr .live rfl
@[simp] theorem State.setWords_old {x1 x2 x3} : (State.setWords s x1 x2 x3).old = s.old := State.setWords_fr .old rfl
@[simp] theorem State.setWords_liveBeat {x1 x2 x3} : (State.setWords s x1 x2 x3).liveBeat = s.liveBeat := State.setWords_fr .liveBeat rfl
@[simp] theorem State.setWords_slot {x1 x2 x3} : (State.setWords s x1 x2 x3).slot = s.slot := State.setWords_fr .slot rfl
@[simp] theorem State.setWords_place {x1 x2 x3} : (State.setWords s x1 x2 x3).place = s.place := State.setWords_fr .place rfl
@[simp] theorem State.setWords_mem {x1 x2 x3} : (State.setWords s x1 x2 x3).mem = s.mem := State.setWords_fr .mem rfl
@[simp] theorem State.setWords_peers {x1 x2 x3} : (State.setWords s x1 x2 x3).peers = s.peers := State.setWords_fr .peers rfl
@[simp] theorem State.setWords_safety {x1 x2 x3} : (State.setWords s x1 x2 x3).safety = s.safety := State.setWords_fr .safety rfl
@[simp] theorem State.setWords_host {x1 x2 x3} : (State.setWords s x1 x2 x3).host = s.host := State.setWords_fr .host rfl
@[simp] theorem State.setWords_boot {x1 x2 x3} : (State.setWords s x1 x2 x3).boot = s.boot := State.setWords_fr .boot rfl
@[simp] theorem State.setWords_power {x1 x2 x3} : (State.setWords s x1 x2 x3).power = s.power := State.setWords_fr .power rfl
@[simp] theorem State.setWords_keeper {x1 x2 x3} : (State.setWords s x1 x2 x3).keeper = s.keeper := State.setWords_fr .keeper rfl
@[simp] theorem State.setWords_fuses {x1 x2 x3} : (State.setWords s x1 x2 x3).fuses = s.fuses := State.setWords_fr .fuses rfl
@[simp] theorem State.setWords_flash {x1 x2 x3} : (State.setWords s x1 x2 x3).flash = s.flash := State.setWords_fr .flash rfl
@[simp] theorem State.setWords_hostMem {x1 x2 x3} : (State.setWords s x1 x2 x3).hostMem = s.hostMem := State.setWords_fr .hostMem rfl
@[simp] theorem State.setWords_out {x1 x2 x3} : (State.setWords s x1 x2 x3).out = s.out := State.setWords_fr .out rfl
@[simp] theorem State.setWords_free {x1 x2 x3} : (State.setWords s x1 x2 x3).free = s.free := State.setWords_fr .free rfl

theorem State.rmax_fr {x1 x2} : Only [.regs] s (State.rmax s x1 x2) := State.rmax_only (Only.refl _ _) (by decide)
@[simp] theorem State.rmax_pending {x1 x2} : (State.rmax s x1 x2).pending = s.pending := State.rmax_fr .pending rfl
@[simp] theorem State.rmax_shadows {x1 x2} : (State.rmax s x1 x2).shadows = s.shadows := State.rmax_fr .shadows rfl
@[simp] theorem State.rmax_held {x1 x2} : (State.rmax s x1 x2).held = s.held := State.rmax_fr .held rfl
@[simp] theorem State.rmax_wo {x1 x2} : (State.rmax s x1 x2).wo = s.wo := State.rmax_fr .wo rfl
@[simp] theorem State.rmax_resetN {x1 x2} : (State.rmax s x1 x2).resetN = s.resetN := State.rmax_fr .resetN rfl
@[simp] theorem State.rmax_pwrOk {x1 x2} : (State.rmax s x1 x2).pwrOk = s.pwrOk := State.rmax_fr .pwrOk rfl
@[simp] theorem State.rmax_tl {x1 x2} : (State.rmax s x1 x2).tl = s.tl := State.rmax_fr .tl rfl
@[simp] theorem State.rmax_roots {x1 x2} : (State.rmax s x1 x2).roots = s.roots := State.rmax_fr .roots rfl
@[simp] theorem State.rmax_ports {x1 x2} : (State.rmax s x1 x2).ports = s.ports := State.rmax_fr .ports rfl
@[simp] theorem State.rmax_fdb {x1 x2} : (State.rmax s x1 x2).fdb = s.fdb := State.rmax_fr .fdb rfl
@[simp] theorem State.rmax_ing {x1 x2} : (State.rmax s x1 x2).ing = s.ing := State.rmax_fr .ing rfl
@[simp] theorem State.rmax_store {x1 x2} : (State.rmax s x1 x2).store = s.store := State.rmax_fr .store rfl
@[simp] theorem State.rmax_com {x1 x2} : (State.rmax s x1 x2).com = s.com := State.rmax_fr .com rfl
@[simp] theorem State.rmax_engines {x1 x2} : (State.rmax s x1 x2).engines = s.engines := State.rmax_fr .engines rfl
@[simp] theorem State.rmax_descs {x1 x2} : (State.rmax s x1 x2).descs = s.descs := State.rmax_fr .descs rfl
@[simp] theorem State.rmax_movers {x1 x2} : (State.rmax s x1 x2).movers = s.movers := State.rmax_fr .movers rfl
@[simp] theorem State.rmax_data {x1 x2} : (State.rmax s x1 x2).data = s.data := State.rmax_fr .data rfl
@[simp] theorem State.rmax_solver {x1 x2} : (State.rmax s x1 x2).solver = s.solver := State.rmax_fr .solver rfl
@[simp] theorem State.rmax_live {x1 x2} : (State.rmax s x1 x2).live = s.live := State.rmax_fr .live rfl
@[simp] theorem State.rmax_old {x1 x2} : (State.rmax s x1 x2).old = s.old := State.rmax_fr .old rfl
@[simp] theorem State.rmax_liveBeat {x1 x2} : (State.rmax s x1 x2).liveBeat = s.liveBeat := State.rmax_fr .liveBeat rfl
@[simp] theorem State.rmax_slot {x1 x2} : (State.rmax s x1 x2).slot = s.slot := State.rmax_fr .slot rfl
@[simp] theorem State.rmax_place {x1 x2} : (State.rmax s x1 x2).place = s.place := State.rmax_fr .place rfl
@[simp] theorem State.rmax_mem {x1 x2} : (State.rmax s x1 x2).mem = s.mem := State.rmax_fr .mem rfl
@[simp] theorem State.rmax_peers {x1 x2} : (State.rmax s x1 x2).peers = s.peers := State.rmax_fr .peers rfl
@[simp] theorem State.rmax_safety {x1 x2} : (State.rmax s x1 x2).safety = s.safety := State.rmax_fr .safety rfl
@[simp] theorem State.rmax_host {x1 x2} : (State.rmax s x1 x2).host = s.host := State.rmax_fr .host rfl
@[simp] theorem State.rmax_boot {x1 x2} : (State.rmax s x1 x2).boot = s.boot := State.rmax_fr .boot rfl
@[simp] theorem State.rmax_power {x1 x2} : (State.rmax s x1 x2).power = s.power := State.rmax_fr .power rfl
@[simp] theorem State.rmax_keeper {x1 x2} : (State.rmax s x1 x2).keeper = s.keeper := State.rmax_fr .keeper rfl
@[simp] theorem State.rmax_fuses {x1 x2} : (State.rmax s x1 x2).fuses = s.fuses := State.rmax_fr .fuses rfl
@[simp] theorem State.rmax_flash {x1 x2} : (State.rmax s x1 x2).flash = s.flash := State.rmax_fr .flash rfl
@[simp] theorem State.rmax_hostMem {x1 x2} : (State.rmax s x1 x2).hostMem = s.hostMem := State.rmax_fr .hostMem rfl
@[simp] theorem State.rmax_out {x1 x2} : (State.rmax s x1 x2).out = s.out := State.rmax_fr .out rfl
@[simp] theorem State.rmax_free {x1 x2} : (State.rmax s x1 x2).free = s.free := State.rmax_fr .free rfl

/-! ### What an update of a component leaves in it -/

@[simp] theorem State.onBoot_boot {f} : (s.onBoot f).boot = f s.boot := rfl
@[simp] theorem State.onCom_com {f} : (s.onCom f).com = f s.com := rfl
@[simp] theorem State.onHost_host {f} : (s.onHost f).host = f s.host := rfl
@[simp] theorem State.onMem_mem {f} : (s.onMem f).mem = f s.mem := rfl
@[simp] theorem State.onEngine_engines {e f} : (s.onEngine e f).engines = lmod s.engines e f := rfl
@[simp] theorem State.onPort_ports {p f} : (s.onPort p f).ports = lmod s.ports p f := rfl
@[simp] theorem State.onPeer_peers {p f} : (s.onPeer p f).peers = { s.peers with ports := lmod s.peers.ports p f } := rfl
@[simp] theorem State.onMachine_ing {m f} : (s.onMachine m f).ing = { s.ing with machines := lmod s.ing.machines m f } := rfl
@[simp] theorem State.onChannel_mem {c f} : (s.onChannel c f).mem = { s.mem with channels := lmod s.mem.channels c f } := rfl
@[simp] theorem State.onMover_movers {c f} : (s.onMover c f).movers = lmod s.movers c f := rfl
@[simp] theorem State.onFn_host {f g} : (s.onFn f g).host = { s.host with fns := lmod s.host.fns f g } := rfl
@[simp] theorem State.onBook_place {e f} : (s.onBook e f).place = { s.place with books := lmod s.place.books e f } := rfl
@[simp] theorem State.onDest_com {d f} : (s.onDest d f).com = { s.com with dests := lmod s.com.dests d f } := rfl
@[simp] theorem State.onPeers_peers {f} : (s.onPeers f).peers = f s.peers := rfl
@[simp] theorem State.onPlace_place {f} : (s.onPlace f).place = f s.place := rfl
@[simp] theorem State.onIng_ing {f} : (s.onIng f).ing = f s.ing := rfl
@[simp] theorem State.onPower_power {f} : (s.onPower f).power = f s.power := rfl
@[simp] theorem State.onKeeper_keeper {f} : (s.onKeeper f).keeper = f s.keeper := rfl
@[simp] theorem State.onSafety_safety {f} : (s.onSafety f).safety = f s.safety := rfl
@[simp] theorem State.onSlot_slot {f} : (s.onSlot f).slot = f s.slot := rfl
@[simp] theorem State.onSolver_solver {f} : (s.onSolver f).solver = f s.solver := rfl
@[simp] theorem State.onStore_store {f} : (s.onStore f).store = f s.store := rfl
@[simp] theorem State.onTl_tl {f} : (s.onTl f).tl = f s.tl := rfl
@[simp] theorem State.onRoot_roots {r f} : (s.onRoot r f).roots = lmod s.roots r f := rfl
@[simp] theorem State.took_free : s.took.free = s.free + 1 := rfl
@[simp] theorem State.send_out {x} : (s.send x).out = x :: s.out := rfl

end Sys2Proof.Machine
end

