-- ==== Sys2Proof/WellFormed.lean ====
section
/-! DEFINITION. Well-formed commands: the ranges that the spec gives an operand and its Lean type does not show. -/

namespace Sys2Proof

/-- The header of a received flit: CREDITS is 0 to 255 (R526). -/
def FlitHead.wf (h : FlitHead) : Bool := decide (h.credits ≤ 255)

/-- The content of a PEA flit: 1 to 14 peas (R551). -/
def PeaBody.wf (b : PeaBody) : Bool := decide (1 ≤ b.peas.length ∧ b.peas.length ≤ 14)

/-- The content of a WRITE flit: 1 to 224 bytes, a 16-bit data set, a 40-bit offset (R553). -/
def WriteBody.wf (b : WriteBody) : Bool :=
  decide (1 ≤ b.bytes.length ∧ b.bytes.length ≤ 224 ∧ b.dataSet < 2 ^ 16 ∧ b.offset < 2 ^ 40)

/-- A mover operation's record: six origins and six counts (R352). -/
def MoverOp.wf (o : MoverOp) : Bool := decide (o.srcOrigin.length = 6 ∧ o.dstOrigin.length = 6 ∧ o.count.length = 6)

/-- What a frame boundary finds: 8 rails (R758), and temperatures that DIE_TEMP holds in 8 signed bits (R689). -/
def FrameObs.wf (o : FrameObs) : Bool :=
  decide (o.rails.length = 8 ∧ -128 ≤ o.logicTemp ∧ o.logicTemp < 128 ∧ -128 ≤ o.ioTemp ∧ o.ioTemp < 128)

/-- The range that a command's operands keep. Commands that do not appear have operands of types without other values. -/
def Instr.wf : Instr → Bool
  | .frameReceive _ bytes _ _ _ => decide (4 ≤ bytes.length)
  | .parserExtract _ _ _ width _ => decide (1 ≤ width.val)
  | .parserExtracts _ _ _ width _ => decide (1 ≤ width.val)
  | .deltaBatchArrive b => decide (b.records.length ≤ 4096)
  | .arrayMac _ _ _ _ k _ => decide (k.toNat % 32 = 0)
  | .arrayMacFirst _ _ _ _ k _ => decide (k.toNat % 32 = 0)
  | .loadSlot _ _ _ _ n => decide (1 ≤ n.toNat)
  | .engineEvent _ cause => decide (cause ≠ 0)
  | .moverOpStart _ (some op) => op.wf
  | .frameBoundary o => o.wf
  | .channelBalanceWindow o => decide (o.bytes.length ≤ 16)
  | .powerDomainFault (some (true, c)) => decide (c.val < 18)
  | .recheckEnd _ differs => decide (differs.Nodup)
  | .helloFlit _ h _ => h.wf
  | .updateFlit _ h _ => h.wf
  | .commitFlit _ h _ => h.wf
  | .peaFlit _ h b => h.wf && b.wf
  | .writeFlit _ h _ b => h.wf && b.wf
  | .mirrorFlit _ h entries => h.wf && decide (1 ≤ entries.length ∧ entries.length ≤ 15)
  | .seedFlit _ h entries => h.wf && decide (1 ≤ entries.length ∧ entries.length ≤ 15)
  | .registerWrite _ _ bytes => decide (1 ≤ bytes.length)
  | .loRead _ _ enables => decide (1 ≤ enables.length)
  | .pushWord _ off words => decide (1 ≤ words.length ∧ off.val + words.length ≤ 1024)
  | _ => true

end Sys2Proof
end

