-- ==== Sys2Proof/Tests/Slice0.lean ====
section
/-! SUPPORT. Tests of the model: commands that well-formedness refuses, the worked examples of the spec, and for each statement
of the certificates states and operands that meet its hypotheses. -/

set_option maxRecDepth 8000
set_option linter.unusedVariables false

namespace Sys2Proof.Tests

open Sys2Proof Sys2Proof.Machine

/-- The part in service, its time locked, with a blank image live. -/
def svc : State := { State.reset with
  resetN := true
  boot := { step := 11, inService := true, straps := 1 }
  roots := [{ state := .running }, { state := .standby }]
  live := some {}
  safety := { State.reset.safety with state := .normal }
  tl := { State.reset.tl with servo := .locked, beats := 4096, frames := 4 } }

/-- The part at boot step `k`. -/
def boot (k : Nat) : State := { svc with boot := { step := k, straps := 1 } }

/-- The part with RESET_N low. -/
def rst : State := State.reset

/-- The part in SAFE_HOLD. -/
def held : State := { svc with safety := { svc.safety with state := .safeHold, hbStopped := true } }

/-- The state an outcome goes to. -/
def after : Out → State
  | .next t => t
  | _ => State.reset

/-- A frame of 64 bytes for station address 0 with EtherType `t`. -/
def frame (t : Byte) : List Byte := List.replicate 12 0 ++ [0x88, t] ++ List.replicate 50 0

/-- The part with the link of sensor port 0 up and that of the others down. -/
def linked : State := { svc with ports := { up := true, blockLock := true } :: List.replicate 7 {} }

/-- An item of 20 bytes of a stream with sensors from 5 on, its times the arrival. -/
def item : IngestItem := { id := 0, stream := 0, entry := { sensorBase := 5, maxAge := 1000 }, bytes := List.replicate 20 0x80, stamp := 0, arrival := 0, epoch := 0 }

/-- `svc` with sensors 5 and 1023 in the image and parser machine 15 as given. -/
def parserAt (m : ParserMachine) : State := { svc with
  live := some { config := { poolPods := 8, rate := 4 }, body := { sensors := [(5, {}), (1023, { fixed := false, track := 2 })] } }
  ing := { State.reset.ing with machines := List.replicate 15 {} ++ [m] } }

/-- A pea at the middle of the zone. -/
def pea : Pea := { x := 0, y := 0, z := 0, sensor := 5 }

/-- The cell of `pea`. -/
def cell : Nat := (cellKey 0 0 0).getD 0

/-- The sensors of `parserAt`, an open layer and a waiting pea of frame 0 to file. -/
def filing (it : FileItem) : State := { parserAt {} with
  com := { State.reset.com with layers := [{ frame := 0, epoch := 0 }] }
  store := { fileQ := [it], pods := [(0, { key := podKey cell })], stash := [{ key := podKey cell, kind := .pod }] } }

/-- Engine 0 of `svc` live with context `x`; engines from 1 on are a spare, in self-test, in a radish, retired and off. -/
def engAt (x : EngCtx) (g : Engine := {}) : State := { svc with
  live := some { units := [{ num := 9 }] }
  engines := [{ g with state := .live, live := some x }, { state := .spare, shadow := some x }, { state := .selfTest },
    { state := .radish, radish := some x }, { state := .retired }] ++ List.replicate 15 {} }

/-- A context in the middle of a pass, its vector registers 1 and 2 full of ones. -/
def ctx : EngCtx := { units := [9], passRunning := true, vregs := [(1, List.replicate 64 1), (2, List.replicate 64 1)] }

/-- A record due at the end of the beat message `svc` is in. -/
def due : CommitRecord := { kind := .live, beat := 4, epoch := 0, ord := 1, dead := some 4096, keys := [cell] }

/-- `filing` with its part owning the middle of the zone. -/
def owning (s : State) : State := { s with live := some { config := { poolPods := 8, rate := 4, owned := [-4096, -4096, -4096, 4096, 4096, 4096] } } }

/-- `svc` with DRAM channel 17 as given. -/
def chanAt (c : Channel) : State := { svc with mem := { svc.mem with channels := (svc.mem.channels.take 17) ++ [c] } }

/-- `svc` with mover channel 27 as given, descriptors 1 and 2 and data set 5 of 64 bytes in space 2. -/
def moverAt (c : MoverChannel) : State := { svc with
  movers := List.replicate 27 {} ++ [c] ++ List.replicate 4 {}
  descs := [(1, { desc := { write := true, dataSet := 5, ext := [32, 1, 1, 1, 1, 1], stride := [1, 0, 0, 0, 0, 0] } }),
    (2, { desc := { write := true, dataSet := 6, layout := 5 } })]
  data := [(2 * 65536 + 5, { size := 64, bytes := [(0, 1)] }), (2 * 65536 + 6, { size := 32 }), (2 * 65536 + 0xFFF0, { size := 4096 })] }

/-- `svc` with a fast loop of these tracks, begun with beat message 4033. -/
def fastAt (l : List TrackSolve) : State := { svc with solver := { fast := some { frame := 3, ord := 4033, beat := 0, tracks := l } } }

/-- `svc` with a slow loop begun at frame boundary `n`. -/
def slowAt (n : Nat) (ex : Option (List (Nat × Extrinsic))) : State := { svc with solver := { slow := some { frame := 3, ord := n, accepted := ex } } }

/-- `svc` with the slot in state `x` and 512 bytes to load. -/
def slotAt (x : SlotState) : State := ({ svc with slot := { state := x } } : State).rset Reg.LOAD_LENGTH 512

/-- The bytes of the smallest image whose form and certificate the slot accepts. -/
def blankImage : List Host.Cell := [(0, 0x58), (1, 0x5A), (2, 0x53), (3, 0x49), (4, 1), (6, 1), (8, 0x16), (9, 0x20), (25, 2),
  (32, 64), (33, 1), (40, 148), (49, 2), (264, 64), (265, 1), (320, 0x58), (321, 0x5A), (322, 0x52), (323, 0x43), (324, 2), (325, 1)]

/-- `svc` at coordinate 0x11 with peer port 0 as given and port 5 up. -/
def peerAt (q : PeerPort) : State := { svc with
  live := some { body := { dataSets := [{ num := 0xFFF0, size := 4096 }] } }
  peers := { ports := [q] ++ List.replicate 4 {} ++ [{ state := .up }], coord := some 0x11 }
  descs := (moverAt {}).descs
  data := (moverAt {}).data }

/-- Five lanes, the last a spare. -/
def lanes : List PeerLane := [{ rx := .active 0, tx := .active 0 }, { rx := .active 1, tx := .active 1 }, { rx := .active 2, tx := .active 2 },
  { rx := .active 3, tx := .active 3 }, { rx := .spare, tx := .spare }]

/-- The HELLO that port 0 of `peerAt` accepts. -/
def hello : HelloBody := { port := 1, coord := 0x12 }

/-- A spline version of track 3 that holds still from beat 0 on. -/
def still : Spline := { track := 3, origin := 0, rot := [1073741824, 0, 0, 0, 1073741824, 0, 0, 0, 1073741824], cps := List.replicate 8 {} }

/-- The definition of the register at an offset. -/
def regAt (off : Nat) : RegDef := (findReg off).getD { name := "", base := 0 }

/-- `svc` with slot 7 of the declarations as given, at frame boundary 8. -/
def declAt (d : Declaration) : State := { svc with
  safety := { svc.safety with decls := List.replicate 7 none ++ [some d] }
  tl := { svc.tl with frames := 8 } }

/-- `svc` with the queues of host functions 0 and 1 as given and their completion rings on, of 16 entries each. -/
def hostAt (a b : HostFn) : State :=
  (((({ svc with host := { fns := [a, b] } } : State).rset (hqReg 0 Reg.CPL_CTRL) 1).rset (hqReg 0 Reg.CPL_SIZE) 4).rset
    (hqReg 1 Reg.CPL_CTRL) 1).rset (hqReg 1 Reg.CPL_SIZE) 4

/-- A host function that acts on item 3 of this opcode and payload. -/
def acting (op : Nat) (l : List Word) : HostFn := { current := some (3, ⟨0, 7, op, l⟩), taken := [{ id := 3, tag := 7, opcode := op }] }

/-- The bytes of a CREATE of a descriptor of one element in a host window, as the words of its payload. -/
def newDesc : List Word := [0, 0x01010100, 0x30000000, 1, 0, 0, 0, 0, 0, 0] ++ [1, 1] ++ (List.replicate 5 [1, 0]).flatten ++ List.replicate 10 0

/-- The part at boot step 9 with a host certificate for debug in its mailbox data set and a challenge open. -/
def unlocking : State := { boot 9 with
  boot := { step := 9, straps := 1, challenge := true }
  data := [(2 * 65536 + 0xFFFE, { size := 0x40000, bytes := [(0, 0x58), (1, 0x5A), (2, 0x52), (3, 0x43), (4, 4), (5, 1)] })] }

/-- The part with a mailbox command `w` waiting, its second and third words `n` and `m`, and the smallest firmware that a slot takes. -/
def mbox (w n m : Word) : State :=
  ((({ svc with
    boot := { step := 11, inService := true, straps := 1, mboxBusy := true }
    data := [(2 * 65536 + 0xFFFE, { size := 0x40000, bytes := [(0, 0x58), (1, 0x5A), (2, 0x57), (3, 0x46), (16, 64), (20, 0xA0), (21, 0x75),
      (64, 0x58), (65, 0x5A), (66, 0x52), (67, 0x43), (68, 1), (69, 1)] })] } : State).rset (Reg.MBOX_OUT 0) w).rset (Reg.MBOX_OUT 1) n).rset
    (Reg.MBOX_OUT 2) m

/-- `svc` with a word of the first region of the control window's firewall as given: 0xE04010 lists readers, 0xE04018 writers. -/
def shut (off : Nat) (w : Word) : State := svc.rset off w

/-- Registers with no value that R621, R651, R653 or R585 drops take any value. -/
theorem badValue_free (s : State) (fn low : Nat) (w : Word) (p : Nat)
    (h : low ∉ [Reg.RING_BASE_HI, Reg.RING_SIZE, Reg.RING_READ_HI, Reg.CPL_HEAD, Reg.FAULT_CLEAR])
    (k : (slotIx (Reg.MBOX_OUT 0) 4 8 low).isSome = false) (f : fwWord low = true → (low - 0xE04000) % 0x20 ≠ 4 ∧ (low - 0xE04000) % 0x20 ≠ 12) :
    s.badValue fn low w p = false := by
  simp only [List.mem_cons, List.not_mem_nil, not_or] at h
  unfold State.badValue
  rw [if_neg h.1, if_neg h.2.1, if_neg h.2.2.1, if_neg h.2.2.2.1, if_neg h.2.2.2.2.1, if_neg (by simp [k])]
  split
  · next hf =>
    obtain ⟨a, b⟩ := f hf
    unfold State.fwOrder
    dsimp only
    split
    · next e => exact absurd e a
    · next e => exact absurd e b
    · rfl
  · rfl

/-! ### Each check of `Instr.wf` refuses a command, and one command passes -/

theorem test_wf_accepts : Instr.wf (.frameReceive 7 [0, 0, 0, 0] true 0 0) = true ∧ Instr.wf (.loadSlot 0 .live 0 .vector 1) = true := by decide

theorem test_wf_frame : Instr.wf (.frameReceive 0 [0, 0, 0] true 0 0) = false := by decide

theorem test_wf_extract : Instr.wf (.parserExtract 0 0 0 0 true) = false ∧ Instr.wf (.parserExtracts 0 0 0 0 true) = false := by decide

theorem test_wf_batch (b : DeltaBatch) (h : b.records.length = 4097) : Instr.wf (.deltaBatchArrive b) = false := by simp [Instr.wf, h]

theorem test_wf_mac : Instr.wf (.arrayMac 0 .live .int8 false 33 0) = false ∧ Instr.wf (.arrayMacFirst 0 .live .int8 false 31 0) = false := by
  decide

theorem test_wf_load : Instr.wf (.loadSlot 0 .live 0 .vector 0) = false := by decide

theorem test_wf_engine_event : Instr.wf (.engineEvent 0 0) = false := by decide

theorem test_wf_mover_op : Instr.wf (.moverOpStart 0 (some { op := 0, srcOrigin := [0] })) = false ∧
    Instr.wf (.moverOpStart 0 (some { op := 0, dstOrigin := [] })) = false ∧ Instr.wf (.moverOpStart 0 (some { op := 0, count := [1] })) = false := by
  decide

theorem test_wf_frame_boundary : Instr.wf (.frameBoundary { rails := [] }) = false ∧ Instr.wf (.frameBoundary { logicTemp := 128 }) = false ∧
    Instr.wf (.frameBoundary { ioTemp := -129 }) = false := by decide

theorem test_wf_balance : Instr.wf (.channelBalanceWindow { bytes := List.replicate 17 0 }) = false := by decide

theorem test_wf_power_domain : Instr.wf (.powerDomainFault (some (true, 18))) = false := by decide

theorem test_wf_recheck : Instr.wf (.recheckEnd 0 [3, 3]) = false := by decide

theorem test_wf_credits : Instr.wf (.helloFlit 0 { credits := 256 } hello) = false ∧ Instr.wf (.updateFlit 0 { credits := 256 } hello) = false ∧
    Instr.wf (.commitFlit 0 { credits := 256 } []) = false := by decide

theorem test_wf_pea : Instr.wf (.peaFlit 0 {} { frame := 0, epoch := 0, hops := 0, peas := [] }) = false ∧
    Instr.wf (.peaFlit 0 {} { frame := 0, epoch := 0, hops := 0, peas := List.replicate 15 pea }) = false := by decide

theorem test_wf_write : Instr.wf (.writeFlit 0 {} 0 { dataSet := 0, offset := 0, bytes := [] }) = false ∧
    Instr.wf (.writeFlit 0 {} 0 { dataSet := 65536, offset := 0, bytes := [0] }) = false ∧
    Instr.wf (.writeFlit 0 {} 0 { dataSet := 0, offset := 2 ^ 40, bytes := [0] }) = false := by decide

theorem test_wf_mirror : Instr.wf (.mirrorFlit 0 {} []) = false ∧ Instr.wf (.seedFlit 0 {} []) = false := by decide

theorem test_wf_registers : Instr.wf (.registerWrite .pf0 0 []) = false ∧ Instr.wf (.loRead .pf0 0 []) = false := by decide

theorem test_wf_push : Instr.wf (.pushWord .pf0 0 []) = false ∧ Instr.wf (.pushWord .pf0 1023 [⟨0, 0xF⟩, ⟨0, 0xF⟩]) = false := by decide

/-! ### The worked examples of the spec -/

/-- R8, R193, and the example of 04: cell indices (1341, 922, 1009). -/
theorem test_keys : cellKey 40700 (-13000) (-1902) = some 0x1677D2F655 ∧ podKey 0x1677D2F655 = 0x1277D2F640 ∧
    cellInPod 0x1677D2F655 = 21 ∧ keyRegion 0x1677D2F655 = 119 := by decide

/-- The example of 04: RANGE of (2000, 500, -600) is 8. -/
theorem test_range_code : rangeCode 2000 500 (-600) = 8 := by decide

/-- Track 5 of the example of 04, its rate of descent at the pea's time; `z` adds to CP_20 to CP_22. -/
def lift (z : Int) : Spline where
  track := 5
  origin := 9215981000
  rot := [2 ^ 30, 0, 0, 0, 2 ^ 30, 0, 0, 0, 2 ^ 30]
  cps := List.replicate 19 {} ++ [{ x := 40000 * 256, y := -16000 * 256, z := -2006 * 256 }, { x := 40000 * 256, y := -16000 * 256, z := (-2003 + z) * 256 },
    { x := 40000 * 256, y := -16000 * 256, z := -512128 + z * 256 }, { x := 40000 * 256, y := -16000 * 256, z := -511616 + z * 256 }]

/-- Track 12 of the example of 04: its parent is track 5, it is turned by +90° about z. Y is given in steps of 1/256. -/
def robot : Spline where
  track := 12
  parent := some 5
  origin := 9215981000
  rot := [0, -2 ^ 30, 0, 2 ^ 30, 0, 0, 0, 0, 2 ^ 30]
  cps := List.replicate 19 {} ++ [{ x := 1200 * 256, y := 204698 }, { x := 1200 * 256, y := 204800 }, { x := 1200 * 256, y := 204902 }, { x := 1200 * 256, y := 205005 }]

/-- The zone point of the example of 04, before the lift's version 0x0413 and after it. -/
def liftPoint (z : Int) : Option (List Int) :=
  (compositePose (fun n => if n = 12 then some robot else if n = 5 then some (lift z) else none) 12 (9216001400 * 64)).map
    (fun p => (p.apply (throughExtrinsic { trans := [200 * 256, 0, 700 * 256] } 2000 500 (-600))).map poseRound)

/-- The example of 04: the pea lies at (40 700, -13 000, -1902), and at -1879 once CP_20 to CP_22 rise by 24 units. -/
theorem test_lift_point : liftPoint 0 = some [40700, -13000, -1902] ∧ liftPoint 24 = some [40700, -13000, -1879] := by decide +kernel

/-- The example of 04: cell 21 goes from +1.5 to +2.3125 (0x2500) in frame 9,000,001. -/
theorem test_hit_next_frame : hitCell 256 { logOdds := 0x1800, last := 64 } 9000001 3584 = { logOdds := 0x2500, last := 65 } := by decide

/-- The example of 05: a late detection's three records. -/
theorem test_late_batch : cellBits ([(5, 0x0800), (6, 0xB2), (7, 0x40FE6604CD)].foldl
    (fun c (r : Nat × Nat) => applyDelta 0x20 ⟨BitVec.ofNat 4 r.1, BitVec.ofNat 64 r.2, 0x1677D2F655⟩ c 5000000)
    (bitsCell 0x5F61000000001400)) = 0x5FB2FF3302671820 := by decide

/-- The example of 13: two hits and a head's -3.0 on cell (1149, 1201, 1028). -/
theorem test_lobby_cell : hitCell 0x20 { logOdds := 0x0400, last := 223 } 7500000 3584 = { logOdds := 4576, last := 224 } ∧
    hitCell 0x20 { logOdds := 4576, last := 224 } 7500000 3584 = { logOdds := 0x1FE0, last := 224 } ∧
    sbits 16 (hitCell 0x20 { logOdds := 0x1FE0, last := 224 } 7500000 (-12288)).logOdds = 0xEFE0 := by decide

/-- The example of 03: DECIMATION_LEVEL is 5 at beat 500 and 7 at beat 501. -/
theorem test_decimation : decLevel [(180, 6), (120, 3), (90, 3), (10, 7)] 15 0 = 5 ∧ decLevel [(240, 6), (120, 3), (90, 3), (10, 7)] 15 0 = 7 := by
  decide

/-- The example of 06: the last block of the output's row and column adds 6338 to 29 662. -/
theorem test_mac_block : 29662 + macTerm ((List.replicate 16 (96, scaleWeight 2 0x7B)) ++ List.replicate 15 (-40, scaleWeight 2 0x7B) ++ [(-41, scaleWeight 2 0x7B)])
    (List.replicate 16 (7, scaleWeight 3 0x7C) ++ List.replicate 16 (-3, scaleWeight 3 0x7C)) (-14) = 36000 := by decide

/-- Requantization entry 17 of the example of 06. -/
def entry17 : RequantEntry := { tensor := 0x0123, outFormat := 4, mult := 49152, shift := 21, bias := 1000, rangeLo := -512, rangeHi := 768, clampLo := 0, clampHi := 32767 }

/-- The example of 06: 36 000 in column 5 of row 70 escapes high and becomes 0x0300; the capture reads as the example says. -/
theorem test_escape : let r := svc.requant 7 entry17 [0, 0, 0, 0, 0, 36000] false false 70 3
    lgetD r.2.vals 5 0 = 0x300 ∧ r.2.flags.escape = true ∧ r.1.rget (Reg.ESC_INFO 7) = 0xC0001185 ∧ r.1.rget (Reg.ESC_VALUE 7) = 0x363 ∧
    r.1.rget (Reg.ESC_TENSOR 7) = 0x123 ∧ r.1.rget (Reg.ESC_TILE 7) = 3 := by decide

/-- The destination of the example of 07: injective, of 32 tiles, its last byte 262 143. -/
theorem test_injective : let d : Desc := { layout := 3, format := 1, write := true, rank := 2, statusEn := true, statusOff := 0x40000, ext := [256, 1024, 1, 1, 1, 1], stride := [32768, 32, 0, 0, 0, 0] }
    d.injective = true ∧ d.tiles = 32 ∧ d.bounds = (0, 262143) ∧ d.fits 0x40040 = true ∧ d.fits 0x4001F = false := by decide

/-- The example of 08: the damped pivot of 1061 units has reciprocal root 31.437. -/
theorem test_pivot_root : (rootRsqrt { fa := 20, fr := 24, eps := 64 } 1061).val * 1000 / 2 ^ 24 = 31437 := by decide

/-- The example of 08: 37 units lie under EPS 64, so the pivot is tiny, its index 0. -/
theorem test_pivot_tiny : let t := (engAt { ctx with rootFmts := [(1, { fa := 20, fr := 24, eps := 64 })], vregs := [(1, [37])] }).pivotOp 0 .live 1 2 1 0
    ((t.engine 0).live.map (fun x => (x.root.tiny, x.root.index, x.root.value))) = some (true, 0, 37) := by decide

/-- The time root of the example of 02 at the third outlier. -/
def jumping : State := { svc with
  keeper := { svc.keeper with epochCounter := 0x42 }
  tl := { svc.tl with beat := 12000122 * 1024 + 272, epoch := 0x42, confirm := 2, firstE := -3000041 * 65536 } }

/-- The example of 02: the step is 3001 beats, targeted at frame 12,000,130 with epoch 0x0043; fusion time will trail by 956 ns. -/
theorem test_step_confirmed : (jumping.measure (-3000044 * 65536)).tl.step = some ⟨3001, 12000130, 0x43, 956 * 65536⟩ ∧
    (jumping.measure (-3000044 * 65536)).tl.servo = .stepPending ∧ (jumping.measure (-3000044 * 65536)).keeper.epochCounter = 0x43 := by decide

/-- The example of 12: 3.400 ns becomes SLEW_TERM 222 822, and FREQ_TERM rises by 870. -/
theorem test_follower_steers : let t := ({ after (exec (.resetRelease 1 true) rst) with tl := svc.tl } : State).measure 222822
    t.tl.slewTerm = 222822 ∧ t.tl.freqTerm = 870 ∧ t.tl.inRun = 1 := by decide

/-- The example of 15: aliases of five bits. -/
theorem test_alias : aliasOf 0x2000000 = some (0, 0) ∧ aliasOf 0x2000184 = some (0xC, 1) ∧ aliasOf 0x2020020 = some (0x100000, 8) ∧
    aliasOf 0x21E0184 = some (0xF0000C, 1) ∧ aliasOf 0x21C0234 = some (0xE00010, 13) := by decide

/-- SHAKE256 of no bytes, as FIPS 202 gives it. -/
theorem test_shake : shake256 4 [] = [0x46, 0xB9, 0xDD, 0x2B] := by decide

/-- The example of 15: TIME_COUNT_LO latches the upper word for the reader alone. -/
theorem test_shadow : let s := { svc with tl := { svc.tl with count := 0x12FFFFFFF0 } }
    mget (after (exec (.loRead .pf0 0x101000 [true]) s)).shadows (shadowKey .pf0 0x101004) = some 0x12 ∧
    mget (after (exec (.loRead .pf0 0x101000 [true]) s)).shadows (shadowKey .management 0x101004) = none := by decide

/-- The example of 11: the 17th codeword of channel 17 within the window retires it, and the spare takes its place. -/
theorem test_channel_retires : let t := ({ chanAt { state := .service, stamps := List.replicate 16 (1, 0) } with
      mem := { (chanAt {}).mem with channels := (chanAt { state := .service, stamps := List.replicate 16 (1, 0) }).mem.channels } } : State).countSymbols 17 1
    (t.channel 17).state ≠ .service ∧ t.rbit Reg.MEM_EVENTS 3 = true := by decide

/-- A step takes the first of the waiting commands. -/
theorem test_step_takes_first : (after (step { svc with pending := [.heartbeatStop, .beatBoundary] })).pending = [.beatBoundary] := by decide

/-! ### States and operands that meet the hypotheses of each statement -/


/-- Every clause of `IdleStepIsTick` that has hypotheses is met somewhere. -/
theorem test_meets_idleStepIsTick :
    (∃ s : State, s.pending = [] ∧ (¬ s.up ∨ s.saved)) ∧
    (∃ s : State, s.pending = [] ∧ s.up ∧ ¬ s.saved) :=
  ⟨⟨rst, by decide⟩,
    ⟨svc, by decide⟩⟩

/-- Every clause of `SafePinsInvariant` that has hypotheses is met somewhere. -/
theorem test_meets_safePinsInvariant :
    (∃ s t : State, s.Safe ∧ step s = .next t) :=
  ⟨{ svc with pending := [.powerSag false] }, after (step { svc with pending := [.powerSag false] }), by unfold State.Safe; refine ⟨by decide, rfl⟩⟩

/-- Every clause of `SafeHoldLeftOnlyByReset` that has hypotheses is met somewhere. -/
theorem test_meets_safeHoldLeftOnlyByReset :
    (∃ (c : Instr) (s t : State), s.hold = true ∧ resets c = false ∧ exec c s = .next t) ∧
    (∃ s t : State, s.hold = true ∧ s.pending = [] ∧ step s = .next t) :=
  ⟨⟨.thermalTrip, held, after (exec .thermalTrip held), by refine ⟨by decide, by decide, rfl⟩⟩,
    ⟨held, after (step held), by refine ⟨by decide, by decide, rfl⟩⟩⟩

/-- Every clause of `DebugKillInvariant` that has hypotheses is met somewhere. -/
theorem test_meets_debugKillInvariant :
    (∃ s t : State, s.DebugSafe ∧ step s = .next t) :=
  ⟨{ svc with fuses := { debugKill := 7 }, pending := [.debugUnlock .security true true] }, after (step { svc with fuses := { debugKill := 7 }, pending := [.debugUnlock .security true true] }), by unfold State.DebugSafe; refine ⟨by decide, rfl⟩⟩

/-- Every clause of `CanonicalMemoryInvariant` that has hypotheses is met somewhere. -/
theorem test_meets_canonicalMemoryInvariant :
    (∃ s t : State, s.MemOk ∧ step s = .next t) :=
  ⟨{ svc with pending := [.inService] }, after (step { svc with pending := [.inService] }), by unfold State.MemOk; refine ⟨by decide, rfl⟩⟩

/-- Every clause of `UnitsAndListsInvariant` that has hypotheses is met somewhere. -/
theorem test_meets_unitsAndListsInvariant :
    (∃ s t : State, s.Units ∧ step s = .next t) ∧
    (∃ s t : State, s.Shape ∧ step s = .next t) :=
  ⟨⟨{ svc with pending := [.rootSwitch] }, after (step { svc with pending := [.rootSwitch] }), by unfold State.Units; refine ⟨by decide, rfl⟩⟩,
    ⟨{ svc with pending := [.rootSwitch] }, after (step { svc with pending := [.rootSwitch] }), by unfold State.Shape; refine ⟨by decide, rfl⟩⟩⟩

/-- Every clause of `MonotonicCountersNeverFall` that has hypotheses is met somewhere. -/
theorem test_meets_monotonicCountersNeverFall :
    (∃ s t : State, step s = .next t) :=
  ⟨{ svc with pending := [.pwrOkLoss] }, after (step { svc with pending := [.pwrOkLoss] }), by rfl⟩

/-- Every clause of `ResetCommandsResetAndKeep` that has hypotheses is met somewhere. -/
theorem test_meets_resetCommandsResetAndKeep :
    (∃ (straps : BitVec 12) (refB : Bool) (s : State), s.resetN = false ∧ s.pwrOk = true) ∧
    (∃ (straps : BitVec 12) (refB : Bool) (s : State), (s.resetN = true ∨ s.pwrOk = false)) ∧
    (∃ s : State, s.inServ = false) :=
  ⟨⟨1, true, rst, by decide⟩,
    ⟨1, true, svc, by decide⟩,
    ⟨rst, by decide⟩⟩

/-- Every clause of `BootStepEndAdvances` that has hypotheses is met somewhere. -/
theorem test_meets_bootStepEndAdvances :
    (∃ (o : BootObs) (s : State), (¬ s.up ∨ s.boot.stopped ∨ s.inServ ∨ s.saved)) ∧
    (∃ (o : BootObs) (s : State), s.up ∧ ¬ s.boot.stopped ∧ ¬ s.inServ ∧ ¬ s.saved ∧ s.boot.step = 2 ∧ (lgetD o.roots 0 true = true ∨ lgetD o.roots 1 true = true)) ∧
    (∃ (o : BootObs) (s : State), s.up ∧ ¬ s.boot.stopped ∧ ¬ s.inServ ∧ ¬ s.saved ∧ s.boot.step = 2 ∧ lgetD o.roots 0 true = false ∧ lgetD o.roots 1 true = false) ∧
    (∃ (o : BootObs) (s : State), s.up ∧ ¬ s.boot.stopped ∧ ¬ s.inServ ∧ ¬ s.saved ∧ s.boot.step = 3 ∧ (if o.slotA.security < o.slotB.security then o.slotB else o.slotA).valid s.fuses.fwMin = true) ∧
    (∃ (o : BootObs) (s : State), s.up ∧ ¬ s.boot.stopped ∧ ¬ s.inServ ∧ ¬ s.saved ∧ s.boot.step = 3 ∧ (if o.slotA.security < o.slotB.security then o.slotB else o.slotA).valid s.fuses.fwMin = false ∧ (if o.slotA.security < o.slotB.security then o.slotA else o.slotB).valid s.fuses.fwMin = true) ∧
    (∃ (o : BootObs) (s : State), s.up ∧ ¬ s.boot.stopped ∧ ¬ s.inServ ∧ ¬ s.saved ∧ s.boot.step = 3 ∧ o.slotA.valid s.fuses.fwMin = false ∧ o.slotB.valid s.fuses.fwMin = false) ∧
    (∃ (o : BootObs) (s : State), s.up ∧ ¬ s.boot.stopped ∧ ¬ s.inServ ∧ ¬ s.saved ∧ s.boot.step = 4 ∧ s.fuses.intact = true) ∧
    (∃ (o : BootObs) (s : State), s.up ∧ ¬ s.boot.stopped ∧ ¬ s.inServ ∧ ¬ s.saved ∧ s.boot.step = 4 ∧ s.fuses.intact = false) ∧
    (∃ (o : BootObs) (s : State), s.up ∧ ¬ s.boot.stopped ∧ ¬ s.inServ ∧ ¬ s.saved ∧ s.boot.step = 5) ∧
    (∃ (o : BootObs) (s : State), s.up ∧ ¬ s.boot.stopped ∧ ¬ s.inServ ∧ ¬ s.saved ∧ s.boot.step = 6 ∧ o.keeperOk = false) ∧
    (∃ (o : BootObs) (s : State), s.up ∧ ¬ s.boot.stopped ∧ ¬ s.inServ ∧ ¬ s.saved ∧ s.boot.step = 7) ∧
    (∃ (o : BootObs) (s : State), s.up ∧ ¬ s.boot.stopped ∧ ¬ s.inServ ∧ ¬ s.saved ∧ s.boot.step = 8 ∧ s.boot.failCode ≠ 0) ∧
    (∃ (o : BootObs) (s : State), s.up ∧ ¬ s.boot.stopped ∧ ¬ s.inServ ∧ ¬ s.saved ∧ s.boot.step = 8 ∧ s.boot.failCode = 0) ∧
    (∃ (o : BootObs) (s : State), s.up ∧ ¬ s.boot.stopped ∧ ¬ s.inServ ∧ ¬ s.saved ∧ s.boot.step = 9 ∧ s.live.isSome = true) ∧
    (∃ (o : BootObs) (s : State), s.up ∧ ¬ s.boot.stopped ∧ ¬ s.inServ ∧ ¬ s.saved ∧ s.boot.step = 9 ∧ s.live = none) ∧
    (∃ (o : BootObs) (s : State), s.up ∧ ¬ s.boot.stopped ∧ ¬ s.inServ ∧ ¬ s.saved ∧ s.boot.step = 10 ∧ s.tl.servo = .locked) ∧
    (∃ (o : BootObs) (s : State), s.up ∧ ¬ s.boot.stopped ∧ ¬ s.inServ ∧ ¬ s.saved ∧ s.boot.step = 10 ∧ s.tl.servo ≠ .locked) :=
  ⟨⟨{}, svc, by decide⟩,
    ⟨{ roots := [true, false] }, boot 2, by decide⟩,
    ⟨{ roots := [false, false] }, boot 2, by decide⟩,
    ⟨{ slotA := { security := 1 } }, boot 3, by decide⟩,
    ⟨{ slotA := { security := 1, sig := false } }, boot 3, by decide⟩,
    ⟨{ slotA := { header := false }, slotB := { cert := false } }, boot 3, by decide⟩,
    ⟨{}, boot 4, by decide⟩,
    ⟨{}, { boot 4 with fuses := { serial := 1 } }, by decide⟩,
    ⟨{}, boot 5, by decide⟩,
    ⟨{ keeperOk := false }, boot 6, by decide⟩,
    ⟨{ badEngines := [3] }, boot 7, by decide⟩,
    ⟨{}, { svc with boot := { step := 8, failCode := 4 } }, by decide⟩,
    ⟨{}, boot 8, by decide⟩,
    ⟨{}, boot 9, by decide⟩,
    ⟨{}, { boot 9 with live := none }, by decide⟩,
    ⟨{}, boot 10, by decide⟩,
    ⟨{}, (boot 10).onTl (fun t => { t with servo := .acquire }), by decide⟩⟩

/-- Every clause of `LockTimeoutAndServiceEntry` that has hypotheses is met somewhere. -/
theorem test_meets_lockTimeoutAndServiceEntry :
    (∃ s : State, s.MemOk ∧ s.up ∧ ¬ s.saved ∧ s.boot.step = 11 ∧ ¬ s.inServ ∧ ¬ s.seedWaits) ∧
    (∃ s : State, ¬ (s.up ∧ ¬ s.saved ∧ s.boot.step = 11 ∧ ¬ s.inServ ∧ ¬ s.seedWaits)) ∧
    (∃ s : State, s.MemOk ∧ s.up ∧ ¬ s.saved ∧ s.boot.step = 10 ∧ s.tl.servo ≠ .locked ∧ s.boot.stepAt + 10 * cyclesS ≤ s.now ∧ ¬ s.seedWaits) ∧
    (∃ s : State, s.MemOk ∧ s.up ∧ ¬ s.saved ∧ s.boot.step = 10 ∧ s.tl.servo ≠ .locked ∧ s.boot.stepAt + 10 * cyclesS ≤ s.now ∧ s.seedWaits) ∧
    (∃ s : State, ¬ (s.up ∧ ¬ s.saved ∧ s.boot.step = 10 ∧ s.tl.servo ≠ .locked ∧ s.boot.stepAt + 10 * cyclesS ≤ s.now)) ∧
    (∃ s : State, s.MemOk ∧ s.up ∧ ¬ s.saved ∧ s.seedWaits ∧ s.peers.seedAt + s.rbits Reg.SEED_CFG 15 0 * cyclesMs ≤ s.now ∧ s.boot.step = 11) ∧
    (∃ s : State, s.MemOk ∧ s.up ∧ ¬ s.saved ∧ s.seedWaits ∧ s.peers.seedAt + s.rbits Reg.SEED_CFG 15 0 * cyclesMs ≤ s.now ∧ s.boot.step ≠ 11) ∧
    (∃ s : State, ¬ (s.up ∧ ¬ s.saved ∧ s.seedWaits ∧ s.peers.seedAt + s.rbits Reg.SEED_CFG 15 0 * cyclesMs ≤ s.now)) :=
  ⟨⟨boot 11, by unfold State.MemOk; decide⟩,
    ⟨svc, by decide⟩,
    ⟨(boot 10).onTl (fun t => { t with servo := .acquire, count := BitVec.ofNat 64 (10 * cyclesS) }), by unfold State.MemOk; decide⟩,
    ⟨((boot 10).onTl (fun t => { t with servo := .acquire, count := BitVec.ofNat 64 (10 * cyclesS) })).onPeers (fun p => { p with seedPort := some 5 }), by unfold State.MemOk; decide⟩,
    ⟨(boot 10).onTl (fun t => { t with servo := .acquire, count := BitVec.ofNat 64 (10 * cyclesS - 1) }), by decide⟩,
    ⟨(((boot 11).onPeers (fun p => { p with seedPort := some 5 })).rset Reg.SEED_CFG 2).onTl (fun t => { t with count := BitVec.ofNat 64 (2 * cyclesMs) }), by unfold State.MemOk; decide⟩,
    ⟨(((boot 10).onPeers (fun p => { p with seedPort := some 5 })).rset Reg.SEED_CFG 2).onTl (fun t => { t with count := BitVec.ofNat 64 (2 * cyclesMs) }), by unfold State.MemOk; decide⟩,
    ⟨(((boot 10).onPeers (fun p => { p with seedPort := some 5 })).rset Reg.SEED_CFG 2).onTl (fun t => { t with count := BitVec.ofNat 64 (2 * cyclesMs - 1) }), by decide⟩⟩

/-- Every clause of `ServoTreatsMeasurements` that has hypotheses is met somewhere. -/
theorem test_meets_servoTreatsMeasurements :
    (∃ s : State, s.tl.formed = []) ∧
    (∃ (s : State) (e : Int) (rest : List Int), s.MemOk ∧ s.tl.formed = e :: rest ∧ s.tl.servo = .stepPending) ∧
    (∃ (s : State) (e : Int) (rest : List Int), s.MemOk ∧ s.tl.formed = e :: rest ∧ s.tl.servo ≠ .stepPending ∧ ((s.rget Reg.STEP_THRESHOLD).toNat : Int) * 65536 < e.natAbs) ∧
    (∃ (s : State) (e : Int) (rest : List Int), s.MemOk ∧ s.tl.formed = e :: rest ∧ s.tl.servo ≠ .stepPending ∧ (e.natAbs : Int) ≤ ((s.rget Reg.STEP_THRESHOLD).toNat : Int) * 65536 ∧ s.tl.servo ≠ .catchUp) ∧
    (∃ s : State, upstreamOffsets s ≠ [] ∧ s.up ∧ s.sourceEff = 3) ∧
    (∃ s : State, (upstreamOffsets s = [] ∨ ¬ s.up ∨ s.sourceEff ≠ 3)) :=
  ⟨⟨svc, by decide⟩,
    ⟨svc.onTl (fun t => { t with formed := [5, 6], servo := .stepPending }), 5, [6], by unfold State.MemOk; decide⟩,
    ⟨svc.onTl (fun t => { t with formed := [(svc.rget Reg.STEP_THRESHOLD).toNat * 65536 + 1] }), (svc.rget Reg.STEP_THRESHOLD).toNat * 65536 + 1, [], by unfold State.MemOk; decide⟩,
    ⟨svc.onTl (fun t => { t with formed := [-((svc.rget Reg.STEP_THRESHOLD).toNat * 65536)] }), -((svc.rget Reg.STEP_THRESHOLD).toNat * 65536), [], by unfold State.MemOk; decide⟩,
    ⟨((svc.rset Reg.SERVO_CTRL 3).onTl (fun t => { t with upstream := 32 })).onPeer 5 (fun p => { p with measured := some (-7) }), by decide⟩,
    ⟨svc.rset Reg.SERVO_CTRL 3, by decide⟩⟩

/-- Every clause of `CatchUpAndHoldover` that has hypotheses is met somewhere. -/
theorem test_meets_catchUpAndHoldover :
    (∃ s : State, s.tl.servo = .catchUp ∧ s.residualNow = 0) ∧
    (∃ s : State, (s.tl.servo ≠ .catchUp ∨ s.residualNow ≠ 0)) ∧
    (∃ s : State, s.MemOk ∧ (s.tl.servo = .acquire ∨ s.tl.servo = .locked ∨ s.tl.servo = .catchUp) ∧ s.rbits Reg.HOLDOVER_TIMEOUT 15 0 ≤ s.tl.frames - s.tl.holdBase) ∧
    (∃ s : State, ¬ ((s.tl.servo = .acquire ∨ s.tl.servo = .locked ∨ s.tl.servo = .catchUp) ∧ s.rbits Reg.HOLDOVER_TIMEOUT 15 0 ≤ s.tl.frames - s.tl.holdBase)) :=
  ⟨⟨svc.onTl (fun t => { t with servo := .catchUp }), by decide⟩,
    ⟨svc.onTl (fun t => { t with servo := .catchUp, residual := 1 }), by decide⟩,
    ⟨svc.rset Reg.HOLDOVER_TIMEOUT 4, by unfold State.MemOk; decide⟩,
    ⟨svc.rset Reg.HOLDOVER_TIMEOUT 5, by decide⟩⟩

/-- Every clause of `PpsEdgesAndPulses` that has hypotheses is met somewhere. -/
theorem test_meets_ppsEdgesAndPulses :
    (∃ (count : BitVec 64) (phase : Fin 8) (s : State) (h : TimeEntry), s.MemOk ∧ s.up ∧ s.rbit Reg.PPS_CTRL 0 = true ∧ histAt s.tl.hist count.toNat = some h) ∧
    (∃ (count : BitVec 64) (phase : Fin 8) (s : State), (¬ s.up ∨ s.rbit Reg.PPS_CTRL 0 = false)) ∧
    (∃ s : State, s.MemOk ∧ s.up ∧ s.rbit Reg.PPS_CTRL 0 = true ∧ s.sourceEff = 2 ∧ 2 * cyclesS ≤ s.now - s.tl.ppsIn.getD 0) ∧
    (∃ s : State, ¬ (s.up ∧ s.rbit Reg.PPS_CTRL 0 = true ∧ s.sourceEff = 2 ∧ 2 * cyclesS ≤ s.now - s.tl.ppsIn.getD 0)) ∧
    (∃ s : State, s.up ∧ s.rbit Reg.PPS_CTRL 4 = true ∧ (s.rbit Reg.PPS_CTRL 5 = true ∨ s.tl.servo = .locked ∨ s.tl.servo = .holdover) ∧ (∀ l, s.tl.ppsLastSec = some l → l < s.fusion / secUnits)) ∧
    (∃ (s : State) (l : Int), s.tl.ppsLastSec = some l ∧ s.fusion / secUnits ≤ l) ∧
    (∃ s : State, s.rbit Reg.PPS_CTRL 4 = false) :=
  ⟨⟨0, 7, svc.rset Reg.PPS_CTRL 1, {}, by unfold State.MemOk; decide⟩,
    ⟨0, 7, svc, by decide⟩,
    ⟨((svc.rset Reg.PPS_CTRL 1).rset Reg.SERVO_CTRL 2).onTl (fun t => { t with ppsIn := some 5, count := BitVec.ofNat 64 (2 * cyclesS + 5) }), by unfold State.MemOk; decide⟩,
    ⟨((svc.rset Reg.PPS_CTRL 1).rset Reg.SERVO_CTRL 2).onTl (fun t => { t with ppsIn := some 5, count := BitVec.ofNat 64 (2 * cyclesS + 4) }), by decide⟩,
    ⟨(svc.rset Reg.PPS_CTRL 16).onTl (fun t => { t with offset := secUnits, ppsLastSec := some 0 }), by refine ⟨by decide, by decide, by decide, fun l h => ?_⟩; cases h; decide⟩,
    ⟨svc.onTl (fun t => { t with offset := secUnits, ppsLastSec := some 1 }), 1, by decide⟩,
    ⟨svc, by decide⟩⟩

/-- Every clause of `ClockRootsSwitchAndRetire` that has hypotheses is met somewhere. -/
theorem test_meets_clockRootsSwitchAndRetire :
    (∃ (s : State) (r : Fin 2), s.Units ∧ s.up ∧ (s.root r).state = .running ∧ (s.root (1 - r.val)).state = .standby ∧ ((s.root r).switches.filter (fun t => decide (s.now < t + cyclesS))).length < 2) ∧
    (∃ (s : State) (r : Fin 2), s.Units ∧ s.up ∧ (s.root r).state = .running ∧ (s.root (1 - r.val)).state ≠ .standby ∧ (s.root (1 - r.val)).state ≠ .running) ∧
    (∃ s : State, ¬ s.up) ∧
    (∃ (s : State) (r : Fin 2), s.Units ∧ (s.root r).state = .relocking ∧ (s.root (1 - r.val)).state ≠ .relocking ∧ s.now ≤ (s.root r).failedAt + 10 * cyclesMs) ∧
    (∃ (s : State) (r : Fin 2), s.Units ∧ (s.root r).state = .relocking ∧ (s.root (1 - r.val)).state ≠ .relocking) ∧
    (∃ (ok : Bool) (s : State), (∀ r ∈ s.roots, r.state ≠ .relocking)) ∧
    (∃ (s : State) (r : Fin 2), s.Units ∧ s.up ∧ (s.root r).state = .relocking ∧ (s.root r).failedAt + 10 * cyclesMs ≤ s.now) ∧
    (∃ (s : State) (r : Fin 2), ¬ (s.up ∧ (s.root r).state = .relocking ∧ (s.root r).failedAt + 10 * cyclesMs ≤ s.now)) :=
  ⟨⟨svc, 0, by unfold State.Units; decide⟩,
    ⟨{ svc with roots := [{ state := .retired }, { state := .running }] }, 1, by unfold State.Units; decide⟩,
    ⟨rst, by decide⟩,
    ⟨({ svc with roots := [{ state := .running }, { state := .relocking, failedAt := 3 }] } : State).onTl (fun t => { t with count := BitVec.ofNat 64 (3 + 10 * cyclesMs) }), 1, by unfold State.Units; decide⟩,
    ⟨{ svc with roots := [{ state := .relocking, failedAt := 3 }, { state := .running }] }, 0, by unfold State.Units; decide⟩,
    ⟨false, svc, by decide⟩,
    ⟨({ svc with roots := [{ state := .running }, { state := .relocking, failedAt := 3 }] } : State).onTl (fun t => { t with count := BitVec.ofNat 64 (3 + 10 * cyclesMs) }), 1, by unfold State.Units; decide⟩,
    ⟨({ svc with roots := [{ state := .running }, { state := .relocking, failedAt := 3 }] } : State).onTl (fun t => { t with count := BitVec.ofNat 64 (2 + 10 * cyclesMs) }), 1, by decide⟩⟩

/-- Every clause of `FramesReceivedCountedAndQueued` that has hypotheses is met somewhere. -/
theorem test_meets_framesReceivedCountedAndQueued :
    (∃ (p : Fin 8) (l : List Byte) (ok : Bool) (count : BitVec 64) (phase : Fin 8) (s : State), (¬ s.up ∨ ¬ s.portOn p ∨ s.boot.step < 10)) ∧
    (∃ (p : Fin 8) (l : List Byte) (ok : Bool) (count : BitVec 64) (phase : Fin 8) (s : State), s.MemOk ∧ s.up ∧ s.portOn p ∧ 10 ≤ s.boot.step ∧ (l.length < 64 ∨ 9216 < l.length)) ∧
    (∃ (p : Fin 8) (l : List Byte) (ok : Bool) (count : BitVec 64) (phase : Fin 8) (s : State), s.MemOk ∧ s.up ∧ s.portOn p ∧ 10 ≤ s.boot.step ∧ 64 ≤ l.length ∧ l.length ≤ 9216 ∧ etherType l = 0x8808) ∧
    (∃ (p : Fin 8) (l : List Byte) (count : BitVec 64) (phase : Fin 8) (s : State) (n : Nat) (e : StreamEntry) (h : TimeEntry), s.MemOk ∧ s.up ∧ s.portOn p ∧ 10 ≤ s.boot.step ∧ 64 ≤ l.length ∧ l.length ≤ 9216 ∧ etherType l ≠ 0x8808 ∧ ptpAt l = none ∧ dstMac l = s.stationMac ∧ ¬ (0x0180C2000000 ≤ dstMac l ∧ dstMac l ≤ 0x0180C200000F) ∧ arpFor l (s.rget Reg.IP4_ADDR).toNat = false ∧ solicitFor l s.ip6 = false ∧ s.inServ ∧ ¬ s.hold ∧ ¬ s.saved ∧ histAt s.tl.hist count.toNat = some h ∧ s.streamFor p l = some (n, e) ∧ s.ing.queues.length = 8 ∧ s.queueLevel p + (4 + cdiv l.length 4) ≤ 16384) :=
  ⟨⟨0, [], true, 0, 0, svc, by decide⟩,
    ⟨0, List.replicate 63 0, true, 0, 0, linked, by unfold State.MemOk; decide⟩,
    ⟨0, frame 0x08, true, 0, 0, linked, by unfold State.MemOk; decide⟩,
    ⟨0, frame 0xB5, 0, 0, { linked with live := some { body := { streams := [(4, { etherType := 0x88B5 })] } } }, 4, { etherType := 0x88B5 }, {}, by unfold State.MemOk; decide⟩⟩

/-- Every clause of `SensorLinksRequestsAndTable` that has hypotheses is met somewhere. -/
theorem test_meets_sensorLinksRequestsAndTable :
    (∃ (p : Fin 8) (s : State), s.Units ∧ s.up ∧ s.portOn p ∧ 10 ≤ s.boot.step ∧ s.tcMode = 2 ∧ (∀ c, (s.port p).pdLast = some c → c + cyclesS ≤ s.now) ∧ (s.port p).egress = [[], [], [], []]) ∧
    (∃ (p : Fin 8) (s : State), ¬ (s.up ∧ s.portOn p ∧ 10 ≤ s.boot.step ∧ s.tcMode = 2 ∧ ∀ c, (s.port p).pdLast = some c → c + cyclesS ≤ s.now)) ∧
    (∃ s : State, s.Units ∧ s.up ∧ 10 ≤ s.boot.step ∧ wbit (s.rget Reg.PTP_CTRL) 31 = true ∧ wbit (s.rget Reg.PTP_CTRL) 16 = false ∧ s.portOn (s.rbits Reg.PTP_CTRL 2 0) ∧ s.tl.ptp.master.isSome ∧ (s.port (s.rbits Reg.PTP_CTRL 2 0)).egress = [[], [], [], []]) ∧
    (∃ s : State, ¬ (s.up ∧ 10 ≤ s.boot.step ∧ wbit (s.rget Reg.PTP_CTRL) 31 = true ∧ wbit (s.rget Reg.PTP_CTRL) 16 = false ∧ s.portOn (s.rbits Reg.PTP_CTRL 2 0) ∧ s.tl.ptp.master.isSome)) ∧
    (∃ (p : Fin 8) (s : State), s.Units ∧ s.MemOk ∧ s.up ∧ ¬ (s.port p).retired ∧ s.speed p ≠ 0 ∧ ¬ (s.port p).up ∧ ¬ s.power.serdesOff) ∧
    (∃ (p : Fin 8) (s : State), ¬ (s.up ∧ ¬ (s.port p).retired ∧ s.speed p ≠ 0 ∧ ¬ (s.port p).up ∧ ¬ s.power.serdesOff)) ∧
    (∃ (p : Fin 8) (s : State), s.Units ∧ s.MemOk ∧ s.up ∧ (s.port p).up) ∧
    (∃ (p : Fin 8) (s : State), ¬ (s.up ∧ (s.port p).up)) ∧
    (∃ (p : Fin 8) (lost bad : Bool) (s : State), s.Units ∧ s.up ∧ ¬ (s.port p).retired ∧ s.speed p ≠ 0 ∧ lost = true) ∧
    (∃ (p : Fin 8) (lost bad : Bool) (s : State), (¬ s.up ∨ (s.port p).retired ∨ s.speed p = 0)) :=
  ⟨⟨0, (linked.rset Reg.BRIDGE_CTRL 8).onTl (fun t => { t with count := BitVec.ofNat 64 cyclesS }), by unfold State.Units; refine ⟨by decide, by decide, by decide, by decide, by decide, fun c h => ?_, by decide⟩; revert h; decide +revert⟩,
    ⟨1, linked, by decide⟩,
    ⟨(linked.rset Reg.PTP_CTRL 0x80000000).onTl (fun t => { t with ptp := { master := some ⟨0, 128, 0, 128, 5, 1⟩ } }), by unfold State.Units; decide⟩,
    ⟨linked, by decide⟩,
    ⟨7, linked.rset (Reg.PORT_CFG 7) 1, by unfold State.MemOk State.Units; decide⟩,
    ⟨0, linked, by decide⟩,
    ⟨0, linked, by unfold State.MemOk State.Units; decide⟩,
    ⟨1, linked, by decide⟩,
    ⟨7, true, false, linked.rset (Reg.PORT_CFG 7) 2, by unfold State.Units; decide⟩,
    ⟨7, true, false, linked, by decide⟩⟩

/-- Every clause of `ParserWritesRegisters` that has hypotheses is met somewhere. -/
theorem test_meets_parserWritesRegisters :
    (∃ (s : State) (m : Fin 16) (i : IngestItem), ∃ (dst : Fin 32) (off : BitVec 14) (w : Fin 65) (le : Bool), s.Units ∧ s.Shape ∧ s.runs m i ∧ (s.machine m).base + off.toNat + cdiv w 8 ≤ i.bytes.length) ∧
    (∃ (s : State) (m : Fin 16) (i : IngestItem), ∃ (dst src : Fin 32) (b : ParserArg), s.Units ∧ s.Shape ∧ s.runs m i) ∧
    (∃ (s : State) (m : Fin 16) (i : IngestItem), ∃ (dst r a e : Fin 32), ∃ k : Nat, s.Units ∧ s.Shape ∧ s.runs m i ∧ dst.val < 30 ∧ (k < dst.val ∨ dst.val + 2 < k)) ∧
    (∃ (s : State) (m : Fin 16) (i : IngestItem), ∃ (off : BitVec 14) (le : Bool), s.Units ∧ s.Shape ∧ s.runs m i ∧ i.entry.source = .arrival) :=
  ⟨⟨parserAt { item := some item, base := 10 }, 15, item, 31, 2, 64, true, by unfold State.Units State.Shape State.runs State.parsing; decide⟩,
    ⟨parserAt { item := some item, count := 65535 }, 15, item, 3, 3, .imm 1, by unfold State.Units State.Shape State.runs State.parsing; decide⟩,
    ⟨parserAt { item := some item }, 15, item, 29, 1, 2, 3, 28, by unfold State.Units State.Shape State.runs State.parsing; decide⟩,
    ⟨parserAt { item := some item }, 15, item, 0, false, by unfold State.Units State.Shape State.runs State.parsing; decide⟩⟩

/-- Every clause of `ParserAbandonsItem` that has hypotheses is met somewhere. -/
theorem test_meets_parserAbandonsItem :
    (∃ (s : State) (m : Fin 16) (i : IngestItem), ∃ c : Instr, s.Units ∧ s.MemOk ∧ s.parsing m i ∧ parserOf c = some m ∧ 65536 ≤ (s.machine m).count) ∧
    (∃ (s : State) (m : Fin 16) (i : IngestItem), ∃ (dst : Fin 32) (off : BitVec 14) (w : Fin 65) (le : Bool), s.Units ∧ s.MemOk ∧ s.parsing m i ∧ i.bytes.length < (s.machine m).base + off.toNat + cdiv w 8) ∧
    (∃ (s : State) (m : Fin 16) (i : IngestItem), ∃ (line offset : Fin 32) (start len : BitVec 14) (marker : Bool), s.Units ∧ s.MemOk ∧ s.parsing m i ∧ i.bytes.length < (s.machine m).base + start.toNat + len.toNat) ∧
    (∃ (s : State) (m : Fin 16) (i : IngestItem), ∃ (off : BitVec 14) (le : Bool), s.Units ∧ s.MemOk ∧ s.parsing m i ∧ i.entry.source ≠ .arrival ∧ i.bytes.length < (s.machine m).base + off.toNat + (match i.entry.source with | .payloadPtp => 10 | .payloadNs => 8 | .payloadRtp => 4 | .arrival => 0)) :=
  ⟨⟨parserAt { item := some item, count := 65536 }, 15, item, .parserEmit 15, by unfold State.MemOk State.Units State.parsing; decide⟩,
    ⟨parserAt { item := some item, base := 10 }, 15, item, 31, 3, 64, true, by unfold State.MemOk State.Units State.parsing; decide⟩,
    ⟨parserAt { item := some item }, 15, item, 1, 2, 20, 1, true, by unfold State.MemOk State.Units State.parsing; decide⟩,
    ⟨parserAt { item := some { item with entry := { source := .payloadNs } } }, 15, { item with entry := { source := .payloadNs } }, 13, true, by unfold State.MemOk State.Units State.parsing; decide⟩⟩

/-- Every clause of `ParserControlFlow` that has hypotheses is met somewhere. -/
theorem test_meets_parserControlFlow :
    (∃ (s : State) (m : Fin 16) (i : IngestItem), ∃ (cond : BranchCond) (a : Fin 32) (b : ParserArg) (target : Fin 512), s.Units ∧ s.runs m i ∧ branchTaken cond ((s.machine m).reg a) ((s.machine m).arg b) = true) ∧
    (∃ (s : State) (m : Fin 16) (i : IngestItem), ∃ (cond : BranchCond) (a : Fin 32) (b : ParserArg) (target : Fin 512), s.Units ∧ s.runs m i ∧ branchTaken cond ((s.machine m).reg a) ((s.machine m).arg b) = false) ∧
    (∃ (s : State) (m : Fin 16) (i : IngestItem), ∃ (count : ParserArg) (len : Fin 512) (stride : BitVec 16), s.Units ∧ s.runs m i ∧ ((s.machine m).arg count).toNat ≠ 0 ∧ len.val ≠ 0) ∧
    (∃ (s : State) (m : Fin 16) (i : IngestItem), ∃ (count : ParserArg) (len : Fin 512) (stride : BitVec 16), s.Units ∧ s.runs m i ∧ ((s.machine m).arg count).toNat = 0 ∧ (s.machine m).loops = []) ∧
    (∃ (s : State) (m : Fin 16) (i : IngestItem), s.Units ∧ s.runs m i ∧ s.MemOk) ∧
    (∃ (s : State) (m : Fin 16) (p : Nat) (i : IngestItem), s.Units ∧ s.Shape ∧ s.inServ ∧ ¬ s.hold ∧ (s.machine m).item = none ∧ s.nextItem = some (p, i)) ∧
    (∃ (s : State) (m : Fin 16), (¬ s.inServ ∨ s.hold ∨ (s.machine m).item.isSome ∨ s.nextItem = none)) ∧
    (∃ (s : State) (m : Nat) (i : IngestItem), s.Units ∧ s.releasable = some (m, i) ∧ (s.machine m).out = []) ∧
    (∃ s : State, s.releasable = none) :=
  ⟨⟨parserAt { item := some item }, 15, item, .geu, 1, .reg 2, 511, by unfold State.Units State.runs State.parsing; decide⟩,
    ⟨parserAt { item := some item }, 15, item, .ltu, 1, .reg 2, 511, by unfold State.Units State.runs State.parsing; decide⟩,
    ⟨parserAt { item := some item }, 15, item, .imm 1, 1, 4, by unfold State.Units State.runs State.parsing; decide⟩,
    ⟨parserAt { item := some item }, 15, item, .reg 7, 1, 4, by unfold State.Units State.runs State.parsing; decide⟩,
    ⟨parserAt { item := some item }, 15, item, by unfold State.MemOk State.Units State.runs State.parsing; decide⟩,
    ⟨svc.onIng (fun g => { g with queues := List.replicate 7 [] ++ [[item]] }), 15, 7, item, by unfold State.Units State.Shape; decide⟩,
    ⟨svc, 15, by decide⟩,
    ⟨parserAt { item := some item, ended := true }, 15, item, by unfold State.Units; decide⟩,
    ⟨parserAt { item := some item }, by decide⟩⟩

/-- Every clause of `ParserEmitsOutput` that has hypotheses is met somewhere. -/
theorem test_meets_parserEmitsOutput :
    (∃ (s : State) (m : Fin 16) (i : IngestItem), ∃ (line offset : Fin 32) (start len : BitVec 14) (marker : Bool), s.Units ∧ s.runs m i ∧ (s.machine m).base + start.toNat + len.toNat ≤ i.bytes.length) ∧
    (∃ (s : State) (m : Fin 16) (i : IngestItem), ∃ (kind : Fin 16) (src : Fin 32), s.Units ∧ s.runs m i ∧ i.entry.sensorBase + ((s.machine m).reg 28).toNat ≤ 1023 ∧ (s.sensorAt (i.entry.sensorBase + ((s.machine m).reg 28).toNat) ((s.machine m).recordTime i)).isSome ∧ outsideWindow i ((s.machine m).recordTime i) = false) ∧
    (∃ (s : State) (m : Nat) (i : IngestItem) (p : RawPea), s.Units ∧ s.releasable = some (m, i) ∧ (s.machine m).out = [.pea p] ∧ i.epoch = s.tl.epoch.toNat ∧ s.preEpoch p.time = false ∧ mgetD s.ing.seq p.sensor 0 % stride s.ing.decLevel (s.prioOf p.sensor) = 0 ∧ s.ing.granted < 256) :=
  ⟨⟨parserAt { item := some item }, 15, item, 1, 2, 19, 1, true, by unfold State.Units State.runs State.parsing; decide⟩,
    ⟨parserAt { item := some item }, 15, item, 3, 4, by unfold State.Units State.runs State.parsing; decide⟩,
    ⟨parserAt { item := some item, ended := true, out := [.pea ⟨5, 0, 1, 2, 3, 4, 5, 6⟩] }, 15, item, ⟨5, 0, 1, 2, 3, 4, 5, 6⟩, by unfold State.Units; decide⟩⟩

/-- Every clause of `BeatBoundaryAdvances` that has hypotheses is met somewhere. -/
theorem test_meets_beatBoundaryAdvances :
    (∃ s : State, s.up ∧ (∃ r ∈ s.roots, r.state = .running) ∧ ¬ s.saved ∧ ¬ s.tl.frameDue) ∧
    (∃ s : State, (¬ s.up ∨ (∀ r ∈ s.roots, r.state ≠ .running) ∨ s.saved ∨ s.tl.frameDue)) :=
  ⟨⟨svc, by decide⟩,
    ⟨svc.onTl (fun t => { t with frameDue := true }), by decide⟩⟩

/-- Every clause of `FrameBoundaryCarriesOutItsSteps` that has hypotheses is met somewhere. -/
theorem test_meets_frameBoundaryCarriesOutItsSteps :
    (∃ (o : FrameObs) (s : State), ¬ (s.up ∧ s.tl.frameDue ∧ ¬ s.saved)) ∧
    (∃ (o : FrameObs) (s : State), s.up ∧ s.tl.frameDue ∧ ¬ s.saved ∧ (∀ x, s.tl.step = some x → s.frame < x.frame)) ∧
    (∃ (o : FrameObs) (s : State), ∃ x, s.up ∧ s.tl.frameDue ∧ ¬ s.saved ∧ s.tl.step = some x ∧ x.frame ≤ s.frame) ∧
    (∃ (o : FrameObs) (s : State), s.up ∧ s.tl.frameDue ∧ ¬ s.saved ∧ ((∃ x, s.tl.step = some x ∧ x.frame ≤ s.frame) ∨ s.tl.frameFirst = true)) ∧
    (∃ (o : FrameObs) (s : State), ∃ img, s.up ∧ s.tl.frameDue ∧ ¬ s.saved ∧ (∀ x, s.tl.step = some x → s.frame < x.frame) ∧ s.tl.frameFirst = false ∧ s.place.replacements = [] ∧ s.place.migrations = [] ∧ (∀ y ∈ s.mem.copies, y.done = false) ∧ s.slot.state = .armed ∧ s.slot.image = some img ∧ s.hold = false) :=
  ⟨⟨{}, svc, by decide⟩,
    ⟨{}, svc.onTl (fun t => { t with frameDue := true, beat := 1024, step := some ⟨5, 2, 1, 0⟩ }), by refine ⟨by decide, by decide, by decide, fun x h => ?_⟩; cases h; decide⟩,
    ⟨{}, svc.onTl (fun t => { t with frameDue := true, beat := 1024, step := some ⟨5, 1, 1, 0⟩ }), ⟨5, 1, 1, 0⟩, by decide⟩,
    ⟨{}, svc.onTl (fun t => { t with frameDue := true, frameFirst := true }), by refine ⟨by decide, by decide, by decide, .inr rfl⟩⟩,
    ⟨{}, { svc with slot := { state := .armed, image := some { id := 7 } }, tl := { svc.tl with frameDue := true } }, { id := 7 }, by refine ⟨by decide, by decide, by decide, nofun, ?_⟩; decide⟩⟩

/-- Every clause of `MissedDeadlinesLoseNoKey` that has hypotheses is met somewhere. -/
theorem test_meets_missedDeadlinesLoseNoKey :
    (∃ (n : Fin 7) (s : State), (∀ r ∈ (s.dest n).queue, dueAt s.tl.beats r = false) ∧ (s.dest n).ready = none) ∧
    (∃ (n : Fin 7) (s : State), ∃ r ∈ (s.dest n).queue, s.Units ∧ s.MemOk ∧ (∃ r ∈ (s.dest n).queue, dueAt s.tl.beats r = true) ∧ (s.dest n).ready = none ∧ dueAt s.tl.beats r = true) :=
  ⟨⟨6, svc, by decide⟩,
    ⟨6, svc.onDest 6 (fun d => { d with queue := [⟨.live, 4, 0, 1, some 4096, 0, 0, 0, true, [3], 0, false, 0, false, false, 0, 0, none⟩] }), ⟨.live, 4, 0, 1, some 4096, 0, 0, 0, true, [3], 0, false, 0, false, false, 0, 0, none⟩, by unfold State.MemOk State.Units; decide⟩⟩

/-- Every clause of `DeskewMovesPeasToTheZoneFrame` that has hypotheses is met somewhere. -/
theorem test_meets_deskewMovesPeasToTheZoneFrame :
    (∃ s : State, s.store.deskewQ = []) ∧
    (∃ (s : State) (d : DeskewItem) (rest : List DeskewItem) (e : SensorEntry) (v : List Int), s.MemOk ∧ d.pea.sensor < 1024 ∧ s.store.deskewQ = d :: rest ∧ s.sensorFor d.pea.sensor (d.frame * 65536 + d.pea.timeOffset) = some e ∧ (e.fixed = true ∧ v = throughExtrinsic (mgetD s.store.extrinsics d.pea.sensor e.extrinsic) d.pea.x d.pea.y d.pea.z ∨ e.fixed = false ∧ ∃ w, compositePose (fun n => s.store.versionAt n s.tl.beats) e.track (d.frame * 65536 + d.pea.timeOffset) = some w ∧ v = w.apply (throughExtrinsic (mgetD s.store.extrinsics d.pea.sensor e.extrinsic) d.pea.x d.pea.y d.pea.z))) ∧
    (∃ (s : State) (d : DeskewItem) (rest : List DeskewItem) (e : SensorEntry), s.MemOk ∧ d.pea.sensor < 1024 ∧ s.store.deskewQ = d :: rest ∧ s.sensorFor d.pea.sensor (d.frame * 65536 + d.pea.timeOffset) = some e ∧ e.fixed = false ∧ compositePose (fun n => s.store.versionAt n s.tl.beats) e.track (d.frame * 65536 + d.pea.timeOffset) = none) :=
  ⟨⟨svc, by decide⟩,
    ⟨(parserAt {}).onStore (fun p => { p with deskewQ := [⟨pea, 0, 0⟩] }), ⟨pea, 0, 0⟩, [], {}, [0, 0, 0], by unfold State.MemOk; refine ⟨by decide, by decide, by decide, by decide, .inl (by decide)⟩⟩,
    ⟨(parserAt {}).onStore (fun p => { p with deskewQ := [⟨{ pea with sensor := 1023 }, 0, 0⟩] }), ⟨{ pea with sensor := 1023 }, 0, 0⟩, [], { fixed := false, track := 2 }, by unfold State.MemOk; decide⟩⟩

/-- Every clause of `PeasAreFiledOrRefused` that has hypotheses is met somewhere. -/
theorem test_meets_peasAreFiledOrRefused :
    (∃ s : State, s.store.fileQ = []) ∧
    (∃ (s : State) (it : FileItem) (rest : List FileItem), s.MemOk ∧ s.store.fileQ = it :: rest ∧ it.epoch = s.tl.epoch.toNat ∧ s.preEpoch ((it.frame : Int) * 1024 * beatUnits + (it.pea.timeOffset : Int) * 1024000) = true) ∧
    (∃ (s : State) (it : FileItem) (rest : List FileItem) (d : Nat × Nat), s.MemOk ∧ s.store.fileQ = it :: rest ∧ (it.epoch = s.tl.epoch.toNat → s.preEpoch ((it.frame : Int) * 1024 * beatUnits + (it.pea.timeOffset : Int) * 1024000) = false) ∧ s.judgeDelta it.frame it.epoch = .inr d) ∧
    (∃ (s : State) (it : FileItem) (rest : List FileItem) (i key n : Nat) (e : NodeEntry) (p : Pod) (m : SensorEntry), s.MemOk ∧ s.store.fileQ = it :: rest ∧ (it.epoch = s.tl.epoch.toNat → s.preEpoch ((it.frame : Int) * 1024 * beatUnits + (it.pea.timeOffset : Int) * 1024000) = false) ∧ s.layerOf it.frame it.epoch = some i ∧ s.layerRoom i 1 = true ∧ cellKey it.pea.x it.pea.y it.pea.z = some key ∧ (s.store.lookup (podKey key)).1 = some e ∧ e.kind = .pod ∧ mget s.store.pods e.pool = some p ∧ p.cells.length = 64 ∧ firstFree p.slots = some n ∧ s.sensorFor it.pea.sensor (it.frame * 65536 + it.pea.timeOffset) = some m ∧ it.origin = none) ∧
    (∃ (s : State) (it : FileItem) (rest : List FileItem) (i key : Nat), s.MemOk ∧ s.store.fileQ = it :: rest ∧ (it.epoch = s.tl.epoch.toNat → s.preEpoch ((it.frame : Int) * 1024 * beatUnits + (it.pea.timeOffset : Int) * 1024000) = false) ∧ s.layerOf it.frame it.epoch = some i ∧ s.layerRoom i 1 = true ∧ cellKey it.pea.x it.pea.y it.pea.z = some key ∧ (s.store.lookup (podKey key)).1 = none ∧ s.poolFree = 0 ∧ s.mergedOver key = none) :=
  ⟨⟨svc, by decide⟩,
    ⟨(filing ⟨pea, 0, 0, none, none, 0⟩).onTl (fun t => { t with epochFirst := 1 }), ⟨pea, 0, 0, none, none, 0⟩, [], by unfold State.MemOk; decide⟩,
    ⟨filing ⟨pea, 1, 0, none, none, 0⟩, ⟨pea, 1, 0, none, none, 0⟩, [], (Reg.EARLY_DROPS, 7), by unfold State.MemOk; decide⟩,
    ⟨filing ⟨pea, 0, 0, none, none, 0⟩, ⟨pea, 0, 0, none, none, 0⟩, [], 0, cell, 0, { key := podKey cell, kind := .pod }, { key := podKey cell }, {}, by unfold State.MemOk; decide⟩,
    ⟨{ filing ⟨pea, 0, 0, none, none, 0⟩ with live := some {}, store := { fileQ := [⟨pea, 0, 0, none, none, 0⟩], pods := [(0, { key := 5 })] } }, ⟨pea, 0, 0, none, none, 0⟩, [], 0, cell, by unfold State.MemOk; decide⟩⟩

/-- Every clause of `RevisedVersionsRedeskewPeas` that has hypotheses is met somewhere. -/
theorem test_meets_revisedVersionsRedeskewPeas :
    (∃ s : State, s.store.compareQ = []) ∧
    (∃ (s : State) (a : Nat) (rest : List Nat), s.store.compareQ = a :: rest) ∧
    (∃ s : State, (s.store.candidates = [] ∨ s.config.rate ≤ s.store.redone)) ∧
    (∃ (s : State) (c : Candidate) (rest : List Candidate), s.MemOk ∧ s.store.candidates = c :: rest ∧ s.store.redone < s.config.rate ∧ s.layerOf c.frame c.epoch = none) ∧
    (∃ (s : State) (c : Candidate) (rest : List Candidate) (i : Nat) (l : Layer), s.MemOk ∧ s.store.candidates = c :: rest ∧ s.store.redone < s.config.rate ∧ s.layerOf c.frame c.epoch = some i ∧ s.com.layers[i]? = some l) ∧
    (∃ (s : State) (c : Candidate) (rest : List Candidate) (i : Nat) (l : Layer), ∃ j, s.MemOk ∧ s.store.candidates = c :: rest ∧ s.store.redone < s.config.rate ∧ s.layerOf c.frame c.epoch = some i ∧ s.com.layers[i]? = some l ∧ j ≠ i) :=
  ⟨⟨svc, by decide⟩,
    ⟨svc.onStore (fun p => { p with compareQ := [2, 63] }), 2, [63], by decide⟩,
    ⟨svc, by decide⟩,
    ⟨(parserAt {}).onStore (fun p => { p with redone := 3, candidates := [⟨1, 0, ⟨0, 0, none, 0, 5, 0⟩⟩] }), ⟨1, 0, ⟨0, 0, none, 0, 5, 0⟩⟩, [], by unfold State.MemOk; decide⟩,
    ⟨(filing ⟨pea, 0, 0, none, none, 0⟩).onStore (fun p => { p with redone := 3, candidates := [⟨0, 0, ⟨0, 0, none, 0, 5, 0⟩⟩] }), ⟨0, 0, ⟨0, 0, none, 0, 5, 0⟩⟩, [], 0, { frame := 0, epoch := 0 }, by unfold State.MemOk; decide⟩,
    ⟨(filing ⟨pea, 0, 0, none, none, 0⟩).onStore (fun p => { p with redone := 3, candidates := [⟨0, 0, ⟨0, 0, none, 0, 5, 0⟩⟩] }), ⟨0, 0, ⟨0, 0, none, 0, 5, 0⟩⟩, [], 0, { frame := 0, epoch := 0 }, 1, by unfold State.MemOk; decide⟩⟩

/-- Every clause of `RegionsAreRekeyed` that has hypotheses is met somewhere. -/
theorem test_meets_regionsAreRekeyed :
    (∃ (r : Fin 512) (s : State), (s.store.region r).phase = .pending ∧ s.store.copying < 4) ∧
    (∃ (r : Fin 512) (s : State), ((s.store.region r).phase ≠ .pending ∨ 4 ≤ s.store.copying)) ∧
    (∃ (r : Fin 512) (s : State), (s.store.region r).phase = .copying ∧ (copyRegion s.store r).2 = true) ∧
    (∃ (r : Fin 512) (s : State), ((s.store.region r).phase ≠ .copying ∨ (copyRegion s.store r).2 = false)) ∧
    (∃ (r : Fin 512) (s : State), s.MemOk ∧ (s.store.region r).phase = .draining ∧ (s.store.region r).held = none) ∧
    (∃ (r : Fin 512) (s : State), ∃ w, s.MemOk ∧ (s.store.region r).phase = .draining ∧ (s.store.region r).held = some w) ∧
    (∃ (r : Fin 512) (s : State), (s.store.region r).phase ≠ .draining) :=
  ⟨⟨511, svc.onStore (fun p => { p with regions := [(0, { phase := .copying }), (1, { phase := .copying }), (2, { phase := .copying }), (511, { phase := .pending })] }), by decide⟩,
    ⟨511, svc.onStore (fun p => { p with regions := [(0, { phase := .copying }), (1, { phase := .copying }), (2, { phase := .copying }), (3, { phase := .copying }), (511, { phase := .pending })] }), by decide⟩,
    ⟨511, svc.onStore (fun p => { p with regions := [(511, { phase := .copying })] }), by decide⟩,
    ⟨0, svc, by decide⟩,
    ⟨511, svc.onStore (fun p => { p with regions := [(511, { phase := .draining })] }), by unfold State.MemOk; decide⟩,
    ⟨511, svc.onStore (fun p => { p with regions := [(511, { phase := .draining, held := some 2 })] }), 2, by unfold State.MemOk; decide⟩,
    ⟨511, svc, by decide⟩⟩

/-- Every clause of `AgeingMergingAndRelocation` that has hypotheses is met somewhere. -/
theorem test_meets_ageingMergingAndRelocation :
    (∃ (ix : Nat) (s : State), (¬ s.up ∨ s.live = none ∨ mget s.store.pods ix = none)) ∧
    (∃ (ix : Nat) (s : State) (p : Pod), s.up ∧ s.live.isSome ∧ mget s.store.pods ix = some p ∧ (∃ c ∈ p.cells, effective s.config.decay c s.frame ≠ 0 ∨ c.conf ≠ 0 ∨ c.cls ≠ 0 ∨ behind c s.frame ≤ s.config.depth) ∧ (∀ c ∈ p.cells, c.last < 256)) ∧
    (∃ (ix : Nat) (s : State) (p : Pod), s.MemOk ∧ mrising 0 s.store.pods = true ∧ s.up ∧ s.live.isSome ∧ mget s.store.pods ix = some p ∧ (∀ c ∈ p.cells, effective s.config.decay c s.frame = 0 ∧ c.conf = 0 ∧ c.cls = 0 ∧ s.config.depth < behind c s.frame)) ∧
    (∃ (key : BitVec 48) (s : State), s.store.merging = true ∧ s.mergeChoice = none) ∧
    (∃ (key : BitVec 48) (s : State) (e : NodeEntry), s.store.merging = true ∧ s.mergeChoice = some e ∧ e.key ≠ key.toNat) ∧
    (∃ (key : BitVec 48) (s : State) (e : NodeEntry) (l : Layer), s.MemOk ∧ s.store.merging = true ∧ s.mergeChoice = some e ∧ e.key = key.toNat ∧ s.recordsBelow (s.childEntries e) ≠ [] ∧ s.com.layers[0]? = some l ∧ s.layerRoom 0 1 = true ∧ (∀ r ∈ s.recordsBelow (s.childEntries e), r.1 < 2 ^ 48 ∧ r.2.logOdds.natAbs ≤ 32768)) ∧
    (∃ (key : BitVec 48) (s : State) (ix new : Nat) (hot cool : Nat) (p : Pod), s.MemOk ∧ mrising 0 s.store.pods = true ∧ s.hotCool = some (hot, cool) ∧ s.podAt key.toNat = some ix ∧ mget s.store.pods ix = some p ∧ s.place.imbalance = true ∧ ix % max s.mem.inUse 1 = hot ∧ freeSlot s.store s.poolPods (max s.mem.inUse 1) cool (s.store.pods.length + 2) 0 = some new) ∧
    (∃ (key : BitVec 48) (s : State), (s.place.imbalance = false ∨ s.podAt key.toNat = none)) :=
  ⟨⟨1, filing ⟨pea, 0, 0, none, none, 0⟩, by decide⟩,
    ⟨0, filing ⟨pea, 0, 0, none, none, 0⟩, { key := podKey cell }, by refine ⟨by decide, by decide, by decide, ⟨{}, by decide⟩, by decide⟩⟩,
    ⟨0, (filing ⟨pea, 0, 0, none, none, 0⟩).onTl (fun t => { t with beat := 5 * 1024 }), { key := podKey cell }, by unfold State.MemOk; decide⟩,
    ⟨0, svc.onStore (fun p => { p with merging := true }), by decide⟩,
    ⟨0, ((parserAt {}).onStore (fun p => { p with merging := true, pods := [(0, { key := 9 * 2 ^ 33 })], stash := [⟨8 * 2 ^ 33, .interior, 0, {}, 1, 0⟩, ⟨9 * 2 ^ 33, .pod, 0, {}, 0, 0⟩] })).onTl (fun t => { t with beat := 5 * 1024 }), ⟨8 * 2 ^ 33, .interior, 0, {}, 1, 0⟩, by decide⟩,
    ⟨0x1000000000, ((filing ⟨pea, 0, 0, none, none, 0⟩).onStore (fun p => { p with merging := true, pods := [(0, { key := 9 * 2 ^ 33 })], stash := [⟨8 * 2 ^ 33, .interior, 0, {}, 1, 0⟩, ⟨9 * 2 ^ 33, .pod, 0, {}, 0, 0⟩] })).onTl (fun t => { t with beat := 5 * 1024 }), ⟨8 * 2 ^ 33, .interior, 0, {}, 1, 0⟩, { frame := 0, epoch := 0 }, by unfold State.MemOk; decide⟩,
    ⟨BitVec.ofNat 48 (podKey cell), ((filing ⟨pea, 0, 0, none, none, 0⟩).onPlace (fun p => { p with imbalance := true, hotBytes := [9, 1] })).onMem (fun m => { m with inUse := 2 }), 0, 1, 0, 1, { key := podKey cell }, by unfold State.MemOk; decide⟩,
    ⟨0, svc, by decide⟩⟩

/-- Every clause of `DeltaBatchesArriveAndApply` that has hypotheses is met somewhere. -/
theorem test_meets_deltaBatchesArriveAndApply :
    (∃ (b : DeltaBatch) (s : State), ¬ s.up) ∧
    (∃ (b : DeltaBatch) (s : State), s.up ∧ 1 ≤ b.count.toNat ∧ b.count.toNat ≤ 4096 ∧ lsum (s.com.batches.map (fun x => 16 + 16 * x.records.length)) + 16 + 16 * b.count.toNat ≤ 262144) ∧
    (∃ (b : DeltaBatch) (s : State), s.MemOk ∧ s.up ∧ (b.count.toNat = 0 ∨ 4096 < b.count.toNat ∨ 262144 < lsum (s.com.batches.map (fun x => 16 + 16 * x.records.length)) + 16 + 16 * b.count.toNat)) ∧
    (∃ s : State, (1024 ≤ s.com.applied ∨ s.com.batches = [])) ∧
    (∃ (s : State) (b : DeltaBatch) (rest : List DeltaBatch) (r : DeltaRecord) (rs : List DeltaRecord), s.MemOk ∧ s.com.applied < 1024 ∧ s.com.batches = b :: rest ∧ b.records = r :: rs ∧ (r.kind.toNat < 5 ∨ 7 < r.kind.toNat ∨ keyLevel r.key.toNat ≠ 11 ∨ (r.kind = 6 ∧ 5 ≤ r.value.toNat % 16) ∨ (r.kind = 7 ∧ 128 < r.value.toNat / 2 ^ 32 % 256))) ∧
    (∃ (s : State) (b : DeltaBatch) (rest : List DeltaBatch) (r : DeltaRecord) (rs : List DeltaRecord), s.MemOk ∧ s.com.applied < 1024 ∧ s.com.batches = b :: rest ∧ b.records = r :: rs ∧ badDelta r = false ∧ s.ownsKey (r.key.toNat % 2 ^ 37) = false) ∧
    (∃ (s : State) (b : DeltaBatch) (rest : List DeltaBatch) (r : DeltaRecord) (rs : List DeltaRecord), ∃ (i : Nat) (l : Layer) (e : NodeEntry) (p : Pod), s.MemOk ∧ s.com.applied < 1024 ∧ s.com.batches = b :: rest ∧ b.records = r :: rs ∧ r.kind = 5 ∧ keyLevel r.key.toNat = 11 ∧ s.ownsKey (r.key.toNat % 2 ^ 37) = true ∧ s.layerOf b.frame.toNat b.epoch.toNat = some i ∧ s.layerRoom i 1 = true ∧ s.com.layers[i]? = some l ∧ (s.store.lookup (podKey (r.key.toNat % 2 ^ 37))).1 = some e ∧ e.kind = .pod ∧ mget s.store.pods e.pool = some p ∧ p.cells.length = 64 ∧ (b.frame.toNat % 256 + 256 - (lgetD p.cells (cellInPod (r.key.toNat % 2 ^ 37)) {}).last) % 256 < 128) :=
  ⟨⟨⟨0, 0, 0, 0, [], none⟩, rst, by decide⟩,
    ⟨⟨0, 0, 0, 4096, [], none⟩, svc, by decide⟩,
    ⟨⟨0, 0, 0, 4097, [], none⟩, svc, by unfold State.MemOk; decide⟩,
    ⟨svc, by decide⟩,
    ⟨svc.onCom (fun c => { c with applied := 1023, batches := [⟨0, 0, 0, 1, [⟨6, 5, BitVec.ofNat 48 cell⟩], none⟩] }), ⟨0, 0, 0, 1, [⟨6, 5, BitVec.ofNat 48 cell⟩], none⟩, [], ⟨6, 5, BitVec.ofNat 48 cell⟩, [], by unfold State.MemOk; decide⟩,
    ⟨svc.onCom (fun c => { c with batches := [⟨0, 0, 0, 1, [⟨6, 4, BitVec.ofNat 48 cell⟩], none⟩] }), ⟨0, 0, 0, 1, [⟨6, 4, BitVec.ofNat 48 cell⟩], none⟩, [], ⟨6, 4, BitVec.ofNat 48 cell⟩, [], by unfold State.MemOk; decide⟩,
    ⟨(owning (filing ⟨pea, 0, 0, none, none, 0⟩)).onCom (fun c => { c with batches := [⟨127, 0, 0, 1, [⟨5, 9, BitVec.ofNat 48 cell⟩], none⟩], layers := [{ frame := 127, epoch := 0 }] }), ⟨127, 0, 0, 1, [⟨5, 9, BitVec.ofNat 48 cell⟩], none⟩, [], ⟨5, 9, BitVec.ofNat 48 cell⟩, [], 0, { frame := 127, epoch := 0 }, { key := podKey cell, kind := .pod }, { key := podKey cell }, by unfold State.MemOk; decide⟩⟩

/-- Every clause of `RecordsAreTransmittedInOrder` that has hypotheses is met somewhere. -/
theorem test_meets_recordsAreTransmittedInOrder :
    (∃ (n : Fin 7) (s : State), ((s.dest n).queue = [] ∨ (s.dest n).on = false ∨ (s.dest n).ready.isSome)) ∧
    (∃ (n : Fin 7) (s : State) (r : CommitRecord) (rest : List CommitRecord), (s.dest n).queue = r :: rest ∧ 4096 < s.com.entriesRead + (r.keys.filter (fun k => !s.com.readKeys.contains k)).length) ∧
    (∃ (s : State) (r : CommitRecord) (rest : List CommitRecord), (s.dest 6).queue = r :: rest ∧ s.ringRoom (64 + 16 * r.keys.length) = false) ∧
    (∃ (n : Fin 7) (s : State) (r : CommitRecord) (rest : List CommitRecord), s.Units ∧ (s.dest n).queue = r :: rest ∧ (s.dest n).on = true ∧ (s.dest n).ready = none ∧ s.com.entriesRead + (r.keys.filter (fun k => !s.com.readKeys.contains k)).length ≤ 4096 ∧ (n = 6 → s.ringRoom (64 + 16 * r.keys.length) = true) ∧ n = 6) ∧
    (∃ (n : Fin 7) (s : State) (r : CommitRecord) (rest : List CommitRecord), s.Units ∧ (s.dest n).queue = r :: rest ∧ (s.dest n).on = true ∧ (s.dest n).ready = none ∧ s.com.entriesRead + (r.keys.filter (fun k => !s.com.readKeys.contains k)).length ≤ 4096 ∧ (n = 6 → s.ringRoom (64 + 16 * r.keys.length) = true) ∧ n ≠ 6) :=
  ⟨⟨6, svc, by decide⟩,
    ⟨5, (svc.onDest 5 (fun d => { d with queue := [due] })).onCom (fun c => { c with entriesRead := 4096 }), due, [], by decide⟩,
    ⟨(svc.onDest 6 (fun d => { d with queue := [due] })).rset Reg.RING_WRITE_HI 1, due, [], by decide⟩,
    ⟨6, (svc.onDest 6 (fun d => { d with on := true, queue := [due] })).rset Reg.RING_SIZE 20, due, [], by unfold State.Units; refine ⟨by decide, by decide, by decide, by decide, by decide, fun _ => by decide, by decide⟩⟩,
    ⟨5, svc.onDest 5 (fun d => { d with on := true, queue := [due] }), due, [], by unfold State.Units; refine ⟨by decide, by decide, by decide, by decide, by decide, fun h => absurd h (by decide), by decide⟩⟩⟩

/-- Every clause of `SlotsWaitForTheirContext` that has hypotheses is met somewhere. -/
theorem test_meets_slotsWaitForTheirContext :
    (∃ (i : Instr) (e : Fin 20) (c : CtxSel) (s : State), slotOf i = some (e, c) ∧ (¬ s.up ∨ s.hold ∨ s.saved ∨ s.ctxOf e c = none ∨ ∃ x m k, s.ctxOf e c = some x ∧ x.waiting = some (m, k) ∧ x.tokens &&& m ≠ m)) :=
  ⟨.vecAdd 0 .live 1 2 3, 0, .live, engAt { ctx with waiting := some (3, true), tokens := 1 }, by refine ⟨by decide, .inr (.inr (.inr (.inr ⟨_, 3, true, rfl, rfl, by decide⟩)))⟩⟩

/-- Every clause of `SequencerMovesThroughTheProgram` that has hypotheses is met somewhere. -/
theorem test_meets_sequencerMovesThroughTheProgram :
    (∃ (e : Fin 20) (c : CtxSel) (s : State) (x : EngCtx), ∃ n : BitVec 16, s.Units ∧ s.MemOk ∧ s.issuing e c = some x ∧ n ≠ 0 ∧ x.loops.length < 4) ∧
    (∃ (e : Fin 20) (c : CtxSel) (s : State) (x : EngCtx), ∃ n : BitVec 16, s.Units ∧ s.MemOk ∧ s.issuing e c = some x ∧ n = 0 ∧ x.loops.length < 4) ∧
    (∃ (e : Fin 20) (c : CtxSel) (s : State) (x : EngCtx), ∃ n : BitVec 16, s.Units ∧ s.MemOk ∧ s.issuing e c = some x ∧ 4 ≤ x.loops.length) ∧
    (∃ (e : Fin 20) (c : CtxSel) (s : State) (x : EngCtx), ∃ l ls, s.Units ∧ s.MemOk ∧ s.issuing e c = some x ∧ x.loops = l :: ls) ∧
    (∃ (e : Fin 20) (c : CtxSel) (s : State) (x : EngCtx), s.Units ∧ s.MemOk ∧ s.issuing e c = some x ∧ x.loops = []) ∧
    (∃ (e : Fin 20) (c : CtxSel) (s : State) (x : EngCtx), ∃ o : BitVec 16, s.Units ∧ s.MemOk ∧ s.issuing e c = some x ∧ (∀ i < 64, x.mask.getLsbD i = false)) ∧
    (∃ (e : Fin 20) (c : CtxSel) (s : State) (x : EngCtx), ∃ o : BitVec 16, s.Units ∧ s.MemOk ∧ s.issuing e c = some x ∧ (∃ i < 64, x.mask.getLsbD i = true)) ∧
    (∃ (e : Fin 20) (c : CtxSel) (s : State) (x : EngCtx), ∃ (u : BitVec 16) (n : BitVec 32), ∃ w, s.Units ∧ s.MemOk ∧ s.issuing e c = some x ∧ imgUnit (s.graphOf e c) u.toNat = some w ∧ 0 < w.bound) ∧
    (∃ (e : Fin 20) (c : CtxSel) (s : State) (x : EngCtx), ∃ (u : BitVec 16) (n : BitVec 32), s.Units ∧ s.MemOk ∧ s.issuing e c = some x ∧ x.withheld = true) :=
  ⟨⟨0, .live, engAt { ctx with loops := [⟨0, 1⟩, ⟨0, 1⟩, ⟨0, 1⟩] }, { ctx with loops := [⟨0, 1⟩, ⟨0, 1⟩, ⟨0, 1⟩] }, 1, by unfold State.MemOk State.Units; decide⟩,
    ⟨1, .shadow, engAt ctx, ctx, 0, by unfold State.MemOk State.Units; decide⟩,
    ⟨0, .live, engAt { ctx with loops := [⟨0, 1⟩, ⟨0, 1⟩, ⟨0, 1⟩, ⟨0, 2⟩] }, { ctx with loops := [⟨0, 1⟩, ⟨0, 1⟩, ⟨0, 1⟩, ⟨0, 2⟩] }, 7, by unfold State.MemOk State.Units; decide⟩,
    ⟨0, .live, engAt { ctx with loops := [⟨5, 1⟩] }, { ctx with loops := [⟨5, 1⟩] }, ⟨5, 1⟩, [], by unfold State.MemOk State.Units; decide⟩,
    ⟨3, .live, engAt ctx, ctx, by unfold State.MemOk State.Units; decide⟩,
    ⟨0, .live, engAt ctx, ctx, 0xFFFF, by unfold State.MemOk State.Units; decide⟩,
    ⟨0, .live, engAt { ctx with mask := 0x8000000000000000 }, { ctx with mask := 0x8000000000000000 }, 1, by unfold State.MemOk State.Units; decide⟩,
    ⟨0, .live, engAt ctx, ctx, 9, 5, { num := 9 }, by unfold State.MemOk State.Units; decide⟩,
    ⟨0, .live, engAt { ctx with withheld := true }, { ctx with withheld := true }, 9, 0, by unfold State.MemOk State.Units; decide⟩⟩

/-- Every clause of `ArrayMultipliesAndDrains` that has hypotheses is met somewhere. -/
theorem test_meets_arrayMultipliesAndDrains :
    (∃ (e : Fin 20) (c : CtxSel) (mode : ArrayMode) (bank first : Bool) (k : BitVec 16) (w : BitVec 8) (s : State) (x : EngCtx), ∃ m n, s.Units ∧ s.MemOk ∧ s.issuing e c = some x ∧ ((s.engine e).bank bank).drain = none ∧ k.toNat / 32 * 32 * mode.shape.1 ≤ x.opA.length ∧ k.toNat / 32 * 32 * mode.shape.2 ≤ x.opB.length ∧ m < mode.shape.1 ∧ n < mode.shape.2) ∧
    (∃ (e : Fin 20) (c : CtxSel) (mode : ArrayMode) (bank first : Bool) (k : BitVec 16) (w : BitVec 8) (s : State) (x : EngCtx), s.issuing e c = some x ∧ (((s.engine e).bank bank).drain.isSome ∨ x.opA.length < k.toNat / 32 * 32 * mode.shape.1 ∨ x.opB.length < k.toNat / 32 * 32 * mode.shape.2)) ∧
    (∃ (e : Fin 20) (c : CtxSel) (bank : Bool) (entry : Fin 256) (d : Fin 16) (s : State) (x : EngCtx) (q : RequantEntry), ∃ n, ∃ y : Int, s.Units ∧ s.MemOk ∧ s.issuing e c = some x ∧ mget x.requants entry = some q ∧ q.perCol = false ∧ q.outFormat = 1 ∧ q.rangeLo ≤ q.rangeHi ∧ n < ((s.engine e).bank bank).mode.shape.2 ∧ y = rndDiv ((mgetD ((s.engine e).bank bank).acc ((((s.engine e).bank bank).drain.getD 0) * 64 + n) 0 + q.bias) * (q.mult : Int)) (2 ^ q.shift) ∧ q.rangeLo ≤ y ∧ y ≤ q.rangeHi ∧ q.clampLo ≤ y ∧ y ≤ q.clampHi ∧ -128 ≤ y ∧ y ≤ 127) ∧
    (∃ (e : Fin 20) (c : CtxSel) (bank : Bool) (entry : Fin 256) (d : Fin 16) (s : State) (x : EngCtx) (q : RequantEntry), ∃ n, ∃ y : Int, s.Units ∧ s.MemOk ∧ s.issuing e c = some x ∧ mget x.requants entry = some q ∧ q.perCol = false ∧ q.outFormat = 1 ∧ q.rangeLo ≤ q.rangeHi ∧ n < ((s.engine e).bank bank).mode.shape.2 ∧ y = rndDiv ((mgetD ((s.engine e).bank bank).acc ((((s.engine e).bank bank).drain.getD 0) * 64 + n) 0 + q.bias) * (q.mult : Int)) (2 ^ q.shift) ∧ (y < q.rangeLo ∨ q.rangeHi < y)) :=
  ⟨⟨0, .live, .fx16, true, true, 31, 1, engAt ctx, ctx, 63, 31, by unfold State.MemOk State.Units; decide⟩,
    ⟨0, .live, .int8, false, false, 32, 0, engAt ctx, ctx, by decide⟩,
    ⟨0, .live, true, 255, 0, engAt { ctx with requants := [(255, { mult := 1, rangeLo := -128, rangeHi := 127, clampLo := -128, clampHi := 127 })] } { bankB := { acc := [(63, 127)] } }, { ctx with requants := [(255, { mult := 1, rangeLo := -128, rangeHi := 127, clampLo := -128, clampHi := 127 })] }, { mult := 1, rangeLo := -128, rangeHi := 127, clampLo := -128, clampHi := 127 }, 63, 127, by unfold State.MemOk State.Units; decide⟩,
    ⟨0, .live, true, 255, 0, engAt { ctx with requants := [(255, { mult := 1, rangeLo := -128, rangeHi := 127, clampLo := -128, clampHi := 127 })] } { bankB := { acc := [(63, 128)] } }, { ctx with requants := [(255, { mult := 1, rangeLo := -128, rangeHi := 127, clampLo := -128, clampHi := 127 })] }, { mult := 1, rangeLo := -128, rangeHi := 127, clampLo := -128, clampHi := 127 }, 63, 128, by unfold State.MemOk State.Units; decide⟩⟩

/-- Every clause of `VectorLanesCompute` that has hypotheses is met somewhere. -/
theorem test_meets_vectorLanesCompute :
    (∃ (e : Fin 20) (c : CtxSel) (dst a b imm : Fin 64) (table : Fin 16) (s : State) (x : EngCtx), ∃ p, s.Units ∧ s.MemOk ∧ s.issuing e c = some x ∧ (x.vreg a).length = 64 ∧ (x.vreg b).length = 64 ∧ mget x.pwls table = some p) :=
  ⟨0, .live, 63, 1, 2, 63, 15, engAt { ctx with pwls := [(15, {})] }, { ctx with pwls := [(15, {})] }, {}, by unfold State.MemOk State.Units; decide⟩

/-- Every clause of `VectorMasksAndMoves` that has hypotheses is met somewhere. -/
theorem test_meets_vectorMasksAndMoves :
    (∃ (e : Fin 20) (c : CtxSel) (dst a b : Fin 64) (s : State) (x : EngCtx), ∃ i, s.Units ∧ s.MemOk ∧ s.issuing e c = some x ∧ (x.vreg a).length = 64 ∧ (x.vreg b).length = 64 ∧ i < 64) ∧
    (∃ (e : Fin 20) (c : CtxSel) (dst a b : Fin 64) (s : State) (x : EngCtx), ∃ i, s.Units ∧ s.MemOk ∧ s.issuing e c = some x ∧ (x.vreg a).length = 64 ∧ (x.vreg b).length = 64 ∧ 0 < i ∧ i < 64) ∧
    (∃ (e : Fin 20) (c : CtxSel) (dst a b : Fin 64) (s : State) (x : EngCtx), ∃ (entry : Fin 256) (d : Fin 16) (q : RequantEntry), ∃ i, ∃ y : Int, s.Units ∧ s.MemOk ∧ s.issuing e c = some x ∧ (x.vreg a).length = 64 ∧ (x.vreg b).length = 64 ∧ mget x.requants entry = some q ∧ q.perCol = false ∧ q.outFormat = 1 ∧ i < 64 ∧ y = rndDiv ((laneOf x a i + q.bias) * (q.mult : Int)) (2 ^ q.shift) ∧ q.rangeLo ≤ y ∧ y ≤ q.rangeHi ∧ q.clampLo ≤ y ∧ y ≤ q.clampHi ∧ -128 ≤ y ∧ y ≤ 127) :=
  ⟨⟨3, .live, 0, 1, 2, engAt ctx, ctx, 63, by unfold State.MemOk State.Units; decide⟩,
    ⟨0, .live, 0, 1, 2, engAt ctx, ctx, 63, by unfold State.MemOk State.Units; decide⟩,
    ⟨0, .live, 0, 1, 2, engAt { ctx with requants := [(7, { mult := 1, rangeHi := 1, clampHi := 1 })] }, { ctx with requants := [(7, { mult := 1, rangeHi := 1, clampHi := 1 })] }, 7, 0, { mult := 1, rangeHi := 1, clampHi := 1 }, 63, 1, by unfold State.MemOk State.Units; decide⟩⟩

/-- Every clause of `RootUnitComputes` that has hypotheses is met somewhere. -/
theorem test_meets_rootUnitComputes :
    (∃ (e : Fin 20) (c : CtxSel) (fmt : Fin 16) (dst a b l : Fin 64) (s : State) (x : EngCtx) (f : RootFmt) (n m : Int), s.Units ∧ s.issuing e c = some x ∧ (x.vreg dst).length = 64 ∧ mget x.rootFmts fmt = some f ∧ f.fa ≤ 39 ∧ f.fb ≤ 39 ∧ f.fr ≤ 39 ∧ laneOf x a l = n ∧ laneOf x b l = m ∧ -549755813888 ≤ n ∧ n ≤ 549755813887 ∧ -549755813888 ≤ m ∧ m ≤ 549755813887) :=
  ⟨0, .live, 15, 0, 1, 2, 63, engAt { ctx with rootFmts := [(15, { fa := 39, fb := 39, fr := 39 })], vregs := [(1, List.replicate 63 0 ++ [549755813887]), (2, List.replicate 63 0 ++ [-549755813888])] }, { ctx with rootFmts := [(15, { fa := 39, fb := 39, fr := 39 })], vregs := [(1, List.replicate 63 0 ++ [549755813887]), (2, List.replicate 63 0 ++ [-549755813888])] }, { fa := 39, fb := 39, fr := 39 }, 549755813887, -549755813888, by unfold State.Units; decide⟩

/-- Every clause of `TokensLoadsAndStores` that has hypotheses is met somewhere. -/
theorem test_meets_tokensLoadsAndStores :
    (∃ (e : Fin 20) (c : CtxSel) (s : State) (x : EngCtx), ∃ m : BitVec 32, s.Units ∧ s.MemOk ∧ s.issuing e c = some x ∧ x.tokens &&& m = m) ∧
    (∃ (e : Fin 20) (c : CtxSel) (s : State) (x : EngCtx), ∃ m : BitVec 32, s.Units ∧ s.MemOk ∧ s.issuing e c = some x ∧ x.tokens &&& m ≠ m) ∧
    (∃ (e : Fin 20) (c : CtxSel) (s : State) (x : EngCtx), ∃ m : BitVec 32, s.Units ∧ s.MemOk ∧ s.issuing e c = some x) ∧
    (∃ (e : Fin 20) (c : CtxSel) (s : State) (x : EngCtx), ∃ (d : Fin 16) (dest : LoadDest) (n : BitVec 11), s.Units ∧ s.MemOk ∧ s.issuing e c = some x ∧ mget x.descs d = none) ∧
    (∃ (e : Fin 20) (c : CtxSel) (s : State) (x : EngCtx), ∃ (d : Fin 16) (dest : LoadDest) (n : BitVec 11) (r : DescReg), s.Units ∧ s.MemOk ∧ s.issuing e c = some x ∧ mget x.descs d = some r) ∧
    (∃ (e : Fin 20) (c : CtxSel) (s : State) (x : EngCtx), ∃ (d : Fin 16) (src : StoreSrc), s.Units ∧ s.MemOk ∧ s.issuing e c = some x ∧ (mget x.descs d = none ∨ (∃ r, mget x.descs d = some r ∧ r.desc.write = false)) ∧ (∀ v, src ≠ .vector v)) ∧
    (∃ (e : Fin 20) (c : CtxSel) (s : State) (x : EngCtx), ∃ (d : Fin 16), s.Units ∧ s.MemOk ∧ s.issuing e c = some x ∧ x.xchg = []) ∧
    (∃ (e : Fin 20) (c : CtxSel) (s : State) (x : EngCtx), ∃ (d : Fin 16) (r : DescReg) (b : OutBeat) (rest : List OutBeat), ∃ p, s.Units ∧ s.MemOk ∧ s.issuing e c = some x ∧ mget x.descs d = some r ∧ r.desc.write = true ∧ x.xchg = b :: rest ∧ cwf (s.engine e).store = true ∧ (∀ j, j < b.vals.length → ∀ k, k < 5 → p ≠ x.regionBase r.desc.dataSet + (r.desc.bitAddr (r.desc.clamp (r.at j))).toNat / 8 + k ∧ p ≠ x.regionBase r.desc.dataSet + r.desc.scaleAddr (r.desc.clamp (r.at j)) ∧ p ≠ x.regionBase r.desc.dataSet + r.desc.statusOff + r.desc.tile (r.desc.clamp (r.at j)))) ∧
    (∃ (e : Fin 20) (c : CtxSel) (s : State) (x : EngCtx), ∃ (p : Fin 64) (b : OutBeat) (rest : List OutBeat), s.Units ∧ s.MemOk ∧ s.issuing e c = some x ∧ x.vecOut = b :: rest ∧ b.raw = false ∧ mgetD x.perms p {} = {}) ∧
    (∃ (e : Fin 20) (c : CtxSel) (s : State) (x : EngCtx), ∃ (p : Fin 64) (b : OutBeat) (rest : List OutBeat), s.Units ∧ s.MemOk ∧ s.issuing e c = some x ∧ x.rq = b :: rest ∧ (mgetD x.perms p {}).turn = false) :=
  ⟨⟨0, .live, engAt { ctx with tokens := 0x80000001 }, { ctx with tokens := 0x80000001 }, 0x80000000, by unfold State.MemOk State.Units; decide⟩,
    ⟨0, .live, engAt ctx, ctx, 1, by unfold State.MemOk State.Units; decide⟩,
    ⟨0, .live, engAt ctx, ctx, 0xFFFFFFFF, by unfold State.MemOk State.Units; decide⟩,
    ⟨0, .live, engAt ctx, ctx, 15, .vector, 1024, by unfold State.MemOk State.Units; decide⟩,
    ⟨0, .live, engAt { ctx with descs := [(15, { desc := {} })] }, { ctx with descs := [(15, { desc := {} })] }, 15, .operandA, 1, { desc := {} }, by unfold State.MemOk State.Units; decide⟩,
    ⟨0, .live, engAt ctx, ctx, 15, .exchange, by unfold State.MemOk State.Units; refine ⟨by decide, by decide, by decide, .inl (by decide), nofun⟩⟩,
    ⟨0, .live, engAt ctx, ctx, 0, by unfold State.MemOk State.Units; decide⟩,
    ⟨0, .live, engAt { ctx with descs := [(15, { desc := { write := true } })], xchg := [{ vals := [5] }] }, { ctx with descs := [(15, { desc := { write := true } })], xchg := [{ vals := [5] }] }, 15, { desc := { write := true } }, { vals := [5] }, [], 70, by unfold State.MemOk State.Units; refine ⟨by decide, by decide, by decide, by decide, by decide, by decide, by decide, ?_⟩; decide⟩,
    ⟨0, .live, engAt { ctx with vecOut := [{ vals := [5] }] }, { ctx with vecOut := [{ vals := [5] }] }, 63, { vals := [5] }, [], by unfold State.MemOk State.Units; decide⟩,
    ⟨0, .live, engAt { ctx with rq := [{ vals := [5] }] }, { ctx with rq := [{ vals := [5] }] }, 63, { vals := [5] }, [], by unfold State.MemOk State.Units; decide⟩⟩

/-- Every clause of `EngineStatesFollowTheirCommands` that has hypotheses is met somewhere. -/
theorem test_meets_engineStatesFollowTheirCommands :
    (∃ (e : Fin 20) (s : State), ∃ l : CtxLoad, s.Units ∧ s.MemOk ∧ s.up ∧ ¬ s.hold ∧ ¬ s.saved ∧ l.descs = [] ∧ ((s.engine e).state = .spare ∨ (s.engine e).state = .live)) ∧
    (∃ (e : Fin 20) (s : State), ∃ l : CtxLoad, s.Units ∧ s.MemOk ∧ (¬ s.up ∨ s.hold ∨ s.saved)) ∧
    (∃ (e : Fin 20) (s : State), ∃ l : CtxLoad, s.Units ∧ s.MemOk ∧ (s.engine e).state ≠ .spare ∧ (s.engine e).state ≠ .live) ∧
    (∃ (e : Fin 20) (s : State), ∃ x, s.Units ∧ s.MemOk ∧ s.up ∧ ¬ s.saved ∧ ((s.engine e).state = .spare ∨ (s.engine e).state = .live) ∧ (s.engine e).shadow = some x) ∧
    (∃ (e : Fin 20) (s : State), s.Units ∧ s.MemOk ∧ ((s.engine e).shadow = none ∨ ((s.engine e).state ≠ .spare ∧ (s.engine e).state ≠ .live))) ∧
    (∃ (e : Fin 20) (s : State), s.Units ∧ s.MemOk ∧ s.up ∧ ¬ s.saved ∧ (s.engine e).state = .live) ∧
    (∃ (e : Fin 20) (s : State), s.Units ∧ s.MemOk ∧ (s.engine e).state ≠ .live) ∧
    (∃ (e : Fin 20) (s : State), ∃ i : BitVec 16, s.Units ∧ s.MemOk ∧ s.up ∧ ¬ s.saved ∧ (s.engine e).state = .spare) ∧
    (∃ (e : Fin 20) (s : State), ∃ i : BitVec 16, s.Units ∧ s.MemOk ∧ (s.engine e).state ≠ .spare) ∧
    (∃ (e : Fin 20) (s : State), s.Units ∧ s.MemOk ∧ s.up ∧ ¬ s.saved ∧ (s.engine e).state ≠ .retired) ∧
    (∃ (e : Fin 20) (s : State), s.Units ∧ s.MemOk ∧ (s.engine e).state = .retired) ∧
    (∃ (e : Fin 20) (s : State), s.Units ∧ s.MemOk ∧ (s.engine e).state = .selfTest) ∧
    (∃ (e : Fin 20) (s : State), s.Units ∧ s.MemOk ∧ (s.engine e).state ≠ .selfTest) ∧
    (∃ (e : Fin 20) (s : State), s.Units ∧ s.MemOk ∧ (s.engine e).state = .radish) ∧
    (∃ (e : Fin 20) (s : State), s.Units ∧ s.MemOk ∧ (s.engine e).state ≠ .radish) ∧
    (∃ (e : Fin 20) (s : State), s.Units ∧ s.MemOk ∧ (s.engine e).state = .radish ∧ (s.book e).issuedAt < s.tl.frames) ∧
    (∃ (e : Fin 20) (s : State), s.Units ∧ s.MemOk ∧ ((s.engine e).state ≠ .radish ∨ s.tl.frames ≤ (s.book e).issuedAt)) :=
  ⟨⟨1, engAt ctx, { kind := .swap, units := [9] }, by unfold State.MemOk State.Units; decide⟩,
    ⟨1, held, { kind := .swap, units := [9] }, by unfold State.MemOk State.Units; decide⟩,
    ⟨2, engAt ctx, { kind := .swap, units := [9] }, by unfold State.MemOk State.Units; decide⟩,
    ⟨1, engAt ctx, ctx, by unfold State.MemOk State.Units; decide⟩,
    ⟨0, engAt ctx, by unfold State.MemOk State.Units; decide⟩,
    ⟨0, engAt ctx, by unfold State.MemOk State.Units; decide⟩,
    ⟨1, engAt ctx, by unfold State.MemOk State.Units; decide⟩,
    ⟨1, engAt ctx, 7, by unfold State.MemOk State.Units; decide⟩,
    ⟨0, engAt ctx, 7, by unfold State.MemOk State.Units; decide⟩,
    ⟨19, engAt ctx, by unfold State.MemOk State.Units; decide⟩,
    ⟨4, engAt ctx, by unfold State.MemOk State.Units; decide⟩,
    ⟨2, engAt ctx, by unfold State.MemOk State.Units; decide⟩,
    ⟨19, engAt ctx, by unfold State.MemOk State.Units; decide⟩,
    ⟨3, engAt ctx, by unfold State.MemOk State.Units; decide⟩,
    ⟨4, engAt ctx, by unfold State.MemOk State.Units; decide⟩,
    ⟨3, engAt ctx, by unfold State.MemOk State.Units; decide⟩,
    ⟨3, (engAt ctx).onTl (fun t => { t with frames := 0 }), by unfold State.MemOk State.Units; decide⟩⟩

/-- Every clause of `EngineEventsCountAndRetire` that has hypotheses is met somewhere. -/
theorem test_meets_engineEventsCountAndRetire :
    (∃ (e : Fin 20) (cause : Fin 7) (s : State), (¬ s.up ∨ cause = 0)) ∧
    (∃ (e : Fin 20) (cause : Fin 7) (s : State), s.Units ∧ s.MemOk ∧ s.up ∧ cause ≠ 0 ∧ (s.engine e).state ≠ .retired ∧ (s.engine e).state ≠ .off ∧ (s.engine e).permanent = false) ∧
    (∃ (e : Fin 20) (s : State) (x : EngCtx), s.Units ∧ s.up ∧ ¬ s.hold ∧ ¬ s.saved ∧ ((s.engine e).live = some x ∨ (s.engine e).shadow = some x) ∧ (∃ u ∈ x.units, u ∉ x.halts) ∧ (s.engine e).lastIssue + 1024 ≤ s.tl.beats ∧ (s.engine e).state ≠ .retired) ∧
    (∃ (e : Fin 20) (s : State), (¬ s.up ∨ s.hold ∨ s.saved ∨ s.tl.beats < (s.engine e).lastIssue + 1024)) :=
  ⟨⟨0, 0, svc, by decide⟩,
    ⟨0, 6, engAt ctx, by unfold State.MemOk State.Units; decide⟩,
    ⟨1, engAt ctx { lastIssue := 7 }, ctx, by unfold State.Units; refine ⟨by decide, by decide, by decide, by decide, by decide, ⟨9, by decide⟩, by decide, by decide⟩⟩,
    ⟨0, engAt ctx { lastIssue := 3073 }, by decide⟩⟩

/-- Every clause of `DramReadsRepairsAndScrub` that has hypotheses is met somewhere. -/
theorem test_meets_dramReadsRepairsAndScrub :
    (∃ (c : Fin 18) (a : BitVec 30) (x y z : Decoded) (s : State), (¬ s.up ∨ s.boot.step < 6 ∨ (s.channel c).state = .retired ∨ s.power.stopped ∨ (s.channel c).holdsPoison (addrCw a.toNat) ∨ x = .clean ∨ x = .poisoned)) ∧
    (∃ (c : Fin 18) (a : BitVec 30) (n : Fin 4) (z : Decoded) (s : State), s.Units ∧ s.MemOk ∧ s.up ∧ 6 ≤ s.boot.step ∧ (s.channel c).state ≠ .retired ∧ ¬ s.power.stopped ∧ (s.channel c).holdsPoison (addrCw a.toNat) = false ∧ n ≠ 0 ∧ ((s.channel c).state = .service ∨ (s.channel c).state = .spare)) ∧
    (∃ (c : Fin 18) (a : BitVec 30) (z : Decoded) (s : State), s.Units ∧ s.MemOk ∧ s.up ∧ 6 ≤ s.boot.step ∧ ¬ s.power.stopped ∧ (s.channel c).state = .service ∧ (s.channel c).holdsPoison (addrCw a.toNat) = false) ∧
    (∃ (c : Fin 18) (s : State), (¬ s.up ∨ s.saved ∨ (s.channel c).repairFrame = some s.tl.frames ∨ (s.channel c).repairs = [])) ∧
    (∃ (c : Fin 18) (s : State) (r : Repair) (rest : List Repair), s.Units ∧ s.MemOk ∧ s.up ∧ ¬ s.saved ∧ (s.channel c).repairFrame ≠ some s.tl.frames ∧ (s.channel c).repairs = r :: rest ∧ r.column = false ∧ mgetD (s.channel c).rows r.bank 0 < 16) ∧
    (∃ (c : Fin 18) (s : State) (r : Repair) (rest : List Repair), s.Units ∧ s.MemOk ∧ s.up ∧ ¬ s.saved ∧ (s.channel c).repairFrame ≠ some s.tl.frames ∧ (s.channel c).repairs = r :: rest ∧ r.column = false ∧ mgetD (s.channel c).rows r.bank 0 = 16 ∧ (s.channel c).state = .service) ∧
    (∃ (s : State) (a b : List ChannelCopy) (y : ChannelCopy), ¬ s.saved ∧ s.mem.copies = a ++ y :: b ∧ (∀ x ∈ a, x.done = true) ∧ y.done = false) ∧
    (∃ s : State, (s.saved ∨ (∀ y ∈ s.mem.copies, y.done = true))) ∧
    (∃ (c : Fin 18) (ok : Bool) (s : State), (¬ s.up ∨ s.boot.step < 6 ∨ (s.channel c).state = .retired ∨ s.frame % 64 ≠ 3 * c ∨ s.saved)) ∧
    (∃ (c : Fin 18) (s : State), s.Units ∧ s.MemOk ∧ s.up ∧ 6 ≤ s.boot.step ∧ (s.channel c).state = .service ∧ s.frame % 64 = 3 * c ∧ ¬ s.saved) ∧
    (∃ (x y z : Decoded) (s : State), (¬ s.up ∨ s.boot.step < 6 ∨ s.saved)) ∧
    (∃ (y z : Decoded) (c : Fin 18) (s : State), s.Units ∧ s.MemOk ∧ s.up ∧ 6 ≤ s.boot.step ∧ ¬ s.saved ∧ s.mem.scrubActive = true ∧ s.mem.scrubChannel = c ∧ (s.channel c).state ≠ .retired ∧ s.mem.scrubAddr + 1 < 8388608) ∧
    (∃ (y z : Decoded) (c : Fin 18) (s : State), s.Units ∧ s.MemOk ∧ s.up ∧ 6 ≤ s.boot.step ∧ ¬ s.saved ∧ s.mem.scrubActive = true ∧ s.mem.scrubChannel = c ∧ (s.channel c).state ≠ .retired ∧ 8388608 ≤ s.mem.scrubAddr + 1) :=
  ⟨⟨17, 0, .clean, .poisoned, .clean, svc, by decide⟩,
    ⟨17, 0x3FFFFFFF, 1, .clean, svc, by unfold State.MemOk State.Units; decide⟩,
    ⟨0, 0, .clean, boot 6, by unfold State.MemOk State.Units; decide⟩,
    ⟨17, svc, by decide⟩,
    ⟨17, chanAt { repairs := [⟨false, 3, 5⟩], rows := [(3, 15)] }, ⟨false, 3, 5⟩, [], by unfold State.MemOk State.Units; decide⟩,
    ⟨17, chanAt { state := .service, repairs := [⟨false, 3, 5⟩], rows := [(3, 16)] }, ⟨false, 3, 5⟩, [], by unfold State.MemOk State.Units; decide⟩,
    ⟨svc.onMem (fun m => { m with copies := [⟨0, 17, 8, true⟩, ⟨1, 8, 0, false⟩] }), [⟨0, 17, 8, true⟩], [], ⟨1, 8, 0, false⟩, by decide⟩,
    ⟨svc, by decide⟩,
    ⟨1, true, svc, by decide⟩,
    ⟨16, (boot 6).onTl (fun t => { t with beat := 48 * 1024 }), by unfold State.MemOk State.Units; decide⟩,
    ⟨.clean, .clean, .clean, boot 5, by decide⟩,
    ⟨.clean, .clean, 17, (boot 6).onMem (fun m => { m with scrubActive := true, scrubChannel := 17, scrubAddr := 8388606 }), by unfold State.MemOk State.Units; decide⟩,
    ⟨.clean, .clean, 17, (boot 6).onMem (fun m => { m with scrubActive := true, scrubChannel := 17, scrubAddr := 8388607 }), by unfold State.MemOk State.Units; decide⟩⟩

/-- Every clause of `SramMeshAndBalance` that has hypotheses is met somewhere. -/
theorem test_meets_sramMeshAndBalance :
    (∃ (u : Fin 25) (b : Fin 32) (a : Nat) (x y : Bool) (s : State), (¬ s.up ∨ s.power.stopped)) ∧
    (∃ (u : Fin 25) (b : Fin 32) (a : Nat) (y : Bool) (s : State), s.Units ∧ s.MemOk ∧ s.up ∧ ¬ s.power.stopped ∧ u.val < 20 ∧ (s.engine u).state ≠ .retired ∧ (s.engine u).state ≠ .off) ∧
    (∃ (u : Fin 25) (b : Fin 32) (a : Nat) (y : Bool) (s : State), s.MemOk ∧ s.up ∧ ¬ s.power.stopped ∧ u.val = 24) ∧
    (∃ (r : Fin 45) (i : Nat) (s : State), ¬ s.up) ∧
    (∃ (r : Fin 45) (i : Nat) (s : State), s.Units ∧ s.up ∧ r.val < 20 ∧ (s.engine r).state ≠ .retired ∧ (s.engine r).state ≠ .off) ∧
    (∃ (r : Fin 45) (i : Nat) (s : State), s.up ∧ 33 ≤ r.val) ∧
    (∃ (n : BitVec 16) (s : State) (a b : List SetMove) (m : SetMove), s.place.moves = a ++ m :: b ∧ m.set = n.toNat ∧ m.copied = false ∧ (∀ x ∈ a, x.set ≠ n.toNat ∨ x.copied = true)) ∧
    (∃ (n : BitVec 16) (s : State), (∀ x ∈ s.place.moves, x.set ≠ n.toNat ∨ x.copied = true)) ∧
    (∃ (o : BalanceObs) (s : State), (¬ s.inServ ∨ s.tl.frames % 8 ≠ 0 ∨ s.saved)) ∧
    (∃ (o : BalanceObs) (s : State) (total top : Nat), s.MemOk ∧ s.inServ ∧ s.tl.frames % 8 = 0 ∧ ¬ s.saved ∧ o.bytes.length = s.mem.inUse ∧ s.mem.inUse ≤ 16 ∧ total = o.bytes.foldl (· + ·) 0 ∧ top = o.bytes.foldl max 0) :=
  ⟨⟨0, 0, 0, false, false, rst, by decide⟩,
    ⟨2, 31, 0, true, engAt ctx, by unfold State.MemOk State.Units; decide⟩,
    ⟨24, 0, 7, true, svc, by unfold State.MemOk; decide⟩,
    ⟨44, 0, rst, by decide⟩,
    ⟨1, 0, engAt ctx, by unfold State.Units; decide⟩,
    ⟨33, 0, svc, by decide⟩,
    ⟨0xFFFF, svc.onPlace (fun p => { p with moves := [⟨0xFFFF, none, 0, 0, true⟩, ⟨0xFFFF, none, 1, 9, false⟩] }), [⟨0xFFFF, none, 0, 0, true⟩], [], ⟨0xFFFF, none, 1, 9, false⟩, by decide⟩,
    ⟨0, svc, by decide⟩,
    ⟨{}, svc, by decide⟩,
    ⟨{ bytes := List.replicate 16 3 }, svc.onTl (fun t => { t with frames := 8 }), 48, 3, by unfold State.MemOk; decide⟩⟩

/-- Every clause of `MoverStartsAndCompletes` that has hypotheses is met somewhere. -/
theorem test_meets_moverStartsAndCompletes :
    (∃ (ch : Fin 32) (op : Option MoverOp) (s : State), (¬ s.up ∨ s.saved)) ∧
    (∃ (ch : Fin 32) (s : State), ((s.mover ch).running.isSome ∨ (s.mover ch).queue = [])) ∧
    (∃ (ch : Fin 32) (op : MoverOp) (s : State), 28 ≤ ch.val) ∧
    (∃ (ch : Fin 32) (op : MoverOp) (s : State), s.Units ∧ s.up ∧ ¬ s.saved ∧ ch.val < 28 ∧ (s.mover ch).running.isSome) ∧
    (∃ (ch : Fin 32) (s : State) (j : MoverJob) (rest : List MoverJob), (s.mover ch).running = none ∧ (s.mover ch).queue = j :: rest ∧ (s.mover ch).tokens &&& j.op.wait ≠ j.op.wait) ∧
    (∃ (ch : Fin 32) (s : State) (j : MoverJob) (rest : List MoverJob), s.Units ∧ s.up ∧ ¬ s.saved ∧ (s.mover ch).running = none ∧ (s.mover ch).queue = j :: rest ∧ (s.mover ch).tokens &&& j.op.wait = j.op.wait ∧ s.opBad j.op = false ∧ (j.host = none ∨ s.namesVoid j.op = false)) ∧
    (∃ (ch : Fin 32) (s : State) (j : MoverJob) (rest : List MoverJob), s.Units ∧ s.MemOk ∧ s.up ∧ ¬ s.saved ∧ (s.mover ch).running = none ∧ (s.mover ch).queue = j :: rest ∧ (s.mover ch).tokens &&& j.op.wait = j.op.wait ∧ s.opBad j.op = true ∧ j.host = none) ∧
    (∃ (ch : Fin 32) (s : State), (∀ j, (s.mover ch).running = some j → j.done = false)) ∧
    (∃ (ch : Fin 32) (s : State) (j : MoverJob), s.Units ∧ s.MemOk ∧ (s.mover ch).running = some j ∧ j.done = true ∧ j.host = none ∧ s.live = none) :=
  ⟨⟨0, none, rst, by decide⟩,
    ⟨27, svc, by decide⟩,
    ⟨28, { op := 1 }, svc, by decide⟩,
    ⟨27, { op := 1 }, moverAt { running := some { op := { op := 1 } } }, by unfold State.Units; decide⟩,
    ⟨27, moverAt { queue := [{ op := { op := 2, dst := 1, wait := 3 } }], tokens := 2 }, { op := { op := 2, dst := 1, wait := 3 } }, [], by decide⟩,
    ⟨27, moverAt { queue := [{ op := { op := 2, dst := 1, wait := 3, count := [32, 1, 1, 1, 1, 1] } }], tokens := 3 }, { op := { op := 2, dst := 1, wait := 3, count := [32, 1, 1, 1, 1, 1] } }, [], by unfold State.Units; decide⟩,
    ⟨27, moverAt { queue := [{ op := { op := 6, dst := 1 } }] }, { op := { op := 6, dst := 1 } }, [], by unfold State.MemOk State.Units; decide⟩,
    ⟨27, moverAt { running := some { op := { op := 1 } } }, by intro j h; cases h; rfl⟩,
    ⟨27, { moverAt { running := some { op := { op := 1, signal := 5 }, done := true } } with live := none }, { op := { op := 1, signal := 5 }, done := true }, by unfold State.MemOk State.Units; decide⟩⟩

/-- Every clause of `MoverCarriesOutItsOperations` that has hypotheses is met somewhere. -/
theorem test_meets_moverCarriesOutItsOperations :
    (∃ (ch : Fin 32) (s : State), s.jobOf ch 1 = none) ∧
    (∃ (ch : Fin 32) (s : State), s.jobOf ch 2 = none) ∧
    (∃ (ch : Fin 32) (s : State), s.jobOf ch 3 = none) ∧
    (∃ (ch : Fin 32) (s : State), s.jobOf ch 4 = none) ∧
    (∃ (ch : Fin 32) (s : State), s.jobOf ch 5 = none) ∧
    (∃ (c : Instr) (ch : Fin 32) (k : Nat) (s : State) (o : MoverOp) (j : MoverJob) (d : DescEntry), s.Units ∧ (c, k) ∈ [(Instr.moverCopy ch, 1), (.moverFill ch, 2), (.moverGather ch, 3), (.moverScatter ch, 4), (.moverDeliver ch, 5)] ∧ s.jobOf ch k = some o ∧ (s.mover ch).running = some j ∧ s.descAt o.dst = some d ∧ (k = 1 ∨ k = 3 ∨ k = 4 → (s.descAt o.src).isSome) ∧ (k = 3 ∨ k = 4 → (s.descAt o.idx).isSome) ∧ j.faulted = true) ∧
    (∃ (c : Instr) (ch : Fin 32) (k : Nat) (s : State) (o : MoverOp) (j : MoverJob) (d : DescEntry), s.Units ∧ (c, k) ∈ [(Instr.moverCopy ch, 1), (.moverFill ch, 2), (.moverGather ch, 3), (.moverScatter ch, 4), (.moverDeliver ch, 5)] ∧ s.jobOf ch k = some o ∧ (s.mover ch).running = some j ∧ s.descAt o.dst = some d ∧ (k = 1 ∨ k = 3 ∨ k = 4 → (s.descAt o.src).isSome) ∧ (k = 3 ∨ k = 4 → (s.descAt o.idx).isSome) ∧ k = 2) ∧
    (∃ (c : Instr) (ch : Fin 32) (k : Nat) (s : State) (o : MoverOp) (j : MoverJob) (d : DescEntry), s.Units ∧ (c, k) ∈ [(Instr.moverCopy ch, 1), (.moverFill ch, 2), (.moverGather ch, 3), (.moverScatter ch, 4), (.moverDeliver ch, 5)] ∧ s.jobOf ch k = some o ∧ (s.mover ch).running = some j ∧ s.descAt o.dst = some d ∧ (k = 1 ∨ k = 3 ∨ k = 4 → (s.descAt o.src).isSome) ∧ (k = 3 ∨ k = 4 → (s.descAt o.idx).isSome) ∧ k = 5) ∧
    (∃ (ch : Fin 32) (s : State) (o : MoverOp) (d : DescEntry) (sp num z : Nat) (x : DataStore), ∃ a, s.Units ∧ s.MemOk ∧ s.jobOf ch 2 = some o ∧ s.descAt o.dst = some d ∧ d.desc.format = 1 ∧ d.desc.layout = 1 ∧ d.desc.aliasing = 0 ∧ d.desc.statusEn = false ∧ o.count = [1, 1, 1, 1, 1, 1] ∧ d.desc.inside (windowAt o.dstOrigin o.count 0) = true ∧ s.placeOf d = .set sp num z ∧ mget s.data (sp * 65536 + num) = some x ∧ s.judgeAccess (agentOf ch) (.set sp num z) true (d.desc.bitAddr ((windowAt o.dstOrigin o.count 0).map Int.toNat) / 8) 1 = (s, true) ∧ a ≠ (d.desc.bitAddr ((windowAt o.dstOrigin o.count 0).map Int.toNat) / 8).toNat) ∧
    (∃ (ch : Fin 32) (s : State) (o : MoverOp) (d : DescEntry) (sp num z : Nat), s.Units ∧ s.jobOf ch 5 = some o ∧ s.descAt o.dst = some d ∧ d.desc.format = 1 ∧ d.desc.layout = 1 ∧ d.desc.ext = [32, 1, 1, 1, 1, 1] ∧ d.desc.st 0 = 1 ∧ o.count = [32, 1, 1, 1, 1, 1] ∧ o.dstOrigin = [0, 0, 0, 0, 0, 0] ∧ s.placeOf d = .set sp num z ∧ (mget s.data (sp * 65536 + num)).isSome ∧ d.desc.base + 32 ≤ z ∧ s.fwPlace (.set sp num z) false (agentOf ch).ini d.desc.base 32 = true ∧ s.poisonedAt sp num d.desc.base 32 = false ∧ (batchOf (s.dread sp num d.desc.base 32) none).count = 1 ∧ lsum (s.com.batches.map (fun x => 16 + 16 * x.records.length)) + 32 ≤ 262144) :=
  ⟨⟨31, svc, by decide⟩,
    ⟨31, svc, by decide⟩,
    ⟨31, svc, by decide⟩,
    ⟨31, svc, by decide⟩,
    ⟨31, svc, by decide⟩,
    ⟨.moverCopy 27, 27, 1, moverAt { running := some { op := { op := 1, src := 2, dst := 1 }, faulted := true } }, { op := 1, src := 2, dst := 1 }, { op := { op := 1, src := 2, dst := 1 }, faulted := true }, ((moverAt {}).descAt 1).getD { desc := {} }, by unfold State.Units; decide⟩,
    ⟨.moverFill 27, 27, 2, moverAt { running := some { op := { op := 2, dst := 1 } } }, { op := 2, dst := 1 }, { op := { op := 2, dst := 1 } }, ((moverAt {}).descAt 1).getD { desc := {} }, by unfold State.Units; decide⟩,
    ⟨.moverDeliver 27, 27, 5, moverAt { running := some { op := { op := 5, dst := 1 } } }, { op := 5, dst := 1 }, { op := { op := 5, dst := 1 } }, ((moverAt {}).descAt 1).getD { desc := {} }, by unfold State.Units; decide⟩,
    ⟨27, moverAt { running := some { op := { op := 2, dst := 1, dstOrigin := [31, 0, 0, 0, 0, 0] } } }, { op := 2, dst := 1, dstOrigin := [31, 0, 0, 0, 0, 0] }, ((moverAt {}).descAt 1).getD { desc := {} }, 2, 5, 64, { size := 64, bytes := [(0, 1)] }, 32, by unfold State.MemOk State.Units; and_intros <;> first | decide | rfl⟩,
    ⟨27, moverAt { running := some { op := { op := 5, dst := 1, count := [32, 1, 1, 1, 1, 1] } } }, { op := 5, dst := 1, count := [32, 1, 1, 1, 1, 1] }, ((moverAt {}).descAt 1).getD { desc := {} }, 2, 5, 64, by unfold State.Units; and_intros <;> first | decide | rfl⟩⟩

/-- Every clause of `SolverLoopsEndAndPublish` that has hypotheses is met somewhere. -/
theorem test_meets_solverLoopsEndAndPublish :
    (∃ (n : Fin 64) (o : FastOutcome) (s : State), (s.solver.fast = none ∨ s.saved ∨ s.hold ∨ (∃ l, s.solver.fast = some l ∧ ((∀ t ∈ l.tracks, t.track ≠ n.val) ∨ (∀ t ∈ l.tracks, t.track = n.val → t.ended = true) ∨ l.ord + s.fastDeadline ≤ s.tl.beats ∨ ((∀ t ∈ l.tracks, t.track = n.val → t.wave = 1) ∧ ∃ t ∈ l.tracks, t.wave = 0 ∧ t.ended = false))))) ∧
    (∃ (n : Fin 64) (o : FastOutcome) (s : State) (l : FastLoop) (x : TrackSolve), s.MemOk ∧ ¬ s.saved ∧ ¬ s.hold ∧ s.solver.fast = some l ∧ l.tracks.find? (fun t => t.track = n.val) = some x ∧ x.ended = false ∧ s.tl.beats < l.ord + s.fastDeadline ∧ (x.wave = 0 ∨ ∀ t ∈ l.tracks, t.wave ≠ 1 → t.ended = true) ∧ o.data = false) ∧
    (∃ (n : Fin 64) (o : FastOutcome) (s : State) (l : FastLoop) (x : TrackSolve), s.MemOk ∧ ¬ s.saved ∧ ¬ s.hold ∧ s.solver.fast = some l ∧ l.tracks.find? (fun t => t.track = n.val) = some x ∧ x.ended = false ∧ s.tl.beats < l.ord + s.fastDeadline ∧ (x.wave = 0 ∨ ∀ t ∈ l.tracks, t.wave ≠ 1 → t.ended = true) ∧ o.data = true ∧ (∀ i ∈ o.iters, i.tiny = none ∧ i.rejected = false)) ∧
    (∃ s : State, (s.solver.fast = none ∨ s.saved ∨ (∃ l, s.solver.fast = some l ∧ ∃ t ∈ l.tracks, t.ended = false))) ∧
    (∃ (s : State) (l : FastLoop), ¬ s.saved ∧ s.solver.fast = some l ∧ (∀ t ∈ l.tracks, t.ended = true ∧ t.accepted = false)) ∧
    (∃ (s : State) (l : FastLoop) (x : TrackSolve) (v : Spline), s.MemOk ∧ ¬ s.saved ∧ s.solver.fast = some l ∧ l.tracks = [x] ∧ x.ended = true ∧ x.accepted = true ∧ x.formed = some v ∧ v.track = x.track ∧ x.track < 64 ∧ v.parent = none ∧ rotationsOk v = true ∧ x.reparent = true) ∧
    (∃ (s : State) (l : FastLoop) (x : TrackSolve) (v : Spline), s.MemOk ∧ ¬ s.saved ∧ s.solver.fast = some l ∧ l.tracks = [x] ∧ x.ended = true ∧ x.accepted = true ∧ x.formed = some v ∧ v.track = x.track ∧ x.track < 64 ∧ v.parent = none ∧ rotationsOk v = false) ∧
    (∃ s : State, (s.solver.fast = none ∨ s.saved ∨ (∃ l, s.solver.fast = some l ∧ ((∀ t ∈ l.tracks, t.ended = true) ∨ s.tl.beats < l.ord + s.fastDeadline)))) ∧
    (∃ (s : State) (l : FastLoop), ∃ x ∈ l.tracks, s.MemOk ∧ ¬ s.saved ∧ s.solver.fast = some l ∧ (l.tracks.map (fun t => t.track)).Nodup ∧ (∀ t ∈ l.tracks, t.track < 64) ∧ (∃ t ∈ l.tracks, t.ended = false) ∧ l.ord + s.fastDeadline ≤ s.tl.beats ∧ x.ended = false) ∧
    (∃ (o : SlowOutcome) (s : State), (s.solver.slow = none ∨ s.saved ∨ s.hold ∨ (∃ l, s.solver.slow = some l ∧ (l.accepted.isSome ∨ l.ord + s.shape.slowDeadline ≤ s.tl.frames)))) ∧
    (∃ (o : SlowOutcome) (s : State) (l : SlowLoop), s.MemOk ∧ ¬ s.saved ∧ ¬ s.hold ∧ s.solver.slow = some l ∧ l.accepted = none ∧ s.tl.frames < l.ord + s.shape.slowDeadline ∧ o.data = false) ∧
    (∃ (o : SlowOutcome) (s : State) (l : SlowLoop), s.MemOk ∧ ¬ s.saved ∧ ¬ s.hold ∧ s.solver.slow = some l ∧ l.accepted = none ∧ s.tl.frames < l.ord + s.shape.slowDeadline ∧ o.data = true ∧ (∀ i ∈ o.iters, i.tiny = none ∧ i.rejected = false)) ∧
    (∃ s : State, (s.saved ∨ s.solver.slow = none ∨ (∃ l, s.solver.slow = some l ∧ l.accepted = none))) ∧
    (∃ (s : State) (l : SlowLoop) (ex : List (Nat × Extrinsic)), ∃ k, s.MemOk ∧ ¬ s.saved ∧ s.solver.slow = some l ∧ l.accepted = some ex ∧ (ex.map (fun x => x.1)).Nodup ∧ k ∉ ex.map (fun x => x.1)) ∧
    (∃ s : State, (s.saved ∨ s.solver.slow = none ∨ (∃ l, s.solver.slow = some l ∧ (l.accepted.isSome ∨ s.tl.frames < l.ord + s.shape.slowDeadline)))) ∧
    (∃ (s : State) (l : SlowLoop), s.MemOk ∧ ¬ s.saved ∧ s.solver.slow = some l ∧ l.accepted = none ∧ l.ord + s.shape.slowDeadline ≤ s.tl.frames) :=
  ⟨⟨0, {}, svc, by exact .inl rfl⟩,
    ⟨63, { data := false }, fastAt [⟨63, 0, none, false, false, false, none, 0⟩], ⟨3, 4033, 0, false, [⟨63, 0, none, false, false, false, none, 0⟩]⟩, ⟨63, 0, none, false, false, false, none, 0⟩, by unfold State.MemOk; decide⟩,
    ⟨63, { iters := [{}] }, fastAt [⟨2, 0, none, false, true, false, none, 0⟩, ⟨63, 1, some 2, false, false, false, none, 0⟩], ⟨3, 4033, 0, false, [⟨2, 0, none, false, true, false, none, 0⟩, ⟨63, 1, some 2, false, false, false, none, 0⟩]⟩, ⟨63, 1, some 2, false, false, false, none, 0⟩, by unfold State.MemOk; decide⟩,
    ⟨fastAt [⟨63, 0, none, false, false, false, none, 0⟩], by exact .inr (.inr ⟨_, rfl, _, List.mem_singleton_self _, rfl⟩)⟩,
    ⟨fastAt [⟨63, 0, none, false, true, false, none, 3⟩], ⟨3, 4033, 0, false, [⟨63, 0, none, false, true, false, none, 3⟩]⟩, by decide⟩,
    ⟨fastAt [⟨63, 0, none, true, true, true, some ⟨0, 63, none, 0, [], []⟩, 0⟩], ⟨3, 4033, 0, false, [⟨63, 0, none, true, true, true, some ⟨0, 63, none, 0, [], []⟩, 0⟩]⟩, ⟨63, 0, none, true, true, true, some ⟨0, 63, none, 0, [], []⟩, 0⟩, ⟨0, 63, none, 0, [], []⟩, by unfold State.MemOk; decide⟩,
    ⟨fastAt [⟨63, 0, none, false, true, true, some ⟨0, 63, none, 0, [], [{ rx := 134217729 }]⟩, 0⟩], ⟨3, 4033, 0, false, [⟨63, 0, none, false, true, true, some ⟨0, 63, none, 0, [], [{ rx := 134217729 }]⟩, 0⟩]⟩, ⟨63, 0, none, false, true, true, some ⟨0, 63, none, 0, [], [{ rx := 134217729 }]⟩, 0⟩, ⟨0, 63, none, 0, [], [{ rx := 134217729 }]⟩, by unfold State.MemOk; decide⟩,
    ⟨fastAt [⟨63, 0, none, false, false, false, none, 0⟩], by exact .inr (.inr ⟨_, rfl, .inr (by decide)⟩)⟩,
    ⟨(fastAt [⟨63, 0, none, false, false, false, none, 0⟩]).onTl (fun t => { t with beats := 4097 }), ⟨3, 4033, 0, false, [⟨63, 0, none, false, false, false, none, 0⟩]⟩, ⟨63, 0, none, false, false, false, none, 0⟩, by unfold State.MemOk; decide⟩,
    ⟨{}, slowAt 0 (some []), by exact .inr (.inr (.inr ⟨_, rfl, .inl rfl⟩))⟩,
    ⟨{ data := false }, (slowAt 5 none).onTl (fun t => { t with frames := 20 }), ⟨3, 5, false, none⟩, by unfold State.MemOk; decide⟩,
    ⟨{ iters := [{}] }, (slowAt 5 none).onTl (fun t => { t with frames := 20 }), ⟨3, 5, false, none⟩, by unfold State.MemOk; decide⟩,
    ⟨slowAt 0 none, by exact .inr (.inr ⟨_, rfl, rfl⟩)⟩,
    ⟨slowAt 0 (some [(5, {}), (6, {})]), ⟨3, 0, false, some [(5, {}), (6, {})]⟩, [(5, {}), (6, {})], 7, by unfold State.MemOk; decide⟩,
    ⟨slowAt 0 none, by exact .inr (.inr ⟨_, rfl, .inr (by decide)⟩)⟩,
    ⟨(slowAt 5 none).onTl (fun t => { t with frames := 21 }), ⟨3, 5, false, none⟩, by unfold State.MemOk; decide⟩⟩

/-- Every clause of `SlotLoadsChecksRehearsesAndArms` that has hypotheses is met somewhere. -/
theorem test_meets_slotLoadsChecksRehearsesAndArms :
    (∃ (i : Initiator) (s : State), s.MemOk ∧ s.mayWrite i Reg.SLOT_CTRL ∧ s.boot.failCode = 0 ∧ ¬ s.boot.stopped ∧ s.slot.state ≠ .empty) ∧
    (∃ (i : Initiator) (s : State), s.MemOk ∧ s.mayWrite i Reg.SLOT_CTRL ∧ s.boot.failCode = 0 ∧ ¬ s.boot.stopped ∧ s.slot.state = .empty ∧ s.rget Reg.LOAD_LENGTH = 0) ∧
    (∃ (i : Initiator) (s : State), s.MemOk ∧ s.mayWrite i Reg.SLOT_CTRL ∧ s.boot.failCode = 0 ∧ ¬ s.boot.stopped ∧ s.slot.state = .empty ∧ s.rget Reg.LOAD_LENGTH ≠ 0) ∧
    (∃ (i : Initiator) (s : State), s.MemOk ∧ s.mayWrite i Reg.SLOT_CTRL ∧ s.slot.state = .empty) ∧
    (∃ (i : Initiator) (s : State), s.MemOk ∧ s.mayWrite i Reg.SLOT_CTRL ∧ s.slot.state ≠ .empty) ∧
    (∃ s : State, (s.slot.state ≠ .copying ∨ s.saved)) ∧
    (∃ s : State, s.slot.state = .copying ∧ ¬ s.saved) ∧
    (∃ (a b : Bool) (k : Nat) (s : State), (s.slot.state ≠ .verifying ∨ s.saved)) ∧
    (∃ (a b : Bool) (k : Nat) (s : State), s.MemOk ∧ s.slot.state = .verifying ∧ ¬ s.saved ∧ (a = false ∨ b = false ∨ (imageHeader s.slot.bytes).secVersion < s.keeper.imageMin)) ∧
    (∃ (k : Nat) (s : State), s.slot.state = .verifying ∧ ¬ s.saved ∧ s.verifyReason true true = none) ∧
    (∃ (b : ImageBody) (s : State), (s.slot.state ≠ .admitting ∨ s.saved)) ∧
    (∃ (b : ImageBody) (s : State), s.MemOk ∧ s.slot.state = .admitting ∧ ¬ s.saved) ∧
    (∃ (r : RehearsalResult) (s : State), (s.saved ∨ s.slot.state ≠ .rehearsing ∨ (∀ g ∈ s.slot.group, g.1 ≠ r.unit))) ∧
    (∃ (r : RehearsalResult) (s : State) (m : Image) (e : Nat), s.MemOk ∧ ¬ s.saved ∧ s.slot.state = .rehearsing ∧ s.slot.image = some m ∧ s.slot.group.find? (fun g => g.1 = r.unit) = some (r.unit, e) ∧ r.halted = true ∧ r.overrun = false ∧ r.event = false ∧ r.mismatch = false ∧ (∀ f ∈ s.slot.failures, f.1 = r.unit → f.2.2 = false)) ∧
    (∃ (r : RehearsalResult) (s : State) (m : Image) (e : Nat), s.MemOk ∧ ¬ s.saved ∧ s.slot.state = .rehearsing ∧ s.slot.image = some m ∧ s.slot.group.find? (fun g => g.1 = r.unit) = some (r.unit, e) ∧ r.event = true ∧ (∀ f ∈ s.slot.failures, f.1 ≠ r.unit)) ∧
    (∃ (r : RehearsalResult) (s : State) (m : Image) (e : Nat), s.MemOk ∧ ¬ s.saved ∧ s.slot.state = .rehearsing ∧ s.slot.image = some m ∧ s.slot.group.find? (fun g => g.1 = r.unit) = some (r.unit, e) ∧ r.event = true ∧ (∃ f ∈ s.slot.failures, f.1 = r.unit)) ∧
    (∃ (e : Fin 20) (s : State), (s.slot.state ≠ .arming ∨ s.saved ∨ (s.engine e).shadowKind ≠ .arming ∨ (e.val, 0) ∉ s.slot.left)) ∧
    (∃ (e : Fin 20) (s : State), s.slot.state = .arming ∧ ¬ s.saved ∧ (s.engine e).shadowKind = .arming ∧ (e.val, 0) ∈ s.slot.left) :=
  ⟨⟨.management, slotAt .armed, by unfold State.MemOk State.mayWrite State.mayReach; decide⟩,
    ⟨.security, svc, by unfold State.MemOk State.mayWrite State.mayReach; decide⟩,
    ⟨.pf1, slotAt .empty, by unfold State.MemOk State.mayWrite State.mayReach; decide⟩,
    ⟨.management, svc, by unfold State.MemOk State.mayWrite State.mayReach; decide⟩,
    ⟨.management, slotAt .verifying, by unfold State.MemOk State.mayWrite State.mayReach; decide⟩,
    ⟨svc, by decide⟩,
    ⟨slotAt .copying, by decide⟩,
    ⟨true, true, 5, slotAt .armed, by decide⟩,
    ⟨true, true, 5, ({ slotAt .verifying with keeper := { imageMin := 1 } } : State), by unfold State.MemOk; decide⟩,
    ⟨5, ({ slotAt .verifying with slot := { state := .verifying, bytes := blankImage, len := 512 } } : State), by decide⟩,
    ⟨{}, svc, by decide⟩,
    ⟨{}, slotAt .admitting, by unfold State.MemOk; decide⟩,
    ⟨{ unit := 9 }, slotAt .rehearsing, by decide⟩,
    ⟨{ unit := 9 }, ({ svc with slot := { state := .rehearsing, image := some {}, group := [(9, 4)] } } : State), {}, 4, by unfold State.MemOk; decide⟩,
    ⟨{ unit := 9, event := true }, ({ svc with slot := { state := .rehearsing, image := some {}, group := [(9, 4)] } } : State), {}, 4, by unfold State.MemOk; decide⟩,
    ⟨{ unit := 9, event := true }, ({ svc with slot := { state := .rehearsing, image := some {}, group := [(9, 4)], failures := [(9, 3, false)] } } : State), {}, 4, by unfold State.MemOk; refine ⟨by decide, by decide, by decide, by decide, by decide, by decide, ⟨(9, 3, false), by decide⟩⟩⟩,
    ⟨0, slotAt .arming, by decide⟩,
    ⟨0, ({ engAt ctx { shadowKind := .arming } with slot := { state := .arming, left := [(0, 0)] } } : State), by decide⟩⟩

/-- Every clause of `PeerPortsTrainAndRetire` that has hypotheses is met somewhere. -/
theorem test_meets_peerPortsTrainAndRetire :
    (∃ (p : Fin 6) (s : State), s.Units ∧ s.MemOk ∧ s.Shape ∧ ¬ s.up) ∧
    (∃ (p : Fin 6) (s : State), s.Units ∧ s.MemOk ∧ s.Shape ∧ s.up ∧ (s.peer p).state = .down ∧ s.rbit (Reg.PEER_CFG p) 0 = true) ∧
    (∃ (p : Fin 6) (s : State), s.Units ∧ s.MemOk ∧ s.Shape ∧ ((s.peer p).state ≠ .down ∨ s.rbit (Reg.PEER_CFG p) 0 = false)) ∧
    (∃ (p : Fin 6) (s : State), s.Units ∧ s.MemOk ∧ s.Shape ∧ (s.peer p).state ≠ .up) ∧
    (∃ (p : Fin 6) (s : State), s.Units ∧ s.MemOk ∧ s.Shape ∧ (s.peer p).state = .up ∧ s.up) ∧
    (∃ (p : Fin 6) (s : State), s.Units ∧ s.MemOk ∧ s.Shape ∧ (s.peer p).state = .training ∧ (∀ l, l < 5 → s.laneGone p l = false)) ∧
    (∃ (p : Fin 6) (s : State), ∃ (ok : BitVec 5) (b : Fin 4), s.Units ∧ s.MemOk ∧ s.Shape ∧ (s.peer p).state = .training ∧ (∀ l, l < 5 → s.laneGone p l = false) ∧ (∀ l : Fin 5, ok.getLsbD l = decide (l.val ≠ b.val))) ∧
    (∃ (p : Fin 6) (s : State), s.Units ∧ s.MemOk ∧ s.Shape ∧ (s.peer p).state = .aligning) ∧
    (∃ (p : Fin 6) (s : State), s.Units ∧ s.MemOk ∧ s.Shape ∧ (s.peer p).state ≠ .aligning) ∧
    (∃ (p : Fin 6) (s : State), s.Units ∧ s.MemOk ∧ s.Shape ∧ (s.peer p).state = .hello ∧ s.linkReady = true) ∧
    (∃ (p : Fin 6) (s : State), s.Units ∧ s.MemOk ∧ s.Shape ∧ ((s.peer p).state ≠ .hello ∨ s.linkReady = false)) ∧
    (∃ (p : Fin 6) (s : State), s.Units ∧ s.MemOk ∧ s.Shape ∧ ((s.peer p).state ≠ .up ∨ (s.peer p).replay = [] ∨ s.now < (s.peer p).ackAt + 10 * cyclesUs)) ∧
    (∃ (p : Fin 6) (s : State), s.Units ∧ s.MemOk ∧ s.Shape ∧ (s.peer p).state = .up ∧ (s.peer p).replay ≠ [] ∧ (s.peer p).ackAt + 10 * cyclesUs ≤ s.now ∧ (s.peer p).replaysRow < 15) ∧
    (∃ (p : Fin 6) (s : State), s.Units ∧ s.MemOk ∧ s.Shape ∧ (s.peer p).state = .up ∧ (s.peer p).replay ≠ [] ∧ (s.peer p).ackAt + 10 * cyclesUs ≤ s.now ∧ 15 ≤ (s.peer p).replaysRow) ∧
    (∃ (p : Fin 6) (s : State), ∃ l : Fin 5, s.Units ∧ s.MemOk ∧ s.Shape ∧ (s.linked p = false ∨ lgetD (s.peer p).rxModes l .down = .retired ∨ lgetD (s.peer p).rxModes l .down = .down)) ∧
    (∃ (p : Fin 6) (s : State), ∃ l : Fin 5, ∃ sl i, s.Units ∧ s.MemOk ∧ s.Shape ∧ s.linked p = true ∧ ((lgetD (s.peer p).rxModes l .down).isActive = true ∨ lgetD (s.peer p).rxModes l .down = .spare) ∧ lgetD (s.peer p).rxModes l .down = .active sl ∧ (s.peer p).rxModes.findIdx? (fun x => x = .spare) = some i) ∧
    (∃ (p : Fin 6) (s : State), s.Units ∧ s.MemOk ∧ s.Shape ∧ s.up ∧ (s.peer p).state ≠ .retired) :=
  ⟨⟨0, rst, by unfold State.MemOk State.Units State.Shape; decide⟩,
    ⟨0, (peerAt {}).rset (Reg.PEER_CFG 0) 1, by unfold State.MemOk State.Units State.Shape; decide⟩,
    ⟨5, peerAt {}, by unfold State.MemOk State.Units State.Shape; decide⟩,
    ⟨0, peerAt {}, by unfold State.MemOk State.Units State.Shape; decide⟩,
    ⟨5, peerAt {}, by unfold State.MemOk State.Units State.Shape; decide⟩,
    ⟨0, peerAt { state := .training }, by unfold State.MemOk State.Units State.Shape; decide⟩,
    ⟨0, peerAt { state := .training }, 0x1E, 0, by unfold State.MemOk State.Units State.Shape; decide⟩,
    ⟨0, peerAt { state := .aligning }, by unfold State.MemOk State.Units State.Shape; decide⟩,
    ⟨5, peerAt { state := .aligning }, by unfold State.MemOk State.Units State.Shape; decide⟩,
    ⟨0, peerAt { state := .hello }, by unfold State.MemOk State.Units State.Shape; decide⟩,
    ⟨0, peerAt { state := .up }, by unfold State.MemOk State.Units State.Shape; decide⟩,
    ⟨0, peerAt { state := .up }, by unfold State.MemOk State.Units State.Shape; decide⟩,
    ⟨0, (peerAt { state := .up, replay := [⟨1, 0, .commit []⟩], replaysRow := 14, ackAt := 5 }).onTl (fun t => { t with count := BitVec.ofNat 64 (5 + 10 * cyclesUs) }), by unfold State.MemOk State.Units State.Shape; decide⟩,
    ⟨0, (peerAt { state := .up, replay := [⟨1, 0, .commit []⟩], replaysRow := 15, ackAt := 5 }).onTl (fun t => { t with count := BitVec.ofNat 64 (5 + 10 * cyclesUs) }), by unfold State.MemOk State.Units State.Shape; decide⟩,
    ⟨0, peerAt { state := .up }, 4, by unfold State.MemOk State.Units State.Shape; decide⟩,
    ⟨0, peerAt { state := .up, lanes := lanes }, 3, 3, 4, by unfold State.MemOk State.Units State.Shape; decide⟩,
    ⟨5, peerAt {}, by unfold State.MemOk State.Units State.Shape; decide⟩⟩

/-- Every clause of `PeerControlFlitsTakeEffect` that has hypotheses is met somewhere. -/
theorem test_meets_peerControlFlitsTakeEffect :
    (∃ (p : Fin 6) (h : FlitHead) (s : State), ∃ (b : HelloBody) (tb : TimeBody) (l : Fin 5) (f : BitVec 12) (n : BitVec 64) (ph : Fin 8) (c : Instr), s.Units ∧ s.MemOk ∧ s.Shape ∧ c ∈ [Instr.helloFlit p h b, .updateFlit p h b, .laneSwapFlit p h l f, .seedReqFlit p h, .refreshReqFlit p h, .timeFlit p h tb n ph, .nakFlit p h] ∧ s.linked p = false) ∧
    (∃ (p : Fin 6) (h : FlitHead) (s : State), ∃ (b : HelloBody) (tb : TimeBody) (l : Fin 5) (f : BitVec 12) (n : BitVec 64) (ph : Fin 8) (c : Instr), s.Units ∧ s.MemOk ∧ s.Shape ∧ c ∈ [Instr.helloFlit p h b, .updateFlit p h b, .laneSwapFlit p h l f, .seedReqFlit p h, .refreshReqFlit p h, .timeFlit p h tb n ph, .nakFlit p h] ∧ s.linked p = true ∧ h.intact = false) ∧
    (∃ (p : Fin 6) (h : FlitHead) (s : State), ∃ b : HelloBody, s.Units ∧ s.MemOk ∧ s.Shape ∧ s.linked p = true ∧ h.intact = true ∧ s.linkReady = true ∧ (s.peer p).state = .hello ∧ s.helloReason p b = 0 ∧ s.com.closed = false) ∧
    (∃ (p : Fin 6) (h : FlitHead) (s : State), ∃ b : HelloBody, s.Units ∧ s.MemOk ∧ s.Shape ∧ s.linked p = true ∧ h.intact = true ∧ s.linkReady = true ∧ (s.peer p).state = .hello ∧ s.helloReason p b ≠ 0) ∧
    (∃ (p : Fin 6) (h : FlitHead) (s : State), ∃ b : HelloBody, s.Units ∧ s.MemOk ∧ s.Shape ∧ s.linked p = true ∧ h.intact = true ∧ s.linkReady = true ∧ (s.peer p).state = .hello ∧ stepCoord (s.coordNat.getD 0) p ≠ some b.coord) ∧
    (∃ (p : Fin 6) (h : FlitHead) (s : State), ∃ b : HelloBody, s.Units ∧ s.MemOk ∧ s.Shape ∧ s.linked p = true ∧ h.intact = true ∧ (s.linkReady = false ∨ (s.peer p).state = .up)) ∧
    (∃ (p : Fin 6) (h : FlitHead) (s : State), ∃ b : HelloBody, s.Units ∧ s.MemOk ∧ s.Shape ∧ s.linked p = true ∧ h.intact = true ∧ s.linkReady = true ∧ (s.peer p).state = .up ∧ s.helloReason p b = 0) ∧
    (∃ (p : Fin 6) (h : FlitHead) (s : State), ∃ b : HelloBody, s.Units ∧ s.MemOk ∧ s.Shape ∧ s.linked p = true ∧ h.intact = true ∧ s.linkReady = true ∧ (s.peer p).state = .up ∧ s.helloReason p b ≠ 0) ∧
    (∃ (p : Fin 6) (h : FlitHead) (s : State), ∃ (l : Fin 5) (f : BitVec 12), s.Units ∧ s.MemOk ∧ s.Shape ∧ s.linked p = true ∧ h.intact = true ∧ (lgetD (s.peer p).txModes l .down).isActive = false) ∧
    (∃ (p : Fin 6) (h : FlitHead) (s : State), ∃ (l : Fin 5) (f : BitVec 12), ∃ sl i, s.Units ∧ s.MemOk ∧ s.Shape ∧ s.linked p = true ∧ h.intact = true ∧ lgetD (s.peer p).txModes l .down = .active sl ∧ (s.peer p).txModes.findIdx? (fun x => x = .spare) = some i) ∧
    (∃ (p : Fin 6) (h : FlitHead) (s : State), ∃ (b : TimeBody) (n : BitVec 64) (ph : Fin 8), s.Units ∧ s.MemOk ∧ s.Shape ∧ s.linked p = true ∧ h.intact = true ∧ s.linkReady = false) ∧
    (∃ (p : Fin 6) (h : FlitHead) (s : State), s.Units ∧ s.MemOk ∧ s.Shape ∧ s.linked p = true ∧ h.intact = true ∧ s.linkReady = true ∧ (s.peer p).state = .up ∧ (∀ x ∈ (s.peer p).replay, x.seq ≠ h.ack) ∧ (s.peer p).replay ≠ [] ∧ (s.peer p).replaysRow < 15) ∧
    (∃ (p : Fin 6) (h : FlitHead) (s : State), s.Units ∧ s.MemOk ∧ s.Shape ∧ s.linked p = true ∧ h.intact = true ∧ s.linkReady = true ∧ (s.peer p).state = .up ∧ (∀ x ∈ (s.peer p).replay, x.seq ≠ h.ack) ∧ (s.peer p).replay = []) ∧
    (∃ (p : Fin 6) (h : FlitHead) (s : State), ∃ (n : BitVec 64) (ph : Fin 8), s.Units ∧ s.MemOk ∧ s.Shape ∧ (¬ s.up ∨ (s.peer p).state ≠ .up ∨ (s.peer p).timeBlock = some (s.tl.beats / 64))) ∧
    (∃ (p : Fin 6) (h : FlitHead) (s : State), ∃ (n : BitVec 64) (ph : Fin 8), s.Units ∧ s.MemOk ∧ s.Shape ∧ s.up ∧ (s.peer p).state = .up ∧ (s.peer p).timeBlock ≠ some (s.tl.beats / 64)) :=
  ⟨⟨0, {}, peerAt {}, hello, {}, 4, 0, 0, 0, .nakFlit 0 {}, by unfold State.MemOk State.Units State.Shape; decide⟩,
    ⟨0, { intact := false }, peerAt { state := .up }, hello, {}, 4, 0, 0, 0, .updateFlit 0 { intact := false } hello, by unfold State.MemOk State.Units State.Shape; decide⟩,
    ⟨0, {}, peerAt { state := .hello }, hello, by unfold State.MemOk State.Units State.Shape; decide⟩,
    ⟨0, {}, peerAt { state := .hello }, { hello with part := 0x2017 }, by unfold State.MemOk State.Units State.Shape; decide⟩,
    ⟨0, {}, peerAt { state := .hello }, { hello with coord := 0x11 }, by unfold State.MemOk State.Units State.Shape; decide⟩,
    ⟨0, {}, peerAt { state := .up }, hello, by unfold State.MemOk State.Units State.Shape; decide⟩,
    ⟨0, {}, peerAt { state := .up }, hello, by unfold State.MemOk State.Units State.Shape; decide⟩,
    ⟨0, {}, peerAt { state := .up }, { hello with port := 0 }, by unfold State.MemOk State.Units State.Shape; decide⟩,
    ⟨0, {}, peerAt { state := .up, lanes := lanes }, 4, 7, by unfold State.MemOk State.Units State.Shape; decide⟩,
    ⟨0, {}, peerAt { state := .up, lanes := lanes }, 3, 7, 3, 4, by unfold State.MemOk State.Units State.Shape; decide⟩,
    ⟨0, {}, { peerAt { state := .up } with live := none }, {}, 0, 0, by unfold State.MemOk State.Units State.Shape; decide⟩,
    ⟨0, { ack := 9 }, peerAt { state := .up, replay := [⟨1, 0, .commit []⟩], replaysRow := 14 }, by unfold State.MemOk State.Units State.Shape; decide⟩,
    ⟨0, {}, peerAt { state := .up }, by unfold State.MemOk State.Units State.Shape; decide⟩,
    ⟨0, {}, peerAt { state := .up, timeBlock := some 64 }, 0, 0, by unfold State.MemOk State.Units State.Shape; decide⟩,
    ⟨0, {}, peerAt { state := .up, timeBlock := some 63 }, 0, 0, by unfold State.MemOk State.Units State.Shape; decide⟩⟩

/-- Every clause of `PeerDataFlitsTakeEffect` that has hypotheses is met somewhere. -/
theorem test_meets_peerDataFlitsTakeEffect :
    (∃ (p : Fin 6) (h : FlitHead) (s : State) (rs : List SentRecord) (pb : PeaBody) (d : BitVec 14) (w : WriteBody) (es : List MirrorEntry) (c : Instr) (vc : Nat), s.Units ∧ s.Shape ∧ (c, vc) ∈ [(Instr.commitFlit p h rs, 0), (.peaFlit p h pb, 1), (.writeFlit p h d w, 2), (.mirrorFlit p h es, 3), (.seedFlit p h es, 3)] ∧ s.linked p = false) ∧
    (∃ (p : Fin 6) (h : FlitHead) (s : State) (rs : List SentRecord) (pb : PeaBody) (d : BitVec 14) (w : WriteBody) (es : List MirrorEntry) (c : Instr) (vc : Nat), s.Units ∧ s.Shape ∧ (c, vc) ∈ [(Instr.commitFlit p h rs, 0), (.peaFlit p h pb, 1), (.writeFlit p h d w, 2), (.mirrorFlit p h es, 3), (.seedFlit p h es, 3)] ∧ s.linkReady = true ∧ (s.peer p).state = .up ∧ h.intact = true ∧ h.seq ≠ (s.peer p).rxGood + 1) ∧
    (∃ (p : Fin 6) (h : FlitHead) (s : State) (rs : List SentRecord) (pb : PeaBody) (d : BitVec 14) (w : WriteBody) (es : List MirrorEntry) (c : Instr) (vc : Nat), s.Units ∧ s.Shape ∧ (c, vc) ∈ [(Instr.commitFlit p h rs, 0), (.peaFlit p h pb, 1), (.writeFlit p h d w, 2), (.mirrorFlit p h es, 3), (.seedFlit p h es, 3)] ∧ s.linkReady = true ∧ (s.peer p).state = .up ∧ h.intact = true ∧ h.seq = (s.peer p).rxGood + 1) ∧
    (∃ (p : Fin 6) (h : FlitHead) (s : State), ∃ (r : SentRecord) (sp : Nat) (x : DataStore), s.Units ∧ s.MemOk ∧ s.Shape ∧ s.linkReady = true ∧ (s.peer p).state = .up ∧ h.intact = true ∧ h.seq = (s.peer p).rxGood + 1 ∧ r.entries = [] ∧ s.spaceOf (0xFFF0 + p) = some sp ∧ mget s.data (sp * 65536 + (0xFFF0 + p.val)) = some x ∧ 0 < x.size ∧ (s.peer p).ringPos + 64 ≤ x.size) ∧
    (∃ (p : Fin 6) (h : FlitHead) (s : State), ∃ (r : SentRecord) (sp : Nat) (x : DataStore), s.Units ∧ s.MemOk ∧ s.Shape ∧ s.linkReady = true ∧ (s.peer p).state = .up ∧ h.intact = true ∧ h.seq = (s.peer p).rxGood + 1 ∧ r.entries = [] ∧ s.spaceOf (0xFFF0 + p) = some sp ∧ mget s.data (sp * 65536 + (0xFFF0 + p.val)) = some x ∧ 0 < x.size ∧ r.body.kind = .discontinuity) ∧
    (∃ (p : Fin 6) (h : FlitHead) (s : State), ∃ b : PeaBody, s.Units ∧ s.MemOk ∧ s.Shape ∧ s.linkReady = true ∧ (s.peer p).state = .up ∧ h.intact = true ∧ h.seq = (s.peer p).rxGood + 1 ∧ s.hold) ∧
    (∃ (p : Fin 6) (h : FlitHead) (s : State), ∃ (b : PeaBody) (q : Pea), s.Units ∧ s.MemOk ∧ s.Shape ∧ s.linkReady = true ∧ (s.peer p).state = .up ∧ h.intact = true ∧ h.seq = (s.peer p).rxGood + 1 ∧ ¬ s.hold ∧ b.peas = [q] ∧ q.sensor < 1024 ∧ inBox s.owned q.x q.y q.z = false ∧ 3 ≤ b.hops) ∧
    (∃ (p : Fin 6) (h : FlitHead) (s : State), ∃ (d : BitVec 14) (w : WriteBody), s.Units ∧ s.MemOk ∧ s.Shape ∧ s.linkReady = true ∧ (s.peer p).state = .up ∧ h.intact = true ∧ h.seq = (s.peer p).rxGood + 1 ∧ s.coordNat = some d.toNat ∧ s.remoteSpace w.dataSet = none) ∧
    (∃ (p : Fin 6) (h : FlitHead) (s : State), ∃ (d : BitVec 14) (w : WriteBody) (sp z : Nat) (x : DataStore), ∃ a, s.Units ∧ s.MemOk ∧ s.Shape ∧ s.linkReady = true ∧ (s.peer p).state = .up ∧ h.intact = true ∧ h.seq = (s.peer p).rxGood + 1 ∧ s.coordNat = some d.toNat ∧ s.remoteSpace w.dataSet = some sp ∧ w.aliasing = 0 ∧ s.setPlace sp w.dataSet = .set sp w.dataSet z ∧ mget s.data (sp * 65536 + w.dataSet) = some x ∧ w.offset + w.bytes.length ≤ z ∧ s.fwPlace (.set sp w.dataSet z) true (0x30 + p) w.offset w.bytes.length = true ∧ (a < w.offset ∨ w.offset + w.bytes.length ≤ a)) ∧
    (∃ (p : Fin 6) (h : FlitHead) (s : State), ∃ (d : BitVec 14) (w : WriteBody) (own n : Nat), s.Units ∧ s.MemOk ∧ s.Shape ∧ s.linkReady = true ∧ (s.peer p).state = .up ∧ h.intact = true ∧ h.seq = (s.peer p).rxGood + 1 ∧ s.coordNat = some own ∧ own ≠ d.toNat ∧ nextHop own d.toNat = some n ∧ n < 6 ∧ (s.peer n).state = .up) ∧
    (∃ (p : Fin 6) (h : FlitHead) (s : State), ∃ (d : BitVec 14) (w : WriteBody) (own n : Nat), s.Units ∧ s.MemOk ∧ s.Shape ∧ s.linkReady = true ∧ (s.peer p).state = .up ∧ h.intact = true ∧ h.seq = (s.peer p).rxGood + 1 ∧ s.coordNat = some own ∧ own ≠ d.toNat ∧ nextHop own d.toNat = some n ∧ n < 6 ∧ (s.peer n).state ≠ .up) ∧
    (∃ (p : Fin 6) (h : FlitHead) (s : State), ∃ es : List MirrorEntry, s.Units ∧ s.MemOk ∧ s.Shape ∧ s.linkReady = true ∧ (s.peer p).state = .up ∧ h.intact = true ∧ h.seq = (s.peer p).rxGood + 1 ∧ (s.mirrorSource none ≠ some p.val ∨ s.hold)) ∧
    (∃ (p : Fin 6) (h : FlitHead) (s : State), ∃ (k : Nat) (c : Cell) (fr ep : Nat), s.Units ∧ s.MemOk ∧ s.Shape ∧ s.linkReady = true ∧ (s.peer p).state = .up ∧ h.intact = true ∧ h.seq = (s.peer p).rxGood + 1 ∧ s.mirrorSource none = some p.val ∧ ¬ s.hold ∧ s.peers.mirror.pages < 4194304) ∧
    (∃ (p : Fin 6) (h : FlitHead) (s : State), ∃ (k : Nat) (c : Cell), s.Units ∧ s.MemOk ∧ s.Shape ∧ s.linkReady = true ∧ (s.peer p).state = .up ∧ h.intact = true ∧ h.seq = (s.peer p).rxGood + 1 ∧ (s.seedOpen p = false ∨ s.ownsKey k = false)) ∧
    (∃ (p : Fin 6) (h : FlitHead) (s : State), ∃ ep fr : Nat, s.Units ∧ s.MemOk ∧ s.Shape ∧ s.linkReady = true ∧ (s.peer p).state = .up ∧ h.intact = true ∧ h.seq = (s.peer p).rxGood + 1 ∧ s.seedOpen p = true) ∧
    (∃ s : State, (∀ m ∈ s.peers.sets, s.setWaiting m = false ∨ s.tl.frames < m.due + 4)) ∧
    (∃ (s : State) (m : MirrorSet), s.MemOk ∧ m ∈ s.peers.sets ∧ s.setWaiting m = true ∧ m.due + 4 ≤ s.tl.frames) :=
  ⟨⟨0, {}, peerAt {}, [], ⟨0, 0, 0, [pea]⟩, 0, { dataSet := 5, offset := 0, bytes := [1] }, [], .seedFlit 0 {} [], 3, by unfold State.Units State.Shape; decide⟩,
    ⟨0, { seq := 1 }, peerAt { state := .up }, [], ⟨0, 0, 0, [pea]⟩, 0, { dataSet := 5, offset := 0, bytes := [1] }, [], .commitFlit 0 { seq := 1 } [], 0, by unfold State.Units State.Shape; decide⟩,
    ⟨0, { seq := 0 }, peerAt { state := .up }, [], ⟨0, 0, 0, [pea]⟩, 0, { dataSet := 5, offset := 0, bytes := [1] }, [], .peaFlit 0 {} ⟨0, 0, 0, [pea]⟩, 1, by unfold State.Units State.Shape; decide⟩,
    ⟨0, {}, peerAt { state := .up, ringPos := 4032 }, ⟨due, 0, none, 0, []⟩, 2, { size := 4096 }, by unfold State.MemOk State.Units State.Shape; decide⟩,
    ⟨0, {}, peerAt { state := .up, ringPos := 4032 }, ⟨{ due with kind := .discontinuity }, 0, none, 0, []⟩, 2, { size := 4096 }, by unfold State.MemOk State.Units State.Shape; decide⟩,
    ⟨0, {}, { peerAt { state := .up } with safety := held.safety }, ⟨0, 0, 0, [pea]⟩, by unfold State.MemOk State.Units State.Shape; decide⟩,
    ⟨0, {}, peerAt { state := .up }, ⟨0, 0, 3, [{ pea with sensor := 1023 }]⟩, { pea with sensor := 1023 }, by unfold State.MemOk State.Units State.Shape; decide⟩,
    ⟨0, {}, peerAt { state := .up }, 0x11, { dataSet := 5, offset := 0, bytes := [1] }, by unfold State.MemOk State.Units State.Shape; decide⟩,
    ⟨0, {}, peerAt { state := .up }, 0x11, { dataSet := 6, offset := 31, bytes := [1] }, 2, 32, { size := 32 }, 32, by unfold State.MemOk State.Units State.Shape; and_intros <;> first | decide | rfl⟩,
    ⟨0, {}, (peerAt { state := .up }).onPeer 3 (fun q => { q with state := .up }), 0x01, { dataSet := 6, offset := 0, bytes := [1] }, 0x11, 3, by unfold State.MemOk State.Units State.Shape; decide⟩,
    ⟨0, {}, peerAt { state := .up }, 0x01, { dataSet := 6, offset := 0, bytes := [1] }, 0x11, 3, by unfold State.MemOk State.Units State.Shape; decide⟩,
    ⟨0, {}, peerAt { state := .up }, [], by unfold State.MemOk State.Units State.Shape; decide⟩,
    ⟨0, {}, (peerAt { state := .up }).rset Reg.MIRROR_CFG 0, 5, {}, 1, 0, by unfold State.MemOk State.Units State.Shape; decide⟩,
    ⟨0, {}, peerAt { state := .up }, cell, {}, by unfold State.MemOk State.Units State.Shape; decide⟩,
    ⟨0, {}, (peerAt { state := .up }).onPeers (fun q => { q with seedPort := some 0 }), 0, 5, by unfold State.MemOk State.Units State.Shape; decide⟩,
    ⟨svc, by decide⟩,
    ⟨(peerAt {}).onPeers (fun q => { q with ports := List.replicate 5 {} ++ [{ state := .up, waiting := [[], [], [], [.mirror [.fin 0 3]]] }], sets := [⟨3, 0, 0⟩] }), ⟨3, 0, 0⟩, by unfold State.MemOk; decide⟩⟩

/-- Every clause of `CheckerComparesAndDecides` that has hypotheses is met somewhere. -/
theorem test_meets_checkerComparesAndDecides :
    (∃ s : State, (¬ s.inServ ∨ s.tl.beat % 64 ≠ 0 ∨ s.live = none)) ∧
    (∃ (s : State) (img : Image), ∃ n l p, s.inServ ∧ s.tl.beat % 64 = 0 ∧ s.live = some img ∧ (n, l) ∈ s.store.versions ∧ compositePose (fun k => s.store.versionAt k s.tl.beats) n (s.tl.beat * 64) = some p ∧ (∀ q ∈ mgetD s.safety.poses n [], q.beat ≠ s.tl.beat)) ∧
    (∃ (s : State) (img : Image), ∃ n, s.inServ ∧ s.tl.beat % 64 = 0 ∧ s.live = some img ∧ n ∉ s.store.versions.map (fun v => v.1)) ∧
    (∃ (s : State) (img : Image), ∃ x ∈ img.body.sensors, s.inServ ∧ s.tl.beat % 64 = 0 ∧ s.live = some img ∧ (img.body.sensors.map (fun y => y.1)).Nodup) ∧
    (∃ s : State, s.safety.compare = none) ∧
    (∃ (s : State) (c : Comparison), s.MemOk ∧ s.safety.compare = some c ∧ c.ord + 256 ≤ s.tl.beats) ∧
    (∃ (s : State) (c : Comparison), s.MemOk ∧ s.safety.compare = some c ∧ s.tl.beats < c.ord + 256 ∧ (∀ k ∈ c.cols, s.comparable k = true → s.colOccupied s.allRecords k = true)) ∧
    (∃ (s : State) (c : Comparison), ∃ k ∈ c.cols, s.MemOk ∧ s.safety.compare = some c ∧ s.tl.beats < c.ord + 256 ∧ s.comparable k = true ∧ s.colOccupied s.allRecords k = false ∧ s.Shape ∧ s.declCount < 8) ∧
    (∃ (i : Fin 8) (l : List (Fin 20)) (s : State), (∀ d, lgetD s.safety.decls i none = some d → d.phase ≠ .rechecking)) ∧
    (∃ (i : Fin 8) (l : List (Fin 20)) (s : State) (d : Declaration), s.MemOk ∧ s.Shape ∧ lgetD s.safety.decls i none = some d ∧ d.phase = .rechecking ∧ s.repeaters d = [] ∧ (∀ e ∈ l, e.val ∉ d.engines) ∧ d.engines ≠ []) ∧
    (∃ (i : Fin 8) (l : List (Fin 20)) (s : State) (d : Declaration), s.MemOk ∧ s.Shape ∧ lgetD s.safety.decls i none = some d ∧ d.phase = .rechecking ∧ s.repeaters d = [] ∧ (∃ e ∈ l, e.val ∈ d.engines)) ∧
    (∃ (i : Fin 8) (s : State), (∀ d, lgetD s.safety.decls i none = some d → (d.phase ≠ .declared ∧ d.phase ≠ .rechecking) ∨ s.tl.frames < d.bornAt + 3)) ∧
    (∃ (i : Fin 8) (s : State) (d : Declaration), s.MemOk ∧ s.Shape ∧ lgetD s.safety.decls i none = some d ∧ (d.phase = .declared ∨ d.phase = .rechecking) ∧ d.bornAt + 3 ≤ s.tl.frames ∧ s.repeaters d = []) :=
  ⟨⟨{ svc with live := none }, by decide⟩,
    ⟨({ svc with store := { versions := [(3, [⟨still, 0, 0, false⟩])] } } : State).onTl (fun t => { t with beat := 1088 }), {}, 3, [⟨still, 0, 0, false⟩], (splinePose still (1088 * 64)), by decide⟩,
    ⟨svc, {}, 3, by decide⟩,
    ⟨parserAt {}, ((parserAt {}).live.getD {}), (1023, { fixed := false, track := 2 }), by decide⟩,
    ⟨svc, by decide⟩,
    ⟨svc.onSafety (fun x => { x with compare := some ⟨3, [5], 3840⟩ }), ⟨3, [5], 3840⟩, by unfold State.MemOk; decide⟩,
    ⟨svc.onSafety (fun x => { x with compare := some ⟨3, [], 3841⟩ }), ⟨3, [], 3841⟩, by unfold State.MemOk; decide⟩,
    ⟨svc.onSafety (fun x => { x with compare := some ⟨3, [5], 3841⟩ }), ⟨3, [5], 3841⟩, 5, by unfold State.MemOk State.Shape; decide⟩,
    ⟨7, [], declAt ⟨0, [], (0, 0, 0, 0), [], [], .declared, 0, 0, 0, []⟩, by intro d h; cases h; decide⟩,
    ⟨7, [3], declAt ⟨0, [], (0, 0, 0, 0), [4], [], .rechecking, 0, 0, 0, []⟩, ⟨0, [], (0, 0, 0, 0), [4], [], .rechecking, 0, 0, 0, []⟩, by unfold State.MemOk State.Shape; decide⟩,
    ⟨7, [3, 4], declAt ⟨0, [], (0, 0, 0, 0), [4], [], .rechecking, 0, 0, 0, []⟩, ⟨0, [], (0, 0, 0, 0), [4], [], .rechecking, 0, 0, 0, []⟩, by unfold State.MemOk State.Shape; decide⟩,
    ⟨7, declAt ⟨0, [], (0, 0, 0, 0), [4], [], .rechecking, 0, 0, 6, []⟩, by intro d h; cases h; decide⟩,
    ⟨7, declAt ⟨0, [], (0, 0, 0, 0), [4], [], .rechecking, 0, 0, 5, []⟩, ⟨0, [], (0, 0, 0, 0), [4], [], .rechecking, 0, 0, 5, []⟩, by unfold State.MemOk State.Shape; decide⟩⟩

/-- Every clause of `HeartbeatLogPowerAndMarrow` that has hypotheses is met somewhere. -/
theorem test_meets_heartbeatLogPowerAndMarrow :
    (∃ s : State, (s.safety.unvSince = none ∨ ¬ s.inServ ∨ s.safety.state ≠ .unverified ∨ s.safety.hbStopped ∨ (∃ b, s.safety.unvSince = some b ∧ s.tl.beats - b ≤ s.rbits Reg.SAFETY_CFG 7 0 * 1024))) ∧
    (∃ (s : State) (b : Nat), s.MemOk ∧ s.safety.unvSince = some b ∧ s.inServ ∧ s.safety.state = .unverified ∧ ¬ s.safety.hbStopped ∧ s.rbits Reg.SAFETY_CFG 7 0 * 1024 < s.tl.beats - b) ∧
    (∃ s : State, s.safety.hbRun = false) ∧
    (∃ s : State, s.safety.hbRun = true) ∧
    (∃ (ok : Bool) (s : State), s.safety.waiting = []) ∧
    (∃ (s : State) (r : LogRecord) (rest : List LogRecord), s.MemOk ∧ s.safety.waiting = r :: rest) ∧
    (∃ (m : Bool) (s : State), (¬ s.up ∨ s.saved ∨ (m = true ∧ s.rbit Reg.SAG_CFG 0 = false))) ∧
    (∃ s : State, s.MemOk ∧ s.up ∧ ¬ s.saved ∧ s.inServ ∧ s.boot.straps.getLsbD 10 = true) ∧
    (∃ s : State, s.MemOk ∧ s.up ∧ ¬ s.saved ∧ s.inServ ∧ s.boot.straps.getLsbD 10 = false) ∧
    (∃ s : State, s.MemOk ∧ s.up ∧ ¬ s.saved ∧ ¬ s.inServ) ∧
    (∃ (us : Nat) (s : State), s.power.saving = none) ∧
    (∃ (us : Nat) (s : State), s.power.saving.isSome ∧ s.boot.straps.getLsbD 10 = true) ∧
    (∃ (us : Nat) (s : State), s.power.saving.isSome ∧ s.boot.straps.getLsbD 10 = false) ∧
    (∃ s : State, (¬ s.inServ ∨ s.hold ∨ s.saved ∨ s.sweepWaits = true)) ∧
    (∃ s : State, s.MemOk ∧ s.inServ ∧ ¬ s.hold ∧ ¬ s.saved ∧ s.sweepWaits = false ∧ s.power.sweeping = false) ∧
    (∃ s : State, s.MemOk ∧ s.inServ ∧ ¬ s.hold ∧ ¬ s.saved ∧ s.sweepWaits = false ∧ s.power.sweeping = true ∧ s.power.page < 6032 ∧ s.power.fill.length < 255 ∧ (∀ x ∈ s.allRecords, s.power.pos ≤ x.1 → s.sweepTakes x = false)) ∧
    (∃ (ok : Bool) (s : State), (¬ s.up ∨ s.saved ∨ s.dirtyPages = [])) ∧
    (∃ (s : State) (x : Nat × GridPage) (rest : List (Nat × GridPage)), s.MemOk ∧ s.up ∧ ¬ s.saved ∧ s.dirtyPages = x :: rest ∧ mrising 0 s.keeper.marrow.grid = true) ∧
    (∃ s : State, (¬ s.up ∨ s.hold)) ∧
    (∃ s : State, s.MemOk ∧ s.up ∧ ¬ s.hold) ∧
    (∃ (d : Option (Bool × Fin 20)) (s : State), ¬ s.up) ∧
    (∃ (e : Fin 20) (s : State), s.Units ∧ s.up ∧ (s.engine e).state ≠ .retired) ∧
    (∃ (c : Fin 20) (s : State), s.Units ∧ s.MemOk ∧ s.up ∧ c.val < 18 ∧ (s.channel c).state = .spare) ∧
    (∃ (c : Fin 20) (s : State), s.Units ∧ s.MemOk ∧ s.up ∧ c.val < 18 ∧ (s.channel c).state = .service) ∧
    (∃ (c : Fin 20) (s : State), 18 ≤ c.val) :=
  ⟨⟨svc, by exact .inl rfl⟩,
    ⟨(svc.onSafety (fun x => { x with state := .unverified, unvSince := some 4095 })).rset Reg.SAFETY_CFG 0, 4095, by unfold State.MemOk; decide⟩,
    ⟨svc, by decide⟩,
    ⟨svc.onSafety (fun x => { x with hbRun := true }), by decide⟩,
    ⟨true, svc, by decide⟩,
    ⟨svc.onSafety (fun x => { x with waiting := [⟨0, 0, 1, 0, 0, 0, 0, 0⟩] }), ⟨0, 0, 1, 0, 0, 0, 0, 0⟩, [], by unfold State.MemOk; decide⟩,
    ⟨true, (svc.rset Reg.SAG_CFG 0), by decide⟩,
    ⟨svc.onBoot (fun b => { b with straps := 0x400 }), by unfold State.MemOk; decide⟩,
    ⟨svc, by unfold State.MemOk; decide⟩,
    ⟨boot 10, by unfold State.MemOk; decide⟩,
    ⟨5, svc, by decide⟩,
    ⟨5, (svc.onBoot (fun b => { b with straps := 0x400 })).onPower (fun p => { p with saving := some 0 }), by decide⟩,
    ⟨5, svc.onPower (fun p => { p with saving := some 0 }), by decide⟩,
    ⟨rst, by decide⟩,
    ⟨svc.rset Reg.MARROW_CFG 0x100, by unfold State.MemOk; decide⟩,
    ⟨(svc.rset Reg.MARROW_CFG 0x100).onPower (fun p => { p with sweeping := true, page := 6031, fill := List.replicate 254 ⟨0, {}, 0⟩ }), by unfold State.MemOk; decide⟩,
    ⟨true, svc, by decide⟩,
    ⟨svc.onPower (fun p => { p with staging := [(6031, ⟨1, []⟩)] }), (6031, ⟨1, []⟩), [], by unfold State.MemOk; decide⟩,
    ⟨held, by decide⟩,
    ⟨svc, by unfold State.MemOk; decide⟩,
    ⟨none, rst, by decide⟩,
    ⟨4, svc, by unfold State.Units; decide⟩,
    ⟨17, svc, by unfold State.MemOk State.Units; decide⟩,
    ⟨16, svc, by unfold State.MemOk State.Units; decide⟩,
    ⟨18, svc, by decide⟩⟩

/-- Every clause of `CommandQueuesAreFilledAndTaken` that has hypotheses is met somewhere. -/
theorem test_meets_commandQueuesAreFilledAndTaken :
    (∃ (i : Initiator) (o : Fin 1024) (ws : List PushWord) (s : State), s.reaches i = false) ∧
    (∃ (i : Initiator) (o : Fin 1024) (w : Word) (s : State), s.Units ∧ s.MemOk ∧ s.mayReach i (0xFA0000 + 4 * o) ∧ s.hqLevel i.hostFn < 16384 ∧ (s.fn i.hostFn).dropping = false ∧ (s.fn i.hostFn).building = none ∧ wbit w 31 = true ∧ wbits w 11 0 = 0) ∧
    (∃ (i : Initiator) (o : Fin 1024) (w : Word) (s : State), s.Units ∧ s.MemOk ∧ s.mayReach i (0xFA0000 + 4 * o) ∧ s.hqLevel i.hostFn < 16384 ∧ (s.fn i.hostFn).dropping = false ∧ (s.fn i.hostFn).building = none ∧ wbit w 31 = true ∧ wbits w 11 0 ≠ 0) ∧
    (∃ (i : Initiator) (o : Fin 1024) (w : Word) (s : State), ∃ j n, s.Units ∧ s.MemOk ∧ s.mayReach i (0xFA0000 + 4 * o) ∧ s.hqLevel i.hostFn < 16384 ∧ (s.fn i.hostFn).dropping = false ∧ (s.fn i.hostFn).building = some (j, n) ∧ n = 1) ∧
    (∃ (i : Initiator) (o : Fin 1024) (w : Word) (s : State), ∃ j n, s.Units ∧ s.MemOk ∧ s.mayReach i (0xFA0000 + 4 * o) ∧ s.hqLevel i.hostFn < 16384 ∧ (s.fn i.hostFn).dropping = false ∧ (s.fn i.hostFn).building = some (j, n) ∧ 1 < n) ∧
    (∃ (i : Initiator) (o : Fin 1024) (w : Word) (s : State), s.Units ∧ s.MemOk ∧ s.mayReach i (0xFA0000 + 4 * o) ∧ s.hqLevel i.hostFn < 16384 ∧ (s.fn i.hostFn).dropping = false ∧ (s.fn i.hostFn).building = none ∧ wbit w 31 = false) ∧
    (∃ (i : Initiator) (o : Fin 1024) (w : PushWord) (s : State), s.Units ∧ s.MemOk ∧ s.mayReach i (0xFA0000 + 4 * o) ∧ (w.enables ≠ 15 ∨ 16384 ≤ s.hqLevel i.hostFn)) ∧
    (∃ (f : Fin 2) (s : State), ((s.fn f).queue = [] ∨ (s.fn f).current.isSome ∨ s.cplFull f = true ∨ (∀ i ∈ (s.fn f).queue, s.itemWaits f i = true))) ∧
    (∃ (f : Fin 2) (s : State), s.Units ∧ s.MemOk ∧ (s.fn f).queue ≠ [] ∧ (s.fn f).queue.length ≤ 16384 ∧ (s.fn f).current = none ∧ s.cplFull f = false ∧ (∀ i ∈ (s.fn f).queue, s.itemWaits f i = false)) ∧
    (∃ (i : Initiator) (s : State), s.Units ∧ s.MemOk ∧ s.mayReach i Reg.HQ_CTRL) ∧
    (∃ (i : Initiator) (s : State), s.MemOk ∧ s.mayReach i Reg.CPL_CTRL ∧ s.rbit (hqReg i.hostFn Reg.CPL_CTRL) 0 = false) ∧
    (∃ (i : Initiator) (d : Word) (s : State), s.MemOk ∧ s.mayReach i Reg.CPL_HEAD ∧ (d - s.rget (hqReg i.hostFn Reg.CPL_HEAD)).toNat ≤ (s.rget (hqReg i.hostFn Reg.CPL_TAIL) - s.rget (hqReg i.hostFn Reg.CPL_HEAD)).toNat) ∧
    (∃ (i : Initiator) (d : Word) (s : State), s.MemOk ∧ s.mayReach i Reg.CPL_HEAD ∧ (s.rget (hqReg i.hostFn Reg.CPL_TAIL) - s.rget (hqReg i.hostFn Reg.CPL_HEAD)).toNat < (d - s.rget (hqReg i.hostFn Reg.CPL_HEAD)).toNat) ∧
    (∃ (f : Fin 2) (s : State), (¬ s.up ∨ s.boot.step < 8 ∨ (f = 1 ∧ ¬ s.pf1Present))) ∧
    (∃ (f : Fin 2) (s : State), ∃ o, s.Units ∧ s.MemOk ∧ s.up ∧ 8 ≤ s.boot.step ∧ (f = 1 → s.pf1Present) ∧ hqReg f 0xF00000 ≤ o ∧ o < hqReg f 0xF00000 + 0x2000 ∧ o ≠ hqReg 0 Reg.HQ_CTRL) ∧
    (∃ (f : Fin 2) (s : State), s.Units ∧ s.MemOk ∧ s.up ∧ 8 ≤ s.boot.step ∧ (f = 1 → s.pf1Present) ∧ f = 0) ∧
    (∃ (f : Fin 2) (s : State), s.Units ∧ s.MemOk ∧ s.up ∧ 8 ≤ s.boot.step ∧ (f = 1 → s.pf1Present) ∧ f = 1) ∧
    (∃ s : State, ¬ s.up) ∧
    (∃ s : State, s.Units ∧ s.up) :=
  ⟨⟨.pf0, 0, [], boot 7, by decide⟩,
    ⟨.pf1, 1023, 0x80000000, hostAt {} {}, by unfold State.MemOk State.Units State.mayReach; decide⟩,
    ⟨.pf0, 0, 0x80000001, hostAt {} {}, by unfold State.MemOk State.Units State.mayReach; decide⟩,
    ⟨.pf1, 0, 5, hostAt {} { building := some (⟨0, 0, 3, []⟩, 1) }, ⟨0, 0, 3, []⟩, 1, by unfold State.MemOk State.Units State.mayReach; decide⟩,
    ⟨.pf1, 0, 5, hostAt {} { building := some (⟨0, 0, 5, []⟩, 2) }, ⟨0, 0, 5, []⟩, 2, by unfold State.MemOk State.Units State.mayReach; decide⟩,
    ⟨.pf1, 0, 0x7FFFFFFF, hostAt {} {}, by unfold State.MemOk State.Units State.mayReach; decide⟩,
    ⟨.pf1, 0, { data := 0, enables := 7 }, hostAt {} {}, by unfold State.MemOk State.Units State.mayReach; decide⟩,
    ⟨1, hostAt {} {}, by decide⟩,
    ⟨1, hostAt {} { queue := [⟨3, 1, 5, [255, 0, 0, 1]⟩], unmapping := [254] }, by unfold State.MemOk State.Units; decide⟩,
    ⟨.pf1, svc, by unfold State.MemOk State.Units State.mayReach; decide⟩,
    ⟨.pf1, svc, by unfold State.MemOk State.mayReach; decide⟩,
    ⟨.pf1, 2, ((svc.rset (hqReg 1 Reg.CPL_TAIL) 2).rset (hqReg 1 Reg.CPL_HEAD) 0xFFFFFFFF), by unfold State.MemOk State.mayReach; decide⟩,
    ⟨.pf1, 3, ((svc.rset (hqReg 1 Reg.CPL_TAIL) 2).rset (hqReg 1 Reg.CPL_HEAD) 0xFFFFFFFF), by unfold State.MemOk State.mayReach; decide⟩,
    ⟨1, svc.onBoot (fun b => { b with straps := 0 }), by decide⟩,
    ⟨1, boot 8, hqReg 1 0xF00000, by unfold State.MemOk State.Units; decide⟩,
    ⟨0, boot 8, by unfold State.MemOk State.Units; and_intros <;> first | decide | exact fun h => absurd h (by decide)⟩,
    ⟨1, boot 8, by unfold State.MemOk State.Units; decide⟩,
    ⟨rst, by decide⟩,
    ⟨boot 1, by unfold State.Units; decide⟩⟩

/-- Every clause of `ItemsActAndComplete` that has hypotheses is met somewhere. -/
theorem test_meets_itemsActAndComplete :
    (∃ (f : Fin 2) (c : Instr) (op : Nat) (s : State), (c, op) ∈ [(Instr.hostNop f, 0), (.hostFence f, 1), (.descCreate f, 2), (.descDestroy f, 3), (.hostMove f, 4), (.mapWindow f, 5), (.unmapWindow f, 6), (.hostDump f, 7), (.hostAttest f, 8)] ∧ (∀ id i, (s.fn f).current = some (id, i) → i.opcode ≠ op)) ∧
    (∃ (f : Fin 2) (c : Instr) (op : Nat) (s : State), ∃ id i, (c, op) ∈ [(Instr.hostNop f, 0), (.hostFence f, 1), (.descCreate f, 2), (.descDestroy f, 3), (.hostMove f, 4), (.mapWindow f, 5), (.unmapWindow f, 6), (.hostDump f, 7), (.hostAttest f, 8)] ∧ s.Units ∧ s.MemOk ∧ (s.fn f).current = some (id, i) ∧ i.opcode = op ∧ (∃ x ∈ (s.fn f).taken, x.id = id) ∧ i.ok = false) ∧
    (∃ (f : Fin 2) (s : State) (id : Nat) (i : HostItem), s.Units ∧ s.MemOk ∧ (s.fn f).current = some (id, i) ∧ (∃ x ∈ (s.fn f).taken, x.id = id) ∧ i.ok = true ∧ i.opcode = 0) ∧
    (∃ (f : Fin 2) (s : State) (id : Nat) (i : HostItem), s.Units ∧ s.MemOk ∧ (s.fn f).current = some (id, i) ∧ (∃ x ∈ (s.fn f).taken, x.id = id) ∧ i.ok = true ∧ i.opcode = 1) ∧
    (∃ (f : Fin 2) (s : State) (id : Nat) (i : HostItem), ∃ n, s.Units ∧ s.MemOk ∧ (s.fn f).current = some (id, i) ∧ (∃ x ∈ (s.fn f).taken, x.id = id) ∧ i.ok = true ∧ i.opcode = 2 ∧ ¬ ((descOf (i.bytesFrom 0)).space = 2 ∧ (descOf (i.bytesFrom 0)).dataSet ≠ 0xFFFE ∧ s.live = none) ∧ s.hostDescReason f (descOf (i.bytesFrom 0)) = none ∧ s.freeDesc = some n) ∧
    (∃ (f : Fin 2) (s : State) (id : Nat) (i : HostItem), ∃ r, s.Units ∧ s.MemOk ∧ (s.fn f).current = some (id, i) ∧ (∃ x ∈ (s.fn f).taken, x.id = id) ∧ i.ok = true ∧ i.opcode = 2 ∧ ¬ ((descOf (i.bytesFrom 0)).space = 2 ∧ (descOf (i.bytesFrom 0)).dataSet ≠ 0xFFFE ∧ s.live = none) ∧ s.hostDescReason f (descOf (i.bytesFrom 0)) = some r) ∧
    (∃ (f : Fin 2) (s : State) (id : Nat) (i : HostItem), ∃ d, s.Units ∧ s.MemOk ∧ (s.fn f).current = some (id, i) ∧ (∃ x ∈ (s.fn f).taken, x.id = id) ∧ i.ok = true ∧ i.opcode = 3 ∧ mget s.descs (i.word 0) = some d ∧ d.owner = fnOwner f ∧ s.descBusy (i.word 0) = false ∧ mrising 0 s.descs = true) ∧
    (∃ (f : Fin 2) (s : State) (id : Nat) (i : HostItem), ∃ d, s.Units ∧ s.MemOk ∧ (s.fn f).current = some (id, i) ∧ (∃ x ∈ (s.fn f).taken, x.id = id) ∧ i.ok = true ∧ i.opcode = 3 ∧ mget s.descs (i.word 0) = some d ∧ d.owner = fnOwner f ∧ s.descBusy (i.word 0) = true) ∧
    (∃ (f : Fin 2) (s : State) (id : Nat) (i : HostItem), s.Units ∧ s.MemOk ∧ (s.fn f).current = some (id, i) ∧ (∃ x ∈ (s.fn f).taken, x.id = id) ∧ i.ok = true ∧ i.opcode = 3 ∧ (∀ d, mget s.descs (i.word 0) = some d → d.owner ≠ fnOwner f)) ∧
    (∃ (f : Fin 2) (s : State) (id : Nat) (i : HostItem), s.Units ∧ s.MemOk ∧ (s.fn f).current = some (id, i) ∧ (∃ x ∈ (s.fn f).taken, x.id = id) ∧ i.ok = true ∧ i.opcode = 4 ∧ s.moveOk f (moverOpOf (i.bytesFrom 1)) = false) ∧
    (∃ (f : Fin 2) (s : State) (id : Nat) (i : HostItem), s.Units ∧ s.MemOk ∧ (s.fn f).current = some (id, i) ∧ (∃ x ∈ (s.fn f).taken, x.id = id) ∧ i.ok = true ∧ i.opcode = 4 ∧ s.moveOk f (moverOpOf (i.bytesFrom 1)) = true) ∧
    (∃ (f : Fin 2) (s : State) (id : Nat) (i : HostItem), ∃ w, s.Units ∧ s.MemOk ∧ (s.fn f).current = some (id, i) ∧ (∃ x ∈ (s.fn f).taken, x.id = id) ∧ i.ok = true ∧ i.opcode = 5 ∧ mget (s.fn f).windows (i.word 0 % 256) = some w) ∧
    (∃ (f : Fin 2) (s : State) (id : Nat) (i : HostItem), s.Units ∧ s.MemOk ∧ (s.fn f).current = some (id, i) ∧ (∃ x ∈ (s.fn f).taken, x.id = id) ∧ i.ok = true ∧ i.opcode = 5 ∧ mget (s.fn f).windows (i.word 0 % 256) = none) ∧
    (∃ (f : Fin 2) (s : State) (id : Nat) (i : HostItem), s.Units ∧ s.MemOk ∧ (s.fn f).current = some (id, i) ∧ (∃ x ∈ (s.fn f).taken, x.id = id) ∧ i.ok = true ∧ i.opcode = 6) ∧
    (∃ (f : Fin 2) (s : State) (id : Nat) (i : HostItem), s.Units ∧ s.MemOk ∧ (s.fn f).current = some (id, i) ∧ (∃ x ∈ (s.fn f).taken, x.id = id) ∧ i.ok = true ∧ i.opcode = 7 ∧ f = 0 ∧ s.live = none) ∧
    (∃ (f : Fin 2) (s : State) (id : Nat) (i : HostItem), s.Units ∧ s.MemOk ∧ (s.fn f).current = some (id, i) ∧ (∃ x ∈ (s.fn f).taken, x.id = id) ∧ i.ok = true ∧ i.opcode = 7 ∧ f = 0 ∧ s.live.isSome) ∧
    (∃ (f : Fin 2) (s : State) (id : Nat) (i : HostItem), s.Units ∧ s.MemOk ∧ (s.fn f).current = some (id, i) ∧ (∃ x ∈ (s.fn f).taken, x.id = id) ∧ i.ok = true ∧ i.opcode = 7 ∧ f = 1) ∧
    (∃ (f : Fin 2) (s : State) (id : Nat) (i : HostItem), s.Units ∧ s.MemOk ∧ (s.fn f).current = some (id, i) ∧ (∃ x ∈ (s.fn f).taken, x.id = id) ∧ i.ok = true ∧ i.opcode = 8 ∧ f = 0) ∧
    (∃ (f : Fin 2) (s : State) (id : Nat) (i : HostItem), s.Units ∧ s.MemOk ∧ (s.fn f).current = some (id, i) ∧ (∃ x ∈ (s.fn f).taken, x.id = id) ∧ i.ok = true ∧ i.opcode = 8 ∧ f = 1 ∧ s.host.attests = []) ∧
    (∃ (f : Fin 2) (s : State) (id : Nat) (i : HostItem), s.Units ∧ s.MemOk ∧ (s.fn f).current = some (id, i) ∧ (∃ x ∈ (s.fn f).taken, x.id = id) ∧ i.ok = true ∧ i.opcode = 8 ∧ f = 1 ∧ s.host.attests ≠ []) ∧
    (∃ (f : Fin 2) (s : State), (∀ x ∈ (s.fn f).taken, x.opcode = 1 → s.waitsOver f x = false ∨ (s.fn f).current.map (fun y => y.1) = some x.id)) ∧
    (∃ (f : Fin 2) (s : State), (∀ x ∈ (s.fn f).taken, x.opcode = 6 → s.waitsOver f x = false ∨ (s.fn f).current.map (fun y => y.1) = some x.id)) ∧
    (∃ (f : Fin 2) (s : State) (a b : List TakenItem) (x : TakenItem), s.Units ∧ s.MemOk ∧ (s.fn f).taken = a ++ x :: b ∧ (s.fn f).current = none ∧ s.waitsOver f x = true ∧ (∀ y ∈ a, y.opcode ≠ x.opcode) ∧ x.opcode = 1) ∧
    (∃ (f : Fin 2) (s : State) (a b : List TakenItem) (x : TakenItem), ∃ w, s.Units ∧ s.MemOk ∧ (s.fn f).taken = a ++ x :: b ∧ (s.fn f).current = none ∧ s.waitsOver f x = true ∧ (∀ y ∈ a, y.opcode ≠ x.opcode) ∧ x.opcode = 6 ∧ x.windows = [w] ∧ mrising 0 (s.fn f).windows = true) ∧
    (∃ s : State, (∀ j rest, s.host.dumps = j :: rest → j.done = false)) ∧
    (∃ (s : State) (j : DumpJob), s.Units ∧ s.MemOk ∧ s.host.dumps = [j] ∧ j.done = true ∧ (∃ x ∈ (s.fn 0).taken, x.id = j.id)) ∧
    (∃ s : State, s.host.attests = []) ∧
    (∃ (s : State) (j : AttestJob), ∃ w, s.Units ∧ s.MemOk ∧ s.host.attests = [j] ∧ (∃ x ∈ (s.fn 1).taken, x.id = j.id) ∧ s.winFor 1 j.window true = some w ∧ 80416 ≤ w.pages * 4096) ∧
    (∃ (s : State) (j : AttestJob), s.Units ∧ s.MemOk ∧ s.host.attests = [j] ∧ (∃ x ∈ (s.fn 1).taken, x.id = j.id) ∧ s.winFor 1 j.window true = none) :=
  ⟨⟨1, .hostFence 1, 1, hostAt {} (acting 0 []), by refine ⟨by decide, ?_⟩; intro id i h; cases h; decide⟩,
    ⟨1, .mapWindow 1, 5, hostAt {} (acting 5 [1024, 0, 0, 1]), 3, ⟨0, 7, 5, [1024, 0, 0, 1]⟩, by unfold State.MemOk State.Units; decide⟩,
    ⟨1, hostAt {} (acting 0 []), 3, ⟨0, 7, 0, []⟩, by unfold State.MemOk State.Units; decide⟩,
    ⟨0, hostAt (acting 1 []) {}, 3, ⟨0, 7, 1, []⟩, by unfold State.MemOk State.Units; decide⟩,
    ⟨0, hostAt (acting 2 newDesc) {}, 3, ⟨0, 7, 2, newDesc⟩, 0, by unfold State.MemOk State.Units; decide⟩,
    ⟨0, hostAt (acting 2 (List.replicate 32 0)) {}, 3, ⟨0, 7, 2, List.replicate 32 0⟩, 4, by unfold State.MemOk State.Units; decide⟩,
    ⟨1, { hostAt {} (acting 3 [4095]) with descs := [(4095, { desc := {}, owner := .pf1 })] }, 3, ⟨0, 7, 3, [4095]⟩, { desc := {}, owner := .pf1 }, by unfold State.MemOk State.Units; decide⟩,
    ⟨1, { hostAt {} (acting 3 [4095]) with descs := [(4095, { desc := {}, owner := .pf1 })], movers := { queue := [{ op := { op := 2, dst := 4095 } }] } :: List.replicate 31 {} }, 3, ⟨0, 7, 3, [4095]⟩, { desc := {}, owner := .pf1 }, by unfold State.MemOk State.Units; decide⟩,
    ⟨1, { hostAt {} (acting 3 [4095]) with descs := [(4095, { desc := {} })] }, 3, ⟨0, 7, 3, [4095]⟩, by unfold State.MemOk State.Units; and_intros <;> first | decide | (intro d h; cases h; decide)⟩,
    ⟨0, hostAt (acting 4 (List.replicate 33 0)) {}, 3, ⟨0, 7, 4, List.replicate 33 0⟩, by unfold State.MemOk State.Units; decide⟩,
    ⟨0, { hostAt (acting 4 ([1, 2, 5] ++ List.replicate 30 0)) {} with descs := [(5, { desc := {}, owner := .pf0 })] }, 3, ⟨0, 7, 4, [1, 2, 5] ++ List.replicate 30 0⟩, by unfold State.MemOk State.Units; decide⟩,
    ⟨1, hostAt {} { acting 5 [255, 0, 0, 1] with windows := [(255, ⟨0, 1, true, true⟩)] }, 3, ⟨0, 7, 5, [255, 0, 0, 1]⟩, ⟨0, 1, true, true⟩, by unfold State.MemOk State.Units; decide⟩,
    ⟨1, hostAt {} (acting 5 [1023, 0, 0, 0x100000]), 3, ⟨0, 7, 5, [1023, 0, 0, 0x100000]⟩, by unfold State.MemOk State.Units; decide⟩,
    ⟨1, hostAt {} (acting 6 [255]), 3, ⟨0, 7, 6, [255]⟩, by unfold State.MemOk State.Units; decide⟩,
    ⟨0, { hostAt (acting 7 (List.replicate 17 0)) {} with live := none }, 3, ⟨0, 7, 7, List.replicate 17 0⟩, by unfold State.MemOk State.Units; decide⟩,
    ⟨0, hostAt (acting 7 (List.replicate 17 0)) {}, 3, ⟨0, 7, 7, List.replicate 17 0⟩, by unfold State.MemOk State.Units; decide⟩,
    ⟨1, hostAt {} (acting 7 (List.replicate 17 0)), 3, ⟨0, 7, 7, List.replicate 17 0⟩, by unfold State.MemOk State.Units; decide⟩,
    ⟨0, hostAt (acting 8 (List.replicate 17 0)) {}, 3, ⟨0, 7, 8, List.replicate 17 0⟩, by unfold State.MemOk State.Units; decide⟩,
    ⟨1, hostAt {} (acting 8 (List.replicate 17 0)), 3, ⟨0, 7, 8, List.replicate 17 0⟩, by unfold State.MemOk State.Units; decide⟩,
    ⟨1, (hostAt {} (acting 8 (List.replicate 17 0))).onHost (fun h => { h with attests := [⟨2, 0, [], 0, []⟩] }), 3, ⟨0, 7, 8, List.replicate 17 0⟩, by unfold State.MemOk State.Units; decide⟩,
    ⟨1, hostAt {} { taken := [{ id := 3, tag := 7, opcode := 1, waits := [2] }, { id := 2, tag := 7, opcode := 0 }] }, by decide⟩,
    ⟨1, hostAt {} (acting 6 [255]), by decide⟩,
    ⟨1, hostAt {} { taken := [{ id := 4, tag := 7, opcode := 6 }, { id := 3, tag := 7, opcode := 1, waits := [2] }] }, [{ id := 4, tag := 7, opcode := 6 }], [], { id := 3, tag := 7, opcode := 1, waits := [2] }, by unfold State.MemOk State.Units; decide⟩,
    ⟨1, hostAt {} { taken := [{ id := 4, tag := 7, opcode := 6, windows := [255] }] }, [], [], { id := 4, tag := 7, opcode := 6, windows := [255] }, 255, by unfold State.MemOk State.Units; decide⟩,
    ⟨svc, by nofun⟩,
    ⟨(hostAt { taken := [{ id := 3, tag := 7, opcode := 7 }] } {}).onHost (fun h => { h with dumps := [{ id := 3, window := 0, mask := [], beat := 0, epoch := 0, done := true }] }), { id := 3, window := 0, mask := [], beat := 0, epoch := 0, done := true }, by unfold State.MemOk State.Units; decide⟩,
    ⟨svc, by decide⟩,
    ⟨(hostAt {} { taken := [{ id := 3, tag := 7, opcode := 8 }], windows := [(255, ⟨0, 20, false, true⟩)] }).onHost (fun h => { h with attests := [⟨3, 255, [], 0, []⟩] }), ⟨3, 255, [], 0, []⟩, ⟨0, 20, false, true⟩, by unfold State.MemOk State.Units; decide⟩,
    ⟨(hostAt {} { taken := [{ id := 3, tag := 7, opcode := 8 }], windows := [(255, ⟨0, 20, true, false⟩)] }).onHost (fun h => { h with attests := [⟨3, 255, [], 0, []⟩] }), ⟨3, 255, [], 0, []⟩, by unfold State.MemOk State.Units; decide⟩⟩

/-- Every clause of `CommitRingIsWrittenAndRead` that has hypotheses is met somewhere. -/
theorem test_meets_commitRingIsWrittenAndRead :
    (∃ (i : Initiator) (s : State), s.Units ∧ s.MemOk ∧ s.mayReach i Reg.RING_CTRL ∧ s.rbit Reg.RING_CTRL 0 = false ∧ s.com.closed = false) ∧
    (∃ (i : Initiator) (s : State), s.Units ∧ s.MemOk ∧ s.mayReach i Reg.RING_CTRL ∧ s.rbit Reg.RING_CTRL 0 = true) ∧
    (∃ (i : Initiator) (d : BitVec 64) (s : State), s.MemOk ∧ s.mayReach i Reg.RING_READ_LO ∧ s.mayReach i Reg.RING_READ_HI ∧ s.rpair Reg.RING_READ_LO Reg.RING_READ_HI ≤ d.toNat ∧ d.toNat ≤ s.rpair Reg.RING_WRITE_LO Reg.RING_WRITE_HI) ∧
    (∃ (i : Initiator) (d : BitVec 64) (s : State), s.MemOk ∧ s.mayReach i Reg.RING_READ_LO ∧ s.mayReach i Reg.RING_READ_HI ∧ (d.toNat < s.rpair Reg.RING_READ_LO Reg.RING_READ_HI ∨ s.rpair Reg.RING_WRITE_LO Reg.RING_WRITE_HI < d.toNat)) ∧
    (∃ s : State, (∀ r, (s.dest 6).ready = some r → s.ringRoom r.bytes.length = false)) ∧
    (∃ (s : State) (r : SentRecord), s.Units ∧ s.MemOk ∧ (s.dest 6).ready = some r ∧ s.ringRoom r.bytes.length = true ∧ s.rpair Reg.RING_WRITE_LO Reg.RING_WRITE_HI % s.ringSize + r.bytes.length ≤ s.ringSize ∧ s.rpair Reg.RING_BASE_LO Reg.RING_BASE_HI + s.ringSize ≤ s.rpair Reg.RING_WB_ADDR_LO Reg.RING_WB_ADDR_HI) ∧
    (∃ s : State, (s.rbit Reg.RING_CTRL 0 = false ∨ s.host.stall < s.rbits Reg.RING_STALL_LIMIT 15 0 ∨ s.host.stall = 0)) ∧
    (∃ s : State, ∃ r rest, s.Units ∧ s.MemOk ∧ s.rbit Reg.RING_CTRL 0 = true ∧ s.rbits Reg.RING_STALL_LIMIT 15 0 ≤ s.host.stall ∧ 0 < s.host.stall ∧ (s.dest 6).queue = r :: rest) ∧
    (∃ s : State, (¬ s.host.irqArmed ∨ s.host.irqBeats < s.rbits Reg.RING_IRQ_BEATS 10 0 ∨ s.rbit (hqReg 0 Reg.HQ_EVENTS) 1 = false ∨ s.rbit (hqReg 0 Reg.HQ_EVENT_EN) 1 = false)) ∧
    (∃ (s : State) (e : MsixEntry), s.host.irqArmed ∧ s.rbits Reg.RING_IRQ_BEATS 10 0 ≤ s.host.irqBeats ∧ s.rbit (hqReg 0 Reg.HQ_EVENTS) 1 = true ∧ s.rbit (hqReg 0 Reg.HQ_EVENT_EN) 1 = true ∧ lgetD (s.fn 0).msix 1 {} = e ∧ wbit e.control 0 = false) :=
  ⟨⟨.pf0, svc, by unfold State.MemOk State.Units State.mayReach; decide⟩,
    ⟨.pf0, svc.rset Reg.RING_CTRL 1, by unfold State.MemOk State.Units State.mayReach; decide⟩,
    ⟨.pf0, 0x100000005, ((svc.rset Reg.RING_WRITE_LO 5).rset Reg.RING_WRITE_HI 1).rset Reg.RING_READ_LO 5, by unfold State.MemOk State.mayReach; decide⟩,
    ⟨.pf0, 4, ((svc.rset Reg.RING_WRITE_LO 5).rset Reg.RING_WRITE_HI 1).rset Reg.RING_READ_LO 5, by unfold State.MemOk State.mayReach; decide⟩,
    ⟨svc, by nofun⟩,
    ⟨((svc.onDest 6 (fun d => { d with ready := some ⟨due, 0, none, 0, []⟩ })).rset Reg.RING_SIZE 6).rset Reg.RING_WB_ADDR_LO 64, ⟨due, 0, none, 0, []⟩, by unfold State.MemOk State.Units; decide⟩,
    ⟨svc.rset Reg.RING_CTRL 1, by decide⟩,
    ⟨((svc.onDest 6 (fun d => { d with queue := [due] })).rset Reg.RING_CTRL 1).onHost (fun h => { h with stall := (svc.rget Reg.RING_STALL_LIMIT).toNat + 1 }), due, [], by unfold State.MemOk State.Units; decide⟩,
    ⟨svc, by decide⟩,
    ⟨((({ svc with host := { fns := [{ msix := [{}, { control := 0 }] ++ List.replicate 62 {} }, {}], irqArmed := true } } : State).rset Reg.RING_IRQ_BEATS 0x400).rset (hqReg 0 Reg.HQ_EVENTS) 2).rset (hqReg 0 Reg.HQ_EVENT_EN) 2, { control := 0 }, by decide⟩⟩

/-- Every clause of `RegisterAccessesAreJudged` that has hypotheses is met somewhere. -/
theorem test_meets_registerAccessesAreJudged :
    (∃ (c : Instr) (i : Initiator) (o : Nat) (s : State), ctrlWrite c = some (i, o) ∧ s.reaches i = false) ∧
    (∃ (i : Initiator) (off : BitVec 26) (l : List (Option Byte)) (en : List Bool) (d : Word) (b : Fin 19) (w : Fin 1024) (k : Fin 32) (s : State), s.reaches i = false) ∧
    (∃ (c : Instr) (i : Initiator) (o : Nat) (s : State), s.MemOk ∧ ctrlWrite c = some (i, o) ∧ s.reaches i = true ∧ s.fwOpen 0 true i.id o 4 = false) ∧
    (∃ (i : Initiator) (off : BitVec 26) (d : Word) (s : State), s.MemOk ∧ s.reaches i = true ∧ off.toNat % 4 = 0 ∧ off.toNat < 0xF00000 ∧ s.fwOpen 0 true i.id off.toNat 4 = false) ∧
    (∃ (i : Initiator) (off : BitVec 26) (d : Word) (s : State), s.MemOk ∧ s.reaches i = true ∧ off.toNat % 4 = 0 ∧ off.toNat < 0xF00000 ∧ s.fwOpen 0 false i.id off.toNat 4 = false) ∧
    (∃ (c : Instr) (i : Initiator) (o : Nat) (s : State), s.MemOk ∧ ctrlWrite c = some (i, o) ∧ s.mayReach i o ∧ s.privileged i = false) ∧
    (∃ (i : Initiator) (off : BitVec 26) (d : RegDef) (w : Word) (s : State), s.MemOk ∧ s.plainRw i off.toNat d ∧ d.sh = false ∧ d.group = [] ∧ d.takes w ∧ (∀ p, s.badValue i.hostFn off.toNat w p = false)) ∧
    (∃ (i : Initiator) (off : BitVec 26) (d : RegDef) (w : Word) (s : State), s.MemOk ∧ s.plainRw i off.toNat d ∧ d.sh = false ∧ d.group = [] ∧ ¬ d.takes w) ∧
    (∃ (i : Initiator) (off : BitVec 26) (w : Word) (s : State), s.MemOk ∧ off.toNat % 4 = 0 ∧ off.toNat < 0xF00000 ∧ findReg off.toNat = none ∧ s.mayReach i off.toNat) ∧
    (∃ (i : Initiator) (off : BitVec 26) (w : Word) (s : State), s.MemOk ∧ off.toNat % 4 = 0 ∧ off.toNat < 0xF00000 ∧ findReg off.toNat = none ∧ s.mayReach i off.toNat false) ∧
    (∃ (i : Initiator) (off : BitVec 26) (d : RegDef) (w : Word) (s : State), s.MemOk ∧ s.mayReach i off.toNat ∧ (d.wp = true → s.privileged i = true) ∧ off.toNat % 4 = 0 ∧ off.toNat < 0xF00000 ∧ findReg off.toNat = some d ∧ fixedFw off.toNat = false ∧ d.sh = false ∧ d.group = [] ∧ (∀ f ∈ d.fields, f.acc = .rw ∧ f.lk = true ∧ s.locked (off.toNat / 0x100000) = true) ∧ d.agrees w (s.rget off.toNat)) ∧
    (∃ (i : Initiator) (off : BitVec 26) (d : RegDef) (w : Word) (s : State), s.MemOk ∧ s.mayReach i off.toNat ∧ (d.wp = true → s.privileged i = true) ∧ off.toNat % 4 = 0 ∧ off.toNat < 0xF00000 ∧ findReg off.toNat = some d ∧ fixedFw off.toNat = false ∧ d.sh = false ∧ d.group = [] ∧ (∀ f ∈ d.fields, f.acc = .rw ∧ f.lk = true ∧ s.locked (off.toNat / 0x100000) = true) ∧ ¬ d.agrees w (s.rget off.toNat)) ∧
    (∃ (i : Initiator) (off : BitVec 26) (l : List (Option Byte)) (s : State), (∀ b ∈ l, b = none)) ∧
    (∃ (i : Initiator) (off : BitVec 26) (l : List (Option Byte)) (s : State), s.MemOk ∧ s.mayReach i off.toNat ∧ off.toNat % 4 = 0 ∧ off.toNat < 0xF00000 ∧ l.length = 4 ∧ (∃ b ∈ l, b = none) ∧ (∃ b ∈ l, b ≠ none)) ∧
    (∃ (i : Initiator) (off : BitVec 26) (d : RegDef) (w : Word) (s : State), s.MemOk ∧ s.plainRw i off.toNat d ∧ d.fields ≠ [] ∧ d.takes w ∧ (∀ p, s.badValue i.hostFn off.toNat w p = false) ∧ d.group ≠ []) ∧
    (∃ (i : Initiator) (off : BitVec 26) (d : RegDef) (w : Word) (s : State), s.MemOk ∧ s.plainRw i off.toNat d ∧ d.fields ≠ [] ∧ d.takes w ∧ (∀ p, s.badValue i.hostFn off.toNat w p = false) ∧ d.sh = true ∧ 4 ≤ off.toNat) ∧
    (∃ (i : Initiator) (off : BitVec 26) (d : RegDef) (en : List Bool) (s : State), s.mayReach i off.toNat false ∧ off.toNat % 4 = 0 ∧ off.toNat < 0xF00000 ∧ findReg off.toNat = some d ∧ en.length = 4 ∧ true ∈ en ∧ (d.rp = true ∧ s.privileged i = false)) ∧
    (∃ (i : Initiator) (off : BitVec 26) (d : RegDef) (en : List Bool) (s : State), ∃ k, s.mayReach i off.toNat false ∧ off.toNat % 4 = 0 ∧ off.toNat < 0xF00000 ∧ findReg off.toNat = some d ∧ en.length = 4 ∧ true ∈ en ∧ (d.rp = true → s.privileged i = true) ∧ k < 4) ∧
    (∃ (i : Initiator) (off : BitVec 26) (d : RegDef) (en : List Bool) (s : State), s.mayReach i off.toNat false ∧ off.toNat % 4 = 0 ∧ off.toNat < 0xF00000 ∧ findReg off.toNat = some d ∧ en.length = 4 ∧ true ∈ en ∧ (d.sh = true ∨ lgetD en 0 false = false)) ∧
    (∃ (i : Initiator) (off : BitVec 26) (d : RegDef) (en : List Bool) (s : State), ∃ g ∈ d.group, s.mayReach i off.toNat false ∧ off.toNat % 4 = 0 ∧ off.toNat < 0xF00000 ∧ findReg off.toNat = some d ∧ en.length = 4 ∧ true ∈ en ∧ (d.rp = true → s.privileged i = true) ∧ d.sh = false ∧ lgetD en 0 false = true ∧ mrising 0 s.shadows) ∧
    (∃ (i : Initiator) (off : BitVec 26) (en : List Bool) (s : State), s.MemOk ∧ s.reaches i = true ∧ s.fwOpen 0 false i.id off.toNat en.length = true ∧ true ∈ en ∧ 4 < off.toNat % 4 + en.length ∧ ¬ (off.toNat % 8 = 0 ∧ en.length = 8)) ∧
    (∃ (i : Initiator) (b : Fin 19) (w : Fin 1024) (k : Fin 32) (d : RegDef) (v : Word) (s : State), s.MemOk ∧ b ≠ 7 ∧ b ≠ 15 ∧ findReg (b * 0x100000 + w * 4) = some d ∧ d.sh = false ∧ d.group = [] ∧ s.plainRw i (b * 0x100000 + w * 4) d ∧ d.takes (putBits (s.rget (b * 0x100000 + w * 4)) k k (b2n (wbit v 0))) ∧ (∀ x p, s.badValue i.hostFn (b * 0x100000 + w * 4) x p = false)) ∧
    (∃ (i : Initiator) (b : Fin 19) (w : Fin 1024) (k : Fin 32) (d : RegDef) (v : Word) (s : State), ∃ n, s.MemOk ∧ b ≠ 7 ∧ b ≠ 15 ∧ findReg (b * 0x100000 + w * 4) = some d ∧ d.sh = false ∧ d.group = [] ∧ s.mayReach i (b * 0x100000 + w * 4) ∧ (d.wp = true → s.privileged i = true) ∧ (∀ f ∈ d.fields, f.acc = .w1c) ∧ n < 32) ∧
    (∃ (i : Initiator) (b : Fin 19) (s : State), lockAt b = none) ∧
    (∃ (i : Initiator) (b : Fin 19) (o k : Nat) (s : State), ∃ n, s.MemOk ∧ lockAt b = some (o, k) ∧ s.mayWrite i (ctrlOf b) ∧ n < 32 ∧ n ≠ k) ∧
    (∃ (i : Initiator) (s : State), ∃ b o k, s.MemOk ∧ s.mayWrite i Reg.GLOBAL_CTRL ∧ lockAt b = some (o, k)) :=
  ⟨⟨.timeSnap .pf0, .pf0, Reg.TIME_CTRL, boot 7, by decide⟩,
    ⟨.pf1, 0, [none, some 1], [true], 0, 0, 0, 0, svc.onBoot (fun b => { b with straps := 0 }), by decide⟩,
    ⟨.timeSnap .debug, .debug, Reg.TIME_CTRL, shut 0xE04018 0, by unfold State.MemOk; decide⟩,
    ⟨.pf1, 0x101110, 1, shut 0xE04018 0, by unfold State.MemOk; decide⟩,
    ⟨.pf1, 0xEFFFFC, 1, shut 0xE04010 0, by unfold State.MemOk; decide⟩,
    ⟨.timeSnap .pf0, .pf0, Reg.TIME_CTRL, svc, by unfold State.MemOk State.mayReach; decide⟩,
    ⟨.management, BitVec.ofNat 26 Reg.STEP_THRESHOLD, regAt Reg.STEP_THRESHOLD, 10000, svc, by unfold State.MemOk State.plainRw RegDef.takes State.mayReach; and_intros <;> first | decide | rfl | (intro p; exact badValue_free _ _ _ _ _ (by decide) (by decide) (by decide))⟩,
    ⟨.management, BitVec.ofNat 26 Reg.SERVO_CTRL, regAt Reg.SERVO_CTRL, 7, svc, by unfold State.MemOk State.plainRw RegDef.takes State.mayReach; and_intros <;> first | decide | rfl⟩,
    ⟨.security, 0x101FFC, 1, svc, by unfold State.MemOk State.mayReach; decide⟩,
    ⟨.pf0, 0x101FFC, 1, svc, by unfold State.MemOk State.mayReach; decide⟩,
    ⟨.management, BitVec.ofNat 26 Reg.HOLDOVER_TIMEOUT, regAt Reg.HOLDOVER_TIMEOUT, svc.rget Reg.HOLDOVER_TIMEOUT, svc.setLock 1, by unfold State.MemOk State.mayReach RegDef.agrees; and_intros <;> first | decide | rfl⟩,
    ⟨.management, BitVec.ofNat 26 Reg.HOLDOVER_TIMEOUT, regAt Reg.HOLDOVER_TIMEOUT, svc.rget Reg.HOLDOVER_TIMEOUT + 1, svc.setLock 1, by unfold State.MemOk State.mayReach RegDef.agrees; and_intros <;> first | decide | rfl⟩,
    ⟨.pf0, 0x3FFFFFF, [none, none], svc, by decide⟩,
    ⟨.management, 0x101110, [some 1, none, none, none], svc, by unfold State.MemOk State.mayReach; and_intros <;> first | decide | exact ⟨none, by decide⟩ | exact ⟨some 1, by decide⟩⟩,
    ⟨.security, 0xE04410, regAt 0xE04410, 0xFFFFFFFF, svc, by unfold State.MemOk State.plainRw RegDef.takes State.mayReach; and_intros <;> first | decide | rfl | (intro p; exact badValue_free _ _ _ _ _ (by decide) (by decide) (by decide))⟩,
    ⟨.security, 0xE04414, regAt 0xE04414, 0, svc, by unfold State.MemOk State.plainRw RegDef.takes State.mayReach; and_intros <;> first | decide | rfl | (intro p; exact badValue_free _ _ _ _ _ (by decide) (by decide) (by decide))⟩,
    ⟨.pf0, BitVec.ofNat 26 (Reg.LOG_DATA 0), regAt (Reg.LOG_DATA 0), [true, true, true, true], svc, by unfold State.mayReach; and_intros <;> first | decide | rfl⟩,
    ⟨.pf0, BitVec.ofNat 26 Reg.TIME_COUNT_LO, regAt Reg.TIME_COUNT_LO, [true, false, false, false], svc, 3, by unfold State.mayReach; and_intros <;> first | decide | rfl⟩,
    ⟨.pf0, BitVec.ofNat 26 Reg.TIME_COUNT_LO, regAt Reg.TIME_COUNT_LO, [false, false, false, true], svc, by unfold State.mayReach; and_intros <;> first | decide | rfl⟩,
    ⟨.pf0, BitVec.ofNat 26 Reg.FUSION_TIME_LO, regAt Reg.FUSION_TIME_LO, [true, true, true, true], svc, 8, by unfold State.mayReach; and_intros <;> first | decide | rfl⟩,
    ⟨.pf0, 0x101043, [true, true], svc, by unfold State.MemOk; decide⟩,
    ⟨.management, 1, 2, 3, regAt 0x100008, 1, svc, by unfold State.MemOk State.plainRw RegDef.takes State.mayReach; and_intros <;> first | decide | rfl | (intro x p; exact badValue_free _ _ _ _ _ (by decide) (by decide) (by decide))⟩,
    ⟨.management, 1, 1, 31, regAt 0x100004, 0, svc, 31, by unfold State.MemOk State.mayReach; and_intros <;> first | decide | rfl⟩,
    ⟨.pf0, 4, svc, by decide⟩,
    ⟨.management, 3, Reg.INGEST_CTRL, 8, svc, 31, by unfold State.MemOk State.mayWrite State.mayReach; decide⟩,
    ⟨.management, svc, 18, 0x120000C, 0, by unfold State.MemOk State.mayWrite State.mayReach; decide⟩⟩

/-- Every clause of `TriggersAct` that has hypotheses is met somewhere. -/
theorem test_meets_triggersAct :
    (∃ (i : Initiator) (s : State), s.MemOk ∧ s.mayWrite i Reg.TIME_CTRL ∧ s.inServ = false) ∧
    (∃ (i : Initiator) (s : State), s.MemOk ∧ s.mayWrite i Reg.TIME_CTRL ∧ s.inServ = true ∧ s.rbits Reg.SERVO_CTRL 2 0 = 4) ∧
    (∃ (i : Initiator) (s : State), s.MemOk ∧ s.mayWrite i Reg.TIME_CTRL ∧ s.inServ = true ∧ s.rbits Reg.SERVO_CTRL 2 0 ≠ 4) ∧
    (∃ (i : Initiator) (n : Fin 8) (d : Word) (s : State), s.Units ∧ s.MemOk ∧ s.mayWrite i (Reg.PORT_CFG n) ∧ s.locked 2 = true) ∧
    (∃ (i : Initiator) (n : Fin 8) (d : Word) (s : State), s.Units ∧ s.MemOk ∧ s.mayWrite i (Reg.PORT_CFG n) ∧ s.locked 2 = false) ∧
    (∃ (i : Initiator) (s : State), s.MemOk ∧ s.mayWrite i Reg.PORT_CTRL) ∧
    (∃ (i : Initiator) (m : BitVec 8) (s : State), ∃ n, s.MemOk ∧ s.mayWrite i Reg.INGEST_CTRL ∧ n < 8) ∧
    (∃ (i : Initiator) (m : BitVec 8) (s : State), ∃ n, s.MemOk ∧ s.mayReach i Reg.INGEST_EVENTS ∧ n < 32) ∧
    (∃ (i : Initiator) (m : BitVec 8) (s : State), ∃ n, s.MemOk ∧ s.mayReach i Reg.INGEST_EVENTS ∧ n < 8) ∧
    (∃ (i : Initiator) (m : BitVec 20) (s : State), ∃ n, s.MemOk ∧ s.mayReach i Reg.ESCAPE_EVENTS ∧ n < 32) ∧
    (∃ (i : Initiator) (m : BitVec 20) (s : State), ∃ n, s.MemOk ∧ s.mayReach i Reg.ESCAPE_EVENTS ∧ n < 20) ∧
    (∃ (i : Initiator) (s : State), ∃ r, s.mayWrite i Reg.POD_CTRL ∧ r < 512 ∧ (s.store.region r).phase = .steady) ∧
    (∃ (i : Initiator) (s : State), s.MemOk ∧ s.mayWrite i Reg.COMMIT_CTRL) ∧
    (∃ (i : Initiator) (b : Fin 19) (s : State), capturesOf b = []) ∧
    (∃ (i : Initiator) (b : Fin 19) (s : State), ∃ o n, s.MemOk ∧ capturesOf b ≠ [] ∧ s.mayWrite i (ctrlOf b) ∧ n < 32 ∧ (o ∉ capturesOf b ∨ n ≠ 31)) ∧
    (∃ (i : Initiator) (s : State), s.MemOk ∧ s.mayWrite i Reg.SOLVER_CTRL) ∧
    (∃ (i : Initiator) (s : State), s.MemOk ∧ s.mayWrite i Reg.PLACE_CTRL) ∧
    (∃ (i : Initiator) (s : State), s.MemOk ∧ s.mayWrite i Reg.MEM_CTRL) ∧
    (∃ (i : Initiator) (m : BitVec 6) (s : State), ∃ n, s.MemOk ∧ s.mayWrite i Reg.PEER_CTRL ∧ n < 6) ∧
    (∃ (i : Initiator) (m : BitVec 6) (s : State), s.MemOk ∧ s.mayWrite i Reg.PEER_CTRL ∧ s.peers.mirror.valid = true ∧ (s.peer s.peers.mirror.port).state = .up) ∧
    (∃ (i : Initiator) (m : BitVec 6) (s : State), s.MemOk ∧ s.mayWrite i Reg.PEER_CTRL ∧ ¬ (s.peers.mirror.valid = true ∧ (s.peer s.peers.mirror.port).state = .up)) ∧
    (∃ (i : Initiator) (d : Word) (s : State), s.MemOk ∧ s.mayWrite i Reg.CHIP_COORD ∧ Reg.CHIP_COORD ∉ s.wo) ∧
    (∃ (i : Initiator) (d : Word) (s : State), s.MemOk ∧ s.mayWrite i Reg.CHIP_COORD ∧ Reg.CHIP_COORD ∈ s.wo) ∧
    (∃ (i : Initiator) (s : State), s.MemOk ∧ s.mayWrite i Reg.SAFETY_CTRL ∧ (s.safety.state = .normal ∨ s.safety.state = .degraded)) ∧
    (∃ (i : Initiator) (s : State), s.MemOk ∧ s.mayWrite i Reg.SAFETY_CTRL ∧ s.safety.state ≠ .normal ∧ s.safety.state ≠ .degraded) ∧
    (∃ (i : Initiator) (s : State), s.MemOk ∧ s.mayWrite i Reg.SAFETY_CTRL ∧ s.hold = true) ∧
    (∃ (i : Initiator) (s : State), s.MemOk ∧ s.mayWrite i Reg.SAFETY_CTRL ∧ s.hold = false) ∧
    (∃ (i : Initiator) (d : Word) (s : State), s.MemOk ∧ s.mayWrite i Reg.FAULT_CLEAR ∧ s.marked (wbits d 23 16) (wbits d 15 0) = true ∧ (s.keeper.clears.length < 16 ∨ (wbits d 23 16, wbits d 15 0) ∈ s.keeper.clears)) ∧
    (∃ (i : Initiator) (d : Word) (s : State), s.MemOk ∧ s.mayWrite i Reg.FAULT_CLEAR ∧ (s.marked (wbits d 23 16) (wbits d 15 0) = false ∨ (16 ≤ s.keeper.clears.length ∧ (wbits d 23 16, wbits d 15 0) ∉ s.keeper.clears))) :=
  ⟨⟨.management, boot 9, by unfold State.MemOk State.mayWrite State.mayReach; decide⟩,
    ⟨.management, svc.rset Reg.SERVO_CTRL 4, by unfold State.MemOk State.mayWrite State.mayReach; decide⟩,
    ⟨.security, svc, by unfold State.MemOk State.mayWrite State.mayReach; decide⟩,
    ⟨.management, 7, 1, svc.setLock 2, by unfold State.MemOk State.Units State.mayWrite State.mayReach; decide⟩,
    ⟨.management, 7, 3, svc, by unfold State.MemOk State.Units State.mayWrite State.mayReach; decide⟩,
    ⟨.management, svc, by unfold State.MemOk State.mayWrite State.mayReach; decide⟩,
    ⟨.management, 0x80, svc, 7, by unfold State.MemOk State.mayWrite State.mayReach; decide⟩,
    ⟨.pf0, 0xFF, svc, 31, by unfold State.MemOk State.mayReach; decide⟩,
    ⟨.pf0, 0xFF, svc, 7, by unfold State.MemOk State.mayReach; decide⟩,
    ⟨.pf0, 0xFFFFF, svc, 31, by unfold State.MemOk State.mayReach; decide⟩,
    ⟨.pf0, 0xFFFFF, svc, 19, by unfold State.MemOk State.mayReach; decide⟩,
    ⟨.management, svc, 511, by unfold State.mayWrite State.mayReach; decide⟩,
    ⟨.management, svc, by unfold State.MemOk State.mayWrite State.mayReach; decide⟩,
    ⟨.pf0, 0, svc, by decide⟩,
    ⟨.management, 12, svc, Reg.ECC_INFO, 30, by unfold State.MemOk State.mayWrite State.mayReach; decide⟩,
    ⟨.management, svc, by unfold State.MemOk State.mayWrite State.mayReach; decide⟩,
    ⟨.management, svc, by unfold State.MemOk State.mayWrite State.mayReach; decide⟩,
    ⟨.management, svc, by unfold State.MemOk State.mayWrite State.mayReach; decide⟩,
    ⟨.management, 0x20, svc, 5, by unfold State.MemOk State.mayWrite State.mayReach; decide⟩,
    ⟨.management, 0x20, (peerAt {}).onPeers (fun q => { q with mirror := { valid := true, port := 5 } }), by unfold State.MemOk State.mayWrite State.mayReach; decide⟩,
    ⟨.management, 0x20, (peerAt {}).onPeers (fun q => { q with mirror := { valid := true, port := 0 } }), by unfold State.MemOk State.mayWrite State.mayReach; decide⟩,
    ⟨.management, 0x3FFF, svc, by unfold State.MemOk State.mayWrite State.mayReach; decide⟩,
    ⟨.management, 0, { svc with wo := [Reg.CHIP_COORD] }, by unfold State.MemOk State.mayWrite State.mayReach; decide⟩,
    ⟨.management, svc, by unfold State.MemOk State.mayWrite State.mayReach; decide⟩,
    ⟨.management, svc.onSafety (fun x => { x with state := .unverified }), by unfold State.MemOk State.mayWrite State.mayReach; decide⟩,
    ⟨.management, held, by unfold State.MemOk State.mayWrite State.mayReach; decide⟩,
    ⟨.management, svc, by unfold State.MemOk State.mayWrite State.mayReach; decide⟩,
    ⟨.management, 0x10003, { svc with keeper := { faults := [(1, 3)], clears := List.replicate 15 (2, 2) } }, by unfold State.MemOk State.mayWrite State.mayReach; decide⟩,
    ⟨.management, 0x10003, svc, by unfold State.MemOk State.mayWrite State.mayReach; decide⟩⟩

/-- Every clause of `SecurityFusesAndMarrowCommands` that has hypotheses is met somewhere. -/
theorem test_meets_securityFusesAndMarrowCommands :
    (∃ (i : Initiator) (s : State), s.MemOk ∧ s.mayWrite i Reg.SEC_CTRL ∧ s.boot.fwSecurity ≤ s.fuses.fwMin) ∧
    (∃ (i : Initiator) (s : State), ∃ b, s.MemOk ∧ s.mayWrite i Reg.SEC_CTRL ∧ s.fuses.fwMin < s.boot.fwSecurity ∧ b < 128) ∧
    (∃ (i : Initiator) (s : State), s.MemOk ∧ s.mayWrite i Reg.SEC_CTRL ∧ s.fuses.fwMin < s.boot.fwSecurity ∧ s.fuses.rollback = BitVec.ofNat 128 (2 ^ s.fuses.fwMin - 1) ∧ s.boot.fwSecurity ≤ 128) ∧
    (∃ (i : Initiator) (ok : Bool) (s : State), s.MemOk ∧ s.mayWrite i Reg.SEC_CTRL ∧ (s.rget Reg.LIVE_SECURITY_VERSION).toNat ≤ s.keeper.imageMin) ∧
    (∃ (i : Initiator) (ok : Bool) (s : State), s.MemOk ∧ s.mayWrite i Reg.SEC_CTRL ∧ s.keeper.imageMin < (s.rget Reg.LIVE_SECURITY_VERSION).toNat) ∧
    (∃ (i : Initiator) (r : BitVec 256) (s : State), s.MemOk ∧ s.mayWrite i Reg.SEC_CTRL ∧ s.fuses.killed = true) ∧
    (∃ (i : Initiator) (c g : Bool) (s : State), s.MemOk ∧ s.mayWrite i Reg.SEC_CTRL ∧ s.fuses.killed = false ∧ (s.inServ = true → s.hold = true) ∧ certOk (s.dread 2 0xFFFE 0 30048) 4 s.fuses = true ∧ c = true ∧ g = true ∧ s.boot.challenge = true ∧ s.rbit Reg.SEC_CTRL 0 = false ∧ s.boot.refusals < 3) ∧
    (∃ (i : Initiator) (c g : Bool) (s : State), s.MemOk ∧ s.mayWrite i Reg.SEC_CTRL ∧ (s.fuses.killed = true ∨ (s.inServ = true ∧ s.hold = false) ∨ certOk (s.dread 2 0xFFFE 0 30048) 4 s.fuses = false ∨ c = false ∨ g = false ∨ s.boot.challenge = false ∨ s.rbit Reg.SEC_CTRL 0 = true ∨ 3 ≤ s.boot.refusals)) ∧
    (∃ (i : Initiator) (c g : Bool) (s : State), s.MemOk ∧ s.mayWrite i Reg.SEC_CTRL ∧ s.fuses.killed = false ∧ s.inServ = true ∧ s.hold = false) ∧
    (∃ (i : Initiator) (s : State), s.MemOk ∧ s.mayWrite i Reg.FUSE_CTRL ∧ s.boot.programming.isSome) ∧
    (∃ (i : Initiator) (s : State), s.MemOk ∧ s.mayWrite i Reg.FUSE_CTRL ∧ s.boot.programming = none ∧ s.rbit Reg.FUSE_CTRL 0 = true) ∧
    (∃ (i : Initiator) (s : State), s.MemOk ∧ s.mayWrite i Reg.FUSE_CTRL ∧ s.boot.programming = none ∧ s.rbit Reg.FUSE_CTRL 0 = false ∧ s.rbits Reg.FUSE_PROGRAM 1 0 = 1 ∧ s.fuses.customer = 0 ∧ s.rget Reg.FUSE_PROGRAM_VALUE ≠ 0) ∧
    (∃ (i : Initiator) (s : State), s.MemOk ∧ s.mayWrite i Reg.FUSE_CTRL ∧ s.boot.programming = none ∧ s.rbit Reg.FUSE_CTRL 0 = false ∧ s.rbits Reg.FUSE_PROGRAM 1 0 = 1 ∧ (s.fuses.customer ≠ 0 ∨ s.rget Reg.FUSE_PROGRAM_VALUE = 0)) ∧
    (∃ (i : Initiator) (s : State), s.MemOk ∧ s.mayWrite i Reg.FUSE_CTRL ∧ s.boot.programming = none ∧ s.rbit Reg.FUSE_CTRL 0 = false ∧ s.rbits Reg.FUSE_PROGRAM 1 0 = 2 ∧ s.rget Reg.FUSE_PROGRAM_VALUE = 0x4B494C4C) ∧
    (∃ (i : Initiator) (s : State), s.MemOk ∧ s.mayWrite i Reg.FUSE_CTRL ∧ s.boot.programming = none ∧ s.rbit Reg.FUSE_CTRL 0 = false ∧ s.rbits Reg.FUSE_PROGRAM 1 0 = 2 ∧ s.rget Reg.FUSE_PROGRAM_VALUE ≠ 0x4B494C4C) ∧
    (∃ (ok : Bool) (s : State), s.boot.programming = none) ∧
    (∃ (f : Nat) (v : Word) (s : State), s.MemOk ∧ s.boot.programming = some (f, v) ∧ f = 1) ∧
    (∃ (f : Nat) (v : Word) (s : State), s.MemOk ∧ s.boot.programming = some (f, v) ∧ f ≠ 1) ∧
    (∃ (i : Initiator) (s : State), s.MemOk ∧ s.mayWrite i Reg.POWER_CTRL ∧ s.saved = true) ∧
    (∃ (i : Initiator) (s : State), ∃ k, s.MemOk ∧ s.mayWrite i Reg.POWER_CTRL ∧ s.saved = false ∧ mrising 0 s.keeper.marrow.grid ∧ mrising 0 s.power.staging ∧ (mget s.keeper.marrow.grid k).isSome) :=
  ⟨⟨.security, svc, by unfold State.MemOk State.mayWrite State.mayReach; decide⟩,
    ⟨.security, svc.onBoot (fun b => { b with fwSecurity := 129 }), 127, by unfold State.MemOk State.mayWrite State.mayReach; decide⟩,
    ⟨.security, svc.onBoot (fun b => { b with fwSecurity := 128 }), by unfold State.MemOk State.mayWrite State.mayReach; decide⟩,
    ⟨.security, true, svc, by unfold State.MemOk State.mayWrite State.mayReach; decide⟩,
    ⟨.security, false, (svc.rset Reg.LIVE_SECURITY_VERSION 1), by unfold State.MemOk State.mayWrite State.mayReach; decide⟩,
    ⟨.security, 5, { svc with fuses := { debugKill := 4 } }, by unfold State.MemOk State.mayWrite State.mayReach; decide⟩,
    ⟨.security, true, true, unlocking, by unfold State.MemOk State.mayWrite State.mayReach; decide⟩,
    ⟨.security, true, true, { unlocking with boot := { step := 9, challenge := true, refusals := 3 } }, by unfold State.MemOk State.mayWrite State.mayReach; decide⟩,
    ⟨.security, true, true, svc, by unfold State.MemOk State.mayWrite State.mayReach; decide⟩,
    ⟨.security, svc.onBoot (fun b => { b with programming := some (1, 5) }), by unfold State.MemOk State.mayWrite State.mayReach; decide⟩,
    ⟨.security, svc.rset Reg.FUSE_CTRL 1, by unfold State.MemOk State.mayWrite State.mayReach; decide⟩,
    ⟨.security, (svc.rset Reg.FUSE_PROGRAM 1).rset Reg.FUSE_PROGRAM_VALUE 5, by unfold State.MemOk State.mayWrite State.mayReach; decide⟩,
    ⟨.security, svc.rset Reg.FUSE_PROGRAM 1, by unfold State.MemOk State.mayWrite State.mayReach; decide⟩,
    ⟨.security, (svc.rset Reg.FUSE_PROGRAM 2).rset Reg.FUSE_PROGRAM_VALUE 0x4B494C4C, by unfold State.MemOk State.mayWrite State.mayReach; decide⟩,
    ⟨.security, (svc.rset Reg.FUSE_PROGRAM 2).rset Reg.FUSE_PROGRAM_VALUE 0x4B494C4D, by unfold State.MemOk State.mayWrite State.mayReach; decide⟩,
    ⟨true, svc, by decide⟩,
    ⟨1, 5, svc.onBoot (fun b => { b with programming := some (1, 5) }), by unfold State.MemOk; decide⟩,
    ⟨2, 5, svc.onBoot (fun b => { b with programming := some (2, 5) }), by unfold State.MemOk; decide⟩,
    ⟨.management, svc.onPower (fun p => { p with saving := some 0 }), by unfold State.MemOk State.mayWrite State.mayReach; decide⟩,
    ⟨.management, { svc with keeper := { marrow := { grid := [(7, ⟨1, []⟩)] } } }, 7, by unfold State.MemOk State.mayWrite State.mayReach; decide⟩⟩

/-- Every clause of `MailboxAndSmbusCommands` that has hypotheses is met somewhere. -/
theorem test_meets_mailboxAndSmbusCommands :
    (∃ (i : Initiator) (s : State), s.MemOk ∧ s.mayWrite i Reg.MBOX_CTRL ∧ s.boot.mboxBusy = true) ∧
    (∃ (c : Instr) (n : Nat) (k : SlotCheck) (s : State), (c, n) ∈ [(Instr.mboxTelemetry, 1), (.mboxBootTimes, 2), (.mboxFwWrite k, 3)] ∧ s.MemOk ∧ (¬ s.up ∨ s.boot.mboxBusy = false ∨ s.boot.mboxFull = true ∨ s.power.stopped = true)) ∧
    (∃ (c : Instr) (n : Nat) (k : SlotCheck) (s : State), (c, n) ∈ [(Instr.mboxTelemetry, 1), (.mboxBootTimes, 2), (.mboxFwWrite k, 3)] ∧ s.MemOk ∧ wbits (s.rget (Reg.MBOX_OUT 0)) 7 0 ≠ n ∧ 1 ≤ wbits (s.rget (Reg.MBOX_OUT 0)) 7 0 ∧ wbits (s.rget (Reg.MBOX_OUT 0)) 7 0 ≤ 3) ∧
    (∃ (c : Instr) (n : Nat) (k : SlotCheck) (s : State), (c, n) ∈ [(Instr.mboxTelemetry, 1), (.mboxBootTimes, 2), (.mboxFwWrite k, 3)] ∧ s.MemOk ∧ s.up ∧ s.boot.mboxBusy = true ∧ s.boot.mboxFull = false ∧ s.power.stopped = false ∧ (wbits (s.rget (Reg.MBOX_OUT 0)) 7 0 = n ∨ wbits (s.rget (Reg.MBOX_OUT 0)) 7 0 = 0 ∨ 3 < wbits (s.rget (Reg.MBOX_OUT 0)) 7 0) ∧ wbits (s.rget (Reg.MBOX_OUT 0)) 7 0 ≠ n) ∧
    (∃ s : State, s.MemOk ∧ s.up ∧ s.boot.mboxBusy = true ∧ s.boot.mboxFull = false ∧ s.power.stopped = false ∧ wbits (s.rget (Reg.MBOX_OUT 0)) 7 0 = 1) ∧
    (∃ s : State, ∃ n, s.MemOk ∧ s.up ∧ s.boot.mboxBusy = true ∧ s.boot.mboxFull = false ∧ s.power.stopped = false ∧ wbits (s.rget (Reg.MBOX_OUT 0)) 7 0 = 2 ∧ n < 7) ∧
    (∃ (k : SlotCheck) (n m : Nat) (b : List Byte) (s : State), s.MemOk ∧ s.up ∧ s.boot.mboxBusy = true ∧ s.boot.mboxFull = false ∧ s.power.stopped = false ∧ wbits (s.rget (Reg.MBOX_OUT 0)) 7 0 = 3 ∧ (s.rget (Reg.MBOX_OUT 1)).toNat = n ∧ (s.rget (Reg.MBOX_OUT 2)).toNat = m ∧ s.dread 2 0xFFFE 0 (min m 0x40000) = b ∧ n ≤ 1 ∧ n ≠ s.boot.fwSlot ∧ m ≤ 0x40000 ∧ fwForm b m = true ∧ certOk (lsub b (leAt b 16 4) 30048) 1 s.fuses = true ∧ k.cert = true ∧ k.sig = true ∧ s.fuses.fwMin ≤ leAt b 8 4) ∧
    (∃ (k : SlotCheck) (n m : Nat) (b : List Byte) (s : State), s.MemOk ∧ s.up ∧ s.boot.mboxBusy = true ∧ s.boot.mboxFull = false ∧ s.power.stopped = false ∧ wbits (s.rget (Reg.MBOX_OUT 0)) 7 0 = 3 ∧ (s.rget (Reg.MBOX_OUT 1)).toNat = n ∧ (s.rget (Reg.MBOX_OUT 2)).toNat = m ∧ s.dread 2 0xFFFE 0 (min m 0x40000) = b ∧ (1 < n ∨ n = s.boot.fwSlot ∨ 0x40000 < m ∨ fwForm b m = false ∨ certOk (lsub b (leAt b 16 4) 30048) 1 s.fuses = false ∨ k.cert = false ∨ k.sig = false ∨ leAt b 8 4 < s.fuses.fwMin)) ∧
    (∃ (off : BitVec 32) (d : Word) (p : Bool) (s : State), ¬ s.up) ∧
    (∃ s : State, s.up) ∧
    (∃ (off : BitVec 32) (d : Word) (p : Bool) (s : State), s.up ∧ ¬ (s.reaches .management ∧ 8 ≤ s.boot.step)) ∧
    (∃ s : State, s.reaches .management ∧ 8 ≤ s.boot.step) ∧
    (∃ (off : BitVec 32) (r : RegDef) (s : State), s.MemOk ∧ s.reaches .management ∧ 8 ≤ s.boot.step ∧ off.toNat % 4 = 0 ∧ off.toNat < 0xF00000 ∧ findReg off.toNat = some r ∧ r.rp = true ∧ s.boot.straps.getLsbD 0 = true ∧ s.rbit Reg.SMB_CFG 0 = false) ∧
    (∃ (off : BitVec 32) (r : RegDef) (s : State), s.MemOk ∧ s.reaches .management ∧ 8 ≤ s.boot.step ∧ off.toNat % 4 = 0 ∧ off.toNat < 0xF00000 ∧ findReg off.toNat = some r ∧ (r.rp = true → s.boot.straps.getLsbD 0 = false ∨ s.rbit Reg.SMB_CFG 0 = true) ∧ s.fwOpen 0 false 0x02 off.toNat 4 = false) ∧
    (∃ (off : BitVec 32) (r : RegDef) (s : State), s.MemOk ∧ s.reaches .management ∧ 8 ≤ s.boot.step ∧ off.toNat % 4 = 0 ∧ off.toNat < 0xF00000 ∧ findReg off.toNat = some r ∧ (r.rp = true → s.boot.straps.getLsbD 0 = false ∨ s.rbit Reg.SMB_CFG 0 = true) ∧ s.fwOpen 0 false 0x02 off.toNat 4 = true ∧ r.sh = false) ∧
    (∃ (off : BitVec 32) (d : Word) (p : Bool) (s : State), s.MemOk ∧ s.reaches .management ∧ 8 ≤ s.boot.step ∧ s.boot.straps.getLsbD 0 = true ∧ s.rbit Reg.SMB_CFG 0 = false) ∧
    (∃ (off : BitVec 32) (d : Word) (p : Bool) (s : State), s.MemOk ∧ s.reaches .management ∧ 8 ≤ s.boot.step ∧ (s.boot.straps.getLsbD 0 = false ∨ s.rbit Reg.SMB_CFG 0 = true) ∧ (p = false ∨ off.toNat / 0x100000 = 16 ∨ off.toNat / 0x100000 = 18)) ∧
    (∃ (off : BitVec 32) (d : Word) (p : Bool) (s : State), s.MemOk ∧ s.reaches .management ∧ 8 ≤ s.boot.step ∧ (s.boot.straps.getLsbD 0 = false ∨ s.rbit Reg.SMB_CFG 0 = true) ∧ p = true ∧ off.toNat < 0xF00000) ∧
    (∃ s : State, s.reaches .management ∧ 8 ≤ s.boot.step ∧ s.alerting = false) ∧
    (∃ s : State, s.reaches .management ∧ 8 ≤ s.boot.step ∧ s.alerting = true) :=
  ⟨⟨.security, mbox 0 0 0, by unfold State.MemOk State.mayWrite State.mayReach; decide⟩,
    ⟨.mboxTelemetry, 1, {}, svc, by unfold State.MemOk; and_intros <;> first | decide | exact .inr (.inl rfl)⟩,
    ⟨.mboxBootTimes, 2, {}, mbox 3 0 0, by unfold State.MemOk; decide⟩,
    ⟨.mboxFwWrite {}, 3, {}, mbox 4 0 0, by unfold State.MemOk; decide⟩,
    ⟨mbox 1 0 0, by unfold State.MemOk; decide⟩,
    ⟨mbox 2 0 0, 6, by unfold State.MemOk; decide⟩,
    ⟨{}, 1, 59904, (mbox 3 1 59904).dread 2 0xFFFE 0 59904, mbox 3 1 59904, by unfold State.MemOk; and_intros <;> first | rfl | decide⟩,
    ⟨{}, 0, 5, (mbox 3 0 5).dread 2 0xFFFE 0 5, mbox 3 0 5, by unfold State.MemOk; and_intros <;> first | rfl | decide⟩,
    ⟨0, 0, false, rst, by decide⟩,
    ⟨svc, by decide⟩,
    ⟨0, 0, false, boot 7, by decide⟩,
    ⟨boot 8, by decide⟩,
    ⟨BitVec.ofNat 32 (Reg.LOG_DATA 0), regAt (Reg.LOG_DATA 0), svc, by unfold State.MemOk; and_intros <;> first | rfl | decide⟩,
    ⟨0x100004, regAt 0x100004, shut 0xE04010 0, by unfold State.MemOk; and_intros <;> first | rfl | decide⟩,
    ⟨BitVec.ofNat 32 Reg.HOLDOVER_TIMEOUT, regAt Reg.HOLDOVER_TIMEOUT, svc, by unfold State.MemOk; and_intros <;> first | rfl | decide⟩,
    ⟨0, 0, true, svc, by unfold State.MemOk; decide⟩,
    ⟨0x1000000, 0, true, svc.onBoot (fun b => { b with straps := 0 }), by unfold State.MemOk; decide⟩,
    ⟨0x101110, 1, true, svc.onBoot (fun b => { b with straps := 0 }), by unfold State.MemOk; decide⟩,
    ⟨svc, by decide⟩,
    ⟨svc.rset Reg.GLOBAL_EVENTS 8, by decide⟩⟩

end Sys2Proof.Tests
end

section
/-! PROOFS. The family of chapter 00: every step keeps the memories in their canonical form (O7), and the state after reset meets
the invariants of the step lemmas (O10). -/

namespace Sys2Proof.Machine

open Sys2Proof

/-! ### What a command and a step keep -/

/-- The dispatch of `exec`, command by command: every command but a reset answers a state that keeps all that `Keeps` says. -/
theorem exec_keeps (s : State) : ∀ c : Instr, resets c = false → KeepsOut s (exec c s)
  | .bootStepEnd .., _ => execBootStepEnd_keeps (.refl s)
  | .lockTimeout, _ => execLockTimeout_keeps (.refl s)
  | .inService, _ => execInService_keeps (.refl s)
  | .beatBoundary, _ => execBeatBoundary_keeps (.refl s)
  | .deadlineMissed .., _ => execDeadlineMissed_keeps (.refl s)
  | .frameBoundary .., _ => execFrameBoundary_keeps (.refl s)
  | .servoMeasurement, _ => execServoMeasurement_keeps (.refl s)
  | .followerMeasurement, _ => execFollowerMeasurement_keeps (.refl s)
  | .catchUpDone, _ => execCatchUpDone_keeps (.refl s)
  | .holdoverTimeout, _ => execHoldoverTimeout_keeps (.refl s)
  | .ppsInEdge .., _ => execPpsInEdge_keeps (.refl s)
  | .ppsMissing, _ => execPpsMissing_keeps (.refl s)
  | .ppsOutPulse, _ => execPpsOutPulse_keeps (.refl s)
  | .rootSwitch, _ => execRootSwitch_keeps (.refl s)
  | .rootRelock .., _ => execRootRelock_keeps (.refl s)
  | .rootRetire .., _ => execRootRetire_keeps (.refl s)
  | .frameReceive .., _ => execFrameReceive_keeps (.refl s)
  | .pdelayReqSend .., _ => execPdelayReqSend_keeps (.refl s)
  | .fdbAgeOut .., _ => execFdbAgeOut_keeps (.refl s)
  | .portEvent .., _ => execPortEvent_keeps (.refl s)
  | .parserTakeItem .., _ => execParserTakeItem_keeps (.refl s)
  | .parserExtract .., _ => execParserExtract_keeps (.refl s)
  | .parserExtracts .., _ => execParserExtracts_keeps (.refl s)
  | .parserAlu .., _ => execParserAlu_keeps (.refl s)
  | .parserBranch .., _ => execParserBranch_keeps (.refl s)
  | .parserLoop .., _ => execParserLoop_keeps (.refl s)
  | .parserScale .., _ => execParserScale_keeps (.refl s)
  | .parserPolar .., _ => execParserPolar_keeps (.refl s)
  | .parserTime .., _ => execParserTime_keeps (.refl s)
  | .parserEmit .., _ => execParserEmit_keeps (.refl s)
  | .parserImage .., _ => execParserImage_keeps (.refl s)
  | .parserMotion .., _ => execParserMotion_keeps (.refl s)
  | .parserDrop .., _ => execParserDrop_keeps (.refl s)
  | .parserEnd .., _ => execParserEnd_keeps (.refl s)
  | .itemRelease, _ => execItemRelease_keeps (.refl s)
  | .deskew, _ => execDeskew_keeps (.refl s)
  | .peaFile, _ => execPeaFile_keeps (.refl s)
  | .splineVersionPublish, _ => execSplineVersionPublish_keeps (.refl s)
  | .redeskew, _ => execRedeskew_keeps (.refl s)
  | .rekeyStart .., _ => execRekeyStart_keeps (.refl s)
  | .rekeyCopyDone .., _ => execRekeyCopyDone_keeps (.refl s)
  | .rekeyDrainDone .., _ => execRekeyDrainDone_keeps (.refl s)
  | .ageingPass .., _ => execAgeingPass_keeps (.refl s)
  | .podMerge .., _ => execPodMerge_keeps (.refl s)
  | .podRelocate .., _ => execPodRelocate_keeps (.refl s)
  | .deltaBatchArrive .., _ => execDeltaBatchArrive_keeps (.refl s)
  | .deltaApply, _ => execDeltaApply_keeps (.refl s)
  | .recordTransmit .., _ => execRecordTransmit_keeps (.refl s)
  | .seqNext .., _ => execSeqNext_keeps (.refl s)
  | .seqLoop .., _ => execSeqLoop_keeps (.refl s)
  | .seqLoopEnd .., _ => execSeqLoopEnd_keeps (.refl s)
  | .seqJumpMask .., _ => execSeqJumpMask_keeps (.refl s)
  | .seqEndPass .., _ => execSeqEndPass_keeps (.refl s)
  | .seqHalt .., _ => execSeqHalt_keeps (.refl s)
  | .arrayMac .., _ => execArrayMac_keeps (.refl s)
  | .arrayMacFirst .., _ => execArrayMacFirst_keeps (.refl s)
  | .arrayDrain .., _ => execArrayDrain_keeps (.refl s)
  | .vecAdd .., _ => execVecAdd_keeps (.refl s)
  | .vecSub .., _ => execVecSub_keeps (.refl s)
  | .vecMul .., _ => execVecMul_keeps (.refl s)
  | .vecMulr .., _ => execVecMulr_keeps (.refl s)
  | .vecShr .., _ => execVecShr_keeps (.refl s)
  | .vecShl .., _ => execVecShl_keeps (.refl s)
  | .vecMin .., _ => execVecMin_keeps (.refl s)
  | .vecMax .., _ => execVecMax_keeps (.refl s)
  | .vecCmp .., _ => execVecCmp_keeps (.refl s)
  | .vecSel .., _ => execVecSel_keeps (.refl s)
  | .vecPwl .., _ => execVecPwl_keeps (.refl s)
  | .vecReduce .., _ => execVecReduce_keeps (.refl s)
  | .vecCvt .., _ => execVecCvt_keeps (.refl s)
  | .vecAccv .., _ => execVecAccv_keeps (.refl s)
  | .vecLoadv .., _ => execVecLoadv_keeps (.refl s)
  | .rootRecip .., _ => execRootRecip_keeps (.refl s)
  | .rootDiv .., _ => execRootDiv_keeps (.refl s)
  | .rootSqrt .., _ => execRootSqrt_keeps (.refl s)
  | .rootRsqrt .., _ => execRootRsqrt_keeps (.refl s)
  | .rootPivot .., _ => execRootPivot_keeps (.refl s)
  | .syncWait .., _ => execSyncWait_keeps (.refl s)
  | .syncWaitConsume .., _ => execSyncWaitConsume_keeps (.refl s)
  | .syncSignal .., _ => execSyncSignal_keeps (.refl s)
  | .loadSlot .., _ => execLoadSlot_keeps (.refl s)
  | .storeSlot .., _ => execStoreSlot_keeps (.refl s)
  | .exchange .., _ => execExchange_keeps (.refl s)
  | .engineEvent .., _ => execEngineEvent_keeps (.refl s)
  | .engineHang .., _ => execEngineHang_keeps (.refl s)
  | .selfTestDone .., _ => execSelfTestDone_keeps (.refl s)
  | .engAssignShadow .., _ => execEngAssignShadow_keeps (.refl s)
  | .engSwitch .., _ => execEngSwitch_keeps (.refl s)
  | .engRelease .., _ => execEngRelease_keeps (.refl s)
  | .engRadish .., _ => execEngRadish_keeps (.refl s)
  | .engRetire .., _ => execEngRetire_keeps (.refl s)
  | .radishAnswer .., _ => execRadishAnswer_keeps (.refl s)
  | .radishTimeout .., _ => execRadishTimeout_keeps (.refl s)
  | .datasetMoveDone .., _ => execDatasetMoveDone_keeps (.refl s)
  | .channelBalanceWindow .., _ => execChannelBalanceWindow_keeps (.refl s)
  | .moverOpStart .., _ => execMoverOpStart_keeps (.refl s)
  | .moverCopy .., _ => execMoverCopy_keeps (.refl s)
  | .moverFill .., _ => execMoverFill_keeps (.refl s)
  | .moverGather .., _ => execMoverGather_keeps (.refl s)
  | .moverScatter .., _ => execMoverScatter_keeps (.refl s)
  | .moverDeliver .., _ => execMoverDeliver_keeps (.refl s)
  | .moverOpComplete .., _ => execMoverOpComplete_keeps (.refl s)
  | .fastPublish, _ => execFastPublish_keeps (.refl s)
  | .fastSolveEnd .., _ => execFastSolveEnd_keeps (.refl s)
  | .fastDeadlineMiss, _ => execFastDeadlineMiss_keeps (.refl s)
  | .slowPublish, _ => execSlowPublish_keeps (.refl s)
  | .slowDeadlineMiss, _ => execSlowDeadlineMiss_keeps (.refl s)
  | .slotLoad .., _ => execSlotLoad_keeps (.refl s)
  | .slotCancel .., _ => execSlotCancel_keeps (.refl s)
  | .slotCopyDone, _ => execSlotCopyDone_keeps (.refl s)
  | .slotVerifyDone .., _ => execSlotVerifyDone_keeps (.refl s)
  | .admissionDone .., _ => execAdmissionDone_keeps (.refl s)
  | .rehearsalDone .., _ => execRehearsalDone_keeps (.refl s)
  | .armingDone .., _ => execArmingDone_keeps (.refl s)
  | .dramRead .., _ => execDramRead_keeps (.refl s)
  | .dramRepair .., _ => execDramRepair_keeps (.refl s)
  | .dramCopyDone, _ => execDramCopyDone_keeps (.refl s)
  | .dramRefresh ch bank, _ => execDramRefresh_keeps (x0 := ch) (x1 := bank) (.refl s)
  | .dramRecalibrate .., _ => execDramRecalibrate_keeps (.refl s)
  | .scrubRead .., _ => execScrubRead_keeps (.refl s)
  | .sramReadError .., _ => execSramReadError_keeps (.refl s)
  | .meshDoubleBit .., _ => execMeshDoubleBit_keeps (.refl s)
  | .peerSignalDetect .., _ => execPeerSignalDetect_keeps (.refl s)
  | .peerTrainingDone .., _ => execPeerTrainingDone_keeps (.refl s)
  | .peerAligned .., _ => execPeerAligned_keeps (.refl s)
  | .helloSend .., _ => execHelloSend_keeps (.refl s)
  | .helloFlit .., _ => execHelloFlit_keeps (.refl s)
  | .updateFlit .., _ => execUpdateFlit_keeps (.refl s)
  | .laneSwapFlit _ _ _ first, _ => execLaneSwapFlit_keeps (x3 := first) (.refl s)
  | .seedReqFlit .., _ => execSeedReqFlit_keeps (.refl s)
  | .refreshReqFlit .., _ => execRefreshReqFlit_keeps (.refl s)
  | .timeFlitSend .., _ => execTimeFlitSend_keeps (.refl s)
  | .timeFlit .., _ => execTimeFlit_keeps (.refl s)
  | .nakFlit .., _ => execNakFlit_keeps (.refl s)
  | .replayTimeout .., _ => execReplayTimeout_keeps (.refl s)
  | .laneLockLoss .., _ => execLaneLockLoss_keeps (.refl s)
  | .portDown .., _ => execPortDown_keeps (.refl s)
  | .commitFlit .., _ => execCommitFlit_keeps (.refl s)
  | .peaFlit .., _ => execPeaFlit_keeps (.refl s)
  | .writeFlit .., _ => execWriteFlit_keeps (.refl s)
  | .mirrorFlit .., _ => execMirrorFlit_keeps (.refl s)
  | .seedFlit .., _ => execSeedFlit_keeps (.refl s)
  | .mirrorLag, _ => execMirrorLag_keeps (.refl s)
  | .seedTimeout, _ => execSeedTimeout_keeps (.refl s)
  | .poseSample, _ => execPoseSample_keeps (.refl s)
  | .comparisonComplete, _ => execComparisonComplete_keeps (.refl s)
  | .compareSkipped, _ => execCompareSkipped_keeps (.refl s)
  | .recheckEnd .., _ => execRecheckEnd_keeps (.refl s)
  | .recheckTimeout .., _ => execRecheckTimeout_keeps (.refl s)
  | .heartbeatStop, _ => execHeartbeatStop_keeps (.refl s)
  | .powerSag .., _ => execPowerSag_keeps (.refl s)
  | .saveComplete .., _ => execSaveComplete_keeps (.refl s)
  | .marrowSweep, _ => execMarrowSweep_keeps (.refl s)
  | .trickleWrite .., _ => execTrickleWrite_keeps (.refl s)
  | .thermalTrip, _ => execThermalTrip_keeps (.refl s)
  | .powerDomainFault .., _ => execPowerDomainFault_keeps (.refl s)
  | .pciePerst, _ => execPciePerst_keeps (.refl s)
  | .functionLevelReset .., _ => execFunctionLevelReset_keeps (.refl s)
  | .pushWord .., _ => execPushWord_keeps (.refl s)
  | .itemTake .., _ => execItemTake_keeps (.refl s)
  | .hostNop .., _ => execHostNop_keeps (.refl s)
  | .hostFence .., _ => execHostFence_keeps (.refl s)
  | .descCreate .., _ => execDescCreate_keeps (.refl s)
  | .descDestroy .., _ => execDescDestroy_keeps (.refl s)
  | .hostMove .., _ => execHostMove_keeps (.refl s)
  | .mapWindow .., _ => execMapWindow_keeps (.refl s)
  | .unmapWindow .., _ => execUnmapWindow_keeps (.refl s)
  | .hostDump .., _ => execHostDump_keeps (.refl s)
  | .hostAttest .., _ => execHostAttest_keeps (.refl s)
  | .fenceComplete .., _ => execFenceComplete_keeps (.refl s)
  | .unmapWindowComplete .., _ => execUnmapWindowComplete_keeps (.refl s)
  | .dumpComplete, _ => execDumpComplete_keeps (.refl s)
  | .attestComplete, _ => execAttestComplete_keeps (.refl s)
  | .ringRecordWrite, _ => execRingRecordWrite_keeps (.refl s)
  | .ringSuspend, _ => execRingSuspend_keeps (.refl s)
  | .ringIrq, _ => execRingIrq_keeps (.refl s)
  | .registerWrite .., _ => execRegisterWrite_keeps (.refl s)
  | .loRead .., _ => execLoRead_keeps (.refl s)
  | .hiWrite .., _ => execHiWrite_keeps (.refl s)
  | .aliasWrite .., _ => execAliasWrite_keeps (.refl s)
  | .blockLock .., _ => execBlockLock_keeps (.refl s)
  | .lockAll .., _ => execLockAll_keeps (.refl s)
  | .timeSnap .., _ => execTimeSnap_keeps (.refl s)
  | .timeSetGo .., _ => execTimeSetGo_keeps (.refl s)
  | .portSpeedWrite .., _ => execPortSpeedWrite_keeps (.refl s)
  | .fdbFlush .., _ => execFdbFlush_keeps (.refl s)
  | .ingestFlush .., _ => execIngestFlush_keeps (.refl s)
  | .wmHiSeenClear .., _ => execWmHiSeenClear_keeps (.refl s)
  | .rekeyAll .., _ => execRekeyAll_keeps (.refl s)
  | .marginReset .., _ => execMarginReset_keeps (.refl s)
  | .escapeEventClear .., _ => execEscapeEventClear_keeps (.refl s)
  | .releaseCaptures .., _ => execReleaseCaptures_keeps (.refl s)
  | .coldAll .., _ => execColdAll_keeps (.refl s)
  | .placeEvaluate .., _ => execPlaceEvaluate_keeps (.refl s)
  | .scrubNow .., _ => execScrubNow_keeps (.refl s)
  | .peerRetry .., _ => execPeerRetry_keeps (.refl s)
  | .refreshMirror .., _ => execRefreshMirror_keeps (.refl s)
  | .chipCoordWrite .., _ => execChipCoordWrite_keeps (.refl s)
  | .safetyResume .., _ => execSafetyResume_keeps (.refl s)
  | .forceHold .., _ => execForceHold_keeps (.refl s)
  | .faultClear .., _ => execFaultClear_keeps (.refl s)
  | .hqFlush .., _ => execHqFlush_keeps (.refl s)
  | .cplEnable .., _ => execCplEnable_keeps (.refl s)
  | .cplHeadWrite .., _ => execCplHeadWrite_keeps (.refl s)
  | .ringEnable .., _ => execRingEnable_keeps (.refl s)
  | .ringReadWrite .., _ => execRingReadWrite_keeps (.refl s)
  | .outPost .., _ => execOutPost_keeps (.refl s)
  | .inAck .., _ => execInAck_keeps (.refl s)
  | .mboxTelemetry, _ => execMboxTelemetry_keeps (.refl s)
  | .mboxBootTimes, _ => execMboxBootTimes_keeps (.refl s)
  | .mboxFwWrite .., _ => execMboxFwWrite_keeps (.refl s)
  | .advanceFw .., _ => execAdvanceFw_keeps (.refl s)
  | .advanceImage .., _ => execAdvanceImage_keeps (.refl s)
  | .debugChallenge .., _ => execDebugChallenge_keeps (.refl s)
  | .debugUnlock .., _ => execDebugUnlock_keeps (.refl s)
  | .fuseProgram .., _ => execFuseProgram_keeps (.refl s)
  | .fuseProgramDone .., _ => execFuseProgramDone_keeps (.refl s)
  | .marrowForget .., _ => execMarrowForget_keeps (.refl s)
  | .smbReceiveByte, _ => execSmbReceiveByte_keeps (.refl s)
  | .smbReadReg .., _ => execSmbReadReg_keeps (.refl s)
  | .smbWriteReg .., _ => execSmbWriteReg_keeps (.refl s)
  | .smbTelemetry, _ => execSmbTelemetry_keeps (.refl s)
  | .smbSerial, _ => execSmbSerial_keeps (.refl s)
  | .smbAlertResponse, _ => execSmbAlertResponse_keeps (.refl s)
  | .pwrOkRise, _ => execPwrOkRise_keeps (.refl s)
  | .sensorLinkUp .., _ => execSensorLinkUp_keeps (.refl s)
  | .sensorLinkDown .., _ => execSensorLinkDown_keeps (.refl s)
  | .delayReqSend, _ => execDelayReqSend_keeps (.refl s)
  | .slowSolveEnd .., _ => execSlowSolveEnd_keeps (.refl s)
  | .peerSerdesPllLoss .., _ => execPeerSerdesPllLoss_keeps (.refl s)
  | .heartbeatToggle, _ => execHeartbeatToggle_keeps (.refl s)
  | .keeperRecordWrite .., _ => execKeeperRecordWrite_keeps (.refl s)
  | .meshSingleBit .., _ => execMeshSingleBit_keeps (.refl s)
  | .resetRelease .., h | .pwrOkLoss, h | .resetAssert, h => Bool.noConfusion h

/-- The three commands that reset the part (R607) keep all but SAFE_HOLD. -/
theorem exec_keepsReset_of_resets (s : State) (c : Instr) (hc : resets c = true) : ∃ t, exec c s = .next t ∧ KeepsReset s t := by
  cases c with
  | resetRelease straps refB => exact execResetRelease_keeps (s := s) (x := straps) (y := refB)
  | pwrOkLoss => exact execPwrOkLoss_keeps (s := s)
  | resetAssert => exact execResetAssert_keeps (s := s)
  | _ => exact Bool.noConfusion hc

theorem exec_keepsReset (s : State) (c : Instr) : ∃ t, exec c s = .next t ∧ KeepsReset s t := by
  cases hc : resets c with
  | true => exact exec_keepsReset_of_resets s c hc
  | false =>
    obtain ⟨t, ht, hk⟩ := exec_keeps s c hc
    exact ⟨t, ht, hk.weaken⟩

/-- What a step can do: a tick on an empty queue, or the command in front of it on the state with the rest of the queue. -/
theorem step_cases {s t : State} (h : step s = .next t) :
    (s.pending = [] ∧ t = tick s) ∨ ∃ c rest, s.pending = c :: rest ∧ exec c { s with pending := rest } = .next t := by
  unfold step at h
  split at h
  · next hp => exact .inl ⟨hp, (Host.Outcome.next.inj h).symm⟩
  · next c rest hp => exact .inr ⟨c, rest, hp, h⟩

/-- A step keeps what a reset keeps, from the state whose queue lacks the command served. -/
theorem step_keepsReset {s t : State} (h : step s = .next t) : ∃ rest, KeepsReset { s with pending := rest } t := by
  obtain ⟨-, rfl⟩ | ⟨c, rest, -, he⟩ := step_cases h
  · exact ⟨s.pending, (tick_keeps (.refl s)).weaken⟩
  · obtain ⟨u, hu, hk⟩ := exec_keepsReset { s with pending := rest } c
    obtain rfl : u = t := Host.Outcome.next.inj (hu.symm.trans he)
    exact ⟨rest, hk⟩

/-- Settles O7: by what each step keeps; the queue, which a step changes besides, is no memory. -/
theorem canonicalMemoryInvariant : Obligations.CanonicalMemoryInvariant := by
  intro s t hs h
  obtain ⟨rest, hk⟩ := step_keepsReset h
  have hq : State.MemOk { s with pending := rest } := hs
  exact hk.mem hq

/-! ### The state after reset -/

theorem State.reset_safe : State.reset.Safe := ⟨rfl, rfl⟩

theorem State.reset_debugSafe : State.reset.DebugSafe := fun _ => rfl

theorem State.reset_memOk : State.reset.MemOk := ⟨rfl, rfl, rfl, rfl⟩

theorem State.reset_units : State.reset.Units := rfl

/-- Every machine, sensor port and peer port at reset is a copy of the default one, whose lists have their lengths. -/
theorem State.reset_shape : State.reset.Shape := by
  refine ⟨rfl, rfl, fun p hp => ?_, fun q hq => ?_, rfl, fun q hq => ?_⟩
  · obtain rfl : p = {} := List.eq_of_mem_replicate hp
    rfl
  · obtain rfl : q = {} := List.eq_of_mem_replicate hq
    rfl
  · obtain rfl : q = {} := List.eq_of_mem_replicate hq
    exact ⟨rfl, rfl, rfl, rfl⟩

/-- Settles O10: every field of `State.reset` is its default. -/
theorem resetStateMeetsInvariants : Obligations.ResetStateMeetsInvariants :=
  ⟨rfl, State.reset_safe, State.reset_debugSafe, State.reset_memOk, State.reset_units, State.reset_shape⟩

end Sys2Proof.Machine
end

section
/-! PROOFS. The frame of every command (O3). -/

namespace Sys2Proof.Machine
open Sys2Proof

/-- The dispatch of `exec`: each command changes no component outside its list. -/
theorem exec_only (s : State) : ∀ c : Instr, OnlyOut (touched c) s (exec c s)
  | .resetRelease .. => execResetRelease_only
  | .pwrOkLoss => execPwrOkLoss_only
  | .bootStepEnd .. => execBootStepEnd_only
  | .lockTimeout => execLockTimeout_only
  | .inService => execInService_only
  | .beatBoundary => execBeatBoundary_only
  | .deadlineMissed .. => execDeadlineMissed_only
  | .frameBoundary .. => execFrameBoundary_only
  | .servoMeasurement => execServoMeasurement_only
  | .followerMeasurement => execFollowerMeasurement_only
  | .catchUpDone => execCatchUpDone_only
  | .holdoverTimeout => execHoldoverTimeout_only
  | .ppsInEdge .. => execPpsInEdge_only
  | .ppsMissing => execPpsMissing_only
  | .ppsOutPulse => execPpsOutPulse_only
  | .rootSwitch => execRootSwitch_only
  | .rootRelock .. => execRootRelock_only
  | .rootRetire .. => execRootRetire_only
  | .frameReceive .. => execFrameReceive_only
  | .pdelayReqSend .. => execPdelayReqSend_only
  | .fdbAgeOut .. => execFdbAgeOut_only
  | .portEvent .. => execPortEvent_only
  | .parserTakeItem .. => execParserTakeItem_only
  | .parserExtract .. => execParserExtract_only
  | .parserExtracts .. => execParserExtracts_only
  | .parserAlu .. => execParserAlu_only
  | .parserBranch .. => execParserBranch_only
  | .parserLoop .. => execParserLoop_only
  | .parserScale .. => execParserScale_only
  | .parserPolar .. => execParserPolar_only
  | .parserTime .. => execParserTime_only
  | .parserEmit .. => execParserEmit_only
  | .parserImage .. => execParserImage_only
  | .parserMotion .. => execParserMotion_only
  | .parserDrop .. => execParserDrop_only
  | .parserEnd .. => execParserEnd_only
  | .itemRelease => execItemRelease_only
  | .deskew => execDeskew_only
  | .peaFile => execPeaFile_only
  | .splineVersionPublish => execSplineVersionPublish_only
  | .redeskew => execRedeskew_only
  | .rekeyStart .. => execRekeyStart_only
  | .rekeyCopyDone .. => execRekeyCopyDone_only
  | .rekeyDrainDone .. => execRekeyDrainDone_only
  | .ageingPass .. => execAgeingPass_only
  | .podMerge .. => execPodMerge_only
  | .podRelocate .. => execPodRelocate_only
  | .deltaBatchArrive .. => execDeltaBatchArrive_only
  | .deltaApply => execDeltaApply_only
  | .recordTransmit .. => execRecordTransmit_only
  | .seqNext .. => execSeqNext_only
  | .seqLoop .. => execSeqLoop_only
  | .seqLoopEnd .. => execSeqLoopEnd_only
  | .seqJumpMask .. => execSeqJumpMask_only
  | .seqEndPass .. => execSeqEndPass_only
  | .seqHalt .. => execSeqHalt_only
  | .arrayMac .. => execArrayMac_only
  | .arrayMacFirst .. => execArrayMacFirst_only
  | .arrayDrain .. => execArrayDrain_only
  | .vecAdd .. => execVecAdd_only
  | .vecSub .. => execVecSub_only
  | .vecMul .. => execVecMul_only
  | .vecMulr .. => execVecMulr_only
  | .vecShr .. => execVecShr_only
  | .vecShl .. => execVecShl_only
  | .vecMin .. => execVecMin_only
  | .vecMax .. => execVecMax_only
  | .vecCmp .. => execVecCmp_only
  | .vecSel .. => execVecSel_only
  | .vecPwl .. => execVecPwl_only
  | .vecReduce .. => execVecReduce_only
  | .vecCvt .. => execVecCvt_only
  | .vecAccv .. => execVecAccv_only
  | .vecLoadv .. => execVecLoadv_only
  | .rootRecip .. => execRootRecip_only
  | .rootDiv .. => execRootDiv_only
  | .rootSqrt .. => execRootSqrt_only
  | .rootRsqrt .. => execRootRsqrt_only
  | .rootPivot .. => execRootPivot_only
  | .syncWait .. => execSyncWait_only
  | .syncWaitConsume .. => execSyncWaitConsume_only
  | .syncSignal .. => execSyncSignal_only
  | .loadSlot .. => execLoadSlot_only
  | .storeSlot .. => execStoreSlot_only
  | .exchange .. => execExchange_only
  | .engineEvent .. => execEngineEvent_only
  | .engineHang .. => execEngineHang_only
  | .selfTestDone .. => execSelfTestDone_only
  | .engAssignShadow .. => execEngAssignShadow_only
  | .engSwitch .. => execEngSwitch_only
  | .engRelease .. => execEngRelease_only
  | .engRadish .. => execEngRadish_only
  | .engRetire .. => execEngRetire_only
  | .radishAnswer .. => execRadishAnswer_only
  | .radishTimeout .. => execRadishTimeout_only
  | .datasetMoveDone .. => execDatasetMoveDone_only
  | .channelBalanceWindow .. => execChannelBalanceWindow_only
  | .moverOpStart .. => execMoverOpStart_only
  | .moverCopy .. => execMoverCopy_only
  | .moverFill .. => execMoverFill_only
  | .moverGather .. => execMoverGather_only
  | .moverScatter .. => execMoverScatter_only
  | .moverDeliver .. => execMoverDeliver_only
  | .moverOpComplete .. => execMoverOpComplete_only
  | .fastPublish => execFastPublish_only
  | .fastSolveEnd .. => execFastSolveEnd_only
  | .fastDeadlineMiss => execFastDeadlineMiss_only
  | .slowPublish => execSlowPublish_only
  | .slowDeadlineMiss => execSlowDeadlineMiss_only
  | .slotLoad .. => execSlotLoad_only
  | .slotCancel .. => execSlotCancel_only
  | .slotCopyDone => execSlotCopyDone_only
  | .slotVerifyDone .. => execSlotVerifyDone_only
  | .admissionDone .. => execAdmissionDone_only
  | .rehearsalDone .. => execRehearsalDone_only
  | .armingDone .. => execArmingDone_only
  | .dramRead .. => execDramRead_only
  | .dramRepair .. => execDramRepair_only
  | .dramCopyDone => execDramCopyDone_only
  | .dramRefresh ch bank => execDramRefresh_only (x0 := ch) (x1 := bank)
  | .dramRecalibrate .. => execDramRecalibrate_only
  | .scrubRead .. => execScrubRead_only
  | .sramReadError .. => execSramReadError_only
  | .meshDoubleBit .. => execMeshDoubleBit_only
  | .peerSignalDetect .. => execPeerSignalDetect_only
  | .peerTrainingDone .. => execPeerTrainingDone_only
  | .peerAligned .. => execPeerAligned_only
  | .helloSend .. => execHelloSend_only
  | .helloFlit .. => execHelloFlit_only
  | .updateFlit .. => execUpdateFlit_only
  | .laneSwapFlit _ _ _ first => execLaneSwapFlit_only (x3 := first)
  | .seedReqFlit .. => execSeedReqFlit_only
  | .refreshReqFlit .. => execRefreshReqFlit_only
  | .timeFlitSend .. => execTimeFlitSend_only
  | .timeFlit .. => execTimeFlit_only
  | .nakFlit .. => execNakFlit_only
  | .replayTimeout .. => execReplayTimeout_only
  | .laneLockLoss .. => execLaneLockLoss_only
  | .portDown .. => execPortDown_only
  | .commitFlit .. => execCommitFlit_only
  | .peaFlit .. => execPeaFlit_only
  | .writeFlit .. => execWriteFlit_only
  | .mirrorFlit .. => execMirrorFlit_only
  | .seedFlit .. => execSeedFlit_only
  | .mirrorLag => execMirrorLag_only
  | .seedTimeout => execSeedTimeout_only
  | .poseSample => execPoseSample_only
  | .comparisonComplete => execComparisonComplete_only
  | .compareSkipped => execCompareSkipped_only
  | .recheckEnd .. => execRecheckEnd_only
  | .recheckTimeout .. => execRecheckTimeout_only
  | .heartbeatStop => execHeartbeatStop_only
  | .powerSag .. => execPowerSag_only
  | .saveComplete .. => execSaveComplete_only
  | .marrowSweep => execMarrowSweep_only
  | .trickleWrite .. => execTrickleWrite_only
  | .thermalTrip => execThermalTrip_only
  | .powerDomainFault .. => execPowerDomainFault_only
  | .pciePerst => execPciePerst_only
  | .functionLevelReset .. => execFunctionLevelReset_only
  | .pushWord .. => execPushWord_only
  | .itemTake .. => execItemTake_only
  | .hostNop .. => execHostNop_only
  | .hostFence .. => execHostFence_only
  | .descCreate .. => execDescCreate_only
  | .descDestroy .. => execDescDestroy_only
  | .hostMove .. => execHostMove_only
  | .mapWindow .. => execMapWindow_only
  | .unmapWindow .. => execUnmapWindow_only
  | .hostDump .. => execHostDump_only
  | .hostAttest .. => execHostAttest_only
  | .fenceComplete .. => execFenceComplete_only
  | .unmapWindowComplete .. => execUnmapWindowComplete_only
  | .dumpComplete => execDumpComplete_only
  | .attestComplete => execAttestComplete_only
  | .ringRecordWrite => execRingRecordWrite_only
  | .ringSuspend => execRingSuspend_only
  | .ringIrq => execRingIrq_only
  | .registerWrite .. => execRegisterWrite_only
  | .loRead .. => execLoRead_only
  | .hiWrite .. => execHiWrite_only
  | .aliasWrite .. => execAliasWrite_only
  | .blockLock .. => execBlockLock_only
  | .lockAll .. => execLockAll_only
  | .timeSnap .. => execTimeSnap_only
  | .timeSetGo .. => execTimeSetGo_only
  | .portSpeedWrite .. => execPortSpeedWrite_only
  | .fdbFlush .. => execFdbFlush_only
  | .ingestFlush .. => execIngestFlush_only
  | .wmHiSeenClear .. => execWmHiSeenClear_only
  | .rekeyAll .. => execRekeyAll_only
  | .marginReset .. => execMarginReset_only
  | .escapeEventClear .. => execEscapeEventClear_only
  | .releaseCaptures .. => execReleaseCaptures_only
  | .coldAll .. => execColdAll_only
  | .placeEvaluate .. => execPlaceEvaluate_only
  | .scrubNow .. => execScrubNow_only
  | .peerRetry .. => execPeerRetry_only
  | .refreshMirror .. => execRefreshMirror_only
  | .chipCoordWrite .. => execChipCoordWrite_only
  | .safetyResume .. => execSafetyResume_only
  | .forceHold .. => execForceHold_only
  | .faultClear .. => execFaultClear_only
  | .hqFlush .. => execHqFlush_only
  | .cplEnable .. => execCplEnable_only
  | .cplHeadWrite .. => execCplHeadWrite_only
  | .ringEnable .. => execRingEnable_only
  | .ringReadWrite .. => execRingReadWrite_only
  | .outPost .. => execOutPost_only
  | .inAck .. => execInAck_only
  | .mboxTelemetry => execMboxTelemetry_only
  | .mboxBootTimes => execMboxBootTimes_only
  | .mboxFwWrite .. => execMboxFwWrite_only
  | .advanceFw .. => execAdvanceFw_only
  | .advanceImage .. => execAdvanceImage_only
  | .debugChallenge .. => execDebugChallenge_only
  | .debugUnlock .. => execDebugUnlock_only
  | .fuseProgram .. => execFuseProgram_only
  | .fuseProgramDone .. => execFuseProgramDone_only
  | .marrowForget .. => execMarrowForget_only
  | .smbReceiveByte => execSmbReceiveByte_only
  | .smbReadReg .. => execSmbReadReg_only
  | .smbWriteReg .. => execSmbWriteReg_only
  | .smbTelemetry => execSmbTelemetry_only
  | .smbSerial => execSmbSerial_only
  | .smbAlertResponse => execSmbAlertResponse_only
  | .resetAssert => execResetAssert_only
  | .pwrOkRise => execPwrOkRise_only
  | .sensorLinkUp .. => execSensorLinkUp_only
  | .sensorLinkDown .. => execSensorLinkDown_only
  | .delayReqSend => execDelayReqSend_only
  | .slowSolveEnd .. => execSlowSolveEnd_only
  | .peerSerdesPllLoss .. => execPeerSerdesPllLoss_only
  | .heartbeatToggle => execHeartbeatToggle_only
  | .keeperRecordWrite .. => execKeeperRecordWrite_only
  | .meshSingleBit .. => execMeshSingleBit_only

/-- No list of `touched` names the queue, which only `step` serves. -/
theorem pending_not_touched (c : Instr) : (touched c).contains .pending = false := by cases c <;> rfl

/-- Settles O3: the frame of each command is its list, and the queue stands in none. -/
theorem everyCommandCompletesWithinItsFrame : Obligations.EveryCommandCompletesWithinItsFrame := by
  intro c s
  obtain ⟨t, ht, ho⟩ := exec_only s c
  exact ⟨t, ht, ho, ho .pending (pending_not_touched c)⟩

end Sys2Proof.Machine
end

section
/-! PROOFS. The commands of the reset and power pins (O11). -/

namespace Sys2Proof.Machine
open Sys2Proof

/-! ### Registers written in a loop -/

section
variable {α : Type} {f : α → Nat} {w : α → Word}

/-- Writes in a loop keep the stored registers in their canonical form. -/
theorem State.wf_foldl_rset (l : List α) {s : State} (h : regsWf s.regs = true) :
    regsWf (l.foldl (fun (t : State) n => t.rset (f n) (w n)) s).regs = true := by
  induction l generalizing s with
  | nil => exact h
  | cons a l ih => exact ih (State.wf_rset h)

/-- A register that no write of a loop names reads as before. -/
theorem State.rget_foldl_rset_out (l : List α) {s : State} (h : regsWf s.regs = true) {p : Nat} (hp : ∀ n ∈ l, p ≠ f n) :
    (l.foldl (fun (t : State) n => t.rset (f n) (w n)) s).rget p = s.rget p := by
  induction l generalizing s with
  | nil => rfl
  | cons a l ih =>
    rw [List.foldl_cons, ih (State.wf_rset h) (fun n hn => hp n (List.mem_cons_of_mem _ hn)),
      State.rget_rset_ne h _ _ (hp a List.mem_cons_self)]

/-- A register that a loop of one value writes reads that value. -/
theorem State.rget_foldl_rset_in (l : List α) {v : Word} {s : State} (h : regsWf s.regs = true) {p : Nat} (hp : ∃ n ∈ l, p = f n) :
    (l.foldl (fun (t : State) n => t.rset (f n) v) s).rget p = v := by
  induction l generalizing s with
  | nil => simp at hp
  | cons a l ih =>
    rw [List.foldl_cons]
    by_cases hl : ∃ n ∈ l, p = f n
    · exact ih (State.wf_rset h) hl
    · push Not at hl
      obtain ⟨n, hn, rfl⟩ := hp
      obtain rfl | hn := List.mem_cons.mp hn
      · rw [State.rget_foldl_rset_out l (State.wf_rset h) hl, State.rget_rset_same h]
      · exact absurd rfl (hl n hn)
end

/-! ### Reset -/

/-- The straps set the speed of every sensor port (R112). -/
theorem State.rget_strapRegs_portCfg {s : State} (h : regsWf s.regs = true) (b : BitVec 12) (n : Fin 8) :
    (s.strapRegs b).rget (Reg.PORT_CFG n.val) = nw (b2n (b.getLsbD 1) + 2 * b2n (b.getLsbD 2)) := by
  unfold State.strapRegs
  extract_lets bt speed s1 s2 root s3 s4
  have h1 : regsWf s1.regs = true := State.wf_foldl_rset _ h
  have h2 : regsWf s2.regs = true := State.wf_foldl_rset _ h1
  have e1 : s1.rget (Reg.PORT_CFG n.val) = speed := State.rget_foldl_rset_in _ h ⟨n.val, List.mem_range.mpr n.isLt, rfl⟩
  have e2 : s2.rget (Reg.PORT_CFG n.val) = s1.rget (Reg.PORT_CFG n.val) :=
    State.rget_foldl_rset_out _ h1 (fun m hm => by
      have hm := List.mem_range.mp hm
      simp only [Reg.PORT_CFG, Reg.PEER_CFG]
      omega)
  have ne : Reg.PORT_CFG n.val ≠ Reg.SERVO_CTRL ∧ Reg.PORT_CFG n.val ≠ Reg.LOCK_CTRL ∧ Reg.PORT_CFG n.val ≠ Reg.HOLDOVER_TIMEOUT := by
    simp only [Reg.PORT_CFG, Reg.SERVO_CTRL, Reg.LOCK_CTRL, Reg.HOLDOVER_TIMEOUT]
    omega
  obtain ⟨ne1, ne2, ne3⟩ := ne
  rw [State.rget_rset_ne (State.wf_rset (State.wf_rset h2)) _ _ ne3, State.rget_rset_ne (State.wf_rset h2) _ _ ne2,
    State.rget_rset_ne h2 _ _ ne1, e2, e1]

/-- The rising edge of RESET_N samples the straps and begins step 2 with TIME_COUNT zero and root 0 running (R37, R62, R703, R705). -/
theorem State.releaseReset_begins (s : State) (b : BitVec 12) (refB : Bool) :
    ∃ t, t = s.releaseReset b refB ∧ t.resetN = true ∧ t.boot.step = 2 ∧ t.boot.straps = b ∧ t.now = 0 ∧
      (t.root 0).state = .running ∧ (t.root 1).state = .standby ∧ (t.root 1).refA = !refB ∧
      (∀ n : Fin 8, t.rget (Reg.PORT_CFG n.val) = nw (b2n (b.getLsbD 1) + 2 * b2n (b.getLsbD 2))) ∧
      t.keeper = s.keeper ∧ t.fuses = s.fuses ∧ t.flash = s.flash ∧ t.hostMem = s.hostMem := by
  refine ⟨_, rfl, ?_⟩
  unfold State.releaseReset
  extract_lets s1 s2
  have fr : Only [.regs] s2 (s2.strapRegs b) := State.strapRegs_only (Only.refl _ _) (by decide)
  have hr : (s2.strapRegs b).resetN = true := fr .resetN rfl
  have hb : (s2.strapRegs b).boot = s2.boot := fr .boot rfl
  have ht : (s2.strapRegs b).tl = s2.tl := fr .tl rfl
  have ho : (s2.strapRegs b).roots = s2.roots := fr .roots rfl
  have hk : (s2.strapRegs b).keeper = s.keeper := fr .keeper rfl
  have hf : (s2.strapRegs b).fuses = s.fuses := fr .fuses rfl
  have hl : (s2.strapRegs b).flash = s.flash := fr .flash rfl
  have hm : (s2.strapRegs b).hostMem = s.hostMem := fr .hostMem rfl
  refine ⟨hr, by rw [hb], by rw [hb], by rw [State.now, ht]; rfl, ?_, ?_, ?_, State.rget_strapRegs_portCfg rfl b, hk, hf, hl, hm⟩
  all_goals rw [State.root, ho]; rfl

/-- Settles O11: the state that each pin leaves is written out in the model; FAULT_N stays asserted until IN_SERVICE. -/
theorem resetCommandsResetAndKeep : Obligations.ResetCommandsResetAndKeep := by
  refine ⟨fun b refB s hr hp => ?_, fun b refB s h => ?_, fun s => ?_, fun s => ?_, fun s => ?_⟩
  · obtain ⟨t, rfl, ht⟩ := s.releaseReset_begins b refB
    refine ⟨_, if_neg ?_, ht⟩
    simp [hr, hp]
  · refine if_pos ?_
    simpa using h
  · exact ⟨s.inReset, rfl, rfl, rfl, rfl, rfl, fun _ => rfl, rfl, rfl, rfl, rfl⟩
  · exact ⟨{ s.inReset with pwrOk := false }, rfl, rfl, rfl, rfl, rfl, rfl, fun _ => rfl, rfl, rfl, rfl, rfl⟩
  · refine ⟨{ s with pwrOk := true }, rfl, rfl, fun c hc => ?_, fun hs => ?_⟩
    · cases c with
      | pwrOk => exact Bool.noConfusion hc
      | _ => rfl
    · have hs' : State.inServ { s with pwrOk := true } = false := hs
      simp [State.faultN, hs']

end Sys2Proof.Machine
end

section
/-! PROOFS. The boot steps (O12). -/

namespace Sys2Proof.Machine
open Sys2Proof

/-! ### SAFE_HOLD -/

/-- Entry into SAFE_HOLD ends in SAFE_HOLD: what follows the change of the state keeps it (R607). -/
theorem State.enterHold_hold (s : State) (cause : Nat) : (s.enterHold cause).hold = true := by
  unfold State.enterHold
  split
  · assumption
  · extract_lets old s1 s2
    have k1 : s1.hold = true := rfl
    have k : Keeps s1 (((s2.logState .safeHold old).raise Reg.SAFETY_EVENTS 2).raise Reg.SAFETY_EVENTS 0) :=
      State.raise_keeps (State.raise_keeps (State.logState_keeps (State.discardSlot_keeps (State.close_keeps (Keeps.refl s1)))))
    exact k.held k1

/-! ### What the steps of boot leave of the boot state -/

section
variable (s : State)

@[simp] theorem State.enterHold_boot {c} : (s.enterHold c).boot = s.boot :=
  State.enterHold_only (Only.refl [.regs, .com, .engines, .slot, .safety, .host, .out] s) (by decide) .boot rfl

@[simp] theorem State.autoload_boot : s.autoload.boot = s.boot := State.autoload_only (Only.refl [.regs, .slot] s) (by decide) .boot rfl

@[simp] theorem State.readMarrow_boot {a b} : (s.readMarrow a b).boot = s.boot :=
  State.readMarrow_only (Only.refl [.regs, .power] s) (by decide) .boot rfl

@[simp] theorem State.startSelfTest_boot : s.startSelfTest.boot = s.boot :=
  State.startSelfTest_only (Only.refl [.engines] s) (by decide) .boot rfl

@[simp] theorem State.stepTo_boot {n} : (s.stepTo n).boot = { s.boot with step := n, stepAt := s.now } := rfl

theorem State.bootFail_boot {c} : (s.bootFail c).boot =
    { s.boot with failCode := c, stopped := if s.boot.step ≤ 3 then true else s.boot.stopped } := by
  unfold State.bootFail
  dsimp only
  split <;> simp

/-- Step 4 with sound fuses: the repairs change DRAM channels only (R503, R720). -/
theorem State.bootFuses_intact {c} (h : s.fuses.intact = true) :
    (s.bootFuses c).boot.step = 5 ∧ (s.bootFuses c).boot.fusesOk = true ∧ (s.bootFuses c).boot.idCert = c := by
  unfold State.bootFuses
  extract_lets f mac s1 s2
  rw [if_neg (show ¬ ¬ f.intact = true from fun k => k h)]
  exact ⟨rfl, rfl, rfl⟩

theorem State.bootFuses_bad {c} (h : s.fuses.intact = false) : s.bootFuses c = (s.bootFail 2).stepTo 7 := by
  unfold State.bootFuses
  extract_lets f mac s1 s2
  rw [if_pos (show ¬ f.intact = true from by rw [show f.intact = false from h]; exact Bool.noConfusion)]

/-- Step 6 ends with step 7, the keeper die read or not (R754). -/
theorem State.bootKeeper_boot {ok headerOk bad} : (s.bootKeeper ok headerOk bad).boot.step = 7 ∧
    (ok = false → (s.bootKeeper ok headerOk bad).boot.failCode = 3) := by
  cases ok with
  | true => exact ⟨rfl, fun h => Bool.noConfusion h⟩
  | false =>
    have e : s.bootKeeper false headerOk bad = (s.bootFail 3).stepTo 7 := if_pos (by decide)
    rw [e, State.stepTo_boot, State.bootFail_boot]
    exact ⟨rfl, fun _ => rfl⟩

/-- Step 2 with a root that locks (R37). -/
theorem State.bootRoots_locked {l : List Bool} (h : lgetD l 0 true = true ∨ lgetD l 1 true = true) :
    (s.bootRoots l).boot.step = 3 ∧ (s.bootRoots l).boot.stepAt = s.now := by
  unfold State.bootRoots
  extract_lets a b lost s1
  cases ha : a with
  | true => cases b <;> exact ⟨rfl, rfl⟩
  | false =>
    have hb : b = true := h.resolve_left (by rw [show lgetD l 0 true = false from ha]; exact Bool.noConfusion)
    rw [hb]
    exact ⟨rfl, rfl⟩

/-- Step 2 without a root stops in SAFE_HOLD (R42, R707). -/
theorem State.bootRoots_lost {l : List Bool} (h2 : s.boot.step = 2) (ha : lgetD l 0 true = false) (hb : lgetD l 1 true = false) :
    (s.bootRoots l).boot.stopped = true ∧ (s.bootRoots l).boot.failCode = 4 ∧ (s.bootRoots l).hold = true := by
  unfold State.bootRoots
  rw [ha, hb]
  refine ⟨?_, ?_, State.enterHold_hold _ _⟩
  all_goals simp [State.bootFail_boot, h2]

/-- Step 3 runs the first slot where it is valid (R709). -/
theorem State.bootFirmware_first {a b : SlotCheck} (h : (if a.security < b.security then b else a).valid s.fuses.fwMin = true) :
    (s.bootFirmware a b).boot.step = 4 ∧ (s.bootFirmware a b).boot.fwSlot = (if a.security < b.security then 1 else 0) ∧
      (s.bootFirmware a b).boot.fwSecurity = max a.security b.security := by
  unfold State.bootFirmware
  by_cases hlt : a.security < b.security
  · rw [if_pos hlt] at h
    simp [hlt, h, State.runFirmware, State.onBoot, Nat.max_eq_right hlt.le]
  · rw [if_neg hlt] at h
    simp [hlt, h, State.runFirmware, State.onBoot, Nat.max_eq_left (Nat.le_of_not_lt hlt)]

/-- Step 3 falls back to the other slot (R709). -/
theorem State.bootFirmware_other {a b : SlotCheck} (h1 : (if a.security < b.security then b else a).valid s.fuses.fwMin = false)
    (h2 : (if a.security < b.security then a else b).valid s.fuses.fwMin = true) :
    (s.bootFirmware a b).boot.step = 4 ∧ (s.bootFirmware a b).boot.fwSlot = (if a.security < b.security then 0 else 1) := by
  unfold State.bootFirmware
  by_cases hlt : a.security < b.security
  · rw [if_pos hlt] at h1 h2
    simp [hlt, h1, h2, State.runFirmware, State.onBoot]
  · rw [if_neg hlt] at h1 h2
    simp [hlt, h1, h2, State.runFirmware, State.onBoot]

/-- Step 3 without a valid slot stops (R707, R709). -/
theorem State.bootFirmware_none {a b : SlotCheck} (h3 : s.boot.step = 3) (ha : a.valid s.fuses.fwMin = false)
    (hb : b.valid s.fuses.fwMin = false) :
    (s.bootFirmware a b).boot.step = 3 ∧ (s.bootFirmware a b).boot.stopped = true ∧ (s.bootFirmware a b).boot.failCode = 1 := by
  have e : s.bootFirmware a b = s.bootFail 1 := by
    unfold State.bootFirmware
    by_cases hlt : a.security < b.security <;> simp [hlt, ha, hb]
  simp [e, State.bootFail_boot, h3]

/-- Step 5 ends with step 6, whatever channels are lost (R499). -/
theorem State.bootDram_step {l} : (s.bootDram l).boot.step = 6 := rfl

theorem State.admitHost_failed (h : s.boot.failCode ≠ 0) : s.admitHost = s.onBoot (fun b => { b with stopped := true }) := if_pos h

theorem State.admitHost_sound (h : s.boot.failCode = 0) : s.admitHost = (s.stepTo 9).autoload := if_neg (by simp [h])

/-! ### The end of the step in progress -/

/-- The state in which step `n` ends, for `n` from 3 to 9: its end is recorded (R705). -/
def State.stamped (s : State) (n : Nat) : State := s.onBoot (fun b => { b with times := mset b.times n s.now })

variable {s} {o : BootObs}

theorem State.endStep_two (h : s.boot.step = 2) : s.endStep o = s.bootRoots o.roots := by simp [State.endStep, h]

theorem State.endStep_three (h : s.boot.step = 3) : s.endStep o = (s.stamped 3).bootFirmware o.slotA o.slotB := by
  simp [State.endStep, State.stamped, h]

theorem State.endStep_four_sound (h : s.boot.step = 4) (k : ((s.stamped 4).bootFuses o.idCert).boot.step ≠ 7) :
    s.endStep o = (s.stamped 4).bootFuses o.idCert := by
  unfold State.stamped at k ⊢
  simp [State.endStep, h, k]

theorem State.endStep_four_bad (h : s.boot.step = 4) (k : ((s.stamped 4).bootFuses o.idCert).boot.step = 7) :
    s.endStep o = ((s.stamped 4).bootFuses o.idCert).startSelfTest := by
  unfold State.stamped at k ⊢
  simp [State.endStep, h, k]

theorem State.endStep_five (h : s.boot.step = 5) : s.endStep o = (s.stamped 5).bootDram o.untrained := by simp [State.endStep, State.stamped, h]

theorem State.endStep_six (h : s.boot.step = 6) :
    s.endStep o = ((s.stamped 6).bootKeeper o.keeperOk o.headerOk o.badPages).startSelfTest := by simp [State.endStep, State.stamped, h]

theorem State.endStep_seven (h : s.boot.step = 7) : s.endStep o = ((s.stamped 7).endSelfTest o.badEngines).stepTo 8 := by
  simp [State.endStep, State.stamped, h]

theorem State.endStep_eight (h : s.boot.step = 8) : s.endStep o = (s.stamped 8).admitHost := by simp [State.endStep, State.stamped, h]

theorem State.endStep_nine (h : s.boot.step = 9) : s.endStep o = if s.live.isSome then (s.stamped 9).stepTo 10 else s := by
  simp [State.endStep, State.stamped, h]

theorem State.endStep_ten (h : s.boot.step = 10) : s.endStep o = if s.tl.servo = .locked then s.stepTo 11 else s := by
  simp [State.endStep, h]

end

/-- Settles O12: each clause is the lemma of its step. -/
theorem bootStepEndAdvances : Obligations.BootStepEndAdvances := by
  refine ⟨fun o s h => if_pos h, fun o s h1 h2 h3 h4 => ⟨s.endStep o, if_neg (by simp_all), ?_⟩⟩
  refine ⟨fun h hl => ?_, fun h ha hb => ?_, fun h hv => ?_, fun h hv hw => ?_, fun h ha hb => ?_, fun h hi => ?_, fun h hi => ?_,
    fun h => ?_, fun h => ?_, fun h => ?_, fun h hf => ?_, fun h hf => ?_, fun h => ⟨fun hl => ?_, fun hl => ?_⟩,
    fun h => ⟨fun hl => ?_, fun hl => ?_⟩⟩
  · rw [State.endStep_two h]
    exact s.bootRoots_locked hl
  · rw [State.endStep_two h]
    exact s.bootRoots_lost h ha hb
  · rw [State.endStep_three h]
    exact (s.stamped 3).bootFirmware_first hv
  · rw [State.endStep_three h]
    exact (s.stamped 3).bootFirmware_other hv hw
  · rw [State.endStep_three h]
    exact (s.stamped 3).bootFirmware_none h ha hb
  · obtain ⟨h5, hf, hc⟩ := (s.stamped 4).bootFuses_intact (c := o.idCert) hi
    rw [State.endStep_four_sound h (by omega)]
    exact ⟨h5, hf, hc⟩
  · have e := (s.stamped 4).bootFuses_bad (c := o.idCert) hi
    rw [State.endStep_four_bad h (by rw [e]; rfl), e, State.startSelfTest_boot, State.stepTo_boot, State.bootFail_boot]
    exact ⟨rfl, rfl⟩
  · rw [State.endStep_five h]
    exact (s.stamped 5).bootDram_step
  · rw [State.endStep_six h, State.startSelfTest_boot]
    exact (s.stamped 6).bootKeeper_boot
  · rw [State.endStep_seven h]
    rfl
  · rw [State.endStep_eight h, (s.stamped 8).admitHost_failed hf]
    exact ⟨h, rfl⟩
  · rw [State.endStep_eight h, (s.stamped 8).admitHost_sound hf, State.autoload_boot]
    rfl
  · rw [State.endStep_nine h, if_pos hl]
    rfl
  · rw [State.endStep_nine h, if_neg (by simp [hl])]
  · rw [State.endStep_ten h, if_pos hl]
    rfl
  · rw [State.endStep_ten h, if_neg hl]

end Sys2Proof.Machine
end

section
/-! PROOFS. The clock roots (O17). -/

namespace Sys2Proof.Machine
open Sys2Proof

/-! ### Fault-map entries -/

section
variable (s : State)

@[simp] theorem State.logRec_mapShadow {a b c d e} : (s.logRec a b c d e).safety.mapShadow = s.safety.mapShadow := by
  unfold State.logRec
  split
  · show (s.bump Reg.LOG_SUPPRESSED).safety.mapShadow = _
    rw [State.bump_safety]
  · rfl

@[simp] theorem State.stopHeartbeat_mapShadow : s.stopHeartbeat.safety.mapShadow = s.safety.mapShadow := by
  simp [State.stopHeartbeat]

/-- SAFE_HOLD leaves the shadow of the fault map alone. -/
@[simp] theorem State.enterHold_mapShadow {c} : (s.enterHold c).safety.mapShadow = s.safety.mapShadow := by
  unfold State.enterHold
  split
  · rfl
  · extract_lets old s1 s2
    have h1 : s1.safety.mapShadow = s.safety.mapShadow := by
      show (if s.safety.hbStopped then s else s.stopHeartbeat).safety.mapShadow = _
      split
      · rfl
      · exact s.stopHeartbeat_mapShadow
    have k : Only [.regs, .com, .engines, .slot, .host, .out] s1 s2 :=
      State.discardSlot_only (State.close_only (Only.refl _ s1) (by decide)) (by decide)
    have h2 : s2.safety = s1.safety := k .safety rfl
    simp [State.logState, h2, h1]

@[simp] theorem State.enterHold_keeper {c} : (s.enterHold c).keeper = s.keeper :=
  State.enterHold_only (Only.refl [.regs, .com, .engines, .slot, .safety, .host, .out] s) (by decide) .keeper rfl

@[simp] theorem State.enterHold_roots {c} : (s.enterHold c).roots = s.roots :=
  State.enterHold_only (Only.refl [.regs, .com, .engines, .slot, .safety, .host, .out] s) (by decide) .roots rfl

@[simp] theorem State.enterHold_tl {c} : (s.enterHold c).tl = s.tl :=
  State.enterHold_only (Only.refl [.regs, .com, .engines, .slot, .safety, .host, .out] s) (by decide) .tl rfl

/-- A channel declared is in the fault map, or in its on-chip shadow (R581, R584). -/
theorem State.markRetired_marked (k i : Nat) : (s.markRetired k i).marked k i = true := by
  unfold State.markRetired
  split
  · assumption
  · split <;> simp [State.marked]

theorem State.marked_congr {s t : State} (hk : t.keeper = s.keeper) (hm : t.safety.mapShadow = s.safety.mapShadow) (k i : Nat) :
    t.marked k i = s.marked k i := by simp only [State.marked, hk, hm]

theorem State.declare_marked (k i c : Nat) (repl : Option Nat) (hard : Bool) : (s.declare k i c repl hard).marked k i = true := by
  unfold State.declare
  rw [State.marked_congr (s := s.markRetired k i) (by simp) (by simp)]
  exact s.markRetired_marked k i
end

/-! ### The two roots -/

section
variable {s : State} {l : List RootPll} {r : Nat}

@[simp] theorem State.root_onRoot_same (f : RootPll → RootPll) (h : r < s.roots.length) : (s.onRoot r f).root r = f (s.root r) :=
  lgetD_lmod_same _ _ _ _ h

@[simp] theorem State.root_onRoot_ne (f : RootPll → RootPll) {o : Nat} (h : o ≠ r) : (s.onRoot r f).root o = s.root o :=
  lgetD_lmod_ne _ _ _ _ h

theorem State.root_congr {t : State} (h : t.roots = s.roots) (r : Nat) : t.root r = s.root r := by simp only [State.root, h]

/-- Of two roots, one of index below 2 and the other are all. -/
theorem forall_roots {P : RootPll → Prop} (hl : l.length = 2) (r : Fin 2) (h : P (lgetD l r {})) (k : P (lgetD l (1 - r) {})) :
    ∀ x ∈ l, P x := by
  obtain ⟨a, b, rfl⟩ := List.length_eq_two.mp hl
  intro x hx
  match r with
  | 0 => obtain rfl | rfl : x = a ∨ x = b := by simpa using hx
         · exact h
         · exact k
  | 1 => obtain rfl | rfl : x = a ∨ x = b := by simpa using hx
         · exact k
         · exact h

/-- The first of two roots to meet `p`, where the other does not. -/
theorem findIdx_root {p : RootPll → Bool} (hl : l.length = 2) (r : Fin 2) (h : p (lgetD l r {}) = true) (k : p (lgetD l (1 - r) {}) = false) :
    l.findIdx? p = some r.val := by
  obtain ⟨a, b, rfl⟩ := List.length_eq_two.mp hl
  match r with
  | 0 =>
    have ha : p a = true := h
    simp [List.findIdx?_cons, ha]
  | 1 =>
    have hb : p b = true := h
    have ha : p a = false := k
    simp [List.findIdx?_cons, ha, hb]

/-- With no running root the part enters SAFE_HOLD (R42). -/
theorem State.checkRoots_hold (h : ∀ x ∈ s.roots, x.state ≠ .running) : s.checkRoots.hold = true := by
  unfold State.checkRoots
  rw [if_neg (by simpa using h)]
  exact s.enterHold_hold 1

theorem State.checkRoots_roots : s.checkRoots.roots = s.roots := by
  unfold State.checkRoots
  split <;> simp

theorem State.checkRoots_marked (k i : Nat) : s.checkRoots.marked k i = s.marked k i := by
  unfold State.checkRoots
  split
  · rfl
  · exact State.marked_congr (by simp) (by simp) k i

/-- A root retires and is entered into the fault map (R41, R581). -/
theorem State.retireRoot_retires (hr : r < s.roots.length) (h : (s.root r).state ≠ .retired) :
    ((s.retireRoot r).root r).state = .retired ∧ (s.retireRoot r).marked 6 r = true := by
  unfold State.retireRoot
  rw [if_neg h]
  extract_lets o repl
  constructor
  · rw [State.root_congr State.checkRoots_roots, State.root_congr State.declare_roots, State.root_onRoot_same _ hr]
  · rw [State.checkRoots_marked]
    exact State.declare_marked _ _ _ _ _ _

/-- The switches of root `r` in the last second, with the one that happens now (R41). -/
def State.switchTimes (s : State) (r : Nat) : List Nat := s.now :: (s.root r).switches.filter (fun t => decide (s.now < t + cyclesS))

/-- Root `r` fails: it relocks, and the switch is logged (R38, R39). -/
def State.failRoot (s : State) (r : Nat) : State :=
  (s.onRoot r (fun p => { p with state := .relocking, failedAt := s.now, switches := s.switchTimes r })).logRec 1 6 r 0
    (min 255 (s.switchTimes r).length)

/-- The other root runs instead, and TIME_COUNT gains or loses at most one count (R39). -/
def State.runStandby (s : State) (r : Nat) : State :=
  ((((s.failRoot r).onRoot (1 - r) (fun p => { p with state := .running })).took).raise Reg.TIME_EVENTS 9).onTl
    (fun x => { x with count := BitVec.ofNat 64 (((s.now : Int) + (s.freeInt % 3 - 1)).toNat) })

theorem State.switchRoot_eq (h : s.roots.findIdx? (fun r => decide (r.state = .running)) = some r) :
    s.switchRoot = if 2 < (s.switchTimes r).length
      then (if (s.root (1 - r)).state = .standby then s.runStandby r else (s.failRoot r).checkRoots).retireRoot r
      else (if (s.root (1 - r)).state = .standby then s.runStandby r else (s.failRoot r).checkRoots) := by
  unfold State.switchRoot
  rw [h]
  rfl

theorem State.failRoot_roots : (s.failRoot r).roots = (s.onRoot r (fun p => { p with state := .relocking, failedAt := s.now, switches := s.switchTimes r })).roots :=
  State.logRec_roots

theorem State.runStandby_roots : (s.runStandby r).roots = ((s.failRoot r).onRoot (1 - r) (fun p => { p with state := .running })).roots := by
  simp [State.runStandby]

/-- The switch of a running root to a standby within its limit of switches (R38, R39, R41). -/
theorem State.switchRoot_standby (hl : s.roots.length = 2) (r : Fin 2) (h : (s.root r).state = .running)
    (k : (s.root (1 - r.val)).state = .standby) (hn : ((s.root r).switches.filter (fun t => decide (s.now < t + cyclesS))).length < 2) :
    s.switchRoot = s.runStandby r ∧ ((s.runStandby r).root r).state = .relocking ∧ ((s.runStandby r).root r).failedAt = s.now ∧
      ((s.runStandby r).root (1 - r.val)).state = .running := by
  have hf : s.roots.findIdx? (fun r => decide (r.state = .running)) = some r.val :=
    findIdx_root hl r (decide_eq_true h) (decide_eq_false (by rw [show (lgetD s.roots (1 - r.val) {}).state = .standby from k]; decide))
  have hne : r.val ≠ 1 - r.val := by omega
  have h0 : r.val < s.roots.length := by omega
  have h1 : 1 - r.val < (s.failRoot r).roots.length := by simp [State.failRoot_roots]; omega
  have hs : ¬ 2 < (s.switchTimes r).length := by
    simp only [State.switchTimes, List.length_cons]
    omega
  have er : ((s.runStandby r).root r) = { s.root r with state := .relocking, failedAt := s.now, switches := s.switchTimes r } := by
    rw [State.root_congr State.runStandby_roots, State.root_onRoot_ne _ hne, State.root_congr State.failRoot_roots, State.root_onRoot_same _ h0]
  refine ⟨?_, by rw [er], by rw [er], ?_⟩
  · rw [State.switchRoot_eq hf, if_neg hs, if_pos k]
  · rw [State.root_congr State.runStandby_roots, State.root_onRoot_same _ h1]

/-- Without a standby no root runs once the running one fails, and SAFE_HOLD stays (R42). -/
theorem State.switchRoot_none (hl : s.roots.length = 2) (r : Fin 2) (h : (s.root r).state = .running)
    (k : (s.root (1 - r.val)).state ≠ .standby) (k' : (s.root (1 - r.val)).state ≠ .running) : s.switchRoot.hold = true := by
  have hf : s.roots.findIdx? (fun r => decide (r.state = .running)) = some r.val := findIdx_root hl r (decide_eq_true h) (decide_eq_false k')
  have hne : 1 - r.val ≠ r.val := by omega
  have h0 : r.val < s.roots.length := by omega
  have hh : (s.failRoot r).checkRoots.hold = true := by
    refine State.checkRoots_hold (forall_roots (by simpa [State.failRoot_roots] using hl) r ?_ ?_)
    · rw [State.failRoot_roots, show lgetD (s.onRoot r _).roots r.val {} = _ from State.root_onRoot_same _ h0]
      exact RootState.noConfusion
    · rw [State.failRoot_roots, show lgetD (s.onRoot r _).roots (1 - r.val) {} = _ from State.root_onRoot_ne _ hne]
      exact k'
  rw [State.switchRoot_eq hf, if_neg k]
  split
  · exact (State.retireRoot_keeps (Keeps.refl _)).held hh
  · exact hh

end

/-- Settles O17: which of the two roots runs, relocks or retires; the fault map and SAFE_HOLD by the lemmas of the operations. -/
theorem clockRootsSwitchAndRetire : Obligations.ClockRootsSwitchAndRetire := by
  have two {s : State} (hu : s.Units) : s.roots.length = 2 := (List.cons.inj hu).1
  have relocks {s : State} (hu : s.Units) (r : Fin 2) (h : (s.root r).state = .relocking) (k : (s.root (1 - r.val)).state ≠ .relocking) :
      s.roots.findIdx? (fun r => decide (r.state = .relocking)) = some r.val :=
    findIdx_root (two hu) r (decide_eq_true h) (decide_eq_false k)
  refine ⟨fun s r hu hup h k hn => ?_, fun s r hu hup h k k' => ?_, fun s hup => ?_, fun s r hu h k ht => ?_, fun s r hu h k => ?_,
    fun ok s h => ?_, fun s r hu hup h ht => ?_, fun s r h => ?_⟩
  · obtain ⟨e, hs, hf, ho⟩ := State.switchRoot_standby (two hu) r h k hn
    refine ⟨s.runStandby r, (if_pos hup).trans (by rw [e]), hs, hf, ho, ⟨s.freeInt % 3 - 1, by omega, ?_⟩, ?_⟩
    all_goals simp [State.runStandby, State.failRoot]
  · exact ⟨s.switchRoot, if_pos hup, State.switchRoot_none (two hu) r h k k'⟩
  · exact if_neg hup
  · have hr : r.val < s.roots.length := by rw [two hu]; exact r.isLt
    refine ⟨s.onRoot r (fun p => { p with state := .standby }), ?_, ?_, State.root_onRoot_ne _ (by omega),
      State.onRoot_only (Only.refl _ s) (by decide)⟩
    · show execRootRelock true s = _
      unfold execRootRelock
      rw [relocks hu r h k]
      exact if_pos ⟨rfl, ht⟩
    · rw [State.root_onRoot_same _ hr]
  · have hr : r.val < s.roots.length := by rw [two hu]; exact r.isLt
    refine ⟨s.retireRoot r, ?_, State.retireRoot_retires hr (by rw [h]; decide)⟩
    show execRootRelock false s = _
    unfold execRootRelock
    rw [relocks hu r h k]
    exact if_neg (fun c => Bool.noConfusion c.1)
  · show execRootRelock ok s = _
    unfold execRootRelock
    rw [List.findIdx?_eq_none_iff.mpr (fun x hx => decide_eq_false (h x hx))]
  · have hr : r.val < s.roots.length := by rw [two hu]; exact r.isLt
    exact ⟨s.retireRoot r, if_pos ⟨hup, h, ht⟩, State.retireRoot_retires hr (by rw [h]; decide)⟩
  · exact if_neg h

end Sys2Proof.Machine
end

section
/-! PROOFS. SRAM errors, mesh errors, moves of data sets and the balance window (O44). -/

namespace Sys2Proof.Machine
open Sys2Proof

/-- What a change of one element keeps of every element, it keeps of the elements of a list. -/
theorem apply_lgetD_lmod {α β : Type} (g : α → β) (l : List α) (i : Nat) (d : α) {f : α → α} (hf : ∀ x, g (f x) = g x) {j : Nat} :
    g (lgetD (lmod l i f) j d) = g (lgetD l j d) := by
  induction l generalizing i j with
  | nil => rfl
  | cons x l ih =>
    cases i with
    | zero => cases j with
      | zero => exact hf x
      | succ j => rfl
    | succ i => cases j with
      | zero => rfl
      | succ j => exact ih i

/-! ### What the handling of a fault leaves alone

Declaring engines and bank groups faulty writes registers of many blocks, but of block 12 (memory) it only sets event bits, and it leaves
the cause of every engine's last event. -/

/-- From `s` to `t` no counter of block 12 moves, no bit of MEM_EVENTS falls, and every engine keeps the cause of its last event. -/
structure FaultFrame (s t : State) : Prop where
  wf : regsWf s.regs = true → regsWf t.regs = true
  counts : regsWf s.regs = true → ∀ p, p / 0x100000 = 12 → p ≠ Reg.MEM_EVENTS → t.rget p = s.rget p
  events : regsWf s.regs = true → ∀ i, s.rbit Reg.MEM_EVENTS i = true → t.rbit Reg.MEM_EVENTS i = true
  cause : ∀ e, (t.engine e).lastCause = (s.engine e).lastCause

section
variable {a s t : State}

theorem FaultFrame.refl (s : State) : FaultFrame s s := ⟨id, fun _ _ _ _ => rfl, fun _ _ h => h, fun _ => rfl⟩

theorem FaultFrame.trans {u : State} (h : FaultFrame s t) (k : FaultFrame t u) : FaultFrame s u where
  wf w := k.wf (h.wf w)
  counts w p hp hm := (k.counts (h.wf w) p hp hm).trans (h.counts w p hp hm)
  events w i hi := k.events (h.wf w) i (h.events w i hi)
  cause e := (k.cause e).trans (h.cause e)

/-- A change that leaves the registers and the engines alone. -/
theorem FaultFrame.congr (h : FaultFrame a s) (er : t.regs = s.regs) (ee : t.engines = s.engines) : FaultFrame a t := by
  refine h.trans ⟨fun w => by rwa [er], fun _ p _ _ => State.rget_congr er p, fun _ i hi => ?_, fun e => by simp only [State.engine, ee]⟩
  rwa [State.rbit, State.rget_congr er]

theorem FaultFrame.rset (h : FaultFrame a s) {o : Nat} {w : Word} (ho : o / 0x100000 ≠ 12) : FaultFrame a (s.rset o w) := by
  have ne {p : Nat} (hp : p / 0x100000 = 12) : p ≠ o := fun e => ho (e ▸ hp)
  refine h.trans ⟨State.wf_rset, fun k p hp _ => State.rget_rset_ne k _ _ (ne hp), fun k i hi => ?_, fun _ => rfl⟩
  rwa [State.rbit, State.rget_rset_ne k _ _ (ne (by decide))]

theorem FaultFrame.bump (h : FaultFrame a s) {o n : Nat} (ho : o / 0x100000 ≠ 12) : FaultFrame a (s.bump o n) := h.rset ho

theorem FaultFrame.raiseAt (h : FaultFrame a s) {ev en v m : Nat} (ho : ev / 0x100000 ≠ 12) : FaultFrame a (s.raiseAt ev en v m) := by
  unfold State.raiseAt
  dsimp only
  split
  · exact h.rset ho
  · exact (h.rset ho).congr State.msixBoth_regs (State.msixBoth_only (Only.refl [.host, .out] _) (by decide) .engines rfl)

theorem FaultFrame.raise (h : FaultFrame a s) {o b : Nat} (ho : o / 0x100000 ≠ 12) : FaultFrame a (s.raise o b) := h.raiseAt ho

theorem FaultFrame.raiseMem (h : FaultFrame a s) {b : Nat} (hb : b < 32) : FaultFrame a (s.raise Reg.MEM_EVENTS b) := by
  refine h.trans ⟨State.wf_raise, fun k p _ hm => ?_, fun k i hi => ?_, fun e => ?_⟩
  · rw [State.rget_raise k, if_neg hm]
  · rw [State.rbit_raise k hb, hi, Bool.true_or]
  · simp only [State.engine, State.raise_engines]

theorem FaultFrame.onEngine (h : FaultFrame a s) {e : Nat} {f : Engine → Engine} (hf : ∀ g, (f g).lastCause = g.lastCause) :
    FaultFrame a (s.onEngine e f) :=
  h.trans ⟨id, fun _ _ _ _ => rfl, fun _ _ k => k, fun _ => apply_lgetD_lmod Engine.lastCause _ _ _ hf⟩

theorem FaultFrame.foldl {α : Type} {f : State → α → State} {l : List α} (h : FaultFrame a s)
    (hf : ∀ t x, FaultFrame a t → FaultFrame a (f t x)) : FaultFrame a (l.foldl f s) := by
  induction l generalizing s with
  | nil => exact h
  | cons x l ih => exact ih (hf _ _ h)

theorem FaultFrame.logRec (h : FaultFrame a s) {c k i d x : Nat} : FaultFrame a (s.logRec c k i d x) := by
  unfold State.logRec
  split
  · exact (h.bump (o := Reg.LOG_SUPPRESSED) (by decide)).congr rfl rfl
  · exact h.congr rfl rfl

theorem FaultFrame.markRetired (h : FaultFrame a s) {k i : Nat} : FaultFrame a (s.markRetired k i) := by
  unfold State.markRetired
  split
  · exact h
  · split <;> exact h.congr rfl rfl

theorem FaultFrame.declare (h : FaultFrame a s) {k i c : Nat} {r : Option Nat} {hard : Bool} : FaultFrame a (s.declare k i c r hard) :=
  (h.markRetired.logRec.bump (by decide)).raise (by decide)

/-! ### Engines -/

theorem FaultFrame.clearShadow (h : FaultFrame a s) {e : Nat} : FaultFrame a (s.clearShadow e) := h.onEngine (by intro _; rfl)

theorem FaultFrame.assignShadow (h : FaultFrame a s) {e : Nat} {k : ShadowKind} {us : List Nat} {ds : List (Nat × DescReg)} :
    FaultFrame a (s.assignShadow e k us ds) := by
  unfold State.assignShadow
  split
  · exact h.onEngine (by intro _; rfl)
  · exact h.onEngine (by intro _; rfl)
  · exact h.logRec

theorem FaultFrame.onBook (h : FaultFrame a s) {e : Nat} {f : RadishBook → RadishBook} : FaultFrame a (s.onBook e f) := h.congr rfl rfl

theorem FaultFrame.slotLost (h : FaultFrame a s) {e : Nat} : FaultFrame a (s.slotLost e) := by
  unfold State.slotLost
  extract_lets x s0 units rest cand
  have h0 : FaultFrame a s0 := h.congr rfl rfl
  split
  · exact h0
  · split
    next targets left _ =>
    extract_lets s1
    have h1 : FaultFrame a s1 := h0.congr rfl rfl
    split
    · exact (h1.bump (by decide)).raise (by decide)
    · exact h1

theorem FaultFrame.retireEng (h : FaultFrame a s) {e : Nat} : FaultFrame a (s.retireEng e) := by
  unfold State.retireEng
  split
  · exact h.logRec
  · extract_lets s1
    have h1 : FaultFrame a s1 := h.onEngine (by intro _; rfl)
    exact h1.markRetired.onBook.slotLost

theorem FaultFrame.cancelMigrations (h : FaultFrame a s) {e : Nat} : FaultFrame a (s.cancelMigrations e) := by
  unfold State.cancelMigrations
  split
  next gone kept _ =>
  refine FaultFrame.foldl (h.congr rfl rfl) (fun t m ht => ?_)
  refine ((FaultFrame.foldl ht (fun u x hu => ?_)).bump (by decide)).raise (by decide)
  split
  · exact hu.clearShadow
  · exact hu

theorem FaultFrame.pickTarget (h : FaultFrame a s) {x : Nat} : FaultFrame a (s.pickTarget x).1 := by
  unfold State.pickTarget
  split
  · dsimp only
    split
    · exact h.raise (by decide)
    · exact h
  · dsimp only
    split
    · exact h.cancelMigrations
    · exact h

/-- A target chosen, and its shadow started. -/
theorem FaultFrame.shadowTarget (h : FaultFrame a s) {n : Option Nat} {us : List Nat} :
    FaultFrame a (match n with | some e => s.assignShadow e .fault us | none => s) := by
  split
  · exact h.assignShadow
  · exact h

theorem FaultFrame.replace (h : FaultFrame a s) {x : Nat} {us : List Nat} {hard : Bool} : FaultFrame a (s.replace x us hard).1 := by
  unfold State.replace
  exact (h.pickTarget.shadowTarget (n := (s.pickTarget x).2) (us := us)).congr rfl rfl

theorem FaultFrame.retarget (h : FaultFrame a s) {x : Nat} : FaultFrame a (s.retarget x) := by
  unfold State.retarget
  split
  next gone kept _ =>
  exact FaultFrame.foldl (h.congr rfl rfl) (fun t r ht =>
    (ht.pickTarget.shadowTarget (n := (t.pickTarget r.failed).2) (us := r.units)).congr rfl rfl)

theorem FaultFrame.engPermanent (h : FaultFrame a s) {e c : Nat} {hard : Bool} : FaultFrame a (s.engPermanent e c hard) := by
  unfold State.engPermanent
  extract_lets g s0
  have h0 : FaultFrame a s0 := (h.onEngine (by intro _; rfl)).cancelMigrations
  split
  · exact h
  · split
    · next c _ _ =>
      have h1 : FaultFrame a (if hard then s0.retireEng e else s0) := by
        split
        · exact h0.retireEng
        · exact h0
      exact (h1.replace.declare).retarget
    · exact h0.retireEng.declare.retarget

theorem FaultFrame.rerun (h : FaultFrame a s) {e : Nat} {us : List Nat} : FaultFrame a (s.rerun e us) := by
  unfold State.rerun
  split
  · exact h
  · split
    · exact h.assignShadow
    · split
      · exact h.assignShadow
      · exact h

/-- An engine that counts an event has its cause, whatever the event leads to (R316, R317). -/
theorem FaultFrame.engEvent {e c : Nat} (he : e < 20) (hl : e < s.engines.length) :
    ∃ r : State, r.regs = s.regs ∧ ((s.engine e).state ≠ .retired → (s.engine e).state ≠ .off → (r.engine e).lastCause = c) ∧
      FaultFrame r (s.engEvent e c) := by
  unfold State.engEvent
  extract_lets g ev s1 s2 s3 s4
  split
  · next h => exact ⟨s, rfl, fun hr ho => absurd h (by simp [g, hr, ho]), .refl s⟩
  · have h3 : FaultFrame s1 s3 := (((FaultFrame.refl s1).raiseAt (by decide)).logRec).cancelMigrations
    have h4 : FaultFrame s1 s4 := by
      show FaultFrame s1 (if _ then _ else _)
      split
      · exact h3.engPermanent
      · exact h3
    refine ⟨s1, rfl, fun _ _ => ?_, ?_⟩
    · rw [show s1.engine e = _ from lgetD_lmod_same _ _ _ _ hl]
    · split
      · exact h4.rerun.bump (by simp only [Reg.RECOMPUTES]; omega)
      · exact h4

/-! ### Bank groups -/

theorem FaultFrame.onSram (h : FaultFrame a s) {u : Nat} {f : SramUnit → SramUnit} : FaultFrame a (s.onSram u f) := h.congr rfl rfl

theorem FaultFrame.groupFault (h : FaultFrame a s) {u g : Nat} (hu : u < 20) : FaultFrame a (s.groupFault u g) := by
  unfold State.groupFault
  extract_lets x idx clear k s1 s2 y z s3 r1 w r2 r3 ms v
  split
  · exact h
  · split
    · have h3 : FaultFrame a s3 := (h.onSram.onSram.declare.raiseMem (b := 10) (by decide)).congr rfl rfl
      have h4 : FaultFrame a s3.took := h3.congr rfl rfl
      exact (h4.rset (by simp only [Reg.STALL_CYCLES_LO]; omega)).rset (by simp only [Reg.STALL_CYCLES_HI]; omega)
    · have hd : FaultFrame a r1 := h.onSram.declare
      have h2 : FaultFrame a r2 := hd.congr rfl rfl
      exact h2.engPermanent

theorem FaultFrame.groupEvent (h : FaultFrame a s) {u g : Nat} (hu : u < 20) : FaultFrame a (s.groupEvent u g) := by
  unfold State.groupEvent
  extract_lets keep s1 n s2
  have h2 : FaultFrame a s2 := h.onSram.logRec
  split
  · exact h
  · split
    · exact h2.groupFault hu
    · exact h2

/-! ### The counts of an SRAM error -/

theorem State.wf_eccCapture (h : regsWf s.regs = true) {a b c : Bool} {u n x : Nat} : regsWf (s.eccCapture a b c u n x).regs = true := by
  unfold State.eccCapture
  split
  · exact h
  · exact State.wf_setPair (State.wf_rset h)

/-- An ECC capture writes ECC_INFO and the address pair only (R519). -/
theorem State.rget_eccCapture (h : regsWf s.regs = true) {a b c : Bool} {u n x p : Nat} (h1 : p ≠ Reg.ECC_INFO) (h2 : p ≠ Reg.ECC_ADDR_LO)
    (h3 : p ≠ Reg.ECC_ADDR_HI) : (s.eccCapture a b c u n x).rget p = s.rget p := by
  unfold State.eccCapture
  split
  · rfl
  · rw [State.rget_setPair (State.wf_rset h), if_neg h3, if_neg h2, State.rget_rset_ne h _ _ h1]

@[simp] theorem State.eccCapture_safety {a b c : Bool} {u n x : Nat} : (s.eccCapture a b c u n x).safety = s.safety :=
  State.eccCapture_only (Only.refl [.regs] s) (by decide) .safety rfl

@[simp] theorem State.eccCapture_engines {a b c : Bool} {u n x : Nat} : (s.eccCapture a b c u n x).engines = s.engines :=
  State.eccCapture_only (Only.refl [.regs] s) (by decide) .engines rfl

/-- An error counted at `o`, captured, with bit `i` of MEM_EVENTS set (R510, R511). -/
def State.countError (s : State) (o : Nat) (a b c : Bool) (u n x i : Nat) : State := ((s.bump o).eccCapture a b c u n x).raise Reg.MEM_EVENTS i

theorem State.countError_counts (h : regsWf s.regs = true) {o u n x i : Nat} {a b c : Bool} (hi : i < 32) (h0 : o ≠ Reg.MEM_EVENTS)
    (h1 : o ≠ Reg.ECC_INFO) (h2 : o ≠ Reg.ECC_ADDR_LO) (h3 : o ≠ Reg.ECC_ADDR_HI) :
    regsWf (s.countError o a b c u n x i).regs = true ∧ (s.countError o a b c u n x i).rget o = satAdd32 (s.rget o) 1 ∧
      (s.countError o a b c u n x i).rbit Reg.MEM_EVENTS i = true ∧ (s.countError o a b c u n x i).engines = s.engines := by
  have w1 : regsWf (s.bump o).regs = true := State.wf_bump h
  have w2 : regsWf ((s.bump o).eccCapture a b c u n x).regs = true := State.wf_eccCapture w1
  refine ⟨State.wf_raise w2, ?_, ?_, ?_⟩
  · rw [State.countError, State.rget_raise w2, if_neg h0, State.rget_eccCapture w1 h1 h2 h3, State.rget_bump h, if_pos rfl]
  · rw [State.countError, State.rbit_raise w2 hi]
    simp
  · simp [State.countError]

/-- A count of the SRAM block is neither the event register nor the capture. -/
theorem ne_capture {p : Nat} (h : 0xc01100 ≤ p) : p ≠ Reg.MEM_EVENTS ∧ p ≠ Reg.ECC_INFO ∧ p ≠ Reg.ECC_ADDR_LO ∧ p ≠ Reg.ECC_ADDR_HI := by
  simp only [Reg.MEM_EVENTS, Reg.ECC_INFO, Reg.ECC_ADDR_LO, Reg.ECC_ADDR_HI]
  omega

/-- The element after a list of a given length is the one changed there. -/
theorem lmod_append_length {α : Type} (l : List α) (x : α) (m : List α) (f : α → α) : lmod (l ++ x :: m) l.length f = l ++ f x :: m := by
  induction l with
  | nil => rfl
  | cons y l ih => exact congrArg (y :: ·) ih

/-- A move of the data set whose copy still runs. -/
theorem moveRuns_eq_false {m : SetMove} {n : Nat} (h : m.set ≠ n ∨ m.copied = true) : decide (m.set = n ∧ ¬ m.copied) = false :=
  decide_eq_false (fun k => h.elim (fun c => c k.1) k.2)

/-! ### The balance window -/

/-- From `s` to `t` the window's figures stay: the imbalance, the bytes, CHANNEL_BALANCE and the event of an imbalance that rises. -/
structure WindowKept (s t : State) : Prop where
  wf : regsWf t.regs = true
  imbalance : t.place.imbalance = s.place.imbalance
  hotBytes : t.place.hotBytes = s.place.hotBytes
  ratio : t.rget Reg.CHANNEL_BALANCE = s.rget Reg.CHANNEL_BALANCE
  event : s.rbit Reg.PLACE_EVENTS 0 = true → t.rbit Reg.PLACE_EVENTS 0 = true

theorem WindowKept.refl (h : regsWf s.regs = true) : WindowKept s s := ⟨h, rfl, rfl, rfl, id⟩

theorem WindowKept.bump (h : WindowKept a s) {o n : Nat} (h1 : Reg.CHANNEL_BALANCE ≠ o) (h2 : Reg.PLACE_EVENTS ≠ o) :
    WindowKept a (s.bump o n) where
  wf := State.wf_bump h.wf
  imbalance := by rw [State.bump_place, h.imbalance]
  hotBytes := by rw [State.bump_place, h.hotBytes]
  ratio := by rw [State.rget_bump h.wf, if_neg h1, h.ratio]
  event e := by
    rw [State.rbit, State.rget_bump h.wf, if_neg h2]
    exact h.event e

theorem WindowKept.raise (h : WindowKept a s) {b : Nat} (hb : b < 32) : WindowKept a (s.raise Reg.PLACE_EVENTS b) where
  wf := State.wf_raise h.wf
  imbalance := by rw [State.raise_place, h.imbalance]
  hotBytes := by rw [State.raise_place, h.hotBytes]
  ratio := by rw [State.rget_raise h.wf, if_neg (by decide), h.ratio]
  event e := by rw [State.rbit_raise h.wf hb, h.event e, Bool.true_or]

theorem WindowKept.foldl {α : Type} {f : State → α → State} {l : List α} (h : WindowKept a s)
    (hf : ∀ t x, WindowKept a t → WindowKept a (f t x)) : WindowKept a (l.foldl f s) := by
  induction l generalizing s with
  | nil => exact h
  | cons x l ih => exact ih (hf _ _ h)

/-- A change of the pod store is none of the window's. -/
theorem WindowKept.onStore (h : WindowKept a s) {f : PodStore → PodStore} : WindowKept a (s.onStore f) :=
  ⟨h.wf, h.imbalance, h.hotBytes, h.ratio, h.event⟩

theorem WindowKept.remapGranule (h : WindowKept a s) {g cool : Nat} : WindowKept a (s.remapGranule g cool) := by
  unfold State.remapGranule
  split
  · exact h
  · extract_lets m p t
    have ht : WindowKept a t := ⟨h.wf, h.imbalance, h.hotBytes, h.ratio, h.event⟩
    exact ht.bump (by decide) (by decide)

/-- The bytes of a window that names a count for each channel in use. -/
theorem window_bytes {l : List Nat} {n : Nat} (h : l.length = n) : (l ++ List.replicate 16 0).take n = l := by
  rw [← h, List.take_left']
  rfl

theorem State.rget_withPlace (s : State) (p : Placement) (o : Nat) : State.rget { s with place := p } o = s.rget o := rfl

/-- The field of CHANNEL_BALANCE that shows the ratio (R464, R484). -/
theorem wbits_ratio (x h r : Nat) (hr : r < 65536) : wbits (nw (x * 2 ^ 24 + h * 2 ^ 16 + r)) 15 0 = r := by
  simp only [wbits, nbits, nw, BitVec.toNat_ofNat]
  omega

/-- A window of CHANNEL_BALANCE_WINDOW (R464): the figures it leaves. -/
theorem execChannelBalanceWindow_shows (h : regsWf s.regs = true) {o : BalanceObs} (hi : s.inServ = true) (hf : s.tl.frames % 8 = 0)
    (hs : ¬ s.saved = true) (hl : o.bytes.length = s.mem.inUse) {total top : Nat} (ht : total = o.bytes.foldl (· + ·) 0)
    (hm : top = o.bytes.foldl max 0) :
    ∃ t, execChannelBalanceWindow o s = .next t ∧ t.place.hotBytes = o.bytes ∧
      (t.place.imbalance = true ↔ s.rbits Reg.IMBALANCE_CFG 31 24 * total < top * s.mem.inUse * 64 ∧ s.rbits Reg.IMBALANCE_CFG 15 8 * 943718400 < 100 * top) ∧
      t.rbits Reg.CHANNEL_BALANCE 15 0 = (if total = 0 then 0 else min 65535 (top * s.mem.inUse * 256 / total)) ∧
      (s.place.imbalance = false → t.place.imbalance = true → t.rbit Reg.PLACE_EVENTS 0 = true) := by
  unfold execChannelBalanceWindow
  rw [if_neg (by simp [hi, hf, hs])]
  extract_lets n bytes sum peak hot ratio beyond s1 crossed p s2 s3 s4 s5 cool
  have eb : bytes = o.bytes := window_bytes hl
  have es : sum = total := by rw [ht, ← eb]; rfl
  have ep : peak = top := by rw [hm, ← eb]
  have w1 : regsWf s1.regs = true := State.wf_rset h
  have w2 : regsWf s2.regs = true := w1
  have k3 : WindowKept s2 s3 := by
    show WindowKept s2 (if _ then _ else _)
    split
    · exact (WindowKept.refl w2).raise (by decide)
    · exact .refl w2
  have rises : s.place.imbalance = false → beyond = true → s3.rbit Reg.PLACE_EVENTS 0 = true := by
    intro hb hy
    have e3 : s3 = s2.raise Reg.PLACE_EVENTS 0 := if_pos ⟨hy, by simp [crossed, hy, hb]⟩
    rw [e3, State.rbit_raise w2 (by decide)]
    simp
  have k4 : WindowKept s3 s4 := by
    show WindowKept s3 (if _ then _ else _)
    split
    · exact .refl k3.wf
    · exact ((WindowKept.refl k3.wf).bump (by decide) (by decide)).raise (by decide)
  have shown : ∀ t, WindowKept s3 t → t.place.hotBytes = o.bytes ∧ t.place.imbalance = beyond ∧ t.rbits Reg.CHANNEL_BALANCE 15 0 = ratio ∧
      (s.place.imbalance = false → t.place.imbalance = true → t.rbit Reg.PLACE_EVENTS 0 = true) := by
    intro t k
    have hb : t.place.imbalance = beyond := k.imbalance.trans k3.imbalance
    refine ⟨(k.hotBytes.trans k3.hotBytes).trans eb, hb, ?_, fun hn hy => k.event (rises hn (hb.symm.trans hy))⟩
    have er : s2.rget Reg.CHANNEL_BALANCE = s1.rget Reg.CHANNEL_BALANCE := State.rget_withPlace _ _ _
    rw [State.rbits, k.ratio, k3.ratio, er, State.rget_rset_same h, wbits_ratio]
    show (if _ then _ else _) < _
    split
    · decide
    · exact Nat.lt_of_le_of_lt (Nat.min_le_left _ _) (by decide)
  have last : ∃ t, (if ¬ beyond = true then Host.Outcome.next s4
      else .next (o.granules.foldl (fun (t : State) g => t.remapGranule g cool) s5) : Out) = .next t ∧ WindowKept s3 t := by
    split
    · exact ⟨s4, rfl, k4⟩
    · exact ⟨_, rfl, WindowKept.foldl (WindowKept.foldl k4 (fun _ _ k => k.onStore)) (fun _ _ k => k.remapGranule)⟩
  obtain ⟨t, e, k⟩ := last
  obtain ⟨hh, hb, hr, he⟩ := shown t k
  refine ⟨t, e, hh, ?_, ?_, he⟩
  · rw [hb, ← es, ← ep]
    exact decide_eq_true_iff
  · rw [hr, ← es, ← ep]

/-! ### The commands -/

theorem execSramReadError_corrected (hup : s.up = true) (hp : ¬ s.power.stopped = true) {u : Fin 25} (hu : u.val < 20) {b : Fin 32} {x : Nat}
    {y : Bool} : execSramReadError u b x false y s =
      .next ((s.countError (Reg.SRAM_CORRECTED u) false false false u 1 x 8).groupEvent u (b.val / 4)) := by
  unfold execSramReadError
  rw [if_neg (by simp [hup, hp]), if_neg (by omega), if_pos Bool.noConfusion, execSramReadError.sramReg, if_pos hu]
  rfl

theorem execSramReadError_uncorrectable (hup : s.up = true) (hp : ¬ s.power.stopped = true) {u : Fin 25} (hu : u.val < 20) {b : Fin 32} {x : Nat}
    {y : Bool} : execSramReadError u b x true y s =
      .next (if y then ((((s.countError (Reg.SRAM_UNCORRECTABLE u) true false y u 0 x 9).engEvent u 1).groupEvent u (b.val / 4)).groupFault u (b.val / 4))
        else ((s.countError (Reg.SRAM_UNCORRECTABLE u) true false y u 0 x 9).engEvent u 1).groupEvent u (b.val / 4)) := by
  unfold execSramReadError
  rw [if_neg (by simp [hup, hp]), if_neg (by omega), if_neg (by simp), execSramReadError.sramReg, if_pos hu]
  simp only [if_pos hu]
  rfl

end

/-- Settles O44: each count is that of its command, and what an engine event or a bank group's fault leads to keeps it. -/
theorem sramMeshAndBalance : Obligations.SramMeshAndBalance := by
  have twenty {s : State} (hu : s.Units) : s.engines.length = 20 := by
    have e : s.unitCounts = _ := hu
    simp only [State.unitCounts, List.cons.injEq] at e
    exact e.2.2.2.1
  refine ⟨fun u b a x y s h => if_pos h, fun u b a y s hU hM hup hp hu => ?_, fun u b a y s hM hup hp hu => ?_, fun r l s => ?_,
    fun r i s h => if_pos h, fun r i s hU hup hr hs ho => ?_, fun r i s hup hr => ?_, fun n s a b m hm hn hc ha => ?_, fun n s h => ?_,
    fun o s h => if_pos h, fun o s total top hM hi hf hs hl _ ht hm =>
      execChannelBalanceWindow_shows hM.1 hi hf hs hl ht hm⟩
  · have ne {p : Nat} (h : 0xc01100 ≤ p ∧ p < 0xd00000) : p / 0x100000 = 12 := by omega
    have hc : 0xc01100 ≤ Reg.SRAM_CORRECTED u ∧ Reg.SRAM_CORRECTED u < 0xd00000 := by simp only [Reg.SRAM_CORRECTED]; omega
    have hu' : 0xc01100 ≤ Reg.SRAM_UNCORRECTABLE u ∧ Reg.SRAM_UNCORRECTABLE u < 0xd00000 := by simp only [Reg.SRAM_UNCORRECTABLE]; omega
    obtain ⟨c1, c2, c3, c4⟩ := ne_capture hc.1
    obtain ⟨d1, d2, d3, d4⟩ := ne_capture hu'.1
    obtain ⟨wc, nc, ec, -⟩ := State.countError_counts hM.1 (u := u.val) (n := 1) (x := a) (i := 8) (a := false) (b := false) (c := false)
      (by decide) c1 c2 c3 c4
    obtain ⟨wu, nu, eu, gu⟩ := State.countError_counts hM.1 (u := u.val) (n := 0) (x := a) (i := 9) (a := true) (b := false) (c := y)
      (by decide) d1 d2 d3 d4
    have kc := (FaultFrame.refl (s.countError (Reg.SRAM_CORRECTED u) false false false u 1 a 8)).groupEvent (g := b.val / 4) hu
    obtain ⟨r, rr, rc, kr⟩ := FaultFrame.engEvent (s := s.countError (Reg.SRAM_UNCORRECTABLE u) true false y u 0 a 9) (c := 1) hu
      (by rw [gu, twenty hU]; exact hu)
    have ku : FaultFrame r (if y then ((((s.countError (Reg.SRAM_UNCORRECTABLE u) true false y u 0 a 9).engEvent u 1).groupEvent u (b.val / 4)).groupFault u (b.val / 4))
        else ((s.countError (Reg.SRAM_UNCORRECTABLE u) true false y u 0 a 9).engEvent u 1).groupEvent u (b.val / 4)) := by
      split
      · exact (kr.groupEvent hu).groupFault hu
      · exact kr.groupEvent hu
    rw [← rr] at wu
    rw [← State.rget_congr rr] at nu
    rw [State.rbit, ← State.rget_congr rr] at eu
    rw [State.engine, gu] at rc
    exact ⟨_, _, execSramReadError_corrected hup hp hu, kc.events wc 8 ec, (kc.counts wc _ (ne hc) c1).trans nc,
      execSramReadError_uncorrectable hup hp hu, ku.events wu 9 eu, (ku.counts wu _ (ne hu') d1).trans nu,
      fun hs ho => (ku.cause u).trans (rc hs ho)⟩
  · have e1 : exec (.sramReadError u b a false y) s = .next (s.countError Reg.OTHER_SRAM_CORRECTED false false false u 1 a 8) :=
      (if_neg (by simp [hup, hp])).trans ((if_pos hu).trans (if_neg Bool.noConfusion))
    have e2 : exec (.sramReadError u b a true y) s = .next (((s.eccCapture true false y u 0 a).raise Reg.MEM_EVENTS 9).enterHold 5) :=
      (if_neg (by simp [hup, hp])).trans ((if_pos hu).trans (if_pos rfl))
    obtain ⟨-, nc, -, -⟩ := State.countError_counts hM.1 (o := Reg.OTHER_SRAM_CORRECTED) (u := u.val) (n := 1) (x := a) (i := 8)
      (a := false) (b := false) (c := false) (by decide) (by decide) (by decide) (by decide) (by decide)
    exact ⟨_, _, e1, nc, by simp [State.countError], e2, State.enterHold_hold _ 5⟩
  · refine ⟨_, rfl, ?_, rfl⟩
    simp only [State.onMem, mgetD, mget_mset_same, Option.getD_some]
  · obtain ⟨q, -, rc, k⟩ := FaultFrame.engEvent (s := s) (e := r.val) (c := 4) hr (by rw [twenty hU]; exact hr)
    exact ⟨_, (if_neg (by simp [hup])).trans (if_pos hr), (k.cause r).trans (rc hs ho)⟩
  · refine ⟨s.hardFail 2, ?_, State.enterHold_hold _ 2⟩
    exact (if_neg (by simp [hup])).trans ((if_neg (by omega)).trans ((if_neg (by omega)).trans (if_neg (by omega))))
  · have hi : s.place.moves.findIdx? (fun m => decide (m.set = n.toNat ∧ ¬ m.copied)) = some a.length := by
      rw [hm, List.findIdx?_append, List.findIdx?_eq_none_iff.mpr ?_]
      · simp [List.findIdx?_cons, hn, hc]
      · exact fun x hx => moveRuns_eq_false (ha x hx)
    show execDatasetMoveDone n s = _
    unfold execDatasetMoveDone
    rw [hi, hm]
    simp only [lmod_append_length]
  · show execDatasetMoveDone n s = _
    unfold execDatasetMoveDone
    rw [List.findIdx?_eq_none_iff.mpr (fun x hx => moveRuns_eq_false (h x hx))]

end Sys2Proof.Machine
end

section
/-! PROOFS. The frame boundary (O25). -/

namespace Sys2Proof.Machine
open Sys2Proof

/-! ### The parts of a frame boundary -/

/-- Steps 1 to 3 of a frame boundary (R57). -/
def State.frameSettled (s : State) (mismatch : Bool) : State :=
  (s.frameStep1.1.frameStep2 (!s.com.layers.isEmpty)).frameStep3 (s.frame - 1) mismatch s.stepDue.isSome

/-- Steps 4 and 5, skipped with a step and at the first boundary of an epoch (R59). -/
def State.frameSwitched (s : State) (mismatch : Bool) : State :=
  if s.frameStep1.2 then s.frameSettled mismatch else (s.frameSettled mismatch).frameStep4.frameStep5

/-- Steps 6 and 7 and what follows them up to the sensors. -/
def State.frameSensed (s : State) (o : FrameObs) (ended : Nat) : State :=
  (((s.frameStep6 o.proposal).frameStep7 ended).copyFrame).senseFrame o

theorem State.passFrame_eq (s : State) (o : FrameObs) :
    s.passFrame o = (((s.closeFrame.frameSwitched o.coreMismatch).frameSensed o (s.closeFrame.frame - 1)).openFrame).evalSafety := rfl

section
variable (s : State)

/-! ### After step 5 -/

/-- What steps 6 and 7 and the sensors change. -/
def sensedTouched : List Component := [.regs, .engines, .solver, .slot, .place, .mem, .safety, .host, .power, .out]

theorem State.frameSensed_only (o : FrameObs) (n : Nat) : Only sensedTouched s (s.frameSensed o n) :=
  State.senseFrame_only (State.copyFrame_only (State.frameStep7_only (State.frameStep6_only (Only.refl _ s)
    (by decide)) (by decide)) (by decide)) (by decide)

/-- What a frame begins with, the conditions of SAFE_HOLD among it. -/
def openedTouched : List Component := [.regs, .com, .engines, .solver, .peers, .safety, .host, .out]

theorem State.openFrame_evalSafety_only : Only openedTouched s s.openFrame.evalSafety :=
  State.evalSafety_only (State.openFrame_only (Only.refl _ s) (by decide)) (by decide)

/-- The boundary from step 6 on leaves what step 5 left, but for these. -/
theorem State.frameEnd_only (o : FrameObs) (n : Nat) :
    Only (.peers :: .com :: sensedTouched) s (s.frameSensed o n).openFrame.evalSafety :=
  (State.frameSensed_only s o n).mono (by decide) |>.step (State.openFrame_evalSafety_only _) (by decide)

theorem State.senseFrame_power (o : FrameObs) : (s.senseFrame o).power =
    { s.power with logicTemp := o.logicTemp, ioTemp := o.ioTemp, rails := o.rails, milliwatts := o.milliwatts } := by
  unfold State.senseFrame
  extract_lets warn hot s1 s2
  split
  · exact State.raise_only (Only.refl [.regs, .host, .out] s2) (by decide) .power rfl
  · rfl

/-- The sensors read what the frame finds (R689). -/
theorem State.passFrame_power (o : FrameObs) : ∃ p : Power, (s.passFrame o).power =
    { p with logicTemp := o.logicTemp, ioTemp := o.ioTemp, rails := o.rails, milliwatts := o.milliwatts } := by
  rw [State.passFrame_eq]
  exact ⟨_, (State.openFrame_evalSafety_only _ .power rfl).trans (State.senseFrame_power _ o)⟩

/-! ### The frame closes -/

theorem State.logRec_state {c k i u d} : (s.logRec c k i u d).safety.state = s.safety.state := by
  unfold State.logRec
  split <;> rfl

theorem State.logSuppressed_state : s.logSuppressed.safety.state = s.safety.state := by
  unfold State.logSuppressed
  extract_lets s1 counts detail
  split
  · rfl
  · exact State.logRec_state _

theorem State.unspill_body : s.unspill.live.map (fun i => i.body) = s.live.map (fun i => i.body) := by
  unfold State.unspill
  split
  next i h => rw [h]; rfl
  · rfl

/-- The timeline as a frame begins: one more frame, none due. -/
def countFrame (t : Timeline) : Timeline := { t with frames := t.frames + 1, frameDue := false }

/-- The frame that ends, before its migrations and replacements are reviewed. -/
def State.frameCounted (s : State) : State := ((s.onTl countFrame).logSuppressed.closeEngines (s.frame - 1)).unspill

theorem State.closeFrame_eq : s.closeFrame = s.frameCounted.reviewMigrations.reviewReplacements := rfl

theorem State.frameCounted_only : Only [.regs, .engines, .live, .place, .safety] (s.onTl countFrame) s.frameCounted :=
  State.unspill_only (State.closeEngines_only (State.logSuppressed_only (Only.refl _ _) (by decide)) (by decide)) (by decide)

theorem State.review_only : Only [.regs, .engines, .slot, .place, .safety, .host, .out] s.frameCounted s.closeFrame :=
  State.reviewReplacements_only (State.reviewMigrations_only (Only.refl _ _) (by decide)) (by decide)

/-- Closing a frame changes the timeline only by counting it. -/
theorem State.closeFrame_tl : s.closeFrame.tl = countFrame s.tl :=
  (State.review_only s .tl rfl).trans (State.frameCounted_only s .tl rfl)

theorem State.closeFrame_body : s.closeFrame.live.map (fun i => i.body) = s.live.map (fun i => i.body) := by
  have k : ((s.onTl countFrame).logSuppressed.closeEngines (s.frame - 1)).live = s.live :=
    State.closeEngines_only (State.logSuppressed_only (Only.refl [.regs, .engines, .place, .safety] (s.onTl countFrame))
      (by decide)) (by decide) .live rfl
  rw [show s.closeFrame.live = s.frameCounted.live from State.review_only s .live rfl]
  exact (State.unspill_body _).trans (congrArg _ k)

/-- What closing a frame leaves alone for certain. -/
theorem State.closeFrame_frame : Only [.regs, .tl, .engines, .live, .slot, .place, .safety, .host, .out] s s.closeFrame :=
  State.closeFrame_only (Only.refl _ s) (by decide)

theorem State.frameCounted_state : s.frameCounted.safety.state = s.safety.state := by
  have k : s.frameCounted.safety = (s.onTl countFrame).logSuppressed.safety :=
    State.unspill_only (State.closeEngines_only (Only.refl [.regs, .engines, .live, .place] _) (by decide)) (by decide) .safety rfl
  rw [k]
  exact State.logSuppressed_state _

theorem State.frameCounted_place : s.frameCounted.place.migrations = s.place.migrations ∧
    s.frameCounted.place.replacements = s.place.replacements := by
  have k : (s.onTl countFrame).logSuppressed.place = s.place :=
    State.logSuppressed_only (Only.refl [.regs, .safety] (s.onTl countFrame)) (by decide) .place rfl
  have u : s.frameCounted.place = ((s.onTl countFrame).logSuppressed.closeEngines (s.frame - 1)).place :=
    State.unspill_only (Only.refl [.live] _) (by decide) .place rfl
  rw [u]
  have m : ∀ t : State, ∀ n, (t.closeEngines n).place.migrations = t.place.migrations ∧
      (t.closeEngines n).place.replacements = t.place.replacements := fun _ _ => ⟨rfl, rfl⟩
  obtain ⟨em, er⟩ := m (s.onTl countFrame).logSuppressed (s.frame - 1)
  exact ⟨em.trans (congrArg Placement.migrations k), er.trans (congrArg Placement.replacements k)⟩

/-- With no migration and no replacement under way the review changes nothing but the empty list of replacements. -/
theorem State.closeFrame_of_none (hm : s.place.migrations = []) (hr : s.place.replacements = []) :
    s.closeFrame = s.frameCounted.onPlace (fun p => { p with replacements := [] }) := by
  obtain ⟨em, er⟩ := State.frameCounted_place s
  have k : s.frameCounted.reviewMigrations = s.frameCounted := by
    unfold State.reviewMigrations
    rw [em, hm]
    rfl
  rw [State.closeFrame_eq, k]
  unfold State.reviewReplacements
  rw [er, hr]
  rfl

/-! ### Steps 1 to 3 -/

/-- The timeline after a backward step (R86, R91 to R94), with the history of OFFSET and the second of the last PPS edge as given. -/
def State.steppedTl (x : TimeStep) (hist : List TimeEntry) (pps : Option Int) : Timeline :=
  { s.tl with
    offset := s.tl.offset - (x.beats : Int) * beatUnits, hist := hist, ppsLastSec := pps, beat := s.tl.beat - x.beats
    epochFirst := s.tl.beat - x.beats, step := none, epoch := if s.inServ then BitVec.ofNat 16 x.epoch else s.tl.epoch
    servo := .catchUp, slewTerm := slewLimit, residual := x.residual, residualFrom := s.tl.count.toNat, confirm := 0
    holdBase := s.tl.frames }

theorem State.stepTime_tl (x : TimeStep) : ∃ h p, (s.stepTime x).tl = s.steppedTl x h p := by
  unfold State.stepTime
  extract_lets d hist s1 s2
  exact ⟨_, _, State.raise_only (State.bump_only (Only.refl [.regs, .host, .out] s2) (by decide)) (by decide) .tl rfl⟩

theorem State.takeStep_tl (x : TimeStep) : ∃ h p, (s.takeStep x).tl = s.steppedTl x h p := by
  unfold State.takeStep
  extract_lets s1 s2
  have k : s2.tl = s1.tl :=
    State.stepSolver_only (State.stepVersions_only (Only.refl [.store, .solver] s1) (by decide)) (by decide) .tl rfl
  have o := State.sealEpoch_only (x1 := x) (Only.refl [.regs, .store, .com, .peers, .host, .out] s) (by decide)
  obtain ⟨h, p, e⟩ := State.stepTime_tl (s.sealEpoch x) x
  refine ⟨h, p, k.trans (e.trans ?_)⟩
  unfold State.steppedTl State.inServ
  rw [show (s.sealEpoch x).tl = s.tl from o .tl rfl, show (s.sealEpoch x).boot = s.boot from o .boot rfl]

theorem State.stepDue_some {x : TimeStep} (h : s.tl.step = some x) (d : x.frame ≤ s.frame) : s.stepDue = some x := by
  unfold State.stepDue
  rw [h]
  exact if_pos d

theorem State.stepDue_none (h : ∀ x, s.tl.step = some x → s.frame < x.frame) : s.stepDue = none := by
  unfold State.stepDue
  split
  next x e => exact if_neg (Nat.not_le_of_lt (h x e))
  · rfl

/-- The timeline after step 1. -/
theorem State.frameStep1_tl_none (h : s.stepDue = none) : s.frameStep1.1.tl = { s.tl with frameFirst := false } := by
  unfold State.frameStep1
  rw [h]
  rfl

theorem State.frameStep1_tl_some {x : TimeStep} (h : s.stepDue = some x) :
    ∃ l p, s.frameStep1.1.tl = { s.steppedTl x l p with frameFirst := false } := by
  obtain ⟨l, p, e⟩ := State.takeStep_tl s x
  refine ⟨l, p, ?_⟩
  unfold State.frameStep1
  rw [h]
  exact congrArg (fun t : Timeline => { t with frameFirst := false }) e

/-- What steps 2 and 3 change. -/
theorem State.frameSettled_only (b : Bool) :
    Only [.regs, .store, .com, .peers, .safety, .host, .out] s.frameStep1.1 (s.frameSettled b) :=
  State.frameStep3_only (State.frameStep2_only (Only.refl _ _) (by decide)) (by decide)

/-- What steps 1 to 3 change. -/
theorem State.frameSettled_frame (b : Bool) :
    Only [.regs, .tl, .store, .com, .solver, .peers, .safety, .host, .out] s (s.frameSettled b) :=
  State.frameStep3_only (State.frameStep2_only (State.frameStep1_only (Only.refl _ _) (by decide)) (by decide)) (by decide)

theorem State.closeHist_state {n b} : (s.closeHist n b).safety.state = s.safety.state := by
  unfold State.closeHist
  dsimp only
  split
  · simp [State.notCompared, State.onSafety, State.onStore]
  · rfl

theorem State.frameStep3_state {n b} : (s.frameStep3 n b false).safety.state = s.safety.state := by
  unfold State.frameStep3
  extract_lets s1
  rw [if_neg Bool.noConfusion]
  unfold s1
  split
  · exact State.closeHist_state s
  · rfl

/-- Without a step steps 1 to 3 leave the state of safety control. -/
theorem State.frameSettled_state (h : s.stepDue = none) {b} : (s.frameSettled b).safety.state = s.safety.state := by
  have k : (s.frameStep1.1.frameStep2 (!s.com.layers.isEmpty)).safety = s.safety :=
    State.frameStep2_only (State.frameStep1_only (Only.refl [.regs, .tl, .store, .com, .solver, .peers, .host, .out] s) (by decide))
      (by decide) .safety rfl
  unfold State.frameSettled
  rw [h]
  exact (State.frameStep3_state _).trans (congrArg Safety.state k)

/-- Steps 4 and 5 are skipped with a step and at the first boundary of an epoch (R59). -/
theorem State.frameSwitched_skipped {b} (h : s.stepDue.isSome = true ∨ s.tl.frameFirst = true) :
    s.frameSwitched b = s.frameSettled b := by
  refine if_pos ?_
  show (s.stepDue.isSome || s.tl.frameFirst) = true
  simpa using h

theorem State.frameSwitched_taken {b} (h : s.stepDue = none) (f : s.tl.frameFirst = false) :
    s.frameSwitched b = (s.frameSettled b).frameStep4.frameStep5 := by
  refine if_neg ?_
  show ¬ (s.stepDue.isSome || s.tl.frameFirst) = true
  simp [h, f]

/-- Steps 2 to 5 leave the timeline of step 1. -/
theorem State.frameSwitched_tl {b} : (s.frameSwitched b).tl = s.frameStep1.1.tl := by
  have k := State.frameSettled_only s b .tl rfl
  unfold State.frameSwitched
  split
  · exact k
  · exact (State.frameStep5_only (State.frameStep4_only (Only.refl [.regs, .store, .com, .engines, .descs, .movers, .data, .solver, .live,
      .old, .liveBeat, .slot, .place, .mem, .peers, .safety, .host, .power, .keeper, .out] _) (by decide)) (by decide) .tl rfl).trans k

/-! ### Step 4: the switch of the ARMED image -/

theorem Only.live_same {s t : State} {l : List Component} (h : Only l s t) (e : l.contains .live = false ∧ l.contains .old = false ∧
    l.contains .liveBeat = false) : t.live = s.live ∧ t.old = s.old ∧ t.liveBeat = s.liveBeat :=
  ⟨h .live e.1, h .old e.2.1, h .liveBeat e.2.2⟩

/-- An engine that runs the old image's passes and is no target is released (R442). -/
def State.releaseUntargeted (s : State) (targets : List Nat) : State :=
  (engines20.filter (fun e => !targets.contains e)).foldl (fun (t : State) e => if (t.engine e).state = .live then t.releaseEng e else t) s

theorem State.releaseUntargeted_only (ts : List Nat) : Only [.regs, .engines, .safety] s (s.releaseUntargeted ts) := by
  unfold State.releaseUntargeted
  refine Only.foldl (Only.refl _ _) (fun t e h => ?_)
  exact Only.ite (fun _ => State.releaseEng_only h (by decide)) (fun _ => h)

/-- What precedes the new image at the switch: engines, the slow solve, the node table (R442). -/
def State.beforeSwitch (s : State) (img : Image) : State :=
  let targets := s.slot.targets.map (fun t => t.1)
  ((targets.foldl (fun (t : State) e => t.switchEng e) s).releaseUntargeted targets).abandonSlow.switchTable img

theorem State.beforeSwitch_only (img : Image) : Only [.regs, .store, .engines, .solver, .safety, .host, .out] s (s.beforeSwitch img) := by
  refine State.switchTable_only (State.abandonSlow_only (Only.step ?_ (State.releaseUntargeted_only _ _) (by decide)) (by decide)) (by decide)
  exact Only.foldl (Only.refl _ _) (fun t e h => State.switchEng_only h (by decide))

/-- The switch leaves the new image live and what was live old (R442). -/
theorem State.switchImage_live {img : Image} (ha : s.slot.state = .armed) (hi : s.slot.image = some img) :
    s.switchImage.live = some img ∧ s.switchImage.old = s.live ∧ s.switchImage.liveBeat = s.tl.beat := by
  have b := State.beforeSwitch_only s img
  have bl : (s.beforeSwitch img).live = s.live := b .live rfl
  have bt : (s.beforeSwitch img).tl = s.tl := b .tl rfl
  unfold State.switchImage
  rw [ha, hi]
  dsimp -zeta only
  extract_lets targets lost s1 s2 s3 ext q s4 s5
  have e3 : s3 = s.beforeSwitch img := rfl
  clear_value s3
  have e4 : s4.live = some img ∧ s4.old = s3.live ∧ s4.liveBeat = s3.tl.beat := ⟨rfl, rfl, rfl⟩
  clear_value s4
  have o : Only [.regs, .store, .engines, .slot, .host, .out] s4
      (((s5.showLive img).bump Reg.ABANDONED_PASSES lost |>.bump Reg.SWITCHES).raise Reg.SLOT_EVENTS 0) :=
    State.raise_only (State.bump_only (State.bump_only (State.showLive_only (State.emptySlot_only (State.bump_only
      (State.onStore_only (Only.refl _ _) (by decide)) (by decide)) (by decide)) (by decide)) (by decide)) (by decide)) (by decide)
  obtain ⟨ol, oo, ob⟩ := o.live_same (by decide)
  obtain ⟨l4, o4, b4⟩ := e4
  rw [ol, oo, ob, l4, o4, b4, e3, bl, bt]
  exact ⟨rfl, rfl, rfl⟩

theorem State.applyImage_live {img : Image} (ha : s.slot.state = .armed) (hi : s.slot.image = some img) :
    s.applyImage.live = some img ∧ s.applyImage.old = s.live ∧ s.applyImage.liveBeat = s.tl.beat := by
  have c := State.cancelAllMigrations_only (Only.refl [.regs, .engines, .place, .host, .out] s) (by decide)
  have cs : s.cancelAllMigrations.slot = s.slot := c .slot rfl
  have cl : s.cancelAllMigrations.live = s.live := c .live rfl
  have ct : s.cancelAllMigrations.tl = s.tl := c .tl rfl
  obtain ⟨kl, ko, kb⟩ := State.switchImage_live s.cancelAllMigrations (cs ▸ ha) (cs ▸ hi)
  unfold State.applyImage
  extract_lets first s1 s2
  have o1 : Only [.regs, .store, .com, .engines, .solver, .slot, .place, .peers, .safety, .host, .power, .keeper, .out]
      s.cancelAllMigrations.switchImage s1 :=
    State.announceImage_only (State.renewReplacements_only (State.dropReruns_only (Only.refl _ _) (by decide)) (by decide)) (by decide)
  obtain ⟨ol, oo, ob⟩ := (State.settleLowered_only (Only.ite (c := first = true) (fun _ => State.restoreMarrow_only o1 (by decide))
    (fun _ => o1)) (by decide)).live_same (by decide)
  exact ⟨ol.trans kl, oo.trans (ko.trans cl), ob.trans (kb.trans (congrArg Timeline.beat ct))⟩

/-- Step 4 with nothing else pending switches the ARMED image in (R58). -/
theorem State.frameStep4_armed {img : Image} (hr : s.place.replacements = []) (hc : ∀ y ∈ s.mem.copies, y.done = false)
    (ha : s.slot.state = .armed) (hi : s.slot.image = some img) (hh : s.hold = false) :
    s.frameStep4.live = some img ∧ s.frameStep4.old = s.live ∧ s.frameStep4.liveBeat = s.tl.beat := by
  have f : s.faultsPending = false := by
    unfold State.faultsPending State.dueSwitches
    rw [hr, List.any_eq_false.mpr (fun y hy => by rw [hc y hy]; exact Bool.noConfusion)]
    rfl
  have e : s.frameStep4 = s.applyImage.fitLevel.releaseSwitched := by
    unfold State.frameStep4
    rw [f, if_neg Bool.noConfusion, if_pos ⟨ha, by rw [hh]; exact Bool.noConfusion⟩]
  obtain ⟨kl, ko, kb⟩ := State.applyImage_live s ha hi
  obtain ⟨ol, oo, ob⟩ := (State.releaseSwitched_only (State.fitLevel_only
    (Only.refl [.regs, .com, .engines, .slot, .place, .safety, .host, .out] s.applyImage) (by decide)) (by decide)).live_same (by decide)
  rw [e]
  exact ⟨ol.trans kl, oo.trans ko, ob.trans kb⟩

end

/-! ### The boundary as a whole -/

section
variable (s : State) (o : FrameObs)

/-- What steps 6 and 7 and the rest of the boundary leave: timeline and images are those of step 5. -/
theorem State.passFrame_live : let t := s.closeFrame.frameSwitched o.coreMismatch
    (s.passFrame o).tl = t.tl ∧ (s.passFrame o).live = t.live ∧ (s.passFrame o).old = t.old ∧ (s.passFrame o).liveBeat = t.liveBeat := by
  have k := State.frameEnd_only (s.closeFrame.frameSwitched o.coreMismatch) o (s.closeFrame.frame - 1)
  exact ⟨k .tl rfl, k.live_same (by decide)⟩

theorem State.passFrame_tl : (s.passFrame o).tl = s.closeFrame.frameStep1.1.tl :=
  (State.passFrame_live s o).1.trans (State.frameSwitched_tl _)

theorem State.closeFrame_stepDue : s.closeFrame.stepDue = s.stepDue := by
  unfold State.stepDue State.frame
  rw [State.closeFrame_tl]
  rfl

theorem State.closeFrame_frameFirst : s.closeFrame.tl.frameFirst = s.tl.frameFirst := by
  rw [State.closeFrame_tl]
  rfl

/-- With no step due the boundary only counts the frame. -/
theorem State.passFrame_tl_none (h : s.stepDue = none) : (s.passFrame o).tl = { countFrame s.tl with frameFirst := false } := by
  rw [State.passFrame_tl, State.frameStep1_tl_none _ ((State.closeFrame_stepDue s).trans h), State.closeFrame_tl]

/-- With a step due it takes the step. -/
theorem State.passFrame_tl_some {x : TimeStep} (h : s.stepDue = some x) :
    ∃ l p, (s.passFrame o).tl = { (s.onTl countFrame).steppedTl x l p with frameFirst := false } := by
  obtain ⟨l, p, e⟩ := State.frameStep1_tl_some _ ((State.closeFrame_stepDue s).trans h)
  refine ⟨l, p, (State.passFrame_tl s o).trans (e.trans ?_)⟩
  unfold State.steppedTl State.inServ
  rw [State.closeFrame_tl, show s.closeFrame.boot = s.boot from State.closeFrame_frame s .boot rfl]
  rfl

/-- What every boundary does to the timeline. -/
theorem State.passFrame_counts : (s.passFrame o).tl.frames = s.tl.frames + 1 ∧ (s.passFrame o).tl.frameDue = false ∧
    (s.passFrame o).tl.frameFirst = false ∧ (s.passFrame o).tl.count = s.tl.count := by
  cases h : s.stepDue with
  | none =>
    rw [State.passFrame_tl_none s o h]
    exact ⟨rfl, rfl, rfl, rfl⟩
  | some x =>
    obtain ⟨l, p, e⟩ := State.passFrame_tl_some s o h
    rw [e]
    exact ⟨rfl, rfl, rfl, rfl⟩

/-- Where steps 4 and 5 are skipped no image switches (R59). -/
theorem State.passFrame_live_skipped (h : s.stepDue.isSome = true ∨ s.tl.frameFirst = true) :
    (s.passFrame o).live.map (fun i => i.body) = s.live.map (fun i => i.body) ∧ (s.passFrame o).liveBeat = s.liveBeat ∧
      (s.passFrame o).old = s.old := by
  obtain ⟨-, hl, ho, hb⟩ := State.passFrame_live s o
  rw [hl, ho, hb, State.frameSwitched_skipped _ (by rwa [State.closeFrame_stepDue, State.closeFrame_frameFirst])]
  obtain ⟨kl, ko, kb⟩ := (State.frameSettled_frame s.closeFrame o.coreMismatch).live_same (by decide)
  rw [kl, ko, kb]
  have c := State.closeFrame_frame s
  exact ⟨State.closeFrame_body s, c .liveBeat rfl, c .old rfl⟩

/-- Where nothing else is pending the ARMED image switches in (R442). -/
theorem State.passFrame_live_armed {img : Image} (h : s.stepDue = none) (f : s.tl.frameFirst = false) (hr : s.place.replacements = [])
    (hm : s.place.migrations = []) (hc : ∀ y ∈ s.mem.copies, y.done = false) (ha : s.slot.state = .armed)
    (hi : s.slot.image = some img) (hh : s.hold = false) :
    (s.passFrame o).live = some img ∧ (s.passFrame o).old.map (fun i => i.body) = s.live.map (fun i => i.body) ∧
      (s.passFrame o).liveBeat = s.tl.beat := by
  have hd := (State.closeFrame_stepDue s).trans h
  have e := State.closeFrame_of_none s hm hr
  have kc : s.frameCounted.slot = s.slot := State.frameCounted_only s .slot rfl
  have cs : s.closeFrame.slot = s.slot := (congrArg State.slot e).trans kc
  have cr : s.closeFrame.place.replacements = [] := congrArg (fun t : State => t.place.replacements) e
  have ch : s.closeFrame.safety.state = s.safety.state :=
    (congrArg (fun t : State => t.safety.state) e).trans (State.frameCounted_state s)
  have cm : s.closeFrame.mem = s.mem := State.closeFrame_frame s .mem rfl
  have k := State.frameSettled_frame s.closeFrame o.coreMismatch
  have ks := (show (s.closeFrame.frameSettled o.coreMismatch).slot = s.closeFrame.slot from k .slot rfl).trans cs
  have kp : (s.closeFrame.frameSettled o.coreMismatch).place = s.closeFrame.place := k .place rfl
  have km := (show (s.closeFrame.frameSettled o.coreMismatch).mem = s.closeFrame.mem from k .mem rfl).trans cm
  have kl : (s.closeFrame.frameSettled o.coreMismatch).live = s.closeFrame.live := k .live rfl
  have kh : (s.closeFrame.frameSettled o.coreMismatch).hold = false := by
    unfold State.hold at hh ⊢
    rw [State.frameSettled_state _ hd, ch]
    exact hh
  have kt : (s.closeFrame.frameSettled o.coreMismatch).tl = { countFrame s.tl with frameFirst := false } :=
    ((State.frameSettled_only s.closeFrame o.coreMismatch .tl rfl).trans (State.frameStep1_tl_none _ hd)).trans (by rw [State.closeFrame_tl])
  obtain ⟨al, ao, ab⟩ := State.frameStep4_armed (s.closeFrame.frameSettled o.coreMismatch) (by rw [kp]; exact cr) (by rw [km]; exact hc)
    (by rw [ks]; exact ha) (by rw [ks]; exact hi) kh
  obtain ⟨fl, fo, fb⟩ := (State.frameStep5_only (Only.refl [.store] (s.closeFrame.frameSettled o.coreMismatch).frameStep4)
    (by decide)).live_same (by decide)
  obtain ⟨-, hl, ho, hb⟩ := State.passFrame_live s o
  rw [hl, ho, hb, State.frameSwitched_taken _ hd ((State.closeFrame_frameFirst s).trans f), fl, fo, fb, al, ao, ab, kl, kt]
  exact ⟨rfl, State.closeFrame_body s, rfl⟩

end

/-- Settles O25: the boundary is cut at step 5; the timeline is that of step 1, and only step 4 switches an image. -/
theorem frameBoundaryCarriesOutItsSteps : Obligations.FrameBoundaryCarriesOutItsSteps := by
  unfold Obligations.FrameBoundaryCarriesOutItsSteps
  have open_iff : ∀ s : State, s.frameOpen = true ↔ s.up ∧ s.tl.frameDue ∧ ¬ s.saved := by
    intro s
    simp [State.frameOpen, and_assoc]
  refine ⟨fun o s h => if_neg (fun k => h ((open_iff s).mp k)), fun o s hu hf hs => ?_⟩
  refine ⟨s.passFrame o, if_pos ((open_iff s).mpr ⟨hu, hf, hs⟩), ?_⟩
  obtain ⟨c1, c2, c3, c4⟩ := State.passFrame_counts s o
  obtain ⟨p, hp⟩ := State.passFrame_power s o
  refine ⟨c1, c2, c3, c4, ?_, ?_, ?_, ?_, fun h => ?_, fun x hx hd => ?_, fun h => ?_, fun img h f hr hm hc ha hi hh => ?_⟩
  · rw [hp]
  · rw [hp]
  · rw [hp]
  · rw [hp]
  · rw [State.passFrame_tl_none s o (State.stepDue_none s h)]
    exact ⟨rfl, rfl, rfl, rfl, rfl⟩
  · obtain ⟨l, q, e⟩ := State.passFrame_tl_some s o (State.stepDue_some s hx hd)
    rw [e]
    exact ⟨rfl, rfl, rfl, rfl, rfl, rfl, rfl, rfl⟩
  · refine State.passFrame_live_skipped s o (h.imp_left ?_)
    rintro ⟨x, hx, hd⟩
    rw [State.stepDue_some s hx hd]
    rfl
  · exact State.passFrame_live_armed s o (State.stepDue_none s h) f hr hm hc ha hi hh

end Sys2Proof.Machine
end

section
/-! PROOFS. The fixed lists of a part, one rule per operation on a component (O8). -/

namespace Sys2Proof
open Machine

/-! ### The fixed lists of a part -/

/-- The fixed lists of a peer port (R524, R527). -/
@[reducible] def PeerPort.Shape (q : PeerPort) : Prop :=
  q.lanes.length = 5 ∧ q.waiting.length = 4 ∧ q.owe.length = 4 ∧ q.credits.length = 4

/-- The fixed list of a sensor port (R125). -/
@[reducible] def SensorPort.Shape (q : SensorPort) : Prop := q.egress.length = 4

/-- The fixed list of a parser machine (R137). -/
@[reducible] def ParserMachine.Shape (p : ParserMachine) : Prop := p.regs.length = 32

/-- The fixed lists of ingest (R137, R152). -/
@[reducible] def Ingest.Shape (g : Ingest) : Prop :=
  g.queues.length = 8 ∧ g.wmNow.length = 8 ∧ ∀ p ∈ g.machines, p.Shape

@[simp] theorem lput_length {β : Type} (l : List β) (i : Nat) (v : β) : (lput l i v).length = l.length := lmod_length l i _

theorem PeerPort.header_shape {q : PeerPort} (h : q.Shape) : q.header.2.Shape := by
  unfold PeerPort.header
  split
  · obtain ⟨hl, hw, ho, hc⟩ := h
    exact ⟨hl, hw, (lmod_length _ _ _).trans ho, hc⟩
  · exact h

theorem PeerPort.withLanes_shape {q : PeerPort} {l : List PeerLane} (h : q.Shape) (e : l.length = q.lanes.length) :
    PeerPort.Shape { q with lanes := l } := by
  obtain ⟨hl, hr⟩ := h
  exact ⟨e.trans hl, hr⟩

theorem PeerPort.setRx_shape {q : PeerPort} {ms} (h : q.Shape) : (q.setRx ms).Shape := PeerPort.withLanes_shape h (by simp)

theorem PeerPort.setTx_shape {q : PeerPort} {ms} (h : q.Shape) : (q.setTx ms).Shape := PeerPort.withLanes_shape h (by simp)

theorem PeerPort.fresh_shape {q : PeerPort} {st} (h : q.Shape) : (q.fresh st).Shape := ⟨h.1, rfl, rfl, rfl⟩

theorem PeerPort.stepPair_shape {q : PeerPort} {f e} (h : q.Shape) : (q.stepPair f e).Shape := by
  unfold PeerPort.stepPair
  split
  · split <;> exact h
  · exact h

theorem PeerPort.acknowledge_shape {q : PeerPort} {n} (h : q.Shape) : (q.acknowledge n).1.Shape := by
  unfold PeerPort.acknowledge
  split <;> exact h

theorem ParserMachine.put_shape {p : ParserMachine} {r v} (h : p.Shape) : (p.put r v).Shape := (lput_length _ _ _).trans h

theorem lgetD_of_forall {β : Type} {P : β → Prop} {l : List β} {i : Nat} {d : β} (h : ∀ x ∈ l, P x) (hd : P d) : P (lgetD l i d) := by
  induction l generalizing i with
  | nil => exact hd
  | cons y l ih =>
    obtain ⟨hy, hl⟩ := List.forall_mem_cons.mp h
    cases i with
    | zero => exact hy
    | succ i => exact ih hl

end Sys2Proof

namespace Sys2Proof.Machine
open Sys2Proof

theorem State.shape_iff {s : State} : s.Shape ↔
    s.ing.Shape ∧ (∀ q ∈ s.ports, q.Shape) ∧ s.safety.decls.length = 8 ∧ ∀ q ∈ s.peers.ports, q.Shape :=
  ⟨fun ⟨h1, h2, h3, h4, h5, h6⟩ => ⟨⟨h1, h2, h3⟩, h4, h5, h6⟩, fun ⟨⟨h1, h2, h3⟩, h4, h5, h6⟩ => ⟨h1, h2, h3, h4, h5, h6⟩⟩

theorem forall_mem_lmod {β : Type} {P : β → Prop} {l : List β} {i : Nat} {f : β → β} (h : ∀ x ∈ l, P x) (hf : ∀ x, P x → P (f x)) :
    ∀ x ∈ lmod l i f, P x := by
  induction l generalizing i with
  | nil => exact h
  | cons y l ih =>
    obtain ⟨hy, hl⟩ := List.forall_mem_cons.mp h
    cases i with
    | zero => exact List.forall_mem_cons.mpr ⟨hf y hy, hl⟩
    | succ i => exact List.forall_mem_cons.mpr ⟨hy, ih hl⟩

section
variable {s t : State}

/-- The components that hold no fixed list of `State.Shape`. -/
def shapeless : List Component :=
  [.pending, .regs, .shadows, .held, .wo, .resetN, .pwrOk, .tl, .roots, .fdb, .store, .com, .engines, .descs, .movers, .data, .solver,
   .live, .old, .liveBeat, .slot, .place, .mem, .host, .boot, .power, .keeper, .fuses, .flash, .hostMem, .out, .free]

theorem State.Shape.congr (h : s.Shape) (ei : t.ing = s.ing) (ep : t.ports = s.ports) (es : t.safety = s.safety)
    (eq : t.peers = s.peers) : t.Shape := by
  unfold State.Shape
  rw [ei, ep, es, eq]
  exact h

/-- What changes other components only keeps the lists. -/
theorem State.Shape.free (k : Only shapeless s t) (h : s.Shape) : t.Shape :=
  h.congr (k .ing rfl) (k .ports rfl) (k .safety rfl) (k .peers rfl)

theorem State.Shape.only {l : List Component} (k : Only l s t) (h : s.Shape) (e : l.all shapeless.contains = true := by decide) : t.Shape :=
  .free (k.mono e) h

theorem State.Shape.frame (h : s.Shape) {pending regs shadows held wo resetN pwrOk tl roots fdb store com engines descs movers data solver
    live old liveBeat slot place mem host boot power keeper fuses flash hostMem out free} :
    State.Shape { s with pending := pending, regs := regs, shadows := shadows, held := held, wo := wo, resetN := resetN, pwrOk := pwrOk, tl := tl, roots := roots, fdb := fdb, store := store, com := com, engines := engines, descs := descs, movers := movers, data := data, solver := solver, live := live, old := old, liveBeat := liveBeat, slot := slot, place := place, mem := mem, host := host, boot := boot, power := power, keeper := keeper, fuses := fuses, flash := flash, hostMem := hostMem, out := out, free := free } := h

/-! ### A single port and machine -/

theorem State.peer_shape {p} (h : s.Shape) : (s.peer p).Shape :=
  lgetD_of_forall (State.shape_iff.mp h).2.2.2 ⟨rfl, rfl, rfl, rfl⟩

theorem State.machine_shape {m} (h : s.Shape) : (s.machine m).Shape :=
  lgetD_of_forall (State.shape_iff.mp h).1.2.2 rfl

/-! ### One rule per operation on a component -/

theorem State.onIng_shape {f : Ingest → Ingest} (h : s.Shape) (e : s.ing.Shape → (f s.ing).Shape) : (s.onIng f).Shape := by
  obtain ⟨hi, hp, hs, hq⟩ := State.shape_iff.mp h
  exact State.shape_iff.mpr ⟨e hi, hp, hs, hq⟩

theorem State.onMachine_shape {f : ParserMachine → ParserMachine} {m} (h : s.Shape) (e : ∀ p, p.Shape → (f p).Shape) :
    (s.onMachine m f).Shape :=
  State.onIng_shape (f := fun g => { g with machines := lmod g.machines m f }) h (fun ⟨hq, hw, hm⟩ => ⟨hq, hw, forall_mem_lmod hm e⟩)

theorem State.onPort_shape {f : SensorPort → SensorPort} {p} (h : s.Shape) (e : ∀ q, q.Shape → (f q).Shape) : (s.onPort p f).Shape := by
  obtain ⟨hi, hp, hs, hq⟩ := State.shape_iff.mp h
  exact State.shape_iff.mpr ⟨hi, forall_mem_lmod hp e, hs, hq⟩

theorem State.withSafety_shape {x : Safety} (h : s.Shape) (e : x.decls.length = s.safety.decls.length) : State.Shape { s with safety := x } := by
  obtain ⟨hi, hp, hs, hq⟩ := State.shape_iff.mp h
  exact State.shape_iff.mpr ⟨hi, hp, e.trans hs, hq⟩

theorem State.onSafety_shape {f : Safety → Safety} (h : s.Shape) (e : (f s.safety).decls.length = s.safety.decls.length) : (s.onSafety f).Shape :=
  State.withSafety_shape h e

theorem State.withPeers_shape {x : Peers} (h : s.Shape) (e : ∀ q ∈ x.ports, q.Shape) : State.Shape { s with peers := x } := by
  obtain ⟨hi, hp, hs, hq⟩ := State.shape_iff.mp h
  exact State.shape_iff.mpr ⟨hi, hp, hs, e⟩

theorem State.onPeers_shape {f : Peers → Peers} (h : s.Shape) (e : (∀ q ∈ s.peers.ports, q.Shape) → ∀ q ∈ (f s.peers).ports, q.Shape) :
    (s.onPeers f).Shape :=
  State.withPeers_shape h (e (State.shape_iff.mp h).2.2.2)

theorem State.onPeer_shape {f : PeerPort → PeerPort} {p} (h : s.Shape) (e : ∀ q, q.Shape → (f q).Shape) : (s.onPeer p f).Shape :=
  State.onPeers_shape (f := fun x => { x with ports := lmod x.ports p f }) h (fun k => forall_mem_lmod k e)

theorem State.onMirror_shape {f : Mirror → Mirror} (h : s.Shape) : (s.onMirror f).Shape := State.onPeers_shape h id

/-! ### Runs of operations -/

theorem State.Shape.foldl {β : Type} {f : State → β → State} {l : List β} (h : s.Shape) (hf : ∀ t x, t.Shape → (f t x).Shape) :
    (l.foldl f s).Shape := by
  induction l generalizing s with
  | nil => exact h
  | cons x l ih => exact ih (hf _ _ h)

theorem State.Shape.foldlP {β γ : Type} {f : State × γ → β → State × γ} {l : List β} {p : State × γ} (h : p.1.Shape)
    (hf : ∀ t x, t.1.Shape → (f t x).1.Shape) : (l.foldl f p).1.Shape := by
  induction l generalizing p with
  | nil => exact h
  | cons x l ih => exact ih (hf _ _ h)

theorem State.Shape.lfoldIdx {β : Type} {f : State → Nat → β → State} {l : List β} {i : Nat} (h : s.Shape)
    (hf : ∀ t i x, t.Shape → (f t i x).Shape) : (Sys2Proof.lfoldIdx f s i l).Shape := by
  induction l generalizing s i with
  | nil => exact h
  | cons x l ih => exact ih (hf _ _ _ h)

theorem State.Shape.ite {c : Prop} [Decidable c] {t u : State} (h : c → t.Shape) (k : ¬ c → u.Shape) : (if c then t else u).Shape := by
  split
  · exact h ‹_›
  · exact k ‹_›

/-- A command answers a next state with its fixed lists. -/
def ShapeOut (o : Out) : Prop := ∃ t, o = .next t ∧ t.Shape

theorem ShapeOut.next (h : t.Shape) : ShapeOut (.next t) := ⟨t, rfl, h⟩

end

end Sys2Proof.Machine
end

section
/-! PROOFS. What each operation and command does to the fixed lists (O8). -/

namespace Sys2Proof.Machine
open Sys2Proof

section
variable {s : State}

/-! ### Operations on other components -/

theorem State.destOn_shape {x1} (h : s.Shape) : (State.destOn s x1).Shape :=
  .free (State.destOn_only (.refl _ _) (by decide)) h

theorem State.onKeeper_shape {x1} (h : s.Shape) : (State.onKeeper s x1).Shape :=
  .free (State.onKeeper_only (.refl _ _) (by decide)) h

theorem State.discardSlot_shape (h : s.Shape) : (State.discardSlot s).Shape :=
  .free (State.discardSlot_only (.refl _ _) (by decide)) h

theorem State.slotLost_shape {x1} (h : s.Shape) : (State.slotLost s x1).Shape :=
  .free (State.slotLost_only (.refl _ _) (by decide)) h

theorem State.onBook_shape {x1 x2} (h : s.Shape) : (State.onBook s x1 x2).Shape :=
  .free (State.onBook_only (.refl _ _) (by decide)) h

theorem State.onEngine_shape {x1 x2} (h : s.Shape) : (State.onEngine s x1 x2).Shape :=
  .free (State.onEngine_only (.refl _ _) (by decide)) h

theorem State.countSwitch_shape (h : s.Shape) : (State.countSwitch s).Shape :=
  .free (State.countSwitch_only (.refl _ _) (by decide)) h

theorem State.noteChanged_shape {x1} (h : s.Shape) : (State.noteChanged s x1).Shape :=
  .free (State.noteChanged_only (.refl _ _) (by decide)) h

theorem State.close_shape {x1} (h : s.Shape) : (State.close s x1).Shape :=
  .free (State.close_only (.refl _ _) (by decide)) h

theorem State.onPlace_shape {x1} (h : s.Shape) : (State.onPlace s x1).Shape :=
  .free (State.onPlace_only (.refl _ _) (by decide)) h

theorem State.joinUnit_shape {x1 x2} (h : s.Shape) : (State.joinUnit s x1 x2).Shape :=
  .free (State.joinUnit_only (.refl _ _) (by decide)) h

theorem State.applyCopy_shape {x1} (h : s.Shape) : (State.applyCopy s x1).Shape :=
  .free (State.applyCopy_only (.refl _ _) (by decide)) h

theorem State.clearShadow_shape {x1} (h : s.Shape) : (State.clearShadow s x1).Shape :=
  .free (State.clearShadow_only (.refl _ _) (by decide)) h

theorem State.switchTable_shape {x1} (h : s.Shape) : (State.switchTable s x1).Shape :=
  .free (State.switchTable_only (.refl _ _) (by decide)) h

theorem State.abandonSlow_shape (h : s.Shape) : (State.abandonSlow s).Shape :=
  .free (State.abandonSlow_only (.refl _ _) (by decide)) h

theorem State.emptySlot_shape (h : s.Shape) : (State.emptySlot s).Shape :=
  .free (State.emptySlot_only (.refl _ _) (by decide)) h

theorem State.onStore_shape {x1} (h : s.Shape) : (State.onStore s x1).Shape :=
  .free (State.onStore_only (.refl _ _) (by decide)) h

theorem State.showLive_shape {x1} (h : s.Shape) : (State.showLive s x1).Shape :=
  .free (State.showLive_only (.refl _ _) (by decide)) h

theorem State.dropCandidates_shape {x1} (h : s.Shape) : (State.dropCandidates s x1).Shape :=
  .free (State.dropCandidates_only (.refl _ _) (by decide)) h

theorem State.queueAll_shape {x1} (h : s.Shape) : (State.queueAll s x1).Shape :=
  .free (State.queueAll_only (.refl _ _) (by decide)) h

theorem State.onCom_shape {x1} (h : s.Shape) : (State.onCom s x1).Shape :=
  .free (State.onCom_only (.refl _ _) (by decide)) h

theorem State.dropReruns_shape (h : s.Shape) : (State.dropReruns s).Shape :=
  .free (State.dropReruns_only (.refl _ _) (by decide)) h

theorem State.cancelAllMigrations_shape (h : s.Shape) : (State.cancelAllMigrations s).Shape :=
  .free (State.cancelAllMigrations_only (.refl _ _) (by decide)) h

theorem State.restoreMarrow_shape (h : s.Shape) : (State.restoreMarrow s).Shape :=
  .free (State.restoreMarrow_only (.refl _ _) (by decide)) h

theorem State.applyMove_shape {x1} (h : s.Shape) : (State.applyMove s x1).Shape :=
  .free (State.applyMove_only (.refl _ _) (by decide)) h

theorem State.discardDelta_shape {x1} (h : s.Shape) : (State.discardDelta s x1).Shape :=
  .free (State.discardDelta_only (.refl _ _) (by decide)) h

theorem State.refuseAt_shape {x1 x2} (h : s.Shape) : (State.refuseAt s x1 x2).Shape :=
  .free (State.refuseAt_only (.refl _ _) (by decide)) h

theorem State.refuseFull_shape {x1} (h : s.Shape) : (State.refuseFull s x1).Shape :=
  .free (State.refuseFull_only (.refl _ _) (by decide)) h

theorem State.podRefused_shape (h : s.Shape) : (State.podRefused s).Shape :=
  .free (State.podRefused_only (.refl _ _) (by decide)) h

theorem State.logDelta_shape {x1 x2 x3 x4} (h : s.Shape) : (State.logDelta s x1 x2 x3 x4).Shape :=
  .free (State.logDelta_only (.refl _ _) (by decide)) h

theorem State.modCell_shape {x1 x2 x3} (h : s.Shape) : (State.modCell s x1 x2 x3).Shape :=
  .free (State.modCell_only (.refl _ _) (by decide)) h

theorem State.onSlot_shape {x1} (h : s.Shape) : (State.onSlot s x1).Shape :=
  .free (State.onSlot_only (.refl _ _) (by decide)) h

theorem State.onMarrow_shape {x1} (h : s.Shape) : (State.onMarrow s x1).Shape :=
  .free (State.onMarrow_only (.refl _ _) (by decide)) h

theorem State.onPower_shape {x1} (h : s.Shape) : (State.onPower s x1).Shape :=
  .free (State.onPower_only (.refl _ _) (by decide)) h

theorem State.onBoot_shape {x1} (h : s.Shape) : (State.onBoot s x1).Shape :=
  .free (State.onBoot_only (.refl _ _) (by decide)) h

theorem State.onTl_shape {x1} (h : s.Shape) : (State.onTl s x1).Shape :=
  .free (State.onTl_only (.refl _ _) (by decide)) h

theorem State.stepTo_shape {x1} (h : s.Shape) : (State.stepTo s x1).Shape :=
  .free (State.stepTo_only (.refl _ _) (by decide)) h

theorem State.onMem_shape {x1} (h : s.Shape) : (State.onMem s x1).Shape :=
  .free (State.onMem_only (.refl _ _) (by decide)) h

theorem State.onChannel_shape {x1 x2} (h : s.Shape) : (State.onChannel s x1 x2).Shape :=
  .free (State.onChannel_only (.refl _ _) (by decide)) h

theorem State.runFirmware_shape {x1 x2} (h : s.Shape) : (State.runFirmware s x1 x2).Shape :=
  .free (State.runFirmware_only (.refl _ _) (by decide)) h

theorem State.bootFail_shape {x1} (h : s.Shape) : (State.bootFail s x1).Shape :=
  .free (State.bootFail_only (.refl _ _) (by decide)) h

theorem State.applyRepair_shape {x1} (h : s.Shape) : (State.applyRepair s x1).Shape :=
  .free (State.applyRepair_only (.refl _ _) (by decide)) h

theorem State.applyRemap_shape {x1} (h : s.Shape) : (State.applyRemap s x1).Shape :=
  .free (State.applyRemap_only (.refl _ _) (by decide)) h

theorem State.onRoot_shape {x1 x2} (h : s.Shape) : (State.onRoot s x1 x2).Shape :=
  .free (State.onRoot_only (.refl _ _) (by decide)) h

theorem State.readMarrow_shape {x1 x2} (h : s.Shape) : (State.readMarrow s x1 x2).Shape :=
  .free (State.readMarrow_only (.refl _ _) (by decide)) h

theorem State.rset_shape {o w} (h : s.Shape) : (s.rset o w).Shape :=
  .free (State.rset_only (.refl _ _) (by decide)) h

theorem State.cancelMigrations_shape {x1} (h : s.Shape) : (State.cancelMigrations s x1).Shape :=
  .free (State.cancelMigrations_only (.refl _ _) (by decide)) h

theorem State.notice_shape {x1 x2 x3} (h : s.Shape) : (State.notice s x1 x2 x3).Shape :=
  .free (State.notice_only (.refl _ _) (by decide)) h

theorem State.unhold_shape {x1} (h : s.Shape) : (State.unhold s x1).Shape :=
  .free (State.unhold_only (.refl _ _) (by decide)) h

theorem State.reviewMigrations_shape (h : s.Shape) : (State.reviewMigrations s).Shape :=
  .free (State.reviewMigrations_only (.refl _ _) (by decide)) h

theorem State.unspill_shape (h : s.Shape) : (State.unspill s).Shape :=
  .free (State.unspill_only (.refl _ _) (by decide)) h

theorem State.closeEngines_shape {x1} (h : s.Shape) : (State.closeEngines s x1).Shape :=
  .free (State.closeEngines_only (.refl _ _) (by decide)) h

theorem State.ptpReceive_shape {x1 x2 x3 x4} (h : s.Shape) : (State.ptpReceive s x1 x2 x3 x4).Shape :=
  .free (State.ptpReceive_only (.refl _ _) (by decide)) h

theorem State.mergeStop_shape (h : s.Shape) : (State.mergeStop s).Shape :=
  .free (State.mergeStop_only (.refl _ _) (by decide)) h

theorem State.eccCapture_shape {x1 x2 x3 x4 x5 x6} (h : s.Shape) : (State.eccCapture s x1 x2 x3 x4 x5 x6).Shape :=
  .free (State.eccCapture_only (.refl _ _) (by decide)) h

theorem State.requestRepair_shape {x1 x2} (h : s.Shape) : (State.requestRepair s x1 x2).Shape :=
  .free (State.requestRepair_only (.refl _ _) (by decide)) h

theorem State.dropOutside_shape {x1} (h : s.Shape) : (State.dropOutside s x1).Shape :=
  .free (State.dropOutside_only (.refl _ _) (by decide)) h

theorem State.useVersion_shape {x1} (h : s.Shape) : (State.useVersion s x1).Shape :=
  .free (State.useVersion_only (.refl _ _) (by decide)) h

theorem State.noteSweep_shape {x1 x2} (h : s.Shape) : (State.noteSweep s x1 x2).Shape :=
  .free (State.noteSweep_only (.refl _ _) (by decide)) h

theorem State.endRecheckShadow_shape {x1} (h : s.Shape) : (State.endRecheckShadow s x1).Shape :=
  .free (State.endRecheckShadow_only (.refl _ _) (by decide)) h

theorem State.writeMarrow_shape {x1} (h : s.Shape) : (State.writeMarrow s x1).Shape :=
  .free (State.writeMarrow_only (.refl _ _) (by decide)) h

theorem State.startSelfTest_shape (h : s.Shape) : (State.startSelfTest s).Shape :=
  .free (State.startSelfTest_only (.refl _ _) (by decide)) h

theorem State.bootFuses_shape {x1} (h : s.Shape) : (State.bootFuses s x1).Shape :=
  .free (State.bootFuses_only (.refl _ _) (by decide)) h

theorem State.admitHost_shape (h : s.Shape) : (State.admitHost s).Shape :=
  .free (State.admitHost_only (.refl _ _) (by decide)) h

theorem State.stepTime_shape {x1} (h : s.Shape) : (State.stepTime s x1).Shape :=
  .free (State.stepTime_only (.refl _ _) (by decide)) h

theorem State.stepSolver_shape {x1} (h : s.Shape) : (State.stepSolver s x1).Shape :=
  .free (State.stepSolver_only (.refl _ _) (by decide)) h

theorem State.stepVersions_shape {x1} (h : s.Shape) : (State.stepVersions s x1).Shape :=
  .free (State.stepVersions_only (.refl _ _) (by decide)) h

theorem State.updateCoverage_shape (h : s.Shape) : (State.updateCoverage s).Shape :=
  .free (State.updateCoverage_only (.refl _ _) (by decide)) h

theorem State.noteDue_shape {x1} (h : s.Shape) : (State.noteDue s x1).Shape :=
  .free (State.noteDue_only (.refl _ _) (by decide)) h

theorem State.noteOver_shape (h : s.Shape) : (State.noteOver s).Shape :=
  .free (State.noteOver_only (.refl _ _) (by decide)) h

theorem State.slotHold_shape (h : s.Shape) : (State.slotHold s).Shape :=
  .free (State.slotHold_only (.refl _ _) (by decide)) h

theorem State.startSlow_shape (h : s.Shape) : (State.startSlow s).Shape :=
  .free (State.startSlow_only (.refl _ _) (by decide)) h

theorem State.startFast_shape {x1} (h : s.Shape) : (State.startFast s x1).Shape :=
  .free (State.startFast_only (.refl _ _) (by decide)) h

theorem State.frameStep5_shape (h : s.Shape) : (State.frameStep5 s).Shape :=
  .free (State.frameStep5_only (.refl _ _) (by decide)) h

theorem State.onSram_shape {x1 x2} (h : s.Shape) : (State.onSram s x1 x2).Shape :=
  .free (State.onSram_only (.refl _ _) (by decide)) h

theorem State.destOff_shape {x1} (h : s.Shape) : (State.destOff s x1).Shape :=
  .free (State.destOff_only (.refl _ _) (by decide)) h

theorem State.xlateFault_shape {x1 x2 x3} (h : s.Shape) : (State.xlateFault s x1 x2 x3).Shape :=
  .free (State.xlateFault_only (.refl _ _) (by decide)) h

theorem State.onPtp_shape {x1} (h : s.Shape) : (State.onPtp s x1).Shape :=
  .free (State.onPtp_only (.refl _ _) (by decide)) h

theorem State.placeWrite_shape {x1 x2 x3} (h : s.Shape) : (State.placeWrite s x1 x2 x3).Shape :=
  .free (State.placeWrite_only (.refl _ _) (by decide)) h

theorem State.onDest_shape {x1 x2} (h : s.Shape) : (State.onDest s x1 x2).Shape :=
  .free (State.onDest_only (.refl _ _) (by decide)) h

theorem State.opFault_shape {x1} (h : s.Shape) : (State.opFault s x1).Shape :=
  .free (State.opFault_only (.refl _ _) (by decide)) h

theorem State.noteMoved_shape {x1 x2 x3} (h : s.Shape) : (State.noteMoved s x1 x2 x3).Shape :=
  .free (State.noteMoved_only (.refl _ _) (by decide)) h

theorem State.noteShadows_shape {x1} (h : s.Shape) : (State.noteShadows s x1).Shape :=
  .free (State.noteShadows_only (.refl _ _) (by decide)) h

theorem State.takeBatch_shape {x1} (h : s.Shape) : (State.takeBatch s x1).Shape :=
  .free (State.takeBatch_only (.refl _ _) (by decide)) h

theorem State.onMover_shape {x1 x2} (h : s.Shape) : (State.onMover s x1 x2).Shape :=
  .free (State.onMover_only (.refl _ _) (by decide)) h

theorem State.onSolver_shape {x1} (h : s.Shape) : (State.onSolver s x1).Shape :=
  .free (State.onSolver_only (.refl _ _) (by decide)) h

theorem State.queueSlot_shape (h : s.Shape) : (State.queueSlot s).Shape :=
  .free (State.queueSlot_only (.refl _ _) (by decide)) h

theorem State.restoreTracks_shape (h : s.Shape) : (State.restoreTracks s).Shape :=
  .free (State.restoreTracks_only (.refl _ _) (by decide)) h

theorem State.dumpBeat_shape (h : s.Shape) : (State.dumpBeat s).Shape :=
  .free (State.dumpBeat_only (.refl _ _) (by decide)) h

theorem State.ringBeat_shape (h : s.Shape) : (State.ringBeat s).Shape :=
  .free (State.ringBeat_only (.refl _ _) (by decide)) h

theorem State.trackBeat_shape (h : s.Shape) : (State.trackBeat s).Shape :=
  .free (State.trackBeat_only (.refl _ _) (by decide)) h

theorem State.freshBeat_shape (h : s.Shape) : (State.freshBeat s).Shape :=
  .free (State.freshBeat_only (.refl _ _) (by decide)) h

theorem State.formCommits_shape {x1 x2 x3} (h : s.Shape) : (State.formCommits s x1 x2 x3).Shape :=
  .free (State.formCommits_only (.refl _ _) (by decide)) h

theorem State.advanceBeat_shape (h : s.Shape) : (State.advanceBeat s).Shape :=
  .free (State.advanceBeat_only (.refl _ _) (by decide)) h

theorem State.senseFrame_shape {x1} (h : s.Shape) : (State.senseFrame s x1).Shape :=
  .free (State.senseFrame_only (.refl _ _) (by decide)) h

theorem State.copyFrame_shape (h : s.Shape) : (State.copyFrame s).Shape :=
  .free (State.copyFrame_only (.refl _ _) (by decide)) h

theorem State.ringPut_shape {x1 x2 x3 x4 x5} (h : s.Shape) : (State.ringPut s x1 x2 x3 x4 x5).Shape :=
  .free (State.ringPut_only (.refl _ _) (by decide)) h

theorem State.hqWatermark_shape {x1} (h : s.Shape) : (State.hqWatermark s x1).Shape :=
  .free (State.hqWatermark_only (.refl _ _) (by decide)) h

theorem State.pushWhole_shape {x1 x2} (h : s.Shape) : (State.pushWhole s x1 x2).Shape :=
  .free (State.pushWhole_only (.refl _ _) (by decide)) h

theorem State.startDropping_shape {x1} (h : s.Shape) : (State.startDropping s x1).Shape :=
  .free (State.startDropping_only (.refl _ _) (by decide)) h

theorem State.dropWord_shape {x1} (h : s.Shape) : (State.dropWord s x1).Shape :=
  .free (State.dropWord_only (.refl _ _) (by decide)) h

theorem State.learn_shape {x1 x2} (h : s.Shape) : (State.learn s x1 x2).Shape :=
  .free (State.learn_only (.refl _ _) (by decide)) h

theorem State.noteFlit_shape {x1 x2} (h : s.Shape) : (State.noteFlit s x1 x2).Shape :=
  .free (State.noteFlit_only (.refl _ _) (by decide)) h

theorem State.rejournal_shape {x1 x2 x3} (h : s.Shape) : (State.rejournal s x1 x2 x3).Shape :=
  .free (State.rejournal_only (.refl _ _) (by decide)) h

theorem State.movePea_shape {x1 x2 x3 x4 x5} (h : s.Shape) : (State.movePea s x1 x2 x3 x4 x5).Shape :=
  .free (State.movePea_only (.refl _ _) (by decide)) h

theorem State.abandonCandidate_shape (h : s.Shape) : (State.abandonCandidate s).Shape :=
  .free (State.abandonCandidate_only (.refl _ _) (by decide)) h

theorem State.dropPea_shape {x1 x2} (h : s.Shape) : (State.dropPea s x1 x2).Shape :=
  .free (State.dropPea_only (.refl _ _) (by decide)) h

theorem State.writeHit_shape {x1 x2 x3 x4 x5 x6 x7} (h : s.Shape) : (State.writeHit s x1 x2 x3 x4 x5 x6 x7).Shape :=
  .free (State.writeHit_only (.refl _ _) (by decide)) h

theorem State.ringEnable_shape {x1} (h : s.Shape) : (State.ringEnable s x1).Shape :=
  .free (State.ringEnable_only (.refl _ _) (by decide)) h

theorem State.enabledEvents_shape {x1 x2 x3 x4} (h : s.Shape) : (State.enabledEvents s x1 x2 x3 x4).Shape :=
  .free (State.enabledEvents_only (.refl _ _) (by decide)) h

theorem State.beginArming_shape (h : s.Shape) : (State.beginArming s).Shape :=
  .free (State.beginArming_only (.refl _ _) (by decide)) h

theorem State.refuseImage_shape {x1 x2 x3 x4} (h : s.Shape) : (State.refuseImage s x1 x2 x3 x4).Shape :=
  .free (State.refuseImage_only (.refl _ _) (by decide)) h

theorem State.preEpochDrop_shape (h : s.Shape) : (State.preEpochDrop s).Shape :=
  .free (State.preEpochDrop_only (.refl _ _) (by decide)) h

theorem State.takeSample_shape {x1} (h : s.Shape) : (State.takeSample s x1).Shape :=
  .free (State.takeSample_only (.refl _ _) (by decide)) h

theorem State.strapRegs_shape {x1} (h : s.Shape) : (State.strapRegs s x1).Shape :=
  .free (State.strapRegs_only (.refl _ _) (by decide)) h

theorem State.onHost_shape {x1} (h : s.Shape) : (State.onHost s x1).Shape :=
  .free (State.onHost_only (.refl _ _) (by decide)) h

theorem State.seedRecord_shape {x1 x2} (h : s.Shape) : (State.seedRecord s x1 x2).Shape :=
  .free (State.seedRecord_only (.refl _ _) (by decide)) h

theorem State.takeAnnounce_shape {x1} (h : s.Shape) : (State.takeAnnounce s x1).Shape :=
  .free (State.takeAnnounce_only (.refl _ _) (by decide)) h

theorem State.voteDepth_shape (h : s.Shape) : (State.voteDepth s).Shape :=
  .free (State.voteDepth_only (.refl _ _) (by decide)) h

theorem State.debugGrant_shape {x1} (h : s.Shape) : (State.debugGrant s x1).Shape :=
  .free (State.debugGrant_only (.refl _ _) (by decide)) h

theorem State.lockEvery_shape (h : s.Shape) : (State.lockEvery s).Shape :=
  .free (State.lockEvery_only (.refl _ _) (by decide)) h

theorem State.snapTime_shape (h : s.Shape) : (State.snapTime s).Shape :=
  .free (State.snapTime_only (.refl _ _) (by decide)) h

theorem State.timeSetAct_shape (h : s.Shape) : (State.timeSetAct s).Shape :=
  .free (State.timeSetAct_only (.refl _ _) (by decide)) h

theorem State.rekeyEvery_shape (h : s.Shape) : (State.rekeyEvery s).Shape :=
  .free (State.rekeyEvery_only (.refl _ _) (by decide)) h

theorem State.freeCapture_shape {x1} (h : s.Shape) : (State.freeCapture s x1).Shape :=
  .free (State.freeCapture_only (.refl _ _) (by decide)) h

theorem State.loadSlotCmd_shape (h : s.Shape) : (State.loadSlotCmd s).Shape :=
  .free (State.loadSlotCmd_only (.refl _ _) (by decide)) h

theorem State.cancelSlotCmd_shape (h : s.Shape) : (State.cancelSlotCmd s).Shape :=
  .free (State.cancelSlotCmd_only (.refl _ _) (by decide)) h

theorem State.scrubAgain_shape (h : s.Shape) : (State.scrubAgain s).Shape :=
  .free (State.scrubAgain_only (.refl _ _) (by decide)) h

theorem State.flushHq_shape {x1} (h : s.Shape) : (State.flushHq s x1).Shape :=
  .free (State.flushHq_only (.refl _ _) (by decide)) h

theorem State.challengeDebug_shape {x1} (h : s.Shape) : (State.challengeDebug s x1).Shape :=
  .free (State.challengeDebug_only (.refl _ _) (by decide)) h

theorem State.forgetMarrow_shape (h : s.Shape) : (State.forgetMarrow s).Shape :=
  .free (State.forgetMarrow_only (.refl _ _) (by decide)) h

theorem State.setLock_shape {x1} (h : s.Shape) : (State.setLock s x1).Shape :=
  .free (State.setLock_only (.refl _ _) (by decide)) h

theorem State.clearedEvents_shape {x1 x2 x3} (h : s.Shape) : (State.clearedEvents s x1 x2 x3).Shape :=
  .free (State.clearedEvents_only (.refl _ _) (by decide)) h

theorem State.writeMsix_shape {x1 x2 x3} (h : s.Shape) : (State.writeMsix s x1 x2 x3).Shape :=
  .free (State.writeMsix_only (.refl _ _) (by decide)) h

theorem State.descRefused_shape {x1 x2 x3} (h : s.Shape) : (State.descRefused s x1 x2 x3).Shape :=
  .free (State.descRefused_only (.refl _ _) (by decide)) h

theorem State.onTrackSolve_shape {x1 x2} (h : s.Shape) : (State.onTrackSolve s x1 x2).Shape :=
  .free (State.onTrackSolve_only (.refl _ _) (by decide)) h

theorem State.trackResult_shape {x1 x2 x3 x4 x5} (h : s.Shape) : (State.trackResult s x1 x2 x3 x4 x5).Shape :=
  .free (State.trackResult_only (.refl _ _) (by decide)) h

theorem State.mergeStart_shape (h : s.Shape) : (State.mergeStart s).Shape :=
  .free (State.mergeStart_only (.refl _ _) (by decide)) h

theorem State.slowResult_shape {x1 x2 x3 x4 x5} (h : s.Shape) : (State.slowResult s x1 x2 x3 x4 x5).Shape :=
  .free (State.slowResult_only (.refl _ _) (by decide)) h

theorem State.poisonCommons_shape {x1} (h : s.Shape) : (State.poisonCommons s x1).Shape :=
  .free (State.poisonCommons_only (.refl _ _) (by decide)) h

theorem State.writePage_shape {x1} (h : s.Shape) : (State.writePage s x1).Shape :=
  .free (State.writePage_only (.refl _ _) (by decide)) h

theorem State.raise_shape {x1 x2} (h : s.Shape) : (State.raise s x1 x2).Shape :=
  .only State.raise_fr h

theorem State.bump_shape {x1 x2} (h : s.Shape) : (State.bump s x1 x2).Shape :=
  .only State.bump_fr h

theorem State.bump64_shape {x1 x2 x3} (h : s.Shape) : (State.bump64 s x1 x2 x3).Shape :=
  .only State.bump64_fr h

theorem State.send_shape {x1} (h : s.Shape) : (State.send s x1).Shape :=
  .only State.send_fr h

theorem State.raiseAt_shape {x1 x2 x3 x4} (h : s.Shape) : (State.raiseAt s x1 x2 x3 x4).Shape :=
  .only State.raiseAt_fr h

theorem State.setPair_shape {x1 x2 x3} (h : s.Shape) : (State.setPair s x1 x2 x3).Shape :=
  .only State.setPair_fr h

theorem State.took_shape (h : s.Shape) : (State.took s).Shape :=
  .only State.took_fr h

theorem State.rmax_shape {x1 x2} (h : s.Shape) : (State.rmax s x1 x2).Shape :=
  .only State.rmax_fr h

theorem State.hqRaise_shape {x1 x2 x3} (h : s.Shape) : (State.hqRaise s x1 x2 x3).Shape :=
  .only State.hqRaise_fr h

theorem State.rput_shape {x1 x2 x3 x4} (h : s.Shape) : (State.rput s x1 x2 x3 x4).Shape :=
  .only State.rput_fr h

/-! ### Operations -/

theorem State.abandon_shape {x1} (h : s.Shape) : (State.abandon s x1).Shape := by
  unfold State.abandon
  dsimp only
  exact State.raise_shape (State.bump_shape (State.onMachine_shape h (fun _ _ => rfl)))

theorem State.noteNb_shape {x1 x2} (h : s.Shape) : (State.noteNb s x1 x2).Shape := by
  unfold State.noteNb
  dsimp only
  exact State.onPeer_shape h (fun _ hq => hq)

theorem State.sendLink_shape {x1 x2} (h : s.Shape) : (State.sendLink s x1 x2).Shape := by
  unfold State.sendLink
  exact State.bump64_shape (State.send_shape (State.onPeer_shape h (fun _ _ => PeerPort.header_shape (State.peer_shape h))))

theorem State.askRefresh_shape {x1} (h : s.Shape) : (State.askRefresh s x1).Shape := by
  unfold State.askRefresh
  exact State.sendLink_shape (State.onPeers_shape (State.onPeer_shape h (fun _ hq => hq)) id)

/-- The request for a seed (R564). -/
theorem State.askSeed_shape {p q} (h : s.Shape) :
    ((s.onPeers (fun x => { x with seedPort := some p, seedAt := s.now })).sendLink q .seedReq).Shape :=
  State.sendLink_shape (State.onPeers_shape h id)

theorem State.acceptNb_shape {x1 x2} (h : s.Shape) : (State.acceptNb s x1 x2).Shape := by
  unfold State.acceptNb
  extract_lets s1 s2 s3
  have k1 : State.Shape s1 := State.onPeer_shape (State.noteNb_shape h) (fun _ hq => hq)
  have k2 : State.Shape s2 := State.destOn_shape (State.raise_shape (State.sendLink_shape k1))
  have k3 : State.Shape s3 := .ite (fun _ => State.askRefresh_shape k2) (fun _ => k2)
  clear_value s3
  exact .ite (fun _ => State.askSeed_shape k3) (fun _ => k3)

theorem State.logRec_shape {x1 x2 x3 x4 x5} (h : s.Shape) : (State.logRec s x1 x2 x3 x4 x5).Shape := by
  unfold State.logRec
  dsimp only
  split
  · exact State.withSafety_shape (State.bump_shape h) rfl
  · exact State.withSafety_shape h rfl

theorem State.advanceFw_shape (h : s.Shape) : (State.advanceFw s).Shape := by
  unfold State.advanceFw
  split
  · exact h
  · exact State.raise_shape (State.logRec_shape (.frame h))

theorem State.keeperFail_shape (h : s.Shape) : (State.keeperFail s).Shape := by
  unfold State.keeperFail
  exact State.raise_shape (State.bump_shape (State.onSafety_shape h rfl))

theorem State.advanceImage_shape {x1} (h : s.Shape) : (State.advanceImage s x1).Shape := by
  unfold State.advanceImage
  extract_lets v s1 below
  have k1 : State.Shape s1 := State.raise_shape (State.logRec_shape (State.onKeeper_shape h))
  split
  · exact h
  · split
    · exact State.keeperFail_shape h
    · split
      · exact State.discardSlot_shape k1
      · exact k1

theorem State.alertBeat_shape (h : s.Shape) : (State.alertBeat s).Shape := by
  unfold State.alertBeat
  exact State.onSafety_shape h rfl

theorem State.announceImage_shape (h : s.Shape) : (State.announceImage s).Shape := by
  unfold State.announceImage
  exact .foldl h (fun t x ht => .ite (fun _ => State.sendLink_shape ht) (fun _ => .ite (fun _ => State.onPeer_shape ht (fun _ hq => hq)) (fun _ => ht)))

theorem State.applyClear_shape {x1} (h : s.Shape) : (State.applyClear s x1).Shape := by
  unfold State.applyClear
  dsimp only
  split
  · exact h
  · exact State.logRec_shape (State.onKeeper_shape h)

theorem State.engIgnored_shape {x1 x2} (h : s.Shape) : (State.engIgnored s x1 x2).Shape := by
  unfold State.engIgnored
  exact State.logRec_shape h

theorem State.markRetired_shape {x1 x2} (h : s.Shape) : (State.markRetired s x1 x2).Shape := by
  unfold State.markRetired
  dsimp only
  split
  · exact h
  · split
    · exact State.withSafety_shape h rfl
    · exact .frame h

theorem State.retireEng_shape {x1} (h : s.Shape) : (State.retireEng s x1).Shape := by
  unfold State.retireEng
  dsimp only
  split
  · exact State.engIgnored_shape h
  · exact State.slotLost_shape (State.onBook_shape (State.markRetired_shape (State.onEngine_shape h)))

theorem State.retireFailed_shape {x1} (h : s.Shape) : (State.retireFailed s x1).Shape := by
  unfold State.retireFailed
  split
  · exact h
  · exact State.retireEng_shape h

theorem State.switchEng_shape {x1} (h : s.Shape) : (State.switchEng s x1).Shape := by
  unfold State.switchEng
  dsimp only
  split
  · exact State.onEngine_shape h
  · exact State.onEngine_shape h
  · exact State.engIgnored_shape h

theorem State.applyReplacement_shape {x1} (h : s.Shape) : (State.applyReplacement s x1).Shape := by
  unfold State.applyReplacement
  split
  · exact State.countSwitch_shape (State.noteChanged_shape (State.retireFailed_shape (State.switchEng_shape h)))
  · exact h

theorem State.stopHeartbeat_shape (h : s.Shape) : (State.stopHeartbeat s).Shape := by
  unfold State.stopHeartbeat
  dsimp only
  exact State.raise_shape (State.bump_shape (State.onSafety_shape h rfl))

theorem State.logState_shape {x1 x2} (h : s.Shape) : (State.logState s x1 x2).Shape := by
  unfold State.logState
  exact State.logRec_shape h

theorem State.enterHold_shape {x1} (h : s.Shape) : (State.enterHold s x1).Shape := by
  unfold State.enterHold
  extract_lets old s1 s2
  have k1 : State.Shape s1 := State.onSafety_shape (.ite (fun _ => h) (fun _ => State.stopHeartbeat_shape h)) rfl
  have k2 : State.Shape s2 := State.discardSlot_shape (State.close_shape k1)
  split
  · exact h
  · exact State.raise_shape (State.raise_shape (State.logState_shape k2))

theorem State.infeasible_shape (h : s.Shape) : (State.infeasible s).Shape := by
  unfold State.infeasible
  exact State.enterHold_shape (State.raise_shape h)

theorem State.releaseEng_shape {x1} (h : s.Shape) : (State.releaseEng s x1).Shape := by
  unfold State.releaseEng
  split
  · exact State.onEngine_shape h
  · exact State.engIgnored_shape h

theorem State.dropUnits_shape {x1} (h : s.Shape) : (State.dropUnits s x1).Shape := by
  unfold State.dropUnits
  dsimp only
  exact .foldl h (fun t x ht => .ite (fun _ => State.releaseEng_shape (State.onEngine_shape ht)) (fun _ => State.onEngine_shape ht))

theorem State.suspendUnits_shape {x1} (h : s.Shape) : (State.suspendUnits s x1).Shape := by
  unfold State.suspendUnits
  dsimp only
  split
  · exact h
  · exact State.raise_shape (State.bump_shape (State.dropUnits_shape (State.onPlace_shape h)))

theorem State.fitLevel_shape (h : s.Shape) : (State.fitLevel s).Shape := by
  unfold State.fitLevel
  extract_lets n lvl s1
  have k1 : State.Shape s1 := State.onPlace_shape h
  split
  · exact h
  · split
    · exact State.infeasible_shape k1
    · split
      · exact State.suspendUnits_shape k1
      · exact State.infeasible_shape k1

theorem State.redistribute_shape {x1} (h : s.Shape) : (State.redistribute s x1).Shape := by
  unfold State.redistribute
  dsimp only
  exact State.countSwitch_shape (State.noteChanged_shape (.foldl (State.fitLevel_shape (State.retireFailed_shape (State.onPlace_shape h))) (fun t x ht => (by
    split
    · exact State.joinUnit_shape ht
    · exact ht))))

theorem State.applyFaults_shape (h : s.Shape) : (State.applyFaults s).Shape := by
  unfold State.applyFaults
  dsimp only
  exact .foldl (.foldl (.foldl h (fun t x ht => State.onPlace_shape (State.applyReplacement_shape ht))) (fun t x ht => State.redistribute_shape ht)) (fun t x ht => State.applyCopy_shape ht)

theorem State.assignShadow_shape {x1 x2 x3 x4} (h : s.Shape) : (State.assignShadow s x1 x2 x3 x4).Shape := by
  unfold State.assignShadow
  split
  · exact State.onEngine_shape h
  · exact State.onEngine_shape h
  · exact State.engIgnored_shape h

theorem State.replace_shape {x1 x2 x3} (h : s.Shape) : (State.replace s x1 x2 x3).1.Shape := by
  unfold State.replace
  dsimp only
  exact .frame (by
    split
    · exact State.assignShadow_shape (.free (State.pickTarget_only (.refl _ _) (by decide)) h)
    · exact .free (State.pickTarget_only (.refl _ _) (by decide)) h)

theorem State.replace_shape' {t : State} {x1 x2 x3} {r} (h : s.Shape) (q : State.replace s x1 x2 x3 = (t, r)) : t.Shape := by
  have k := State.replace_shape h (x1 := x1) (x2 := x2) (x3 := x3)
  rw [q] at k
  exact k

theorem State.renewReplacements_shape (h : s.Shape) : (State.renewReplacements s).Shape := by
  unfold State.renewReplacements
  dsimp only
  exact .foldl (State.onPlace_shape h) (fun t x ht => (.ite (fun _ => (State.replace_shape (by
    split
    · split
      · exact State.clearShadow_shape ht
      · exact ht
    · exact ht))) (fun _ => (State.retireFailed_shape (by
    split
    · split
      · exact State.clearShadow_shape ht
      · exact ht
    · exact ht)))))

theorem State.switchImage_shape (h : s.Shape) : (State.switchImage s).Shape := by
  unfold State.switchImage
  extract_lets targets lost s1 s2
  have k1 : State.Shape s1 := .foldl h (fun t x ht => State.switchEng_shape ht)
  have k2 : State.Shape s2 := .foldl k1 (fun t x ht => .ite (fun _ => State.releaseEng_shape ht) (fun _ => ht))
  split
  · extract_lets s3 ext q s4 s5
    have k3 : State.Shape s3 := State.switchTable_shape (State.abandonSlow_shape k2)
    have k4 : State.Shape s4 := .frame k3
    have k5 : State.Shape s5 := State.emptySlot_shape (State.bump_shape (State.onStore_shape k4))
    exact State.raise_shape (State.bump_shape (State.bump_shape (State.showLive_shape k5)))
  · exact h

theorem State.queueFlits_shape {x1 x2 x3} (h : s.Shape) : (State.queueFlits s x1 x2 x3).Shape :=
  State.onPeer_shape h (fun _ ⟨hl, hw, ho, hc⟩ => ⟨hl, (lmod_length _ _ _).trans hw, ho, hc⟩)

theorem State.sendMirrorSet_shape {x1 x2 x3} (h : s.Shape) : (State.sendMirrorSet s x1 x2 x3).Shape := by
  unfold State.sendMirrorSet
  extract_lets es fs s1
  have k1 : State.Shape s1 := .foldl h (fun t x ht => .ite (fun _ => State.bump_shape (State.queueFlits_shape ht)) (fun _ => ht))
  clear_value s1
  exact .ite (fun _ => h) (fun _ => State.withPeers_shape k1 (State.shape_iff.mp k1).2.2.2)

theorem State.sealLayer_shape {x1 x2 x3} (h : s.Shape) : (State.sealLayer s x1 x2 x3).Shape := by
  unfold State.sealLayer
  dsimp only
  exact State.sendMirrorSet_shape (.ite (fun _ => State.dropCandidates_shape h) (fun _ => State.bump_shape (State.queueAll_shape (State.dropCandidates_shape h))))

theorem State.settleLowered_shape (h : s.Shape) : (State.settleLowered s).Shape := by
  unfold State.settleLowered
  dsimp only
  exact .foldl (State.onCom_shape h) (fun t x ht => State.sealLayer_shape ht)

theorem State.applyImage_shape (h : s.Shape) : (State.applyImage s).Shape := by
  unfold State.applyImage
  extract_lets first s1 s2
  have k1 : State.Shape s1 := State.announceImage_shape (State.renewReplacements_shape (State.dropReruns_shape (State.switchImage_shape (State.cancelAllMigrations_shape h))))
  have k2 : State.Shape s2 := .ite (fun _ => State.restoreMarrow_shape k1) (fun _ => k1)
  exact State.settleLowered_shape k2

theorem State.migrateEngine_shape {x1 x2} (h : s.Shape) : (State.migrateEngine s x1 x2).Shape := by
  unfold State.migrateEngine
  extract_lets new old s1
  have k1 : State.Shape s1 := State.slotLost_shape (State.releaseEng_shape h)
  split
  · split
    · exact State.clearShadow_shape k1
    · exact k1
  · exact State.onEngine_shape (State.switchEng_shape h)

theorem State.applyMigration_shape {x1} (h : s.Shape) : (State.applyMigration s x1).Shape := by
  unfold State.applyMigration
  dsimp only
  exact State.raise_shape (State.bump_shape (State.noteChanged_shape (State.onPlace_shape (.foldl h (fun t x ht => State.migrateEngine_shape ht)))))

theorem State.applyMigrations_shape (h : s.Shape) : (State.applyMigrations s).Shape := by
  unfold State.applyMigrations
  dsimp only
  exact .foldl (.foldl h (fun t x ht => State.applyMigration_shape ht)) (fun t x ht => State.applyMove_shape ht)

theorem State.noteLowering_shape {x1 x2 x3} (h : s.Shape) : (State.noteLowering s x1 x2 x3).Shape := by
  unfold State.noteLowering
  dsimp only
  split
  · exact h
  · exact State.onSafety_shape h rfl

theorem State.applyRecord_shape {x1 x2} (h : s.Shape) : (State.applyRecord s x1 x2).Shape := by
  unfold State.applyRecord
  dsimp only
  split
  · exact State.raise_shape (State.bump_shape h)
  · split
    · exact State.raise_shape (State.bump_shape h)
    · split
      · exact State.discardDelta_shape h
      · split
        · exact State.refuseAt_shape (State.refuseFull_shape h)
        · split
          · exact State.refuseAt_shape (State.podRefused_shape (State.bump_shape (.free (State.placeFor_only (.refl _ _) (by decide)) h)))
          · exact State.refuseAt_shape (State.bump_shape (.free (State.placeFor_only (.refl _ _) (by decide)) h))
          · split
            · exact State.noteLowering_shape (State.logDelta_shape (State.onStore_shape (.free (State.placeFor_only (.refl _ _) (by decide)) h)))
            · exact State.logDelta_shape (State.onStore_shape (.free (State.placeFor_only (.refl _ _) (by decide)) h))
          · split
            · exact State.noteLowering_shape (State.logDelta_shape (State.modCell_shape (.free (State.placeFor_only (.refl _ _) (by decide)) h)))
            · exact State.logDelta_shape (State.modCell_shape (.free (State.placeFor_only (.refl _ _) (by decide)) h))

theorem State.armFrame_shape (h : s.Shape) : (State.armFrame s).Shape := by
  unfold State.armFrame
  split
  · exact h
  · exact .foldl h (fun t x ht => .ite (fun _ => ht) (fun _ => State.onSlot_shape (.ite (fun _ => ht) (fun _ => State.assignShadow_shape ht))))

theorem State.assignRechecks_shape (h : s.Shape) : (State.assignRechecks s).Shape := by
  unfold State.assignRechecks
  refine .foldl h (fun t x ht => ?_)
  dsimp only
  split
  · split
    · exact ht
    · split
      · exact State.onSafety_shape (State.assignShadow_shape ht) (lput_length _ _ _)
      · exact ht
  · exact ht

theorem State.egress_shape {x1 x2} (h : s.Shape) : (State.egress s x1 x2).Shape := by
  unfold State.egress
  dsimp only
  split
  · exact State.bump_shape h
  · exact State.onPort_shape h (fun _ hq => (lmod_length _ _ _).trans hq)

theorem State.bridge_shape {x1 x2 x3} (h : s.Shape) : (State.bridge s x1 x2 x3).1.Shape := by
  unfold State.bridge
  exact .foldlP (p := (_, _)) h (fun t x ht => (by
    split
    · exact State.egress_shape ht
    · split
      · exact State.bump_shape (State.egress_shape ht)
      · exact ht))

theorem State.badFrame_shape {x1 x2 x3 x4} (h : s.Shape) : (State.badFrame s x1 x2 x3 x4).Shape := by
  unfold State.badFrame
  extract_lets r s1
  have kr : r.1.Shape := by
    unfold r
    split
    · exact State.bridge_shape h
    · exact h
  have k1 : State.Shape s1 := .ite (fun _ => kr) (fun _ => State.bump_shape kr)
  exact .ite (fun _ => State.bump_shape k1) (fun _ => k1)

theorem State.migrationShadow_shape {x1 x2} (h : s.Shape) : (State.migrationShadow s x1 x2).Shape := by
  unfold State.migrationShadow
  dsimp only
  split
  · exact h
  · exact State.onEngine_shape (State.assignShadow_shape h)

theorem State.beginMigration_shape {x1} (h : s.Shape) : (State.beginMigration s x1).Shape := by
  unfold State.beginMigration
  exact State.onPlace_shape (.foldl h (fun t x ht => State.migrationShadow_shape ht))

theorem State.beginSave_shape (h : s.Shape) : (State.beginSave s).Shape := by
  unfold State.beginSave
  extract_lets q s1 s2 s3 s4
  have k1 : State.Shape s1 := .frame h
  have k2 : State.Shape s2 := .ite (fun _ => State.stopHeartbeat_shape k1) (fun _ => k1)
  have k3 : State.Shape s3 := State.discardSlot_shape k2
  have k4 : State.Shape s4 := .ite (fun _ => State.onMarrow_shape k3) (fun _ => k3)
  exact State.onPower_shape (State.close_shape k4)

theorem State.startHeartbeat_shape (h : s.Shape) : (State.startHeartbeat s).Shape := by
  unfold State.startHeartbeat
  dsimp only
  split
  · exact State.onSafety_shape h rfl
  · exact State.onSafety_shape h rfl

theorem State.enterService_shape (h : s.Shape) : (State.enterService s).Shape := by
  unfold State.enterService
  split
  extract_lets s2 s3 s4 s5 s6
  have k3 : State.Shape s3 := State.onBoot_shape (State.onTl_shape (.free (State.newEpoch_only' (.refl _ _) (by decide) ‹_›) h))
  have k4 : State.Shape s4 := State.onSafety_shape (State.onPeers_shape k3 (fun hp => List.forall_mem_map.mpr hp)) rfl
  have k6 : State.Shape s6 := State.onMarrow_shape (State.onCom_shape k4)
  exact State.startHeartbeat_shape (State.raise_shape k6)

theorem State.beginStep11_shape (h : s.Shape) : (State.beginStep11 s).Shape := by
  unfold State.beginStep11
  split
  · exact State.stepTo_shape h
  · exact State.enterService_shape h

theorem State.declare_shape {x1 x2 x3 x4 x5} (h : s.Shape) : (State.declare s x1 x2 x3 x4 x5).Shape := by
  unfold State.declare
  dsimp only
  exact State.raise_shape (State.bump_shape (State.logRec_shape (State.markRetired_shape h)))

theorem State.bootDram_shape {x1} (h : s.Shape) : (State.bootDram s x1).Shape := by
  unfold State.bootDram
  dsimp only
  exact State.stepTo_shape (.frame (.foldl (State.onMem_shape (.foldl h (fun t x ht => State.onChannel_shape ht))) (fun t x ht => State.raise_shape (State.declare_shape ht))))

theorem State.bootFirmware_shape {x1 x2} (h : s.Shape) : (State.bootFirmware s x1 x2).Shape := by
  unfold State.bootFirmware
  extract_lets m first get
  split
  · exact State.stepTo_shape (State.runFirmware_shape h)
  · split
    · exact State.stepTo_shape (State.logRec_shape (State.raise_shape (State.runFirmware_shape h)))
    · exact State.bootFail_shape h

theorem State.bootKeeper_shape {x1 x2 x3} (h : s.Shape) : (State.bootKeeper s x1 x2 x3).Shape := by
  unfold State.bootKeeper
  extract_lets s1 s2 s3 gone s4 s5 s6
  have k1 : State.Shape s1 := State.onKeeper_shape (.foldl h (fun t x ht => State.applyClear_shape ht))
  have k2 : State.Shape s2 := .foldl k1 (fun t x ht => State.applyRepair_shape ht)
  have k3 : State.Shape s3 := .foldl k2 (fun t x ht => State.applyRemap_shape ht)
  have k4 : State.Shape s4 := State.onMem_shape k3
  have k5 : State.Shape s5 := .foldl k4 (fun t x ht => State.onPort_shape ht (fun _ hq => hq))
  have k6 : State.Shape s6 := .foldl k5 (fun t x ht => .ite (fun _ => State.onRoot_shape (.ite (fun _ => State.onRoot_shape ht) (fun _ => ht))) (fun _ => ht))
  split
  · exact State.stepTo_shape (State.bootFail_shape h)
  · exact State.stepTo_shape (State.readMarrow_shape k6)

theorem State.bootRoots_shape {x1} (h : s.Shape) : (State.bootRoots s x1).Shape := by
  unfold State.bootRoots
  dsimp only
  split
  · exact State.stepTo_shape (.ite (fun _ => h) (fun _ => State.onRoot_shape h))
  · split
    · exact State.stepTo_shape (State.onRoot_shape (State.onRoot_shape h))
    · exact State.enterHold_shape (State.bootFail_shape (State.onRoot_shape (State.onRoot_shape h)))

theorem State.budgetBeat_shape (h : s.Shape) : (State.budgetBeat s).Shape := by
  unfold State.budgetBeat
  dsimp only
  exact State.onIng_shape (State.rset_shape h) id

theorem State.checkRoots_shape (h : s.Shape) : (State.checkRoots s).Shape := by
  unfold State.checkRoots
  split
  · exact h
  · exact State.enterHold_shape h

theorem State.retarget_shape {x1} (h : s.Shape) : (State.retarget s x1).Shape := by
  unfold State.retarget
  dsimp only
  exact .foldl (.frame h) (fun t x ht => (.frame (by
    split
    · exact State.assignShadow_shape (.free (State.pickTarget_only (.refl _ _) (by decide)) ht)
    · exact .free (State.pickTarget_only (.refl _ _) (by decide)) ht)))

theorem State.engPermanent_shape {x1 x2 x3} (h : s.Shape) : (State.engPermanent s x1 x2 x3).Shape := by
  unfold State.engPermanent
  extract_lets g s0 s1
  have k0 : State.Shape s0 := State.cancelMigrations_shape (State.onEngine_shape h)
  have k1 : State.Shape s1 := .ite (fun _ => State.retireEng_shape k0) (fun _ => k0)
  split
  · exact h
  · split
    · split
      · exact State.retarget_shape (State.declare_shape (State.replace_shape' k1 ‹_›))
    · exact State.retarget_shape (State.declare_shape (State.retireEng_shape k0))

theorem State.rerun_shape {x1 x2} (h : s.Shape) : (State.rerun s x1 x2).Shape := by
  unfold State.rerun
  split
  · exact h
  · split
    · exact State.assignShadow_shape h
    · split
      · exact State.assignShadow_shape h
      · exact h

theorem State.engEvent_shape {x1 x2} (h : s.Shape) : (State.engEvent s x1 x2).Shape := by
  unfold State.engEvent
  extract_lets g ev s1 s2 s3 s4
  have k1 : State.Shape s1 := State.onEngine_shape h
  have k2 : State.Shape s2 := State.logRec_shape (State.raiseAt_shape k1)
  have k3 : State.Shape s3 := State.cancelMigrations_shape k2
  have k4 : State.Shape s4 := .ite (fun _ => State.engPermanent_shape k3) (fun _ => k3)
  split
  · exact h
  · split
    · exact State.bump_shape (State.rerun_shape k4)
    · exact k4

theorem State.logChecker_shape {x1 x2 x3 x4} (h : s.Shape) : (State.logChecker s x1 x2 x3 x4).Shape := by
  unfold State.logChecker
  dsimp only
  exact State.logRec_shape h

theorem State.releaseDecl_shape {x1} (h : s.Shape) : (State.releaseDecl s x1).Shape := by
  unfold State.releaseDecl
  split
  · exact h
  · exact State.onSafety_shape (State.notice_shape h) (lput_length _ _ _)

theorem State.checkerRetire_shape {x1 x2 x3 x4} (h : s.Shape) : (State.checkerRetire s x1 x2 x3 x4).Shape := by
  unfold State.checkerRetire
  extract_lets s1 s2 waits
  have k1 : State.Shape s1 := .foldl h (fun t x ht => State.engPermanent_shape (State.engEvent_shape ht))
  have k2 : State.Shape s2 := State.logChecker_shape (State.raise_shape (State.bump_shape k1))
  split
  · exact State.releaseDecl_shape k2
  · exact State.onSafety_shape k2 (lput_length _ _ _)

theorem State.cleanDecls_shape {x1} (h : s.Shape) : (State.cleanDecls s x1).Shape := by
  unfold State.cleanDecls
  extract_lets clean s1
  have k1 : State.Shape s1 := .foldl h (fun t x ht => (by
    split
    · split
      · exact State.releaseDecl_shape ht
      · exact ht
    · exact ht))
  split
  · split
    · exact State.onSafety_shape (State.notice_shape k1) rfl
    · exact k1
  · exact k1

theorem State.findTarget_shape {x1} (h : s.Shape) : (State.findTarget s x1).1.Shape := by
  unfold State.findTarget
  split
  · exact State.assignShadow_shape (.free (State.pickTarget_only' (.refl _ _) (by decide) ‹_›) h)
  · split
    · exact State.assignShadow_shape (State.unhold_shape (.free (State.pickTarget_only' (.refl _ _) (by decide) ‹_›) h))
    · exact .free (State.pickTarget_only' (.refl _ _) (by decide) ‹_›) h

theorem State.reviewReplacements_shape (h : s.Shape) : (State.reviewReplacements s).Shape := by
  unfold State.reviewReplacements
  dsimp only
  exact .foldl (State.onPlace_shape h) (fun t x ht => (by
    split
    · exact State.onPlace_shape ht
    · split
      · exact State.onPlace_shape ht
      · exact State.onPlace_shape (State.findTarget_shape ht)))

theorem State.logSuppressed_shape (h : s.Shape) : (State.logSuppressed s).Shape := by
  unfold State.logSuppressed
  dsimp only
  split
  · exact State.onSafety_shape h rfl
  · exact State.logRec_shape (State.onSafety_shape (State.onSafety_shape h rfl) rfl)

theorem State.closeFrame_shape (h : s.Shape) : (State.closeFrame s).Shape := by
  unfold State.closeFrame
  dsimp only
  exact State.reviewReplacements_shape (State.reviewMigrations_shape (State.unspill_shape (State.closeEngines_shape (State.logSuppressed_shape (State.onTl_shape h)))))

theorem State.notCompared_shape (h : s.Shape) : (State.notCompared s).Shape := by
  unfold State.notCompared
  exact State.onSafety_shape h rfl

theorem State.closeHist_shape {x1 x2} (h : s.Shape) : (State.closeHist s x1 x2).Shape := by
  unfold State.closeHist
  dsimp only
  split
  · exact State.notCompared_shape (State.raise_shape (State.bump_shape (State.onStore_shape (State.onSafety_shape (State.bump_shape h) rfl))))
  · exact State.onSafety_shape (State.onStore_shape (State.onSafety_shape (State.bump_shape h) rfl)) rfl

theorem State.watermark_shape {x1} (h : s.Shape) : (State.watermark s x1).Shape := by
  unfold State.watermark
  extract_lets beyond was s1 n
  have k1 : State.Shape s1 := State.onIng_shape h (fun ⟨hq, hw, hm⟩ => ⟨hq, (lput_length _ _ _).trans hw, hm⟩)
  split
  · exact State.raise_shape (State.rset_shape k1)
  · exact k1

theorem State.enqueue_shape {x1 x2 x3 x4 x5 x6} (h : s.Shape) : (State.enqueue s x1 x2 x3 x4 x5 x6).Shape := by
  unfold State.enqueue
  dsimp only
  split
  · exact State.raise_shape (State.bump_shape h)
  · exact State.watermark_shape (State.onIng_shape h (fun ⟨hq, hw, hm⟩ => ⟨(lmod_length _ _ _).trans hq, hw, hm⟩))

theorem State.consume_shape {x1 x2 x3 x4} (h : s.Shape) : (State.consume s x1 x2 x3 x4).Shape := by
  unfold State.consume
  dsimp only
  split
  · split
    · exact State.ptpReceive_shape h
    · exact h
  · split
    · exact State.egress_shape h
    · split
      · exact State.egress_shape h
      · split
        · exact h
        · split
          · exact State.enqueue_shape h
          · exact h
          · split
            · exact State.bump_shape h
            · exact h

theorem State.freePod_shape {x1} (h : s.Shape) : (State.freePod s x1).Shape := by
  unfold State.freePod
  split
  · exact h
  · extract_lets s1 q
    have k1 : State.Shape s1 := State.onStore_shape h
    exact State.mergeStop_shape (State.withPeers_shape k1 (State.shape_iff.mp k1).2.2.2)

theorem State.poisonWhere_shape {x1} (h : s.Shape) : (State.poisonWhere s x1).Shape := by
  unfold State.poisonWhere
  dsimp only
  exact .foldl (State.onStore_shape (.foldl (.frame h) (fun t x ht => State.bump_shape (State.freePod_shape ht)))) (fun t x ht => State.onStore_shape ht)

theorem State.spareChannel_shape {x1 x2} (h : s.Shape) : (State.spareChannel s x1 x2).Shape := by
  unfold State.spareChannel
  extract_lets s1 left fits
  have k1 : State.Shape s1 := State.onMem_shape (State.onChannel_shape h)
  split
  · extract_lets s1_2
    have k1_2 : State.Shape s1_2 := State.onChannel_shape (State.onChannel_shape h)
    exact State.onMem_shape k1_2
  · split
    · exact k1
    · exact State.enterHold_shape (State.raise_shape k1)

theorem State.retireChannel_shape {x1 x2} (h : s.Shape) : (State.retireChannel s x1 x2).Shape := by
  unfold State.retireChannel
  dsimp only
  split
  · exact h
  · split
    · exact h
    · split
      · exact h
      · split
        · exact State.poisonWhere_shape (State.raise_shape (State.onChannel_shape (State.onMem_shape h)))
        · exact State.raise_shape (State.onChannel_shape (State.onMem_shape h))
  · exact State.raise_shape (State.declare_shape (State.onChannel_shape h))
  · exact .foldl (State.onMem_shape (State.raise_shape (State.declare_shape (State.onChannel_shape h)))) (fun t x ht => State.spareChannel_shape ht)
  · exact State.spareChannel_shape (.frame (State.raise_shape (State.declare_shape h)))

theorem State.countSymbols_shape {x1 x2} (h : s.Shape) : (State.countSymbols s x1 x2).Shape := by
  unfold State.countSymbols
  dsimp only
  split
  · exact h
  · split
    · exact State.retireChannel_shape (State.logRec_shape (State.onChannel_shape h))
    · exact State.logRec_shape (State.onChannel_shape h)

theorem State.corrected_shape {x1 x2 x3 x4} (h : s.Shape) : (State.corrected s x1 x2 x3 x4).Shape := by
  unfold State.corrected
  extract_lets s1 s2 s3
  have k1 : State.Shape s1 := State.raise_shape h
  have k2 : State.Shape s2 := State.eccCapture_shape (State.bump_shape k1)
  have k3 : State.Shape s3 := .ite (fun _ => k2) (fun _ => State.countSymbols_shape k2)
  split
  · exact State.countSymbols_shape (State.eccCapture_shape (State.bump_shape k1))
  · exact State.requestRepair_shape k3

theorem State.declareColumns_shape {x1 x2} (h : s.Shape) : (State.declareColumns s x1 x2).Shape := by
  unfold State.declareColumns
  extract_lets b s00 s0
  have k00 : State.Shape s00 := .ite (fun _ => State.raise_shape h) (fun _ => h)
  have k0 : State.Shape s0 := State.notice_shape (State.raise_shape (State.bump_shape k00))
  split
  · exact State.onSafety_shape (State.logChecker_shape (State.bump_shape k0)) rfl
  · exact State.onSafety_shape (State.logChecker_shape k0) (lput_length _ _ _)

theorem State.deny_shape {x1 x2 x3 x4} (h : s.Shape) : (State.deny s x1 x2 x3 x4).Shape := by
  unfold State.deny
  dsimp only
  exact State.raise_shape (.ite (fun _ => State.bump_shape h) (fun _ => State.logRec_shape (State.setPair_shape (State.rset_shape (State.bump_shape h)))))

theorem State.untapPea_shape {x1 x2} (h : s.Shape) : (State.untapPea s x1 x2).Shape := by
  unfold State.untapPea
  exact State.onSafety_shape h rfl

theorem State.deskewDrop_shape {x1 x2 x3} (h : s.Shape) : (State.deskewDrop s x1 x2 x3).Shape := by
  unfold State.deskewDrop
  exact State.untapPea_shape (State.raise_shape (State.bump_shape (State.bump_shape h)))

theorem State.queuePea_shape {x1 x2 x3 x4 x5} (h : s.Shape) : (State.queuePea s x1 x2 x3 x4 x5).Shape :=
  State.onPeer_shape h (fun _ ⟨hl, hw, ho, hc⟩ => ⟨hl, (lmod_length _ _ _).trans hw, ho, hc⟩)

theorem State.forwardPea_shape {x1 x2 x3 x4} (h : s.Shape) : (State.forwardPea s x1 x2 x3 x4).Shape := by
  unfold State.forwardPea
  dsimp only
  split
  · exact h
  · split
    · exact State.dropOutside_shape h
    · exact State.bump_shape (State.queuePea_shape h)

theorem State.deskewOne_shape {x1} (h : s.Shape) : (State.deskewOne s x1).Shape := by
  unfold State.deskewOne
  dsimp only
  split
  · exact State.deskewDrop_shape h
  · split
    · exact State.deskewDrop_shape (.ite (fun _ => State.took_shape h) (fun _ => .foldl (State.took_shape h) (fun t x ht => State.useVersion_shape (State.bump_shape ht))))
    · split
      · exact State.onStore_shape (State.noteSweep_shape (.ite (fun _ => State.took_shape h) (fun _ => .foldl (State.took_shape h) (fun t x ht => State.useVersion_shape (State.bump_shape ht)))))
      · exact State.forwardPea_shape (State.noteSweep_shape (.ite (fun _ => State.took_shape h) (fun _ => .foldl (State.took_shape h) (fun t x ht => State.useVersion_shape (State.bump_shape ht)))))

theorem State.discardFlit_shape {x1} (h : s.Shape) : (State.discardFlit s x1).Shape := by
  unfold State.discardFlit
  split
  · exact h
  · exact State.sendLink_shape (State.onPeer_shape h (fun _ hq => hq))

theorem State.engHard_shape {x1 x2} (h : s.Shape) : (State.engHard s x1 x2).Shape := by
  unfold State.engHard
  dsimp only
  split
  · split
    · exact h
    · exact State.retireEng_shape h
  · exact State.engPermanent_shape (State.raiseAt_shape (State.onEngine_shape h))

theorem State.domainFault_shape {x1} (h : s.Shape) : (State.domainFault s x1).Shape := by
  unfold State.domainFault
  split
  · exact State.enterHold_shape h
  · exact State.engHard_shape h
  · split
    · exact State.retireChannel_shape h
    · exact h

theorem State.hardFail_shape {x1} (h : s.Shape) : (State.hardFail s x1).Shape := by
  unfold State.hardFail
  exact State.enterHold_shape h

theorem State.endRecheck_shape {x1 x2 x3} (h : s.Shape) : (State.endRecheck s x1 x2 x3).Shape := by
  unfold State.endRecheck
  extract_lets s0 rep wrong
  have k0 : State.Shape s0 := State.endRecheckShadow_shape h
  split
  · exact State.checkerRetire_shape k0
  · split
    · exact State.checkerRetire_shape k0
    · split
      · exact State.hardFail_shape (State.logChecker_shape k0)
      · exact State.releaseDecl_shape (State.logChecker_shape (State.bump_shape k0))

theorem State.flushShadows_shape (h : s.Shape) : (State.flushShadows s).Shape := by
  unfold State.flushShadows
  dsimp only
  exact State.withSafety_shape (State.onKeeper_shape h) rfl

theorem State.endSave_shape {x1} (h : s.Shape) : (State.endSave s x1).Shape := by
  unfold State.endSave
  dsimp only
  exact State.onPower_shape (State.onCom_shape (.ite (fun _ => State.writeMarrow_shape (State.flushShadows_shape h)) (fun _ => State.flushShadows_shape h)))

theorem State.endSelfTest_shape {x1} (h : s.Shape) : (State.endSelfTest s x1).Shape := by
  unfold State.endSelfTest
  exact .foldl h (fun t x ht => .ite (fun _ => ht) (fun _ => .ite (fun _ => State.engHard_shape ht) (fun _ => State.onEngine_shape ht)))

theorem State.endStep_shape {x1} (h : s.Shape) : (State.endStep s x1).Shape := by
  unfold State.endStep
  dsimp only
  split
  · exact State.bootRoots_shape (.ite (fun _ => State.onBoot_shape h) (fun _ => h))
  · exact State.bootFirmware_shape (.ite (fun _ => State.onBoot_shape h) (fun _ => h))
  · split
    · split
      · exact State.startSelfTest_shape (State.bootFuses_shape (State.onBoot_shape h))
      · exact State.bootFuses_shape (State.onBoot_shape h)
    · split
      · exact State.startSelfTest_shape (State.bootFuses_shape h)
      · exact State.bootFuses_shape h
  · exact State.bootDram_shape (.ite (fun _ => State.onBoot_shape h) (fun _ => h))
  · exact State.startSelfTest_shape (State.bootKeeper_shape (.ite (fun _ => State.onBoot_shape h) (fun _ => h)))
  · exact State.stepTo_shape (State.endSelfTest_shape (.ite (fun _ => State.onBoot_shape h) (fun _ => h)))
  · exact State.admitHost_shape (.ite (fun _ => State.onBoot_shape h) (fun _ => h))
  · split
    · exact State.stepTo_shape (.ite (fun _ => State.onBoot_shape h) (fun _ => h))
    · exact h
  · split
    · exact State.stepTo_shape (.ite (fun _ => State.onBoot_shape h) (fun _ => h))
    · exact h
  · exact h

theorem State.error_shape {x1 x2} (h : s.Shape) : (State.error s x1 x2).Shape := by
  unfold State.error
  dsimp only
  exact State.withSafety_shape (State.raise_shape (State.logRec_shape (State.bump_shape h))) rfl

theorem State.evalSafety_shape (h : s.Shape) : (State.evalSafety s).Shape := by
  unfold State.evalSafety
  extract_lets old new s1 s2 s3
  have k1 : State.Shape s1 := State.onSafety_shape h rfl
  have k2 : State.Shape s2 := State.raise_shape (State.logState_shape k1)
  have k3 : State.Shape s3 := .ite (fun _ => State.raise_shape k2) (fun _ => k2)
  split
  · exact h
  · split
    · exact State.startHeartbeat_shape h
    · exact State.startHeartbeat_shape (.ite (fun _ => State.raise_shape k3) (fun _ => k3))

theorem State.evaluatePlace_shape {x1} (h : s.Shape) : (State.evaluatePlace s x1).Shape := by
  unfold State.evaluatePlace
  dsimp only
  exact State.onPlace_shape (by
    split
    · exact State.beginMigration_shape (State.onPlace_shape (State.setPair_shape (State.bump_shape h)))
    · exact State.onPlace_shape (State.setPair_shape (State.bump_shape h)))

theorem State.fillGroup_shape {es r} (h : s.Shape) : (State.fillGroup s es r).Shape := by
  induction es generalizing s r with
  | nil => exact h
  | cons e es ih =>
    unfold State.fillGroup
    dsimp only
    split
    · exact ih h
    · exact ih (State.onSlot_shape (State.assignShadow_shape h))

theorem State.finishCompare_shape {x1} (h : s.Shape) : (State.finishCompare s x1).Shape := by
  unfold State.finishCompare
  dsimp only
  split
  · exact State.cleanDecls_shape (State.onSafety_shape h rfl)
  · exact State.declareColumns_shape (State.cleanDecls_shape (State.onSafety_shape h rfl))

theorem State.flushQueue_shape {x1} (h : s.Shape) : (State.flushQueue s x1).Shape :=
  State.watermark_shape (State.onIng_shape h (fun ⟨hq, hw, hm⟩ => ⟨(lput_length _ _ _).trans hq, hw, hm⟩))

theorem State.forgetEpoch_shape {x1} (h : s.Shape) : (State.forgetEpoch s x1).Shape := by
  unfold State.forgetEpoch
  exact State.onSafety_shape h rfl

theorem State.sealEpoch_shape {x1} (h : s.Shape) : (State.sealEpoch s x1).Shape := by
  unfold State.sealEpoch
  extract_lets s1 s2
  have k1 : State.Shape s1 := State.onCom_shape h
  have k2 : State.Shape s2 := .foldl k1 (fun t x ht => State.sealLayer_shape ht)
  split
  · exact h
  · split
    · exact k2
    · exact State.queueAll_shape k2

theorem State.takeStep_shape {x1} (h : s.Shape) : (State.takeStep s x1).Shape := by
  unfold State.takeStep
  extract_lets s1 s2
  have k1 : State.Shape s1 := State.stepTime_shape (State.sealEpoch_shape h)
  have k2 : State.Shape s2 := State.stepSolver_shape (State.stepVersions_shape k1)
  exact State.onPeers_shape k2 (fun hp => List.forall_mem_map.mpr (fun q hq => PeerPort.stepPair_shape (hp q hq)))

theorem State.frameStep1_shape (h : s.Shape) : (State.frameStep1 s).1.Shape := by
  unfold State.frameStep1
  dsimp only
  exact State.onTl_shape (by
    split
    · exact State.takeStep_shape h
    · exact h)

theorem State.frameStep1_shape' {t : State} {r} (h : s.Shape) (q : State.frameStep1 s = (t, r)) : t.Shape := by
  have k := State.frameStep1_shape h
  rw [q] at k
  exact k

theorem State.settleLayers_shape {x1 x2} (h : s.Shape) : (State.settleLayers s x1 x2).Shape := by
  unfold State.settleLayers
  dsimp only
  exact .foldl (State.onCom_shape h) (fun t x ht => State.sealLayer_shape ht)

theorem State.frameStep2_shape {x1} (h : s.Shape) : (State.frameStep2 s x1).Shape := by
  unfold State.frameStep2
  split
  · exact State.settleLayers_shape h
  · exact h

theorem State.frameStep3_shape {x1 x2 x3} (h : s.Shape) : (State.frameStep3 s x1 x2 x3).Shape := by
  unfold State.frameStep3
  dsimp only
  split
  · exact State.forgetEpoch_shape (.ite (fun _ => State.closeHist_shape h) (fun _ => h))
  · split
    · exact State.closeHist_shape h
    · exact h

theorem State.releaseSwitched_shape (h : s.Shape) : (State.releaseSwitched s).Shape := by
  unfold State.releaseSwitched
  exact .foldl h (fun t x ht => (by
    split
    · split
      · exact State.releaseDecl_shape ht
      · exact ht
    · exact ht))

theorem State.frameStep4_shape (h : s.Shape) : (State.frameStep4 s).Shape := by
  unfold State.frameStep4
  dsimp only
  exact State.releaseSwitched_shape (State.fitLevel_shape (.ite (fun _ => State.applyFaults_shape h) (fun _ => .ite (fun _ => State.applyImage_shape h) (fun _ => State.applyMigrations_shape h))))

theorem State.trySwap_shape {x1} (h : s.Shape) : (State.trySwap s x1).Shape := by
  unfold State.trySwap
  dsimp only
  split
  · exact State.beginMigration_shape h
  · split
    · exact h
    · split
      · exact State.beginMigration_shape (State.unhold_shape h)
      · exact h

theorem State.radishStep6_shape (h : s.Shape) : (State.radishStep6 s).Shape := by
  unfold State.radishStep6
  dsimp only
  exact State.updateCoverage_shape (.foldl (.foldl (.foldl h (fun t x ht => State.noteDue_shape ht)) (fun t x ht => State.trySwap_shape ht)) (fun t x ht => State.unhold_shape ht))

theorem State.frameStep6_shape {x1} (h : s.Shape) : (State.frameStep6 s x1).Shape := by
  unfold State.frameStep6
  dsimp only
  split
  · exact h
  · exact State.assignRechecks_shape (State.radishStep6_shape (.ite (fun _ => State.evaluatePlace_shape (State.noteOver_shape h)) (fun _ => State.noteOver_shape h)))

theorem State.nextGroup_shape (h : s.Shape) : (State.nextGroup s).Shape := by
  unfold State.nextGroup
  dsimp only
  split
  · exact h
  · split
    · exact h
    · exact State.fillGroup_shape (.ite (fun _ => State.onSlot_shape (State.slotHold_shape h)) (fun _ => State.slotHold_shape h))

theorem State.radishEng_shape {x1 x2} (h : s.Shape) : (State.radishEng s x1 x2).Shape := by
  unfold State.radishEng
  dsimp only
  split
  · exact State.bump_shape (State.setPair_shape (State.onBook_shape (State.onEngine_shape h)))
  · exact State.engIgnored_shape h

theorem State.issueRadish_shape {x1} (h : s.Shape) : (State.issueRadish s x1).Shape := by
  unfold State.issueRadish
  dsimp only
  split
  · exact State.onBook_shape (State.radishEng_shape h)
  · exact h

theorem State.radishStep7_shape (h : s.Shape) : (State.radishStep7 s).Shape := by
  unfold State.radishStep7
  dsimp only
  split
  · exact .foldl h (fun t x ht => State.issueRadish_shape ht)
  · exact State.bump_shape (.foldl h (fun t x ht => State.issueRadish_shape ht))

theorem State.frameStep7_shape {x1} (h : s.Shape) : (State.frameStep7 s x1).Shape := by
  unfold State.frameStep7
  extract_lets s1
  have k1 : State.Shape s1 := .ite (fun _ => h) (fun _ => State.armFrame_shape (State.nextGroup_shape h))
  split
  · exact k1
  · exact State.startSlow_shape (State.startFast_shape (State.radishStep7_shape k1))

theorem State.frameSteps_shape {x1} (h : s.Shape) : (State.frameSteps s x1).Shape := by
  unfold State.frameSteps
  extract_lets ended
  split
  · extract_lets s2 s3 s5
    have k2 : State.Shape s2 := State.frameStep2_shape (State.frameStep1_shape' h ‹_›)
    have k3 : State.Shape s3 := State.frameStep3_shape k2
    have k5 : State.Shape s5 := .ite (fun _ => k3) (fun _ => State.frameStep5_shape (State.frameStep4_shape k3))
    exact State.frameStep7_shape (State.frameStep6_shape k5)

theorem State.groupFault_shape {x1 x2} (h : s.Shape) : (State.groupFault s x1 x2).Shape := by
  unfold State.groupFault
  dsimp only
  split
  · exact h
  · split
    · split
      · exact State.bump64_shape (State.took_shape (.frame (State.raise_shape (State.declare_shape (State.onSram_shape (State.onSram_shape h))))))
      · exact .frame (State.raise_shape (State.declare_shape (State.onSram_shape (State.onSram_shape h))))
    · split
      · exact State.engPermanent_shape (.frame (State.declare_shape (State.onSram_shape h)))
      · exact .frame (State.onSram_shape (.frame (State.declare_shape (State.onSram_shape h))))

theorem State.groupEvent_shape {x1 x2} (h : s.Shape) : (State.groupEvent s x1 x2).Shape := by
  unfold State.groupEvent
  dsimp only
  split
  · exact h
  · split
    · exact State.groupFault_shape (State.logRec_shape (State.onSram_shape h))
    · exact State.logRec_shape (State.onSram_shape h)

theorem State.leaveUp_shape {x1 x2} (h : s.Shape) : (State.leaveUp s x1 x2).Shape := by
  unfold State.leaveUp
  extract_lets q lost s0 s1 s2 own s3 held s4
  have k0 : State.Shape s0 := .ite (fun _ => State.raise_shape h) (fun _ => h)
  have k1 : State.Shape s1 := State.onTl_shape (State.destOff_shape (State.bump_shape k0))
  have k2 : State.Shape s2 := .ite (fun _ => k1) (fun _ => State.raise_shape (State.bump_shape k1))
  have k3 : State.Shape s3 := .foldl k2 (fun t x ht => (by
    split
    · split
      · exact State.raise_shape (State.bump_shape ht)
      · exact ht
    · exact ht))
  clear_value s3
  have k4 : State.Shape s4 := by
    refine State.onPeers_shape (State.onPeer_shape k3 (fun q hq => ?_)) (fun hp => ?_)
    · exact (show (q.fresh x2).Shape from PeerPort.fresh_shape hq)
    · split <;> exact hp
  split
  · exact State.onPeer_shape h (fun _ hq => hq)
  · split
    · exact State.onTl_shape k4
    · exact k4

theorem State.refuseNb_shape {x1 x2 x3} (h : s.Shape) : (State.refuseNb s x1 x2 x3).Shape := by
  unfold State.refuseNb
  dsimp only
  exact State.raise_shape (State.logRec_shape (State.onPeer_shape (State.leaveUp_shape (State.noteNb_shape h)) (fun _ hq => hq)))

theorem State.judgeHello_shape {x1 x2} (h : s.Shape) : (State.judgeHello s x1 x2).Shape := by
  unfold State.judgeHello
  split
  · exact State.acceptNb_shape h
  · exact State.refuseNb_shape h

theorem State.hello_shape {x1 x2} (h : s.Shape) : (State.hello s x1 x2).Shape := by
  unfold State.hello
  dsimp only
  split
  · exact State.judgeHello_shape h
  · split
    · exact State.judgeHello_shape (State.onPeer_shape h (fun _ hq => hq))
    · exact h

theorem State.inReset_shape (s : State) : s.inReset.Shape := State.reset_shape.congr rfl rfl rfl rfl

theorem State.judgeAccess_shape {x1 x2 x3 x4 x5} (h : s.Shape) : (State.judgeAccess s x1 x2 x3 x4 x5).1.Shape := by
  unfold State.judgeAccess
  dsimp only
  split
  · exact .ite (fun _ => State.xlateFault_shape h) (fun _ => h)
  · split
    · exact h
    · exact .ite (fun _ => State.xlateFault_shape (State.deny_shape h)) (fun _ => State.deny_shape h)

theorem State.judgeAccess_shape' {t : State} {x1 x2 x3 x4 x5} {r} (h : s.Shape) (q : State.judgeAccess s x1 x2 x3 x4 x5 = (t, r)) : t.Shape := by
  have k := State.judgeAccess_shape h (x1 := x1) (x2 := x2) (x3 := x3) (x4 := x4) (x5 := x5)
  rw [q] at k
  exact k

theorem State.readVia_shape {x1 x2 x3 x4} (h : s.Shape) : (State.readVia s x1 x2 x3 x4).1.Shape := by
  unfold State.readVia
  split
  · exact State.judgeAccess_shape' h ‹_›
  · exact State.judgeAccess_shape' h ‹_›

theorem State.readVia_shape' {t : State} {x1 x2 x3 x4} {r} (h : s.Shape) (q : State.readVia s x1 x2 x3 x4 = (t, r)) : t.Shape := by
  have k := State.readVia_shape h (x1 := x1) (x2 := x2) (x3 := x3) (x4 := x4)
  rw [q] at k
  exact k

theorem State.readUnit_shape {x1 x2 x3 x4} (h : s.Shape) : (State.readUnit s x1 x2 x3 x4).1.Shape := by
  unfold State.readUnit
  split
  · exact State.raise_shape (State.bump64_shape h)
  · split
    · split
      · exact State.raise_shape (State.bump_shape h)
      · split
        · exact State.readVia_shape' h ‹_›
        · split
          · exact State.readVia_shape' h ‹_›
          · split
            · split
              · split
                · exact State.readVia_shape' (State.readVia_shape' h ‹_›) ‹_›
                · exact State.readVia_shape' (State.readVia_shape' h ‹_›) ‹_›
              · exact State.readVia_shape' (State.readVia_shape' h ‹_›) ‹_›
            · exact State.readVia_shape' h ‹_›

theorem State.readUnit_shape' {t : State} {x1 x2 x3 x4} {r} (h : s.Shape) (q : State.readUnit s x1 x2 x3 x4 = (t, r)) : t.Shape := by
  have k := State.readUnit_shape h (x1 := x1) (x2 := x2) (x3 := x3) (x4 := x4)
  rw [q] at k
  exact k

theorem State.indexAt_shape {x1 x2 x3} (h : s.Shape) : (State.indexAt s x1 x2 x3).1.Shape := by
  unfold State.indexAt
  dsimp only
  exact State.readUnit_shape h

theorem State.indexAt_shape' {t : State} {x1 x2 x3} {r} (h : s.Shape) (q : State.indexAt s x1 x2 x3 = (t, r)) : t.Shape := by
  have k := State.indexAt_shape h (x1 := x1) (x2 := x2) (x3 := x3)
  rw [q] at k
  exact k

theorem State.linkDown_shape {x1 x2} (h : s.Shape) : (State.linkDown s x1 x2).Shape := by
  unfold State.linkDown
  split
  · exact State.raise_shape (State.leaveUp_shape h)
  · exact State.leaveUp_shape h

theorem State.retirePort_shape {x1} (h : s.Shape) : (State.retirePort s x1).Shape := by
  unfold State.retirePort
  split
  · exact h
  · exact State.raise_shape (State.onPeer_shape (State.linkDown_shape h) (fun _ hq => PeerPort.withLanes_shape hq (List.length_map _)))

theorem State.retireLane_shape {x1 x2} (h : s.Shape) : (State.retireLane s x1 x2).Shape := by
  unfold State.retireLane
  extract_lets q old ms spare repl s1 s2 s3
  have k1 : State.Shape s1 := State.raise_shape (State.declare_shape (State.onPeer_shape h (fun _ hq => PeerPort.setRx_shape hq)))
  have k2 : State.Shape s2 := State.sendLink_shape k1
  have k3 : State.Shape s3 := .ite (fun _ => k2) (fun _ => State.raise_shape k2)
  split
  · exact h
  · split
    · exact k1
    · split
      · exact k3
      · exact State.retirePort_shape k3

theorem State.laneEvent_shape {x1 x2} (h : s.Shape) : (State.laneEvent s x1 x2).Shape := by
  unfold State.laneEvent
  extract_lets keep s1 n s2
  have k1 : State.Shape s1 := State.onPeer_shape (State.bump_shape h) (fun _ hq => PeerPort.withLanes_shape hq (lmod_length _ _ _))
  have k2 : State.Shape s2 := State.logRec_shape k1
  split
  · exact State.retireLane_shape k2
  · exact k2

theorem State.late_shape {x1 x2 x3} (h : s.Shape) : (State.late s x1 x2 x3).Shape := by
  unfold State.late
  dsimp only
  exact State.raise_shape (State.logRec_shape (State.bump_shape (.ite (fun _ => h) (fun _ => State.rset_shape (State.rset_shape h)))))

theorem State.leave_shape {x1 x2 x3} (h : s.Shape) : (State.leave s x1 x2 x3).1.Shape := by
  unfold State.leave
  dsimp only
  split
  · exact h
  · split
    · split
      · exact State.bump_shape (.free (State.stampTime_only' (.refl _ _) (by decide) ‹_›) (.free (State.stampTime_only' (.refl _ _) (by decide) ‹_›) h))
      · exact .free (State.stampTime_only' (.refl _ _) (by decide) ‹_›) (.free (State.stampTime_only' (.refl _ _) (by decide) ‹_›) h)
    · exact .free (State.stampTime_only' (.refl _ _) (by decide) ‹_›) h
  · split
    · split
      · exact .free (State.stampTime_only' (.refl _ _) (by decide) ‹_›) (.free (State.stampTime_only' (.refl _ _) (by decide) ‹_›) h)
      · exact .free (State.stampTime_only' (.refl _ _) (by decide) ‹_›) (.free (State.stampTime_only' (.refl _ _) (by decide) ‹_›) h)
    · exact .free (State.stampTime_only' (.refl _ _) (by decide) ‹_›) h
  · exact State.onPtp_shape (.free (State.stampTime_only (.refl _ _) (by decide)) h)
  · exact State.onPort_shape (.free (State.stampTime_only (.refl _ _) (by decide)) h) (fun _ hq => hq)

theorem State.leave_shape' {t : State} {x1 x2 x3} {r} (h : s.Shape) (q : State.leave s x1 x2 x3 = (t, r)) : t.Shape := by
  have k := State.leave_shape h (x1 := x1) (x2 := x2) (x3 := x3)
  rw [q] at k
  exact k

theorem State.logAccess_shape {x1 x2} (h : s.Shape) : (State.logAccess s x1 x2).Shape := by
  unfold State.logAccess
  exact State.logRec_shape (State.bump_shape h)

theorem State.writeVia_shape {x1 x2 x3 x4} (h : s.Shape) : (State.writeVia s x1 x2 x3 x4).Shape := by
  unfold State.writeVia
  split
  · exact State.placeWrite_shape (State.judgeAccess_shape' h ‹_›)
  · exact State.judgeAccess_shape' h ‹_›

theorem State.moverWrite_shape {x1 x2 x3 x4 x5} (h : s.Shape) : (State.moverWrite s x1 x2 x3 x4 x5).Shape := by
  unfold State.moverWrite
  dsimp only
  split
  · exact .foldl (State.writeVia_shape h) (fun t x ht => State.onEngine_shape ht)
  · exact State.writeVia_shape h

theorem State.markTile_shape {x1 x2 x3 x4 x5} (h : s.Shape) : (State.markTile s x1 x2 x3 x4 x5).Shape := by
  unfold State.markTile
  dsimp only
  split
  · exact h
  · exact State.moverWrite_shape h

theorem State.mergeNode_shape {x1} (h : s.Shape) : (State.mergeNode s x1).Shape := by
  unfold State.mergeNode
  extract_lets cs recs d g conf pods keys s1
  split
  · exact h
  · split
    · exact State.refuseFull_shape h
    · extract_lets src cell s2 src2 s3
      have k2 : State.Shape s2 := State.onStore_shape (State.onStore_shape h)
      clear_value s2
      have k3 : State.Shape s3 := State.withPeers_shape k2 (State.shape_iff.mp k2).2.2.2
      clear_value s3
      exact State.mergeStop_shape (State.logDelta_shape (State.bump_shape k3))

theorem State.mirrorDrop_shape (h : s.Shape) : (State.mirrorDrop s).Shape := by
  unfold State.mirrorDrop
  exact State.onPeers_shape (State.bump_shape h) id

theorem State.mirrorEntry_shape {x1} (h : s.Shape) : (State.mirrorEntry s x1).Shape := by
  unfold State.mirrorEntry
  dsimp only
  split
  · split
    · exact State.onMirror_shape h
    · split
      · exact State.onMirror_shape h
      · exact State.mirrorDrop_shape h
  · split
    · exact State.onMirror_shape h
    · exact State.mirrorDrop_shape h
  · exact State.onMirror_shape h
  · exact State.onMirror_shape h

theorem State.mirrorFrom_shape {x1 x2} (h : s.Shape) : (State.mirrorFrom s x1 x2).Shape := by
  unfold State.mirrorFrom
  dsimp only
  split
  · exact h
  · exact .foldl (.ite (fun _ => h) (fun _ => State.onMirror_shape h)) (fun t x ht => State.mirrorEntry_shape ht)

theorem State.missAt_shape {x1} (h : s.Shape) : (State.missAt s x1).Shape := by
  unfold State.missAt
  extract_lets d due held beats d_2 ks foldedBefore rest heads nb d1 s1 s2
  have k1 : State.Shape s1 := State.bump_shape (State.onDest_shape h)
  have k2 : State.Shape s2 := .ite (fun _ => State.bump_shape k1) (fun _ => State.bump_shape k1)
  split
  · exact h
  · exact .foldl k2 (fun t x ht => State.error_shape (State.raise_shape ht))

theorem State.writeLocal_shape {x1 x2 x3 x4 x5 x6} (h : s.Shape) : (State.writeLocal s x1 x2 x3 x4 x5 x6).Shape := by
  unfold State.writeLocal
  extract_lets o g v t s1
  have kt : State.Shape t := State.moverWrite_shape h
  have k1 : State.Shape s1 := .ite (fun _ => .ite (fun _ => State.markTile_shape (State.raise_shape (State.bump_shape kt))) (fun _ => kt)) (fun _ => State.moverWrite_shape h)
  split
  · exact State.moverWrite_shape k1
  · exact k1

theorem State.sendWrite_shape {x1 x2} (h : s.Shape) : (State.sendWrite s x1 x2).1.Shape := by
  unfold State.sendWrite
  split
  · exact h
  · split
    · exact h
    · split
      · exact State.queueFlits_shape h
      · exact State.raise_shape (State.bump_shape h)

theorem State.writeUnit_shape {x1 x2 x3 x4 x5 x6 x7} (h : s.Shape) : (State.writeUnit s x1 x2 x3 x4 x5 x6 x7).Shape := by
  unfold State.writeUnit
  dsimp only
  split
  · exact State.raise_shape (State.bump64_shape h)
  · exact .foldl (.ite (fun _ => State.markTile_shape (State.writeLocal_shape h)) (fun _ => h)) (fun t x ht => (.ite (fun _ => (by
      split
      · exact State.sendWrite_shape (State.sendWrite_shape ht)
      · exact State.sendWrite_shape ht)) (fun _ => (State.opFault_shape (by
      split
      · exact State.sendWrite_shape (State.sendWrite_shape ht)
      · exact State.sendWrite_shape ht)))))

theorem State.moveUnit_shape {x1 x2 x3 x4 x5 x6 x7} (h : s.Shape) : (State.moveUnit s x1 x2 x3 x4 x5 x6 x7).Shape := by
  unfold State.moveUnit
  split
  · split
    · exact State.writeUnit_shape (.free (State.convert_only' (.refl _ _) (by decide) ‹_›) (State.readUnit_shape' h ‹_›))

theorem State.moverCopy_shape {x1} (h : s.Shape) : (State.moverCopy s x1).Shape := by
  unfold State.moverCopy
  dsimp only
  split
  · exact h
  · split
    · exact State.noteMoved_shape (State.noteShadows_shape (.foldl h (fun t x ht => State.moveUnit_shape ht)))
    · exact h

theorem State.moverDeliver_shape {x1} (h : s.Shape) : (State.moverDeliver s x1).Shape := by
  unfold State.moverDeliver
  dsimp only
  split
  · exact h
  · split
    · split
      · split
        · split
          · exact .free (State.passRecords_only (.refl _ _) (by decide)) (State.noteMoved_shape (.foldlP (p := (_, _)) h (fun t x ht => State.readUnit_shape ht)))
          · exact State.takeBatch_shape (.free (State.passRecords_only (.refl _ _) (by decide)) (State.noteMoved_shape (.foldlP (p := (_, _)) h (fun t x ht => State.readUnit_shape ht))))
        · split
          · exact .free (State.passRecords_only (.refl _ _) (by decide)) (State.noteMoved_shape (.foldlP (p := (_, _)) h (fun t x ht => State.readUnit_shape ht)))
          · exact State.takeBatch_shape (.free (State.passRecords_only (.refl _ _) (by decide)) (State.noteMoved_shape (.foldlP (p := (_, _)) h (fun t x ht => State.readUnit_shape ht))))
      · exact State.takeBatch_shape (State.noteMoved_shape (.foldlP (p := (_, _)) h (fun t x ht => State.readUnit_shape ht)))
    · exact h

theorem State.moverFill_shape {x1} (h : s.Shape) : (State.moverFill s x1).Shape := by
  unfold State.moverFill
  dsimp only
  split
  · exact h
  · split
    · exact State.noteMoved_shape (State.noteShadows_shape (.foldl h (fun t x ht => State.writeUnit_shape ht)))
    · exact h

theorem State.moverGather_shape {x1} (h : s.Shape) : (State.moverGather s x1).Shape := by
  unfold State.moverGather
  extract_lets a
  split
  · exact h
  · split
    · extract_lets p q w out rowCount n s1
      have k1 : State.Shape s1 := .foldl h (fun t x ht => (by
        extract_lets dst
        split
        · extract_lets good c t2 t3 t2_2
          have kt2 : State.Shape t2 := State.onMover_shape (State.indexAt_shape' ht ‹_›)
          have kt3 : State.Shape t3 := .ite (fun _ => State.bump64_shape kt2) (fun _ => kt2)
          have kt2_2 : State.Shape t2_2 := State.raise_shape (State.bump_shape (State.indexAt_shape' ht ‹_›))
          split
          · exact .foldl kt3 (fun t x ht => State.moveUnit_shape ht)
          · exact .foldl kt2_2 (fun t x ht => (by
              split
              · exact State.writeUnit_shape (.free (State.convert_only' (.refl _ _) (by decide) ‹_›) ht)))))
      exact State.noteMoved_shape (State.noteShadows_shape k1)
    · exact h

theorem State.moverScatter_shape {x1} (h : s.Shape) : (State.moverScatter s x1).Shape := by
  unfold State.moverScatter
  extract_lets a
  split
  · exact h
  · split
    · extract_lets p q w out rowCount n s1
      have k1 : State.Shape s1 := .foldl h (fun t x ht => (by
        split
        · split
          · exact .foldl (State.indexAt_shape' ht ‹_›) (fun t x ht => State.moveUnit_shape ht)
          · exact State.raise_shape (State.bump_shape (State.indexAt_shape' ht ‹_›))))
      exact State.noteMoved_shape (State.noteShadows_shape k1)
    · exact h

theorem State.noteEnd_shape {x1} (h : s.Shape) : (State.noteEnd s x1).Shape := by
  unfold State.noteEnd
  dsimp only
  split
  · exact h
  · split
    · exact State.rmax_shape h
    · exact State.onPeers_shape (State.rmax_shape h) id

theorem State.offerPea_shape {x1 x2} (h : s.Shape) (h2 : ∀ y0, y0.Shape → (x2 y0).Shape) : (State.offerPea s x1 x2).Shape := by
  unfold State.offerPea
  dsimp only
  split
  · exact State.raise_shape (State.bump_shape (State.bump_shape (State.onIng_shape h id)))
  · split
    · exact State.raise_shape (State.bump_shape (State.bump_shape (State.onIng_shape h id)))
    · exact h2 _ (State.onIng_shape (State.bump_shape (State.onIng_shape h id)) id)

theorem State.openFrame_shape (h : s.Shape) : (State.openFrame s).Shape := by
  unfold State.openFrame
  dsimp only
  exact State.onPeers_shape (State.onSafety_shape (State.onSolver_shape (.frame (State.queueSlot_shape h))) rfl) id

theorem State.parse_shape {x1 x2} (h : s.Shape) (ha : ∀ p i, p.Shape → ∀ q ∈ x2 p i, q.Shape) : (State.parse s x1 x2).Shape := by
  unfold State.parse
  dsimp only
  split
  · exact h
  · split
    · exact h
    · split
      · exact State.abandon_shape h
      · split
        · exact State.abandon_shape h
        next q heq =>
          have hq : q.Shape := ha _ _ (State.machine_shape h) q heq
          exact State.onMachine_shape h (fun _ _ => hq)

theorem State.sendHeld_shape {x1 x2} (h : s.Shape) : (State.sendHeld s x1 x2).Shape := by
  unfold State.sendHeld
  exact State.bump64_shape (State.send_shape (State.onPeer_shape h (fun _ _ => PeerPort.header_shape (State.peer_shape h))))

theorem State.sendNext_shape {x1} (h : s.Shape) : (State.sendNext s x1).Shape := by
  obtain ⟨hl, hw, ho, hc⟩ := State.peer_shape (p := x1) h
  unfold State.sendNext
  dsimp only
  split
  · exact h
  · split
    · exact h
    · split
      · exact h
      · refine .foldl (State.sendHeld_shape (State.onPeer_shape h ?_)) (fun t x ht => State.noteEnd_shape ht)
        exact fun _ _ => ⟨hl, (lput_length _ _ _).trans hw, ho, (lmod_length _ _ _).trans hc⟩

theorem State.pumpPort_shape {p n} (h : s.Shape) : (s.pumpPort p n).Shape := by
  induction n generalizing s with
  | zero => exact h
  | succ n ih =>
    unfold State.pumpPort
    dsimp only
    split
    · exact ih (State.sendNext_shape h)
    · exact h

theorem State.pumpPeers_shape {x1} (h : s.Shape) : (State.pumpPeers s x1).Shape := by
  unfold State.pumpPeers
  exact .foldl h (fun t x ht => State.pumpPort_shape ht)

theorem State.unitsBeat_shape (h : s.Shape) : (State.unitsBeat s).Shape := by
  unfold State.unitsBeat
  exact State.alertBeat_shape (State.restoreTracks_shape (State.pumpPeers_shape (State.dumpBeat_shape (State.ringBeat_shape (State.trackBeat_shape (State.budgetBeat_shape (State.freshBeat_shape h)))))))

theorem State.passBeat_shape (h : s.Shape) : (State.passBeat s).Shape := by
  unfold State.passBeat
  extract_lets s1 s2
  have k1 : State.Shape s1 := State.formCommits_shape (State.advanceBeat_shape h)
  have k2 : State.Shape s2 := .ite (fun _ => k1) (fun _ => State.queueSlot_shape k1)
  exact State.evalSafety_shape (State.unitsBeat_shape k2)

theorem State.passFrame_shape {x1} (h : s.Shape) : (State.passFrame s x1).Shape := by
  unfold State.passFrame
  exact State.evalSafety_shape (State.openFrame_shape (State.senseFrame_shape (State.copyFrame_shape (State.frameSteps_shape (State.closeFrame_shape h)))))

theorem State.pdelayReceive_shape {x1 x2 x3 x4 x5} (h : s.Shape) : (State.pdelayReceive s x1 x2 x3 x4 x5).Shape := by
  unfold State.pdelayReceive
  dsimp only
  split
  · exact h
  · split
    · exact State.egress_shape h
    · split
      · split
        · split
          · exact State.onPort_shape h (fun _ hq => hq)
          · exact State.rset_shape h
        · exact h
      · exact h
    · split
      · split
        · exact State.onPort_shape (State.rset_shape h) (fun _ hq => hq)
        · exact h
      · exact h
    · exact h

theorem State.tapPea_shape {x1} (h : s.Shape) : (State.tapPea s x1).Shape := by
  unfold State.tapPea
  refine State.onSafety_shape h ?_
  split <;> rfl

theorem State.peerPea_shape {x1 x2 x3 x4 x5} (h : s.Shape) : (State.peerPea s x1 x2 x3 x4 x5).Shape := by
  unfold State.peerPea
  dsimp only
  split
  · exact State.offerPea_shape h (fun t ht => State.tapPea_shape (State.onStore_shape (State.noteSweep_shape ht)))
  · split
    · exact State.raise_shape (State.bump_shape (State.dropOutside_shape h))
    · split
      · exact State.forwardPea_shape h
      · exact State.discardDelta_shape h

theorem State.peerRecord_shape {x1 x2} (h : s.Shape) : (State.peerRecord s x1 x2).Shape := by
  unfold State.peerRecord
  extract_lets o moved lost s1 s2 num b
  have k1 : State.Shape s1 := .ite (fun _ => h) (fun _ => State.bump_shape h)
  have k2 : State.Shape s2 := .ite (fun _ => State.onPeer_shape k1 (fun _ hq => hq)) (fun _ => k1)
  split
  · exact k2
  · extract_lets size
    split
    · exact k2
    · exact State.onPeer_shape (State.ringPut_shape k2) (fun _ hq => hq)

theorem State.poisonCw_shape {x1 x2} (h : s.Shape) : (State.poisonCw s x1 x2).Shape := by
  unfold State.poisonCw
  dsimp only
  split
  · exact State.poisonWhere_shape (State.raise_shape (State.bump_shape (State.onChannel_shape h)))
  · exact State.raise_shape (State.bump_shape (State.onChannel_shape h))

theorem State.postOut_shape {x1 x2} (h : s.Shape) : (State.postOut s x1 x2).Shape := by
  unfold State.postOut
  split
  · exact State.late_shape h
  · exact State.onBoot_shape (State.bump_shape h)

theorem State.programFuse_shape {x1} (h : s.Shape) : (State.programFuse s x1).Shape := by
  unfold State.programFuse
  dsimp only
  split
  · exact State.late_shape h
  · split
    · exact h
    · split
      · split
        · exact State.late_shape h
        · exact State.onBoot_shape h
      · split
        · exact State.onBoot_shape h
        · exact h
      · exact h

theorem State.pushOne_shape {x1 x2 x3 x4} (h : s.Shape) : (State.pushOne s x1 x2 x3 x4).Shape := by
  unfold State.pushOne
  split
  · exact State.hqWatermark_shape (State.pushWhole_shape h)
  · exact State.hqWatermark_shape (State.startDropping_shape (State.dropWord_shape (State.late_shape h)))

theorem State.pushAll_shape {x1 x2 x3} (h : s.Shape) : (State.pushAll s x1 x2 x3).Shape := by
  unfold State.pushAll
  exact .lfoldIdx h (fun t i x ht => .ite (fun _ => State.pushOne_shape ht) (fun _ => State.deny_shape ht))

theorem State.radishEnd_shape {x1 x2} (h : s.Shape) : (State.radishEnd s x1 x2).Shape := by
  unfold State.radishEnd
  extract_lets s1 s2
  have k1 : State.Shape s1 := State.onBook_shape (State.onEngine_shape h)
  have k2 : State.Shape s2 := State.raise_shape (State.bump_shape k1)
  split
  · exact State.updateCoverage_shape (State.onBook_shape k1)
  · exact State.onBook_shape (State.engEvent_shape k2)

theorem State.readValue_shape {x1 x2 x3} (h : s.Shape) : (State.readValue s x1 x2 x3).1.Shape := by
  unfold State.readValue
  dsimp only
  split
  · split
    · exact State.deny_shape h
    · exact h
  · split
    · exact State.deny_shape h
    · exact .free (State.readAt_only (.refl _ _) (by decide)) h

theorem State.readWord_shape {x1 x2 x3} (h : s.Shape) : (State.readWord s x1 x2 x3).Shape := by
  unfold State.readWord
  exact State.send_shape (State.readValue_shape h)

theorem State.readAccess_shape {x1 x2 x3} (h : s.Shape) : (State.readAccess s x1 x2 x3).Shape := by
  unfold State.readAccess
  dsimp only
  split
  · exact h
  · split
    · exact State.readWord_shape h
    · split
      · exact State.readWord_shape (State.readWord_shape h)
      · split
        · exact State.send_shape (State.deny_shape h)
        · exact State.send_shape (State.late_shape h)

theorem State.readCw_shape {x1 x2 x3 x4 x5} (h : s.Shape) : (State.readCw s x1 x2 x3 x4 x5).Shape := by
  unfold State.readCw
  extract_lets s1
  have k1 : State.Shape s1 := State.raise_shape h
  split
  · exact h
  · split
    · exact h
    · exact h
    · split
      · exact h
      · exact State.corrected_shape h
    · split
      · exact State.countSymbols_shape (State.eccCapture_shape (State.bump_shape k1))
      · exact State.corrected_shape (State.countSymbols_shape (State.eccCapture_shape (State.bump_shape k1)))
      · exact State.retireChannel_shape (State.poisonCw_shape (State.eccCapture_shape k1))
      · exact State.retireChannel_shape (State.poisonCw_shape (State.eccCapture_shape k1))

theorem State.receive_shape {x1 x2 x3 x4} (h : s.Shape) : (State.receive s x1 x2 x3 x4).Shape := by
  unfold State.receive
  extract_lets d
  split
  · exact h
  · split
    · extract_lets s1_2 kind fwd k s2
      have k1_2 : State.Shape s1_2 := .ite (fun _ => State.learn_shape (.free (State.stampTime_only' (.refl _ _) (by decide) ‹_›) h)) (fun _ => .free (State.stampTime_only' (.refl _ _) (by decide) ‹_›) h)
      have k2 : State.Shape s2 := by
        unfold s2
        split
        · split
          · exact State.pdelayReceive_shape k1_2
          · exact State.consume_shape k1_2
        · exact State.consume_shape k1_2
      split
      · exact k1_2
      · split
        · exact State.badFrame_shape k1_2
        · split
          · exact State.bridge_shape k2
          · exact k2

theorem State.takeHeader_shape {x1 x2} (h : s.Shape) : (State.takeHeader s x1 x2).Shape := by
  unfold State.takeHeader
  refine State.onPeer_shape h (fun q hq => ?_)
  obtain ⟨hl, hw, ho, hc⟩ := PeerPort.acknowledge_shape (n := x2.ack) hq
  exact ⟨hl, hw, ho, (lmod_length _ _ _).trans hc⟩

theorem State.recvFlit_shape {x1 x2 x3 x4} (h : s.Shape) (h4 : ∀ y0, y0.Shape → (x4 y0).Shape) : (State.recvFlit s x1 x2 x3 x4).Shape := by
  unfold State.recvFlit
  extract_lets s1 s2 q
  have k1 : State.Shape s1 := State.noteFlit_shape h
  have k2 : State.Shape s2 := State.takeHeader_shape k1
  split
  · exact h
  · split
    · exact .ite (fun _ => State.sendLink_shape k1) (fun _ => k1)
    · split
      · exact k1
      · split
        · exact State.discardFlit_shape (State.laneEvent_shape k1)
        · split
          · exact State.discardFlit_shape k2
          · exact h4 _ (State.onPeer_shape k2 (fun _ ⟨hl, hw, ho, hc⟩ => ⟨hl, hw, (lmod_length _ _ _).trans ho, hc⟩))

theorem State.recvLink_shape {x1 x2 x3 x4} (h : s.Shape) (h4 : ∀ y0, y0.Shape → (x4 y0).Shape) : (State.recvLink s x1 x2 x3 x4).Shape := by
  unfold State.recvLink
  extract_lets s1 s2
  have k1 : State.Shape s1 := State.noteFlit_shape h
  have k2 : State.Shape s2 := State.takeHeader_shape k1
  split
  · exact h
  · split
    · exact k1
    · split
      · exact h4 _ k2
      · exact State.sendLink_shape k2

theorem State.redeskewOne_shape {x1 x2} (h : s.Shape) : (State.redeskewOne s x1 x2).Shape := by
  unfold State.redeskewOne
  dsimp only
  split
  · split
    · split
      · exact State.took_shape h
      · split
        · split
          · exact State.took_shape h
          · split
            · exact State.bump_shape (State.rejournal_shape (State.onStore_shape (State.took_shape h)))
            · exact State.movePea_shape (State.took_shape h)
        · split
          · exact State.abandonCandidate_shape (State.refuseFull_shape (State.took_shape h))
          · exact State.forwardPea_shape (State.bump_shape (State.dropPea_shape (State.writeHit_shape (.free (State.hitOf_only (.refl _ _) (by decide)) (State.took_shape h)))))
    · exact State.abandonCandidate_shape h
  · exact h

theorem State.refreshNow_shape (h : s.Shape) : (State.refreshNow s).Shape := by
  unfold State.refreshNow
  dsimp only
  split
  · exact State.askRefresh_shape h
  · exact h

theorem State.refreshSet_shape {x1} (h : s.Shape) : (State.refreshSet s x1).Shape := by
  unfold State.refreshSet
  dsimp only
  split
  · exact h
  · exact State.bump_shape (State.queueFlits_shape h)

theorem State.sensorDown_shape {x1} (h : s.Shape) : (State.sensorDown s x1).Shape := by
  unfold State.sensorDown
  extract_lets lost s1
  have k1 : State.Shape s1 := State.bump_shape (State.onPort_shape h (fun _ _ => rfl))
  split
  · exact State.raise_shape k1
  · exact k1

theorem State.regEffect_shape {x1 x2 x3 x4} (h : s.Shape) : (State.regEffect s x1 x2 x3 x4).Shape := by
  unfold State.regEffect
  dsimp only
  split
  · split
    · exact State.rset_shape (State.rset_shape h)
    · exact h
  · split
    · split
      · exact h
      · exact State.ringEnable_shape (State.rset_shape h)
    · split
      · exact State.hqWatermark_shape h
      · split
        · split
          · exact h
          · exact State.onKeeper_shape h
        · split
          · exact State.sensorDown_shape h
          · split
            · exact State.watermark_shape h
            · exact State.enabledEvents_shape h

theorem State.rehearsed_shape {x1 x2 x3} (h : s.Shape) : (State.rehearsed s x1 x2 x3).Shape := by
  unfold State.rehearsed
  dsimp only
  split
  · split
    · split
      · exact State.beginArming_shape (State.rset_shape (State.engEvent_shape (State.onSlot_shape (State.onSlot_shape h))))
      · exact State.rset_shape (State.engEvent_shape (State.onSlot_shape (State.onSlot_shape h)))
    · split
      · exact State.beginArming_shape (State.rset_shape (State.onSlot_shape (State.onSlot_shape h)))
      · exact State.rset_shape (State.onSlot_shape (State.onSlot_shape h))
  · split
    · exact State.clearShadow_shape (State.raise_shape (State.bump_shape (State.onSlot_shape (State.onSlot_shape h))))
    · exact State.refuseImage_shape (State.onSlot_shape h)

theorem State.releasePea_shape {x1 x2} (h : s.Shape) : (State.releasePea s x1 x2).Shape := by
  unfold State.releasePea
  dsimp only
  split
  · exact State.preEpochDrop_shape h
  · exact State.offerPea_shape h (fun t ht => State.tapPea_shape (State.onStore_shape ht))

theorem State.takePixels_shape {x1 x2} (h : s.Shape) : (State.takePixels s x1 x2).Shape := by
  unfold State.takePixels
  dsimp only
  exact State.onIng_shape h id

theorem State.releaseOut_shape {x1 x2} (h : s.Shape) : (State.releaseOut s x1 x2).Shape := by
  unfold State.releaseOut
  split
  · exact State.releasePea_shape h
  · exact State.raise_shape (State.bump_shape h)
  · split
    · exact State.preEpochDrop_shape h
    · exact State.takeSample_shape h
  · exact State.takePixels_shape h

theorem State.releaseReset_shape {x1 x2} : (State.releaseReset s x1 x2).Shape := by
  unfold State.releaseReset
  dsimp only
  exact State.strapRegs_shape (.frame (State.inReset_shape s))

theorem State.remoteWrite_shape {x1 x2} (h : s.Shape) : (State.remoteWrite s x1 x2).Shape := by
  unfold State.remoteWrite
  extract_lets a
  split
  · exact State.xlateFault_shape h
  · extract_lets pl
    split
    · exact State.judgeAccess_shape' h ‹_›
    · extract_lets r s2_2
      have k2_2 : State.Shape s2_2 := State.moverWrite_shape (State.judgeAccess_shape' h ‹_›)
      exact State.bump64_shape (.ite (fun _ => State.raise_shape (State.bump_shape k2_2)) (fun _ => k2_2))

theorem State.replayAll_shape {x1} (h : s.Shape) : (State.replayAll s x1).Shape := by
  unfold State.replayAll
  dsimp only
  split
  · exact h
  · split
    · exact State.linkDown_shape (.foldl (State.onPeer_shape h (fun _ hq => hq)) (fun t x ht => State.sendHeld_shape ht))
    · exact .foldl (State.onPeer_shape h (fun _ hq => hq)) (fun t x ht => State.sendHeld_shape ht)

theorem State.resumeHeartbeat_shape {x1 x2} (h : s.Shape) : (State.resumeHeartbeat s x1 x2).Shape := by
  unfold State.resumeHeartbeat
  split
  · exact State.onSafety_shape h rfl
  · exact State.logAccess_shape h

theorem State.retireRoot_shape {x1} (h : s.Shape) : (State.retireRoot s x1).Shape := by
  unfold State.retireRoot
  dsimp only
  split
  · exact h
  · exact State.checkRoots_shape (State.declare_shape (State.onRoot_shape h))

theorem State.retireSensorPort_shape {x1} (h : s.Shape) : (State.retireSensorPort s x1).Shape := by
  unfold State.retireSensorPort
  exact State.raise_shape (State.declare_shape (State.onPort_shape (State.sensorDown_shape h) (fun _ hq => hq)))

theorem State.retryPeer_shape {x1} (h : s.Shape) : (State.retryPeer s x1).Shape := by
  unfold State.retryPeer
  split
  · exact State.onPeer_shape h (fun _ hq => hq)
  · exact h

theorem State.ringSuspendAct_shape (h : s.Shape) : (State.ringSuspendAct s).Shape := by
  unfold State.ringSuspendAct
  dsimp only
  exact State.logRec_shape (State.hqRaise_shape (State.bump_shape (State.onHost_shape (State.rput_shape (State.destOff_shape (by
    split
    · exact State.setPair_shape (State.rset_shape h)
    · exact h))))))

theorem State.seedEntry_shape {x0 x2} (h : s.Shape) : (State.seedEntry x0 s x2).Shape := by
  unfold State.seedEntry
  split
  · split
    · exact State.seedRecord_shape h
    · exact State.bump_shape h
  · split
    · exact State.seedRecord_shape h
    · exact State.bump_shape h
  · exact h
  · split
    · exact State.raise_shape (State.onPeers_shape h id)
    · exact h

theorem State.seedSet_shape {x1} (h : s.Shape) : (State.seedSet s x1).Shape := by
  unfold State.seedSet
  dsimp only
  split
  · exact h
  · exact State.queueFlits_shape h

theorem State.swapLane_shape {x1 x2} (h : s.Shape) : (State.swapLane s x1 x2).Shape := by
  unfold State.swapLane
  extract_lets q ms s1 s2
  have k1 : State.Shape s1 := State.onPeer_shape h (fun _ hq => PeerPort.setTx_shape hq)
  have k2 : State.Shape s2 := .ite (fun _ => k1) (fun _ => State.raise_shape k1)
  split
  · exact h
  · split
    · exact k2
    · exact State.retirePort_shape k2

theorem State.switchRoot_shape (h : s.Shape) : (State.switchRoot s).Shape := by
  unfold State.switchRoot
  extract_lets d
  split
  · exact h
  · extract_lets recent s0 s1 t s2
    have k0 : State.Shape s0 := State.onRoot_shape h
    have k1 : State.Shape s1 := State.logRec_shape k0
    have kt : State.Shape t := State.raise_shape (State.took_shape (State.onRoot_shape k1))
    have k2 : State.Shape s2 := .ite (fun _ => State.onTl_shape kt) (fun _ => State.checkRoots_shape k1)
    split
    · exact State.retireRoot_shape k2
    · exact k2

theorem State.takeRecord_shape {x1 x2 x3} (h : s.Shape) : (State.takeRecord s x1 x2 x3).1.Shape := by
  unfold State.takeRecord
  extract_lets sr s1 s2 s3 s4 s5 q
  have k1 : State.Shape s1 := State.onCom_shape h
  have k2 : State.Shape s2 := State.onDest_shape k1
  have k3 : State.Shape s3 := by
    unfold s3
    split
    · split
      · exact State.rset_shape k2
      · exact k2
    · exact k2
  have k4 : State.Shape s4 := .ite (fun _ => State.bump64_shape k3) (fun _ => .ite (fun _ => State.bump64_shape k3) (fun _ => k3))
  have k5 : State.Shape s5 := .ite (fun _ => State.bump_shape k4) (fun _ => k4)
  exact .ite (fun _ => State.withSafety_shape k5 rfl) (fun _ => k5)

theorem State.takeTime_shape {x1 x2 x3} (h : s.Shape) : (State.takeTime s x1 x2 x3).Shape := by
  unfold State.takeTime
  dsimp only
  split
  · split
    · split
      · exact State.takeAnnounce_shape (State.voteDepth_shape (State.onPeer_shape (State.onPeer_shape (State.rset_shape (State.setPair_shape h)) (fun _ hq => hq)) (fun _ hq => hq)))
      · exact State.voteDepth_shape (State.onPeer_shape (State.onPeer_shape (State.rset_shape (State.setPair_shape h)) (fun _ hq => hq)) (fun _ hq => hq))
    · split
      · exact State.takeAnnounce_shape (State.voteDepth_shape (State.onPeer_shape h (fun _ hq => hq)))
      · exact State.voteDepth_shape (State.onPeer_shape h (fun _ hq => hq))
  · split
    · split
      · exact State.voteDepth_shape (State.onPeer_shape (State.onPeer_shape (State.rset_shape (State.setPair_shape h)) (fun _ hq => hq)) (fun _ hq => hq))
      · split
        · exact State.voteDepth_shape (State.onPeer_shape (State.onPeer_shape (State.rset_shape (State.setPair_shape h)) (fun _ hq => hq)) (fun _ hq => hq))
        · exact State.onTl_shape (State.voteDepth_shape (State.onPeer_shape (State.onPeer_shape (State.rset_shape (State.setPair_shape h)) (fun _ hq => hq)) (fun _ hq => hq)))
    · split
      · exact State.voteDepth_shape (State.onPeer_shape h (fun _ hq => hq))
      · split
        · exact State.voteDepth_shape (State.onPeer_shape h (fun _ hq => hq))
        · exact State.onTl_shape (State.voteDepth_shape (State.onPeer_shape h (fun _ hq => hq)))

theorem State.transmitOne_shape {x1} (h : s.Shape) : (State.transmitOne s x1).Shape := by
  unfold State.transmitOne
  split
  · exact h
  · split
    · exact h
    · split
      · exact h
      · extract_lets c8 s1
        have k1 : State.Shape s1 := State.onPort_shape (.ite (fun _ => h) (fun _ => State.took_shape h)) (fun _ hq => (lput_length _ _ _).trans hq)
        clear_value s1
        split
        exact State.send_shape (State.bump64_shape (State.leave_shape' k1 ‹_›))

theorem State.unlockDebug_shape {x1 x2 x3} (h : s.Shape) : (State.unlockDebug s x1 x2 x3).Shape := by
  unfold State.unlockDebug
  extract_lets r s1
  have k1 : State.Shape s1 := State.rset_shape (State.onBoot_shape h)
  split
  · exact State.raise_shape (State.debugGrant_shape (State.onBoot_shape k1))
  · exact State.raise_shape (State.logAccess_shape (State.onBoot_shape k1))

theorem State.trigger_shape {x1 x2 x3 x4 x5 x6} (h : s.Shape) : (State.trigger s x1 x2 x3 x4 x5 x6).Shape := by
  unfold State.trigger
  dsimp only
  split
  · split
    · exact State.lockEvery_shape h
    · exact State.postOut_shape h
  · split
    · exact State.onBoot_shape h
    · exact h
  · exact State.snapTime_shape h
  · exact State.timeSetAct_shape h
  · exact .frame h
  · split
    · exact State.flushQueue_shape h
    · exact h
  · exact State.rekeyEvery_shape h
  · exact State.rset_shape h
  · exact State.freeCapture_shape (State.freeCapture_shape h)
  · exact State.onSolver_shape h
  · exact State.freeCapture_shape h
  · split
    · exact State.late_shape h
    · exact State.loadSlotCmd_shape h
  · exact State.cancelSlotCmd_shape h
  · exact .frame h
  · exact State.freeCapture_shape h
  · exact State.scrubAgain_shape h
  · exact State.refreshNow_shape h
  · split
    · exact State.retryPeer_shape h
    · exact h
  · exact State.freeCapture_shape (State.freeCapture_shape h)
  · exact State.enterHold_shape h
  · exact State.resumeHeartbeat_shape h
  · exact State.flushHq_shape h
  · exact State.challengeDebug_shape h
  · exact State.unlockDebug_shape h
  · exact State.advanceFw_shape h
  · exact State.advanceImage_shape h
  · exact State.forgetMarrow_shape h
  · exact State.programFuse_shape h
  · exact h

theorem State.update_shape {x1 x2} (h : s.Shape) : (State.update s x1 x2).Shape := by
  unfold State.update
  dsimp only
  split
  · split
    · exact State.noteNb_shape h
    · exact State.refuseNb_shape h
  · split
    · exact State.onPeer_shape h (fun _ hq => hq)
    · exact h

theorem State.writeFields_shape {ini off fn low d data ans} (h : s.Shape) : (s.writeFields ini off fn low d data ans).Shape := by
  unfold State.writeFields
  extract_lets key old loKey heldLo lo locked spHeld woHeld held differs s1 lkBad s2 s3 ranged bad allHeld keep setMask clrMask trigMask new trig s4 src5 s5 src6 s6 lockBit s7 s8 s9 order
  have k1 : State.Shape s1 := .ite (fun _ => State.late_shape h) (fun _ => h)
  have k2 : State.Shape s2 := .ite (fun _ => State.late_shape k1) (fun _ => k1)
  have k3 : State.Shape s3 := .ite (fun _ => State.late_shape k2) (fun _ => k2)
  clear_value s3
  have k4 : State.Shape s4 := State.rset_shape k3
  have k5 : State.Shape s5 := .ite (fun _ => .frame (State.rset_shape k4)) (fun _ => k4)
  clear_value s5
  have k6 : State.Shape s6 := .ite (fun _ => State.withPeers_shape (.frame k5) (State.shape_iff.mp k5).2.2.2) (fun _ => k5)
  clear_value s6
  have k7 : State.Shape s7 := .ite (fun _ => State.setLock_shape k6) (fun _ => k6)
  have k8 : State.Shape s8 := .ite (fun _ => k7) (fun _ => State.regEffect_shape k7)
  have k9 : State.Shape s9 := .ite (fun _ => k8) (fun _ => State.clearedEvents_shape k8)
  split
  · exact State.late_shape k3
  · split
    · exact .frame k3
    · exact .foldl (.ite (fun _ => State.took_shape k9) (fun _ => k9)) (fun t b ht => State.trigger_shape ht)

theorem State.writeAt_shape {x1 x2 x3 x4 x5} (h : s.Shape) : (State.writeAt s x1 x2 x3 x4 x5).Shape := by
  unfold State.writeAt
  split
  · split
    · exact State.writeMsix_shape h
    · split
      · exact h
      · split
        · exact State.late_shape h
        · split
          · exact h
          · split
            · exact State.late_shape h
            · exact State.writeFields_shape h

theorem State.writeWord_shape {x1 x2 x3 x4} (h : s.Shape) : (State.writeWord s x1 x2 x3 x4).Shape := by
  unfold State.writeWord
  split
  · split
    · exact State.deny_shape h
    · exact State.writeAt_shape h
  · split
    · exact State.deny_shape h
    · exact State.writeAt_shape h

theorem State.windowWrite_shape {x1 x2 x3 x4} (h : s.Shape) : (State.windowWrite s x1 x2 x3 x4).Shape := by
  unfold State.windowWrite
  split
  · exact State.writeWord_shape h
  · exact h

theorem State.writeNarrow_shape {x1 x2 x3} (h : s.Shape) : (State.writeNarrow s x1 x2 x3).Shape := by
  unfold State.writeNarrow
  dsimp only
  split
  · split
    · exact State.deny_shape h
    · exact State.late_shape h
  · split
    · exact State.deny_shape h
    · exact State.late_shape h

theorem State.writeAccess_shape {x1 x2 x3} (h : s.Shape) : (State.writeAccess s x1 x2 x3).Shape := by
  unfold State.writeAccess
  dsimp only
  split
  · exact h
  · split
    · exact State.pushAll_shape h
    · split
      · split
        · exact State.writeWord_shape h
        · exact State.writeNarrow_shape h
      · split
        · split
          · split
            · exact h
            · split
              · exact State.writeWord_shape h
              · exact State.writeNarrow_shape h
          · split
            · exact State.writeWord_shape (.ite (fun _ => h) (fun _ => (by
                split
                · exact State.writeWord_shape h
                · exact State.writeNarrow_shape h)))
            · exact State.writeNarrow_shape (.ite (fun _ => h) (fun _ => (by
                split
                · exact State.writeWord_shape h
                · exact State.writeNarrow_shape h)))
        · exact State.writeNarrow_shape h

/-! ### Commands -/

theorem execAdvanceFw_shape {x0} (h : s.Shape) : ShapeOut (execAdvanceFw x0 s) :=
  .next (State.windowWrite_shape h)

theorem execAdvanceImage_shape {x0 x1} (h : s.Shape) : ShapeOut (execAdvanceImage x0 x1 s) :=
  .next (State.windowWrite_shape h)

theorem execAgeingPass_shape {x0} (h : s.Shape) : ShapeOut (execAgeingPass x0 s) := by
  unfold execAgeingPass
  dsimp only
  split
  · exact ShapeOut.next h
  · split
    · exact ShapeOut.next h
    · split
      · exact ShapeOut.next (State.bump_shape (State.freePod_shape h))
      · exact ShapeOut.next (State.onStore_shape h)

theorem execAliasWrite_shape {x0 x1 x2 x3 x4} (h : s.Shape) : ShapeOut (execAliasWrite x0 x1 x2 x3 x4 s) :=
  .next (State.windowWrite_shape h)

theorem execBeatBoundary_shape (h : s.Shape) : ShapeOut (execBeatBoundary s) := by
  unfold execBeatBoundary
  split
  · exact ShapeOut.next (State.passBeat_shape h)
  · exact ShapeOut.next h

theorem execBlockLock_shape {x0 x1} (h : s.Shape) : ShapeOut (execBlockLock x0 x1 s) := by
  unfold execBlockLock
  split
  · exact ShapeOut.next (State.windowWrite_shape h)
  · exact ShapeOut.next h

theorem execBootStepEnd_shape {x0} (h : s.Shape) : ShapeOut (execBootStepEnd x0 s) := by
  unfold execBootStepEnd
  split
  · exact ShapeOut.next h
  · exact ShapeOut.next (State.endStep_shape h)

theorem execChipCoordWrite_shape {x0 x1} (h : s.Shape) : ShapeOut (execChipCoordWrite x0 x1 s) :=
  .next (State.windowWrite_shape h)

theorem execColdAll_shape {x0} (h : s.Shape) : ShapeOut (execColdAll x0 s) :=
  .next (State.windowWrite_shape h)

theorem execCommitFlit_shape {x0 x1 x2} (h : s.Shape) : ShapeOut (execCommitFlit x0 x1 x2 s) := by
  unfold execCommitFlit
  exact ShapeOut.next (State.recvFlit_shape h (fun t ht => .foldl ht (fun t x ht => State.peerRecord_shape ht)))

theorem execCompareSkipped_shape (h : s.Shape) : ShapeOut (execCompareSkipped s) := by
  unfold execCompareSkipped
  split
  · exact ShapeOut.next h
  · split
    · exact ShapeOut.next (State.notCompared_shape (State.raise_shape (State.bump_shape h)))
    · exact ShapeOut.next h

theorem execComparisonComplete_shape (h : s.Shape) : ShapeOut (execComparisonComplete s) := by
  unfold execComparisonComplete
  split
  · exact ShapeOut.next h
  · split
    · exact ShapeOut.next (State.finishCompare_shape h)
    · exact ShapeOut.next h

theorem execCplEnable_shape {x0 x1} (h : s.Shape) : ShapeOut (execCplEnable x0 x1 s) :=
  .next (State.windowWrite_shape h)

theorem execCplHeadWrite_shape {x0 x1} (h : s.Shape) : ShapeOut (execCplHeadWrite x0 x1 s) :=
  .next (State.windowWrite_shape h)

theorem execDeadlineMissed_shape {x0} (h : s.Shape) : ShapeOut (execDeadlineMissed x0 s) := by
  unfold execDeadlineMissed
  exact ShapeOut.next (State.missAt_shape h)

theorem execDebugChallenge_shape {x0 x1} (h : s.Shape) : ShapeOut (execDebugChallenge x0 x1 s) :=
  .next (State.windowWrite_shape h)

theorem execDebugUnlock_shape {x0 x1 x2} (h : s.Shape) : ShapeOut (execDebugUnlock x0 x1 x2 s) :=
  .next (State.windowWrite_shape h)

theorem execDelayReqSend_shape (h : s.Shape) : ShapeOut (execDelayReqSend s) := by
  unfold execDelayReqSend
  dsimp only
  split
  · exact ShapeOut.next (State.onPtp_shape (State.egress_shape h))
  · exact ShapeOut.next h

theorem execDeltaApply_shape (h : s.Shape) : ShapeOut (execDeltaApply s) := by
  unfold execDeltaApply
  dsimp only
  split
  · exact ShapeOut.next h
  · split
    · exact ShapeOut.next h
    · split
      · exact ShapeOut.next (State.onCom_shape h)
      · exact ShapeOut.next (State.applyRecord_shape (State.onCom_shape h))

theorem execDeskew_shape (h : s.Shape) : ShapeOut (execDeskew s) := by
  unfold execDeskew
  split
  · exact ShapeOut.next h
  · exact ShapeOut.next (State.deskewOne_shape (State.onStore_shape h))

theorem execDramRead_shape {x0 x1 x2 x3 x4} (h : s.Shape) : ShapeOut (execDramRead x0 x1 x2 x3 x4 s) := by
  unfold execDramRead
  split
  · exact ShapeOut.next h
  · exact ShapeOut.next (State.readCw_shape h)

theorem execDramRecalibrate_shape {x0 x1} (h : s.Shape) : ShapeOut (execDramRecalibrate x0 x1 s) := by
  unfold execDramRecalibrate
  dsimp only
  split
  · exact ShapeOut.next h
  · split
    · exact ShapeOut.next (State.bump_shape h)
    · exact ShapeOut.next (State.retireChannel_shape (State.raise_shape (State.bump_shape h)))

theorem execDramRepair_shape {x0} (h : s.Shape) : ShapeOut (execDramRepair x0 s) := by
  unfold execDramRepair
  extract_lets x
  split
  · exact ShapeOut.next h
  · split
    · exact ShapeOut.next h
    · extract_lets used left s1 inLine s2 q s3
      have k1 : State.Shape s1 := State.onChannel_shape h
      have k2 : State.Shape s2 := State.onChannel_shape k1
      have k3 : State.Shape s3 := .ite (fun _ => k2) (fun _ => .frame k2)
      split
      · exact ShapeOut.next (State.retireChannel_shape (State.raise_shape k1))
      · exact ShapeOut.next (State.raise_shape (State.bump_shape k3))

theorem execEngAssignShadow_shape {x0 x1} (h : s.Shape) : ShapeOut (execEngAssignShadow x0 x1 s) := by
  unfold execEngAssignShadow
  dsimp only
  split
  · exact ShapeOut.next h
  · exact ShapeOut.next (State.assignShadow_shape (.foldl h (fun t x ht => State.descRefused_shape ht)))

theorem execEngRadish_shape {x0 x1} (h : s.Shape) : ShapeOut (execEngRadish x0 x1 s) := by
  unfold execEngRadish
  split
  · exact ShapeOut.next (State.radishEng_shape h)
  · exact ShapeOut.next h

theorem execEngRelease_shape {x0} (h : s.Shape) : ShapeOut (execEngRelease x0 s) := by
  unfold execEngRelease
  split
  · exact ShapeOut.next (State.releaseEng_shape h)
  · exact ShapeOut.next h

theorem execEngRetire_shape {x0} (h : s.Shape) : ShapeOut (execEngRetire x0 s) := by
  unfold execEngRetire
  split
  · exact ShapeOut.next (State.retireEng_shape h)
  · exact ShapeOut.next h

theorem execEngSwitch_shape {x0} (h : s.Shape) : ShapeOut (execEngSwitch x0 s) := by
  unfold execEngSwitch
  split
  · exact ShapeOut.next (State.switchEng_shape h)
  · exact ShapeOut.next h

theorem execEngineEvent_shape {x0 x1} (h : s.Shape) : ShapeOut (execEngineEvent x0 x1 s) := by
  unfold execEngineEvent
  split
  · exact ShapeOut.next h
  · exact ShapeOut.next (State.engEvent_shape (.ite (fun _ => State.bump_shape h) (fun _ => h)))

theorem execEngineHang_shape {x0} (h : s.Shape) : ShapeOut (execEngineHang x0 s) := by
  unfold execEngineHang
  dsimp only
  split
  · exact ShapeOut.next (State.engHard_shape h)
  · exact ShapeOut.next h

theorem execEscapeEventClear_shape {x0 x1} (h : s.Shape) : ShapeOut (execEscapeEventClear x0 x1 s) :=
  .next (State.windowWrite_shape h)

theorem execFastDeadlineMiss_shape (h : s.Shape) : ShapeOut (execFastDeadlineMiss s) := by
  unfold execFastDeadlineMiss
  dsimp only
  split
  · exact ShapeOut.next h
  · split
    · exact ShapeOut.next h
    · exact ShapeOut.next (.foldl h (fun t x ht => State.onTrackSolve_shape (State.error_shape (State.onCom_shape (State.raise_shape (State.bump_shape (State.trackResult_shape ht)))))))

theorem execFaultClear_shape {x0 x1} (h : s.Shape) : ShapeOut (execFaultClear x0 x1 s) :=
  .next (State.windowWrite_shape h)

theorem execFdbFlush_shape {x0} (h : s.Shape) : ShapeOut (execFdbFlush x0 s) :=
  .next (State.windowWrite_shape h)

theorem execForceHold_shape {x0} (h : s.Shape) : ShapeOut (execForceHold x0 s) :=
  .next (State.windowWrite_shape h)

theorem execFrameBoundary_shape {x0} (h : s.Shape) : ShapeOut (execFrameBoundary x0 s) := by
  unfold execFrameBoundary
  split
  · exact ShapeOut.next (State.passFrame_shape h)
  · exact ShapeOut.next h

theorem execFrameReceive_shape {x0 x1 x2 x3 x4} (h : s.Shape) : ShapeOut (execFrameReceive x0 x1 x2 x3 x4 s) := by
  unfold execFrameReceive
  dsimp only
  split
  · exact ShapeOut.next h
  · split
    · exact ShapeOut.next (State.bump_shape (State.bump64_shape h))
    · exact ShapeOut.next (State.receive_shape (State.bump64_shape h))

theorem execFuseProgram_shape {x0} (h : s.Shape) : ShapeOut (execFuseProgram x0 s) :=
  .next (State.windowWrite_shape h)

theorem execHeartbeatStop_shape (h : s.Shape) : ShapeOut (execHeartbeatStop s) := by
  unfold execHeartbeatStop
  split
  · split
    · exact ShapeOut.next (State.stopHeartbeat_shape h)
    · exact ShapeOut.next h
  · exact ShapeOut.next h

theorem execHeartbeatToggle_shape (h : s.Shape) : ShapeOut (execHeartbeatToggle s) := by
  unfold execHeartbeatToggle
  split
  · exact ShapeOut.next (State.onSafety_shape h rfl)
  · exact ShapeOut.next h

theorem execHelloFlit_shape {x0 x1 x2} (h : s.Shape) : ShapeOut (execHelloFlit x0 x1 x2 s) := by
  unfold execHelloFlit
  exact ShapeOut.next (State.recvLink_shape h (fun t ht => .ite (fun _ => State.hello_shape ht) (fun _ => ht)))

theorem execHelloSend_shape {x0} (h : s.Shape) : ShapeOut (execHelloSend x0 s) := by
  unfold execHelloSend
  split
  · exact ShapeOut.next (State.sendLink_shape h)
  · exact ShapeOut.next h

theorem execHiWrite_shape {x0 x1 x2} (h : s.Shape) : ShapeOut (execHiWrite x0 x1 x2 s) :=
  .next (State.windowWrite_shape h)

theorem execHqFlush_shape {x0} (h : s.Shape) : ShapeOut (execHqFlush x0 s) :=
  .next (State.windowWrite_shape h)

theorem execInAck_shape {x0} (h : s.Shape) : ShapeOut (execInAck x0 s) :=
  .next (State.windowWrite_shape h)

theorem execInService_shape (h : s.Shape) : ShapeOut (execInService s) := by
  unfold execInService
  split
  · exact ShapeOut.next (State.enterService_shape h)
  · exact ShapeOut.next h

theorem execIngestFlush_shape {x0 x1} (h : s.Shape) : ShapeOut (execIngestFlush x0 x1 s) :=
  .next (State.windowWrite_shape h)

theorem execItemRelease_shape (h : s.Shape) : ShapeOut (execItemRelease s) := by
  unfold execItemRelease
  split
  · exact ShapeOut.next h
  · exact ShapeOut.next (.foldl (State.onMachine_shape h (fun _ _ => rfl)) (fun t x ht => State.releaseOut_shape ht))

theorem execKeeperRecordWrite_shape {x0} (h : s.Shape) : ShapeOut (execKeeperRecordWrite x0 s) := by
  unfold execKeeperRecordWrite
  dsimp only
  split
  · exact ShapeOut.next h
  · split
    · exact ShapeOut.next (State.keeperFail_shape h)
    · exact ShapeOut.next (State.withSafety_shape h rfl)

theorem execLaneLockLoss_shape {x0 x1} (h : s.Shape) : ShapeOut (execLaneLockLoss x0 x1 s) := by
  unfold execLaneLockLoss
  dsimp only
  split
  · exact ShapeOut.next (State.retireLane_shape h)
  · exact ShapeOut.next h

theorem execLaneSwapFlit_shape {x0 x1 x2 x3} (h : s.Shape) : ShapeOut (execLaneSwapFlit x0 x1 x2 x3 s) := by
  unfold execLaneSwapFlit
  exact ShapeOut.next (State.recvLink_shape h (fun t ht => State.swapLane_shape ht))

theorem execLoRead_shape {x0 x1 x2} (h : s.Shape) : ShapeOut (execLoRead x0 x1 x2 s) := by
  unfold execLoRead
  split
  · exact ShapeOut.next (State.readAccess_shape h)
  · exact ShapeOut.next h

theorem execLockAll_shape {x0} (h : s.Shape) : ShapeOut (execLockAll x0 s) :=
  .next (State.windowWrite_shape h)

theorem execLockTimeout_shape (h : s.Shape) : ShapeOut (execLockTimeout s) := by
  unfold execLockTimeout
  split
  · exact ShapeOut.next (State.beginStep11_shape (State.raise_shape h))
  · exact ShapeOut.next h

theorem execMarginReset_shape {x0} (h : s.Shape) : ShapeOut (execMarginReset x0 s) :=
  .next (State.windowWrite_shape h)

theorem execMarrowForget_shape {x0} (h : s.Shape) : ShapeOut (execMarrowForget x0 s) :=
  .next (State.windowWrite_shape h)

theorem execMeshDoubleBit_shape {x0 x1} (h : s.Shape) : ShapeOut (execMeshDoubleBit x0 x1 s) := by
  unfold execMeshDoubleBit
  dsimp only
  split
  · exact ShapeOut.next h
  · split
    · exact ShapeOut.next (State.engEvent_shape h)
    · split
      · exact ShapeOut.next (State.groupEvent_shape h)
      · split
        · exact ShapeOut.next (.ite (fun _ => h) (fun _ => State.countSymbols_shape h))
        · exact ShapeOut.next (State.hardFail_shape h)

theorem execMirrorFlit_shape {x0 x1 x2} (h : s.Shape) : ShapeOut (execMirrorFlit x0 x1 x2 s) := by
  unfold execMirrorFlit
  exact ShapeOut.next (State.recvFlit_shape h (fun t ht => State.mirrorFrom_shape ht))

theorem execMoverCopy_shape {x0} (h : s.Shape) : ShapeOut (execMoverCopy x0 s) :=
  .next (State.moverCopy_shape h)

theorem execMoverDeliver_shape {x0} (h : s.Shape) : ShapeOut (execMoverDeliver x0 s) :=
  .next (State.moverDeliver_shape h)

theorem execMoverFill_shape {x0} (h : s.Shape) : ShapeOut (execMoverFill x0 s) :=
  .next (State.moverFill_shape h)

theorem execMoverGather_shape {x0} (h : s.Shape) : ShapeOut (execMoverGather x0 s) :=
  .next (State.moverGather_shape h)

theorem execMoverScatter_shape {x0} (h : s.Shape) : ShapeOut (execMoverScatter x0 s) :=
  .next (State.moverScatter_shape h)

theorem execNakFlit_shape {x0 x1} (h : s.Shape) : ShapeOut (execNakFlit x0 x1 s) := by
  unfold execNakFlit
  exact ShapeOut.next (State.recvLink_shape h (fun t ht => .ite (fun _ => State.replayAll_shape (State.bump_shape ht)) (fun _ => ht)))

theorem execOutPost_shape {x0} (h : s.Shape) : ShapeOut (execOutPost x0 s) :=
  .next (State.windowWrite_shape h)

theorem execParserAlu_shape {x0 x1 x2 x3 x4} (h : s.Shape) : ShapeOut (execParserAlu x0 x1 x2 x3 x4 s) := by
  unfold execParserAlu
  dsimp only
  refine ShapeOut.next (State.parse_shape (.ite (fun _ => State.took_shape h) (fun _ => h)) (fun p i hp q hq => ?_))
  cases hq
  exact ParserMachine.put_shape hp

theorem execParserBranch_shape {x0 x1 x2 x3 x4} (h : s.Shape) : ShapeOut (execParserBranch x0 x1 x2 x3 x4 s) := by
  unfold execParserBranch
  dsimp only
  split
  · split
    · exact ShapeOut.next (State.abandon_shape h)
    · exact ShapeOut.next (State.onMachine_shape h (fun _ hq => hq))
  · refine ShapeOut.next (State.parse_shape h (fun p i hp q hq => ?_))
    cases hq
    exact hp

theorem execParserDrop_shape {x0} (h : s.Shape) : ShapeOut (execParserDrop x0 s) := by
  unfold execParserDrop
  dsimp only
  split
  · exact ShapeOut.next (State.abandon_shape h)
  · exact ShapeOut.next h

theorem execParserEmit_shape {x0} (h : s.Shape) : ShapeOut (execParserEmit x0 s) := by
  refine ShapeOut.next (State.parse_shape h (fun p i hp q hq => ?_))
  cases hq
  exact hp

theorem execParserEnd_shape {x0} (h : s.Shape) : ShapeOut (execParserEnd x0 s) := by
  refine ShapeOut.next (State.parse_shape h (fun p i hp q hq => ?_))
  cases hq
  exact hp

theorem execParserExtract_shape {x0 x1 x2 x3 x4} (h : s.Shape) : ShapeOut (execParserExtract x0 x1 x2 x3 x4 s) := by
  refine ShapeOut.next (State.parse_shape h (fun p i hp q hq => ?_))
  obtain ⟨v, -, rfl⟩ := Option.map_eq_some_iff.mp hq
  exact ParserMachine.put_shape hp

theorem execParserExtracts_shape {x0 x1 x2 x3 x4} (h : s.Shape) : ShapeOut (execParserExtracts x0 x1 x2 x3 x4 s) := by
  refine ShapeOut.next (State.parse_shape h (fun p i hp q hq => ?_))
  obtain ⟨v, -, rfl⟩ := Option.map_eq_some_iff.mp hq
  exact ParserMachine.put_shape hp

theorem execParserImage_shape {x0 x1 x2 x3 x4 x5} (h : s.Shape) : ShapeOut (execParserImage x0 x1 x2 x3 x4 x5 s) := by
  refine ShapeOut.next (State.parse_shape h (fun p i hp q hq => ?_))
  dsimp only at hq
  split at hq
  · cases hq
  · cases hq
    exact hp

theorem execParserLoop_shape {x0 x1 x2 x3} (h : s.Shape) : ShapeOut (execParserLoop x0 x1 x2 x3 s) := by
  refine ShapeOut.next (State.parse_shape h (fun p i hp q hq => ?_))
  dsimp only at hq
  split at hq <;> cases hq <;> exact hp

theorem execParserMotion_shape {x0 x1 x2} (h : s.Shape) : ShapeOut (execParserMotion x0 x1 x2 s) := by
  refine ShapeOut.next (State.parse_shape h (fun p i hp q hq => ?_))
  cases hq
  exact hp

theorem execParserPolar_shape {x0 x1 x2 x3 x4} (h : s.Shape) : ShapeOut (execParserPolar x0 x1 x2 x3 x4 s) := by
  refine ShapeOut.next (State.parse_shape h (fun p i hp q hq => ?_))
  cases hq
  exact ParserMachine.put_shape (ParserMachine.put_shape (ParserMachine.put_shape hp))

theorem execParserScale_shape {x0 x1 x2 x3 x4} (h : s.Shape) : ShapeOut (execParserScale x0 x1 x2 x3 x4 s) := by
  refine ShapeOut.next (State.parse_shape h (fun p i hp q hq => ?_))
  cases hq
  exact ParserMachine.put_shape hp

theorem execParserTakeItem_shape {x0} (h : s.Shape) : ShapeOut (execParserTakeItem x0 s) := by
  unfold execParserTakeItem
  split
  · exact ShapeOut.next h
  · split
    · exact ShapeOut.next h
    · refine ShapeOut.next (State.onMachine_shape (State.watermark_shape (State.onIng_shape h ?_)) (fun _ _ => rfl))
      exact fun ⟨hq, hw, hm⟩ => ⟨(lmod_length _ _ _).trans hq, hw, hm⟩

theorem execParserTime_shape {x0 x1} (h : s.Shape) : ShapeOut (execParserTime x0 x1 s) := by
  refine ShapeOut.next (State.parse_shape h (fun p i hp q hq => ?_))
  split at hq
  · cases hq
    exact ParserMachine.put_shape hp
  · split at hq
    · cases hq
      exact hp
    · split at hq
      · cases hq
        exact hp
      · cases hq
    · obtain ⟨v, -, rfl⟩ := Option.map_eq_some_iff.mp hq
      exact hp
    · obtain ⟨v, -, rfl⟩ := Option.map_eq_some_iff.mp hq
      exact hp

theorem execPdelayReqSend_shape {x0} (h : s.Shape) : ShapeOut (execPdelayReqSend x0 s) := by
  unfold execPdelayReqSend
  dsimp only
  split
  · split
    · exact ShapeOut.next (State.onPort_shape (State.egress_shape h) (fun _ hq => hq))
    · exact ShapeOut.next h
  · split
    · exact ShapeOut.next (State.onPort_shape (State.egress_shape h) (fun _ hq => hq))
    · exact ShapeOut.next h

theorem execPeaFlit_shape {x0 x1 x2} (h : s.Shape) : ShapeOut (execPeaFlit x0 x1 x2 s) := by
  unfold execPeaFlit
  exact ShapeOut.next (State.recvFlit_shape h (fun t ht => .ite (fun _ => ht) (fun _ => .foldl ht (fun t x ht => State.peerPea_shape ht))))

theorem execPeerAligned_shape {x0} (h : s.Shape) : ShapeOut (execPeerAligned x0 s) := by
  unfold execPeerAligned
  split
  · exact ShapeOut.next (State.onPeer_shape h (fun _ hq => hq))
  · exact ShapeOut.next h

theorem execPeerRetry_shape {x0 x1} (h : s.Shape) : ShapeOut (execPeerRetry x0 x1 s) :=
  .next (State.windowWrite_shape h)

theorem execPeerSerdesPllLoss_shape {x0 x1} (h : s.Shape) : ShapeOut (execPeerSerdesPllLoss x0 x1 s) := by
  unfold execPeerSerdesPllLoss
  split
  · exact ShapeOut.next (State.retirePort_shape h)
  · exact ShapeOut.next h

theorem execPeerSignalDetect_shape {x0 x1} (h : s.Shape) : ShapeOut (execPeerSignalDetect x0 x1 s) := by
  unfold execPeerSignalDetect
  dsimp only
  split
  · exact ShapeOut.next h
  · split
    · split
      · exact ShapeOut.next (State.onPeer_shape h (fun _ hq => hq))
      · exact ShapeOut.next h
    · split
      · exact ShapeOut.next (State.linkDown_shape h)
      · exact ShapeOut.next h

theorem execPeerTrainingDone_shape {x0 x1} (h : s.Shape) : ShapeOut (execPeerTrainingDone x0 x1 s) := by
  unfold execPeerTrainingDone
  split
  · exact ShapeOut.next h
  · extract_lets bad s1 gone rx txGone s2
    have k1 : State.Shape s1 := .foldl h (fun t x ht => State.raise_shape (State.declare_shape ht))
    have k2 : State.Shape s2 := State.onPeer_shape k1 (fun _ hq => PeerPort.setTx_shape (PeerPort.setRx_shape hq))
    clear_value s2
    split
    · exact ShapeOut.next (State.retirePort_shape k2)
    · split
      · exact ShapeOut.next (State.onPeer_shape k2 (fun _ hq => hq))
      · exact ShapeOut.next k2

theorem execPlaceEvaluate_shape {x0} (h : s.Shape) : ShapeOut (execPlaceEvaluate x0 s) :=
  .next (State.windowWrite_shape h)

theorem execPodMerge_shape {x0} (h : s.Shape) : ShapeOut (execPodMerge x0 s) := by
  unfold execPodMerge
  extract_lets s0
  have k0 : State.Shape s0 := State.mergeStart_shape h
  split
  · exact ShapeOut.next h
  · split
    · exact ShapeOut.next (State.onStore_shape k0)
    · split
      · exact ShapeOut.next (State.mergeNode_shape k0)
      · exact ShapeOut.next k0

theorem execPortDown_shape {x0} (h : s.Shape) : ShapeOut (execPortDown x0 s) := by
  unfold execPortDown
  split
  · exact ShapeOut.next (State.linkDown_shape h)
  · exact ShapeOut.next h

theorem execPortEvent_shape {x0 x1 x2} (h : s.Shape) : ShapeOut (execPortEvent x0 x1 x2 s) := by
  unfold execPortEvent
  extract_lets p ev s1 s2
  have k1 : State.Shape s1 := State.logRec_shape (State.onPort_shape h (fun _ hq => hq))
  have k2 : State.Shape s2 := .ite (fun _ => State.sensorDown_shape k1) (fun _ => .ite (fun _ => State.bump_shape k1) (fun _ => k1))
  split
  · exact ShapeOut.next h
  · split
    · exact ShapeOut.next (State.retireSensorPort_shape k2)
    · exact ShapeOut.next k2

theorem execPortSpeedWrite_shape {x0 x1 x2} (h : s.Shape) : ShapeOut (execPortSpeedWrite x0 x1 x2 s) :=
  .next (State.windowWrite_shape h)

theorem execPoseSample_shape (h : s.Shape) : ShapeOut (execPoseSample s) := by
  unfold execPoseSample
  dsimp only
  split
  · exact ShapeOut.next h
  · exact ShapeOut.next (State.onSafety_shape h rfl)

theorem execPowerDomainFault_shape {x0} (h : s.Shape) : ShapeOut (execPowerDomainFault x0 s) := by
  unfold execPowerDomainFault
  split
  · exact ShapeOut.next (State.domainFault_shape h)
  · exact ShapeOut.next h

theorem execPowerSag_shape {x0} (h : s.Shape) : ShapeOut (execPowerSag x0 s) := by
  unfold execPowerSag
  extract_lets s1 s2
  have k1 : State.Shape s1 := State.bump_shape h
  have k2 : State.Shape s2 := .ite (fun _ => State.raise_shape k1) (fun _ => k1)
  split
  · exact ShapeOut.next h
  · split
    · exact ShapeOut.next (State.beginSave_shape k2)
    · split
      · exact ShapeOut.next (State.onPower_shape k2)
      · exact ShapeOut.next k2

theorem execPushWord_shape {x0 x1 x2} (h : s.Shape) : ShapeOut (execPushWord x0 x1 x2 s) := by
  unfold execPushWord
  split
  · exact ShapeOut.next h
  · exact ShapeOut.next (State.pushAll_shape h)

theorem execPwrOkLoss_shape (s : State) : ShapeOut (execPwrOkLoss s) := .next (.frame (State.inReset_shape s))

theorem execRadishAnswer_shape {x0 x1} (h : s.Shape) : ShapeOut (execRadishAnswer x0 x1 s) := by
  unfold execRadishAnswer
  split
  · exact ShapeOut.next (State.radishEnd_shape h)
  · exact ShapeOut.next h

theorem execRadishTimeout_shape {x0} (h : s.Shape) : ShapeOut (execRadishTimeout x0 s) := by
  unfold execRadishTimeout
  split
  · exact ShapeOut.next (State.radishEnd_shape h)
  · exact ShapeOut.next h

theorem execRecheckEnd_shape {x0 x1} (h : s.Shape) : ShapeOut (execRecheckEnd x0 x1 s) := by
  unfold execRecheckEnd
  split
  · exact ShapeOut.next h
  · split
    · exact ShapeOut.next (State.endRecheck_shape h)
    · exact ShapeOut.next h

theorem execRecheckTimeout_shape {x0} (h : s.Shape) : ShapeOut (execRecheckTimeout x0 s) := by
  unfold execRecheckTimeout
  dsimp only
  split
  · exact ShapeOut.next h
  · split
    · exact ShapeOut.next h
    · have k0 : ∀ d : Declaration, State.Shape (if d.phase = .rechecking then s.endRecheckShadow d.engine else s) :=
        fun _ => .ite (fun _ => State.endRecheckShadow_shape h) (fun _ => h)
      split
      · exact ShapeOut.next (State.checkerRetire_shape (k0 _))
      · exact ShapeOut.next (State.onSafety_shape (State.logChecker_shape (State.raise_shape (State.bump_shape (k0 _)))) (lput_length _ _ _))

theorem execRecordTransmit_shape {x0} (h : s.Shape) : ShapeOut (execRecordTransmit x0 s) := by
  unfold execRecordTransmit
  dsimp only
  split
  · exact ShapeOut.next h
  · split
    · exact ShapeOut.next h
    · split
      · exact ShapeOut.next (State.onDest_shape (State.takeRecord_shape h))
      · exact ShapeOut.next (State.queueFlits_shape (State.takeRecord_shape h))

theorem execRedeskew_shape (h : s.Shape) : ShapeOut (execRedeskew s) := by
  unfold execRedeskew
  dsimp only
  split
  · exact ShapeOut.next h
  · split
    · exact ShapeOut.next h
    · split
      · exact ShapeOut.next (State.redeskewOne_shape (State.onStore_shape h))
      · exact ShapeOut.next (State.abandonCandidate_shape (State.onStore_shape h))

theorem execRefreshMirror_shape {x0} (h : s.Shape) : ShapeOut (execRefreshMirror x0 s) :=
  .next (State.windowWrite_shape h)

theorem execRefreshReqFlit_shape {x0 x1} (h : s.Shape) : ShapeOut (execRefreshReqFlit x0 x1 s) := by
  unfold execRefreshReqFlit
  exact ShapeOut.next (State.recvLink_shape h (fun t ht => .ite (fun _ => State.refreshSet_shape ht) (fun _ => ht)))

theorem execRegisterWrite_shape {x0 x1 x2} (h : s.Shape) : ShapeOut (execRegisterWrite x0 x1 x2 s) := by
  unfold execRegisterWrite
  split
  · exact ShapeOut.next (State.writeAccess_shape h)
  · exact ShapeOut.next h

theorem execRehearsalDone_shape {x0} (h : s.Shape) : ShapeOut (execRehearsalDone x0 s) := by
  unfold execRehearsalDone
  split
  · split
    · exact ShapeOut.next h
    · exact ShapeOut.next (State.rehearsed_shape h)
  · exact ShapeOut.next h

theorem execRekeyAll_shape {x0} (h : s.Shape) : ShapeOut (execRekeyAll x0 s) :=
  .next (State.windowWrite_shape h)

theorem execReleaseCaptures_shape {x0 x1} (h : s.Shape) : ShapeOut (execReleaseCaptures x0 x1 s) := by
  unfold execReleaseCaptures
  split
  · exact ShapeOut.next (State.windowWrite_shape h)
  · exact ShapeOut.next (State.windowWrite_shape h)
  · exact ShapeOut.next (State.windowWrite_shape h)
  · exact ShapeOut.next (State.windowWrite_shape h)
  · exact ShapeOut.next h

theorem execReplayTimeout_shape {x0} (h : s.Shape) : ShapeOut (execReplayTimeout x0 s) := by
  unfold execReplayTimeout
  dsimp only
  split
  · exact ShapeOut.next (State.replayAll_shape (State.bump_shape h))
  · exact ShapeOut.next h

theorem execResetAssert_shape (s : State) : ShapeOut (execResetAssert s) := .next (State.inReset_shape s)

theorem execResetRelease_shape {x0 x1} (h : s.Shape) : ShapeOut (execResetRelease x0 x1 s) := by
  unfold execResetRelease
  split
  · exact ShapeOut.next h
  · exact ShapeOut.next State.releaseReset_shape

theorem execRingEnable_shape {x0 x1} (h : s.Shape) : ShapeOut (execRingEnable x0 x1 s) :=
  .next (State.windowWrite_shape h)

theorem execRingReadWrite_shape {x0 x1} (h : s.Shape) : ShapeOut (execRingReadWrite x0 x1 s) := by
  unfold execRingReadWrite
  exact ShapeOut.next (State.windowWrite_shape (State.windowWrite_shape h))

theorem execRingSuspend_shape (h : s.Shape) : ShapeOut (execRingSuspend s) := by
  unfold execRingSuspend
  split
  · exact ShapeOut.next (State.ringSuspendAct_shape h)
  · exact ShapeOut.next h

theorem execRootRelock_shape {x0} (h : s.Shape) : ShapeOut (execRootRelock x0 s) := by
  unfold execRootRelock
  split
  · exact ShapeOut.next h
  · split
    · exact ShapeOut.next (State.onRoot_shape h)
    · exact ShapeOut.next (State.retireRoot_shape h)

theorem execRootRetire_shape {x0} (h : s.Shape) : ShapeOut (execRootRetire x0 s) := by
  unfold execRootRetire
  dsimp only
  split
  · exact ShapeOut.next (State.retireRoot_shape h)
  · exact ShapeOut.next h

theorem execRootSwitch_shape (h : s.Shape) : ShapeOut (execRootSwitch s) := by
  unfold execRootSwitch
  split
  · exact ShapeOut.next (State.switchRoot_shape h)
  · exact ShapeOut.next h

theorem execSafetyResume_shape {x0} (h : s.Shape) : ShapeOut (execSafetyResume x0 s) :=
  .next (State.windowWrite_shape h)

theorem execSaveComplete_shape {x0} (h : s.Shape) : ShapeOut (execSaveComplete x0 s) := by
  unfold execSaveComplete
  split
  · exact ShapeOut.next (State.endSave_shape h)
  · exact ShapeOut.next h

theorem execScrubNow_shape {x0} (h : s.Shape) : ShapeOut (execScrubNow x0 s) :=
  .next (State.windowWrite_shape h)

theorem execScrubRead_shape {x0 x1 x2} (h : s.Shape) : ShapeOut (execScrubRead x0 x1 x2 s) := by
  unfold execScrubRead
  split
  · exact ShapeOut.next h
  · split
    · split
      · exact ShapeOut.next (State.onMem_shape h)
      · extract_lets a s1
        have k1 : State.Shape s1 := State.readCw_shape h
        split
        · exact ShapeOut.next (State.onMem_shape k1)
        · exact ShapeOut.next (State.onMem_shape (State.bump_shape k1))

theorem execSeedFlit_shape {x0 x1 x2} (h : s.Shape) : ShapeOut (execSeedFlit x0 x1 x2 s) := by
  unfold execSeedFlit
  exact ShapeOut.next (State.recvFlit_shape h (fun t ht => .foldl ht (fun t x ht => State.seedEntry_shape ht)))

theorem execSeedReqFlit_shape {x0 x1} (h : s.Shape) : ShapeOut (execSeedReqFlit x0 x1 s) := by
  unfold execSeedReqFlit
  exact ShapeOut.next (State.recvLink_shape h (fun t ht => .ite (fun _ => State.seedSet_shape ht) (fun _ => ht)))

theorem execSeedTimeout_shape (h : s.Shape) : ShapeOut (execSeedTimeout s) := by
  unfold execSeedTimeout
  dsimp only
  split
  · exact ShapeOut.next (.ite (fun _ => State.enterService_shape (State.raise_shape (State.onPeers_shape h id))) (fun _ => State.raise_shape (State.onPeers_shape h id)))
  · exact ShapeOut.next h

theorem execSelfTestDone_shape {x0 x1} (h : s.Shape) : ShapeOut (execSelfTestDone x0 x1 s) := by
  unfold execSelfTestDone
  split
  · exact ShapeOut.next h
  · split
    · exact ShapeOut.next (State.onEngine_shape h)
    · exact ShapeOut.next (State.engHard_shape h)

theorem execSensorLinkDown_shape {x0} (h : s.Shape) : ShapeOut (execSensorLinkDown x0 s) := by
  unfold execSensorLinkDown
  split
  · exact ShapeOut.next (State.sensorDown_shape h)
  · exact ShapeOut.next h

theorem execSensorLinkUp_shape {x0} (h : s.Shape) : ShapeOut (execSensorLinkUp x0 s) := by
  unfold execSensorLinkUp
  dsimp only
  split
  · exact ShapeOut.next (State.raise_shape (State.onPort_shape h (fun _ hq => hq)))
  · exact ShapeOut.next h

theorem execSlotCancel_shape {x0} (h : s.Shape) : ShapeOut (execSlotCancel x0 s) :=
  .next (State.windowWrite_shape h)

theorem execSlotLoad_shape {x0} (h : s.Shape) : ShapeOut (execSlotLoad x0 s) :=
  .next (State.windowWrite_shape h)

theorem execSlowDeadlineMiss_shape (h : s.Shape) : ShapeOut (execSlowDeadlineMiss s) := by
  unfold execSlowDeadlineMiss
  dsimp only
  split
  · exact ShapeOut.next h
  · split
    · exact ShapeOut.next h
    · exact ShapeOut.next (State.onSolver_shape (State.error_shape (State.onCom_shape (State.raise_shape (State.bump_shape (State.slowResult_shape h))))))

theorem execSmbAlertResponse_shape (h : s.Shape) : ShapeOut (execSmbAlertResponse s) := by
  unfold execSmbAlertResponse
  split
  · exact ShapeOut.next (State.send_shape (State.onSafety_shape h rfl))
  · exact ShapeOut.next h

theorem State.smbRead_shape {x1} (h : s.Shape) : (State.smbRead s x1).1.Shape := by
  unfold State.smbRead
  split
  · exact State.readValue_shape h
  · split
    · exact State.deny_shape h
    · exact State.late_shape h

theorem execSmbReadReg_shape {x0} (h : s.Shape) : ShapeOut (execSmbReadReg x0 s) := by
  unfold execSmbReadReg
  dsimp only
  split
  · exact ShapeOut.next h
  · split
    · exact ShapeOut.next (State.send_shape h)
    · exact ShapeOut.next (State.send_shape (State.smbRead_shape h))

theorem execSmbWriteReg_shape {x0 x1 x2} (h : s.Shape) : ShapeOut (execSmbWriteReg x0 x1 x2 s) := by
  unfold execSmbWriteReg
  dsimp only
  split
  · exact ShapeOut.next h
  · split
    · exact ShapeOut.next (State.send_shape h)
    · split
      · exact ShapeOut.next (State.send_shape (State.late_shape h))
      · split
        · exact ShapeOut.next (State.send_shape h)
        · exact ShapeOut.next (State.writeAccess_shape h)

theorem execSramReadError_shape {x0 x1 x2 x3 x4} (h : s.Shape) : ShapeOut (execSramReadError x0 x1 x2 x3 x4 s) := by
  unfold execSramReadError
  extract_lets u g s1 s2 s3
  have k1 : State.Shape s1 := State.raise_shape (State.eccCapture_shape (State.bump_shape h))
  have k2 : State.Shape s2 := .ite (fun _ => State.engEvent_shape k1) (fun _ => State.poisonCommons_shape k1)
  have k3 : State.Shape s3 := State.groupEvent_shape k2
  split
  · exact ShapeOut.next h
  · split
    · split
      · exact ShapeOut.next (State.hardFail_shape (State.raise_shape (State.eccCapture_shape h)))
      · exact ShapeOut.next (State.raise_shape (State.eccCapture_shape (State.bump_shape h)))
    · split
      · exact ShapeOut.next (State.groupEvent_shape (State.raise_shape (State.eccCapture_shape (State.bump_shape h))))
      · exact ShapeOut.next (.ite (fun _ => State.groupFault_shape k3) (fun _ => k3))

theorem execThermalTrip_shape (h : s.Shape) : ShapeOut (execThermalTrip s) := by
  unfold execThermalTrip
  split
  · exact ShapeOut.next (State.domainFault_shape h)
  · exact ShapeOut.next h

theorem execTimeFlit_shape {x0 x1 x2 x3 x4} (h : s.Shape) : ShapeOut (execTimeFlit x0 x1 x2 x3 x4 s) := by
  unfold execTimeFlit
  exact ShapeOut.next (State.recvLink_shape h (fun t ht => .ite (fun _ => State.takeTime_shape ht) (fun _ => ht)))

theorem execTimeFlitSend_shape {x0 x1 x2} (h : s.Shape) : ShapeOut (execTimeFlitSend x0 x1 x2 s) := by
  unfold execTimeFlitSend
  dsimp only
  split
  · exact ShapeOut.next h
  · exact ShapeOut.next (State.onPeer_shape (State.sendLink_shape h) (fun _ hq => hq))

theorem execTimeSetGo_shape {x0} (h : s.Shape) : ShapeOut (execTimeSetGo x0 s) :=
  .next (State.windowWrite_shape h)

theorem execTimeSnap_shape {x0} (h : s.Shape) : ShapeOut (execTimeSnap x0 s) :=
  .next (State.windowWrite_shape h)

theorem execTrickleWrite_shape {x0} (h : s.Shape) : ShapeOut (execTrickleWrite x0 s) := by
  unfold execTrickleWrite
  split
  · exact ShapeOut.next h
  · split
    · exact ShapeOut.next h
    · split
      · exact ShapeOut.next (State.writePage_shape h)
      · exact ShapeOut.next (State.raise_shape (State.keeperFail_shape h))

theorem execUpdateFlit_shape {x0 x1 x2} (h : s.Shape) : ShapeOut (execUpdateFlit x0 x1 x2 s) := by
  unfold execUpdateFlit
  exact ShapeOut.next (State.recvLink_shape h (fun t ht => .ite (fun _ => State.update_shape ht) (fun _ => ht)))

theorem execWmHiSeenClear_shape {x0 x1} (h : s.Shape) : ShapeOut (execWmHiSeenClear x0 x1 s) :=
  .next (State.windowWrite_shape h)

theorem execWriteFlit_shape {x0 x1 x2 x3} (h : s.Shape) : ShapeOut (execWriteFlit x0 x1 x2 x3 s) := by
  unfold execWriteFlit
  exact ShapeOut.next (State.recvFlit_shape h (fun t ht => .ite (fun _ => State.remoteWrite_shape ht) (fun _ => State.sendWrite_shape ht)))

theorem tick_shape (h : s.Shape) : (tick s).Shape := by
  unfold tick
  dsimp only
  split
  · exact h
  · exact .foldl (.foldl (State.onTl_shape h) (fun t x ht => State.transmitOne_shape ht)) (fun t x ht => State.sendNext_shape ht)

end

end Sys2Proof.Machine
end

section
/-! PROOFS. Every step keeps the units and the fixed lists (O8). -/

namespace Sys2Proof.Machine
open Sys2Proof

/-! ### Every command keeps the fixed lists -/

/-- Whether a command's list names no component with a fixed list. -/
def shapeFree (c : Instr) : Bool := (touched c).all shapeless.contains

theorem exec_shape_of_free {s : State} {c : Instr} (hs : s.Shape) (e : shapeFree c = true) : ShapeOut (exec c s) := by
  obtain ⟨t, ht, ho⟩ := exec_only s c
  exact ⟨t, ht, .only ho hs e⟩

theorem exec_shape_of_not_free {s : State} {c : Instr} (hs : s.Shape) (e : shapeFree c = false) : ShapeOut (exec c s) := by
  cases c with
  | resetRelease straps refB => exact execResetRelease_shape hs
  | pwrOkLoss => exact execPwrOkLoss_shape s
  | bootStepEnd o => exact execBootStepEnd_shape hs
  | lockTimeout => exact execLockTimeout_shape hs
  | inService => exact execInService_shape hs
  | beatBoundary => exact execBeatBoundary_shape hs
  | deadlineMissed dest => exact execDeadlineMissed_shape hs
  | frameBoundary o => exact execFrameBoundary_shape hs
  | rootSwitch => exact execRootSwitch_shape hs
  | rootRelock ok => exact execRootRelock_shape hs
  | rootRetire root => exact execRootRetire_shape hs
  | frameReceive port bytes fcsOk count phase => exact execFrameReceive_shape hs
  | pdelayReqSend port => exact execPdelayReqSend_shape hs
  | portEvent port linkLost relockFailed => exact execPortEvent_shape hs
  | parserTakeItem m => exact execParserTakeItem_shape hs
  | parserExtract m dst off width little => exact execParserExtract_shape hs
  | parserExtracts m dst off width little => exact execParserExtracts_shape hs
  | parserAlu m op dst src b => exact execParserAlu_shape hs
  | parserBranch m cond a b target => exact execParserBranch_shape hs
  | parserLoop m count len stride => exact execParserLoop_shape hs
  | parserScale m dst src mult shift => exact execParserScale_shape hs
  | parserPolar m dst range azimuth elevation => exact execParserPolar_shape hs
  | parserTime m op => exact execParserTime_shape hs
  | parserEmit m => exact execParserEmit_shape hs
  | parserImage m line offset start len marker => exact execParserImage_shape hs
  | parserMotion m kind src => exact execParserMotion_shape hs
  | parserDrop m => exact execParserDrop_shape hs
  | parserEnd m => exact execParserEnd_shape hs
  | itemRelease => exact execItemRelease_shape hs
  | deskew => exact execDeskew_shape hs
  | redeskew => exact execRedeskew_shape hs
  | ageingPass pool => exact execAgeingPass_shape hs
  | podMerge key => exact execPodMerge_shape hs
  | deltaApply => exact execDeltaApply_shape hs
  | recordTransmit dest => exact execRecordTransmit_shape hs
  | engineEvent e cause => exact execEngineEvent_shape hs
  | engineHang e => exact execEngineHang_shape hs
  | selfTestDone e ok => exact execSelfTestDone_shape hs
  | engAssignShadow e ctx => exact execEngAssignShadow_shape hs
  | engSwitch e => exact execEngSwitch_shape hs
  | engRelease e => exact execEngRelease_shape hs
  | engRadish e inst => exact execEngRadish_shape hs
  | engRetire e => exact execEngRetire_shape hs
  | radishAnswer e ok => exact execRadishAnswer_shape hs
  | radishTimeout e => exact execRadishTimeout_shape hs
  | moverCopy ch => exact execMoverCopy_shape hs
  | moverFill ch => exact execMoverFill_shape hs
  | moverGather ch => exact execMoverGather_shape hs
  | moverScatter ch => exact execMoverScatter_shape hs
  | moverDeliver ch => exact execMoverDeliver_shape hs
  | fastDeadlineMiss => exact execFastDeadlineMiss_shape hs
  | slowDeadlineMiss => exact execSlowDeadlineMiss_shape hs
  | slotLoad ini => exact execSlotLoad_shape hs
  | slotCancel ini => exact execSlotCancel_shape hs
  | rehearsalDone r => exact execRehearsalDone_shape hs
  | dramRead ch addr first second third => exact execDramRead_shape hs
  | dramRepair ch => exact execDramRepair_shape hs
  | dramRecalibrate ch ok => exact execDramRecalibrate_shape hs
  | scrubRead first second third => exact execScrubRead_shape hs
  | sramReadError unit bank addr uncorrectable again => exact execSramReadError_shape hs
  | meshDoubleBit node index => exact execMeshDoubleBit_shape hs
  | peerSignalDetect p present => exact execPeerSignalDetect_shape hs
  | peerTrainingDone p ok => exact execPeerTrainingDone_shape hs
  | peerAligned p => exact execPeerAligned_shape hs
  | helloSend p => exact execHelloSend_shape hs
  | helloFlit p h b => exact execHelloFlit_shape hs
  | updateFlit p h b => exact execUpdateFlit_shape hs
  | laneSwapFlit p h lane first => exact execLaneSwapFlit_shape (x3 := first) hs
  | seedReqFlit p h => exact execSeedReqFlit_shape hs
  | refreshReqFlit p h => exact execRefreshReqFlit_shape hs
  | timeFlitSend p count phase => exact execTimeFlitSend_shape hs
  | timeFlit p h b count phase => exact execTimeFlit_shape hs
  | nakFlit p h => exact execNakFlit_shape hs
  | replayTimeout p => exact execReplayTimeout_shape hs
  | laneLockLoss p lane => exact execLaneLockLoss_shape hs
  | portDown p => exact execPortDown_shape hs
  | commitFlit p h records => exact execCommitFlit_shape hs
  | peaFlit p h b => exact execPeaFlit_shape hs
  | writeFlit p h dest b => exact execWriteFlit_shape hs
  | mirrorFlit p h entries => exact execMirrorFlit_shape hs
  | seedFlit p h entries => exact execSeedFlit_shape hs
  | seedTimeout => exact execSeedTimeout_shape hs
  | poseSample => exact execPoseSample_shape hs
  | comparisonComplete => exact execComparisonComplete_shape hs
  | compareSkipped => exact execCompareSkipped_shape hs
  | recheckEnd slot differs => exact execRecheckEnd_shape hs
  | recheckTimeout slot => exact execRecheckTimeout_shape hs
  | heartbeatStop => exact execHeartbeatStop_shape hs
  | powerSag internal => exact execPowerSag_shape hs
  | saveComplete us => exact execSaveComplete_shape hs
  | trickleWrite ok => exact execTrickleWrite_shape hs
  | thermalTrip => exact execThermalTrip_shape hs
  | powerDomainFault d => exact execPowerDomainFault_shape hs
  | pushWord ini off words => exact execPushWord_shape hs
  | ringSuspend => exact execRingSuspend_shape hs
  | registerWrite ini off bytes => exact execRegisterWrite_shape hs
  | loRead ini off enables => exact execLoRead_shape hs
  | hiWrite ini off data => exact execHiWrite_shape hs
  | aliasWrite ini block word bit data => exact execAliasWrite_shape hs
  | blockLock ini block => exact execBlockLock_shape hs
  | lockAll ini => exact execLockAll_shape hs
  | timeSnap ini => exact execTimeSnap_shape hs
  | timeSetGo ini => exact execTimeSetGo_shape hs
  | portSpeedWrite ini port data => exact execPortSpeedWrite_shape hs
  | fdbFlush ini => exact execFdbFlush_shape hs
  | ingestFlush ini mask => exact execIngestFlush_shape hs
  | wmHiSeenClear ini mask => exact execWmHiSeenClear_shape hs
  | rekeyAll ini => exact execRekeyAll_shape hs
  | marginReset ini => exact execMarginReset_shape hs
  | escapeEventClear ini mask => exact execEscapeEventClear_shape hs
  | releaseCaptures ini block => exact execReleaseCaptures_shape hs
  | coldAll ini => exact execColdAll_shape hs
  | placeEvaluate ini => exact execPlaceEvaluate_shape hs
  | scrubNow ini => exact execScrubNow_shape hs
  | peerRetry ini mask => exact execPeerRetry_shape hs
  | refreshMirror ini => exact execRefreshMirror_shape hs
  | chipCoordWrite ini data => exact execChipCoordWrite_shape hs
  | safetyResume ini => exact execSafetyResume_shape hs
  | forceHold ini => exact execForceHold_shape hs
  | faultClear ini data => exact execFaultClear_shape hs
  | hqFlush ini => exact execHqFlush_shape hs
  | cplEnable ini on => exact execCplEnable_shape hs
  | cplHeadWrite ini data => exact execCplHeadWrite_shape hs
  | ringEnable ini on => exact execRingEnable_shape hs
  | ringReadWrite ini data => exact execRingReadWrite_shape hs
  | outPost ini => exact execOutPost_shape hs
  | inAck ini => exact execInAck_shape hs
  | advanceFw ini => exact execAdvanceFw_shape hs
  | advanceImage ini ok => exact execAdvanceImage_shape hs
  | debugChallenge ini random => exact execDebugChallenge_shape hs
  | debugUnlock ini certOk sigOk => exact execDebugUnlock_shape hs
  | fuseProgram ini => exact execFuseProgram_shape hs
  | marrowForget ini => exact execMarrowForget_shape hs
  | smbReadReg off => exact execSmbReadReg_shape hs
  | smbWriteReg off data pecOk => exact execSmbWriteReg_shape hs
  | smbAlertResponse => exact execSmbAlertResponse_shape hs
  | resetAssert => exact execResetAssert_shape s
  | sensorLinkUp port => exact execSensorLinkUp_shape hs
  | sensorLinkDown port => exact execSensorLinkDown_shape hs
  | delayReqSend => exact execDelayReqSend_shape hs
  | peerSerdesPllLoss p relocked => exact execPeerSerdesPllLoss_shape hs
  | heartbeatToggle => exact execHeartbeatToggle_shape hs
  | keeperRecordWrite ok => exact execKeeperRecordWrite_shape hs
  | _ => exact Bool.noConfusion e

theorem exec_shape {s : State} {c : Instr} (hs : s.Shape) : ShapeOut (exec c s) := by
  cases e : shapeFree c with
  | true => exact exec_shape_of_free hs e
  | false => exact exec_shape_of_not_free hs e

theorem step_shape {s t : State} (hs : s.Shape) (h : step s = .next t) : t.Shape := by
  obtain ⟨-, rfl⟩ | ⟨c, rest, -, he⟩ := step_cases h
  · exact tick_shape hs
  · obtain ⟨u, hu, hk⟩ := exec_shape (s := { s with pending := rest }) (c := c) hs
    obtain rfl : u = t := Host.Outcome.next.inj (hu.symm.trans he)
    exact hk

theorem step_units {s t : State} (hs : s.Units) (h : step s = .next t) : t.Units := by
  obtain ⟨rest, hk⟩ := step_keepsReset h
  exact hk.units hs

/-- Settles O8: units by what each step keeps, the fixed lists by a rule per operation. -/
theorem unitsAndListsInvariant : Obligations.UnitsAndListsInvariant :=
  ⟨fun _ _ hs h => step_units hs h, fun _ _ hs h => step_shape hs h⟩

end Sys2Proof.Machine
end

section
/-! PROOFS. What one instruction does to a parser machine (R137 to R139): the rules that O20 to O23 share. -/

namespace Sys2Proof
open Machine

/-! ### A machine's registers and fields -/

section
variable {p : ParserMachine} {i : IngestItem}

theorem ParserMachine.put_reg_same (h : p.Shape) {d : Nat} (hd : d < 32) (v : BitVec 64) : (p.put d v).reg d = v :=
  lgetD_lmod_same _ _ _ _ (h.symm ▸ hd)

theorem ParserMachine.put_reg_ne (d : Nat) (v : BitVec 64) {r : Nat} (h : r ≠ d) : (p.put d v).reg r = p.reg r :=
  lgetD_lmod_ne _ _ _ _ h

theorem ParserMachine.field_within {off w : Nat} {le : Bool} (h : p.base + off + cdiv w 8 ≤ i.bytes.length) :
    p.field i off w le =
      some ((if le then leAt i.bytes (p.base + off) (cdiv w 8) else beAt i.bytes (p.base + off) (cdiv w 8)) % 2 ^ w) :=
  if_neg (Nat.not_lt.mpr h)

theorem ParserMachine.field_beyond {off w : Nat} {le : Bool} (h : i.bytes.length < p.base + off + cdiv w 8) : p.field i off w le = none :=
  if_pos h

/-- Machine `p` after an instruction that made it `q`: one instruction further, the loops that end here run again or are left. -/
def ParserMachine.after (p q : ParserMachine) : ParserMachine :=
  { q with loops := (closeLoops q.loops (q.pc + 1) q.base).1, pc := (closeLoops q.loops (q.pc + 1) q.base).2.1
           base := (closeLoops q.loops (q.pc + 1) q.base).2.2, count := p.count + 1 }

theorem ParserMachine.after_of_no_loops {q : ParserMachine} (h : q.loops = []) :
    (p.after q).loops = [] ∧ (p.after q).pc = q.pc + 1 ∧ (p.after q).base = q.base := by
  unfold ParserMachine.after
  rw [h]
  exact ⟨rfl, rfl, rfl⟩

end

end Sys2Proof

namespace Sys2Proof.Machine
open Sys2Proof

section
variable {s t : State} {m : Nat} {i : IngestItem}

/-! ### One machine of the sixteen -/

theorem State.Units.machines (h : s.Units) : s.ing.machines.length = 16 := by
  simp only [State.Units, List.cons.injEq] at h
  obtain ⟨-, -, hm, -⟩ := h
  exact hm

theorem State.Units.machine_lt (h : s.Units) (m : Fin 16) : m.val < s.ing.machines.length := h.machines.symm ▸ m.isLt

theorem State.machine_onMachine_same (f : ParserMachine → ParserMachine) (h : m < s.ing.machines.length) :
    (s.onMachine m f).machine m = f (s.machine m) := lgetD_lmod_same _ _ _ _ h

theorem State.machine_onMachine_ne (f : ParserMachine → ParserMachine) {n : Nat} (h : n ≠ m) : (s.onMachine m f).machine n = s.machine n :=
  lgetD_lmod_ne _ _ _ _ h

theorem State.machine_congr (h : t.ing.machines = s.ing.machines) (n : Nat) : t.machine n = s.machine n := by
  simp only [State.machine, h]

/-! ### The outcomes of an instruction -/

section
variable {act : ParserMachine → IngestItem → Option ParserMachine}

theorem State.parse_runs (h : s.runs m i) {q : ParserMachine} (ha : act (s.machine m) i = some q) :
    s.parse m act = s.onMachine m (fun _ => (s.machine m).after q) := by
  obtain ⟨⟨hi, he⟩, hc⟩ := h
  simp only [State.parse, hi, he, ha, if_neg (show ¬ 65536 < (s.machine m).count + 1 by omega), Bool.false_eq_true, if_false]
  rfl

/-- R139: the instruction after the 65,536th abandons the item, whatever it is. -/
theorem State.parse_overrun (h : s.parsing m i) (hc : 65536 ≤ (s.machine m).count) : s.parse m act = s.abandon m := by
  obtain ⟨hi, he⟩ := h
  simp only [State.parse, hi, he, if_pos (show 65536 < (s.machine m).count + 1 by omega), Bool.false_eq_true, if_false]

/-- R139: so does one that reads beyond the item's end. -/
theorem State.parse_beyond (h : s.parsing m i) (ha : act (s.machine m) i = none) : s.parse m act = s.abandon m := by
  obtain ⟨hi, he⟩ := h
  simp only [State.parse, hi, he, ha, ite_self, Bool.false_eq_true, if_false]

end

/-- Machine `m` has run one instruction where only the machine has changed. -/
theorem parserRan_onMachine (hm : m < s.ing.machines.length) {f : ParserMachine → ParserMachine}
    (hc : (f (s.machine m)).count = (s.machine m).count + 1) (hi : (f (s.machine m)).item = (s.machine m).item)
    (hp : (f (s.machine m)).port = (s.machine m).port) : ParserRan s (s.onMachine m f) m := by
  have hq := State.machine_onMachine_same f hm
  refine ⟨State.onMachine_only (Only.refl _ s) (by decide), rfl, fun n => State.machine_onMachine_ne _, ?_, ?_⟩
  · rw [hq, hc]
  · rw [hq, hi, hp]
    exact ⟨rfl, rfl⟩

/-- What an instruction that makes its machine `q` leaves of the rest, and what the machine then is. -/
theorem State.parse_ran (hu : s.Units) {m : Fin 16} (h : s.runs m i) {act : ParserMachine → IngestItem → Option ParserMachine}
    {q : ParserMachine} (ha : act (s.machine m) i = some q) (hi : q.item = (s.machine m).item) (hp : q.port = (s.machine m).port) :
    ParserRan s (s.parse m act) m ∧ (s.parse m act).machine m = (s.machine m).after q := by
  rw [State.parse_runs h ha]
  exact ⟨parserRan_onMachine (f := fun _ => (s.machine m).after q) (hu.machine_lt m) rfl hi hp, State.machine_onMachine_same _ (hu.machine_lt m)⟩

/-- An instruction that runs as `State.parse` does. -/
theorem exec_ran (hu : s.Units) {m : Fin 16} (h : s.runs m i) {c : Instr} {act : ParserMachine → IngestItem → Option ParserMachine}
    {q : ParserMachine} (hc : exec c s = .next (s.parse m act)) (ha : act (s.machine m) i = some q)
    (hi : q.item = (s.machine m).item := by rfl) (hp : q.port = (s.machine m).port := by rfl) :
    ∃ t, exec c s = .next t ∧ ParserRan s t m ∧ t.machine m = (s.machine m).after q :=
  ⟨_, hc, State.parse_ran hu h ha hi hp⟩

/-- A machine that goes on from where it was goes on to the next instruction. -/
theorem parserNext_of_after {q : ParserMachine} (ht : t.machine m = (s.machine m).after q) (hl : q.loops = (s.machine m).loops)
    (hc : q.pc = (s.machine m).pc) (hb : q.base = (s.machine m).base) : ParserNext s t m := by
  intro h
  rw [ht, ← hc, ← hb]
  exact ParserMachine.after_of_no_loops (hl.trans h)

/-- An instruction that only puts a value into a register. -/
theorem State.parse_wrote (hu : s.Units) (hs : s.Shape) {m : Fin 16} (h : s.runs m i)
    {act : ParserMachine → IngestItem → Option ParserMachine} {d : Nat} (hd : d < 32) {v : BitVec 64}
    (ha : act (s.machine m) i = some ((s.machine m).put d v)) : ParserWrote s (s.parse m act) m d v := by
  obtain ⟨hr, hq⟩ := State.parse_ran hu h ha rfl rfl
  refine ⟨hr, parserNext_of_after hq rfl rfl rfl, ?_, fun r hn => ?_, ?_, ?_, ?_⟩ <;> rw [hq]
  · exact ParserMachine.put_reg_same (State.machine_shape hs) hd v
  · exact ParserMachine.put_reg_ne d v hn
  · rfl
  · exact h.1.2
  · rfl

/-- An item abandoned (R139). -/
theorem State.abandon_abandoned (hw : regsWf s.regs = true) (hm : m < s.ing.machines.length) : ParserAbandoned s (s.abandon m) m := by
  have hne : Reg.PARSE_DROPS (s.machine m).port ≠ Reg.INGEST_EVENTS := by simp only [Reg.PARSE_DROPS, Reg.INGEST_EVENTS]; omega
  have hi : (s.abandon m).ing = (s.onMachine m (fun _ => {})).ing := by simp only [State.abandon, State.raise_ing, State.bump_ing]
  have hw' : regsWf (s.onMachine m (fun _ => {})).regs = true := hw
  refine ⟨State.abandon_only (Only.refl _ s) (by decide), by rw [hi]; rfl, ?_, fun n hn => ?_, ?_, ?_⟩
  · rw [State.machine_congr (congrArg Ingest.machines hi)]
    exact State.machine_onMachine_same _ hm
  · rw [State.machine_congr (congrArg Ingest.machines hi)]
    exact State.machine_onMachine_ne _ hn
  · rw [State.abandon, State.rget_raise (State.wf_bump hw'), if_neg hne, State.rget_bump hw', if_pos rfl]
    rfl
  · rw [State.abandon, State.rbit_raise (State.wf_bump hw') (by decide), decide_eq_true ⟨rfl, rfl⟩, Bool.or_true]

/-! ### A free value taken before the instruction -/

theorem ParserRan.of_took (h : ParserRan s.took t m) : ParserRan s t m where
  frame := Only.trans (State.took_only (Only.refl _ s) (by decide)) h.frame
  ingest := h.ingest
  others := h.others
  count := h.count
  item := h.item

theorem ParserWrote.of_took {d : Nat} {v : BitVec 64} (h : ParserWrote s.took t m d v) : ParserWrote s t m d v := ⟨h.1.of_took, h.2⟩

theorem ParserAbandoned.of_took (h : ParserAbandoned s.took t m) : ParserAbandoned s t m where
  frame := Only.trans (State.took_only (Only.refl _ s) (by decide)) h.frame
  ingest := h.ingest
  idle := h.idle
  others := h.others
  drops := h.drops
  event := h.event

end

end Sys2Proof.Machine
end

section
/-! PROOFS. The register instructions of a parser machine (O20), and the items it abandons (O21). -/

namespace Sys2Proof

/-- The bytes of the payload that a TIME load of each kind of source reads (R146 to R148). -/
def TimeSource.loadBytes : TimeSource → Nat
  | .payloadPtp => 10
  | .payloadNs => 8
  | .payloadRtp => 4
  | .arrival => 0

end Sys2Proof

namespace Sys2Proof.Machine
open Sys2Proof

section
variable {s : State} {m : Fin 16} {i : IngestItem}

/-! ### Register instructions -/

theorem exec_parserAlu (op : AluOp) (dst src : Fin 32) (b : ParserArg) :
    exec (.parserAlu m op dst src b) s =
      .next ((if (op = .shl ∨ op = .shr) ∧ 64 ≤ ((s.machine m).arg b).toNat then s.took else s).parse m
        (fun p _ => some (p.put dst (aluResult op (p.reg src) (p.arg b) s.freeNat)))) := rfl

/-- Every operation of the ALU, a shift of 64 or more by the free value that it takes. -/
theorem parserAlu_wrote (hu : s.Units) (hs : s.Shape) (h : s.runs m i) (op : AluOp) (dst src : Fin 32) (b : ParserArg) :
    ∃ t, exec (.parserAlu m op dst src b) s = .next t ∧
      ParserWrote s t m dst (aluResult op ((s.machine m).reg src) ((s.machine m).arg b) s.freeNat) := by
  rw [exec_parserAlu]
  split
  · exact ⟨_, rfl, (State.parse_wrote (s := s.took) hu hs h dst.isLt rfl).of_took⟩
  · exact ⟨_, rfl, State.parse_wrote hu hs h dst.isLt rfl⟩

/-- POLAR leaves z, y and x in three registers in a row, and every other register as it was. -/
theorem ParserMachine.put_three {p : ParserMachine} (h : p.Shape) {d : Nat} (hd : d < 30) (x y z : BitVec 64) :
    let q := ((p.put d x).put (d + 1) y).put (d + 2) z
    q.reg (d + 2) = z ∧ q.reg (d + 1) = y ∧ q.reg d = x ∧ ∀ k : Nat, k < d ∨ d + 2 < k → q.reg k = p.reg k := by
  refine ⟨ParserMachine.put_reg_same (ParserMachine.put_shape (ParserMachine.put_shape h)) (by omega) z, ?_, ?_, fun k hk => ?_⟩
  · rw [ParserMachine.put_reg_ne _ _ (by omega)]
    exact ParserMachine.put_reg_same (ParserMachine.put_shape h) (by omega) y
  · rw [ParserMachine.put_reg_ne _ _ (by omega), ParserMachine.put_reg_ne _ _ (by omega)]
    exact ParserMachine.put_reg_same h (by omega) x
  · rw [ParserMachine.put_reg_ne _ _ (by omega), ParserMachine.put_reg_ne _ _ (by omega), ParserMachine.put_reg_ne _ _ (by omega)]

/-- Settles O20: each instruction is one run of `State.parse` whose result for the machine is written out. -/
theorem parserWritesRegisters : Obligations.ParserWritesRegisters := by
  intro s m i hu hs h
  refine ⟨fun dst off w le hw => ?_, fun dst src b => ?_, fun dst src mult shift => ?_, fun dst r a e hd => ?_, fun src => ?_,
    fun off le ha => ?_⟩
  · have hf := ParserMachine.field_within (le := le) hw
    exact ⟨⟨_, rfl, State.parse_wrote hu hs h dst.isLt (by rw [hf]; rfl)⟩, ⟨_, rfl, State.parse_wrote hu hs h dst.isLt (by rw [hf]; rfl)⟩⟩
  · have wrote (op : AluOp) := parserAlu_wrote hu hs h op dst src b
    have shift (op : AluOp) {f : BitVec 64 → Nat → BitVec 64}
        (hf : ∀ x y : BitVec 64, y.toNat < 64 → aluResult op x y s.freeNat = f x y.toNat) :
        ∃ t v, exec (.parserAlu m op dst src b) s = .next t ∧ ParserWrote s t m dst v ∧
          (((s.machine m).arg b).toNat < 64 → v = f ((s.machine m).reg src) ((s.machine m).arg b).toNat) := by
      obtain ⟨t, ht, hw⟩ := wrote op
      exact ⟨t, _, ht, hw, hf _ _⟩
    exact ⟨wrote .add, wrote .sub, wrote .and, wrote .or, wrote .xor, wrote .mul, shift .shl (fun _ _ h => if_pos h),
      shift .shr (fun _ _ h => if_pos h)⟩
  · exact ⟨_, rfl, State.parse_wrote hu hs h dst.isLt rfl⟩
  · obtain ⟨t, ht, hr, hq⟩ := exec_ran hu h (c := .parserPolar m dst r a e) rfl rfl
    refine ⟨t, ht, hr, parserNext_of_after hq rfl rfl rfl, ?_⟩
    rw [hq]
    exact ParserMachine.put_three (State.machine_shape hs) hd _ _ _
  · exact ⟨_, rfl, State.parse_wrote hu hs h (by decide) rfl⟩
  · obtain ⟨t, ht, hr, hq⟩ := exec_ran hu h (c := .parserTime m (.load off le)) (q := { s.machine m with baseTime := some i.arrival }) rfl
      (by simp only [ha])
    refine ⟨t, ht, hr, parserNext_of_after hq rfl rfl rfl, ?_⟩
    rw [hq]
    exact ⟨rfl, rfl, rfl⟩

/-! ### Items abandoned -/

theorem exec_parserDrop (h : s.parsing m i) : exec (.parserDrop m) s = .next (s.abandon m) :=
  if_pos ⟨by rw [h.1]; rfl, by rw [h.2]; exact Bool.false_ne_true⟩

/-- R139: a machine that has run its 65,536 instructions abandons the item at the next, whichever that is. -/
theorem exec_overrun (h : s.parsing m i) (hc : 65536 ≤ (s.machine m).count) {c : Instr} (hp : parserOf c = some m) :
    exec c s = .next (s.abandon m) ∨ exec c s = .next (s.took.abandon m) := by
  have gone {act} : Host.Outcome.next (s.parse m act) = (.next (s.abandon m) : Out) := congrArg _ (State.parse_overrun h hc)
  cases c with
  | parserExtract | parserExtracts | parserLoop | parserScale | parserPolar | parserTime | parserEmit | parserImage | parserMotion
  | parserEnd => cases hp; exact .inl gone
  | parserAlu =>
    cases hp
    rw [exec_parserAlu]
    split
    · exact .inr (congrArg _ (State.parse_overrun (s := s.took) h hc))
    · exact .inl gone
  | parserBranch _ cond a b target =>
    cases hp
    refine .inl ?_
    show execParserBranch m cond a b target s = _
    unfold execParserBranch
    dsimp only
    split
    · exact if_pos (by omega)
    · exact gone
  | parserDrop =>
    cases hp
    exact .inl (exec_parserDrop h)
  | _ => cases hp

/-- A TIME load that reads beyond the item's end abandons it. -/
theorem parserTime_load_beyond (h : s.parsing m i) {off : BitVec 14} {le : Bool} (ha : i.entry.source ≠ .arrival)
    (hb : i.bytes.length < (s.machine m).base + off.toNat + i.entry.source.loadBytes) :
    exec (.parserTime m (.load off le)) s = .next (s.abandon m) := by
  refine congrArg _ (State.parse_beyond h ?_)
  cases e : i.entry.source with
  | arrival => exact absurd e ha
  | payloadPtp =>
    rw [e, TimeSource.loadBytes] at hb
    have hn : (s.machine m).field i (off.toNat + 6) 32 le = none :=
      ParserMachine.field_beyond (by rw [show cdiv 32 8 = 4 from rfl]; omega)
    dsimp only
    rw [hn]
    cases (s.machine m).field i off.toNat 48 le <;> rfl
  | payloadNs =>
    rw [e] at hb
    dsimp only
    rw [ParserMachine.field_beyond (w := 64) hb]
    rfl
  | payloadRtp =>
    rw [e] at hb
    dsimp only
    rw [ParserMachine.field_beyond (w := 32) hb]
    rfl

/-- Settles O21: every way out of an instruction that these cases leave is `State.abandon`. -/
theorem parserAbandonsItem : Obligations.ParserAbandonsItem := by
  intro s m i hu hw h
  have ab : ParserAbandoned s (s.abandon m) m := State.abandon_abandoned hw.1 (hu.machine_lt m)
  have beyond {act} (ha : act (s.machine m) i = none) : ParserAbandoned s (s.parse m act) m := State.parse_beyond h ha ▸ ab
  refine ⟨fun c hp hc => ?_, fun dst off w le hb => ?_, fun line offset start len marker hb => ?_, fun off le ha hb => ?_⟩
  · obtain he | he := exec_overrun h hc hp
    · exact ⟨_, he, ab⟩
    · exact ⟨_, he, (State.abandon_abandoned (s := s.took) hw.1 (hu.machine_lt m)).of_took⟩
  · have hf := ParserMachine.field_beyond (le := le) hb
    exact ⟨⟨_, rfl, beyond (by rw [hf]; rfl)⟩, ⟨_, rfl, beyond (by rw [hf]; rfl)⟩⟩
  · exact ⟨_, rfl, beyond (if_pos hb)⟩
  · exact ⟨_, parserTime_load_beyond h ha hb, ab⟩

end

end Sys2Proof.Machine
end

section
/-! PROOFS. Control flow of a parser machine, the item it takes and the item released (O22). -/

namespace Sys2Proof

theorem mem_of_lminBy {α : Type} {key : α → Nat} {l : List α} {a : α} (h : lminBy key l = some a) : a ∈ l := by
  induction l generalizing a with
  | nil => exact absurd h nofun
  | cons b l ih =>
    cases e : lminBy key l with
    | none =>
      simp only [lminBy, e, Option.some.injEq] at h
      exact h ▸ List.mem_cons_self
    | some c =>
      simp only [lminBy, e] at h
      split at h <;> obtain rfl := Option.some.inj h
      · exact List.mem_cons_of_mem _ (ih e)
      · exact List.mem_cons_self

/-- The machine of a taken BRANCH: at its target, out of the loops that the target lies outside (R138). -/
def ParserMachine.jumped (p : ParserMachine) (target : Nat) : ParserMachine :=
  { p with pc := target, count := p.count + 1
           loops := p.loops.dropWhile (fun l => !decide (l.start ≤ target ∧ target < l.stop)) }

end Sys2Proof

namespace Sys2Proof.Machine
open Sys2Proof

section
variable {s t : State}

/-! ### Control flow -/

section
variable {m : Fin 16} {i : IngestItem}

theorem exec_parserBranch_taken (h : s.runs m i) {cond : BranchCond} {a : Fin 32} {b : ParserArg} {target : Fin 512}
    (hb : branchTaken cond ((s.machine m).reg a) ((s.machine m).arg b) = true) :
    exec (.parserBranch m cond a b target) s = .next (s.onMachine m (fun p => p.jumped target)) := by
  obtain ⟨⟨hi, he⟩, hc⟩ := h
  exact (if_pos ⟨by rw [hi]; rfl, by rw [he]; exact Bool.false_ne_true, hb⟩).trans (if_neg (by omega))

theorem exec_parserBranch_not_taken {cond : BranchCond} {a : Fin 32} {b : ParserArg} {target : Fin 512}
    (hb : branchTaken cond ((s.machine m).reg a) ((s.machine m).arg b) = false) :
    exec (.parserBranch m cond a b target) s = .next (s.parse m (fun p _ => some p)) :=
  if_neg (fun k => by rw [hb] at k; exact Bool.false_ne_true k.2.2)

/-- A LOOP that runs its block begins it at the next instruction. -/
theorem parserLoop_begins (hu : s.Units) (h : s.runs m i) {count : ParserArg} {len : Fin 512} {stride : BitVec 16}
    (hn : ((s.machine m).arg count).toNat ≠ 0) (hl : len.val ≠ 0) :
    ∃ t, exec (.parserLoop m count len stride) s = .next t ∧ ParserRan s t m ∧ (t.machine m).pc = (s.machine m).pc + 1 ∧
      (t.machine m).base = (s.machine m).base ∧ (t.machine m).loops =
        { start := (s.machine m).pc + 1, stop := (s.machine m).pc + 1 + len, left := ((s.machine m).arg count).toNat, stride := stride.toNat } ::
          (s.machine m).loops := by
  obtain ⟨t, ht, hr, hq⟩ := exec_ran hu h (c := .parserLoop m count len stride) rfl (if_neg (not_or.mpr ⟨hn, hl⟩))
  refine ⟨t, ht, hr, ?_⟩
  rw [hq, ParserMachine.after, closeLoops, if_neg (by dsimp only; omega)]
  exact ⟨rfl, rfl, rfl⟩

/-- A LOOP of no passes goes on after its block. -/
theorem parserLoop_skips (hu : s.Units) (h : s.runs m i) {count : ParserArg} {len : Fin 512} {stride : BitVec 16}
    (hn : ((s.machine m).arg count).toNat = 0) (hl : (s.machine m).loops = []) :
    ∃ t, exec (.parserLoop m count len stride) s = .next t ∧ ParserRan s t m ∧ (t.machine m).pc = (s.machine m).pc + 1 + len ∧
      (t.machine m).loops = [] := by
  obtain ⟨t, ht, hr, hq⟩ := exec_ran hu h (c := .parserLoop m count len stride) rfl (if_pos (.inl hn))
  obtain ⟨h1, h2, -⟩ := ParserMachine.after_of_no_loops (p := s.machine m) (q := { s.machine m with pc := (s.machine m).pc + len }) hl
  refine ⟨t, ht, hr, ?_, ?_⟩ <;> rw [hq]
  · rw [h2]
    exact Nat.add_right_comm _ _ _
  · exact h1

end

/-! ### The item taken -/

@[simp] theorem State.watermark_queues {p} : (s.watermark p).ing.queues = s.ing.queues := by
  unfold State.watermark
  dsimp only
  split <;> simp

@[simp] theorem State.watermark_machines {p} : (s.watermark p).ing.machines = s.ing.machines := by
  unfold State.watermark
  dsimp only
  split <;> simp

/-- A part in which an idle machine has taken item `i` from the queue of port `p` (R153). -/
def State.tookItem (s : State) (m p : Nat) (i : IngestItem) : State :=
  ((s.onIng (fun g => { g with queues := lmod g.queues p (fun q => q.filter (fun x => x.id ≠ i.id)) })).watermark p).onMachine m
    (fun _ => { item := some i, port := p })

theorem exec_parserTakeItem {m : Fin 16} {p : Nat} {i : IngestItem} (hi : s.inServ) (hh : ¬ s.hold) (hm : (s.machine m).item = none)
    (hn : s.nextItem = some (p, i)) : exec (.parserTakeItem m) s = .next (s.tookItem m p i) := by
  show execParserTakeItem m s = _
  rw [execParserTakeItem, if_neg (by simp [hi, hh, hm]), hn]
  rfl

theorem exec_parserTakeItem_idle {m : Fin 16} (h : ¬ s.inServ ∨ s.hold ∨ (s.machine m).item.isSome ∨ s.nextItem = none) :
    exec (.parserTakeItem m) s = .next s := by
  show execParserTakeItem m s = _
  unfold execParserTakeItem
  split
  · rfl
  · next hc =>
    obtain ⟨hi, hh, hm⟩ : s.inServ ∧ ¬ s.hold ∧ ¬ (s.machine m).item.isSome := by simpa only [not_or, not_not] using hc
    have hn : s.nextItem = none := ((h.resolve_left (not_not.mpr hi)).resolve_left hh).resolve_left hm
    rw [hn]

theorem State.tookItem_queue {m p q : Nat} {i : IngestItem} (hq : q < s.ing.queues.length) :
    lgetD (s.tookItem m p i).ing.queues q [] =
      if q = p then (lgetD s.ing.queues q []).filter (fun x => x.id ≠ i.id) else lgetD s.ing.queues q [] := by
  simp only [State.tookItem, State.onMachine_ing, State.watermark_queues, State.onIng_ing]
  split
  · next e => subst e; exact lgetD_lmod_same _ _ _ _ hq
  · next e => exact lgetD_lmod_ne _ _ _ _ e

theorem State.tookItem_machine_same {m p : Nat} {i : IngestItem} (h : m < s.ing.machines.length) :
    (s.tookItem m p i).machine m = { item := some i, port := p } :=
  State.machine_onMachine_same _ (by rwa [State.watermark_machines])

theorem State.tookItem_machine_ne {m p n : Nat} {i : IngestItem} (h : n ≠ m) : (s.tookItem m p i).machine n = s.machine n :=
  (State.machine_onMachine_ne _ h).trans (State.machine_congr (by simp) n)

/-! ### The item released -/

/-- From `s` to `t` the machines and the ingest queues stay as they are. -/
structure IngestKept (s t : State) : Prop where
  machines : t.ing.machines = s.ing.machines
  queues : t.ing.queues = s.ing.queues

theorem IngestKept.of_ing (h : t.ing = s.ing) : IngestKept s t := ⟨by rw [h], by rw [h]⟩

theorem IngestKept.trans {u : State} (h : IngestKept s t) (k : IngestKept t u) : IngestKept s u :=
  ⟨k.machines.trans h.machines, k.queues.trans h.queues⟩

theorem IngestKept.foldl {α : Type} {f : State → α → State} (hf : ∀ t x, IngestKept t (f t x)) (l : List α) (s : State) :
    IngestKept s (l.foldl f s) := by
  induction l generalizing s with
  | nil => exact .of_ing rfl
  | cons x l ih => exact (hf s x).trans (ih _)

theorem State.offerPea_kept {key : Nat} {release : State → State} (hf : ∀ t, (release t).ing = t.ing) :
    IngestKept s (s.offerPea key release) := by
  unfold State.offerPea
  dsimp only
  split
  · exact ⟨by simp, by simp⟩
  · split
    · exact ⟨by simp, by simp⟩
    · exact ⟨by simp [hf], by simp [hf]⟩

theorem State.releasePea_kept {epoch : Nat} {p : RawPea} : IngestKept s (s.releasePea epoch p) := by
  unfold State.releasePea
  split
  · exact .of_ing (State.preEpochDrop_only (Only.refl [.regs, .host, .out] s) (by decide) .ing rfl)
  · exact State.offerPea_kept (fun _ => rfl)

theorem State.releaseOut_kept {i : IngestItem} {o : ParseOut} : IngestKept s (s.releaseOut i o) := by
  cases o with
  | pea p => exact State.releasePea_kept
  | drop sensor ev => exact .of_ing (by simp [State.releaseOut])
  | motion m =>
    refine .of_ing ?_
    unfold State.releaseOut
    dsimp only
    split
    · exact State.preEpochDrop_only (Only.refl [.regs, .host, .out] s) (by decide) .ing rfl
    · exact State.takeSample_only (Only.refl [.regs, .solver] s) (by decide) .ing rfl
  | image r => exact ⟨rfl, rfl⟩

/-- A part in which item `i` of machine `m` has been released (R142). -/
def State.released (s : State) (m : Nat) (i : IngestItem) : State :=
  (s.machine m).out.reverse.foldl (fun t o => t.releaseOut i o) (s.onMachine m (fun _ => {}))

theorem exec_itemRelease {m : Nat} {i : IngestItem} (h : s.releasable = some (m, i)) : exec .itemRelease s = .next (s.released m i) := by
  show execItemRelease s = _
  rw [execItemRelease, h]
  rfl

theorem exec_itemRelease_none (h : s.releasable = none) : exec .itemRelease s = .next s := by
  show execItemRelease s = _
  rw [execItemRelease, h]

theorem State.releasable_lt {m : Nat} {i : IngestItem} (h : s.releasable = some (m, i)) : m < 16 := by
  have hm := (List.mem_filter.mp (mem_of_lminBy h)).1
  simp only [List.mem_filterMap, List.mem_range, Option.map_eq_some_iff, Prod.mk.injEq] at hm
  obtain ⟨n, hn, _, _, rfl, _⟩ := hm
  exact hn

/-- Settles O22: each clause is the case of its command above. -/
theorem parserControlFlow : Obligations.ParserControlFlow := by
  refine ⟨fun s m i hu h => ⟨fun cond a b target => ?_, fun count len stride => parserLoop_begins hu h,
    fun count len stride => parserLoop_skips hu h, fun hw => ⟨_, exec_parserDrop h.1, State.abandon_abandoned hw.1 (hu.machine_lt m)⟩, ?_⟩,
    fun s m p i hu hs hi hh hm hn => ?_, fun s m => exec_parserTakeItem_idle, fun s m i hu h => ?_, fun s => exec_itemRelease_none⟩
  · cases hb : branchTaken cond ((s.machine m).reg a) ((s.machine m).arg b) with
    | true =>
      refine ⟨_, exec_parserBranch_taken h hb, parserRan_onMachine (hu.machine_lt m) rfl rfl rfl, ?_⟩
      rw [State.machine_onMachine_same _ (hu.machine_lt m)]
      exact ⟨rfl, fun _ => ⟨rfl, rfl⟩, nofun⟩
    | false =>
      obtain ⟨t, ht, hr, hq⟩ := exec_ran hu h (exec_parserBranch_not_taken hb) rfl
      exact ⟨t, ht, hr, by rw [hq]; rfl, nofun, fun _ => parserNext_of_after hq rfl rfl rfl⟩
  · obtain ⟨t, ht, hr, hq⟩ := exec_ran hu h (c := .parserEnd m) rfl rfl
    refine ⟨t, ht, hr, ?_⟩
    rw [hq]
    exact ⟨rfl, rfl⟩
  · exact ⟨_, exec_parserTakeItem hi hh hm hn,
      State.onMachine_only (State.watermark_only (State.onIng_only (Only.refl _ s) (by decide)) (by decide)) (by decide),
      State.tookItem_machine_same (hu.machine_lt m), fun n => State.tookItem_machine_ne,
      fun q => State.tookItem_queue (hs.1.symm ▸ q.isLt)⟩
  · have hk : IngestKept (s.onMachine m (fun _ => {})) (s.released m i) := IngestKept.foldl (fun _ _ => State.releaseOut_kept) _ _
    refine ⟨_, exec_itemRelease h, ?_, fun n hn => ?_, hk.queues, fun ho => ?_⟩
    · exact (State.machine_congr hk.machines m).trans (State.machine_onMachine_same _ (hu.machines.symm ▸ State.releasable_lt h))
    · exact (State.machine_congr hk.machines n).trans (State.machine_onMachine_ne _ hn)
    · rw [State.released, ho]
      exact State.onMachine_only (Only.refl _ s) (by decide)

end

end Sys2Proof.Machine
end

section
/-! PROOFS. What EMIT, IMAGE and MOTION hold until the item's release, and what the release does with a pea (O23). -/

namespace Sys2Proof.Machine
open Sys2Proof

section
variable {s : State} {i : IngestItem}

/-- An instruction that only puts its output before what the machine holds. -/
theorem exec_output (hu : s.Units) {m : Fin 16} (h : s.runs m i) {c : Instr} {act : ParserMachine → IngestItem → Option ParserMachine}
    {o : List ParseOut} (hc : exec c s = .next (s.parse m act))
    (ha : act (s.machine m) i = some { s.machine m with out := o ++ (s.machine m).out }) :
    ∃ t, exec c s = .next t ∧ ParserRan s t m ∧ ParserNext s t m ∧ (t.machine m).regs = (s.machine m).regs ∧
      (t.machine m).out = o ++ (s.machine m).out := by
  obtain ⟨t, ht, hr, hq⟩ := exec_ran hu h hc ha
  refine ⟨t, ht, hr, parserNext_of_after hq rfl rfl rfl, ?_⟩
  rw [hq]
  exact ⟨rfl, rfl⟩

/-- A pea that the budget keeps is granted and released (R159). -/
theorem State.offerPea_kept_granted {key : Nat} {release : State → State} (hk : mgetD s.ing.seq key 0 % stride s.ing.decLevel (s.prioOf key) = 0)
    (hg : s.ing.granted < 256) : ∃ u, s.offerPea key release = release u ∧ u.ing.granted = s.ing.granted + 1 ∧ u.store = s.store := by
  unfold State.offerPea
  dsimp only
  rw [if_neg (by simp [hk]), if_neg (Nat.not_le.mpr hg)]
  exact ⟨_, rfl, by simp, by simp⟩

/-- A pea of the item's own epoch that the budget keeps joins the de-skew queue (R142, R159). -/
theorem State.releasePea_joins {epoch : Nat} {p : RawPea} (he : epoch = s.tl.epoch.toNat) (hp : s.preEpoch p.time = false)
    (hk : mgetD s.ing.seq p.sensor 0 % stride s.ing.decLevel (s.prioOf p.sensor) = 0) (hg : s.ing.granted < 256) :
    (s.releasePea epoch p).ing.granted = s.ing.granted + 1 ∧
      (s.releasePea epoch p).store.deskewQ = s.store.deskewQ ++
        [{ pea := { x := p.x, y := p.y, z := p.z, intensity := p.intensity, sensor := p.sensor
                    timeOffset := ((p.time % frameUnits) / 1024000).toNat, sweep := p.sweep, cls := p.cls }
           frame := (p.time / frameUnits).toNat, epoch := epoch }] := by
  unfold State.releasePea
  rw [if_neg (not_or.mpr ⟨not_not.mpr he, Bool.eq_false_iff.mp hp⟩)]
  obtain ⟨u, hu, h1, h2⟩ := State.offerPea_kept_granted hk hg
  dsimp only
  rw [hu, ← h1, ← h2]
  exact ⟨rfl, rfl⟩

/-- Settles O23: the checks of EMIT and MOTION in the order of the model, the copy of IMAGE, and the pea's way through the budget. -/
theorem parserEmitsOutput : Obligations.ParserEmitsOutput := by
  refine ⟨fun s m i hu h => ⟨?_, fun line offset start len marker hl => ?_, fun kind src => ?_⟩, fun s m i p hu h ho he hp hk hg => ?_⟩
  · obtain ⟨t, ht, hr, hn, hg, ho⟩ := exec_output hu h (c := .parserEmit m) rfl rfl
    refine ⟨t, ht, hr, hn, hg, fun hi hs hx hy hz hw => ?_, fun hi hs => ?_, fun hi hs hx hy hz hw => ?_⟩ <;>
      rw [ho, if_neg (Nat.not_lt.mpr hi)]
    · rw [if_neg (Bool.eq_false_iff.mp (Option.isNone_eq_false_iff.mpr hs)), if_neg (not_not.mpr ⟨hx, hy, hz⟩), if_neg (Bool.eq_false_iff.mp hw)]
      rfl
    · split
      · rfl
      · next hc =>
        rw [if_pos (hs.resolve_left (fun e => hc (Option.isNone_iff_eq_none.mpr e)))]
        rfl
    · rw [if_neg (Bool.eq_false_iff.mp (Option.isNone_eq_false_iff.mpr hs)), if_neg (not_not.mpr ⟨hx, hy, hz⟩), if_pos hw]
      rfl
  · obtain ⟨t, ht, hr, hn, hg, ho⟩ := exec_output hu h (c := .parserImage m line offset start len marker) (o := [_]) rfl
      (if_neg (Nat.not_lt.mpr hl))
    exact ⟨t, _, ht, hr, hn, hg, ho, rfl, rfl, rfl, rfl⟩
  · obtain ⟨t, ht, hr, hn, hg, ho⟩ := exec_output hu h (c := .parserMotion m kind src) rfl rfl
    refine ⟨t, ht, hr, hn, hg, fun hi hs hw => ?_⟩
    rw [ho, if_neg (Nat.not_lt.mpr hi), if_neg (Bool.eq_false_iff.mp (Option.isNone_eq_false_iff.mpr hs)), if_neg (Bool.eq_false_iff.mp hw)]
    rfl
  · have hr : s.released m i = (s.onMachine m (fun _ => {})).releasePea i.epoch p := by rw [State.released, ho]; rfl
    refine ⟨_, exec_itemRelease h, ?_⟩
    rw [hr]
    exact State.releasePea_joins he hp hk hg

end

end Sys2Proof.Machine
end

section
/-! PROOFS. Frames received on a sensor port (O18). -/

namespace Sys2Proof.Machine
open Sys2Proof

section
variable {s t : State} {p : Nat} {l : List Byte}

/-! ### Counting -/

theorem exec_frameReceive_off {p : Fin 8} {ok : Bool} {count : BitVec 64} {phase : Fin 8} (h : ¬ s.up ∨ ¬ s.portOn p ∨ s.boot.step < 10) :
    exec (.frameReceive p l ok count phase) s = .next s := if_pos h

/-- The part that has counted a frame received on port `p`. -/
def State.rxCounted (s : State) (p : Nat) : State := s.bump64 (Reg.RX_FRAMES_LO p) (Reg.RX_FRAMES_HI p)

theorem exec_frameReceive_on {p : Fin 8} {ok : Bool} {count : BitVec 64} {phase : Fin 8} (hu : s.up) (hp : s.portOn p) (hb : 10 ≤ s.boot.step) :
    exec (.frameReceive p l ok count phase) s =
      if l.length < 64 ∨ 9216 < l.length then .next ((s.rxCounted p).bump (Reg.RX_ERRORS p))
      else .next ((s.rxCounted p).receive p l ok (count.toNat * 8 + phase.val)) :=
  if_neg (not_or.mpr ⟨not_not.mpr hu, not_or.mpr ⟨not_not.mpr hp, Nat.not_lt.mpr hb⟩⟩)

theorem rxFrames_lo_ne_hi : Reg.RX_FRAMES_LO p ≠ Reg.RX_FRAMES_HI p := by simp only [Reg.RX_FRAMES_LO, Reg.RX_FRAMES_HI]; omega

theorem rxErrors_ne_frames : Reg.RX_ERRORS p ≠ Reg.RX_FRAMES_LO p ∧ Reg.RX_ERRORS p ≠ Reg.RX_FRAMES_HI p := by
  simp only [Reg.RX_FRAMES_LO, Reg.RX_FRAMES_HI, Reg.RX_ERRORS]; omega

theorem State.wf_rxCounted (h : regsWf s.regs = true) : regsWf (s.rxCounted p).regs = true := State.wf_setPair h

theorem State.rget_rxCounted (h : regsWf s.regs = true) :
    (s.rxCounted p).rget (Reg.RX_FRAMES_LO p) = nw (s.rpair (Reg.RX_FRAMES_LO p) (Reg.RX_FRAMES_HI p) + 1) := by
  rw [State.rxCounted, State.bump64, State.rget_setPair h, if_neg rxFrames_lo_ne_hi, if_pos rfl]

theorem State.rget_rxCounted_ne (h : regsWf s.regs = true) {o : Nat} (hl : o ≠ Reg.RX_FRAMES_LO p) (hh : o ≠ Reg.RX_FRAMES_HI p) :
    (s.rxCounted p).rget o = s.rget o := by
  rw [State.rxCounted, State.bump64, State.rget_setPair h, if_neg hh, if_neg hl]

/-! ### The station's addresses -/

/-- From `s` to `t` the registers of the station's addresses stay as they are; reception has counted, learned and raised events only. -/
structure StationKept (s t : State) : Prop where
  frame : Only [.regs, .fdb, .host, .out] s t
  addresses : ∀ o, Reg.STATION_MAC_LO ≤ o → o < Reg.STATION_MAC_LO + 0x1000 → t.rget o = s.rget o

theorem State.learn_rget (h : regsWf s.regs = true) {mac o : Nat} (ho : o ≠ Reg.PORT_EVENTS) : (s.learn mac p).rget o = s.rget o := by
  unfold State.learn
  split
  · rfl
  · split
    · rfl
    · split
      · rfl
      · rw [State.rget_raise h, if_neg ho]

theorem State.rxCounted_learn_kept (h : regsWf s.regs = true) (p mac : Nat) : StationKept s ((s.rxCounted p).learn mac p) where
  frame := State.learn_only (State.bump64_only (Only.refl _ s) (by decide)) (by decide)
  addresses o hl hh := by
    obtain ⟨he, hlo, hhi⟩ : o ≠ Reg.PORT_EVENTS ∧ o ≠ Reg.RX_FRAMES_LO p ∧ o ≠ Reg.RX_FRAMES_HI p := by
      simp only [Reg.STATION_MAC_LO, Reg.PORT_EVENTS, Reg.RX_FRAMES_LO, Reg.RX_FRAMES_HI] at *
      omega
    rw [State.learn_rget (State.wf_rxCounted h) he, State.rget_rxCounted_ne h hlo hhi]

theorem StationKept.stationMac (h : StationKept s t) : t.stationMac = s.stationMac := by
  rw [State.stationMac, h.addresses Reg.STATION_MAC_HI (by decide) (by decide), h.addresses Reg.STATION_MAC_LO (by decide) (by decide)]
  rfl

theorem StationKept.ip4 (h : StationKept s t) : t.rget Reg.IP4_ADDR = s.rget Reg.IP4_ADDR := h.addresses _ (by decide) (by decide)

theorem StationKept.ip6 (h : StationKept s t) : t.ip6 = s.ip6 :=
  List.foldl_ext _ _ _ (fun a i hi => by
    have hi : i < 4 := List.mem_range.mp hi
    rw [h.addresses (Reg.IP6_ADDR i) (by simp only [Reg.IP6_ADDR, Reg.STATION_MAC_LO]; omega)
      (by simp only [Reg.IP6_ADDR, Reg.STATION_MAC_LO]; omega)])

theorem StationKept.inServ (h : StationKept s t) : t.inServ = s.inServ := congrArg Boot.inService (h.frame .boot rfl)

theorem StationKept.hold (h : StationKept s t) : t.hold = s.hold := congrArg (fun x : Safety => decide (x.state = .safeHold)) (h.frame .safety rfl)

theorem StationKept.saved (h : StationKept s t) : t.saved = s.saved :=
  congrArg (fun x : Power => x.saving.isSome || x.stopped) (h.frame .power rfl)

theorem StationKept.streamFor (h : StationKept s t) : t.streamFor p l = s.streamFor p l := by
  have hl : t.live = s.live := h.frame .live rfl
  rw [State.streamFor, State.streamFor, hl]

theorem StationKept.ing (h : StationKept s t) : t.ing = s.ing := h.frame .ing rfl

theorem StationKept.tl (h : StationKept s t) : t.tl = s.tl := h.frame .tl rfl

/-! ### A stream's frame -/

theorem State.stampTime_known {c8 : Nat} {h : TimeEntry} (hh : histAt s.tl.hist (c8 / 8) = some h) :
    s.stampTime c8 = (s, some (h.offset + timeProduct h.rate c8)) := by
  simp only [State.stampTime, hh]

/-- A good frame to the station that is no PTP message is consumed and goes nowhere else (R118, R119). -/
theorem State.receive_station {c8 : Nat} {a : Int} (he : etherType l ≠ 0x8808) (hd : ¬ (0x0180C2000000 ≤ dstMac l ∧ dstMac l ≤ 0x0180C200000F))
    (hp : ptpAt l = none) (ht : s.stampTime c8 = (s, some a)) (hm : dstMac l = (s.learn (srcMac l) p).stationMac) :
    s.receive p l true c8 = (s.learn (srcMac l) p).consume p l c8 (some a) := by
  unfold State.receive
  dsimp only
  rw [if_neg (by omega), ht]
  dsimp only
  rw [if_pos rfl, if_neg (by omega), if_neg (not_not.mpr rfl), hp, if_neg (by rw [decide_eq_false (not_not.mpr hm)]; exact Bool.false_ne_true)]

/-- In service, a frame of a known stream that is no request to the part's addresses is queued (R134, R152). -/
theorem State.consume_stream {c8 : Nat} {a : Int} {n : Nat} {e : StreamEntry} (hp : ptpAt l = none)
    (h4 : arpFor l (s.rget Reg.IP4_ADDR).toNat = false) (h6 : solicitFor l s.ip6 = false) (hi : s.inServ) (hh : ¬ s.hold) (hs : ¬ s.saved)
    (hn : s.streamFor p l = some (n, e)) : s.consume p l c8 (some a) = s.enqueue p n e l c8 a := by
  unfold State.consume
  rw [hp]
  dsimp only
  rw [h4, h6, if_neg Bool.false_ne_true, if_neg Bool.false_ne_true, if_neg (not_or.mpr ⟨not_not.mpr hi, not_or.mpr ⟨hh, hs⟩⟩), hn]

/-- The item that a frame of stream `n` becomes (R152). -/
def State.itemOf (s : State) (n : Nat) (e : StreamEntry) (l : List Byte) (c8 : Nat) (a : Int) : IngestItem :=
  { id := s.ing.nextId, stream := n, entry := e, bytes := l, stamp := c8, arrival := a, epoch := s.tl.epoch.toNat }

theorem State.enqueue_appends {n c8 : Nat} {e : StreamEntry} {a : Int} (hq : p < s.ing.queues.length)
    (hr : s.queueLevel p + (4 + cdiv l.length 4) ≤ 16384) :
    lgetD (s.enqueue p n e l c8 a).ing.queues p [] = lgetD s.ing.queues p [] ++ [s.itemOf n e l c8 a] := by
  have hroom : ¬ 16384 < s.queueLevel p + itemWords (s.itemOf n e l c8 a) := Nat.not_lt.mpr hr
  have he : s.enqueue p n e l c8 a =
      (s.onIng (fun g => { g with nextId := g.nextId + 1, queues := lmod g.queues p (fun q => q ++ [s.itemOf n e l c8 a]) })).watermark p :=
    if_neg hroom
  rw [he, State.watermark_queues]
  exact lgetD_lmod_same _ _ _ _ hq

/-- The way of a stream's frame through reception: counted, its source learned, and the frame queued (R134, R152). -/
theorem State.receive_queues {c8 n : Nat} {e : StreamEntry} {h : TimeEntry} (hw : regsWf s.regs = true) (he : etherType l ≠ 0x8808)
    (hptp : ptpAt l = none) (hm : dstMac l = s.stationMac) (hd : ¬ (0x0180C2000000 ≤ dstMac l ∧ dstMac l ≤ 0x0180C200000F))
    (h4 : arpFor l (s.rget Reg.IP4_ADDR).toNat = false) (h6 : solicitFor l s.ip6 = false) (hi : s.inServ) (hh : ¬ s.hold) (hs : ¬ s.saved)
    (ht : histAt s.tl.hist (c8 / 8) = some h) (hn : s.streamFor p l = some (n, e)) :
    (s.rxCounted p).receive p l true c8 =
      ((s.rxCounted p).learn (srcMac l) p).enqueue p n e l c8 (h.offset + timeProduct h.rate c8) := by
  have hk := State.rxCounted_learn_kept hw p (srcMac l)
  have htl : (s.rxCounted p).tl = s.tl := State.bump64_tl
  rw [State.receive_station he hd hptp (State.stampTime_known (htl.symm ▸ ht)) (hm.trans hk.stationMac.symm),
    State.consume_stream hptp (by rw [hk.ip4]; exact h4) (by rw [hk.ip6]; exact h6) (by rw [hk.inServ]; exact hi) (by rw [hk.hold]; exact hh)
      (by rw [hk.saved]; exact hs) (by rw [hk.streamFor]; exact hn)]

/-- Settles O18: the counters by what each register reads, the queue by the way of a stream's frame through reception. -/
theorem framesReceivedCountedAndQueued : Obligations.FramesReceivedCountedAndQueued := by
  refine ⟨fun p l ok count phase s => exec_frameReceive_off, fun p l ok count phase s hw hu hp hb hl => ?_,
    fun p l ok count phase s hw hu hp hb h1 h2 he => ?_,
    fun p l count phase s n e h hw hu hp hb h1 h2 he hptp hm hd h4 h6 hi hh hs ht hn hq hr => ?_⟩
  · obtain ⟨hlo, hhi⟩ := rxErrors_ne_frames (p := p)
    have hc : regsWf (s.rxCounted p).regs = true := State.wf_rxCounted hw.1
    refine ⟨_, (exec_frameReceive_on hu hp hb).trans (if_pos hl),
      State.bump_only (State.bump64_only (Only.refl _ s) (by decide)) (by decide), ?_, ?_, fun o ho1 ho2 ho3 => ?_⟩ <;> rw [State.rget_bump hc]
    · rw [if_neg hlo.symm, State.rget_rxCounted hw.1]
    · rw [if_pos rfl, State.rget_rxCounted_ne hw.1 hlo hhi]
    · rw [if_neg ho3, State.rget_rxCounted_ne hw.1 ho1 ho2]
  · have hc : (s.rxCounted p).receive p l ok (count.toNat * 8 + phase.val) = s.rxCounted p := if_pos (.inl he)
    refine ⟨s.rxCounted p, (exec_frameReceive_on hu hp hb).trans ((if_neg (by omega)).trans (congrArg _ hc)),
      State.bump64_only (Only.refl _ s) (by decide), State.rget_rxCounted hw.1, fun o => State.rget_rxCounted_ne hw.1⟩
  · have hk := State.rxCounted_learn_kept hw.1 p (srcMac l)
    have hlevel : ((s.rxCounted p).learn (srcMac l) p).queueLevel p = s.queueLevel p := by rw [State.queueLevel, hk.ing]; rfl
    have hrec := State.receive_queues (c8 := count.toNat * 8 + phase.val) hw.1 he hptp hm hd h4 h6 hi hh hs
      (by rw [show (count.toNat * 8 + phase.val) / 8 = count.toNat by omega]; exact ht) hn
    have happ := State.enqueue_appends (n := n) (c8 := count.toNat * 8 + phase.val) (e := e)
      (a := h.offset + timeProduct h.rate (count.toNat * 8 + phase.val)) (by rw [hk.ing, hq]; exact p.isLt) (by rw [hlevel]; exact hr)
    rw [hk.ing] at happ
    have hlen : ¬ (l.length < 64 ∨ 9216 < l.length) := by omega
    exact ⟨_, _, (exec_frameReceive_on hu hp hb).trans ((if_neg hlen).trans (congrArg _ hrec)), happ, rfl, rfl, rfl, rfl,
      by rw [State.itemOf, hk.tl], rfl⟩

end

end Sys2Proof.Machine
end

section
/-! PROOFS. The re-keying of a region (O30). -/

namespace Sys2Proof
open Machine

section
variable {p q u : PodStore} {e : NodeEntry} {l : Nat} {bs : List Nat}

theorem mgetD_mset_same {α : Type} (m : Map α) (k : Nat) (v d : α) : mgetD (mset m k v) k d = v := by
  rw [mgetD, mget_mset_same, Option.getD_some]

theorem mgetD_mset_ne {α : Type} (m : Map α) (k : Nat) (v d : α) {j : Nat} (h : j ≠ k) : mgetD (mset m k v) j d = mgetD m j d := by
  rw [mgetD, mget_mset_ne m k v h, mgetD]

/-! ### The copy of a region -/

theorem copiedNext_iff {key : Nat} : copiedNext p key = true ↔ ∃ b ∈ p.probesNext key, ∃ i < 4, ∃ x, mget p.nodes (b + i) = some x ∧
    x.holds key = true ∧ x.gen = (p.region (keyRegion key)).gen + 1 := by
  simp only [copiedNext, PodStore.bucket, List.any_eq_true, List.mem_map, List.mem_range]
  constructor
  · rintro ⟨b, hb, y, ⟨i, hi, hy⟩, hx⟩
    cases y with
    | none => exact absurd hx Bool.false_ne_true
    | some x =>
      simp only [Bool.and_eq_true, decide_eq_true_eq] at hx
      exact ⟨b, hb, i, hi, x, hy, hx⟩
  · rintro ⟨b, hb, i, hi, x, hy, hx⟩
    exact ⟨b, hb, some x, ⟨i, hi, hy⟩, by simpa using hx⟩

/-- An insert writes over a tombstone at most (R200). -/
theorem freePlace_free (h : freePlace p bs = some l) : ∀ x, mget p.nodes l = some x → x.kind = .tombstone := by
  induction bs with
  | nil => exact absurd h nofun
  | cons b bs ih =>
    simp only [freePlace] at h
    split at h
    · next i hi =>
      obtain rfl := Option.some.inj h
      intro x hx
      simpa [hx] using List.find?_some hi
    · exact ih h

/-- From `p` to `q` entries have been added to the node table and the stash of the pod store; every live one stands where it stood. -/
structure PodStore.Adds (p q : PodStore) : Prop where
  frame : q = { p with nodes := q.nodes, stash := q.stash }
  nodes : ∀ l x, mget p.nodes l = some x → x.kind ≠ .tombstone → mget q.nodes l = some x
  stash : ∀ x ∈ p.stash, x ∈ q.stash

theorem PodStore.Adds.refl (p : PodStore) : p.Adds p := ⟨rfl, fun _ _ h _ => h, fun _ h => h⟩

theorem PodStore.Adds.trans (h : p.Adds q) (k : q.Adds u) : p.Adds u where
  frame := by rw [k.frame, h.frame]
  nodes l x hx hl := k.nodes l x (h.nodes l x hx hl) hl
  stash x hx := k.stash x (h.stash x hx)

theorem PodStore.adds_stash (p : PodStore) (e : NodeEntry) : p.Adds { p with stash := p.stash ++ [e] } :=
  ⟨rfl, fun _ _ h _ => h, fun _ h => List.mem_append_left _ h⟩

theorem PodStore.adds_insertNext (p : PodStore) (e : NodeEntry) : p.Adds (p.insertNext e) := by
  unfold PodStore.insertNext
  dsimp only
  split
  · split
    · next l hl =>
      refine ⟨rfl, fun j x hx hlive => ?_, fun _ h => h⟩
      have hne : j ≠ l := fun h => hlive (freePlace_free hl x (h ▸ hx))
      rw [← hx]
      exact mget_mset_ne _ _ _ hne
    · exact .refl p
  · exact .refl p

theorem PodStore.Adds.region (h : p.Adds q) (r : Nat) : q.region r = p.region r := by rw [h.frame]; rfl

theorem PodStore.Adds.pods (h : p.Adds q) : q.pods = p.pods := by rw [h.frame]

/-- An entry of a key has its copy under the next generation, or stands in the stash (R206). -/
def PodStore.Placed (p : PodStore) (key : Nat) : Prop := copiedNext p key = true ∨ ∃ x ∈ p.stash, x.holds key = true

theorem PodStore.Adds.copied (h : p.Adds q) {key : Nat} (hc : copiedNext p key = true) : copiedNext q key = true := by
  rw [copiedNext_iff] at hc ⊢
  obtain ⟨b, hb, i, hi, x, hx, hk, hg⟩ := hc
  have hlive : x.kind ≠ .tombstone := (of_decide_eq_true hk).2
  exact ⟨b, by simpa only [PodStore.probesNext, h.region] using hb, i, hi, x, h.nodes _ x hx hlive, hk, by rw [h.region]; exact hg⟩

theorem PodStore.Adds.placed (h : p.Adds q) {key : Nat} (hc : p.Placed key) : q.Placed key :=
  hc.imp h.copied (fun ⟨x, hx, hk⟩ => ⟨x, h.stash x hx, hk⟩)

/-- One entry copied under the next generation: what `copyRegion` does with each. -/
def copyEntry (a : PodStore × Bool) (e : NodeEntry) : PodStore × Bool :=
  if copiedNext a.1 e.key then a
  else if copiedNext (a.1.insertNext e) e.key ∨ (a.1.insertNext e).stash.any (fun x => x.holds e.key) then (a.1.insertNext e, a.2)
  else if (a.1.insertNext e).stash.length < 256 then ({ a.1.insertNext e with stash := (a.1.insertNext e).stash ++ [e] }, a.2)
  else (a.1.insertNext e, false)

theorem copyRegion_eq (p : PodStore) (r : Nat) : copyRegion p r = (regionEntries p r).foldl copyEntry (p, true) := rfl

theorem copyEntry_adds (a : PodStore × Bool) (e : NodeEntry) : a.1.Adds (copyEntry a e).1 := by
  have hi := PodStore.adds_insertNext a.1 e
  unfold copyEntry
  split
  · exact .refl _
  · split
    · exact hi
    · split
      · exact hi.trans (PodStore.adds_stash _ e)
      · exact hi

/-- The flag stays up only where the entry found its place. -/
theorem copyEntry_flag {a : PodStore × Bool} (h : (copyEntry a e).2 = true) :
    a.2 = true ∧ (e.kind ≠ .tombstone → (copyEntry a e).1.Placed e.key) := by
  unfold copyEntry at h ⊢
  split at h
  · next hc => rw [if_pos hc]; exact ⟨h, fun _ => .inl hc⟩
  · next hc =>
    rw [if_neg hc]
    split at h
    · next hp => rw [if_pos hp]; exact ⟨h, fun _ => hp.imp_right List.any_eq_true.mp⟩
    · next hp =>
      rw [if_neg hp]
      split at h
      · next hr =>
        rw [if_pos hr]
        exact ⟨h, fun hk => .inr ⟨e, List.mem_append_right _ List.mem_cons_self, decide_eq_true ⟨rfl, hk⟩⟩⟩
      · exact absurd h Bool.false_ne_true

theorem copyEntries_adds (es : List NodeEntry) (a : PodStore × Bool) : a.1.Adds (es.foldl copyEntry a).1 := by
  induction es generalizing a with
  | nil => exact .refl _
  | cons e es ih => exact (copyEntry_adds a e).trans (ih _)

theorem copyEntries_placed (es : List NodeEntry) (a : PodStore × Bool) (h : (es.foldl copyEntry a).2 = true) :
    a.2 = true ∧ ∀ e ∈ es, e.kind ≠ .tombstone → (es.foldl copyEntry a).1.Placed e.key := by
  induction es generalizing a with
  | nil => exact ⟨h, nofun⟩
  | cons e es ih =>
    obtain ⟨hflag, hrest⟩ := ih (copyEntry a e) h
    obtain ⟨ha, he⟩ := copyEntry_flag hflag
    refine ⟨ha, fun x hx hk => ?_⟩
    rcases List.mem_cons.mp hx with rfl | hx
    · exact (copyEntries_adds es _).placed (he hk)
    · exact hrest x hx hk

theorem copyRegion_adds (p : PodStore) (r : Nat) : p.Adds (copyRegion p r).1 := by
  rw [copyRegion_eq]
  exact copyEntries_adds _ (p, true)

theorem copyRegion_placed {r : Nat} (h : (copyRegion p r).2 = true) :
    ∀ e ∈ regionEntries p r, e.kind ≠ .tombstone → (copyRegion p r).1.Placed e.key := by
  rw [copyRegion_eq] at h ⊢
  exact (copyEntries_placed _ (p, true) h).2

/-! ### The state of one region -/

/-- The store with region `r` as given. -/
def PodStore.putRegion (p : PodStore) (r : Nat) (x : Region) : PodStore := { p with regions := mset p.regions r x }

@[simp] theorem PodStore.putRegion_nodes {r : Nat} {x : Region} : (p.putRegion r x).nodes = p.nodes := rfl

theorem PodStore.region_putRegion_same {r : Nat} {x : Region} : (p.putRegion r x).region r = x := mgetD_mset_same ..

theorem PodStore.region_putRegion_ne {r j : Nat} {x : Region} (h : j ≠ r) : (p.putRegion r x).region j = p.region j := mgetD_mset_ne _ _ _ _ h

/-- What the next generation holds is judged without the region's state. -/
theorem PodStore.Placed.putPhase {r key : Nat} {f : RegionPhase} (h : p.Placed key) :
    (p.putRegion r { p.region r with phase := f }).Placed key := by
  refine h.imp_left (fun hc => ?_)
  rw [copiedNext_iff] at hc ⊢
  by_cases hr : keyRegion key = r
  · subst hr
    simpa only [PodStore.probesNext, PodStore.putRegion_nodes, PodStore.region_putRegion_same] using hc
  · simpa only [PodStore.probesNext, PodStore.putRegion_nodes, PodStore.region_putRegion_ne hr] using hc

/-- A drained region: STEADY, or PENDING with the trigger that arrived while it drained (R205). -/
def Region.drained (x : Region) : Region :=
  match x.held with
  | some why => { x with phase := .pending, trigger := why, held := none, kNext := x.kNext }
  | none => { x with phase := .steady }

/-- The store with every entry of region `r` under another generation a tombstone (R205). -/
def PodStore.buryOld (p : PodStore) (r : Nat) : PodStore :=
  { p with nodes := p.nodes.map (fun y =>
      (y.1, if keyRegion y.2.key = r ∧ y.2.gen ≠ (p.region r).gen then { y.2 with kind := .tombstone } else y.2)) }

theorem PodStore.buryOld_tombstone {r : Nat} : ∀ x ∈ (p.buryOld r).nodes, keyRegion x.2.key = r → x.2.gen ≠ (p.region r).gen →
    x.2.kind = .tombstone := by
  intro x hx hr hg
  obtain ⟨y, -, rfl⟩ := List.mem_map.mp hx
  dsimp only at hr hg ⊢
  split
  · rfl
  · next hn => rw [if_neg hn] at hr hg; exact absurd ⟨hr, hg⟩ hn

theorem Region.drained_gen (x : Region) : x.drained.gen = x.gen := by
  unfold Region.drained
  split <;> rfl

end

end Sys2Proof

namespace Sys2Proof.Machine
open Sys2Proof

section
variable {s : State} {r : Fin 512}

/-- The other regions of the zone after a change of one. -/
theorem region_putRegion_other {p : PodStore} {x : Region} (q : Fin 512) (h : q ≠ r) : (p.putRegion r x).region q = p.region q :=
  PodStore.region_putRegion_ne (fun e => h (Fin.ext e))

theorem exec_rekeyStart_pending (hp : (s.store.region r).phase = .pending) (hc : s.store.copying < 4) :
    exec (.rekeyStart r) s = .next (s.onStore (fun p => p.putRegion r { p.region r with phase := .copying })) := if_pos ⟨hp, hc⟩

theorem exec_rekeyStart_off (h : (s.store.region r).phase ≠ .pending ∨ 4 ≤ s.store.copying) : exec (.rekeyStart r) s = .next s :=
  if_neg (fun k => h.elim (· k.1) (by omega))

theorem exec_rekeyCopyDone_copied (hp : (s.store.region r).phase = .copying) (hc : (copyRegion s.store r).2 = true) :
    exec (.rekeyCopyDone r) s = .next (s.onStore (fun p =>
      (copyRegion p r).1.putRegion r { (copyRegion p r).1.region r with phase := .ready })) := by
  refine (if_neg (not_not.mpr hp)).trans ?_
  generalize he : copyRegion s.store r = c at hc ⊢
  obtain ⟨p, b⟩ := c
  obtain rfl : b = true := hc
  simp only [he, State.onStore]
  rfl

theorem exec_rekeyCopyDone_off (h : (s.store.region r).phase ≠ .copying ∨ (copyRegion s.store r).2 = false) :
    exec (.rekeyCopyDone r) s = .next s := by
  refine ite_eq_left_iff.mpr (fun hp => ?_)
  have hc := h.resolve_left hp
  generalize copyRegion s.store r = c at hc ⊢
  obtain ⟨p, b⟩ := c
  obtain rfl : b = false := hc
  rfl

/-- The state whose region has drained, before it is counted. -/
def State.regionDrained (s : State) (r : Nat) : State :=
  s.onStore (fun p => (p.buryOld r).putRegion r (p.region r).drained)

theorem exec_rekeyDrainDone_draining (h : (s.store.region r).phase = .draining) :
    exec (.rekeyDrainDone r) s = .next (((s.regionDrained r).bump Reg.REKEYS_DONE).raise Reg.POD_EVENTS 6) := if_neg (not_not.mpr h)

theorem exec_rekeyDrainDone_off (h : (s.store.region r).phase ≠ .draining) : exec (.rekeyDrainDone r) s = .next s := if_pos h

/-- Settles O30: the copy by what each copied entry adds to the store, the states by what a write of one region leaves. -/
theorem regionsAreRekeyed : Obligations.RegionsAreRekeyed := by
  refine ⟨fun r s hp hc => ⟨_, exec_rekeyStart_pending hp hc, PodStore.region_putRegion_same, region_putRegion_other, rfl⟩,
    fun r s => exec_rekeyStart_off, fun r s hp hc => ?_, fun r s => exec_rekeyCopyDone_off, fun r s hm hp => ?_,
    fun r s => exec_rekeyDrainDone_off⟩
  · have ha := copyRegion_adds s.store r
    refine ⟨_, exec_rekeyCopyDone_copied hp hc, PodStore.region_putRegion_same.trans (by rw [ha.region]),
      fun q hq => (region_putRegion_other q hq).trans (ha.region q), ha.pods, State.onStore_only (Only.refl _ s) (by decide),
      fun e he hk => (copyRegion_placed hc e he hk).putPhase⟩
  · have hw : regsWf (s.regionDrained r).regs = true := hm.1
    have hst : (((s.regionDrained r).bump Reg.REKEYS_DONE).raise Reg.POD_EVENTS 6).store =
        (s.store.buryOld r).putRegion r (s.store.region r).drained := by
      rw [State.raise_store, State.bump_store]; rfl
    refine ⟨_, exec_rekeyDrainDone_draining hp, ?_⟩
    rw [hst]
    refine ⟨PodStore.buryOld_tombstone, fun hh => ?_, fun w hh => ?_, ?_, region_putRegion_other, rfl, rfl, ?_, ?_⟩
    · rw [PodStore.region_putRegion_same, Region.drained, hh]
    · rw [PodStore.region_putRegion_same, Region.drained, hh]
      exact ⟨rfl, rfl, rfl⟩
    · rw [PodStore.region_putRegion_same, Region.drained_gen]
    · rw [State.rget_raise (State.wf_bump hw), if_neg (by decide), State.rget_bump hw, if_pos rfl]
      rfl
    · rw [State.rbit_raise (State.wf_bump hw) (by decide), decide_eq_true ⟨rfl, rfl⟩, Bool.or_true]

end

end Sys2Proof.Machine
end

section
/-! PROOFS. Ageing, merging and relocation of pods (O31). -/

namespace Sys2Proof
open Machine

/-! ### Decay -/

theorem decay_decay (d : Nat) (v : Int) (a b : Nat) : decay d (decay d v a) b = decay d v (a + b) := by
  simp only [decay, Nat.add_mul]
  split_ifs <;> omega

theorem natAbs_decay_le (d : Nat) (v : Int) (m : Nat) : (decay d v m).natAbs ≤ v.natAbs := by
  simp only [decay]
  split_ifs <;> omega

theorem effective_eq_decay (d : Nat) (c : Cell) (g : Nat) : effective d c g = decay d c.logOdds (behind c g) := rfl

/-! ### The entries of the node table and the stash -/

section
variable {p q : PodStore} {key k : Nat} {e : NodeEntry} {f : NodeEntry → NodeEntry}

/-- Every entry that the store lists, in the table and in the stash. -/
def PodStore.entries (p : PodStore) : List NodeEntry := p.nodes.map (fun x => x.2) ++ p.stash

theorem mem_entries_of_node {l : Nat} (h : mget p.nodes l = some e) : e ∈ p.entries :=
  List.mem_append_left _ (List.mem_map.mpr ⟨_, mem_of_mget h, rfl⟩)

theorem NodeEntry.holds_iff : e.holds k = true ↔ e.key = k ∧ e.kind ≠ .tombstone := decide_eq_true_iff

theorem lookupFrom_some {n : Nat} {bs : List Nat} (h : (lookupFrom p key n bs).1 = some e) : e ∈ p.entries ∧ e.holds key = true := by
  induction bs generalizing n with
  | nil => exact absurd h nofun
  | cons b bs ih =>
    simp only [lookupFrom] at h
    split at h
    · next o ho =>
      obtain rfl : o = some e := h
      obtain ⟨i, -, hi⟩ := List.mem_map.mp (List.mem_of_find?_eq_some ho)
      exact ⟨mem_entries_of_node hi, by simpa using List.find?_some ho⟩
    · split at h
      · exact absurd h nofun
      · exact ih h

/-- A lookup finds a listed live entry of its key (R200). -/
theorem PodStore.lookup_some (h : (p.lookup key).1 = some e) : e ∈ p.entries ∧ e.holds key = true := by
  unfold PodStore.lookup at h
  split at h
  · next x hx =>
    obtain rfl := Option.some.inj h
    exact ⟨List.mem_append_right _ (List.mem_of_find?_eq_some hx), by simpa using List.find?_some hx⟩
  · exact lookupFrom_some h

/-- No live entry of a key is listed. -/
def PodStore.Lacks (p : PodStore) (key : Nat) : Prop := ∀ e ∈ p.entries, e.holds key = false

theorem PodStore.Lacks.lookup (h : p.Lacks key) : (p.lookup key).1 = none :=
  Option.eq_none_iff_forall_ne_some.mpr (fun e he => by
    obtain ⟨hm, hk⟩ := PodStore.lookup_some he
    exact absurd hk (by rw [h e hm]; exact Bool.false_ne_true))

theorem PodStore.entries_modNode : (p.modNode key f).entries = p.entries.map (fun e => if e.holds key then f e else e) := by
  simp only [PodStore.entries, PodStore.modNode, List.map_append, List.map_map]
  rfl

theorem PodStore.Lacks.modNode (h : p.Lacks k) (hf : ∀ e, (f e).holds k = true → e.holds k = true) : (p.modNode key f).Lacks k := by
  intro x hx
  rw [PodStore.entries_modNode] at hx
  obtain ⟨y, hy, rfl⟩ := List.mem_map.mp hx
  split
  · exact Bool.eq_false_iff.mpr (fun hk => Bool.eq_false_iff.mp (h y hy) (hf y hk))
  · exact h y hy

/-! ### Removal of a node -/

/-- The store without the node of a key: a tombstone in the table, out of the stash. -/
def PodStore.buried (p : PodStore) (key : Nat) : PodStore :=
  { p.modNode key (fun e => { e with kind := .tombstone }) with stash := p.stash.filter (fun e => !e.holds key) }

/-- The store whose parent of a node no longer names it in its CHILD_MASK. -/
def PodStore.unlinked (p : PodStore) (key : Nat) : PodStore :=
  p.modNode (keyAt (keyLevel key - 1) key) (fun e =>
    { e with childMask := if e.childMask.testBit (childIx key) then e.childMask - 2 ^ childIx key else e.childMask })

theorem PodStore.dropNode_cases (f : Nat) (p : PodStore) (key : Nat) :
    dropNode (f + 1) p key = p.buried key ∨ dropNode (f + 1) p key = (p.buried key).unlinked key ∨
      dropNode (f + 1) p key = dropNode f ((p.buried key).unlinked key) (keyAt (keyLevel key - 1) key) := by
  generalize hq : dropNode (f + 1) p key = q
  rw [PodStore.dropNode] at hq
  dsimp only at hq
  split at hq
  · exact .inl hq.symm
  · split at hq
    · split at hq
      · exact .inr (.inr hq.symm)
      · exact .inr (.inl hq.symm)
    · exact .inr (.inl hq.symm)

theorem PodStore.buried_lacks_self : (p.buried key).Lacks key := by
  intro x hx
  rcases List.mem_append.mp hx with hx | hx
  · obtain ⟨_, hy, rfl⟩ := List.mem_map.mp hx
    obtain ⟨y, -, rfl⟩ := List.mem_map.mp hy
    dsimp only
    split
    · exact decide_eq_false (fun h => h.2 rfl)
    · next h => exact Bool.eq_false_iff.mpr h
  · simpa using (List.mem_filter.mp hx).2

theorem PodStore.Lacks.buried (h : p.Lacks k) : (p.buried key).Lacks k := by
  have hm := h.modNode (key := key) (f := fun e => { e with kind := .tombstone }) (fun e he => absurd rfl (of_decide_eq_true he).2)
  intro x hx
  rcases List.mem_append.mp hx with hx | hx
  · exact hm x (List.mem_append_left _ hx)
  · exact h x (List.mem_append_right _ (List.mem_of_mem_filter hx))

theorem PodStore.Lacks.unlinked (h : p.Lacks k) : (p.unlinked key).Lacks k := h.modNode (fun _ he => he)

theorem PodStore.Lacks.dropNode {f : Nat} (h : p.Lacks k) : (PodStore.dropNode f p key).Lacks k := by
  induction f generalizing p key with
  | zero => exact h
  | succ f ih =>
    rcases PodStore.dropNode_cases f p key with e | e | e <;> rw [e]
    · exact h.buried
    · exact h.buried.unlinked
    · exact ih h.buried.unlinked

theorem PodStore.dropNode_lacks_self (f : Nat) : (PodStore.dropNode (f + 1) p key).Lacks key := by
  rcases PodStore.dropNode_cases f p key with e | e | e <;> rw [e]
  · exact PodStore.buried_lacks_self
  · exact PodStore.buried_lacks_self.unlinked
  · exact PodStore.buried_lacks_self.unlinked.dropNode

theorem PodStore.dropNode_pods (f : Nat) : (PodStore.dropNode f p key).pods = p.pods := by
  induction f generalizing p key with
  | zero => rfl
  | succ f ih =>
    rcases PodStore.dropNode_cases f p key with e | e | e <;> rw [e]
    · rfl
    · rfl
    · exact ih

theorem freeSlot_free {cap n c f i j : Nat} (h : freeSlot p cap n c f i = some j) : mget p.pods j = none := by
  induction f generalizing i with
  | zero => exact absurd h nofun
  | succ f ih =>
    simp only [freeSlot] at h
    split at h
    · exact absurd h nofun
    · split at h
      · next hn => exact Option.some.inj h ▸ Option.isNone_iff_eq_none.mp hn
      · exact ih h

end

/-! ### The least of a list -/

section
variable {α : Type} {rank : α → Nat} {l : List α} {a : α}

theorem lminBy_eq_none : lminBy rank l = none → l = [] := by
  cases l with
  | nil => exact fun _ => rfl
  | cons b l =>
    simp only [lminBy]
    split
    · exact nofun
    · split <;> exact nofun

theorem lminBy_le (h : lminBy rank l = some a) : ∀ b ∈ l, rank a ≤ rank b := by
  induction l generalizing a with
  | nil => exact nofun
  | cons b l ih =>
    intro x hx
    cases e : lminBy rank l with
    | none =>
      simp only [lminBy, e, Option.some.injEq] at h
      obtain rfl := lminBy_eq_none e
      rw [List.mem_singleton.mp hx, h]
    | some c =>
      have hc := ih e
      simp only [lminBy, e] at h
      split at h <;> obtain rfl := Option.some.inj h <;> rcases List.mem_cons.mp hx with rfl | hx
      · omega
      · exact hc x hx
      · exact Nat.le_refl _
      · exact (Nat.le_of_not_lt ‹_›).trans (hc x hx)

end

theorem foldl_min_le (l : List Nat) (m : Nat) : l.foldl min m ≤ m ∧ ∀ x ∈ l, l.foldl min m ≤ x := by
  induction l generalizing m with
  | nil => exact ⟨Nat.le_refl m, nofun⟩
  | cons a l ih =>
    obtain ⟨hm, hl⟩ := ih (min m a)
    refine ⟨hm.trans (Nat.min_le_left _ _), fun x hx => ?_⟩
    rcases List.mem_cons.mp hx with rfl | hx
    · exact hm.trans (Nat.min_le_right _ _)
    · exact hl x hx

/-! ### Entries through a change of one key -/

section
variable {p : PodStore} {key : Nat} {e : NodeEntry} {f : NodeEntry → NodeEntry}

theorem mem_entries_modNode (h : e ∈ p.entries) (hk : e.holds key = true) : f e ∈ (p.modNode key f).entries := by
  rw [PodStore.entries_modNode]
  exact List.mem_map.mpr ⟨e, h, if_pos hk⟩

theorem mem_nodes_modNodes {keys : List Nat} {x : Nat × NodeEntry} (h : x ∈ p.nodes) (hk : x.2.key ∉ keys) :
    x ∈ (keys.foldl (fun q k => q.modNode k f) p).nodes := by
  induction keys generalizing p with
  | nil => exact h
  | cons k keys ih =>
    obtain ⟨hne, hrest⟩ := not_or.mp (mt List.mem_cons.mpr hk)
    exact ih (List.mem_map.mpr ⟨x, h, Prod.ext rfl (if_neg (fun hh => hne (NodeEntry.holds_iff.mp hh).1))⟩) hrest

/-- An interior node become a merged one. -/
def NodeEntry.mergedAs (x : NodeEntry) (c : Cell) : NodeEntry := { x with kind := .merged, cell := c, childMask := 0 }

/-- The store without the nodes `cs`. -/
def PodStore.without (p : PodStore) (cs : List NodeEntry) : PodStore :=
  { ((cs.map (fun c => c.key)).foldl (fun q k => q.modNode k (fun x => { x with kind := .tombstone })) p) with
    pods := ((cs.filter (fun c => c.kind = .pod)).map (fun c => c.pool)).foldl (fun m ix => merase m ix) p.pods
    stash := p.stash.filter (fun x => !(cs.map (fun c => c.key)).contains x.key) }

/-- The store in which the node of a key with the children `cs` has become merged, with record `c` (R222). -/
def PodStore.merged (p : PodStore) (key : Nat) (cs : List NodeEntry) (c : Cell) : PodStore :=
  (p.without cs).modNode key (fun x => x.mergedAs c)

theorem mem_entries_without {cs : List NodeEntry} (h : e ∈ p.entries) (hk : ∀ c ∈ cs, c.key ≠ e.key) : e ∈ (p.without cs).entries := by
  have hn : e.key ∉ cs.map (fun c => c.key) := fun hm => by
    obtain ⟨c, hc, he⟩ := List.mem_map.mp hm
    exact hk c hc he
  rcases List.mem_append.mp h with h | h
  · obtain ⟨x, hx, rfl⟩ := List.mem_map.mp h
    exact List.mem_append_left _ (List.mem_map.mpr ⟨x, mem_nodes_modNodes hx hn, rfl⟩)
  · exact List.mem_append_right _ (List.mem_filter.mpr ⟨h, by simpa using hn⟩)

theorem mem_entries_merged {cs : List NodeEntry} {c : Cell} (h : e ∈ p.entries) (hl : e.kind ≠ .tombstone) (hk : ∀ x ∈ cs, x.key ≠ e.key) :
    e.mergedAs c ∈ (p.merged e.key cs c).entries :=
  mem_entries_modNode (mem_entries_without h hk) (NodeEntry.holds_iff.mpr ⟨rfl, hl⟩)

/-- A node of level 8 or above is none of its children. -/
theorem ne_of_mem_childKeys {mask k : Nat} (hl : keyLevel key ≤ 8) (h : k ∈ childKeys key mask) : k ≠ key := by
  obtain ⟨i, hi, rfl⟩ := List.mem_map.mp h
  have hi : i < 8 := List.mem_range.mp (List.mem_filter.mp hi).1
  have hp : 2 ^ (3 * (11 - (keyLevel key + 1))) ≤ 2 ^ 30 := Nat.pow_le_pow_right (by decide) (by omega)
  have hm : i * 2 ^ (3 * (11 - (keyLevel key + 1))) ≤ 7 * 2 ^ 30 := Nat.mul_le_mul (by omega) hp
  generalize i * 2 ^ (3 * (11 - (keyLevel key + 1))) = n at hm ⊢
  simp only [keyLevel, keyMorton, nbits, Nat.shiftRight_eq_div_pow] at *
  omega

end

/-! ### Layers -/

section
variable {α : Type} {l : List α} {i : Nat} {f : α → α}

theorem getElem?_lmod_same : (lmod l i f)[i]? = l[i]?.map f := by
  induction l generalizing i with
  | nil => rfl
  | cons a l ih =>
    cases i with
    | zero => rfl
    | succ i => exact ih

theorem getElem?_lmod_ne {j : Nat} (h : j ≠ i) : (lmod l i f)[j]? = l[j]? := by
  induction l generalizing i j with
  | nil => rfl
  | cons a l ih =>
    cases i with
    | zero => cases j with
      | zero => exact absurd rfl h
      | succ j => rfl
    | succ i => cases j with
      | zero => rfl
      | succ j => exact ih (fun e => h (congrArg (· + 1) e))

end

/-- A layer with one more delta logged (R235). -/
def Layer.logged (l : Layer) (kind source key : Nat) : Layer :=
  { l with log := l.log ++ [⟨kind, source, key⟩], touched := kinsert key l.touched, keys := kinsert key l.keys }

end Sys2Proof

namespace Sys2Proof.Machine
open Sys2Proof

section
variable {s : State} {ix : Nat} {p : Pod} {e : NodeEntry} {key : BitVec 48}

/-! ### The ageing pass -/

/-- A re-based cell has the effective value that it had (R215). -/
theorem effective_ageCell {d g : Nat} {c : Cell} (h : c.last < 256) : effective d (ageCell d g c) g = effective d c g := by
  unfold ageCell
  split
  · next hb =>
    rw [effective_eq_decay, effective_eq_decay, effective_eq_decay, decay_decay]
    simp only [behind] at hb ⊢
    congr 1
    omega
  · rfl

theorem behind_ageCell_lt {d g : Nat} {c : Cell} : behind (ageCell d g c) g < 96 := by
  unfold ageCell
  split
  · simp only [behind]; omega
  · omega

theorem agedOut_iff {d depth g : Nat} :
    agedOut d depth g p = true ↔ ∀ c ∈ p.cells, effective d c g = 0 ∧ c.conf = 0 ∧ c.cls = 0 ∧ depth < behind c g := by
  simp only [agedOut, List.all_eq_true, decide_eq_true_eq]

theorem exec_ageingPass_off (h : ¬ s.up ∨ s.live = none ∨ mget s.store.pods ix = none) : exec (.ageingPass ix) s = .next s := by
  show execAgeingPass ix s = _
  unfold execAgeingPass
  split
  · rfl
  · next hn =>
    obtain ⟨hu, hl⟩ := not_or.mp hn
    rw [(h.resolve_left hu).resolve_left (fun e => hl (by rw [e]; rfl))]

theorem exec_ageingPass_visit (hu : s.up) (hl : s.live.isSome) (hp : mget s.store.pods ix = some p) :
    exec (.ageingPass ix) s =
      if agedOut s.config.decay s.config.depth s.frame p then .next ((s.freePod ix).bump Reg.PODS_FREED)
      else .next (s.onStore (fun q => { q with pods := mset q.pods ix { p with cells := p.cells.map (ageCell s.config.decay s.frame) } })) := by
  show execAgeingPass ix s = _
  unfold execAgeingPass
  rw [if_neg (not_or.mpr ⟨not_not.mpr hu, fun hn => by rw [Option.isNone_iff_eq_none.mp hn] at hl; exact Bool.false_ne_true hl⟩), hp]

theorem State.mergeStop_store : ∃ b, s.mergeStop.store = { s.store with merging := b } := by
  unfold State.mergeStop
  split
  · exact ⟨false, rfl⟩
  · exact ⟨s.store.merging, rfl⟩

theorem State.freePod_store (hp : mget s.store.pods ix = some p) :
    ∃ b, (s.freePod ix).store = { PodStore.dropNode 12 { s.store with pods := merase s.store.pods ix } p.key with merging := b } := by
  unfold State.freePod
  rw [hp]
  exact State.mergeStop_store

theorem State.freePod_pods (hp : mget s.store.pods ix = some p) : (s.freePod ix).store.pods = merase s.store.pods ix := by
  obtain ⟨b, hb⟩ := State.freePod_store hp
  rw [hb]
  exact PodStore.dropNode_pods 12

theorem State.freePod_lacks (hp : mget s.store.pods ix = some p) : (s.freePod ix).store.Lacks p.key := by
  obtain ⟨b, hb⟩ := State.freePod_store hp
  rw [hb]
  exact PodStore.dropNode_lacks_self 11

theorem State.freePod_regs : (s.freePod ix).regs = s.regs := State.freePod_only (l := [.store, .peers]) (Only.refl _ s) (by decide) .regs rfl

/-! ### Merging -/

theorem State.mergeStop_entries : s.mergeStop.store.entries = s.store.entries := by
  obtain ⟨b, hb⟩ := State.mergeStop_store (s := s)
  rw [hb]
  rfl

theorem State.mergeStop_com : s.mergeStop.com = s.com := State.mergeStop_only (l := [.store]) (Only.refl _ s) (by decide) .com rfl

theorem State.mergeStart_merging (h : s.store.merging = true) : s.mergeStart = s := if_neg (fun k => k.2.2 h)

theorem exec_podMerge_none (h : s.store.merging = true) (hc : s.mergeChoice = none) :
    exec (.podMerge key) s = .next { s with store := { s.store with merging := false } } := by
  show execPodMerge key s = _
  unfold execPodMerge
  rw [State.mergeStart_merging h]
  dsimp only
  rw [if_neg (not_not.mpr h), hc]
  rfl

theorem exec_podMerge_some (h : s.store.merging = true) (hc : s.mergeChoice = some e) :
    exec (.podMerge key) s = .next (if e.key = key.toNat then s.mergeNode e else s) := by
  show execPodMerge key s = _
  unfold execPodMerge
  rw [State.mergeStart_merging h]
  dsimp only
  rw [if_neg (not_not.mpr h), hc]
  dsimp only
  split <;> rfl

/-- The chosen node is a listed interior node of level 8 or above (R221). -/
theorem State.mergeChoice_some (h : s.mergeChoice = some e) : e ∈ s.store.entries ∧ e.kind = .interior ∧ keyLevel e.key ≤ 8 := by
  obtain ⟨hm, he⟩ := List.mem_filter.mp (mem_of_lminBy h)
  simp only [State.mergeable, Bool.and_eq_true, decide_eq_true_eq] at he
  obtain ⟨⟨⟨⟨hk, -, hl, -⟩, -⟩, -⟩, -⟩ := he
  exact ⟨hm, hk, hl⟩

theorem State.key_of_childEntry {c : NodeEntry} (h : c ∈ s.childEntries e) : c.key ∈ childKeys e.key e.childMask := by
  obtain ⟨k, hk, hc⟩ := List.mem_filterMap.mp h
  obtain ⟨-, hh⟩ := PodStore.lookup_some hc
  exact (NodeEntry.holds_iff.mp hh).1 ▸ hk

/-- The rank of a record below a merged node: the strongest first, of equals the one of the lower key (R222). -/
def State.mergeRank (s : State) (x : Nat × Cell) : Nat := ((2 ^ 40 : Nat) - effective s.config.decay x.2 s.frame).toNat * 2 ^ 48 + x.1

/-- The record of a merged node whose strongest record below is `best` (R222). -/
def State.mergedCell (s : State) (recs : List (Nat × Cell)) (best : Nat × Cell) : Cell :=
  { best.2 with logOdds := effective s.config.decay best.2 s.frame, last := s.frame % 256, conf := (recs.map (fun x => x.2.conf)).foldl min 15 }

/-- What a merge changes in the store and in the layers, where the open layer has room (R222). -/
theorem State.mergeNode_parts {best : Nat × Cell} (hb : lminBy s.mergeRank (s.recordsBelow (s.childEntries e)) = some best)
    (hr : s.layerRoom 0 1 = true) :
    (s.mergeNode e).store.entries = (s.store.merged e.key (s.childEntries e) (s.mergedCell (s.recordsBelow (s.childEntries e)) best)).entries ∧
      (s.mergeNode e).com.layers = lmod s.com.layers 0 (fun l => l.logged 4 0 e.key) := by
  unfold State.mergeNode
  dsimp only
  split
  · next hn => exact absurd (hb.symm.trans hn) nofun
  · next b hb' =>
    obtain rfl : best = b := Option.some.inj (hb.symm.trans hb')
    rw [if_neg (not_not.mpr hr), State.mergeStop_entries, State.mergeStop_com]
    exact ⟨rfl, rfl⟩

/-- The record of least rank is the strongest, and ranks of bounded records order them by strength. -/
theorem State.effective_le_of_mergeRank {a b : Nat × Cell} (ha : a.1 < 2 ^ 48 ∧ a.2.logOdds.natAbs ≤ 32768)
    (hb : b.1 < 2 ^ 48 ∧ b.2.logOdds.natAbs ≤ 32768) (h : s.mergeRank a ≤ s.mergeRank b) :
    effective s.config.decay b.2 s.frame ≤ effective s.config.decay a.2 s.frame := by
  have hea := natAbs_decay_le s.config.decay a.2.logOdds (behind a.2 s.frame)
  have heb := natAbs_decay_le s.config.decay b.2.logOdds (behind b.2 s.frame)
  rw [← effective_eq_decay] at hea heb
  simp only [State.mergeRank] at h
  omega

theorem exec_podMerge_merges {l : Layer} (hm : s.store.merging = true) (hc : s.mergeChoice = some e) (hk : e.key = key.toNat)
    (hne : s.recordsBelow (s.childEntries e) ≠ []) (hl : s.com.layers[0]? = some l) (hr : s.layerRoom 0 1 = true)
    (hb : ∀ r ∈ s.recordsBelow (s.childEntries e), r.1 < 2 ^ 48 ∧ r.2.logOdds.natAbs ≤ 32768) :
    ∃ t x k, exec (.podMerge key) s = .next t ∧ x ∈ t.store.entries ∧ x.key = e.key ∧ x.kind = .merged ∧
      x.childMask = 0 ∧ x.cell.last = s.frame % 256 ∧
      (∀ r ∈ s.recordsBelow (s.childEntries e), effective s.config.decay r.2 s.frame ≤ x.cell.logOdds ∧ x.cell.conf ≤ r.2.conf) ∧
      (∃ r ∈ s.recordsBelow (s.childEntries e), effective s.config.decay r.2 s.frame = x.cell.logOdds) ∧
      t.com.layers[0]? = some k ∧ k.log = l.log ++ [⟨4, 0, e.key⟩] := by
  obtain ⟨best, hbest⟩ := Option.ne_none_iff_exists'.mp (fun h => hne (lminBy_eq_none (rank := s.mergeRank) h))
  obtain ⟨hmem, hkind, hlevel⟩ := State.mergeChoice_some hc
  obtain ⟨hstore, hlayers⟩ := State.mergeNode_parts hbest hr
  have hin := mem_of_lminBy hbest
  have hfar : ∀ c ∈ s.childEntries e, c.key ≠ e.key := fun c hc => ne_of_mem_childKeys hlevel (State.key_of_childEntry hc)
  refine ⟨s.mergeNode e, e.mergedAs (s.mergedCell (s.recordsBelow (s.childEntries e)) best), l.logged 4 0 e.key,
    (exec_podMerge_some hm hc).trans (by rw [if_pos hk]), ?_, rfl, rfl, rfl, rfl, fun r hrm => ⟨?_, ?_⟩, ⟨best, hin, rfl⟩, ?_, rfl⟩
  · rw [hstore]
    exact mem_entries_merged hmem (by rw [hkind]; decide) hfar
  · exact State.effective_le_of_mergeRank (hb best hin) (hb r hrm) (lminBy_le hbest r hrm)
  · exact (foldl_min_le _ 15).2 _ (List.mem_map.mpr ⟨r, hrm, rfl⟩)
  · rw [hlayers, getElem?_lmod_same, hl]
    rfl

/-! ### Relocation -/

theorem exec_podRelocate_moves {new hot cool : Nat} (hc : s.hotCool = some (hot, cool)) (ha : s.podAt key.toNat = some ix)
    (hp : mget s.store.pods ix = some p) (hi : s.place.imbalance = true) (hh : ix % max s.mem.inUse 1 = hot)
    (hf : freeSlot s.store s.poolPods (max s.mem.inUse 1) cool (s.store.pods.length + 2) 0 = some new) :
    exec (.podRelocate key) s = .next ((s.onStore (fun q => ({ q with pods := mset (merase q.pods ix) new p } : PodStore).modNode key.toNat
      (fun e => { e with pool := new }))).bump Reg.PODS_RELOCATED) := by
  show execPodRelocate key s = _
  unfold execPodRelocate
  dsimp only
  rw [hc, ha]
  dsimp only
  rw [if_neg (not_or.mpr ⟨not_not.mpr hi, not_not.mpr hh⟩), hf, hp]

theorem exec_podRelocate_off (h : s.place.imbalance = false ∨ s.podAt key.toNat = none) : exec (.podRelocate key) s = .next s := by
  show execPodRelocate key s = _
  unfold execPodRelocate
  dsimp only
  split
  · next ha =>
    have hi : s.place.imbalance = false := h.resolve_right (by rw [ha]; exact nofun)
    exact if_pos (.inl (by rw [hi]; exact Bool.false_ne_true))
  · rfl

/-- Settles O31: the pass by what a re-based cell reads, the merge by the record of least rank, the move by what the pools read after it. -/
theorem ageingMergingAndRelocation : Obligations.AgeingMergingAndRelocation := by
  refine ⟨fun ix s => exec_ageingPass_off, fun ix s p hu hl hp hc hlast => ?_, fun ix s p hm hr hu hl hp hc => ?_,
    fun key s => exec_podMerge_none, fun key s e hm hc hk => (exec_podMerge_some hm hc).trans (by rw [if_neg hk]),
    fun key s e l _ hm hc hk hne hl hr hb => exec_podMerge_merges hm hc hk hne hl hr hb,
    fun key s ix new hot cool p hm hr hhc ha hp hi hh hf => ?_, fun key s => exec_podRelocate_off⟩
  · have hold : ¬ agedOut s.config.decay s.config.depth s.frame p = true := fun h => by
      obtain ⟨c, hcm, hne⟩ := hc
      have := agedOut_iff.mp h c hcm
      omega
    refine ⟨_, { p with cells := p.cells.map (ageCell s.config.decay s.frame) }, (exec_ageingPass_visit hu hl hp).trans (if_neg hold),
      mget_mset_same .., rfl, rfl, ?_, fun c hcm => ?_, fun j hj => mget_mset_ne _ _ _ hj, State.onStore_only (Only.refl _ s) (by decide)⟩
    · rw [List.map_map]
      exact List.map_congr_left (fun c hcm => effective_ageCell (hlast c hcm))
    · obtain ⟨c, -, rfl⟩ := List.mem_map.mp hcm
      exact behind_ageCell_lt
  · have hst : ((s.freePod ix).bump Reg.PODS_FREED).store = (s.freePod ix).store := State.bump_store
    have hpods := State.freePod_pods hp
    have hw : regsWf (s.freePod ix).regs = true := by rw [State.freePod_regs]; exact hm.1
    refine ⟨_, (exec_ageingPass_visit hu hl hp).trans (if_pos (agedOut_iff.mpr hc)), ?_⟩
    rw [hst, hpods]
    refine ⟨mget_merase_same ix hr, fun j hj => mget_merase_ne ix hr hj, (State.freePod_lacks hp).lookup, ?_⟩
    rw [State.rget_bump hw, if_pos rfl, State.rget_congr State.freePod_regs]
  · have hnew := freeSlot_free hf
    have hne : ix ≠ new := fun h => by rw [h, hnew] at hp; exact absurd hp nofun
    refine ⟨_, exec_podRelocate_moves hhc ha hp hi hh hf, mget_mset_same .., (mget_mset_ne _ _ _ hne).trans (mget_merase_same ix hr),
      fun j h1 h2 => (mget_mset_ne _ _ _ h1).trans (mget_merase_ne ix hr h2), (State.rget_bump hm.1).trans (if_pos rfl),
      State.bump_only (State.onStore_only (Only.refl _ s) (by decide)) (by decide)⟩

end

end Sys2Proof.Machine
end

section
/-! PROOFS. De-skew of peas (O27). -/

namespace Sys2Proof
open Machine

/-- The time of a pea released to de-skew, in units of 1/64 µs. -/
def DeskewItem.time (d : DeskewItem) : Nat := d.frame * 65536 + d.pea.timeOffset

/-- Whether a pea's coordinates fit 24 signed bits (R179). -/
def Pea.Fits (q : Pea) : Prop := fits24 q.x ∧ fits24 q.y ∧ fits24 q.z

end Sys2Proof

namespace Sys2Proof.Machine
open Sys2Proof

section
variable {s : State} {d : DeskewItem} {e : SensorEntry} {v o : List Int}

/-! ### The arithmetic of R178 -/

/-- What fixed-point arithmetic gives lies within 1 unit of the exact value (R178). -/
theorem poseResult_near (v f : Int) : ((poseResult v f * poseOne - v).natAbs : Int) ≤ poseOne := by
  unfold poseResult
  dsimp only
  split
  · assumption
  · simp only [poseRound, poseOne]
    omega

/-! ### The parts of a de-skew -/

/-- A pea and its sensor's origin in the zone frame, exact; none where the track's versions do not cover the time (R177, R179). -/
def State.zonePoint (s : State) (d : DeskewItem) (e : SensorEntry) : Option (List Int × List Int) :=
  let ex := mgetD s.store.extrinsics d.pea.sensor e.extrinsic
  if e.fixed then some (throughExtrinsic ex d.pea.x d.pea.y d.pea.z, throughExtrinsic ex 0 0 0)
  else (compositePose (fun n => s.store.versionAt n s.tl.beats) e.track d.time).map (fun w =>
    (w.apply (throughExtrinsic ex d.pea.x d.pea.y d.pea.z), w.apply (throughExtrinsic ex 0 0 0)))

/-- The pea of a de-skew, at the zone-frame point that arithmetic gives for `v`. -/
def State.zonePea (s : State) (d : DeskewItem) (v : List Int) : Pea :=
  { d.pea with x := poseResult (lgetD v 0 0) s.freeInt, y := poseResult (lgetD v 1 0) (s.freeInt / 3), z := poseResult (lgetD v 2 0) (s.freeInt / 9)
               range := rangeCode d.pea.x d.pea.y d.pea.z }

/-- The part after the arithmetic of a de-skew: the free value taken, and for a moving sensor the versions counted and noted (R403). -/
def State.posed (s : State) (e : SensorEntry) : State :=
  if e.fixed then s.took
  else (chainOf (fun n => s.store.versionAt n s.tl.beats) e.track).foldl (fun a n => (a.bump (Reg.TRACK_PEAS n)).useVersion n) s.took

theorem State.sensorFor_getD (he : s.sensorFor d.pea.sensor d.time = some e) :
    (s.sensorFor d.pea.sensor (d.frame * 65536 + d.pea.timeOffset)).getD {} = e := by
  rw [DeskewItem.time] at he
  rw [he, Option.getD_some]

theorem State.deskewOne_uncovered (he : s.sensorFor d.pea.sensor d.time = some e) (hz : s.zonePoint d e = none) :
    s.deskewOne d = s.deskewDrop d Reg.SPLINE_MISSES 8 := by
  unfold State.deskewOne
  dsimp only
  rw [State.sensorFor_getD he]
  split
  · rfl
  · next h => exact absurd (hz.symm.trans h) nofun

/-- The pea of a de-skew on its way to filing (R182). -/
def State.zoneItem (s : State) (d : DeskewItem) (e : SensorEntry) (v o : List Int) : FileItem :=
  { pea := s.zonePea d v, frame := d.frame, epoch := d.epoch, origin := some (poseRound (lgetD o 0 0), poseRound (lgetD o 1 0), poseRound (lgetD o 2 0))
    track := if e.fixed then none else some e.track, beat := s.tl.beats }

/-- The part that has noted the sweep of a pea de-skewed to `v` (R219). -/
def State.swept (s : State) (d : DeskewItem) (e : SensorEntry) (v : List Int) : State := (s.posed e).noteSweep (s.zonePea d v) d.frame

/-- The ways of a pea that has its zone-frame point: dropped where it does not fit, filed in the owned box, forwarded outside it (R177 to R182). -/
theorem State.deskewOne_covered (he : s.sensorFor d.pea.sensor d.time = some e) (hz : s.zonePoint d e = some (v, o)) :
    (¬ (s.zonePea d v).Fits → s.deskewOne d = (s.posed e).deskewDrop d Reg.RANGE_DROPS 0) ∧
    ((s.zonePea d v).Fits → inBox s.owned (s.zonePea d v).x (s.zonePea d v).y (s.zonePea d v).z = true →
      s.deskewOne d = (s.swept d e v).onStore (fun p => { p with fileQ := p.fileQ ++ [s.zoneItem d e v o] })) ∧
    ((s.zonePea d v).Fits → ¬ inBox s.owned (s.zonePea d v).x (s.zonePea d v).y (s.zonePea d v).z = true →
      s.deskewOne d = (s.swept d e v).forwardPea (s.zonePea d v) d.frame d.epoch 1) := by
  unfold State.deskewOne
  dsimp only
  rw [State.sensorFor_getD he]
  split
  · next h => exact absurd (hz.symm.trans h) nofun
  · next p o' h =>
    obtain ⟨rfl, rfl⟩ := Prod.mk.inj (Option.some.inj (hz.symm.trans h))
    exact ⟨fun hf => if_pos hf, fun hf hb => (if_neg (not_not.mpr hf)).trans (if_pos hb),
      fun hf hb => (if_neg (not_not.mpr hf)).trans (if_neg hb)⟩

/-! ### What the parts leave alone -/

theorem State.useVersion_store {n : Nat} : ∃ w, (s.useVersion n).store = { s.store with versions := w } := ⟨_, rfl⟩

theorem State.store_of_versionsUsed (l : List Nat) (t : State) :
    ∃ w, (l.foldl (fun a n => (a.bump (Reg.TRACK_PEAS n)).useVersion n) t).store = { t.store with versions := w } := by
  induction l generalizing t with
  | nil => exact ⟨t.store.versions, rfl⟩
  | cons n l ih =>
    obtain ⟨w, hw⟩ := ih ((t.bump (Reg.TRACK_PEAS n)).useVersion n)
    obtain ⟨w', hw'⟩ := State.useVersion_store (s := t.bump (Reg.TRACK_PEAS n)) (n := n)
    exact ⟨w, hw.trans (by rw [hw', State.bump_store])⟩

theorem State.posed_store : ∃ w, (s.posed e).store = { s.store with versions := w } := by
  unfold State.posed
  split
  · exact ⟨s.store.versions, rfl⟩
  · exact State.store_of_versionsUsed _ s.took

theorem State.posed_keeps : Keeps s (s.posed e) := by
  unfold State.posed
  split
  · exact State.took_keeps (.refl s)
  · exact (State.took_keeps (.refl s)).foldl (fun _ _ h => State.useVersion_keeps (State.bump_keeps h))

theorem State.posed_fixed (h : e.fixed = true) : s.posed e = s.took := if_pos h

theorem State.noteSweep_store {q : Pea} {f : Nat} : ∃ w, (s.noteSweep q f).store = { s.store with sweeps := w } := by
  unfold State.noteSweep
  dsimp only
  split
  · exact ⟨s.store.sweeps, rfl⟩
  · exact ⟨_, rfl⟩

theorem State.deskewDrop_store {reg ev : Nat} : (s.deskewDrop d reg ev).store = s.store :=
  State.deskewDrop_only (l := [.regs, .safety, .host, .out]) (Only.refl _ s) (by decide) .store rfl

theorem State.deskewDrop_regs {reg ev : Nat} :
    (s.deskewDrop d reg ev).regs = (((s.bump reg).bump (Reg.SENSOR_DROPS d.pea.sensor)).raise Reg.POD_EVENTS ev).regs :=
  State.untapPea_only (l := [.safety]) (Only.refl _ _) (by decide) .regs rfl

/-- The register of a sensor's drops is none of the pod store's (R163, R228). -/
theorem sensorDrops_lt {n : Nat} (h : n < 1024) : Reg.SENSOR_DROPS n < Reg.POD_EVENTS := by
  simp only [Reg.SENSOR_DROPS, Reg.POD_EVENTS]
  omega

/-- A drop at de-skew counts in its register and raises its event (R179). -/
theorem State.deskewDrop_counts {reg ev : Nat} (hw : regsWf s.regs = true) (hs : d.pea.sensor < 1024) (hreg : Reg.POD_EVENTS < reg) (hev : ev < 32) :
    (s.deskewDrop d reg ev).rget reg = satAdd32 (s.rget reg) 1 ∧ (s.deskewDrop d reg ev).rbit Reg.POD_EVENTS ev = true := by
  have hlt := sensorDrops_lt hs
  have hw1 : regsWf (s.bump reg).regs = true := State.wf_bump hw
  constructor
  · rw [State.rget_congr State.deskewDrop_regs, State.rget_raise (State.wf_bump hw1), if_neg (by omega), State.rget_bump hw1, if_neg (by omega),
      State.rget_bump hw, if_pos rfl]
  · rw [State.rbit, State.rget_congr State.deskewDrop_regs, ← State.rbit, State.rbit_raise (State.wf_bump hw1) hev, decide_eq_true ⟨rfl, rfl⟩,
      Bool.or_true]

theorem State.swept_store : ∃ w x, (s.swept d e v).store = { s.store with versions := w, sweeps := x } := by
  obtain ⟨w, hw⟩ := State.posed_store (s := s) (e := e)
  obtain ⟨x, hx⟩ := State.noteSweep_store (s := s.posed e) (q := s.zonePea d v) (f := d.frame)
  exact ⟨w, x, hx.trans (by rw [hw])⟩

theorem State.forwardPea_store {q : Pea} {f g n : Nat} : (s.forwardPea q f g n).store = s.store :=
  State.forwardPea_only (l := [.regs, .peers, .host, .out]) (Only.refl _ s) (by decide) .store rfl

theorem State.deskewOne_covered_deskewQ (he : s.sensorFor d.pea.sensor d.time = some e) (hz : s.zonePoint d e = some (v, o)) :
    (s.deskewOne d).store.deskewQ = s.store.deskewQ := by
  obtain ⟨hfar, hnear, hout⟩ := State.deskewOne_covered he hz
  obtain ⟨w, hw⟩ := State.posed_store (s := s) (e := e)
  obtain ⟨w', x, hx⟩ := State.swept_store (s := s) (d := d) (e := e) (v := v)
  by_cases hf : (s.zonePea d v).Fits
  · by_cases hb : inBox s.owned (s.zonePea d v).x (s.zonePea d v).y (s.zonePea d v).z = true
    · rw [hnear hf hb, State.onStore_store, hx]
    · rw [hout hf hb, State.forwardPea_store, hx]
  · rw [hfar hf, State.deskewDrop_store, hw]

/-! ### The command -/

/-- The part whose oldest pea has left the queue of de-skew. -/
def State.deskewTaken (s : State) (rest : List DeskewItem) : State := s.onStore (fun p => { p with deskewQ := rest })

theorem exec_deskew_cons {rest : List DeskewItem} (h : s.store.deskewQ = d :: rest) : exec .deskew s = .next ((s.deskewTaken rest).deskewOne d) := by
  show execDeskew s = _
  unfold execDeskew
  rw [h]
  rfl

theorem exec_deskew_nil (h : s.store.deskewQ = []) : exec .deskew s = .next s := by
  show execDeskew s = _
  unfold execDeskew
  rw [h]

/-- Settles O27: the zone-frame point that arithmetic gives, then what each of its ways leaves in the store and the counters. -/
theorem deskewMovesPeasToTheZoneFrame : Obligations.DeskewMovesPeasToTheZoneFrame := by
  refine ⟨fun s => exec_deskew_nil, fun s d rest e v hm hs hq he hv => ?_, fun s d rest e hm hs hq he hf hn => ?_⟩
  · obtain ⟨o, hz⟩ : ∃ o, (s.deskewTaken rest).zonePoint d e = some (v, o) := by
      rcases hv with ⟨hf, rfl⟩ | ⟨hf, w, hw, rfl⟩
      · exact ⟨_, if_pos hf⟩
      · exact ⟨_, (if_neg (by rw [hf]; exact Bool.false_ne_true)).trans (congrArg (Option.map _) hw)⟩
    obtain ⟨hfar, hnear, -⟩ := State.deskewOne_covered (s := s.deskewTaken rest) he hz
    refine ⟨_, _, _, _, exec_deskew_cons hq, State.deskewOne_covered_deskewQ (s := s.deskewTaken rest) he hz,
      poseResult_near _ (s.deskewTaken rest).freeInt, poseResult_near _ ((s.deskewTaken rest).freeInt / 3),
      poseResult_near _ ((s.deskewTaken rest).freeInt / 9), fun hfit hin => ⟨(s.deskewTaken rest).zoneItem d e v o, ?_, rfl, rfl, rfl, rfl⟩,
      fun hfit => ?_⟩
    · obtain ⟨w, x, hx⟩ := State.swept_store (s := s.deskewTaken rest) (d := d) (e := e) (v := v)
      rw [hnear hfit hin, State.onStore_store, hx]
      rfl
    · obtain ⟨w, hw⟩ := State.posed_store (s := s.deskewTaken rest) (e := e)
      have hpm : ((s.deskewTaken rest).posed e).MemOk := State.posed_keeps.mem hm
      obtain ⟨hcount, hevent⟩ := State.deskewDrop_counts (d := d) (reg := Reg.RANGE_DROPS) (ev := 0) hpm.1 hs (by decide) (by decide)
      rw [hfar hfit]
      refine ⟨by rw [State.deskewDrop_store, hw]; rfl, hevent, fun hf => hcount.trans ?_⟩
      rw [State.posed_fixed hf]
      rfl
  · have hz : (s.deskewTaken rest).zonePoint d e = none :=
      (if_neg (by rw [hf]; exact Bool.false_ne_true)).trans (congrArg (Option.map _) hn)
    obtain ⟨hcount, hevent⟩ := State.deskewDrop_counts (s := s.deskewTaken rest) (reg := Reg.SPLINE_MISSES) (ev := 8) hm.1 hs (by decide) (by decide)
    refine ⟨_, exec_deskew_cons hq, ?_⟩
    rw [State.deskewOne_uncovered (s := s.deskewTaken rest) he hz]
    exact ⟨State.deskewDrop_store, hcount, hevent⟩

end

end Sys2Proof.Machine
end

section
/-! PROOFS. Revised versions and the re-de-skew of peas (O29). -/

namespace Sys2Proof
open Machine

section
variable {α : Type} {rank : α → Nat} {x : α}

theorem mem_linsertBy {a : α} {l : List α} : x ∈ linsertBy rank a l ↔ x = a ∨ x ∈ l := by
  induction l with
  | nil => exact List.mem_cons
  | cons b l ih =>
    unfold linsertBy
    split
    · exact List.mem_cons
    · rw [List.mem_cons, ih, List.mem_cons, or_left_comm]

theorem mem_lsortBy {l : List α} : x ∈ lsortBy rank l ↔ x ∈ l := by
  induction l with
  | nil => exact Iff.rfl
  | cons a l ih => exact mem_linsertBy.trans ((or_congr_right ih).trans List.mem_cons.symm)

end

theorem PodStore.insertNext_queue (p : PodStore) (e : NodeEntry) :
    (p.insertNext e).candidates = p.candidates ∧ (p.insertNext e).redone = p.redone := by
  rw [(PodStore.adds_insertNext p e).frame]
  exact ⟨rfl, rfl⟩

end Sys2Proof

namespace Sys2Proof.Machine
open Sys2Proof

section
variable {s t u : State} {i : Nat} {a b : List DeltaLogEntry} {key frame : Nat}

/-! ### SPLINE_VERSION_PUBLISH -/

/-- What a candidate marked in `s` comes from: a journal entry of a provisional layer of the current epoch that names a stored pea, not FWD (R184). -/
def State.Markable (s : State) (c : Candidate) : Prop :=
  ∃ l ∈ s.com.layers, ∃ q, l.phase = .provisional ∧ l.epoch = s.tl.epoch.toNat ∧ l.frame = c.frame ∧ c.epoch = l.epoch ∧ c.entry ∈ l.journal ∧
    s.journalPea c.entry = some q ∧ q.fwd = false

theorem State.markCandidates_marks {n : Nat} {times : List (Nat × Nat)} : ∃ cs, s.markCandidates n times =
    s.onStore (fun p => { p with candidates := cs }) ∧ (∀ c ∈ s.store.candidates, c ∈ cs) ∧ ∀ c ∈ cs, c ∉ s.store.candidates → s.Markable c := by
  refine ⟨_, rfl, fun c hc => mem_lsortBy.mpr (List.mem_append_left _ hc), fun c hc hn => ?_⟩
  have hfound := List.mem_of_mem_filter ((List.mem_append.mp (mem_lsortBy.mp hc)).resolve_left hn)
  obtain ⟨l, hl, hj⟩ := List.mem_flatMap.mp hfound
  obtain ⟨hmem, hprov⟩ := List.mem_filter.mp (List.mem_reverse.mp hl)
  obtain ⟨hphase, hepoch⟩ := of_decide_eq_true hprov
  obtain ⟨j, hjm, hcand⟩ := List.mem_filterMap.mp hj
  split at hcand
  · next q _ hq =>
    split at hcand
    · next hcond =>
      obtain rfl := Option.some.inj hcand
      exact ⟨l, hmem, q, hphase, hepoch, rfl, rfl, hjm, hq, Bool.eq_false_iff.mpr hcond.1⟩
    · exact absurd hcand nofun
  · exact absurd hcand nofun

theorem exec_splineVersionPublish_nil (h : s.store.compareQ = []) : exec .splineVersionPublish s = .next s := by
  show execSplineVersionPublish s = _
  unfold execSplineVersionPublish
  rw [h]

/-- The part whose oldest published version has left the queue of comparison. -/
def State.compareTaken (s : State) (rest : List Nat) : State := s.onStore (fun p => { p with compareQ := rest })

theorem exec_splineVersionPublish_cons {n : Nat} {rest : List Nat} (h : s.store.compareQ = n :: rest) :
    exec .splineVersionPublish s = .next (s.compareTaken rest) ∨
      ∃ times, exec .splineVersionPublish s = .next ((s.compareTaken rest).markCandidates n times) := by
  generalize he : exec .splineVersionPublish s = o
  replace he : execSplineVersionPublish s = o := he
  unfold execSplineVersionPublish at he
  rw [h] at he
  dsimp only at he
  split at he
  · exact .inr ⟨_, he.symm⟩
  · exact .inl he.symm

/-! ### What an operation leaves of the layers and of the candidates -/

/-- From `s` to `t` the candidates, their count in the beat and the layers stay as they are. -/
structure Calm (s t : State) : Prop where
  candidates : t.store.candidates = s.store.candidates
  redone : t.store.redone = s.store.redone
  layers : t.com.layers = s.com.layers

theorem Calm.refl (s : State) : Calm s s := ⟨rfl, rfl, rfl⟩

theorem Calm.trans (h : Calm s t) (k : Calm t u) : Calm s u :=
  ⟨k.candidates.trans h.candidates, k.redone.trans h.redone, k.layers.trans h.layers⟩

theorem Calm.of_only {l : List Component} (h : Only l s t) (hs : l.contains .store = false) (hc : l.contains .com = false) : Calm s t :=
  have hst : t.store = s.store := h .store hs
  have hcom : t.com = s.com := h .com hc
  ⟨congrArg PodStore.candidates hst, congrArg PodStore.redone hst, congrArg Commit.layers hcom⟩

theorem Calm.of_fst {β : Type} {r : State × β} {x : β} (h : Calm s r.1) (e : r = (t, x)) : Calm s t := by
  rw [e] at h
  exact h

theorem State.bump_calm {o n : Nat} : Calm s (s.bump o n) := .of_only State.bump_fr rfl rfl

theorem State.raise_calm {o n : Nat} : Calm s (s.raise o n) := .of_only State.raise_fr rfl rfl

theorem State.abandonCandidate_calm : Calm s s.abandonCandidate := State.bump_calm.trans State.raise_calm

theorem State.podRefused_calm : Calm s s.podRefused := (State.bump_calm.trans State.raise_calm).trans ⟨rfl, rfl, rfl⟩

theorem State.took_calm : Calm s s.took := ⟨rfl, rfl, rfl⟩

theorem State.hitOf_calm {q : Pea} : Calm s (s.hitOf q frame).1 := .of_only (State.hitOf_only (l := [.free]) (Only.refl _ s) rfl) rfl rfl

theorem State.forwardPea_calm {q : Pea} {epoch hops : Nat} : Calm s (s.forwardPea q frame epoch hops) :=
  .of_only (State.forwardPea_only (l := [.regs, .peers, .host, .out]) (Only.refl _ s) rfl) rfl rfl

theorem State.lookup_calm : Calm s (s.lookup key).1 := .of_only (State.lookup_only (l := [.regs]) (Only.refl _ s) rfl) rfl rfl

theorem State.mergeStart_calm : Calm s s.mergeStart := by
  unfold State.mergeStart
  split
  · exact (show Calm s (s.onStore _) from ⟨rfl, rfl, rfl⟩).trans State.raise_calm
  · exact .refl s

theorem State.dropPea_calm {ix n : Nat} : Calm s (s.dropPea ix n) := ⟨rfl, rfl, rfl⟩

theorem State.keepPea_calm {ix : Nat} {q : Pea} : Calm s (s.keepPea ix q).1 := by
  unfold State.keepPea
  dsimp only
  split
  · exact .refl s
  · split
    · exact ⟨rfl, rfl, rfl⟩
    · split
      · exact State.bump_calm
      · exact State.bump_calm.trans ⟨rfl, rfl, rfl⟩

theorem State.insertNode_calm {e : NodeEntry} : Calm s (s.insertNode e).1 := by
  unfold State.insertNode
  dsimp only
  split
  · obtain ⟨hc, hr⟩ := PodStore.insertNext_queue { s.store with nodes := mset s.store.nodes ‹_› { e with gen := (s.store.region (keyRegion e.key)).gen } } e
    exact ⟨hc, hr, rfl⟩
  · split
    · obtain ⟨hc, hr⟩ := PodStore.insertNext_queue { s.store with stash := s.store.stash ++ [e] } e
      refine Calm.trans (Calm.trans ?_ State.bump_calm) State.raise_calm
      exact ⟨hc, hr, rfl⟩
    · exact State.raise_calm.trans ⟨rfl, rfl, rfl⟩

theorem State.ancestors_calm {f l : Nat} : Calm s (State.ancestors f l s key).1 := by
  induction f generalizing l s with
  | zero => exact .refl s
  | succ f ih =>
    unfold State.ancestors
    split
    · exact .refl s
    · dsimp only
      split
      · next hl =>
        refine Calm.trans ((State.lookup_calm.of_fst hl).trans ?_) ih
        exact ⟨rfl, rfl, rfl⟩
      · next hl =>
        split
        · next hi => exact ((State.lookup_calm.of_fst hl).trans (State.insertNode_calm.of_fst hi)).trans ih
        · next hi => exact (State.lookup_calm.of_fst hl).trans (State.insertNode_calm.of_fst hi)

/-- Back at the store of before, but for its regions: what a refused allocation does. -/
theorem Calm.undo (h : Calm s t) {r : Map Region} : Calm s { t with store := { s.store with regions := r } } := ⟨rfl, rfl, h.layers⟩

theorem State.allocPod_calm : Calm s (s.allocPod key frame).1 := by
  unfold State.allocPod
  dsimp only
  split
  · exact .refl s
  · split
    · next ha => exact (State.ancestors_calm.of_fst ha).undo
    · next ha =>
      split
      · next hi => exact ((State.ancestors_calm.of_fst ha).trans (State.insertNode_calm.of_fst hi)).undo
      · next hi =>
        refine Calm.trans (Calm.trans ?_ State.bump_calm) State.mergeStart_calm
        exact ((State.ancestors_calm.of_fst ha).trans (State.insertNode_calm.of_fst hi)).trans ⟨rfl, rfl, rfl⟩

theorem State.placeFor_calm : Calm s (s.placeFor key frame).1 := by
  unfold State.placeFor
  generalize hl : s.lookup (podKey key) = r
  obtain ⟨s1, o⟩ := r
  have h1 : Calm s s1 := State.lookup_calm.of_fst hl
  dsimp only
  split
  · split <;> exact h1
  · split
    · split <;> exact h1
    · split <;> next ha => exact h1.trans (State.allocPod_calm.of_fst ha)

/-! ### What a re-de-skew logs -/

/-- From `s` to `t` layer `i` has logged `a` and nothing else, the other layers and the candidates stay as they are. -/
structure Logs (i : Nat) (a : List DeltaLogEntry) (s t : State) : Prop where
  candidates : t.store.candidates = s.store.candidates
  redone : t.store.redone = s.store.redone
  others : ∀ j, j ≠ i → t.com.layers[j]? = s.com.layers[j]?
  layer : ∀ l, s.com.layers[i]? = some l → ∃ m, t.com.layers[i]? = some m ∧ m.log = l.log ++ a

theorem Calm.logs (h : Calm s t) : Logs i [] s t :=
  ⟨h.candidates, h.redone, fun j _ => by rw [h.layers], fun l hl => ⟨l, by rw [h.layers, hl], (List.append_nil _).symm⟩⟩

theorem Logs.trans (h : Logs i a s t) (k : Logs i b t u) : Logs i (a ++ b) s u where
  candidates := k.candidates.trans h.candidates
  redone := k.redone.trans h.redone
  others j hj := (k.others j hj).trans (h.others j hj)
  layer l hl := by
    obtain ⟨m, hm, hlog⟩ := h.layer l hl
    obtain ⟨n, hn, hlog'⟩ := k.layer m hm
    exact ⟨n, hn, by rw [hlog', hlog, List.append_assoc]⟩

theorem Logs.calm (h : Logs i a s t) (k : Calm t u) : Logs i a s u := by simpa using h.trans k.logs

theorem Calm.then_logs (h : Calm s t) (k : Logs i a t u) : Logs i a s u := h.logs.trans k

/-- A change of layer `i` that appends to its log. -/
theorem Logs.of_lmod {f : Layer → Layer} (hl : t.com.layers = lmod s.com.layers i f) (hf : ∀ l, (f l).log = l.log ++ a)
    (hc : t.store.candidates = s.store.candidates) (hr : t.store.redone = s.store.redone) : Logs i a s t where
  candidates := hc
  redone := hr
  others j hj := by rw [hl, getElem?_lmod_ne hj]
  layer l h := ⟨f l, by rw [hl, getElem?_lmod_same, h]; rfl, hf l⟩

theorem State.refuseFull_logs : Logs i [] s (s.refuseFull i) :=
  (State.bump_calm.trans State.raise_calm).then_logs (.of_lmod rfl (fun l => (List.append_nil l.log).symm) rfl rfl)

theorem State.rejournal_logs {old new : JournalEntry} : Logs i [] s (s.rejournal i old new) :=
  .of_lmod rfl (fun l => (List.append_nil l.log).symm) rfl rfl

theorem State.logDelta_logs {kind source : Nat} : Logs i [⟨kind, source, key⟩] s (s.logDelta i kind source key) :=
  .of_lmod rfl (fun _ => rfl) rfl rfl

theorem State.writeHit_pod_logs {kind source ix : Nat} {inc : Int} :
    Logs i [⟨kind, source, key⟩] s (s.writeHit i frame kind source key inc (.pod ix)) :=
  (show Calm s (s.modCell ix key _) from ⟨rfl, rfl, rfl⟩).then_logs State.logDelta_logs

theorem State.writeHit_merged_logs {kind source m : Nat} {inc : Int} :
    Logs i [⟨kind, source, m⟩] s (s.writeHit i frame kind source key inc (.merged m)) :=
  (show Calm s (s.onStore _) from ⟨rfl, rfl, rfl⟩).then_logs State.logDelta_logs

/-- What a re-de-skew logs: nothing, a MOVE_OUT, or a MOVE_OUT and a MOVE_IN together (R188). -/
def MoveLog (a : List DeltaLogEntry) : Prop := a = [] ∨ (∃ n k, a = [⟨2, n, k⟩]) ∨ ∃ n k k', a = [⟨2, n, k⟩, ⟨3, n, k'⟩]

/-- From `s` to `t` a candidate of layer `i` has been re-de-skewed. -/
def Redeskews (i : Nat) (s t : State) : Prop := ∃ a, MoveLog a ∧ Logs i a s t

theorem Logs.stays (h : Logs i [] s t) : Redeskews i s t := ⟨[], .inl rfl, h⟩

theorem Logs.moves {n k k' : Nat} (h : Logs i ([⟨2, n, k⟩] ++ [⟨3, n, k'⟩]) s t) : Redeskews i s t := ⟨_, .inr (.inr ⟨n, k, k', rfl⟩), h⟩

/-- The part in which a re-de-skewed pea has left its old cell, with both halves of its move written (R188). -/
def State.moved (s : State) (i : Nat) (c : Candidate) (q : Pea) (old new : Nat) (pl : PodPlace) : State :=
  ((((s.hitOf q c.frame).1.writeHit i c.frame 2 q.sensor old (-(s.hitOf q c.frame).2) (.pod c.entry.pool)).writeHit i c.frame 3 q.sensor new
    (s.hitOf q c.frame).2 pl).dropPea c.entry.pool c.entry.slot).bump Reg.REDESKEWED

theorem State.moved_logs {c : Candidate} {q : Pea} {old new : Nat} {pl : PodPlace} (h1 : pl ≠ .noPod) (h2 : pl ≠ .noInsert) :
    ∃ k, Logs i ([⟨2, q.sensor, old⟩] ++ [⟨3, q.sensor, k⟩]) s (s.moved i c q old new pl) := by
  suffices h : ∃ k, Logs i [⟨3, q.sensor, k⟩] ((s.hitOf q c.frame).1.writeHit i c.frame 2 q.sensor old (-(s.hitOf q c.frame).2) (.pod c.entry.pool))
      (((s.hitOf q c.frame).1.writeHit i c.frame 2 q.sensor old (-(s.hitOf q c.frame).2) (.pod c.entry.pool)).writeHit i c.frame 3 q.sensor new
        (s.hitOf q c.frame).2 pl) by
    obtain ⟨k, hk⟩ := h
    exact ⟨k, (((State.hitOf_calm.then_logs State.writeHit_pod_logs).trans hk).calm State.dropPea_calm).calm State.bump_calm⟩
  cases pl with
  | pod ix => exact ⟨new, State.writeHit_pod_logs⟩
  | merged m => exact ⟨m, State.writeHit_merged_logs⟩
  | noPod => exact absurd rfl h1
  | noInsert => exact absurd rfl h2

theorem State.movePea_redeskews {c : Candidate} {q : Pea} {old new : Nat} : Redeskews i s (s.movePea i c q old new) := by
  unfold State.movePea
  split
  · exact (State.refuseFull_logs.calm State.abandonCandidate_calm).stays
  · generalize hp : s.placeFor new c.frame = r
    obtain ⟨s1, pl⟩ := r
    have h1 : Calm s s1 := State.placeFor_calm.of_fst hp
    cases pl with
    | noPod => exact ((h1.trans State.podRefused_calm).trans State.abandonCandidate_calm).logs.stays
    | noInsert => exact (h1.trans State.abandonCandidate_calm).logs.stays
    | merged m =>
      obtain ⟨k, hk⟩ := State.moved_logs (s := s1) (i := i) (c := c) (q := q) (old := old) (new := new) (pl := .merged m) nofun nofun
      exact ((h1.then_logs hk).calm State.bump_calm).moves
    | pod ix =>
      obtain ⟨k, hk⟩ := State.moved_logs (s := s1) (i := i) (c := c) (q := q) (old := old) (new := new) (pl := .pod ix) nofun nofun
      have hmoved := h1.then_logs hk
      dsimp only
      split
      · next hkeep => exact ((hmoved.calm (State.keepPea_calm.of_fst hkeep)).trans State.rejournal_logs).moves
      · next hkeep => exact (hmoved.calm (State.keepPea_calm.of_fst hkeep)).moves

/-- A pea that has left the owned box logs its MOVE_OUT alone, and goes to a neighbour (R188). -/
theorem State.leaves_redeskews {c : Candidate} {q : Pea} {src old : Nat} {inc : Int} :
    Redeskews i s ((((s.writeHit i c.frame 2 src old inc (.pod c.entry.pool)).dropPea c.entry.pool c.entry.slot).bump Reg.REDESKEWED).forwardPea q
      c.frame c.epoch 1) :=
  ⟨_, .inr (.inl ⟨src, old, rfl⟩), ((State.writeHit_pod_logs.calm State.dropPea_calm).calm State.bump_calm).calm State.forwardPea_calm⟩

theorem Calm.then_redeskews (h : Calm s t) (k : Redeskews i t u) : Redeskews i s u := by
  obtain ⟨a, ha, hlogs⟩ := k
  exact ⟨a, ha, h.then_logs hlogs⟩

/-- Every way of a re-de-skew: nothing to do, back in its cell, to another cell, out of the box, or abandoned (R186 to R189). -/
theorem State.redeskewOne_redeskews {c : Candidate} : Redeskews i s (s.redeskewOne i c) := by
  unfold State.redeskewOne
  split
  · dsimp only
    split
    · split
      · exact State.took_calm.logs.stays
      · split
        · split
          · exact State.took_calm.logs.stays
          · split
            · refine ((Calm.then_logs ?_ State.rejournal_logs).calm State.bump_calm).stays
              exact ⟨rfl, rfl, rfl⟩
            · exact State.took_calm.then_redeskews State.movePea_redeskews
        · split
          · exact ((State.took_calm.then_logs State.refuseFull_logs).calm State.abandonCandidate_calm).stays
          · exact (State.took_calm.trans State.hitOf_calm).then_redeskews State.leaves_redeskews
    · exact State.abandonCandidate_calm.logs.stays
  · exact (Calm.refl s).logs.stays

/-! ### REDESKEW -/

/-- The part whose first candidate has been taken. -/
def State.candidateTaken (s : State) (rest : List Candidate) : State := s.onStore (fun p => { p with candidates := rest, redone := p.redone + 1 })

theorem exec_redeskew_off (h : s.store.candidates = [] ∨ s.config.rate ≤ s.store.redone) : exec .redeskew s = .next s := by
  show execRedeskew s = _
  unfold execRedeskew
  split
  · rfl
  · next hc => exact if_pos (h.resolve_left (by rw [hc]; exact nofun))

theorem exec_redeskew_cons {c : Candidate} {rest : List Candidate} (hc : s.store.candidates = c :: rest) (hr : s.store.redone < s.config.rate) :
    (∀ i, s.layerOf c.frame c.epoch = some i → exec .redeskew s = .next ((s.candidateTaken rest).redeskewOne i c)) ∧
    (s.layerOf c.frame c.epoch = none → exec .redeskew s = .next (s.candidateTaken rest).abandonCandidate) := by
  show (∀ i, _ → execRedeskew s = _) ∧ (_ → execRedeskew s = _)
  unfold execRedeskew
  rw [hc]
  dsimp only
  rw [if_neg (Nat.not_le.mpr hr)]
  exact ⟨fun i hi => by rw [hi]; rfl, fun hi => by rw [hi]; rfl⟩

/-- Settles O29: the candidates by where `markCandidates` finds them, a re-de-skew by what each of its ways logs. -/
theorem revisedVersionsRedeskewPeas : Obligations.RevisedVersionsRedeskewPeas := by
  refine ⟨fun s => exec_splineVersionPublish_nil, fun s n rest hq => ?_, fun s => exec_redeskew_off, fun s c rest hm hc hr hl => ?_,
    fun s c rest i l hm hc hr hi hl => ?_⟩
  · rcases exec_splineVersionPublish_cons hq with h | ⟨times, h⟩
    · exact ⟨_, h, rfl, fun _ hc => hc, fun _ hc hn => absurd hc hn⟩
    · obtain ⟨cs, hcs, hkept, hmarked⟩ := State.markCandidates_marks (s := s.compareTaken rest) (n := n) (times := times)
      rw [hcs] at h
      exact ⟨_, h, rfl, hkept, hmarked⟩
  · have hw : regsWf ((s.candidateTaken rest).bump Reg.REDESKEW_ABANDONED).regs = true := State.wf_bump hm.1
    refine ⟨_, (exec_redeskew_cons hc hr).2 hl, State.raise_store.trans State.bump_store, State.raise_com.trans State.bump_com, ?_, ?_⟩
    · rw [State.abandonCandidate, State.rget_raise hw, if_neg (by decide)]
      exact (State.rget_bump hm.1).trans (if_pos rfl)
    · rw [State.abandonCandidate, State.rbit_raise hw (by decide), decide_eq_true ⟨rfl, rfl⟩, Bool.or_true]
  · obtain ⟨a, ha, hlogs⟩ := State.redeskewOne_redeskews (s := s.candidateTaken rest) (i := i) (c := c)
    obtain ⟨m, hlm, hlog⟩ := hlogs.layer l hl
    refine ⟨_, m, (exec_redeskew_cons hc hr).1 i hi, hlogs.candidates, hlogs.redone, hlm, ?_, hlogs.others⟩
    rcases ha with rfl | ⟨n, k, rfl⟩ | ⟨n, k, k', rfl⟩
    · exact .inl (by rw [hlog, List.append_nil])
    · exact .inr (.inl ⟨n, k, hlog⟩)
    · exact .inr (.inr ⟨n, k, k', hlog⟩)

end

end Sys2Proof.Machine
end

section
/-! PROOFS. Delta batches: their arrival at the commit node and their records (O32). -/

namespace Sys2Proof

/-- The key of the cell that a record names (R239). -/
def DeltaRecord.cellKey (r : DeltaRecord) : Nat := r.key.toNat % 2 ^ 37

end Sys2Proof

namespace Sys2Proof.Machine
open Sys2Proof

section
variable {s t u : State} {b : DeltaBatch} {r : DeltaRecord} {rs : List DeltaRecord} {rest : List DeltaBatch} {key frame i : Nat} {e : NodeEntry} {p : Pod}

/-! ### Arrival (R240) -/

/-- Whether the delta queue refuses a batch (R240). -/
def State.Refuses (s : State) (b : DeltaBatch) : Prop :=
  b.count.toNat = 0 ∨ 4096 < b.count.toNat ∨ 262144 < batchBytes s.com.batches + 16 + 16 * b.count.toNat

theorem State.takeBatch_refused (h : s.Refuses b) : s.takeBatch b = (s.bump Reg.BATCH_REFUSALS).raise Reg.COMMIT_EVENTS 8 := if_pos h

theorem State.takeBatch_taken (h : ¬ s.Refuses b) :
    s.takeBatch b = s.onCom (fun c => { c with batches := c.batches ++ [{ b with records := b.records.take b.count.toNat }] }) := if_neg h

theorem exec_deltaBatchArrive_up (h : s.up) : exec (.deltaBatchArrive b) s = .next (s.takeBatch b) := if_pos h

theorem exec_deltaBatchArrive_down (h : ¬ s.up) : exec (.deltaBatchArrive b) s = .next s := if_neg h

/-! ### What the work on a record leaves of the delta queue -/

/-- From `s` to `t` the delta queue and the count of records applied in the beat stay as they are. -/
structure QueueKept (s t : State) : Prop where
  batches : t.com.batches = s.com.batches
  applied : t.com.applied = s.com.applied

theorem QueueKept.refl (s : State) : QueueKept s s := ⟨rfl, rfl⟩

theorem QueueKept.trans (h : QueueKept s t) (k : QueueKept t u) : QueueKept s u := ⟨k.batches.trans h.batches, k.applied.trans h.applied⟩

theorem QueueKept.of_com (h : t.com = s.com) : QueueKept s t := ⟨by rw [h], by rw [h]⟩

theorem QueueKept.of_fst {β : Type} {q : State × β} {x : β} (h : QueueKept s q.1) (e : q = (t, x)) : QueueKept s t := by
  rw [e] at h
  exact h

theorem State.lookup_com : (s.lookup key).1.com = s.com := State.lookup_only (l := [.regs]) (.refl _ s) rfl .com rfl

theorem State.insertNode_queueKept : QueueKept s (s.insertNode e).1 := by
  unfold State.insertNode
  dsimp only
  split
  · exact .of_com rfl
  · split
    · exact .of_com (State.raise_com.trans State.bump_com)
    · exact (QueueKept.of_com State.raise_com).trans ⟨rfl, rfl⟩

theorem State.ancestors_queueKept {f l : Nat} : QueueKept s (State.ancestors f l s key).1 := by
  induction f generalizing l s with
  | zero => exact .refl s
  | succ f ih =>
    unfold State.ancestors
    split
    · exact .refl s
    · have hl : QueueKept s (s.lookup (keyAt l key)).1 := .of_com State.lookup_com
      dsimp only
      split
      · next e =>
        refine (hl.of_fst e).trans (QueueKept.trans ?_ ih)
        exact .of_com rfl
      · next e =>
        split
        · next hi => exact ((hl.of_fst e).trans (State.insertNode_queueKept.of_fst hi)).trans ih
        · next hi => exact (hl.of_fst e).trans (State.insertNode_queueKept.of_fst hi)

theorem State.allocPod_queueKept : QueueKept s (s.allocPod key frame).1 := by
  have hmerge : ∀ t : State, QueueKept t t.mergeStart := fun t =>
    .of_com (State.mergeStart_only (l := [.regs, .store, .host, .out]) (.refl _ t) rfl .com rfl)
  unfold State.allocPod
  dsimp only
  split
  · exact .refl s
  · split
    · next ha => exact (State.ancestors_queueKept.of_fst ha).trans ⟨rfl, rfl⟩
    · next ha =>
      have h1 := State.ancestors_queueKept.of_fst ha
      split
      · next hi => exact (h1.trans (State.insertNode_queueKept.of_fst hi)).trans ⟨rfl, rfl⟩
      · next hi =>
        refine ((h1.trans (State.insertNode_queueKept.of_fst hi)).trans (QueueKept.trans ?_ (.of_com State.bump_com))).trans (hmerge _)
        exact .of_com rfl

theorem State.placeFor_queueKept : QueueKept s (s.placeFor key frame).1 := by
  have hl : QueueKept s (s.lookup (podKey key)).1 := .of_com State.lookup_com
  unfold State.placeFor
  dsimp only
  split
  · split <;> exact hl
  · split
    · split <;> exact hl
    · split <;> next ha => exact hl.trans (State.allocPod_queueKept.of_fst ha)

theorem State.refuseAt_com {x y : Int} : (s.refuseAt x y).com = s.com := rfl

theorem State.podRefused_queueKept : QueueKept s s.podRefused :=
  (QueueKept.of_com (State.raise_com.trans State.bump_com)).trans ⟨rfl, rfl⟩

theorem State.noteLowering_fr {g : Option (Fin 20)} {n : Int} : Only [.safety] s (s.noteLowering g key n) := State.noteLowering_only (.refl _ s) rfl

/-- Noting a LOGODDS_ADD record concerns the safety state alone (R601). -/
theorem noteLowering_ite_fr {c : Prop} [Decidable c] {g : Option (Fin 20)} {n : Int} :
    Only [.safety] s (if c then s.noteLowering g key n else s) := .ite (fun _ => State.noteLowering_fr) (fun _ => .refl _ s)

/-- Whatever becomes of a record (R236, R241, R244), the rest of the queue waits as it did. -/
theorem State.applyRecord_queueKept : QueueKept s (s.applyRecord b r) := by
  have hcount : ∀ {o v : Nat} {t : State}, QueueKept t ((t.bump o).raise Reg.COMMIT_EVENTS v) := .of_com (State.raise_com.trans State.bump_com)
  unfold State.applyRecord
  dsimp only
  split
  · exact hcount
  · split
    · exact hcount
    · split
      · exact hcount
      · split
        · exact hcount.trans ⟨rfl, rfl⟩
        · have hplace : QueueKept s (s.placeFor (r.key.toNat % 2 ^ 37) b.frame.toNat).1 := State.placeFor_queueKept
          refine hplace.trans ?_
          split
          · exact (QueueKept.of_com State.bump_com).trans (State.podRefused_queueKept.trans (.of_com State.refuseAt_com))
          · exact (QueueKept.of_com State.bump_com).trans (.of_com State.refuseAt_com)
          · exact QueueKept.trans (t := State.logDelta _ _ _ _ _) ⟨rfl, rfl⟩ (.of_com (noteLowering_ite_fr .com rfl))
          · exact QueueKept.trans (t := State.logDelta _ _ _ _ _) ⟨rfl, rfl⟩ (.of_com (noteLowering_ite_fr .com rfl))

/-! ### One record (R241 to R243) -/

theorem badDelta_iff : badDelta r = true ↔ r.kind.toNat < 5 ∨ 7 < r.kind.toNat ∨ keyLevel r.key.toNat ≠ 11 ∨
    (r.kind = 6 ∧ 5 ≤ r.value.toNat % 16) ∨ (r.kind = 7 ∧ 128 < r.value.toNat / 2 ^ 32 % 256) := by
  have h6 : r.kind = 6 ↔ r.kind.toNat = 6 := BitVec.toNat_inj.symm
  have h7 : r.kind = 7 ↔ r.kind.toNat = 7 := BitVec.toNat_inj.symm
  simp only [badDelta, nbits, Nat.shiftRight_eq_div_pow, decide_eq_true_eq, h6, h7]
  omega

theorem State.applyRecord_bad (h : badDelta r = true) : s.applyRecord b r = (s.bump Reg.BAD_DELTAS).raise Reg.COMMIT_EVENTS 8 := if_pos h

theorem State.applyRecord_outside (h : badDelta r = false) (ho : s.ownsKey r.cellKey = false) :
    s.applyRecord b r = (s.bump Reg.OUTSIDE_DELTAS).raise Reg.COMMIT_EVENTS 8 :=
  (if_neg (by rw [h]; exact Bool.false_ne_true)).trans (if_pos (by rw [← DeltaRecord.cellKey, ho]; exact Bool.false_ne_true))

theorem State.judgeDelta_layer {g : Nat} (h : s.layerOf frame g = some i) : s.judgeDelta frame g = .inl i := by
  rw [State.judgeDelta, h]

theorem State.placeFor_pod (h : (s.store.lookup (podKey key)).1 = some e) (hk : e.kind = .pod) :
    s.placeFor key frame = ((s.lookup (podKey key)).1, .pod e.pool) := by
  have h2 : (s.lookup (podKey key)).2 = some e := h
  unfold State.placeFor
  dsimp only
  rw [h2]
  exact if_pos hk

/-- The part in which a record has changed the cell of a stored pod and is logged in its layer (R235, R243). -/
def State.recorded (s : State) (i ix : Nat) (b : DeltaBatch) (r : DeltaRecord) : State :=
  ((s.lookup (podKey r.cellKey)).1.modCell ix r.cellKey (fun c => applyDelta s.config.decay r c b.frame.toNat)).logDelta i
    r.kind.toNat b.source.toNat r.cellKey

theorem State.applyRecord_pod (h : badDelta r = false) (ho : s.ownsKey r.cellKey = true) (hi : s.layerOf b.frame.toNat b.epoch.toNat = some i)
    (hroom : s.layerRoom i 1 = true) (he : (s.store.lookup (podKey r.cellKey)).1 = some e) (hk : e.kind = .pod) :
    Only [.safety] (s.recorded i e.pool b r) (s.applyRecord b r) := by
  unfold State.applyRecord
  dsimp only
  rw [← DeltaRecord.cellKey, if_neg (by rw [h]; exact Bool.false_ne_true), if_neg (not_not.mpr ho), State.judgeDelta_layer hi]
  dsimp only
  rw [if_neg (not_not.mpr hroom), State.placeFor_pod he hk]
  exact noteLowering_ite_fr

theorem State.lookup_fr : Only [.regs] s (s.lookup key).1 := State.lookup_only (.refl _ s) rfl

theorem State.recorded_pods (hp : mget s.store.pods i = some p) {j : Nat} :
    mget (s.recorded j i b r).store.pods i =
      some { p with cells := lmod p.cells (cellInPod r.cellKey) (fun c => applyDelta s.config.decay r c b.frame.toNat) } := by
  have hst : (s.lookup (podKey r.cellKey)).1.store = s.store := State.lookup_fr .store rfl
  show mget (mmod (s.lookup (podKey r.cellKey)).1.store.pods i _) i = _
  rw [hst, mmod, hp]
  exact mget_mset_same _ _ _

theorem State.recorded_layer {l : Layer} (hl : s.com.layers[i]? = some l) {ix : Nat} :
    ∃ k, (s.recorded i ix b r).com.layers[i]? = some k ∧ k.log = l.log ++ [⟨r.kind.toNat, b.source.toNat, r.cellKey⟩] := by
  have hlogs : Logs i [⟨r.kind.toNat, b.source.toNat, r.cellKey⟩] s (s.recorded i ix b r) :=
    (State.lookup_calm.trans (u := State.modCell _ ix r.cellKey _) ⟨rfl, rfl, rfl⟩).then_logs State.logDelta_logs
  exact hlogs.layer l hl

/-- A LOGODDS_ADD record of a frame that is not old for its cell (R212, R243). -/
theorem applyDelta_logOddsAdd {d f : Nat} {c : Cell} (hr : r.kind = 5) (hn : (f % 256 + 256 - c.last) % 256 < 128) :
    (applyDelta d r c f).logOdds = ssat 16 (effective d c f + sval 16 r.value.toNat) ∧ (applyDelta d r c f).last = f % 256 := by
  have h : applyDelta d r c f = hitCell d c f (sval 16 r.value.toNat) := by rw [applyDelta, hr]; rfl
  rw [h, hitCell, if_pos hn]
  exact ⟨rfl, rfl⟩

theorem cellInPod_lt : cellInPod key < 64 := Nat.mod_lt _ (by decide)

/-! ### The command -/

/-- The part whose first record has left the delta queue and counts in its beat (R240). -/
def State.recordTaken (s : State) (b : DeltaBatch) (rest : List DeltaBatch) (rs : List DeltaRecord) : State :=
  s.onCom (fun c => { c with batches := if rs.isEmpty then rest else { b with records := rs } :: rest, applied := c.applied + 1 })

theorem exec_deltaApply_off (h : 1024 ≤ s.com.applied ∨ s.com.batches = []) : exec .deltaApply s = .next s := by
  show execDeltaApply s = _
  unfold execDeltaApply
  split
  · rfl
  · next hlt => rw [h.resolve_left hlt]

theorem exec_deltaApply_record (ha : s.com.applied < 1024) (hb : s.com.batches = b :: rest) (hr : b.records = r :: rs) :
    exec .deltaApply s = .next ((s.recordTaken b rest rs).applyRecord b r) := by
  show execDeltaApply s = _
  unfold execDeltaApply
  rw [if_neg (Nat.not_le.mpr ha), hb]
  dsimp only
  rw [hr]
  rfl

/-- A record or batch that the commit node drops is counted in `o` and reported (R240, R241). -/
theorem State.reject_counts (hw : regsWf s.regs = true) {o : Nat} (ho : o ≠ Reg.COMMIT_EVENTS) :
    ((s.bump o).raise Reg.COMMIT_EVENTS 8).rget o = satAdd32 (s.rget o) 1 ∧ ((s.bump o).raise Reg.COMMIT_EVENTS 8).rbit Reg.COMMIT_EVENTS 8 = true := by
  constructor
  · rw [State.rget_raise (State.wf_bump hw), if_neg ho, State.rget_bump hw, if_pos rfl]
  · rw [State.rbit_raise (State.wf_bump hw) (by decide), decide_eq_true ⟨rfl, rfl⟩, Bool.or_true]

theorem State.reject_store {o : Nat} : ((s.bump o).raise Reg.COMMIT_EVENTS 8).store = s.store := State.raise_store.trans State.bump_store

theorem State.reject_com {o : Nat} : ((s.bump o).raise Reg.COMMIT_EVENTS 8).com = s.com := State.raise_com.trans State.bump_com

/-- Settles O32: a batch by whether the queue refuses it, a record by which of the rules of R241 takes it. -/
theorem deltaBatchesArriveAndApply : Obligations.DeltaBatchesArriveAndApply := by
  refine ⟨fun b s => exec_deltaBatchArrive_down, fun b s hu h1 h2 h3 => ?_, fun b s hm hu hbad => ?_, fun s => exec_deltaApply_off,
    fun s b rest r rs hm ha hb hr => ?_⟩
  · have hfits : ¬ s.Refuses b := by
      rintro (h | h | h)
      · omega
      · omega
      · exact absurd h3 (Nat.not_le.mpr h)
    refine ⟨_, { b with records := b.records.take b.count.toNat }, exec_deltaBatchArrive_up hu, ?_, rfl, rfl, rfl, rfl⟩
    rw [State.takeBatch_taken hfits]
    rfl
  · obtain ⟨hcount, hevent⟩ := State.reject_counts hm.1 (o := Reg.BATCH_REFUSALS) (by decide)
    refine ⟨_, exec_deltaBatchArrive_up hu, ?_⟩
    rw [State.takeBatch_refused hbad]
    exact ⟨State.reject_com, hcount, hevent⟩
  · obtain ⟨hbatches, happlied⟩ := State.applyRecord_queueKept (s := s.recordTaken b rest rs) (b := b) (r := r)
    have hw : regsWf (s.recordTaken b rest rs).regs = true := hm.1
    have hlayers : ∀ o, (((s.recordTaken b rest rs).bump o).raise Reg.COMMIT_EVENTS 8).com.layers = s.com.layers :=
      fun o => by rw [State.reject_com]; rfl
    refine ⟨_, exec_deltaApply_record ha hb hr, happlied, hbatches, fun hbad => ?_, fun hgood hout => ?_,
      fun i l e p hkind hlevel hown hi hroom hl he hpod hp hlen => ?_⟩
    · rw [State.applyRecord_bad (badDelta_iff.mpr hbad)]
      exact ⟨State.reject_store, hlayers _, State.reject_counts hw (by decide)⟩
    · rw [State.applyRecord_outside (s := s.recordTaken b rest rs) hgood hout]
      exact ⟨State.reject_store, hlayers _, (State.reject_counts hw (by decide)).1⟩
    · have hgood : badDelta r = false := Bool.eq_false_iff.mpr (fun h => by
        rw [badDelta_iff, hkind] at h
        simp [hlevel] at h)
      have hfr := State.applyRecord_pod (s := s.recordTaken b rest rs) hgood hown hi hroom he hpod
      have hstore : ((s.recordTaken b rest rs).applyRecord b r).store = _ := hfr .store rfl
      have hcom : ((s.recordTaken b rest rs).applyRecord b r).com = _ := hfr .com rfl
      obtain ⟨k, hk, hlog⟩ := State.recorded_layer (s := s.recordTaken b rest rs) (b := b) (r := r) hl (ix := e.pool)
      rw [hstore, hcom]
      refine ⟨_, _, k, State.recorded_pods (s := s.recordTaken b rest rs) hp, rfl, fun hn => ?_, hk, by rw [hlog, hkind]; rfl⟩
      rw [← DeltaRecord.cellKey] at hn ⊢
      rw [lgetD_lmod_same _ _ _ _ (by rw [hlen]; exact cellInPod_lt)]
      exact applyDelta_logOddsAdd hkind hn

end

end Sys2Proof.Machine
end

section
/-! PROOFS. The destinations of the commit stream and the transmission of their records (O33). -/

namespace Sys2Proof

theorem mem_kinsert {a k : Nat} {l : List Nat} : a ∈ kinsert k l ↔ a = k ∨ a ∈ l := by
  induction l with
  | nil => exact List.mem_cons
  | cons b l ih =>
    unfold kinsert
    split
    · next h => rw [h, List.mem_cons, ← or_assoc, or_self]
    · split
      · exact List.mem_cons
      · rw [List.mem_cons, ih, List.mem_cons, or_left_comm]

theorem mem_foldl_kinsert {a : Nat} (ks l : List Nat) : a ∈ ks.foldl (fun m k => kinsert k m) l ↔ a ∈ ks ∨ a ∈ l := by
  induction ks generalizing l with
  | nil => exact (or_iff_right List.not_mem_nil).symm
  | cons k ks ih => rw [List.foldl_cons, ih, mem_kinsert, List.mem_cons, ← or_assoc, or_comm (a := a ∈ ks)]

end Sys2Proof

namespace Sys2Proof.Machine
open Sys2Proof

section
variable {s t : State} {n : Fin 7} {r : CommitRecord} {rest : List CommitRecord}

/-! ### Destinations and peer ports -/

theorem State.Units.dests (h : s.Units) : s.com.dests.length = 7 := congrArg (lgetD · 9 0) h

theorem State.Units.peerPorts (h : s.Units) : s.peers.ports.length = 6 := congrArg (lgetD · 5 0) h

theorem State.dest_congr {d : Nat} (h : t.com = s.com) : t.dest d = s.dest d := by rw [State.dest, State.dest, h]

theorem State.peer_congr {p : Nat} (h : t.peers = s.peers) : t.peer p = s.peer p := by rw [State.peer, State.peer, h]

theorem State.dest_onDest_same {d : Nat} {f : Destination → Destination} (h : d < s.com.dests.length) : (s.onDest d f).dest d = f (s.dest d) :=
  lgetD_lmod_same _ _ _ _ h

theorem State.dest_onDest_ne {d e : Nat} {f : Destination → Destination} (h : e ≠ d) : (s.onDest d f).dest e = s.dest e := lgetD_lmod_ne _ _ _ _ h

theorem State.peer_queueFlits_same {p vc : Nat} {fs : List FlitBody} (h : p < s.peers.ports.length) (hv : vc < (s.peer p).waiting.length) :
    lgetD ((s.queueFlits p vc fs).peer p).waiting vc [] = lgetD (s.peer p).waiting vc [] ++ fs := by
  have hp : (s.queueFlits p vc fs).peer p = _ := lgetD_lmod_same s.peers.ports p _ {} h
  rw [hp]
  exact lgetD_lmod_same _ _ _ _ hv

theorem State.peer_queueFlits_ne {p q vc : Nat} {fs : List FlitBody} (h : q ≠ p) : (s.queueFlits p vc fs).peer q = s.peer q := lgetD_lmod_ne _ _ _ _ h

/-! ### The record taken (R246, R255, R260) -/

/-- The part in which the publisher has read the keys of the first record of destination `d`, which has left its queue. -/
def State.recordRead (s : State) (d : Nat) (r : CommitRecord) (rest : List CommitRecord) : State :=
  (s.onCom (fun c => { c with
    entriesRead := c.entriesRead + (s.newKeys r).length
    readKeys := (s.newKeys r).foldl (fun a k => kinsert k a) c.readKeys
    unvBeat := c.unvBeat || (s.formRecord d r).unverified.isSome })).onDest d (fun x => { x with queue := rest, seq := x.seq + 1 })

/-- Beyond reading the record, taking it counts and notes, and nothing of that lies in the commit state. -/
theorem State.takeRecord_com {d : Nat} : (s.takeRecord d r rest).1.com = (s.recordRead d r rest).com := by
  unfold State.takeRecord
  cases hd : r.dead <;> simp only [apply_ite State.com, State.bump_com, State.bump64_com, State.rset_com, ite_self] <;> rfl

theorem State.takeRecord_peers {d : Nat} : (s.takeRecord d r rest).1.peers = s.peers :=
  State.takeRecord_only (l := [.regs, .com, .safety]) (.refl _ s) rfl .peers rfl

theorem State.formRecord_cells {d : Nat} : ∀ e ∈ (s.formRecord d r).entries, ∀ c, s.record e.key = some c → e.cell = c := by
  intro e he c hc
  obtain ⟨k, -, rfl⟩ := List.mem_map.mp he
  exact congrArg (Option.getD · {}) hc

theorem State.formRecord_keys {d : Nat} : (s.formRecord d r).entries.map (fun e => e.key) = r.keys := by
  show List.map _ (List.map _ r.keys) = _
  rw [List.map_map]
  exact List.map_id r.keys

theorem State.mem_readKeys_of_recordRead {d k : Nat} (h : k ∈ r.keys) : k ∈ (s.recordRead d r rest).com.readKeys := by
  refine (mem_foldl_kinsert _ _).mpr ?_
  by_cases hk : k ∈ s.com.readKeys
  · exact .inr hk
  · exact .inl (List.mem_filter.mpr ⟨h, by simpa using hk⟩)

/-! ### The command -/

/-- The part that has passed on the first record of destination `d`: the host copy to the ring writer, a peer copy to its port (R246, R653). -/
def State.recordSent (s : State) (d : Nat) (r : CommitRecord) (rest : List CommitRecord) : State :=
  if d = 6 then (s.takeRecord d r rest).1.onDest 6 (fun x => { x with ready := some (s.formRecord d r) })
  else (s.takeRecord d r rest).1.queueFlits d 0 [.commit [s.formRecord d r]]

/-- Whether the first record `r` of a destination waits (R246, R255, R260, R653). -/
def State.Waits (s : State) (d : Nat) (r : CommitRecord) : Prop :=
  ¬ (s.dest d).on ∨ (s.dest d).ready.isSome ∨ 4096 < s.com.entriesRead + (s.newKeys r).length ∨ (d = 6 ∧ ¬ s.ringRoom (recordSize r))

theorem exec_recordTransmit_nil (h : (s.dest n).queue = []) : exec (.recordTransmit n) s = .next s := by
  show execRecordTransmit n s = _
  unfold execRecordTransmit
  dsimp only
  rw [h]

theorem exec_recordTransmit_waits (hq : (s.dest n).queue = r :: rest) (h : s.Waits n r) : exec (.recordTransmit n) s = .next s := by
  show execRecordTransmit n s = _
  unfold execRecordTransmit
  dsimp only
  rw [hq]
  exact if_pos h

theorem exec_recordTransmit_sends (hq : (s.dest n).queue = r :: rest) (h : ¬ s.Waits n r) :
    exec (.recordTransmit n) s = .next (s.recordSent n r rest) := by
  show execRecordTransmit n s = _
  unfold execRecordTransmit
  dsimp only
  rw [hq]
  refine (if_neg h).trans ?_
  unfold State.recordSent
  split <;> rfl

/-- A destination that has passed on its record: the queue and the count of records move on, the host copy has its record ready. -/
theorem State.recordSent_dest (hu : s.Units) : (s.recordSent n r rest).dest n =
    { s.dest n with queue := rest, seq := (s.dest n).seq + 1, ready := if n.val = 6 then some (s.formRecord n r) else (s.dest n).ready } := by
  have hn : n.val < s.com.dests.length := by rw [hu.dests]; exact n.isLt
  have htaken : (s.takeRecord n r rest).1.dest n = { s.dest n with queue := rest, seq := (s.dest n).seq + 1 } :=
    (State.dest_congr State.takeRecord_com).trans (State.dest_onDest_same hn)
  have hlen : (s.takeRecord n r rest).1.com.dests.length = s.com.dests.length := by
    rw [State.takeRecord_com]
    exact lmod_length _ _ _
  unfold State.recordSent
  split
  · next h6 =>
    rw [h6] at hn htaken hlen ⊢
    rw [State.dest_onDest_same (hlen ▸ hn), htaken]
  · exact htaken

theorem State.recordSent_dest_ne {m : Nat} (h : m ≠ n) : (s.recordSent n r rest).dest m = s.dest m := by
  have htaken : (s.takeRecord n r rest).1.dest m = s.dest m := (State.dest_congr State.takeRecord_com).trans (State.dest_onDest_ne h)
  unfold State.recordSent
  split
  · next h6 => exact (State.dest_onDest_ne (h6 ▸ h)).trans htaken
  · exact htaken

theorem State.recordSent_readKeys {k : Nat} (h : k ∈ r.keys) : k ∈ (s.recordSent n r rest).com.readKeys := by
  have htaken : k ∈ (s.takeRecord n r rest).1.com.readKeys := by
    rw [State.takeRecord_com]
    exact State.mem_readKeys_of_recordRead h
  unfold State.recordSent
  split <;> exact htaken

theorem State.recordSent_peers (h : n = 6) : (s.recordSent n r rest).peers = s.peers := by
  subst h
  exact State.takeRecord_peers

/-- A peer copy joins the queue of virtual channel 0 of its port and of no other (R246). -/
theorem State.recordSent_peer (hu : s.Units) (h : n ≠ 6) (hv : 2 ≤ (s.peer n).waiting.length) :
    lgetD ((s.recordSent n r rest).peer n).waiting 0 [] = lgetD (s.peer n).waiting 0 [] ++ [.commit [s.formRecord n r]] ∧
    ∀ m : Fin 6, m.val ≠ n.val → (s.recordSent n r rest).peer m = s.peer m := by
  have hn : n.val < s.peers.ports.length := by
    rw [hu.peerPorts]
    omega
  have hpeer : ∀ p, (s.takeRecord n r rest).1.peer p = s.peer p := fun p => State.peer_congr State.takeRecord_peers
  have h6 : ¬ n.val = 6 := fun k => h (Fin.ext k)
  rw [State.recordSent, if_neg h6]
  constructor
  · rw [State.peer_queueFlits_same (by rw [State.takeRecord_peers]; exact hn) (by rw [hpeer]; omega), hpeer]
  · intro m hm
    rw [State.peer_queueFlits_ne hm, hpeer]

/-- Settles O33: the reasons for which a record waits, then the record passed on. -/
theorem recordsAreTransmittedInOrder : Obligations.RecordsAreTransmittedInOrder := by
  refine ⟨fun n s h => ?_, fun n s r rest hq h => exec_recordTransmit_waits hq (.inr (.inr (.inl h))),
    fun s r rest hq h => exec_recordTransmit_waits hq (.inr (.inr (.inr ⟨rfl, by rw [recordSize, h]; exact Bool.false_ne_true⟩))),
    fun n s r rest hu hq hon hready hkeys hroom => ?_⟩
  · cases hq : (s.dest n).queue with
    | nil => exact exec_recordTransmit_nil hq
    | cons r rest =>
      rcases h with h | h | h
      · exact absurd (hq.symm.trans h) nofun
      · exact exec_recordTransmit_waits hq (.inl (by rw [h]; exact Bool.false_ne_true))
      · exact exec_recordTransmit_waits hq (.inr (.inl h))
  · have hgo : ¬ s.Waits n r := by
      rintro (h | h | h | ⟨h6, h⟩)
      · exact h hon
      · exact absurd h (by rw [hready]; exact nofun)
      · exact absurd hkeys (Nat.not_le.mpr h)
      · exact h (hroom (Fin.ext h6))
    have hdest := State.recordSent_dest (n := n) (r := r) (rest := rest) hu
    refine ⟨_, s.formRecord n r, exec_recordTransmit_sends hq hgo, rfl, rfl, State.formRecord_keys, State.formRecord_cells, by rw [hdest], by rw [hdest],
      fun m hm => State.recordSent_dest_ne (fun h => hm (Fin.ext h)), fun k => State.recordSent_readKeys, fun h6 => ⟨?_, State.recordSent_peers h6⟩,
      fun h6 => ⟨?_, State.recordSent_peer hu h6⟩⟩
    · rw [hdest, h6]
      rfl
    · rw [hdest]
      exact (if_neg (fun k => h6 (Fin.ext k))).trans hready

end

end Sys2Proof.Machine
end

section
/-! PROOFS. Missed deadlines (O26). -/

namespace Sys2Proof

/-- A record of `l` holds the key `k`. -/
def Queued (l : List CommitRecord) (k : Nat) : Prop := ∃ q ∈ l, k ∈ q.keys

theorem Queued.append {l m : List CommitRecord} {k : Nat} (h : Queued l k ∨ Queued m k) : Queued (l ++ m) k := by
  rcases h with ⟨q, hq, hk⟩ | ⟨q, hq, hk⟩
  · exact ⟨q, List.mem_append_left _ hq, hk⟩
  · exact ⟨q, List.mem_append_right _ hq, hk⟩

end Sys2Proof

namespace Sys2Proof.Machine
open Sys2Proof

/-! ### Parts of a commit (R247) -/

theorem splitKeys_flatten (f : Nat) (l : List Nat) : (splitKeys f l).flatten = l := by
  induction f generalizing l with
  | zero => exact List.append_nil l
  | succ f ih =>
    unfold splitKeys
    split
    · exact List.append_nil l
    · rw [List.flatten_cons, ih, List.take_append_drop]

theorem mem_partsOf {r q : CommitRecord} {first : Nat} {ks : List Nat} : q ∈ partsOf r first ks ↔
    ∃ x ∈ (splitKeys (ks.length / 2048) ks).zipIdx,
      q = { r with part := first + x.2, keys := x.1, lastPart := decide (x.2 + 1 = (splitKeys (ks.length / 2048) ks).length) } := by
  simp only [partsOf, List.mem_map, eq_comm]

theorem partsOf_dead {r q : CommitRecord} {first : Nat} {ks : List Nat} (h : q ∈ partsOf r first ks) : q.dead = r.dead := by
  obtain ⟨x, -, rfl⟩ := mem_partsOf.mp h
  rfl

/-- The parts of a commit hold all of its keys. -/
theorem partsOf_queued {r : CommitRecord} {first k : Nat} {ks : List Nat} (h : k ∈ ks) : Queued (partsOf r first ks) k := by
  rw [← splitKeys_flatten (ks.length / 2048) ks] at h
  obtain ⟨p, hp, hk⟩ := List.mem_flatten.mp h
  obtain ⟨i, hi, rfl⟩ := List.mem_iff_getElem.mp hp
  exact ⟨_, mem_partsOf.mpr ⟨(_, i), List.mem_zipIdx_iff_getElem?.mpr (List.getElem?_eq_getElem hi), rfl⟩, hk⟩

/-! ### Keys folded into a later record (R256) -/

/-- The parts of a commit formed again with `ks` among their keys: none of the keys is lost. -/
theorem partsOf_folded {x : CommitRecord} {first k : Nat} {ks : List Nat} {parts others : List CommitRecord} (h : k ∈ ks ∨ Queued (parts ++ others) k) :
    Queued (partsOf x first ((parts.flatMap (fun y => y.keys)).foldl (fun a j => kinsert j a) ks) ++ others) k := by
  refine Queued.append ?_
  rcases h with hk | ⟨q, hq, hk⟩
  · exact .inl (partsOf_queued ((mem_foldl_kinsert _ _).mpr (.inr hk)))
  · rcases List.mem_append.mp hq with hq | hq
    · exact .inl (partsOf_queued ((mem_foldl_kinsert _ _).mpr (.inl (List.mem_flatMap.mpr ⟨q, hq, hk⟩))))
    · exact .inr ⟨q, hq, hk⟩

/-- Folding keys loses none: neither those folded nor those of the records they are folded into; and it moves no deadline. -/
theorem foldInto_some {ks : List Nat} {b : Nat} {l m : List CommitRecord} (h : foldInto ks b l = some m) :
    (∀ k, k ∈ ks ∨ Queued l k → Queued m k) ∧ ∀ q ∈ m, ∃ r ∈ l, q.dead = r.dead := by
  induction l generalizing m with
  | nil => exact absurd h nofun
  | cons r rest ih =>
    unfold foldInto at h
    split at h
    · obtain rfl := Option.some.inj h
      refine ⟨fun k hk => partsOf_folded ?_, fun q hq => ?_⟩
      · rw [List.cons_append, List.takeWhile_append_dropWhile]
        exact hk
      · rcases List.mem_append.mp hq with hq | hq
        · have hdead := partsOf_dead hq
          exact ⟨r, List.mem_cons_self, hdead⟩
        · exact ⟨q, List.mem_cons_of_mem _ ((List.dropWhile_sublist _).mem hq), rfl⟩
    · obtain ⟨m', hm, rfl⟩ := Option.map_eq_some_iff.mp h
      obtain ⟨hkeys, hdead⟩ := ih hm
      refine ⟨fun k hk => ?_, fun q hq => ?_⟩
      · rcases hk with hk | ⟨q, hq, hk⟩
        · exact Queued.append (l := [r]) (.inr (hkeys k (.inl hk)))
        · rcases List.mem_cons.mp hq with rfl | hq
          · exact ⟨q, List.mem_cons_self, hk⟩
          · exact Queued.append (l := [r]) (.inr (hkeys k (.inr ⟨q, hq, hk⟩)))
      · rcases List.mem_cons.mp hq with rfl | hq
        · exact ⟨q, List.mem_cons_self, rfl⟩
        · obtain ⟨x, hx, hd⟩ := hdead q hq
          exact ⟨x, List.mem_cons_of_mem _ hx, hd⟩

section
variable {s t : State} {n : Fin 7}

/-! ### The destination whose deadline has come -/

/-- The records of destination `d` whose deadline has come (R256). -/
def State.dueRecords (s : State) (d : Nat) : List CommitRecord := (s.dest d).queue.filter (dueAt s.tl.beats)

/-- The beats whose records destination `d` misses: number, beat and epoch of each. -/
def State.missedBeats (s : State) (d : Nat) : List (Nat × Nat × Nat) := ((s.dueRecords d).map (fun r => (r.ord, r.beat, r.epoch))).eraseDups

/-- The keys of the due records. -/
def State.missedKeys (s : State) (d : Nat) : List Nat := ((s.dueRecords d).flatMap (fun r => r.keys)).foldl (fun a k => kinsert k a) []

/-- How many beats the folded keys come from (R251). -/
def State.foldedCount (s : State) (d : Nat) : Nat := (s.missedBeats d).length + ((s.dueRecords d).map (fun r => r.foldedBeats)).foldl max 0

/-- The empty LIVE record of a missed beat (R256). -/
def missedHead (x : Nat × Nat × Nat) : CommitRecord :=
  { kind := .live, beat := x.2.1, epoch := x.2.2, ord := x.1, missed := true, lastPart := true }

/-- The records of destination `d` still due later. -/
def State.laterRecords (s : State) (d : Nat) : List CommitRecord := (s.dest d).queue.filter (fun r => !dueAt s.tl.beats r)

/-- Destination `d` with its missed beats in front and their keys folded into a later LIVE record, or kept for the next (R256). -/
def State.missedDest (s : State) (d : Nat) : Destination :=
  let x : Destination := { s.dest d with ready := none }
  let heads := (s.missedBeats d).map missedHead
  if (s.missedKeys d).isEmpty then { x with queue := heads ++ s.laterRecords d }
  else match foldInto (s.missedKeys d) (s.foldedCount d) (s.laterRecords d) with
    | some l => { x with queue := heads ++ l }
    | none => { x with
        queue := heads ++ s.laterRecords d, await := (s.missedKeys d).foldl (fun a k => kinsert k a) x.await, awaitBeats := x.awaitBeats + s.foldedCount d }

theorem mem_missedKeys {d k : Nat} : k ∈ s.missedKeys d ↔ ∃ r ∈ s.dueRecords d, k ∈ r.keys := by
  rw [State.missedKeys, mem_foldl_kinsert, List.mem_flatMap]
  exact or_iff_left List.not_mem_nil

/-- What stands in the queue behind the missed beats, and what waits: every key of the records due later and of the due ones, no deadline moved. -/
theorem State.missedDest_later (s : State) (d : Nat) : ∃ l, (s.missedDest d).queue = (s.missedBeats d).map missedHead ++ l ∧
    (∀ k, k ∈ s.missedKeys d ∨ Queued (s.laterRecords d) k → Queued l k ∨ k ∈ (s.missedDest d).await) ∧
    ∀ q ∈ l, ∃ r ∈ s.laterRecords d, q.dead = r.dead := by
  unfold State.missedDest
  dsimp only
  split
  · next h =>
    rw [List.isEmpty_iff] at h
    exact ⟨_, rfl, fun k hk => .inl (hk.resolve_left (by rw [h]; exact List.not_mem_nil)), fun q hq => ⟨q, hq, rfl⟩⟩
  · split
    · next l hl =>
      obtain ⟨hkeys, hdead⟩ := foldInto_some hl
      exact ⟨l, rfl, fun k hk => .inl (hkeys k hk), hdead⟩
    · exact ⟨_, rfl, fun k hk => hk.elim (fun h => .inr ((mem_foldl_kinsert _ _).mpr (.inl h))) .inl, fun q hq => ⟨q, hq, rfl⟩⟩

/-! ### What a missed deadline reports (R587) -/

theorem State.rget_logRec (h : regsWf s.regs = true) {a b c e f p : Nat} (hp : p ≠ Reg.LOG_SUPPRESSED) : (s.logRec a b c e f).rget p = s.rget p := by
  unfold State.logRec
  split
  · exact (State.rget_bump h).trans (if_neg hp)
  · rfl

theorem State.wf_logRec (h : regsWf s.regs = true) {a b c e f : Nat} : regsWf (s.logRec a b c e f).regs = true := by
  unfold State.logRec
  split
  · show regsWf (s.bump Reg.LOG_SUPPRESSED).regs = true
    exact State.wf_bump h
  · exact h

/-- A missed deadline counts and reports in the registers of the safety block alone. -/
theorem State.rget_error (h : regsWf s.regs = true) {a b p : Nat} (hp : p / 0x100000 ≠ 14) : (s.error a b).rget p = s.rget p := by
  have h1 : p ≠ Reg.SAFETY_EVENTS := fun e => hp (e ▸ rfl)
  have h2 : p ≠ Reg.LOG_SUPPRESSED := fun e => hp (e ▸ rfl)
  have h3 : p ≠ Reg.ERROR_COUNT := fun e => hp (e ▸ rfl)
  show (State.raise _ _ _).rget p = _
  rw [State.rget_raise (State.wf_logRec (State.wf_bump h)), if_neg h1, State.rget_logRec (State.wf_bump h) h2, State.rget_bump h, if_neg h3]

theorem State.wf_error (h : regsWf s.regs = true) {a b : Nat} : regsWf (s.error a b).regs = true :=
  State.wf_raise (State.wf_logRec (State.wf_bump h))

/-- The event and the error of one missed beat at destination `d` (R256, R587). -/
def State.reportMiss (s : State) (d : Nat) : State :=
  (s.raise Reg.COMMIT_EVENTS (if d = 6 then 0 else 1)).error (if d = 6 then 0 else 1) (if d = 6 then 0 else d)

/-- The counter of the beats that destination `d` misses (R256). -/
def missCounter (d : Nat) : Nat := if d = 6 then Reg.MISSED_HOST else Reg.MISSED_PEER d

theorem missCounter_bounds (n : Fin 7) : 0x501114 ≤ missCounter n ∧ missCounter n < 0x501160 ∧ missCounter n ≠ Reg.FOLDED_ENTRIES := by
  unfold missCounter
  revert n
  decide

theorem State.wf_reportMiss (h : regsWf s.regs = true) {d : Nat} : regsWf (s.reportMiss d).regs = true := State.wf_error (State.wf_raise h)

theorem State.rget_reportMiss (h : regsWf s.regs = true) {d p : Nat} (hp : p / 0x100000 ≠ 14) (he : p ≠ Reg.COMMIT_EVENTS) :
    (s.reportMiss d).rget p = s.rget p := by
  rw [State.reportMiss, State.rget_error (State.wf_raise h) hp, State.rget_raise h, if_neg he]

theorem State.rbit_reportMiss (h : regsWf s.regs = true) {d : Nat} : (s.reportMiss d).rbit Reg.COMMIT_EVENTS (if d = 6 then 0 else 1) = true := by
  rw [State.rbit, State.reportMiss, State.rget_error (State.wf_raise h) (by decide), ← State.rbit, State.rbit_raise h (by split <;> decide),
    decide_eq_true ⟨rfl, rfl⟩, Bool.or_true]

/-- The part that has reported each of some missed beats. -/
def State.reportMisses (s : State) (d : Nat) (l : List (Nat × Nat × Nat)) : State := l.foldl (fun t _ => t.reportMiss d) s

theorem State.wf_reportMisses (h : regsWf s.regs = true) {d : Nat} (l : List (Nat × Nat × Nat)) : regsWf (s.reportMisses d l).regs = true := by
  induction l generalizing s with
  | nil => exact h
  | cons x l ih => exact ih (State.wf_reportMiss h)

theorem State.rget_reportMisses (h : regsWf s.regs = true) {d p : Nat} (hp : p / 0x100000 ≠ 14) (he : p ≠ Reg.COMMIT_EVENTS)
    (l : List (Nat × Nat × Nat)) : (s.reportMisses d l).rget p = s.rget p := by
  induction l generalizing s with
  | nil => rfl
  | cons x l ih => exact (ih (State.wf_reportMiss h)).trans (State.rget_reportMiss h hp he)

theorem State.rbit_reportMisses (h : regsWf s.regs = true) {d : Nat} {l : List (Nat × Nat × Nat)} (hl : l ≠ []) :
    (s.reportMisses d l).rbit Reg.COMMIT_EVENTS (if d = 6 then 0 else 1) = true := by
  obtain ⟨l, x, rfl⟩ := List.eq_nil_or_concat l |>.resolve_left hl
  rw [State.reportMisses, List.concat_eq_append, List.foldl_append]
  exact State.rbit_reportMiss (State.wf_reportMisses h l)

theorem State.reportMisses_com {d : Nat} (l : List (Nat × Nat × Nat)) : (s.reportMisses d l).com = s.com :=
  Only.foldl (l := [.regs, .safety, .host, .out]) (.refl _ s) (fun _ _ h => State.error_only (State.raise_only h rfl) rfl) .com rfl

/-! ### The command -/

/-- The part in which destination `d` holds its missed beats and the counters of R256 have counted. -/
def State.missCounted (s : State) (d : Nat) : State :=
  ((s.onDest d (fun _ => s.missedDest d)).bump Reg.FOLDED_ENTRIES (s.missedKeys d).length).bump (missCounter d) (s.missedBeats d).length

theorem State.missAt_nothing {d : Nat} (hd : s.dueRecords d = []) (hr : (s.dest d).ready = none) : s.missAt d = s := by
  unfold State.missAt
  dsimp only
  rw [← State.dueRecords, hd, hr]
  rfl

theorem State.missAt_due {d : Nat} (hd : s.dueRecords d ≠ []) (hr : (s.dest d).ready = none) :
    s.missAt d = (s.missCounted d).reportMisses d (s.missedBeats d) := by
  unfold State.missAt
  dsimp only
  rw [← State.dueRecords, hr]
  split
  · next h => exact absurd (List.append_eq_nil_iff.mp h).1 hd
  · rw [State.missCounted, missCounter, apply_ite (State.bump _ · _), State.missedDest]
    rfl

theorem State.dueRecords_eq_nil {d : Nat} : s.dueRecords d = [] ↔ ∀ r ∈ (s.dest d).queue, dueAt s.tl.beats r = false := by
  simp only [State.dueRecords, List.filter_eq_nil_iff, Bool.not_eq_true]

theorem State.missCounted_dest (hu : s.Units) : (s.missCounted n).dest n = s.missedDest n := by
  rw [State.missCounted, State.dest_congr (State.bump_com.trans State.bump_com), State.dest_onDest_same (by rw [hu.dests]; exact n.isLt)]

theorem State.missCounted_dest_ne {m : Nat} (h : m ≠ n) : (s.missCounted n).dest m = s.dest m := by
  rw [State.missCounted, State.dest_congr (State.bump_com.trans State.bump_com), State.dest_onDest_ne h]

theorem State.missedDest_due {q : CommitRecord} (h : q ∈ (s.missedDest n).queue) : dueAt s.tl.beats q = false := by
  obtain ⟨l, hq, -, hdead⟩ := s.missedDest_later n
  rw [hq] at h
  rcases List.mem_append.mp h with h | h
  · obtain ⟨x, -, rfl⟩ := List.mem_map.mp h
    rfl
  · obtain ⟨r, hr, hd⟩ := hdead q h
    have hlate : dueAt s.tl.beats r = false := by simpa using (List.mem_filter.mp hr).2
    rw [← hlate, dueAt, dueAt, hd]

/-- No key of a queued record is lost (R256). -/
theorem State.missedDest_keys {r : CommitRecord} {k : Nat} (hr : r ∈ (s.dest n).queue) (hk : k ∈ r.keys) :
    Queued (s.missedDest n).queue k ∨ k ∈ (s.missedDest n).await := by
  obtain ⟨l, hq, hkeys, -⟩ := s.missedDest_later n
  refine (hkeys k ?_).imp_left (fun h => by rw [hq]; exact Queued.append (.inr h))
  cases hd : dueAt s.tl.beats r with
  | true => exact .inl (mem_missedKeys.mpr ⟨r, List.mem_filter.mpr ⟨hr, hd⟩, hk⟩)
  | false => exact .inr ⟨r, List.mem_filter.mpr ⟨hr, by rw [hd]; rfl⟩, hk⟩

theorem State.mem_missedBeats {r : CommitRecord} (hr : r ∈ (s.dest n).queue) (hd : dueAt s.tl.beats r = true) :
    (r.ord, r.beat, r.epoch) ∈ s.missedBeats n :=
  List.mem_eraseDups.mpr (List.mem_map.mpr ⟨r, List.mem_filter.mpr ⟨hr, hd⟩, rfl⟩)

/-- Settles O26: the destination as the miss leaves it, then the counter and the event. -/
theorem missedDeadlinesLoseNoKey : Obligations.MissedDeadlinesLoseNoKey := by
  refine ⟨fun n s hd hr => congrArg Host.Outcome.next (State.missAt_nothing (State.dueRecords_eq_nil.mpr hd) hr), fun n s hu hm hdue hr => ?_⟩
  obtain ⟨r, hrq, hrd⟩ := hdue
  have hbeat := State.mem_missedBeats hrq hrd
  have hsome : s.dueRecords n ≠ [] := fun h => absurd (State.dueRecords_eq_nil.mp h r hrq) (by rw [hrd]; exact nofun)
  refine ⟨(s.missCounted n).reportMisses n (s.missedBeats n), congrArg Host.Outcome.next (State.missAt_due hsome hr), ?_⟩
  have hw0 : regsWf (s.onDest n (fun _ => s.missedDest n)).regs = true := hm.1
  have hw1 := State.wf_bump hw0 (o := Reg.FOLDED_ENTRIES) (n := (s.missedKeys n).length)
  have hw : regsWf (s.missCounted n).regs = true := State.wf_bump hw1
  have hdest : ((s.missCounted n).reportMisses n (s.missedBeats n)).dest n = s.missedDest n :=
    (State.dest_congr (State.reportMisses_com _)).trans (State.missCounted_dest hu)
  rw [hdest]
  refine ⟨fun r hr k hk => State.missedDest_keys hr hk, fun r hr hd => ?_, fun q hq => State.missedDest_due hq, ?_, ?_, fun m hm => ?_⟩
  · obtain ⟨l, hq, -⟩ := s.missedDest_later n
    exact ⟨missedHead (r.ord, r.beat, r.epoch), by rw [hq]; exact List.mem_append_left _ (List.mem_map_of_mem (State.mem_missedBeats hr hd)),
      rfl, rfl, rfl, rfl, rfl, rfl⟩
  · obtain ⟨hlo, hhi, hne⟩ := missCounter_bounds n
    rw [← missCounter, State.rget_reportMisses hw (by omega) (by unfold Reg.COMMIT_EVENTS; omega), State.missCounted, State.rget_bump hw1, if_pos rfl,
      State.rget_bump hw0, if_neg hne]
    rfl
  · exact State.rbit_reportMisses hw (List.ne_nil_of_mem hbeat)
  · exact (State.dest_congr (State.reportMisses_com _)).trans (State.missCounted_dest_ne (fun h => hm (Fin.ext h)))

end

end Sys2Proof.Machine
end

section
/-! PROOFS. What an operation of the mover does to its channel and to storage (O46). -/

namespace Sys2Proof

/-- A job that has met a fault (R364). -/
def MoverJob.fault (j : MoverJob) : MoverJob := { j with faulted := true }

/-- A job whose operation has moved `n` bytes and is done. -/
def MoverJob.ends (j : MoverJob) (n : Nat) : MoverJob := { j with moved := j.moved + n, done := true }

end Sys2Proof

namespace Sys2Proof.Machine
open Sys2Proof

theorem mget_mmod_ne {α : Type} {m : Map α} {k j : Nat} {f : α → α} (h : j ≠ k) : mget (mmod m k f) j = mget m j := by
  unfold mmod
  split
  · exact mget_mset_ne _ _ _ h
  · rfl

theorem lgetD_of_le {α : Type} {l : List α} {i : Nat} {d : α} (h : l.length ≤ i) : lgetD l i d = d := by
  induction l generalizing i with
  | nil => rfl
  | cons x l ih =>
    cases i with
    | zero => exact absurd h (Nat.not_succ_le_zero _)
    | succ i => exact ih (Nat.le_of_succ_le_succ h)

theorem State.Units.movers {s : State} (h : s.Units) : s.movers.length = 32 := congrArg (lgetD · 4 0) h

section
variable {s t u : State} {ch : Nat} {a : Agent} {p q : Place} {d dd : Desc} {idx : List Int} {b : List Byte}

theorem State.mover_onMover_ne {c : Nat} {f : MoverChannel → MoverChannel} (h : c ≠ ch) : (s.onMover ch f).mover c = s.mover c := lgetD_lmod_ne _ _ _ _ h

theorem State.mover_onMover_same {f : MoverChannel → MoverChannel} (h : ch < s.movers.length) : (s.onMover ch f).mover ch = f (s.mover ch) :=
  lgetD_lmod_same _ _ _ _ h

theorem State.mover_onMover_absent {f : MoverChannel → MoverChannel} (h : s.movers.length ≤ ch) : (s.onMover ch f).mover ch = s.mover ch :=
  (lgetD_of_le (show (lmod s.movers ch f).length ≤ ch by rwa [lmod_length])).trans (lgetD_of_le h).symm

/-! ### What an operation changes on its way -/

/-- From `s` to `t` channel `ch` has moved data into the storage behind `p`: its job may have met a fault, its queue and tokens and every other channel
stay, and where `p` is a data set no other data set, no engine and no host memory has changed. -/
structure Moves (ch : Nat) (p : Place) (s t : State) : Prop where
  others : ∀ e, e ≠ ch → t.mover e = s.mover e
  queue : (t.mover ch).queue = (s.mover ch).queue
  tokens : (t.mover ch).tokens = (s.mover ch).tokens
  running : (t.mover ch).running = (s.mover ch).running ∨ (t.mover ch).running = (s.mover ch).running.map MoverJob.fault
  count : t.movers.length = s.movers.length
  set : ∀ sp num z, p = .set sp num z → t.engines = s.engines ∧ t.hostMem = s.hostMem ∧ ∀ k, k ≠ sp * 65536 + num → mget t.data k = mget s.data k

theorem Moves.refl (ch : Nat) (p : Place) (s : State) : Moves ch p s s :=
  ⟨fun _ _ => rfl, rfl, rfl, .inl rfl, rfl, fun _ _ _ _ => ⟨rfl, rfl, fun _ _ => rfl⟩⟩

theorem Moves.trans (h : Moves ch p s t) (k : Moves ch p t u) : Moves ch p s u where
  others e he := (k.others e he).trans (h.others e he)
  queue := k.queue.trans h.queue
  tokens := k.tokens.trans h.tokens
  running := by
    rcases k.running with hk | hk <;> rcases h.running with hh | hh <;> rw [hk, hh]
    · exact .inl rfl
    · exact .inr rfl
    · exact .inr rfl
    · exact .inr (Option.map_map _ _ _)
  count := k.count.trans h.count
  set sp num z hp := by
    obtain ⟨he, hm, hd⟩ := h.set sp num z hp
    obtain ⟨he', hm', hd'⟩ := k.set sp num z hp
    exact ⟨he'.trans he, hm'.trans hm, fun key hk => (hd' key hk).trans (hd key hk)⟩

theorem State.mover_congr {c : Nat} (h : t.movers = s.movers) : t.mover c = s.mover c := by rw [State.mover, State.mover, h]

/-- A change that leaves every channel. -/
theorem Moves.of_movers (hm : t.movers = s.movers) (hset : ∀ sp num z, p = .set sp num z →
    t.engines = s.engines ∧ t.hostMem = s.hostMem ∧ ∀ k, k ≠ sp * 65536 + num → mget t.data k = mget s.data k) : Moves ch p s t :=
  ⟨fun _ _ => State.mover_congr hm, by rw [State.mover_congr hm], by rw [State.mover_congr hm], .inl (by rw [State.mover_congr hm]), by rw [hm], hset⟩

/-- A change that concerns neither the channels nor storage. -/
theorem Moves.of_only {l : List Component} (h : Only l s t)
    (hl : ([.movers, .engines, .hostMem, .data] : List Component).all (fun c => !l.contains c) = true) : Moves ch p s t := by
  have hout : ∀ c ∈ ([.movers, .engines, .hostMem, .data] : List Component), l.contains c = false := by simpa using hl
  have hm : t.movers = s.movers := h .movers (hout _ (by decide))
  have he : t.engines = s.engines := h .engines (hout _ (by decide))
  have hh : t.hostMem = s.hostMem := h .hostMem (hout _ (by decide))
  have hd : t.data = s.data := h .data (hout _ (by decide))
  exact .of_movers hm (fun _ _ _ _ => ⟨he, hh, fun k _ => by rw [hd]⟩)

/-- A change of the channel that leaves its queue and tokens, and its job but for a fault. -/
theorem Moves.onMover {f : MoverChannel → MoverChannel} (hq : ∀ m, (f m).queue = m.queue) (ht : ∀ m, (f m).tokens = m.tokens)
    (hr : ∀ m, (f m).running = m.running ∨ (f m).running = m.running.map MoverJob.fault) : Moves ch p s (s.onMover ch f) := by
  rcases Nat.lt_or_ge ch s.movers.length with h | h
  · have hm : (s.onMover ch f).mover ch = f (s.mover ch) := State.mover_onMover_same h
    exact ⟨fun e he => State.mover_onMover_ne he, by rw [hm, hq], by rw [hm, ht], by rw [hm]; exact hr _, lmod_length _ _ _,
      fun _ _ _ _ => ⟨rfl, rfl, fun _ _ => rfl⟩⟩
  · have hm : (s.onMover ch f).mover ch = s.mover ch := State.mover_onMover_absent h
    exact ⟨fun e he => State.mover_onMover_ne he, by rw [hm], by rw [hm], .inl (by rw [hm]), lmod_length _ _ _,
      fun _ _ _ _ => ⟨rfl, rfl, fun _ _ => rfl⟩⟩

theorem Moves.foldl {β : Type} {f : State → β → State} (hf : ∀ t x, Moves ch p t (f t x)) (xs : List β) : Moves ch p s (xs.foldl f s) := by
  induction xs generalizing s with
  | nil => exact .refl ch p s
  | cons x xs ih => exact (hf s x).trans ih

theorem Moves.ite {c : Prop} [Decidable c] (h : Moves ch p s t) (k : Moves ch p s u) : Moves ch p s (if c then t else u) := by
  split
  · exact h
  · exact k

theorem State.bump_moves {o n : Nat} : Moves ch p s (s.bump o n) := .of_only State.bump_fr rfl

theorem State.raise_moves {o n : Nat} : Moves ch p s (s.raise o n) := .of_only State.raise_fr rfl

theorem State.bump64_moves {lo hi n : Nat} : Moves ch p s (s.bump64 lo hi n) := .of_only State.bump64_fr rfl

theorem State.opFault_moves : Moves ch p s (s.opFault ch) := .onMover (fun _ => rfl) (fun _ => rfl) (fun _ => .inr rfl)

/-! ### Accesses (R363, R364) -/

theorem State.xlateFault_moves {w : Bool} {x : Nat} : Moves a.ch p s (s.xlateFault a w x) := by
  have hcap : Moves a.ch p s (s.xlateCapture w a.ini a.ch x) := .of_only (State.xlateCapture_only (l := [.regs, .host, .out]) (.refl _ s) rfl) rfl
  have hraise : ∀ (t : State) (f b v : Nat), Moves a.ch p t (t.hqRaise f b v) := fun t _ _ _ =>
    .of_only (State.hqRaise_only (l := [.regs, .host, .out]) (.refl _ t) rfl) rfl
  unfold State.xlateFault
  exact .ite hcap ((hcap.trans (hraise _ _ _ _)).trans State.opFault_moves)

theorem State.judgeAccess_moves {w : Bool} {o : Int} {n : Nat} : Moves a.ch q s (s.judgeAccess a p w o n).1 := by
  unfold State.judgeAccess
  split
  · exact .ite State.xlateFault_moves (.refl _ _ s)
  · split
    · exact .refl _ _ s
    · have hdeny : ∀ x y, Moves a.ch q s (s.deny w a.ini x y) := fun x y =>
        .of_only (State.deny_only (l := [.regs, .safety, .host, .out]) (.refl _ s) rfl) rfl
      exact .ite ((hdeny _ _).trans State.xlateFault_moves) (hdeny _ _)

theorem State.readVia_fst {o : Int} {n : Nat} : (s.readVia a p o n).1 = (s.judgeAccess a p false o n).1 := by
  unfold State.readVia
  split <;> next h => rw [h]

theorem State.readVia_moves {o : Int} {n : Nat} : Moves a.ch q s (s.readVia a p o n).1 := by
  rw [State.readVia_fst]
  exact State.judgeAccess_moves

theorem State.placeWrite_moves {o : Nat} : Moves ch p s (s.placeWrite p o b) := by
  unfold State.placeWrite
  split
  · exact .of_movers rfl nofun
  · refine .of_movers rfl (fun sp num z hp => ?_)
    cases hp
    exact ⟨rfl, rfl, fun k hk => mget_mmod_ne hk⟩
  · split
    · exact .of_movers (State.hwrite_only (l := [.hostMem]) (.refl _ s) rfl .movers rfl) nofun
    · exact .refl ch _ s
  · exact .refl ch _ s

theorem State.writeVia_moves {o : Int} : Moves a.ch p s (s.writeVia a p o b) := by
  have hjudge : Moves a.ch p s (s.judgeAccess a p true o b.length).1 := State.judgeAccess_moves
  unfold State.writeVia
  split
  · next h =>
    rw [h] at hjudge
    exact hjudge.trans State.placeWrite_moves
  · next h =>
    rw [h] at hjudge
    exact hjudge

theorem State.moverWrite_moves {n : Nat} {o : Int} : Moves a.ch p s (s.moverWrite a p n o b) := by
  unfold State.moverWrite
  dsimp only
  split
  · refine State.writeVia_moves.trans (.foldl (fun t x => ?_) _)
    exact .of_movers rfl nofun
  · exact State.writeVia_moves

/-! ### Units of a window (R354, R357, R369) -/

theorem State.readUnit_moves : Moves a.ch q s (s.readUnit a d p idx).1 := by
  unfold State.readUnit
  dsimp only
  split
  · exact State.bump64_moves.trans State.raise_moves
  · split
    · exact State.bump_moves.trans State.raise_moves
    · have hread : Moves a.ch q s (s.readVia a p (d.bitAddr (d.localize (idx.map Int.toNat)).1 / 8) d.unitBytes).1 := State.readVia_moves
      split
      · next h =>
        rw [h] at hread
        exact hread
      · next s1 _ h =>
        rw [h] at hread
        split
        · exact hread
        · split
          · have hscale : Moves a.ch q s1 (s1.readVia a p (d.scaleAddr (d.localize (idx.map Int.toNat)).1 : Nat) 1).1 := State.readVia_moves
            split
            · next h =>
              rw [h] at hscale
              split <;> exact hread.trans hscale
            · next h =>
              rw [h] at hscale
              exact hread.trans hscale
          · exact hread

theorem State.markTile_moves {l : List Nat} {n : Nat} : Moves a.ch p s (s.markTile a d p l n) :=
  .ite (.refl _ _ s) State.moverWrite_moves

theorem State.writeLocal_moves {l : List Nat} {n : Nat} : Moves a.ch p s (s.writeLocal a d p l b n) := by
  have hscale : ∀ t : State, Moves a.ch p t (if fmtBlock d.format then t.moverWrite a p d.dataSet (d.scaleAddr l : Nat) [BitVec.ofNat 8 n] else t) :=
    fun t => .ite State.moverWrite_moves (.refl _ _ t)
  unfold State.writeLocal
  refine Moves.trans ?_ (hscale _)
  split
  · exact .ite (((State.moverWrite_moves.trans State.bump_moves).trans State.raise_moves).trans State.markTile_moves) State.moverWrite_moves
  · exact State.moverWrite_moves

theorem State.sendWrite_moves {n : Nat} {x : WriteBody} : Moves ch p s (s.sendWrite n x).1 :=
  .of_only (State.sendWrite_only (l := [.regs, .peers, .host, .out]) (.refl _ s) rfl) rfl

theorem State.writeUnit_moves {n m : Nat} : Moves a.ch p s (s.writeUnit a d p idx b n m) := by
  unfold State.writeUnit
  dsimp only
  split
  · exact State.bump64_moves.trans State.raise_moves
  · refine Moves.trans (.ite (State.writeLocal_moves.trans State.markTile_moves) (.refl _ _ s)) (.foldl (fun t c => ?_) _)
    refine Moves.trans ?_ (.ite (.refl _ _ _) State.opFault_moves)
    split
    · exact State.sendWrite_moves.trans State.sendWrite_moves
    · exact State.sendWrite_moves

theorem State.convert_moves {n : Nat} : Moves ch p s (s.convert d dd q b n).1 :=
  .of_only (State.convert_only (l := [.regs]) (.refl _ s) rfl) rfl

theorem State.moveUnit_moves {src dst : List Int} : Moves a.ch q s (s.moveUnit a d dd p q src dst) := by
  unfold State.moveUnit
  exact (State.readUnit_moves.trans State.convert_moves).trans State.writeUnit_moves

/-! ### An operation carried out (R352) -/

theorem State.noteShadows_moves : Moves ch p s (s.noteShadows d) := .of_only (State.noteShadows_only (l := [.regs]) (.refl _ s) rfl) rfl

theorem State.noteMoved_movers {n : Nat} {fast : Bool} :
    (s.noteMoved ch n fast).movers = (s.onMover ch (fun c => { c with running := c.running.map (fun j => j.ends n) })).movers := by
  unfold State.noteMoved
  dsimp only
  split
  · exact congrArg (lmod · ch _) State.bump64_movers
  · rw [State.bump64_movers]
    exact congrArg (lmod · ch _) State.bump64_movers

theorem State.noteMoved_fr {n : Nat} {fast : Bool} : Only [.regs, .movers, .free] s (s.noteMoved ch n fast) := State.noteMoved_only (.refl _ s) rfl

/-- From `s` to `t` channel `ch` has carried out an operation that moved `n` bytes into the storage behind `p`. -/
def Carried (ch : Nat) (p : Place) (n : Nat) (s t : State) : Prop :=
  ∃ u, Moves ch p s u ∧ t.movers = (u.onMover ch (fun c => { c with running := c.running.map (fun j => j.ends n) })).movers ∧
    t.engines = u.engines ∧ t.hostMem = u.hostMem ∧ t.data = u.data

theorem Moves.carried {n : Nat} {fast : Bool} (h : Moves ch p s t) : Carried ch p n s (t.noteMoved ch n fast) :=
  ⟨t, h, State.noteMoved_movers, State.noteMoved_fr .engines rfl, State.noteMoved_fr .hostMem rfl, State.noteMoved_fr .data rfl⟩

theorem Carried.then {n : Nat} (h : Carried ch p n s t) (k : Only [.regs, .com, .host, .out] t u) : Carried ch p n s u := by
  obtain ⟨v, hv, hm, he, hh, hd⟩ := h
  exact ⟨v, hv, (k .movers rfl).trans hm, (k .engines rfl).trans he, (k .hostMem rfl).trans hh, (k .data rfl).trans hd⟩

/-- What is left of a job that has been carried out (R352, R364): done, its bytes counted, a fault kept; and what else its channel and storage hold. -/
theorem Carried.outcome {n : Nat} {j : MoverJob} (h : Carried ch p n s t) (hc : ch < s.movers.length) (hj : (s.mover ch).running = some j) :
    ∃ i, (t.mover ch).running = some i ∧ i.done = true ∧ i.op = j.op ∧ i.host = j.host ∧ i.moved = j.moved + n ∧ (j.faulted = true → i.faulted = true) ∧
      (t.mover ch).queue = (s.mover ch).queue ∧ (t.mover ch).tokens = (s.mover ch).tokens ∧ (∀ e, e ≠ ch → t.mover e = s.mover e) ∧
      (∀ sp num z, p = .set sp num z →
        t.engines = s.engines ∧ t.hostMem = s.hostMem ∧ ∀ k, k ≠ sp * 65536 + num → mget t.data k = mget s.data k) := by
  obtain ⟨u, hu, hm, he, hh, hd⟩ := h
  have hlast : t.mover ch = { u.mover ch with running := (u.mover ch).running.map (fun j => j.ends n) } :=
    (State.mover_congr hm).trans (State.mover_onMover_same (by rw [hu.count]; exact hc))
  have hset : ∀ sp num z, p = .set sp num z →
      t.engines = s.engines ∧ t.hostMem = s.hostMem ∧ ∀ k, k ≠ sp * 65536 + num → mget t.data k = mget s.data k := by
    rw [he, hh, hd]
    exact hu.set
  have hothers : ∀ e, e ≠ ch → t.mover e = s.mover e := fun e hne =>
    ((State.mover_congr hm).trans (State.mover_onMover_ne hne)).trans (hu.others e hne)
  rw [hlast]
  rcases hu.running with hr | hr <;> rw [hj] at hr <;> rw [hr]
  · exact ⟨j.ends n, rfl, rfl, rfl, rfl, rfl, id, hu.queue, hu.tokens, hothers, hset⟩
  · exact ⟨j.fault.ends n, rfl, rfl, rfl, rfl, rfl, fun _ => rfl, hu.queue, hu.tokens, hothers, hset⟩

/-! ### The five operations -/

section
variable {o : MoverOp} {x y z : DescEntry}

theorem agentOf_ch : (agentOf ch).ch = ch := by
  unfold agentOf
  split <;> rfl

theorem State.moveUnit_moves_of {src dst : List Int} : Moves ch q s (s.moveUnit (agentOf ch) d dd p q src dst) := by
  have h : Moves (agentOf ch).ch q s (s.moveUnit (agentOf ch) d dd p q src dst) := State.moveUnit_moves
  rwa [agentOf_ch] at h

theorem State.writeUnit_moves_of {n m : Nat} : Moves ch p s (s.writeUnit (agentOf ch) d p idx b n m) := by
  have h : Moves (agentOf ch).ch p s (s.writeUnit (agentOf ch) d p idx b n m) := State.writeUnit_moves
  rwa [agentOf_ch] at h

theorem State.readUnit_moves_of : Moves ch q s (s.readUnit (agentOf ch) d p idx).1 := by
  have h : Moves (agentOf ch).ch q s (s.readUnit (agentOf ch) d p idx).1 := State.readUnit_moves
  rwa [agentOf_ch] at h

theorem State.indexAt_moves {k : Nat} : Moves ch q s (s.indexAt (agentOf ch) x k).1 := State.readUnit_moves_of

theorem State.moverCopy_carried (ho : s.jobOf ch 1 = some o) (hs : s.descAt o.src = some x) (hd : s.descAt o.dst = some y) :
    ∃ n, Carried ch (s.placeOf y) n s (s.moverCopy ch) := by
  unfold State.moverCopy
  rw [ho]
  dsimp only
  rw [hs, hd]
  exact ⟨_, ((Moves.foldl (fun _ _ => State.moveUnit_moves_of) _).trans State.noteShadows_moves).carried⟩

theorem State.moverFill_carried (ho : s.jobOf ch 2 = some o) (hd : s.descAt o.dst = some y) :
    Carried ch (s.placeOf y) (windowSize o.count / y.desc.unit * y.desc.unitBytes) s (s.moverFill ch) := by
  unfold State.moverFill
  rw [ho]
  dsimp only
  rw [hd]
  exact ((Moves.foldl (fun _ _ => State.writeUnit_moves_of) _).trans State.noteShadows_moves).carried

theorem State.moverGather_carried (ho : s.jobOf ch 3 = some o) (hs : s.descAt o.src = some x) (hd : s.descAt o.dst = some y)
    (hi : s.descAt o.idx = some z) : ∃ n, Carried ch (s.placeOf y) n s (s.moverGather ch) := by
  unfold State.moverGather
  rw [ho]
  dsimp only
  rw [hs, hd, hi]
  refine ⟨_, ((Moves.foldl (fun t k => ?_) _).trans State.noteShadows_moves).carried⟩
  have hindex : Moves ch (s.placeOf y) t (t.indexAt (agentOf ch) z k).1 := State.indexAt_moves
  refine hindex.trans (.ite ?_ ?_)
  · refine Moves.trans ?_ (.foldl (fun _ _ => State.moveUnit_moves_of) _)
    refine Moves.trans ?_ (.ite State.bump64_moves (.refl _ _ _))
    exact .onMover (fun _ => rfl) (fun _ => rfl) (fun _ => .inl rfl)
  · exact (State.bump_moves.trans State.raise_moves).trans (.foldl (fun _ _ => State.convert_moves.trans State.writeUnit_moves_of) _)

theorem State.moverScatter_carried (ho : s.jobOf ch 4 = some o) (hs : s.descAt o.src = some x) (hd : s.descAt o.dst = some y)
    (hi : s.descAt o.idx = some z) : ∃ n, Carried ch (s.placeOf y) n s (s.moverScatter ch) := by
  unfold State.moverScatter
  rw [ho]
  dsimp only
  rw [hs, hd, hi]
  refine ⟨_, ((Moves.foldl (fun t k => ?_) _).trans State.noteShadows_moves).carried⟩
  have hindex : Moves ch (s.placeOf y) t (t.indexAt (agentOf ch) z k).1 := State.indexAt_moves
  exact hindex.trans (.ite (.foldl (fun _ _ => State.moveUnit_moves_of) _) (State.bump_moves.trans State.raise_moves))

/-- The bytes of a window as DELIVER reads them, unit by unit, and the part that has read them. -/
def State.readWindow (s : State) (ch : Nat) (o : MoverOp) (y : DescEntry) (n : Nat) : State × List Byte :=
  (List.range n).foldl (fun (t : State × List Byte) u =>
    let x := t.1.readUnit (agentOf ch) y.desc (s.placeOf y) (windowAt o.dstOrigin o.count (u * y.desc.unit))
    (x.1, t.2 ++ x.2.1)) (s, [])

theorem State.readWindow_succ {n : Nat} : s.readWindow ch o y (n + 1) =
    (((s.readWindow ch o y n).1.readUnit (agentOf ch) y.desc (s.placeOf y) (windowAt o.dstOrigin o.count (n * y.desc.unit))).1,
      (s.readWindow ch o y n).2 ++
        ((s.readWindow ch o y n).1.readUnit (agentOf ch) y.desc (s.placeOf y) (windowAt o.dstOrigin o.count (n * y.desc.unit))).2.1) := by
  rw [State.readWindow, List.range_succ, List.foldl_append]
  rfl

theorem State.readWindow_moves {n : Nat} : Moves ch q s (s.readWindow ch o y n).1 := by
  induction n with
  | zero => exact .refl ch q s
  | succ n ih =>
    rw [State.readWindow_succ]
    exact ih.trans State.readUnit_moves_of

/-- The part in which DELIVER has read its window and counted its bytes. -/
def State.delivered (s : State) (ch : Nat) (o : MoverOp) (y : DescEntry) : State :=
  (s.readWindow ch o y (windowSize o.count / y.desc.unit)).1.noteMoved ch (windowSize o.count / y.desc.unit * y.desc.unitBytes)
    (fastWindow y.desc o.dstOrigin o.count)

/-- The bytes that DELIVER reads. -/
def State.deliveredBytes (s : State) (ch : Nat) (o : MoverOp) (y : DescEntry) : List Byte :=
  (s.readWindow ch o y (windowSize o.count / y.desc.unit)).2

/-- A batch of an engine's store passes the escape policy of its mesh port (R308), any other goes to the commit node as it is. -/
theorem State.moverDeliver_fr (ho : s.jobOf ch 5 = some o) (hd : s.descAt o.dst = some y) :
    Only [.regs, .com, .host, .out] (s.delivered ch o y) (s.moverDeliver ch) := by
  unfold State.moverDeliver
  rw [ho]
  dsimp only
  rw [hd]
  dsimp only
  have hpass : ∀ (t : State) (e : Nat) (b : DeltaBatch), Only [.regs, .com, .host, .out] t (t.passRecords e y.desc (s.placeOf y) o.dstOrigin o.count b).1 :=
    fun t e b => State.passRecords_only (.refl _ t) rfl
  split
  · exact .ite (fun _ => hpass _ _ _) (fun _ => State.takeBatch_only (hpass _ _ _) rfl)
  · exact State.takeBatch_only (.refl _ _) rfl

theorem State.moverDeliver_set (ho : s.jobOf ch 5 = some o) (hd : s.descAt o.dst = some y) {sp num size : Nat} (hp : s.placeOf y = .set sp num size) :
    s.moverDeliver ch = (s.delivered ch o y).takeBatch (batchOf (s.deliveredBytes ch o y) none) := by
  unfold State.moverDeliver
  rw [ho]
  dsimp only
  rw [hd]
  dsimp only
  split
  · next h => exact absurd (hp.symm.trans h) nofun
  · rfl

theorem State.moverDeliver_carried (ho : s.jobOf ch 5 = some o) (hd : s.descAt o.dst = some y) :
    Carried ch (s.placeOf y) (windowSize o.count / y.desc.unit * y.desc.unitBytes) s (s.moverDeliver ch) :=
  State.readWindow_moves.carried.then (State.moverDeliver_fr ho hd)

end

end

end Sys2Proof.Machine
end

section
/-! PROOFS. The bytes that FILL stores and DELIVER reads, and the commands of the mover (O46). -/

namespace Sys2Proof

/-! ### Tensors of INT8 elements -/

section
variable {d : Desc}

/-- A descriptor of INT8 elements in rows, held by one chip (R281, R325). -/
structure Desc.Bytes (d : Desc) : Prop where
  format : d.format = 1
  layout : d.layout = 1

theorem Desc.Bytes.unit (h : d.Bytes) : d.unit = 1 := by
  rw [Desc.unit, h.format]
  rfl

theorem Desc.Bytes.unitBytes (h : d.Bytes) : d.unitBytes = 1 := by
  rw [Desc.unitBytes, h.unit, h.format]
  rfl

theorem Desc.Bytes.plain (h : d.Bytes) : fmtBlock d.format = false := by
  rw [h.format]
  rfl

theorem Desc.Bytes.localize (h : d.Bytes) (l : List Nat) : d.localize l = (l, []) := if_pos (by rw [h.layout]; decide)

theorem Desc.Bytes.fillUnit (h : d.Bytes) : d.fillUnit = [BitVec.ofNat 8 d.fill] := by
  rw [Desc.fillUnit, h.unit, h.unitBytes, h.format]
  show [BitVec.ofNat 8 (0 + d.fill % 2 ^ 8 * 2 ^ (8 * 0))] = _
  congr 1
  apply BitVec.eq_of_toNat_eq
  simp

/-- The byte address of an element of a tensor of INT8 elements. -/
def Desc.byteAt (d : Desc) (idx : List Int) : Int := d.bitAddr (idx.map Int.toNat) / 8

theorem windowAt_row {u : Nat} (h : u < 32) : windowAt [0, 0, 0, 0, 0, 0] [32, 1, 1, 1, 1, 1] u = [(u : Int), 0, 0, 0, 0, 0] := by
  revert u
  decide

theorem Desc.Bytes.byteAt_row (h : d.Bytes) (hs : d.st 0 = 1) (u : Nat) : d.byteAt [(u : Int), 0, 0, 0, 0, 0] = d.base + u := by
  have hspan : d.span [u, 0, 0, 0, 0, 0] 0 = u := by
    simp [Desc.span, List.range_succ, lgetD, hs]
  have haddr : d.bitAddr [u, 0, 0, 0, 0, 0] = 8 * (d.base + u) := by
    unfold Desc.bitAddr
    rw [h.layout, h.plain, hspan]
    rfl
  show d.bitAddr [u, 0, 0, 0, 0, 0] / 8 = _
  rw [haddr]
  omega

theorem cread_succ (m : List Host.Cell) (x n : Nat) : cread m x (n + 1) = cread m x n ++ cread m (x + n) 1 := by
  induction n generalizing x with
  | zero => rfl
  | succ n ih =>
    rw [cread, ih, ← List.cons_append, ← cread, Nat.add_right_comm, Nat.add_assoc]

end

theorem batchOf_take (b : List Byte) (e : Option (Fin 20)) : (batchOf b e).records.take (batchOf b e).count.toNat = (batchOf b e).records := by
  refine List.take_of_length_le ?_
  simp only [batchOf, List.length_map, List.length_range, BitVec.toNat_ofNat]
  omega

end Sys2Proof

namespace Sys2Proof.Machine
open Sys2Proof

theorem mget_mmod_same {α : Type} {m : Map α} {k : Nat} {f : α → α} {x : α} (h : mget m k = some x) : mget (mmod m k f) k = some (f x) := by
  rw [mmod, h]
  exact mget_mset_same _ _ _

theorem cwf_of_dataWf {m : Map DataStore} {k : Nat} {x : DataStore} (h : dataWf m = true) (hx : mget m k = some x) : cwf x.bytes = true := by
  simp only [dataWf, Bool.and_eq_true, List.all_eq_true] at h
  exact h.2 _ (mem_of_mget hx)

section
variable {s : State} {ch : Nat} {a : Agent} {d : Desc} {idx : List Int} {sp num size : Nat}

/-! ### A unit of one byte -/

theorem State.ownsIx_nil : s.ownsIx d [] = true := by
  unfold State.ownsIx
  split <;> rfl

theorem State.readUnit_byte (hd : d.Bytes) (hin : d.inside idx = true) (hj : s.judgeAccess a (.set sp num size) false (d.byteAt idx) 1 = (s, true))
    (hp : s.poisonedAt sp num (d.byteAt idx).toNat 1 = false) :
    s.readUnit a d (.set sp num size) idx = (s, s.dread sp num (d.byteAt idx).toNat 1, 0) := by
  have hread : s.readVia a (.set sp num size) (d.byteAt idx) 1 = (s, some (s.dread sp num (d.byteAt idx).toNat 1)) := by
    rw [State.readVia, hj]
    rfl
  unfold State.readUnit
  rw [if_neg (not_not.mpr hin), hd.localize]
  dsimp only
  rw [if_neg (not_not.mpr State.ownsIx_nil), hd.unitBytes, ← Desc.byteAt, hread]
  dsimp only
  rw [State.poisonedIn, hp, hd.plain]
  rfl

/-- A byte written where nothing accumulates and no status is kept is a byte stored (R354). -/
theorem State.writeUnit_byte {v : Byte} {n : Nat} (hd : d.Bytes) (ha : d.aliasing = 0) (hin : d.inside idx = true)
    (hj : s.judgeAccess a (.set sp num size) true (d.byteAt idx) 1 = (s, true)) :
    s.writeUnit a d (.set sp num size) idx [v] n 0 = s.dwrite sp num (d.byteAt idx).toNat [v] := by
  have hwrite : s.moverWrite a (.set sp num size) d.dataSet (d.byteAt idx) [v] = s.dwrite sp num (d.byteAt idx).toNat [v] := by
    show s.writeVia a (.set sp num size) (d.byteAt idx) [v] = _
    rw [State.writeVia, List.length_singleton, hj]
    rfl
  have hlocal : s.writeLocal a d (.set sp num size) (idx.map Int.toNat) [v] n = s.dwrite sp num (d.byteAt idx).toNat [v] := by
    unfold State.writeLocal
    dsimp only
    rw [← Desc.byteAt, hd.plain, hwrite]
    exact (if_neg Bool.false_ne_true).trans (if_neg (by rw [ha]; decide))
  unfold State.writeUnit
  rw [if_neg (not_not.mpr hin), hd.localize]
  dsimp only
  rw [if_pos State.ownsIx_nil, hlocal, if_neg (by rw [hd.layout]; decide)]
  exact if_pos (.inr rfl)

/-! ### FILL of one INT8 element -/

theorem State.moverFill_byte {o : MoverOp} {y : DescEntry} (ho : s.jobOf ch 2 = some o) (hy : s.descAt o.dst = some y) (hd : y.desc.Bytes)
    (ha : y.desc.aliasing = 0) (hc : o.count = [1, 1, 1, 1, 1, 1]) (hin : y.desc.inside (windowAt o.dstOrigin o.count 0) = true)
    (hp : s.placeOf y = .set sp num size)
    (hj : s.judgeAccess (agentOf ch) (.set sp num size) true (y.desc.byteAt (windowAt o.dstOrigin o.count 0)) 1 = (s, true)) :
    (s.moverFill ch).data = (s.dwrite sp num (y.desc.byteAt (windowAt o.dstOrigin o.count 0)).toNat [BitVec.ofNat 8 y.desc.fill]).data := by
  have hn : windowSize o.count / y.desc.unit = 1 := by
    rw [hc, hd.unit]
    rfl
  have hshadows : ∀ t : State, (t.noteShadows y.desc).data = t.data := fun t => State.noteShadows_only (l := [.regs]) (.refl _ t) rfl .data rfl
  unfold State.moverFill
  rw [ho]
  dsimp only
  rw [hy]
  dsimp only
  rw [hn, hp]
  refine (State.noteMoved_fr .data rfl).trans ((hshadows _).trans ?_)
  show (s.writeUnit (agentOf ch) y.desc (.set sp num size) (windowAt o.dstOrigin o.count (0 * y.desc.unit)) y.desc.fillUnit y.desc.fillScale 0).data = _
  rw [Nat.zero_mul, hd.fillUnit, State.writeUnit_byte hd ha hin hj]

/-! ### DELIVER of one record -/

theorem State.dread_succ {x n : Nat} : s.dread sp num x (n + 1) = s.dread sp num x n ++ s.dread sp num (x + n) 1 := by
  unfold State.dread
  split
  · exact cread_succ _ _ _
  · exact List.replicate_add ..

/-- A span that meets no poison holds no poisoned byte (R496). -/
theorem State.poisonedAt_byte {x n i : Nat} (h : s.poisonedAt sp num x n = false) (hi : i < n) : s.poisonedAt sp num (x + i) 1 = false := by
  unfold State.poisonedAt at h ⊢
  split at h
  · simp only [List.any_eq_false, decide_eq_true_eq] at h ⊢
    intro p hp
    have hclear := h p hp
    omega
  · rfl

/-- Bytes open to an initiator are open to it one by one (R572). -/
theorem State.judgeAccess_byte {x n i : Nat} (h : s.fwPlace (.set sp num size) false a.ini x n = true) (hz : x + n ≤ size) (hi : i < n) :
    s.judgeAccess a (.set sp num size) false ((x : Int) + i) 1 = (s, true) := by
  have hin : s.inPlace (.set sp num size) false ((x : Int) + i) 1 = true := decide_eq_true ⟨by omega, by push_cast; omega⟩
  have hfw : s.fwPlace (.set sp num size) false a.ini ((x : Int) + i).toNat 1 = true := by
    simp only [State.fwPlace, List.all_eq_true, List.mem_range] at h ⊢
    intro k hk
    obtain rfl : k = 0 := by omega
    exact h i hi
  rw [State.judgeAccess, if_neg (not_not.mpr hin), if_pos hfw]

section
variable {o : MoverOp} {y : DescEntry}

/-- DELIVER reads a row of INT8 elements byte by byte, as the data set holds them (R352, R364). -/
theorem State.readWindow_row (hd : y.desc.Bytes) (hext : y.desc.ext = [32, 1, 1, 1, 1, 1]) (hs : y.desc.st 0 = 1) (hc : o.count = [32, 1, 1, 1, 1, 1])
    (hor : o.dstOrigin = [0, 0, 0, 0, 0, 0]) (hp : s.placeOf y = .set sp num size) (hz : y.desc.base + 32 ≤ size)
    (hfw : s.fwPlace (.set sp num size) false (agentOf ch).ini y.desc.base 32 = true) (hclean : s.poisonedAt sp num y.desc.base 32 = false) {n : Nat}
    (hn : n ≤ 32) : s.readWindow ch o y n = (s, s.dread sp num y.desc.base n) := by
  induction n with
  | zero =>
    rw [State.readWindow, State.dread]
    split <;> rfl
  | succ n ih =>
    have hat : y.desc.byteAt [(n : Int), 0, 0, 0, 0, 0] = y.desc.base + n := hd.byteAt_row hs n
    have hnat : ((y.desc.base : Int) + n).toNat = y.desc.base + n := rfl
    have hin : y.desc.inside [(n : Int), 0, 0, 0, 0, 0] = true := by
      simp only [Desc.inside, hext]
      simpa using hn
    have hread : s.readUnit (agentOf ch) y.desc (.set sp num size) [(n : Int), 0, 0, 0, 0, 0] = (s, s.dread sp num (y.desc.base + n) 1, 0) := by
      rw [State.readUnit_byte hd hin (by rw [hat]; exact State.judgeAccess_byte hfw hz hn) (by rw [hat, hnat]; exact State.poisonedAt_byte hclean hn),
        hat, hnat]
    rw [State.readWindow_succ, ih (Nat.le_of_succ_le hn)]
    dsimp only
    rw [hp, hd.unit, hc, hor, Nat.mul_one, windowAt_row hn, hread, State.dread_succ (x := y.desc.base)]

/-- A batch of one record that the delta queue has room for joins its end whole (R240). -/
theorem State.takeBatch_one {b : List Byte} (hcount : (batchOf b none).count = 1) (hroom : batchBytes s.com.batches + 32 ≤ 262144) :
    (s.takeBatch (batchOf b none)).com = { s.com with batches := s.com.batches ++ [batchOf b none] } := by
  have hnat : (batchOf b none).count.toNat = 1 := by
    rw [hcount]
    rfl
  have htake : ¬ s.Refuses (batchOf b none) := by
    unfold State.Refuses
    omega
  rw [State.takeBatch_taken htake, batchOf_take]
  rfl

end

/-! ### The commands -/

theorem State.moverCopy_idle (h : s.jobOf ch 1 = none) : s.moverCopy ch = s := by
  rw [State.moverCopy, h]

theorem State.moverFill_idle (h : s.jobOf ch 2 = none) : s.moverFill ch = s := by
  rw [State.moverFill, h]

theorem State.moverGather_idle (h : s.jobOf ch 3 = none) : s.moverGather ch = s := by
  rw [State.moverGather, h]

theorem State.moverScatter_idle (h : s.jobOf ch 4 = none) : s.moverScatter ch = s := by
  rw [State.moverScatter, h]

theorem State.moverDeliver_idle (h : s.jobOf ch 5 = none) : s.moverDeliver ch = s := by
  rw [State.moverDeliver, h]

/-- A command of the mover, with the operation it carries out (R352). -/
def moverCommands (ch : Fin 32) : List (Instr × Nat) :=
  [(.moverCopy ch, 1), (.moverFill ch, 2), (.moverGather ch, 3), (.moverScatter ch, 4), (.moverDeliver ch, 5)]

/-- A command whose operation the channel runs, with its descriptors in the table, carries it out (R352, R360, R362). -/
theorem exec_mover_carries {c : Instr} {ch : Fin 32} {k : Nat} {o : MoverOp} {y : DescEntry} (hmem : (c, k) ∈ moverCommands ch)
    (ho : s.jobOf ch k = some o) (hd : s.descAt o.dst = some y) (hs : k = 1 ∨ k = 3 ∨ k = 4 → (s.descAt o.src).isSome)
    (hi : k = 3 ∨ k = 4 → (s.descAt o.idx).isSome) : ∃ t n, exec c s = .next t ∧ Carried ch (s.placeOf y) n s t ∧
      (k = 2 → n = windowSize o.count / y.desc.unit * y.desc.unitBytes) ∧ (k = 5 → t.data = s.data ∧ t.engines = s.engines ∧ t.store = s.store) := by
  simp only [moverCommands, List.mem_cons, List.not_mem_nil, or_false, Prod.mk.injEq] at hmem
  rcases hmem with ⟨rfl, rfl⟩ | ⟨rfl, rfl⟩ | ⟨rfl, rfl⟩ | ⟨rfl, rfl⟩ | ⟨rfl, rfl⟩
  · obtain ⟨x, hx⟩ := Option.isSome_iff_exists.mp (hs (.inl rfl))
    obtain ⟨n, hn⟩ := State.moverCopy_carried ho hx hd
    exact ⟨_, n, rfl, hn, nofun, nofun⟩
  · exact ⟨_, _, rfl, State.moverFill_carried ho hd, fun _ => rfl, nofun⟩
  · obtain ⟨x, hx⟩ := Option.isSome_iff_exists.mp (hs (.inr (.inl rfl)))
    obtain ⟨z, hz⟩ := Option.isSome_iff_exists.mp (hi (.inl rfl))
    obtain ⟨n, hn⟩ := State.moverGather_carried ho hx hd hz
    exact ⟨_, n, rfl, hn, nofun, nofun⟩
  · obtain ⟨x, hx⟩ := Option.isSome_iff_exists.mp (hs (.inr (.inr rfl)))
    obtain ⟨z, hz⟩ := Option.isSome_iff_exists.mp (hi (.inr rfl))
    obtain ⟨n, hn⟩ := State.moverScatter_carried ho hx hd hz
    exact ⟨_, n, rfl, hn, nofun, nofun⟩
  · have hfr : Only [.regs, .com, .movers, .safety, .host, .out, .free] s (s.moverDeliver ch) := State.moverDeliver_only (.refl _ s) rfl
    exact ⟨_, _, rfl, State.moverDeliver_carried ho hd, nofun, fun _ => ⟨hfr .data rfl, hfr .engines rfl, hfr .store rfl⟩⟩

/-- Settles O46: what a command leaves that finds no job of its operation, one that carries its job out, and the bytes of a FILL and of a DELIVER. -/
theorem moverCarriesOutItsOperations : Obligations.MoverCarriesOutItsOperations := by
  refine ⟨fun ch s => ⟨fun h => ?_, fun h => ?_, fun h => ?_, fun h => ?_, fun h => ?_⟩, fun c ch k s o j d hu hmem ho hj hd hs hi => ?_,
    fun ch s o d sp num z x hu hm ho hd hf hl ha hst hc hin hp hx hjudge => ?_,
    fun ch s o d sp num z hu ho hd hf hl hext hs hc hor hp hset hz hfw hclean hcount hroom => ?_⟩
  · exact congrArg Host.Outcome.next (State.moverCopy_idle h)
  · exact congrArg Host.Outcome.next (State.moverFill_idle h)
  · exact congrArg Host.Outcome.next (State.moverGather_idle h)
  · exact congrArg Host.Outcome.next (State.moverScatter_idle h)
  · exact congrArg Host.Outcome.next (State.moverDeliver_idle h)
  · obtain ⟨t, n, hexec, hcarried, h2, h5⟩ := exec_mover_carries hmem ho hd hs hi
    obtain ⟨i, hrun, hdone, hop, hhost, hmoved, hfault, hqueue, htokens, hothers, hplace⟩ := hcarried.outcome (by rw [hu.movers]; exact ch.isLt) hj
    exact ⟨t, i, hexec, hrun, hdone, hop, hhost, by rw [hmoved]; exact Nat.le_add_right _ _, hfault, hqueue, htokens,
      fun e he => hothers e (fun h => he (Fin.ext h)), fun hk => by rw [hmoved, h2 hk], h5, hplace⟩
  · have hdata := State.moverFill_byte ho hd ⟨hf, hl⟩ ha hc hin hp hjudge
    have hbytes : cwf x.bytes = true := by
      obtain ⟨-, hdata, -⟩ := hm
      exact cwf_of_dataWf hdata hx
    refine ⟨_, _, rfl, by rw [hdata]; exact mget_mmod_same hx, ?_, fun b hb => ?_⟩
    · exact cget_cset_same hbytes _ _
    · exact cget_cset_ne hbytes _ _ hb
  · have hbytes : d.desc.Bytes := ⟨hf, hl⟩
    have hread : s.readWindow ch o d (windowSize o.count / d.desc.unit) = (s, s.dread sp num d.desc.base 32) := by
      rw [hbytes.unit, Nat.div_one, hc]
      exact State.readWindow_row hbytes hext hs hc hor hp hz hfw hclean le_rfl
    have hcom : (s.delivered ch o d).com = s.com := by
      rw [State.delivered, hread]
      exact State.noteMoved_fr .com rfl
    refine ⟨_, rfl, ?_⟩
    rw [State.moverDeliver_set ho hd hp, State.deliveredBytes, hread, State.takeBatch_one hcount (by rw [hcom]; exact hroom), hcom]

end

end Sys2Proof.Machine
end

section
/-! PROOFS. Slots of an engine (R276 to R280): when a context issues, and the rules by which a slot leaves its context (O34 to O40). -/

namespace Sys2Proof

/-! ### The contexts of one engine -/

/-- The context that `c` names in an engine, by the engine's state (R312): what `State.ctxOf` reads. -/
def Engine.ctx (g : Engine) (c : CtxSel) : Option EngCtx :=
  match c, g.state with
  | .live, .live => g.live
  | .live, .radish => g.radish
  | .shadow, .spare => g.shadow
  | .shadow, .live => g.shadow
  | _, _ => none

/-- An engine with a context put back: what `State.putCtx` does to it. -/
def Engine.putCtx (g : Engine) (c : CtxSel) (x : EngCtx) : Engine :=
  match c with
  | .live => if g.state = .radish then { g with radish := some x } else { g with live := some x }
  | .shadow => { g with shadow := some x }

section
variable {g h : Engine} {c d : CtxSel} {x y : EngCtx}

theorem Engine.ctx_congr (hs : h.state = g.state) (hl : h.live = g.live) (hh : h.shadow = g.shadow) (hr : h.radish = g.radish) : h.ctx c = g.ctx c := by
  unfold Engine.ctx
  rw [hs, hl, hh, hr]

@[simp] theorem Engine.putCtx_state : (g.putCtx c x).state = g.state := by
  unfold Engine.putCtx
  split
  · split <;> rfl
  · rfl

@[simp] theorem Engine.putCtx_store : (g.putCtx c x).store = g.store := by
  unfold Engine.putCtx
  split
  · split <;> rfl
  · rfl

@[simp] theorem Engine.putCtx_bankA : (g.putCtx c x).bankA = g.bankA := by
  unfold Engine.putCtx
  split
  · split <;> rfl
  · rfl

@[simp] theorem Engine.putCtx_bankB : (g.putCtx c x).bankB = g.bankB := by
  unfold Engine.putCtx
  split
  · split <;> rfl
  · rfl

/-- A context put back where one stood is the one read. -/
theorem Engine.ctx_putCtx_same (h : g.ctx c = some y) : (g.putCtx c x).ctx c = some x := by
  cases c with
  | live => cases hs : g.state <;> simp [Engine.ctx, Engine.putCtx, hs] at h ⊢
  | shadow => cases hs : g.state <;> simp [Engine.ctx, Engine.putCtx, hs] at h ⊢

theorem Engine.ctx_putCtx_ne (h : d ≠ c) : (g.putCtx c x).ctx d = g.ctx d := by
  cases c with
  | live =>
    cases d with
    | live => exact absurd rfl h
    | shadow => cases hs : g.state <;> simp [Engine.ctx, Engine.putCtx, hs]
  | shadow =>
    cases d with
    | live => cases hs : g.state <;> simp [Engine.ctx, Engine.putCtx, hs]
    | shadow => exact absurd rfl h

end

/-- A context that issues holds no WAIT: one in progress has ended (R280). -/
theorem EngCtx.resume_waiting {c x : EngCtx} (h : c.resume = some x) : x.waiting = none := by
  unfold EngCtx.resume at h
  split at h
  · next hw => rw [← Option.some.inj h, hw]
  · split at h
    · rw [← Option.some.inj h]
    · exact absurd h (by simp)

@[simp] theorem EngCtx.begin_waiting (c : EngCtx) : c.begin.waiting = c.waiting := by
  unfold EngCtx.begin
  split <;> rfl

end Sys2Proof

namespace Sys2Proof.Machine
open Sys2Proof

section
variable {s t u : State} {e : Fin 20} {c : CtxSel} {x y : EngCtx} {f : EngCtx → EngCtx} {m : Nat}

theorem State.Units.engines (h : s.Units) : s.engines.length = 20 := congrArg (lgetD · 3 0) h

theorem State.Units.books (h : s.Units) : s.place.books.length = 20 := congrArg (lgetD · 8 0) h

theorem State.Units.engine_lt (h : s.Units) (e : Fin 20) : e.val < s.engines.length := h.engines.symm ▸ e.isLt

theorem State.engine_onEngine_same {f : Engine → Engine} (h : m < s.engines.length) : (s.onEngine m f).engine m = f (s.engine m) :=
  lgetD_lmod_same _ _ _ _ h

theorem State.engine_onEngine_ne {n : Nat} {f : Engine → Engine} (h : n ≠ m) : (s.onEngine m f).engine n = s.engine n := lgetD_lmod_ne _ _ _ _ h

theorem State.engine_congr {n : Nat} (h : t.engines = s.engines) : t.engine n = s.engine n := by rw [State.engine, State.engine, h]

theorem State.book_onBook_same {f : RadishBook → RadishBook} (h : m < s.place.books.length) : (s.onBook m f).book m = f (s.book m) :=
  lgetD_lmod_same _ _ _ _ h

theorem State.book_onBook_ne {n : Nat} {f : RadishBook → RadishBook} (h : n ≠ m) : (s.onBook m f).book n = s.book n := lgetD_lmod_ne _ _ _ _ h

/-! ### When a context issues -/

theorem State.ctxOf_eq (s : State) (m : Nat) (c : CtxSel) : s.ctxOf m c = (s.engine m).ctx c := rfl

/-- What decides whether a context issues lies outside the components `l`. -/
theorem State.issuing_congr {l : List Component} (h : Only l s t) (hl : ([.resetN, .boot, .safety, .power, .engines] : List Component).all (fun c => !l.contains c) = true) :
    t.issuing m c = s.issuing m c := by
  have out : ∀ c ∈ ([.resetN, .boot, .safety, .power, .engines] : List Component), l.contains c = false := by simpa using hl
  have h1 : t.resetN = s.resetN := h .resetN (out _ (by decide))
  have h2 : t.boot = s.boot := h .boot (out _ (by decide))
  have h3 : t.safety = s.safety := h .safety (out _ (by decide))
  have h4 : t.power = s.power := h .power (out _ (by decide))
  have h5 : t.engines = s.engines := h .engines (out _ (by decide))
  have hup : t.up = s.up := by rw [State.up, State.up, h1, h2]
  have hhold : t.hold = s.hold := by rw [State.hold, State.hold, h3]
  have hsaved : t.saved = s.saved := by rw [State.saved, State.saved, h4]
  have hctx : t.ctxOf m c = s.ctxOf m c := by rw [State.ctxOf_eq, State.ctxOf_eq, State.engine_congr h5]
  unfold State.issuing
  rw [hup, hhold, hsaved, hctx]

theorem State.issuing_of_ctx (hu : s.up = true) (hh : s.hold = false) (hs : s.saved = false) (hc : s.ctxOf m c = some x) :
    s.issuing m c = x.resume.map EngCtx.begin := by
  simp [State.issuing, hu, hh, hs, hc]

/-- The context that issues stands in the engine, its WAIT ended and its pass begun. -/
theorem State.issuing_inv (h : s.issuing m c = some x) :
    s.up = true ∧ s.hold = false ∧ s.saved = false ∧ ∃ y z, s.ctxOf m c = some y ∧ y.resume = some z ∧ z.begin = x := by
  unfold State.issuing at h
  split at h
  · exact absurd h (by simp)
  · next hn =>
    split at h
    · next y hy =>
      obtain ⟨z, hz, hx⟩ := Option.map_eq_some_iff.mp h
      simp only [not_or, Bool.not_eq_true] at hn
      exact ⟨by simpa using hn.1, hn.2.1, hn.2.2, y, z, hy, hz, hx⟩
    · exact absurd h (by simp)

theorem State.issuing_waiting (h : s.issuing m c = some x) : x.waiting = none := by
  obtain ⟨-, -, -, y, z, -, hz, rfl⟩ := State.issuing_inv h
  rw [EngCtx.begin_waiting, EngCtx.resume_waiting hz]

/-- The conditions of R276, R280, R608 and R751 under which no slot of a context runs. -/
theorem State.issuing_none (h : ¬ s.up ∨ s.hold ∨ s.saved ∨ s.ctxOf m c = none ∨
    ∃ x w k, s.ctxOf m c = some x ∧ x.waiting = some (w, k) ∧ x.tokens &&& w ≠ w) : s.issuing m c = none := by
  unfold State.issuing
  split
  · rfl
  · next hn =>
    rcases h with h | h | h | h | ⟨x, w, k, hx, hw, ht⟩
    · exact absurd (.inl h) hn
    · exact absurd (.inr (.inl h)) hn
    · exact absurd (.inr (.inr h)) hn
    · rw [h]
    · rw [hx]
      simp [EngCtx.resume, hw, ht]

/-! ### The rules of a slot -/

theorem State.slotOp_idle (h : s.issuing m c = none) : s.slotOp m c f = s := by simp only [State.slotOp, h]

theorem State.vecOp_idle (h : s.issuing m c = none) : s.vecOp m c f = s := by simp only [State.vecOp, h]

theorem State.seqTo_idle (h : s.issuing m c = none) : s.seqTo m c f = s := by simp only [State.seqTo, h]

/-- The engine of a slot: its context put back, and the beat of its issue. -/
theorem State.engine_slotOp (h : s.issuing m c = some x) (hm : m < s.engines.length) :
    (s.slotOp m c f).engine m = { (s.engine m).putCtx c (f x) with lastIssue := s.tl.beats } := by
  simp only [State.slotOp, h]
  have hp : (s.putCtx m c (f x)).engine m = (s.engine m).putCtx c (f x) := State.engine_onEngine_same hm
  rw [State.engine_onEngine_same (by simpa [State.putCtx] using hm), hp]

theorem State.engine_slotOp_ne {n : Nat} (h : n ≠ m) : (s.slotOp m c f).engine n = s.engine n := by
  unfold State.slotOp
  split
  · rw [State.engine_onEngine_ne h, State.putCtx, State.engine_onEngine_ne h]
  · rfl

/-- A slot that acts on its context alone. -/
theorem State.slotOp_ran (hu : s.Units) (h : s.issuing e c = some x) : SlotRan s (s.slotOp e c f) e c (f x) := by
  obtain ⟨-, -, -, y, -, hy, -, -⟩ := State.issuing_inv h
  have hg := State.engine_slotOp (f := f) h (hu.engine_lt e)
  refine ⟨⟨?_, fun d hd => ?_, ?_, fun n hn => State.engine_slotOp_ne (fun k => hn (Fin.ext k)), State.slotOp_only (.refl _ s) rfl⟩, ?_, ?_⟩
  · rw [State.ctxOf_eq, hg]
    exact Engine.ctx_putCtx_same hy
  · rw [State.ctxOf_eq, hg]
    exact Engine.ctx_putCtx_ne hd
  · rw [hg, Engine.putCtx_state]
  · rw [hg, Engine.putCtx_store]
  · rw [hg]
    exact ⟨Engine.putCtx_bankA, Engine.putCtx_bankB⟩

/-- The engines and what decides that a context issues stand as before. -/
theorem Only.engines_same {l : List Component} (h : Only l s t) (hl : l.contains .engines = false) (n : Nat) : t.engine n = s.engine n :=
  State.engine_congr (h .engines hl)

/-- After a slot, a change of registers, messages and counts. -/
theorem SlotLeft.then {l : List Component} (h : SlotLeft s t e c y) (k : Only l t u) (hl : l.all ([.regs, .place, .host, .out, .free] : List Component).contains = true) :
    SlotLeft s u e c y := by
  have k' : Only [.regs, .place, .host, .out, .free] t u := k.mono hl
  have hg (n : Nat) : u.engine n = t.engine n := k'.engines_same (by decide) n
  exact ⟨by rw [State.ctxOf_eq, hg]; exact h.ctx, fun d hd => by rw [State.ctxOf_eq, hg]; exact h.other d hd, by rw [hg]; exact h.state,
    fun n hn => by rw [hg]; exact h.engines n hn, h.frame.step k' (by decide)⟩

theorem SlotRan.then {l : List Component} (h : SlotRan s t e c y) (k : Only l t u) (hl : l.all ([.regs, .place, .host, .out, .free] : List Component).contains = true) :
    SlotRan s u e c y := by
  have hg : u.engine e = t.engine e := (k.mono hl).engines_same (l := [.regs, .place, .host, .out, .free]) (by decide) e
  exact ⟨h.toSlotLeft.then k hl, by rw [hg]; exact h.store, by rw [hg]; exact h.banks⟩

/-- Before a slot, a change of registers, messages and counts. -/
theorem SlotRan.after {l : List Component} (k : Only l s t) (h : SlotRan t u e c y) (hl : l.all ([.regs, .place, .host, .out, .free] : List Component).contains = true) :
    SlotRan s u e c y := by
  have k' : Only [.regs, .place, .host, .out, .free] s t := k.mono hl
  have hg (n : Nat) : t.engine n = s.engine n := k'.engines_same (by decide) n
  exact ⟨⟨h.ctx, fun d hd => by rw [h.other d hd, State.ctxOf_eq, hg, State.ctxOf_eq], by rw [h.state, hg], fun n hn => by rw [h.engines n hn, hg],
    (k'.mono (by decide)).trans h.frame⟩, by rw [h.store, hg], by rw [h.banks.1, h.banks.2, hg]; exact ⟨rfl, rfl⟩⟩

/-- A change of the slot's engine that leaves its state and its contexts. -/
theorem SlotLeft.onEngine {f : Engine → Engine} (h : SlotLeft s t e c y) (hs : ∀ g, (f g).state = g.state) (hl : ∀ g, (f g).live = g.live)
    (hh : ∀ g, (f g).shadow = g.shadow) (hr : ∀ g, (f g).radish = g.radish) : SlotLeft s (t.onEngine e f) e c y := by
  have hc (d : CtxSel) : (t.onEngine e f).ctxOf e d = t.ctxOf e d := by
    have hp := apply_lgetD_lmod (fun g : Engine => (g.state, g.live, g.shadow, g.radish)) t.engines e {} (f := f)
      (fun g => by rw [hs, hl, hh, hr]) (j := e.val)
    simp only [Prod.mk.injEq] at hp
    obtain ⟨h1, h2, h3, h4⟩ := hp
    exact Engine.ctx_congr h1 h2 h3 h4
  refine ⟨(hc c).trans h.ctx, fun d hd => (hc d).trans (h.other d hd), ?_, fun n hn => ?_, ?_⟩
  · exact (apply_lgetD_lmod Engine.state t.engines e {} hs).trans h.state
  · rw [State.engine_onEngine_ne (fun k => hn (Fin.ext k))]
    exact h.engines n hn
  · exact h.frame.step (State.onEngine_only (l := [.engines]) (.refl _ t) rfl) (by decide)

end

end Sys2Proof.Machine
end

section
/-! PROOFS. Slots that cannot issue (O34), and the sequencer (O35). -/

namespace Sys2Proof.Machine
open Sys2Proof

/-! ### Slots of a context that does not issue -/

section
variable {s : State} {m : Nat} {c : CtxSel}

theorem State.laneOp_idle {dst a b : Nat} {f : Int → Int → Int} (h : s.issuing m c = none) : s.laneOp m c dst a b f = s := State.vecOp_idle h

theorem State.rootOp_idle {fmt dst l : Nat} {srcs : List Nat} {f : RootFmt → List Int → RootOut} (h : s.issuing m c = none) :
    s.rootOp m c fmt dst l srcs f = s := State.slotOp_idle h

theorem State.pivotOp_idle {fmt dst a l : Nat} (h : s.issuing m c = none) : s.pivotOp m c fmt dst a l = s := State.slotOp_idle h

theorem State.endPass_idle {u n : Nat} (h : s.issuing m c = none) : s.endPass m c u n = s := by simp only [State.endPass, h]

theorem State.macOp_idle {mode : ArrayMode} {bank first : Bool} {k : Nat} {w : Int} (h : s.issuing m c = none) : s.macOp m c mode bank first k w = s := by
  simp only [State.macOp, h]

theorem State.drainRow_idle {bank : Bool} {entry d : Nat} (h : s.issuing m c = none) : s.drainRow m c bank entry d = s := by
  simp only [State.drainRow, h]

theorem State.loadOp_idle {d n : Nat} {dest : LoadDest} (h : s.issuing m c = none) : s.loadOp m c d dest n = s := by simp only [State.loadOp, h]

/-- A slot command of a context that does not issue changes nothing. -/
theorem exec_slot_idle {i : Instr} {e : Fin 20} (hi : slotOf i = some (e, c)) (h : s.issuing e c = none) : exec i s = .next s := by
  unfold slotOf at hi
  split at hi
  case h_36 => exact absurd hi (by simp)
  all_goals
    simp only [Option.some.injEq, Prod.mk.injEq] at hi
    obtain ⟨rfl, rfl⟩ := hi
  · exact congrArg Host.Outcome.next (State.seqTo_idle h)
  · show execSeqLoop _ _ _ s = _
    simp only [execSeqLoop, h]
  · show execSeqLoopEnd _ _ s = _
    simp only [execSeqLoopEnd, h]
  · exact congrArg Host.Outcome.next (State.seqTo_idle h)
  · exact congrArg Host.Outcome.next (State.endPass_idle h)
  · exact congrArg Host.Outcome.next (State.seqTo_idle h)
  · exact congrArg Host.Outcome.next (State.macOp_idle h)
  · exact congrArg Host.Outcome.next (State.macOp_idle h)
  · exact congrArg Host.Outcome.next (State.drainRow_idle h)
  iterate 8 · exact congrArg Host.Outcome.next (State.laneOp_idle h)
  iterate 4 · exact congrArg Host.Outcome.next (State.vecOp_idle h)
  · show execVecCvt _ _ _ _ _ s = _
    simp only [execVecCvt, h]
  iterate 2 · exact congrArg Host.Outcome.next (State.vecOp_idle h)
  iterate 4 · exact congrArg Host.Outcome.next (State.rootOp_idle h)
  · exact congrArg Host.Outcome.next (State.pivotOp_idle h)
  iterate 3 · exact congrArg Host.Outcome.next (State.slotOp_idle h)
  · exact congrArg Host.Outcome.next (State.loadOp_idle h)
  · show execStoreSlot _ _ _ _ s = _
    simp only [execStoreSlot, h]
  · exact congrArg Host.Outcome.next (State.slotOp_idle h)

end

/-- Settles O34: none of the conditions lets the context issue, and every slot of such a context answers the state. -/
theorem slotsWaitForTheirContext : Obligations.SlotsWaitForTheirContext := by
  intro i e c s hi h
  exact exec_slot_idle hi (State.issuing_none h)

/-! ### The position of the sequencer -/

section
variable {s : State} {e : Fin 20} {c : CtxSel} {x : EngCtx} {f : EngCtx → EngCtx}

theorem State.seqTo_ran (hu : s.Units) (h : s.issuing e c = some x) : SlotRan s (s.seqTo e c f) e c (f x) := by
  have hs : SlotRan s (s.slotOp e c f) e c (f x) := State.slotOp_ran hu h
  simp only [State.seqTo, h]
  split
  · exact hs.then (State.onBook_only (l := [.place]) (.refl _ _) rfl) rfl
  · exact hs

/-- A bundle of the live context counts in the engine's load (R453). -/
theorem State.seqTo_issued (hu : s.Units) (h : s.issuing e c = some x) (hc : c = .live) :
    ((s.seqTo e c f).book e).issued = (s.book e).issued + 1 := by
  have hp : (s.slotOp e c f).place = s.place := State.slotOp_only (l := [.engines]) (.refl _ s) rfl .place rfl
  have hl : e.val < (s.slotOp e c f).place.books.length := by rw [hp, hu.books]; exact e.isLt
  simp only [State.seqTo, h, if_pos hc]
  rw [State.book_onBook_same hl, State.book, hp]
  rfl

/-- A slot that takes a free value besides. -/
theorem State.took_seqTo_ran (hu : s.Units) (h : s.issuing e c = some x) : SlotRan s (s.took.seqTo e c f) e c (f x) := by
  have hfr : Only [.free] s s.took := State.took_only (.refl _ s) rfl
  exact .after hfr (State.seqTo_ran (s := s.took) hu ((State.issuing_congr hfr rfl).trans h)) rfl

theorem exec_seqLoop (h : s.issuing e c = some x) {n : BitVec 16} (hn : n ≠ 0) (hl : x.loops.length < 4) :
    exec (.seqLoop e c n) s =
      .next (s.seqTo e c (fun y => { y with pc := nextPc y.pc, loops := { start := nextPc y.pc, left := n.toNat } :: y.loops })) := by
  show execSeqLoop e c n s = _
  simp only [execSeqLoop, h, if_neg (Nat.not_le.mpr hl), if_neg hn]

theorem exec_seqLoop_zero (h : s.issuing e c = some x) (hl : x.loops.length < 4) :
    exec (.seqLoop e c 0) s =
      .next (s.took.seqTo e c (fun y => { y with pc := nextPc y.pc, loops := { start := nextPc y.pc, left := s.freeNat % 65536 } :: y.loops })) := by
  show execSeqLoop e c 0 s = _
  simp only [execSeqLoop, h, if_neg (Nat.not_le.mpr hl), if_pos]

theorem exec_seqLoop_full (h : s.issuing e c = some x) {n : BitVec 16} (hl : 4 ≤ x.loops.length) :
    exec (.seqLoop e c n) s = .next (s.took.seqTo e c (fun y => { y with pc := s.freeNat % bundles })) := by
  show execSeqLoop e c n s = _
  simp only [execSeqLoop, h, if_pos hl]

theorem exec_seqLoopEnd (h : s.issuing e c = some x) {l : SeqLoop} {ls : List SeqLoop} (hl : x.loops = l :: ls) :
    exec (.seqLoopEnd e c) s =
      .next (s.seqTo e c (fun y => if 1 < l.left then { y with pc := l.start, loops := { l with left := l.left - 1 } :: ls }
        else { y with pc := nextPc y.pc, loops := ls })) := by
  show execSeqLoopEnd e c s = _
  simp only [execSeqLoopEnd, h, hl]
  split <;> rfl

theorem exec_seqLoopEnd_none (h : s.issuing e c = some x) (hl : x.loops = []) :
    exec (.seqLoopEnd e c) s = .next (s.took.seqTo e c (fun y => { y with pc := s.freeNat % bundles })) := by
  show execSeqLoopEnd e c s = _
  simp only [execSeqLoopEnd, h, hl]

/-- The position after JUMP_MASK. -/
def jumpPc (mask : BitVec 64) (pc : Nat) (o : BitVec 16) : Nat := if mask = 0 then nextPc pc else (((pc : Int) + o.toInt) % (bundles : Int)).toNat

theorem jumpPc_cases (mask : BitVec 64) (pc : Nat) (o : BitVec 16) :
    jumpPc mask pc o < 8192 ∧ ((∀ i < 64, mask.getLsbD i = false) → jumpPc mask pc o = (pc + 1) % 8192) ∧
      ((∃ i < 64, mask.getLsbD i = true) → (jumpPc mask pc o : Int) % 8192 = ((pc : Int) + o.toInt) % 8192) := by
  have hzero : mask = 0 ↔ ∀ i < 64, mask.getLsbD i = false := by
    refine ⟨fun h i _ => by rw [h]; exact BitVec.getLsbD_zero, fun h => BitVec.eq_of_getLsbD_eq fun i hi => ?_⟩
    rw [h i hi]
    exact BitVec.getLsbD_zero.symm
  unfold jumpPc nextPc bundles
  split
  · next hm =>
    refine ⟨Nat.mod_lt _ (by decide), fun _ => rfl, fun ⟨i, hi, hb⟩ => ?_⟩
    rw [hzero.mp hm i hi] at hb
    exact absurd hb (by decide)
  · next hm => exact ⟨by omega, fun h => absurd (hzero.mpr h) hm, fun _ => by omega⟩

/-! ### The end of a pass (R277, R278) -/

/-- Whether a pass of a unit exceeded 1.125 times its bound (R277). -/
def ranOver (img : Option Image) (unit cycles : Nat) : Bool :=
  let bound := match imgUnit img unit with | some u => u.bound | none => 0
  decide (0 < bound ∧ 9 * bound < 8 * cycles)

/-- A context whose pass has ended. -/
def EngCtx.ended (late : Bool) (y : EngCtx) : EngCtx :=
  { y with pc := (y.pc + 1) % 8192, passRunning := false, withheld := false, signals := 0, overran := y.overran || late }

/-- END_PASS but for the tokens it signals: the bundle ends, the pass and its overrun are counted. -/
def State.passEnded (s : State) (e : Nat) (c : CtxSel) (unit cycles : Nat) : State :=
  let late := ranOver (s.graphOf e c) unit cycles
  let t := (s.seqTo e c (EngCtx.ended late)).bump (Reg.PASSES e)
  if late then (t.bump (Reg.PASS_OVERRUNS e)).onPlace (fun p => { p with evalDue := true }) else t

theorem State.endPass_eq {m u n : Nat} (h : s.issuing m c = some x) :
    s.endPass m c u n = if x.withheld ∨ (s.engine m).state = .radish then s.passEnded m c u n else
      let t := (s.passEnded m c u n).signalTokens c (s.engine m).shadowKind (consumers (s.graphOf m c) u) x.signals
      match c with
      | .live => t.signalChannels u x.signals
      | .shadow => t := by
  unfold State.endPass
  rw [h]
  cases c <;> rfl

/-- The tokens that END_PASS signals reach engines and movers only. -/
theorem State.endPass_signals {m u n : Nat} (h : s.issuing m c = some x) : Only [.engines, .movers] (s.passEnded m c u n) (s.endPass m c u n) := by
  rw [State.endPass_eq h]
  split
  · exact .refl _ _
  · have ht := State.signalTokens_only (l := [.engines, .movers]) (x1 := c) (x2 := (s.engine m).shadowKind) (x3 := consumers (s.graphOf m c) u)
      (x4 := x.signals) (.refl _ (s.passEnded m c u n)) rfl
    cases c with
    | live => exact State.signalChannels_only ht rfl
    | shadow => exact ht

theorem State.passEnded_ran {u n : Nat} (hu : s.Units) (h : s.issuing e c = some x) :
    SlotRan s (s.passEnded e c u n) e c (EngCtx.ended (ranOver (s.graphOf e c) u n) x) := by
  have hs : SlotRan s _ e c (EngCtx.ended (ranOver (s.graphOf e c) u n) x) := State.seqTo_ran hu h
  have hb := hs.then (State.bump_fr (x1 := Reg.PASSES e) (x2 := 1)) rfl
  unfold State.passEnded
  dsimp only
  split
  · exact (hb.then State.bump_fr rfl).then (State.onPlace_only (l := [.place]) (.refl _ _) rfl) rfl
  · exact hb

theorem satAdd32_zero (w : Word) : satAdd32 w 0 = w := by
  apply BitVec.eq_of_toNat_eq
  simp only [satAdd32, nw, BitVec.toNat_ofNat]
  omega

/-- The pass is counted, and its overrun where it ran over. -/
theorem State.passEnded_counts {u n : Nat} (hw : regsWf s.regs = true) :
    (s.passEnded e c u n).rget (Reg.PASSES e) = satAdd32 (s.rget (Reg.PASSES e)) 1 ∧
      (s.passEnded e c u n).rget (Reg.PASS_OVERRUNS e) =
        satAdd32 (s.rget (Reg.PASS_OVERRUNS e)) (if ranOver (s.graphOf e c) u n then 1 else 0) := by
  have hr {o : Nat} {late : Bool} : (s.seqTo e c (EngCtx.ended late)).rget o = s.rget o :=
    State.rget_congr (State.seqTo_only (l := [.engines, .place]) (.refl _ s) rfl .regs rfl) o
  have hw1 (late : Bool) : regsWf (s.seqTo e c (EngCtx.ended late)).regs = true := by
    rw [State.seqTo_only (l := [.engines, .place]) (.refl _ s) rfl .regs rfl]
    exact hw
  have hne : Reg.PASSES e ≠ Reg.PASS_OVERRUNS e := by simp [Reg.PASSES, Reg.PASS_OVERRUNS]
  unfold State.passEnded
  dsimp only
  split
  · rw [State.rget_congr (State.onPlace_regs _), State.rget_congr (State.onPlace_regs _), State.rget_bump (State.wf_bump (hw1 _)),
      State.rget_bump (State.wf_bump (hw1 _)), if_neg hne, if_pos rfl, State.rget_bump (hw1 _), State.rget_bump (hw1 _), if_pos rfl, if_neg hne.symm, hr, hr]
    exact ⟨rfl, rfl⟩
  · rw [State.rget_bump (hw1 _), State.rget_bump (hw1 _), if_pos rfl, if_neg hne.symm, hr, hr, satAdd32_zero]
    exact ⟨rfl, rfl⟩

end

/-- Settles O35: a slot that moves the sequencer leaves its context at the position that its rule gives; END_PASS is the pass ended and counted, then its tokens. -/
theorem sequencerMovesThroughTheProgram : Obligations.SequencerMovesThroughTheProgram := by
  intro e c s x hu hm hi
  refine ⟨⟨_, rfl, State.seqTo_ran hu hi, State.seqTo_issued hu hi⟩, fun u => ⟨_, rfl, _, State.seqTo_ran hu hi, fun n => mem_kinsert⟩,
    fun n hn hl => ⟨_, exec_seqLoop hi hn hl, State.seqTo_ran hu hi⟩, fun n hn hl => ?_,
    fun n hl => ⟨_, _, exec_seqLoop_full hi hl, Nat.mod_lt _ (by decide), State.took_seqTo_ran hu hi⟩,
    fun l ls hl => ⟨_, exec_seqLoopEnd hi hl, State.seqTo_ran hu hi⟩,
    fun hl => ⟨_, _, exec_seqLoopEnd_none hi hl, Nat.mod_lt _ (by decide), State.took_seqTo_ran hu hi⟩,
    fun o => ⟨_, rfl, jumpPc x.mask x.pc o, State.seqTo_ran hu hi, jumpPc_cases x.mask x.pc o⟩, fun u n => ?_⟩
  · subst hn
    exact ⟨_, _, exec_seqLoop_zero hi hl, Nat.mod_lt _ (by decide), State.took_seqTo_ran hu hi⟩
  · have hregs : (s.endPass e c u.toNat n.toNat).regs = (s.passEnded e c u.toNat n.toNat).regs := State.endPass_signals hi .regs rfl
    obtain ⟨hpasses, hover⟩ := State.passEnded_counts (s := s) (e := e) (c := c) (u := u.toNat) (n := n.toNat) hm.1
    refine ⟨_, rfl, by rw [State.rget_congr hregs, hpasses], fun w hw hb => ?_, fun hx => ?_⟩
    · rw [State.rget_congr hregs, hover]
      simp [ranOver, hw, hb]
    · have ht : s.endPass e c u.toNat n.toNat = s.passEnded e c u.toNat n.toNat := by rw [State.endPass_eq hi, if_pos (.inl hx)]
      have hr := State.passEnded_ran (u := u.toNat) (n := n.toNat) hu hi
      rw [ht]
      exact ⟨_, hr.ctx, hr.frame .movers rfl, hr.engines⟩

end Sys2Proof.Machine
end

section
/-! PROOFS. Lanes of the vector unit (O37). -/

namespace Sys2Proof

theorem lgetD_eq_getD {α : Type} (l : List α) (i : Nat) (d : α) : lgetD l i d = l[i]?.getD d := by
  induction l generalizing i with
  | nil => rfl
  | cons a l ih =>
    cases i with
    | zero => rfl
    | succ i => simp [lgetD, ih]

theorem lgetD_map {α β : Type} (f : α → β) {l : List α} {i : Nat} (h : i < l.length) (d : α) (d' : β) : lgetD (l.map f) i d' = f (lgetD l i d) := by
  simp [lgetD_eq_getD, h]

theorem lgetD_zip {α β : Type} {l : List α} {m : List β} {i : Nat} (h : i < l.length) (h' : i < m.length) (d : α) (d' : β) (p : α × β) :
    lgetD (l.zip m) i p = (lgetD l i d, lgetD m i d') := by
  simp [lgetD_eq_getD, h, h']

/-- An element of a list is one of those read below its length. -/
theorem any_iff_lgetD {l : List α} {p : α → Bool} (d : α) : l.any p = true ↔ ∃ i, i < l.length ∧ p (lgetD l i d) = true := by
  rw [List.any_eq_true]
  constructor
  · rintro ⟨x, hx, hp⟩
    obtain ⟨i, hi, rfl⟩ := List.getElem_of_mem hx
    exact ⟨i, hi, by simpa [lgetD_eq_getD, hi] using hp⟩
  · rintro ⟨i, hi, hp⟩
    exact ⟨l[i], List.getElem_mem hi, by simpa [lgetD_eq_getD, hi] using hp⟩

section
variable {x : EngCtx} {r q : Nat} {v : List Int} {b : Bool}

theorem EngCtx.vreg_setVreg_same : (x.setVreg r v).vreg r = v := by simp [EngCtx.vreg, EngCtx.setVreg, mgetD, Machine.mget_mset_same]

theorem EngCtx.vreg_setVreg_ne (h : q ≠ r) : (x.setVreg r v).vreg q = x.vreg q := by
  simp only [EngCtx.vreg, EngCtx.setVreg, mgetD, Machine.mget_mset_ne _ _ _ h]

@[simp] theorem EngCtx.satIf_vregs : (x.satIf b).vregs = x.vregs := by
  unfold EngCtx.satIf
  split <;> rfl

@[simp] theorem EngCtx.satIf_vreg : (x.satIf b).vreg r = x.vreg r := by rw [EngCtx.vreg, EngCtx.satIf_vregs, EngCtx.vreg]

@[simp] theorem EngCtx.satIf_mask : (x.satIf b).mask = x.mask := by
  unfold EngCtx.satIf
  split <;> rfl

@[simp] theorem EngCtx.satIf_accSat : (x.satIf b).vecFlags.accSat = (x.vecFlags.accSat || b) := by
  unfold EngCtx.satIf
  split <;> simp_all

@[simp] theorem EngCtx.setVreg_vecFlags : (x.setVreg r v).vecFlags = x.vecFlags := rfl

@[simp] theorem EngCtx.setVreg_mask : (x.setVreg r v).mask = x.mask := rfl

end

/-- Rounding by a power of two, with halves upwards (R291), as the statements write it. -/
theorem rndDiv_two_pow (v : Int) (n : Nat) : rndDiv v (2 ^ n) = (2 * v + 2 ^ n) / (2 * 2 ^ n) := by
  unfold rndDiv
  push_cast
  rfl

end Sys2Proof

namespace Sys2Proof.Machine
open Sys2Proof

section
variable {s : State} {e : Fin 20} {c : CtxSel} {x : EngCtx} {f : EngCtx → EngCtx}

/-! ### What a vector operation leaves -/

theorem State.rget_bump64 (h : regsWf s.regs = true) {lo hi n : Nat} (hne : lo ≠ hi) : (s.bump64 lo hi n).rget lo = nw (s.rpair lo hi + n) := by
  rw [State.bump64, State.rget_setPair h, if_neg hne, if_pos rfl]

theorem State.rpair_congr {t : State} (h : t.regs = s.regs) (lo hi : Nat) : t.rpair lo hi = s.rpair lo hi := by
  rw [State.rpair, State.rpair, State.rget_congr h, State.rget_congr h]

theorem State.vecOp_ran (hu : s.Units) (hm : s.MemOk) (h : s.issuing e c = some x) : VecRan s (s.vecOp e c f) e c (f x) := by
  have hregs : (s.slotOp e c f).regs = s.regs := State.slotOp_only (l := [.engines]) (.refl _ s) rfl .regs rfl
  have hne : Reg.VECTOR_CYCLES_LO e ≠ Reg.VECTOR_CYCLES_HI e := by simp [Reg.VECTOR_CYCLES_LO, Reg.VECTOR_CYCLES_HI]
  simp only [State.vecOp, h]
  refine ⟨(State.slotOp_ran hu h).then State.bump64_fr rfl, ?_⟩
  rw [State.rget_bump64 (by rw [hregs]; exact hm.1) hne, State.rpair_congr hregs]

/-! ### Lanes -/

/-- A register written with the saturated values of 64 lanes, and the mark of a saturation. -/
theorem lanesWritten_of_list {dst : Nat} {raw : List Int} {g : Nat → Int} (hl : raw.length = 64) (hg : ∀ i, i < 64 → lgetD raw i 0 = g i) :
    LanesWritten x ((x.setVreg dst (raw.map sat48)).satIf (raw.any (beyond 48))) dst g where
  vals i hi := by
    rw [laneOf, EngCtx.satIf_vreg, EngCtx.vreg_setVreg_same, lgetD_map sat48 (by rw [hl]; exact hi) 0, hg i hi, sat48]
  sat := by
    rw [EngCtx.satIf_accSat, Bool.or_eq_true, any_iff_lgetD 0, hl, EngCtx.setVreg_vecFlags]
    refine or_congr_right (exists_congr fun i => and_congr_right fun hi => ?_)
    rw [hg i hi, beyond, decide_eq_true_eq]
  regs r hr := by rw [EngCtx.satIf_vreg, EngCtx.vreg_setVreg_ne hr]
  rest := by
    unfold EngCtx.satIf
    split <;> rfl

/-- A lane operation of two sources of 64 lanes. -/
theorem State.laneOp_ran (hu : s.Units) (hm : s.MemOk) (h : s.issuing e c = some x) {dst a b : Fin 64} {op : Int → Int → Int} {g : Nat → Int}
    (ha : (x.vreg a).length = 64) (hb : (x.vreg b).length = 64) (hg : ∀ i, op (laneOf x a i) (laneOf x b i) = g i) :
    ∃ y, VecRan s (s.laneOp e c dst a b op) e c y ∧ LanesWritten x y dst g := by
  refine ⟨_, State.vecOp_ran hu hm h, lanesWritten_of_list (by simp [ha, hb]) fun i hi => ?_⟩
  rw [lgetD_map _ (by simp [ha, hb, hi]) (0, 0), lgetD_zip (by rwa [ha]) (by rwa [hb]) 0 0]
  exact hg i

theorem State.vecPwl_ran (hu : s.Units) (hm : s.MemOk) (h : s.issuing e c = some x) {dst a : Fin 64} {table : Fin 16} {p : PwlTable} {g : Nat → Int}
    (hp : mget x.pwls table = some p) (ha : (x.vreg a).length = 64) (hg : ∀ i, PwlTable.at p (laneOf x a i) = g i) :
    ∃ t y, exec (.vecPwl e c dst a table) s = .next t ∧ VecRan s t e c y ∧ LanesWritten x y dst g := by
  refine ⟨_, _, rfl, State.vecOp_ran hu hm h, lanesWritten_of_list (by simp [ha]) fun i hi => ?_⟩
  rw [lgetD_map _ (by rwa [ha]) 0, mgetD, hp]
  exact hg i

end

/-- Settles O37: every operation is a lane operation or PWL, of the value that its rule gives for a lane. -/
theorem vectorLanesCompute : Obligations.VectorLanesCompute := by
  intro e c dst a b imm table s x hu hm h ha hb
  have two {op : Int → Int → Int} {g : Nat → Int} (hg : ∀ i, op (laneOf x a i) (laneOf x b i) = g i) := State.laneOp_ran hu hm h (dst := dst) ha hb hg
  have one {op : Int → Int → Int} {g : Nat → Int} (hg : ∀ i, op (laneOf x a i) (laneOf x a i) = g i) := State.laneOp_ran hu hm h (dst := dst) ha ha hg
  refine ⟨⟨_, (two fun i => rfl).imp fun y hy => ⟨rfl, hy⟩⟩, ⟨_, (two fun i => rfl).imp fun y hy => ⟨rfl, hy⟩⟩,
    ⟨_, (two fun i => rfl).imp fun y hy => ⟨rfl, hy⟩⟩, ⟨_, (two fun i => rndDiv_two_pow _ _).imp fun y hy => ⟨rfl, hy⟩⟩,
    ⟨_, (one fun i => rndDiv_two_pow _ _).imp fun y hy => ⟨rfl, hy⟩⟩, ⟨_, (one fun i => ?_).imp fun y hy => ⟨rfl, hy⟩⟩,
    ⟨_, (two fun i => ?_).imp fun y hy => ⟨rfl, hy⟩⟩, ⟨_, (two fun i => ?_).imp fun y hy => ⟨rfl, hy⟩⟩,
    fun p hp => State.vecPwl_ran hu hm h hp ha fun i => ?_⟩
  · rw [ishl]
    push_cast
    rfl
  · exact Int.min_def _ _
  · exact Int.max_def _ _
  · simp only [PwlTable.at, rndDiv, ishl]
    push_cast
    rfl

end Sys2Proof.Machine
end

section
/-! PROOFS. The requantizer with INT8 output and one set of parameters (R292 to R294), which DRAIN (O36) and CVT (O38) share. -/

namespace Sys2Proof

/-- The rounded product of a value under an entry without per-column values (R293). -/
def RequantEntry.product (q : RequantEntry) (v : Int) : Int := rndDiv ((v + q.bias) * (q.mult : Int)) (2 ^ q.shift)

/-- Whether a value's product escapes the entry's range (R294). -/
def RequantEntry.escapes (q : RequantEntry) (v : Int) : Bool := decide (q.rangeHi < q.product v ∨ q.product v < q.rangeLo)

/-- The product of a value clamped to the entry's range, then to its clamp. -/
def RequantEntry.clamped (q : RequantEntry) (v : Int) : Int := min (max (clampI q.rangeLo q.rangeHi (q.product v)) q.clampLo) q.clampHi

/-- `u` is an INT8 result of value `v`: the product itself where it lies within the range, the clamp and the format (R293). -/
def RequantEntry.Gives (q : RequantEntry) (v u : Int) : Prop :=
  -128 ≤ u ∧ u ≤ 127 ∧ (q.rangeLo ≤ q.product v → q.product v ≤ q.rangeHi → q.clampLo ≤ q.product v → q.product v ≤ q.clampHi →
    -128 ≤ q.product v → q.product v ≤ 127 → u = q.product v)

theorem clampI_of_mem {lo hi v : Int} (h : lo ≤ v) (h' : v ≤ hi) : clampI lo hi v = v := by
  rw [clampI, if_neg (Int.not_lt.mpr h), if_neg (Int.not_lt.mpr h')]

theorem clampI_mem {lo hi : Int} (h : lo ≤ hi) (v : Int) : lo ≤ clampI lo hi v ∧ clampI lo hi v ≤ hi := by
  unfold clampI
  split
  · exact ⟨Int.le_refl _, h⟩
  · split <;> omega

theorem RequantEntry.clamped_of_mem {q : RequantEntry} {v : Int} (h1 : q.rangeLo ≤ q.product v) (h2 : q.product v ≤ q.rangeHi)
    (h3 : q.clampLo ≤ q.product v) (h4 : q.product v ≤ q.clampHi) : q.clamped v = q.product v := by
  rw [RequantEntry.clamped, clampI_of_mem h1 h2, max_eq_left h3, min_eq_left h4]

theorem RequantEntry.gives_clamped {q : RequantEntry} {v : Int} (h : -128 ≤ q.clamped v) (h' : q.clamped v ≤ 127) : q.Gives v (q.clamped v) :=
  ⟨h, h', fun h1 h2 h3 h4 _ _ => clamped_of_mem h1 h2 h3 h4⟩

/-- A free value of the format, where the clamped product does not fit it. -/
theorem RequantEntry.gives_free {q : RequantEntry} {v : Int} (h : ¬ (-128 ≤ q.clamped v ∧ q.clamped v ≤ 127)) (w : Int) :
    q.Gives v (clampI (-128) 127 w) := by
  obtain ⟨hlo, hhi⟩ := clampI_mem (lo := -128) (hi := 127) (by decide) w
  refine ⟨hlo, hhi, fun h1 h2 h3 h4 h5 h6 => absurd ⟨?_, ?_⟩ h⟩
  · rwa [clamped_of_mem h1 h2 h3 h4]
  · rwa [clamped_of_mem h1 h2 h3 h4]

end Sys2Proof

namespace Sys2Proof.Machine
open Sys2Proof

section
variable {s : State} {e : Nat} {q : RequantEntry} {accSat vector : Bool} {row tile : Nat}

/-- An escape sets the engine's bit of ESCAPE_EVENTS, whatever it captures (R294). -/
theorem State.rget_escape (h : regsWf s.regs = true) {high : Bool} {col tensor : Nat} {y : Int} :
    (s.escape e high accSat vector row col tile tensor y).rget Reg.ESCAPE_EVENTS = s.rget Reg.ESCAPE_EVENTS ||| nw (2 ^ e) := by
  have hne : Reg.ESCAPE_EVENTS ≠ Reg.RANGE_ESCAPES e := by simp only [Reg.ESCAPE_EVENTS, Reg.RANGE_ESCAPES]; omega
  have h1 : regsWf ((s.bump (Reg.RANGE_ESCAPES e)).raiseAt Reg.ESCAPE_EVENTS Reg.ESCAPE_EVENT_EN 14 (2 ^ e)).regs = true := by
    rw [State.raiseAt_regs]
    exact State.wf_rset (State.wf_bump h)
  have hr : ((s.bump (Reg.RANGE_ESCAPES e)).raiseAt Reg.ESCAPE_EVENTS Reg.ESCAPE_EVENT_EN 14 (2 ^ e)).rget Reg.ESCAPE_EVENTS =
      s.rget Reg.ESCAPE_EVENTS ||| nw (2 ^ e) := by
    rw [State.rget_congr State.raiseAt_regs, State.rget_rset_same (State.wf_bump h), State.rget_bump h, if_neg hne]
  unfold State.escape
  dsimp only
  split
  · exact hr
  · have capture {o : Nat} (ho : 0x610050 ≤ o) : Reg.ESCAPE_EVENTS ≠ o := by simp only [Reg.ESCAPE_EVENTS]; omega
    have h2 := State.wf_rset (o := Reg.ESC_INFO e) (w := nw (2 ^ 31 + b2n high * 2 ^ 30 + b2n accSat * 2 ^ 29 + b2n vector * 2 ^ 28 + row % 128 * 64 + col % 64)) h1
    have h3 := State.wf_rset (o := Reg.ESC_TENSOR e) (w := nw tensor) h2
    have h4 := State.wf_rset (o := Reg.ESC_TILE e) (w := nw tile) h3
    have h5 := State.wf_rset (o := Reg.ESC_VALUE e) (w := iw (ssat 32 y)) h4
    rw [State.rget_setPair h5, if_neg (capture (by simp only [Reg.ESC_BEAT_HI]; omega)), if_neg (capture (by simp only [Reg.ESC_BEAT_LO]; omega)),
      State.rget_rset_ne h4 _ _ (capture (by simp only [Reg.ESC_VALUE]; omega)), State.rget_rset_ne h3 _ _ (capture (by simp only [Reg.ESC_TILE]; omega)),
      State.rget_rset_ne h2 _ _ (capture (by simp only [Reg.ESC_TENSOR]; omega)), State.rget_rset_ne h1 _ _ (capture (by simp only [Reg.ESC_INFO]; omega)), hr]

theorem State.rbit_escape (hm : s.MemOk) (he : e < 32) {high : Bool} {col tensor i : Nat} {y : Int} :
    (s.escape e high accSat vector row col tile tensor y).rbit Reg.ESCAPE_EVENTS i = (s.rbit Reg.ESCAPE_EVENTS i || decide (i = e)) := by
  rw [State.rbit, State.rget_escape hm.1, wbit_or_two he]
  rfl

/-- The state after a value: its escape reported, where it escapes. -/
def State.noteEscape (s : State) (e : Nat) (q : RequantEntry) (accSat vector : Bool) (row tile col : Nat) (v : Int) : State :=
  if q.rangeHi < q.product v then s.escape e true accSat vector row col tile q.tensor (q.product v)
  else if q.product v < q.rangeLo then s.escape e false accSat vector row col tile q.tensor (q.product v) else s

/-- One value through the requantizer, with INT8 output. -/
def State.requantValue (e : Nat) (q : RequantEntry) (accSat vector : Bool) (row tile : Nat) (a : State × List Int × Bool) (col : Nat) (v : Int) :
    State × List Int × Bool :=
  let a1 := a.1.noteEscape e q accSat vector row tile col v
  if ¬ (-128 ≤ q.clamped v ∧ q.clamped v ≤ 127) then (a1.took, a.2.1 ++ [clampI (-128) 127 a1.freeInt], a.2.2 || q.escapes v)
  else (a1, a.2.1 ++ [q.clamped v], a.2.2 || q.escapes v)

/-- INT8 output without per-column values is the values one by one. -/
theorem State.requant_eq (hp : q.perCol = false) (ho : q.outFormat = 1) (vals : List Int) :
    s.requant e q vals accSat vector row tile =
      let r := lfoldIdx (State.requantValue e q accSat vector row tile) (s, [], false) 0 vals
      (r.1, { vals := r.2.1, format := 1, wOut := q.wOut, raw := false, flags := { escape := r.2.2, accSat := accSat } }) := by
  have hb : fmtBlock 1 = false := by decide
  have hr : fmtRange 1 = (-128, 127) := rfl
  simp only [State.requant, requantParams, hp, ho, hb, hr, Bool.false_eq_true, if_false, if_true, true_or, not_false_eq_true, true_and]
  rfl

/-- What the values through the requantizer so far leave: the state that reports their escapes. -/
theorem State.requantValue_spec (he : e < 32) {a : State × List Int × Bool} {col : Nat} {v : Int} (hm : a.1.MemOk) :
    ∃ u, (State.requantValue e q accSat vector row tile a col v).2.1 = a.2.1 ++ [u] ∧ q.Gives v u ∧
      (State.requantValue e q accSat vector row tile a col v).2.2 = (a.2.2 || q.escapes v) ∧
      (State.requantValue e q accSat vector row tile a col v).1.MemOk ∧
      (State.requantValue e q accSat vector row tile a col v).1.rbit Reg.ESCAPE_EVENTS e = (a.1.rbit Reg.ESCAPE_EVENTS e || q.escapes v) := by
  have hm1 : (a.1.noteEscape e q accSat vector row tile col v).MemOk := by
    unfold State.noteEscape
    split
    · exact (State.escape_keeps (.refl _)).mem hm
    · split
      · exact (State.escape_keeps (.refl _)).mem hm
      · exact hm
  have hb : (a.1.noteEscape e q accSat vector row tile col v).rbit Reg.ESCAPE_EVENTS e = (a.1.rbit Reg.ESCAPE_EVENTS e || q.escapes v) := by
    unfold State.noteEscape RequantEntry.escapes
    split
    · next h => simp [State.rbit_escape hm he, h]
    · next h =>
      split
      · next h' => simp [State.rbit_escape hm he, h']
      · next h' => simp [h, h']
  unfold State.requantValue
  dsimp only
  split
  · next h => exact ⟨_, rfl, RequantEntry.gives_free h _, rfl, hm1, hb⟩
  · next h =>
    have h' := Decidable.not_not.mp h
    exact ⟨_, rfl, RequantEntry.gives_clamped h'.1 h'.2, rfl, hm1, hb⟩

theorem State.requantValues_spec (he : e < 32) (l : List Int) {a : State × List Int × Bool} {i : Nat} (hm : a.1.MemOk) :
    ∃ us, (lfoldIdx (State.requantValue e q accSat vector row tile) a i l).2.1 = a.2.1 ++ us ∧ List.Forall₂ q.Gives l us ∧
      (lfoldIdx (State.requantValue e q accSat vector row tile) a i l).2.2 = (a.2.2 || l.any q.escapes) ∧
      (lfoldIdx (State.requantValue e q accSat vector row tile) a i l).1.rbit Reg.ESCAPE_EVENTS e = (a.1.rbit Reg.ESCAPE_EVENTS e || l.any q.escapes) := by
  induction l generalizing a i with
  | nil => exact ⟨[], by simp [lfoldIdx], .nil, by simp [lfoldIdx], by simp [lfoldIdx]⟩
  | cons v l ih =>
    obtain ⟨u, hu, hg, hf, hk, hb⟩ := State.requantValue_spec (q := q) (accSat := accSat) (vector := vector) (row := row) (tile := tile) he (col := i) (v := v) hm
    obtain ⟨us, hus, hgs, hfs, hbs⟩ := ih (i := i + 1) hk
    refine ⟨u :: us, ?_, .cons hg hgs, ?_, ?_⟩
    · rw [lfoldIdx, hus, hu, List.append_assoc]
      rfl
    · rw [lfoldIdx, hfs, hf, List.any_cons, Bool.or_assoc]
    · rw [lfoldIdx, hbs, hb, List.any_cons, Bool.or_assoc]

/-- Values through the requantizer with INT8 output (R293, R294): each result within the format, and the escapes marked and reported. -/
theorem State.requant_int8 (hm : s.MemOk) (he : e < 32) (hp : q.perCol = false) (ho : q.outFormat = 1) (vals : List Int) :
    ∃ t b, s.requant e q vals accSat vector row tile = (t, b) ∧ b.format = 1 ∧ List.Forall₂ q.Gives vals b.vals ∧
      b.flags.escape = vals.any q.escapes ∧ (b.flags.escape = true → t.rbit Reg.ESCAPE_EVENTS e = true) ∧
      Only [.regs, .host, .out, .free] s t ∧ Keeps s t := by
  obtain ⟨us, hus, hg, hf, hb⟩ := State.requantValues_spec (q := q) (accSat := accSat) (vector := vector) (row := row) (tile := tile) he vals
    (a := (s, [], false)) (i := 0) hm
  have heq := State.requant_eq (s := s) (e := e) (accSat := accSat) (vector := vector) (row := row) (tile := tile) hp ho vals
  have hfr := State.requant_only (x1 := e) (x2 := q) (x3 := vals) (x4 := accSat) (x5 := vector) (x6 := row) (x7 := tile) (.refl [.regs, .host, .out, .free] s) rfl
  have hk := State.requant_keeps (x1 := e) (x2 := q) (x3 := vals) (x4 := accSat) (x5 := vector) (x6 := row) (x7 := tile) (.refl s)
  rw [heq] at hfr hk
  refine ⟨_, _, heq, rfl, ?_, by simpa using hf, fun h => ?_, hfr, hk⟩
  · dsimp only
    rwa [hus]
  · dsimp only at h ⊢
    rw [hb, ← Bool.false_or (vals.any q.escapes), ← hf, h, Bool.or_true]

/-- A result read by its place. -/
theorem forall₂_gives_lgetD {l us : List Int} (h : List.Forall₂ q.Gives l us) {n : Nat} (hn : n < l.length) : q.Gives (lgetD l n 0) (lgetD us n 0) := by
  induction h generalizing n with
  | nil => exact absurd hn (Nat.not_lt_zero _)
  | cons hv _ ih =>
    cases n with
    | zero => exact hv
    | succ n => exact ih (Nat.lt_of_succ_lt_succ hn)

end

end Sys2Proof.Machine
end

section
/-! PROOFS. The array: MAC, MAC_FIRST and DRAIN (O36). -/

namespace Sys2Proof

/-! ### Sparse tables by their entries -/

theorem mrising_of_pairwise {α : Type} {m : Map α} (h : m.Pairwise (fun x y => x.1 < y.1)) : ∀ {lo : Nat}, (∀ x ∈ m, lo ≤ x.1) → mrising lo m = true := by
  induction h with
  | nil => exact fun _ => rfl
  | @cons x m hx _ ih =>
    intro lo hlo
    simp only [mrising, Bool.and_eq_true, decide_eq_true_eq]
    exact ⟨hlo x List.mem_cons_self, ih fun y hy => hx y hy⟩

/-- A table with rising keys reads each of its entries. -/
theorem mget_of_mem {α : Type} {m : Map α} {k : Nat} {v : α} {lo : Nat} (h : mrising lo m = true) (hx : (k, v) ∈ m) : mget m k = some v := by
  induction m generalizing lo with
  | nil => exact absurd hx (by simp)
  | cons y m ih =>
    obtain ⟨k', v'⟩ := y
    simp only [mrising, Bool.and_eq_true, decide_eq_true_eq] at h
    rcases List.mem_cons.mp hx with hx | hx
    · obtain ⟨rfl, rfl⟩ := Prod.mk.inj hx
      exact if_pos rfl
    · have hr : mget m k = some v := ih h.2 hx
      have hk : k' < k := Nat.lt_of_not_le fun hle => by
        rw [Machine.mget_of_rising h.2 (Nat.lt_succ_of_le hle)] at hr
        exact absurd hr (by simp)
      rw [mget, if_neg (Nat.ne_of_lt hk), if_neg (Nat.not_lt_of_lt hk), hr]

/-! ### A tile of accumulators -/

/-- The accumulators of a tile of `cols` columns by row × 64 + column, zeros unlisted (R285). -/
def accTable (rows cols : Nat) (v : Nat → Nat → Int) : Map Int :=
  ((List.range rows).flatMap (fun m => (List.range cols).map (fun n => (m * 64 + n, v m n)))).filter (fun x => decide (x.2 ≠ 0))

theorem accTable_pairwise {rows cols : Nat} (hc : cols ≤ 64) (v : Nat → Nat → Int) : (accTable rows cols v).Pairwise (fun x y => x.1 < y.1) := by
  refine List.Pairwise.filter _ (List.pairwise_flatMap.mpr ⟨fun m _ => ?_, ?_⟩)
  · exact List.pairwise_map.mpr (List.pairwise_lt_range.imp fun h => Nat.add_lt_add_left h _)
  · refine List.pairwise_lt_range.imp fun {m m'} hlt x hx y hy => ?_
    obtain ⟨n, hn, rfl⟩ := List.mem_map.mp hx
    obtain ⟨n', -, rfl⟩ := List.mem_map.mp hy
    have hn := List.mem_range.mp hn
    show m * 64 + n < m' * 64 + n'
    omega

theorem mem_accTable {rows cols k : Nat} {v : Nat → Nat → Int} {w : Int} :
    (k, w) ∈ accTable rows cols v ↔ w ≠ 0 ∧ ∃ m n, m < rows ∧ n < cols ∧ k = m * 64 + n ∧ w = v m n := by
  simp only [accTable, List.mem_filter, List.mem_flatMap, List.mem_map, List.mem_range, decide_eq_true_eq, Prod.mk.injEq]
  constructor
  · rintro ⟨⟨m, hm, n, hn, rfl, rfl⟩, hw⟩
    exact ⟨hw, m, n, hm, hn, rfl, rfl⟩
  · rintro ⟨hw, m, n, hm, hn, rfl, rfl⟩
    exact ⟨⟨m, hm, n, hn, rfl, rfl⟩, hw⟩

theorem mgetD_accTable {rows cols m n : Nat} (hc : cols ≤ 64) (hm : m < rows) (hn : n < cols) (v : Nat → Nat → Int) :
    mgetD (accTable rows cols v) (m * 64 + n) 0 = v m n := by
  have hr : mrising 0 (accTable rows cols v) = true := mrising_of_pairwise (accTable_pairwise hc v) fun _ _ => Nat.zero_le _
  by_cases hv : v m n = 0
  · rw [hv, mgetD]
    cases hg : mget (accTable rows cols v) (m * 64 + n) with
    | none => rfl
    | some w =>
      obtain ⟨hw, m', n', -, hn', hk, rfl⟩ := mem_accTable.mp (Machine.mem_of_mget hg)
      obtain ⟨rfl, rfl⟩ : m = m' ∧ n = n' := by omega
      exact absurd hv hw
  · rw [mgetD, mget_of_mem hr (mem_accTable.mpr ⟨hv, m, n, hm, hn, rfl, rfl⟩)]
    rfl

theorem ArrayMode.cols_le (mode : ArrayMode) : mode.shape.2 ≤ 64 := by cases mode <;> decide

/-! ### MAC -/

/-- The block sums of one output added, saturating after each block (R286, R287). -/
def macSum (bits : Nat) (w start : Int) (a b : List (List Elem)) : Int := (a.zip b).foldl (fun v p => ssat bits (v + macTerm p.1 p.2 w)) start

/-- The sum is kept apart from the mark of a saturation. -/
theorem macSum_eq (bits : Nat) (w : Int) (l : List (List Elem × List Elem)) (v : Int × Bool) :
    (l.foldl (fun (v : Int × Bool) p => (ssat bits (v.1 + macTerm p.1 p.2 w), v.2 || beyond bits (v.1 + macTerm p.1 p.2 w))) v).1 =
      l.foldl (fun v p => ssat bits (v + macTerm p.1 p.2 w)) v.1 := by
  induction l generalizing v with
  | nil => rfl
  | cons p l ih => exact ih _

theorem map_range_zipIdx {α : Type} (f : Nat → α) (n : Nat) : ((List.range n).map f).zipIdx = (List.range n).map (fun i => (f i, i)) := by
  refine List.ext_getElem (by simp) fun i hi hj => ?_
  simp

/-- The accumulators that `mac_block` over every output leaves. -/
theorem AccBank.mac_acc (x : AccBank) (mode : ArrayMode) (first : Bool) (a b : List Elem) (k : Nat) (w : Int) :
    (x.mac mode first a b k w).acc = accTable mode.shape.1 mode.shape.2 (fun m n =>
      macSum mode.accBits w (if first then 0 else mgetD x.acc (m * 64 + n) 0) (operandOf a mode.shape.1 k m) (operandOf b mode.shape.2 k n)) := by
  have hf {α : Type} (l : List (Nat × Int × α)) : (l.filter (fun o => decide (o.2.1 ≠ 0))).map (fun o => (o.1, o.2.1)) =
      (l.map (fun o => (o.1, o.2.1))).filter (fun x => decide (x.2 ≠ 0)) := by
    rw [List.filter_map]
    rfl
  simp only [AccBank.mac, accTable, macSum]
  rw [hf, List.map_flatMap]
  simp only [map_range_zipIdx, List.map_map, Function.comp_def, macSum_eq]

theorem AccBank.mac_mode (x : AccBank) (mode : ArrayMode) (first : Bool) (a b : List Elem) (k : Nat) (w : Int) : (x.mac mode first a b k w).mode = mode := rfl

/-! ### Banks -/

section
variable {g : Engine} {b : Bool} {x : AccBank}

@[simp] theorem Engine.bank_setBank_same : (g.setBank b x).bank b = x := by cases b <;> rfl
@[simp] theorem Engine.bank_setBank_not : (g.setBank b x).bank (!b) = g.bank (!b) := by cases b <;> rfl
@[simp] theorem Engine.setBank_store : (g.setBank b x).store = g.store := by cases b <;> rfl
@[simp] theorem Engine.setBank_state : (g.setBank b x).state = g.state := by cases b <;> rfl
@[simp] theorem Engine.setBank_live : (g.setBank b x).live = g.live := by cases b <;> rfl
@[simp] theorem Engine.setBank_shadow : (g.setBank b x).shadow = g.shadow := by cases b <;> rfl
@[simp] theorem Engine.setBank_radish : (g.setBank b x).radish = g.radish := by cases b <;> rfl

theorem Engine.bank_congr {h : Engine} (h' : h.bankA = g.bankA ∧ h.bankB = g.bankB) (b : Bool) : h.bank b = g.bank b := by
  cases b
  · exact h'.1
  · exact h'.2

end

end Sys2Proof

namespace Sys2Proof.Machine
open Sys2Proof

section
variable {s t : State} {e : Fin 20} {c : CtxSel} {x y : EngCtx}

/-- A slot that changes one bank of its engine: the context, and the engine but for that bank. -/
structure BankLeft (s t : State) (e : Fin 20) (c : CtxSel) (y : EngCtx) (bank : Bool) (b : AccBank) : Prop extends SlotLeft s t e c y where
  store : (t.engine e).store = (s.engine e).store
  other_bank : (t.engine e).bank (!bank) = (s.engine e).bank (!bank)
  bank : (t.engine e).bank bank = b

/-- A slot's bank set after it. -/
theorem SlotRan.setBank (h : SlotRan s t e c y) (hu : t.Units) {bank : Bool} {f : AccBank → AccBank} :
    BankLeft s (t.onEngine e (fun g => g.setBank bank (f (g.bank bank)))) e c y bank (f ((s.engine e).bank bank)) := by
  have hg : (t.onEngine e (fun g => g.setBank bank (f (g.bank bank)))).engine e = (t.engine e).setBank bank (f ((t.engine e).bank bank)) :=
    State.engine_onEngine_same (hu.engine_lt e)
  have hb := Engine.bank_congr h.banks
  refine ⟨h.toSlotLeft.onEngine (fun _ => Engine.setBank_state) (fun _ => Engine.setBank_live) (fun _ => Engine.setBank_shadow) (fun _ => Engine.setBank_radish), ?_, ?_, ?_⟩
  · rw [hg, Engine.setBank_store, h.store]
  · rw [hg, Engine.bank_setBank_not, hb]
  · rw [hg, Engine.bank_setBank_same, hb]

theorem BankLeft.then {u : State} {l : List Component} {bank : Bool} {b : AccBank} (h : BankLeft s t e c y bank b) (k : Only l t u)
    (hl : l.all ([.regs, .place, .host, .out, .free] : List Component).contains = true) : BankLeft s u e c y bank b := by
  have hg : u.engine e = t.engine e := (k.mono hl).engines_same (l := [.regs, .place, .host, .out, .free]) (by decide) e
  exact ⟨h.toSlotLeft.then k hl, by rw [hg]; exact h.store, by rw [hg]; exact h.other_bank, by rw [hg]; exact h.bank⟩

theorem State.Units.slotOp {f : EngCtx → EngCtx} {m : Nat} (h : s.Units) : (s.slotOp m c f).Units :=
  (State.slotOp_keeps (.refl s)).shape.trans h

/-- MAC or MAC_FIRST with its operands loaded and its bank free (R285 to R287, R289). -/
theorem State.macOp_left (hu : s.Units) (hm : s.MemOk) (h : s.issuing e c = some x) {mode : ArrayMode} {bank first : Bool} {k : Nat} {w : Int}
    (hd : ((s.engine e).bank bank).drain = none) (ha : k / 32 * 32 * mode.shape.1 ≤ x.opA.length) (hb : k / 32 * 32 * mode.shape.2 ≤ x.opB.length) :
    BankLeft s (s.macOp e c mode bank first k w) e c
        { x with opA := x.opA.drop (k / 32 * 32 * mode.shape.1), opB := x.opB.drop (k / 32 * 32 * mode.shape.2) } bank
        (((s.engine e).bank bank).mac mode first x.opA x.opB (k / 32 * 32) w) ∧
      (s.macOp e c mode bank first k w).rget (Reg.ARRAY_CYCLES_LO e) =
        nw (s.rpair (Reg.ARRAY_CYCLES_LO e) (Reg.ARRAY_CYCLES_HI e) + (if mode = .b4 then k / 32 * 32 / 2 else k / 32 * 32)) := by
  have hgo : ¬ (((s.engine e).bank bank).drain.isSome = true ∨ x.opA.length < k / 32 * 32 * mode.shape.1 ∨ x.opB.length < k / 32 * 32 * mode.shape.2) := by
    rw [hd]
    simp only [Option.isSome_none, Bool.false_eq_true, false_or]
    omega
  simp only [State.macOp, h, if_neg hgo]
  refine ⟨((State.slotOp_ran hu h).setBank hu.slotOp (f := fun k' => k'.mac mode first x.opA x.opB (k / 32 * 32) w)).then State.bump64_fr rfl, ?_⟩
  have hne : Reg.ARRAY_CYCLES_LO e ≠ Reg.ARRAY_CYCLES_HI e := by simp [Reg.ARRAY_CYCLES_LO, Reg.ARRAY_CYCLES_HI]
  have hregs {f : EngCtx → EngCtx} : (s.slotOp e c f).regs = s.regs := State.slotOp_only (l := [.engines]) (.refl _ s) rfl .regs rfl
  rw [State.rget_bump64 (by rw [State.onEngine_regs, hregs]; exact hm.1) hne, State.rpair_congr ((State.onEngine_regs _).trans hregs)]

/-- A bank that still drains, or operands that have not been loaded, hold MAC and MAC_FIRST up. -/
theorem State.macOp_waits (h : s.issuing e c = some x) {mode : ArrayMode} {bank first : Bool} {k : Nat} {w : Int}
    (hw : ((s.engine e).bank bank).drain.isSome ∨ x.opA.length < k / 32 * 32 * mode.shape.1 ∨ x.opB.length < k / 32 * 32 * mode.shape.2) :
    s.macOp e c mode bank first k w = s := by
  simp only [State.macOp, h, if_pos hw]

/-- MAC and MAC_FIRST are one operation. -/
theorem exec_mac {mode : ArrayMode} {bank first : Bool} {k : BitVec 16} {w : BitVec 8} :
    exec (if first then .arrayMacFirst e c mode bank k w else .arrayMac e c mode bank k w) s = .next (s.macOp e c mode bank first k.toNat w.toInt) := by
  cases first <;> rfl

/-- The row that DRAIN reads next. -/
def AccBank.nextRow (b : AccBank) : Nat := b.drain.getD 0

/-- A bank whose next row has been drained (R289). -/
def AccBank.drained (b : AccBank) : AccBank :=
  { b with drain := if b.drain.getD 0 + 1 < b.mode.shape.1 then some (b.drain.getD 0 + 1) else none }

/-- DRAIN under an entry with INT8 output: the row's results, the escapes marked, and the bank at its next row. -/
theorem State.drainRow_left (hu : s.Units) (hm : s.MemOk) (h : s.issuing e c = some x) {bank : Bool} {entry d : Nat} {q : RequantEntry}
    (hq : mget x.requants entry = some q) (hp : q.perCol = false) (ho : q.outFormat = 1) :
    ∃ b, BankLeft s (s.drainRow e c bank entry d) e c { x with rq := x.rq ++ [b] } bank (AccBank.drained ((s.engine e).bank bank)) ∧
      List.Forall₂ q.Gives (((s.engine e).bank bank).row (AccBank.nextRow ((s.engine e).bank bank))) b.vals ∧
      b.flags.escape = (((s.engine e).bank bank).row (AccBank.nextRow ((s.engine e).bank bank))).any q.escapes ∧
      (b.flags.escape = true → (s.drainRow e c bank entry d).rbit Reg.ESCAPE_EVENTS e = true) := by
  obtain ⟨t, b, hr, -, hg, hf, hb, hfr, hk⟩ := State.requant_int8 (s := s) (e := e) (q := q) (accSat := ((s.engine e).bank bank).sat) (vector := false)
    (row := AccBank.nextRow ((s.engine e).bank bank)) (tile := x.destTile d) hm (by omega) hp ho
    (((s.engine e).bank bank).row (AccBank.nextRow ((s.engine e).bank bank)))
  have hut : t.Units := hk.shape.trans hu
  have heq : s.drainRow e c bank entry d = (t.slotOp e c (fun y => { y with rq := y.rq ++ [b] })).onEngine e (fun g => g.setBank bank { g.bank bank with drain := (AccBank.drained ((s.engine e).bank bank)).drain }) := by
    unfold AccBank.nextRow at hr
    simp only [State.drainRow, h, mgetD, hq, Option.getD_some, hr, AccBank.drained]
  have hs : SlotRan t _ e c { x with rq := x.rq ++ [b] } :=
    State.slotOp_ran (f := fun y => { y with rq := y.rq ++ [b] }) hut ((State.issuing_congr hfr rfl).trans h)
  have hregs : (s.drainRow e c bank entry d).regs = t.regs := by
    rw [heq, State.onEngine_regs]
    exact State.slotOp_only (l := [.engines]) (.refl _ t) rfl .regs rfl
  refine ⟨b, ?_, hg, hf, fun hesc => ?_⟩
  · rw [heq]
    exact (SlotRan.after hfr hs rfl).setBank hut.slotOp (f := fun k => { k with drain := _ })
  · rw [State.rbit, State.rget_congr hregs]
    exact hb hesc

end

theorem AccBank.row_length (b : AccBank) (r : Nat) : (b.row r).length = b.mode.shape.2 := by simp [AccBank.row]

theorem AccBank.row_lgetD (b : AccBank) (r : Nat) {n : Nat} (hn : n < b.mode.shape.2) : lgetD (b.row r) n 0 = mgetD b.acc (r * 64 + n) 0 := by
  rw [AccBank.row, lgetD_map (fun n => mgetD b.acc (r * 64 + n) 0) (by simpa using hn) 0]
  simp [lgetD_eq_getD, hn]

/-- Settles O36: MAC by the table of its sums, DRAIN by what the requantizer gives for the row. -/
theorem arrayMultipliesAndDrains : Obligations.ArrayMultipliesAndDrains := by
  refine ⟨fun e c mode bank first k w s x hu hm h hd ha hb => ?_, fun e c mode bank first k w s x h hw => ?_,
    fun e c bank entry d s x q hu hm h hq hp ho hrange => ?_⟩
  · obtain ⟨hl, hc⟩ := State.macOp_left hu hm h (first := first) (w := w.toInt) hd ha hb
    refine ⟨_, exec_mac, hl.toSlotLeft, hl.store, hl.other_bank, by rw [hl.bank, AccBank.mac_mode], fun m n hm' hn => ?_, hc⟩
    rw [hl.bank, AccBank.mac_acc, mgetD_accTable mode.cols_le hm' hn]
    rfl
  · rw [exec_mac, State.macOp_waits h hw]
  · obtain ⟨b, hl, hg, hf, hb⟩ := State.drainRow_left hu hm h (bank := bank) (d := d) hq hp ho
    have hlen : b.vals.length = ((s.engine e).bank bank).mode.shape.2 := by rw [← hg.length_eq, AccBank.row_length]
    refine ⟨_, b, rfl, hl.toSlotLeft, hl.store, hl.other_bank, hl.bank, hlen, fun v hv => ?_, fun n hn y hy => ⟨fun h1 h2 h3 => ?_, fun hesc => ?_⟩⟩
    · obtain ⟨i, hi, rfl⟩ := List.getElem_of_mem hv
      have hgi := forall₂_gives_lgetD hg (n := i) (by rwa [hg.length_eq])
      rw [lgetD_eq_getD b.vals, List.getElem?_eq_getElem hi] at hgi
      exact ⟨hgi.1, hgi.2.1⟩
    · obtain ⟨-, -, hgn⟩ := forall₂_gives_lgetD hg (n := n) (by rwa [AccBank.row_length])
      rw [AccBank.row_lgetD _ _ hn] at hgn
      have hy' : y = q.product (mgetD ((s.engine e).bank bank).acc (AccBank.nextRow ((s.engine e).bank bank) * 64 + n) 0) := hy
      rw [hy'] at h1 h2 h3 ⊢
      exact hgn h1.1 h1.2 h2.1 h2.2 h3.1 h3.2
    · have he : b.flags.escape = true := by
        rw [hf, any_iff_lgetD 0]
        refine ⟨n, by rwa [AccBank.row_length], ?_⟩
        rw [AccBank.row_lgetD _ _ hn, RequantEntry.escapes, decide_eq_true_eq]
        have hy' : y = q.product (mgetD ((s.engine e).bank bank).acc (AccBank.nextRow ((s.engine e).bank bank) * 64 + n) 0) := hy
        rw [← hy']
        exact hesc.symm
      exact ⟨he, hb he⟩

end Sys2Proof.Machine
end

section
/-! PROOFS. Masks and moves of the vector unit (O38). -/

namespace Sys2Proof

/-! ### The lane mask as a number -/

/-- The number whose bits, lowest first, are the list's. -/
def bitSum : List Bool → Nat
  | [] => 0
  | b :: l => b2n b + 2 * bitSum l

theorem testBit_bitSum (l : List Bool) (i : Nat) : (bitSum l).testBit i = lgetD l i false := by
  induction l generalizing i with
  | nil => exact Nat.zero_testBit i
  | cons b l ih =>
    cases i with
    | zero => cases b <;> simp [bitSum, b2n, lgetD]
    | succ i =>
      rw [lgetD, ← ih, Nat.testBit_succ, bitSum]
      congr 1
      cases b <;> simp only [b2n, if_true, Bool.false_eq_true, if_false] <;> omega

theorem foldl_zipIdx_bits (l : List Bool) (k a : Nat) : (l.zipIdx k).foldl (fun a x => a + b2n x.1 * 2 ^ x.2) a = a + bitSum l * 2 ^ k := by
  induction l generalizing k a with
  | nil => simp [bitSum]
  | cons b l ih =>
    rw [List.zipIdx_cons, List.foldl_cons, ih, bitSum, pow_succ]
    ring

/-! ### Lists of lanes -/

theorem lgetD_map_zipIdx {α β : Type} (f : α × Nat → β) {l : List α} {i : Nat} (h : i < l.length) (d : α) (d' : β) :
    lgetD (l.zipIdx.map f) i d' = f (lgetD l i d, i) := by
  simp [lgetD_eq_getD, h]

/-- A list filled up with zeros reads as before. -/
theorem lgetD_take_append_zeros (l : List Int) {n i : Nat} (h : i < n) : lgetD ((l ++ List.replicate n 0).take n) i 0 = lgetD l i 0 := by
  simp only [lgetD_eq_getD, List.getElem?_take, h, if_true, List.getElem?_append, List.getElem?_replicate]
  split
  · rfl
  · next hl =>
    rw [List.getElem?_eq_none (Nat.not_lt.mp hl)]
    split <;> rfl

end Sys2Proof

namespace Sys2Proof.Machine
open Sys2Proof

theorem getLsbD_maskOf (l : List Bool) {i : Nat} (h : i < 64) : (maskOf l).getLsbD i = lgetD l i false := by
  rw [maskOf, foldl_zipIdx_bits, BitVec.getLsbD_ofNat, Nat.zero_add, pow_zero, Nat.mul_one, testBit_bitSum]
  simp [h]

theorem cmpLane_iff (op : VecCmp) (a b : Int) :
    cmpLane op a b = true ↔ match op with | .lt => a < b | .eq => a = b | .le => a ≤ b := by
  cases op <;> exact decide_eq_true_iff

section
variable {s : State} {e : Fin 20} {c : CtxSel} {x : EngCtx}

/-- CVT under an entry with INT8 output. -/
theorem exec_vecCvt_ran (hu : s.Units) (hm : s.MemOk) (h : s.issuing e c = some x) {a : Fin 64} {entry : Fin 256} {d : Fin 16} {q : RequantEntry}
    (hq : mget x.requants entry = some q) (hp : q.perCol = false) (ho : q.outFormat = 1) :
    ∃ t o, exec (.vecCvt e c a entry d) s = .next t ∧ SlotRan s t e c { x with vecOut := x.vecOut ++ [o] } ∧ o.format = 1 ∧
      List.Forall₂ q.Gives (x.vreg a) o.vals := by
  obtain ⟨t, b, hr, hf, hg, -, -, hfr, hk⟩ := State.requant_int8 (s := s) (e := e) (q := q) (accSat := x.vecFlags.accSat) (vector := true)
    (row := 0) (tile := x.destTile d) hm (by omega) hp ho (x.vreg a)
  have ht : t.issuing e c = some x := (State.issuing_congr hfr rfl).trans h
  refine ⟨_, b, ?_, .after hfr (State.vecOp_ran (f := fun y => { y with vecOut := y.vecOut ++ [b] }) (hk.shape.trans hu) (hk.mem hm) ht).toSlotRan rfl, hf, hg⟩
  show execVecCvt e c a entry d s = _
  simp only [execVecCvt, h, mgetD, hq, Option.getD_some, hr]

end

/-- Settles O38: each operation's context is that of its rule, read lane by lane. -/
theorem vectorMasksAndMoves : Obligations.VectorMasksAndMoves := by
  intro e c dst a b s x hu hm h ha hb
  refine ⟨fun op => ⟨_, _, rfl, State.vecOp_ran hu hm h, fun i hi => ?_⟩, ⟨_, _, rfl, State.vecOp_ran hu hm h, fun i hi => ?_⟩,
    ⟨_, _, rfl, State.vecOp_ran hu hm h, fun r hr => ?_, ?_, ?_, fun i h0 hi => ?_⟩,
    fun bank row => ⟨_, _, rfl, State.vecOp_ran hu hm h, fun r hr => ?_, ?_, ?_, fun i hi => ?_⟩,
    ⟨_, _, rfl, State.vecOp_ran hu hm h, fun i hi => lgetD_take_append_zeros x.loaded hi⟩, fun entry d q hq hp ho => ?_⟩
  · rw [getLsbD_maskOf _ hi, lgetD_map _ (by simp [ha, hb, hi]) (0, 0), lgetD_zip (by rwa [ha]) (by rwa [hb]) 0 0]
    exact cmpLane_iff op _ _
  · rw [lgetD_map_zipIdx _ (by simp [ha, hb, hi]) (0, 0), lgetD_zip (by rwa [ha]) (by rwa [hb]) 0 0]
    rfl
  · rw [EngCtx.satIf_vreg, EngCtx.vreg_setVreg_ne hr]
  · rw [EngCtx.satIf_mask, EngCtx.setVreg_mask]
  · have hl : (x.vreg a).zipIdx.map (fun p => if maskBit x.mask p.2 then p.1 else 0) =
        (List.range 64).map (fun i => if x.mask.getLsbD i then laneOf x a i else 0) := by
      refine List.ext_getElem (by simp [ha]) fun i hi _ => ?_
      have hi' : i < (x.vreg a).length := by simpa using hi
      simp [maskBit, laneOf, lgetD_eq_getD, hi']
    rw [laneOf, EngCtx.satIf_vreg, EngCtx.vreg_setVreg_same, ← hl]
    rfl
  · obtain ⟨j, rfl⟩ := Nat.exists_eq_succ_of_ne_zero (Nat.ne_of_gt h0)
    rw [laneOf, EngCtx.satIf_vreg, EngCtx.vreg_setVreg_same, lgetD]
    exact lgetD_of_forall (P := (· = 0)) (fun v hv => List.eq_of_mem_replicate hv) rfl
  · rw [EngCtx.satIf_vreg, EngCtx.vreg_setVreg_ne hr]
  · rw [EngCtx.satIf_mask, EngCtx.setVreg_mask]
  · rw [EngCtx.satIf_accSat, Bool.or_eq_true, EngCtx.setVreg_vecFlags]
  · rw [laneOf, EngCtx.satIf_vreg, EngCtx.vreg_setVreg_same, lgetD_take_append_zeros _ hi]
    split
    · next hn => exact AccBank.row_lgetD _ _ hn
    · next hn => exact lgetD_of_le (by rw [AccBank.row_length]; exact Nat.not_lt.mp hn)
  · obtain ⟨t, o, ht, hr, hf, hg⟩ := exec_vecCvt_ran hu hm h (a := a) (d := d) hq hp ho
    refine ⟨t, o, ht, hr, by rw [← hg.length_eq, ha], hf, fun i hi y hy h1 h2 h3 h4 h5 h6 => ?_⟩
    obtain ⟨-, -, hgi⟩ := forall₂_gives_lgetD hg (n := i) (by rwa [ha])
    have hy' : y = q.product (lgetD (x.vreg a) i 0) := hy
    rw [hy'] at h1 h2 h3 h4 h5 h6 ⊢
    exact hgi h1 h2 h3 h4 h5 h6

end Sys2Proof.Machine
end

section
/-! PROOFS. Tokens, and the LOAD, STORE and EXCHANGE slots (O40). -/

namespace Sys2Proof

/-! ### Waiting -/

/-- A context that waits for tokens that are set goes on, without those that it consumes (R280). -/
theorem EngCtx.wait_set {x : EngCtx} (hw : x.waiting = none) {m : BitVec 32} (ht : x.tokens &&& m = m) (consume : Bool) :
    Machine.EngCtx.wait x m consume = { x with tokens := if consume then x.tokens &&& ~~~ m else x.tokens } := by
  simp only [Machine.EngCtx.wait, EngCtx.resume, ht, if_true, Option.getD_some]
  rw [← hw]

theorem EngCtx.wait_stalls {x : EngCtx} {m : BitVec 32} (ht : x.tokens &&& m ≠ m) (consume : Bool) :
    Machine.EngCtx.wait x m consume = { x with waiting := some (m, consume) } := by
  simp only [Machine.EngCtx.wait, EngCtx.resume, ht, if_false, Option.getD_none]

/-! ### Windows -/

theorem windowSize_pos (count : List Nat) : 0 < windowSize count := by
  have h (l : List Nat) (a : Nat) (ha : 0 < a) : 0 < l.foldl (fun a c => a * max c 1) a := by
    induction l generalizing a with
    | nil => exact ha
    | cons c l ih => exact ih _ (Nat.mul_pos ha (by omega))
  exact h count 1 Nat.one_pos

theorem DescReg.advance_cursor (r : DescReg) (n : Nat) : (r.advance n).cursor = (r.cursor + n) % windowSize r.count := by
  rw [DescReg.advance, max_eq_left (windowSize_pos r.count)]

theorem fmtBits_pos (f : Nat) : 0 < fmtBits f := by
  unfold fmtBits
  repeat' split
  all_goals decide

theorem leBytes_length (n v : Nat) : (leBytes n v).length = n := by
  induction n generalizing v with
  | zero => rfl
  | succ n ih => simp [leBytes, ih]

/-! ### Byte storage kept at some addresses -/

/-- Storage `m'` is canonical where `m` is, and then reads as `m` at every address of `P`. -/
def StoreKept (P : Nat → Prop) (m m' : List Host.Cell) : Prop := cwf m = true → cwf m' = true ∧ ∀ p, P p → cget m' p = cget m p

section
variable {P : Nat → Prop} {m m' m'' : List Host.Cell}

theorem StoreKept.refl (P : Nat → Prop) (m : List Host.Cell) : StoreKept P m m := fun h => ⟨h, fun _ _ => rfl⟩

theorem StoreKept.trans (h : StoreKept P m m') (k : StoreKept P m' m'') : StoreKept P m m'' := fun w =>
  ⟨(k (h w).1).1, fun p hp => ((k (h w).1).2 p hp).trans ((h w).2 p hp)⟩

theorem StoreKept.cset {a : Nat} {v : Byte} (h : ∀ p, P p → p ≠ a) : StoreKept P m (cset m a v) := fun w =>
  ⟨Machine.cwf_set a v w, fun p hp => Machine.cget_cset_ne w a v (h p hp)⟩

theorem StoreKept.cwrite {a : Nat} {l : List Byte} (h : ∀ p, P p → p < a ∨ a + l.length ≤ p) : StoreKept P m (cwrite m a l) := fun w =>
  ⟨Machine.cwf_write a l w, fun p hp => Machine.cget_cwrite_out w a l (h p hp)⟩

theorem StoreKept.foldl {α β : Type} {f : β → α → β} {g : β → List Host.Cell} {l : List α} {a : β} (h : ∀ a, ∀ x ∈ l, StoreKept P (g a) (g (f a x))) :
    StoreKept P (g a) (g (l.foldl f a)) := by
  induction l generalizing a with
  | nil => exact .refl P _
  | cons x l ih => exact (h a x List.mem_cons_self).trans (ih fun a y hy => h a y (List.mem_cons_of_mem _ hy))

theorem StoreKept.lfoldIdx {α : Type} {f : List Host.Cell → Nat → α → List Host.Cell} {l : List α} {i : Nat} (h : ∀ m i x, StoreKept P m (f m i x)) :
    StoreKept P m (lfoldIdx f m i l) := by
  induction l generalizing m i with
  | nil => exact .refl P m
  | cons x l ih => exact (h m i x).trans ih

end

/-! ### The bytes of a stored beat -/

/-- Address `p` holds nothing of an element at one of the indices: not its bits, nor its scale, nor its tile's status. -/
def DescReg.Outside (r : DescReg) (base : Nat) (idxs : List (List Nat)) (p : Nat) : Prop := ∀ ix ∈ idxs, (∀ k, k < 5 → p ≠ base + (r.desc.bitAddr ix).toNat / 8 + k) ∧
  p ≠ base + r.desc.scaleAddr ix ∧ p ≠ base + r.desc.statusOff + r.desc.tile ix

/-- The indices that a beat of `n` elements takes from a register's cursor. -/
def DescReg.beatIdxs (r : DescReg) (n : Nat) : List (List Nat) := (List.range n).map (fun j => r.desc.clamp (r.at j))

/-- The elements of a beat in the order of their writing (R335). -/
def DescReg.order (r : DescReg) (vals : List Int) : List (List Nat × Int) :=
  lsortBy (fun p => if r.desc.aliasing = 2 then r.desc.linear p.1 else 0) ((r.beatIdxs vals.length).zip vals)

/-- The elements of a beat written, and the tiles in which a sum saturated. -/
def DescReg.writeElems (r : DescReg) (base : Nat) (m : List Host.Cell) (vals : List Int) : List Host.Cell × List Nat :=
  (r.order vals).foldl (fun a p =>
    let t := Machine.storeElem a.1 base r.desc p.1 p.2
    (t.1, if t.2 then kinsert (r.desc.tile p.1) a.2 else a.2)) (m, [])

/-- The shared scales of a beat written. -/
def DescReg.writeScales (r : DescReg) (base : Nat) (m : List Host.Cell) (b : OutBeat) : List Host.Cell :=
  lfoldIdx (fun m i x => match (r.beatIdxs b.vals.length)[32 * i]? with
    | some ix => cset m (base + r.desc.scaleAddr ix) (BitVec.ofNat 8 x)
    | none => m) m 0 b.scales

/-- The status bytes of a beat's tiles written, with the tiles of the pass and the count of the accumulators that saturated. -/
def DescReg.writeStatus (r : DescReg) (base : Nat) (m : List Host.Cell) (b : OutBeat) (sat : List Nat) (inherited : Bool) (written : List (Nat × Nat)) :
    List Host.Cell × List (Nat × Nat) × Nat :=
  (((r.beatIdxs b.vals.length).map (fun i => r.desc.tile i)).eraseDups).foldl (fun a t =>
    let key := (r.desc.dataSet, t)
    let seen := a.2.1.contains key
    let at' := base + r.desc.statusOff + t
    let old := if seen then (cget a.1 at').toNat else 0
    let f := { b.flags with accSat := b.flags.accSat || sat.contains t }
    let new := old ||| f.byte inherited
    ((if r.desc.statusEn then cset a.1 at' (BitVec.ofNat 8 new) else a.1), if seen then a.2.1 else key :: a.2.1,
      a.2.2 + b2n (f.accSat && decide (old / 2 % 2 = 0)))) (m, written, 0)

section
variable {r : DescReg} {base : Nat} {idxs : List (List Nat)} {m : List Host.Cell}

theorem putElemBits_kept {ix : List Nat} {g code : Nat} (h : ix ∈ idxs) :
    StoreKept (r.Outside base idxs) m (putElemBits m base (r.desc.bitAddr ix).toNat g code) := by
  refine StoreKept.cwrite fun p hp => ?_
  rw [leBytes_length]
  by_contra hn
  have hk := (hp ix h).1 (p - (base + (r.desc.bitAddr ix).toNat / 8)) (by omega)
  omega

theorem storeElem_kept {ix : List Nat} {v : Int} (h : ix ∈ idxs) : StoreKept (r.Outside base idxs) m (Machine.storeElem m base r.desc ix v).1 := by
  unfold Machine.storeElem
  dsimp only
  split
  · exact putElemBits_kept h
  · exact putElemBits_kept h

theorem DescReg.writeElems_kept (r : DescReg) (vals : List Int) : StoreKept (r.Outside base (r.beatIdxs vals.length)) m (r.writeElems base m vals).1 := by
  refine StoreKept.foldl (g := Prod.fst) (a := (m, [])) fun a p hp => storeElem_kept ?_
  exact (List.of_mem_zip (mem_lsortBy.mp hp)).1

theorem DescReg.writeScales_kept (r : DescReg) (b : OutBeat) : StoreKept (r.Outside base (r.beatIdxs b.vals.length)) m (r.writeScales base m b) := by
  refine StoreKept.lfoldIdx fun m i x => ?_
  split
  · next ix hix => exact .cset fun p hp => (hp ix (List.mem_of_getElem? hix)).2.1
  · exact .refl _ m

theorem DescReg.writeStatus_kept (r : DescReg) (b : OutBeat) {sat : List Nat} {inherited : Bool} {written : List (Nat × Nat)} :
    StoreKept (r.Outside base (r.beatIdxs b.vals.length)) m (r.writeStatus base m b sat inherited written).1 := by
  refine StoreKept.foldl (g := Prod.fst) (a := (m, written, 0)) fun a t ht => ?_
  obtain ⟨ix, hix, rfl⟩ := List.mem_map.mp (List.mem_eraseDups.mp ht)
  dsimp only
  split
  · exact .cset fun p hp => (hp ix hix).2.2
  · exact .refl _ _

end

/-- The store after a beat, with the tiles of the pass and the count of the accumulators that saturated (R295, R296). -/
def DescReg.stored (r : DescReg) (x : EngCtx) (m : List Host.Cell) (b : OutBeat) : List Host.Cell × List (Nat × Nat) × Nat :=
  let base := x.regionBase r.desc.dataSet
  let w := r.writeElems base m b.vals
  r.writeStatus base (r.writeScales base w.1 b) b w.2 x.inherited x.written

theorem DescReg.stored_kept (r : DescReg) (x : EngCtx) (m : List Host.Cell) (b : OutBeat) :
    StoreKept (r.Outside (x.regionBase r.desc.dataSet) (r.beatIdxs b.vals.length)) m (r.stored x m b).1 :=
  ((r.writeElems_kept b.vals).trans (r.writeScales_kept b)).trans (r.writeStatus_kept b)

/-! ### A context that loads -/

/-- A context after a LOAD of elements `es` through register `d`, which held `r`. -/
def EngCtx.load (y : EngCtx) (d : Nat) (r : DescReg) (dest : LoadDest) (es : List Elem) (inherit : Bool) : EngCtx :=
  let y1 := { y with descs := mset y.descs d (r.advance es.length), inherited := y.inherited || inherit }
  match dest with
  | .operandA => { y1 with opA := y1.opA ++ es }
  | .operandB => { y1 with opB := y1.opB ++ es }
  | .vector | .network => { y1 with loaded := es.map (fun p => p.1), loadedFormat := r.desc.format }

/-- The elements that a LOAD of at most `n` takes from a register's cursor, at most 512 B (R340). -/
def Engine.nextElems (g : Engine) (x : EngCtx) (r : DescReg) (n : Nat) : List Elem :=
  (r.beatIdxs (min n (4096 / fmtBits r.desc.format))).map (fun ix => (g.elem (x.regionBase r.desc.dataSet) r ix).1)

/-- Whether an element of a LOAD lies in a tile whose status marks it (R296). -/
def Engine.inherits (g : Engine) (x : EngCtx) (r : DescReg) (n : Nat) : Bool :=
  (r.beatIdxs (min n (4096 / fmtBits r.desc.format))).any (fun ix =>
    decide ((if r.desc.statusEn then (cget g.store (x.regionBase r.desc.dataSet + r.desc.statusOff + r.desc.tile ix)).toNat else 0) % 4 ≠ 0))

section
variable {g : Engine} {x y : EngCtx} {r : DescReg} {n d : Nat} {dest : LoadDest} {es : List Elem} {i : Bool}

theorem Engine.nextElems_length : (g.nextElems x r n).length = min n (4096 / fmtBits r.desc.format) := by simp [Engine.nextElems, DescReg.beatIdxs]

theorem Engine.nextElems_lgetD {j : Nat} (h : j < (g.nextElems x r n).length) :
    lgetD (g.nextElems x r n) j (0, 0) = (g.elem (x.regionBase r.desc.dataSet) r (r.desc.clamp (r.at j))).1 := by
  rw [Engine.nextElems_length] at h
  simp [lgetD_eq_getD, Engine.nextElems, DescReg.beatIdxs, h]

theorem EngCtx.load_cursor : (mget (y.load d r dest es i).descs d).map (fun q => q.cursor) = some ((r.cursor + es.length) % windowSize r.count) := by
  cases dest <;> simp [EngCtx.load, Machine.mget_mset_same, DescReg.advance_cursor]

end

end Sys2Proof

namespace Sys2Proof.Machine
open Sys2Proof

section
variable {s t : State} {e : Fin 20} {c : CtxSel} {x y : EngCtx}

/-! ### WAIT -/

/-- A context left in a WAIT whose tokens are not all set issues no more. -/
theorem SlotLeft.stalls (h : SlotLeft s t e c y) {m : BitVec 32} {k : Bool} (hw : y.waiting = some (m, k)) (ht : y.tokens &&& m ≠ m) : t.issuing e c = none :=
  State.issuing_none (.inr (.inr (.inr (.inr ⟨y, m, k, h.ctx, hw, ht⟩))))

/-- A WAIT whose tokens are all set, which leaves them or consumes them. -/
theorem State.wait_ran (hu : s.Units) (h : s.issuing e c = some x) {m : BitVec 32} (ht : x.tokens &&& m = m) (consume : Bool) :
    SlotRan s (s.slotOp e c (fun x => EngCtx.wait x m consume)) e c { x with tokens := if consume then x.tokens &&& ~~~ m else x.tokens } := by
  rw [← EngCtx.wait_set (State.issuing_waiting h) ht consume]
  exact State.slotOp_ran hu h

theorem State.wait_stalled (hu : s.Units) (h : s.issuing e c = some x) {m : BitVec 32} (ht : x.tokens &&& m ≠ m) (consume : Bool) :
    SlotRan s (s.slotOp e c (fun x => EngCtx.wait x m consume)) e c { x with waiting := some (m, consume) } := by
  rw [← EngCtx.wait_stalls ht consume]
  exact State.slotOp_ran hu h

/-! ### LOAD -/

theorem State.loadOp_none (h : s.issuing e c = some x) {d n : Nat} {dest : LoadDest} (hd : mget x.descs d = none) : s.loadOp e c d dest n = s := by
  simp only [State.loadOp, h, hd]

/-- The scales 0xFF that a LOAD meets: counted, and their tiles marked (R283). -/
def State.noteNonfinite (s : State) (e : Nat) (r : DescReg) (base blocks : Nat) (tiles : List Nat) : State :=
  if blocks = 0 then s else
    let t := s.bump (Reg.IMPORT_NONFINITE e) blocks
    if r.desc.statusEn then t.onEngine e (fun h => { h with store := markNonfinite h.store (base + r.desc.statusOff) tiles }) else t

theorem SlotLeft.noteNonfinite (h : SlotLeft s t e c y) {r : DescReg} {base blocks : Nat} {tiles : List Nat} :
    SlotLeft s (t.noteNonfinite e r base blocks tiles) e c y := by
  have hb : SlotLeft s (t.bump (Reg.IMPORT_NONFINITE e) blocks) e c y := h.then State.bump_fr rfl
  unfold State.noteNonfinite
  dsimp only
  split
  · exact h
  · split
    · exact hb.onEngine (fun _ => rfl) (fun _ => rfl) (fun _ => rfl) (fun _ => rfl)
    · exact hb

theorem State.loadOp_left (hu : s.Units) (h : s.issuing e c = some x) {d n : Nat} {dest : LoadDest} {r : DescReg} (hd : mget x.descs d = some r) :
    SlotLeft s (s.loadOp e c d dest n) e c (x.load d r dest ((s.engine e).nextElems x r n) ((s.engine e).inherits x r n)) := by
  have hn : max (fmtBits r.desc.format) 1 = fmtBits r.desc.format := max_eq_left (fmtBits_pos _)
  simp only [State.loadOp, h, hd, hn]
  refine SlotLeft.then (l := [.regs]) (SlotLeft.noteNonfinite (r := r) ?_) (State.stall_only (.refl _ _) rfl) rfl
  convert (State.slotOp_ran hu h).toSlotLeft using 1
  cases dest <;> simp [EngCtx.load, Engine.nextElems, Engine.inherits, DescReg.beatIdxs, Function.comp_def]

/-! ### STORE -/

theorem State.storeBeat_idle (h : s.issuing e c = some x) {d : Nat} {b : OutBeat} {drop : EngCtx → EngCtx}
    (hd : mget x.descs d = none ∨ ∃ r, mget x.descs d = some r ∧ r.desc.write = false) : s.storeBeat e c d b drop = s := by
  rcases hd with hd | ⟨r, hd, hw⟩
  · simp only [State.storeBeat, h, hd]
  · simp [State.storeBeat, h, hd, hw]

theorem State.storeBeat_eq (h : s.issuing e c = some x) {d : Nat} {b : OutBeat} {drop : EngCtx → EngCtx} {r : DescReg} (hd : mget x.descs d = some r)
    (hw : r.desc.write = true) : ∃ slow, s.storeBeat e c d b drop =
      (((s.slotOp e c (fun y => drop { y with descs := mset y.descs d (r.advance b.vals.length), written := (r.stored x (s.engine e).store b).2.1 })).onEngine e
        (fun g => { g with store := (r.stored x (s.engine e).store b).1 })).bump (Reg.ACC_SATURATIONS e) (r.stored x (s.engine e).store b).2.2).stall e slow := by
  simp only [State.storeBeat, h, hd, hw, not_true_eq_false, if_false]
  exact ⟨_, rfl⟩

/-- STORE of a beat through a write descriptor: the context, the accumulators, and the bytes that it leaves. -/
theorem State.storeBeat_left (hu : s.Units) (h : s.issuing e c = some x) {d : Nat} {b : OutBeat} {drop : EngCtx → EngCtx} {r : DescReg}
    (hd : mget x.descs d = some r) (hw : r.desc.write = true) :
    SlotLeft s (s.storeBeat e c d b drop) e c
        (drop { x with descs := mset x.descs d (r.advance b.vals.length), written := (r.stored x (s.engine e).store b).2.1 }) ∧
      ((s.storeBeat e c d b drop).engine e).bankA = (s.engine e).bankA ∧ ((s.storeBeat e c d b drop).engine e).bankB = (s.engine e).bankB ∧
      ((s.storeBeat e c d b drop).engine e).store = (r.stored x (s.engine e).store b).1 := by
  obtain ⟨slow, heq⟩ := State.storeBeat_eq h (b := b) (drop := drop) hd hw
  have hs := State.slotOp_ran (f := fun y => drop { y with descs := mset y.descs d (r.advance b.vals.length), written := (r.stored x (s.engine e).store b).2.1 }) hu h
  rw [heq]
  generalize hu' : s.slotOp e c (fun y => drop { y with descs := mset y.descs d (r.advance b.vals.length), written := (r.stored x (s.engine e).store b).2.1 }) = u at hs ⊢
  have hlt : e.val < u.engines.length := by rw [← hu']; exact State.Units.engine_lt hu.slotOp e
  have hk {v : State} : Only [.regs] v ((v.bump (Reg.ACC_SATURATIONS e) (r.stored x (s.engine e).store b).2.2).stall e slow) :=
    State.stall_only State.bump_fr rfl
  rw [hk.engines_same rfl, State.engine_onEngine_same hlt]
  have hl := hs.toSlotLeft.onEngine (f := fun g => { g with store := (r.stored x (s.engine e).store b).1 }) (fun _ => rfl) (fun _ => rfl) (fun _ => rfl) (fun _ => rfl)
  exact ⟨hl.then (l := [.regs]) hk rfl, hs.banks.1, hs.banks.2, rfl⟩

/-- A STORE that finds no write descriptor changes nothing, whichever queue it takes its beat from. -/
theorem exec_storeSlot_idle (h : s.issuing e c = some x) {d : Fin 16} {src : StoreSrc} (hv : ∀ v, src ≠ .vector v)
    (hd : mget x.descs d = none ∨ ∃ r, mget x.descs d = some r ∧ r.desc.write = false) : exec (.storeSlot e c d src) s = .next s := by
  show execStoreSlot e c d src s = _
  cases src with
  | requantizer =>
    simp only [execStoreSlot, h]
    split
    · rw [State.storeBeat_idle h hd]
    · rw [State.storeBeat_idle h hd]
    · rfl
  | exchange =>
    simp only [execStoreSlot, h]
    split
    · rw [State.storeBeat_idle h hd]
    · rfl
  | vector v => exact absurd rfl (hv v)

/-- STORE of a beat that has crossed the network. -/
theorem exec_storeSlot_exchange (h : s.issuing e c = some x) {d : Fin 16} {b : OutBeat} {rest : List OutBeat} (hb : x.xchg = b :: rest) :
    exec (.storeSlot e c d .exchange) s = .next (s.storeBeat e c d b (fun y => { y with xchg := y.xchg.drop 1 })) := by
  show execStoreSlot e c d .exchange s = _
  simp only [execStoreSlot, h, hb]

end

/-- Settles O40: WAIT by the tokens set, LOAD by the elements from the cursor, STORE by the addresses that its writes name. -/
theorem tokensLoadsAndStores : Obligations.TokensLoadsAndStores := by
  intro e c s x hu hm h
  refine ⟨fun m ht => ⟨_, _, rfl, State.wait_ran hu h ht false, rfl, State.wait_ran hu h ht true⟩, fun m ht => ?_,
    fun m => ⟨_, rfl, State.slotOp_ran hu h⟩, fun d dest n hd => congrArg Host.Outcome.next (State.loadOp_none h hd), fun d dest n r hd => ?_,
    fun d src hd hv => exec_storeSlot_idle h hv hd, fun d hx => ?_, fun d r b rest hd hw hx hcwf => ?_, fun p b rest hv hb hp => ?_, fun p b rest hr hp => ?_⟩
  · have h1 := State.wait_stalled hu h ht false
    have h2 := State.wait_stalled hu h ht true
    exact ⟨_, _, rfl, h1, h1.stalls rfl ht, rfl, h2, h2.stalls rfl ht⟩
  · refine ⟨_, _, (s.engine e).nextElems x r n.toNat, rfl, State.loadOp_left hu h hd, Engine.nextElems_length, fun j hj => Engine.nextElems_lgetD hj,
      EngCtx.load_cursor, ?_⟩
    cases dest <;> exact ⟨rfl, rfl, rfl⟩
  · show execStoreSlot e c d .exchange s = _
    simp only [execStoreSlot, h, hx]
  · obtain ⟨hl, hA, hB, hs⟩ := State.storeBeat_left hu h (b := b) (drop := fun y => { y with xchg := y.xchg.drop 1 }) hd hw
    refine ⟨_, _, exec_storeSlot_exchange h hx, hl, by rw [hx]; rfl, ?_, hA, hB, fun p hp => ?_⟩
    · simp [mget_mset_same, DescReg.advance_cursor]
    · rw [hs]
      refine (r.stored_kept x _ b hcwf).2 p fun ix hix => ?_
      obtain ⟨j, hj, rfl⟩ := List.mem_map.mp hix
      have hpj := hp j (List.mem_range.mp hj)
      exact ⟨fun k hk => (hpj k hk).1, (hpj 0 (by decide)).2⟩
  · have hrel : (fun x : EngCtx => match x.vecOut with | b :: r => EngCtx.relayout { x with vecOut := r } (mgetD x.perms p {}) b | [] => x) x =
        { x with vecOut := rest, xchg := x.xchg ++ [b] } := by
      simp [hv, hp, EngCtx.relayout, OutBeat.pack, hb, OutBeat.cross]
    refine ⟨_, rfl, ?_⟩
    rw [← hrel]
    exact State.slotOp_ran hu h
  · have hrel : (fun x : EngCtx => match x.rq with | b :: r => EngCtx.relayout { x with rq := r } (mgetD x.perms p {}) b | [] => x) x =
        { x with rq := rest, xchg := x.xchg ++ [b.pack.cross (mgetD x.perms p {}).cross] } := by
      simp [hr, hp, EngCtx.relayout]
    refine ⟨_, b.pack.cross (mgetD x.perms p {}).cross, rfl, ?_⟩
    rw [← hrel]
    exact State.slotOp_ran hu h

end Sys2Proof.Machine
end

section
/-! PROOFS. Engine states, engine events and what the handling of a fault leaves alone (O41, O42). -/

namespace Sys2Proof

/-- What an engine is without its shadow context and the beat of its last issue. -/
def Engine.bare (g : Engine) : Engine :=
  { g with shadow := none, shadowKind := .none, shadowWhole := false, shadowDone := false, lastIssue := 0 }

/-- The engine that RETIRE leaves behind. -/
def Engine.retire (g : Engine) : Engine :=
  { Machine.dropLive g with state := .retired, permanent := true, shadow := none, radish := none, shadowKind := .none, shadowWhole := false, shadowDone := false }

end Sys2Proof

namespace Sys2Proof.Machine
open Sys2Proof

/-! ### What the handling of an engine's fault leaves alone

The event itself writes FAULT_EVENTS. Cancelled migrations, the choice of a target, the declaration and the loss of a slot's target write only the
registers `faultRegs`, add entries to the fault map and move shadow contexts; only a retirement takes a live context away. -/

/-- The registers that the handling of an engine's fault writes beyond the event itself and RECOMPUTES. -/
def faultRegs : List Nat :=
  [Reg.LOG_SUPPRESSED, Reg.MIGRATIONS_CANCELLED, Reg.PLACE_EVENTS, Reg.SLOT_EVENTS, Reg.REARMS, Reg.RETIREMENTS]

/-- From `s` to `t` only the registers `faultRegs` move, no entry leaves the fault map, no radish starts, and every engine keeps its events and
the cause of the last one. -/
structure FaultRun (s t : State) : Prop where
  wf : regsWf s.regs = true → regsWf t.regs = true
  regs : regsWf s.regs = true → ∀ p, p ∉ faultRegs → t.rget p = s.rget p
  marked : ∀ k i, s.marked k i = true → t.marked k i = true
  running : ∀ n, (t.book n).running = true → (s.book n).running = true
  record : ∀ n, (t.engine n).events = (s.engine n).events ∧ (t.engine n).lastCause = (s.engine n).lastCause

/-- Such a run that touches nothing of an engine but its shadow context. -/
structure ShadowsOnly (s t : State) : Prop extends FaultRun s t where
  bare : ∀ n, (t.engine n).bare = (s.engine n).bare

section
variable {a s t u : State} {e m : Nat}

theorem FaultRun.refl (s : State) : FaultRun s s := ⟨id, fun _ _ _ => rfl, fun _ _ h => h, fun _ h => h, fun _ => ⟨rfl, rfl⟩⟩

theorem FaultRun.trans (h : FaultRun s t) (k : FaultRun t u) : FaultRun s u where
  wf w := k.wf (h.wf w)
  regs w p hp := (k.regs (h.wf w) p hp).trans (h.regs w p hp)
  marked c i hi := k.marked c i (h.marked c i hi)
  running n hn := h.running n (k.running n hn)
  record n := ⟨(k.record n).1.trans (h.record n).1, (k.record n).2.trans (h.record n).2⟩

theorem FaultRun.book_stopped (h : FaultRun s t) (hs : (s.book m).running = false) : (t.book m).running = false := by
  cases ht : (t.book m).running with
  | false => rfl
  | true => exact absurd (h.running m ht) (by simp [hs])

/-- A change of an engine that keeps its events. -/
theorem FaultRun.onEngine {f : Engine → Engine} (he : ∀ g, (f g).events = g.events) (hc : ∀ g, (f g).lastCause = g.lastCause) :
    FaultRun s (s.onEngine e f) :=
  ⟨id, fun _ _ _ => rfl, fun _ _ h => h, fun _ h => h, fun _ => ⟨apply_lgetD_lmod Engine.events _ _ _ he, apply_lgetD_lmod Engine.lastCause _ _ _ hc⟩⟩

theorem ShadowsOnly.refl (s : State) : ShadowsOnly s s := ⟨.refl s, fun _ => rfl⟩

theorem ShadowsOnly.trans (h : ShadowsOnly s t) (k : ShadowsOnly t u) : ShadowsOnly s u :=
  ⟨h.toFaultRun.trans k.toFaultRun, fun n => (k.bare n).trans (h.bare n)⟩

section
variable (h : ShadowsOnly s t) (n : Nat)
include h

theorem ShadowsOnly.state : (t.engine n).state = (s.engine n).state := (congrArg Engine.state (h.bare n) :)

theorem ShadowsOnly.live : (t.engine n).live = (s.engine n).live := (congrArg Engine.live (h.bare n) :)

theorem ShadowsOnly.permanent : (t.engine n).permanent = (s.engine n).permanent := (congrArg Engine.permanent (h.bare n) :)

end

/-- A change that leaves the registers, the fault map, the radish books and the engines alone. -/
theorem ShadowsOnly.congr (h : ShadowsOnly a s) (er : t.regs = s.regs) (ek : t.keeper = s.keeper) (em : t.safety.mapShadow = s.safety.mapShadow)
    (eb : t.place.books = s.place.books) (ee : t.engines = s.engines) : ShadowsOnly a t := by
  refine h.trans ⟨⟨fun w => by rwa [er], fun _ p _ => State.rget_congr er p, fun k i hm => by rwa [State.marked_congr ek em],
    fun n hn => ?_, fun n => ?_⟩, fun n => by rw [State.engine_congr ee]⟩
  · rwa [State.book, ← eb]
  · rw [State.engine_congr ee]
    exact ⟨rfl, rfl⟩

/-- A change of registers of `faultRegs` and of the messages it sends. -/
theorem ShadowsOnly.report (h : ShadowsOnly a s) (k : Only [.regs, .host, .out] s t) (wf : regsWf s.regs = true → regsWf t.regs = true)
    (regs : regsWf s.regs = true → ∀ p, p ∉ faultRegs → t.rget p = s.rget p) : ShadowsOnly a t := by
  have ek : t.keeper = s.keeper := k .keeper rfl
  have es : t.safety = s.safety := k .safety rfl
  have ep : t.place = s.place := k .place rfl
  have ee : t.engines = s.engines := k .engines rfl
  refine h.trans ⟨⟨wf, regs, fun k i hm => by rwa [State.marked_congr ek (congrArg Safety.mapShadow es)], fun n hn => ?_, fun n => ?_⟩,
    fun n => by rw [State.engine_congr ee]⟩
  · rwa [State.book, ← ep]
  · rw [State.engine_congr ee]
    exact ⟨rfl, rfl⟩

theorem ShadowsOnly.bump (h : ShadowsOnly a s) {o n : Nat} (ho : o ∈ faultRegs) : ShadowsOnly a (s.bump o n) :=
  h.report (State.bump_only (.refl _ s) rfl) State.wf_bump (fun w p hp => by rw [State.rget_bump w, if_neg (fun k : p = o => hp (k ▸ ho))])

theorem ShadowsOnly.raise (h : ShadowsOnly a s) {o b : Nat} (ho : o ∈ faultRegs) : ShadowsOnly a (s.raise o b) :=
  h.report State.raise_fr State.wf_raise (fun w p hp => by rw [State.rget_raise w, if_neg (fun k : p = o => hp (k ▸ ho))])

theorem ShadowsOnly.logRec (h : ShadowsOnly a s) {c k i d x : Nat} : ShadowsOnly a (s.logRec c k i d x) := by
  unfold State.logRec
  split
  · exact (h.bump (o := Reg.LOG_SUPPRESSED) (n := 1) (by decide)).congr rfl rfl rfl rfl rfl
  · exact h.congr rfl rfl rfl rfl rfl

/-- An entry added to the fault map leaves those it has. -/
theorem State.marked_markRetired {k i c j : Nat} (h : s.marked k i = true) : (s.markRetired c j).marked k i = true := by
  simp only [State.marked, Bool.or_eq_true, List.contains_iff_mem] at h
  unfold State.markRetired
  split
  · simpa [State.marked] using h
  · split
    · simp only [State.marked, Bool.or_eq_true, List.contains_iff_mem, List.mem_append]
      exact h.imp_right .inl
    · simp only [State.marked, Bool.or_eq_true, List.contains_iff_mem, List.mem_append]
      exact h.imp_left .inl

theorem ShadowsOnly.markRetired (h : ShadowsOnly a s) {k i : Nat} : ShadowsOnly a (s.markRetired k i) := by
  refine h.trans ⟨⟨fun w => by rwa [State.markRetired_regs], fun _ p _ => State.rget_congr State.markRetired_regs p, fun c j => State.marked_markRetired,
    fun n hn => ?_, fun n => ?_⟩, fun n => by rw [State.engine_congr State.markRetired_engines]⟩
  · rwa [State.book, State.markRetired_place] at hn
  · rw [State.engine_congr State.markRetired_engines]
    exact ⟨rfl, rfl⟩

theorem ShadowsOnly.declare (h : ShadowsOnly a s) {k i c : Nat} {r : Option Nat} {hard : Bool} : ShadowsOnly a (s.declare k i c r hard) :=
  (h.markRetired.logRec.bump (by decide)).raise (by decide)

theorem ShadowsOnly.onEngine (h : ShadowsOnly a s) {f : Engine → Engine} (hf : ∀ g, (f g).bare = g.bare) : ShadowsOnly a (s.onEngine e f) :=
  h.trans ⟨FaultRun.onEngine (fun g => (congrArg Engine.events (hf g) :)) (fun g => (congrArg Engine.lastCause (hf g) :)),
    fun _ => apply_lgetD_lmod Engine.bare _ _ _ hf⟩

theorem ShadowsOnly.foldl {α : Type} {f : State → α → State} {l : List α} (h : ShadowsOnly a s) (hf : ∀ t x, ShadowsOnly a t → ShadowsOnly a (f t x)) :
    ShadowsOnly a (l.foldl f s) := by
  induction l generalizing s with
  | nil => exact h
  | cons x l ih => exact ih (hf _ _ h)

theorem ShadowsOnly.clearShadow (h : ShadowsOnly a s) : ShadowsOnly a (s.clearShadow e) := h.onEngine fun _ => rfl

theorem ShadowsOnly.assignShadow (h : ShadowsOnly a s) {k : ShadowKind} {us : List Nat} {ds : List (Nat × DescReg)} :
    ShadowsOnly a (s.assignShadow e k us ds) := by
  unfold State.assignShadow
  split
  · exact h.onEngine fun _ => rfl
  · exact h.onEngine fun _ => rfl
  · exact h.logRec

theorem ShadowsOnly.slotLost (h : ShadowsOnly a s) : ShadowsOnly a (s.slotLost e) := by
  unfold State.slotLost
  extract_lets x s0 units rest cand
  have h0 : ShadowsOnly a s0 := h.congr rfl rfl rfl rfl rfl
  split
  · exact h0
  · split
    next targets left _ =>
    extract_lets s1
    have h1 : ShadowsOnly a s1 := h0.congr rfl rfl rfl rfl rfl
    split
    · exact (h1.bump (by decide)).raise (by decide)
    · exact h1

theorem ShadowsOnly.cancelMigrations (h : ShadowsOnly a s) : ShadowsOnly a (s.cancelMigrations e) := by
  unfold State.cancelMigrations
  split
  next gone kept _ =>
  refine ShadowsOnly.foldl (h.congr rfl rfl rfl rfl rfl) (fun t m ht => ?_)
  refine ((ShadowsOnly.foldl ht (fun u x hu => ?_)).bump (by decide)).raise (by decide)
  split
  · exact hu.clearShadow
  · exact hu

theorem ShadowsOnly.pickTarget (h : ShadowsOnly a s) : ShadowsOnly a (s.pickTarget e).1 := by
  unfold State.pickTarget
  split
  · dsimp only
    split
    · exact h.raise (by decide)
    · exact h
  · dsimp only
    split
    · exact h.cancelMigrations
    · exact h

/-- A target chosen, and its shadow started. -/
theorem ShadowsOnly.shadowTarget (h : ShadowsOnly a s) {n : Option Nat} {us : List Nat} :
    ShadowsOnly a (match n with | some e => s.assignShadow e .fault us | none => s) := by
  split
  · exact h.assignShadow
  · exact h

theorem ShadowsOnly.replace (h : ShadowsOnly a s) {us : List Nat} {hard : Bool} : ShadowsOnly a (s.replace e us hard).1 := by
  unfold State.replace
  exact (h.pickTarget.shadowTarget (n := (s.pickTarget e).2) (us := us)).congr rfl rfl rfl rfl rfl

theorem ShadowsOnly.retarget (h : ShadowsOnly a s) : ShadowsOnly a (s.retarget e) := by
  unfold State.retarget
  split
  next gone kept _ =>
  exact ShadowsOnly.foldl (h.congr rfl rfl rfl rfl rfl) (fun t r ht =>
    (ht.pickTarget.shadowTarget (n := (t.pickTarget r.failed).2) (us := r.units)).congr rfl rfl rfl rfl rfl)

theorem ShadowsOnly.rerun (h : ShadowsOnly a s) {us : List Nat} : ShadowsOnly a (s.rerun e us) := by
  unfold State.rerun
  split
  · exact h
  · split
    · exact h.assignShadow
    · split
      · exact h.assignShadow
      · exact h

/-! ### Retirement -/

/-- An engine retired (R312): its contexts gone, its fault entered into the fault map. -/
structure Retired (t : State) (e : Nat) : Prop where
  state : (t.engine e).state = .retired
  permanent : (t.engine e).permanent = true
  live : (t.engine e).live = none
  marked : t.marked 1 e = true

theorem Retired.then (h : Retired s e) (k : ShadowsOnly s t) : Retired t e where
  state := (k.state e).trans h.state
  permanent := (k.permanent e).trans h.permanent
  live := (k.live e).trans h.live
  marked := k.marked 1 e h.marked

theorem State.retireEng_eq (h : (s.engine e).state ≠ .retired) :
    s.retireEng e = (((s.onEngine e Engine.retire).markRetired 1 e).onBook e (fun b => { b with running := false, due := false })).slotLost e := by
  unfold State.retireEng
  split
  · next hs => exact absurd hs h
  · rfl

theorem State.retireEng_engines (h : (s.engine e).state ≠ .retired) : (s.retireEng e).engines = (s.onEngine e Engine.retire).engines := by
  rw [State.retireEng_eq h]
  have k : Only [.regs, .slot, .place, .safety, .host, .keeper, .out] (s.onEngine e Engine.retire)
      ((((s.onEngine e Engine.retire).markRetired 1 e).onBook e (fun b => { b with running := false, due := false })).slotLost e) :=
    State.slotLost_only (State.onBook_only (State.markRetired_only (.refl _ _) rfl) rfl) rfl
  exact k .engines rfl

/-- Stopping the radish of an engine. -/
theorem FaultRun.onBook {f : RadishBook → RadishBook} (hf : ∀ b, (f b).running = false) : FaultRun s (s.onBook e f) := by
  refine ⟨id, fun _ _ _ => rfl, fun _ _ h => h, fun n hn => ?_, fun _ => ⟨rfl, rfl⟩⟩
  by_cases hne : n = e
  · subst hne
    by_cases hl : n < s.place.books.length
    · rw [State.book_onBook_same hl, hf] at hn
      exact absurd hn (by decide)
    · rw [State.book, lgetD_of_le (by simpa [State.onBook] using hl)] at hn
      exact absurd hn (by decide)
  · rwa [State.book_onBook_ne hne] at hn

theorem FaultRun.retireEng (h : (s.engine e).state ≠ .retired) : FaultRun s (s.retireEng e) := by
  rw [State.retireEng_eq h]
  have h1 : FaultRun s (s.onEngine e Engine.retire) := .onEngine (fun _ => rfl) (fun _ => rfl)
  exact ((h1.trans (ShadowsOnly.refl _).markRetired.toFaultRun).trans (.onBook fun _ => rfl)).trans (ShadowsOnly.refl _).slotLost.toFaultRun

theorem State.retireEng_retires (he : e < s.engines.length) (h : (s.engine e).state ≠ .retired) : Retired (s.retireEng e) e := by
  have hg : (s.retireEng e).engine e = (s.engine e).retire := (State.engine_congr (State.retireEng_engines h)).trans (State.engine_onEngine_same he)
  refine ⟨by rw [hg]; rfl, by rw [hg]; rfl, by rw [hg]; rfl, ?_⟩
  rw [State.retireEng_eq h]
  exact (ShadowsOnly.refl _).slotLost.marked 1 e (State.markRetired_marked _ 1 e)

/-! ### A permanent fault (R317, R472) -/

/-- A permanent fault keeps the record of events; the engine is declared, and by a hard failure or without a live context it is retired. -/
theorem State.engPermanent_declares {e : Fin 20} {c : Nat} {hard : Bool} (hu : s.Units) (hp : (s.engine e).permanent = false)
    (hs : (s.engine e).state ≠ .retired) :
    FaultRun s (s.engPermanent e c hard) ∧ ((s.engPermanent e c hard).engine e).permanent = true ∧
      (hard = true ∨ (s.engine e).state ≠ .live → Retired (s.engPermanent e c hard) e) := by
  unfold State.engPermanent
  extract_lets g s0
  rw [if_neg (by simp [g, hp, hs])]
  have hk : ShadowsOnly (s.onEngine e (fun g => { g with permanent := true })) s0 := (ShadowsOnly.refl _).cancelMigrations
  have hset : FaultRun s (s.onEngine e (fun g => { g with permanent := true })) := .onEngine (fun _ => rfl) (fun _ => rfl)
  have hrun : FaultRun s s0 := hset.trans hk.toFaultRun
  have hst : (s0.engine e).state ≠ .retired := by rw [hk.state, State.engine_onEngine_same (hu.engine_lt e)]; exact hs
  have hperm : (s0.engine e).permanent = true := by rw [hk.permanent, State.engine_onEngine_same (hu.engine_lt e)]
  have hu0 : s0.Units := (State.cancelMigrations_keeps (State.onEngine_keeps (.refl s))).shape.trans hu
  have hret : Retired (s0.retireEng e) e := State.retireEng_retires (hu0.engine_lt e) hst
  have hrr : FaultRun s (s0.retireEng e) := hrun.trans (FaultRun.retireEng hst)
  split
  · next x hx hl =>
    have hw (v : State) : ShadowsOnly v (((v.replace e x.units hard).1.declare 1 e c (v.replace e x.units hard).2 hard).retarget e) :=
      (ShadowsOnly.refl v).replace.declare.retarget
    cases hard with
    | true => exact ⟨hrr.trans (hw _).toFaultRun, ((hw _).permanent e).trans hret.permanent, fun _ => hret.then (hw _)⟩
    | false => exact ⟨hrun.trans (hw _).toFaultRun, ((hw _).permanent e).trans hperm, fun k => absurd (of_decide_eq_true hl) (k.resolve_left (by decide))⟩
  · have hw : ShadowsOnly (s0.retireEng e) (((s0.retireEng e).declare 1 e c none hard).retarget e) := (ShadowsOnly.refl _).declare.retarget
    exact ⟨hrr.trans hw.toFaultRun, (hw.permanent e).trans hret.permanent, fun _ => hret.then hw⟩

/-- A hard failure retires an engine that is not retired (R315, R472). -/
theorem State.engHard_retires {e : Fin 20} {c : Nat} (hu : s.Units) (hs : (s.engine e).state ≠ .retired) : Retired (s.engHard e c) e := by
  unfold State.engHard
  extract_lets g s1
  have hg : s1.engine e = { s.engine e with lastCause := c } := State.engine_onEngine_same (hu.engine_lt e)
  split
  · exact State.retireEng_retires (hu.engine_lt e) hs
  · next hn =>
    have hp : (s.engine e).permanent = false := by simpa using fun k => hn (.inr k)
    have hu1 : (s1.raiseAt Reg.FAULT_EVENTS Reg.FAULT_EVENT_EN 14 (2 ^ e.val)).Units :=
      (State.raiseAt_keeps (State.onEngine_keeps (.refl s))).shape.trans hu
    have hr (n : Nat) : (s1.raiseAt Reg.FAULT_EVENTS Reg.FAULT_EVENT_EN 14 (2 ^ e.val)).engine n = s1.engine n :=
      State.raiseAt_fr.engines_same rfl n
    exact (State.engPermanent_declares hu1 (by rw [hr, hg]; exact hp) (by rw [hr, hg]; exact hs)).2.2 (.inl rfl)

/-! ### An engine event (R316, R317) -/

/-- Engine `e` with an event of cause `c`: its passes withheld, its events `ev`. -/
def State.struck (s : State) (e c : Nat) (ev : List Nat) : State :=
  s.onEngine e (fun g => { withhold g with lastCause := c, events := ev })

/-- The event noted: the engine and its bit of FAULT_EVENTS. -/
def State.eventNoted (s : State) (e c : Nat) (ev : List Nat) : State :=
  (s.struck e c ev).raiseAt Reg.FAULT_EVENTS Reg.FAULT_EVENT_EN 14 (2 ^ e)

section
variable {c : Nat} {ev : List Nat}

theorem State.engine_eventNoted (he : e < s.engines.length) :
    (s.eventNoted e c ev).engine e = { withhold (s.engine e) with lastCause := c, events := ev } :=
  (State.raiseAt_fr.engines_same rfl e).trans (State.engine_onEngine_same he)

theorem State.rget_eventNoted (h : regsWf s.regs = true) {p : Nat} :
    (s.eventNoted e c ev).rget p = if p = Reg.FAULT_EVENTS then s.rget p ||| nw (2 ^ e) else s.rget p := by
  rw [State.eventNoted, State.rget_congr State.raiseAt_regs, State.rget_rset (s := s.struck e c ev) h]
  split
  · next hp => rw [hp]; rfl
  · rfl

theorem State.wf_eventNoted (h : regsWf s.regs = true) : regsWf (s.eventNoted e c ev).regs = true := by
  rw [State.eventNoted, State.raiseAt_regs]
  exact State.wf_rset h

theorem State.book_eventNoted (n : Nat) : (s.eventNoted e c ev).book n = s.book n := by
  have k : Only [.regs, .engines, .host, .out] s (s.eventNoted e c ev) := State.raiseAt_only (State.onEngine_only (.refl _ s) rfl) rfl
  rw [State.book, State.book, k .place rfl]

end

/-- The frames of an engine's events once it has one more (R317): a declared engine counts none. -/
def State.nextEvents (s : State) (e : Nat) : List Nat := if (s.engine e).permanent then s.engWindow e else s.tl.frames :: s.engWindow e

/-- From the event noted in `u` to `v` a fault is handled: within the limit of the window only shadow contexts move, beyond it the engine is
declared. -/
structure EventHandled (s : State) (e : Nat) (u v : State) : Prop where
  run : FaultRun u v
  within : (s.engine e).permanent = false → (s.nextEvents e).length ≤ s.rbits Reg.FAULT_WINDOW 23 16 → ShadowsOnly u v
  beyond : (s.engine e).permanent = false → s.rbits Reg.FAULT_WINDOW 23 16 < (s.nextEvents e).length → (v.engine e).permanent = true

theorem EventHandled.then {v w : State} (h : EventHandled s e u v) (k : ShadowsOnly v w) : EventHandled s e u w where
  run := h.run.trans k.toFaultRun
  within hp hle := (h.within hp hle).trans k
  beyond hp hlt := (k.permanent e).trans (h.beyond hp hlt)

/-- An event is noted and handled, and counts in RECOMPUTES where a pass ran. -/
theorem State.engEvent_outcome {e : Fin 20} {c : Nat} (hu : s.Units) (hs : (s.engine e).state ≠ .retired) (ho : (s.engine e).state ≠ .off) :
    ∃ v, EventHandled s e (s.eventNoted e c (s.nextEvents e)) v ∧ (s.engEvent e c = v ∨ s.engEvent e c = v.bump (Reg.RECOMPUTES e)) := by
  unfold State.engEvent
  extract_lets g ev s1 s2 s3 s4
  rw [if_neg (by simp [g, hs, ho])]
  have h3 : ShadowsOnly (s.eventNoted e c (s.nextEvents e)) s3 := (ShadowsOnly.refl (s.eventNoted e c (s.nextEvents e))).logRec.cancelMigrations
  have hg := State.engine_eventNoted (s := s) (c := c) (ev := s.nextEvents e) (hu.engine_lt e)
  have hu3 : s3.Units :=
    (State.cancelMigrations_keeps (State.logRec_keeps (State.raiseAt_keeps (State.onEngine_keeps (.refl s))))).shape.trans hu
  have h4 : EventHandled s e (s.eventNoted e c (s.nextEvents e)) s4 := by
    show EventHandled s e _ (if _ then _ else _)
    split
    · next hc =>
      obtain ⟨hrun, hperm, -⟩ := State.engPermanent_declares (c := c) (hard := false) hu3 (by rw [h3.permanent, hg]; exact Bool.eq_false_iff.mpr hc.1)
        (by rw [h3.state, hg]; exact hs)
      exact ⟨h3.toFaultRun.trans hrun, fun _ hle => absurd hc.2 (Nat.not_lt.mpr hle), fun _ _ => hperm⟩
    · next hc => exact ⟨h3.toFaultRun, fun _ _ => h3, fun hp hlt => absurd ⟨by simp [g, hp], hlt⟩ hc⟩
  split
  · exact ⟨_, h4.then (ShadowsOnly.refl s4).rerun, .inr rfl⟩
  · exact ⟨s4, h4, .inl rfl⟩

section
variable {e : Fin 20} {c : Nat} (hu : s.Units) (hs : (s.engine e).state ≠ .retired) (ho : (s.engine e).state ≠ .off)
include hu hs ho

theorem State.engEvent_record : ((s.engEvent e c).engine e).events = s.nextEvents e ∧ ((s.engEvent e c).engine e).lastCause = c := by
  obtain ⟨v, ⟨hrun, -, -⟩, heq⟩ := State.engEvent_outcome (c := c) hu hs ho
  have hv : (s.engEvent e c).engine e = v.engine e := by
    rcases heq with heq | heq
    · rw [heq]
    · rw [heq]; rfl
  rw [hv, (hrun.record e).1, (hrun.record e).2, State.engine_eventNoted (hu.engine_lt e)]
  exact ⟨rfl, rfl⟩

theorem State.engEvent_book_stopped {n : Nat} (hb : (s.book n).running = false) : ((s.engEvent e c).book n).running = false := by
  obtain ⟨v, ⟨hrun, -, -⟩, heq⟩ := State.engEvent_outcome (c := c) hu hs ho
  have hv := hrun.book_stopped (m := n) (by rw [State.book_eventNoted]; exact hb)
  rcases heq with heq | heq
  · rw [heq]; exact hv
  · rw [heq]; exact hv

/-- The registers that neither note the event nor belong to its handling. -/
theorem State.engEvent_rget (hw : regsWf s.regs = true) {p : Nat} (hf : p ∉ faultRegs) (hr : p ≠ Reg.RECOMPUTES e) :
    (s.engEvent e c).rget p = (s.eventNoted e c (s.nextEvents e)).rget p := by
  obtain ⟨v, ⟨hrun, -, -⟩, heq⟩ := State.engEvent_outcome (c := c) hu hs ho
  have hw1 := State.wf_eventNoted (e := e) (c := c) (ev := s.nextEvents e) hw
  rcases heq with heq | heq
  · rw [heq, hrun.regs hw1 p hf]
  · rw [heq, State.rget_bump (hrun.wf hw1), if_neg hr, hrun.regs hw1 p hf]

theorem State.engEvent_faultBit (hw : regsWf s.regs = true) : (s.engEvent e c).rbit Reg.FAULT_EVENTS e = true := by
  have hr : Reg.FAULT_EVENTS ≠ Reg.RECOMPUTES e := by simp only [Reg.FAULT_EVENTS, Reg.RECOMPUTES]; omega
  rw [State.rbit, State.engEvent_rget hu hs ho hw (by decide) hr, State.rget_eventNoted hw, if_pos rfl, wbit_or_two (by omega)]
  simp

end

/-- An event of an engine not declared, by the count of its window (R316, R317). -/
theorem State.engEvent_counts {e : Fin 20} {c : Nat} (hu : s.Units) (hw : regsWf s.regs = true) (hs : (s.engine e).state ≠ .retired)
    (ho : (s.engine e).state ≠ .off) (hp : (s.engine e).permanent = false) :
    ((s.engEvent e c).engine e).lastCause = c ∧ (s.engEvent e c).rbit Reg.FAULT_EVENTS e = true ∧
      ((s.engEvent e c).engine e).events = s.tl.frames :: (s.engine e).events.filter (fun f => decide (s.tl.frames < f + s.rbits Reg.FAULT_WINDOW 15 0)) ∧
      (((s.engEvent e c).engine e).events.length ≤ s.rbits Reg.FAULT_WINDOW 23 16 → ((s.engEvent e c).engine e).state = (s.engine e).state ∧
        ((s.engEvent e c).engine e).permanent = false ∧
        ((s.engEvent e c).engine e).live = (s.engine e).live.map (fun x => if x.passRunning then { x with withheld := true } else x)) ∧
      (s.rbits Reg.FAULT_WINDOW 23 16 < ((s.engEvent e c).engine e).events.length → ((s.engEvent e c).engine e).permanent = true) := by
  obtain ⟨hev, hcause⟩ := State.engEvent_record (c := c) hu hs ho
  obtain ⟨v, hv, heq⟩ := State.engEvent_outcome (c := c) hu hs ho
  have hve : (s.engEvent e c).engine e = v.engine e := by
    rcases heq with heq | heq
    · rw [heq]
    · rw [heq]; rfl
  have hn : s.nextEvents e = s.tl.frames :: s.engWindow e := if_neg (Bool.eq_false_iff.mp hp)
  refine ⟨hcause, State.engEvent_faultBit hu hs ho hw, hev.trans hn, fun hle => ?_, fun hlt => ?_⟩
  · have k := hv.within hp (hev ▸ hle)
    rw [hve, k.state, k.permanent, k.live, State.engine_eventNoted (hu.engine_lt e)]
    exact ⟨rfl, hp, rfl⟩
  · rw [hve]
    exact hv.beyond hp (hev ▸ hlt)

/-! ### The state machine of an engine (R312) -/

section
variable {x : EngCtx}

theorem State.engIgnored_engines {n : Nat} : (s.engIgnored e n).engines = s.engines :=
  State.engIgnored_only (l := [.regs, .safety]) (.refl _ s) rfl .engines rfl

/-- ASSIGN_SHADOW in the states that list it. -/
theorem State.assignShadow_eq {k : ShadowKind} {us : List Nat} {ds : List (Nat × DescReg)} (h : (s.engine e).state = .spare ∨ (s.engine e).state = .live) :
    s.assignShadow e k us ds = s.onEngine e (fun g => { g with
      shadow := some (loadCtx (s.imageFor k) us ds), shadowKind := k, shadowWhole := false, shadowDone := false, lastIssue := s.tl.beats }) := by
  unfold State.assignShadow
  rcases h with h | h
  · rw [h]
  · rw [h]

theorem State.assignShadow_ignored {k : ShadowKind} {us : List Nat} {ds : List (Nat × DescReg)} (hs : (s.engine e).state ≠ .spare)
    (hl : (s.engine e).state ≠ .live) : s.assignShadow e k us ds = s.engIgnored e 1 := by
  unfold State.assignShadow
  split
  · next h => exact absurd h hs
  · next h => exact absurd h hl
  · rfl

/-- SWITCH with a shadow in the states that list it. -/
theorem State.switchEng_eq (h : (s.engine e).state = .spare ∨ (s.engine e).state = .live) (hx : (s.engine e).shadow = some x) :
    s.switchEng e = s.onEngine e (fun g => { g with
      state := .live, live := some x, shadow := none, shadowKind := .none, shadowWhole := false, shadowDone := false, bankA := {}, bankB := {}, lastIssue := s.tl.beats }) := by
  unfold State.switchEng
  rcases h with h | h
  · simp only [h, hx]
  · simp only [h, hx]

theorem State.switchEng_ignored (h : (s.engine e).shadow = none ∨ ((s.engine e).state ≠ .spare ∧ (s.engine e).state ≠ .live)) :
    s.switchEng e = s.engIgnored e 2 := by
  unfold State.switchEng
  dsimp only
  split
  · next hs hx => exact absurd h (by simp [hs, hx])
  · next hs hx => exact absurd h (by simp [hs, hx])
  · rfl

theorem State.releaseEng_eq (h : (s.engine e).state = .live) : s.releaseEng e = s.onEngine e (fun g => { dropLive g with state := .spare }) := by
  unfold State.releaseEng
  rw [h]

theorem State.releaseEng_ignored (h : (s.engine e).state ≠ .live) : s.releaseEng e = s.engIgnored e 3 := by
  unfold State.releaseEng
  split
  · next hl => exact absurd hl h
  · rfl

/-- RADISH in SPARE: the engine and its book, before RADISH_FRAME and RADISHES_ISSUED are written. -/
def State.radishBegun (s : State) (e inst : Nat) : State :=
  (s.onEngine e (fun g => { g with state := .radish, radish := some {}, lastIssue := s.tl.beats })).onBook e
    (fun b => { b with running := true, inst := inst, passed := false, issuedAt := s.tl.frames })

theorem State.radishEng_eq {i : Nat} (h : (s.engine e).state = .spare) :
    s.radishEng e i = ((s.radishBegun e i).setPair (Reg.RADISH_FRAME_LO e) (Reg.RADISH_FRAME_HI e) s.frame).bump Reg.RADISHES_ISSUED := by
  unfold State.radishEng
  rw [h]
  rfl

theorem State.radishEng_ignored {i : Nat} (h : (s.engine e).state ≠ .spare) : s.radishEng e i = s.engIgnored e 4 := by
  unfold State.radishEng
  split
  · next hs => exact absurd hs h
  · rfl

theorem State.retireEng_ignored (h : (s.engine e).state = .retired) : s.retireEng e = s.engIgnored e 5 := by
  unfold State.retireEng
  rw [h]

/-- The coverage bit follows the debts; books and engines stay. -/
theorem State.updateCoverage_books : s.updateCoverage.place.books = s.place.books := by
  unfold State.updateCoverage
  extract_lets c s1
  split
  · rw [State.raise_place]
  · rfl

theorem State.updateCoverage_engines : s.updateCoverage.engines = s.engines :=
  State.updateCoverage_only (l := [.regs, .place, .host, .out]) (.refl _ s) rfl .engines rfl

/-- RADISH of a SPARE engine (R312, R477). -/
theorem State.radishEng_runs {e : Fin 20} (hu : s.Units) (hm : s.MemOk) {i : Nat} (h : (s.engine e).state = .spare) :
    ((s.radishEng e i).engine e).state = .radish ∧ ((s.radishEng e i).book e).running = true ∧ ((s.radishEng e i).book e).inst = i ∧
      ((s.radishEng e i).book e).issuedAt = s.tl.frames ∧ (s.radishEng e i).rget Reg.RADISHES_ISSUED = satAdd32 (s.rget Reg.RADISHES_ISSUED) 1 ∧
      ∀ n : Fin 20, n ≠ e → (s.radishEng e i).engine n = s.engine n ∧ (s.radishEng e i).book n = s.book n := by
  rw [State.radishEng_eq h]
  have k : Only [.regs] (s.radishBegun e i) (((s.radishBegun e i).setPair (Reg.RADISH_FRAME_LO e) (Reg.RADISH_FRAME_HI e) s.frame).bump Reg.RADISHES_ISSUED) :=
    State.bump_only State.setPair_fr rfl
  have hb (n : Nat) : (((s.radishBegun e i).setPair (Reg.RADISH_FRAME_LO e) (Reg.RADISH_FRAME_HI e) s.frame).bump Reg.RADISHES_ISSUED).book n =
      (s.radishBegun e i).book n := by rw [State.book, State.book, k .place rfl]
  have hbe : (s.radishBegun e i).book e = { s.book e with running := true, inst := i, passed := false, issuedAt := s.tl.frames } :=
    State.book_onBook_same (by rw [show (s.onEngine e _).place = s.place from rfl, hu.books]; exact e.isLt)
  have hge : (s.radishBegun e i).engine e = { s.engine e with state := .radish, radish := some {}, lastIssue := s.tl.beats } :=
    State.engine_onEngine_same (hu.engine_lt e)
  have hlo : Reg.RADISHES_ISSUED ≠ Reg.RADISH_FRAME_LO e := by simp only [Reg.RADISHES_ISSUED, Reg.RADISH_FRAME_LO]; omega
  have hhi : Reg.RADISHES_ISSUED ≠ Reg.RADISH_FRAME_HI e := by simp only [Reg.RADISHES_ISSUED, Reg.RADISH_FRAME_HI]; omega
  have hw : regsWf (s.radishBegun e i).regs = true := hm.1
  refine ⟨?_, ?_, ?_, ?_, ?_, fun n hn => ⟨?_, ?_⟩⟩
  · rw [k.engines_same rfl, hge]
  · rw [hb, hbe]
  · rw [hb, hbe]
  · rw [hb, hbe]
  · rw [State.rget_bump (State.wf_setPair hw), if_pos rfl, State.rget_setPair hw, if_neg hhi, if_neg hlo]
    rfl
  · rw [k.engines_same rfl]
    exact State.engine_onEngine_ne (fun j => hn (Fin.ext j))
  · rw [hb]
    exact State.book_onBook_ne (s := s.onEngine e _) (fun j => hn (Fin.ext j))

/-- The radish of an engine ended: the engine SPARE again, its book stopped. -/
def State.radishStopped (s : State) (e : Nat) (ok : Bool) : State :=
  (s.onEngine e (fun g => { g with state := .spare, radish := none })).onBook e (fun b => { b with running := false, passed := ok })

theorem State.engine_radishStopped {ok : Bool} (h : e < s.engines.length) :
    (s.radishStopped e ok).engine e = { s.engine e with state := .spare, radish := none } := State.engine_onEngine_same h

theorem State.book_radishStopped {ok : Bool} (h : e < s.place.books.length) :
    (s.radishStopped e ok).book e = { s.book e with running := false, passed := ok } := State.book_onBook_same (s := s.onEngine e _) h

theorem State.Units.radishStopped {ok : Bool} (h : s.Units) : (s.radishStopped e ok).Units :=
  (State.onBook_keeps (State.onEngine_keeps (.refl s))).shape.trans h

/-- A matching answer (R312, R478). -/
theorem State.radishEnd_passed {e : Fin 20} (hu : s.Units) :
    ((s.radishEnd e true).engine e).state = .spare ∧ ((s.radishEnd e true).engine e).radish = none ∧ ((s.radishEnd e true).book e).running = false ∧
      ((s.radishEnd e true).book e).debt = 0 ∧ ((s.radishEnd e true).book e).suspect = false ∧
      ∀ n : Fin 20, n ≠ e → (s.radishEnd e true).engine n = s.engine n := by
  have heq : s.radishEnd e true = ((s.radishStopped e true).onBook e (fun b => { b with answered := true, debt := 0, suspect := false })).updateCoverage := rfl
  have hu1 : (s.radishStopped e true).Units := hu.radishStopped
  have hb : (s.radishEnd e true).book e = { s.book e with running := false, passed := true, answered := true, debt := 0, suspect := false } := by
    rw [heq, State.book, State.updateCoverage_books]
    refine (State.book_onBook_same (by rw [hu1.books]; exact e.isLt)).trans ?_
    rw [State.book_radishStopped (by rw [hu.books]; exact e.isLt)]
  have hg (n : Nat) : (s.radishEnd e true).engine n = (s.radishStopped e true).engine n := by rw [heq, State.engine_congr State.updateCoverage_engines]; rfl
  rw [hg, hb, State.engine_radishStopped (hu.engine_lt e)]
  refine ⟨rfl, rfl, rfl, rfl, rfl, fun n hn => ?_⟩
  rw [hg]
  exact State.engine_onEngine_ne (fun j => hn (Fin.ext j))

/-- A mismatch, or an answer that did not come (R477, R478). -/
theorem State.radishEnd_failed {e : Fin 20} (hu : s.Units) (hm : s.MemOk) :
    ((s.radishEnd e false).book e).running = false ∧ ((s.radishEnd e false).book e).suspect = true ∧
      (s.radishEnd e false).rget Reg.RADISH_MISMATCHES = satAdd32 (s.rget Reg.RADISH_MISMATCHES) 1 ∧ ((s.radishEnd e false).engine e).lastCause = 5 := by
  have hu1 : (s.radishStopped e false).Units := hu.radishStopped
  have hw1 : regsWf (s.radishStopped e false).regs = true := hm.1
  set v := ((s.radishStopped e false).bump Reg.RADISH_MISMATCHES).raise Reg.PLACE_EVENTS 8 with hv
  have k : Only [.regs, .host, .out] (s.radishStopped e false) v := State.raise_only (State.bump_only (.refl _ _) rfl) rfl
  have huv : v.Units := (State.raise_keeps (State.bump_keeps (.refl _))).shape.trans hu1
  have hst : (v.engine e).state = .spare := by rw [k.engines_same rfl, State.engine_radishStopped (hu.engine_lt e)]
  have hrun : (v.book e).running = false := by
    rw [State.book, k .place rfl]
    exact congrArg RadishBook.running (State.book_radishStopped (by rw [hu.books]; exact e.isLt))
  have hwv : regsWf v.regs = true := State.wf_raise (State.wf_bump hw1)
  have hcount : v.rget Reg.RADISH_MISMATCHES = satAdd32 (s.rget Reg.RADISH_MISMATCHES) 1 := by
    rw [hv, State.rget_raise (State.wf_bump hw1), if_neg (by decide), State.rget_bump hw1, if_pos rfl]
    rfl
  have hr : (v.engine e).state ≠ .retired := by rw [hst]; decide
  have ho : (v.engine e).state ≠ .off := by rw [hst]; decide
  have hlen : e.val < (v.engEvent e 5).place.books.length := by
    rw [State.Units.books ((State.engEvent_keeps (.refl v)).shape.trans huv)]
    exact e.isLt
  have hne : Reg.RADISH_MISMATCHES ≠ Reg.RECOMPUTES e := by simp only [Reg.RADISH_MISMATCHES, Reg.RECOMPUTES]; omega
  have hb : (s.radishEnd e false).book e =
      { (v.engEvent e 5).book e with suspect := true, due := decide (((v.engEvent e 5).engine e).state ≠ .retired) } := State.book_onBook_same hlen
  rw [hb]
  refine ⟨State.engEvent_book_stopped huv hr ho hrun, rfl, ?_, (State.engEvent_record huv hr ho).2⟩
  show (v.engEvent e 5).rget Reg.RADISH_MISMATCHES = _
  rw [State.engEvent_rget huv hr ho hwv (by decide) hne, State.rget_eventNoted hwv, if_neg (by decide), hcount]

end

end

/-- ASSIGN_SHADOW reports the descriptors that it refuses and loads the others. -/
theorem exec_engAssignShadow_loads {e : Fin 20} {s : State} {l : CtxLoad} (h : ¬ (¬ s.up ∨ s.hold ∨ s.saved)) :
    ∃ s1 ds, Only [.regs, .safety, .host, .out] s s1 ∧ exec (.engAssignShadow e l) s = .next (s1.assignShadow e l.kind l.units ds) :=
  ⟨_, _, Only.foldl (.refl _ s) (fun _ _ k => State.descRefused_only k rfl), if_neg h⟩

/-- ASSIGN_SHADOW without descriptors loads the units named. -/
theorem exec_engAssignShadow_bare {e : Fin 20} {s : State} {l : CtxLoad} (hup : s.up) (hh : ¬ s.hold) (hs : ¬ s.saved) (hd : l.descs = []) :
    exec (.engAssignShadow e l) s = .next (s.assignShadow e l.kind l.units []) := by
  show execEngAssignShadow e l s = _
  unfold execEngAssignShadow
  rw [if_neg (by simp [hup, hh, hs]), hd]
  rfl

/-- Settles O41: each command by the states that R312 lists, and the two ends of a radish. -/
theorem engineStatesFollowTheirCommands : Obligations.EngineStatesFollowTheirCommands := by
  intro e s hu hm
  have hl := hu.engine_lt e
  refine ⟨fun l hup hh hs hd hst => ?_, fun l h => if_pos h, fun l hns hnl => ?_, fun x hup hs hst hx => ?_, fun h => ?_, fun hup hs hst => ?_, fun h => ?_,
    fun i hup hs hst => ?_, fun i h => ?_, fun hup hs hst => ?_, fun h => ?_, fun h => ?_, fun h => ?_, fun ok h => if_pos h, fun h => ?_, fun h => ?_,
    fun ok h => if_neg h, fun h hlt => ?_, fun h => ?_⟩
  · refine ⟨_, loadCtx (s.imageFor l.kind) l.units [], exec_engAssignShadow_bare hup hh hs hd, ?_⟩
    rw [State.assignShadow_eq hst, State.engine_onEngine_same hl]
    exact ⟨rfl, rfl, rfl, rfl, rfl, fun n hn => State.engine_onEngine_ne (fun j => hn (Fin.ext j))⟩
  · by_cases hg : ¬ s.up ∨ s.hold ∨ s.saved
    · exact ⟨s, if_pos hg, rfl⟩
    · obtain ⟨s1, ds, k, heq⟩ := exec_engAssignShadow_loads (e := e) (l := l) hg
      have hg1 : s1.engine e = s.engine e := k.engines_same rfl e
      refine ⟨_, heq, ?_⟩
      rw [State.assignShadow_ignored (by rw [hg1]; exact hns) (by rw [hg1]; exact hnl), State.engIgnored_engines]
      exact k .engines rfl
  · refine ⟨_, if_pos ⟨hup, hs⟩, ?_⟩
    rw [State.switchEng_eq hst hx, State.engine_onEngine_same hl]
    exact ⟨rfl, rfl, rfl, fun n hn => State.engine_onEngine_ne (fun j => hn (Fin.ext j)), State.onEngine_only (.refl _ s) rfl⟩
  · by_cases hg : s.up ∧ ¬ s.saved
    · exact ⟨_, if_pos hg, by rw [State.switchEng_ignored h, State.engIgnored_engines]⟩
    · exact ⟨s, if_neg hg, rfl⟩
  · refine ⟨_, if_pos ⟨hup, hs⟩, ?_⟩
    rw [State.releaseEng_eq hst, State.engine_onEngine_same hl]
    exact ⟨rfl, rfl, rfl, fun n hn => State.engine_onEngine_ne (fun j => hn (Fin.ext j)), State.onEngine_only (.refl _ s) rfl⟩
  · by_cases hg : s.up ∧ ¬ s.saved
    · exact ⟨_, if_pos hg, by rw [State.releaseEng_ignored h, State.engIgnored_engines]⟩
    · exact ⟨s, if_neg hg, rfl⟩
  · exact ⟨_, if_pos ⟨hup, hs⟩, State.radishEng_runs hu hm hst⟩
  · by_cases hg : s.up ∧ ¬ s.saved
    · refine ⟨_, if_pos hg, ?_⟩
      have k : Only [.regs, .safety] s (s.engIgnored e 4) := State.engIgnored_only (.refl _ s) rfl
      rw [State.radishEng_ignored h]
      exact ⟨k .engines rfl, k .place rfl⟩
    · exact ⟨s, if_neg hg, rfl, rfl⟩
  · have hret := State.retireEng_retires hl hst
    have hg (n : Nat) : (s.retireEng e).engine n = (s.onEngine e Engine.retire).engine n := State.engine_congr (State.retireEng_engines hst)
    refine ⟨_, if_pos ⟨hup, hs⟩, hret.state, hret.live, ?_, ?_, hret.marked, fun n hn => ?_⟩
    · rw [hg, State.engine_onEngine_same hl]; rfl
    · rw [hg, State.engine_onEngine_same hl]; rfl
    · rw [hg, State.engine_onEngine_ne (fun j => hn (Fin.ext j))]
  · by_cases hg : s.up ∧ ¬ s.saved
    · refine ⟨_, if_pos hg, ?_⟩
      have k : Only [.regs, .safety] s (s.engIgnored e 5) := State.engIgnored_only (.refl _ s) rfl
      rw [State.retireEng_ignored h]
      exact ⟨k .engines rfl, k .keeper rfl⟩
    · exact ⟨s, if_neg hg, rfl, rfl⟩
  · exact ⟨_, if_neg (not_not.mpr h), State.engine_onEngine_same hl, State.onEngine_only (.refl _ s) rfl⟩
  · have hret : Retired (s.engHard e 8) e := State.engHard_retires hu (by rw [h]; decide)
    exact ⟨_, if_neg (not_not.mpr h), hret.state, hret.marked⟩
  · exact ⟨_, if_pos h, State.radishEnd_passed hu⟩
  · exact ⟨_, if_pos h, State.radishEnd_failed hu hm⟩
  · exact (if_pos ⟨h, hlt⟩).trans (if_pos h).symm
  · refine if_neg fun k => ?_
    rcases h with h | h
    · exact h k.1
    · exact absurd k.2 (Nat.not_lt.mpr h)

/-- A context with a unit that has not reached HALT holds work of the frame. -/
theorem ctxOpen_some {x : EngCtx} (h : ∃ u ∈ x.units, u ∉ x.halts) : ctxOpen (some x) = true := by
  obtain ⟨u, hu, hn⟩ := h
  simp only [ctxOpen, EngCtx.done, Bool.not_eq_true', List.all_eq_false]
  exact ⟨u, hu, by simpa using hn⟩

/-- Settles O42: the event noted, then the fault handled; a context that hangs is a hard failure. -/
theorem engineEventsCountAndRetire : Obligations.EngineEventsCountAndRetire := by
  refine ⟨fun e cause s h => if_pos h, fun e cause s hu hm hup hc hr ho hp => ?_, fun e s x hu hup hh hs hx hopen hi hst => ?_, fun e s h => if_neg ?_⟩
  · have hgo : ¬ (¬ s.up ∨ cause = 0) := by simp [hup, hc]
    by_cases h2 : cause = 2
    · have hk : Only [.regs] s (s.bump (Reg.RESIDUE_ERRORS e)) := State.bump_fr
      have hg : (s.bump (Reg.RESIDUE_ERRORS e)).engine e = s.engine e := hk.engines_same rfl e
      have htl : (s.bump (Reg.RESIDUE_ERRORS e)).tl = s.tl := hk .tl rfl
      have hne : Reg.FAULT_WINDOW ≠ Reg.RESIDUE_ERRORS e := by simp only [Reg.FAULT_WINDOW, Reg.RESIDUE_ERRORS]; omega
      have hwin : (s.bump (Reg.RESIDUE_ERRORS e)).rget Reg.FAULT_WINDOW = s.rget Reg.FAULT_WINDOW := by rw [State.rget_bump hm.1, if_neg hne]
      have hev := State.engEvent_counts (s := s.bump (Reg.RESIDUE_ERRORS e)) (c := cause) ((State.bump_keeps (.refl s)).shape.trans hu) (State.wf_bump hm.1)
        (by rw [hg]; exact hr) (by rw [hg]; exact ho) (by rw [hg]; exact hp)
      simp only [State.rbits, hg, htl, hwin] at hev
      exact ⟨_, (if_neg hgo).trans (by rw [if_pos h2]), hev⟩
    · exact ⟨_, (if_neg hgo).trans (by rw [if_neg h2]), State.engEvent_counts hu hm.1 hr ho hp⟩
  · have hw : ctxOpen (s.engine e).live ∨ ctxOpen (s.engine e).shadow := hx.imp (fun h => by rw [h]; exact ctxOpen_some hopen) (fun h => by rw [h]; exact ctxOpen_some hopen)
    have hret : Retired (s.engHard e 7) e := State.engHard_retires hu hst
    exact ⟨_, if_pos ⟨hup, hh, hs, hw, hi⟩, hret.state, hret.live, hret.marked⟩
  · rintro ⟨hup, hh, hs, -, hi⟩
    rcases h with h | h | h | h
    · exact h hup
    · exact hh h
    · exact hs h
    · exact absurd hi (Nat.not_le.mpr h)

end Sys2Proof.Machine
end

section
/-! PROOFS. Operations of the tensor mover, from the queue of their channel to their completion (O45). -/

namespace Sys2Proof.Machine
open Sys2Proof

section
variable {s : State} {ch : Fin 32} {j : MoverJob} {rest : List MoverJob}

theorem State.Units.mover_lt (h : s.Units) (ch : Fin 32) : ch.val < s.movers.length := h.movers.symm ▸ ch.isLt

/-- The oldest operation of a channel taken from its queue. -/
def State.jobTaken (s : State) (ch : Nat) (j : MoverJob) (rest : List MoverJob) : State :=
  s.onMover ch (fun m => { m with queue := rest, lastOp := j.op.op })

theorem State.mover_jobTaken (hu : s.Units) :
    (s.jobTaken ch j rest).mover ch = { s.mover ch with queue := rest, lastOp := j.op.op } := State.mover_onMover_same (hu.mover_lt ch)

theorem State.mover_jobTaken_ne {d : Fin 32} (h : d ≠ ch) : (s.jobTaken ch j rest).mover d = s.mover d :=
  State.mover_onMover_ne (fun k => h (Fin.ext k))

/-- A channel that runs an operation, or whose queue is empty, starts none. -/
theorem exec_moverOpStart_busy (h : (s.mover ch).running.isSome ∨ (s.mover ch).queue = []) : exec (.moverOpStart ch none) s = .next s := by
  show execMoverOpStart ch none s = _
  unfold execMoverOpStart
  split
  · rfl
  · dsimp only
    split
    · next hr hq => exact absurd h (by simp [hr, hq])
    · rfl

/-- The oldest operation waits for its tokens (R280, R352). -/
theorem exec_moverOpStart_waits (hr : (s.mover ch).running = none) (hq : (s.mover ch).queue = j :: rest)
    (ht : (s.mover ch).tokens &&& j.op.wait ≠ j.op.wait) : exec (.moverOpStart ch none) s = .next s := by
  show execMoverOpStart ch none s = _
  unfold execMoverOpStart
  split
  · rfl
  · simp only [hr, hq]
    exact if_pos ht

/-- The oldest operation, its tokens set and no void descriptor named by a host: refused, or started (R352, R353). -/
theorem exec_moverOpStart_takes (hup : s.up) (hs : ¬ s.saved) (hr : (s.mover ch).running = none) (hq : (s.mover ch).queue = j :: rest)
    (ht : (s.mover ch).tokens &&& j.op.wait = j.op.wait) (hv : j.host = none ∨ s.namesVoid j.op = false) :
    exec (.moverOpStart ch none) s = .next (if s.opBad j.op then (s.jobTaken ch j rest).opRefused.jobCompletes j 8
      else (s.jobTaken ch j rest).onMover ch (fun m => { m with tokens := m.tokens &&& ~~~ j.op.wait, coalescer := [], running := some j })) := by
  have hn : ¬ (j.host.isSome ∧ (s.jobTaken ch j rest).namesVoid j.op) := by
    rintro ⟨h1, h2⟩
    rcases hv with hv | hv
    · exact absurd h1 (by simp [hv])
    · exact absurd (h2.symm.trans hv) (by decide)
  show execMoverOpStart ch none s = _
  unfold execMoverOpStart
  rw [if_neg (by simp [hup, hs])]
  simp only [hr, hq]
  refine (if_neg (not_not.mpr ht)).trans ((if_neg hn).trans ?_)
  exact (apply_ite Host.Outcome.next _ _ _).symm

theorem State.jobCompletes_graph {n : Nat} (h : j.host = none) : s.jobCompletes j n = s := by
  unfold State.jobCompletes
  rw [h]

/-- A refused operation is counted and reported (R353); channels, data and engines stay. -/
theorem State.opRefused_fr : Only [.regs, .host, .out] s s.opRefused := State.raise_only (State.bump_only (.refl _ s) rfl) rfl

theorem State.opRefused_counts (h : regsWf s.regs = true) :
    s.opRefused.rget Reg.OP_REFUSED = satAdd32 (s.rget Reg.OP_REFUSED) 1 ∧ s.opRefused.rbit Reg.MOVER_EVENTS 1 = true := by
  refine ⟨?_, ?_⟩
  · rw [State.opRefused, State.rget_raise (State.wf_bump h), if_neg (by decide), State.rget_bump h, if_pos rfl]
  · rw [State.opRefused, State.rbit_raise (State.wf_bump h) (by decide)]
    simp

/-- The counts of an operation that has ended (R352, R364). -/
def State.jobCounted (s : State) (ch : Nat) (j : MoverJob) : State :=
  let s1 := (s.onMover ch (fun m => { m with running := none })).bump (Reg.CHAN_OPS ch)
  if j.faulted then s1.bump (Reg.CHAN_FAULTED ch) else s1

theorem exec_moverOpComplete_done (hr : (s.mover ch).running = some j) (hd : j.done = true) (hh : j.host = none) :
    exec (.moverOpComplete ch) s = .next ((s.jobCounted ch j).chanSignal ch j.op.signal) := by
  show execMoverOpComplete ch s = _
  simp only [execMoverOpComplete, hr, hd, State.jobCompletes_graph hh]
  rfl

theorem State.jobCounted_fr {c : Nat} : Only [.regs] (s.onMover c (fun m => { m with running := none })) (s.jobCounted c j) := by
  unfold State.jobCounted
  dsimp only
  split
  · exact State.bump_only State.bump_fr rfl
  · exact State.bump_fr

theorem chanOps_ne_chanFaulted (c : Nat) : Reg.CHAN_OPS c ≠ Reg.CHAN_FAULTED c := by simp only [Reg.CHAN_OPS, Reg.CHAN_FAULTED]; omega

theorem State.rget_jobCounted {c : Nat} (h : regsWf s.regs = true) :
    (s.jobCounted c j).rget (Reg.CHAN_OPS c) = satAdd32 (s.rget (Reg.CHAN_OPS c)) 1 ∧
      (s.jobCounted c j).rget (Reg.CHAN_FAULTED c) =
        if j.faulted then satAdd32 (s.rget (Reg.CHAN_FAULTED c)) 1 else s.rget (Reg.CHAN_FAULTED c) := by
  have hw : regsWf (s.onMover c (fun m => { m with running := none })).regs = true := h
  have hne := chanOps_ne_chanFaulted c
  unfold State.jobCounted
  dsimp only
  split
  · rw [State.rget_bump (State.wf_bump hw), if_neg hne, State.rget_bump (State.wf_bump hw), if_pos rfl, State.rget_bump hw, if_pos rfl,
      State.rget_bump hw, if_neg hne.symm]
    exact ⟨rfl, rfl⟩
  · rw [State.rget_bump hw, if_pos rfl, State.rget_bump hw, if_neg hne.symm]
    exact ⟨rfl, rfl⟩

/-- The tokens of a finished operation reach contexts of engines alone. -/
theorem State.chanSignal_fr {c : Nat} {m : BitVec 32} : Only [.engines] s (s.chanSignal c m) := State.chanSignal_only (.refl _ s) rfl

theorem State.chanSignal_idle {c : Nat} {m : BitVec 32} (h : s.live = none) : s.chanSignal c m = s := by
  unfold State.chanSignal
  rw [h]

end

/-- Settles O45: an operation queues, waits, is refused or starts, and its completion is counted. -/
theorem moverStartsAndCompletes : Obligations.MoverStartsAndCompletes := by
  refine ⟨fun ch op s h => if_pos h, fun ch s h => exec_moverOpStart_busy h, fun ch op s h => ?_, fun ch op s hu hup hs hc hr => ?_,
    fun ch s j rest hr hq ht => exec_moverOpStart_waits hr hq ht, fun ch s j rest hu hup hs hr hq ht hb hv => ?_,
    fun ch s j rest hu hm hup hs hr hq ht hb hh => ?_, fun ch s h => ?_, fun ch s j hu hm hr hd hh => ?_⟩
  · show execMoverOpStart ch (some op) s = execMoverOpStart ch none s
    simp only [execMoverOpStart, if_neg (Nat.not_lt.mpr h)]
  · have hm := State.mover_onMover_same (f := fun m => { m with assigned := true, queue := m.queue ++ [{ op := op }] }) (hu.mover_lt ch)
    refine ⟨s.onMover ch (fun m => { m with assigned := true, queue := m.queue ++ [{ op := op }] }), ?_, by rw [hm], by rw [hm], by rw [hm],
      fun d hd => State.mover_onMover_ne (fun k => hd (Fin.ext k)), State.onMover_only (.refl _ s) rfl⟩
    show execMoverOpStart ch (some op) s = _
    unfold execMoverOpStart
    rw [if_neg (by simp [hup, hs])]
    simp only [if_pos hc, hm]
    obtain ⟨x, hx⟩ := Option.isSome_iff_exists.mp hr
    rw [hx]
  · have hu1 : (s.jobTaken ch j rest).Units := (State.onMover_keeps (.refl s)).shape.trans hu
    have hm := State.mover_onMover_same (f := fun m => { m with tokens := m.tokens &&& ~~~ j.op.wait, coalescer := [], running := some j }) (hu1.mover_lt ch)
    rw [State.mover_jobTaken hu] at hm
    refine ⟨_, (exec_moverOpStart_takes hup hs hr hq ht hv).trans (congrArg Host.Outcome.next (if_neg (Bool.eq_false_iff.mp hb))), by rw [hm], by rw [hm], by rw [hm], by rw [hm],
      fun d hd => ?_, State.onMover_only (State.onMover_only (.refl _ s) rfl) rfl⟩
    rw [State.mover_onMover_ne (fun k => hd (Fin.ext k)), State.mover_jobTaken_ne hd]
  · have hk : Only [.regs, .host, .out] (s.jobTaken ch j rest) (s.jobTaken ch j rest).opRefused := State.opRefused_fr
    have hmv (d : Fin 32) : (s.jobTaken ch j rest).opRefused.mover d = (s.jobTaken ch j rest).mover d := State.mover_congr (hk .movers rfl)
    obtain ⟨hcount, hev⟩ := State.opRefused_counts (s := s.jobTaken ch j rest) hm.1
    refine ⟨_, (exec_moverOpStart_takes hup hs hr hq ht (.inl hh)).trans (congrArg Host.Outcome.next ((if_pos hb).trans (State.jobCompletes_graph hh))), ?_, ?_, ?_, hcount, hev,
      hk .data rfl, hk .engines rfl, fun d hd => by rw [hmv, State.mover_jobTaken_ne hd]⟩
    · rw [hmv, State.mover_jobTaken hu]; exact hr
    · rw [hmv, State.mover_jobTaken hu]
    · rw [hmv, State.mover_jobTaken hu]
  · show execMoverOpComplete ch s = _
    unfold execMoverOpComplete
    dsimp only
    split
    · rfl
    · next j hj => exact if_pos (by simp [h j hj])
  · have hsig : Only [.engines] (s.jobCounted ch j) ((s.jobCounted ch j).chanSignal ch j.op.signal) := State.chanSignal_fr
    have hend : Only [.regs, .engines] (s.onMover ch (fun m => { m with running := none })) ((s.jobCounted ch j).chanSignal ch j.op.signal) :=
      State.chanSignal_only (State.jobCounted_fr.mono (by decide)) rfl
    have hmv (d : Fin 32) := State.mover_congr (c := d.val) (hend .movers rfl)
    have hm1 := State.mover_onMover_same (f := fun m => { m with running := none }) (hu.mover_lt ch)
    have hrg (o : Nat) : ((s.jobCounted ch j).chanSignal ch j.op.signal).rget o = (s.jobCounted ch j).rget o := State.rget_congr (hsig .regs rfl) o
    obtain ⟨hops, hfaulted⟩ := State.rget_jobCounted (c := ch) (j := j) hm.1
    refine ⟨_, exec_moverOpComplete_done hr hd hh, by rw [hmv, hm1], by rw [hmv, hm1], by rw [hrg]; exact hops, by rw [hrg]; exact hfaulted,
      fun d hne => by rw [hmv, State.mover_onMover_ne (fun k => hne (Fin.ext k))], fun hl => ?_, ?_⟩
    · have hl1 : (s.jobCounted ch j).live = none := (State.jobCounted_fr (s := s) (c := ch) (j := j) .live rfl).trans hl
      rw [State.chanSignal_idle hl1]
      exact State.jobCounted_fr (s := s) (c := ch) (j := j) .engines rfl
    · exact (State.onMover_only (l := [.regs, .movers, .engines]) (.refl _ s) rfl).step hend rfl

end Sys2Proof.Machine
end

section
/-! PROOFS. Items of the command queues: what a completion leaves, then each command on the item in hand (O55). -/

namespace Sys2Proof.Machine
open Sys2Proof

section
variable {s t u : State}

/-! ### Host memory -/

theorem State.hread_congr (h : t.hostMem = s.hostMem) (p : Nat) : t.hread p = s.hread p := by rw [State.hread, State.hread, h]

theorem State.hread_hwrite_before {a p : Nat} (hp : p < a) (l : List Byte) : (s.hwrite a l).hread p = s.hread p := by
  induction l generalizing s a with
  | nil => rfl
  | cons x l ih =>
    refine (ih (Nat.lt_succ_of_lt hp)).trans ?_
    simp only [State.hread, mget_mset_ne _ _ _ (Nat.ne_of_lt hp)]

/-- Bytes written to host memory read back, in order. -/
theorem State.hread_hwrite {l : List Byte} {n : Nat} (hn : l.length = n) (a : Nat) :
    (List.range n).map (fun i => (s.hwrite a l).hread (a + i)) = l := by
  subst hn
  induction l generalizing s a with
  | nil => rfl
  | cons x l ih =>
    have hx : (s.hwrite a (x :: l)).hread a = x :=
      (State.hread_hwrite_before (Nat.lt_succ_self a) l).trans (by simp [State.hread])
    have htail := ih (s := { s with hostMem := mset s.hostMem a x }) (a + 1)
    simp only [Nat.add_right_comm] at htail
    rw [List.length_cons, List.range_succ_eq_map, List.map_cons, List.map_map]
    exact congrArg₂ List.cons hx htail

theorem State.hwrite_fr {a : Nat} {l : List Byte} : Only [.hostMem] s (s.hwrite a l) := State.hwrite_only (.refl _ s) rfl

theorem leBytes_length (n v : Nat) : (leBytes n v).length = n := by
  induction n generalizing v with
  | zero => rfl
  | succ n ih => exact congrArg Nat.succ (ih _)

/-! ### Host functions -/

theorem State.Units.fns (h : s.Units) : s.host.fns.length = 2 := congrArg (lgetD · 7 0) h

theorem State.Units.fn_lt (h : s.Units) (f : Fin 2) : f.val < s.host.fns.length := h.fns.symm ▸ f.isLt

theorem State.fn_congr (h : t.host.fns = s.host.fns) (g : Nat) : t.fn g = s.fn g := by rw [State.fn, State.fn, h]

theorem State.fn_onFn_same {f : Nat} {g : HostFn → HostFn} (h : f < s.host.fns.length) : (s.onFn f g).fn f = g (s.fn f) := lgetD_lmod_same _ _ _ _ h

/-- What `g` leaves of a function, it leaves of every function of the part. -/
theorem State.fn_onFn_of {f n : Nat} {g : HostFn → HostFn} {P : HostFn → HostFn → Prop} (hr : ∀ x, P x x) (hg : ∀ x, P x (g x)) :
    P (s.fn n) ((s.onFn f g).fn n) := by
  show P (lgetD s.host.fns n {}) (lgetD (lmod s.host.fns f g) n {})
  generalize s.host.fns = l
  induction l generalizing f n with
  | nil => exact hr _
  | cons x l ih =>
    cases f with
    | zero => cases n with
      | zero => exact hg x
      | succ n => exact hr _
    | succ f => cases n with
      | zero => exact hr x
      | succ n => exact ih

theorem State.fn_onTaken {f id : Nat} {g : TakenItem → TakenItem} (h : f < s.host.fns.length) :
    (s.onTaken f id g).fn f = { s.fn f with taken := (s.fn f).taken.map (fun x => if x.id = id then g x else x) } := State.fn_onFn_same h

/-! ### Messages -/

/-- Of HOST_QUEUES, nothing but pending bits of MSI-X vectors differs (R657). -/
structure Messaged (s t : State) : Prop where
  host : t.host = { s.host with fns := t.host.fns }
  fn : ∀ n, t.fn n = { s.fn n with msixPending := (t.fn n).msixPending }
  count : t.host.fns.length = s.host.fns.length

theorem Messaged.of_host (h : t.host = s.host) : Messaged s t :=
  ⟨by rw [h], fun n => by rw [State.fn_congr (congrArg HostQueues.fns h) n], by rw [h]⟩

theorem Messaged.trans (h : Messaged s t) (k : Messaged t u) : Messaged s u :=
  ⟨k.host.trans (by rw [h.host]), fun n => (k.fn n).trans (by rw [h.fn n]), k.count.trans h.count⟩

theorem State.rset_messaged {o : Nat} {w : Word} : Messaged s (s.rset o w) := .of_host rfl

theorem Messaged.of_rset {o : Nat} {w : Word} (h : Messaged s t) : Messaged (s.rset o w) t := ⟨h.host, h.fn, h.count⟩

theorem State.msix_messaged {f v : Nat} : Messaged s (s.msix f v) := by
  unfold State.msix
  dsimp only
  split
  · exact .of_host rfl
  · split
    · exact ⟨rfl, fun n => State.fn_onFn_of (P := fun x y => y = { x with msixPending := y.msixPending }) (fun _ => rfl) (fun _ => rfl),
        lmod_length _ _ _⟩
    · exact .of_host rfl

theorem State.raise_messaged {o b : Nat} : Messaged s (s.raise o b) := by
  unfold State.raise State.raiseAt
  dsimp only
  split
  · exact State.rset_messaged
  · exact State.rset_messaged.trans (State.msix_messaged.trans State.msix_messaged)

theorem State.hqRaise_messaged {f b v : Nat} : Messaged s (s.hqRaise f b v) := by
  unfold State.hqRaise
  dsimp only
  split
  · exact State.rset_messaged
  · exact State.rset_messaged.trans State.msix_messaged

/-! ### The registers of a completion ring -/

/-- The registers that place an entry in a completion ring (R650). -/
def cplRegs : List Nat := [Reg.CPL_TAIL, Reg.CPL_BASE_LO, Reg.CPL_BASE_HI, Reg.CPL_SIZE]

theorem hqReg_ne {f a b : Nat} (h : a ≠ b) : hqReg f a ≠ hqReg f b := by unfold hqReg; omega

/-- A function's registers lie in block 15 (R693). -/
theorem hqReg_block (f : Fin 2) {r : Nat} (h : 0xF00000 ≤ r ∧ r < 0xF90000) : hqReg f r / 0x100000 = 15 := by unfold hqReg; omega

theorem cplRegs_place : ∀ r ∈ cplRegs, (0xF00000 ≤ r ∧ r < 0xF90000) ∧ r ≠ Reg.HQ_EVENTS := by decide

variable {f : Fin 2}

/-- What a completion of function `f` reads is the same in `t` as in `s`, and `t` is fit to be written. -/
structure CplKept (f : Fin 2) (s t : State) : Prop where
  wf : regsWf t.regs = true
  lt : f.val < t.host.fns.length
  tl : t.tl = s.tl
  taken : (t.fn f).taken = (s.fn f).taken
  regs : ∀ r ∈ cplRegs, t.rget (hqReg f r) = s.rget (hqReg f r)

theorem CplKept.refl (hu : s.Units) (hm : s.MemOk) : CplKept f s s := ⟨hm.1, hu.fn_lt f, rfl, rfl, fun _ _ => rfl⟩

theorem CplKept.onFn (h : CplKept f s t) {g : HostFn → HostFn} (hg : ∀ x, (g x).taken = x.taken) : CplKept f s (t.onFn f g) :=
  ⟨h.wf, (lmod_length _ _ _).symm ▸ h.lt, h.tl, by rw [State.fn_onFn_same h.lt, hg, h.taken], h.regs⟩

theorem CplKept.messaged (h : CplKept f s t) (hm : Messaged t u) (htl : u.tl = t.tl) (hr : u.regs = t.regs) : CplKept f s u :=
  ⟨hr ▸ h.wf, hm.count.symm ▸ h.lt, htl.trans h.tl, by rw [hm.fn, h.taken], fun r hmem => by rw [State.rget_congr hr, h.regs r hmem]⟩

/-- Whatever changes neither the functions, the time nor the registers. -/
theorem CplKept.of_same (h : CplKept f s t) (hf : u.host.fns = t.host.fns) (htl : u.tl = t.tl) (hr : u.regs = t.regs) : CplKept f s u :=
  ⟨hr ▸ h.wf, hf.symm ▸ h.lt, htl.trans h.tl, by rw [State.fn_congr hf, h.taken], fun r hmem => by rw [State.rget_congr hr, h.regs r hmem]⟩

theorem CplKept.rset (h : CplKept f s t) {o : Nat} {w : Word} (ho : ∀ r ∈ cplRegs, hqReg f r ≠ o) : CplKept f s (t.rset o w) :=
  ⟨State.wf_rset h.wf, h.lt, h.tl, h.taken, fun r hmem => by rw [State.rget_rset h.wf, if_neg (ho r hmem), h.regs r hmem]⟩

/-- A register of another block. -/
theorem CplKept.rset_block (h : CplKept f s t) {o : Nat} {w : Word} (ho : o / 0x100000 ≠ 15) : CplKept f s (t.rset o w) :=
  h.rset (fun r hmem e => ho (e ▸ hqReg_block f (cplRegs_place r hmem).1))

theorem CplKept.raise (h : CplKept f s t) {o b : Nat} (ho : o / 0x100000 ≠ 15) : CplKept f s (t.raise o b) :=
  (h.rset_block ho).messaged (.of_rset State.raise_messaged) State.raise_tl State.raise_regs

theorem CplKept.hqRaise (h : CplKept f s t) {b v : Nat} : CplKept f s (t.hqRaise f b v) :=
  (h.rset (fun r hmem => hqReg_ne (cplRegs_place r hmem).2)).messaged (.of_rset State.hqRaise_messaged)
    State.hqRaise_tl State.hqRaise_regs

theorem CplKept.hwrite (h : CplKept f s t) {a : Nat} {l : List Byte} : CplKept f s (t.hwrite a l) :=
  h.of_same (congrArg HostQueues.fns (State.hwrite_fr .host rfl)) (State.hwrite_fr .tl rfl) (State.hwrite_fr .regs rfl)

theorem CplKept.size (h : CplKept f s t) : t.cplSize f = s.cplSize f := by
  rw [State.cplSize, State.cplSize, h.regs _ (by decide)]

theorem CplKept.base (h : CplKept f s t) :
    t.rpair (hqReg f Reg.CPL_BASE_LO) (hqReg f Reg.CPL_BASE_HI) = s.rpair (hqReg f Reg.CPL_BASE_LO) (hqReg f Reg.CPL_BASE_HI) := by
  rw [State.rpair, State.rpair, h.regs _ (by decide), h.regs _ (by decide)]

theorem CplKept.tail (h : CplKept f s t) : t.rget (hqReg f Reg.CPL_TAIL) = s.rget (hqReg f Reg.CPL_TAIL) := h.regs _ (by decide)

end
end Sys2Proof.Machine
end

section
/-! PROOFS. The completion of an item (R650, R651): what it writes, and what it leaves. -/

namespace Sys2Proof.Machine
open Sys2Proof

section
variable {s t u : State} {f : Fin 2} {id st a b : Nat}

/-- The entry of a completion written, the tail moved on, the item gone and its event set: a completion but for its message. -/
def State.entered (s : State) (f id : Nat) (bytes : List Byte) : State :=
  let tail := (s.rget (hqReg f Reg.CPL_TAIL)).toNat
  let base := s.rpair (hqReg f Reg.CPL_BASE_LO) (hqReg f Reg.CPL_BASE_HI)
  let s1 := s.hwrite (base + tail % s.cplSize f * 32) bytes
  let s2 := (s1.rset (hqReg f Reg.CPL_TAIL) (nw (tail + 1))).onFn f (fun h => { h with taken := h.taken.filter (fun x => x.id ≠ id) })
  s2.rset (hqReg f Reg.HQ_EVENTS) (s2.rget (hqReg f Reg.HQ_EVENTS) ||| 1)

theorem State.host_entered {f : Nat} {bytes : List Byte} : (s.entered f id bytes).host =
    { s.host with fns := lmod s.host.fns f (fun h => { h with taken := h.taken.filter (fun x => x.id ≠ id) }) } :=
  congrArg (fun q : HostQueues => { q with fns := lmod q.fns f (fun h => { h with taken := h.taken.filter (fun x => x.id ≠ id) }) })
    (State.hwrite_fr .host rfl)

theorem State.hostMem_entered {f : Nat} {bytes : List Byte} : (s.entered f id bytes).hostMem =
    (s.hwrite (s.rpair (hqReg f Reg.CPL_BASE_LO) (hqReg f Reg.CPL_BASE_HI) +
      (s.rget (hqReg f Reg.CPL_TAIL)).toNat % s.cplSize f * 32) bytes).hostMem := rfl

/-- An item no longer outstanding completes without a trace (R629). -/
theorem State.complete_absent {f : Nat} (h : (s.fn f).taken.find? (fun y => y.id = id) = none) : s.complete f id st a b = s := by
  rw [State.complete, h]

theorem State.complete_found {f : Nat} {x : TakenItem} (h : (s.fn f).taken.find? (fun y => y.id = id) = some x) :
    ∃ e, e = s.entered f id (cplBytes x.tag x.opcode st s.tl.beat s.tl.epoch.toNat a b
        (decide ((s.rget (hqReg f Reg.CPL_TAIL)).toNat / s.cplSize f % 2 = 0))) ∧
      s.complete f id st a b = if e.rbit (hqReg f Reg.HQ_EVENT_EN) 0 then e.msix f 0 else e := by
  refine ⟨_, rfl, ?_⟩
  rw [State.complete, h]
  rfl

/-- The message of a completion. -/
theorem State.msix_if_messaged {c : Bool} {n v : Nat} : Messaged s (if c then s.msix n v else s) := by
  split
  · exact State.msix_messaged
  · exact .of_host rfl

theorem State.msix_if_regs {c : Bool} {n v : Nat} : (if c then s.msix n v else s).regs = s.regs := by
  split
  · exact State.msix_regs
  · rfl

theorem State.msix_if_hostMem {c : Bool} {n v : Nat} : (if c then s.msix n v else s).hostMem = s.hostMem := by
  split
  · exact State.msix_fr .hostMem rfl
  · rfl

theorem State.complete_fr {f : Nat} : Only [.regs, .host, .hostMem, .out] s (s.complete f id st a b) := State.complete_only (.refl _ s) (by decide)

/-- Of HOST_QUEUES, a completion takes the item away and changes pending bits besides. -/
theorem State.complete_host (h : f.val < s.host.fns.length) :
    (s.complete f id st a b).host = { s.host with fns := (s.complete f id st a b).host.fns } ∧
      (s.complete f id st a b).fn f = { s.fn f with
        taken := (s.fn f).taken.filter (fun x => x.id ≠ id), msixPending := ((s.complete f id st a b).fn f).msixPending } := by
  cases hx : (s.fn f).taken.find? (fun y => y.id = id) with
  | none =>
    have hall : (s.fn f).taken.filter (fun x => x.id ≠ id) = (s.fn f).taken :=
      List.filter_eq_self.mpr (fun x hmem => by simpa using List.find?_eq_none.mp hx x hmem)
    rw [State.complete_absent hx, hall]
    exact ⟨rfl, rfl⟩
  | some x =>
    obtain ⟨e, he, hc⟩ := State.complete_found (st := st) (a := a) (b := b) hx
    have hhost : e.host = { s.host with fns := e.host.fns } := by rw [he, State.host_entered]
    have hfn : e.fn f = { s.fn f with taken := (s.fn f).taken.filter (fun x => x.id ≠ id) } := by
      rw [he, State.fn, State.host_entered]
      exact lgetD_lmod_same _ _ _ _ h
    have hm : Messaged e (s.complete f id st a b) := hc ▸ State.msix_if_messaged
    exact ⟨hm.host.trans (by rw [hhost]), (hm.fn f).trans (by rw [hfn])⟩

theorem State.fn_complete (h : f.val < s.host.fns.length) : (s.complete f id st a b).fn f = { s.fn f with
    taken := (s.fn f).taken.filter (fun x => x.id ≠ id), msixPending := ((s.complete f id st a b).fn f).msixPending } := (State.complete_host h).2

/-- The registers after a completion. -/
theorem State.rget_entered (h : regsWf s.regs = true) {bytes : List Byte} {p : Nat} :
    (s.entered f id bytes).rget p = if p = hqReg f Reg.HQ_EVENTS then s.rget p ||| 1
      else if p = hqReg f Reg.CPL_TAIL then nw ((s.rget p).toNat + 1) else s.rget p := by
  have hr (x o : Nat) : (s.hwrite x bytes).rget o = s.rget o := State.rget_congr (State.hwrite_fr .regs rfl) o
  have hw (x : Nat) : regsWf (s.hwrite x bytes).regs = true := (State.hwrite_fr (s := s) .regs rfl : _ = s.regs) ▸ h
  have hw2 (x : Nat) (w : Word) (g : HostFn → HostFn) : regsWf (((s.hwrite x bytes).rset (hqReg f Reg.CPL_TAIL) w).onFn f g).regs = true :=
    State.wf_rset (hw x)
  have h2 (x : Nat) (w : Word) (g : HostFn → HostFn) (o : Nat) : (((s.hwrite x bytes).rset (hqReg f Reg.CPL_TAIL) w).onFn f g).rget o =
      if o = hqReg f Reg.CPL_TAIL then w else s.rget o := (State.rget_rset (hw x)).trans (by rw [hr])
  unfold State.entered
  dsimp only
  rw [State.rget_rset (hw2 _ _ _), h2, h2, if_neg (hqReg_ne (by decide))]
  split
  · next e => rw [e]
  · split
    · next e => rw [e]
    · rfl

/-- A completion writes no register but the tail and HQ_EVENTS of its function. -/
theorem State.rget_complete (h : regsWf s.regs = true) {p : Nat} (hp : p / 0x100000 ≠ 15) : (s.complete f id st a b).rget p = s.rget p := by
  have h1 : p ≠ hqReg f Reg.HQ_EVENTS := fun e => hp (e ▸ hqReg_block f (by decide))
  have h2 : p ≠ hqReg f Reg.CPL_TAIL := fun e => hp (e ▸ hqReg_block f (by decide))
  cases hx : (s.fn f).taken.find? (fun y => y.id = id) with
  | none => rw [State.complete_absent hx]
  | some x =>
    obtain ⟨e, rfl, hc⟩ := State.complete_found (st := st) (a := a) (b := b) hx
    rw [hc, State.rget_congr State.msix_if_regs, State.rget_entered h, if_neg h1, if_neg h2]

theorem nw_succ (w : Word) : nw (w.toNat + 1) = w + 1 := by
  simp [nw, BitVec.ofNat_add]

theorem wbit_or_one (w : Word) : wbit (w ||| 1) 0 = true := by
  simp [wbit]

theorem cplBytes_length {tag op st beat epoch a b : Nat} {ph : Bool} : (cplBytes tag op st beat epoch a b ph).length = 32 := leBytes_length _ _

/-- The entry that a completion writes lies in host memory at the place of the former tail (R650). -/
theorem State.hread_complete {x : TakenItem} (h : (s.fn f).taken.find? (fun y => y.id = id) = some x) :
    (List.range 32).map (fun i => (s.complete f id st a b).hread (s.rpair (hqReg f Reg.CPL_BASE_LO) (hqReg f Reg.CPL_BASE_HI) +
        (s.rget (hqReg f Reg.CPL_TAIL)).toNat % s.cplSize f * 32 + i)) =
      cplBytes x.tag x.opcode st s.tl.beat s.tl.epoch.toNat a b (decide ((s.rget (hqReg f Reg.CPL_TAIL)).toNat / s.cplSize f % 2 = 0)) := by
  obtain ⟨e, rfl, hc⟩ := State.complete_found (st := st) (a := a) (b := b) h
  have hmem := (congrArg State.hostMem hc).trans (State.msix_if_hostMem.trans State.hostMem_entered)
  simp only [State.hread_congr hmem]
  exact State.hread_hwrite cplBytes_length _

/-- An outstanding item completes. -/
theorem State.complete_completes (hw : regsWf s.regs = true) (hl : f.val < s.host.fns.length) (hid : ∃ x ∈ (s.fn f).taken, x.id = id) :
    Completed s (s.complete f id st a b) f id st a b := by
  obtain ⟨x, hx⟩ : ∃ x, (s.fn f).taken.find? (fun y => y.id = id) = some x := by
    obtain ⟨x, hmem, he⟩ := hid
    exact Option.isSome_iff_exists.mp (List.find?_isSome.mpr ⟨x, hmem, by simpa using he⟩)
  obtain ⟨e, he, hc⟩ := State.complete_found (st := st) (a := a) (b := b) hx
  have hreg (p : Nat) : (s.complete f id st a b).rget p = if p = hqReg f Reg.HQ_EVENTS then s.rget p ||| 1
      else if p = hqReg f Reg.CPL_TAIL then nw ((s.rget p).toNat + 1) else s.rget p := by
    rw [hc, State.rget_congr State.msix_if_regs, he, State.rget_entered hw]
  refine ⟨by rw [State.fn_complete hl], ?_, ?_, fun y hy => State.hread_complete hy⟩
  · rw [hreg, if_neg (hqReg_ne (by decide)), if_pos rfl, nw_succ]
  · rw [State.rbit, hreg, if_pos rfl, wbit_or_one]

/-- An outstanding item completes, from any state in which its function's queue and ring are as in `s`. -/
theorem CplKept.completed (h : CplKept f s t) (hid : ∃ x ∈ (s.fn f).taken, x.id = id) : Completed s (t.complete f id st a b) f id st a b := by
  obtain ⟨htaken, htail, hevent, hentry⟩ := State.complete_completes (st := st) (a := a) (b := b) h.wf h.lt (h.taken ▸ hid)
  simp only [h.taken, h.tail, h.base, h.size, h.tl] at htaken htail hentry
  exact ⟨htaken, htail, hevent, hentry⟩

end
end Sys2Proof.Machine
end

section
/-! PROOFS. The item in hand and each command on it (R338, R631, R642 to R648, R656, R724). -/

namespace Sys2Proof.Machine
open Sys2Proof

section
variable {s t u : State} {f : Fin 2} {id n op st a b : Nat} {i : HostItem} {only : Option Nat} {act : State → Nat → HostItem → State}

/-- `s` once function `f` has nothing in hand. -/
def State.handed (s : State) (f : Nat) : State := s.onFn f (fun h => { h with current := none })

theorem State.actItem_other {f : Nat} (h : ∀ id i, (s.fn f).current = some (id, i) → i.opcode ≠ op) : s.actItem f op only act = s := by
  unfold State.actItem
  split
  · rfl
  · next id i hc => exact if_pos (h id i hc)

/-- Item `i`, number `id`, is in the hand of function `f`, outstanding, in a state of the part's units and canonical memory. -/
structure InHand (s : State) (f : Fin 2) (id : Nat) (i : HostItem) : Prop where
  units : s.Units
  mem : s.MemOk
  current : (s.fn f).current = some (id, i)
  taken : ∃ x ∈ (s.fn f).taken, x.id = id

theorem InHand.actItem (h : InHand s f id i) (ho : i.opcode = op) : s.actItem f op only act =
    if ¬ i.ok then (s.handed f).complete f id 4 0 0
    else if only.isSome ∧ only ≠ some f.val then (s.handed f).complete f id 3 0 0
    else act (s.handed f) id i := by
  rw [State.actItem, h.current]
  exact if_neg (not_not.mpr ho)

theorem InHand.kept (h : InHand s f id i) : CplKept f s (s.handed f) := (CplKept.refl h.units h.mem).onFn (fun _ => rfl)

theorem InHand.fn_handed (h : InHand s f id i) : (s.handed f).fn f = { s.fn f with current := none } := State.fn_onFn_same (h.units.fn_lt f)

theorem InHand.bad (h : InHand s f id i) (ho : i.opcode = op) (hok : i.ok = false) : s.actItem f op only act = (s.handed f).complete f id 4 0 0 :=
  (h.actItem ho).trans (if_pos (by simp [hok]))

theorem InHand.denied (h : InHand s f id i) (ho : i.opcode = op) (hok : i.ok = true) (hp : only.isSome ∧ only ≠ some f.val) :
    s.actItem f op only act = (s.handed f).complete f id 3 0 0 :=
  (h.actItem ho).trans ((if_neg (by simp [hok])).trans (if_pos hp))

theorem InHand.acts (h : InHand s f id i) (ho : i.opcode = op) (hok : i.ok = true) (hp : only = none ∨ only = some f.val) :
    s.actItem f op only act = act (s.handed f) id i :=
  (h.actItem ho).trans ((if_neg (by simp [hok])).trans (if_neg (fun k => hp.elim (fun e => by simp [e] at k) k.2)))

/-- An item in hand completes, from any state in which its function's queue and ring are as they were. -/
theorem InHand.completed (h : InHand s f id i) (k : CplKept f s t) : Completed s (t.complete f id st a b) f id st a b := k.completed h.taken

/-- A command that acts at once on the item in hand leaves the function with nothing in hand. -/
theorem InHand.current_complete (h : InHand s f id i) : (((s.handed f).complete f id st a b).fn f).current = none := by
  rw [State.fn_complete h.kept.lt, h.fn_handed]

theorem State.windows_complete (h : f.val < s.host.fns.length) : ((s.complete f id st a b).fn f).windows = (s.fn f).windows := by
  rw [State.fn_complete h]

theorem State.dumps_complete (h : f.val < s.host.fns.length) : (s.complete f id st a b).host.dumps = s.host.dumps := by
  rw [(State.complete_host h).1]

theorem State.attests_complete (h : f.val < s.host.fns.length) : (s.complete f id st a b).host.attests = s.host.attests := by
  rw [(State.complete_host h).1]

theorem State.handed_fr {f : Nat} : Only [.host] s (s.handed f) := State.onFn_only (.refl _ s) rfl

/-- The nine commands of R644 act on the item in hand. -/
theorem exec_eq_actItem {c : Instr} (h : (c, op) ∈ [(Instr.hostNop f, 0), (.hostFence f, 1), (.descCreate f, 2), (.descDestroy f, 3),
      (.hostMove f, 4), (.mapWindow f, 5), (.unmapWindow f, 6), (.hostDump f, 7), (.hostAttest f, 8)]) :
    ∃ only act, exec c s = .next (s.actItem f op only act) := by
  simp only [List.mem_cons, Prod.mk.injEq, List.not_mem_nil, or_false] at h
  rcases h with ⟨rfl, rfl⟩ | ⟨rfl, rfl⟩ | ⟨rfl, rfl⟩ | ⟨rfl, rfl⟩ | ⟨rfl, rfl⟩ | ⟨rfl, rfl⟩ | ⟨rfl, rfl⟩ | ⟨rfl, rfl⟩ | ⟨rfl, rfl⟩ <;>
    exact ⟨_, _, rfl⟩

/-! ### Descriptors -/

theorem State.freeDesc_lacks (h : s.freeDesc = some n) : mget s.descs n = none := by
  simpa using List.find?_some h

/-- A descriptor entered at index `n` (R645). -/
def State.withDesc (s : State) (n : Nat) (e : DescEntry) : State := { s with descs := mset s.descs n e }

theorem State.createDesc_enters {f : Nat} {d : Desc} (hl : ¬ (d.space = 2 ∧ d.dataSet ≠ 0xFFFE ∧ s.live.isNone)) (hr : s.hostDescReason f d = none)
    (hn : s.freeDesc = some n) :
    s.createDesc f id d = ((s.withDesc n { desc := d, owner := fnOwner f }).bump Reg.DESC_CREATED).complete f id 0 n 0 := by
  rw [State.createDesc, if_neg hl, hr, hn]
  rfl

theorem State.createDesc_refused {f r : Nat} {d : Desc} (hl : ¬ (d.space = 2 ∧ d.dataSet ≠ 0xFFFE ∧ s.live.isNone))
    (hr : s.hostDescReason f d = some r) : s.createDesc f id d = (s.descRefused 1 0 r).complete f id 1 r 0 := by
  rw [State.createDesc, if_neg hl, hr]
  cases s.freeDesc <;> rfl

theorem CplKept.descRefused (h : CplKept f s t) {o x r : Nat} : CplKept f s (t.descRefused o x r) := by
  have hk : CplKept f s ((t.bump Reg.DESC_REFUSED).raise Reg.MOVER_EVENTS 0) := (h.rset_block (by decide)).raise (by decide)
  unfold State.descRefused
  dsimp only
  split
  · exact hk.rset_block (by decide)
  · exact hk

theorem State.descRefused_fr {o x r : Nat} : Only [.regs, .host, .out] s (s.descRefused o x r) := State.descRefused_only (.refl _ s) rfl

theorem State.rget_descRefused (h : regsWf s.regs = true) {o x r : Nat} :
    (s.descRefused o x r).rget Reg.DESC_REFUSED = satAdd32 (s.rget Reg.DESC_REFUSED) 1 := by
  have hk : ((s.bump Reg.DESC_REFUSED).raise Reg.MOVER_EVENTS 0).rget Reg.DESC_REFUSED = satAdd32 (s.rget Reg.DESC_REFUSED) 1 := by
    rw [State.rget_raise (State.wf_bump h), if_neg (by decide), State.rget_bump h, if_pos rfl]
  unfold State.descRefused
  dsimp only
  split
  · rw [State.rget_rset (State.wf_raise (State.wf_bump h)), if_neg (by decide), hk]
  · exact hk

theorem State.destroyDesc_own {f x : Nat} {d : DescEntry} (hd : mget s.descs x = some d) (ho : d.owner = fnOwner f) :
    s.destroyDesc f id x = if s.descBusy x then (s.descRefused 1 x 10).complete f id 5 0 0
      else { s with descs := merase s.descs x }.complete f id 0 0 0 := by
  rw [State.destroyDesc, hd]
  exact if_neg (not_not.mpr ho)

theorem State.destroyDesc_foreign {f x : Nat} (h : ∀ d, mget s.descs x = some d → d.owner ≠ fnOwner f) :
    s.destroyDesc f id x = s.complete f id 4 0 0 := by
  unfold State.destroyDesc
  split
  · next d hd => exact if_pos (h d hd)
  · rfl

/-! ### Moves -/

/-- The word that names a MOVE's channel is 0 or 1 (R646). -/
theorem moveChannel_ok (h : i.ok = true) (ho : i.opcode = 4) : State.moveChannel f i = 28 + 2 * f.val + i.word 0 ∧ i.word 0 < 2 := by
  have hw : i.word 0 < 2 := by
    simp only [HostItem.ok, ho, Bool.and_eq_true, decide_eq_true_eq] at h
    exact h.2
  exact ⟨congrArg (28 + 2 * f.val + ·) (Nat.mod_eq_of_lt hw), hw⟩

theorem State.hostMoveItem_refused {f : Nat} (h : s.moveOk f (moverOpOf (i.bytesFrom 1)) = false) :
    s.hostMoveItem f id i = s.complete f id 8 0 0 := if_pos (by simp [h])

theorem State.hostMoveItem_queues {f : Nat} (h : s.moveOk f (moverOpOf (i.bytesFrom 1)) = true) :
    s.hostMoveItem f id i = (s.onTaken f id (fun x => { x with windows := s.opWindows (moverOpOf (i.bytesFrom 1)) })).onMover (State.moveChannel f i)
      (fun m => { m with queue := m.queue ++ [{ op := moverOpOf (i.bytesFrom 1), host := some (f, id) }] }) := if_neg (by simp [h])

/-! ### Dumps -/

/-- What a DUMP reports of its beginning: its item, window, beat and epoch (R656). -/
def dumpOrigin (j : DumpJob) : Nat × Nat × Nat × Nat := (j.id, j.window, j.beat, j.epoch)

theorem State.dumpEntry_origin {j : DumpJob} {x : Nat × Cell} : dumpOrigin (s.dumpEntry j x).2 = dumpOrigin j := by
  unfold State.dumpEntry
  dsimp only
  split
  · split <;> rfl
  · rfl

theorem State.dumpEntries_origin (l : List (Nat × Cell)) (p : State × DumpJob) :
    dumpOrigin (l.foldl (fun a x => a.1.dumpEntry a.2 x) p).2 = dumpOrigin p.2 := by
  induction l generalizing p with
  | nil => rfl
  | cons x l ih => exact (ih _).trans State.dumpEntry_origin

/-- Reading goes on with the oldest dump, which stays the dump it was. -/
theorem State.dumpBeat_dumps {j : DumpJob} {rest : List DumpJob} (h : s.host.dumps = j :: rest) :
    ∃ k, s.dumpBeat.host.dumps = k :: rest ∧ dumpOrigin k = dumpOrigin j := by
  rw [State.dumpBeat, h]
  dsimp only
  split
  · exact ⟨j, h, rfl⟩
  · exact ⟨(s.dumpRead j).2, rfl, State.dumpEntries_origin _ (s, j)⟩

/-! ### Reports -/

theorem State.beginReport_idle (h : s.host.attests = []) : s.beginReport = s := by
  rw [State.beginReport, h]

/-- Signing begins: the oldest report takes the next count (R724). -/
theorem State.beginReport_counts {j : AttestJob} {rest : List AttestJob} (h : s.host.attests = j :: rest) :
    ∃ k, s.beginReport.host.attests = k :: rest ∧ k.id = j.id ∧ k.window = j.window ∧ k.count = s.keeper.attestCount + 1 ∧
      s.beginReport.keeper.attestCount = s.keeper.attestCount + 1 := by
  rw [State.beginReport, h]
  exact ⟨_, rfl, rfl, rfl, rfl, rfl⟩

theorem CplKept.xlateCapture (h : CplKept f s t) {w : Bool} {x ch o : Nat} : CplKept f s (t.xlateCapture w x ch o) := by
  have hk : CplKept f s ((t.bump Reg.XLATE_FAULTS).raise Reg.MOVER_EVENTS 2) := (h.rset_block (by decide)).raise (by decide)
  unfold State.xlateCapture
  dsimp only
  split
  · exact ((hk.rset_block (by decide)).rset_block (by decide)).rset_block (by decide)
  · exact hk

theorem State.rget_xlateCapture (h : regsWf s.regs = true) {w : Bool} {x ch o : Nat} :
    (s.xlateCapture w x ch o).rget Reg.XLATE_FAULTS = satAdd32 (s.rget Reg.XLATE_FAULTS) 1 := by
  have hw := State.wf_raise (o := Reg.MOVER_EVENTS) (b := 2) (State.wf_bump (o := Reg.XLATE_FAULTS) (n := 1) h)
  have hk : ((s.bump Reg.XLATE_FAULTS).raise Reg.MOVER_EVENTS 2).rget Reg.XLATE_FAULTS = satAdd32 (s.rget Reg.XLATE_FAULTS) 1 := by
    rw [State.rget_raise (State.wf_bump h), if_neg (by decide), State.rget_bump h, if_pos rfl]
  unfold State.xlateCapture
  dsimp only
  split
  · rw [State.rget_setPair (State.wf_rset hw), if_neg (by decide), if_neg (by decide), State.rget_rset hw, if_neg (by decide), hk]
  · exact hk

/-- A report whose window has room for it is written, and its item completes OK (R724). -/
theorem State.endReport_written {j : AttestJob} {w : HostWindow} (h : s.winFor 1 j.window true = some w) (hr : reportSize ≤ w.pages * 4096) :
    s.endReport j = ((s.hwrite w.base (s.wholeReport j)).raise Reg.SEC_EVENTS 2).complete 1 j.id 0 reportSize j.count := by
  rw [State.endReport, h]
  exact if_pos hr

theorem State.endReport_unmapped {j : AttestJob} (h : s.winFor 1 j.window true = none) :
    s.endReport j = ((s.xlateCapture true 0x08 30 0).hqRaise 1 5 3).complete 1 j.id 2 0 0 := by
  rw [State.endReport, h]

/-! ### Items that wait -/

/-- An item that waits no longer, and is not in hand (R643, R647). -/
def State.waited (s : State) (f op : Nat) (x : TakenItem) : Bool :=
  decide (x.opcode = op) && s.waitsOver f x && decide ((s.fn f).current.map (fun y => y.1) ≠ some x.id)

theorem State.find_waited_none {f : Nat} (h : ∀ x ∈ (s.fn f).taken, x.opcode = op → s.waitsOver f x = false ∨ (s.fn f).current.map (fun y => y.1) = some x.id) :
    (s.fn f).taken.find? (s.waited f op) = none := by
  refine List.find?_eq_none.mpr (fun x hx hw => ?_)
  simp only [State.waited, Bool.and_eq_true, decide_eq_true_eq] at hw
  obtain ⟨⟨hop, hover⟩, hcur⟩ := hw
  rcases h x hx hop with h | h
  · exact absurd (h.symm.trans hover) (by decide)
  · exact hcur h

/-- The first item of its opcode that waits no longer is the one that completes. -/
theorem State.find_waited {f : Nat} {l m : List TakenItem} {x : TakenItem} (ht : (s.fn f).taken = l ++ x :: m) (hc : (s.fn f).current = none)
    (hw : s.waitsOver f x = true) (hl : ∀ y ∈ l, y.opcode ≠ x.opcode) : (s.fn f).taken.find? (s.waited f x.opcode) = some x := by
  have hx : s.waited f x.opcode x = true := by simp [State.waited, hw, hc]
  rw [ht]
  refine List.find?_eq_some_iff_append.mpr ⟨hx, l, m, rfl, fun y hy => ?_⟩
  simp [State.waited, hl y hy]

end
end Sys2Proof.Machine
end

section
/-! PROOFS. The obligation of items that act and complete (O55). -/

namespace Sys2Proof.Machine
open Sys2Proof

section
variable {s t : State} {f : Fin 2} {id : Nat} {i : HostItem}

theorem InHand.exec_hostNop (h : InHand s f id i) (hok : i.ok = true) (ho : i.opcode = 0) : exec (.hostNop f) s = .next ((s.handed f).complete f id 0 0 0) :=
  congrArg Host.Outcome.next (h.acts ho hok (.inl rfl))

theorem InHand.exec_hostFence (h : InHand s f id i) (hok : i.ok = true) (ho : i.opcode = 1) : ∃ t, exec (.hostFence f) s = .next t ∧
    (t.fn f).current = none ∧ Only [.host] s t ∧ (t.fn f).taken = (s.fn f).taken.map (fun x =>
      if x.id = id then { x with waits := ((s.fn f).taken.map (fun y => y.id)).filter (fun n => n ≠ id) } else x) := by
  refine ⟨_, congrArg Host.Outcome.next (h.acts ho hok (.inl rfl)), ?_, State.onTaken_only State.handed_fr rfl, ?_⟩ <;>
    rw [State.fn_onTaken h.kept.lt, h.fn_handed]

theorem InHand.exec_unmapWindow (h : InHand s f id i) (hok : i.ok = true) (ho : i.opcode = 6) : ∃ t, exec (.unmapWindow f) s = .next t ∧
    (t.fn f).current = none ∧ (t.fn f).windows = (s.fn f).windows ∧ Only [.host] s t ∧
    (t.fn f).taken = (s.fn f).taken.map (fun x => if x.id = id then { x with
      windows := [i.word 0]
      waits := (((s.fn f).taken.filter (fun y => y.windows.contains (i.word 0))).map (fun y => y.id)).filter (fun n => n ≠ id) } else x) := by
  refine ⟨_, congrArg Host.Outcome.next (h.acts ho hok (.inl rfl)), ?_, ?_, State.onTaken_only State.handed_fr rfl, ?_⟩ <;>
    rw [State.fn_onTaken h.kept.lt, h.fn_handed]

theorem InHand.exec_descCreate (h : InHand s f id i) (hok : i.ok = true) (ho : i.opcode = 2) :
    exec (.descCreate f) s = .next ((s.handed f).createDesc f id (descOf (i.bytesFrom 0))) := congrArg Host.Outcome.next (h.acts ho hok (.inl rfl))

theorem InHand.exec_descDestroy (h : InHand s f id i) (hok : i.ok = true) (ho : i.opcode = 3) :
    exec (.descDestroy f) s = .next ((s.handed f).destroyDesc f id (i.word 0)) := congrArg Host.Outcome.next (h.acts ho hok (.inl rfl))

theorem InHand.exec_hostMove (h : InHand s f id i) (hok : i.ok = true) (ho : i.opcode = 4) :
    exec (.hostMove f) s = .next ((s.handed f).hostMoveItem f id i) := congrArg Host.Outcome.next (h.acts ho hok (.inl rfl))

/-- A descriptor is entered at the free index, which the completion returns. -/
theorem InHand.creates {n : Nat} {d : Desc} (h : InHand s f id i) (hl : ¬ (d.space = 2 ∧ d.dataSet ≠ 0xFFFE ∧ s.live = none))
    (hr : s.hostDescReason f d = none) (hn : s.freeDesc = some n) :
    Completed s ((s.handed f).createDesc f id d) f id 0 n 0 ∧
      ((s.handed f).createDesc f id d).descs = mset s.descs n { desc := d, owner := fnOwner f } ∧
      ((s.handed f).createDesc f id d).rget Reg.DESC_CREATED = satAdd32 (s.rget Reg.DESC_CREATED) 1 := by
  have hk : CplKept f s ((s.handed f).withDesc n { desc := d, owner := fnOwner f }) := h.kept.of_same rfl rfl rfl
  have hkb : CplKept f s (((s.handed f).withDesc n { desc := d, owner := fnOwner f }).bump Reg.DESC_CREATED) := hk.rset_block (by decide)
  rw [State.createDesc_enters (s := s.handed f) (fun k => hl ⟨k.1, k.2.1, Option.isNone_iff_eq_none.mp k.2.2⟩) hr hn]
  refine ⟨h.completed hkb, State.complete_fr .descs rfl, ?_⟩
  rw [State.rget_complete hkb.wf (by decide), State.rget_bump hk.wf, if_pos rfl]
  rfl

theorem InHand.refuses {r : Nat} {d : Desc} (h : InHand s f id i) (hl : ¬ (d.space = 2 ∧ d.dataSet ≠ 0xFFFE ∧ s.live = none))
    (hr : s.hostDescReason f d = some r) :
    Completed s ((s.handed f).createDesc f id d) f id 1 r 0 ∧ ((s.handed f).createDesc f id d).descs = s.descs ∧
      ((s.handed f).createDesc f id d).rget Reg.DESC_REFUSED = satAdd32 (s.rget Reg.DESC_REFUSED) 1 := by
  have hk : CplKept f s ((s.handed f).descRefused 1 0 r) := h.kept.descRefused
  rw [State.createDesc_refused (s := s.handed f) (fun k => hl ⟨k.1, k.2.1, Option.isNone_iff_eq_none.mp k.2.2⟩) hr]
  refine ⟨h.completed hk, (State.complete_fr .descs rfl).trans (State.descRefused_fr .descs rfl), ?_⟩
  rw [State.rget_complete hk.wf (by decide), State.rget_descRefused h.kept.wf]
  rfl

theorem InHand.destroys {x : Nat} {d : DescEntry} (h : InHand s f id i) (hd : mget s.descs x = some d) (ho : d.owner = fnOwner f)
    (hb : s.descBusy x = false) (hr : mrising 0 s.descs = true) :
    Completed s ((s.handed f).destroyDesc f id x) f id 0 0 0 ∧ mget ((s.handed f).destroyDesc f id x).descs x = none ∧
      ∀ m, m ≠ x → mget ((s.handed f).destroyDesc f id x).descs m = mget s.descs m := by
  have hb' : ¬ (s.handed f).descBusy x = true := Bool.eq_false_iff.mp hb
  rw [State.destroyDesc_own (s := s.handed f) hd ho, if_neg hb', State.complete_fr .descs rfl]
  exact ⟨h.completed (h.kept.of_same rfl rfl rfl), mget_merase_same x hr, fun m hm => mget_merase_ne x hr hm⟩

/-- A descriptor that an operation names stays (R338). -/
theorem InHand.keepsBusy {x : Nat} {d : DescEntry} (h : InHand s f id i) (hd : mget s.descs x = some d) (ho : d.owner = fnOwner f)
    (hb : s.descBusy x = true) :
    Completed s ((s.handed f).destroyDesc f id x) f id 5 0 0 ∧ ((s.handed f).destroyDesc f id x).descs = s.descs := by
  have hb' : (s.handed f).descBusy x = true := hb
  rw [State.destroyDesc_own (s := s.handed f) hd ho, if_pos hb']
  exact ⟨h.completed h.kept.descRefused, (State.complete_fr .descs rfl).trans (State.descRefused_fr .descs rfl)⟩

theorem InHand.keepsForeign {x : Nat} (h : InHand s f id i) (hd : ∀ d, mget s.descs x = some d → d.owner ≠ fnOwner f) :
    Completed s ((s.handed f).destroyDesc f id x) f id 4 0 0 ∧ ((s.handed f).destroyDesc f id x).descs = s.descs := by
  rw [State.destroyDesc_foreign (s := s.handed f) hd]
  exact ⟨h.completed h.kept, State.complete_fr .descs rfl⟩

/-- A MOVE that keeps R646 joins the queue of the channel that it names, and waits for its end. -/
theorem InHand.moves (h : InHand s f id i) (hok : i.ok = true) (ho : i.opcode = 4) (hm : s.moveOk f (moverOpOf (i.bytesFrom 1)) = true) :
    ∃ t, exec (.hostMove f) s = .next t ∧ (t.fn f).current = none ∧ Only [.movers, .host] s t ∧
      (t.mover (28 + 2 * f.val + i.word 0)).queue =
        (s.mover (28 + 2 * f.val + i.word 0)).queue ++ [{ op := moverOpOf (i.bytesFrom 1), host := some (f.val, id) }] ∧
      ∀ c : Fin 32, c.val ≠ 28 + 2 * f.val + i.word 0 → t.mover c = s.mover c := by
  obtain ⟨hch, hw⟩ := moveChannel_ok (f := f) hok ho
  have hlt : 28 + 2 * f.val + i.word 0 < s.movers.length := by rw [h.units.movers]; omega
  refine ⟨_, (h.exec_hostMove hok ho).trans (congrArg Host.Outcome.next (State.hostMoveItem_queues (s := s.handed f) hm)), ?_, ?_, ?_, ?_⟩
  · refine (congrArg HostFn.current (State.fn_onTaken h.kept.lt)).trans ?_
    rw [h.fn_handed]
  · exact State.onMover_only (State.onTaken_only (State.handed_fr.mono rfl) rfl) rfl
  · rw [hch, State.mover_onMover_same (by exact hlt)]
    rfl
  · exact fun c hc => State.mover_onMover_ne (by rw [hch]; exact hc)

/-- The window that the words of a MAP_WINDOW describe (R631). -/
def mappedWindow (i : HostItem) : HostWindow :=
  { base := i.word 1 + i.word 2 * 2 ^ 32, pages := i.word 3, read := nbit (i.word 0) 8, write := nbit (i.word 0) 9 }

/-- MAP_WINDOW enters a window at an index that is free. -/
theorem InHand.maps (h : InHand s f id i) (hok : i.ok = true) (ho : i.opcode = 5) (hw : mget (s.fn f).windows (i.word 0 % 256) = none) :
    ∃ t, exec (.mapWindow f) s = .next t ∧ Completed s t f id 0 0 0 ∧
      (t.fn f).windows = mset (s.fn f).windows (i.word 0 % 256) (mappedWindow i) := by
  have hf : ¬ (mget ((s.handed f).fn f).windows (i.word 0 % 256)).isSome = true := by rw [h.fn_handed]; simp [hw]
  have hk := h.kept.onFn (g := fun x => { x with windows := mset x.windows (i.word 0 % 256) (mappedWindow i) }) (fun _ => rfl)
  refine ⟨_, congrArg Host.Outcome.next ((h.acts ho hok (.inl rfl)).trans (if_neg hf)), h.completed hk, (State.windows_complete hk.lt).trans ?_⟩
  rw [State.fn_onFn_same h.kept.lt, h.fn_handed]

/-- At an index that is mapped it completes IN_USE. -/
theorem InHand.keepsMapped {w : HostWindow} (h : InHand s f id i) (hok : i.ok = true) (ho : i.opcode = 5)
    (hw : mget (s.fn f).windows (i.word 0 % 256) = some w) :
    ∃ t, exec (.mapWindow f) s = .next t ∧ Completed s t f id 5 0 0 ∧ (t.fn f).windows = (s.fn f).windows := by
  have hf : (mget ((s.handed f).fn f).windows (i.word 0 % 256)).isSome = true := by rw [h.fn_handed]; simp [hw]
  refine ⟨_, congrArg Host.Outcome.next ((h.acts ho hok (.inl rfl)).trans (if_pos hf)), h.completed h.kept, (State.windows_complete h.kept.lt).trans ?_⟩
  rw [h.fn_handed]

/-- The dump that a DUMP begins (R656). -/
def State.dumpOf (s : State) (id : Nat) (i : HostItem) : DumpJob :=
  { id := id, window := i.word 0, mask := i.payload.drop 1, beat := s.tl.beat, epoch := s.tl.epoch.toNat }

/-- `s` once the item in hand of PF0 is a dump. -/
def State.dumpQueued (s : State) (id : Nat) (i : HostItem) : State :=
  ((s.handed 0).onTaken 0 id (fun x => { x with windows := [i.word 0] })).onHost (fun q => { q with dumps := q.dumps ++ [s.dumpOf id i] })

theorem InHand.exec_hostDump (h : InHand s 0 id i) (hok : i.ok = true) (ho : i.opcode = 7) (hl : s.live.isSome) :
    exec (.hostDump 0) s = .next (if s.host.dumps.isEmpty then (s.dumpQueued id i).dumpBeat else s.dumpQueued id i) := by
  have hn : ¬ s.live.isNone = true := by simpa using Option.isSome_iff_ne_none.mp hl
  exact congrArg Host.Outcome.next ((h.acts ho hok (.inr rfl)).trans (if_neg hn))

/-- Where no image is live, a DUMP completes NOT_READY. -/
theorem InHand.exec_hostDump_notReady (h : InHand s 0 id i) (hok : i.ok = true) (ho : i.opcode = 7) (hl : s.live = none) :
    exec (.hostDump 0) s = .next ((s.handed 0).complete 0 id 6 0 0) := by
  have hn : s.live.isNone = true := Option.isNone_iff_eq_none.mpr hl
  exact congrArg Host.Outcome.next ((h.acts ho hok (.inr rfl)).trans (if_pos hn))

/-- A DUMP of PF0 joins the dumps; where none runs, it begins to read (R656). -/
theorem InHand.dumps (h : InHand s 0 id i) (hok : i.ok = true) (ho : i.opcode = 7) (hl : s.live.isSome) :
    ∃ t j, exec (.hostDump 0) s = .next t ∧ t.host.dumps = s.host.dumps ++ [j] ∧ dumpOrigin j = dumpOrigin (s.dumpOf id i) ∧ t.store = s.store := by
  have hq : (s.dumpQueued id i).host.dumps = s.host.dumps ++ [s.dumpOf id i] := rfl
  by_cases hd : s.host.dumps = []
  · obtain ⟨j, hj, hor⟩ := State.dumpBeat_dumps (hq.trans (by rw [hd]; rfl))
    exact ⟨_, j, (h.exec_hostDump hok ho hl).trans (congrArg Host.Outcome.next (if_pos (List.isEmpty_iff.mpr hd))), by rw [hj, hd]; rfl, hor,
      State.dumpBeat_only (.refl [.regs, .host, .hostMem, .out] _) rfl .store rfl⟩
  · exact ⟨_, _, (h.exec_hostDump hok ho hl).trans (congrArg Host.Outcome.next (if_neg (mt List.isEmpty_iff.mp hd))), hq, rfl, rfl⟩

/-- The report that an ATTEST asks for (R724). -/
def attestOf (id : Nat) (i : HostItem) : AttestJob := { id := id, window := i.word 0, nonce := (i.payload.drop 1).take 16 }

/-- `s` once the item in hand of PF1 is a report to be signed. -/
def State.attestQueued (s : State) (id : Nat) (i : HostItem) : State :=
  ((s.handed 1).onTaken 1 id (fun x => { x with windows := [i.word 0] })).onHost (fun q => { q with attests := q.attests ++ [attestOf id i] })

theorem InHand.exec_hostAttest (h : InHand s 1 id i) (hok : i.ok = true) (ho : i.opcode = 8) :
    exec (.hostAttest 1) s = .next (if s.host.attests.isEmpty then (s.attestQueued id i).beginReport else s.attestQueued id i) :=
  congrArg Host.Outcome.next (h.acts ho hok (.inr rfl))

/-- An ATTEST of PF1 joins the reports; where none is signed, its signing begins and takes a count (R724). -/
theorem InHand.attests (h : InHand s 1 id i) (hok : i.ok = true) (ho : i.opcode = 8) :
    ∃ t j, exec (.hostAttest 1) s = .next t ∧ t.host.attests = s.host.attests ++ [j] ∧ j.id = id ∧ j.window = i.word 0 ∧
      (s.host.attests = [] → j.count = s.keeper.attestCount + 1 ∧ t.keeper.attestCount = s.keeper.attestCount + 1) ∧
      (s.host.attests ≠ [] → t.keeper = s.keeper) := by
  have hq : (s.attestQueued id i).host.attests = s.host.attests ++ [attestOf id i] := rfl
  by_cases hd : s.host.attests = []
  · obtain ⟨j, hj, hid, hwin, hcount, hkeeper⟩ := State.beginReport_counts (hq.trans (by rw [hd]; rfl))
    exact ⟨_, j, (h.exec_hostAttest hok ho).trans (congrArg Host.Outcome.next (if_pos (List.isEmpty_iff.mpr hd))), by rw [hj, hd]; rfl, hid, hwin,
      fun _ => ⟨hcount, hkeeper⟩, fun hne => absurd hd hne⟩
  · exact ⟨_, _, (h.exec_hostAttest hok ho).trans (congrArg Host.Outcome.next (if_neg (mt List.isEmpty_iff.mp hd))), hq, rfl, rfl,
      fun hnil => absurd hnil hd, fun _ => rfl⟩

/-- No dump completes before it has been read. -/
theorem exec_dumpComplete_idle (h : ∀ j rest, s.host.dumps = j :: rest → j.done = false) : exec .dumpComplete s = .next s := by
  show execDumpComplete s = _
  unfold execDumpComplete
  split
  · rfl
  · next j rest hd => exact if_pos (by simp [h j rest hd])

/-- The one dump that has been read completes (R656). -/
theorem exec_dumpComplete_last {j : DumpJob} (hu : s.Units) (hm : s.MemOk) (hd : s.host.dumps = [j]) (hdone : j.done = true)
    (ht : ∃ x ∈ (s.fn 0).taken, x.id = j.id) : ∃ t, exec .dumpComplete s = .next t ∧ t.host.dumps = [] ∧
      Completed s t 0 j.id (if j.epoch ≠ s.tl.epoch.toNat then 7 else if j.faulted then 2 else 0) j.beat j.found := by
  have hk : CplKept 0 s (s.onHost (fun q => { q with dumps := [] })) := (CplKept.refl hu hm).of_same rfl rfl rfl
  refine ⟨_, ?_, State.dumps_complete (f := 0) hk.lt, hk.completed ht⟩
  show execDumpComplete s = _
  rw [execDumpComplete, hd]
  exact if_neg (not_not.mpr hdone)

/-- The one report that is signed completes, and no signing begins (R724). -/
theorem exec_attestComplete_last {j : AttestJob} (ha : s.host.attests = [j]) :
    exec .attestComplete s = .next ((s.endReport j).onHost (fun q => { q with attests := [] })) := by
  show execAttestComplete s = _
  rw [execAttestComplete, ha]
  exact congrArg Host.Outcome.next (State.beginReport_idle rfl)

theorem Completed.of_same {t u : State} {f st a b : Nat} (h : Completed s t f id st a b) (hf : u.host.fns = t.host.fns) (hr : u.regs = t.regs)
    (hm : u.hostMem = t.hostMem) : Completed s u f id st a b := by
  obtain ⟨htaken, htail, hevent, hentry⟩ := h
  refine ⟨by rw [State.fn_congr hf, htaken], by rw [State.rget_congr hr, htail], by rw [State.rbit, State.rget_congr hr]; exact hevent, ?_⟩
  simpa only [State.hread_congr hm] using hentry

theorem State.attestReport_completes {j : AttestJob} (hu : s.Units) (hm : s.MemOk) (ht : ∃ x ∈ (s.fn 1).taken, x.id = j.id) :
    (∀ w, s.winFor 1 j.window true = some w → 80416 ≤ w.pages * 4096 →
      Completed s (s.endReport j) 1 j.id 0 80416 j.count ∧ (s.endReport j).rbit Reg.SEC_EVENTS 2 = true) ∧
    (s.winFor 1 j.window true = none →
      Completed s (s.endReport j) 1 j.id 2 0 0 ∧ (s.endReport j).rget Reg.XLATE_FAULTS = satAdd32 (s.rget Reg.XLATE_FAULTS) 1) := by
  have hk : CplKept 1 s s := .refl hu hm
  refine ⟨fun w hw hroom => ?_, fun hw => ?_⟩
  · have hkw : CplKept 1 s (s.hwrite w.base (s.wholeReport j)) := hk.hwrite
    have hkr : CplKept 1 s ((s.hwrite w.base (s.wholeReport j)).raise Reg.SEC_EVENTS 2) := hkw.raise (by decide)
    rw [State.endReport_written hw hroom]
    refine ⟨hkr.completed ht, (congrArg (wbit · 2) (State.rget_complete (f := 1) hkr.wf (by decide))).trans ?_⟩
    exact (State.rbit_raise hkw.wf (by decide)).trans (by simp)
  · have hkx : CplKept 1 s (s.xlateCapture true 0x08 30 0) := hk.xlateCapture
    have hkr : CplKept 1 s ((s.xlateCapture true 0x08 30 0).hqRaise 1 5 3) := hkx.hqRaise
    rw [State.endReport_unmapped hw]
    refine ⟨hkr.completed ht, (State.rget_complete (f := 1) hkr.wf (by decide)).trans ?_⟩
    rw [State.rget_hqRaise hkx.wf, if_neg (by decide), State.rget_xlateCapture hk.wf]

/-- FENCE_COMPLETE completes the first FENCE that waits no longer (R643). -/
theorem exec_fenceComplete {o : Option TakenItem} (h : (s.fn f).taken.find? (s.waited f 1) = o) :
    exec (.fenceComplete f) s = .next (o.elim s fun x => s.complete f x.id 0 0 0) := by
  show execFenceComplete f s = _
  unfold execFenceComplete
  split
  · next x hx =>
    obtain rfl := h.symm.trans hx
    rfl
  · next hx =>
    obtain rfl := h.symm.trans hx
    rfl

/-- `s` once window `w` of function `f` is unmapped (R647). -/
def State.unmapped (s : State) (f w : Nat) : State :=
  s.onFn f (fun h => { h with windows := merase h.windows w, unmapping := h.unmapping.erase w })

theorem State.windows_unmapped {w : Nat} (h : f.val < s.host.fns.length) : ((s.unmapped f w).fn f).windows = merase (s.fn f).windows w :=
  congrArg HostFn.windows (State.fn_onFn_same h)

/-- UNMAP_WINDOW_COMPLETE completes the first UNMAP_WINDOW that waits no longer; its window goes (R647). -/
theorem exec_unmapWindowComplete {o : Option TakenItem} (h : (s.fn f).taken.find? (s.waited f 6) = o) :
    exec (.unmapWindowComplete f) s = .next (o.elim s fun x => (s.unmapped f (lgetD x.windows 0 0)).complete f x.id 0 0 0) := by
  show execUnmapWindowComplete f s = _
  unfold execUnmapWindowComplete
  split
  · next x hx =>
    obtain rfl := h.symm.trans hx
    rfl
  · next hx =>
    obtain rfl := h.symm.trans hx
    rfl

end

/-- Settles O55: each command by the branch of its rule that the item takes, each completion by what it leaves of queue and ring. -/
theorem itemsActAndComplete : Obligations.ItemsActAndComplete := by
  refine ⟨fun f c op s hc => ⟨fun hne => ?_, fun id i hu hm hcur hop ht hok => ?_⟩, fun f s id i hu hm hcur ht hok => ?_, fun f s h => ?_,
    fun f s h => ?_, fun f s l m x hu hm hta hcur hw hl => ?_, fun s h => ?_, fun s j hu hm hd hdone ht => ?_, fun s h => ?_, fun s j hu hm ha ht => ?_⟩
  · obtain ⟨only, act, hx⟩ := exec_eq_actItem (s := s) hc
    rw [hx, State.actItem_other hne]
  · obtain ⟨only, act, hx⟩ := exec_eq_actItem (s := s) hc
    have h : InHand s f id i := ⟨hu, hm, hcur, ht⟩
    exact ⟨_, hx.trans (congrArg Host.Outcome.next (h.bad hop hok)), h.current_complete, h.completed h.kept,
      State.complete_fr .descs rfl, State.complete_fr .movers rfl⟩
  · have h : InHand s f id i := ⟨hu, hm, hcur, ht⟩
    refine ⟨fun ho => ?_, h.exec_hostFence hok, fun ho hl => ⟨fun n hr hn => ?_, fun r hr => ?_⟩, fun ho => ⟨fun d hd hown hb hr => ?_, fun d hd hown hb => ?_,
      fun hd => ?_⟩, fun ho => ⟨fun hmv => ?_, h.moves hok ho⟩, fun ho => ⟨fun w => h.keepsMapped hok ho, fun hw => ?_⟩, h.exec_unmapWindow hok,
      fun ho hf => ⟨fun hl => ?_, fun hl => ?_⟩, fun ho hf => ?_, fun ho hf => ?_, fun ho hf => ?_⟩
    · exact ⟨_, h.exec_hostNop hok ho, h.current_complete, h.completed h.kept, State.complete_only (State.handed_fr.mono rfl) rfl⟩
    · obtain ⟨hcpl, hdescs, hcount⟩ := h.creates hl hr hn
      refine ⟨_, h.exec_descCreate hok ho, hcpl, State.freeDesc_lacks hn, ?_, fun m hne => ?_, hcount⟩ <;> rw [hdescs]
      · exact mget_mset_same _ _ _
      · exact mget_mset_ne _ _ _ hne
    · exact ⟨_, h.exec_descCreate hok ho, h.refuses hl hr⟩
    · exact ⟨_, h.exec_descDestroy hok ho, h.destroys hd hown hb hr⟩
    · exact ⟨_, h.exec_descDestroy hok ho, h.keepsBusy hd hown hb⟩
    · exact ⟨_, h.exec_descDestroy hok ho, h.keepsForeign hd⟩
    · exact ⟨_, (h.exec_hostMove hok ho).trans (congrArg Host.Outcome.next (State.hostMoveItem_refused (s := s.handed f) hmv)), h.completed h.kept,
        State.complete_fr .movers rfl⟩
    · obtain ⟨t, hx, hcpl, hwin⟩ := h.maps hok ho hw
      refine ⟨t, hx, hcpl, ?_, fun v hv => ?_⟩ <;> rw [hwin]
      · exact mget_mset_same _ _ _
      · exact mget_mset_ne _ _ _ hv
    · subst hf
      exact ⟨_, h.exec_hostDump_notReady hok ho hl, h.completed h.kept, State.dumps_complete h.kept.lt⟩
    · subst hf
      obtain ⟨t, j, hx, hdumps, hor, hstore⟩ := h.dumps hok ho hl
      simp only [dumpOrigin, State.dumpOf, Prod.mk.injEq] at hor
      obtain ⟨hid, hwin, hbeat, hepoch⟩ := hor
      exact ⟨t, j, hx, hdumps, hid, hwin, hbeat, hepoch, hstore⟩
    · subst hf
      exact ⟨_, congrArg Host.Outcome.next (h.denied ho hok ⟨rfl, by decide⟩), h.completed h.kept, State.dumps_complete h.kept.lt⟩
    · subst hf
      exact ⟨_, congrArg Host.Outcome.next (h.denied ho hok ⟨rfl, by decide⟩), h.completed h.kept, State.attests_complete h.kept.lt⟩
    · subst hf
      exact h.attests hok ho
  · exact exec_fenceComplete (State.find_waited_none h)
  · exact exec_unmapWindowComplete (State.find_waited_none h)
  · have hk : CplKept f s s := .refl hu hm
    have hid : ∃ y ∈ (s.fn f).taken, y.id = x.id := ⟨x, hta ▸ by simp, rfl⟩
    have hfind := State.find_waited hta hcur hw hl
    refine ⟨fun ho => ?_, fun w ho hwin hr => ?_⟩ <;> rw [ho] at hfind
    · exact ⟨_, exec_fenceComplete hfind, hk.completed hid, State.windows_complete hk.lt⟩
    · have hx : exec (.unmapWindowComplete f) s = .next ((s.unmapped f w).complete f x.id 0 0 0) := by
        rw [exec_unmapWindowComplete hfind, Option.elim_some, hwin]
        rfl
      have hku : CplKept f s (s.unmapped f w) := hk.onFn (fun _ => rfl)
      refine ⟨_, hx, hku.completed hid, ?_, fun v hv => ?_⟩ <;> rw [State.windows_complete hku.lt, State.windows_unmapped hk.lt]
      · exact mget_merase_same w hr
      · exact mget_merase_ne w hr hv
  · exact exec_dumpComplete_idle h
  · exact exec_dumpComplete_last hu hm hd hdone ht
  · show execAttestComplete s = _
    rw [execAttestComplete, h]
  · obtain ⟨hwritten, hunmapped⟩ := State.attestReport_completes hu hm ht
    exact ⟨_, exec_attestComplete_last ha, rfl, fun w hw hroom => (hwritten w hw hroom).imp (fun k => k.of_same rfl rfl rfl) id,
      fun hw => (hunmapped hw).imp (fun k => k.of_same rfl rfl rfl) id⟩

end Sys2Proof.Machine
end
